-- ==== Sys2Proof/Word.lean ====
section
/-! DEFINITION. The widths of the machine (R5, R97): bytes, 32-bit code words, 64-bit scalar
registers and addresses, and the plainest arithmetic over them. -/

namespace Sys2Proof

/-- A byte of memory. -/
abbrev Byte := BitVec 8

/-- A word of the code stream (R268), and the content of a vector register of one lane (R97). -/
abbrev Code := BitVec 32

/-- A scalar register, a virtual address, a counter. -/
abbrev Word := BitVec 64

/-- A value wide enough for every element and accumulate type (fx128 is the widest, R243). -/
abbrev Wide := BitVec 128

end Sys2Proof
end

