-- ==== Sys2Proof/Config.lean ====
section
/-! DEFINITION. What an implementation fixes, what the spec takes from outside itself, and the free
values. A constant without a body is opaque: nothing can be proved about its value. -/

namespace Sys2Proof.Config

/-- Cores of the package (R15). -/
def cores : Nat := 288

/-- Home slices of the package (R15). -/
def slices : Nat := 128

/-- Page-table walkers of the package (R15), 192 to a half: how many walks wait for one is timing (R28, R152), and the
model walks a table within one step (notes/assumptions/5.md). -/
def walkers : Nat := 384

/-- Contexts (R30). -/
def contexts : Nat := 64

/-- Sector links (R15). -/
def links : Nat := 18

/-- First byte above HBM (R145). -/
def hbmTop : Nat := 0xC000000000

/-- First byte of the range Tender withholds (R145, R36). -/
def withheld : Nat := 0xBFFC000000

/-- First address of the aperture space, B (R145). -/
def apertureBase : Nat := 0x8000000000000

/-- The scratchpad window (R350). -/
def spw : Word := 0xFFFFFFFFFFF00000

/-- The Megon level of the device (R195). -/
def mmlLevel : Nat := 1

/-- The stepping of the device, which a save area records (R94, R426). -/
opaque stepping : BitVec 32

/-- A fresh free byte: what a read beyond the device returns (host apertures, R435). -/
opaque freeByte : Nat → Byte

/-- The cycles for which a copy engine is busy with a copy (R468, counter 10), per copy. -/
opaque copyCycles : Nat → Nat

/-- The cycles for which a core waits for a page-table walker before a walk (R468, counter 14), by CLK, core, context
and address. -/
opaque walkerCycles : Nat → Nat → Nat → Nat → Nat

/-- A word of a page table that lies behind a host or Sector aperture (R40, R149), per use of the free values and
physical address. -/
opaque tableWord : Nat → Nat → Word

/-- Whether the Sector request for such a word fails (R439, R443), in the same terms. -/
opaque tableFails : Nat → Nat → Bool

/-- Whether a byte of an overlapping copy takes its new value (R377), per copy and byte. -/
opaque copyTakesNew : Nat → Nat → Bool

/-- What an uncorrectable error in a per-context structure leaves in a register of the context's control
block (R48), per error, register and old value. -/
opaque ctxDamage : Nat → Nat → Word → Word

/-- Who last wrote a word of a held line that is read from a save area, which does not record it (R429), per
line address and word: the place of the writer's log source in a list of four. -/
opaque savedSource : Nat → Nat → Fin 4

/-- The queue of a launch that is read from a save area, which does not record it (R94), per context and GRIDID. -/
opaque savedQueue : Nat → Nat → BitVec 8

/-- SHA-384 (R49, R162), taken from outside the spec. -/
opaque sha384 : List Byte → BitVec 384

/-- The RSASSA-PSS RSA-3072 verification of a firmware image (R49). -/
opaque rsaOk : List Byte → Bool

/-- The SLH-DSA-SHA2-256s verification of a firmware image (R49). -/
opaque slhOk : List Byte → Bool

/-- A key of that SHA-384 is one that the loader trusts, and under it an RSASSA-PSS RSA-3072 signature over a digest
verifies (R457, R458), per digest, key and signature. -/
opaque objectRsaOk : BitVec 384 → BitVec 384 → List Byte → Bool

/-- The same for an SLH-DSA-SHA2-256s signature (R457, R458). -/
opaque objectSlhOk : BitVec 384 → BitVec 384 → List Byte → Bool

/-- The security version of an image is at least the fused minimum (R49). -/
opaque versionOk : List Byte → Bool

/-- Whether the write of an image to flash succeeds (R51, reason 5). -/
opaque flashOk : List Byte → Bool

/-- The RSA-3072 signature of an identity record (R52). -/
opaque signRsa : List Byte → BitVec 3072

/-- The SLH-DSA-SHA2-256s signature of an identity record (R52). -/
opaque signSlh : List Byte → BitVec 238336

/-- The version and security version fields of the running firmware (R52). -/
opaque firmwareVersion : List Byte → BitVec 64

end Sys2Proof.Config
end

