-- ==== Sys2Proof/Syntax.lean ====
section
/-! DEFINITION. The syntax of the machine: every row of the opcode table is one constructor of
`Instr`. Code instructions (12 to 16), walk-code operations (R402) and the operations and events
that have no encoding (contexts, queues, engines, links, Lantern) are all instructions here. -/

namespace Sys2Proof

/-- A scalar register field, s0 to s63 (R280). -/
abbrev SReg := BitVec 6

/-- A walk register field, a0 to a7 (R401). -/
abbrev WReg := BitVec 3

/-- The type codes 0 to 18 of R286. -/
inductive ElemTy where
  | i8 | i16 | i32 | i64 | n8 | n16 | n32 | n64 | f16 | bf16 | f32 | f64 | e4m3 | e5m2 | fx128
  | i4 | e3m2 | e2m3 | e2m1
  deriving DecidableEq, Repr

/-- The accumulate type codes 0 to 6 of R196. -/
inductive AccTy where
  | i32 | i64 | n64 | fx128 | f32 | bf16x2 | vis
  deriving DecidableEq, Repr

/-- The operations of R196. -/
inductive AccOp where
  | add | min | max
  deriving DecidableEq, Repr

/-- The rounding codes 0 to 5 of R251. -/
inductive Rnd where
  | rne | rz | ru | rd | rna | rs
  deriving DecidableEq, Repr

/-- The ordering codes of an atomic (R356, R358). -/
inductive MemOrd where
  | none | rel | acq | ar
  deriving DecidableEq, Repr

/-- The condition codes 0 to 7 of R327 and R335 (`ord` and `uno` for floats only). -/
inductive Cond where
  | eq | ne | lt | le | gt | ge | ord | uno
  deriving DecidableEq, Repr

/-- The condition codes 0 to 5 of the walk operation `cmp` (R402). -/
inductive WalkCond where
  | eq | ne | ltN | geN | ltI | geI
  deriving DecidableEq, Repr

/-- The reduction codes 0 to 5 of R346. -/
inductive RedOp where
  | add | min | max | and | or | xor
  deriving DecidableEq, Repr

/-- The read-modify-write operations of R356 and R364 (`minS`, `maxS` signed, `minN`, `maxN` unsigned). -/
inductive AtomOp where
  | add | swap | and | or | xor | minS | minN | maxS | maxN | cas
  deriving DecidableEq, Repr

/-- The flag selection of a lane instruction (R277); code 3 is illegal. -/
inductive FlagSel where
  | none | a | b
  deriving DecidableEq, Repr

/-- The amount of a shift: the last source register, or an immediate (R325). -/
inductive ShiftAmt where
  | reg
  | imm (n : BitVec 6)
  deriving DecidableEq, Repr

/-- The fields of words 0 and 1 that every lane instruction has (R281). A field that the
instruction does not use is zero. -/
structure LaneOp where
  vd : BitVec 10
  va : BitVec 10
  vb : BitVec 10
  vc : BitVec 10
  guard : BitVec 5
  neg : Bool
  flag : FlagSel
  minw : BitVec 3
  deriving DecidableEq, Repr

/-- The modifier word of R285, less its spec field. -/
structure Mods where
  ty : ElemTy
  rnd : Rnd
  sat : Bool
  ftz : Bool
  deriving DecidableEq, Repr

/-- Word 2 of a memory lane instruction (R358), less its type code. -/
structure MemMods where
  off : BitVec 16
  flat : Bool
  ord : MemOrd
  yield : Bool
  scale : BitVec 2
  deriving DecidableEq, Repr

/-- A clause header (R270): the wait mask, set-flags A and B, the body length in words and the
two hints. -/
structure Header where
  wait : BitVec 12
  setA : Option (BitVec 4)
  setB : Option (BitVec 4)
  length : BitVec 10
  yield : Bool
  msplit : Bool
  deriving DecidableEq, Repr

/-- One level of a loop nest (R288): its extent and the stride fields of operands D, X and Y. -/
structure Level where
  extent : BitVec 16
  d : BitVec 10
  x : BitVec 10
  y : BitVec 10
  deriving DecidableEq, Repr

/-- A loop-nest instruction less its operation (R287). -/
structure Nest where
  sn : SReg
  l0 : Level
  l1 : Level
  l2 : Level
  l3 : Level
  l4 : Level
  queue : BitVec 3
  ty : ElemTy
  rnd : Rnd
  deriving DecidableEq, Repr

/-- The two PCI Express ports (R432). -/
inductive Port where
  | p0 | p1
  deriving DecidableEq, Repr

/-- The BARs that hold registers (R433). -/
inductive Bar where
  | bar0 | bar2
  deriving DecidableEq, Repr

/-- What a Sector request asks for (R438 to R441). -/
inductive RemoteKind where
  | read (len : Nat)
  | write (data : List Byte)
  | atomic (op : AtomOp) (w8 : Bool) (operand expected : Word) (rel acq : Bool)
  | accum (op : AccOp) (ty : AccTy) (value : Wide) (count : Nat)
  | get (acq : Bool)
  | add (addend : Word) (rel : Bool)
  | wait (target : Nat) (acq quad : Bool)
  | cancel (req : Nat)
  deriving DecidableEq, Repr

/-- A Sector request as it reaches the target device (R438). -/
structure RemoteReq where
  srcDev : BitVec 20
  srcCtx : BitVec 6
  tag : BitVec 16
  dstCtx : BitVec 6
  addr : Word
  id : Nat
  kind : RemoteKind
  deriving DecidableEq, Repr

/-- Why a Sector request was refused (R439). -/
inductive RefuseWhy where
  | tenant | window | other
  deriving DecidableEq, Repr

/-- The reply to a Sector request (R142, R439, R441). -/
inductive RemoteRep where
  | data (bytes : List Byte)
  | done
  | overflow
  | refused (why : RefuseWhy)
  | satisfied
  | regression
  | retry
  deriving DecidableEq, Repr

/-- Every row of the opcode table. The docstring of a constructor names the rule of its row. The
instructions that have an encoding come first, those without operands after the others, and the
operations and events without an encoding last. -/
inductive Instr where
  /-- R299. Adds two scalar registers in each quad of the gang. -/
  | sadd (sd sa sb : SReg)
  /-- R299. Subtracts one scalar register from another in each quad. -/
  | ssub (sd sa sb : SReg)
  /-- R299. Writes the low 64 bits of a scalar product. -/
  | smul (sd sa sb : SReg)
  /-- R299. Writes the high 64 bits of a signed 128-bit scalar product. -/
  | smulhI64 (sd sa sb : SReg)
  /-- R299. Writes the high 64 bits of an unsigned 128-bit scalar product. -/
  | smulhN64 (sd sa sb : SReg)
  /-- R299. Bitwise AND of two scalar registers. -/
  | sand (sd sa sb : SReg)
  /-- R299. Bitwise OR of two scalar registers. -/
  | sor (sd sa sb : SReg)
  /-- R299. Bitwise XOR of two scalar registers. -/
  | sxor (sd sa sb : SReg)
  /-- R299. Shifts a scalar left by the low six bits of another. -/
  | sshl (sd sa sb : SReg)
  /-- R299. Shifts a scalar right logically by a register amount. -/
  | sshrN64 (sd sa sb : SReg)
  /-- R299. Shifts a scalar right arithmetically by a register amount. -/
  | sshrI64 (sd sa sb : SReg)
  /-- R299. Writes the signed lesser of two scalars. -/
  | sminI64 (sd sa sb : SReg)
  /-- R299. Writes the unsigned lesser of two scalars. -/
  | sminN64 (sd sa sb : SReg)
  /-- R299. Writes the signed greater of two scalars. -/
  | smaxI64 (sd sa sb : SReg)
  /-- R299. Writes the unsigned greater of two scalars. -/
  | smaxN64 (sd sa sb : SReg)
  /-- R300. Signed scalar division that truncates towards zero and never faults. -/
  | sdivI64 (sd sa sb : SReg)
  /-- R300. Unsigned scalar division that never faults. -/
  | sdivN64 (sd sa sb : SReg)
  /-- R300. Signed scalar remainder. -/
  | sremI64 (sd sa sb : SReg)
  /-- R300. Unsigned scalar remainder. -/
  | sremN64 (sd sa sb : SReg)
  /-- R299. Counts the 1 bits of a scalar. -/
  | spopc (sd sa : SReg)
  /-- R299. Counts the leading zero bits of a scalar. -/
  | sclz (sd sa : SReg)
  /-- R299. Counts the trailing zero bits of a scalar. -/
  | sctz (sd sa : SReg)
  /-- R301. Adds a sign-extended 12-bit immediate to a scalar. -/
  | saddi (sd sa : SReg) (imm : BitVec 12)
  /-- R301. ANDs a scalar with an immediate. -/
  | sandi (sd sa : SReg) (imm : BitVec 12)
  /-- R301. ORs a scalar with an immediate. -/
  | sori (sd sa : SReg) (imm : BitVec 12)
  /-- R301. XORs a scalar with an immediate. -/
  | sxori (sd sa : SReg) (imm : BitVec 12)
  /-- R301. Shifts a scalar left by an immediate amount. -/
  | sshli (sd sa : SReg) (n : BitVec 6)
  /-- R301. Shifts a scalar right logically by an immediate amount. -/
  | sshriN64 (sd sa : SReg) (n : BitVec 6)
  /-- R301. Shifts a scalar right arithmetically by an immediate amount. -/
  | sshriI64 (sd sa : SReg) (n : BitVec 6)
  /-- R302. Writes 1 when two scalars are equal, else 0. -/
  | scmpEq (sd sa sb : SReg)
  /-- R302. Writes 1 when two scalars differ. -/
  | scmpNe (sd sa sb : SReg)
  /-- R302. Signed less-than scalar compare. -/
  | scmpI64Lt (sd sa sb : SReg)
  /-- R302. Signed greater-or-equal scalar compare. -/
  | scmpI64Ge (sd sa sb : SReg)
  /-- R302. Unsigned less-than scalar compare. -/
  | scmpN64Lt (sd sa sb : SReg)
  /-- R302. Unsigned greater-or-equal scalar compare. -/
  | scmpN64Ge (sd sa sb : SReg)
  /-- R302. Selects one of two scalars by a third. -/
  | ssel (sd sa sb sc : SReg)
  /-- R301. Loads a sign-extended 12-bit immediate into a scalar. -/
  | sli (sd : SReg) (imm : BitVec 12)
  /-- R280. Writes a sign-extended 20-bit immediate shifted left by 12. -/
  | slui (sd : SReg) (imm : BitVec 20)
  /-- R280. Writes the PC plus a shifted 20-bit immediate. -/
  | spcui (sd : SReg) (imm : BitVec 20)
  /-- R303. Reads a special register into a scalar. -/
  | sgetr (sd : SReg) (num : BitVec 6)
  /-- R303. Reads the PC of an indexed quad of the wave. -/
  | sgetrQpc (sd : SReg) (idx : BitVec 6)
  /-- R303. Writes a special register from a scalar. -/
  | ssetr (sa : SReg) (num : BitVec 6)
  /-- R307. Unconditional PC-relative branch. -/
  | b (off : BitVec 20)
  /-- R307. Branch taken in quads whose execute mask is zero. -/
  | bmz (off : BitVec 20)
  /-- R307. Branch taken in quads whose execute mask is non-zero. -/
  | bmnz (off : BitVec 20)
  /-- R307. Branch taken in quads whose execute mask is 0xF. -/
  | bmall (off : BitVec 20)
  /-- R307. Branch taken in quads whose execute mask is not 0xF. -/
  | bmnall (off : BitVec 20)
  /-- R307. PC-relative call that writes the return address to s63. -/
  | bcall (off : BitVec 20)
  /-- R307. Branch to the address in a scalar register. -/
  | bjr (sa : SReg)
  /-- R307. Call through a register, writing the link to sd. -/
  | bcallr (sd sa : SReg)
  /-- R307. Branch taken when a scalar is zero. -/
  | bz (sa : SReg) (imm : BitVec 12)
  /-- R307. Branch taken when a scalar is non-zero. -/
  | bnz (sa : SReg) (imm : BitVec 12)
  /-- R311. Raises the software trap with a 12-bit code in every quad of the gang. -/
  | trap (imm : BitVec 12)
  /-- R355. Loads 8 bytes into a scalar register. -/
  | sldN64 (sd sa : SReg) (imm : BitVec 12)
  /-- R355. Loads 4 bytes zero-extended into a scalar. -/
  | sldN32 (sd sa : SReg) (imm : BitVec 12)
  /-- R355. Loads 4 bytes sign-extended into a scalar. -/
  | sldI32 (sd sa : SReg) (imm : BitVec 12)
  /-- R355. Stores 8 bytes from a scalar. -/
  | sstN64 (sd sa : SReg) (imm : BitVec 12)
  /-- R355. Stores the low 4 bytes of a scalar. -/
  | sstN32 (sd sa : SReg) (imm : BitVec 12)
  /-- R143. Loads 8 bytes and puts the gang into polling back-off. -/
  | sldN64Yield (sd sa : SReg) (imm : BitVec 12)
  /-- R356. 64-bit atomic add that returns the old value. -/
  | satomAdd (sd sa sb : SReg) (ord : MemOrd)
  /-- R356. 64-bit atomic swap. -/
  | satomSwap (sd sa sb : SReg) (ord : MemOrd)
  /-- R356. 64-bit atomic AND. -/
  | satomAnd (sd sa sb : SReg) (ord : MemOrd)
  /-- R356. 64-bit atomic OR. -/
  | satomOr (sd sa sb : SReg) (ord : MemOrd)
  /-- R356. 64-bit atomic XOR. -/
  | satomXor (sd sa sb : SReg) (ord : MemOrd)
  /-- R356. 64-bit atomic signed minimum. -/
  | satomMinI64 (sd sa sb : SReg) (ord : MemOrd)
  /-- R356. 64-bit atomic unsigned minimum. -/
  | satomMinN64 (sd sa sb : SReg) (ord : MemOrd)
  /-- R356. 64-bit atomic signed maximum. -/
  | satomMaxI64 (sd sa sb : SReg) (ord : MemOrd)
  /-- R356. 64-bit atomic unsigned maximum. -/
  | satomMaxN64 (sd sa sb : SReg) (ord : MemOrd)
  /-- R356. 64-bit atomic compare-and-swap. -/
  | satomCas (sd sa sb : SReg) (ord : MemOrd)
  /-- R357. Zeroes a 128-byte line into the zero state. -/
  | dzero (sa : SReg) (imm : BitVec 12)
  /-- R357. Prefetches a line into L2 without faulting. -/
  | spfL2 (sa : SReg) (imm : BitVec 12)
  /-- R357. Prefetches a line into L2 and L1 without faulting. -/
  | spfL1 (sa : SReg) (imm : BitVec 12)
  /-- R367. Adds to a counter without ordering and restarts WDOG. -/
  | cadd (sa sb : SReg)
  /-- R367. Adds to a counter with release, draining residuals first. -/
  | caddRel (sa sb : SReg)
  /-- R374. Places markers at the tails of the named engine queues. -/
  | qfence (mask : BitVec 8)
  /-- R367. Reads a counter. -/
  | cget (sd sa : SReg)
  /-- R367. Reads a counter with acquire. -/
  | cgetAcq (sd sa : SReg)
  /-- R367. Reads the team counter. -/
  | cgetTeam (sd : SReg)
  /-- R368. Waits until a counter reaches a target, trapping on timeout or regression. -/
  | cwait (sa sb : SReg) (acq : Bool)
  /-- R368. Waits on a counter and writes the release status to a scalar. -/
  | cwaitSt (sd sa sb : SReg) (acq : Bool)
  /-- R371. Loads a ring handle from a ring descriptor. -/
  | kset (k sa : SReg)
  /-- R371. Adds 1 to a ring's filled counter with release. -/
  | kfill (k : SReg)
  /-- R371. Adds 1 to a ring's freed counter with release. -/
  | kfree (k : SReg)
  /-- R372. Waits with acquire until a ring slot is free, trapping on timeout. -/
  | kwaitFree (k sb : SReg)
  /-- R372. Waits with acquire until a ring slot is filled, trapping on timeout. -/
  | kwaitFull (k sb : SReg)
  /-- R372. Waits for a free ring slot and writes the status. -/
  | kwaitFreeSt (sd k sb : SReg)
  /-- R372. Waits for a filled ring slot and writes the status. -/
  | kwaitFullSt (sd k sb : SReg)
  /-- R376. Reads and checks a copy control block and places a copy in an engine queue. -/
  | cpy (sa : SReg) (q : BitVec 3)
  /-- R373. Places an engine wait on a counter in an engine queue. -/
  | qwait (sa sb : SReg) (q : BitVec 3)
  /-- R373. Places an engine add with release in an engine queue. -/
  | qadd (sa sb : SReg) (q : BitVec 3)
  /-- R384. Writes the matrix operand types into FMT. -/
  | sfmt (ta tb : BitVec 5)
  /-- R408. Opens the quad's stamp at a checked address. -/
  | sstampOpen (sa : SReg)
  /-- R270. Checks a clause header and holds the gang until its wait flags are zero. -/
  | clauseHeader (h : Header)
  /-- R325. Integer vector add. -/
  | vaddInt (o : LaneOp) (m : Mods)
  /-- R325. Integer vector subtract. -/
  | vsubInt (o : LaneOp) (m : Mods)
  /-- R325. Integer vector multiply. -/
  | vmulInt (o : LaneOp) (m : Mods)
  /-- R325. Upper half of an integer vector product. -/
  | vmulh (o : LaneOp) (m : Mods)
  /-- R325. Integer vector multiply-add. -/
  | vmad (o : LaneOp) (m : Mods)
  /-- R325. Integer vector minimum. -/
  | vminInt (o : LaneOp) (m : Mods)
  /-- R325. Integer vector maximum. -/
  | vmaxInt (o : LaneOp) (m : Mods)
  /-- R325. Integer vector absolute value. -/
  | vabsInt (o : LaneOp) (m : Mods)
  /-- R325. Vector bitwise AND. -/
  | vand (o : LaneOp) (m : Mods)
  /-- R325. Vector bitwise OR. -/
  | vor (o : LaneOp) (m : Mods)
  /-- R325. Vector bitwise XOR. -/
  | vxor (o : LaneOp) (m : Mods)
  /-- R325. Vector bitwise NOT. -/
  | vnot (o : LaneOp) (m : Mods)
  /-- R325. Vector shift left. -/
  | vshl (o : LaneOp) (m : Mods) (amt : ShiftAmt)
  /-- R325. Vector shift right. -/
  | vshr (o : LaneOp) (m : Mods) (amt : ShiftAmt)
  /-- R329. Requantising rounding shift with saturation. -/
  | vrshr (o : LaneOp) (m : Mods) (src64 : Bool) (amt : ShiftAmt)
  /-- R325. Vector population count. -/
  | vpopc (o : LaneOp) (m : Mods)
  /-- R325. Vector count of leading zeros. -/
  | vclz (o : LaneOp) (m : Mods)
  /-- R326. Vector bit-field extract. -/
  | vbfe (o : LaneOp) (m : Mods) (p n : BitVec 5)
  /-- R327. Integer vector compare into a predicate. -/
  | vcmpInt (o : LaneOp) (m : Mods) (cc : Cond)
  /-- R327. Vector select by predicate. -/
  | vsel (o : LaneOp) (m : Mods)
  /-- R328. Four-way byte dot product with accumulate. -/
  | vdot4 (o : LaneOp) (m : Mods)
  /-- R330. 32-bit vector add of an immediate. -/
  | vaddIntImm (o : LaneOp) (imm : BitVec 32)
  /-- R330. 32-bit vector multiply by an immediate. -/
  | vmulIntImm (o : LaneOp) (imm : BitVec 32)
  /-- R330. Vector AND with an immediate. -/
  | vandImm (o : LaneOp) (imm : BitVec 32)
  /-- R330. Vector OR with an immediate. -/
  | vorImm (o : LaneOp) (imm : BitVec 32)
  /-- R330. Vector XOR with an immediate. -/
  | vxorImm (o : LaneOp) (imm : BitVec 32)
  /-- R330. 32-bit vector compare with an immediate. -/
  | vcmpIntImm (o : LaneOp) (cc : Cond) (uns : Bool) (imm : BitVec 32)
  /-- R330. Moves an immediate into a vector register. -/
  | vmovImm (o : LaneOp) (imm : BitVec 32)
  /-- R331. Floating-point vector add. -/
  | vaddFp (o : LaneOp) (m : Mods)
  /-- R331. Floating-point vector subtract. -/
  | vsubFp (o : LaneOp) (m : Mods)
  /-- R331. Floating-point vector multiply. -/
  | vmulFp (o : LaneOp) (m : Mods)
  /-- R331. Fused multiply-add. -/
  | vfma (o : LaneOp) (m : Mods)
  /-- R331. Fused negated multiply-add. -/
  | vfnma (o : LaneOp) (m : Mods)
  /-- R332. Floating-point minimum. -/
  | vminFp (o : LaneOp) (m : Mods)
  /-- R332. Floating-point maximum. -/
  | vmaxFp (o : LaneOp) (m : Mods)
  /-- R331. Clears the sign bit. -/
  | vabsFp (o : LaneOp) (m : Mods)
  /-- R331. Inverts the sign bit. -/
  | vneg (o : LaneOp) (m : Mods)
  /-- R331. Copies the sign of one operand onto another. -/
  | vcopysign (o : LaneOp) (m : Mods)
  /-- R333. Correctly rounded division. -/
  | vdiv (o : LaneOp) (m : Mods)
  /-- R333. Correctly rounded square root. -/
  | vsqrt (o : LaneOp) (m : Mods)
  /-- R333. Correctly rounded reciprocal. -/
  | vrcp (o : LaneOp) (m : Mods)
  /-- R333. Correctly rounded reciprocal square root. -/
  | vrsqrt (o : LaneOp) (m : Mods)
  /-- R334. Rounds to an integral value. -/
  | vrint (o : LaneOp) (m : Mods)
  /-- R332. Clamps to the range from +0 to 1. -/
  | vclip (o : LaneOp) (m : Mods)
  /-- R332. Clamps between two operands. -/
  | vclamp (o : LaneOp) (m : Mods)
  /-- R332. Returns the sign as plus or minus one. -/
  | vsign (o : LaneOp) (m : Mods)
  /-- R335. Floating-point compare into a predicate. -/
  | vcmpFp (o : LaneOp) (m : Mods) (cc : Cond)
  /-- R335. Writes a one-hot class mask. -/
  | vclass (o : LaneOp) (m : Mods)
  /-- R331. Scales by a power of two. -/
  | vldexp (o : LaneOp) (m : Mods)
  /-- R336. Extracts the exponent as i32. -/
  | vgetexp (o : LaneOp) (m : Mods)
  /-- R331. Linear interpolation with one rounding. -/
  | vlerp (o : LaneOp) (m : Mods)
  /-- R337. Base-2 exponential. -/
  | vexp2 (o : LaneOp) (m : Mods)
  /-- R337. Base-2 logarithm. -/
  | vlog2 (o : LaneOp) (m : Mods)
  /-- R337. Sine of pi times the operand. -/
  | vsinpi (o : LaneOp) (m : Mods)
  /-- R337. Cosine of pi times the operand. -/
  | vcospi (o : LaneOp) (m : Mods)
  /-- R338. FP32 add of an immediate. -/
  | vaddF32Imm (o : LaneOp) (imm : BitVec 32)
  /-- R338. FP32 multiply by an immediate. -/
  | vmulF32Imm (o : LaneOp) (imm : BitVec 32)
  /-- R338. FP32 fused multiply-add with an immediate. -/
  | vfmaF32Imm (o : LaneOp) (imm : BitVec 32)
  /-- R338. FP32 maximum with an immediate. -/
  | vmaxF32Imm (o : LaneOp) (imm : BitVec 32)
  /-- R338. FP32 compare with an immediate. -/
  | vcmpF32Imm (o : LaneOp) (cc : Cond) (imm : BitVec 32)
  /-- R339. Converts one element between types. -/
  | vcvt (o : LaneOp) (m : Mods) (src : ElemTy) (si di : BitVec 3)
  /-- R341. Packs narrow elements from several registers. -/
  | vpack (o : LaneOp) (m : Mods)
  /-- R341. Unpacks narrow elements into several registers. -/
  | vunpack (o : LaneOp) (m : Mods)
  /-- R343. Converts two f32 values into a packed 16-bit pair. -/
  | vcvt2 (o : LaneOp) (m : Mods)
  /-- R342. Packed 16-bit add. -/
  | vadd2 (o : LaneOp) (m : Mods)
  /-- R342. Packed 16-bit subtract. -/
  | vsub2 (o : LaneOp) (m : Mods)
  /-- R342. Packed 16-bit multiply. -/
  | vmul2 (o : LaneOp) (m : Mods)
  /-- R342. Packed 16-bit fused multiply-add. -/
  | vfma2 (o : LaneOp) (m : Mods)
  /-- R342. Packed 16-bit minimum. -/
  | vmin2 (o : LaneOp) (m : Mods)
  /-- R342. Packed 16-bit maximum. -/
  | vmax2 (o : LaneOp) (m : Mods)
  /-- R343. Two-way packed 16-bit dot product. -/
  | vdot2 (o : LaneOp) (m : Mods)
  /-- R342. Packed 16-bit shift left. -/
  | vshl2 (o : LaneOp) (m : Mods) (amt : ShiftAmt)
  /-- R342. Packed 16-bit shift right. -/
  | vshr2 (o : LaneOp) (m : Mods) (amt : ShiftAmt)
  /-- R343. Selects halves from two operands. -/
  | vhsel (o : LaneOp) (h0 h1 : BitVec 2)
  /-- R345. Reduces over the active lanes of each span. -/
  | vred (o : LaneOp) (m : Mods) (op : RedOp)
  /-- R345. Prefix scan over the active lanes of each span. -/
  | vscan (o : LaneOp) (m : Mods) (op : RedOp) (excl : Bool)
  /-- R345. Shuffles lanes by index. -/
  | vshuf (o : LaneOp)
  /-- R345. Broadcasts one lane's value. -/
  | vbcast (o : LaneOp) (n : BitVec 6)
  /-- R345. Rotates values across the span. -/
  | vrot (o : LaneOp) (n : BitVec 6)
  /-- R345. Swizzles lanes within each quad. -/
  | vqswz (o : LaneOp) (q0 q1 q2 q3 : BitVec 2)
  /-- R345. Writes a predicate ballot into a scalar. -/
  | vballot (o : LaneOp)
  /-- R345. Counts earlier active lanes with the predicate set. -/
  | vcount (o : LaneOp)
  /-- R345. Finds the first active lane with the predicate set. -/
  | vfind (o : LaneOp)
  /-- R347. Reserves queue slots with one atomic add per span and ranks the lanes. -/
  | vappend (o : LaneOp) (off : BitVec 32)
  /-- R315. Predicate AND. -/
  | pand (o : LaneOp)
  /-- R315. Predicate OR. -/
  | por (o : LaneOp)
  /-- R315. Predicate XOR. -/
  | pxor (o : LaneOp)
  /-- R315. Predicate AND NOT. -/
  | pandn (o : LaneOp)
  /-- R315. Predicate NOT. -/
  | pnot (o : LaneOp)
  /-- R315. Sets a predicate from an immediate. -/
  | pset (o : LaneOp) (bit : Bool)
  /-- R315. Sets predicates from bits of a scalar. -/
  | pfroms (o : LaneOp)
  /-- R315. Writes a quad's predicate bits into a scalar. -/
  | ptos (o : LaneOp)
  /-- R316. ANDs the execute mask with a predicate. -/
  | pmand (o : LaneOp)
  /-- R316. ANDs the execute mask with a negated predicate. -/
  | pmandn (o : LaneOp)
  /-- R316. ORs the execute mask with a predicate. -/
  | pmor (o : LaneOp)
  /-- R316. Sets the execute mask from a scalar. -/
  | pmset (o : LaneOp)
  /-- R316. Writes the execute mask into a scalar. -/
  | pmtos (o : LaneOp)
  /-- R315. Copies the execute mask into a predicate. -/
  | pmtop (o : LaneOp)
  /-- R106. Sets a join register's expected lanes from the execute mask. -/
  | jset (o : LaneOp)
  /-- R106. Marks the arriving lanes in a join register. -/
  | jarr (o : LaneOp)
  /-- R106. Removes lanes from a join register's expected set. -/
  | jdrop (o : LaneOp)
  /-- R107. Parks the quad at a join until the arrived set is released. -/
  | jwait (o : LaneOp)
  /-- R318. Stores each quad's join slice to a 16-byte image. -/
  | jst (o : LaneOp) (off : BitVec 32)
  /-- R318. Loads each quad's join slice from a 16-byte image. -/
  | jld (o : LaneOp) (off : BitVec 32)
  /-- R361. Vector load per active lane. -/
  | vld (o : LaneOp) (ty : ElemTy) (m : MemMods)
  /-- R361. Vector store per active lane. -/
  | vst (o : LaneOp) (ty : ElemTy) (m : MemMods)
  /-- R361. Vector load from scratchpad. -/
  | vlds (o : LaneOp) (ty : ElemTy) (m : MemMods)
  /-- R361. Vector store to scratchpad. -/
  | vsts (o : LaneOp) (ty : ElemTy) (m : MemMods)
  /-- R361. Per-lane prefetch without faults. -/
  | vpf (o : LaneOp) (m : MemMods)
  /-- R364. Per-lane returning atomic add. -/
  | vatomAdd (o : LaneOp) (ty : ElemTy) (m : MemMods)
  /-- R364. Per-lane returning atomic swap. -/
  | vatomSwap (o : LaneOp) (ty : ElemTy) (m : MemMods)
  /-- R364. Per-lane returning atomic AND. -/
  | vatomAnd (o : LaneOp) (ty : ElemTy) (m : MemMods)
  /-- R364. Per-lane returning atomic OR. -/
  | vatomOr (o : LaneOp) (ty : ElemTy) (m : MemMods)
  /-- R364. Per-lane returning atomic XOR. -/
  | vatomXor (o : LaneOp) (ty : ElemTy) (m : MemMods)
  /-- R364. Per-lane returning atomic minimum. -/
  | vatomMin (o : LaneOp) (ty : ElemTy) (m : MemMods)
  /-- R364. Per-lane returning atomic maximum. -/
  | vatomMax (o : LaneOp) (ty : ElemTy) (m : MemMods)
  /-- R364. Per-lane returning compare-and-swap. -/
  | vatomCas (o : LaneOp) (ty : ElemTy) (m : MemMods)
  /-- R365. Combines lane addends and sends add accumulates to their home slices. -/
  | vaccAdd (o : LaneOp) (ty : AccTy) (m : MemMods)
  /-- R365. Sends min accumulates to home slices. -/
  | vaccMin (o : LaneOp) (ty : AccTy) (m : MemMods)
  /-- R365. Sends max accumulates to home slices. -/
  | vaccMax (o : LaneOp) (ty : AccTy) (m : MemMods)
  /-- R366. Starts a drain of the team's residuals and waits for it. -/
  | rflush (o : LaneOp)
  /-- R389. Dense 16x16 matrix multiply-accumulate per span. -/
  | mma (o : LaneOp) (reuse scl : Bool)
  /-- R393. 4-in-8 sparse matrix multiply-accumulate with metadata checks. -/
  | mmas (o : LaneOp) (reuse scl : Bool) (vm : BitVec 10)
  /-- R392. Prunes groups of eight to four and writes metadata. -/
  | vspk (o : LaneOp) (ty : ElemTy)
  /-- R395. Claims ray-state records and starts walks per active lane. -/
  | wstart (o : LaneOp)
  /-- R395. Claims and continues yielded, faulted or saved walks. -/
  | wresume (o : LaneOp)
  /-- R398. Point-sampled texture fetch on level 0. -/
  | texPoint (o : LaneOp)
  /-- R398. Bilinear texture sample on level 0. -/
  | texBilinear (o : LaneOp)
  /-- R399. Trilinear texture sample between two levels. -/
  | texTrilinear (o : LaneOp)
  /-- R398. Gathers channel 0 of four texels. -/
  | texGather (o : LaneOp)
  /-- R398. Fetches one unwrapped texel of a level. -/
  | texf (o : LaneOp)
  /-- R398. Returns the size of a texture level. -/
  | texsz (o : LaneOp)
  /-- R379. Places an elementwise loop-nest copy in an engine queue. -/
  | lnestCopy (n : Nest)
  /-- R379. Places an elementwise loop-nest add. -/
  | lnestAdd (n : Nest)
  /-- R379. Places an elementwise loop-nest subtract. -/
  | lnestSub (n : Nest)
  /-- R379. Places an elementwise loop-nest multiply. -/
  | lnestMul (n : Nest)
  /-- R379. Places an elementwise loop-nest fused multiply-add. -/
  | lnestFma (n : Nest)
  /-- R379. Places an elementwise loop-nest minimum. -/
  | lnestMin (n : Nest)
  /-- R379. Places an elementwise loop-nest maximum. -/
  | lnestMax (n : Nest)
  /-- R379. Places a loop-nest sum reduction. -/
  | lnestSum (n : Nest)
  /-- R379. Places a loop-nest dot-product reduction. -/
  | lnestDot (n : Nest)
  /-- R379. Places a loop-nest maximum reduction. -/
  | lnestRmax (n : Nest)
  /-- R379. Places a loop-nest minimum reduction. -/
  | lnestRmin (n : Nest)
  /-- R403. Loads a node into the node buffer. -/
  | walkFetch (a : WReg)
  /-- R402. Loads a node-buffer field into a walk register. -/
  | walkFld (d : WReg) (sx : Bool) (s : BitVec 2) (off : BitVec 8)
  /-- R402. Computes a child's address under the layout. -/
  | walkChild (d a : WReg)
  /-- R404. Tests four child boxes against the ray. -/
  | walkBox4 (d a : WReg)
  /-- R405. Tests one leaf triangle against the ray. -/
  | walkTri (d a b : WReg)
  /-- R402. Commits a hit and lowers tmax. -/
  | walkCommit (a b : WReg)
  /-- R406. Tests a screen tile against three edges. -/
  | walkEdge3 (d a : WReg) (lg : BitVec 3)
  /-- R407. Emits a coverage entry through a slot ring. -/
  | walkEmitRing (a : WReg) (n : BitVec 4)
  /-- R407. Sends visibility-key min accumulates for covered pixels. -/
  | walkEmitVis (a : WReg)
  /-- R402. Pushes a walk register onto the walk stack. -/
  | walkPush (a : WReg)
  /-- R402. Pops the walk stack into a register. -/
  | walkPop (d : WReg)
  /-- R402. Adds two walk registers. -/
  | walkAdd (d a b : WReg)
  /-- R402. Adds an immediate to a walk register. -/
  | walkAddi (d a : WReg) (imm : BitVec 17)
  /-- R402. Subtracts two walk registers. -/
  | walkSub (d a b : WReg)
  /-- R402. ANDs two walk registers. -/
  | walkAnd (d a b : WReg)
  /-- R402. Shifts a walk register left. -/
  | walkShl (d a : WReg) (n : BitVec 6)
  /-- R402. Shifts a walk register right logically. -/
  | walkShr (d a : WReg) (n : BitVec 6)
  /-- R402. Compares two walk registers. -/
  | walkCmp (d a b : WReg) (c : WalkCond)
  /-- R402. Loads an immediate into a walk register. -/
  | walkMovi (d : WReg) (imm : BitVec 17)
  /-- R402. Jumps to a walk-code word. -/
  | walkJmp (l : BitVec 8)
  /-- R402. Jumps when a walk register is zero. -/
  | walkJz (a : WReg) (l : BitVec 8)
  /-- R402. Jumps when a walk register is non-zero. -/
  | walkJnz (a : WReg) (l : BitVec 8)
  /-- R310. Does nothing. -/
  | snop
  /-- R310. Restarts the wave's watchdog count. -/
  | snopProgress
  /-- R310. Ends the issuing quads with a release and a residual drain. -/
  | exit
  /-- R313. Leaves the trap handler and resumes at TRAPPC. -/
  | tret
  /-- R312. Leaves the handler, parks the quad and faults the context. -/
  | tretDecline
  /-- R369. Adds to the team counter with release and waits for the barrier target. -/
  | bar
  /-- R370. Performs the release steps so later atomics act as releases. -/
  | fenceRel
  /-- R370. Performs the acquire promotion steps for earlier atomics. -/
  | fenceAcq
  /-- R370. Performs acquire then release fence effects. -/
  | fenceAr
  /-- R193. Drops the core's instruction lines for the context. -/
  | ifence
  /-- R391. Frees the quarter's A-latch. -/
  | mrel
  /-- R408. Stores the 64-byte stamp record and closes the stamp. -/
  | sstampClose
  /-- R402. Ends the walk in state done and writes the record. -/
  | walkDone
  /-- R402. Ends the walk in state yielded with the record written. -/
  | walkYield
  /-- R224. A walk that reaches 1,048,576 operations faults with cause step limit. -/
  | walkStepLimit (core slot : Nat)
  /-- R34. Moves a destroyed context to created with reset configuration. -/
  | ctxcmdCreate (port : Port) (ctx : BitVec 6)
  /-- R36. Runs the bind checks and starts attaching queues or sets result 3 or 4. -/
  | ctxcmdBind (port : Port) (ctx : BitVec 6)
  /-- R55. The bind finishes: queue and remote window tables read, context bound. -/
  | bindComplete (ctx : BitVec 6)
  /-- R34. Starts queue arbitration, restoring a saved context first. -/
  | ctxcmdRun (port : Port) (ctx : BitVec 6)
  /-- R423. Moves a running context to quiescing and starts the drain window. -/
  | ctxcmdQuiesce (port : Port) (ctx : BitVec 6)
  /-- R37. Starts the reset sequence of the context. -/
  | ctxcmdReset (port : Port) (ctx : BitVec 6)
  /-- R34. The reset sequence ends and the context returns to bound with tables re-read. -/
  | resetSequenceComplete (ctx : BitVec 6)
  /-- R39. Starts the destroy sequence of the context. -/
  | ctxcmdDestroy (port : Port) (ctx : BitVec 6)
  /-- R39. The destroy sequence ends and the context is destroyed. -/
  | destroySequenceComplete (ctx : BitVec 6)
  /-- R31. Reassigns a destroyed context's owning port or records the refusal. -/
  | owncmd (port : Port) (val : Word)
  /-- R156. Starts dropping cached translations of a range in every core. -/
  | ctxinv (port : Port) (ctx : BitVec 6) (val : Word)
  /-- R156. Bound lines in range are written back and pend falls to 0. -/
  | ctxinvComplete (ctx : BitVec 6)
  /-- R32. Returns the context state and clears the lost count. -/
  | ctxstateRead (port : Port) (ctx : BitVec 6)
  /-- R33. Writes a device or context register that has no row of its own, subject to state and ownership checks. -/
  | registerWrite (port : Port) (bar : Bar) (off : BitVec 24) (val : Word)
  /-- R470. Clears every stall counter of the selected core for the context. -/
  | lnclr (port : Port) (ctx : BitVec 6) (val : Word)
  /-- R467. Returns Lantern status and clears the refused count. -/
  | lnstatRead (port : Port) (ctx : BitVec 6)
  /-- R122. Writes a parked quad's PC or em, or refuses and counts the write. -/
  | lanternQuadWrite (port : Port) (ctx : BitVec 6) (n : BitVec 4) (gm : Bool) (val : Word)
  /-- R445. Enables a Sector link, moving it from disabled to down. -/
  | lnkctlEnSet (port : Port) (n : Nat)
  /-- R445. Disables a Sector link and fails its outstanding requests. -/
  | lnkctlEnClear (port : Port) (n : Nat)
  /-- R51. Starts verification of a recovery image. -/
  | rcvcmdGo
  /-- R51. The recovery image is accepted and written to flash, or rejected with a reason. -/
  | recoveryVerifyComplete
  /-- R49. Resets the device and starts firmware verification. -/
  | deviceReset
  /-- R49. Firmware is started and control blocks opened, or only the recovery window is exposed. -/
  | firmwareVerifyComplete
  /-- R52. Tender returns the signed device identity record. -/
  | attestationRequest (port : Port) (nonce : BitVec 384)
  /-- R434. A host read of device memory, performed when the port owns a bound window holding the frame. -/
  | hostBar4Read (port : Port) (addr : BitVec 40) (len : Nat)
  /-- R191. A host posted write to device memory, performed in port order. -/
  | hostPostedWrite (port : Port) (addr : BitVec 40) (data : List (BitVec 8)) (relaxed : Bool)
  /-- R434. A host 64-bit FetchAdd on a device counter. -/
  | hostFetchadd (port : Port) (addr : BitVec 40) (addend : Word)
  /-- R25. At 1,900 W Tender lowers the arithmetic clock by 100 MHz. -/
  | clockStepDown
  /-- R25. Below 1,850 W Tender raises the arithmetic clock by one step. -/
  | clockStepUp
  /-- R48. Resets every bound-or-later context, logs 0x0009 and reports to both ports. -/
  | deviceWideUncorrectableError
  /-- R160. A home slice detects an uncorrectable error and poisons the line. -/
  | linePoisonDetect (line : Nat)
  /-- R58. A queue observes its producer counter above its consumer counter. -/
  | queueReady (ctx : BitVec 6) (q : BitVec 8)
  /-- R69. A running context's arbiter picks its highest-priority ready queue. -/
  | dispatchOpportunity
  /-- R68. Each 65,536 ready cycles raise a queue's effective priority by 1. -/
  | queuePriorityAging (ctx : BitVec 6) (q : BitVec 8)
  /-- R65. A core's copy engine performs a copy packet and its counter adds. -/
  | copyPacketPerform (ctx : BitVec 6) (q : BitVec 8) (idx : Word)
  /-- R67. A counter-wait packet's counter reaches its target and the packet completes with acquire. -/
  | counterWaitPacketSatisfied (ctx : BitVec 6) (q : BitVec 8) (idx : Word)
  /-- R67. Once earlier packets complete, the counter-add packet adds with release. -/
  | counterAddPacketPerform (ctx : BitVec 6) (q : BitVec 8) (idx : Word)
  /-- R83. Places the next team of a launch on a core with its initial state. -/
  | teamPlace (launch core : Nat) (quarters : List Nat)
  /-- R88. A team whose waves exited and whose operations are performed ends and is freed. -/
  | teamEnd (team : Nat)
  /-- R89. After write-backs, the launch's completion addend is added with system-scope release. -/
  | launchCompletionAdd (launch : Nat)
  /-- R162. A code page's SHA-384 check passes or aborts the launch. -/
  | codeHashCheckComplete (core : Nat) (ctx : BitVec 6) (va : Word)
  /-- R149. A walker translates a virtual address through four table levels. -/
  | pageTableWalk (core : Nat) (ctx : BitVec 6) (va : Word)
  /-- R103. After 16 cycles at a miss-split header the gang splits ready from waiting quads. -/
  | missSplit (team wave base : Nat)
  /-- R109. A jwait's fuse timer expires and releases the arrived set without the awaited quads. -/
  | fuseTimeout (team wave base : Nat)
  /-- R115. A forced fuse's timer expires and raises a width fault in each waiting gang. -/
  | widthFault (team wave base : Nat)
  /-- R118. A not-ready active gang is swapped with the oldest ready pending gang. -/
  | gangSwap (core quarter : Nat)
  /-- R143. A polling gang's back-off stretch ends. -/
  | yieldBackoffExpiry (team wave base : Nat)
  /-- R276. A quad's long-latency instruction completes and lowers its flag. -/
  | longLatencyComplete (team wave quad idx : Nat)
  /-- R130. A parked wait's timeout expires and releases it with status 1. -/
  | counterWaitTimeout (team wave quad : Nat)
  /-- R133. A home slice's new counter value reaches a watching core. -/
  | counterWatchNotify (team wave quad : Nat)
  /-- R142. A Sector port resends a remote wait 4 µs after a retry reply. -/
  | remoteWaitRetry (req : Nat)
  /-- R142. An engine wait whose counter failed checks is evaluated again. -/
  | engineWaitReevaluate (core : Nat) (q : BitVec 3)
  /-- R142. An engine wait's counter reaches its target and its queue proceeds. -/
  | engineWaitSatisfied (core : Nat) (q : BitVec 3)
  /-- R373. A qadd entry performs its add with release. -/
  | engineAddPerform (core : Nat) (q : BitVec 3)
  /-- R188. An engine binds held lines and performs its completion add. -/
  | engineCompletionAdd (core : Nat) (q : BitVec 3)
  /-- R188. An engine retries a failed binding at most 4 µs later. -/
  | engineBindingRetry (core : Nat) (q : BitVec 3)
  /-- R377. An engine queue performs a copy entry. -/
  | copyPerform (core : Nat) (q : BitVec 3)
  /-- R141. An engine ring writer finds its claimed slot free and writes it. -/
  | engineRingFreeWaitEnd (core : Nat) (q : BitVec 3)
  /-- R141. Once earlier indices are published the engine adds 1 to F with release. -/
  | engineRingPublish (core : Nat) (q : BitVec 3)
  /-- R77. Markers retire together once every operation ahead of them is performed. -/
  | qfenceMarkerRetire (core group : Nat)
  /-- R380. An engine queue performs a loop-nest entry element by element. -/
  | lnestEntryPerform (core : Nat) (q : BitVec 3)
  /-- R381. A loop-nest element faults, stops the entry and raises a pending trap in its quad. -/
  | lnestElementFault (core : Nat) (q : BitVec 3)
  /-- R177. A held L1 line is bound and written back, or pinned when binding fails. -/
  | l1LineEviction (core : Nat) (ctx : BitVec 6) (va : Word)
  /-- R159. A home slice evicts a line, writing dirty or zero data to HBM. -/
  | l2LineEviction (line : Nat)
  /-- R180. Directed write-backs are acknowledged and the acquire proceeds. -/
  | promotionWritebackAck (core line : Nat)
  /-- R201, R202. An accumulate reaches its home slice, whose queue holds this many entries, and is accepted or
  refused. -/
  | accumulateArrival (acc occupancy : Nat)
  /-- R200. Every 256 cycles each line's accumulate count returns to 0. -/
  | accumulateWindowStart
  /-- R206. A refusal reaches the core and is placed in the residual tile or overflow queue. -/
  | refusalReply (acc : Nat)
  /-- R210. Every covered accumulate of a team's drain is performed. -/
  | drainComplete (team drain : Nat)
  /-- R421. An issue brings WDOG from 1 to 0, reloads it and makes a watchdog trap pending. -/
  | watchdogExpiry (team wave base : Nat)
  /-- R391. The A-latch is freed after 1,024 cycles without a matrix instruction from its owner. -/
  | aLatchIdleRelease (core quarter : Nat)
  /-- R423. At the end of the drain window the device starts saving resident teams. -/
  | drainWindowEnd (ctx : BitVec 6)
  /-- R423. The save area is written and released; the context enters saved. -/
  | saveComplete (ctx : BitVec 6)
  /-- R423. The save window expires unfinished; the context is forced to reset. -/
  | saveDeadline (ctx : BitVec 6)
  /-- R445. A down link detects its peer and starts training. -/
  | linkPeerDetected (n : Nat)
  /-- R445. A link trains and enters up. -/
  | linkTrained (n : Nat) (peer : BitVec 20) (plink : BitVec 5)
  /-- R445. A link fails to train in 10 ms and returns to down or failed. -/
  | linkTrainingTimeout (n : Nat)
  /-- R445. A flit error on an up link is replayed invisibly. -/
  | linkFlitError (n : Nat)
  /-- R445. No flit for 10 µs or exhausted replay takes the link down. -/
  | linkLoss (n : Nat)
  /-- R439. A target device serves or refuses a Sector request in the named context. -/
  | remoteRequest (link : Nat) (r : RemoteReq)
  /-- R443. A reply to a Sector request reaches the requester. -/
  | remoteReply (req : Nat) (r : RemoteRep)
  /-- R443. A Sector request without a reply after 2 ms fails. -/
  | remoteRequestTimeout (req : Nat)
  /-- R441. A remote wait's local timeout expires and a cancel is sent. -/
  | remoteWaitCancel (team wave quad : Nat)
  /-- R441. The target acknowledges the cancel and the wait is released with status 0 or 1. -/
  | remoteCancelAck (req : Nat) (satisfied : Bool)
  /-- R476. A replay arrival waits 1 ms and the replay diverges. -/
  | replayArrivalTimeout (ctx : BitVec 6) (slice : Nat)
  /-- R48. An uncorrectable error in a per-context structure is detected and confined to that context. -/
  | perContextUncorrectableError (ctx : BitVec 6)
  /-- R162. A cached translation, possibly stale or marked verified, leaves a core's translation cache. -/
  | translationCacheEviction (core : Nat) (ctx : BitVec 6) (va : Word)
  /-- R443. A Sector request or reply for another device arrives on a link and is passed on by the route table. -/
  | sectorForwarding (link dst : Nat) (payload : List (BitVec 8))
  deriving DecidableEq, Repr

end Sys2Proof
end

