-- ==== Sys2Proof/WellFormed.lean ====
section
/-! DEFINITION. Static legality: what the entries of 12 to 16 ask of an instruction's fields
beyond their width. An instruction that is not well formed has no encoding that decodes: its word
raises the illegal-instruction fault (R290). Limits that raise the illegal-operand fault (R282,
R283, R314, R327) are checked when the instruction issues and are not part of this predicate. -/

namespace Sys2Proof

/-- The bits of one element of a type (R242 to R244). -/
def ElemTy.bits : ElemTy → Nat
  | .i4 | .e2m1 => 4
  | .e3m2 | .e2m3 => 6
  | .i8 | .n8 | .e4m3 | .e5m2 => 8
  | .i16 | .n16 | .f16 | .bf16 => 16
  | .i32 | .n32 | .f32 => 32
  | .i64 | .n64 | .f64 => 64
  | .fx128 => 128

/-- Floating-point types (R244). -/
def ElemTy.isFloat : ElemTy → Bool
  | .f16 | .bf16 | .f32 | .f64 | .e4m3 | .e5m2 | .e3m2 | .e2m3 | .e2m1 => true
  | .i8 | .i16 | .i32 | .i64 | .n8 | .n16 | .n32 | .n64 | .fx128 | .i4 => false

/-- Signed integer types (R242); fx128 is signed too (R243). -/
def ElemTy.isSigned : ElemTy → Bool
  | .i4 | .i8 | .i16 | .i32 | .i64 | .fx128 => true
  | .n8 | .n16 | .n32 | .n64 | .f16 | .bf16 | .f32 | .f64 | .e4m3 | .e5m2 | .e3m2 | .e2m3
  | .e2m1 => false

/-- Integer types, fx128 apart (R242). -/
def ElemTy.isInt : ElemTy → Bool
  | .i4 | .i8 | .i16 | .i32 | .i64 | .n8 | .n16 | .n32 | .n64 => true
  | .fx128 | .f16 | .bf16 | .f32 | .f64 | .e4m3 | .e5m2 | .e3m2 | .e2m3 | .e2m1 => false

/-- How many element indices a packed word offers in `vcvt` (R340). -/
def ElemTy.perWord : ElemTy → Nat
  | .i16 | .n16 | .f16 | .bf16 => 2
  | .i8 | .n8 | .e4m3 | .e5m2 => 4
  | .i4 | .e2m1 => 8
  | .i32 | .n32 | .f32 | .i64 | .n64 | .f64 | .fx128 | .e3m2 | .e2m3 => 1

/-- W of R325. -/
def intTys : List ElemTy := [.i32, .i64, .n32, .n64]

/-- F of R331. -/
def fpTys : List ElemTy := [.f32, .f64]

/-- The types of `vpack` and `vunpack` (R341). -/
def packTys : List ElemTy :=
  [.i16, .n16, .f16, .bf16, .i8, .n8, .e4m3, .e5m2, .i4, .e2m1, .e3m2, .e2m3]

/-- The types of the load and store forms (R360). -/
def loadTys : List ElemTy :=
  [.i8, .n8, .e4m3, .e5m2, .i16, .n16, .f16, .bf16, .i32, .n32, .f32, .i64, .n64, .f64, .fx128]

/-- The types of `lnest` (R379). -/
def nestTys : List ElemTy := [.i32, .n32, .f16, .bf16, .f32, .f64]

/-- sb of `cwait` and `kwait` is even (R368, R372). -/
def evenReg (r : SReg) : Bool := r.getLsbD 0 == false

/-- The condition is one of those of integers (R327). -/
def Cond.isInt : Cond → Bool
  | .eq | .ne | .lt | .le | .gt | .ge => true
  | .ord | .uno => false

/-- and, or and xor take no float type (R346). -/
def RedOp.okFor (op : RedOp) (ty : ElemTy) : Bool :=
  match op with
  | .add | .min | .max => true
  | .and | .or | .xor => !ty.isFloat

/-- An immediate amount is below the width (R325). -/
def ShiftAmt.below (amt : ShiftAmt) (k : Nat) : Bool :=
  match amt with
  | .reg => true
  | .imm n => decide (n.toNat < k)

/-- The pairs of R196. -/
def AccTy.allows (ty : AccTy) (op : AccOp) : Bool :=
  match ty, op with
  | .i32, _ | .i64, _ | .n64, _ | .fx128, _ | .f32, _ => true
  | .bf16x2, .add => true
  | .bf16x2, .min | .bf16x2, .max => false
  | .vis, .min => true
  | .vis, .add | .vis, .max => false

/-- The registers a form does not use are zero; minw is 0 to 4; guard 31 is not negated
(R282 to R284). -/
def LaneOp.form (o : LaneOp) (d a b c : Bool) : Bool :=
  (d || o.vd == 0) && (a || o.va == 0) && (b || o.vb == 0) && (c || o.vc == 0) &&
    decide (o.minw.toNat ≤ 4) && !(o.guard == 31 && o.neg)

/-- Guard 31 with neg = 0, which R314 and R366 ask for. -/
def LaneOp.unguarded (o : LaneOp) : Bool := o.guard == 31 && !o.neg

/-- The type is listed, and each modifier the form does not use is zero (R319). -/
def Mods.form (m : Mods) (tys : List ElemTy) (rnd sat ftz : Bool) : Bool :=
  tys.contains m.ty && (rnd || m.rnd == .rne) && (sat || !m.sat) && (ftz || !m.ftz)

/-- The modifiers of the packed 16-bit forms (R342). -/
def Mods.packed (m : Mods) : Bool :=
  if m.ty.isFloat then m.form [.f16, .bf16] true false true
  else m.form [.i16, .n16] false true false

/-- yield only in `vld`, ord only in `vatom`; a flat address takes no scale (R358). -/
def MemMods.form (m : MemMods) (yield ord : Bool) : Bool :=
  (yield || !m.yield) && (ord || m.ord == .none) && (!m.flat || m.scale == 0)

/-- `.sat` and the element indices of `vcvt` (R339, R340). -/
def cvtForm (m : Mods) (src : ElemTy) (si di : BitVec 3) : Bool :=
  (!m.sat || !(m.ty == .fx128 || (m.ty.isInt && !src.isInt))) &&
    decide (si.toNat < src.perWord) && decide (di.toNat < m.ty.perWord)

/-- The pairs (ta, tb) of the family table of R385, by their codes of R286. -/
def fmtPair (ta tb : BitVec 5) : Bool :=
  let a := ta.toNat
  let b := tb.toNat
  (a == 11 && b == 11) || (a == 10 && b == 10) || (a == 8 && b == 8) || (a == 9 && b == 9) ||
    ((a == 12 || a == 13) && (b == 12 || b == 13)) ||
    ((a == 16 || a == 17 || a == 18) && (b == 16 || b == 17 || b == 18)) ||
    (a == 0 && b == 0) || (a == 15 && b == 15)

/-- R271. -/
def Header.wf (h : Header) : Bool :=
  h.length != 0 &&
    (match h.setA with | none => true | some n => decide (n.toNat ≤ 11)) &&
    (match h.setB with | none => true | some n => decide (n.toNat ≤ 11)) &&
    (match h.setA, h.setB with | some a, some b => a != b | _, _ => true)

/-- A stride field whose mantissa is 0 means 0, whatever its sign and exponent (R288). -/
def zeroStride (f : BitVec 10) : Bool := f.extractLsb' 0 6 == 0

/-- Every stride of the level is zero. -/
def Level.flat (l : Level) : Bool := zeroStride l.d && zeroStride l.x && zeroStride l.y

/-- The levels of a nest, innermost first. -/
def Nest.levels (n : Nest) : List Level := [n.l0, n.l1, n.l2, n.l3, n.l4]

/-- No absent level lies below a present one, and an absent level has no stride (R288). -/
def nestShape : List Level → Bool
  | [] => true
  | l :: ls =>
    if l.extent == 0 then l.flat && ls.all (fun k => k.extent == 0 && k.flat) else nestShape ls

/-- R288 and R379: d, x and y say which operands may have a stride. -/
def Nest.form (n : Nest) (d x y reduction : Bool) : Bool :=
  n.l0.extent != 0 && nestShape n.levels && decide (n.sn.toNat ≤ 59) && nestTys.contains n.ty &&
    (n.ty.isFloat || n.rnd == .rne) &&
    n.levels.all (fun l =>
      ((d && !reduction) || zeroStride l.d) && (x || zeroStride l.x) && (y || zeroStride l.y))

/-- Whether the instruction's fields are legal. An operation or event without an encoding has no field limits of this kind. -/
def Instr.wf (i : Instr) : Bool :=
  match i with
  | .sadd _ _ _ => true
  | .ssub _ _ _ => true
  | .smul _ _ _ => true
  | .smulhI64 _ _ _ => true
  | .smulhN64 _ _ _ => true
  | .sand _ _ _ => true
  | .sor _ _ _ => true
  | .sxor _ _ _ => true
  | .sshl _ _ _ => true
  | .sshrN64 _ _ _ => true
  | .sshrI64 _ _ _ => true
  | .sminI64 _ _ _ => true
  | .sminN64 _ _ _ => true
  | .smaxI64 _ _ _ => true
  | .smaxN64 _ _ _ => true
  | .sdivI64 _ _ _ => true
  | .sdivN64 _ _ _ => true
  | .sremI64 _ _ _ => true
  | .sremN64 _ _ _ => true
  | .spopc _ _ => true
  | .sclz _ _ => true
  | .sctz _ _ => true
  | .saddi _ _ _ => true
  | .sandi _ _ _ => true
  | .sori _ _ _ => true
  | .sxori _ _ _ => true
  | .sshli _ _ _ => true
  | .sshriN64 _ _ _ => true
  | .sshriI64 _ _ _ => true
  | .scmpEq _ _ _ => true
  | .scmpNe _ _ _ => true
  | .scmpI64Lt _ _ _ => true
  | .scmpI64Ge _ _ _ => true
  | .scmpN64Lt _ _ _ => true
  | .scmpN64Ge _ _ _ => true
  | .ssel _ _ _ _ => true
  | .sli _ _ => true
  | .slui _ _ => true
  | .spcui _ _ => true
  | .sgetr _ num => num != 8
  | .sgetrQpc _ _ => true
  | .ssetr _ _ => true
  | .b _ => true
  | .bmz _ => true
  | .bmnz _ => true
  | .bmall _ => true
  | .bmnall _ => true
  | .bcall _ => true
  | .bjr _ => true
  | .bcallr _ _ => true
  | .bz _ _ => true
  | .bnz _ _ => true
  | .snop => true
  | .snopProgress => true
  | .exit => true
  | .trap _ => true
  | .tret => true
  | .tretDecline => true
  | .sldN64 _ _ _ => true
  | .sldN32 _ _ _ => true
  | .sldI32 _ _ _ => true
  | .sstN64 _ _ _ => true
  | .sstN32 _ _ _ => true
  | .sldN64Yield _ _ _ => true
  | .satomAdd _ _ _ _ => true
  | .satomSwap _ _ _ _ => true
  | .satomAnd _ _ _ _ => true
  | .satomOr _ _ _ _ => true
  | .satomXor _ _ _ _ => true
  | .satomMinI64 _ _ _ _ => true
  | .satomMinN64 _ _ _ _ => true
  | .satomMaxI64 _ _ _ _ => true
  | .satomMaxN64 _ _ _ _ => true
  | .satomCas _ _ _ _ => true
  | .dzero _ _ => true
  | .spfL2 _ _ => true
  | .spfL1 _ _ => true
  | .cadd _ _ => true
  | .caddRel _ _ => true
  | .qfence _ => true
  | .cget _ _ => true
  | .cgetAcq _ _ => true
  | .cgetTeam _ => true
  | .cwait _ sb _ => evenReg sb
  | .cwaitSt _ _ sb _ => evenReg sb
  | .bar => true
  | .fenceRel => true
  | .fenceAcq => true
  | .fenceAr => true
  | .ifence => true
  | .kset _ _ => true
  | .kfill _ => true
  | .kfree _ => true
  | .kwaitFree _ sb => evenReg sb
  | .kwaitFull _ sb => evenReg sb
  | .kwaitFreeSt _ _ sb => evenReg sb
  | .kwaitFullSt _ _ sb => evenReg sb
  | .cpy _ _ => true
  | .qwait _ _ _ => true
  | .qadd _ _ _ => true
  | .sfmt ta tb => fmtPair ta tb
  | .mrel => true
  | .sstampOpen _ => true
  | .sstampClose => true
  | .clauseHeader h => h.wf
  | .vaddInt o m => o.form true true true false && m.form intTys false true false
  | .vsubInt o m => o.form true true true false && m.form intTys false true false
  | .vmulInt o m => o.form true true true false && m.form intTys false true false
  | .vmulh o m => o.form true true true false && m.form intTys false false false
  | .vmad o m => o.form true true true true && m.form intTys false true false
  | .vminInt o m => o.form true true true false && m.form intTys false false false
  | .vmaxInt o m => o.form true true true false && m.form intTys false false false
  | .vabsInt o m => o.form true true false false && m.form [.i32, .i64] false true false
  | .vand o m => o.form true true true false && m.form intTys false false false
  | .vor o m => o.form true true true false && m.form intTys false false false
  | .vxor o m => o.form true true true false && m.form intTys false false false
  | .vnot o m => o.form true true false false && m.form intTys false false false
  | .vshl o m amt => o.form true true (amt == .reg) false && m.form intTys false false false && amt.below m.ty.bits
  | .vshr o m amt => o.form true true (amt == .reg) false && m.form intTys false false false && amt.below m.ty.bits
  | .vrshr o m _ amt => o.form true true (amt == .reg) false && m.form [.i8, .i16, .i32, .n8, .n16, .n32] false false false
  | .vpopc o m => o.form true true false false && m.form intTys false false false
  | .vclz o m => o.form true true false false && m.form intTys false false false
  | .vbfe o m p n => o.form true true false false && m.form [.i32, .n32] false false false && decide (p.toNat + n.toNat + 1 ≤ 32)
  | .vcmpInt o m cc => o.form true true true false && m.form intTys false false false && cc.isInt
  | .vsel o m => o.form true true true true && m.form (intTys ++ fpTys) false false false
  | .vdot4 o m => o.form true true true true && m.form [.i8, .n8] false true false
  | .vaddIntImm o _ => o.form true true false false
  | .vmulIntImm o _ => o.form true true false false
  | .vandImm o _ => o.form true true false false
  | .vorImm o _ => o.form true true false false
  | .vxorImm o _ => o.form true true false false
  | .vcmpIntImm o cc _ _ => o.form true true false false && cc.isInt
  | .vmovImm o _ => o.form true false false false
  | .vaddFp o m => o.form true true true false && m.form fpTys true false true
  | .vsubFp o m => o.form true true true false && m.form fpTys true false true
  | .vmulFp o m => o.form true true true false && m.form fpTys true false true
  | .vfma o m => o.form true true true true && m.form fpTys true false true
  | .vfnma o m => o.form true true true true && m.form fpTys true false true
  | .vminFp o m => o.form true true true false && m.form fpTys false false true
  | .vmaxFp o m => o.form true true true false && m.form fpTys false false true
  | .vabsFp o m => o.form true true false false && m.form fpTys false false false
  | .vneg o m => o.form true true false false && m.form fpTys false false false
  | .vcopysign o m => o.form true true true false && m.form fpTys false false false
  | .vdiv o m => o.form true true true false && m.form fpTys true false true
  | .vsqrt o m => o.form true true false false && m.form fpTys true false true
  | .vrcp o m => o.form true true false false && m.form fpTys true false true
  | .vrsqrt o m => o.form true true false false && m.form fpTys true false true
  | .vrint o m => o.form true true false false && m.form fpTys true false true && m.rnd != .rs
  | .vclip o m => o.form true true false false && m.form fpTys false false true
  | .vclamp o m => o.form true true true true && m.form fpTys false false true
  | .vsign o m => o.form true true false false && m.form fpTys false false true
  | .vcmpFp o m _ => o.form true true true false && m.form fpTys false false true
  | .vclass o m => o.form true true false false && m.form fpTys false false false
  | .vldexp o m => o.form true true true false && m.form fpTys true false true
  | .vgetexp o m => o.form true true false false && m.form fpTys false false true
  | .vlerp o m => o.form true true true true && m.form [.f32] true false true
  | .vexp2 o m => o.form true true false false && m.form [.f32] false false true
  | .vlog2 o m => o.form true true false false && m.form [.f32] false false true
  | .vsinpi o m => o.form true true false false && m.form [.f32] false false true
  | .vcospi o m => o.form true true false false && m.form [.f32] false false true
  | .vaddF32Imm o _ => o.form true true false false
  | .vmulF32Imm o _ => o.form true true false false
  | .vfmaF32Imm o _ => o.form true true false true
  | .vmaxF32Imm o _ => o.form true true false false
  | .vcmpF32Imm o _ _ => o.form true true false false
  | .vcvt o m src si di => o.form true true false false && cvtForm m src si di
  | .vpack o m => o.form true true false false && m.form packTys false false false
  | .vunpack o m => o.form true true false false && m.form packTys false false false
  | .vcvt2 o m => o.form true true true false && m.form [.f16, .bf16] true true true
  | .vadd2 o m => o.form true true true false && m.packed
  | .vsub2 o m => o.form true true true false && m.packed
  | .vmul2 o m => o.form true true true false && m.packed
  | .vfma2 o m => o.form true true true true && m.packed
  | .vmin2 o m => o.form true true true false && m.packed && m.rnd == .rne && !m.sat
  | .vmax2 o m => o.form true true true false && m.packed && m.rnd == .rne && !m.sat
  | .vdot2 o m => o.form true true true true && m.packed
  | .vshl2 o m amt => o.form true true (amt == .reg) false && m.form [.i16, .n16] false false false && amt.below 16
  | .vshr2 o m amt => o.form true true (amt == .reg) false && m.form [.i16, .n16] false false false && amt.below 16
  | .vhsel o _ _ => o.form true true true false
  | .vred o m op => o.form true true false false && m.form (intTys ++ fpTys) false false false && op.okFor m.ty
  | .vscan o m op _ => o.form true true false false && m.form (intTys ++ fpTys) false false false && op.okFor m.ty
  | .vshuf o => o.form true true true false
  | .vbcast o _ => o.form true true false false
  | .vrot o _ => o.form true true false false
  | .vqswz o _ _ _ _ => o.form true true false false
  | .vballot o => o.form true true false false
  | .vcount o => o.form true true false false
  | .vfind o => o.form true true false false
  | .vappend o _ => o.form true true true false
  | .pand o => o.form true true true false
  | .por o => o.form true true true false
  | .pxor o => o.form true true true false
  | .pandn o => o.form true true true false
  | .pnot o => o.form true true false false
  | .pset o _ => o.form true false false false
  | .pfroms o => o.form true true false false
  | .ptos o => o.form true true false false && o.unguarded
  | .pmand o => o.form false true false false
  | .pmandn o => o.form false true false false
  | .pmor o => o.form false true false false
  | .pmset o => o.form false true false false
  | .pmtos o => o.form true false false false && o.unguarded
  | .pmtop o => o.form true false false false
  | .jset o => o.form true false false false && o.unguarded
  | .jarr o => o.form true false false false && o.unguarded
  | .jdrop o => o.form true false false false && o.unguarded
  | .jwait o => o.form true false false false && o.unguarded
  | .jst o _ => o.form true true false false && o.unguarded
  | .jld o _ => o.form true true false false && o.unguarded
  | .vld o ty m => o.form true true (!m.flat) false && loadTys.contains ty && m.form true false
  | .vst o ty m => o.form false true (!m.flat) true && loadTys.contains ty && m.form false false
  | .vlds o ty m => o.form true true false false && loadTys.contains ty && m.form false false && !m.flat
  | .vsts o ty m => o.form false true false true && loadTys.contains ty && m.form false false && !m.flat
  | .vpf o m => o.form false true (!m.flat) false && m.form false false
  | .vatomAdd o ty m => o.form true true (!m.flat) true && intTys.contains ty && m.form false true
  | .vatomSwap o ty m => o.form true true (!m.flat) true && intTys.contains ty && m.form false true
  | .vatomAnd o ty m => o.form true true (!m.flat) true && intTys.contains ty && m.form false true
  | .vatomOr o ty m => o.form true true (!m.flat) true && intTys.contains ty && m.form false true
  | .vatomXor o ty m => o.form true true (!m.flat) true && intTys.contains ty && m.form false true
  | .vatomMin o ty m => o.form true true (!m.flat) true && intTys.contains ty && m.form false true
  | .vatomMax o ty m => o.form true true (!m.flat) true && intTys.contains ty && m.form false true
  | .vatomCas o ty m => o.form true true (!m.flat) true && intTys.contains ty && m.form false true
  | .vaccAdd o ty m => o.form false true (!m.flat) true && m.form false false && ty.allows .add
  | .vaccMin o ty m => o.form false true (!m.flat) true && m.form false false && ty.allows .min
  | .vaccMax o ty m => o.form false true (!m.flat) true && m.form false false && ty.allows .max
  | .rflush o => o.form false false false false && o.unguarded
  | .mma o _ scl => o.form true true true scl && decide (2 ≤ o.minw.toNat)
  | .mmas o _ scl _ => o.form true true true scl && decide (2 ≤ o.minw.toNat)
  | .vspk o ty => o.form true true false true && o.minw == 0 && [ElemTy.i8, .e4m3, .e5m2].contains ty
  | .wstart o => o.form true true false false && o.minw == 0
  | .wresume o => o.form true true false false && o.minw == 0
  | .texPoint o => o.form true true true false && o.minw == 0
  | .texBilinear o => o.form true true true false && o.minw == 0
  | .texTrilinear o => o.form true true true false && o.minw == 0
  | .texGather o => o.form true true true false && o.minw == 0
  | .texf o => o.form true true true false && o.minw == 0
  | .texsz o => o.form true true true false && o.minw == 0
  | .lnestCopy n => n.form true true false false
  | .lnestAdd n => n.form true true true false
  | .lnestSub n => n.form true true true false
  | .lnestMul n => n.form true true true false
  | .lnestFma n => n.form true true true false
  | .lnestMin n => n.form true true true false
  | .lnestMax n => n.form true true true false
  | .lnestSum n => n.form true true false true
  | .lnestDot n => n.form true true true true
  | .lnestRmax n => n.form true true false true
  | .lnestRmin n => n.form true true false true
  | .walkDone => true
  | .walkFetch _ => true
  | .walkFld _ _ _ _ => true
  | .walkChild _ _ => true
  | .walkBox4 _ _ => true
  | .walkTri _ _ _ => true
  | .walkCommit _ _ => true
  | .walkEdge3 _ _ lg => decide (1 ≤ lg.toNat ∧ lg.toNat ≤ 6)
  | .walkEmitRing _ _ => true
  | .walkEmitVis _ => true
  | .walkPush _ => true
  | .walkPop _ => true
  | .walkAdd _ _ _ => true
  | .walkAddi _ _ _ => true
  | .walkSub _ _ _ => true
  | .walkAnd _ _ _ => true
  | .walkShl _ _ _ => true
  | .walkShr _ _ _ => true
  | .walkCmp _ _ _ _ => true
  | .walkMovi _ _ => true
  | .walkJmp _ => true
  | .walkJz _ _ => true
  | .walkJnz _ _ => true
  | .walkYield => true
  | .walkStepLimit _ _ => true
  | .ctxcmdCreate _ _ => true
  | .ctxcmdBind _ _ => true
  | .bindComplete _ => true
  | .ctxcmdRun _ _ => true
  | .ctxcmdQuiesce _ _ => true
  | .ctxcmdReset _ _ => true
  | .resetSequenceComplete _ => true
  | .ctxcmdDestroy _ _ => true
  | .destroySequenceComplete _ => true
  | .owncmd _ _ => true
  | .ctxinv _ _ _ => true
  | .ctxinvComplete _ => true
  | .ctxstateRead _ _ => true
  | .registerWrite _ _ _ _ => true
  | .lnclr _ _ _ => true
  | .lnstatRead _ _ => true
  | .lanternQuadWrite _ _ _ _ _ => true
  | .lnkctlEnSet _ _ => true
  | .lnkctlEnClear _ _ => true
  | .rcvcmdGo => true
  | .recoveryVerifyComplete => true
  | .deviceReset => true
  | .firmwareVerifyComplete => true
  | .attestationRequest _ _ => true
  | .hostBar4Read _ _ _ => true
  | .hostPostedWrite _ _ _ _ => true
  | .hostFetchadd _ _ _ => true
  | .clockStepDown => true
  | .clockStepUp => true
  | .deviceWideUncorrectableError => true
  | .linePoisonDetect _ => true
  | .queueReady _ _ => true
  | .dispatchOpportunity => true
  | .queuePriorityAging _ _ => true
  | .copyPacketPerform _ _ _ => true
  | .counterWaitPacketSatisfied _ _ _ => true
  | .counterAddPacketPerform _ _ _ => true
  | .teamPlace _ _ _ => true
  | .teamEnd _ => true
  | .launchCompletionAdd _ => true
  | .codeHashCheckComplete _ _ _ => true
  | .pageTableWalk _ _ _ => true
  | .missSplit _ _ _ => true
  | .fuseTimeout _ _ _ => true
  | .widthFault _ _ _ => true
  | .gangSwap _ _ => true
  | .yieldBackoffExpiry _ _ _ => true
  | .longLatencyComplete _ _ _ _ => true
  | .counterWaitTimeout _ _ _ => true
  | .counterWatchNotify _ _ _ => true
  | .remoteWaitRetry _ => true
  | .engineWaitReevaluate _ _ => true
  | .engineWaitSatisfied _ _ => true
  | .engineAddPerform _ _ => true
  | .engineCompletionAdd _ _ => true
  | .engineBindingRetry _ _ => true
  | .copyPerform _ _ => true
  | .engineRingFreeWaitEnd _ _ => true
  | .engineRingPublish _ _ => true
  | .qfenceMarkerRetire _ _ => true
  | .lnestEntryPerform _ _ => true
  | .lnestElementFault _ _ => true
  | .l1LineEviction _ _ _ => true
  | .l2LineEviction _ => true
  | .promotionWritebackAck _ _ => true
  | .accumulateArrival _ _ => true
  | .accumulateWindowStart => true
  | .refusalReply _ => true
  | .drainComplete _ _ => true
  | .watchdogExpiry _ _ _ => true
  | .aLatchIdleRelease _ _ => true
  | .drainWindowEnd _ => true
  | .saveComplete _ => true
  | .saveDeadline _ => true
  | .linkPeerDetected _ => true
  | .linkTrained _ _ _ => true
  | .linkTrainingTimeout _ => true
  | .linkFlitError _ => true
  | .linkLoss _ => true
  | .remoteRequest _ _ => true
  | .remoteReply _ _ => true
  | .remoteRequestTimeout _ => true
  | .remoteWaitCancel _ _ _ => true
  | .remoteCancelAck _ _ => true
  | .replayArrivalTimeout _ _ => true
  | .perContextUncorrectableError _ => true
  | .translationCacheEviction _ _ _ => true
  | .sectorForwarding _ _ _ => true

end Sys2Proof
end

