-- ==== Sys2Proof/Machine/State.lean ====
section
/-! DEFINITION. The state of the machine as plain data: everything the spec gives it, and the few
fields of the model's own (`agenda`, `cur`, `free`, `nextId`; notes/assumptions/2.md). -/

namespace Sys2Proof.Machine

/-- Bytes by address: addresses strictly rising, no entry equal to 0, which is what an unlisted
address reads as (notes/assumptions/1.md). HBM and scratchpads have this form. -/
abbrev Mem := List Host.Cell

/-- The only fault of the model: everything the spec calls a fault is a trap, a record cause or a
log entry, and so a next state. -/
inductive Fault where
  /-- `exec` is asked to perform an instruction of the code stream or of walk code while no gang and
  no walk is issuing (`State.cur`). `step` raises it only where an agenda names such an instruction as an
  event (`State.agendaOk`). Safe. -/
  | noIssuer
  deriving DecidableEq, Repr

/-- Why the model gives an instruction no meaning. -/
inductive Refusal where
  /-- An arm of `exec` that has no meaning yet. Safe. -/
  | notModelled (mnemonic : String)
  deriving DecidableEq, Repr

/-- The translation causes of R151, in that order. -/
inductive TransCause where
  | canonical | notpresent | format | window | tenant | physical | poison | code | counter
  | write | scope
  deriving DecidableEq, Repr

/-- The trap causes of R410. -/
inductive TrapCause where
  | software | illegalInstr | illegalOperand | alignment | scratchRange | width | fuseTimeout
  | watchdog | counterFault | counterTimeout | counterRegression | ringDescriptor | copyBlock
  | walkRecord | walkDepth | walkScratch | sparseMeta | texDescriptor
  | trans (c : TransCause)
  | nest (c : TransCause)
  deriving DecidableEq, Repr

/-! ### Teams, waves, quads, lanes -/

/-- The clause context of R305: set-flags A and B, body words left, and the bar wait of R381. -/
structure ClauseCtx where
  setA : Option (BitVec 4)
  setB : Option (BitVec 4)
  left : BitVec 10
  barWait : Bool
  deriving DecidableEq, Repr

/-- Where a counter lies (R123), fixed when a wait is evaluated. -/
inductive CounterLoc where
  | hbm (pa : Nat)
  | scratch (off : Nat)
  | team
  | remote (window : Nat) (off : Nat)
  deriving DecidableEq, Repr

/-- The kinds of a counter wait (R428). -/
inductive WaitKind where
  | cwait | kwaitFull | kwaitFree | bar
  deriving DecidableEq, Repr

/-- A parked counter wait (R128 to R134). `tag` names the gang and instruction in which the quad
parked; `status` is set by the operation that releases it. -/
structure CWait where
  kind : WaitKind
  loc : CounterLoc
  addr : Word
  /-- A value of the counter, or 2^64, which no counter reaches (R372). -/
  target : Nat
  timeout : BitVec 32
  elapsed : Nat
  /-- The wall-clock time for which the wait has been released (R135). -/
  woken : Nat
  /-- The scope cap of the counter's page (R181). -/
  cap : Nat
  acq : Bool
  st : Option (BitVec 6)
  status : Option (BitVec 2)
  spilled : Bool
  tag : Nat
  request : Option Nat
  cancelled : Bool
  deriving DecidableEq, Repr

/-- What a quad waits for (R107, R114, R117, R121, R128, R210, R277). -/
inductive QWait where
  /-- Ready, as far as the quad is concerned. -/
  | ready
  /-- Held at a clause header with this wait mask and miss-split bit since the given CLK (R103). -/
  | header (mask : BitVec 12) (msplit : Bool) (since : Nat)
  /-- Parked at a `jwait` on a register whose fuse timer started at the given CLK (R107, R109). -/
  | jwait (j : BitVec 3) (since : Nat)
  /-- At a forced fuse of 2^w quads whose timer started at the given CLK (R114, R115). -/
  | fuse (w : Nat) (since : Nat)
  /-- Parked in a counter wait (R128). -/
  | counter (w : CWait)
  /-- Stalled on a full engine queue (R75). -/
  | engineFull
  /-- Stalled on another structural resource (R199, R232, R276). -/
  | structural
  /-- A fetch waits for the check of its code page (R162). -/
  | codeCheck
  /-- A drain is in progress for the releasing instruction (R210). -/
  | drain (id : Nat)
  /-- The acquire waits for the promotion write-backs of these lines and for these acquiring Sector requests
  (R180); then an instruction of `len` words that selected no flag still interlocks (R277). -/
  | promote (lines reqs : List Nat) (len : Option Nat)
  /-- The instruction waits for these Sector requests, which bring a block that it reads at issue (R438). -/
  | fetch (reqs : List Nat)
  /-- A long-latency instruction of `len` words without a flag has not completed (R277). -/
  | interlock (len : Nat)
  /-- It has completed in this quad, but not in every quad of the gang (R277). -/
  | landed (len : Nat)
  /-- Parked after an unhandled trap (R416, R121 code 7). -/
  | unhandled
  deriving DecidableEq, Repr

/-- A register write that a long-latency instruction makes when it completes. -/
inductive RegWrite where
  | v (lane reg : Nat) (value : Code)
  | s (reg : Nat) (value : Word)
  | j (reg : Nat) (value : Byte)
  deriving DecidableEq, Repr

/-- Where a load puts its value: one or more vector registers of a lane, a scalar register, a join
slice, or nowhere by itself (a texel, which blends use). -/
inductive Dest where
  | v (lane reg regs : Nat)
  | s (reg : Nat)
  | j (reg : Nat)
  | held
  deriving DecidableEq, Repr

/-- A value that a long-latency instruction has read, byte by byte, and where it goes; `plus` is added
to it (the rank of R347). A dropped load leaves its destination as it was (R354). -/
structure LoadDest where
  dest : Dest
  bytes : List Byte
  plus : Nat
  signed : Bool
  dropped : Bool
  deriving DecidableEq, Repr

/-- A channel of a texture result (R396 to R399): the register of a lane it goes to, the texel format, the
channel, the weights over `den`, and which loads of the instruction they weigh. -/
structure Blend where
  lane : Nat
  reg : Nat
  fmt : Nat
  chan : Nat
  den : Nat
  terms : List (Nat × Nat)
  deriving DecidableEq, Repr

/-- Where a deferred fault is raised (R354, R418, R428). -/
inductive DeferPoint where
  | header (flag : BitVec 4)
  | interlock
  /-- The next release, `rflush` or last `exit` of the quad (R354). -/
  | drainPoint
  /-- The first of these by any quad of the wave: an accumulate (R212). -/
  | waveDrain
  deriving DecidableEq, Repr

/-- A deferred fault of a quad (R354, R212, R439). -/
structure Deferred where
  point : DeferPoint
  cause : TrapCause
  addr : Word
  lanes : BitVec 4
  deriving DecidableEq, Repr

/-- An outstanding long-latency instruction of a quad (R275, R276): the flag it raised, or `none`
for an interlock; the register writes and loaded values of its completion; the walks and Sector
requests it still waits for; the addresses it polls when it carries the yield hint (R143). -/
structure Pend where
  id : Nat
  flag : Option (BitVec 4)
  writes : List RegWrite
  loads : List LoadDest
  blends : List Blend
  faults : List Deferred
  walks : List Nat
  requests : List Nat
  poll : Option (List Word)
  deriving DecidableEq, Repr

/-- The polling state of a quad (R143): addresses, values, the current stretch, and whether the quad
is in back-off until the given CLK. -/
structure Poll where
  addrs : List Word
  values : List Nat
  stretch : Nat
  holding : Bool
  until_ : Nat
  deriving DecidableEq, Repr

/-- Where an atomic was performed, for the acquire that follows it: a line's home slice, another
device, or the core that holds a team's scratchpad and team counter (R180). -/
inductive AcqPlace where
  | line (n : Nat)
  | remote
  | team
  deriving DecidableEq, Repr

/-- An atomic that acquires, or since the last `fence.acq` (R370): its place, its virtual address and
its page's scope cap. -/
structure AcqLine where
  place : AcqPlace
  addr : Word
  cap : Nat
  deriving DecidableEq, Repr

/-- The release drain of a quad's current instruction (R210, R211). -/
inductive DrainSt where
  | idle
  | done
  | failed (cause : TransCause) (addr : Word)
  deriving DecidableEq, Repr

/-- An open stamp (R408, R471) and its number, by which the copies that start while it is open know it. -/
structure Stamp where
  id : Nat
  addr : Word
  openClk : Nat
  inStart : Option Nat
  inEnd : Option Nat
  opWait : Nat
  mmBusy : Nat
  outStart : Option Nat
  outEnd : Option Nat
  deriving DecidableEq, Repr

/-- A pending trap of R414 items 1 to 3. -/
inductive PendTrap where
  | nest (cause : TrapCause) (addr : Word) (queue : BitVec 3) (entry : Nat)
  | fuse
  | watchdog
  deriving DecidableEq, Repr

/-- One lane: v0 to v639 and p0 to p23 (R97). -/
structure Lane where
  v : Vector Code 640
  p : BitVec 24
  deriving DecidableEq, Repr

/-- One quad (R97, R105, R138, R305, R411, R415, R428). -/
structure Quad where
  pc : Word
  em : BitVec 4
  s : Vector Word 64
  f : Vector (BitVec 6) 12
  lanes : Vector Lane 4
  /-- FMT [12:0] (R383). -/
  fmt : BitVec 13
  scb : Byte
  seed : Word
  joins : Vector Byte 8
  trapinfo : Word
  trappc : Word
  /-- The log source of the instruction that trapped last (R491). -/
  trapSrc : Nat
  clause : Option ClauseCtx
  trapClause : Option ClauseCtx
  inHandler : Bool
  exited : Bool
  /-- Barrier generation (R138). -/
  gen : Nat
  wait : QWait
  pends : List Pend
  pendTraps : List PendTrap
  /-- The trap or scope fault that the release of a counter wait raises (R414 item 4). -/
  waitTrap : Option (TrapCause × Word)
  deferred : List Deferred
  /-- The loop-nest entry whose element fault the current handler answers (R381). -/
  nestHandled : Option Nat
  /-- A `fence.rel` is in force (R370). -/
  relFence : Bool
  /-- The atomics since the last `fence.acq` (R370). -/
  acqLines : List AcqLine
  poll : Option Poll
  drainSt : DrainSt
  stamp : Option Stamp
  /-- The blocks that the instruction at the PC has read through Sector windows, by address: the bytes, or none
  where the read failed (R438, R443). -/
  fetched : List (Nat × Option (List Byte))
  deriving DecidableEq, Repr

/-- A gang: quads base to base + 2^lg - 1 of its wave (R101), in the active or the pending set of
its quarter (R117), with the CLK until which its slot issues nothing after a swap (R118). -/
structure Gang where
  base : Nat
  lg : Nat
  active : Bool
  slotFree : Nat
  deriving DecidableEq, Repr

/-- One wave (R97, R117, R420). -/
structure Wave where
  wid : Nat
  core : Nat
  quarter : Nat
  slot : Nat
  seq : Nat
  fusest : BitVec 32
  wdog : BitVec 32
  stopped : Bool
  /-- The quads whose issue has brought WDOG from 1 to 0, until the expiry (R421). -/
  dog : List Nat
  gangs : List Gang
  quads : List Quad
  deriving DecidableEq, Repr

/-- A loaded ring handle (R139), with its 48-byte descriptor as read. -/
structure Ring where
  base : Word
  filled : Word
  freed : Word
  claim : Word
  bytes : Nat
  lgslots : Nat
  deriving DecidableEq, Repr

/-- The fields of a kernel descriptor (R78, R79). -/
structure Kernel where
  entry : Word
  trapvec : Word
  lgwave : Nat
  regs : Nat
  waves : Nat
  pair : Bool
  scr : Nat
  lgres : Nat
  wdepth : Nat
  msplit : Bool
  fusetrap : Bool
  fusetmo : Nat
  wdog : BitVec 32
  walkpay : Nat
  mml : Nat
  rtboff : Nat
  push : List Word
  seed : Word
  shape : Code
  deriving DecidableEq, Repr

/-! ### Launches, queues, contexts -/

/-- The states of a launch (R81). -/
inductive LaunchState where
  | dispatching | running | completing | completed | aborting | quiescing | saved | discarded
  | faulted
  deriving DecidableEq, Repr

/-- One launch (R78 to R96). -/
structure Launch where
  ctx : BitVec 6
  queue : BitVec 8
  index : Word
  packet : List Byte
  kernel : Kernel
  gridid : BitVec 32
  state : LaunchState
  total : Nat
  next : Nat
  ended : Nat
  compAddr : Word
  addend : Word
  parent : BitVec 32
  irq : Bool
  /-- Its completion add has left on a Sector link (R89). -/
  sent : Bool
  /-- A run has restored it (R431). -/
  resumed : Bool
  deriving DecidableEq, Repr

/-- The states of a queue (R58). -/
inductive QueueState where
  | disabled | empty | ready | blocked | stopped
  deriving DecidableEq, Repr

/-- A copy control block as `cpy` reads it (R375). -/
structure CopyBlock where
  source : Word
  dest : Word
  rowbytes : Nat
  rows : Nat
  spitch : Int
  dpitch : Int
  ctr : Word
  addend : Word
  ring : Nat
  rmode : Bool
  fill : Bool
  deriving DecidableEq, Repr

/-- A copy in progress (R377): its block, whether the reads through Sector windows were asked for, the
index claimed on its ring, and whether the bytes were written and the index published. -/
structure CopyJob where
  b : CopyBlock
  asked : Bool
  claimed : Option Word
  written : Bool
  published : Bool
  deriving DecidableEq, Repr

/-- A packet that was admitted and has not completed (R62, R66, R73): whether its own operation has
begun, whether a run has restored it and it has not started since (R431), whether a counter wait is satisfied, the copy of a copy packet with the core that performs it
and the counter adds made (R65), its fetched bytes, and the details that it has logged once (R188). -/
structure Admitted where
  id : Nat
  index : Word
  packet : List Byte
  started : Bool
  restored : Bool
  satisfied : Bool
  job : Option CopyJob
  core : Nat
  stage : Nat
  fetched : List (Nat × Option (List Byte))
  logged : List Nat
  deriving DecidableEq, Repr

/-- A head packet that passed its checks while the add of 1 to its queue's consumer counter, in a Sector window, has no
reply (R62): its index, the producer counter as it was observed, its bytes, the kernel or the control block that it
names, and the request. -/
structure Entering where
  index : Word
  producer : Word
  packet : List Byte
  kernel : Option Kernel
  block : Option CopyBlock
  req : Nat
  deriving DecidableEq, Repr

/-- One queue: its descriptor as read at bind or reset, and its state (R54 to R68). -/
structure Queue where
  ring : Word
  prod : Word
  cons : Word
  prio : BitVec 3
  lgsize : Nat
  state : QueueState
  /-- Cycles in ready since the last admission that have not raised the priority (R68). -/
  readyCycles : Nat
  /-- How far the effective priority lies above `prio`, before the limit of 7 (R68). -/
  boost : Nat
  entering : Option Entering
  admitted : List Admitted
  deriving DecidableEq, Repr

/-- A remote window as read at bind or reset (R437). -/
structure RemoteWindow where
  valid : Bool
  rbase : Word
  size : Nat
  dev : BitVec 20
  ctx : BitVec 6
  deriving DecidableEq, Repr

/-- The states of a context (R33, R34). -/
inductive CtxPhase where
  | destroyed | created | bound | running | quiescing | saved | faulted | reset
  deriving DecidableEq, Repr

/-- The control block, queues, remote windows and Lantern window of one context. -/
structure Ctx where
  phase : CtxPhase
  busy : Bool
  result : Byte
  lost : Byte
  root : BitVec 36
  winLo : BitVec 36
  winHi : BitVec 36
  tag : BitVec 16
  ways : BitVec 16
  acc : Byte
  mml : BitVec 4
  log : BitVec 58
  qtab : BitVec 51
  man : BitVec 48
  lgcount : BitVec 5
  lay : BitVec 55
  save : BitVec 52
  svUsed : BitVec 32
  svSize : BitVec 32
  dlSave : BitVec 16
  dlDrain : BitVec 16
  rwt : BitVec 51
  migDrain : Bool
  migPortable : Bool
  invPend : Bool
  invSize : BitVec 2
  invVa : BitVec 41
  /-- The GRIDID counter (R82). -/
  grid : BitVec 32
  queues : Vector Queue 256
  /-- The queue the arbiter last served (R68). -/
  lastQueue : BitVec 8
  windows : Vector RemoteWindow 256
  /-- Wall-clock time at which the context entered quiescing (R423). -/
  quiesceAt : Nat
  /-- The drain and save windows and CTXMIG.drain as they took effect at that moment. -/
  quiesceDrain : Nat
  quiesceSave : Nat
  quiesceMig : Bool
  saving : Bool
  /-- An unhandled trap occurred while quiescing: the context enters faulted when saved (R34). -/
  faultPending : Bool
  /-- The reset in progress ends no command: it comes from an error, and none was in progress (R45, R48). -/
  resetQuiet : Bool
  /-- A destroy sequence is in progress (R39). -/
  destroying : Bool
  /-- No run and no reset since the context was created (R96; notes/assumptions/86.md). -/
  neverRun : Bool
  lnCore : BitVec 9
  lnSlot : BitVec 7
  lnRefused : Byte
  lnOvf : Bool
  lnDiverged : Bool
  lnBase : BitVec 48
  lnLgseg : BitVec 5
  lnMode : BitVec 2
  /-- The mode in effect since the last run (R467). -/
  lnActive : BitVec 2
  /-- The values of the quads of the selected wave, by register offset, as one cycle showed them (R122;
  notes/assumptions/87.md). -/
  lnShot : List (Nat × Word)
  deriving DecidableEq, Repr

/-! ### Cores -/

/-- A cached translation (R150, R154, R162). -/
structure TlbEntry where
  ctx : BitVec 6
  /-- First virtual address of the page, as a number. -/
  base : Nat
  /-- log2 of the page size: 16, 21 or 30. -/
  lg : Nat
  frame : Nat
  w : Bool
  ctr : Bool
  code : Bool
  poison : Bool
  scope : BitVec 3
  cache : BitVec 2
  tag : BitVec 16
  manifest : BitVec 32
  verified : Bool
  deriving DecidableEq, Repr

/-- A dirty L1 line (R177, R184): its written bytes, for each aligned 8-byte word the log source of the
last write to it (R47, R136), the physical line once it is bound, and the quads (team, wave, quad) that
stored into it, which a poisoned home line concerns (R354). -/
structure HeldLine where
  ctx : BitVec 6
  line : Nat
  mask : BitVec 128
  data : Vector Byte 128
  sources : Vector (BitVec 4) 16
  bound : Option Nat
  pinned : Bool
  /-- Its page asks for the lowest replacement priority (R147). -/
  low : Bool
  writers : List (Nat × Nat × Nat)
  deriving DecidableEq, Repr

/-- A clean L1 copy (R180, R186) or an instruction line (R193). -/
structure CleanLine where
  ctx : BitVec 6
  line : Nat
  data : Vector Byte 128
  scopeCore : Bool
  deriving DecidableEq, Repr

/-- A code page whose hash check is in progress (R162). -/
structure CodeCheck where
  ctx : BitVec 6
  base : Nat
  deriving DecidableEq, Repr

/-- A loop-nest body: its operation, words and scalar operands, progress and accumulator (R378 to
R381, R429). -/
structure NestBody where
  op : Nat
  nest : Nest
  s0 : Word
  s1 : Word
  s2 : Word
  s3 : Word
  s4 : Word
  seed : Word
  n : Nat
  ac : Word
  acLoaded : Bool
  stopped : Bool
  deriving DecidableEq, Repr

/-- The content of an engine-queue entry (R75, R373 to R381). -/
inductive EntryBody where
  | copy (job : CopyJob)
  | qwait (addr target : Word)
  | qadd (addr addend : Word)
  | nest (b : NestBody)
  | marker (mask : BitVec 8) (group : Nat)
  deriving DecidableEq, Repr

/-- One entry of an engine queue (R75): the bytes it has fetched through Sector windows (`none` for a
read that failed), whether only its completion add is left, whether all of it has been sent and only Sector
replies are awaited (R76), the details that it has logged once (R142, R181, R188), and the stamp that was open when
its copy started (R471). -/
structure Entry where
  id : Nat
  ctx : BitVec 6
  team : Nat
  wave : Nat
  quad : Nat
  body : EntryBody
  fetched : List (Nat × Option (List Byte))
  done : Bool
  sent : Bool
  logged : List Nat
  stamp : Option Nat
  deriving DecidableEq, Repr

/-- The layout entry a running walk uses (R220). -/
structure Layout where
  nodesz : Nat
  maxkids : Nat
  kindoff : Nat
  cpoff : Nat
  cpenc : Nat
  boxoff : Nat
  boxenc : Nat
  leafoff : Nat
  leafenc : Nat
  base : Word
  deriving DecidableEq, Repr

/-- Why a walk claims its record (R227): `wstart`, `wresume`, or the restore of its team. -/
inductive ClaimKind where
  | start | resume | restore
  deriving DecidableEq, Repr

/-- The claim of a record in a Sector window (R227, R440): the depth that a start writes, the control word that the
atomic expects to find, and whether it has found it, so that the record is loaded next. -/
structure WalkClaim where
  kind : ClaimKind
  depth : Nat
  ctl : Word
  claimed : Bool
  deriving DecidableEq, Repr

/-- A running walk (R223 to R234): the owner; the record as the engine holds it (R225); the walk
registers; the stack entries that the engine holds, top first; the layout and node buffer; the steps
counted; the claim that is still to be made; whether the walk has begun; the Sector bytes, logged details and code page check of the
operation it performs. -/
structure Walk where
  id : Nat
  ctx : BitVec 6
  team : Nat
  wave : Nat
  quad : Nat
  lane : Nat
  pend : Nat
  vd : Nat
  record : Word
  image : Vector Byte 256
  regs : Vector Word 8
  stack : List Word
  layout : Layout
  buffer : Option (List Byte)
  steps : Nat
  want : Option WalkClaim
  active : Bool
  fetched : List (Nat × Option (List Byte))
  logged : List Nat
  check : Option Nat
  deriving DecidableEq, Repr

/-! ### Teams -/

/-- What a saved team carries to its next core (R214, R424, R427, R431): the held lines that could not be
bound, its engine entries with their queues, its overflow entries with the oldest accumulate in each, and
its walks. -/
structure Carried where
  held : List HeldLine
  entries : List (Nat × Entry)
  overflow : List (List Byte)
  walks : List Walk
  deriving DecidableEq, Repr

/-- Where a team stands (R81, R88, R416, R424). -/
inductive TeamPhase where
  | live | stopped | saved | ended | discarded
  deriving DecidableEq, Repr

/-- What the core knows of a valid tile entry: the oldest accumulate whose addend it holds (R210), and the wave
and quad that issued the last one (R212). -/
structure TileNote where
  idx : Nat
  oldest : Nat
  wave : Nat
  quad : Nat
  deriving DecidableEq, Repr

/-- One team. Teams are never removed from the state: their position is their identity. -/
structure Team where
  ctx : BitVec 6
  core : Nat
  launch : Nat
  kernel : Kernel
  teamid : BitVec 32
  gridid : BitVec 32
  phase : TeamPhase
  scratch : Mem
  counter : Word
  rings : Vector (Option Ring) 16
  tiles : List TileNote
  waves : List Wave
  carried : Carried
  deriving DecidableEq, Repr

/-- One span entry of an A-latch (R390). -/
structure LatchEntry where
  span : Nat
  va : BitVec 10
  ta : BitVec 5
  scl : Bool
  vc : BitVec 10
  regs : List (Nat × Nat × Code)
  deriving DecidableEq, Repr

/-- The A-latch of a quarter (R390, R391). -/
structure Latch where
  owner : Option (Nat × Nat)
  entries : List LatchEntry
  lastUse : Nat
  deriving DecidableEq, Repr

/-- One quarter (R117 to R119, R390): the CLK until which its datapath is busy, and its latch. -/
structure Quarter where
  busyUntil : Nat
  latch : Latch
  deriving DecidableEq, Repr

/-- One core. -/
structure CoreSt where
  tlb : List TlbEntry
  checks : List CodeCheck
  held : List HeldLine
  clean : List CleanLine
  ilines : List CleanLine
  queues : Vector (List Entry) 8
  walks : List Walk
  quarters : Vector Quarter 4
  deriving DecidableEq, Repr

/-! ### Home slices, accumulates -/

/-- A release record (R179). -/
structure RelRecord where
  line : Nat
  pending : BitVec 288
  seen : BitVec 288
  deriving DecidableEq, Repr

/-- The states of a line at its home slice that are not invalid (R159). -/
inductive LineState where
  | clean | dirty | zero
  deriving DecidableEq, Repr

/-- A valid line (R158, R159), the context that last wrote it (R37 step 4) and its way, which is that of its
superblock's tag: 0 to 15, or 16 where its context may allocate in no way (R44). -/
structure Line where
  line : Nat
  st : LineState
  writer : BitVec 6
  way : Nat
  /-- The page of its last access asks for the lowest replacement priority (R147). -/
  low : Bool
  deriving DecidableEq, Repr

/-- One operation as an order log describes it (R473): line, class, outcome, requester, count. -/
structure OrderOp where
  line : Nat
  cls : Nat
  out : Nat
  req : Nat
  count : Nat
  deriving DecidableEq, Repr

/-- An arrival that waits at the input of a slice in a replay, since the given wall-clock time (R475, R476). -/
structure ReplayWait where
  op : OrderOp
  since : Nat
  deriving DecidableEq, Repr

/-- A recorded-order position of a slice in replay (R475): entries of a context already used, and the arrivals that
wait. -/
structure ReplayPos where
  ctx : BitVec 6
  /-- For each entry index of the segment, how many of its run have been performed. -/
  used : List (Nat × Nat)
  waits : List ReplayWait
  deriving DecidableEq, Repr

/-- One home slice. -/
structure Slice where
  /-- Most recently used first. -/
  records : List RelRecord
  markers : List Nat
  /-- Most recently used first (R44). -/
  lines : List Line
  /-- The window of 256 cycles that `counts` belongs to (R200). -/
  window : Nat
  /-- Accumulates performed on each line in that window (R200). -/
  counts : List (Nat × Nat)
  /-- Lines on which a host port, a Sector port, Tender or the dispatcher has released (R182, R191,
  R192): an acquire by a core on such a line drops the core's clean copies. -/
  outside : List Nat
  /-- Contexts whose segment of this slice is full (R472). -/
  logStopped : List (BitVec 6)
  replay : List ReplayPos
  deriving DecidableEq, Repr

/-- The class of an accumulate (R201). -/
inductive AccClass where
  | refusable | unrefusable | forced
  deriving DecidableEq, Repr

/-- The states of an addend that has left its core (R213); one that its slice has accepted holds an entry of the
slice's accumulate queue (R202). -/
inductive AccPhase where
  | flight | queued | returning | overflow
  deriving DecidableEq, Repr

/-- An outstanding accumulate (R199 to R213). -/
structure Acc where
  id : Nat
  /-- The oldest accumulate whose addend this one carries (R210). -/
  oldest : Nat
  ctx : BitVec 6
  core : Nat
  team : Nat
  wave : Nat
  quad : Nat
  addr : Word
  pa : Nat
  op : AccOp
  ty : AccTy
  value : Wide
  count : Nat
  cls : AccClass
  phase : AccPhase
  /-- Its place among the accumulates that slices have accepted (R202). -/
  seq : Nat
  /-- Its page asks for the lowest replacement priority (R147). -/
  low : Bool
  /-- It follows a `fence.rel` (R370). -/
  rel : Bool
  /-- The accumulate comes from the walk engine, for this walk (R240). -/
  walk : Option Nat
  deriving DecidableEq, Repr

/-- An accumulate of another device (R201, R440): the link of its reply, its place, and whether it has an entry of
the slice's accumulate queue or waits at the slice's input (R202). -/
structure PortAcc where
  link : Nat
  req : RemoteReq
  pa : Nat
  queued : Bool
  /-- Its place among the accumulates that slices have accepted (R202). -/
  seq : Nat
  /-- Its page asks for the lowest replacement priority (R147). -/
  low : Bool
  deriving DecidableEq, Repr

/-! ### The device -/

/-- Firmware (R49, R50). -/
inductive FwState where
  | verifying | running | failed
  deriving DecidableEq, Repr

/-- The states of a Sector link (R444). -/
inductive LinkState where
  | disabled | down | training | up | failed
  deriving DecidableEq, Repr

/-- A Sector link (R444, R445). -/
structure Link where
  state : LinkState
  en : Bool
  peer : BitVec 20
  plink : BitVec 5
  fails : Byte
  trainAt : Nat
  deriving DecidableEq, Repr

/-- Who made an outstanding Sector request (R443). -/
inductive Requester where
  /-- A load or returning atomic: its pend, and the loads that take the reply: quad, place in the
  pend's loads, offset in its bytes. -/
  | load (team wave pend : Nat) (targets : List (Nat × Nat × Nat))
  /-- A store, add or accumulate, which returns nothing. -/
  | store (team wave quad : Nat)
  /-- A remote wait. -/
  | wait (team wave quad : Nat)
  /-- An engine of a core: the entry or packet, and which of its bytes a read brings. -/
  | engine (core id key : Nat)
  /-- A block that an instruction of a quad reads at issue. -/
  | fetch (team wave quad : Nat)
  /-- A counter or block that the dispatcher reads for a queue. -/
  | tender (queue : BitVec 8)
  deriving DecidableEq, Repr

/-- An outstanding Sector request (R438, R443); `cover` is the oldest accumulate whose addend it carries (R210), or
its own number. -/
structure Request where
  id : Nat
  cover : Nat
  who : Requester
  ctx : BitVec 6
  dev : BitVec 20
  link : Nat
  sentAt : Nat
  addr : Word
  body : RemoteReq
  /-- The wall-clock time at which a wait was answered with retry (R142). -/
  retryAt : Option Nat
  deriving DecidableEq, Repr

/-- What the dispatcher has read for a queue through a Sector window (R54, R63, R438): the address, the request, and
its reply, none inside where it failed. -/
structure QueueFetch where
  ctx : BitVec 6
  queue : BitVec 8
  addr : Word
  req : Nat
  reply : Option (Option (List Byte))
  deriving DecidableEq, Repr

/-- A remote wait that this device holds for another (R142): the link that its reply takes, the place of
the counter, the scope cap of its page, the reply that it has earned, once an operation has released
it, and whether that reply has left; a wait that was satisfied is remembered for its cancel (R441). -/
structure HeldRemote where
  link : Nat
  req : RemoteReq
  pa : Nat
  cap : Nat
  answer : Option RemoteRep
  sent : Bool
  deriving DecidableEq, Repr

/-- What leaves the device on a Sector link. -/
inductive SectorOut where
  | request (link : Nat) (r : RemoteReq)
  | reply (link : Nat) (id : Nat) (r : RemoteRep)
  | forward (link : Nat) (dst : Nat) (payload : List Byte)
  deriving DecidableEq, Repr

/-- Tender's device log (R30, R31, R434). -/
structure TenderEntry where
  port : Port
  offset : Nat
  deriving DecidableEq, Repr

/-- The completion of a host's last non-posted access (R432 to R434). -/
inductive HostReply where
  | none
  | data (bytes : List Byte)
  | completerAbort
  | unsupported
  deriving DecidableEq, Repr

/-- A write that left through a host aperture (R435). -/
structure ApertureWrite where
  addr : Nat
  value : Byte
  deriving DecidableEq, Repr

/-- One entry of a port's MSI-X table (R45): its mask and pending bits. -/
structure MsixEntry where
  masked : Bool
  pending : Bool
  deriving DecidableEq, Repr

/-- What one port sees. -/
structure PortSt where
  ownResult : BitVec 2
  reply : HostReply
  /-- Writes the device sent to this port's host, newest first. -/
  sent : List ApertureWrite
  /-- The MSI-X table (R45). -/
  msix : Vector MsixEntry 256
  /-- MSI-X vectors raised, newest first (R45). -/
  raised : List Nat
  deviceErrors : Nat
  attestation : Option (List Byte)
  deriving DecidableEq, Repr

/-- An entry of the error log of a context that a replay holds, since the add on its producer counter is not next
(R475). -/
structure LogWait where
  ctx : BitVec 6
  bytes : List Byte
  deriving DecidableEq, Repr

/-- A stall counter that has risen (R468), with the CLK of its last increments and what these came to (R470). -/
structure Stall where
  core : Nat
  ctx : BitVec 6
  idx : Nat
  count : Word
  clk : Nat
  recent : Word
  deriving DecidableEq, Repr

/-- The recovery window (R51). -/
structure Recovery where
  buffer : Mem
  len : BitVec 22
  state : BitVec 3
  reason : Byte
  deriving DecidableEq, Repr

/-- Which agent moves next. -/
inductive Agent where
  /-- A quarter issues one instruction of the oldest ready gang of its active set (R117). -/
  | quarter (core q : Nat)
  /-- A walk engine performs one walk operation (R402). -/
  | walk (core id : Nat)
  /-- An operation or event without an encoding. -/
  | event (i : Instr)
  /-- A host reads a register of a BAR (R9, R433). -/
  | hostRead (port : Port) (bar : Bar) (off : BitVec 24)
  /-- A host sends an AtomicOp that is no FetchAdd of 64 bits (R432). -/
  | hostAtomic (port : Port)
  /-- A host masks or unmasks an entry of its MSI-X table (R45). -/
  | hostMask (port : Port) (vector : BitVec 8) (masked : Bool)
  deriving DecidableEq, Repr

/-- One entry of the agenda: how many arithmetic-clock cycles pass, then which agent moves. -/
structure Slot where
  dt : Nat
  agent : Agent
  deriving DecidableEq, Repr

/-- Which agent issues the instruction that `exec` performs. -/
inductive Issuer where
  | none
  | gang (team wave base : Nat)
  | walk (core id : Nat)
  deriving DecidableEq, Repr

/-- The machine. -/
structure State where
  clk : Nat
  /-- The arithmetic clock in steps of 100 MHz (R25). -/
  rate : Nat
  /-- Wall-clock time since device reset, in units of 1 / 2116296000 µs (notes/assumptions/2.md). -/
  wall : Nat
  mem : Mem
  /-- Poisoned lines, rising (R160). -/
  poisoned : List Nat
  owners : Vector (Option Port) 64
  ctxs : Vector Ctx 64
  cores : Vector CoreSt 288
  slices : Vector Slice 128
  teams : List Team
  launches : List Launch
  accs : List Acc
  portAccs : List PortAcc
  requests : List Request
  fetches : List QueueFetch
  remoteWaits : List HeldRemote
  sectorOut : List SectorOut
  ports : Vector PortSt 2
  tenderLog : List TenderEntry
  fw : FwState
  flash : List Byte
  recovery : Recovery
  fabValid : Bool
  fabId : BitVec 20
  /-- Route entries that were written, by device id; an entry not listed names no link. -/
  route : List (Nat × BitVec 16)
  links : Vector Link 18
  stalls : List Stall
  logWaits : List LogWait
  /-- The context that received the last dispatch grant (R69). -/
  lastGrant : BitVec 6
  agenda : List Slot
  cur : Issuer
  free : Nat
  nextId : Nat
  deriving DecidableEq, Repr

/-! ### Reset -/

/-- A queue before any bind. -/
def Queue.reset : Queue :=
  { ring := 0, prod := 0, cons := 0, prio := 0, lgsize := 4, state := .disabled, readyCycles := 0
    boost := 0, entering := none, admitted := [] }

/-- A remote window before any bind. -/
def RemoteWindow.reset : RemoteWindow := { valid := false, rbase := 0, size := 0, dev := 0, ctx := 0 }

/-- A control block after device reset and after the create command (R32, R33, R53, R82, R95, R156,
R161, R218, R422, R437, R467), in the given state. -/
def Ctx.fresh (phase : CtxPhase) : Ctx :=
  { phase := phase, busy := false, result := 0, lost := 0, root := 0, winLo := 0, winHi := 0
    tag := 0, ways := 0, acc := 16, mml := 0, log := 0, qtab := 0, man := 0, lgcount := 0, lay := 0
    save := 0, svUsed := 0, svSize := 0, dlSave := 20000, dlDrain := 1000, rwt := 0
    migDrain := false, migPortable := false, invPend := false, invSize := 0, invVa := 0, grid := 0
    queues := Vector.replicate 256 Queue.reset, lastQueue := 255
    windows := Vector.replicate 256 RemoteWindow.reset, quiesceAt := 0, quiesceDrain := 0
    quiesceSave := 0, quiesceMig := false, saving := false, faultPending := false
    resetQuiet := false, destroying := false, neverRun := true, lnCore := 0, lnSlot := 0, lnRefused := 0, lnOvf := false
    lnDiverged := false, lnBase := 0, lnLgseg := 12, lnMode := 0, lnActive := 0, lnShot := [] }

/-- A core after device reset. -/
def CoreSt.reset : CoreSt :=
  { tlb := [], checks := [], held := [], clean := [], ilines := []
    queues := Vector.replicate 8 [], walks := []
    quarters := Vector.replicate 4
      { busyUntil := 0, latch := { owner := none, entries := [], lastUse := 0 } } }

/-- A slice after device reset. -/
def Slice.reset : Slice :=
  { records := [], markers := [], lines := [], window := 0, counts := [], outside := [], logStopped := []
    replay := [] }

/-- A link after device reset (R444). -/
def Link.reset : Link := { state := .disabled, en := false, peer := 0, plink := 0, fails := 0, trainAt := 0 }

/-- A port after device reset. Every entry of the MSI-X table is masked, as PCI Express has it
(notes/assumptions/84.md). -/
def PortSt.reset : PortSt :=
  { ownResult := 0, reply := .none, sent := []
    msix := Vector.replicate 256 { masked := true, pending := false }, raised := [], deviceErrors := 0
    attestation := none }

/-- The ownership table after every device reset: 0 to 31 to port 0, 32 to 63 to port 1 (R30). -/
def ownersReset : Vector (Option Port) 64 :=
  Vector.ofFn fun i => if i.val < 32 then some .p0 else some .p1

/-- The machine right after device reset (R8, R30, R33, R49, R51, R304, R442, R444, R467). -/
def State.reset : State :=
  { clk := 0, rate := 19, wall := 0, mem := [], poisoned := [], owners := ownersReset
    ctxs := Vector.replicate 64 (Ctx.fresh .destroyed)
    cores := Vector.replicate 288 CoreSt.reset
    slices := Vector.replicate 128 Slice.reset
    teams := [], launches := [], accs := [], portAccs := [], requests := [], fetches := []
    remoteWaits := [], sectorOut := []
    ports := Vector.replicate 2 PortSt.reset, tenderLog := [], fw := .verifying, flash := []
    recovery := { buffer := [], len := 0, state := 0, reason := 0 }
    fabValid := false, fabId := 0, route := []
    links := Vector.replicate 18 Link.reset, stalls := [], logWaits := [], lastGrant := 63, agenda := []
    cur := .none, free := 0, nextId := 0 }

end Sys2Proof.Machine
end

