-- ==== Sys2Proof/Machine/Mem.lean ====
section
/-! DEFINITION. Bytes of memory: the canonical list form of `Mem`, wider reads and writes in the
one byte order of the machine (R5), lists of regions, and small list helpers. -/

namespace Sys2Proof.Machine

/-- The numbers 0 to n - 1. -/
abbrev upTo (n : Nat) : List Nat := List.range n

/-- One byte. An address that is not listed reads as 0 (notes/assumptions/1.md). -/
def Mem.get : Mem → Nat → Byte
  | [], _ => 0
  | (a, b) :: m, x => if x = a then b else if x < a then 0 else Mem.get m x

/-- Writes one byte; writing 0 removes the entry. -/
def Mem.set : Mem → Nat → Byte → Mem
  | [], x, v => if v = 0 then [] else [(x, v)]
  | (a, b) :: m, x, v =>
    if x < a then (if v = 0 then (a, b) :: m else (x, v) :: (a, b) :: m)
    else if x = a then (if v = 0 then m else (x, v) :: m)
    else (a, b) :: Mem.set m x v

/-- The canonical form from an address on. -/
def Mem.wfFrom : Nat → Mem → Bool
  | _, [] => true
  | lo, (a, b) :: m => decide (lo ≤ a) && (b != 0) && Mem.wfFrom (a + 1) m

/-- The canonical form: addresses strictly rising, no entry 0. -/
def Mem.wf (m : Mem) : Bool := Mem.wfFrom 0 m

/-- `n` bytes from address `a`. -/
def Mem.read (m : Mem) (a n : Nat) : List Byte := (List.range n).map fun i => m.get (a + i)

/-- Writes bytes from address `a` on. -/
def Mem.write (m : Mem) (a : Nat) : List Byte → Mem
  | [] => m
  | b :: bs => Mem.write (m.set a b) (a + 1) bs

/-- The little-endian number of a byte list (R5). -/
def leNat : List Byte → Nat
  | [] => 0
  | b :: bs => b.toNat + 256 * leNat bs

/-- The low `n` bytes of a number, little-endian (R5). -/
def leBytes : Nat → Nat → List Byte
  | 0, _ => []
  | n + 1, v => BitVec.ofNat 8 v :: leBytes n (v / 256)

/-- A little-endian field of a byte list. -/
def field (bs : List Byte) (off n : Nat) : Nat := leNat ((bs.drop off).take n)

/-- A 64-bit field of a byte list. -/
def field64 (bs : List Byte) (off : Nat) : Word := BitVec.ofNat 64 (field bs off 8)

/-- A 32-bit field of a byte list. -/
def field32 (bs : List Byte) (off : Nat) : Code := BitVec.ofNat 32 (field bs off 4)

/-- Every byte of a range is zero. -/
def zeroField (bs : List Byte) (off n : Nat) : Bool := ((bs.drop off).take n).all (· == 0)

/-- Overwrites part of a byte list. -/
def patch (bs : List Byte) (off : Nat) (new : List Byte) : List Byte :=
  bs.take off ++ new ++ bs.drop (off + new.length)

/-- Overwrites part of a 256-byte image. -/
def putImage (v : Vector Byte 256) (off : Nat) (bs : List Byte) : Vector Byte 256 :=
  (upTo bs.length).foldl (fun v i => v.setIfInBounds (off + i) (bs.getD i 0)) v

/-- The line number of an address (128-byte lines, R22). -/
def lineOf (a : Nat) : Nat := a / 128

/-- Changes the element at a position of a list; a position beyond its end changes nothing. -/
def modAt {α : Type} (l : List α) (i : Nat) (f : α → α) : List α :=
  match l, i with
  | [], _ => []
  | a :: as, 0 => f a :: as
  | a :: as, i + 1 => a :: modAt as i f

/-- Changes one element of a vector; a position beyond its end changes nothing. -/
def modVec {α : Type} {n : Nat} (v : Vector α n) (i : Nat) (f : α → α) : Vector α n :=
  if h : i < n then v.set i (f v[i]) else v

/-- Bits [hi:lo] of a word as a number. -/
def slice (w : Word) (hi lo : Nat) : Nat := (w.toNat >>> lo) % 2 ^ (hi + 1 - lo)

/-- Sign-extension of a field to 64 bits (R267). -/
abbrev sext {n : Nat} (x : BitVec n) : Word := x.signExtend 64

/-- Zero-extension to 64 bits (R267). -/
abbrev zext {n : Nat} (x : BitVec n) : Word := x.setWidth 64

/-- The signed value of an n-bit number. -/
def toSigned (n : Nat) (x : Nat) : Int := if x < 2 ^ (n - 1) then (x : Int) else (x : Int) - 2 ^ n

/-- An integer modulo 2^n, as a number. -/
def wrapNat (n : Nat) (x : Int) : Nat := (x % (2 ^ n : Int)).toNat

/-- `a` rounded up to a quotient: ceil (a / b). -/
def ceilDiv (a b : Nat) : Nat := (a + b - 1) / b

/-- Inserts a number into a rising list without repeats. -/
def insertNat (x : Nat) : List Nat → List Nat
  | [] => [x]
  | y :: ys => if x < y then x :: y :: ys else if x = y then y :: ys else y :: insertNat x ys

/-- A rising list of the numbers that occur in a list. -/
def sortNats (l : List Nat) : List Nat := l.foldl (fun acc x => insertNat x acc) []

/-- The value a key has in an association list, or a default. -/
def lookupD {α : Type} (l : List (Nat × α)) (k : Nat) (d : α) : α :=
  match l with
  | [] => d
  | (k', v) :: rest => if k' = k then v else lookupD rest k d

/-- Sets the value of a key in an association list with rising keys. -/
def assocSet {α : Type} (l : List (Nat × α)) (k : Nat) (v : α) : List (Nat × α) :=
  match l with
  | [] => [(k, v)]
  | (k', v') :: rest =>
    if k < k' then (k, v) :: (k', v') :: rest
    else if k = k' then (k, v) :: rest
    else (k', v') :: assocSet rest k v

end Sys2Proof.Machine
end

