-- ==== Sys2Proof/Machine/Numbers.lean ====
section
/-! DEFINITION. Number formats and arithmetic (11_numbers): exact numbers as a sign, a natural
mantissa and a power of two, rounding into every format, stochastic rounding, conversions, exact
arithmetic, and the elementary functions of R337 (notes/assumptions/20.md). -/

namespace Sys2Proof

open Sys2Proof.Machine

/-! ### Formats (R244, R245) -/

/-- Which encodings of a format are special (R245). -/
inductive SpecialEnc where
  /-- An all-ones exponent: infinities and NaNs. -/
  | ieee
  /-- 0x7F and 0xFF are NaN, and nothing else is special. -/
  | e4m3
  | none
  deriving DecidableEq, Repr

/-- A floating-point format with a sign bit. -/
structure Fmt where
  ebits : Nat
  mbits : Nat
  bias : Nat
  special : SpecialEnc
  deriving DecidableEq, Repr

/-- The formats of R244. Types that are not floating-point map to f32, and are never asked for. -/
def ElemTy.fmt : ElemTy → Fmt
  | .f64 => { ebits := 11, mbits := 52, bias := 1023, special := .ieee }
  | .f16 => { ebits := 5, mbits := 10, bias := 15, special := .ieee }
  | .bf16 => { ebits := 8, mbits := 7, bias := 127, special := .ieee }
  | .e5m2 => { ebits := 5, mbits := 2, bias := 15, special := .ieee }
  | .e4m3 => { ebits := 4, mbits := 3, bias := 7, special := .e4m3 }
  | .e3m2 => { ebits := 3, mbits := 2, bias := 3, special := .none }
  | .e2m3 => { ebits := 2, mbits := 3, bias := 1, special := .none }
  | .e2m1 => { ebits := 2, mbits := 1, bias := 1, special := .none }
  | .f32 | .i8 | .i16 | .i32 | .i64 | .n8 | .n16 | .n32 | .n64 | .fx128 | .i4 =>
    { ebits := 8, mbits := 23, bias := 127, special := .ieee }

/-- f32. -/
abbrev f32 : Fmt := ElemTy.f32.fmt

/-- The sign bit's weight. -/
def Fmt.signBit (f : Fmt) : Nat := 2 ^ (f.ebits + f.mbits)

/-- Exponent of the smallest normal. -/
def Fmt.emin (f : Fmt) : Int := 1 - (f.bias : Int)

/-- The encoding of the largest finite value, sign 0. -/
def Fmt.maxEnc (f : Fmt) : Nat :=
  match f.special with
  | .ieee => (2 ^ f.ebits - 1) * 2 ^ f.mbits - 1
  | .e4m3 => 0x7E
  | .none => f.signBit - 1

/-- The encoding of +infinity, or of the largest finite value where there is none (R253). -/
def Fmt.infEnc (f : Fmt) : Nat :=
  match f.special with
  | .ieee => (2 ^ f.ebits - 1) * 2 ^ f.mbits
  | .e4m3 | .none => f.maxEnc

/-- The canonical quiet NaN (R246); +0 in a format without NaN (R253). -/
def Fmt.nanEnc (f : Fmt) : Nat :=
  match f.special with
  | .ieee => (2 ^ f.ebits - 1) * 2 ^ f.mbits + 2 ^ (f.mbits - 1)
  | .e4m3 => 0x7F
  | .none => 0

/-- The format has infinities. -/
def Fmt.hasInf (f : Fmt) : Bool := f.special == .ieee

/-! ### Exact numbers -/

/-- A real number with a sign, a NaN or an infinity. `fin neg m e st` is (-1)^neg × m × 2^e, plus,
in magnitude, some amount strictly between 0 and 2^e when `st` holds. `fin neg 0 _ false` is ±0. -/
inductive Num where
  | nan
  | inf (neg : Bool)
  | fin (neg : Bool) (m : Nat) (e : Int) (st : Bool)
  deriving DecidableEq, Repr

/-- A signed zero. -/
def Num.zero (neg : Bool) : Num := .fin neg 0 0 false

/-- An integer. -/
def Num.ofInt (x : Int) : Num := .fin (decide (x < 0)) x.natAbs 0 false

/-- The value of an encoding (R244, R245). -/
def Fmt.decode (f : Fmt) (bits : Nat) : Num :=
  let neg := (bits / f.signBit) % 2 == 1
  let e := (bits / 2 ^ f.mbits) % 2 ^ f.ebits
  let m := bits % 2 ^ f.mbits
  let special :=
    match f.special with
    | .ieee => e == 2 ^ f.ebits - 1
    | .e4m3 => e == 15 && m == 7
    | .none => false
  if special then (if m = 0 then .inf neg else .nan)
  else if e = 0 then .fin neg m (f.emin - f.mbits) false
  else .fin neg (m + 2 ^ f.mbits) ((e : Int) - f.bias - f.mbits) false

/-- The encoding is of a subnormal. -/
def Fmt.isSubnormal (f : Fmt) (bits : Nat) : Bool :=
  (bits / 2 ^ f.mbits) % 2 ^ f.ebits == 0 && bits % 2 ^ f.mbits != 0

/-- The encoding is of a NaN. -/
def Fmt.isNan (f : Fmt) (bits : Nat) : Bool :=
  match f.decode bits with
  | .nan => true
  | .inf _ | .fin _ _ _ _ => false

/-- R254: with `.ftz` a subnormal becomes a zero of its sign. -/
def Fmt.flush (f : Fmt) (ftz : Bool) (bits : Nat) : Nat :=
  if ftz && f.isSubnormal bits then bits / f.signBit * f.signBit else bits

/-- floor (log2 n) for n > 0. -/
def lg (n : Nat) : Nat := n.log2

/-! ### Rounding (R251 to R253) -/

/-- Whether a magnitude `k` quanta and a fraction `rem / 2^sh` (plus a little, when `st`) rounds up
(R252). `r` is the stochastic number. -/
def roundUp (mode : Rnd) (r : Nat) (neg : Bool) (k rem sh : Nat) (st : Bool) : Bool :=
  let some_ := decide (0 < rem) || st
  match mode with
  | .rne => decide (2 ^ sh < 2 * rem) || (decide (2 ^ sh = 2 * rem) && (st || k % 2 == 1))
  | .rna => decide (2 ^ sh ≤ 2 * rem)
  | .rz => false
  | .ru => some_ && !neg
  | .rd => some_ && neg
  | .rs => some_ && decide (2 ^ 32 ≤ rem * 2 ^ 32 / 2 ^ sh + r)

/-- A magnitude in quanta of 2^qe: the whole quanta, and the fraction over 2^sh. -/
def quanta (m : Nat) (e qe : Int) : Nat × Nat × Nat :=
  if qe ≤ e then (m * 2 ^ (e - qe).toNat, 0, 0)
  else
    let sh := (qe - e).toNat
    (m / 2 ^ sh, m % 2 ^ sh, sh)

/-- R253, for a magnitude beyond the largest finite value; `sat` is `.sat` of R257. -/
def Fmt.overflow (f : Fmt) (mode : Rnd) (neg sat : Bool) : Nat :=
  if sat || !f.hasInf then f.maxEnc
  else
    match mode with
    | .rne | .rna | .rs => f.infEnc
    | .rz => f.maxEnc
    | .ru => if neg then f.maxEnc else f.infEnc
    | .rd => if neg then f.infEnc else f.maxEnc

/-- RoundTo(F, mode) of R252 and R253, as an encoding of F; `r` is the stochastic number of R255 and
`sat` the modifier of R257. -/
def Fmt.roundTo (f : Fmt) (mode : Rnd) (r : Nat) (sat : Bool) : Num → Nat
  | .nan => f.nanEnc
  | .inf neg => (if sat then f.maxEnc else f.infEnc) + (if neg then f.signBit else 0)
  | .fin neg m e st =>
    let sign := if neg then f.signBit else 0
    if m = 0 then sign
    else
      let qe : Int := max ((lg m : Int) + e) f.emin - f.mbits
      let (k, rem, sh) := quanta m e qe
      let base := (qe + f.mbits - f.emin).toNat * 2 ^ f.mbits
      let beyond := decide (f.maxEnc < base + k) || (base + k == f.maxEnc && (decide (0 < rem) || st))
      let mode := if mode = .rs ∧ beyond then .rne else mode
      let y := base + (if roundUp mode r neg k rem sh st then k + 1 else k)
      sign + (if f.maxEnc < y then f.overflow mode neg sat else y)

/-- An exact number rounded to an integer (R258, R334). -/
def Num.toIntR (mode : Rnd) (r : Nat) (neg : Bool) (m : Nat) (e : Int) (st : Bool) : Int :=
  let (k, rem, sh) := quanta m e 0
  let y := if roundUp mode r neg k rem sh st then k + 1 else k
  if neg then -(y : Int) else y

/-! ### Stochastic numbers (R255) -/

/-- StochHash (R255). -/
def stochHash (seed : Word) (lane elem : Nat) : Nat :=
  let g : Word := 0x9E3779B97F4A7C15
  let x := seed + g * BitVec.ofNat 64 (lane * 2 ^ 32 + elem % 2 ^ 32) + g
  let x := (x ^^^ (x >>> 30)) * 0xBF58476D1CE4E5B9
  let x := (x ^^^ (x >>> 27)) * 0x94D049BB133111EB
  let x := x ^^^ (x >>> 31)
  (x.extractLsb' 32 32).toNat

/-! ### Exact arithmetic -/

/-- A finite number as an integer multiple of 2^e. -/
def scaled (neg : Bool) (m : Nat) (x e : Int) : Int :=
  let v : Int := m * 2 ^ (x - e).toNat
  if neg then -v else v

/-- The sign of an exact zero sum: minus under RD (R247). -/
def zeroSign (mode : Rnd) : Bool := mode == .rd

/-- Exact sum. -/
def Num.add (mode : Rnd) : Num → Num → Num
  | .nan, _ => .nan
  | _, .nan => .nan
  | .inf a, .inf b => if a = b then .inf a else .nan
  | .inf a, .fin _ _ _ _ => .inf a
  | .fin _ _ _ _, .inf b => .inf b
  | .fin n1 m1 e1 s1, .fin n2 m2 e2 s2 =>
    if m2 = 0 ∧ m1 ≠ 0 then .fin n1 m1 e1 s1
    else if m1 = 0 ∧ m2 ≠ 0 then .fin n2 m2 e2 s2
    else
      let e := min e1 e2
      let i := scaled n1 m1 e1 e + scaled n2 m2 e2 e
      if i = 0 then .zero (if n1 = n2 then n1 else zeroSign mode)
      else .fin (decide (i < 0)) i.natAbs e false

/-- The negated number. -/
def Num.neg : Num → Num
  | .nan => .nan
  | .inf a => .inf (!a)
  | .fin n m e s => .fin (!n) m e s

/-- Exact product. -/
def Num.mul : Num → Num → Num
  | .nan, _ => .nan
  | _, .nan => .nan
  | .inf a, .inf b => .inf (a != b)
  | .inf a, .fin n m _ _ => if m = 0 then .nan else .inf (a != n)
  | .fin n m _ _, .inf b => if m = 0 then .nan else .inf (n != b)
  | .fin n1 m1 e1 _, .fin n2 m2 e2 _ => .fin (n1 != n2) (m1 * m2) (e1 + e2) false

/-- Quotient to 160 bits and a remainder mark (R333). -/
def Num.div : Num → Num → Num
  | .nan, _ => .nan
  | _, .nan => .nan
  | .inf _, .inf _ => .nan
  | .inf a, .fin n _ _ _ => .inf (a != n)
  | .fin n _ _ _, .inf b => .zero (n != b)
  | .fin n1 m1 e1 _, .fin n2 m2 e2 _ =>
    if m2 = 0 then (if m1 = 0 then .nan else .inf (n1 != n2))
    else if m1 = 0 then .zero (n1 != n2)
    else
      let s := lg m2 + 160
      let a := m1 * 2 ^ s
      .fin (n1 != n2) (a / m2) (e1 - e2 - s) (a % m2 != 0)

/-- floor of the square root, from bit `i - 1` downwards. -/
def isqrtFrom (n : Nat) : Nat → Nat → Nat
  | 0, r => r
  | i + 1, r => isqrtFrom n i (if (r + 2 ^ i) * (r + 2 ^ i) ≤ n then r + 2 ^ i else r)

/-- floor of the square root. -/
def isqrt (n : Nat) : Nat := isqrtFrom n (lg n / 2 + 1) 0

/-- Square root to 160 bits or more and a remainder mark (R333). -/
def Num.sqrt : Num → Num
  | .nan => .nan
  | .inf neg => if neg then .nan else .inf false
  | .fin neg m e _ =>
    if m = 0 then .zero neg
    else if neg then .nan
    else
      let s : Nat := if e % 2 = 0 then 320 else 321
      let a := m * 2 ^ s
      let r := isqrt a
      .fin false r ((e - s) / 2) (r * r != a)

/-- 1 / √x to 160 bits or more and a remainder mark (R333). -/
def Num.rsqrt : Num → Num
  | .nan => .nan
  | .inf neg => if neg then .nan else .zero false
  | .fin neg m e _ =>
    if m = 0 then .inf neg
    else if neg then .nan
    else
      let s : Nat := (if e % 2 = 0 then 400 else 401) + 2 * lg m
      let a := 2 ^ s
      let r := isqrt (a / m)
      .fin false r ((-e - s) / 2) (r * r * m != a)

/-! ### Comparisons -/

/-- `a < b`, and false with a NaN. -/
def Num.lt : Num → Num → Bool
  | .nan, _ => false
  | _, .nan => false
  | .inf a, .inf b => a && !b
  | .inf a, .fin _ _ _ _ => a
  | .fin _ _ _ _, .inf b => !b
  | .fin n1 m1 e1 _, .fin n2 m2 e2 _ =>
    let e := min e1 e2
    decide (scaled n1 m1 e1 e < scaled n2 m2 e2 e)

/-- `a = b` with −0 = +0, and false with a NaN. -/
def Num.eq : Num → Num → Bool
  | .nan, _ => false
  | _, .nan => false
  | .inf a, .inf b => a == b
  | .inf _, .fin _ _ _ _ => false
  | .fin _ _ _ _, .inf _ => false
  | .fin n1 m1 e1 _, .fin n2 m2 e2 _ =>
    let e := min e1 e2
    decide (scaled n1 m1 e1 e = scaled n2 m2 e2 e)

/-- A NaN. -/
def Num.isNan : Num → Bool
  | .nan => true
  | .inf _ => false
  | .fin _ _ _ _ => false

/-- The sign, false for a NaN. -/
def Num.isNeg : Num → Bool
  | .nan => false
  | .inf n => n
  | .fin n _ _ _ => n

/-- A zero of either sign. -/
def Num.isZero : Num → Bool
  | .nan => false
  | .inf _ => false
  | .fin _ m _ _ => m == 0

/-- Below, with −0 below +0 (R332). -/
def Num.below (a b : Num) : Bool := a.lt b || (a.isZero && b.isZero && a.isNeg && !b.isNeg)

/-- `vmin` on encodings (R332). -/
def Fmt.minEnc (f : Fmt) (a b : Nat) : Nat :=
  let x := f.decode a
  let y := f.decode b
  if x.isNan && y.isNan then f.nanEnc
  else if x.isNan then b
  else if y.isNan then a
  else if y.below x then b else a

/-- `vmax` on encodings (R332). -/
def Fmt.maxEncOf (f : Fmt) (a b : Nat) : Nat :=
  let x := f.decode a
  let y := f.decode b
  if x.isNan && y.isNan then f.nanEnc
  else if x.isNan then b
  else if y.isNan then a
  else if x.below y then b else a

/-- The conditions of R335. -/
def Cond.holdsFp (c : Cond) (a b : Num) : Bool :=
  let uno := a.isNan || b.isNan
  match c with
  | .eq => a.eq b
  | .ne => !a.eq b
  | .lt => a.lt b
  | .le => a.lt b || a.eq b
  | .gt => b.lt a
  | .ge => b.lt a || a.eq b
  | .ord => !uno
  | .uno => uno

/-- The conditions of R327 on integers. -/
def Cond.holdsInt (c : Cond) (a b : Int) : Bool :=
  match c with
  | .eq => decide (a = b)
  | .ne => decide (a ≠ b)
  | .lt => decide (a < b)
  | .le => decide (a ≤ b)
  | .gt => decide (b < a)
  | .ge => decide (b ≤ a)
  | .ord => true
  | .uno => false

/-! ### Elementary functions (R337) -/

/-- π in units of 2^−320, rounded down. -/
def piFix : Nat := 0x3243f6a8885a308d313198a2e03707344a4093822299f31d0082efa98ec4e6c89452821e638d01377

/-- ln 2 in units of 2^−320, rounded down. -/
def ln2Fix : Nat := 0xb17217f7d1cf79abc9e3b39803f2f6af40f343267298b62d8a0d175b8baafa2be7b876206debac98

/-- Σ y^n / n! in units of 2^−320, from term `n` on. -/
def expSum (y : Nat) : Nat → Nat → Nat → Nat
  | 0, _, _ => 0
  | fuel + 1, n, term => term + expSum y fuel (n + 1) (term * y / ((n + 1) * 2 ^ 320))

/-- 2^x of a finite number: exact for an integer x, else 320 bits and a mark. -/
def exp2Num (neg : Bool) (m : Nat) (e : Int) : Num :=
  if (8 : Int) < lg m + e ∧ m ≠ 0 then (if neg then .fin false 1 (-2000) true else .fin false 1 2000 false)
  else
    let i := scaled neg m e (min e 0)
    let k := (-(min e 0)).toNat
    let n := i / 2 ^ k
    let fr := (i % 2 ^ k).toNat
    if fr = 0 then .fin false 1 n false
    else
      let y := fr * ln2Fix / 2 ^ k
      .fin false (expSum y 90 0 (2 ^ 320)) (n - 320) true

/-- Binary digits of log2 of a mantissa in [1, 2) in units of 2^−320, by squaring. -/
def log2Digits : Nat → Nat → Nat → Nat
  | 0, _, acc => acc
  | n + 1, y, acc =>
    let z := y * y / 2 ^ 320
    if 2 ^ 321 ≤ z then log2Digits n (z / 2) (2 * acc + 1) else log2Digits n z (2 * acc)

/-- log2 of a positive finite number: exact for a power of two, else 160 fraction bits and a mark. -/
def log2Num (m : Nat) (e : Int) : Num :=
  let l := lg m
  let whole : Int := (l : Int) + e
  if m = 2 ^ l then .ofInt whole
  else
    let t := whole * 2 ^ 160 + log2Digits 160 (m * 2 ^ (320 - l)) 0
    if 0 ≤ t then .fin false t.toNat (-160) true else .fin true (-t - 1).toNat (-160) true

/-- Horner form of the alternating series Σ (−z)^n / ((o + 1) … (o + 2n)), in units of 2^−320. -/
def altSum (z o : Nat) : Nat → Nat → Nat
  | 0, _ => 2 ^ 320
  | fuel + 1, n =>
    2 ^ 320 - z * altSum z o fuel (n + 1) / ((2 * n + 1 + o) * (2 * n + 2 + o) * 2 ^ 320)

/-- (π u)^2 in units of 2^−320, for u = um / 2^k. -/
def piSquare (um k : Nat) : Nat := (um * piFix) * (um * piFix) / 2 ^ (2 * k + 320)

/-- sin (π u) for 0 < u = um / 2^k ≤ 1/4. -/
def sinSmall (um k : Nat) : Num :=
  .fin false (um * piFix * altSum (piSquare um k) 1 45 0) (-(k : Int) - 640) true

/-- cos (π u) for 0 ≤ u = um / 2^k ≤ 1/4. -/
def cosSmall (um k : Nat) : Num :=
  if um = 0 then .fin false 1 0 false else .fin false (altSum (piSquare um k) 0 45 0) (-320) true

/-- sin (π t) for 0 ≤ t = tm / 2^k < 1/2. -/
def sinPart (tm k : Nat) : Num :=
  if tm = 0 then .zero false
  else if tm * 4 ≤ 2 ^ k then sinSmall tm k
  else cosSmall (2 ^ (k - 1) - tm) k

/-- cos (π t) for 0 ≤ t = tm / 2^k < 1/2. -/
def cosPart (tm k : Nat) : Num :=
  if tm * 4 ≤ 2 ^ k then cosSmall tm k else sinSmall (2 ^ (k - 1) - tm) k

/-- The quarter turn of a non-negative x = m × 2^e and the rest of x as tm / 2^k. -/
def quarterTurn (m : Nat) (e : Int) : Nat × Nat × Nat :=
  let k := (-(min e 0)).toNat
  let x := (m * 2 ^ (max e 0).toNat) % 2 ^ (k + 1)
  (2 * x / 2 ^ k, 2 * x % 2 ^ k, k + 1)

/-- sin (π x) of a finite non-zero number (R337). -/
def sinPiNum (neg : Bool) (m : Nat) (e : Int) : Num :=
  let (q, tm, k) := quarterTurn m e
  let v :=
    match q with
    | 0 => sinPart tm k
    | 1 => cosPart tm k
    | 2 => if tm = 0 then .zero false else (sinPart tm k).neg
    | _ => (cosPart tm k).neg
  if neg then v.neg else v

/-- cos (π x) of a finite number (R337). -/
def cosPiNum (m : Nat) (e : Int) : Num :=
  let (q, tm, k) := quarterTurn m e
  match q with
  | 0 => cosPart tm k
  | 1 => if tm = 0 then .zero false else (sinPart tm k).neg
  | 2 => (cosPart tm k).neg
  | _ => if tm = 0 then .zero false else sinPart tm k

/-- `vexp2` (R337). -/
def Num.exp2 : Num → Num
  | .nan => .nan
  | .inf neg => if neg then .zero false else .inf false
  | .fin neg m e _ => if m = 0 then .fin false 1 0 false else exp2Num neg m e

/-- `vlog2` (R337). -/
def Num.log2 : Num → Num
  | .nan => .nan
  | .inf neg => if neg then .nan else .inf false
  | .fin neg m e _ => if m = 0 then .inf true else if neg then .nan else log2Num m e

/-- `vsinpi` (R337). -/
def Num.sinPi : Num → Num
  | .nan => .nan
  | .inf _ => .nan
  | .fin neg m e _ => if m = 0 then .zero neg else sinPiNum neg m e

/-- `vcospi` (R337). -/
def Num.cosPi : Num → Num
  | .nan => .nan
  | .inf _ => .nan
  | .fin _ m e _ => if m = 0 then .fin false 1 0 false else cosPiNum m e

/-! ### Integers and conversions (R257 to R260) -/

/-- The least value of an integer type, or of fx128. -/
def ElemTy.minInt (t : ElemTy) : Int := if t.isSigned then -(2 ^ (t.bits - 1) : Int) else 0

/-- The greatest value of an integer type, or of fx128. -/
def ElemTy.maxInt (t : ElemTy) : Int := if t.isSigned then 2 ^ (t.bits - 1) - 1 else 2 ^ t.bits - 1

/-- Saturate (R267), for integer types. -/
def saturate (x : Int) (t : ElemTy) : Int := max t.minInt (min x t.maxInt)

/-- The integer that bits of an integer type stand for (R242, R243). -/
def ElemTy.intOf (t : ElemTy) (bits : Nat) : Int :=
  if t.isSigned then toSigned t.bits (bits % 2 ^ t.bits) else (bits % 2 ^ t.bits : Nat)

/-- The bits of an integer in a type, wrapping. -/
def ElemTy.bitsOf (t : ElemTy) (x : Int) : Nat := wrapNat t.bits x

/-- An integer result: clamped with `.sat`, else wrapped (R242, R321). -/
def ElemTy.intResult (t : ElemTy) (sat : Bool) (x : Int) : Nat := t.bitsOf (if sat then saturate x t else x)

/-- The exact value of an element of any type. -/
def ElemTy.value (t : ElemTy) (bits : Nat) : Num :=
  if t.isFloat then t.fmt.decode bits
  else
    match t with
    | .fx128 => let x := t.intOf bits; .fin (decide (x < 0)) x.natAbs (-64) false
    | _ => .ofInt (t.intOf bits)

/-- A float or fx128 value as an integer type or fx128 (R258). -/
def Num.toFixed (t : ElemTy) (mode : Rnd) (r : Nat) : Num → Int
  | .nan => 0
  | .inf neg => if neg then t.minInt else t.maxInt
  | .fin neg m e st =>
    saturate (Num.toIntR mode r neg m (match t with | .fx128 => e + 64 | _ => e) st) t

/-- `.ftz` reaches this type (R254, R339). -/
def ElemTy.flushes (t : ElemTy) : Bool :=
  match t with
  | .f16 | .bf16 | .f32 | .f64 => true
  | .i8 | .i16 | .i32 | .i64 | .n8 | .n16 | .n32 | .n64 | .e4m3 | .e5m2 | .fx128 | .i4 | .e3m2
  | .e2m3 | .e2m1 => false

/-- A conversion (R257 to R259, R339): from bits of one type to bits of another. -/
def convert (src dst : ElemTy) (mode : Rnd) (r : Nat) (sat ftz : Bool) (bits : Nat) : Nat :=
  let bits := if src.flushes then src.fmt.flush ftz bits else bits
  if dst.isFloat then
    let y := dst.fmt.roundTo mode r sat (src.value bits)
    if dst.flushes then dst.fmt.flush ftz y else y
  else if src.isInt && dst.isInt then dst.intResult sat (src.intOf bits)
  else dst.bitsOf ((src.value bits).toFixed dst mode r)

/-- RShrRound (R260). -/
def rShrRound (x : Int) (s : Nat) : Int :=
  if s = 0 then x
  else
    let y : Int := ((x.natAbs + 2 ^ (s - 1)) / 2 ^ s : Nat)
    if x < 0 then -y else y

/-- The value of a scale byte, E3M5 (R244): mantissa and exponent of two. -/
def e3m5 (b : Byte) : Nat × Int :=
  let e := b.toNat / 32
  let m := b.toNat % 32
  if e = 0 then (m, -7) else (m + 32, (e : Int) - 8)

/-- ScaleOf (R250), as a mantissa and a power of two. -/
def scaleOf (b scb : Byte) : Nat × Int :=
  let (m, e) := e3m5 b
  (m, e + scb.toInt)

/-- Eff (R262); `none` is an operand without a scale. -/
def eff (x : Num) (scale : Option (Nat × Int)) : Num :=
  match scale with
  | none => x
  | some (sm, se) =>
    match x with
    | .nan => .nan
    | .inf neg => if sm = 0 then .nan else .inf neg
    | .fin neg m e st => .fin neg (m * sm) (e + se) st

/-- floor (log2 |x|) of a finite non-zero number. -/
def Num.exponent : Num → Option Int
  | .nan => none
  | .inf _ => none
  | .fin _ m e _ => if m = 0 then none else some ((lg m : Int) + e)

/-- The greatest exponent among the terms (R261). -/
def maxExponent : List Num → Option Int
  | [] => none
  | t :: ts =>
    match t.exponent, maxExponent ts with
    | none, x => x
    | x, none => x
    | some a, some b => some (max a b)

/-- A term of the window sum in units of 2^u, truncated towards zero (R261). -/
def Num.trunc (u : Int) : Num → Int
  | .nan => 0
  | .inf _ => 0
  | .fin neg m e _ =>
    let v : Int := if u ≤ e then m * 2 ^ (e - u).toNat else ((m / 2 ^ (u - e).toNat : Nat) : Int)
    if neg then -v else v

/-- An infinity. -/
def Num.isInf : Num → Bool
  | .nan => false
  | .inf _ => true
  | .fin _ _ _ _ => false

/-- WindowSum over the terms c and p_k (R261, R262), as an f32 encoding. -/
def windowSum (terms : List Num) : Nat :=
  if terms.any (·.isNan) then f32.nanEnc
  else if terms.any (·.isInf) then
    if terms.contains (.inf true) && terms.contains (.inf false) then f32.nanEnc
    else if terms.contains (.inf true) then f32.infEnc + f32.signBit else f32.infEnc
  else
    match maxExponent terms with
    | none => if terms.all (·.isNeg) then f32.signBit else 0
    | some e =>
      let u := e - 61
      let sum := terms.foldl (fun acc t => acc + t.trunc u) (0 : Int)
      if sum = 0 then 0 else f32.roundTo .rne 0 false (.fin (decide (sum < 0)) sum.natAbs u false)

/-! ### Pruning (R265) -/

/-- The rank of a value: NaN above infinity above finite magnitudes; the second says "greater". -/
def rankAbove (t : ElemTy) (a b : Nat) : Bool :=
  match t.value a, t.value b with
  | .nan, .nan => false
  | .nan, _ => true
  | _, .nan => false
  | .inf _, .inf _ => false
  | .inf _, .fin _ _ _ _ => true
  | .fin _ _ _ _, .inf _ => false
  | .fin _ m1 e1 _, .fin _ m2 e2 _ => (Num.fin false m2 e2 false).lt (.fin false m1 e1 false)

/-- The place of element `i` in the ranking: how many elements come before it. -/
def pruneRank (t : ElemTy) (g : List Nat) (i : Nat) : Nat :=
  ((upTo g.length).filter fun j =>
    rankAbove t (g.getD j 0) (g.getD i 0) ||
      (decide (j < i) && !rankAbove t (g.getD i 0) (g.getD j 0))).length

/-- Prune48 (R265): the kept indices in ascending order. -/
def prune48 (t : ElemTy) (g : List Nat) : List Nat :=
  (upTo g.length).filter fun i => decide (pruneRank t g i < 4)

end Sys2Proof
end

