-- ==== Sys2Proof/Machine/Arith.lean ====
section
/-! DEFINITION. The element operations of the vector instructions (R325 to R343) on encodings: what
one lane computes, apart from where its operands stand. -/

namespace Sys2Proof.Machine

/-- How a float form rounds: its type, mode, stochastic number and `.ftz` (R321). -/
structure FpMode where
  ty : ElemTy
  rnd : Rnd
  r : Nat
  ftz : Bool
  deriving DecidableEq, Repr

/-- An operand, with `.ftz` applied (R254). -/
def FpMode.arg (c : FpMode) (a : Nat) : Num := c.ty.fmt.decode (c.ty.fmt.flush c.ftz a)

/-- A rounded result, with `.ftz` applied (R254). -/
def FpMode.result (c : FpMode) (x : Num) : Nat :=
  c.ty.fmt.flush c.ftz (c.ty.fmt.roundTo c.rnd c.r false x)

/-- `vadd` (R331). -/
def FpMode.add (c : FpMode) (a b : Nat) : Nat := c.result ((c.arg a).add c.rnd (c.arg b))
/-- `vsub` (R331). -/
def FpMode.sub (c : FpMode) (a b : Nat) : Nat := c.result ((c.arg a).add c.rnd (c.arg b).neg)
/-- `vmul` (R331). -/
def FpMode.mul (c : FpMode) (a b : Nat) : Nat := c.result ((c.arg a).mul (c.arg b))
/-- `vfma` (R331). -/
def FpMode.fma (c : FpMode) (a b d : Nat) : Nat :=
  c.result (((c.arg a).mul (c.arg b)).add c.rnd (c.arg d))
/-- `vfnma` (R331). -/
def FpMode.fnma (c : FpMode) (a b d : Nat) : Nat :=
  c.result (((c.arg a).mul (c.arg b)).neg.add c.rnd (c.arg d))
/-- `vmin` (R332). -/
def FpMode.min (c : FpMode) (a b : Nat) : Nat :=
  c.ty.fmt.minEnc (c.ty.fmt.flush c.ftz a) (c.ty.fmt.flush c.ftz b)
/-- `vmax` (R332). -/
def FpMode.max (c : FpMode) (a b : Nat) : Nat :=
  c.ty.fmt.maxEncOf (c.ty.fmt.flush c.ftz a) (c.ty.fmt.flush c.ftz b)
/-- `vabs` (R331): the sign bit cleared. -/
def FpMode.abs (c : FpMode) (a : Nat) : Nat := a % c.ty.fmt.signBit
/-- `vneg` (R331): the sign bit inverted. -/
def FpMode.neg (c : FpMode) (a : Nat) : Nat := a ^^^ c.ty.fmt.signBit
/-- `vcopysign` (R331). -/
def FpMode.copysign (c : FpMode) (a b : Nat) : Nat :=
  a % c.ty.fmt.signBit + b / c.ty.fmt.signBit % 2 * c.ty.fmt.signBit
/-- `vdiv` (R333). -/
def FpMode.div (c : FpMode) (a b : Nat) : Nat := c.result ((c.arg a).div (c.arg b))
/-- `vsqrt` (R333). -/
def FpMode.sqrt (c : FpMode) (a : Nat) : Nat := c.result (c.arg a).sqrt
/-- `vrcp` (R333). -/
def FpMode.rcp (c : FpMode) (a : Nat) : Nat := c.result ((Num.fin false 1 0 false).div (c.arg a))
/-- `vrsqrt` (R333). -/
def FpMode.rsqrt (c : FpMode) (a : Nat) : Nat := c.result (c.arg a).rsqrt

/-- `vrint` (R334): the quantum is 1, and a zero keeps the sign. -/
def FpMode.rint (c : FpMode) (a : Nat) : Nat :=
  match c.arg a with
  | .nan => c.ty.fmt.nanEnc
  | .inf neg => c.result (.inf neg)
  | .fin neg m e st => c.result (.fin neg (Num.toIntR c.rnd 0 neg m e st).natAbs 0 false)

/-- +1.0 of the type. -/
def FpMode.one (c : FpMode) : Nat := c.ty.fmt.roundTo .rne 0 false (.fin false 1 0 false)
/-- `vclamp` (R331). -/
def FpMode.clamp (c : FpMode) (a b d : Nat) : Nat := c.min (c.max a b) d
/-- `vclip` (R331). -/
def FpMode.clip (c : FpMode) (a : Nat) : Nat := c.clamp a 0 c.one

/-- `vsign` (R332). -/
def FpMode.sign (c : FpMode) (a : Nat) : Nat :=
  match c.arg a with
  | .nan => c.ty.fmt.nanEnc
  | .inf neg => if neg then c.neg c.one else c.one
  | .fin neg m _ _ =>
    if m = 0 then c.ty.fmt.flush c.ftz a else if neg then c.neg c.one else c.one

/-- `vcmp` (R335). -/
def FpMode.cmp (c : FpMode) (cc : Cond) (a b : Nat) : Bool := cc.holdsFp (c.arg a) (c.arg b)

/-- `vclass` (R335): exactly one bit. -/
def FpMode.cls (c : FpMode) (a : Nat) : Nat :=
  match c.ty.fmt.decode a with
  | .nan => if a / 2 ^ (c.ty.fmt.mbits - 1) % 2 = 1 then 2 ^ 9 else 2 ^ 8
  | .inf neg => if neg then 1 else 2 ^ 7
  | .fin neg m _ _ =>
    if m = 0 then (if neg then 2 ^ 3 else 2 ^ 4)
    else if c.ty.fmt.isSubnormal a then (if neg then 2 ^ 2 else 2 ^ 5)
    else if neg then 2 ^ 1 else 2 ^ 6

/-- `vldexp` (R331). Beyond ±5,000 every result over- or underflows alike. -/
def FpMode.ldexp (c : FpMode) (a : Nat) (b : Int) : Nat :=
  let n : Int := Max.max (-5000) (Min.min b 5000)
  match c.arg a with
  | .nan => c.result .nan
  | .inf neg => c.result (.inf neg)
  | .fin neg m e st => c.result (.fin neg m (e + n) st)

/-- `vgetexp` (R336), as a 32-bit integer. -/
def FpMode.getexp (c : FpMode) (a : Nat) : Nat :=
  match c.arg a with
  | .nan => 0x7FFFFFFF
  | .inf _ => 0x7FFFFFFF
  | .fin _ m e _ => if m = 0 then 0x80000000 else wrapNat 32 ((lg m : Int) + e)

/-- `vlerp` (R331): a + c × (b − a), one rounding. -/
def FpMode.lerp (c : FpMode) (a b d : Nat) : Nat :=
  c.result ((c.arg a).add c.rnd ((c.arg d).mul ((c.arg b).add c.rnd (c.arg a).neg)))

/-- `vexp2` (R337). -/
def FpMode.exp2 (c : FpMode) (a : Nat) : Nat := c.result (c.arg a).exp2
/-- `vlog2` (R337). -/
def FpMode.log2 (c : FpMode) (a : Nat) : Nat := c.result (c.arg a).log2
/-- `vsinpi` (R337). -/
def FpMode.sinpi (c : FpMode) (a : Nat) : Nat := c.result (c.arg a).sinPi
/-- `vcospi` (R337). -/
def FpMode.cospi (c : FpMode) (a : Nat) : Nat := c.result (c.arg a).cosPi

/-! ### Integer elements -/

/-- `vadd`, `vsub`, `vmul` (R325). -/
def intBin (t : ElemTy) (sat : Bool) (op : Int → Int → Int) (a b : Nat) : Nat :=
  t.intResult sat (op (t.intOf a) (t.intOf b))

/-- `vmulh` (R325): the upper k bits of the exact product. -/
def intMulh (t : ElemTy) (a b : Nat) : Nat := t.bitsOf (t.intOf a * t.intOf b / 2 ^ t.bits)

/-- `vmad` (R325). -/
def intMad (t : ElemTy) (sat : Bool) (a b c : Nat) : Nat :=
  t.intResult sat (t.intOf a * t.intOf b + t.intOf c)

/-- `vmin` (R325). -/
def intMin (t : ElemTy) (a b : Nat) : Nat := if t.intOf b < t.intOf a then b else a

/-- `vmax` (R325). -/
def intMax (t : ElemTy) (a b : Nat) : Nat := if t.intOf a < t.intOf b then b else a

/-- `vabs` (R325). -/
def intAbs (t : ElemTy) (sat : Bool) (a : Nat) : Nat := t.intResult sat (t.intOf a).natAbs

/-- `vnot` (R325). -/
def intNot (t : ElemTy) (a : Nat) : Nat := 2 ^ t.bits - 1 - a % 2 ^ t.bits

/-- `vshl` (R325). -/
def intShl (t : ElemTy) (a s : Nat) : Nat := a * 2 ^ s % 2 ^ t.bits

/-- `vshr` (R325). -/
def intShr (t : ElemTy) (a s : Nat) : Nat := t.bitsOf (t.intOf a / 2 ^ s)

/-- The number of 1 bits of a number below 2^k. -/
def popNat (k a : Nat) : Nat := ((upTo k).filter fun i => a.testBit i).length

/-- Leading zero bits of a number below 2^k. -/
def clzNat (k a : Nat) : Nat := if a = 0 then k else k - 1 - lg a

/-- `vbfe` (R326): `n` bits from `p`. -/
def bitField (t : ElemTy) (a p n : Nat) : Nat :=
  let x := a / 2 ^ p % 2 ^ n
  if t.isSigned then wrapNat 32 (toSigned n x) else x

/-- Element `i` of `k` bits of a word (R248). -/
def part (k : Nat) (w i : Nat) : Nat := w / 2 ^ (k * i) % 2 ^ k

/-- Replaces element `i` of `k` bits of a word (R248). -/
def putPart (k : Nat) (w i x : Nat) : Nat :=
  w - part k w i * 2 ^ (k * i) + x % 2 ^ k * 2 ^ (k * i)

/-- `vdot4` (R328). -/
def dot4 (t : ElemTy) (sat : Bool) (a b c : Nat) : Nat :=
  let wide : ElemTy := if t.isSigned then .i32 else .n32
  wide.intResult sat (wide.intOf c +
    (upTo 4).foldl (fun s i => s + t.intOf (part 8 a i) * t.intOf (part 8 b i)) 0)

/-- `vrshr` (R329): the 32-bit register of the saturated, shifted source. -/
def requant (t : ElemTy) (x : Int) (s : Nat) : Nat := wrapNat 32 (saturate (rShrRound x s) t)

/-! ### Packed halves (R342, R343) -/

/-- Applies an operation to both halves of three words. -/
def halves (f : Nat → Nat → Nat → Nat → Nat) (a b c : Nat) : Nat :=
  f 0 (part 16 a 0) (part 16 b 0) (part 16 c 0) +
    f 1 (part 16 a 1) (part 16 b 1) (part 16 c 1) * 2 ^ 16

/-- `vdot2` (R343). -/
def dot2 (c : FpMode) (sat : Bool) (a b d : Nat) : Nat :=
  if c.ty.isFloat then
    let r : FpMode := { c with ty := .f32 }
    let p (h : Nat) : Num := (c.arg (part 16 a h)).mul (c.arg (part 16 b h))
    r.result (((r.arg d).add c.rnd (p 0)).add c.rnd (p 1))
  else
    let wide : ElemTy := if c.ty.isSigned then .i32 else .n32
    wide.intResult sat (wide.intOf d +
      (upTo 2).foldl (fun s h => s + c.ty.intOf (part 16 a h) * c.ty.intOf (part 16 b h)) 0)

end Sys2Proof.Machine
end

