-- ==== Sys2Proof/Decode.lean ====
section
/-! DEFINITION. Decoding of code words (R268 to R290) and of walk-code words (R401), total on any
words and rejecting by name; then the encoder, from the same tables. Every rejection here is the
illegal-instruction fault of R290 in the code stream, and cause 0x12 of R225 in walk code. -/

namespace Sys2Proof

/-- Why a word sequence is no instruction (R290). -/
inductive DecodeError where
  /-- Fewer words than the class needs (R269). -/
  | truncated
  /-- An opcode, function, condition or op that no entry assigns (R290). -/
  | unassigned
  /-- A reserved bit or an unused field is not zero (R280, R282, R285, R287). -/
  | reservedField
  /-- The flag field holds 3 (R277). -/
  | badFlag
  /-- A rounding code of 6 or 7 (R251). -/
  | badRounding
  /-- A type code of 19 to 31, or an accumulate type code above 6 (R286, R365). -/
  | badType
  /-- A condition, operation or ordering code that is not assigned (R327, R346). -/
  | badCode
  /-- reuse in an instruction that is no matrix instruction (R284). -/
  | badReuse
  /-- A field breaks a rule of its entry: see `Instr.wf`. -/
  | illFormed
  deriving DecidableEq, Repr

/-- The codes of R286. -/
def ElemTy.ofCode : Nat → Option ElemTy
  | 0 => some .i8 | 1 => some .i16 | 2 => some .i32 | 3 => some .i64 | 4 => some .n8
  | 5 => some .n16 | 6 => some .n32 | 7 => some .n64 | 8 => some .f16 | 9 => some .bf16
  | 10 => some .f32 | 11 => some .f64 | 12 => some .e4m3 | 13 => some .e5m2 | 14 => some .fx128
  | 15 => some .i4 | 16 => some .e3m2 | 17 => some .e2m3 | 18 => some .e2m1 | _ => none

/-- The codes of R286. -/
def ElemTy.code : ElemTy → Nat
  | .i8 => 0 | .i16 => 1 | .i32 => 2 | .i64 => 3 | .n8 => 4 | .n16 => 5 | .n32 => 6 | .n64 => 7
  | .f16 => 8 | .bf16 => 9 | .f32 => 10 | .f64 => 11 | .e4m3 => 12 | .e5m2 => 13 | .fx128 => 14
  | .i4 => 15 | .e3m2 => 16 | .e2m3 => 17 | .e2m1 => 18

/-- The codes of R251. -/
def Rnd.ofCode : Nat → Option Rnd
  | 0 => some .rne | 1 => some .rz | 2 => some .ru | 3 => some .rd | 4 => some .rna
  | 5 => some .rs | _ => none

/-- The codes of R251. -/
def Rnd.code : Rnd → Nat
  | .rne => 0 | .rz => 1 | .ru => 2 | .rd => 3 | .rna => 4 | .rs => 5

/-- The codes of R196. -/
def AccTy.ofCode : Nat → Option AccTy
  | 0 => some .i32 | 1 => some .i64 | 2 => some .n64 | 3 => some .fx128 | 4 => some .f32
  | 5 => some .bf16x2 | 6 => some .vis | _ => none

/-- The codes of R196. -/
def AccTy.code : AccTy → Nat
  | .i32 => 0 | .i64 => 1 | .n64 => 2 | .fx128 => 3 | .f32 => 4 | .bf16x2 => 5 | .vis => 6

/-- The codes of R327 and R335. -/
def Cond.ofCode : Nat → Cond
  | 0 => .eq | 1 => .ne | 2 => .lt | 3 => .le | 4 => .gt | 5 => .ge | 6 => .ord | _ => .uno

/-- The codes of R327 and R335. -/
def Cond.code : Cond → Nat
  | .eq => 0 | .ne => 1 | .lt => 2 | .le => 3 | .gt => 4 | .ge => 5 | .ord => 6 | .uno => 7

/-- The codes of R346. -/
def RedOp.ofCode : Nat → Option RedOp
  | 0 => some .add | 1 => some .min | 2 => some .max | 3 => some .and | 4 => some .or
  | 5 => some .xor | _ => none

/-- The codes of R346. -/
def RedOp.code : RedOp → Nat
  | .add => 0 | .min => 1 | .max => 2 | .and => 3 | .or => 4 | .xor => 5

/-- The codes of the walk operation `cmp` (R402). -/
def WalkCond.ofCode : Nat → Option WalkCond
  | 0 => some .eq | 1 => some .ne | 2 => some .ltN | 3 => some .geN | 4 => some .ltI
  | 5 => some .geI | _ => none

/-- The codes of the walk operation `cmp` (R402). -/
def WalkCond.code : WalkCond → Nat
  | .eq => 0 | .ne => 1 | .ltN => 2 | .geN => 3 | .ltI => 4 | .geI => 5

/-- The ordering codes of R356 and R358. -/
def MemOrd.ofCode : Nat → MemOrd
  | 0 => .none | 1 => .rel | 2 => .acq | _ => .ar

/-- The ordering codes of R356 and R358. -/
def MemOrd.code : MemOrd → Nat
  | .none => 0 | .rel => 1 | .acq => 2 | .ar => 3

/-- The flag codes of R277. -/
def FlagSel.ofCode : Nat → Option FlagSel
  | 0 => some .none | 1 => some .a | 2 => some .b | _ => Option.none

/-- The flag codes of R277. -/
def FlagSel.code : FlagSel → Nat
  | .none => 0 | .a => 1 | .b => 2

/-- Bits [lo + n - 1 : lo] of a code word. -/
abbrev bits (w : Code) (lo n : Nat) : BitVec n := w.extractLsb' lo n

/-- One bit of a code word as a truth value. -/
abbrev bit (w : Code) (i : Nat) : Bool := w.getLsbD i

/-- An instruction is answered only when its unused fields are zero. -/
def need (ok : Bool) (i : Instr) : Except DecodeError Instr :=
  if ok then .ok i else .error .reservedField

/-- The last check of every form: the entry's own rules (`Instr.wf`). -/
def legal (i : Instr) : Except DecodeError Instr :=
  if i.wf then .ok i else .error .illFormed

/-- How many words an instruction has, by the class in bits [31:30] of its first word (R269). -/
def instrWords (w : Code) : Nat :=
  match (bits w 30 2).toNat with
  | 0 => 1
  | 1 => 3
  | 2 => 8
  | _ => 2

/-- Major op 0x00 (R299). -/
def decodeAlu (sd sa sb : SReg) (fn : Nat) : Except DecodeError Instr :=
  match fn with
  | 0x00 => .ok (.sadd sd sa sb)
  | 0x01 => .ok (.ssub sd sa sb)
  | 0x02 => .ok (.smul sd sa sb)
  | 0x03 => .ok (.smulhI64 sd sa sb)
  | 0x04 => .ok (.smulhN64 sd sa sb)
  | 0x05 => .ok (.sand sd sa sb)
  | 0x06 => .ok (.sor sd sa sb)
  | 0x07 => .ok (.sxor sd sa sb)
  | 0x08 => .ok (.sshl sd sa sb)
  | 0x09 => .ok (.sshrN64 sd sa sb)
  | 0x0A => .ok (.sshrI64 sd sa sb)
  | 0x0B => .ok (.sminI64 sd sa sb)
  | 0x0C => .ok (.sminN64 sd sa sb)
  | 0x0D => .ok (.smaxI64 sd sa sb)
  | 0x0E => .ok (.smaxN64 sd sa sb)
  | 0x0F => .ok (.sdivI64 sd sa sb)
  | 0x10 => .ok (.sdivN64 sd sa sb)
  | 0x11 => .ok (.sremI64 sd sa sb)
  | 0x12 => .ok (.sremN64 sd sa sb)
  | 0x13 => need (sb == 0) (.spopc sd sa)
  | 0x14 => need (sb == 0) (.sclz sd sa)
  | 0x15 => need (sb == 0) (.sctz sd sa)
  | _ => .error .unassigned

/-- Major op 0x07 (R302). -/
def decodeCmp (sd sa sb : SReg) (fn : Nat) : Except DecodeError Instr :=
  match fn with
  | 0 => .ok (.scmpEq sd sa sb)
  | 1 => .ok (.scmpNe sd sa sb)
  | 2 => .ok (.scmpI64Lt sd sa sb)
  | 3 => .ok (.scmpI64Ge sd sa sb)
  | 4 => .ok (.scmpN64Lt sd sa sb)
  | 5 => .ok (.scmpN64Ge sd sa sb)
  | _ => .error .unassigned

/-- Major op 0x1E (R356). -/
def decodeAtom (sd sa sb : SReg) (ord : MemOrd) (op : Nat) : Except DecodeError Instr :=
  match op with
  | 0 => .ok (.satomAdd sd sa sb ord)
  | 1 => .ok (.satomSwap sd sa sb ord)
  | 2 => .ok (.satomAnd sd sa sb ord)
  | 3 => .ok (.satomOr sd sa sb ord)
  | 4 => .ok (.satomXor sd sa sb ord)
  | 5 => .ok (.satomMinI64 sd sa sb ord)
  | 6 => .ok (.satomMinN64 sd sa sb ord)
  | 7 => .ok (.satomMaxI64 sd sa sb ord)
  | 8 => .ok (.satomMaxN64 sd sa sb ord)
  | 9 => .ok (.satomCas sd sa sb ord)
  | _ => .error .unassigned

/-- Major ops 0x10 and 0x11 (R307). -/
def decodeBranch (op cond : Nat) (off : BitVec 20) : Except DecodeError Instr :=
  match op, cond with
  | 0x10, 0 => .ok (.b off)
  | 0x10, 1 => .ok (.bmz off)
  | 0x10, 2 => .ok (.bmnz off)
  | 0x10, 3 => .ok (.bmall off)
  | 0x10, 4 => .ok (.bmnall off)
  | 0x11, 0 => .ok (.bcall off)
  | _, _ => .error .unassigned

/-- Major ops 0x1F, 0x22, 0x24 and 0x25, whose entries tell forms apart by sd or the function. -/
def decodeSync (op : Nat) (sd sa sb : SReg) (fn : BitVec 6) (imm : BitVec 12) :
    Except DecodeError Instr :=
  match op, (if op = 0x1F then sd.toNat else fn.toNat) with
  | 0x1F, 0 => .ok (.dzero sa imm)
  | 0x1F, 1 => .ok (.spfL2 sa imm)
  | 0x1F, 2 => .ok (.spfL1 sa imm)
  | 0x20, 0 => need (sd == 0) (.cadd sa sb)
  | 0x20, 1 => need (sd == 0) (.caddRel sa sb)
  | 0x22, 0 => need (sb == 0) (.cget sd sa)
  | 0x22, 1 => need (sb == 0) (.cgetAcq sd sa)
  | 0x22, 2 => need (sa == 0 && sb == 0) (.cgetTeam sd)
  | 0x24, 0 => need (sd == 0 && sa == 0 && sb == 0) .bar
  | 0x24, 1 => need (sd == 0 && sa == 0 && sb == 0) .fenceRel
  | 0x24, 2 => need (sd == 0 && sa == 0 && sb == 0) .fenceAcq
  | 0x24, 3 => need (sd == 0 && sa == 0 && sb == 0) .fenceAr
  | 0x24, 4 => need (sd == 0 && sa == 0 && sb == 0) .ifence
  | 0x25, 0 => need (sb == 0) (.kset sd sa)
  | 0x25, 1 => need (sa == 0 && sb == 0) (.kfill sd)
  | 0x25, 2 => need (sa == 0 && sb == 0) (.kfree sd)
  | _, _ => .error .unassigned

/-- Major ops 0x23 and 0x26 (R367, R372): function [5:2] is zero. -/
def decodeWait (op : Nat) (sd sa sb : SReg) (fn : BitVec 6) : Except DecodeError Instr :=
  match op, fn.toNat with
  | 0x23, 0 => if sd == 0 then legal (.cwait sa sb false) else .error .reservedField
  | 0x23, 1 => if sd == 0 then legal (.cwait sa sb true) else .error .reservedField
  | 0x23, 2 => legal (.cwaitSt sd sa sb false)
  | 0x23, 3 => legal (.cwaitSt sd sa sb true)
  | 0x26, 0 => if sd == 0 then legal (.kwaitFree sa sb) else .error .reservedField
  | 0x26, 1 => if sd == 0 then legal (.kwaitFull sa sb) else .error .reservedField
  | 0x26, 2 => legal (.kwaitFreeSt sd sa sb)
  | 0x26, 3 => legal (.kwaitFullSt sd sa sb)
  | _, _ => .error .unassigned

/-- Major op 0x27 (R373). -/
def decodeEngine (sd sa sb : SReg) (sub q : BitVec 3) : Except DecodeError Instr :=
  match sub.toNat with
  | 0 => need (sd == 0 && sb == 0) (.cpy sa q)
  | 1 => need (sd == 0) (.qwait sa sb q)
  | 2 => need (sd == 0) (.qadd sa sb q)
  | _ => .error .unassigned

/-- The control, trap and matrix-support groups: major ops 0x12, 0x15, 0x2D, 0x29 and 0x2A. -/
def decodeControl (op : Nat) (sd sa sb : SReg) (fn : BitVec 6) : Except DecodeError Instr :=
  match op, fn.toNat with
  | 0x12, 0 => need (sd == 0 && sb == 0) (.bjr sa)
  | 0x12, 1 => need (sb == 0) (.bcallr sd sa)
  | 0x15, 0 => need (sd == 0 && sa == 0 && sb == 0) .snop
  | 0x15, 1 => need (sd == 0 && sa == 0 && sb == 0) .snopProgress
  | 0x15, 2 => need (sd == 0 && sa == 0 && sb == 0) .exit
  | 0x2D, 0 => need (sd == 0 && sa == 0 && sb == 0) .tret
  | 0x2D, 1 => need (sd == 0 && sa == 0 && sb == 0) .tretDecline
  | 0x29, 0 => need (sd == 0 && sa == 0 && sb == 0) .mrel
  | 0x2A, 0 => need (sd == 0 && sb == 0) (.sstampOpen sa)
  | 0x2A, 1 => need (sd == 0 && sa == 0 && sb == 0) .sstampClose
  | _, _ => .error .unassigned

/-- Major op 0x0A: QPC carries an index, every other register index 0 (R303). -/
def decodeSgetr (sd : SReg) (idx num : BitVec 6) : Except DecodeError Instr :=
  if num == 8 then .ok (.sgetrQpc sd idx) else need (idx == 0) (.sgetr sd num)

/-- SU format (R279). -/
def decodeSU (w : Code) : Except DecodeError Instr :=
  match (bits w 26 2).toNat with
  | 0 => .ok (.slui (bits w 20 6) (bits w 0 20))
  | 1 => .ok (.spcui (bits w 20 6) (bits w 0 20))
  | _ => .error .unassigned

/-- A scalar instruction, class 0b00 (R279, R289). -/
def decodeScalar (w : Code) : Except DecodeError Instr :=
  let sd := bits w 18 6
  let sa := bits w 12 6
  let sb := bits w 6 6
  let fn := bits w 0 6
  let imm := bits w 0 12
  let op := (bits w 24 6).toNat
  match op with
  | 0x00 => decodeAlu sd sa sb fn.toNat
  | 0x01 => .ok (.saddi sd sa imm)
  | 0x02 => .ok (.sandi sd sa imm)
  | 0x03 => .ok (.sori sd sa imm)
  | 0x04 => .ok (.sxori sd sa imm)
  | 0x05 => need (sb == 0) (.sshli sd sa fn)
  | 0x06 =>
    match sb.toNat with
    | 0 => .ok (.sshriN64 sd sa fn)
    | 1 => .ok (.sshriI64 sd sa fn)
    | _ => .error .reservedField
  | 0x07 => decodeCmp sd sa sb fn.toNat
  | 0x08 => .ok (.ssel sd sa sb fn)
  | 0x09 => need (sa == 0) (.sli sd imm)
  | 0x0A => if sa == 0 then decodeSgetr sd sb fn else .error .reservedField
  | 0x0B => need (sd == 0 && sb == 0) (.ssetr sa fn)
  | 0x10 => decodeBranch op (bits w 20 4).toNat (bits w 0 20)
  | 0x11 => decodeBranch op (bits w 20 4).toNat (bits w 0 20)
  | 0x12 => decodeControl op sd sa sb fn
  | 0x13 => need (sd == 0) (.bz sa imm)
  | 0x14 => need (sd == 0) (.bnz sa imm)
  | 0x15 => decodeControl op sd sa sb fn
  | 0x18 => .ok (.sldN64 sd sa imm)
  | 0x19 => .ok (.sldN32 sd sa imm)
  | 0x1A => .ok (.sldI32 sd sa imm)
  | 0x1B => .ok (.sstN64 sd sa imm)
  | 0x1C => .ok (.sstN32 sd sa imm)
  | 0x1D => .ok (.sldN64Yield sd sa imm)
  | 0x1E => decodeAtom sd sa sb (MemOrd.ofCode (bits w 4 2).toNat) (bits w 0 4).toNat
  | 0x1F => decodeSync op sd sa sb fn imm
  | 0x20 => decodeSync op sd sa sb fn imm
  | 0x21 => need (sd == 0 && sa == 0 && bits w 8 4 == 0) (.qfence (bits w 0 8))
  | 0x22 => decodeSync op sd sa sb fn imm
  | 0x23 => decodeWait op sd sa sb fn
  | 0x24 => decodeSync op sd sa sb fn imm
  | 0x25 => decodeSync op sd sa sb fn imm
  | 0x26 => decodeWait op sd sa sb fn
  | 0x27 => decodeEngine sd sa sb (bits w 3 3) (bits w 0 3)
  | 0x28 =>
    if sd == 0 && sa == 0 && bits w 10 2 == 0 then legal (.sfmt (bits w 0 5) (bits w 5 5))
    else .error .reservedField
  | 0x29 => decodeControl op sd sa sb fn
  | 0x2A => decodeControl op sd sa sb fn
  | 0x2C => need (sd == 0 && sa == 0) (.trap imm)
  | 0x2D => decodeControl op sd sa sb fn
  | _ => if (bits w 28 2).toNat = 3 then decodeSU w else .error .unassigned

/-- A clause header, class 0b11 (R270, R271). A set-flag that is not named has number 0. -/
def decodeHeader (w0 w1 : Code) : Except DecodeError Instr :=
  if bits w0 0 8 == 0 && bit w1 21 == false && bits w1 0 19 == 0 &&
      (bit w0 17 || bits w0 13 4 == 0) && (bit w0 12 || bits w0 8 4 == 0) then
    legal (.clauseHeader
      { wait := bits w0 18 12
        setA := if bit w0 17 then some (bits w0 13 4) else none
        setB := if bit w0 12 then some (bits w0 8 4) else none
        length := bits w1 22 10
        yield := bit w1 20
        msplit := bit w1 19 })
  else .error .reservedField

/-- Words 0 and 1 of a lane instruction, less opcode and reuse (R281). -/
def laneFields (w0 w1 : Code) : Option LaneOp :=
  (FlagSel.ofCode (bits w1 4 2).toNat).map fun flag =>
    { vd := bits w0 10 10, va := bits w0 0 10, vb := bits w1 22 10, vc := bits w1 12 10
      guard := bits w1 7 5, neg := bit w1 6, flag := flag, minw := bits w1 1 3 }

/-- The modifier word of R285, when its spec field is in order. -/
def withMods (w : Code) (specOk : Bool) (f : Mods → Instr) : Except DecodeError Instr :=
  match ElemTy.ofCode (bits w 0 5).toNat, Rnd.ofCode (bits w 5 3).toNat with
  | some ty, some rnd =>
    if specOk then legal (f { ty := ty, rnd := rnd, sat := bit w 8, ftz := bit w 9 })
    else .error .reservedField
  | none, _ => .error .badType
  | _, none => .error .badRounding

/-- Word 2 of a memory form (R358). -/
def memMods (w : Code) : MemMods :=
  { off := bits w 16 16, flat := bit w 15, ord := MemOrd.ofCode (bits w 13 2).toNat
    yield := bit w 12, scale := bits w 10 2 }

/-- A memory form with an element type (R360). -/
def withMem (w : Code) (f : ElemTy → MemMods → Instr) : Except DecodeError Instr :=
  if bits w 5 5 == 0 then
    match ElemTy.ofCode (bits w 0 5).toNat with
    | some ty => legal (f ty (memMods w))
    | none => .error .badType
  else .error .reservedField

/-- An accumulate, whose type code is that of R196 (R365). -/
def withAcc (w : Code) (f : AccTy → MemMods → Instr) : Except DecodeError Instr :=
  if bits w 5 5 == 0 then
    match AccTy.ofCode (bits w 0 5).toNat with
    | some ty => legal (f ty (memMods w))
    | none => .error .badType
  else .error .reservedField

/-- A form whose word 2 is zero, or zero but for the bits `used` has already read. -/
def plain (ok : Bool) (i : Instr) : Except DecodeError Instr :=
  if ok then legal i else .error .reservedField

/-- The shift amount of R325: spec[16] chooses the immediate spec[15:10]. -/
def shiftAmt (w : Code) : ShiftAmt := if bit w 16 then .imm (bits w 10 6) else .reg

/-- The bits of spec that a shift form leaves unused are zero: spec[31:17] less those in `keep`,
and spec[15:10] in the register form. -/
def shiftSpec (w : Code) (top : Bool) : Bool :=
  top && (bit w 16 || bits w 10 6 == 0)

/-- Integer vector, 0x000 to 0x07F (R325 to R330). -/
def decodeIntLane (op : Nat) (o : LaneOp) (w : Code) : Except DecodeError Instr :=
  let noSpec := bits w 10 22 == 0
  match op with
  | 0x000 => withMods w noSpec (.vaddInt o)
  | 0x001 => withMods w noSpec (.vsubInt o)
  | 0x002 => withMods w noSpec (.vmulInt o)
  | 0x003 => withMods w noSpec (.vmulh o)
  | 0x004 => withMods w noSpec (.vmad o)
  | 0x005 => withMods w noSpec (.vminInt o)
  | 0x006 => withMods w noSpec (.vmaxInt o)
  | 0x007 => withMods w noSpec (.vabsInt o)
  | 0x008 => withMods w noSpec (.vand o)
  | 0x009 => withMods w noSpec (.vor o)
  | 0x00A => withMods w noSpec (.vxor o)
  | 0x00B => withMods w noSpec (.vnot o)
  | 0x00C => withMods w (shiftSpec w (bits w 17 15 == 0)) (fun m => .vshl o m (shiftAmt w))
  | 0x00D => withMods w (shiftSpec w (bits w 17 15 == 0)) (fun m => .vshr o m (shiftAmt w))
  | 0x00E =>
    withMods w (shiftSpec w (bits w 18 14 == 0)) (fun m => .vrshr o m (bit w 17) (shiftAmt w))
  | 0x00F => withMods w noSpec (.vpopc o)
  | 0x010 => withMods w noSpec (.vclz o)
  | 0x011 => withMods w (bits w 20 12 == 0) (fun m => .vbfe o m (bits w 10 5) (bits w 15 5))
  | 0x012 => withMods w (bits w 13 19 == 0) (fun m => .vcmpInt o m (Cond.ofCode (bits w 10 3).toNat))
  | 0x013 => withMods w noSpec (.vsel o)
  | 0x014 => withMods w noSpec (.vdot4 o)
  | 0x040 => legal (.vaddIntImm o w)
  | 0x041 => legal (.vmulIntImm o w)
  | 0x042 => legal (.vandImm o w)
  | 0x043 => legal (.vorImm o w)
  | 0x044 => legal (.vxorImm o w)
  | 0x045 =>
    plain (o.vc.extractLsb' 4 6 == 0)
      (.vcmpIntImm { o with vc := 0 } (Cond.ofCode (o.vc.extractLsb' 0 3).toNat) (o.vc.getLsbD 3) w)
  | 0x046 => legal (.vmovImm o w)
  | _ => .error .unassigned

/-- Floating-point vector, 0x080 to 0x0FF (R331 to R338). -/
def decodeFpLane (op : Nat) (o : LaneOp) (w : Code) : Except DecodeError Instr :=
  let noSpec := bits w 10 22 == 0
  match op with
  | 0x080 => withMods w noSpec (.vaddFp o)
  | 0x081 => withMods w noSpec (.vsubFp o)
  | 0x082 => withMods w noSpec (.vmulFp o)
  | 0x083 => withMods w noSpec (.vfma o)
  | 0x084 => withMods w noSpec (.vfnma o)
  | 0x085 => withMods w noSpec (.vminFp o)
  | 0x086 => withMods w noSpec (.vmaxFp o)
  | 0x087 => withMods w noSpec (.vabsFp o)
  | 0x088 => withMods w noSpec (.vneg o)
  | 0x089 => withMods w noSpec (.vcopysign o)
  | 0x08A => withMods w noSpec (.vdiv o)
  | 0x08B => withMods w noSpec (.vsqrt o)
  | 0x08C => withMods w noSpec (.vrcp o)
  | 0x08D => withMods w noSpec (.vrsqrt o)
  | 0x08E => withMods w noSpec (.vrint o)
  | 0x08F => withMods w noSpec (.vclip o)
  | 0x090 => withMods w noSpec (.vclamp o)
  | 0x091 => withMods w noSpec (.vsign o)
  | 0x092 => withMods w (bits w 13 19 == 0) (fun m => .vcmpFp o m (Cond.ofCode (bits w 10 3).toNat))
  | 0x093 => withMods w noSpec (.vclass o)
  | 0x094 => withMods w noSpec (.vldexp o)
  | 0x095 => withMods w noSpec (.vgetexp o)
  | 0x096 => withMods w noSpec (.vlerp o)
  | 0x097 => withMods w noSpec (.vexp2 o)
  | 0x098 => withMods w noSpec (.vlog2 o)
  | 0x099 => withMods w noSpec (.vsinpi o)
  | 0x09A => withMods w noSpec (.vcospi o)
  | 0x09B => legal (.vaddF32Imm o w)
  | 0x09C => legal (.vmulF32Imm o w)
  | 0x09D => legal (.vfmaF32Imm o w)
  | 0x09E => legal (.vmaxF32Imm o w)
  | 0x09F =>
    plain (o.vc.extractLsb' 3 7 == 0)
      (.vcmpF32Imm { o with vc := 0 } (Cond.ofCode (o.vc.extractLsb' 0 3).toNat) w)
  | _ => .error .unassigned

/-- Conversion and packed 16-bit, 0x100 to 0x13F (R339 to R343). -/
def decodeConvLane (op : Nat) (o : LaneOp) (w : Code) : Except DecodeError Instr :=
  let noSpec := bits w 10 22 == 0
  match op with
  | 0x100 =>
    match ElemTy.ofCode (bits w 10 5).toNat with
    | some src =>
      withMods w (bits w 21 11 == 0) (fun m => .vcvt o m src (bits w 15 3) (bits w 18 3))
    | none => .error .badType
  | 0x101 => withMods w noSpec (.vpack o)
  | 0x102 => withMods w noSpec (.vunpack o)
  | 0x103 => withMods w noSpec (.vcvt2 o)
  | 0x104 => withMods w noSpec (.vadd2 o)
  | 0x105 => withMods w noSpec (.vsub2 o)
  | 0x106 => withMods w noSpec (.vmul2 o)
  | 0x107 => withMods w noSpec (.vfma2 o)
  | 0x108 => withMods w noSpec (.vmin2 o)
  | 0x109 => withMods w noSpec (.vmax2 o)
  | 0x10A => withMods w noSpec (.vdot2 o)
  | 0x10B => withMods w (shiftSpec w (bits w 17 15 == 0)) (fun m => .vshl2 o m (shiftAmt w))
  | 0x10C => withMods w (shiftSpec w (bits w 17 15 == 0)) (fun m => .vshr2 o m (shiftAmt w))
  | 0x10D =>
    plain (bits w 14 18 == 0 && bits w 0 10 == 0) (.vhsel o (bits w 10 2) (bits w 12 2))
  | _ => .error .unassigned

/-- Cross-lane, 0x140 to 0x17F (R345). -/
def decodeCrossLane (op : Nat) (o : LaneOp) (w : Code) : Except DecodeError Instr :=
  let low := bits w 0 10 == 0
  match op with
  | 0x140 =>
    match RedOp.ofCode (bits w 10 3).toNat with
    | some r => withMods w (bits w 13 19 == 0) (fun m => .vred o m r)
    | none => .error .badCode
  | 0x141 =>
    match RedOp.ofCode (bits w 10 3).toNat with
    | some r => withMods w (bits w 14 18 == 0) (fun m => .vscan o m r (bit w 13))
    | none => .error .badCode
  | 0x142 => plain (w == 0) (.vshuf o)
  | 0x143 => plain (low && bits w 16 16 == 0) (.vbcast o (bits w 10 6))
  | 0x144 => plain (low && bits w 16 16 == 0) (.vrot o (bits w 10 6))
  | 0x145 =>
    plain (low && bits w 18 14 == 0)
      (.vqswz o (bits w 10 2) (bits w 12 2) (bits w 14 2) (bits w 16 2))
  | 0x146 => plain (w == 0) (.vballot o)
  | 0x147 => plain (w == 0) (.vcount o)
  | 0x148 => plain (w == 0) (.vfind o)
  | 0x149 => legal (.vappend o w)
  | _ => .error .unassigned

/-- Mask, predicate and join, 0x180 to 0x1BF (R314 to R318). -/
def decodeMaskLane (op : Nat) (o : LaneOp) (w : Code) : Except DecodeError Instr :=
  match op with
  | 0x180 => plain (w == 0) (.pand o)
  | 0x181 => plain (w == 0) (.por o)
  | 0x182 => plain (w == 0) (.pxor o)
  | 0x183 => plain (w == 0) (.pandn o)
  | 0x184 => plain (w == 0) (.pnot o)
  | 0x185 => plain (bits w 1 31 == 0) (.pset o (bit w 0))
  | 0x186 => plain (w == 0) (.pfroms o)
  | 0x187 => plain (w == 0) (.ptos o)
  | 0x188 => plain (w == 0) (.pmand o)
  | 0x189 => plain (w == 0) (.pmandn o)
  | 0x18A => plain (w == 0) (.pmor o)
  | 0x18B => plain (w == 0) (.pmset o)
  | 0x18C => plain (w == 0) (.pmtos o)
  | 0x18D => plain (w == 0) (.pmtop o)
  | 0x190 => plain (w == 0) (.jset o)
  | 0x191 => plain (w == 0) (.jarr o)
  | 0x192 => plain (w == 0) (.jdrop o)
  | 0x193 => plain (w == 0) (.jwait o)
  | 0x194 => legal (.jst o w)
  | 0x195 => legal (.jld o w)
  | _ => .error .unassigned

/-- Vector memory, atomics and accumulates, 0x1C0 to 0x27F (R358 to R366). -/
def decodeMemLane (op : Nat) (o : LaneOp) (w : Code) : Except DecodeError Instr :=
  match op with
  | 0x1C0 => withMem w (.vld o)
  | 0x1C1 => withMem w (.vst o)
  | 0x1C2 => withMem w (.vlds o)
  | 0x1C3 => withMem w (.vsts o)
  | 0x1C4 => plain (bits w 0 10 == 0) (.vpf o (memMods w))
  | 0x240 => withMem w (.vatomAdd o)
  | 0x241 => withMem w (.vatomSwap o)
  | 0x242 => withMem w (.vatomAnd o)
  | 0x243 => withMem w (.vatomOr o)
  | 0x244 => withMem w (.vatomXor o)
  | 0x245 => withMem w (.vatomMin o)
  | 0x246 => withMem w (.vatomMax o)
  | 0x247 => withMem w (.vatomCas o)
  | 0x250 => withAcc w (.vaccAdd o)
  | 0x251 => withAcc w (.vaccMin o)
  | 0x252 => withAcc w (.vaccMax o)
  | 0x253 => plain (w == 0) (.rflush o)
  | _ => .error .unassigned

/-- Matrix, sparse, walk and texture, 0x2C0 to 0x33F (R388 to R398). -/
def decodeMatrixLane (op : Nat) (o : LaneOp) (reuse : Bool) (w : Code) : Except DecodeError Instr :=
  match op with
  | 0x2C0 => plain (bits w 12 20 == 0 && bit w 10 == false && bits w 0 10 == 0)
      (.mma o reuse (bit w 11))
  | 0x2C1 => plain (bits w 12 10 == 0 && bit w 10 == false && bits w 0 10 == 0)
      (.mmas o reuse (bit w 11) (bits w 22 10))
  | 0x2C2 =>
    match ElemTy.ofCode (bits w 0 5).toNat with
    | some ty => plain (bits w 5 27 == 0) (.vspk o ty)
    | none => .error .badType
  | 0x300 => plain (w == 0) (.wstart o)
  | 0x301 => plain (w == 0) (.wresume o)
  | 0x310 => plain (w == 0) (.texPoint o)
  | 0x311 => plain (w == 0) (.texBilinear o)
  | 0x312 => plain (w == 0) (.texTrilinear o)
  | 0x313 => plain (w == 0) (.texGather o)
  | 0x314 => plain (w == 0) (.texf o)
  | 0x315 => plain (w == 0) (.texsz o)
  | _ => .error .unassigned

/-- A lane instruction, class 0b01, by the opcode ranges of R289. reuse is a matrix bit (R284). -/
def decodeLane (w0 w1 w2 : Code) : Except DecodeError Instr :=
  match laneFields w0 w1 with
  | none => .error .badFlag
  | some o =>
    let op := (bits w0 20 10).toNat
    let reuse := bit w1 0
    if reuse && !(op == 0x2C0 || op == 0x2C1) then .error .badReuse
    else if op < 0x080 then decodeIntLane op o w2
    else if op < 0x100 then decodeFpLane op o w2
    else if op < 0x140 then decodeConvLane op o w2
    else if op < 0x180 then decodeCrossLane op o w2
    else if op < 0x1C0 then decodeMaskLane op o w2
    else if op < 0x280 then decodeMemLane op o w2
    else decodeMatrixLane op o reuse w2

/-- A stride field of M, read from words 3 to 7 as one 160-bit value (R287). -/
def nestM (w3 w4 w5 w6 w7 : Code) : BitVec 160 := w7 ++ w6 ++ w5 ++ w4 ++ w3

/-- The level `l` of a nest, with its extent. -/
def nestLevel (m : BitVec 160) (l : Nat) (extent : BitVec 16) : Level :=
  { extent := extent, d := m.extractLsb' (30 * l) 10, x := m.extractLsb' (30 * l + 10) 10
    y := m.extractLsb' (30 * l + 20) 10 }

/-- The operations of R379. -/
def nestInstr (op : Nat) (n : Nest) : Option Instr :=
  match op with
  | 0x00 => some (.lnestCopy n)
  | 0x01 => some (.lnestAdd n)
  | 0x02 => some (.lnestSub n)
  | 0x03 => some (.lnestMul n)
  | 0x04 => some (.lnestFma n)
  | 0x05 => some (.lnestMin n)
  | 0x06 => some (.lnestMax n)
  | 0x10 => some (.lnestSum n)
  | 0x11 => some (.lnestDot n)
  | 0x12 => some (.lnestRmax n)
  | 0x13 => some (.lnestRmin n)
  | _ => none

/-- A loop-nest instruction, class 0b10 (R287). -/
def decodeNest (w0 w1 w2 w3 w4 w5 w6 w7 : Code) : Except DecodeError Instr :=
  let m := nestM w3 w4 w5 w6 w7
  match ElemTy.ofCode (m.extractLsb' 153 4).toNat, Rnd.ofCode (m.extractLsb' 157 3).toNat with
  | some ty, some rnd =>
    let n : Nest :=
      { sn := bits w0 18 6
        l0 := nestLevel m 0 (bits w0 0 16)
        l1 := nestLevel m 1 (bits w1 0 16)
        l2 := nestLevel m 2 (bits w1 16 16)
        l3 := nestLevel m 3 (bits w2 0 16)
        l4 := nestLevel m 4 (bits w2 16 16)
        queue := m.extractLsb' 150 3
        ty := ty
        rnd := rnd }
    if bits w0 16 2 == 0 then
      match nestInstr (bits w0 24 6).toNat n with
      | some i => legal i
      | none => .error .unassigned
    else .error .reservedField
  | none, _ => .error .badType
  | _, none => .error .badRounding

/-- The instruction at the head of a code stream, with the words that follow it (R268). -/
def decodeCode : List Code → Except DecodeError (Instr × List Code)
  | [] => .error .truncated
  | w0 :: ws =>
    match (bits w0 30 2).toNat, ws with
    | 0, rest => (decodeScalar w0).map (·, rest)
    | 1, w1 :: w2 :: rest => (decodeLane w0 w1 w2).map (·, rest)
    | 2, w1 :: w2 :: w3 :: w4 :: w5 :: w6 :: w7 :: rest =>
      (decodeNest w0 w1 w2 w3 w4 w5 w6 w7).map (·, rest)
    | 3, w1 :: rest => (decodeHeader w0 w1).map (·, rest)
    | _, _ => .error .truncated

/-- One walk-code word (R401, R402). The compiler has no tag for the last of these constructors,
so this definition is for the kernel alone; `stepWalkWord` says how a run performs such a word. -/
noncomputable def decodeWalk (w : Code) : Except DecodeError Instr :=
  let d := bits w 23 3
  let a := bits w 20 3
  let b := bits w 17 3
  let imm := bits w 0 17
  let d0 := d == 0
  let a0 := a == 0
  let b0 := b == 0
  let i0 := imm == 0
  match (bits w 26 6).toNat with
  | 0x00 => need (d0 && a0 && b0 && i0) .walkDone
  | 0x01 => need (d0 && b0 && i0) (.walkFetch a)
  | 0x02 => need (a0 && b0 && bits w 11 6 == 0) (.walkFld d (bit w 10) (bits w 8 2) (bits w 0 8))
  | 0x03 => need (b0 && i0) (.walkChild d a)
  | 0x04 => need (b0 && i0) (.walkBox4 d a)
  | 0x05 => need i0 (.walkTri d a b)
  | 0x06 => need (d0 && i0) (.walkCommit a b)
  | 0x07 => if b0 && bits w 3 14 == 0 then legal (.walkEdge3 d a (bits w 0 3)) else .error .reservedField
  | 0x08 =>
    if bit w 0 then need (d0 && b0 && bits w 1 16 == 0) (.walkEmitVis a)
    else need (d0 && b0 && bits w 5 12 == 0) (.walkEmitRing a (bits w 1 4))
  | 0x09 => need (d0 && b0 && i0) (.walkPush a)
  | 0x0A => need (a0 && b0 && i0) (.walkPop d)
  | 0x0B => need i0 (.walkAdd d a b)
  | 0x0C => need b0 (.walkAddi d a imm)
  | 0x0D => need i0 (.walkSub d a b)
  | 0x0E => need i0 (.walkAnd d a b)
  | 0x0F =>
    if bit w 6 then need (b0 && bits w 7 10 == 0) (.walkShr d a (bits w 0 6))
    else need (b0 && bits w 7 10 == 0) (.walkShl d a (bits w 0 6))
  | 0x10 =>
    match WalkCond.ofCode (bits w 0 3).toNat with
    | some c => need (bits w 3 14 == 0) (.walkCmp d a b c)
    | none => .error .badCode
  | 0x11 => need (a0 && b0) (.walkMovi d imm)
  | 0x12 => need (d0 && a0 && b0 && bits w 8 9 == 0) (.walkJmp (bits w 0 8))
  | 0x13 => need (d0 && b0 && bits w 8 9 == 0) (.walkJz a (bits w 0 8))
  | 0x14 => need (d0 && b0 && bits w 8 9 == 0) (.walkJnz a (bits w 0 8))
  | 0x15 => need (d0 && a0 && b0 && i0) .walkYield
  | _ => .error .unassigned

/-- Little-endian words of a byte list (R268); a last part of fewer than four bytes is dropped. -/
def wordsOfBytes : List Byte → List Code
  | b0 :: b1 :: b2 :: b3 :: rest => (b3 ++ b2 ++ b1 ++ b0) :: wordsOfBytes rest
  | _ => []

/-- The code instruction at the head of a byte list. -/
def decodeBytes (bs : List Byte) : Except DecodeError Instr :=
  (decodeCode (wordsOfBytes bs)).map (·.1)

/-- The words of an instruction whose bits are `w`, numbered from bit 0 of its first word, with
every bit from `nbits` on zero: eight words, the longest instruction (R287). -/
def tableWords (nbits w : Nat) : List Code :=
  let v : BitVec 256 := BitVec.ofNat 256 (w % 2 ^ nbits)
  (List.range 8).map fun i => v.extractLsb' (32 * i) 32

/-- A row's bits are walk code: one word that is no scalar instruction, since a lane instruction, a
loop-nest instruction and a header have more than 32 bits (R269, R401); or a word that the code stream
does not have. A scalar word that is also a walk operation is read as the scalar instruction
(notes/assumptions/21.md). -/
def tableIsWalk (nbits w : Nat) : Bool :=
  let ws := tableWords nbits w
  if nbits ≤ 32 && bits (ws.headD 0) 30 2 != (0 : BitVec 2) then true
  else
    match decodeCode ws with
    | .ok _ => false
    | .error _ => true

/-- What the decoder reads from a row's bits. -/
noncomputable def decodeTableWord (nbits w : Nat) : Option Instr :=
  let ws := tableWords nbits w
  if tableIsWalk nbits w then (decodeWalk (ws.headD 0)).toOption
  else (decodeCode ws).toOption.map (·.1)

/-! ### The encoder -/

/-- SR format (R279). -/
def encSR (op : BitVec 6) (sd sa sb fn : BitVec 6) : List Code := [0b00#2 ++ op ++ sd ++ sa ++ sb ++ fn]

/-- SI format (R279). -/
def encSI (op : BitVec 6) (sd sa : SReg) (imm : BitVec 12) : List Code := [0b00#2 ++ op ++ sd ++ sa ++ imm]

/-- SB format (R279). -/
def encSB (op : BitVec 6) (cond : BitVec 4) (off : BitVec 20) : List Code := [0b00#2 ++ op ++ cond ++ off]

/-- SU format (R279). -/
def encSU (op : BitVec 2) (sd : SReg) (imm : BitVec 20) : List Code := [0b0011#4 ++ op ++ sd ++ imm]

/-- A Boolean as one bit. -/
abbrev b1 (b : Bool) : BitVec 1 := BitVec.ofBool b

/-- Words 0 and 1 of R281 before word 2. -/
def encLane (op : BitVec 10) (o : LaneOp) (reuse : Bool) (w2 : Code) : List Code :=
  [0b01#2 ++ op ++ o.vd ++ o.va,
   o.vb ++ o.vc ++ o.guard ++ b1 o.neg ++ BitVec.ofNat 2 o.flag.code ++ o.minw ++ b1 reuse,
   w2]

/-- The modifier word of R285. -/
def encMods (spec : BitVec 22) (m : Mods) : Code :=
  spec ++ b1 m.ftz ++ b1 m.sat ++ BitVec.ofNat 3 m.rnd.code ++ BitVec.ofNat 5 m.ty.code

/-- A form without an immediate (R285). -/
def encM (op : BitVec 10) (o : LaneOp) (spec : BitVec 22) (m : Mods) : List Code :=
  encLane op o false (encMods spec m)

/-- A form that takes no type and no modifier. -/
def encP (op : BitVec 10) (o : LaneOp) (spec : BitVec 22) : List Code :=
  encLane op o false (spec ++ 0#10)

/-- spec[17:10] of a shift: `s64`, the immediate bit and the amount (R325, R329). -/
def encAmt (s64 : Bool) (amt : ShiftAmt) : BitVec 22 :=
  match amt with
  | .reg => 0#14 ++ b1 s64 ++ 0#7
  | .imm n => 0#14 ++ b1 s64 ++ 1#1 ++ n

/-- Word 2 of a memory form (R358). -/
def encMemWord (m : MemMods) (ty : BitVec 5) : Code :=
  m.off ++ b1 m.flat ++ BitVec.ofNat 2 m.ord.code ++ b1 m.yield ++ m.scale ++ 0#5 ++ ty

/-- A memory form. -/
def encMem (op : BitVec 10) (o : LaneOp) (m : MemMods) (ty : Nat) : List Code :=
  encLane op o false (encMemWord m (BitVec.ofNat 5 ty))

/-- The strides of one level, as 30 bits of M. -/
def encLevel (l : Level) : BitVec 30 := l.y ++ l.x ++ l.d

/-- The eight words of R287. -/
def encNest (op : BitVec 6) (n : Nest) : List Code :=
  let m : BitVec 160 :=
    BitVec.ofNat 3 n.rnd.code ++ BitVec.ofNat 4 n.ty.code ++ n.queue ++ encLevel n.l4 ++
      encLevel n.l3 ++ encLevel n.l2 ++ encLevel n.l1 ++ encLevel n.l0
  [0b10#2 ++ op ++ n.sn ++ 0#2 ++ n.l0.extent, n.l2.extent ++ n.l1.extent,
   n.l4.extent ++ n.l3.extent, m.extractLsb' 0 32, m.extractLsb' 32 32, m.extractLsb' 64 32,
   m.extractLsb' 96 32, m.extractLsb' 128 32]

/-- The two words of R270. -/
def encHeader (h : Header) : List Code :=
  [0b11#2 ++ h.wait ++ b1 h.setA.isSome ++ h.setA.getD 0 ++ b1 h.setB.isSome ++ h.setB.getD 0 ++ 0#8,
   h.length ++ 0#1 ++ b1 h.yield ++ b1 h.msplit ++ 0#19]

/-- A walk-code word (R401). -/
def encWalk (op : BitVec 6) (d a b : WReg) (imm : BitVec 17) : List Code := [op ++ d ++ a ++ b ++ imm]

/-- The words of an instruction (R270, R279, R281, R287, R401); an operation or event without an encoding has none. -/
def encode (i : Instr) : List Code :=
  match i with
  | .sadd sd sa sb => encSR 0x00 sd sa sb 0x00
  | .ssub sd sa sb => encSR 0x00 sd sa sb 0x01
  | .smul sd sa sb => encSR 0x00 sd sa sb 0x02
  | .smulhI64 sd sa sb => encSR 0x00 sd sa sb 0x03
  | .smulhN64 sd sa sb => encSR 0x00 sd sa sb 0x04
  | .sand sd sa sb => encSR 0x00 sd sa sb 0x05
  | .sor sd sa sb => encSR 0x00 sd sa sb 0x06
  | .sxor sd sa sb => encSR 0x00 sd sa sb 0x07
  | .sshl sd sa sb => encSR 0x00 sd sa sb 0x08
  | .sshrN64 sd sa sb => encSR 0x00 sd sa sb 0x09
  | .sshrI64 sd sa sb => encSR 0x00 sd sa sb 0x0A
  | .sminI64 sd sa sb => encSR 0x00 sd sa sb 0x0B
  | .sminN64 sd sa sb => encSR 0x00 sd sa sb 0x0C
  | .smaxI64 sd sa sb => encSR 0x00 sd sa sb 0x0D
  | .smaxN64 sd sa sb => encSR 0x00 sd sa sb 0x0E
  | .sdivI64 sd sa sb => encSR 0x00 sd sa sb 0x0F
  | .sdivN64 sd sa sb => encSR 0x00 sd sa sb 0x10
  | .sremI64 sd sa sb => encSR 0x00 sd sa sb 0x11
  | .sremN64 sd sa sb => encSR 0x00 sd sa sb 0x12
  | .spopc sd sa => encSR 0x00 sd sa 0 0x13
  | .sclz sd sa => encSR 0x00 sd sa 0 0x14
  | .sctz sd sa => encSR 0x00 sd sa 0 0x15
  | .saddi sd sa imm => encSI 0x01 sd sa imm
  | .sandi sd sa imm => encSI 0x02 sd sa imm
  | .sori sd sa imm => encSI 0x03 sd sa imm
  | .sxori sd sa imm => encSI 0x04 sd sa imm
  | .sshli sd sa n => encSR 0x05 sd sa 0 n
  | .sshriN64 sd sa n => encSR 0x06 sd sa 0 n
  | .sshriI64 sd sa n => encSR 0x06 sd sa 1 n
  | .scmpEq sd sa sb => encSR 0x07 sd sa sb 0
  | .scmpNe sd sa sb => encSR 0x07 sd sa sb 1
  | .scmpI64Lt sd sa sb => encSR 0x07 sd sa sb 2
  | .scmpI64Ge sd sa sb => encSR 0x07 sd sa sb 3
  | .scmpN64Lt sd sa sb => encSR 0x07 sd sa sb 4
  | .scmpN64Ge sd sa sb => encSR 0x07 sd sa sb 5
  | .ssel sd sa sb sc => encSR 0x08 sd sa sb sc
  | .sli sd imm => encSI 0x09 sd 0 imm
  | .slui sd imm => encSU 0 sd imm
  | .spcui sd imm => encSU 1 sd imm
  | .sgetr sd num => encSR 0x0A sd 0 0 num
  | .sgetrQpc sd idx => encSR 0x0A sd 0 idx 8
  | .ssetr sa num => encSR 0x0B 0 sa 0 num
  | .b off => encSB 0x10 0 off
  | .bmz off => encSB 0x10 1 off
  | .bmnz off => encSB 0x10 2 off
  | .bmall off => encSB 0x10 3 off
  | .bmnall off => encSB 0x10 4 off
  | .bcall off => encSB 0x11 0 off
  | .bjr sa => encSR 0x12 0 sa 0 0
  | .bcallr sd sa => encSR 0x12 sd sa 0 1
  | .bz sa imm => encSI 0x13 0 sa imm
  | .bnz sa imm => encSI 0x14 0 sa imm
  | .snop => encSR 0x15 0 0 0 0
  | .snopProgress => encSR 0x15 0 0 0 1
  | .exit => encSR 0x15 0 0 0 2
  | .trap imm => encSI 0x2C 0 0 imm
  | .tret => encSR 0x2D 0 0 0 0
  | .tretDecline => encSR 0x2D 0 0 0 1
  | .sldN64 sd sa imm => encSI 0x18 sd sa imm
  | .sldN32 sd sa imm => encSI 0x19 sd sa imm
  | .sldI32 sd sa imm => encSI 0x1A sd sa imm
  | .sstN64 sd sa imm => encSI 0x1B sd sa imm
  | .sstN32 sd sa imm => encSI 0x1C sd sa imm
  | .sldN64Yield sd sa imm => encSI 0x1D sd sa imm
  | .satomAdd sd sa sb ord => encSR 0x1E sd sa sb (BitVec.ofNat 2 ord.code ++ 0#4)
  | .satomSwap sd sa sb ord => encSR 0x1E sd sa sb (BitVec.ofNat 2 ord.code ++ 1#4)
  | .satomAnd sd sa sb ord => encSR 0x1E sd sa sb (BitVec.ofNat 2 ord.code ++ 2#4)
  | .satomOr sd sa sb ord => encSR 0x1E sd sa sb (BitVec.ofNat 2 ord.code ++ 3#4)
  | .satomXor sd sa sb ord => encSR 0x1E sd sa sb (BitVec.ofNat 2 ord.code ++ 4#4)
  | .satomMinI64 sd sa sb ord => encSR 0x1E sd sa sb (BitVec.ofNat 2 ord.code ++ 5#4)
  | .satomMinN64 sd sa sb ord => encSR 0x1E sd sa sb (BitVec.ofNat 2 ord.code ++ 6#4)
  | .satomMaxI64 sd sa sb ord => encSR 0x1E sd sa sb (BitVec.ofNat 2 ord.code ++ 7#4)
  | .satomMaxN64 sd sa sb ord => encSR 0x1E sd sa sb (BitVec.ofNat 2 ord.code ++ 8#4)
  | .satomCas sd sa sb ord => encSR 0x1E sd sa sb (BitVec.ofNat 2 ord.code ++ 9#4)
  | .dzero sa imm => encSI 0x1F 0 sa imm
  | .spfL2 sa imm => encSI 0x1F 1 sa imm
  | .spfL1 sa imm => encSI 0x1F 2 sa imm
  | .cadd sa sb => encSR 0x20 0 sa sb 0
  | .caddRel sa sb => encSR 0x20 0 sa sb 1
  | .qfence mask => encSI 0x21 0 0 (0#4 ++ mask)
  | .cget sd sa => encSR 0x22 sd sa 0 0
  | .cgetAcq sd sa => encSR 0x22 sd sa 0 1
  | .cgetTeam sd => encSR 0x22 sd 0 0 2
  | .cwait sa sb acq => encSR 0x23 0 sa sb (0#5 ++ b1 acq)
  | .cwaitSt sd sa sb acq => encSR 0x23 sd sa sb (1#5 ++ b1 acq)
  | .bar => encSR 0x24 0 0 0 0
  | .fenceRel => encSR 0x24 0 0 0 1
  | .fenceAcq => encSR 0x24 0 0 0 2
  | .fenceAr => encSR 0x24 0 0 0 3
  | .ifence => encSR 0x24 0 0 0 4
  | .kset k sa => encSR 0x25 k sa 0 0
  | .kfill k => encSR 0x25 k 0 0 1
  | .kfree k => encSR 0x25 k 0 0 2
  | .kwaitFree k sb => encSR 0x26 0 k sb 0
  | .kwaitFull k sb => encSR 0x26 0 k sb 1
  | .kwaitFreeSt sd k sb => encSR 0x26 sd k sb 2
  | .kwaitFullSt sd k sb => encSR 0x26 sd k sb 3
  | .cpy sa q => encSR 0x27 0 sa 0 (0#3 ++ q)
  | .qwait sa sb q => encSR 0x27 0 sa sb (1#3 ++ q)
  | .qadd sa sb q => encSR 0x27 0 sa sb (2#3 ++ q)
  | .sfmt ta tb => encSI 0x28 0 0 (0#2 ++ tb ++ ta)
  | .mrel => encSR 0x29 0 0 0 0
  | .sstampOpen sa => encSR 0x2A 0 sa 0 0
  | .sstampClose => encSR 0x2A 0 0 0 1
  | .clauseHeader h => encHeader h
  | .vaddInt o m => encM 0x000 o 0 m
  | .vsubInt o m => encM 0x001 o 0 m
  | .vmulInt o m => encM 0x002 o 0 m
  | .vmulh o m => encM 0x003 o 0 m
  | .vmad o m => encM 0x004 o 0 m
  | .vminInt o m => encM 0x005 o 0 m
  | .vmaxInt o m => encM 0x006 o 0 m
  | .vabsInt o m => encM 0x007 o 0 m
  | .vand o m => encM 0x008 o 0 m
  | .vor o m => encM 0x009 o 0 m
  | .vxor o m => encM 0x00A o 0 m
  | .vnot o m => encM 0x00B o 0 m
  | .vshl o m amt => encM 0x00C o (encAmt false amt) m
  | .vshr o m amt => encM 0x00D o (encAmt false amt) m
  | .vrshr o m src64 amt => encM 0x00E o (encAmt src64 amt) m
  | .vpopc o m => encM 0x00F o 0 m
  | .vclz o m => encM 0x010 o 0 m
  | .vbfe o m p n => encM 0x011 o (0#12 ++ n ++ p) m
  | .vcmpInt o m cc => encM 0x012 o (0#19 ++ BitVec.ofNat 3 cc.code) m
  | .vsel o m => encM 0x013 o 0 m
  | .vdot4 o m => encM 0x014 o 0 m
  | .vaddIntImm o imm => encLane 0x040 o false imm
  | .vmulIntImm o imm => encLane 0x041 o false imm
  | .vandImm o imm => encLane 0x042 o false imm
  | .vorImm o imm => encLane 0x043 o false imm
  | .vxorImm o imm => encLane 0x044 o false imm
  | .vcmpIntImm o cc uns imm => encLane 0x045 { o with vc := 0#6 ++ b1 uns ++ BitVec.ofNat 3 cc.code } false imm
  | .vmovImm o imm => encLane 0x046 o false imm
  | .vaddFp o m => encM 0x080 o 0 m
  | .vsubFp o m => encM 0x081 o 0 m
  | .vmulFp o m => encM 0x082 o 0 m
  | .vfma o m => encM 0x083 o 0 m
  | .vfnma o m => encM 0x084 o 0 m
  | .vminFp o m => encM 0x085 o 0 m
  | .vmaxFp o m => encM 0x086 o 0 m
  | .vabsFp o m => encM 0x087 o 0 m
  | .vneg o m => encM 0x088 o 0 m
  | .vcopysign o m => encM 0x089 o 0 m
  | .vdiv o m => encM 0x08A o 0 m
  | .vsqrt o m => encM 0x08B o 0 m
  | .vrcp o m => encM 0x08C o 0 m
  | .vrsqrt o m => encM 0x08D o 0 m
  | .vrint o m => encM 0x08E o 0 m
  | .vclip o m => encM 0x08F o 0 m
  | .vclamp o m => encM 0x090 o 0 m
  | .vsign o m => encM 0x091 o 0 m
  | .vcmpFp o m cc => encM 0x092 o (0#19 ++ BitVec.ofNat 3 cc.code) m
  | .vclass o m => encM 0x093 o 0 m
  | .vldexp o m => encM 0x094 o 0 m
  | .vgetexp o m => encM 0x095 o 0 m
  | .vlerp o m => encM 0x096 o 0 m
  | .vexp2 o m => encM 0x097 o 0 m
  | .vlog2 o m => encM 0x098 o 0 m
  | .vsinpi o m => encM 0x099 o 0 m
  | .vcospi o m => encM 0x09A o 0 m
  | .vaddF32Imm o imm => encLane 0x09B o false imm
  | .vmulF32Imm o imm => encLane 0x09C o false imm
  | .vfmaF32Imm o imm => encLane 0x09D o false imm
  | .vmaxF32Imm o imm => encLane 0x09E o false imm
  | .vcmpF32Imm o cc imm => encLane 0x09F { o with vc := 0#7 ++ BitVec.ofNat 3 cc.code } false imm
  | .vcvt o m src si di => encM 0x100 o (0#11 ++ di ++ si ++ BitVec.ofNat 5 src.code) m
  | .vpack o m => encM 0x101 o 0 m
  | .vunpack o m => encM 0x102 o 0 m
  | .vcvt2 o m => encM 0x103 o 0 m
  | .vadd2 o m => encM 0x104 o 0 m
  | .vsub2 o m => encM 0x105 o 0 m
  | .vmul2 o m => encM 0x106 o 0 m
  | .vfma2 o m => encM 0x107 o 0 m
  | .vmin2 o m => encM 0x108 o 0 m
  | .vmax2 o m => encM 0x109 o 0 m
  | .vdot2 o m => encM 0x10A o 0 m
  | .vshl2 o m amt => encM 0x10B o (encAmt false amt) m
  | .vshr2 o m amt => encM 0x10C o (encAmt false amt) m
  | .vhsel o h0 h1 => encP 0x10D o (0#18 ++ h1 ++ h0)
  | .vred o m op => encM 0x140 o (0#19 ++ BitVec.ofNat 3 op.code) m
  | .vscan o m op excl => encM 0x141 o (0#18 ++ b1 excl ++ BitVec.ofNat 3 op.code) m
  | .vshuf o => encP 0x142 o 0
  | .vbcast o n => encP 0x143 o (0#16 ++ n)
  | .vrot o n => encP 0x144 o (0#16 ++ n)
  | .vqswz o q0 q1 q2 q3 => encP 0x145 o (0#14 ++ q3 ++ q2 ++ q1 ++ q0)
  | .vballot o => encP 0x146 o 0
  | .vcount o => encP 0x147 o 0
  | .vfind o => encP 0x148 o 0
  | .vappend o off => encLane 0x149 o false off
  | .pand o => encP 0x180 o 0
  | .por o => encP 0x181 o 0
  | .pxor o => encP 0x182 o 0
  | .pandn o => encP 0x183 o 0
  | .pnot o => encP 0x184 o 0
  | .pset o bit => encLane 0x185 o false (0#31 ++ b1 bit)
  | .pfroms o => encP 0x186 o 0
  | .ptos o => encP 0x187 o 0
  | .pmand o => encP 0x188 o 0
  | .pmandn o => encP 0x189 o 0
  | .pmor o => encP 0x18A o 0
  | .pmset o => encP 0x18B o 0
  | .pmtos o => encP 0x18C o 0
  | .pmtop o => encP 0x18D o 0
  | .jset o => encP 0x190 o 0
  | .jarr o => encP 0x191 o 0
  | .jdrop o => encP 0x192 o 0
  | .jwait o => encP 0x193 o 0
  | .jst o off => encLane 0x194 o false off
  | .jld o off => encLane 0x195 o false off
  | .vld o ty m => encMem 0x1C0 o m ty.code
  | .vst o ty m => encMem 0x1C1 o m ty.code
  | .vlds o ty m => encMem 0x1C2 o m ty.code
  | .vsts o ty m => encMem 0x1C3 o m ty.code
  | .vpf o m => encMem 0x1C4 o m 0
  | .vatomAdd o ty m => encMem 0x240 o m ty.code
  | .vatomSwap o ty m => encMem 0x241 o m ty.code
  | .vatomAnd o ty m => encMem 0x242 o m ty.code
  | .vatomOr o ty m => encMem 0x243 o m ty.code
  | .vatomXor o ty m => encMem 0x244 o m ty.code
  | .vatomMin o ty m => encMem 0x245 o m ty.code
  | .vatomMax o ty m => encMem 0x246 o m ty.code
  | .vatomCas o ty m => encMem 0x247 o m ty.code
  | .vaccAdd o ty m => encMem 0x250 o m ty.code
  | .vaccMin o ty m => encMem 0x251 o m ty.code
  | .vaccMax o ty m => encMem 0x252 o m ty.code
  | .rflush o => encP 0x253 o 0
  | .mma o reuse scl => encLane 0x2C0 o reuse (0#20 ++ b1 scl ++ 0#11)
  | .mmas o reuse scl vm => encLane 0x2C1 o reuse (vm ++ 0#10 ++ b1 scl ++ 0#11)
  | .vspk o ty => encLane 0x2C2 o false (0#27 ++ BitVec.ofNat 5 ty.code)
  | .wstart o => encP 0x300 o 0
  | .wresume o => encP 0x301 o 0
  | .texPoint o => encP 0x310 o 0
  | .texBilinear o => encP 0x311 o 0
  | .texTrilinear o => encP 0x312 o 0
  | .texGather o => encP 0x313 o 0
  | .texf o => encP 0x314 o 0
  | .texsz o => encP 0x315 o 0
  | .lnestCopy n => encNest 0x00 n
  | .lnestAdd n => encNest 0x01 n
  | .lnestSub n => encNest 0x02 n
  | .lnestMul n => encNest 0x03 n
  | .lnestFma n => encNest 0x04 n
  | .lnestMin n => encNest 0x05 n
  | .lnestMax n => encNest 0x06 n
  | .lnestSum n => encNest 0x10 n
  | .lnestDot n => encNest 0x11 n
  | .lnestRmax n => encNest 0x12 n
  | .lnestRmin n => encNest 0x13 n
  | .walkDone => encWalk 0x00 0 0 0 0
  | .walkFetch a => encWalk 0x01 0 a 0 0
  | .walkFld d sx s off => encWalk 0x02 d 0 0 (0#6 ++ b1 sx ++ s ++ off)
  | .walkChild d a => encWalk 0x03 d a 0 0
  | .walkBox4 d a => encWalk 0x04 d a 0 0
  | .walkTri d a b => encWalk 0x05 d a b 0
  | .walkCommit a b => encWalk 0x06 0 a b 0
  | .walkEdge3 d a lg => encWalk 0x07 d a 0 (0#14 ++ lg)
  | .walkEmitRing a n => encWalk 0x08 0 a 0 (0#12 ++ n ++ 0#1)
  | .walkEmitVis a => encWalk 0x08 0 a 0 1
  | .walkPush a => encWalk 0x09 0 a 0 0
  | .walkPop d => encWalk 0x0A d 0 0 0
  | .walkAdd d a b => encWalk 0x0B d a b 0
  | .walkAddi d a imm => encWalk 0x0C d a 0 imm
  | .walkSub d a b => encWalk 0x0D d a b 0
  | .walkAnd d a b => encWalk 0x0E d a b 0
  | .walkShl d a n => encWalk 0x0F d a 0 (0#11 ++ n)
  | .walkShr d a n => encWalk 0x0F d a 0 (1#11 ++ n)
  | .walkCmp d a b c => encWalk 0x10 d a b (0#14 ++ BitVec.ofNat 3 c.code)
  | .walkMovi d imm => encWalk 0x11 d 0 0 imm
  | .walkJmp l => encWalk 0x12 0 0 0 (0#9 ++ l)
  | .walkJz a l => encWalk 0x13 0 a 0 (0#9 ++ l)
  | .walkJnz a l => encWalk 0x14 0 a 0 (0#9 ++ l)
  | .walkYield => encWalk 0x15 0 0 0 0
  | .walkStepLimit _ _ => []
  | .ctxcmdCreate _ _ => []
  | .ctxcmdBind _ _ => []
  | .bindComplete _ => []
  | .ctxcmdRun _ _ => []
  | .ctxcmdQuiesce _ _ => []
  | .ctxcmdReset _ _ => []
  | .resetSequenceComplete _ => []
  | .ctxcmdDestroy _ _ => []
  | .destroySequenceComplete _ => []
  | .owncmd _ _ => []
  | .ctxinv _ _ _ => []
  | .ctxinvComplete _ => []
  | .ctxstateRead _ _ => []
  | .registerWrite _ _ _ _ => []
  | .lnclr _ _ _ => []
  | .lnstatRead _ _ => []
  | .lanternQuadWrite _ _ _ _ _ => []
  | .lnkctlEnSet _ _ => []
  | .lnkctlEnClear _ _ => []
  | .rcvcmdGo => []
  | .recoveryVerifyComplete => []
  | .deviceReset => []
  | .firmwareVerifyComplete => []
  | .attestationRequest _ _ => []
  | .hostBar4Read _ _ _ => []
  | .hostPostedWrite _ _ _ _ => []
  | .hostFetchadd _ _ _ => []
  | .clockStepDown => []
  | .clockStepUp => []
  | .deviceWideUncorrectableError => []
  | .linePoisonDetect _ => []
  | .queueReady _ _ => []
  | .dispatchOpportunity => []
  | .queuePriorityAging _ _ => []
  | .copyPacketPerform _ _ _ => []
  | .counterWaitPacketSatisfied _ _ _ => []
  | .counterAddPacketPerform _ _ _ => []
  | .teamPlace _ _ _ => []
  | .teamEnd _ => []
  | .launchCompletionAdd _ => []
  | .codeHashCheckComplete _ _ _ => []
  | .pageTableWalk _ _ _ => []
  | .missSplit _ _ _ => []
  | .fuseTimeout _ _ _ => []
  | .widthFault _ _ _ => []
  | .gangSwap _ _ => []
  | .yieldBackoffExpiry _ _ _ => []
  | .longLatencyComplete _ _ _ _ => []
  | .counterWaitTimeout _ _ _ => []
  | .counterWatchNotify _ _ _ => []
  | .remoteWaitRetry _ => []
  | .engineWaitReevaluate _ _ => []
  | .engineWaitSatisfied _ _ => []
  | .engineAddPerform _ _ => []
  | .engineCompletionAdd _ _ => []
  | .engineBindingRetry _ _ => []
  | .copyPerform _ _ => []
  | .engineRingFreeWaitEnd _ _ => []
  | .engineRingPublish _ _ => []
  | .qfenceMarkerRetire _ _ => []
  | .lnestEntryPerform _ _ => []
  | .lnestElementFault _ _ => []
  | .l1LineEviction _ _ _ => []
  | .l2LineEviction _ => []
  | .promotionWritebackAck _ _ => []
  | .accumulateArrival _ _ => []
  | .accumulateWindowStart => []
  | .refusalReply _ => []
  | .drainComplete _ _ => []
  | .watchdogExpiry _ _ _ => []
  | .aLatchIdleRelease _ _ => []
  | .drainWindowEnd _ => []
  | .saveComplete _ => []
  | .saveDeadline _ => []
  | .linkPeerDetected _ => []
  | .linkTrained _ _ _ => []
  | .linkTrainingTimeout _ => []
  | .linkFlitError _ => []
  | .linkLoss _ => []
  | .remoteRequest _ _ => []
  | .remoteReply _ _ => []
  | .remoteRequestTimeout _ => []
  | .remoteWaitCancel _ _ _ => []
  | .remoteCancelAck _ _ => []
  | .replayArrivalTimeout _ _ => []
  | .perContextUncorrectableError _ => []
  | .translationCacheEviction _ _ _ => []
  | .sectorForwarding _ _ _ => []

end Sys2Proof
end

