-- ==== Sys2Proof/Machine/Access.lean ====
section
/-! DEFINITION. The accessors of the state: every read and write of a context, core, team, wave,
quad or register goes through these. -/

namespace Sys2Proof.Machine

/-! ### Blank values for positions that hold nothing -/

/-- A lane at team start (R86). -/
def Lane.start : Lane := { v := Vector.replicate 640 0, p := 0 }

/-- A quad at team start, before its kernel's values are filled in (R86). -/
def Quad.start : Quad :=
  { pc := 0, em := 0xF, s := Vector.replicate 64 0, f := Vector.replicate 12 0
    lanes := Vector.replicate 4 Lane.start, fmt := 0, scb := 0, seed := 0
    joins := Vector.replicate 8 0, trapinfo := 0, trappc := 0, trapSrc := 1, clause := none, trapClause := none
    inHandler := false, exited := false, gen := 0, wait := .ready, pends := [], pendTraps := []
    waitTrap := none, deferred := [], nestHandled := none, relFence := false, acqLines := []
    poll := none, drainSt := .idle, stamp := none, fetched := [] }

/-- A wave of no team. -/
def Wave.blank : Wave :=
  { wid := 0, core := 0, quarter := 0, slot := 0, seq := 0, fusest := 0, wdog := 0, stopped := true, dog := []
    gangs := [], quads := [] }

/-- A kernel with nothing in it. -/
def Kernel.blank : Kernel :=
  { entry := 0, trapvec := 0, lgwave := 0, regs := 8, waves := 1, pair := false, scr := 0, lgres := 0
    wdepth := 0, msplit := false, fusetrap := false, fusetmo := 2048, wdog := 0, walkpay := 0
    mml := 1, rtboff := 0, push := [], seed := 0, shape := 0 }

/-- No team. -/
def Team.blank : Team :=
  { ctx := 0, core := 0, launch := 0, kernel := Kernel.blank, teamid := 0, gridid := 0
    phase := .ended, scratch := [], counter := 0, rings := Vector.replicate 16 Option.none
    tiles := [], waves := []
    carried := { held := [], entries := [], overflow := [], walks := [] } }

/-! ### Reading -/

/-- A context's control block. -/
def State.ctx (s : State) (c : BitVec 6) : Ctx := s.ctxs[c.toNat]'c.isLt

/-- A core. -/
def State.core (s : State) (c : Nat) : CoreSt := if h : c < 288 then s.cores[c] else CoreSt.reset

/-- A slice. -/
def State.sliceAt (s : State) (n : Nat) : Slice := if h : n < 128 then s.slices[n] else Slice.reset

/-- A port. -/
def State.portAt (s : State) (p : Port) : PortSt :=
  match p with
  | .p0 => s.ports[0]
  | .p1 => s.ports[1]

/-- A team. -/
def State.team (s : State) (t : Nat) : Team := s.teams.getD t Team.blank

/-- The team's waves are resident on a core (R81, R424). -/
def Team.resident (t : Team) : Bool := decide (t.phase = .live) || decide (t.phase = .stopped)

/-- A wave of a team. -/
def Team.wave (t : Team) (w : Nat) : Wave := t.waves.getD w Wave.blank

/-- A quad of a wave. -/
def Wave.quad (w : Wave) (q : Nat) : Quad := w.quads.getD q Quad.start

/-- A wave by its team and WAVEID. -/
def State.wave (s : State) (t w : Nat) : Wave := (s.team t).wave w

/-- A quad by its team, WAVEID and QUADID. -/
def State.quad (s : State) (t w q : Nat) : Quad := (s.wave t w).quad q

/-! ### Writing -/

/-- Changes one context. -/
def State.modCtx (s : State) (c : BitVec 6) (f : Ctx → Ctx) : State :=
  { s with ctxs := modVec s.ctxs c.toNat f }

/-- Changes one core. -/
def State.modCore (s : State) (c : Nat) (f : CoreSt → CoreSt) : State :=
  { s with cores := modVec s.cores c f }

/-- Changes one slice. -/
def State.modSlice (s : State) (n : Nat) (f : Slice → Slice) : State :=
  { s with slices := modVec s.slices n f }

/-- Changes one port. -/
def State.modPort (s : State) (p : Port) (f : PortSt → PortSt) : State :=
  { s with ports := modVec s.ports (match p with | .p0 => 0 | .p1 => 1) f }

/-- Changes one team. -/
def State.modTeam (s : State) (t : Nat) (f : Team → Team) : State :=
  { s with teams := modAt s.teams t f }

/-- Changes one wave of a team. -/
def Team.modWave (t : Team) (w : Nat) (f : Wave → Wave) : Team := { t with waves := modAt t.waves w f }

/-- Changes one quad of a wave. -/
def Wave.modQuad (w : Wave) (q : Nat) (f : Quad → Quad) : Wave := { w with quads := modAt w.quads q f }

/-- Changes one wave. -/
def State.modWave (s : State) (t w : Nat) (f : Wave → Wave) : State :=
  s.modTeam t fun x => x.modWave w f

/-- Changes one quad. -/
def State.modQuad (s : State) (t w q : Nat) (f : Quad → Quad) : State :=
  s.modWave t w fun x => x.modQuad q f

/-- Changes several quads of a wave, each by its own number. -/
def State.modQuads (s : State) (t w : Nat) (qs : List Nat) (f : Nat → Quad → Quad) : State :=
  s.modWave t w fun x => qs.foldl (fun x q => x.modQuad q (f q)) x

/-- Changes one launch. -/
def State.modLaunch (s : State) (n : Nat) (f : Launch → Launch) : State :=
  { s with launches := modAt s.launches n f }

/-- Changes one queue of a context. -/
def State.modQueue (s : State) (c : BitVec 6) (q : BitVec 8) (f : Queue → Queue) : State :=
  s.modCtx c fun x => { x with queues := modVec x.queues q.toNat f }

/-- A queue of a context. -/
def State.queue (s : State) (c : BitVec 6) (q : BitVec 8) : Queue := (s.ctx c).queues[q.toNat]'q.isLt

/-- Changes one engine queue of a core. -/
def State.modEngine (s : State) (c : Nat) (q : BitVec 3) (f : List Entry → List Entry) : State :=
  s.modCore c fun x => { x with queues := modVec x.queues q.toNat f }

/-- An engine queue of a core. -/
def State.engine (s : State) (c : Nat) (q : BitVec 3) : List Entry := (s.core c).queues[q.toNat]'q.isLt

/-- A fresh identity number. -/
def State.bumpId (s : State) : State := { s with nextId := s.nextId + 1 }

/-- Marks one use of the free values. -/
def State.bumpFree (s : State) : State := { s with free := s.free + 1 }

/-! ### Registers -/

/-- s0 to s63 of a quad (R97). -/
def Quad.rs (q : Quad) (r : SReg) : Word := q.s[r.toNat]'r.isLt

/-- Writes a scalar register of a quad. -/
def Quad.setS (q : Quad) (r : SReg) (v : Word) : Quad := { q with s := q.s.set r.toNat v r.isLt }

/-- A scalar register by a number that may exceed 63, as a lane field holds it (R314, R358). -/
def Quad.rsN (q : Quad) (n : Nat) : Word := q.s.getD n 0

/-- Writes a scalar register by number. -/
def Quad.setSN (q : Quad) (n : Nat) (v : Word) : Quad := { q with s := q.s.setIfInBounds n v }

/-- A vector register of a lane (R97). -/
def Lane.rv (l : Lane) (n : Nat) : Code := l.v.getD n 0

/-- Writes a vector register of a lane. -/
def Lane.setV (l : Lane) (n : Nat) (x : Code) : Lane := { l with v := l.v.setIfInBounds n x }

/-- A predicate of a lane (R97). -/
def Lane.rp (l : Lane) (n : Nat) : Bool := l.p.getLsbD n

/-- Writes a predicate of a lane. -/
def Lane.setP (l : Lane) (n : Nat) (x : Bool) : Lane :=
  { l with p := if x then l.p ||| (1#24 <<< n) else l.p &&& ~~~ (1#24 <<< n) }

/-- A lane of a quad. -/
def Quad.lane (q : Quad) (i : Nat) : Lane := if h : i < 4 then q.lanes[i] else Lane.start

/-- Changes one lane of a quad. -/
def Quad.modLane (q : Quad) (i : Nat) (f : Lane → Lane) : Quad := { q with lanes := modVec q.lanes i f }

/-- Changes every lane of a quad by its number in the quad. -/
def Quad.mapLanes (q : Quad) (f : Nat → Lane → Lane) : Quad :=
  (upTo 4).foldl (fun q i => q.modLane i (f i)) q

/-- A completion flag (R275). -/
def Quad.flag (q : Quad) (n : BitVec 4) : BitVec 6 := q.f.getD n.toNat 0

/-- Writes a completion flag. -/
def Quad.setFlag (q : Quad) (n : BitVec 4) (x : BitVec 6) : Quad :=
  { q with f := q.f.setIfInBounds n.toNat x }

/-- A join slice: arr in [7:4], exp in [3:0] (R105). -/
def Quad.join (q : Quad) (n : Nat) : Byte := q.joins.getD n 0

/-- Writes a join slice. -/
def Quad.setJoin (q : Quad) (n : Nat) (x : Byte) : Quad := { q with joins := q.joins.setIfInBounds n x }

/-- `em` bit of a lane. -/
def Quad.emBit (q : Quad) (i : Nat) : Bool := q.em.getLsbD i

/-- Performs one register write of a long-latency instruction. -/
def Quad.write (q : Quad) : RegWrite → Quad
  | .v lane reg x => q.modLane lane (·.setV reg x)
  | .s reg x => q.setSN reg x
  | .j reg x => q.setJoin reg x

/-! ### Stall counters and interrupts -/

/-- A stall counter rises in the cycle `clk` (R468). -/
def Stall.rise (x : Stall) (clk n : Nat) : Stall :=
  { x with count := x.count + BitVec.ofNat 64 n, clk := clk
           recent := (if x.clk = clk then x.recent else 0) + BitVec.ofNat 64 n }

/-- What a stall counter holds after it was cleared in the cycle `clk`: it was cleared first, so an increment of that
cycle stays (R470). -/
def Stall.clear (x : Stall) (clk : Nat) : Option Stall :=
  if x.clk = clk then some { x with count := x.recent } else none

/-- Adds to a stall counter of a core and context in the cycle `clk` (R468). -/
def addStall (clk core : Nat) (ctx : BitVec 6) (idx : Nat) (n : Nat) : List Stall → List Stall
  | [] => [{ core := core, ctx := ctx, idx := idx, count := BitVec.ofNat 64 n, clk := clk, recent := BitVec.ofNat 64 n }]
  | x :: xs =>
    if x.core = core ∧ x.ctx = ctx ∧ x.idx = idx then x.rise clk n :: xs
    else x :: addStall clk core ctx idx n xs

/-- Adds to a stall counter. -/
def State.stall (s : State) (core : Nat) (ctx : BitVec 6) (idx n : Nat) : State :=
  { s with stalls := addStall s.clk core ctx idx n s.stalls }

/-- The value of a stall counter (R468). -/
def State.stallCount (s : State) (core : Nat) (ctx : BitVec 6) (idx : Nat) : Word :=
  match s.stalls.find? (fun x => x.core = core ∧ x.ctx = ctx ∧ x.idx = idx) with
  | some x => x.count
  | none => 0

/-- A port's vector is raised, or its entry becomes pending while it is masked (R45; notes/assumptions/84.md). -/
def PortSt.raiseVector (x : PortSt) (v : Nat) : PortSt :=
  match x.msix[v]? with
  | some e =>
    if e.masked then { x with msix := x.msix.setIfInBounds v { e with pending := true } }
    else { x with raised := v :: x.raised }
  | none => x

/-- The host masks or unmasks an entry of its MSI-X table; a pending vector is raised when it is unmasked (R45). -/
def PortSt.setMask (x : PortSt) (v : Nat) (m : Bool) : PortSt :=
  match x.msix[v]? with
  | some e =>
    let x := { x with msix := x.msix.setIfInBounds v { masked := m, pending := e.pending && m } }
    if e.pending && !m then { x with raised := v :: x.raised } else x
  | none => x

/-- Raises MSI-X vector 4 × CTXID + k on the context's owning port (R45). -/
def State.raise (s : State) (c : BitVec 6) (k : Nat) : State :=
  match s.owners[c.toNat]'c.isLt with
  | some p => s.modPort p fun x => x.raiseVector (4 * c.toNat + k)
  | none => s

/-- One µs of wall-clock time in the model's unit (R8, R26; notes/assumptions/2.md). -/
def microsecond : Nat := 2116296000

/-- Time passes: `dt` cycles of the arithmetic clock at its present rate (R25, R304). -/
def State.passClock (s : State) (dt : Nat) : State :=
  { s with clk := s.clk + dt, wall := s.wall + dt * (21162960 / s.rate) }

end Sys2Proof.Machine
end

