-- ==== Sys2Proof/Machine/Lines.lean ====
section
/-! DEFINITION. The lines of the home slices: which slice holds a line (R157), its state (R159), and the ways, superblock
tags and line frames of a slice (R44, R158). -/

namespace Sys2Proof.Machine

/-- The home slice of a physical address (R157). -/
def homeSlice (pa : Nat) : Nat :=
  let sb := (pa / 512) % 2 ^ 43
  let part (i : Nat) : Nat := (sb >>> (7 * i)) % 128
  part 0 ^^^ part 1 ^^^ part 2 ^^^ part 3 ^^^ part 4 ^^^ part 5 ^^^ (sb >>> 42)

/-- The state of a line at its home slice; `none` is invalid (R159). -/
def State.lineState (s : State) (line : Nat) : Option LineState :=
  ((s.sliceAt (homeSlice (line * 128))).lines.find? (fun x => x.line == line)).map (·.st)

/-- A way has a free superblock tag and a free line frame: it holds 512 and 1,024 (R158). -/
def wayRoom (lines : List Line) (w : Nat) : Bool :=
  let mine := lines.filter fun x => x.way == w
  decide ((mine.map fun x => x.line / 4).eraseDups.length < 512) &&
    decide ((mine.filter fun x => x.st != .zero).length < 1024)

/-- The line of a list, most recently used first, that is given up: the least recently used of those with the lowest
replacement priority (R147), else the least recently used. -/
def leastUsed (lines : List Line) : Option Line := (lines.filter (·.low)).getLast?.or lines.getLast?

/-- The way that a line new to its slice takes (R44, R158): that of its superblock's tag, else the lowest way of its
context with room, else that of the line which the ways of its context give up first; 16 where its context has no
way. -/
def allocWay (ways : BitVec 16) (line : Nat) (lines : List Line) : Nat :=
  match lines.find? fun x => x.line / 4 == line / 4 && ways.getLsbD x.way with
  | some x => x.way
  | none =>
    match (upTo 16).find? fun w => ways.getLsbD w && wayRoom lines w with
    | some w => w
    | none =>
      match leastUsed (lines.filter fun x => ways.getLsbD x.way) with
      | some x => x.way
      | none => 16

/-- A line takes a state and becomes the most recently used of its slice; a new one is allocated (R44, R159), with no
lowered priority until `State.lowAs` tells its page's. -/
def Slice.useLine (y : Slice) (ways : BitVec 16) (line : Nat) (st : LineState) (writer : BitVec 6) : Slice :=
  let rest := y.lines.filter (·.line != line)
  match y.lines.find? fun x => x.line == line with
  | some x => { y with lines := { x with st := st, writer := writer } :: rest }
  | none =>
    { y with lines := { line := line, st := st, writer := writer, way := allocWay ways line rest, low := false } :: rest }

/-- The line that leaves a slice in which a way holds more than it can (R44, R147, R158): that way's first to be given
up. A line without a way leaves at once. -/
def Slice.victim (y : Slice) : Option Nat :=
  match y.lines.find? fun x => decide (16 ≤ x.way) with
  | some x => some x.line
  | none =>
    if y.lines.length ≤ 512 then none
    else
      let full (w : Nat) : Bool :=
        let mine := y.lines.filter fun x => x.way == w
        decide (512 < (mine.map fun x => x.line / 4).eraseDups.length) ||
          decide (1024 < (mine.filter fun x => x.st != .zero).length)
      match (upTo 16).find? full with
      | some w => (leastUsed (y.lines.filter fun x => x.way == w)).map (·.line)
      | none => none

/-- Puts a line into a state at its home slice (R159). -/
def State.setLine (s : State) (line : Nat) (st : LineState) (writer : BitVec 6) : State :=
  s.modSlice (homeSlice (line * 128)) fun x => x.useLine (s.ctx writer).ways line st writer

/-- A read brings an invalid line to clean; every other state stays, and the line is the most recently used (R44,
R159). -/
def State.touchLine (s : State) (line : Nat) (c : BitVec 6) : State :=
  match (s.sliceAt (homeSlice (line * 128))).lines.find? fun x => x.line == line with
  | none => s.setLine line .clean c
  | some x => s.setLine line x.st x.writer

/-- A counter operation that writes nothing brings its line to dirty, as R159 gives for every counter operation. -/
def State.dirtyLine (s : State) (line : Nat) (c : BitVec 6) : State :=
  match (s.sliceAt (homeSlice (line * 128))).lines.find? fun x => x.line == line && x.st == .dirty with
  | none => s.setLine line .dirty c
  | some x => s.setLine line .dirty x.writer

/-- The line of a physical address takes the replacement priority of the page through which it was used (R147). -/
def State.lowAs (s : State) (pa : Nat) (low : Bool) : State :=
  s.modSlice (homeSlice pa) fun x =>
    { x with lines := x.lines.map fun l => if l.line = lineOf pa then { l with low := low } else l }

end Sys2Proof.Machine
end

