-- ==== Sys2Proof/Machine/Translate.lean ====
section
/-! DEFINITION. Address spaces, page tables, permissions and translation caches (07_page; R40;
the apertures of R435 to R438). -/

namespace Sys2Proof.Machine

/-- What a physical address names (R145, R435). -/
inductive PhysKind where
  | hbm
  | host (port : Port)
  | sector (window off : Nat)
  | unpopulated
  deriving DecidableEq, Repr

/-- The physical map (R145, R435). -/
def physKind (pa : Nat) : PhysKind :=
  let o := pa - Config.apertureBase
  if pa < Config.hbmTop then .hbm
  else if pa < Config.apertureBase then .unpopulated
  else if o < 2 ^ 46 then .host .p0
  else if o < 2 ^ 47 then .host .p1
  else if o < 2 ^ 48 then .unpopulated
  else if o < 2 ^ 49 then .sector ((o / 2 ^ 40) % 256) (o % 2 ^ 40)
  else .unpopulated

/-- What an access asks of its leaf (R150). -/
structure Need where
  write : Bool
  ctr : Bool
  code : Bool
  deriving DecidableEq, Repr

/-- A plain read. -/
def Need.read : Need := { write := false, ctr := false, code := false }

/-- A plain write, and an atomic or accumulate (R150). -/
def Need.store : Need := { write := true, ctr := false, code := false }

/-- A counter operation that writes its counter (R150). -/
def Need.counterAdd : Need := { write := true, ctr := true, code := false }

/-- A counter operation that reads its counter (R150). -/
def Need.counterGet : Need := { write := false, ctr := true, code := false }

/-- An instruction fetch (R150). -/
def Need.fetch : Need := { write := false, ctr := false, code := true }

/-- A failed translation: its cause, whether a poisoned line was met while reading a table,
which logs code 0x0006 (R151, R160), and whether that was a Sector request that failed, which logs it with source 7
(R439). -/
structure TFault where
  cause : TransCause
  table : Bool
  link : Bool
  deriving DecidableEq, Repr

/-- A failed translation that met no poisoned table line. -/
def TFault.of (c : TransCause) : TFault := { cause := c, table := false, link := false }

/-- R144. -/
def canonical (va : Word) : Bool :=
  let top := va.extractLsb' 56 8
  top == 0 || top == 0xFF

/-- The line is poisoned (R160). -/
def State.isPoisoned (s : State) (line : Nat) : Bool := s.poisoned.contains line

/-- The 64 KiB frame of a physical address lies in the context's window (R40). -/
def Ctx.inWindow (x : Ctx) (pa : Nat) : Bool :=
  decide (x.winLo.toNat ≤ pa / 65536) && decide (pa / 65536 ≤ x.winHi.toNat)

/-- The index of a level (R146). -/
def tableIndex (va : Nat) (lvl : Nat) : Nat :=
  match lvl with
  | 3 => (va / 2 ^ 45) % 4096
  | 2 => (va / 2 ^ 30) % 32768
  | 1 => (va / 2 ^ 21) % 512
  | _ => (va / 2 ^ 16) % 32

/-- log2 of the page that a leaf of a level maps (R146). -/
def leafLg (lvl : Nat) : Nat :=
  match lvl with
  | 2 => 30
  | 1 => 21
  | _ => 16

/-- log2 of the table that a table entry of a level names (R146). -/
def nextLg (lvl : Nat) : Nat :=
  match lvl with
  | 3 => 19
  | 2 => 13
  | _ => 9

/-- R148, of an entry with v = 1 read at a level. -/
def malformedEntry (w0 w1 : Word) (lvl : Nat) : Bool :=
  let leaf := w0.getLsbD 1
  let code := w0.getLsbD 3
  if leaf then
    lvl == 3 || slice w0 63 52 != 0 || slice w0 15 11 != 0 || slice w1 63 48 != 0 ||
      (slice w0 51 16 * 65536) % 2 ^ leafLg lvl != 0 || decide (4 < slice w0 9 7) ||
      slice w0 6 5 == 3 || (code && lvl != 0) || (code && w0.getLsbD 2) ||
      (!code && slice w1 47 16 != 0)
  else
    lvl == 0 || slice w0 63 52 != 0 || slice w0 8 2 != 0 || slice w1 63 16 != 0 ||
      (slice w0 51 9 * 512) % 2 ^ nextLg lvl != 0

/-- The leaf of R147 for the page that holds `va`. -/
def leafEntry (c : BitVec 6) (w0 w1 : Word) (va lvl : Nat) : TlbEntry :=
  { ctx := c, base := va / 2 ^ leafLg lvl * 2 ^ leafLg lvl, lg := leafLg lvl
    frame := slice w0 51 16 * 65536, w := w0.getLsbD 2, ctr := w0.getLsbD 4
    code := w0.getLsbD 3, poison := w0.getLsbD 10, scope := w0.extractLsb' 7 3
    cache := w0.extractLsb' 5 2, tag := w1.extractLsb' 0 16, manifest := w1.extractLsb' 16 32
    verified := false }

/-- The port that owns a context (R30). -/
def State.owner (s : State) (c : BitVec 6) : Option Port := s.owners[c.toNat]'c.isLt

/-- A remote window of a context (R437). -/
def State.window (s : State) (c : BitVec 6) (w : Nat) : RemoteWindow :=
  (s.ctx c).windows.getD w RemoteWindow.reset

/-- A frame fails the window check of a context (R40): of HBM against its window, of a Sector window against its
size (R438). -/
def State.windowFails (s : State) (c : BitVec 6) (pa : Nat) : Bool :=
  match physKind pa with
  | .hbm => !(s.ctx c).inWindow pa
  | .sector w off => (s.window c w).valid && decide ((s.window c w).size ≤ off)
  | .host _ | .unpopulated => false

/-- A frame fails with cause physical for a context (R145, R436, R438). -/
def State.physicalFails (s : State) (c : BitVec 6) (pa : Nat) : Bool :=
  match physKind pa with
  | .hbm => false
  | .sector w _ => !(s.window c w).valid
  | .host p => s.owner c != some p
  | .unpopulated => true

/-- The entry of a device in the route table: one that was never written names no link (R443,
notes/assumptions/4.md). -/
def State.routeOf (s : State) (dev : Nat) : BitVec 16 := lookupD s.route dev (0x1F1F : BitVec 16)

/-- A Sector request by an agent of the device (R438, R443): it leaves on the primary link of the
route when that is up, else on the alternate; otherwise it fails at once (`none`). -/
def routeLink (s : State) (dev : BitVec 20) : Option Nat :=
  let r := s.routeOf dev.toNat
  let up (n : Nat) : Bool :=
    match s.links[n]? with
    | some l => l.state == .up
    | none => false
  let a := (r.extractLsb' 0 5).toNat
  let b := (r.extractLsb' 8 5).toNat
  if up a then some a else if up b then some b else none

/-- Sends a Sector request to the target of a remote window. -/
def sendRemote (s : State) (c : BitVec 6) (window off : Nat) (who : Requester) (addr : Word)
    (kind : RemoteKind) : State × Option Nat :=
  let w := s.window c window
  match routeLink s w.dev with
  | none => (s, none)
  | some l =>
    let body : RemoteReq :=
      { srcDev := s.fabId, srcCtx := c, tag := (s.ctx c).tag, dstCtx := w.ctx
        addr := w.rbase + BitVec.ofNat 64 off, id := s.nextId, kind := kind }
    let r : Request :=
      { id := s.nextId, cover := s.nextId, who := who, ctx := c, dev := w.dev, link := l, sentAt := s.wall
        addr := addr, body := body, retryAt := none }
    ({ s with requests := r :: s.requests, sectorOut := .request l body :: s.sectorOut
              nextId := s.nextId + 1 }, some r.id)

/-- The core number that stands for the page-table walkers in a Sector request. -/
def walkerCore : Nat := 289

/-- The Sector request for an entry of a page table fails (R439, R443): it finds no link, or, as the free value has it,
it is refused or has no reply in time (notes/assumptions/77.md). -/
def State.tableFails (s : State) (c : BitVec 6) (pa : Nat) : Bool :=
  match physKind pa with
  | .sector w _ => (routeLink s (s.window c w).dev).isNone || Config.tableFails s.free pa
  | .hbm | .host _ | .unpopulated => false

/-- A word of a page table: of HBM, or whatever stands behind an aperture (R435; notes/assumptions/77.md). -/
def State.tableWord (s : State) (pa : Nat) : Word :=
  match physKind pa with
  | .hbm => BitVec.ofNat 64 (leNat (s.mem.read pa 8))
  | .host _ | .sector _ _ | .unpopulated => Config.tableWord s.free pa

/-- The walk of R149 from the table of level `n - 1`. -/
def walkFrom (s : State) (c : BitVec 6) (va : Nat) : Nat → Nat → BitVec 16 → Except TFault TlbEntry
  | 0, _, _ => .error (.of .format)
  | lvl + 1, t, tg =>
    let a := t + 16 * tableIndex va lvl
    if s.windowFails c t || s.windowFails c a then .error (.of .window)
    else if tg ≠ (s.ctx c).tag then .error (.of .tenant)
    else if s.physicalFails c t || s.physicalFails c a then .error (.of .physical)
    else if s.isPoisoned (lineOf a) then .error { cause := .poison, table := true, link := false }
    else if s.tableFails c a then .error { cause := .poison, table := true, link := true }
    else
      let w0 := s.tableWord a
      let w1 := s.tableWord (a + 8)
      if !w0.getLsbD 0 then .error (.of .notpresent)
      else if malformedEntry w0 w1 lvl then .error (.of .format)
      else if w0.getLsbD 1 then .ok (leafEntry c w0 w1 va lvl)
      else walkFrom s c va lvl (slice w0 51 9 * 512) (w1.extractLsb' 0 16)

/-- The walk of R149 from CTXROOT. -/
def walkTable (s : State) (c : BitVec 6) (va : Word) : Except TFault TlbEntry :=
  if canonical va then walkFrom s c va.toNat 4 ((s.ctx c).root.toNat * 65536) (s.ctx c).tag
  else .error (.of .canonical)

/-- The entries that the walk reads from the table of level `n - 1` (R149), by physical address. -/
def walkReads (s : State) (c : BitVec 6) (va : Nat) : Nat → Nat → BitVec 16 → List Nat
  | 0, _, _ => []
  | lvl + 1, t, tg =>
    let a := t + 16 * tableIndex va lvl
    if s.windowFails c t || s.windowFails c a || tg != (s.ctx c).tag || s.physicalFails c t ||
        s.physicalFails c a || s.isPoisoned (lineOf a) then []
    else if s.tableFails c a then [a]
    else
      let w0 := s.tableWord a
      let w1 := s.tableWord (a + 8)
      if !w0.getLsbD 0 || malformedEntry w0 w1 lvl || w0.getLsbD 1 then [a]
      else a :: walkReads s c va lvl (slice w0 51 9 * 512) (w1.extractLsb' 0 16)

/-- A walk reads an entry of a page table: its line comes to its slice (R159), or the read leaves by the aperture
(R435, R438), and what it brings is a fresh value. -/
def State.touchEntry (s : State) (c : BitVec 6) (va : Word) (pa : Nat) : State :=
  match physKind pa with
  | .hbm => s.touchLine (lineOf pa) c
  | .host _ => s.bumpFree
  | .sector w off => (sendRemote s c w off (.engine walkerCore 0 0) va (.read 16)).1.bumpFree
  | .unpopulated => s

/-- A walk reads the entries of the tables on its way (R149, R159). -/
def State.touchWalk (s : State) (c : BitVec 6) (va : Word) : State :=
  if canonical va then
    (walkReads s c va.toNat 4 ((s.ctx c).root.toNat * 65536) (s.ctx c).tag).foldl (fun s a => s.touchEntry c va a) s
  else s

/-- The checks that a leaf's frame makes on every access: window, tenant, physical, poison, code,
counter and write, in the order of R151 (R40, R145, R150, R436, R438). -/
def leafCheck (s : State) (c : BitVec 6) (e : TlbEntry) (va : Word) (n : Need) : Except TFault Nat :=
  let x := s.ctx c
  let pa := e.frame + (va.toNat - e.base)
  let hostCounter := match physKind pa with | .host _ => true | .hbm | .sector _ _ | .unpopulated => false
  if s.windowFails c pa then .error (.of .window)
  else if e.tag ≠ x.tag then .error (.of .tenant)
  else if s.physicalFails c pa then .error (.of .physical)
  else if e.poison then .error (.of .poison)
  else if n.code && !e.code then .error (.of .code)
  else if n.ctr && (!e.ctr || hostCounter) then .error (.of .counter)
  else if n.write && !e.w then .error (.of .write)
  else .ok pa

/-- The entry translates this address for this context. -/
def TlbEntry.covers (e : TlbEntry) (c : BitVec 6) (va : Word) : Bool :=
  e.ctx == c && decide (e.base ≤ va.toNat) && decide (va.toNat < e.base + 2 ^ e.lg)

/-- A translation without a cache, for Tender, host ports, Sector ports and slices. -/
def translateFresh (s : State) (c : BitVec 6) (va : Word) (n : Need) : Except TFault (Nat × TlbEntry) :=
  match walkTable s c va with
  | .error f => .error f
  | .ok e =>
    match leafCheck s c e va n with
    | .ok pa => .ok (pa, e)
    | .error f => .error f

/-- A translation without a cache, with the reads of its walk (R149, R159). -/
def translateWalk (s : State) (c : BitVec 6) (va : Word) (n : Need) : State × Except TFault (Nat × TlbEntry) :=
  (s.touchWalk c va, translateFresh s c va n)

/-- Puts a translation into a core's cache in place of any that covers its page. The cache holds at
most 2,048 (R154); when it is full the oldest leaves it. -/
def tlbInsert (e : TlbEntry) (l : List TlbEntry) : List TlbEntry :=
  let rest := l.filter fun x =>
    !(x.ctx == e.ctx && decide (x.base < e.base + 2 ^ e.lg) && decide (e.base < x.base + 2 ^ x.lg))
  (e :: rest).take 2048

/-- A translation by an agent of a core (R154). A cached entry is used as it stands; one that lacks
w, code or ctr is walked again. A walk that ends in a fault caches nothing. -/
def translate (s : State) (core : Nat) (c : BitVec 6) (va : Word) (n : Need) :
    State × Except TFault (Nat × TlbEntry) :=
  let fresh : State × Except TFault (Nat × TlbEntry) :=
    let s' := (s.touchWalk c va).stall core c 14 (Config.walkerCycles s.clk core c.toNat va.toNat)
    match translateFresh s c va n with
    | .ok (pa, e) => (s'.modCore core fun x => { x with tlb := tlbInsert e x.tlb }, .ok (pa, e))
    | .error f => (s', .error f)
  match (s.core core).tlb.find? (·.covers c va) with
  | none => fresh
  | some e =>
    match leafCheck s c e va n with
    | .ok pa => (s, .ok (pa, e))
    | .error f =>
      match f.cause with
      | .code | .counter | .write => fresh
      | .canonical | .notpresent | .format | .window | .tenant | .physical | .poison | .scope =>
        (s, .error f)

/-- A walk that a Sector request for a table has left unfinished logs its entry with source 7 (R439). -/
def TFault.source (f : TFault) (src : Nat) : Nat := if f.link then 7 else src

/-- The page asks for the lowest replacement priority (R147). -/
def TlbEntry.low (e : TlbEntry) : Bool := e.cache == 2

/-- The pieces of an access of `n` bytes that lie in one 64 KiB page each: an access crosses at
most one page boundary. -/
def pieces (va : Word) (n : Nat) : List (Word × Nat) :=
  let room := 65536 - va.toNat % 65536
  if n ≤ room then [(va, n)] else [(va, room), (va + BitVec.ofNat 64 room, n - room)]

/-- Translates every piece of an access; the first failing piece gives the cause and address. -/
def translatePieces (s : State) (core : Nat) (c : BitVec 6) (n : Need) :
    List (Word × Nat) → State × Except (TFault × Word) (List (Nat × Nat × Word × TlbEntry))
  | [] => (s, .ok [])
  | (va, k) :: rest =>
    match translate s core c va n with
    | (s, .error f) => (s, .error (f, va))
    | (s, .ok (pa, e)) =>
      match translatePieces s core c n rest with
      | (s, .error f) => (s, .error f)
      | (s, .ok l) => (s, .ok ((pa, k, va, e) :: l))

end Sys2Proof.Machine
end

