-- ==== Sys2Proof/Machine/Home.lean ====
section
/-! DEFINITION. The home slices: line states and poison (R157 to R160), the one order of counters
and the waits they release (R126 to R137), the error log (R46, R47, R491), order logs and replay
(R472 to R476), and release records (R179). -/

namespace Sys2Proof.Machine

/-- Bytes of HBM change and the line is dirty; a write of all 128 bytes clears poison (R159, R160). -/
def State.rawWrite (s : State) (c : BitVec 6) (pa : Nat) (bs : List Byte) : State :=
  let line := lineOf pa
  let s := { s with mem := s.mem.write pa bs }
  let s := if bs.length = 128 then { s with poisoned := s.poisoned.filter (· != line) } else s
  s.setLine line .dirty c

/-- A counter or word at a physical address. -/
def State.word (s : State) (pa : Nat) : Word := BitVec.ofNat 64 (leNat (s.mem.read pa 8))

/-! ### Waits on a counter -/

/-- An unreleased wait at a place. -/
def CWait.waitsAt (w : CWait) (loc : CounterLoc) : Bool := w.loc == loc && w.status.isNone

/-- A quad's wait learns the counter's new value: satisfied, or regressed (R128, R136). -/
def Quad.notify (q : Quad) (loc : CounterLoc) (old new : Word) : Quad :=
  match q.wait with
  | .counter w =>
    if w.waitsAt loc then
      if new < old then { q with wait := .counter { w with status := some 2 } }
      else if w.target ≤ new.toNat then { q with wait := .counter { w with status := some 0 } }
      else q
    else q
  | _ => q

/-- Every quad of a resident team learns the counter's new value; a saved wait is not parked (R132, R137). -/
def Team.notify (t : Team) (loc : CounterLoc) (old new : Word) : Team :=
  if !t.resident then t else { t with waves := t.waves.map fun w => { w with quads := w.quads.map (·.notify loc old new) } }

/-- A remote wait held here learns the counter's new value: a regression releases the wait of a quad, and no wait of
an engine or a packet (R128, R136, R142). -/
def HeldRemote.notify (h : HeldRemote) (pa : Nat) (old new : Word) : HeldRemote :=
  if h.pa = pa ∧ h.answer.isNone then
    match h.req.kind with
    | .wait t _ quad =>
      if new < old then (if quad then { h with answer := some .regression } else h)
      else if t ≤ new.toNat then { h with answer := some .satisfied }
      else h
    | .read _ | .write _ | .atomic _ _ _ _ _ _ | .accum _ _ _ _ | .get _ | .add _ _ | .cancel _ => h
  else h

/-- An order log of the context is recorded or replayed (R472, R475). -/
def State.ordered (s : State) (c : BitVec 6) : Bool := (s.ctx c).lnActive = 1 || (s.ctx c).lnActive = 2

/-- Quads waiting on a memory counter and remote waits held here learn its new value (R128, R136, R142). A wait of a
context with an order log is satisfied in the order of that log, at the end of the cycle (`State.orderWaits`). -/
def State.notifyWaits (s : State) (pa : Nat) (old new : Word) : State :=
  let later (c : BitVec 6) : Bool := !decide (new < old) && s.ordered c
  { s with
    teams := s.teams.map fun (t : Team) => if later t.ctx then t else t.notify (.hbm pa) old new
    remoteWaits := s.remoteWaits.map fun (h : HeldRemote) => if later h.req.dstCtx then h else h.notify pa old new }

/-- An agent outside the cores has released on the line. -/
def State.outsideReleased (s : State) (line : Nat) : Bool :=
  (s.sliceAt (homeSlice (line * 128))).outside.contains line

/-- The home slice notes a release by a host port, a Sector port, Tender or the dispatcher. -/
def releaseOutside (s : State) (line : Nat) : State :=
  s.modSlice (homeSlice (line * 128)) fun y => { y with outside := insertNat line y.outside }

/-! ### The error log -/

/-- An entry of the error log (R47, R491). -/
structure LogEntry where
  code : Nat
  source : Nat
  detail : Nat
  gridid : BitVec 32
  addr : Word
  core : Nat
  wave : Nat
  deriving DecidableEq, Repr

/-- An entry that no kernel, core or wave has caused. -/
def LogEntry.plain (code source detail : Nat) (addr : Word) : LogEntry :=
  { code := code, source := source, detail := detail, gridid := 0xFFFFFFFF, addr := addr
    core := 0xFFFF, wave := 0xFFFF }

/-- The 32 bytes of an entry (R47). -/
def LogEntry.bytes (e : LogEntry) (clk : Nat) : List Byte :=
  leBytes 2 e.code ++ leBytes 1 e.source ++ leBytes 1 e.detail ++ leBytes 4 e.gridid.toNat ++
    leBytes 8 e.addr.toNat ++ leBytes 8 clk ++ leBytes 2 e.core ++ leBytes 2 e.wave ++ leBytes 4 0

/-- The entry is dropped and counted (R33, R47). -/
def State.logLost (s : State) (c : BitVec 6) : State :=
  s.modCtx c fun x => { x with lost := if x.lost = 255 then 255 else x.lost + 1 }

/-- Tender's or Lantern's access to a byte range of a log, as it translates now; a poisoned line is no access. -/
def logPlace (s : State) (c : BitVec 6) (va : Word) (n : Need) : Option Nat :=
  match translateFresh s c va n with
  | .ok (pa, _) => if pa < Config.hbmTop && !s.isPoisoned (lineOf pa) then some pa else none
  | .error _ => none

/-- What logs an entry of the error log of a context. -/
abbrev Logger := State → BitVec 6 → LogEntry → State

/-- An entry that cannot be logged in the present step waits for the next cycle: a replay holds the add on the producer
counter (R475), or the error was met while a log was written (notes/assumptions/63.md). -/
def State.logLater : Logger := fun s c e =>
  { s with logWaits := s.logWaits ++ [{ ctx := c, bytes := e.bytes s.clk }] }

/-! ### Regressions -/

/-- States in which a context's queues and windows are watched (R136, R434). -/
def CtxPhase.live : CtxPhase → Bool
  | .bound | .running | .quiescing | .saved | .faulted => true
  | .destroyed | .created | .reset => false

/-- Virtual addresses by which parked quads of a resident team wait at a counter (R132, R137). -/
def Team.waitAddrs (t : Team) (loc : CounterLoc) : List Word :=
  if !t.resident then [] else t.waves.flatMap fun w => w.quads.filterMap fun q =>
    match q.wait with
    | .counter c => if c.waitsAt loc then some c.addr else none
    | _ => none

/-- The counters a context's queues watch, with their queue numbers (R136). -/
def Ctx.watches (x : Ctx) : List (Nat × Word) :=
  (upTo 256).filterMap fun q =>
    match x.queues[q]? with
    | some u => if u.state = .disabled then none else some (q, u.prod)
    | none => none

/-- The addresses of unsatisfied counter-wait packets of a context (R67). -/
def Ctx.packetWaits (x : Ctx) : List Word :=
  x.queues.toList.flatMap fun u => u.admitted.filterMap fun a =>
    if field a.packet 0 1 = 3 && !a.satisfied then some (field64 a.packet 8) else none

/-- The counter that the head of an engine queue waits on (R142): that of an engine wait, or E, then F, of the ring of a
copy that has claimed its index (R141). -/
def State.headWait (s : State) (e : Entry) : Option Word :=
  match e.body with
  | .qwait a _ => if e.sent then none else some a
  | .copy j =>
    if e.done || j.claimed.isNone || j.published then none
    else
      match (s.team e.team).rings.toList.getD j.b.ring none with
      | some r => some (if j.written then r.filled else r.freed)
      | none => none
  | .qadd _ _ | .nest _ | .marker _ _ => none

/-- The addresses of the waits at the heads of engine queues, for a context (R141, R142). -/
def State.engineWaits (s : State) (c : BitVec 6) : List Word :=
  s.cores.toList.flatMap fun k => k.queues.toList.filterMap fun l =>
    match l with
    | e :: _ => if e.ctx = c then s.headWait e else none
    | [] => none

/-- The address translates to this counter. -/
def namesCounter (s : State) (c : BitVec 6) (pa : Nat) (va : Word) : Bool :=
  match translateFresh s c va .read with
  | .ok (p, _) => p == pa
  | .error _ => false

/-- A regression, in one context: queues whose producer counter it is stop, and one entry is logged
if the context had a waiter or a queue watch (R58, R136). `old` is the state before the waits were
released. -/
def State.regressIn (s old : State) (lg : Logger) (pa source : Nat) (c : BitVec 6) : State :=
  let x := old.ctx c
  let watched :=
    if x.phase.live then x.watches.filter fun (_, va) => namesCounter old c pa va else []
  let waits := (old.teams.filter (·.ctx == c)).flatMap (·.waitAddrs (.hbm pa))
  let engines := (old.engineWaits c).filter (namesCounter old c pa)
  let packets := if x.phase.live then x.packetWaits.filter (namesCounter old c pa) else []
  let remote := (old.remoteWaits.filter fun h =>
    h.pa == pa && h.answer.isNone && h.req.dstCtx == c).map (·.req.addr)
  match waits ++ engines ++ packets ++ remote ++ watched.map (·.2) with
  | [] => s
  | va :: _ =>
    let s := watched.foldl (fun s (q, _) =>
      s.modQueue c (BitVec.ofNat 8 q) fun u => { u with state := .stopped }) s
    lg s c (.plain 0x0002 source 0 va)

/-- The contexts, in order. -/
def allCtxs : List (BitVec 6) := (upTo 64).map (BitVec.ofNat 6)

/-- The engine and packet waits of other devices that are held on a counter: a regression is reported to them, and
they stay held (R67, R136). -/
def State.tellRegression (s : State) (pa : Nat) : State :=
  let tell (h : HeldRemote) : Option SectorOut :=
    match h.req.kind with
    | .wait _ _ quad =>
      if h.pa = pa ∧ h.answer.isNone ∧ !quad then some (.reply h.link h.req.id .regression) else none
    | .read _ | .write _ | .atomic _ _ _ _ _ _ | .accum _ _ _ _ | .get _ | .add _ _ | .cancel _ => none
  { s with sectorOut := s.remoteWaits.filterMap tell ++ s.sectorOut }

/-- A counter's value has changed at its home slice (R128, R136). -/
def State.changedBy (s : State) (lg : Logger) (pa : Nat) (old new : Word) (source : Nat) : State :=
  let s' := s.notifyWaits pa old new
  if new < old then allCtxs.foldl (fun t c => t.regressIn s lg pa source c) (s'.tellRegression pa) else s'

/-- The aligned 8-byte words that a range touches. -/
def wordsIn (pa n : Nat) : List Nat :=
  (upTo ((pa + n + 7) / 8 - pa / 8)).map fun i => (pa / 8 + i) * 8

/-- A write performed at the home slice: memory, line state, and every counter it touches. The
range lies in one line. -/
def State.writeBy (s : State) (lg : Logger) (c : BitVec 6) (pa : Nat) (bs : List Byte) (source : Nat) : State :=
  if bs.isEmpty then s
  else
    let s' := s.rawWrite c pa bs
    (wordsIn pa bs.length).foldl (fun t a =>
      let old := s.word a
      let new := s'.word a
      if old = new then t else t.changedBy lg a old new source) s'

/-- The parts of a range that lie in one line each. -/
def lineParts : Nat → Nat → List Byte → List (Nat × List Byte)
  | 0, _, _ => []
  | fuel + 1, pa, bs =>
    match bs with
    | [] => []
    | _ :: _ =>
      let room := 128 - pa % 128
      (pa, bs.take room) :: lineParts fuel (pa + room) (bs.drop room)

/-! ### Order logs and replay -/

/-- Word 0 of R473, and word 1 less its run field. -/
def OrderOp.words (o : OrderOp) (sl : Nat) : Nat × Nat :=
  (o.line % 2 ^ 50 + (sl % 128) * 2 ^ 50 + o.cls * 2 ^ 57 + o.out * 2 ^ 59,
   o.req + (min o.count 65535) * 2 ^ 32)

/-- Segment `n` of a context's log buffer (R472). -/
def Ctx.segment (x : Ctx) (n : Nat) : Word :=
  (x.lnBase ++ 0#16) + BitVec.ofNat 64 (n * 2 ^ x.lnLgseg.toNat)

/-- Bytes of the log buffer, written by Lantern. -/
def State.logBytes (s : State) (c : BitVec 6) (va : Word) (bs : List Byte) : State :=
  match logPlace s c va .store with
  | some pa => (lineParts (bs.length / 128 + 2) pa bs).foldl (fun s (a, part) => s.writeBy State.logLater c a part 8) s
  | none => s

/-- A word of the log buffer; 0 where it cannot be read. -/
def logWord (s : State) (c : BitVec 6) (va : Word) : Nat :=
  match logPlace s c va .read with
  | some pa => (s.word pa).toNat
  | none => 0

/-- Appends a new 16-byte entry to a segment; a full segment stops (R472). -/
def State.logAppend (s : State) (c : BitVec 6) (seg : Nat) (w0 w1 : Nat) : State :=
  let x := s.ctx c
  let base := x.segment seg
  let n := logWord s c base
  if 64 + 16 * (n + 1) ≤ 2 ^ x.lnLgseg.toNat then
    let s := s.logBytes c (base + BitVec.ofNat 64 (64 + 16 * n)) (leBytes 8 w0 ++ leBytes 8 w1)
    s.logBytes c base (leBytes 8 (n + 1))
  else
    (s.modSlice seg fun y => { y with logStopped := c :: y.logStopped }).modCtx c
      fun y => { y with lnOvf := true }

/-- In record mode the slice appends the operation, or extends the last entry's run (R472, R473). -/
def State.recordOrder (s : State) (c : BitVec 6) (pa : Nat) (o : OrderOp) : State :=
  let x := s.ctx c
  let seg := homeSlice pa
  if x.lnActive = 1 && !(s.sliceAt seg).logStopped.contains c then
    let (w0, w1) := o.words seg
    let base := x.segment seg
    let n := logWord s c base
    let last := base + BitVec.ofNat 64 (64 + 16 * (n - 1))
    let l0 := logWord s c last
    let l1 := logWord s c (last + 8)
    let run := (l1 / 2 ^ 16) % 2 ^ 16
    if n ≠ 0 ∧ l0 = w0 ∧ l1 - run * 2 ^ 16 = w1 ∧ run < 65535 then
      s.logBytes c (last + 8) (leBytes 8 (w1 + (run + 1) * 2 ^ 16))
    else s.logAppend c seg w0 (w1 + 2 ^ 16)
  else s

/-- What a replay says of an arriving operation (R475, R476). -/
inductive Gate where
  | free
  | next (entry out : Nat)
  | wait
  | diverge
  deriving DecidableEq, Repr

/-- How many operations of an entry were performed in this replay. -/
def Slice.usedOf (y : Slice) (c : BitVec 6) (i : Nat) : Nat :=
  match y.replay.find? (fun r => r.ctx == c) with
  | some r => lookupD r.used i 0
  | none => 0

/-- An entry of a segment has a reserved field that is not zero (R11, R473): the slice takes it for none. -/
def reservedOrder (w0 w1 : Nat) : Bool := w0 / 2 ^ 60 != 0 || w1 / 2 ^ 48 != 0

/-- The first entry of the segment, at or after `i`, that is of this line and not used up. -/
def findEntry (s : State) (c : BitVec 6) (seg line : Nat) : Nat → Nat → Option (Nat × Nat × Nat)
  | 0, _ => none
  | fuel + 1, i =>
    let a := (s.ctx c).segment seg + BitVec.ofNat 64 (64 + 16 * i)
    let w0 := logWord s c a
    let w1 := logWord s c (a + 8)
    if !reservedOrder w0 w1 ∧ w0 % 2 ^ 50 = line % 2 ^ 50 ∧ (s.sliceAt seg).usedOf c i < (w1 / 2 ^ 16) % 2 ^ 16 then
      some (i, w0, w1)
    else findEntry s c seg line fuel (i + 1)

/-- Whether an operation may be performed now in a replay of its context (R475, R476). -/
def replayGate (s : State) (c : BitVec 6) (pa : Nat) (o : OrderOp) : Gate :=
  let x := s.ctx c
  let seg := homeSlice pa
  if x.lnActive = 2 && !x.lnDiverged then
    match findEntry s c seg o.line (logWord s c (x.segment seg)) 0 with
    | none => .diverge
    | some (i, w0, w1) =>
      if (w0 / 2 ^ 57) % 4 = o.cls ∧ w1 % 2 ^ 16 = o.req then
        if (w1 / 2 ^ 32) % 2 ^ 16 = min o.count 65535 then .next i ((w0 / 2 ^ 59) % 2) else .diverge
      else .wait
  else .free

/-- The replay of a context has diverged (R476). -/
def State.diverge (s : State) (c : BitVec 6) : State :=
  s.modCtx c fun x => { x with lnDiverged := true }

/-- A slice's place in the replay of a context. -/
def Slice.replayOf (y : Slice) (c : BitVec 6) : ReplayPos :=
  (y.replay.find? fun r => r.ctx == c).getD { ctx := c, used := [], waits := [] }

/-- Changes a slice's place in the replay of a context. -/
def State.modReplay (s : State) (c : BitVec 6) (pa : Nat) (f : ReplayPos → ReplayPos) : State :=
  s.modSlice (homeSlice pa) fun y =>
    { y with replay := f (y.replayOf c) :: y.replay.filter fun q => q.ctx != c }

/-- Uses one operation of a replayed entry: its arrival waits no longer. -/
def State.useEntry (s : State) (c : BitVec 6) (pa : Nat) (o : OrderOp) (i : Nat) : State :=
  s.modReplay c pa fun r =>
    { r with used := assocSet r.used i (lookupD r.used i 0 + 1), waits := r.waits.filter fun w => w.op != o }

/-- An arrival waits at the input of its slice (R475), from its first try on (R476). -/
def State.noteWait (s : State) (c : BitVec 6) (pa : Nat) (o : OrderOp) : State :=
  s.modReplay c pa fun r =>
    if r.waits.any fun w => w.op == o then r else { r with waits := { op := o, since := s.wall } :: r.waits }

/-- An accumulate of the context stands in the queue of its slice for the line of an address. -/
def State.accQueued (s : State) (c : BitVec 6) (pa : Nat) : Bool :=
  (s.accs.any fun a => a.ctx == c && decide (a.phase = .queued) && lineOf a.pa == lineOf pa) ||
    s.portAccs.any fun a => a.req.dstCtx == c && a.queued && lineOf a.pa == lineOf pa

/-- One atomic or counter operation that is about to be performed (R472, R475): a replay may hold it, and it comes after
the accumulates on its line that the slice has accepted before it. -/
def State.orderOne (s : State) (c : BitVec 6) (pa : Nat) (o : OrderOp) : Except State State :=
  match replayGate s c pa o with
  | .wait => .error (s.noteWait c pa o)
  | .next i _ => if s.accQueued c pa then .error s else .ok (s.useEntry c pa o i)
  | .diverge => .ok (s.diverge c)
  | .free => .ok (s.recordOrder c pa o)

/-- The order-log entries of operations that are about to be performed together (R472, R475): when a replay has another
one first none of them is performed, and the one that is held waits at its slice. -/
def State.orderAll (s : State) (c : BitVec 6) (ops : List (Nat × OrderOp)) : Except State State :=
  ops.foldl (fun x (pa, o) =>
    match x with
    | .error h => .error h
    | .ok t =>
      match t.orderOne c pa o with
      | .ok t => .ok t
      | .error _ =>
        match s.orderOne c pa o with
        | .error h => .error h
        | .ok _ => .error (s.noteWait c pa o)) (.ok s)

/-- The order-log entry of a counter operation by an agent outside the cores (R473). -/
def outsideOrder (va : Word) (req : Nat) : OrderOp :=
  { line := va.toNat / 128, cls := 3, out := 0, req := req, count := 1 }

/-- The requester id of Tender and the dispatcher (R473). -/
def tenderReq : Nat := 0xB00

/-- The requester id of a Sector link (R473). -/
def linkReq (link : Nat) : Nat := 0xA00 + link

/-- The requester id of a core's lanes and engines (R473). -/
def coreReq (core a : Nat) : Nat := 8 * core + a

/-- The parked wait of a quad in a context with an order log is satisfied (R128), when its counter holds at least the
target and a replay has it next (R472, R475). -/
def State.orderWait (s : State) (t w n : Nat) : State :=
  let c := (s.team t).ctx
  match (s.quad t w n).wait with
  | .counter x =>
    match x.loc, x.status with
    | .hbm pa, none =>
      if x.target ≤ (s.word pa).toNat then
        match s.orderOne c pa (outsideOrder x.addr (coreReq (s.wave t w).core 0)) with
        | .ok s => s.modQuad t w n fun q => { q with wait := .counter { x with status := some 0 } }
        | .error s => s
      else s
    | _, _ => s
  | _ => s

/-- A wait that this device holds for another, in a context with an order log, is satisfied (R142, R472, R475). -/
def State.orderHeld (s : State) (h : HeldRemote) : State :=
  match h.req.kind with
  | .wait t _ _ =>
    if s.ordered h.req.dstCtx && h.answer.isNone && decide (t ≤ (s.word h.pa).toNat) then
      match s.orderOne h.req.dstCtx h.pa (outsideOrder h.req.addr (linkReq h.link)) with
      | .ok s =>
        { s with remoteWaits := s.remoteWaits.map fun (x : HeldRemote) =>
            if x = h then { x with answer := some .satisfied } else x }
      | .error s => s
    else s
  | .read _ | .write _ | .atomic _ _ _ _ _ _ | .accum _ _ _ _ | .get _ | .add _ _ | .cancel _ => s

/-- The parked waits of the contexts with an order log, at the end of a cycle. -/
def State.orderWaits (s : State) : State :=
  if allCtxs.any s.ordered then
    let s := (upTo s.teams.length).foldl (fun s t =>
      if (s.team t).resident && s.ordered (s.team t).ctx then
        (upTo (s.team t).waves.length).foldl (fun s w =>
          (upTo (s.wave t w).quads.length).foldl (fun s n => s.orderWait t w n) s) s
      else s) s
    s.remoteWaits.foldl (fun s h => s.orderHeld h) s
  else s

/-! ### Logging an error -/

/-- Places an entry in the error log (R47), unless a replay holds the add on the producer counter (R475). A log that
cannot be accessed, or is full, loses the entry. The spec does not say what a consumer counter ahead of the producer
counter means: their difference is taken modulo 2^64, so that such a log is full. Nor does it say what becomes of an
entry whose add would take the producer counter past 2^64 - 1 (R127): it is dropped and counted, and raises no vector
(notes/assumptions/76.md). -/
def State.placeLog (s : State) (c : BitVec 6) (bs : List Byte) : Except State State :=
  let base : Word := (s.ctx c).log ++ 0#6
  match logPlace s c base .counterAdd, logPlace s c (base + 8) .counterGet with
  | some pp, some pc =>
    let producer := s.word pp
    let consumer := s.word pc
    let s := ((s.touchWalk c base).dirtyLine (lineOf pp) c).dirtyLine (lineOf pc) c
    if decide (64 ≤ (producer - consumer).toNat) || producer == BitVec.allOnes 64 then .ok (s.logLost c)
    else
      match logPlace s c (base + 64 + 32 * (producer &&& 63)) .store with
      | none => .ok (s.logLost c)
      | some pe =>
        match s.orderOne c pp (outsideOrder base tenderReq) with
        | .error s => .error s
        | .ok s =>
          let s := s.writeBy State.logLater c pe bs 8
          let s := s.writeBy State.logLater c pp (leBytes 8 (producer.toNat + 1)) 8
          .ok ((releaseOutside s (lineOf pp)).raise c 1)
  | _, _ => .ok (s.logLost c)

/-- Logs an error (R47), behind those of its context that wait. -/
def State.log : Logger := fun s c e =>
  if s.logWaits.any fun w => w.ctx == c then s.logLater c e
  else
    match s.placeLog c (e.bytes s.clk) with
    | .ok s => s
    | .error s => s.logLater c e

/-- The entries that wait are tried again, each context's in their order. -/
def State.relog (s : State) : State :=
  s.logWaits.foldl (fun s w =>
    if s.logWaits.any fun x => x.ctx == w.ctx then { s with logWaits := s.logWaits ++ [w] }
    else
      match s.placeLog w.ctx w.bytes with
      | .ok s => s
      | .error s => { s with logWaits := s.logWaits ++ [w] }) { s with logWaits := [] }

/-- The entries that a failed translation logs: tenant 0x0004, window 0x0005, a poisoned table line
0x0006 (R40, R160). -/
def TFault.code (f : TFault) : Option Nat :=
  match f.cause with
  | .tenant => some 0x0004
  | .window => some 0x0005
  | .poison => if f.table then some 0x0006 else none
  | .canonical | .notpresent | .format | .physical | .code | .counter | .write | .scope => none

/-- Logs a failed translation, when it is one that logs. -/
def State.logFault (s : State) (c : BitVec 6) (f : TFault) (e : LogEntry) : State :=
  match f.code with
  | some code => s.log c { e with code := code, detail := 0, source := f.source e.source }
  | none => s

/-! ### Writes at the home slices -/

/-- A counter's value has changed at its home slice (R128, R136). -/
def State.counterChanged (s : State) (pa : Nat) (old new : Word) (source : Nat) : State :=
  s.changedBy State.log pa old new source

/-- A write performed at the home slice (R128, R136, R159). The range lies in one line. -/
def State.homeWrite (s : State) (c : BitVec 6) (pa : Nat) (bs : List Byte) (source : Nat) : State :=
  s.writeBy State.log c pa bs source

/-- A write of any length at the home slices of its lines. -/
def State.homeWrites (s : State) (c : BitVec 6) (pa : Nat) (bs : List Byte) (source : Nat) : State :=
  (lineParts (bs.length / 128 + 2) pa bs).foldl (fun s (a, part) => s.homeWrite c a part source) s

/-- A read performed at the home slice. -/
def State.homeRead (s : State) (c : BitVec 6) (pa n : Nat) : State × List Byte :=
  (s.touchLine (lineOf pa) c, s.mem.read pa n)

/-- `dzero` at the home slice: the line is zero, and its counters regress (R136, R159, R160). -/
def State.homeZero (s : State) (c : BitVec 6) (line source : Nat) : State :=
  let s := s.homeWrite c (line * 128) (List.replicate 128 0) source
  s.setLine line .zero c

/-! ### Release records -/

/-- A bit of a core mask. -/
def coreBit (core : Nat) : BitVec 288 := 1#288 <<< core

/-- The record of a line (R179). -/
def State.record (s : State) (line : Nat) : Option RelRecord :=
  (s.sliceAt (homeSlice (line * 128))).records.find? (fun r => r.line == line)

/-- The line carries the marker bit of an evicted record (R179). -/
def State.marked (s : State) (line : Nat) : Bool :=
  (s.sliceAt (homeSlice (line * 128))).markers.contains line

/-- The cores of a mask. -/
def maskCores (m : BitVec 288) : List Nat := (upTo 288).filter fun i => m.getLsbD i

/-- The half of a core (R16): cores 0 to 143 lie in H0. -/
def halfOf (core : Nat) : Nat := core / 144

/-- The needed scope of two agents of cores (R164, R165). -/
def neededScope (a b : Nat) : Nat :=
  if a = b then 0 else if a / 2 = b / 2 then 1 else if halfOf a = halfOf b then 2 else 3

/-- An acquire by core `b` on a line whose page has the cap meets a scope fault (R179, R181). -/
def scopeFault (s : State) (line cap b : Nat) : Bool :=
  (match s.record line with
   | some r => (maskCores r.seen).any fun a => decide (cap < neededScope a b)
   | none => false) ||
  (s.marked line && (upTo 288).any fun a => a != b && decide (cap < neededScope a b))

end Sys2Proof.Machine
end

