-- ==== Sys2Proof/Machine/Cache.lean ====
section
/-! DEFINITION. A core's L1 and the accesses of its agents: scratchpad, held, bound and clean lines
(R177, R184 to R187), releases and acquires (R178 to R181), aperture and Sector accesses (R435 to
R443), and the one check of an address (R350 to R353). -/

namespace Sys2Proof.Machine

/-- A memory fault at issue: the trap cause and the failing address, and the translation failure
behind it, when there is one. -/
structure MFault where
  cause : TrapCause
  addr : Word
  tf : Option TFault
  deriving DecidableEq, Repr

/-- Where an access goes: the team's scratchpad, or pieces of memory (physical address, length,
virtual address, leaf). -/
inductive Loc where
  | scratch (off : Nat)
  | mem (ps : List (Nat × Nat × Word × TlbEntry))
  deriving DecidableEq, Repr

/-- The team scratchpad size (R79). -/
def Kernel.scratchBytes (k : Kernel) : Nat := if k.pair then 65536 * k.scr else 32768 * k.scr

/-- The address lies in the scratchpad window (R350). -/
def inScratchWindow (va : Word) : Bool := decide (Config.spw ≤ va)

/-- The address of an access, resolved: scratchpad range first, then translation (R350, R351, R353).
-/
def locate (s : State) (core : Nat) (c : BitVec 6) (size : Nat) (va : Word) (n : Nat) (need : Need) :
    State × Except MFault Loc :=
  if inScratchWindow va then
    let off := (va - Config.spw).toNat
    if off + n ≤ size then (s, .ok (.scratch off))
    else (s, .error { cause := .scratchRange, addr := va, tf := none })
  else if decide (Config.spw.toNat < va.toNat + n) then
    (s, .error { cause := .scratchRange, addr := va, tf := none })
  else
    match translatePieces s core c need (pieces va n) with
    | (s, .ok ps) => (s, .ok (.mem ps))
    | (s, .error (f, a)) => (s, .error { cause := .trans f.cause, addr := a, tf := some f })

/-! ### Lines of the L1 -/

/-- The held line of a virtual line. -/
def CoreSt.heldLine (k : CoreSt) (c : BitVec 6) (line : Nat) : Option HeldLine :=
  k.held.find? fun h => h.ctx == c && h.line == line

/-- The clean copy of a virtual line. -/
def CoreSt.cleanLine (k : CoreSt) (c : BitVec 6) (line : Nat) : Option CleanLine :=
  k.clean.find? fun h => h.ctx == c && h.line == line

/-- Drops the clean copy of a virtual line. -/
def CoreSt.dropClean (k : CoreSt) (c : BitVec 6) (line : Nat) : CoreSt :=
  { k with clean := k.clean.filter fun h => !(h.ctx == c && h.line == line) }

/-- Drops the held line of a virtual line. -/
def CoreSt.dropHeld (k : CoreSt) (c : BitVec 6) (line : Nat) : CoreSt :=
  { k with held := k.held.filter fun h => !(h.ctx == c && h.line == line) }

/-- The 128 bytes of a physical line. -/
def State.lineData (s : State) (line : Nat) : Vector Byte 128 :=
  Vector.ofFn fun i => s.mem.get (line * 128 + i.val)

/-- One byte as the core sees it: its held line, its clean copy, then the home slice (R177). -/
def viewByte (s : State) (core : Nat) (c : BitVec 6) (va : Word) (pa : Nat) : Byte :=
  let k := s.core core
  let line := va.toNat / 128
  let o := va.toNat % 128
  match k.heldLine c line with
  | some h => if h.mask.getLsbD o then h.data.getD o 0 else s.mem.get pa
  | none =>
    match k.cleanLine c line with
    | some h => h.data.getD o 0
    | none => s.mem.get pa

/-- A load brings the line into the L1, unless its page bypasses it, or it is there (R147, R177); bytes that a held
line lacks come from the home slice (R159). -/
def fillClean (s : State) (core : Nat) (c : BitVec 6) (va : Word) (pa : Nat) (e : TlbEntry) : State :=
  let k := s.core core
  let line := va.toNat / 128
  if (k.cleanLine c line).isSome then s
  else if e.cache = 1 || (k.heldLine c line).isSome then (s.touchLine (lineOf pa) c).lowAs pa e.low
  else
    let copy : CleanLine :=
      { ctx := c, line := line, data := s.lineData (lineOf pa), scopeCore := e.scope == 0 }
    (((s.touchLine (lineOf pa) c).lowAs pa e.low).modCore core fun x => { x with clean := copy :: x.clean }).stall
      core c 15 1

/-- The home line of a byte is poisoned and no copy in the L1 answers instead (R160). -/
def poisonedView (s : State) (core : Nat) (c : BitVec 6) (va : Word) (pa : Nat) : Bool :=
  let k := s.core core
  let line := va.toNat / 128
  s.isPoisoned (lineOf pa) &&
    (match k.heldLine c line with
     | some h => !h.mask.getLsbD (va.toNat % 128)
     | none => (k.cleanLine c line).isNone)

/-- A deferred fault of quads, raised at their next drain point (R354, R212). -/
def State.deferDrain (s : State) (who : List (Nat × Nat × Nat)) (addr : Word) : State :=
  who.foldl (fun s (t, w, q) => s.modQuad t w q fun x =>
    { x with deferred := x.deferred ++
        [{ point := .drainPoint, cause := .trans .poison, addr := addr, lanes := 0xF }] }) s

/-- The deferred fault of an accumulate, raised in its wave (R212). -/
def State.deferWave (s : State) (t w q : Nat) (addr : Word) : State :=
  s.modQuad t w q fun x => { x with deferred := x.deferred ++
    [{ point := .waveDrain, cause := .trans .poison, addr := addr, lanes := 0xF }] }

/-- The runs of written bytes of a held line: offset and bytes. -/
def maskRuns (h : HeldLine) : Nat → List (Nat × List Byte)
  | 0 => []
  | n + 1 =>
    let o := 127 - n
    let rest := maskRuns h n
    if h.mask.getLsbD o then
      match rest with
      | (p, bs) :: more =>
        if p = o + 1 then (o, h.data.getD o 0 :: bs) :: more else (o, [h.data.getD o 0]) :: rest
      | [] => [(o, [h.data.getD o 0])]
    else rest

/-- The log source of the last write to the word at an offset of a held line (R47, R136). -/
def HeldLine.sourceAt (h : HeldLine) (o : Nat) : Nat := (h.sources.getD (o / 8) 0).toNat

/-- The written bytes of a held line are performed together at its home slice; every counter among them
changes by one write, whose source is that of its last writer (R128, R136). -/
def State.homeHeld (s : State) (h : HeldLine) (line : Nat) : State :=
  let s' := ((maskRuns h 128).foldl (fun t (o, bs) => t.rawWrite h.ctx (line * 128 + o) bs) s).lowAs (line * 128) h.low
  (upTo 16).foldl (fun t i =>
    let a := line * 128 + 8 * i
    let old := s.word a
    let new := s'.word a
    if old = new then t else t.counterChanged a old new (h.sourceAt (8 * i))) s'

/-- Writes a bound line back to the frame its binding fixed (R184). A poisoned home line discards a
partial write, logs code 0x0006 and faults its writers at their next drain point (R354). -/
def writeBack (s : State) (h : HeldLine) (line : Nat) : State :=
  let va : Word := BitVec.ofNat 64 (h.line * 128)
  if s.isPoisoned line && h.mask != BitVec.allOnes 128 then
    let first := (((maskRuns h 128).map (·.1)).head?).getD 0
    (s.log h.ctx (.plain 0x0006 (h.sourceAt first) 0 va)).deferDrain h.writers va
  else s.homeHeld h line

/-- Writes one bound line of a core back and drops it. -/
def writeBackOne (s : State) (core : Nat) (h : HeldLine) : State :=
  match h.bound with
  | some line => (writeBack s h line).modCore core (·.dropHeld h.ctx h.line)
  | none => s

/-- Writes back every bound line of a context in a core (R180, R183). -/
def writeBackBound (s : State) (core : Nat) (c : BitVec 6) : State :=
  ((s.core core).held.filter fun h => h.ctx == c && h.bound.isSome).foldl
    (fun s h => writeBackOne s core h) s

/-- Writes back every bound line of a core, as a promotion directs it (R180). -/
def writeBackEvery (s : State) (core : Nat) : State :=
  ((s.core core).held.filter fun h => h.bound.isSome).foldl (fun s h => writeBackOne s core h) s

/-- Writes leave through a host aperture (R435). -/
def State.hostWrite (s : State) (p : Port) (pa : Nat) (bs : List Byte) : State :=
  let base := pa % 2 ^ 46
  s.modPort p fun x =>
    { x with sent := (upTo bs.length).foldl (fun l i => { addr := base + i, value := bs.getD i 0 } :: l) x.sent }

/-- An entry of the error log that concerns quads: the kernel, core and wave of the first (R47). -/
def State.logFor (s : State) (c : BitVec 6) (who : List (Nat × Nat × Nat)) (code source : Nat)
    (addr : Word) : State :=
  match who with
  | (t, w, _) :: _ =>
    s.log c { code := code, source := source, detail := 0, gridid := (s.team t).gridid, addr := addr
              core := (s.wave t w).core, wave := (s.wave t w).wid }
  | [] => s.log c (.plain code source 0 addr)

/-- Who awaits the reply to a write that stands for quads, or for an engine of the core (R443). -/
def writeWho (core : Nat) (who : List (Nat × Nat × Nat)) : Requester :=
  match who with
  | (t, w, q) :: _ => .store t w q
  | [] => .engine core (2 ^ 64) 0

/-- Writes leave through a remote window (R438). -/
def State.sectorWrite (s : State) (core : Nat) (c : BitVec 6) (who : List (Nat × Nat × Nat)) (w off : Nat) (va : Word)
    (bs : List Byte) : State :=
  match sendRemote s c w off (writeWho core who) va (.write bs) with
  | (s, some _) => s
  | (s, none) => (s.logFor c who 0x0006 7 va).deferDrain who va

/-- The written bytes of a held line whose frame lies behind an aperture leave by it as the line is bound (R184, R435,
R438). -/
def State.leaveHeld (s : State) (core : Nat) (h : HeldLine) (pa : Nat) : State :=
  ((maskRuns h 128).foldl (fun s (o, bs) =>
    match physKind (pa + o) with
    | .host p => s.hostWrite p (pa + o) bs
    | .sector w off => s.sectorWrite core h.ctx h.writers w off (BitVec.ofNat 64 (h.line * 128 + o)) bs
    | .hbm | .unpopulated => s) s).modCore core (·.dropHeld h.ctx h.line)

/-- Binds one held line (R184): the frame, or the cause of the failure. -/
def bindLine (s : State) (core : Nat) (h : HeldLine) : State × Except TFault Nat :=
  match translate s core h.ctx (BitVec.ofNat 64 (h.line * 128)) .store with
  | (s, .ok (pa, e)) =>
    if physKind pa = .hbm then
      (s.modCore core fun k =>
        { k with held := k.held.map fun x =>
            if x.ctx == h.ctx && x.line == h.line then
              { x with bound := some (lineOf pa), pinned := false, low := e.low }
            else x }, .ok (lineOf pa))
    else (s.leaveHeld core h pa, .ok (lineOf pa))
  | (s, .error f) => (s, .error f)

/-- Inserts a held line by its virtual line. -/
def insertHeld (h : HeldLine) : List HeldLine → List HeldLine
  | [] => [h]
  | x :: xs => if h.line < x.line then h :: x :: xs else x :: insertHeld h xs

/-- Binds held lines in ascending order of address, up to the first that fails (R178, R185). -/
def bindList (s : State) (core : Nat) : List HeldLine → State × Option (TFault × Word)
  | [] => (s, none)
  | h :: hs =>
    match bindLine s core h with
    | (s, .ok _) => bindList s core hs
    | (s, .error f) => (s, some (f, BitVec.ofNat 64 (h.line * 128)))

/-- Step 2 of R178: every held line of the context in the core is bound. -/
def bindAll (s : State) (core : Nat) (c : BitVec 6) : State × Option (TFault × Word) :=
  bindList s core (((s.core core).held.filter fun h => h.ctx == c && h.bound.isNone).foldl
    (fun acc h => insertHeld h acc) [])

/-! ### Plain accesses of a core's agents -/

/-- A byte of a piece of memory that a host aperture answers: whatever the host holds (R435). -/
def hostBytes (s : State) (n : Nat) : State × List Byte :=
  ({ s with free := s.free + n }, (upTo n).map fun i => Config.freeByte (s.free + i))

/-- What a plain read of one piece gives: its bytes, poison, or a Sector window and offset. -/
inductive PieceRead where
  | bytes (bs : List Byte)
  | poison (addr : Word)
  | remote (window off n : Nat)
  deriving DecidableEq, Repr

/-- A plain read of one piece by an agent of a core (R166, R177, R435, R438). -/
def readPiece (s : State) (core : Nat) (c : BitVec 6) (p : Nat × Nat × Word × TlbEntry) :
    State × PieceRead :=
  let (pa, n, va, e) := p
  match physKind pa with
  | .hbm =>
    match (upTo n).find? fun i => poisonedView s core c (va + BitVec.ofNat 64 i) (pa + i) with
    | some i => (s, .poison (va + BitVec.ofNat 64 i))
    | none =>
      let bs := (upTo n).map fun i => viewByte s core c (va + BitVec.ofNat 64 i) (pa + i)
      let s := (upTo ((pa + n - 1) / 128 - pa / 128 + 1)).foldl (fun s i =>
        let o := if i = 0 then 0 else i * 128 - pa % 128
        fillClean s core c (va + BitVec.ofNat 64 o) (pa + o) e) s
      (s, .bytes bs)
  | .host _ => let (s, bs) := hostBytes s n; (s, .bytes bs)
  | .sector w off => (s, .remote w off n)
  | .unpopulated => (s, .bytes (List.replicate n 0))

/-- Merges stored bytes into one virtual line of the L1, with the log source of the store. A bound line
that is stored into again is first written back to its frame. -/
def holdBytes (s : State) (core : Nat) (c : BitVec 6) (va : Word) (bs : List Byte)
    (who : List (Nat × Nat × Nat)) (src : Nat) : State :=
  let line := va.toNat / 128
  let o := va.toNat % 128
  let s :=
    match (s.core core).heldLine c line with
    | some h => writeBackOne s core h
    | none => s
  let h : HeldLine := ((s.core core).heldLine c line).getD
    { ctx := c, line := line, mask := 0, data := Vector.replicate 128 0
      sources := Vector.replicate 16 0, bound := none, pinned := false, low := false, writers := [] }
  let h :=
    { h with
      mask := (upTo bs.length).foldl (fun m i => m ||| (1#128 <<< (o + i))) h.mask
      data := (upTo bs.length).foldl (fun d i => d.setIfInBounds (o + i) (bs.getD i 0)) h.data
      sources := (upTo bs.length).foldl
        (fun d i => d.setIfInBounds ((o + i) / 8) (BitVec.ofNat 4 src)) h.sources
      writers := who.foldl (fun l w => if l.contains w then l else w :: l) h.writers }
  s.modCore core fun k =>
    let k := (k.dropClean c line).dropHeld c line
    { k with held := h :: k.held }

/-- A held line leaves the L1: it is bound and written back, or pinned (R177, R184). -/
def evictHeld (s : State) (core : Nat) (h : HeldLine) : State :=
  match h.bound with
  | some _ => writeBackOne s core h
  | none =>
    match bindLine s core h with
    | (s, .ok line) =>
      match (s.core core).heldLine h.ctx h.line with
      | some x => writeBackOne s core { x with bound := some line }
      | none => s
    | (s, .error _) =>
      s.modCore core fun k =>
        { k with held := k.held.map fun x =>
            if x.ctx == h.ctx && x.line == h.line then { x with pinned := true } else x }

/-- Before an atomic of the core, or a store that bypasses its L1, reaches a line, the core binds its own held bytes
of the line, writes them back and drops its copy, so that its accesses to it stay in program order (R173); a pinned
line stays (R177). -/
def flushLine (s : State) (core : Nat) (c : BitVec 6) (va : Word) : State :=
  let line := va.toNat / 128
  let s := s.modCore core (·.dropClean c line)
  match (s.core core).heldLine c line with
  | some h => if h.pinned then s else evictHeld s core h
  | none => s

/-- A plain write of one piece by an agent of a core (R177, R354, R435, R438). `who` are the quads
it concerns. -/
def writePiece (s : State) (core : Nat) (c : BitVec 6) (who : List (Nat × Nat × Nat)) (src : Nat)
    (p : Nat × Nat × Word × TlbEntry) (bs : List Byte) : State :=
  let (pa, n, va, e) := p
  let bs := bs.take n
  match physKind pa with
  | .hbm =>
    if e.cache = 1 then
      (lineParts (n / 128 + 2) pa bs).foldl (fun s (a, part) =>
        let v := va + BitVec.ofNat 64 (a - pa)
        let s := flushLine s core c v
        if s.isPoisoned (lineOf a) && part.length != 128 then
          (s.logFor c who 0x0006 src v).deferDrain who v
        else (s.homeWrite c a part src).lowAs a e.low) s
    else
      (lineParts (n / 128 + 2) va.toNat bs).foldl (fun s (a, part) =>
        holdBytes s core c (BitVec.ofNat 64 a) part who src) s
  | .host port => s.hostWrite port pa bs
  | .sector w off => s.sectorWrite core c who w off va bs
  | .unpopulated => s

/-- Writes the pieces of an access one after another. -/
def writePieces (s : State) (core : Nat) (c : BitVec 6) (who : List (Nat × Nat × Nat)) (src : Nat) :
    List (Nat × Nat × Word × TlbEntry) → List Byte → State
  | [], _ => s
  | p :: ps, bs => writePieces (writePiece s core c who src p bs) core c who src ps (bs.drop p.2.1)

/-- The address of a byte of a team's scratchpad (R350). -/
def scratchAddr (off : Nat) : Word := Config.spw + BitVec.ofNat 64 off

/-- Engine waits of a team at the heads of the queues of its core, or of both cores of its pair, that watch an address
(R83, R141, R142). -/
def State.engineScratchWaits (s : State) (team : Nat) (addr : Word) : List Word :=
  let x := s.team team
  (((s.core x.core).queues.toList ++ (if x.kernel.pair then (s.core (x.core + 1)).queues.toList else [])).filterMap
    fun l =>
      match l with
      | e :: _ => if e.team = team then s.headWait e else none
      | [] => none).filter (· == addr)

/-- A word of a team's scratchpad. -/
def State.scratchWord (s : State) (team off : Nat) : Word :=
  BitVec.ofNat 64 (leNat ((s.team team).scratch.read off 8))

/-- A scratchpad counter has changed: its waits are released, a regression is logged (R123, R128,
R136). -/
def State.scratchChanged (s : State) (team off : Nat) (old new : Word) (source : Nat) : State :=
  let addr := scratchAddr off
  let waits := (s.team team).waitAddrs (.scratch off) ++ s.engineScratchWaits team addr
  let s := s.modTeam team (·.notify (.scratch off) old new)
  if new < old && !waits.isEmpty then
    s.log (s.team team).ctx
      { code := 0x0002, source := source, detail := 0, gridid := (s.team team).gridid, addr := addr
        core := (s.team team).core, wave := 0xFFFF }
  else s

/-- Writes bytes of a team's scratchpad, and every counter they touch. -/
def State.scratchWrite (s : State) (team off : Nat) (bs : List Byte) (source : Nat) : State :=
  let s' := s.modTeam team fun t => { t with scratch := t.scratch.write off bs }
  (wordsIn off bs.length).foldl (fun t a =>
    let old := s.scratchWord team a
    let new := s'.scratchWord team a
    if old = new then t else t.scratchChanged team a old new source) s'

/-- A store to a resolved place. -/
def storeLoc (s : State) (core : Nat) (c : BitVec 6) (team : Nat) (who : List (Nat × Nat × Nat))
    (src : Nat) (l : Loc) (bs : List Byte) : State :=
  match l with
  | .scratch off => s.scratchWrite team off bs src
  | .mem ps => writePieces s core c who src ps bs

/-! ### Atomics at the home slice -/

/-- The home slice records a release by the core on the line; when no record is free, the least
recently used one is evicted (R178, R179). The spec does not say whether an acquire counts as a use of a record: here
only a release does (notes/assumptions/76.md). -/
def recordRelease (s : State) (core line : Nat) : State :=
  let sl := homeSlice (line * 128)
  let y := s.sliceAt sl
  match y.records.find? (fun r => r.line == line) with
  | some r =>
    let r := { r with pending := r.pending ||| coreBit core, seen := r.seen ||| coreBit core }
    s.modSlice sl fun y => { y with records := r :: y.records.filter (·.line != line) }
  | none =>
    let r : RelRecord := { line := line, pending := coreBit core, seen := coreBit core }
    if y.records.length < 4096 then s.modSlice sl fun y => { y with records := r :: y.records }
    else
      match y.records.getLast? with
      | none => s
      | some old =>
        let s := (maskCores old.pending).foldl writeBackEvery s
        s.modSlice sl fun y =>
          { y with records := r :: y.records.dropLast, markers := insertNat old.line y.markers }

/-- The cores an acquire by core `b` must direct to write back (R180 step 2). -/
def pendingCores (s : State) (b line : Nat) : List Nat :=
  match s.record line with
  | some r => (maskCores r.pending).filter (· != b)
  | none => []

/-- Steps 2 and 3 of R180, when their acknowledgements have come: every pending core but `b` has
written its bound lines back. -/
def promoteLine (s : State) (b line : Nat) : State :=
  let s := (pendingCores s b line).foldl writeBackEvery s
  s.modSlice (homeSlice (line * 128)) fun y =>
    { y with records := y.records.map fun r =>
        if r.line = line then { r with pending := r.pending &&& coreBit b } else r }

/-- Step 4 of R180: when another core, or an agent outside the cores, has released on the line, the core drops its clean copies of
the context, but for those of pages whose cap is core. In mode 2 every copy goes (R194). -/
def acquireDrop (s : State) (b line : Nat) (c : BitVec 6) : State :=
  let other :=
    (match s.record line with
     | some r => (maskCores r.seen).any (· != b)
     | none => false) || s.marked line || s.outsideReleased line
  let strong := (s.ctx c).mml == 2
  if other || strong then
    s.modCore b fun k => { k with clean := k.clean.filter fun h =>
      !(h.ctx == c && (strong || !h.scopeCore)) }
  else s

/-- The core drops the clean copies of the context that an acquire of a release elsewhere can make stale (R171,
R192); in mode 2 every one (R194). -/
def dropCopies (s : State) (core : Nat) (c : BitVec 6) : State :=
  let strong := (s.ctx c).mml == 2
  s.modCore core fun k => { k with clean := k.clean.filter fun h => !(h.ctx == c && (strong || !h.scopeCore)) }

/-- A team-scope acquire (R180, R194): between the two cores of a bridged pair it is promoted at once; in mode 2 the
copies go whatever core released. -/
def acquireTeam (s : State) (t core : Nat) (c : BitVec 6) : State :=
  if (s.team t).kernel.pair then
    dropCopies (writeBackEvery s (if core % 2 = 0 then core + 1 else core - 1)) core c
  else if (s.ctx c).mml == 2 then dropCopies s core c
  else s

/-- An acquire by a system-scope agent: a host port, a Sector port or Tender (R182, R192). -/
def acquireSystem (s : State) (line : Nat) : State :=
  let cs := match s.record line with | some r => maskCores r.pending | none => []
  let s := cs.foldl writeBackEvery s
  s.modSlice (homeSlice (line * 128)) fun y =>
    { y with records := y.records.map fun r => if r.line = line then { r with pending := 0 } else r }

end Sys2Proof.Machine
end

