-- ==== Sys2Proof/Machine/Ops.lean ====
section
/-! DEFINITION. The operations every instruction shares: gangs and how they are cut (R101 to R104,
R117, R118), retiring an instruction, the watchdog (R420, R421), taking a trap (R411 to R417) and
returning from one (R312, R313), and the release of a `jwait` (R107 to R110). -/

namespace Sys2Proof.Machine

/-- A gang by its team, wave and quads base to base + 2^lg - 1 (R101). -/
structure GangRef where
  t : Nat
  w : Nat
  base : Nat
  lg : Nat
  deriving DecidableEq, Repr

/-- The quads of a gang. -/
def GangRef.quads (g : GangRef) : List Nat := (upTo (2 ^ g.lg)).map (g.base + ·)

/-- The gang of a wave that starts at a quad. -/
def State.gang? (s : State) (t w base : Nat) : Option GangRef :=
  ((s.wave t w).gangs.find? (fun g => g.base == base)).map fun g =>
    { t := t, w := w, base := base, lg := g.lg }

/-- The gang that issues. -/
def State.issuing (s : State) : Option GangRef :=
  match s.cur with
  | .gang t w base => s.gang? t w base
  | .walk _ _ => none
  | .none => none

/-- The answer of a step. -/
abbrev Out := Host.Outcome State Fault Refusal

/-- The meaning of an instruction that a gang issues. -/
def withGang (s : State) (f : GangRef → State) : Out :=
  match s.issuing with
  | some g => .next (f g)
  | none => .fault .noIssuer

/-- The team of a gang. -/
def State.teamOf (s : State) (g : GangRef) : Team := s.team g.t

/-- The wave of a gang. -/
def State.waveOf (s : State) (g : GangRef) : Wave := s.wave g.t g.w

/-- A quad of a gang's wave. -/
def State.quadOf (s : State) (g : GangRef) (q : Nat) : Quad := s.quad g.t g.w q

/-- The context of a gang. -/
def State.ctxOf (s : State) (g : GangRef) : BitVec 6 := (s.team g.t).ctx

/-- The core of a gang. -/
def State.coreOf (s : State) (g : GangRef) : Nat := (s.wave g.t g.w).core

/-- Changes every quad of a gang by its QUADID. An exited quad, which belongs to a gang for the one
performance of a forced fuse only (R114), keeps its state. -/
def State.mapGang (s : State) (g : GangRef) (f : Nat → Quad → Quad) : State :=
  s.modQuads g.t g.w g.quads fun n q => if q.exited then q else f n q

/-- The lowest quad of a gang that has not exited. -/
def State.firstLive (s : State) (g : GangRef) : Nat :=
  ((g.quads).find? fun n => !(s.quadOf g n).exited).getD g.base

/-- The lowest quad of the gang that has not exited: the quads of a gang share one PC (R101). -/
def State.leader (s : State) (g : GangRef) : Quad := s.quadOf g (s.firstLive g)

/-! ### Cutting and forming gangs -/

/-- The largest aligned run at `b` that lies in the set (R102). -/
def runAt (qs : List Nat) (b : Nat) : Nat → Nat
  | 0 => 0
  | k + 1 =>
    if b % 2 ^ (k + 1) = 0 && (upTo (2 ^ (k + 1))).all fun i => qs.contains (b + i) then k + 1
    else runAt qs b k

/-- Maximal aligned runs of a rising list of quads, from the lowest upwards (R102). -/
def cutRuns : Nat → List Nat → List (Nat × Nat)
  | 0, _ => []
  | fuel + 1, qs =>
    match qs with
    | [] => []
    | b :: _ =>
      let k := runAt qs b 4
      (b, k) :: cutRuns fuel (qs.filter fun q => decide (b + 2 ^ k ≤ q))

/-- Gangs in the active set of a quarter (R117). -/
def activeCount (s : State) (core quarter : Nat) : Nat :=
  s.teams.foldl (fun n t =>
    if t.phase = .live then
      t.waves.foldl (fun n w =>
        if w.core = core ∧ w.quarter = quarter then
          n + (w.gangs.filter (·.active)).length else n) n
    else n) 0

/-- New gangs take `slots` places of the active set in order, and the rest are pending (R118). -/
def placeRuns : Nat → List (Nat × Nat) → List Gang
  | _, [] => []
  | 0, (b, k) :: rs => { base := b, lg := k, active := false, slotFree := 0 } :: placeRuns 0 rs
  | n + 1, (b, k) :: rs => { base := b, lg := k, active := true, slotFree := 0 } :: placeRuns n rs

/-- Runs in the order of their first quads. -/
def sortRuns (l : List (Nat × Nat)) : List (Nat × Nat) :=
  l.foldl (fun acc r => acc.takeWhile (fun x => decide (x.1 < r.1)) ++ r ::
    acc.dropWhile (fun x => decide (x.1 < r.1))) []

/-- Replaces every gang that starts in `qs` by the given runs. Their slots go to the new gangs in
age order, with the free slots of the quarter; the others are pending (R118). -/
def State.replaceGangs (s : State) (t w : Nat) (qs : List Nat) (runs : List (Nat × Nat)) : State :=
  let x := s.wave t w
  let old := x.gangs.filter fun g => qs.contains g.base
  let freed := (old.filter (·.active)).length
  let free := 8 - activeCount s x.core x.quarter
  let new := placeRuns (freed + free) (sortRuns runs)
  s.modWave t w fun x => { x with gangs := x.gangs.filter (fun g => !qs.contains g.base) ++ new }

/-- Splits a rising list of quads into sets of equal key, in the order of their lowest quads (R308). -/
def groupByKey {κ : Type} [DecidableEq κ] (key : Nat → κ) : Nat → List Nat → List (List Nat)
  | 0, _ => []
  | fuel + 1, qs =>
    match qs with
    | [] => []
    | q :: _ =>
      qs.filter (fun r => decide (key r = key q)) ::
        groupByKey key fuel (qs.filter fun r => !decide (key r = key q))

/-- What the quads of one gang share (R101): PC and clause context. Quads that return from a trap to one
address, some into a clause and some by a transfer (R313), do not share one gang (notes/assumptions/75.md). -/
def Quad.flow (q : Quad) : Word × Option ClauseCtx := (q.pc, q.clause)

/-- The runs of a list of quads: cut separately for each set that shares a flow and a side of a branch (R102,
R308), exited quads left out (R104). -/
def State.runsBy (s : State) (t w : Nat) (qs : List Nat) (side : Nat → Bool) : List (Nat × Nat) :=
  let live := qs.filter fun q => !(s.quad t w q).exited
  (groupByKey (fun q => ((s.quad t w q).flow, side q)) (live.length + 1) live).flatMap fun set =>
    cutRuns (set.length + 1) set

/-- The runs of a list of quads that no branch divides. -/
def State.runsOf (s : State) (t w : Nat) (qs : List Nat) : List (Nat × Nat) :=
  s.runsBy t w qs fun _ => false

/-- After an instruction, the gang divides where its quads no longer share one flow, lie on two sides of a
branch, or have exited. -/
def State.regangBy (s : State) (g : GangRef) (side : Nat → Bool) : State :=
  let runs := s.runsBy g.t g.w g.quads side
  if runs = [(g.base, g.lg)] then s else s.replaceGangs g.t g.w g.quads runs

/-- After an instruction that is no branch, the gang divides where it must. -/
def State.regang (s : State) (g : GangRef) : State := s.regangBy g fun _ => false

/-! ### Retiring -/

/-- The quad goes on to the next instruction of its clause, `len` words on (R272). -/
def Quad.advance (q : Quad) (len : Nat) : Quad :=
  { q with
    pc := q.pc + BitVec.ofNat 64 (4 * len)
    clause :=
      match q.clause with
      | some c =>
        if c.left.toNat ≤ len then none
        else some { c with left := c.left - BitVec.ofNat 10 len, barWait := false }
      | none => none }

/-- A quad that interlocks has issued its instruction: its record holds the next one (R277, R304, R428). -/
def Quad.issued (q : Quad) : Quad :=
  match q.wait with
  | .interlock n => q.advance n
  | .landed n => q.advance n
  | _ => q

/-- A taken transfer: the quad leaves its clause (R273). -/
def Quad.jump (q : Quad) (target : Word) : Quad := { q with pc := target, clause := none }

/-- What an instruction does to WDOG beside its own issue (R420): nothing, a reload, or a write. -/
inductive DogMode where
  | count | reload | set (v : BitVec 32)
  deriving DecidableEq, Repr

/-- The watchdog of one issue (R420, R421): outside a handler it subtracts 1; the issue that brings WDOG from 1
to 0 reloads it, and the expiry follows for the gang that issued. -/
def State.watchdog (s : State) (g : GangRef) (mode : DogMode) : State :=
  let k := (s.teamOf g).kernel
  let counts := !g.quads.any fun q => (s.quadOf g q).inHandler
  let hit := counts && (s.waveOf g).wdog == 1
  s.modWave g.t g.w fun x =>
    { x with
      wdog :=
        match mode with
        | .reload => k.wdog
        | .set v => v
        | .count => if hit then k.wdog else if counts && x.wdog != 0 then x.wdog - 1 else x.wdog
      dog := if hit then g.quads else x.dog }

/-- The registers that a span entry of a wave copies have the values of the copy (R390). -/
def LatchEntry.holds (e : LatchEntry) (w : Wave) : Bool :=
  e.regs.all fun (p, r, v) => ((w.quad (e.span + p / 4)).lane (p % 4)).rv r == v

/-- A write of the owner to a latched register removes the span entry (R390; notes/assumptions/39.md). -/
def Latch.trim (l : Latch) (owner : Nat × Nat) (w : Wave) : Latch :=
  if l.owner = some owner then { l with entries := l.entries.filter (·.holds w) } else l

/-- A wave has written registers: its quarter's A-latch keeps no copy unlike them (R390). -/
def State.trimLatch (s : State) (t w : Nat) : State :=
  let x := s.wave t w
  s.modCore x.core fun k =>
    { k with quarters := modVec k.quarters x.quarter fun y => { y with latch := y.latch.trim (t, w) x } }

/-- The gang occupies its quarter for a number of cycles (R117, R119). What it has written leaves the quarter's A-latch
(R390). -/
def State.occupy (s : State) (g : GangRef) (cost : Nat) : State :=
  let w := s.waveOf g
  s.modCore w.core fun x =>
    { x with quarters := modVec x.quarters w.quarter fun y =>
        { y with busyUntil := s.clk + cost, latch := y.latch.trim (g.t, g.w) w } }

/-- The accounts of one issue: instructions issued (R468), the datapath (R119), the watchdog. -/
def State.account (s : State) (g : GangRef) (cost : Nat) (mode : DogMode) : State :=
  let s := s.stall (s.coreOf g) (s.ctxOf g) 0 1
  (s.occupy g cost).watchdog g mode

/-- The gang has performed an instruction of `len` words: every quad goes on, and the gang divides
where it must. -/
def State.retire (s : State) (g : GangRef) (len cost : Nat) (mode : DogMode) : State :=
  ((s.mapGang g fun _ q => q.advance len).account g cost mode).regang g

/-- Marks every quad of a gang as waiting. -/
def State.hold (s : State) (g : GangRef) (w : QWait) : State :=
  s.mapGang g fun _ q => { q with wait := w }

/-- Quads of a core that stalled on a resource may try again (R117). -/
def State.wake (s : State) (core : Nat) : State :=
  { s with teams := s.teams.map fun t =>
      { t with waves := t.waves.map fun w =>
          if w.core = core then
            { w with quads := w.quads.map fun q =>
                match q.wait with
                | .engineFull => { q with wait := .ready }
                | .structural => { q with wait := .ready }
                | _ => q }
          else w } }

/-! ### Traps -/

/-- The number of a translation cause in R410's order: canonical, notpresent, format, window, tenant,
physical, poison, write, code, counter, scope. -/
def TransCause.index : TransCause → Nat
  | .canonical => 1 | .notpresent => 2 | .format => 3 | .window => 4 | .tenant => 5
  | .physical => 6 | .poison => 7 | .write => 8 | .code => 9 | .counter => 10 | .scope => 11

/-- The cause codes of R410. -/
def TrapCause.code : TrapCause → Nat
  | .software => 0x01 | .illegalInstr => 0x02 | .illegalOperand => 0x03 | .alignment => 0x04
  | .scratchRange => 0x05 | .width => 0x06 | .fuseTimeout => 0x07 | .watchdog => 0x08
  | .counterFault => 0x09 | .counterTimeout => 0x0A | .counterRegression => 0x0B
  | .ringDescriptor => 0x0C | .copyBlock => 0x0D | .walkRecord => 0x0E | .walkDepth => 0x0F
  | .walkScratch => 0x10 | .sparseMeta => 0x11 | .texDescriptor => 0x12
  | .trans c => 0x20 + c.index
  | .nest c => 0x30 + c.index

/-- Causes whose addr field holds an address, shifted right by 3 (R411, R491). -/
def TrapCause.isAddr : TrapCause → Bool
  | .software | .width | .fuseTimeout | .watchdog | .sparseMeta => false
  | .illegalInstr | .illegalOperand | .alignment | .scratchRange | .counterFault | .counterTimeout
  | .counterRegression | .ringDescriptor | .copyBlock | .walkRecord | .walkDepth | .walkScratch
  | .texDescriptor | .trans _ | .nest _ => true

/-- TRAPINFO's addr field (R411): VA[56:3], or the value itself. -/
def TrapCause.addrField (c : TrapCause) (addr : Word) : BitVec 54 :=
  if c.isAddr then addr.extractLsb' 3 54 else addr.extractLsb' 0 54

/-- TRAPINFO (R411). -/
def trapInfo (lanes : BitVec 4) (c : TrapCause) (addr : Word) : Word :=
  lanes ++ BitVec.ofNat 6 c.code ++ c.addrField addr

/-- The address field of a code 0x0001 entry (R491), from TRAPINFO as it stands. -/
def trapLogAddr (info : Word) : Word :=
  let cause := slice info 59 54
  let addr := info.extractLsb' 0 54
  if cause = 0x01 ∨ cause = 0x11 then zext addr
  else if cause = 0x06 ∨ cause = 0x07 ∨ cause = 0x08 then 0
  else ((addr ++ 0#3).signExtend 64)

/-- Which instruction a trap belongs to, as the log names it (R491): 0 lane, 1 scalar or header,
5 loop-nest. -/
abbrev TrapSrc := Nat

/-- Launches of a context that enters faulted (R81). -/
def Launch.fault (l : Launch) : Launch :=
  match l.state with
  | .dispatching | .running | .quiescing => { l with state := .faulted }
  | .completing | .completed | .aborting | .saved | .discarded | .faulted => l

/-- A context takes an unhandled trap: running becomes faulted, quiescing stays, and vector 2 is raised, also by a
wave that traps while the context is faulted already (R34, R35, R416). -/
def State.ctxFault (s : State) (c : BitVec 6) : State :=
  match (s.ctx c).phase with
  | .running =>
    let s := s.modCtx c fun x => { x with phase := .faulted }
    let ls := s.launches.map fun (l : Launch) => if l.ctx = c then l.fault else l
    State.raise { s with launches := ls } c 2
  | .quiescing => (s.modCtx c fun x => { x with faultPending := true }).raise c 2
  | .faulted => s.raise c 2
  | .destroyed | .created | .bound | .saved | .reset => s

/-- What R416 does once TRAPINFO and TRAPPC stand: the wave stops, its trapping quads park with wait
code 7, code 0x0001 is logged and the context enters faulted. -/
def State.unhandled (s : State) (g : GangRef) (src : TrapSrc) : State :=
  let w := s.waveOf g
  let info := (s.leader g).trapinfo
  let s := s.mapGang g fun _ q => { q with wait := .unhandled }
  let s := s.modWave g.t g.w fun x => { x with stopped := true }
  let s := s.log (s.ctxOf g)
    { code := 0x0001, source := src, detail := slice info 59 54, gridid := (s.teamOf g).gridid
      addr := trapLogAddr info, core := w.core, wave := w.wid }
  s.ctxFault (s.ctxOf g)

/-- What every quad of a trapping gang records (R411, R412, R415, R419): TRAPINFO, in TRAPPC and
the trap clause context where it resumes, and the log source of its instruction (R491). A quad that parked or waited
leaves its wait. -/
def Quad.trapSave (q : Quad) (lanes : BitVec 4) (cause : TrapCause) (addr : Word) (src : TrapSrc) : Quad :=
  { q with
    trapinfo := trapInfo lanes cause addr
    trapSrc := src
    trappc := (q.pc.extractLsb' 2 62) ++ 0#2
    trapClause := q.clause
    wait := .ready
    drainSt := .idle
    fetched := [] }

/-- Trap entry in a quad (R415). -/
def Quad.trapEnter (q : Quad) (vec : Word) : Quad :=
  { q with inHandler := true, pc := vec, clause := none }

/-- TAKING A TRAP (R415): performed in every quad of the gang, whatever its `em`. TRAPPC receives the
quads' PC as it stands and the trap clause context their clause; a gang that has no handler, or that
is in one, takes an unhandled trap. -/
def State.trap (s : State) (g : GangRef) (cause : TrapCause) (addr : Word)
    (lanes : Nat → BitVec 4) (src : TrapSrc) : State :=
  let vec := (s.teamOf g).kernel.trapvec
  let inHandler := g.quads.any fun q => (s.quadOf g q).inHandler
  let s := s.mapGang g fun n q => q.trapSave (lanes n) cause addr src
  if vec = 0 || inHandler then (s.unhandled g src).regang g
  else (s.mapGang g fun _ q => q.trapEnter vec).regang g

/-- Every lane of every quad (R412). -/
def allLanes : Nat → BitVec 4 := fun _ => 0xF

/-- The illegal-instruction trap at the gang's instruction (R290, R412). -/
def State.illegal (s : State) (g : GangRef) (src : TrapSrc) : State :=
  s.trap g .illegalInstr (s.leader g).pc allLanes src

/-- The illegal-operand trap at the gang's instruction (R290, R412). -/
def State.badOperand (s : State) (g : GangRef) (src : TrapSrc) : State :=
  s.trap g .illegalOperand (s.leader g).pc allLanes src

/-- An entry of the error log that a gang causes (R47). -/
def State.logAt (s : State) (g : GangRef) (code : Nat) (src : TrapSrc) (detail : Nat) (addr : Word) :
    State :=
  let w := s.waveOf g
  s.log (s.ctxOf g)
    { code := code, source := src, detail := detail, gridid := (s.teamOf g).gridid, addr := addr
      core := w.core, wave := w.wid }

/-- A trap that belongs to a memory fault: the tenant, window and poisoned-table cases log (R40,
R160). -/
def State.memTrap (s : State) (g : GangRef) (f : MFault) (lanes : Nat → BitVec 4) (src : TrapSrc) :
    State :=
  let w := s.waveOf g
  let s :=
    match f.tf with
    | some t => s.logFault (s.ctxOf g) t
        { code := 0, source := src, detail := 0, gridid := (s.teamOf g).gridid, addr := f.addr
          core := w.core, wave := w.wid }
    | none => s
  s.trap g f.cause f.addr lanes src

/-- `tret` in a quad: resume in the recorded clause, or transfer (R312, R313). -/
def Quad.trapReturn (q : Quad) : Quad :=
  { q with inHandler := false, pc := q.trappc, clause := q.trapClause, trapClause := none
           nestHandled := none }

/-- A loop-nest entry that is stopped at an element goes on (R381 item 4). -/
def Entry.restart (e : Entry) : Entry :=
  match e.body with
  | .nest b => { e with body := .nest { b with stopped := false } }
  | .copy _ => e
  | .qwait _ _ => e
  | .qadd _ _ => e
  | .marker _ _ => e

/-- The stopped entries whose handlers the quads of a gang run restart (R381 item 4). -/
def State.restartEntries (s : State) (g : GangRef) : State :=
  let ids := g.quads.filterMap fun n => (s.quadOf g n).nestHandled
  if ids.isEmpty then s
  else s.modCore (s.coreOf g) fun k =>
    { k with queues := k.queues.map fun l =>
        l.map fun e => if ids.contains e.id then e.restart else e }

/-- RETURN FROM A TRAP (R312, R313): every quad leaves its handler and goes on at TRAPPC; the gang is
divided by resume address. -/
def State.trapReturn (s : State) (g : GangRef) : State :=
  (((s.account g 1 .count).restartEntries g).mapGang g fun _ q => q.trapReturn).regang g

/-- An A-latch that is free (R390). -/
def Latch.free : Latch := { owner := none, entries := [], lastUse := 0 }

/-- The A-latch of a wave's quarter becomes free, when the wave owns it (R391). -/
def State.freeLatch (s : State) (t w : Nat) : State :=
  let x := s.wave t w
  s.modCore x.core fun k =>
    { k with quarters := modVec k.quarters x.quarter fun y =>
        if y.latch.owner = some (t, w) then { y with latch := Latch.free } else y }

/-! ### Release of a `jwait` -/

/-- The quad is parked at a `jwait` on the register at the PC. -/
def Quad.parkedAt (q : Quad) (j : BitVec 3) (pc : Word) : Bool :=
  match q.wait with
  | .jwait k _ => k == j && q.pc == pc
  | _ => false

/-- The quad does not hold back an arrived set of register `j` at `pc` (R107). -/
def Quad.letsGo (q : Quad) (j : BitVec 3) (pc : Word) : Bool :=
  q.exited || (q.join j.toNat).extractLsb' 0 4 == 0 ||
    (!q.inHandler &&
      match q.wait with
      | .jwait k _ => k != j || q.pc != pc
      | .counter _ => true
      | _ => false)

/-- The arrived set at a `jwait` (R107). -/
def Wave.arrived (w : Wave) (j : BitVec 3) (pc : Word) : List Nat :=
  (upTo w.quads.length).filter fun i => (w.quad i).parkedAt j pc

/-- R107: nothing holds the arrived set back. -/
def Wave.joinReady (w : Wave) (j : BitVec 3) (pc : Word) : Bool :=
  (upTo w.quads.length).all fun i => (w.quad i).parkedAt j pc || (w.quad i).letsGo j pc

/-- A released quad takes `em` := arr, clears its slice and goes on past the `jwait` (R106, R108). -/
def Quad.release (q : Quad) (j : BitVec 3) : Quad :=
  let arr := (q.join j.toNat).extractLsb' 4 4
  ({ q with em := arr, wait := .ready }.setJoin j.toNat 0).advance 3

/-- Releases an arrived set: its quads are cut into runs, each of which is one gang (R108). -/
def State.releaseSet (s : State) (t w : Nat) (j : BitVec 3) (set : List Nat) : State :=
  let s := s.modQuads t w set fun _ q => q.release j
  s.replaceGangs t w set (s.runsOf t w set)

/-- Every parked quad's register and PC, first of each. -/
def Wave.jwaits (w : Wave) : List (BitVec 3 × Word) :=
  w.quads.foldl (fun l q =>
    match q.wait with
    | .jwait j _ => if l.contains (j, q.pc) then l else l ++ [(j, q.pc)]
    | _ => l) []

/-- Some arrived set of a wave is released (R107). The quads of a stopped wave stay parked (R416). -/
def Wave.joinDue (w : Wave) : Bool := !w.stopped && w.jwaits.any fun (j, pc) => w.joinReady j pc

/-- The test of R107 for every arrived set of a wave; made once every event of a cycle has taken place, before the fuse
timers (R110, R112). Where several sets are released at once the spec gives no order: they go by their lowest quad, and
each is tested as the earlier releases left the wave (notes/assumptions/76.md). The quads of a stopped wave stay parked
(R416). -/
def State.joinTest (s : State) (t w : Nat) : State :=
  if (s.wave t w).stopped then s else (s.wave t w).jwaits.foldl (fun s (j, pc) =>
    let x := s.wave t w
    let set := x.arrived j pc
    if !set.isEmpty && x.joinReady j pc then s.releaseSet t w j set else s) s

/-- The CLK at which the fuse timer of an arrived set started (R109). -/
def Wave.jwaitSince (w : Wave) (j : BitVec 3) (pc : Word) (now : Nat) : Nat :=
  w.quads.foldl (fun n q =>
    match q.wait with
    | .jwait k since => if k = j ∧ q.pc = pc then min n since else n
    | _ => n) now

end Sys2Proof.Machine
end

