-- ==== Sys2Proof/Machine/Clock.lean ====
section
/-! DEFINITION. What passes with time alone: CLK and wall-clock time (R25, R304), the stall counters
that count cycles (R468), the timeouts of parked waits (R130), a queue's cycles in ready (R68),
the replies that held remote waits have earned (R142), and the operand-wait cycles of open stamps (R408). -/

namespace Sys2Proof.Machine

/-- Every flag of a wait mask is zero in the quad (R270). -/
def Quad.flagsClear (q : Quad) (mask : BitVec 12) : Bool :=
  (upTo 12).all fun i => !mask.getLsbD i || q.f.getD i 0 == 0

/-- The quad is in a polling back-off (R143). -/
def Quad.inBackoff (q : Quad) : Bool :=
  match q.poll with
  | some p => p.holding
  | none => false

/-- The stall counter that counts the cycles of a quad which keeps its gang from being ready (R117, R143, R468, R469): an
interlock, a code page check, a drain, an awaited reply and back-off stall on a structural resource. -/
def Quad.stallCause (q : Quad) : Option Nat :=
  match q.wait with
  | .ready => if q.inBackoff then some 5 else none
  | .header mask _ _ => if q.flagsClear mask then none else some 1
  | .jwait _ _ => some 2
  | .fuse _ _ => some 2
  | .counter _ => some 3
  | .engineFull => some 4
  | .structural => some 5
  | .drain _ => some 5
  | .promote _ _ _ => some 5
  | .fetch _ => some 5
  | .codeCheck => some 5
  | .interlock _ => some 5
  | .landed _ => some 5
  | .unhandled => some 5

/-- The first cause that applies to a gang which is not ready (R469). For a gang that is parked since its wave has
stopped (R416) the spec's list names no cause: it counts as stalled on a structural resource, unless its quads wait for
another (notes/assumptions/61.md). -/
def Wave.stallCause (w : Wave) (g : Gang) : Option Nat :=
  (upTo (2 ^ g.lg)).foldl (fun m i =>
    match (w.quad (g.base + i)).stallCause, m with
    | some a, some b => some (min a b)
    | some a, none => some a
    | none, m => m) (if w.stopped then some 5 else none)

/-- The gang of a quad is held at a clause header (R468). -/
def Wave.heldAtHeader (w : Wave) (n : Nat) : Bool :=
  w.gangs.any fun g => decide (g.base ≤ n) && decide (n < g.base + 2 ^ g.lg) && w.stallCause g == some 1

/-- A quad's clocks: the timeout of its wait, which runs while its wave is resident (R130), and the operand-wait
cycles of its stamp, those of its gang at a header (R471); and the wall-clock time for which its wait has been
released (R135). -/
def Quad.tick (q : Quad) (held : Bool) (dt wall : Nat) : Quad :=
  let q :=
    match q.wait with
    | .counter w =>
      { q with wait := .counter { w with elapsed := w.elapsed + dt
                                         woken := if w.status.isSome then w.woken + wall else 0 } }
    | _ => q
  if held then { q with stamp := q.stamp.map fun x => { x with opWait := x.opWait + dt } } else q

/-- The clocks of a wave. -/
def Wave.tick (w : Wave) (dt wall : Nat) : Wave :=
  { w with quads := w.quads.mapIdx fun n q => q.tick (w.heldAtHeader n) dt wall }

/-- The clocks of a team that is resident. -/
def Team.tick (t : Team) (dt wall : Nat) : Team :=
  if t.resident then { t with waves := t.waves.map (·.tick dt wall) } else t

/-- The stall counters that the gangs of a wave advance in `dt` cycles from the cycle `clk` on. -/
def Wave.stallTicks (w : Wave) (ctx : BitVec 6) (clk dt : Nat) (l : List Stall) : List Stall :=
  w.gangs.foldl (fun l g =>
    match w.stallCause g with
    | some i => addStall clk w.core ctx i dt l
    | none => l) l

/-- A queue's cycles in ready (R68). -/
def Queue.tick (q : Queue) (dt : Nat) : Queue :=
  if q.state = .ready then { q with readyCycles := q.readyCycles + dt } else q

/-- The reply that a held remote wait has earned leaves the device (R142). A satisfied wait is promoted first, when the
page's scope cap is system (R182, R192), whether it acquires or a later `fence.acq` acquires at it (R171). -/
def State.answerOne (s : State) (h : HeldRemote) (r : RemoteRep) : State :=
  let s := if r == .satisfied && h.cap == 4 then acquireSystem s (lineOf h.pa) else s
  { s with sectorOut := .reply h.link h.req.id r :: s.sectorOut }

/-- A held remote wait whose reply leaves: a satisfied one is remembered for its cancel (R441). -/
def HeldRemote.leave (h : HeldRemote) : Option HeldRemote :=
  match h.answer with
  | none => some h
  | some r => if r == .satisfied then some { h with sent := true } else none

/-- Every reply that a held remote wait has earned leaves the device (R135, R142). -/
def State.answerHeld (s : State) : State :=
  let hits := s.remoteWaits.filter fun h => h.answer.isSome && !h.sent
  hits.foldl (fun s h =>
    match h.answer with
    | some r => s.answerOne h r
    | none => s) { s with remoteWaits := s.remoteWaits.filterMap (·.leave) }

/-- Time passes by `dt` cycles of the arithmetic clock. -/
def State.passTime (s : State) (dt : Nat) : State :=
  if dt = 0 then s
  else
    let old := s
    let s := s.answerHeld.passClock dt
    { s with
      teams := s.teams.map (·.tick dt (s.wall - old.wall))
      stalls := s.teams.foldl (fun l t =>
        if t.resident then t.waves.foldl (fun l w => w.stallTicks t.ctx old.clk dt l) l else l) s.stalls
      ctxs := s.ctxs.map fun x => { x with queues := x.queues.map (·.tick dt) } }

/-- Every event of the present cycle has taken place: time passes next (R110, R131). -/
def State.cycleOver (s : State) : Bool :=
  match s.agenda with
  | [] => true
  | x :: _ => x.dt != 0

end Sys2Proof.Machine
end

