-- ==== Sys2Proof/Machine/Issue.lean ====
section
/-! DEFINITION. Issue on a quarter (R117, R118, R414): which gang issues, the traps it takes first,
the fetch of its instruction through the core's translation cache and instruction lines (R162,
R193), and the decode checks of R272 to R274. -/

namespace Sys2Proof.Machine

/-! ### Which gang -/

/-- The quad does not hold its gang back (R117): it waits for nothing, or at a clause header whose
flags are zero, and is in no back-off. -/
def Quad.canIssue (q : Quad) : Bool :=
  !q.inBackoff &&
    (match q.wait with
     | .ready => true
     | .header mask _ _ => q.flagsClear mask
     | _ => false)

/-- The gang is ready (R117): every quad of it can issue. -/
def Wave.gangReady (w : Wave) (g : Gang) : Bool :=
  (upTo (2 ^ g.lg)).all fun i => (w.quad (g.base + i)).canIssue

/-- Everything that a restore brings back before the team's first issue is in place (R214, R227, R431). -/
def State.restored (s : State) (t : Nat) : Bool :=
  let x := s.team t
  x.carried.held.isEmpty && x.carried.entries.isEmpty && x.carried.overflow.isEmpty && x.carried.walks.isEmpty &&
    s.cores.toList.all fun k => k.walks.all fun w =>
      w.team != t || !(w.want.any fun k => k.kind == .restore)

/-- The ready gangs of a quarter in the active or the pending set, with their wave's age. In a context that has entered
faulted, a gang whose wait is satisfied issues again, as any other does (notes/assumptions/76.md). -/
def readyGangs (s : State) (core quarter : Nat) (active : Bool) : List (Nat × GangRef) :=
  (upTo s.teams.length).flatMap fun t =>
    let x := s.team t
    if x.phase = .live ∧ s.restored t then
      (upTo x.waves.length).flatMap fun n =>
        let w := x.wave n
        if w.core = core ∧ w.quarter = quarter ∧ !w.stopped then
          (w.gangs.filter fun g => g.active == active && w.gangReady g &&
              decide (g.slotFree ≤ s.clk)).map fun g =>
            (w.seq, { t := t, w := n, base := g.base, lg := g.lg })
        else []
    else []

/-- The older of two gangs: earlier wave first, then the lower first quad (R117). -/
def older (a b : Nat × GangRef) : Bool :=
  decide (a.1 < b.1) || (decide (a.1 = b.1) && decide (a.2.base ≤ b.2.base))

/-- The oldest gang of a list. -/
def oldest : List (Nat × GangRef) → Option GangRef
  | [] => none
  | a :: l => some (l.foldl (fun a b => if older a b then a else b) a).2

/-! ### Pending traps (R414 items 1 to 4) -/

/-- The trap of a quad's released counter wait (R414 item 4). -/
def Quad.takeWaitTrap (q : Quad) : Quad := { q with waitTrap := none }

/-- The first pending loop-nest fault among the quads of a gang. -/
def nestPending (s : State) (g : GangRef) : Option (Nat × TrapCause × Word × BitVec 3 × Nat) :=
  g.quads.findSome? fun n =>
    (s.quadOf g n).pendTraps.findSome? fun p =>
      match p with
      | .nest c a q e => some (n, c, a, q, e)
      | .fuse => none
      | .watchdog => none

/-- Some quad of the gang has this pending trap. -/
def hasPending (s : State) (g : GangRef) (p : PendTrap) : Bool :=
  g.quads.any fun n => (s.quadOf g n).pendTraps.contains p

/-- Drops a pending trap in every quad of a gang. -/
def dropPending (s : State) (g : GangRef) (p : PendTrap) : State :=
  s.mapGang g fun _ q => { q with pendTraps := q.pendTraps.filter fun x => x != p }

/-- The gang is alone with one of its quads: a loop-nest element fault is raised in the issuing quad
(R381, R418). -/
def State.splitOff (s : State) (g : GangRef) (n : Nat) : State :=
  let rest := g.quads.filter fun i => i != n
  s.replaceGangs g.t g.w g.quads ((n, 0) :: s.runsOf g.t g.w rest)

/-- Takes the pending traps of items 1 to 4 of R414, the first that applies; `none` when there is
none. Items 1 to 3 stay pending while a quad of the gang is in its handler. -/
def State.takePending (s : State) (g : GangRef) : Option State :=
  let inHandler := g.quads.any fun n => (s.quadOf g n).inHandler
  let early : Option State :=
    if inHandler then none
    else
      match nestPending s g with
      | some (n, c, a, q, e) =>
        let one : GangRef := { g with base := n, lg := 0 }
        let s := if g.lg = 0 then s else s.splitOff g n
        let s := dropPending s one (.nest c a q e)
        let s := s.trap one c a (fun _ => 0x8 + BitVec.ofNat 4 q.toNat) 5
        some (s.mapGang one fun _ x => { x with nestHandled := some e })
      | none =>
        if hasPending s g .fuse then
          some ((dropPending s g .fuse).trap g .fuseTimeout 0 allLanes 1)
        else if hasPending s g .watchdog then
          some ((dropPending s g .watchdog).trap g .watchdog 0 allLanes 1)
        else none
  match early with
  | some s => some s
  | none =>
    match g.quads.findSome? fun n => (s.quadOf g n).waitTrap with
    | none => none
    | some (c, a) =>
      let lanes (n : Nat) : BitVec 4 := if (s.quadOf g n).waitTrap.isSome then 0xF else 0
      some ((s.mapGang g fun _ q => q.takeWaitTrap).trap g c a lanes 1)

/-! ### Fetch -/

/-- What the fetch of one word gives; of a line that a Sector window holds, its address, window and offset (R438). -/
inductive Fetched where
  | word (w : Code)
  | fault (f : MFault)
  | check (base : Nat)
  | remote (va : Word) (window off : Nat)
  deriving DecidableEq, Repr

/-- The instruction line of a core that holds an address, if there is one. -/
def CoreSt.iline (k : CoreSt) (c : BitVec 6) (line : Nat) : Option CleanLine :=
  k.ilines.find? fun h => h.ctx == c && h.line == line

/-- A line of code as the core reads it: through its own L1, else from the home slice. -/
def codeLine (s : State) (core : Nat) (c : BitVec 6) (line pline : Nat) : List Byte :=
  (upTo 128).map fun i =>
    viewByte s core c (BitVec.ofNat 64 (line * 128 + i)) (pline * 128 + i)

/-- A list of 128 bytes as a line. -/
def toLine (bs : List Byte) : Vector Byte 128 := Vector.ofFn fun i => bs.getD i.val 0

/-- A core's instruction line. -/
def State.fillCode (s : State) (core : Nat) (c : BitVec 6) (line : Nat) (bs : List Byte) : State :=
  s.modCore core fun k =>
    { k with ilines := { ctx := c, line := line, data := toLine bs, scopeCore := false } :: k.ilines }

/-- Fetches the word at an address (R162, R193, R268). A line behind a host aperture has free bytes
(notes/assumptions/83.md). -/
def fetchWord (s : State) (core : Nat) (c : BitVec 6) (va : Word) : State × Fetched :=
  match translate s core c va .fetch with
  | (s, .error f) => (s, .fault { cause := .trans f.cause, addr := va, tf := some f })
  | (s, .ok (pa, e)) =>
    if !e.verified then (s, .check e.base)
    else
      let line := va.toNat / 128
      let o := va.toNat % 128
      match (s.core core).iline c line with
      | some h => (s, .word (field32 h.data.toList o))
      | none =>
        match physKind pa with
        | .hbm =>
          if poisonedView s core c va pa then
            (s, .fault { cause := .trans .poison, addr := va, tf := none })
          else
            let bs := codeLine s core c line (lineOf pa)
            (((s.touchLine (lineOf pa) c).lowAs pa e.low).fillCode core c line bs, .word (field32 bs o))
        | .sector w off => (s, .remote (BitVec.ofNat 64 (128 * line)) w (off / 128 * 128))
        | .host _ | .unpopulated =>
          match hostBytes s 128 with
          | (s, bs) => (s.fillCode core c line bs, .word (field32 bs o))

/-- The word of code at an address of this device's memory, as it translates now. -/
def codeAt (s : State) (c : BitVec 6) (va : Word) : Option Code :=
  match translateFresh s c va .fetch with
  | .ok (pa, _) =>
    if physKind pa = .hbm && !s.isPoisoned (lineOf pa) then some (BitVec.ofNat 32 (leNat (s.mem.read pa 4))) else none
  | .error _ => none

/-- Fetches `n` words; the first that fails decides. -/
def fetchWords (s : State) (core : Nat) (c : BitVec 6) (va : Word) :
    Nat → State × Except Fetched (List Code)
  | 0 => (s, .ok [])
  | n + 1 =>
    match fetchWord s core c va with
    | (s, .word w) =>
      match fetchWords s core c (va + 4) n with
      | (s, .ok ws) => (s, .ok (w :: ws))
      | (s, .error e) => (s, .error e)
    | (s, .fault f) => (s, .error (.fault f))
    | (s, .check b) => (s, .error (.check b))
    | (s, .remote a w off) => (s, .error (.remote a w off))

/-- The log source of an instruction by its first word (R491): lane 0, loop-nest 5, the rest 1. -/
def srcOf (w : Code) : TrapSrc :=
  match slice (zext w) 31 30 with
  | 1 => 0
  | 2 => 5
  | _ => 1

/-- What an issue opportunity of a gang comes to: a state of its own (a trap, a wait), or an
instruction to perform. -/
inductive Issued where
  | state (s : State)
  | instr (i : Instr) (s : State)

/-- A line of code that a gang needs lies in a Sector window (R438): it is asked for, and the gang waits; once it has
come the core holds it; one that could not be had is a poisoned line (R439, R443). -/
def State.codeRemote (s : State) (g : GangRef) (src : TrapSrc) (va : Word) (w off : Nat) : State :=
  let n := s.firstLive g
  let poison (s : State) : State := s.memTrap g { cause := .trans .poison, addr := va, tf := none } allLanes src
  match (s.quadOf g n).fetched.find? fun x => x.1 == va.toNat with
  | some (_, x) =>
    let s := s.modQuad g.t g.w n fun q => { q with fetched := q.fetched.filter fun y => y.1 != va.toNat }
    match x with
    | some bs => s.fillCode (s.coreOf g) (s.ctxOf g) (va.toNat / 128) bs
    | none => poison s
  | none =>
    match sendRemote s (s.ctxOf g) w off (.fetch g.t g.w n) va (.read 128) with
    | (s, some r) => s.hold g (.fetch [r])
    | (s, none) => poison (s.logAt g 0x0006 7 0 va)

/-- The fetch of a gang could not give a word: a fault, or a wait for its line or for the check of its code page. `src`
is the log source of the instruction, as far as it is known (R491). -/
def State.fetchFailed (s : State) (g : GangRef) (core : Nat) (c : BitVec 6) (src : TrapSrc) : Fetched → State
  | .fault f =>
    let s := if f.tf.isNone then s.logAt g 0x0006 src 0 f.addr else s
    s.memTrap g f allLanes src
  | .remote va w off => s.codeRemote g src va w off
  | .check b =>
    let s := s.modCore core fun k =>
      if k.checks.any fun x => x.ctx == c && x.base == b then k
      else { k with checks := { ctx := c, base := b } :: k.checks }
    s.hold g .codeCheck
  | .word _ => s

/-- The instruction at a gang's PC (R268 to R274): outside a clause a header, inside one an
instruction that fits the rest of the body. -/
def State.fetchInstr (s : State) (g : GangRef) : Issued :=
  let core := s.coreOf g
  let c := s.ctxOf g
  let q := s.leader g
  match fetchWord s core c q.pc with
  | (s, .fault f) => .state (s.fetchFailed g core c 1 (.fault f))
  | (s, .check b) => .state (s.fetchFailed g core c 1 (.check b))
  | (s, .remote a w off) => .state (s.fetchFailed g core c 1 (.remote a w off))
  | (s, .word w) =>
    let header := slice (zext w) 31 30 == 3
    let fits :=
      match q.clause with
      | none => header
      | some k => !header && decide (instrWords w ≤ k.left.toNat)
    if !fits then .state (s.illegal g (if q.clause.isNone then 1 else srcOf w))
    else
      match fetchWords s core c (q.pc + 4) (instrWords w - 1) with
      | (s, .error e) => .state (s.fetchFailed g core c (srcOf w) e)
      | (s, .ok ws) =>
        match decodeCode (w :: ws) with
        | .ok (i, _) => .instr i s
        | .error _ => .state (s.illegal g (srcOf w))

/-- The gang may issue (R414): it takes a pending trap, or reaches its instruction. -/
def State.issueGang (s : State) (g : GangRef) : Issued :=
  match s.takePending g with
  | some s => .state s
  | none => s.fetchInstr g

/-- One cycle of a quarter (R117, R119): the oldest ready gang of the active set issues, unless the
datapath is busy. -/
def State.issueQuarter (s : State) (core quarter : Nat) : Issued :=
  match oldest (readyGangs s core quarter true) with
  | none => .state s
  | some g =>
    let busy := ((s.core core).quarters.getD quarter
      { busyUntil := 0, latch := { owner := none, entries := [], lastUse := 0 } }).busyUntil
    if s.clk < busy then .state (s.stall core (s.ctxOf g) 6 1)
    else ({ s with cur := .gang g.t g.w g.base }).issueGang g

end Sys2Proof.Machine
end

