-- ==== Sys2Proof/Machine/Texel.lean ====
section
/-! DEFINITION. Texel formats, texture levels and coordinates (R396, R397), and the value of one channel
of a texture result (R397 to R399). -/

namespace Sys2Proof.Machine

/-- A texture descriptor (R396). -/
structure TexDesc where
  base : Word
  w : Nat
  h : Nat
  levels : Nat
  fmt : Nat
  wrapX : Nat
  wrapY : Nat
  pitch : Nat
  deriving DecidableEq, Repr

/-- Bytes per texel of a format (R396). -/
def texelBytes : Nat → Nat
  | 0 => 1
  | 1 => 2
  | 2 => 4
  | 3 => 2
  | 4 => 8
  | _ => 4

/-- A descriptor from its 32 bytes; `none` when it breaks a limit (R396). -/
def texDescOf (bs : List Byte) : Option TexDesc :=
  let wrap := field bs 14 1
  let d : TexDesc :=
    { base := field64 bs 0, w := field bs 8 2, h := field bs 10 2, levels := field bs 12 1
      fmt := field bs 13 1, wrapX := wrap % 4, wrapY := wrap / 4 % 4, pitch := field bs 16 4 }
  if zeroField bs 15 1 && zeroField bs 20 12 && decide (1 ≤ d.w) && decide (d.w ≤ 16384) &&
      decide (1 ≤ d.h) && decide (d.h ≤ 16384) && decide (1 ≤ d.levels) &&
      decide (d.levels ≤ 1 + lg (max d.w d.h)) && decide (d.levels ≤ 15) && decide (d.fmt ≤ 5) &&
      d.wrapX != 3 && d.wrapY != 3 && decide (wrap / 16 = 0) && d.pitch % 16 == 0 &&
      decide (d.w * texelBytes d.fmt ≤ d.pitch) then some d
  else none

/-- The width of a level. -/
def TexDesc.wid (d : TexDesc) (n : Nat) : Nat := max 1 (d.w / 2 ^ n)

/-- The height of a level. -/
def TexDesc.hei (d : TexDesc) (n : Nat) : Nat := max 1 (d.h / 2 ^ n)

/-- The row pitch of a level. -/
def TexDesc.pitchOf (d : TexDesc) (n : Nat) : Nat :=
  if n = 0 then d.pitch else 16 * ceilDiv (d.wid n * texelBytes d.fmt) 16

/-- The distance of a level's base from the descriptor's. -/
def TexDesc.levelOff (d : TexDesc) (n : Nat) : Nat :=
  (upTo n).foldl (fun a m => a + d.pitchOf m * d.hei m) 0

/-- The address of a texel of a level. -/
def TexDesc.texel (d : TexDesc) (n x y : Nat) : Word :=
  d.base + BitVec.ofNat 64 (d.levelOff n + y * d.pitchOf n + x * texelBytes d.fmt)

/-- A wrapped coordinate (R397). -/
def wrapCoord (mode w : Nat) (x : Int) : Nat :=
  match mode with
  | 0 => (x % w).toNat
  | 1 => (min (max x 0) (w - 1 : Int)).toNat
  | _ =>
    let m := (x % (2 * w : Int)).toNat
    if m < w then m else 2 * w - 1 - m

/-- floor (k × u) of an f32 operand that is read as 0 when it is a NaN and clamped to lo and hi, for
integral k, lo and hi (R397, R399). -/
def floorScaled (k : Nat) (lo hi : Int) (u : Code) : Int :=
  let clamp (x : Int) : Int := max (lo * k) (min x (hi * k))
  match f32.decode u.toNat with
  | .nan => clamp 0
  | .inf neg => clamp (if neg then lo * k else hi * k)
  | .fin neg m e _ =>
    clamp (if 0 ≤ e then (if neg then -1 else 1) * (m * 2 ^ e.toNat * k)
      else (if neg then -((m * k : Nat) : Int) else ((m * k : Nat) : Int)) / (2 ^ (-e).toNat : Int))

/-- The texels and the weights, over 65,536, of a bilinear sample on a level (R397): t00, t10, t01, t11. -/
def TexDesc.bilinear (d : TexDesc) (n : Nat) (u v : Code) : List (Nat × Word) :=
  let at_ (w : Nat) (c : Code) : Int := floorScaled (256 * w) (-(2 ^ 20)) (2 ^ 20) c - 128
  let x := at_ (d.wid n) u
  let y := at_ (d.hei n) v
  let fx := (x % 256).toNat
  let fy := (y % 256).toNat
  let t (a b : Int) : Word :=
    d.texel n (wrapCoord d.wrapX (d.wid n) (x / 256 + a)) (wrapCoord d.wrapY (d.hei n) (y / 256 + b))
  [((256 - fx) * (256 - fy), t 0 0), (fx * (256 - fy), t 1 0), ((256 - fx) * fy, t 0 1), (fx * fy, t 1 1)]

/-- The point texel of level 0 (R397). -/
def TexDesc.point (d : TexDesc) (u v : Code) : Word :=
  d.texel 0 (wrapCoord d.wrapX d.w (floorScaled d.w (-(2 ^ 20)) (2 ^ 20) u))
    (wrapCoord d.wrapY d.h (floorScaled d.h (-(2 ^ 20)) (2 ^ 20) v))

/-- The numerator of a channel of a texel: an integer over 255, or a float over 1 (R396). -/
def texelChan (fmt chan : Nat) (bs : List Byte) : Num :=
  let n8 (have_ : Bool) : Num :=
    if have_ then .ofInt (field bs chan 1) else if chan = 3 then .ofInt 255 else .ofInt 0
  let one (have_ : Num) : Num :=
    if chan = 0 then have_ else if chan = 3 then .ofInt 1 else .ofInt 0
  match fmt with
  | 0 => n8 (chan == 0)
  | 1 => n8 (decide (chan ≤ 1))
  | 2 => n8 true
  | 3 => one (ElemTy.f16.fmt.decode (field bs 0 2))
  | 4 => ElemTy.f16.fmt.decode (field bs (2 * chan) 2)
  | _ => one (f32.decode (field bs 0 4))

/-- The value of a blend, as an f32 encoding (R397, R399): its weights are not zero, and it is rounded
once. `texel` gives the bytes of a load. -/
def Blend.value (b : Blend) (texel : Nat → List Byte) : Nat :=
  let term (x : Nat × Nat) : Num := (texelChan b.fmt b.chan (texel x.2)).mul (.ofInt x.1)
  let den : Num := .ofInt (if b.fmt ≤ 2 then 255 * b.den else b.den)
  match b.terms with
  | [] => 0
  | t :: ts =>
    f32.roundTo .rne 0 false ((ts.foldl (fun (a : Num) x => a.add .rne (term x)) (term t)).div den)

end Sys2Proof.Machine
end

