-- ==== Sys2Proof/Machine/Flags.lean ====
section
/-! DEFINITION. Completion flags (R275 to R278): which flag an instruction selects, raising it at
issue, the completion of a long-latency instruction, the interlock of one that selects no flag, and
the faults that loads defer (R354, R418). -/

namespace Sys2Proof.Machine

/-- The flag a lane instruction selects (R277): `none` when it names a set-flag that its clause does
not name, else the flag, if any. -/
def laneFlag (k : Option ClauseCtx) : FlagSel → Option (Option (BitVec 4))
  | .none => some Option.none
  | .a => match k with
    | some c => c.setA.map some
    | Option.none => Option.none
  | .b => match k with
    | some c => c.setB.map some
    | Option.none => Option.none

/-- The flag a scalar long-latency instruction selects: set-flag A, when the clause names one
(R277). -/
def scalarFlag (k : Option ClauseCtx) : Option (BitVec 4) :=
  match k with
  | some c => c.setA
  | none => none

/-- Raising the flag would take a quad's count above 63 (R276). -/
def flagFull (s : State) (g : GangRef) (f : Option (BitVec 4)) : Bool :=
  match f with
  | none => false
  | some n => g.quads.any fun i => !(s.quadOf g i).exited && (s.quadOf g i).flag n == 63

/-- A quad adds 1 to a flag (R276). -/
def Quad.raise (q : Quad) (n : BitVec 4) : Quad := q.setFlag n (q.flag n + 1)

/-- A quad subtracts 1 from a flag (R276). -/
def Quad.lower (q : Quad) (n : BitVec 4) : Quad :=
  q.setFlag n (if q.flag n = 0 then 0 else q.flag n - 1)

/-- What one quad's performance of a long-latency instruction will write when it completes. -/
structure Later where
  writes : List RegWrite
  loads : List LoadDest
  blends : List Blend
  faults : List Deferred
  walks : List Nat
  requests : List Nat
  poll : Option (List Word)
  deriving DecidableEq, Repr

/-- A performance with no access and no result (R276). -/
def Later.empty : Later :=
  { writes := [], loads := [], blends := [], faults := [], walks := [], requests := [], poll := none }

/-- A performance whose results are these register writes. -/
def Later.ofWrites (ws : List RegWrite) : Later := { Later.empty with writes := ws }

/-- The outstanding instruction of a quad. -/
def Later.pend (l : Later) (id : Nat) (flag : Option (BitVec 4)) : Pend :=
  { id := id, flag := flag, writes := l.writes, loads := l.loads, blends := l.blends, faults := l.faults
    walks := l.walks, requests := l.requests, poll := l.poll }

/-- A quad issues a long-latency instruction: it raises its flag and goes on, or interlocks. -/
def Quad.issueLong (q : Quad) (id len : Nat) (flag : Option (BitVec 4)) (l : Later) : Quad :=
  let q := { q with pends := q.pends ++ [l.pend id flag] }
  match flag with
  | some n => (q.raise n).advance len
  | none => { q with wait := .interlock len }

/-- A gang issues a long-latency instruction (R276, R277): every quad raises the flag, whatever its
`em`, and the results land when the quad's performance completes. `later` says what each quad's
performance writes; the pends carry the number `id`. -/
def State.issueLong (s : State) (g : GangRef) (len cost id : Nat) (flag : Option (BitVec 4))
    (later : Nat → Later) : State :=
  ((s.mapGang g fun n q => q.issueLong id len flag (later n)).account g cost .count).regang g

/-! ### Completion -/

/-- The register writes of a loaded value (R354: a dropped load writes nothing). -/
def LoadDest.regWrites (d : LoadDest) : List RegWrite :=
  let raw := leNat d.bytes
  let wide (n : Nat) : Nat :=
    if d.signed then wrapNat n (toSigned (8 * d.bytes.length) raw) else raw + d.plus
  if d.dropped then []
  else
    match d.dest with
    | .v lane reg regs =>
      (upTo regs).map fun i => .v lane (reg + i) (BitVec.ofNat 32 (wide (32 * regs) / 2 ^ (32 * i)))
    | .s reg => [.s reg (BitVec.ofNat 64 (wide 64))]
    | .j reg => [.j reg (BitVec.ofNat 8 raw)]
    | .held => []

/-- The register writes of the blends of a performance (R354: a lane one of whose texels was dropped is
not written). -/
def Pend.blendWrites (p : Pend) : List RegWrite :=
  let lost (b : Blend) : Bool := p.blends.any fun c =>
    c.lane == b.lane && c.terms.any fun (_, k) =>
      match p.loads[k]? with
      | some d => d.dropped
      | none => false
  p.blends.filterMap fun b =>
    if lost b then none
    else some (.v b.lane b.reg (BitVec.ofNat 32 (b.value fun k =>
      match p.loads[k]? with
      | some d => d.bytes
      | none => [])))

/-- The stretch of a polling load (R143): twice the last one when the same addresses gave the same
values, up to 8,192 cycles; else 64. -/
def Poll.next (p : Option Poll) (addrs : List Word) (values : List Nat) : Nat :=
  match p with
  | some x => if x.addrs = addrs ∧ x.values = values then min (2 * x.stretch) 8192 else 64
  | none => 64

/-- A polling load that reached memory has its value: the quad is in back-off (R143, R362). -/
def Quad.polled (q : Quad) (p : Pend) (clk : Nat) : Quad :=
  match p.poll with
  | none => q
  | some addrs =>
    let values := p.loads.map fun d => leNat d.bytes
    let n := Poll.next q.poll addrs values
    let x : Poll := { addrs := addrs, values := values, stretch := n, holding := true, until_ := clk + n }
    { q with poll := some x }

/-- A quad's performance completes: its destinations are written, its flag falls, and the faults it
deferred stand. -/
def Quad.finish (q : Quad) (p : Pend) (clk : Nat) : Quad :=
  let q := { q with pends := q.pends.filter fun x => x.id != p.id
                    deferred := q.deferred ++ p.faults }
  let q := (p.writes ++ p.loads.flatMap (·.regWrites) ++ p.blendWrites).foldl (fun q w => q.write w) q
  let q := q.polled p clk
  match p.flag with
  | some n => q.lower n
  | none =>
    match q.wait with
    | .interlock len => { q with wait := .landed len }
    | _ => q

/-- The gang that holds a quad. -/
def State.gangOf (s : State) (t w n : Nat) : Option GangRef :=
  ((s.wave t w).gangs.find? fun g => decide (g.base ≤ n) && decide (n < g.base + 2 ^ g.lg)).map
    fun g => { t := t, w := w, base := g.base, lg := g.lg }

/-- Deferred faults of a quad that a point raises. -/
def Deferred.isInterlock (d : Deferred) : Bool :=
  match d.point with
  | .interlock => true
  | .header _ => false
  | .drainPoint => false
  | .waveDrain => false

/-- Deferred faults at a drain point (R212, R418). -/
def Deferred.isDrain (d : Deferred) : Bool :=
  match d.point with
  | .drainPoint => true
  | .waveDrain => true
  | .header _ => false
  | .interlock => false

/-- The deferred fault of an accumulate, which any quad of the wave raises at its drain point (R212). -/
def Deferred.isWaveDrain (d : Deferred) : Bool :=
  match d.point with
  | .waveDrain => true
  | .drainPoint => false
  | .header _ => false
  | .interlock => false

/-- Deferred faults at a header that waits on this mask (R354, R418). -/
def Deferred.atHeader (mask : BitVec 12) (d : Deferred) : Bool :=
  match d.point with
  | .header f => mask.getLsbD f.toNat
  | .interlock => false
  | .drainPoint => false
  | .waveDrain => false

/-- The lanes of the deferred faults of a quad that `p` picks. -/
def Quad.deferredLanes (q : Quad) (p : Deferred → Bool) : BitVec 4 :=
  (q.deferred.filter p).foldl (fun m d => m ||| d.lanes) 0

/-- Raises the deferred faults of a gang that `p` picks, all together, with the cause and address of
the lowest quad's first; `none` when there are none. -/
def State.raiseDeferred (s : State) (g : GangRef) (p : Deferred → Bool) (src : TrapSrc) :
    Option State :=
  match g.quads.findSome? fun n => (s.quadOf g n).deferred.find? p with
  | none => none
  | some d =>
    let lanes (n : Nat) : BitVec 4 := (s.quadOf g n).deferredLanes p
    let s := s.mapGang g fun _ q => { q with deferred := q.deferred.filter fun x => !p x }
    some (s.trap g d.cause d.addr lanes src)

/-- The faults of accumulates that other quads of the gang's wave have deferred (R212). -/
def State.waveFaults (s : State) (g : GangRef) : List Deferred :=
  ((upTo (s.waveOf g).quads.length).filter fun n => !g.quads.contains n).flatMap fun n =>
    (s.quadOf g n).deferred.filter (·.isWaveDrain)

/-- Raises the faults that are deferred to the drain points of a gang: its own quads' and those of its wave's
accumulates (R212, R354, R418). -/
def State.raiseDrain (s : State) (g : GangRef) (src : TrapSrc) : Option State :=
  match s.waveFaults g with
  | [] => s.raiseDeferred g Deferred.isDrain src
  | x :: _ =>
    let d := (g.quads.findSome? fun n => (s.quadOf g n).deferred.find? (·.isDrain)).getD x
    let s := s.modWave g.t g.w fun w =>
      { w with quads := w.quads.map fun q => { q with deferred := q.deferred.filter fun x => !x.isWaveDrain } }
    let s := s.mapGang g fun _ q => { q with deferred := q.deferred.filter fun x => !x.isDrain }
    some (s.trap g d.cause d.addr (fun _ => 0xF) src)

/-- The length of the interlocked instruction that has landed in a quad. -/
def QWait.landedLen : QWait → Option Nat
  | .landed n => some n
  | _ => none

/-- When an interlocked instruction has completed in every quad of its gang, the gang goes on, or
takes the fault that it deferred (R277, R354). The gangs of a wave that an unhandled trap has stopped do neither
(R416). -/
def State.unlock (s : State) (g : GangRef) : State :=
  let live := g.quads.filter fun n => !(s.quadOf g n).exited
  if (s.waveOf g).stopped then s
  else if live.all fun n => (s.quadOf g n).wait.landedLen.isSome then
    let src := if (s.leader g).wait.landedLen = some 1 then 1 else 0
    match s.raiseDeferred g Deferred.isInterlock src with
    | some s => s
    | none =>
      (s.mapGang g fun _ q =>
        match q.wait with
        | .landed len => { q with wait := .ready }.advance len
        | _ => q).regang g
  else s

end Sys2Proof.Machine
end

