-- ==== Sys2Proof/Machine/Scalar.lean ====
section
/-! DEFINITION. Scalar arithmetic, compares, immediates and special registers (R298 to R306). Every
instruction is performed once in each quad of the gang, whatever its `em`. -/

namespace Sys2Proof.Machine

/-- A scalar instruction that only changes each quad by itself (R298). -/
def scalarStep (s : State) (f : Quad → Quad) : Out :=
  withGang s fun g => (s.mapGang g fun _ q => f q).retire g 1 1 .count

/-- sd := op (sa, sb) in each quad (R299). -/
def scalarAlu (s : State) (sd sa sb : SReg) (op : Word → Word → Word) : Out :=
  scalarStep s fun q => q.setS sd (op (q.rs sa) (q.rs sb))

/-- sd := op sa in each quad. -/
def scalarUnary (s : State) (sd sa : SReg) (op : Word → Word) : Out :=
  scalarStep s fun q => q.setS sd (op (q.rs sa))

/-! ### The operations -/

/-- A condition as 1 or 0 (R302). -/
def boolWord (b : Bool) : Word := if b then 1 else 0

/-- Bits [127:64] of the signed product. -/
def mulhS (a b : Word) : Word := (a.signExtend 128 * b.signExtend 128).extractLsb' 64 64

/-- Bits [127:64] of the unsigned product. -/
def mulhU (a b : Word) : Word := (a.setWidth 128 * b.setWidth 128).extractLsb' 64 64

/-- Signed quotient, truncated towards zero (R300). -/
def divS (a b : Word) : Word :=
  if b = 0 then BitVec.allOnes 64 else BitVec.ofInt 64 (a.toInt.tdiv b.toInt)

/-- Signed remainder (R300). -/
def remS (a b : Word) : Word := if b = 0 then a else BitVec.ofInt 64 (a.toInt.tmod b.toInt)

/-- Unsigned quotient (R300). -/
def divU (a b : Word) : Word := if b = 0 then BitVec.allOnes 64 else BitVec.ofNat 64 (a.toNat / b.toNat)

/-- Unsigned remainder (R300). -/
def remU (a b : Word) : Word := if b = 0 then a else BitVec.ofNat 64 (a.toNat % b.toNat)

/-- The number of 1 bits. -/
def popCount {n : Nat} (a : BitVec n) : Nat := (upTo n).foldl (fun k i => if a.getLsbD i then k + 1 else k) 0

/-- Leading zero bits; the width for 0. -/
def leadZeros {n : Nat} (a : BitVec n) : Nat :=
  (upTo n).foldl (fun k i => if a.getLsbD i then n - 1 - i else k) n

/-- Trailing zero bits; the width for 0. -/
def trailZeros {n : Nat} (a : BitVec n) : Nat :=
  (upTo n).foldr (fun i k => if a.getLsbD i then i else k) n

/-- The low six bits of a shift amount (R299). -/
def amount (b : Word) : Nat := (b.extractLsb' 0 6).toNat

/-! ### R299, R300 -/

/-- `sadd` (R299). -/
def execSadd (sd sa sb : SReg) (s : State) : Out := scalarAlu s sd sa sb fun a b => a + b
/-- `ssub` (R299). -/
def execSsub (sd sa sb : SReg) (s : State) : Out := scalarAlu s sd sa sb fun a b => a - b
/-- `smul` (R299). -/
def execSmul (sd sa sb : SReg) (s : State) : Out := scalarAlu s sd sa sb fun a b => a * b
/-- `smulh.i64` (R299). -/
def execSmulhI64 (sd sa sb : SReg) (s : State) : Out := scalarAlu s sd sa sb mulhS
/-- `smulh.n64` (R299). -/
def execSmulhN64 (sd sa sb : SReg) (s : State) : Out := scalarAlu s sd sa sb mulhU
/-- `sand` (R299). -/
def execSand (sd sa sb : SReg) (s : State) : Out := scalarAlu s sd sa sb fun a b => a &&& b
/-- `sor` (R299). -/
def execSor (sd sa sb : SReg) (s : State) : Out := scalarAlu s sd sa sb fun a b => a ||| b
/-- `sxor` (R299). -/
def execSxor (sd sa sb : SReg) (s : State) : Out := scalarAlu s sd sa sb fun a b => a ^^^ b
/-- `sshl` (R299). -/
def execSshl (sd sa sb : SReg) (s : State) : Out := scalarAlu s sd sa sb fun a b => a <<< amount b
/-- `sshr.n64` (R299). -/
def execSshrN64 (sd sa sb : SReg) (s : State) : Out := scalarAlu s sd sa sb fun a b => a >>> amount b
/-- `sshr.i64` (R299). -/
def execSshrI64 (sd sa sb : SReg) (s : State) : Out :=
  scalarAlu s sd sa sb fun a b => a.sshiftRight (amount b)
/-- `smin.i64` (R299). -/
def execSminI64 (sd sa sb : SReg) (s : State) : Out :=
  scalarAlu s sd sa sb fun a b => if b.slt a then b else a
/-- `smin.n64` (R299). -/
def execSminN64 (sd sa sb : SReg) (s : State) : Out :=
  scalarAlu s sd sa sb fun a b => if b < a then b else a
/-- `smax.i64` (R299). -/
def execSmaxI64 (sd sa sb : SReg) (s : State) : Out :=
  scalarAlu s sd sa sb fun a b => if a.slt b then b else a
/-- `smax.n64` (R299). -/
def execSmaxN64 (sd sa sb : SReg) (s : State) : Out :=
  scalarAlu s sd sa sb fun a b => if a < b then b else a
/-- `sdiv.i64` (R300). -/
def execSdivI64 (sd sa sb : SReg) (s : State) : Out := scalarAlu s sd sa sb divS
/-- `sdiv.n64` (R300). -/
def execSdivN64 (sd sa sb : SReg) (s : State) : Out := scalarAlu s sd sa sb divU
/-- `srem.i64` (R300). -/
def execSremI64 (sd sa sb : SReg) (s : State) : Out := scalarAlu s sd sa sb remS
/-- `srem.n64` (R300). -/
def execSremN64 (sd sa sb : SReg) (s : State) : Out := scalarAlu s sd sa sb remU
/-- `spopc` (R299). -/
def execSpopc (sd sa : SReg) (s : State) : Out := scalarUnary s sd sa fun a => BitVec.ofNat 64 (popCount a)
/-- `sclz` (R299). -/
def execSclz (sd sa : SReg) (s : State) : Out := scalarUnary s sd sa fun a => BitVec.ofNat 64 (leadZeros a)
/-- `sctz` (R299). -/
def execSctz (sd sa : SReg) (s : State) : Out := scalarUnary s sd sa fun a => BitVec.ofNat 64 (trailZeros a)

/-! ### R301, R302, R280 -/

/-- `saddi` (R301). -/
def execSaddi (sd sa : SReg) (imm : BitVec 12) (s : State) : Out := scalarUnary s sd sa fun a => a + sext imm
/-- `sandi` (R301). -/
def execSandi (sd sa : SReg) (imm : BitVec 12) (s : State) : Out := scalarUnary s sd sa fun a => a &&& sext imm
/-- `sori` (R301). -/
def execSori (sd sa : SReg) (imm : BitVec 12) (s : State) : Out := scalarUnary s sd sa fun a => a ||| sext imm
/-- `sxori` (R301). -/
def execSxori (sd sa : SReg) (imm : BitVec 12) (s : State) : Out := scalarUnary s sd sa fun a => a ^^^ sext imm
/-- `sshli` (R301). -/
def execSshli (sd sa : SReg) (n : BitVec 6) (s : State) : Out := scalarUnary s sd sa fun a => a <<< n.toNat
/-- `sshri.n64` (R301). -/
def execSshriN64 (sd sa : SReg) (n : BitVec 6) (s : State) : Out := scalarUnary s sd sa fun a => a >>> n.toNat
/-- `sshri.i64` (R301). -/
def execSshriI64 (sd sa : SReg) (n : BitVec 6) (s : State) : Out :=
  scalarUnary s sd sa fun a => a.sshiftRight n.toNat
/-- `scmp.eq` (R302). -/
def execScmpEq (sd sa sb : SReg) (s : State) : Out := scalarAlu s sd sa sb fun a b => boolWord (a == b)
/-- `scmp.ne` (R302). -/
def execScmpNe (sd sa sb : SReg) (s : State) : Out := scalarAlu s sd sa sb fun a b => boolWord (a != b)
/-- `scmp.i64.lt` (R302). -/
def execScmpI64Lt (sd sa sb : SReg) (s : State) : Out := scalarAlu s sd sa sb fun a b => boolWord (a.slt b)
/-- `scmp.i64.ge` (R302). -/
def execScmpI64Ge (sd sa sb : SReg) (s : State) : Out := scalarAlu s sd sa sb fun a b => boolWord (!a.slt b)
/-- `scmp.n64.lt` (R302). -/
def execScmpN64Lt (sd sa sb : SReg) (s : State) : Out := scalarAlu s sd sa sb fun a b => boolWord (a.ult b)
/-- `scmp.n64.ge` (R302). -/
def execScmpN64Ge (sd sa sb : SReg) (s : State) : Out := scalarAlu s sd sa sb fun a b => boolWord (!a.ult b)
/-- `ssel` (R302). -/
def execSsel (sd sa sb sc : SReg) (s : State) : Out :=
  scalarStep s fun q => q.setS sd (if q.rs sc ≠ 0 then q.rs sa else q.rs sb)
/-- `sli` (R301). -/
def execSli (sd : SReg) (imm : BitVec 12) (s : State) : Out := scalarStep s fun q => q.setS sd (sext imm)
/-- `slui` (R280). -/
def execSlui (sd : SReg) (imm : BitVec 20) (s : State) : Out :=
  scalarStep s fun q => q.setS sd (sext imm <<< 12)
/-- `spcui` (R280). -/
def execSpcui (sd : SReg) (imm : BitVec 20) (s : State) : Out :=
  scalarStep s fun q => q.setS sd (q.pc + (sext imm <<< 12))

/-! ### Special registers -/

/-- RTN (R204). -/
def Kernel.rtn (k : Kernel) : Nat := if k.lgres = 0 then 0 else 2 ^ k.lgres

/-- GANGMAP of a gang (R304). -/
def GangRef.map (g : GangRef) : Word := g.quads.foldl (fun m n => m ||| (1#64 <<< n)) 0

/-- The value of a special register in a quad, less QPC; `none` when the number is not assigned
(R304). -/
def specialReg (s : State) (g : GangRef) (n : Nat) (q : Quad) (num : BitVec 6) : Option Word :=
  let t := s.teamOf g
  let w := s.waveOf g
  match num.toNat with
  | 0 => some (BitVec.ofNat 64 w.wid)
  | 1 => some (BitVec.ofNat 64 n)
  | 2 => some (zext t.teamid)
  | 3 => some (zext t.gridid)
  | 4 => some (BitVec.ofNat 64 w.core)
  | 5 => some (BitVec.ofNat 64 (halfOf w.core))
  | 6 => some (zext t.ctx)
  | 7 => some g.map
  | 8 => some (s.quadOf g 0).issued.pc
  | 9 => some (zext q.fmt)
  | 10 => some (sext q.scb)
  | 11 => some q.seed
  | 12 => some (BitVec.ofNat 64 t.kernel.rtboff)
  | 13 => some (BitVec.ofNat 64 t.kernel.rtn)
  | 14 => some (zext w.fusest)
  | 15 => some (zext w.wdog)
  | 16 => some (BitVec.ofNat 64 s.clk)
  | 17 => some q.trapinfo
  | 18 => some q.trappc
  | _ => none

/-- `sgetr` (R303, R304). -/
def execSgetr (sd : SReg) (num : BitVec 6) (s : State) : Out :=
  withGang s fun g =>
    if 18 < num.toNat then s.badOperand g 1
    else
      (s.mapGang g fun n q => q.setS sd ((specialReg s g n q num).getD 0)).retire g 1 1 .count

/-- `sgetr` of QPC (R303, R304): the address of the next instruction of a quad of the reader's wave. -/
def execSgetrQpc (sd : SReg) (idx : BitVec 6) (s : State) : Out :=
  withGang s fun g =>
    if 2 ^ (s.teamOf g).kernel.lgwave ≤ idx.toNat then s.badOperand g 1
    else
      (s.mapGang g fun _ q => q.setS sd (s.quadOf g idx.toNat).issued.pc).retire g 1 1 .count

/-- The pair of types that a value names in FMT's fields (R383). -/
def fmtOf (v : Word) : BitVec 13 := v.extractLsb' 0 13 &&& 0x1F1F

/-- The pair of an FMT value is one of R385. -/
def fmtLegal (f : BitVec 13) : Bool := fmtPair (f.extractLsb' 0 5) (f.extractLsb' 8 5)

/-- The quads of a gang that fail a check of their own, in TRAPINFO's lanes field (R412). -/
def failing (p : Nat → Bool) (n : Nat) : BitVec 4 := if p n then 0xF else 0

/-- `ssetr` (R303 to R306, R250, R383, R420). -/
def execSsetr (sa : SReg) (num : BitVec 6) (s : State) : Out :=
  withGang s fun g =>
    let value (n : Nat) : Word := (s.quadOf g n).rs sa
    let top : Word := value (g.base + 2 ^ g.lg - 1)
    let each (f : Word → Quad → Quad) : State :=
      (s.mapGang g fun _ q => f (q.rs sa) q).retire g 1 1 .count
    match num.toNat with
    | 9 =>
      let bad (n : Nat) : Bool := !fmtLegal (fmtOf (value n))
      if g.quads.any bad then s.trap g .illegalOperand (s.leader g).pc (failing bad) 1
      else each fun v q => { q with fmt := fmtOf v }
    | 10 => each fun v q => { q with scb := v.extractLsb' 0 8 }
    | 11 => each fun v q => { q with seed := v }
    | 14 =>
      (s.modWave g.t g.w fun w => { w with fusest := top.extractLsb' 0 32 }).retire g 1 1 .count
    | 15 =>
      s.retire g 1 1 (.set (top.extractLsb' 0 32))
    | 18 => each fun v q => { q with trappc := v &&& ~~~3#64, trapClause := none }
    | _ => s.badOperand g 1

/-- `sfmt` (R384). -/
def execSfmt (ta tb : BitVec 5) (s : State) : Out :=
  scalarStep s fun q => { q with fmt := tb ++ 0#3 ++ ta }

/-- `snop` (R310). -/
def execSnop (s : State) : Out := scalarStep s fun q => q

/-- `snop.progress` (R310, R420). -/
def execSnopProgress (s : State) : Out := withGang s fun g => s.retire g 1 1 .reload

end Sys2Proof.Machine
end

