-- ==== Sys2Proof/Machine/Operands.lean ====
section
/-! DEFINITION. The operands of lane instructions (R281 to R284, R314, R320) and the frame that every
lane instruction runs in: the decode checks of R274, the forced fuse of R114, then its effect. -/

namespace Sys2Proof.Machine

/-- A register field that an instruction uses (R282, R314, R327): vector registers from a first one,
with its alignment, a predicate, a scalar, a join register. -/
inductive Opnd where
  | v (n : BitVec 10) (regs align : Nat)
  | p (n : BitVec 10)
  | s (n : BitVec 10)
  | j (n : BitVec 10)
  deriving DecidableEq, Repr

/-- The limits of R282, R314 and R327, with the kernel's registers per lane. -/
def Opnd.ok (limit : Nat) : Opnd → Bool
  | .v n regs align =>
    n.toNat % align == 0 && decide (n.toNat + regs ≤ 640) && decide (n.toNat + regs ≤ limit)
  | .p n => decide (n.toNat ≤ 23)
  | .s n => decide (n.toNat ≤ 63)
  | .j n => decide (n.toNat ≤ 7)

/-- Registers an element of a type occupies (R243, R248). -/
def regsOf (t : ElemTy) : Nat :=
  match t with
  | .fx128 => 4
  | .i64 | .n64 | .f64 => 2
  | .i8 | .i16 | .i32 | .n8 | .n16 | .n32 | .f16 | .bf16 | .f32 | .e4m3 | .e5m2 | .i4 | .e3m2 | .e2m3
  | .e2m1 => 1

/-- A vector operand of a type (R320). -/
def Opnd.ty (n : BitVec 10) (t : ElemTy) : Opnd := .v n (regsOf t) (regsOf t)

/-- One vector register. -/
def Opnd.one (n : BitVec 10) : Opnd := .v n 1 1

/-- The value of an operand of `regs` registers from `n` on, low register first (R243, R248). -/
def Lane.read (l : Lane) (n regs : Nat) : Nat :=
  (upTo regs).foldr (fun i acc => (l.rv (n + i)).toNat + 2 ^ 32 * acc) 0

/-- Writes `regs` registers from `n` on. -/
def Lane.write (l : Lane) (n regs x : Nat) : Lane :=
  (upTo regs).foldl (fun l i => l.setV (n + i) (BitVec.ofNat 32 (x / 2 ^ (32 * i)))) l

/-- A guard value that R283 calls an illegal operand. -/
def badGuard (g : BitVec 5) : Bool := decide (24 ≤ g.toNat) && decide (g.toNat ≤ 30)

/-- Guard(q, l) of R283. -/
def guardOk (o : LaneOp) (l : Lane) : Bool :=
  if o.guard.toNat = 31 then true else l.rp o.guard.toNat != o.neg

/-- Lane `i` of the quad is active (R320). -/
def Quad.active (q : Quad) (o : LaneOp) (i : Nat) : Bool := q.emBit i && guardOk o (q.lane i)

/-- The cycles of a 32-bit lane instruction (R119). -/
def cycles32 (g : GangRef) : Nat := max 1 (2 ^ g.lg / 8)

/-- The cycles of a 64-bit lane instruction (R119). -/
def cycles64 (g : GangRef) : Nat := max 1 (2 ^ g.lg / 4)

/-- The cycles of a form of a type (R324). -/
def cyclesOf (t : ElemTy) (g : GangRef) : Nat := if regsOf t = 1 then cycles32 g else cycles64 g

/-! ### The forced fuse -/

/-- The quad has reached the forced fuse of 2^w quads at the instruction at hand: at its PC, in its clause
(notes/assumptions/75.md). -/
def Quad.atFuse (q : Quad) (w : Nat) (flow : Word × Option ClauseCtx) : Bool :=
  match q.wait with
  | .fuse k _ => k == w && q.flow == flow
  | _ => false

/-- The CLK at which the timer of a forced fuse started (R115). -/
def fuseSince (s : State) (g : GangRef) (run : List Nat) (w : Nat) : Nat :=
  let flow := (s.leader g).flow
  run.foldl (fun n i =>
    match (s.quadOf g i).wait with
    | .fuse k since => if k = w ∧ (s.quadOf g i).flow = flow then min n since else n
    | _ => n) s.clk

/-- The aligned run of 2^w quads that contains a gang (R114). -/
def GangRef.run (g : GangRef) (w : Nat) : GangRef := { g with base := g.base / 2 ^ w * 2 ^ w, lg := w }

/-- A run whose quads have all reached the instruction or exited forms one gang (R114 items 3 and 4). -/
def State.fuse (s : State) (run : GangRef) : State :=
  (s.mapGang run fun _ q => { q with wait := .ready }).replaceGangs run.t run.w run.quads [(run.base, run.lg)]

/-- After an exit, a forced fuse that waited for nothing else takes place (R110, R114, R115). -/
def State.fuseTest (s : State) (t w : Nat) : State :=
  (s.wave t w).gangs.foldl (fun s y =>
    let g : GangRef := { t := t, w := w, base := y.base, lg := y.lg }
    let q := s.leader g
    match q.wait with
    | .fuse k _ =>
      if (g.run k).quads.all fun n => (s.quadOf g n).exited || (s.quadOf g n).atFuse k q.flow then s.fuse (g.run k)
      else s
    | _ => s) s

/-- A gang reaches an instruction of minimum width `w` (R114): it is performed over a gang that is
wide enough, at once or when the last quad of the run arrives; else the gang waits. -/
def State.withWidth (s : State) (g : GangRef) (minw : Nat) (body : State → GangRef → State) : State :=
  let w := min minw (s.teamOf g).kernel.lgwave
  if w ≤ g.lg then body s g
  else
    let run := g.run w
    let flow := (s.leader g).flow
    let here (n : Nat) : Bool :=
      (s.quadOf g n).exited || g.quads.contains n || (s.quadOf g n).atFuse w flow
    if run.quads.all here then body (s.fuse run) run
    else s.hold g (.fuse w (fuseSince s g run.quads w))

/-! ### The frame of a lane instruction -/

/-- A lane instruction (R274, R277, R282, R283, R114): an absent set-flag is an illegal instruction; a
bad guard or register an illegal operand; then the forced fuse, and the effect over the fused gang.
The effect is given the selected flag. -/
def laneStep (s : State) (o : LaneOp) (opnds : List Opnd)
    (body : Option (BitVec 4) → State → GangRef → State) : Out :=
  withGang s fun g =>
    match laneFlag (s.leader g).clause o.flag with
    | none => s.illegal g 0
    | some f =>
      if badGuard o.guard || !opnds.all (·.ok (s.teamOf g).kernel.regs) then s.badOperand g 0
      else s.withWidth g o.minw.toNat (body f)

/-- A short-latency lane instruction whose effect on each quad reads that quad alone. -/
def laneQuads (s : State) (o : LaneOp) (opnds : List Opnd) (cost : GangRef → Nat)
    (f : Nat → Quad → Quad) : Out :=
  laneStep s o opnds fun _ s g => (s.mapGang g f).retire g 3 (cost g) .count

/-- R256: an instruction that carries RS advances SEED in every quad. -/
def Quad.reseed (q : Quad) (rnd : Rnd) : Quad :=
  match rnd with
  | .rs => { q with seed := q.seed + 1 }
  | .rne | .rz | .ru | .rd | .rna => q

/-- The stochastic number of a lane and element, where the mode needs one (R255). -/
def stochOf (rnd : Rnd) (seed : Word) (lane elem : Nat) : Nat :=
  match rnd with
  | .rs => stochHash seed lane elem
  | .rne | .rz | .ru | .rd | .rna => 0

/-- Every active lane of a quad is changed by itself (R320); the rounding code advances SEED. `f` is
given the quad and the lane's number in the wave. -/
def Quad.lanewise (q : Quad) (o : LaneOp) (n : Nat) (rnd : Rnd) (f : Quad → Nat → Lane → Lane) : Quad :=
  (q.mapLanes fun i l => if q.active o i then f q (4 * n + i) l else l).reseed rnd

/-- The instruction changes every active lane by itself (R320). -/
def laneMap (s : State) (o : LaneOp) (opnds : List Opnd) (cost : GangRef → Nat) (rnd : Rnd)
    (f : Quad → Nat → Lane → Lane) : Out :=
  laneQuads s o opnds cost fun n q => q.lanewise o n rnd f

/-- One source of a type, a result of a type. -/
def lane1 (s : State) (o : LaneOp) (src dst : ElemTy) (cost : GangRef → Nat) (rnd : Rnd)
    (f : Nat → Nat → Nat) : Out :=
  laneMap s o [.ty o.vd dst, .ty o.va src] cost rnd fun q lane l =>
    l.write o.vd.toNat (regsOf dst)
      (f (stochOf rnd q.seed lane 0) (l.read o.va.toNat (regsOf src)))

/-- Two sources of a type, a result of the type. -/
def lane2 (s : State) (o : LaneOp) (t : ElemTy) (cost : GangRef → Nat) (rnd : Rnd)
    (f : Nat → Nat → Nat → Nat) : Out :=
  laneMap s o [.ty o.vd t, .ty o.va t, .ty o.vb t] cost rnd fun q lane l =>
    l.write o.vd.toNat (regsOf t)
      (f (stochOf rnd q.seed lane 0) (l.read o.va.toNat (regsOf t)) (l.read o.vb.toNat (regsOf t)))

/-- Three sources of a type, a result of the type. -/
def lane3 (s : State) (o : LaneOp) (t : ElemTy) (cost : GangRef → Nat) (rnd : Rnd)
    (f : Nat → Nat → Nat → Nat → Nat) : Out :=
  laneMap s o [.ty o.vd t, .ty o.va t, .ty o.vb t, .ty o.vc t] cost rnd fun q lane l =>
    l.write o.vd.toNat (regsOf t)
      (f (stochOf rnd q.seed lane 0) (l.read o.va.toNat (regsOf t)) (l.read o.vb.toNat (regsOf t))
        (l.read o.vc.toNat (regsOf t)))

/-- A compare of two sources of a type into predicate vd (R327, R335). -/
def laneCmp (s : State) (o : LaneOp) (t : ElemTy) (f : Nat → Nat → Bool) : Out :=
  laneMap s o [.p o.vd, .ty o.va t, .ty o.vb t] (cyclesOf t) .rne fun _ _ l =>
    l.setP o.vd.toNat (f (l.read o.va.toNat (regsOf t)) (l.read o.vb.toNat (regsOf t)))

/-- One 32-bit source and an immediate (R330, R338). -/
def laneImm (s : State) (o : LaneOp) (f : Nat → Nat) : Out :=
  laneMap s o [.one o.vd, .one o.va] cycles32 .rne fun _ _ l =>
    l.write o.vd.toNat 1 (f (l.read o.va.toNat 1))

end Sys2Proof.Machine
end

