-- ==== Sys2Proof/Machine/Reach.lean ====
section
/-! DEFINITION. The addresses of an instruction and the checks that precede its accesses (R350 to
R353, R359), the read of a resolved place, and a gang's load (R354, R355, R361 to R363). -/

namespace Sys2Proof.Machine

/-! ### Checks -/

/-- One address that an instruction checks (R353): the quad and lanes that TRAPINFO names when it
fails, and what it needs. `spad` is true of the scratchpad-only forms (R351). -/
structure Ask where
  quad : Nat
  lanes : BitVec 4
  addr : Word
  len : Nat
  align : Nat
  need : Need
  spad : Bool
  deriving DecidableEq, Repr

/-- The checks of one address, in the order of R353. -/
def checkAsk (s : State) (g : GangRef) (a : Ask) : State × Except MFault Loc :=
  if a.addr.toNat % a.align ≠ 0 then (s, .error { cause := .alignment, addr := a.addr, tf := none })
  else if a.spad && !inScratchWindow a.addr then
    (s, .error { cause := .scratchRange, addr := a.addr, tf := none })
  else locate s (s.coreOf g) (s.ctxOf g) (s.teamOf g).kernel.scratchBytes a.addr a.len a.need

/-- The checks of every address: the places of those that pass, the faults of those that fail. -/
def checkAsks (s : State) (g : GangRef) :
    List Ask → State × List Loc × List (Ask × MFault)
  | [] => (s, [], [])
  | a :: as =>
    match checkAsk s g a with
    | (s, .ok l) =>
      match checkAsks s g as with
      | (s, ok, bad) => (s, l :: ok, bad)
    | (s, .error f) =>
      match checkAsks s g as with
      | (s, ok, bad) => (s, ok, (a, f) :: bad)

/-- The lanes of a quad that failed any check (R353, R412). -/
def failedLanes (bad : List (Ask × MFault)) (n : Nat) : BitVec 4 :=
  bad.foldl (fun m x => if x.1.quad = n then m ||| x.1.lanes else m) 0

/-- An instruction whose addresses are checked before its first access (R353): the lowest-numbered
failing lane or quad gives the cause and the address. -/
def State.checked (s : State) (g : GangRef) (asks : List Ask) (src : TrapSrc)
    (perform : State → List Loc → State) : State :=
  match checkAsks s g asks with
  | (s, ok, []) => perform s ok
  | (s, _, (a, f) :: bad) => s.memTrap g f (failedLanes ((a, f) :: bad)) src

/-- The failing check with the lowest address (R348). -/
def lowestFault : (Ask × MFault) → List (Ask × MFault) → MFault
  | x, [] => x.2
  | x, y :: ys => lowestFault (if y.2.addr < x.2.addr then y else x) ys

/-- As `State.checked`, with the lowest failing address in TRAPINFO (R348). -/
def State.checkedLow (s : State) (g : GangRef) (asks : List Ask) (src : TrapSrc)
    (perform : State → List Loc → State) : State :=
  match checkAsks s g asks with
  | (s, ok, []) => perform s ok
  | (s, _, x :: bad) => s.memTrap g (lowestFault x bad) (failedLanes (x :: bad)) src

/-! ### Addresses -/

/-- The quads of a gang that have not exited. -/
def State.live (s : State) (g : GangRef) : List Nat :=
  g.quads.filter fun n => !(s.quadOf g n).exited

/-- The active lanes of a gang, ascending (R320). -/
def State.activeLanes (s : State) (g : GangRef) (o : LaneOp) : List (Nat × Nat) :=
  (s.live g).flatMap fun n => ((upTo 4).filter fun i => (s.quadOf g n).active o i).map fun i => (n, i)

/-- The bit of a lane. -/
def laneBit (i : Nat) : BitVec 4 := 1#4 <<< i

/-- The address of a lane (R359). -/
def Quad.laneAddr (q : Quad) (o : LaneOp) (m : MemMods) (i : Nat) : Word :=
  let l := q.lane i
  let x := l.rv o.va.toNat
  if m.flat then (l.rv (o.va.toNat + 1) ++ x) + sext m.off
  else q.rsN o.vb.toNat + (sext x <<< m.scale.toNat) + sext m.off

/-- The address of a lane of `vlds` and `vsts` (R359). -/
def Quad.scratchLaneAddr (q : Quad) (o : LaneOp) (m : MemMods) (i : Nat) : Word :=
  Config.spw + (zext ((q.lane i).rv o.va.toNat) <<< m.scale.toNat) + sext m.off

/-- The register fields of an address (R358, R359). -/
def addrOpnds (o : LaneOp) (m : MemMods) : List Opnd :=
  if m.flat then [.v o.va 2 2] else [.one o.va, .s o.vb]

/-! ### Reading a place -/

/-- What a read gives: its bytes, the address of a poisoned or refused part, and the Sector requests
that will bring some of the bytes. -/
structure Got where
  bytes : List Byte
  fault : Option Word
  reqs : List Nat
  deriving DecidableEq, Repr

/-- Reads the pieces of an access; `off` bytes of it precede them. Poison and a request that cannot
leave are logged (R160, R354, R443). -/
def readPieces (s : State) (g : GangRef) (src : TrapSrc) (pend quad k : Nat) :
    Nat → List (Nat × Nat × Word × TlbEntry) → State × Got
  | _, [] => (s, { bytes := [], fault := none, reqs := [] })
  | off, p :: ps =>
    let n := p.2.1
    let blank : List Byte := List.replicate n 0
    let one : State × Got :=
      match readPiece s (s.coreOf g) (s.ctxOf g) p with
      | (s, .bytes bs) => (s, { bytes := bs, fault := none, reqs := [] })
      | (s, .poison a) =>
        (s.logAt g 0x0006 src 0 a, { bytes := blank, fault := some a, reqs := [] })
      | (s, .remote w o n) =>
        match sendRemote s (s.ctxOf g) w o (.load g.t g.w pend [(quad, k, off)]) p.2.2.1 (.read n) with
        | (s, some r) => (s, { bytes := blank, fault := none, reqs := [r] })
        | (s, none) =>
          (s.logAt g 0x0006 7 0 p.2.2.1, { bytes := blank, fault := some p.2.2.1, reqs := [] })
    match readPieces one.1 g src pend quad k (off + n) ps with
    | (s, y) =>
      (s, { bytes := one.2.bytes ++ y.bytes, fault := one.2.fault <|> y.fault
            reqs := one.2.reqs ++ y.reqs })

/-- Reads a place for load `k` of a quad's pend. -/
def readLoc (s : State) (g : GangRef) (src : TrapSrc) (pend quad k len : Nat) : Loc → State × Got
  | .scratch off =>
    (s, { bytes := (s.teamOf g).scratch.read off len, fault := none, reqs := [] })
  | .mem ps => readPieces s g src pend quad k 0 ps

/-! ### What a load takes -/

/-- One value that an instruction loads. -/
structure Want where
  ask : Ask
  dest : Dest
  signed : Bool
  deriving DecidableEq, Repr

/-- Where the deferred fault of a long-latency instruction is raised (R354). -/
def deferPoint (flag : Option (BitVec 4)) : DeferPoint :=
  match flag with
  | some n => .header n
  | none => .interlock

/-- The deferred poison fault of a returning instruction (R354). -/
def poisonDeferred (flag : Option (BitVec 4)) (addr : Word) (lanes : BitVec 4) : Deferred :=
  { point := deferPoint flag, cause := .trans .poison, addr := addr, lanes := lanes }

/-- A quad's performance takes one more value. -/
def Later.take (l : Later) (flag : Option (BitVec 4)) (lanes : BitVec 4) (dest : Dest) (signed : Bool)
    (plus : Nat) (x : Got) : Later :=
  { l with
    loads := l.loads ++ [{ dest := dest, bytes := x.bytes, plus := plus, signed := signed
                           dropped := x.fault.isSome }]
    faults :=
      match x.fault with
      | some a => l.faults ++ [poisonDeferred flag a lanes]
      | none => l.faults
    requests := l.requests ++ x.reqs }

/-- The loads of one quad, in order. -/
def loadQuad (s : State) (g : GangRef) (src : TrapSrc) (pend : Nat) (flag : Option (BitVec 4)) :
    Later → List (Want × Loc) → State × Later
  | l, [] => (s, l)
  | l, (w, loc) :: rest =>
    match readLoc s g src pend w.ask.quad l.loads.length w.ask.len loc with
    | (s, x) => loadQuad s g src pend flag (l.take flag w.ask.lanes w.dest w.signed 0 x) rest

/-- The performances of every quad, in ascending order (R98). -/
def perQuad (f : State → Nat → State × Later) : List Nat → State → State × List (Nat × Later)
  | [], s => (s, [])
  | n :: ns, s =>
    match f s n with
    | (s, l) =>
      match perQuad f ns s with
      | (s, ls) => (s, (n, l) :: ls)

/-- The addresses that a quad polls (R143, R362); `none` when it makes no access. -/
def pollOf (yield : Bool) (ws : List Want) : Option (List Word) :=
  if yield && !ws.isEmpty then some (ws.map (·.ask.addr)) else none

/-! ### Bank conflicts -/

/-- The 4-byte words of a scratchpad access. -/
def bankWords (off n : Nat) : List Nat :=
  (upTo ((off + n + 3) / 4 - off / 4)).map fun i => off / 4 + i

/-- The bank-conflict cycles of one issue (R363): C - ceil (W / 64). -/
def bankStall (xs : List (Nat × Nat)) : Nat :=
  let words := sortNats (xs.flatMap fun (off, n) => bankWords off n)
  let c := (upTo 64).foldl (fun m b => max m (words.filter fun w => w % 64 == b).length) 0
  c - ceilDiv words.length 64

/-- The scratchpad accesses among resolved addresses. -/
def scratchOf (asks : List Ask) (locs : List Loc) : List (Nat × Nat) :=
  (asks.zip locs).filterMap fun (a, l) =>
    match l with
    | .scratch off => some (off, a.len)
    | .mem _ => none

/-- The core's bank-conflict stall counter rises (R363, R468). -/
def State.bankCount (s : State) (g : GangRef) (xs : List (Nat × Nat)) : State :=
  s.stall (s.coreOf g) (s.ctxOf g) 7 (bankStall xs)

/-! ### A gang's load -/

/-- What a load's form fixes: its length in words, its cycles, its log source, the flag it selects,
the polling hint, and whether R363 counts its scratchpad accesses. -/
structure LoadForm where
  len : Nat
  cost : Nat
  src : TrapSrc
  flag : Option (BitVec 4)
  yield : Bool
  bank : Bool
  deriving DecidableEq, Repr

/-- A load by a gang (R353, R355, R361): the checks, the reads, and the results that land when each
quad's performance completes. -/
def gangLoad (s : State) (g : GangRef) (x : LoadForm) (wants : List Want) : State :=
  if flagFull s g x.flag then s.hold g .structural
  else s.checked g (wants.map (·.ask)) x.src fun s locs =>
    let s := if x.bank then s.bankCount g (scratchOf (wants.map (·.ask)) locs) else s
    let items := wants.zip locs
    let id := s.nextId
    let ofQuad (n : Nat) : List (Want × Loc) := items.filter fun y => y.1.ask.quad == n
    match perQuad (fun s n =>
        loadQuad s g x.src id x.flag
          { Later.empty with poll := pollOf x.yield ((ofQuad n).map (·.1)) } (ofQuad n))
        (s.live g) s.bumpId with
    | (s, ls) => s.issueLong g x.len x.cost id x.flag fun n => lookupD ls n Later.empty

end Sys2Proof.Machine
end

