-- ==== Sys2Proof/Machine/Tile.lean ====
section
/-! DEFINITION. Accumulates (R196, R197), the residual tile and its rides (R204 to R208), forced
deliveries (R209) and the progress of drains (R210). -/

namespace Sys2Proof

/-- The width of an accumulate in bytes (R196). -/
def AccTy.width : AccTy → Nat
  | .i32 | .f32 | .bf16x2 => 4
  | .i64 | .n64 | .vis => 8
  | .fx128 => 16

/-- The operation codes of R196. -/
def AccOp.code : AccOp → Nat
  | .add => 0
  | .min => 1
  | .max => 2

/-- The operation of a code. -/
def AccOp.ofCode : Nat → Option AccOp
  | 0 => some .add
  | 1 => some .min
  | 2 => some .max
  | _ => none

/-- The min and max of an accumulate are signed (R196). -/
def AccTy.signed : AccTy → Bool
  | .i32 | .i64 | .fx128 => true
  | .n64 | .f32 | .bf16x2 | .vis => false

end Sys2Proof

namespace Sys2Proof.Machine

/-- Integer combination of w-byte values (R196). -/
def intCombine (ty : AccTy) (op : AccOp) (a b : Nat) : Nat :=
  let n := 8 * ty.width
  let less : Bool :=
    if ty.signed then decide (toSigned n a < toSigned n b) else decide (a < b)
  match op with
  | .add => (a + b) % 2 ^ n
  | .min => if less then a else b
  | .max => if less then b else a

/-- Combine (R196, R197). -/
def accCombine (ty : AccTy) (op : AccOp) (a b : Nat) : Nat :=
  let f32 : FpMode := { ty := .f32, rnd := .rne, r := 0, ftz := false }
  let bf : FpMode := { ty := .bf16, rnd := .rne, r := 0, ftz := false }
  match ty with
  | .f32 =>
    match op with
    | .add => f32.add a b
    | .min => f32.min a b
    | .max => f32.max a b
  | .bf16x2 => halves (fun _ x y _ => bf.add x y) a b 0
  | .i32 | .i64 | .n64 | .fx128 | .vis => intCombine ty op a b

/-! ### Tile entries -/

/-- A residual: the virtual address, operation, type, value and count (R204). -/
structure Residual where
  addr : Word
  op : AccOp
  ty : AccTy
  value : Wide
  count : Nat
  deriving DecidableEq, Repr

/-- The index of an address (R206). -/
def tileIndex (k : Kernel) (a : Word) : Nat :=
  ((a >>> 3) ^^^ (a >>> 13) ^^^ (a >>> 23)).toNat % max 1 k.rtn

/-- The scratchpad offset of an entry (R204). -/
def tileOffset (k : Kernel) (i : Nat) : Nat := k.rtboff + 32 * i

/-- The 32 bytes of an entry (R204). -/
def tileBytes (t : Team) (i : Nat) : List Byte := t.scratch.read (tileOffset t.kernel i) 32

/-- The valid bit of an entry. -/
def tileValid (t : Team) (i : Nat) : Bool := (field64 (tileBytes t i) 24).getLsbD 63

/-- The residual of an entry; `none` when it is empty or breaks R205. -/
def tileEntry (t : Team) (i : Nat) : Option Residual :=
  let bs := tileBytes t i
  let meta_ := field64 bs 24
  match AccOp.ofCode (slice meta_ 3 0), AccTy.ofCode (slice meta_ 7 4) with
  | some op, some ty =>
    if meta_.getLsbD 63 && ty.allows op && slice meta_ 62 48 == 0 && slice meta_ 31 8 == 0 then
      some { addr := field64 bs 0, op := op, ty := ty
             value := BitVec.ofNat 128 (field bs 8 ty.width), count := slice meta_ 47 32 }
    else none
  | _, _ => none

/-- The bytes of a valid entry (R204). -/
def Residual.bytes (r : Residual) : List Byte :=
  leBytes 8 r.addr.toNat ++ leBytes 16 (r.value.toNat % 2 ^ (8 * r.ty.width)) ++
    leBytes 8 (2 ^ 63 + min r.count 65535 * 2 ^ 32 + r.ty.code * 16 + r.op.code)

/-- The device writes an entry, and the core what it knows of it. -/
def State.setTile (s : State) (t i : Nat) (bs : List Byte) (note : Option TileNote) : State :=
  s.modTeam t fun x =>
    { x with
      scratch := x.scratch.write (tileOffset x.kernel i) bs
      tiles := note.toList ++ x.tiles.filter fun e => e.idx != i }

/-- The device clears an entry's valid bit (R208, R210). -/
def State.clearTile (s : State) (t i : Nat) : State :=
  let bs := tileBytes (s.team t) i
  s.setTile t i (patch bs 31 [bs.getD 31 0 &&& 0x7F]) none

/-- What the core knows of an entry; a residual from before a restore is older than any accumulate (R210, R214), and
stands for quad 0 of wave 0, whom the save does not record (R212; notes/assumptions/31.md). -/
def Team.noteIn (t : Team) (i : Nat) : TileNote :=
  (t.tiles.find? fun e => e.idx == i).getD { idx := i, oldest := 0, wave := 0, quad := 0 }

/-- The oldest accumulate whose addend an entry holds (R210). -/
def Team.oldestIn (t : Team) (i : Nat) : Nat := (t.noteIn i).oldest

/-- An accumulate as a residual. -/
def Acc.residual (a : Acc) : Residual :=
  { addr := a.addr, op := a.op, ty := a.ty, value := a.value, count := a.count }

/-- Two residuals of one address, operation and type (R206, R208). -/
def Residual.sameAs (x y : Residual) : Bool := x.addr == y.addr && x.op == y.op && x.ty == y.ty

/-- Two residuals combined (R206, R208). -/
def Residual.combine (x y : Residual) : Residual :=
  { x with
    value := BitVec.ofNat 128 (accCombine x.ty x.op x.value.toNat y.value.toNat)
    count := min (x.count + y.count) 65535 }

/-! ### Outstanding accumulates -/

/-- The request is an accumulate to a Sector window by a quad or the walk engine of the core. -/
def Request.accOf (r : Request) (s : State) (core : Nat) : Bool :=
  match r.who, r.body.kind with
  | .store t w _, .accum _ _ _ _ => (s.wave t w).core == core
  | .engine c _ _, .accum _ _ _ _ => c == core
  | _, _ => false

/-- Accumulates outstanding in a core (R199). -/
def State.outstanding (s : State) (core : Nat) : Nat :=
  (s.accs.filter fun a => a.core == core).length + (s.requests.filter (·.accOf s core)).length

/-- An addend leaves the core for its place (R199, R435, R440). One that cannot leave on a Sector link is discarded,
and its quad faults at its next drain point (R443). Of host memory the model takes a free old value and sends the
new one. -/
def State.sendTo (s : State) (a : Acc) (e : TlbEntry) : State :=
  let who := [(a.team, a.wave, a.quad)]
  let src := if a.walk.isSome then 3 else 0
  let n := a.ty.width
  match physKind a.pa with
  | .hbm => { s with accs := s.accs ++ [{ a with low := e.low }] }
  | .host _ =>
    match hostBytes s n with
    | (s, old) =>
      writePiece s a.core a.ctx who src (a.pa, n, a.addr, e)
        (leBytes n (accCombine a.ty a.op (leNat old) a.value.toNat))
  | .sector w off =>
    match sendRemote s a.ctx w off (.store a.team a.wave a.quad) a.addr (.accum a.op a.ty a.value a.count) with
    | (s, some r) =>
      { s with requests := s.requests.map fun (x : Request) => if x.id = r then { x with cover := a.oldest } else x }
    | (s, none) => (s.logFor a.ctx who 0x0006 7 a.addr).deferDrain who a.addr
  | .unpopulated => s

/-- A forced delivery leaves the core (R209, R468). -/
def State.sendForced (s : State) (a : Acc) (e : TlbEntry) : State :=
  (s.sendTo { a with cls := .forced, phase := .flight } e).stall a.core a.ctx 9 1

/-- The translation of a forced delivery (R209). -/
def forcedPlace (s : State) (core : Nat) (c : BitVec 6) (va : Word) : State × Except TFault (Nat × TlbEntry) :=
  translate s core c va .store

/-- In a replay, an accumulate of a team waits until the refusals of its tile index are placed (R475). -/
def State.refusalOut (s : State) (t : Nat) (addr : Word) : Bool :=
  let x := s.team t
  (s.ctx x.ctx).lnActive == 2 && !(s.ctx x.ctx).lnDiverged &&
    s.accs.any fun a =>
      a.team == t && decide (a.phase = .returning) && tileIndex x.kernel a.addr == tileIndex x.kernel addr

/-- Sends an overflow entry as a forced delivery; one that fails translation stays (R206, R209, R475). -/
def State.sendOverflow (s : State) (id : Nat) : State :=
  match s.accs.find? fun a => a.id == id with
  | none => s
  | some a =>
    if a.phase = .overflow ∧ !s.refusalOut a.team a.addr then
      match forcedPlace s a.core a.ctx a.addr with
      | (s, .ok (pa, e)) =>
        ({ s with accs := s.accs.filter fun x => x.id != id } : State).sendForced { a with pa := pa } e
      | (s, .error _) => s
    else s

/-- A quad of the team has executed `fence.rel` (R370). -/
def Team.fenced (t : Team) : Bool := t.waves.any fun w => w.quads.any (·.relFence)

/-- Sends a tile entry as a forced delivery, when it holds a covered addend, translates, and the core
has an outstanding accumulate free (R199, R205, R209, R210, R475). -/
def State.sendTile (s : State) (t drain i : Nat) : State :=
  let x := s.team t
  if !tileValid x i || drain ≤ x.oldestIn i then s
  else
    match tileEntry x i with
    | none => s.clearTile t i
    | some r =>
      if 64 ≤ s.outstanding x.core || s.refusalOut t r.addr then s
      else
        match forcedPlace s x.core x.ctx r.addr with
        | (s, .error _) => s
        | (s, .ok (pa, e)) =>
          let note := x.noteIn i
          let a : Acc :=
            { id := s.nextId, oldest := note.oldest, ctx := x.ctx, core := x.core, team := t
              wave := note.wave, quad := note.quad, addr := r.addr, pa := pa, op := r.op, ty := r.ty
              value := r.value, count := r.count, cls := .forced, phase := .flight
              rel := x.fenced, walk := none, seq := 0, low := e.low }
          ((s.clearTile t i).bumpId).sendForced a e

/-- The drains in progress in a team (R210). -/
def Team.drains (t : Team) : List Nat :=
  t.waves.flatMap fun w => w.quads.filterMap fun q =>
    match q.wait with
    | .drain n => some n
    | _ => none

/-- A drain sends every tile and overflow entry of the team that holds a covered addend (R210). -/
def State.pumpDrain (s : State) (t drain : Nat) : State :=
  let s := (s.accs.filter fun a =>
    a.team == t && decide (a.phase = .overflow) && decide (a.oldest < drain)).foldl
      (fun s a => s.sendOverflow a.id) s
  (upTo (s.team t).kernel.rtn).foldl (fun s i => s.sendTile t drain i) s

/-- Every drain in progress on a core goes on (R210). -/
def State.pumpCore (s : State) (core : Nat) : State :=
  (upTo s.teams.length).foldl (fun s t =>
    let x := s.team t
    if x.core = core then
      match x.drains.max? with
      | some n => s.pumpDrain t n
      | none => s
    else s) s

/-- Accumulates of a team to Sector windows that have no reply and were sent before a drain. -/
def State.remoteAccs (s : State) (t drain : Nat) : Bool :=
  s.requests.any fun r =>
    decide (r.cover < drain) &&
      (match r.who with
       | .store u _ _ => u == t
       | .load _ _ _ _ | .wait _ _ _ | .engine _ _ _ | .fetch _ _ _ | .tender _ => false) &&
      (match r.body.kind with
       | .accum _ _ _ _ => true
       | _ => false)

/-- A residual holds a covered addend that no forced delivery carries (R210): its address. -/
def State.stuck (s : State) (t drain : Nat) : List Word :=
  let x := s.team t
  ((s.accs.filter fun a => a.team == t && decide (a.phase = .overflow) && decide (a.oldest < drain)).map
      (·.addr)) ++
    (upTo x.kernel.rtn).filterMap fun i =>
      if tileValid x i && decide (x.oldestIn i < drain) then (tileEntry x i).map (·.addr) else none

/-- Covered accumulates are still on their way (R210). -/
def State.draining (s : State) (t drain : Nat) : Bool :=
  (s.accs.any fun a => a.team == t && decide (a.oldest < drain) && decide (a.phase ≠ .overflow)) ||
    s.remoteAccs t drain

/-- There is something for a drain of the team to deliver or to wait for (R210). -/
def State.needsDrain (s : State) (t : Nat) : Bool :=
  s.draining t s.nextId || !(s.stuck t s.nextId).isEmpty

/-- The forced delivery of a residual of a team fails (R209): the cause. -/
def State.deliveryFails (s : State) (t : Nat) (va : Word) : Option TransCause :=
  match (forcedPlace s (s.team t).core (s.team t).ctx va).2 with
  | .ok _ => none
  | .error f => some f.cause

/-- The core will have an outstanding accumulate free (R199): it has one, or one is on its way. -/
def State.accRoom (s : State) (core : Nat) : Bool :=
  decide (s.outstanding core < 64) || (s.requests.any fun r => r.accOf s core) ||
    s.accs.any fun a => a.core == core && (decide (a.phase ≠ .overflow) || (s.deliveryFails a.team a.addr).isNone)

/-- A residual that no forced delivery carries translates, and the core will have an accumulate free for it: its delivery
only waits (R199, R209). -/
def State.undelivered (s : State) (t drain : Nat) : Bool :=
  s.accRoom (s.team t).core && (s.stuck t drain).any fun va => (s.deliveryFails t va).isNone

/-- The lowest of some addresses. -/
def lowestWord : Word → List Word → Word
  | a, [] => a
  | a, b :: bs => lowestWord (if b < a then b else a) bs

/-- What a drain that has nothing left on its way comes to: done, or the cause and the address of the
lowest residual whose delivery failed, when none is left that can be delivered (R211). -/
def State.drainResult (s : State) (t drain : Nat) : DrainSt :=
  let l := s.stuck t drain
  if l.isEmpty then .done
  else if s.undelivered t drain then .idle
  else
    match l.filter fun va => (s.deliveryFails t va).isSome with
    | [] => .idle
    | a :: as =>
      let va := lowestWord a as
      match s.deliveryFails t va with
      | some c => .failed c va
      | none => .idle

end Sys2Proof.Machine
end

