-- ==== Sys2Proof/Machine/Release.lean ====
section
/-! DEFINITION. Releases by an instruction of a gang (R178, R185, R190, R210, R211), acquires and
their promotions (R180, R181), and the order of atomics in logs and replays (R472 to R476). -/

namespace Sys2Proof

/-- The bytes that a request concerns. -/
def RemoteKind.size : RemoteKind → Nat
  | .read n => n
  | .write bs => bs.length
  | .atomic _ w8 _ _ _ _ => if w8 then 8 else 4
  | .accum _ ty _ _ => ty.width
  | .get _ => 8
  | .add _ _ => 8
  | .wait _ _ _ => 8
  | .cancel _ => 0

/-- A wait or its cancel: not an access that is performed at an address (R142, R441). -/
def RemoteKind.waits : RemoteKind → Bool
  | .wait _ _ _ | .cancel _ => true
  | .read _ | .write _ | .atomic _ _ _ _ _ _ | .accum _ _ _ _ | .get _ | .add _ _ => false

end Sys2Proof

namespace Sys2Proof.Machine

/-! ### Release -/

/-- The request writes at its target (R178 step 4). -/
def remoteWrites : RemoteKind → Bool
  | .write _ | .atomic _ _ _ _ _ _ | .accum _ _ _ _ | .add _ _ => true
  | .read _ | .get _ | .wait _ _ _ | .cancel _ => false

/-- The request is an acquiring atomic or counter read (R180). -/
def remoteAcquires : RemoteKind → Bool
  | .atomic _ _ _ _ _ acq => acq
  | .get acq => acq
  | .read _ | .write _ | .accum _ _ _ _ | .add _ _ | .wait _ _ _ | .cancel _ => false

/-- An agent of the core has made the request. -/
def Request.ofCore (r : Request) (s : State) (core : Nat) : Bool :=
  match r.who with
  | .store t w _ => (s.wave t w).core == core
  | .load t w _ _ => (s.wave t w).core == core
  | .engine k _ _ => k == core
  | .wait t w _ => (s.wave t w).core == core
  | .fetch t w _ => (s.wave t w).core == core
  | .tender _ => false

/-- An earlier write of the core's agents for the context still waits for its Sector reply (R178
step 4). -/
def State.awaitsSector (s : State) (core : Nat) (c : BitVec 6) : Bool :=
  s.requests.any fun r => r.ctx == c && remoteWrites r.body.kind && r.ofCore s core

/-- A Sector request of an outstanding instruction of the gang has no reply yet (R178 step 1). -/
def State.remotePending (s : State) (g : GangRef) : Bool :=
  (s.live g).any fun n => (s.quadOf g n).pends.any fun p => !p.requests.isEmpty

/-- The request is an atomic, a counter operation or an accumulate of a quad, which returns nothing (R370). -/
def Request.atomicOf (r : Request) (g : GangRef) : Bool :=
  (match r.who with
   | .store t w q => t == g.t && w == g.w && g.quads.contains q
   | .load _ _ _ _ | .wait _ _ _ | .engine _ _ _ | .fetch _ _ _ | .tender _ => false) &&
  (match r.body.kind with
   | .atomic _ _ _ _ _ _ | .add _ _ | .accum _ _ _ _ => true
   | .read _ | .write _ | .get _ | .wait _ _ _ | .cancel _ => false)

/-- An atomic of the gang has not completed (R370): one of another device has no reply, or an accumulate of its wave is on
its way. -/
def State.atomicsPending (s : State) (g : GangRef) : Bool :=
  s.remotePending g || (s.requests.any fun r => r.atomicOf g) ||
    s.accs.any fun a => a.team == g.t && a.wave == g.w && decide (a.phase ≠ .overflow)

/-- The quads of a gang leave the drain they waited for. -/
def State.endDrain (s : State) (g : GangRef) : State := s.mapGang g fun _ q => { q with drainSt := .idle }

/-- The gang starts a drain of its team and waits for it (R210). -/
def State.startDrain (s : State) (g : GangRef) : State :=
  let id := s.nextId
  ((s.endDrain g).bumpId.hold g (.drain id)).pumpDrain g.t id

/-- The drain of a releasing instruction or `rflush`: when it is done the instruction goes on, when it
failed the instruction faults (R210, R211). -/
def State.drained (s : State) (g : GangRef) (src : TrapSrc) (k : State → State) : State :=
  match (s.leader g).drainSt with
  | .done => k (s.endDrain g)
  | .failed _ va =>
    match forcedPlace s (s.coreOf g) (s.ctxOf g) va with
    | (s, .error f) =>
      (s.endDrain g).memTrap g { cause := .trans f.cause, addr := va, tf := some f } allLanes src
    | (s, .ok _) => s.startDrain g
  | .idle => if s.needsDrain g.t then s.startDrain g else k s

/-- The faults that earlier stores, counter adds and accumulates deferred to this drain point (R212,
R354, R418). -/
def State.atDrainPoint (s : State) (g : GangRef) (src : TrapSrc) (k : State → State) : State :=
  match s.raiseDrain g src with
  | some s => s
  | none => k s

/-- Steps 1 to 4 of R178, then the instruction's own effect: every held line is bound, earlier Sector
accesses of the gang and writes of the core have their replies, and the team's residuals are delivered. In mode 2 the bound lines are
written back first (R194). -/
def State.releasing (s : State) (g : GangRef) (src : TrapSrc) (k : State → State) : State :=
  s.atDrainPoint g src fun s =>
    let core := s.coreOf g
    let c := s.ctxOf g
    match bindAll s core c with
    | (s, some (f, va)) =>
      s.memTrap g { cause := .trans f.cause, addr := va, tf := some f } allLanes src
    | (s, none) =>
      if s.awaitsSector core c || s.remotePending g then s.hold g .structural
      else s.drained g src fun s =>
        k (if (s.ctx c).mml = 2 then writeBackBound s core c else s)

/-- The effect of an instruction that may be a release. -/
def State.maybeReleasing (s : State) (g : GangRef) (rel : Bool) (src : TrapSrc) (k : State → State) :
    State :=
  if rel then s.releasing g src k else k s

/-! ### Acquire -/

/-- An address of a line (R181). -/
def lineAddr (va : Word) : Word := (va >>> 7) <<< 7

/-- An acquire of a quad: the lanes TRAPINFO names, and the line. -/
structure Acquire where
  quad : Nat
  lanes : BitVec 4
  at_ : AcqLine
  deriving DecidableEq, Repr

/-- The acquire meets a scope fault (R181). -/
def Acquire.fails (s : State) (core : Nat) (a : Acquire) : Bool :=
  match a.at_.place with
  | .line n => scopeFault s n a.at_.cap core
  | .remote => false
  | .team => false

/-- The test of R181, made before any acquiring atomic of the instruction. -/
def State.scopeChecked (s : State) (g : GangRef) (xs : List Acquire) (src : TrapSrc)
    (k : State → State) : State :=
  match xs.filter (Acquire.fails s (s.coreOf g)) with
  | [] => k s
  | a :: as =>
    s.memTrap g { cause := .trans .scope, addr := lineAddr a.at_.addr, tf := none }
      (fun n => (a :: as).foldl (fun m x => if x.quad = n then m ||| x.lanes else m) 0) src

/-- A quad waits for promotions and for acquiring Sector requests (R180): an interlocked one goes on interlocking
afterwards. -/
def Quad.awaitPromotion (q : Quad) (lines reqs : List Nat) : Quad :=
  match q.wait with
  | .interlock len => { q with wait := .promote lines reqs (some len) }
  | .ready => { q with wait := .promote lines reqs none }
  | _ => q

/-- What is left of such a wait: nothing, or its lines and requests. -/
def Quad.stillAwaits (q : Quad) (lines reqs : List Nat) (len : Option Nat) : Quad :=
  if lines.isEmpty && reqs.isEmpty then
    { q with wait := match len with | some n => .interlock n | none => .ready }
  else { q with wait := .promote lines reqs len }

/-- The acquiring Sector requests of a quad that have no reply (R180 step 1). -/
def State.acquiring (s : State) (t w n : Nat) : List Nat :=
  s.requests.filterMap fun r =>
    match r.who with
    | .load u v _ targets =>
      if u = t ∧ v = w ∧ remoteAcquires r.body.kind ∧ targets.any (·.1 == n) then some r.id else none
    | .store _ _ _ | .wait _ _ _ | .engine _ _ _ | .fetch _ _ _ | .tender _ => none

/-- The part of an acquire that waits for nothing (R180 step 4). Between the two cores of a bridged
pair a team-scope acquire is promoted at once. -/
def State.acquireAt (s : State) (t core : Nat) (c : BitVec 6) : AcqPlace → State
  | .line n => if (pendingCores s core n).isEmpty then acquireDrop s core n c else s
  | .remote => dropCopies s core c
  | .team => acquireTeam s t core c

/-- The lines of acquires for which other cores have lines to write back (R180 step 2). -/
def State.toPromote (s : State) (core : Nat) (lines : List AcqLine) : List Nat :=
  sortNats (lines.filterMap fun l =>
    match l.place with
    | .line n => if (pendingCores s core n).isEmpty then none else some n
    | .remote => none
    | .team => none)

/-- Steps 2 to 5 of R180 for quads of a wave: where no other core has lines to write back the copies
are dropped at once, else the quads wait for the acknowledgements; a quad whose acquiring atomic went to another
device waits for its reply. -/
def State.acquire (s : State) (t w : Nat) (qs : List Nat) (lines : List AcqLine) : State :=
  let core := (s.wave t w).core
  let c := (s.team t).ctx
  let s := lines.foldl (fun s l => s.acquireAt t core c l.place) s
  let rest := s.toPromote core lines
  if rest.isEmpty && qs.all fun n => (s.acquiring t w n).isEmpty then s
  else
    let old := s
    s.modQuads t w qs fun n q =>
      let reqs := old.acquiring t w n
      if rest.isEmpty && reqs.isEmpty then q else q.awaitPromotion rest reqs

/-- The write-backs of a line are acknowledged in a quad. -/
def Quad.promoted (q : Quad) (line : Nat) : Quad :=
  match q.wait with
  | .promote lines reqs len => q.stillAwaits (lines.filter (· != line)) reqs len
  | _ => q

/-- An acquiring Sector request of the quad has been answered (R180). -/
def Quad.answered (q : Quad) (req : Nat) : Quad :=
  match q.wait with
  | .promote lines reqs len => if reqs.contains req then q.stillAwaits lines (reqs.filter (· != req)) len else q
  | _ => q

/-- The quad waits for the promotion of a line. -/
def Quad.awaits (q : Quad) (line : Nat) : Bool :=
  match q.wait with
  | .promote lines _ _ => lines.contains line
  | _ => false

/-- Contexts with a quad on the core that waits for the promotion of a line. -/
def State.promoting (s : State) (core line : Nat) : List (BitVec 6) :=
  (s.teams.filter fun t => t.waves.any fun w => w.core == core && w.quads.any (·.awaits line)).map (·.ctx)

/-- `PROMOTION_WRITEBACK_ACK` (R180): the write-backs that the acquires of a core at a line wait for
are acknowledged, the core drops its copies, and the quads go on. -/
def execPromotionWritebackAck (core line : Nat) (s : State) : Out :=
  .next
    (match s.promoting core line with
     | [] => s
     | c :: cs =>
       let s := promoteLine s core line
       let s := (c :: cs).foldl (fun s c => acquireDrop s core line c) s
       { s with teams := s.teams.map fun t =>
           { t with waves := t.waves.map fun w =>
               if w.core = core then { w with quads := w.quads.map (·.promoted line) } else w } })

/-! ### The order of atomics -/

/-- The entry of an atomic or counter operation of a core's lanes or quads (R473). -/
def atomicOrder (core : Nat) (va : Word) : OrderOp :=
  { line := va.toNat / 128, cls := 3, out := 0, req := coreReq core 0, count := 1 }

/-- The home-slice operations among resolved places, with their order-log entries. -/
def orderOps (s : State) (core : Nat) (locs : List Loc) : List (Nat × OrderOp) :=
  locs.filterMap fun l =>
    match l with
    | .mem ((pa, _, va, _) :: _) =>
      if physKind pa = .hbm && !s.isPoisoned (lineOf pa) then some (pa, atomicOrder core va) else none
    | .mem [] => none
    | .scratch _ => none

/-- What an atomic at a place acquires; none for host memory. -/
def Loc.acqLine : Loc → Option AcqLine
  | .mem ((pa, _, va, e) :: _) =>
    match physKind pa with
    | .hbm => some { place := .line (lineOf pa), addr := va, cap := e.scope.toNat }
    | .sector _ _ => some { place := .remote, addr := va, cap := 4 }
    | .host _ | .unpopulated => none
  | .mem [] => none
  | .scratch off => some { place := .team, addr := scratchAddr off, cap := 4 }

/-- A quad notes an atomic for its next `fence.acq` (R370). -/
def Quad.noteAtomic (q : Quad) (a : Option AcqLine) : Quad :=
  match a with
  | some x =>
    if q.acqLines.any fun y => y.place == x.place then q else { q with acqLines := q.acqLines ++ [x] }
  | none => q

/-- Before an atomic of a quad that releases leaves for another device, the core writes its bound lines back: no
home slice of this device records the release, so that nothing promotes them later (R171, R178, R192;
notes/assumptions/78.md). -/
def State.beforeRemote (s : State) (g : GangRef) (n : Nat) (rel : Bool) : State :=
  if rel || (s.quadOf g n).relFence then writeBackBound s (s.coreOf g) (s.ctxOf g) else s

/-- After an atomic of a quad was performed at a place: the home slice notes a release, if it was one
(R178, R370), and the quad notes it for its next `fence.acq`. -/
def State.afterAtomic (s : State) (g : GangRef) (n : Nat) (rel : Bool) (l : Loc) : State :=
  let s := s.modQuad g.t g.w n (·.noteAtomic l.acqLine)
  match l.acqLine with
  | some { place := .line line, .. } =>
    if rel || (s.quadOf g n).relFence then recordRelease s (s.coreOf g) line else s
  | some { place := .remote, .. } => s
  | some { place := .team, .. } => s
  | none => s

end Sys2Proof.Machine
end

