-- ==== Sys2Proof/Machine/ScalarMem.lean ====
section
/-! DEFINITION. Scalar loads and stores, `dzero` and the scalar prefetches (R355, R357), and `jst` and
`jld` (R318). -/

namespace Sys2Proof.Machine

/-- The address of an SI form (R355). -/
def Quad.siAddr (q : Quad) (sa : SReg) (imm : BitVec 12) : Word := q.rs sa + sext imm

/-- A scalar access of each quad (R355): every quad, whatever its `em`. -/
def scalarAsks (s : State) (g : GangRef) (sa : SReg) (imm : BitVec 12) (len align : Nat) (need : Need) :
    List Ask :=
  (s.live g).map fun n =>
    { quad := n, lanes := 0xF, addr := (s.quadOf g n).siAddr sa imm, len := len, align := align
      need := need, spad := false }

/-- The form of a scalar load. -/
def scalarForm (s : State) (g : GangRef) (yield : Bool) : LoadForm :=
  { len := 1, cost := 1, src := 1, flag := scalarFlag (s.leader g).clause, yield := yield
    bank := false }

/-- A scalar load (R355). -/
def scalarLoad (sd sa : SReg) (imm : BitVec 12) (len : Nat) (signed yield : Bool) (s : State) : Out :=
  withGang s fun g =>
    gangLoad s g (scalarForm s g yield) ((scalarAsks s g sa imm len 1 .read).map fun a =>
      { ask := a, dest := .s sd.toNat, signed := signed })

/-- `sld.n64` (R355). -/
def execSldN64 (sd sa : SReg) (imm : BitVec 12) (s : State) : Out := scalarLoad sd sa imm 8 false false s
/-- `sld.n32` (R355). -/
def execSldN32 (sd sa : SReg) (imm : BitVec 12) (s : State) : Out := scalarLoad sd sa imm 4 false false s
/-- `sld.i32` (R355). -/
def execSldI32 (sd sa : SReg) (imm : BitVec 12) (s : State) : Out := scalarLoad sd sa imm 4 true false s
/-- `sld.n64.yield` (R355, R143). -/
def execSldN64Yield (sd sa : SReg) (imm : BitVec 12) (s : State) : Out :=
  scalarLoad sd sa imm 8 false true s

/-- Stores that have passed their checks, one after another: the quad of each, its place and its
bytes. -/
def storeAll (s : State) (g : GangRef) (src : TrapSrc) : List (Nat × Loc × List Byte) → State
  | [] => s
  | (n, l, bs) :: rest =>
    storeAll (storeLoc s (s.coreOf g) (s.ctxOf g) g.t [(g.t, g.w, n)] src l bs) g src rest

/-- A scalar store of the low bytes of s[sd] in each quad (R355). -/
def scalarStore (sd sa : SReg) (imm : BitVec 12) (len : Nat) (s : State) : Out :=
  withGang s fun g =>
    let asks := scalarAsks s g sa imm len 1 .store
    s.checked g asks 1 fun s locs =>
      (storeAll s g 1 ((asks.zip locs).map fun (a, l) =>
        (a.quad, l, leBytes len ((s.quadOf g a.quad).rs sd).toNat))).retire g 1 1 .count

/-- `sst.n64` (R355). -/
def execSstN64 (sd sa : SReg) (imm : BitVec 12) (s : State) : Out := scalarStore sd sa imm 8 s
/-- `sst.n32` (R355). -/
def execSstN32 (sd sa : SReg) (imm : BitVec 12) (s : State) : Out := scalarStore sd sa imm 4 s

/-- Zeroes one line (R357, R159): the core discards its own copies first. -/
def zeroLine (s : State) (g : GangRef) (n : Nat) : Loc → State
  | .scratch off => s.scratchWrite g.t off (List.replicate 128 0) 1
  | .mem ps =>
    let core := s.coreOf g
    let c := s.ctxOf g
    match ps with
    | (pa, _, va, e) :: _ =>
      if physKind pa = .hbm then
        (s.modCore core fun k => (k.dropHeld c (va.toNat / 128)).dropClean c (va.toNat / 128)).homeZero c
          (lineOf pa) 1
      else writePiece s core c [(g.t, g.w, n)] 1 (pa, 128, va, e) (List.replicate 128 0)
    | [] => s

/-- `dzero` (R357). -/
def execDzero (sa : SReg) (imm : BitVec 12) (s : State) : Out :=
  withGang s fun g =>
    let asks := scalarAsks s g sa imm 128 128 .store
    s.checked g asks 1 fun s locs =>
      ((asks.zip locs).foldl (fun s (a, l) => zeroLine s g a.quad l) s).retire g 1 1 .count

/-- Fetches the line at an address into L2, and into the L1 when `l1` is true (R357). It raises no
fault; when translation fails, or the line is poisoned, it does nothing. -/
def prefetch (s : State) (core : Nat) (c : BitVec 6) (l1 : Bool) (va : Word) : State :=
  if inScratchWindow va then s
  else
    match translate s core c va .read with
    | (s, .error _) => s
    | (s, .ok (pa, e)) =>
      if physKind pa = .hbm && !s.isPoisoned (lineOf pa) then
        if l1 then fillClean s core c va pa e else s.touchLine (lineOf pa) c
      else s

/-- A scalar prefetch of each quad (R357). -/
def scalarPrefetch (sa : SReg) (imm : BitVec 12) (l1 : Bool) (s : State) : Out :=
  withGang s fun g =>
    ((s.live g).foldl (fun s n =>
      prefetch s (s.coreOf g) (s.ctxOf g) l1 ((s.quadOf g n).siAddr sa imm)) s).retire g 1 1 .count

/-- `spf.l2` (R357). -/
def execSpfL2 (sa : SReg) (imm : BitVec 12) (s : State) : Out := scalarPrefetch sa imm false s
/-- `spf.l1` (R357). -/
def execSpfL1 (sa : SReg) (imm : BitVec 12) (s : State) : Out := scalarPrefetch sa imm true s

/-! ### Join images -/

/-- The byte of a join image that each quad reads or writes (R318): the image is 16-byte aligned. -/
def joinAsks (s : State) (g : GangRef) (o : LaneOp) (off : BitVec 32) (need : Need) : List Ask :=
  (s.live g).map fun n =>
    let a := (s.quadOf g n).rsN o.va.toNat + sext off
    let aligned := a.toNat % 16 = 0
    { quad := n, lanes := 0xF, addr := if aligned then a + BitVec.ofNat 64 n else a, len := 1
      align := if aligned then 1 else 16, need := need, spad := false }

/-- `jst` (R318). -/
def execJst (o : LaneOp) (off : BitVec 32) (s : State) : Out :=
  laneStep s o [.j o.vd, .s o.va] fun _ s g =>
    let asks := joinAsks s g o off .store
    s.checked g asks 0 fun s locs =>
      (storeAll s g 0 ((asks.zip locs).map fun (a, l) =>
        (a.quad, l, [(s.quadOf g a.quad).join o.vd.toNat]))).retire g 3 (cycles32 g) .count

/-- `jld` (R318): long-latency, into the slices of the gang's quads. -/
def execJld (o : LaneOp) (off : BitVec 32) (s : State) : Out :=
  laneStep s o [.j o.vd, .s o.va] fun flag s g =>
    gangLoad s g { len := 3, cost := cycles32 g, src := 0, flag := flag, yield := false, bank := false }
      ((joinAsks s g o off .read).map fun a =>
        { ask := a, dest := .j o.vd.toNat, signed := false })

end Sys2Proof.Machine
end

