-- ==== Sys2Proof/Machine/VectorMem.lean ====
section
/-! DEFINITION. Vector and scratchpad loads and stores and the vector prefetch (R358 to R363). -/

namespace Sys2Proof.Machine

/-- The bytes of a memory type (R360). -/
def memBytes (t : ElemTy) : Nat := t.bits / 8

/-- i8 and i16 extend their sign on load (R360). -/
def signedLoad (t : ElemTy) : Bool := t == .i8 || t == .i16

/-- The accesses of the active lanes, ascending (R359, R361). -/
def laneAsks (s : State) (g : GangRef) (o : LaneOp) (m : MemMods) (len align : Nat) (need : Need) :
    List Ask :=
  (s.activeLanes g o).map fun (n, i) =>
    { quad := n, lanes := laneBit i, addr := (s.quadOf g n).laneAddr o m i, len := len
      align := align, need := need, spad := false }

/-- The accesses of the active lanes of a scratchpad form (R351, R359). -/
def scratchAsks (s : State) (g : GangRef) (o : LaneOp) (m : MemMods) (len : Nat) (need : Need) :
    List Ask :=
  (s.activeLanes g o).map fun (n, i) =>
    { quad := n, lanes := laneBit i, addr := (s.quadOf g n).scratchLaneAddr o m i, len := len
      align := 1, need := need, spad := true }

/-- A vector load from given addresses (R361). -/
def vectorLoad (s : State) (g : GangRef) (o : LaneOp) (t : ElemTy) (flag : Option (BitVec 4))
    (yield : Bool) (asks : List Ask) : State :=
  gangLoad s g { len := 3, cost := cycles32 g, src := 0, flag := flag, yield := yield, bank := true }
    ((asks.zip (s.activeLanes g o)).map fun (a, _, i) =>
      { ask := a, dest := .v i o.vd.toNat (regsOf t), signed := signedLoad t })

/-- A vector store to given addresses: lanes ascending, so that the highest-numbered lane of a quad
decides a common byte (R168, R361). -/
def vectorStore (s : State) (g : GangRef) (o : LaneOp) (t : ElemTy) (asks : List Ask) : State :=
  s.checked g asks 0 fun s locs =>
    let s := s.bankCount g (scratchOf asks locs)
    (storeAll s g 0 (((asks.zip locs).zip (s.activeLanes g o)).map fun ((a, l), n, i) =>
      (a.quad, l,
        leBytes (memBytes t) (((s.quadOf g n).lane i).read o.vc.toNat (regsOf t))))).retire g 3
      (cycles32 g) .count

/-- `vld` (R361). -/
def execVld (o : LaneOp) (ty : ElemTy) (m : MemMods) (s : State) : Out :=
  laneStep s o (.ty o.vd ty :: addrOpnds o m) fun flag s g =>
    vectorLoad s g o ty flag m.yield (laneAsks s g o m (memBytes ty) 1 .read)

/-- `vst` (R361). -/
def execVst (o : LaneOp) (ty : ElemTy) (m : MemMods) (s : State) : Out :=
  laneStep s o (.ty o.vc ty :: addrOpnds o m) fun _ s g =>
    vectorStore s g o ty (laneAsks s g o m (memBytes ty) 1 .store)

/-- `vlds` (R361). -/
def execVlds (o : LaneOp) (ty : ElemTy) (m : MemMods) (s : State) : Out :=
  laneStep s o [.ty o.vd ty, .one o.va] fun flag s g =>
    vectorLoad s g o ty flag false (scratchAsks s g o m (memBytes ty) .read)

/-- `vsts` (R361). -/
def execVsts (o : LaneOp) (ty : ElemTy) (m : MemMods) (s : State) : Out :=
  laneStep s o [.ty o.vc ty, .one o.va] fun _ s g =>
    vectorStore s g o ty (scratchAsks s g o m (memBytes ty) .store)

/-- `vpf` (R361). -/
def execVpf (o : LaneOp) (m : MemMods) (s : State) : Out :=
  laneStep s o (addrOpnds o m) fun _ s g =>
    ((s.activeLanes g o).foldl (fun s (n, i) =>
      prefetch s (s.coreOf g) (s.ctxOf g) true ((s.quadOf g n).laneAddr o m i)) s).retire g 3
      (cycles32 g) .count

end Sys2Proof.Machine
end

