-- ==== Sys2Proof/Machine/Atomic.lean ====
section
/-! DEFINITION. Returning atomics: `satom` (R356), `vatom` (R364) and `vappend` (R347, R348). -/

namespace Sys2Proof

/-- The new memory value of an atomic of `w` bytes (R356, R364). -/
def AtomOp.apply (op : AtomOp) (w m b expected : Nat) : Nat :=
  let n := 8 * w
  let less : Bool := decide (Machine.toSigned n m < Machine.toSigned n b)
  match op with
  | .add => (m + b) % 2 ^ n
  | .swap => b % 2 ^ n
  | .and => m &&& b
  | .or => (m ||| b) % 2 ^ n
  | .xor => (m ^^^ b) % 2 ^ n
  | .minS => if less then m else b % 2 ^ n
  | .minN => if m < b then m else b % 2 ^ n
  | .maxS => if less then b % 2 ^ n else m
  | .maxN => if m < b then b % 2 ^ n else m
  | .cas => if m = expected then b % 2 ^ n else m

/-- The ordering releases (R169). -/
def MemOrd.releases : MemOrd → Bool
  | .rel | .ar => true
  | .none | .acq => false

/-- The ordering acquires (R169). -/
def MemOrd.acquires : MemOrd → Bool
  | .acq | .ar => true
  | .none | .rel => false

end Sys2Proof

namespace Sys2Proof.Machine

/-- Where the old value of an atomic goes: the quad, the lanes its fault names, the register, and what
is added to it. -/
structure AtomDest where
  quad : Nat
  lanes : BitVec 4
  dest : Dest
  plus : Nat
  deriving DecidableEq, Repr

/-- One atomic of an instruction. `more` are further checks of the same address, for other quads
(R348). -/
structure AtomReq where
  ask : Ask
  more : List Ask
  dests : List AtomDest
  op : AtomOp
  operand : Nat
  expected : Nat
  /-- A counter read (R367), which writes nothing. -/
  get : Bool
  deriving DecidableEq, Repr

/-- Performs one atomic at its place (R174, R351, R356, R364): its old value, for the given loads of a
pend. Of host memory the model takes a free old value and sends the new one. -/
def atomAt (s : State) (g : GangRef) (src : TrapSrc) (ord : MemOrd) (pend : Nat)
    (targets : List (Nat × Nat × Nat)) (a : AtomReq) : Loc → State × Got
  | .scratch off =>
    let old := (s.teamOf g).scratch.read off a.ask.len
    let new := a.op.apply a.ask.len (leNat old) a.operand a.expected
    (if a.get then s else s.scratchWrite g.t off (leBytes a.ask.len new) src,
      { bytes := old, fault := none, reqs := [] })
  | .mem [] => (s, { bytes := [], fault := none, reqs := [] })
  | .mem ((pa, n, va, e) :: _) =>
    let core := s.coreOf g
    let c := s.ctxOf g
    let blank : List Byte := List.replicate n 0
    match physKind pa with
    | .hbm =>
      let s := flushLine s core c va
      if s.isPoisoned (lineOf pa) then
        (s.logAt g 0x0006 src 0 va, { bytes := blank, fault := some va, reqs := [] })
      else
        let old := s.mem.read pa n
        let new := a.op.apply n (leNat old) a.operand a.expected
        ((if a.get then s.dirtyLine (lineOf pa) c else s.homeWrite c pa (leBytes n new) src).lowAs pa e.low,
          { bytes := old, fault := none, reqs := [] })
    | .host _ =>
      match hostBytes s n with
      | (s, old) =>
        let new := a.op.apply n (leNat old) a.operand a.expected
        (writePiece s core c [(g.t, g.w, a.ask.quad)] src (pa, n, va, e) (leBytes n new),
          { bytes := old, fault := none, reqs := [] })
    | .sector w off =>
      let kind : RemoteKind :=
        if a.get then .get ord.acquires
        else .atomic a.op (n == 8) (BitVec.ofNat 64 a.operand) (BitVec.ofNat 64 a.expected)
          (ord.releases || (s.quadOf g a.ask.quad).relFence) ord.acquires
      let s := s.beforeRemote g a.ask.quad ord.releases
      match sendRemote s c w off (.load g.t g.w pend targets) va kind with
      | (s, some r) => (s, { bytes := blank, fault := none, reqs := [r] })
      | (s, none) => (s.logAt g 0x0006 7 0 va, { bytes := blank, fault := some va, reqs := [] })
    | .unpopulated => (s, { bytes := blank, fault := none, reqs := [] })

/-- Every destination of an atomic takes what it gave. -/
def takeOld (flag : Option (BitVec 4)) (x : Got) :
    List AtomDest → List (Nat × Later) → List (Nat × Later)
  | [], ls => ls
  | d :: ds, ls =>
    takeOld flag x ds
      (assocSet ls d.quad ((lookupD ls d.quad Later.empty).take flag d.lanes d.dest false d.plus x))

/-- The atomics of an instruction, one after another (R98, R364). -/
def atomAll (s : State) (g : GangRef) (src : TrapSrc) (ord : MemOrd) (pend : Nat)
    (flag : Option (BitVec 4)) :
    List (Nat × Later) → List (AtomReq × Loc) → State × List (Nat × Later)
  | ls, [] => (s, ls)
  | ls, (a, loc) :: rest =>
    let targets := a.dests.map fun d => (d.quad, (lookupD ls d.quad Later.empty).loads.length, 0)
    match atomAt s g src ord pend targets a loc with
    | (s, x) =>
      let s := (sortNats (a.dests.map (·.quad))).foldl (fun s n => s.afterAtomic g n ord.releases loc) s
      atomAll s g src ord pend flag (takeOld flag x a.dests ls) rest

/-- The acquires of an instruction's atomics. -/
def acquiresOf (items : List (AtomReq × Loc)) : List Acquire :=
  items.flatMap fun (a, loc) =>
    match loc.acqLine with
    | some l => a.dests.map fun d => { quad := d.quad, lanes := d.lanes, at_ := l }
    | none => []

/-- A gang's returning atomics, after the checks (R353): the release steps first, then the scope test
of R181, then the atomics, then the acquire. -/
def atomBody (s : State) (g : GangRef) (x : LoadForm) (ord : MemOrd) (reqs : List AtomReq)
    (locs : List Loc) : State :=
  let items := reqs.zip locs
  s.maybeReleasing g ord.releases x.src fun s =>
    s.scopeChecked g (if ord.acquires then acquiresOf items else []) x.src fun s =>
      match s.orderAll (s.ctxOf g) (orderOps s (s.coreOf g) (items.map (·.2))) with
      | .error s => s
      | .ok s =>
        let s := if x.bank then s.bankCount g (scratchOf (reqs.map (·.ask)) locs) else s
        let id := s.nextId
        match atomAll s.bumpId g x.src ord id x.flag [] items with
        | (s, ls) =>
          let s := s.issueLong g x.len x.cost id x.flag fun n => lookupD ls n Later.empty
          if ord.acquires then
            s.acquire g.t g.w (s.live g) ((acquiresOf items).map (·.at_))
          else s

/-- A gang's returning atomics (R276, R353). -/
def gangAtomic (s : State) (g : GangRef) (x : LoadForm) (ord : MemOrd) (reqs : List AtomReq) : State :=
  if flagFull s g x.flag then s.hold g .structural
  else s.checked g (reqs.map (·.ask)) x.src fun s locs => atomBody s g x ord reqs locs

/-- A gang's returning atomics, whose lowest failing address TRAPINFO carries (R348). -/
def gangAtomicLow (s : State) (g : GangRef) (x : LoadForm) (reqs : List AtomReq) : State :=
  if flagFull s g x.flag then s.hold g .structural
  else s.checkedLow g (reqs.map (·.ask) ++ reqs.flatMap (·.more)) x.src fun s locs =>
    atomBody s g x .none reqs (locs.take reqs.length)

/-! ### `satom` -/

/-- `satom` of an operation (R356). -/
def satomStep (op : AtomOp) (sd sa sb : SReg) (ord : MemOrd) (s : State) : Out :=
  withGang s fun g =>
    gangAtomic s g (scalarForm s g false) ord ((s.live g).map fun n =>
      let q := s.quadOf g n
      { ask := { quad := n, lanes := 0xF, addr := q.rs sa, len := 8, align := 8, need := .store
                 spad := false }
        more := []
        dests := [{ quad := n, lanes := 0xF, dest := .s sd.toNat, plus := 0 }]
        op := op, operand := (q.rs sb).toNat, expected := (q.rs sd).toNat, get := false })

/-- `satom.add` (R356). -/
def execSatomAdd (sd sa sb : SReg) (ord : MemOrd) (s : State) : Out := satomStep .add sd sa sb ord s
/-- `satom.swap` (R356). -/
def execSatomSwap (sd sa sb : SReg) (ord : MemOrd) (s : State) : Out := satomStep .swap sd sa sb ord s
/-- `satom.and` (R356). -/
def execSatomAnd (sd sa sb : SReg) (ord : MemOrd) (s : State) : Out := satomStep .and sd sa sb ord s
/-- `satom.or` (R356). -/
def execSatomOr (sd sa sb : SReg) (ord : MemOrd) (s : State) : Out := satomStep .or sd sa sb ord s
/-- `satom.xor` (R356). -/
def execSatomXor (sd sa sb : SReg) (ord : MemOrd) (s : State) : Out := satomStep .xor sd sa sb ord s
/-- `satom.min.i64` (R356). -/
def execSatomMinI64 (sd sa sb : SReg) (ord : MemOrd) (s : State) : Out := satomStep .minS sd sa sb ord s
/-- `satom.min.n64` (R356). -/
def execSatomMinN64 (sd sa sb : SReg) (ord : MemOrd) (s : State) : Out := satomStep .minN sd sa sb ord s
/-- `satom.max.i64` (R356). -/
def execSatomMaxI64 (sd sa sb : SReg) (ord : MemOrd) (s : State) : Out := satomStep .maxS sd sa sb ord s
/-- `satom.max.n64` (R356). -/
def execSatomMaxN64 (sd sa sb : SReg) (ord : MemOrd) (s : State) : Out := satomStep .maxN sd sa sb ord s
/-- `satom.cas` (R356). -/
def execSatomCas (sd sa sb : SReg) (ord : MemOrd) (s : State) : Out := satomStep .cas sd sa sb ord s

/-! ### `vatom` -/

/-- `vatom` of an operation (R364). -/
def vatomStep (op : AtomOp) (o : LaneOp) (ty : ElemTy) (m : MemMods) (s : State) : Out :=
  let w := memBytes ty
  laneStep s o (.ty o.vd ty :: .ty o.vc ty :: addrOpnds o m) fun flag s g =>
    gangAtomic s g
      { len := 3, cost := cycles32 g, src := 0, flag := flag, yield := false, bank := true } m.ord
      ((s.activeLanes g o).map fun (n, i) =>
        let q := s.quadOf g n
        let l := q.lane i
        { ask := { quad := n, lanes := laneBit i, addr := q.laneAddr o m i, len := w, align := w
                   need := .store, spad := false }
          more := []
          dests := [{ quad := n, lanes := laneBit i, dest := .v i o.vd.toNat (regsOf ty), plus := 0 }]
          op := op
          operand := l.read o.vc.toNat (regsOf ty)
          expected := l.read o.vd.toNat (regsOf ty)
          get := false })

/-- `vatom.add` (R364). -/
def execVatomAdd (o : LaneOp) (ty : ElemTy) (m : MemMods) (s : State) : Out := vatomStep .add o ty m s
/-- `vatom.swap` (R364). -/
def execVatomSwap (o : LaneOp) (ty : ElemTy) (m : MemMods) (s : State) : Out := vatomStep .swap o ty m s
/-- `vatom.and` (R364). -/
def execVatomAnd (o : LaneOp) (ty : ElemTy) (m : MemMods) (s : State) : Out := vatomStep .and o ty m s
/-- `vatom.or` (R364). -/
def execVatomOr (o : LaneOp) (ty : ElemTy) (m : MemMods) (s : State) : Out := vatomStep .or o ty m s
/-- `vatom.xor` (R364). -/
def execVatomXor (o : LaneOp) (ty : ElemTy) (m : MemMods) (s : State) : Out := vatomStep .xor o ty m s
/-- `vatom.min` (R364): signed or unsigned per type. -/
def execVatomMin (o : LaneOp) (ty : ElemTy) (m : MemMods) (s : State) : Out :=
  vatomStep (if ty.isSigned then .minS else .minN) o ty m s
/-- `vatom.max` (R364): signed or unsigned per type. -/
def execVatomMax (o : LaneOp) (ty : ElemTy) (m : MemMods) (s : State) : Out :=
  vatomStep (if ty.isSigned then .maxS else .maxN) o ty m s
/-- `vatom.cas` (R364). -/
def execVatomCas (o : LaneOp) (ty : ElemTy) (m : MemMods) (s : State) : Out := vatomStep .cas o ty m s

/-! ### `vappend` -/

/-- The appending lanes of a span (R347): quad and lane, ascending. -/
def appenders (s : State) (g : GangRef) (o : LaneOp) (base : Nat) (w : Nat) : List (Nat × Nat) :=
  (s.activeLanes g o).filter fun (n, i) =>
    decide (base ≤ n) && decide (n < base + 2 ^ w) && ((s.quadOf g n).lane i).rp o.va.toNat

/-- The request of one span (R347); none when no lane of it appends. -/
def appendReq (s : State) (g : GangRef) (o : LaneOp) (off : BitVec 32) (w base : Nat) : List AtomReq :=
  let p := appenders s g o base w
  match p with
  | [] => []
  | (q0, _) :: _ =>
    let a := (s.quadOf g q0).rsN o.vb.toNat + sext off
    let ask (n : Nat) : Ask :=
      { quad := n
        lanes := (p.filter fun x => x.1 == n).foldl (fun m x => m ||| laneBit x.2) 0
        addr := a, len := 4, align := 4, need := .store, spad := false }
    [{ ask := ask q0
       more := ((sortNats (p.map (·.1))).filter (· != q0)).map ask
       dests := (p.zip (upTo p.length)).map fun ((n, i), rank) =>
         { quad := n, lanes := laneBit i, dest := .v i o.vd.toNat 1, plus := rank }
       op := .add, operand := p.length, expected := 0, get := false }]

/-- `vappend` (R347, R348). -/
def execVappend (o : LaneOp) (off : BitVec 32) (s : State) : Out :=
  laneStep s o [.one o.vd, .p o.va, .s o.vb] fun flag s g =>
    let w := min o.minw.toNat (s.teamOf g).kernel.lgwave
    let bases := (upTo (2 ^ g.lg / 2 ^ w)).map fun i => g.base + i * 2 ^ w
    gangAtomicLow s g
      { len := 3, cost := 2 * cycles32 g, src := 0, flag := flag, yield := false, bank := false }
      (bases.flatMap (appendReq s g o off w))

end Sys2Proof.Machine
end

