-- ==== Sys2Proof/Machine/Accum.lean ====
section
/-! DEFINITION. `vacc` and `rflush` (R365, R366), and what happens to accumulates: arrival at the home
slice, refusal, windows and the end of a drain (R198 to R213). -/

namespace Sys2Proof.Machine

/-! ### `vacc` -/

/-- The addends of one `vacc` that name one address, combined (R198): the quad of the lowest lane, every quad with a
lane among them, the place, the value and the number of lanes. -/
structure Addend where
  quad : Nat
  quads : List Nat
  addr : Word
  loc : Loc
  value : Nat
  count : Nat
  deriving DecidableEq, Repr

/-- Folds one lane's addend into those of the lower lanes (R198). -/
def addAddend (ty : AccTy) (op : AccOp) (x : Addend) : List Addend → List Addend
  | [] => [x]
  | y :: ys =>
    if y.addr = x.addr then
      { y with value := accCombine ty op y.value x.value, count := y.count + x.count, quads := y.quads ++ x.quads } :: ys
    else y :: addAddend ty op x ys

/-- The place is memory outside the core: the accumulate is outstanding once it has left (R199). -/
def Loc.leaves : Loc → Bool
  | .mem ((pa, _, _, _) :: _) =>
    match physKind pa with
    | .hbm => true
    | .sector _ _ => true
    | .host _ => false
    | .unpopulated => false
  | .mem [] => false
  | .scratch _ => false

/-- A residual of the tile rides with an outgoing addend (R208): what leaves, and the oldest
accumulate in it. An entry that breaks R205 is discarded. -/
def State.ride (s : State) (t : Nat) (r : Residual) (id : Nat) : State × Residual × Nat :=
  let x := s.team t
  let i := tileIndex x.kernel r.addr
  if x.kernel.rtn = 0 then (s, r, id)
  else
    match tileEntry x i with
    | some y =>
      if y.sameAs r then (s.clearTile t i, y.combine r, min id (x.oldestIn i)) else (s, r, id)
    | none => (if tileValid x i then s.clearTile t i else s, r, id)

/-- One addend is performed in the core's scratchpad, or leaves the core (R199, R201, R208, R440). -/
def sendAddend (s : State) (g : GangRef) (ty : AccTy) (op : AccOp) (x : Addend) : State :=
  let core := s.coreOf g
  let c := s.ctxOf g
  match x.loc with
  | .scratch off =>
    let old := leNat ((s.teamOf g).scratch.read off ty.width)
    s.scratchWrite g.t off (leBytes ty.width (accCombine ty op old x.value)) 0
  | .mem [] => s
  | .mem ((pa, _, va, e) :: _) =>
    let s := if physKind pa = .hbm then flushLine s core c va else s
    let id := s.nextId
    let mine : Residual :=
      { addr := va, op := op, ty := ty, value := BitVec.ofNat 128 x.value, count := x.count }
    match s.bumpId.ride g.t mine id with
    | (s, r, oldest) =>
      let s := x.quads.eraseDups.foldl (fun s n => s.modQuad g.t g.w n (·.noteAtomic x.loc.acqLine)) s
      s.sendTo
        { id := id, oldest := oldest, ctx := c, core := core, team := g.t, wave := g.w
          quad := x.quad, addr := va, pa := pa, op := op, ty := ty, value := r.value
          count := r.count
          cls := if (s.teamOf g).kernel.rtn = 0 then .unrefusable else .refusable
          phase := .flight, rel := (s.quadOf g x.quad).relFence, walk := none, seq := 0, low := e.low } e

/-- `vacc` of an operation (R365): its lanes are combined and sent. -/
def vaccStep (op : AccOp) (o : LaneOp) (ty : AccTy) (m : MemMods) (s : State) : Out :=
  let regs := ty.width / 4
  laneStep s o (.v o.vc regs regs :: addrOpnds o m) fun _ s g =>
    let asks := laneAsks s g o m ty.width ty.width .store
    s.checked g asks 0 fun s locs =>
      let xs := ((asks.zip locs).zip (s.activeLanes g o)).foldl (fun xs ((a, l), n, i) =>
        addAddend ty op
          { quad := n, quads := [n], addr := a.addr, loc := l
            value := ((s.quadOf g n).lane i).read o.vc.toNat regs, count := 1 } xs) []
      let leaving := (xs.filter fun x => x.loc.leaves).length
      if 64 < s.outstanding (s.coreOf g) + leaving then s.hold g .structural
      else if xs.any fun x => s.refusalOut g.t x.addr then s
      else
        let s := s.bankCount g (scratchOf asks locs)
        (xs.foldl (fun s x => sendAddend s g ty op x) s).retire g 3 (cycles32 g) .count

/-- `vacc.add` (R365). -/
def execVaccAdd (o : LaneOp) (ty : AccTy) (m : MemMods) (s : State) : Out := vaccStep .add o ty m s
/-- `vacc.min` (R365). -/
def execVaccMin (o : LaneOp) (ty : AccTy) (m : MemMods) (s : State) : Out := vaccStep .min o ty m s
/-- `vacc.max` (R365). -/
def execVaccMax (o : LaneOp) (ty : AccTy) (m : MemMods) (s : State) : Out := vaccStep .max o ty m s

/-- `rflush` (R366): a drain, which the gang waits for. -/
def execRflush (o : LaneOp) (s : State) : Out :=
  laneStep s o [] fun _ s g =>
    s.atDrainPoint g 0 fun s => s.drained g 0 fun s => s.retire g 3 (cycles32 g) .count

/-! ### At the home slice -/

/-- The accumulates performed on a line in the current window (R200). -/
def State.lineCount (s : State) (line : Nat) : Nat :=
  let y := s.sliceAt (homeSlice (line * 128))
  if y.window = s.clk / 256 then lookupD y.counts line 0 else 0

/-- One more accumulate was performed on a line (R200). -/
def State.countLine (s : State) (line : Nat) : State :=
  let n := s.lineCount line
  s.modSlice (homeSlice (line * 128)) fun y =>
    { y with
      window := s.clk / 256
      counts := assocSet (if y.window = s.clk / 256 then y.counts else []) line (n + 1) }

/-- The class codes of R473. -/
def AccClass.code : AccClass → Nat
  | .refusable => 0
  | .unrefusable => 1
  | .forced => 2

/-- The log source of an accumulate: lane, or walk (R47). -/
def Acc.source (a : Acc) : Nat := if a.walk.isSome then 3 else 0

/-- The order-log entry of an accumulate (R216, R473). -/
def Acc.order (a : Acc) (out : Nat) : OrderOp :=
  { line := a.addr.toNat / 128, cls := a.cls.code, out := out
    req := coreReq a.core (if a.walk.isSome then 2 else 0), count := a.count }

/-- The accumulate is no longer outstanding (R199): its core's stalled gangs and drains go on. -/
def State.dropAcc (s : State) (a : Acc) : State :=
  ((({ s with accs := s.accs.filter fun x => x.id != a.id } : State).wake a.core).pumpCore
    a.core).pumpCore (s.team a.team).core

/-- An accumulate is performed at its home slice (R200, R216, R217), and its core drops a copy of the line that it has
filled meanwhile (R173, R190); one that finds its line poisoned is discarded (R212). -/
def State.performAcc (s : State) (a : Acc) : State :=
  let line := lineOf a.pa
  let s := s.modCore a.core (·.dropClean a.ctx (a.addr.toNat / 128))
  if s.isPoisoned line then
    ((s.logFor a.ctx [(a.team, a.wave, a.quad)] 0x0006 a.source a.addr).deferWave a.team a.wave a.quad
      a.addr).dropAcc a
  else
    let s := s.recordOrder a.ctx a.pa (a.order 0)
    let w := a.ty.width
    let new := accCombine a.ty a.op (leNat (s.mem.read a.pa w)) a.value.toNat
    let s := ((s.homeWrite a.ctx a.pa (leBytes w new) a.source).lowAs a.pa a.low).countLine line
    (if a.rel then recordRelease s a.core line else s).dropAcc a

/-- The home slice refuses an accumulate (R203). -/
def State.refuseAcc (s : State) (a : Acc) : State :=
  { s with accs := s.accs.map fun x => if x.id = a.id then { x with phase := .returning } else x }

/-- The accumulate takes the next entry of the slice's accumulate queue (R202). -/
def State.queueAcc (s : State) (a : Acc) : State :=
  { s.bumpId with
    accs := s.accs.map fun x => if x.id = a.id then { x with phase := .queued, seq := s.nextId } else x }

/-- The entries that the accumulate queue of a slice holds (R202). -/
def State.queueHeld (s : State) (slice : Nat) : Nat :=
  (s.accs.filter fun a => decide (a.phase = .queued) && homeSlice a.pa == slice).length +
    (s.portAccs.filter fun a => a.queued && homeSlice a.pa == slice).length

/-- Entries of the accumulate queue that an accumulate of a class may take (R202): 16 of the 64 are reserved for forced
deliveries. -/
def AccClass.room : AccClass → Nat
  | .refusable | .unrefusable => 48
  | .forced => 64

/-- R201 and R202 on arrival. One that finds no entry waits at the slice's input. -/
def State.acceptAcc (s : State) (a : Acc) : State :=
  let held := s.queueHeld (homeSlice a.pa)
  match a.cls with
  | .refusable =>
    if decide ((s.ctx a.ctx).acc.toNat ≤ s.lineCount (lineOf a.pa)) || decide (a.cls.room ≤ held) then
      (s.recordOrder a.ctx a.pa (a.order 1)).refuseAcc a
    else s.queueAcc a
  | .unrefusable | .forced => if a.cls.room ≤ held then s else s.queueAcc a

/-- An arrival in a replay (R475, R476): the next of its line is refused where its entry says so, else takes an entry of
the queue, in whose order accumulates of a line are performed; one that is not next, or finds no entry, waits. -/
def State.replayAcc (s : State) (a : Acc) : State :=
  match replayGate s a.ctx a.pa (a.order 0) with
  | .wait => s.noteWait a.ctx a.pa (a.order 0)
  | .next i out =>
    if out = 1 ∧ a.cls = .refusable then (s.useEntry a.ctx a.pa (a.order 0) i).refuseAcc a
    else if a.cls.room ≤ s.queueHeld (homeSlice a.pa) then s
    else (s.useEntry a.ctx a.pa (a.order 0) i).queueAcc a
  | .diverge => (s.diverge a.ctx).acceptAcc a
  | .free => s.acceptAcc a

/-- `ACCUMULATE_ARRIVAL` (R201): in a replay the log decides (R475). The event names the occupancy of the slice's queue
(R202) that the accumulate meets, and takes place while the queue holds as much. -/
def execAccumulateArrival (acc occupancy : Nat) (s : State) : Out :=
  .next
    (match s.accs.find? fun a => a.id == acc && decide (a.phase = .flight) with
     | none => s
     | some a =>
       if occupancy ≠ s.queueHeld (homeSlice a.pa) then s else s.replayAcc a)

/-- An accumulate of another device in a slice's queue was accepted before this one. -/
def State.portBefore (s : State) (line seq : Nat) : Bool :=
  s.portAccs.any fun a => a.queued && lineOf a.pa == line && decide (a.seq < seq)

/-- An accumulate of this device in a slice's queue was accepted before this one. -/
def State.accBefore (s : State) (line seq : Nat) : Bool :=
  s.accs.any fun a => decide (a.phase = .queued) && lineOf a.pa == line && decide (a.seq < seq)

/-- The accumulates of this device that the slices perform in a cycle: the first accepted of each line (R202, R475). -/
def State.firstAccs (s : State) : List Acc :=
  s.accs.filter fun a =>
    decide (a.phase = .queued) && !s.accBefore (lineOf a.pa) a.seq && !s.portBefore (lineOf a.pa) a.seq

/-- `ACCUMULATE_WINDOW_START` (R200): lines that were counted in an earlier window count 0. -/
def execAccumulateWindowStart (s : State) : Out :=
  .next { s with slices := s.slices.map fun y =>
    if y.window = s.clk / 256 then y else { y with window := s.clk / 256, counts := [] } }

/-- Overflow entries of a team that a replay has held are sent (R206, R475). -/
def State.sendHeld (s : State) (t : Nat) : State :=
  (s.accs.filter fun a => a.team == t && decide (a.phase = .overflow)).foldl (fun s a => s.sendOverflow a.id) s

/-- A refused addend is placed (R206). -/
def State.placeRefused (s : State) (a : Acc) : State :=
  let x := s.team a.team
  let i := tileIndex x.kernel a.addr
  match tileEntry x i with
  | none =>
    (s.setTile a.team i a.residual.bytes
      (some { idx := i, oldest := a.oldest, wave := a.wave, quad := a.quad })).dropAcc a
  | some y =>
    if y.sameAs a.residual then
      (s.setTile a.team i (y.combine a.residual).bytes
        (some { idx := i, oldest := min a.oldest (x.oldestIn i), wave := a.wave, quad := a.quad })).dropAcc a
    else
      (({ s with accs := s.accs.map fun z =>
          if z.id = a.id then { z with phase := .overflow } else z } : State).sendOverflow a.id)

/-- `REFUSAL_REPLY` (R206, R468): a refusal reaches its core. -/
def execRefusalReply (acc : Nat) (s : State) : Out :=
  .next
    (match s.accs.find? fun a => a.id == acc && decide (a.phase = .returning) with
     | none => s
     | some a =>
       let s := (s.stall a.core a.ctx 8 1).placeRefused a
       (if (s.ctx a.ctx).lnActive = 2 then s.sendHeld a.team else s).pumpCore a.core)

/-- A quad's drain has ended. -/
def Quad.drainEnds (q : Quad) (id : Nat) (r : DrainSt) : Quad :=
  match q.wait with
  | .drain n => if n = id then { q with wait := .ready, drainSt := r } else q
  | _ => q

/-- `DRAIN_COMPLETE` (R210, R211): every covered accumulate is performed, or what is left cannot be
delivered. -/
def execDrainComplete (team drain : Nat) (s : State) : Out :=
  .next
    (if (s.team team).drains.contains drain then
      let s := s.pumpDrain team drain
      if s.draining team drain then s
      else
        match s.drainResult team drain with
        | .idle => s
        | r => s.modTeam team fun t =>
            { t with waves := t.waves.map fun w =>
                { w with quads := w.quads.map (·.drainEnds drain r) } }
    else s)

end Sys2Proof.Machine
end

