-- ==== Sys2Proof/Machine/Counter.lean ====
section
/-! DEFINITION. Counters, waits, barriers, fences and `exit` (R123 to R138, R367 to R370, R310), and
the events that release a parked wait. -/

namespace Sys2Proof.Machine

/-- A counter access of a quad (R124). -/
def counterAsk (n : Nat) (addr : Word) (need : Need) : Ask :=
  { quad := n, lanes := 0xF, addr := addr, len := 8, align := 8, need := need, spad := false }

/-- A place of memory: its physical and virtual address, when it lies in HBM. -/
def Loc.hbm : Loc → Option (Nat × Word)
  | .mem ((pa, _, va, _) :: _) => if physKind pa = .hbm then some (pa, va) else none
  | .mem [] => none
  | .scratch _ => none

/-- The core's own held bytes of the lines of some places reach their home slices (R173). -/
def State.flushAll (s : State) (g : GangRef) (locs : List Loc) : State :=
  locs.foldl (fun s l =>
    match l.hbm with
    | some (_, va) => flushLine s (s.coreOf g) (s.ctxOf g) va
    | none => s) s

/-- A counter operation at these places that writes nothing uses their lines (R147, R159). -/
def State.useCounters (s : State) (c : BitVec 6) (locs : List Loc) : State :=
  locs.foldl (fun s l =>
    match l with
    | .mem ((pa, _, _, e) :: _) =>
      if physKind pa = .hbm && !s.isPoisoned (lineOf pa) then (s.dirtyLine (lineOf pa) c).lowAs pa e.low else s
    | .mem [] | .scratch _ => s) s

/-- The value of a counter of this device; `none` for one of another device (R123). -/
def State.counterAt (s : State) (t : Nat) : Loc → Option Word
  | .scratch off => some (s.scratchWord t off)
  | l => l.hbm.map fun (pa, _) => s.word pa

/-- The place lies on a poisoned line (R160). -/
def State.poisonAt (s : State) (l : Loc) : Bool :=
  match l.hbm with
  | some (pa, _) => s.isPoisoned (lineOf pa)
  | none => false

/-! ### `cadd` -/

/-- One add of a quad, which releases when `rel` says so (R125, R192, R354, R443); `none` when it would pass
2^64 - 1 (R127). -/
def addOne (s : State) (g : GangRef) (rel : Bool) (n : Nat) (addr addend : Word) (l : Loc) : Option State :=
  let c := s.ctxOf g
  let who := [(g.t, g.w, n)]
  if s.poisonAt l then some ((s.logFor c who 0x0006 1 addr).deferDrain who addr)
  else
    match s.counterAt g.t l with
    | some old =>
      if 2 ^ 64 ≤ old.toNat + addend.toNat then none
      else
        let bs := leBytes 8 (old + addend).toNat
        match l with
        | .scratch off => some (s.scratchWrite g.t off bs 1)
        | .mem ps =>
          match l.hbm, ps with
          | some (pa, _), (_, _, _, e) :: _ => some ((s.homeWrite c pa bs 1).lowAs pa e.low)
          | _, _ => some s
    | none =>
      match l with
      | .mem ((pa, _, va, _) :: _) =>
        match physKind pa with
        | .sector w off =>
          match sendRemote (s.beforeRemote g n rel) c w off (.store g.t g.w n) va
              (.add addend (rel || (s.quadOf g n).relFence)) with
          | (s, some _) => some s
          | (s, none) => some ((s.logFor c who 0x0006 7 va).deferDrain who va)
        | .hbm | .host _ | .unpopulated => some s
      | .mem [] => some s
      | .scratch _ => some s

/-- One counter add of an instruction. -/
structure AddReq where
  quad : Nat
  addr : Word
  addend : Word
  deriving DecidableEq, Repr

/-- The adds quad by quad, up to the first that overflows (R127): what is left with it. -/
def addAll (s : State) (g : GangRef) (rel : Bool) :
    List (AddReq × Loc) → State × List (AddReq × Loc)
  | [] => (s, [])
  | (a, l) :: rest =>
    match addOne s g rel a.quad a.addr a.addend l with
    | some s => addAll (s.afterAtomic g a.quad rel l) g rel rest
    | none => (s, (a, l) :: rest)

/-- Counter adds by every quad of a gang (R367, R371): the checks, the release, the adds in ascending
QUADID order, and the counter fault of R127. -/
def counterAdds (s : State) (g : GangRef) (rel : Bool) (mode : DogMode) (reqs : List AddReq) : State :=
  s.checked g (reqs.map fun a => counterAsk a.quad a.addr .counterAdd) 1 fun s locs =>
    s.maybeReleasing g rel 1 fun s =>
      let items := reqs.zip locs
      let s' := s.flushAll g locs
      let n := items.length - (addAll s' g rel items).2.length
      match s'.orderAll (s.ctxOf g) (orderOps s' (s.coreOf g) (locs.take n)) with
      | .error s => s
      | .ok s =>
        match addAll s g rel items with
        | (s, []) => s.retire g 1 1 mode
        | (s, (a, l) :: rest) =>
          let late := ((a, l) :: rest).map (·.1.quad)
          s.trap g .counterFault a.addr (fun n => if late.contains n then 0xF else 0) 1

/-- The adds of `cadd` in a gang. -/
def caddReqs (s : State) (g : GangRef) (sa sb : SReg) : List AddReq :=
  (s.live g).map fun n =>
    { quad := n, addr := (s.quadOf g n).rs sa, addend := (s.quadOf g n).rs sb }

/-- `cadd` (R367, R420). -/
def execCadd (sa sb : SReg) (s : State) : Out :=
  withGang s fun g => counterAdds s g false .reload (caddReqs s g sa sb)

/-- `cadd.rel` (R367, R178). -/
def execCaddRel (sa sb : SReg) (s : State) : Out :=
  withGang s fun g => counterAdds s g true .reload (caddReqs s g sa sb)

/-! ### `cget` -/

/-- `cget` with an ordering (R367). -/
def cgetStep (sd sa : SReg) (ord : MemOrd) (s : State) : Out :=
  withGang s fun g =>
    gangAtomic s g (scalarForm s g false) ord ((s.live g).map fun n =>
      { ask := counterAsk n ((s.quadOf g n).rs sa) .counterGet
        more := []
        dests := [{ quad := n, lanes := 0xF, dest := .s sd.toNat, plus := 0 }]
        op := .or, operand := 0, expected := 0, get := true })

/-- `cget` (R367). -/
def execCget (sd sa : SReg) (s : State) : Out := cgetStep sd sa .none s
/-- `cget.acq` (R367, R180). -/
def execCgetAcq (sd sa : SReg) (s : State) : Out := cgetStep sd sa .acq s

/-- `cget.team` (R367). -/
def execCgetTeam (sd : SReg) (s : State) : Out :=
  withGang s fun g =>
    let flag := scalarFlag (s.leader g).clause
    if flagFull s g flag then s.hold g .structural
    else
      let x := (s.teamOf g).counter
      s.bumpId.issueLong g 1 1 s.nextId flag fun _ => Later.ofWrites [.s sd.toNat x]

/-! ### Waits -/

/-- One counter wait of a quad. -/
structure WaitReq where
  ask : Ask
  target : Nat
  timeout : BitVec 32
  deriving DecidableEq, Repr

/-- What the quads of one wait instruction have in common: its kind, whether it acquires, its status
register. -/
structure WaitForm where
  kind : WaitKind
  acq : Bool
  st : Option (BitVec 6)
  deriving DecidableEq, Repr

/-- The place of a counter, as a parked wait holds it (R123). -/
def Loc.counterLoc : Loc → CounterLoc
  | .scratch off => .scratch off
  | .mem ((pa, _, _, _) :: _) =>
    match physKind pa with
    | .sector w off => .remote w off
    | .hbm | .host _ | .unpopulated => .hbm pa
  | .mem [] => .team

/-- The parked waits of a core that take an entry of its waiter table: gang, counter, target (R133). -/
def State.tableEntries (s : State) (core : Nat) : List (Nat × Word × Nat) :=
  (s.teams.flatMap fun t => t.waves.flatMap fun w =>
    if w.core = core ∧ t.resident then
      w.quads.filterMap fun q =>
        match q.wait with
        | .counter x => if x.spilled then none else some (x.tag, x.addr, x.target)
        | _ => none
    else []).foldl (fun l e => if l.contains e then l else e :: l) []

/-- The wait finds no free entry in its core's waiter table (R134). -/
def State.spills (s : State) (core tag : Nat) (addr : Word) (target : Nat) : Bool :=
  let l := s.tableEntries core
  !l.contains (tag, addr, target) && decide (64 ≤ l.length)

/-- The scope cap of the page a place lies on. -/
def Loc.cap (l : Loc) : Nat :=
  match l.acqLine with
  | some x => x.cap
  | none => 4

/-- Parks a quad in a counter wait (R128). A wait on another device's counter is sent to it (R142); one
that cannot leave is released with status 2 (R443). -/
def parkQuad (s : State) (g : GangRef) (f : WaitForm) (tag n : Nat) (addr : Word) (target : Nat)
    (timeout : BitVec 32) (l : Loc) : State :=
  let x : CWait :=
    { kind := f.kind, loc := l.counterLoc, addr := addr, target := target, timeout := timeout
      elapsed := 0, woken := 0, cap := l.cap, acq := f.acq, st := f.st, status := none
      spilled := s.spills (s.coreOf g) tag addr target, tag := tag, request := none
      cancelled := false }
  match x.loc with
  | .remote w off =>
    match sendRemote s (s.ctxOf g) w off (.wait g.t g.w n) addr
        (.wait target f.acq true) with
    | (s, some r) => s.modQuad g.t g.w n fun q => { q with wait := .counter { x with request := some r } }
    | (s, none) =>
      (s.logFor (s.ctxOf g) [(g.t, g.w, n)] 0x0006 7 addr).modQuad g.t g.w n
        fun q => { q with wait := .counter { x with status := some 2 } }
  | .hbm _ | .scratch _ | .team =>
    s.modQuad g.t g.w n fun q => { q with wait := .counter x }

/-- The counter holds at least the target (R128). -/
def State.reached (s : State) (t : Nat) (target : Nat) (l : Loc) : Bool :=
  match s.counterAt t l with
  | some v => decide (target ≤ v.toNat)
  | none => false

/-- A wait is satisfied at issue: by its counter's value (R128), or a `kwait.free` whose index lies below the number of
slots, wherever E is (R372). -/
def State.passes (s : State) (t : Nat) (k : WaitKind) (target : Nat) (l : Loc) : Bool :=
  (k == .kwaitFree && target == 0) || s.reached t target l

/-- A quad goes on past a satisfied wait: its status register receives the status (R130, R368). -/
def Quad.pastWait (q : Quad) (st : Option (BitVec 6)) (status : Word) : Quad :=
  { (match st with
     | some r => q.setS r status
     | none => q).advance 1 with wait := .ready }

/-- The wait of each quad of a gang (R128, R368): evaluated at issue, then the quad goes on or parks. -/
def waitAll (s : State) (g : GangRef) (f : WaitForm) (tag : Nat) : List (WaitReq × Loc) → State
  | [] => s
  | (a, l) :: rest =>
    let n := a.ask.quad
    let s :=
      if s.passes g.t f.kind a.target l then
        (s.modQuad g.t g.w n (·.pastWait f.st 0)).modQuad g.t g.w n (·.noteAtomic l.acqLine)
      else parkQuad s g f tag n a.ask.addr a.target a.timeout l
    waitAll s g f tag rest

/-- A counter wait by every quad of a gang (R368, R372): the checks, the scope test of the waits that
are satisfied at issue, then the waits. -/
def counterWait (s : State) (g : GangRef) (f : WaitForm) (reqs : List WaitReq) : State :=
  s.checked g (reqs.map (·.ask)) 1 fun s locs =>
    let s' := s.flushAll g locs
    let items := reqs.zip locs
    match items.filter fun x => s'.poisonAt x.2 with
    | (a, _) :: rest =>
      let bad := a.ask.quad :: rest.map (·.1.ask.quad)
      (s'.logAt g 0x0006 1 0 a.ask.addr).memTrap g
        { cause := .trans .poison, addr := a.ask.addr, tf := none }
        (fun n => if bad.contains n then 0xF else 0) 1
    | [] =>
      let now := items.filter fun x => s'.passes g.t f.kind x.1.target x.2
      let acquires : List Acquire := now.filterMap fun x =>
        x.2.acqLine.map fun l => { quad := x.1.ask.quad, lanes := 0xF, at_ := l }
      s'.scopeChecked g (if f.acq then acquires else []) 1 fun s' =>
        match s'.orderAll (s.ctxOf g) (orderOps s' (s.coreOf g) (now.map (·.2))) with
        | .error s => s
        | .ok s =>
          let s := s.useCounters (s.ctxOf g) locs
          let s := ((waitAll s.bumpId g f s.nextId items).account g 1 .count).regang g
          if f.acq then s.acquire g.t g.w (now.map (·.1.ask.quad)) (acquires.map (·.at_)) else s

/-- The waits of `cwait` in a gang (R368). -/
def cwaitReqs (s : State) (g : GangRef) (sa sb : SReg) : List WaitReq :=
  (s.live g).map fun n =>
    let q := s.quadOf g n
    { ask := counterAsk n (q.rs sa) .counterGet, target := (q.rs sb).toNat
      timeout := (q.rsN (sb.toNat + 1)).extractLsb' 0 32 }

/-- `cwait` (R368). -/
def execCwait (sa sb : SReg) (acq : Bool) (s : State) : Out :=
  withGang s fun g =>
    counterWait s g { kind := .cwait, acq := acq, st := none } (cwaitReqs s g sa sb)

/-- `cwait.st` (R368). -/
def execCwaitSt (sd sa sb : SReg) (acq : Bool) (s : State) : Out :=
  withGang s fun g =>
    counterWait s g { kind := .cwait, acq := acq, st := some sd } (cwaitReqs s g sa sb)

/-! ### Release of parked waits -/

/-- What a parked wait acquires at its release (R129). -/
def CWait.acqLine (x : CWait) : AcqLine :=
  { place :=
      match x.loc with
      | .hbm pa => .line (lineOf pa)
      | .scratch _ => .team
      | .team => .team
      | .remote _ _ => .remote
    addr := x.addr, cap := x.cap }

/-- A released quad leaves its wait (R129, R130, R181, R368): it goes on, or takes a trap before its
next issue. -/
def State.leaveWait (s : State) (t w n : Nat) : State :=
  match (s.quad t w n).wait with
  | .counter x =>
    match x.status with
    | none => s
    | some st =>
      let core := (s.wave t w).core
      let scope : Bool :=
        x.acq && (Acquire.fails s core { quad := n, lanes := 0xF, at_ := x.acqLine })
      if st = 0 then
        if scope then
          s.modQuad t w n fun q =>
            { q with wait := .ready, waitTrap := some (.trans .scope, lineAddr x.addr) }
        else
          s.modQuad t w n fun q => (q.pastWait x.st 0).noteAtomic (some x.acqLine)
      else
        match x.st with
        | some r => s.modQuad t w n (·.pastWait (some r) (zext st))
        | none =>
          let cause : TrapCause := if st = 1 then .counterTimeout else .counterRegression
          s.modQuad t w n fun q => { q with wait := .ready, waitTrap := some (cause, x.addr) }
  | _ => s

/-- The wait that a quad is parked in. -/
def Quad.cwait? (q : Quad) : Option CWait :=
  match q.wait with
  | .counter x => some x
  | _ => none

/-- The quad is parked by this gang's instruction. -/
def Quad.parkedWith (q : Quad) (tag : Nat) : Bool :=
  match q.cwait? with
  | some x => x.tag == tag
  | none => false

/-- The quad's parked wait has been released. -/
def Quad.released (q : Quad) : Bool :=
  match q.cwait? with
  | some x => x.status.isSome
  | none => false

/-- The released quads that parked together leave their wait (R128): they are cut into runs, apart
from those that stay parked, and acquire where their wait asks for it. -/
def State.resumeWaits (s : State) (t w tag : Nat) : State :=
  let x := s.wave t w
  let all := (upTo x.quads.length).filter fun n => (x.quad n).parkedWith tag
  let go := all.filter fun n => (x.quad n).released
  let acq := go.filter fun n =>
    match (x.quad n).cwait? with
    | some y => y.acq && y.status == some 0
    | none => false
  let lines := acq.filterMap fun n => ((x.quad n).cwait?).map (·.acqLine)
  let s := go.foldl (fun s n => s.leaveWait t w n) s
  let stay := all.filter fun n => !go.contains n
  let s := s.replaceGangs t w all (sortRuns (s.runsOf t w go ++ s.runsOf t w stay))
  s.acquire t w (acq.filter fun n => (s.quad t w n).waitTrap.isNone) lines

/-- `COUNTER_WATCH_NOTIFY` (R128, R133): the new value has reached the core of a released quad. -/
def execCounterWatchNotify (team wave quad : Nat) (s : State) : Out :=
  .next
    (match (s.quad team wave quad).cwait? with
     | some x => if x.status.isSome then s.resumeWaits team wave x.tag else s
     | none => s)

/-- The wait's timeout has expired (R130). -/
def CWait.expired (x : CWait) : Bool :=
  x.timeout != 0 && decide (x.timeout.toNat ≤ x.elapsed) && x.status.isNone

/-- A parked quad's wait ends with status 1, if its timeout has expired and no other device holds it
(R130, R441). -/
def Quad.timeOut (q : Quad) (tag : Nat) : Quad :=
  match q.wait with
  | .counter x =>
    if x.tag = tag && x.expired && x.request.isNone then
      { q with wait := .counter { x with status := some 1 } }
    else q
  | _ => q

/-- `COUNTER_WAIT_TIMEOUT` (R130, R131): an operation of the same cycle releases the wait first. -/
def execCounterWaitTimeout (team wave quad : Nat) (s : State) : Out :=
  .next
    (match (s.quad team wave quad).cwait? with
     | some x =>
       if s.cycleOver && x.expired && x.request.isNone then
         (s.modWave team wave fun y => { y with quads := y.quads.map (·.timeOut x.tag) }).resumeWaits team
           wave x.tag
       else s
     | none => s)

/-! ### `bar` -/

/-- BarTarget of a generation (R138). -/
def Team.barTarget (t : Team) (gen : Nat) : Nat :=
  t.waves.foldl (fun n w => w.quads.foldl (fun n q => n + (if q.exited then min gen q.gen else gen)) n) 0

/-- The wait half of `bar` is tested again in a quad (R138). -/
def Quad.barAgain (q : Quad) (t : Team) : Quad :=
  match q.wait with
  | .counter x =>
    match x.kind with
    | .bar =>
      let target := t.barTarget q.gen
      let status := if target ≤ t.counter.toNat then some 0 else x.status
      { q with wait := .counter { x with target := target, status := status } }
    | .cwait | .kwaitFull | .kwaitFree => q
  | _ => q

/-- The test of R138 in every quad of a team: after every arrival and every exit. -/
def State.barTest (s : State) (t : Nat) : State :=
  let x := s.team t
  s.modTeam t fun y => { y with waves := y.waves.map fun w =>
    { w with quads := w.quads.map (·.barAgain x) } }

/-- The quad resumes a `bar` whose add stands (R381). -/
def Quad.inBarWait (q : Quad) : Bool :=
  match q.clause with
  | some c => c.barWait
  | none => false

/-- The clause context says whether the quad stands in the wait half of a `bar` (R305, R381). -/
def Quad.setBarWait (q : Quad) (b : Bool) : Quad :=
  { q with clause := q.clause.map fun c => { c with barWait := b } }

/-- A quad arrives at a `bar`: its generation rises, unless its add stands. -/
def Quad.arrive (q : Quad) : Quad :=
  if q.inBarWait then q else ({ q with gen := q.gen + 1 }).setBarWait true

/-- The quad of a gang goes on past a `bar`, or parks (R138, R369). -/
def barQuad (s : State) (g : GangRef) (tag n : Nat) : State :=
  let t := s.teamOf g
  let target := t.barTarget (s.quadOf g n).gen
  if target ≤ t.counter.toNat then s.modQuad g.t g.w n (·.pastWait none 0)
  else
    let x : CWait :=
      { kind := .bar, loc := .team, addr := 0, target := target, timeout := 0, elapsed := 0, woken := 0, cap := 4
        acq := true, st := none, status := none, spilled := s.spills (s.coreOf g) tag 0 target
        tag := tag, request := none, cancelled := false }
    s.modQuad g.t g.w n fun q => { q with wait := .counter x }

/-- `bar` (R138, R369). -/
def execBar (s : State) : Out :=
  withGang s fun g =>
    s.releasing g 1 fun s =>
      let qs := s.live g
      let adding := (qs.filter fun n => !(s.quadOf g n).inBarWait).length
      let s := s.mapGang g fun _ q => q.arrive
      let s := s.modTeam g.t fun t => { t with counter := t.counter + BitVec.ofNat 64 adding }
      let s := s.barTest g.t
      let tag := s.nextId
      let go := qs.filter fun n =>
        decide ((s.teamOf g).barTarget (s.quadOf g n).gen ≤ (s.teamOf g).counter.toNat)
      let s := qs.foldl (fun s n => barQuad s g tag n) s.bumpId
      ((s.account g 1 .count).regang g).acquire g.t g.w go [{ place := .team, addr := 0, cap := 4 }]

/-! ### Fences -/

/-- The acquire part of a fence (R370): for every atomic since the last one, the scope test, the
promotions, and the drop of stale copies. The gang stays at the fence until those atomics have completed and the
promotions are acknowledged. -/
def State.fenceAcquire (s : State) (g : GangRef) (k : State → State) : State :=
  if s.atomicsPending g then s.hold g .structural
  else
    let qs := s.live g
    let xs : List Acquire := qs.flatMap fun n =>
      (s.quadOf g n).acqLines.map fun l => { quad := n, lanes := 0xF, at_ := l }
    s.scopeChecked g xs 1 fun s =>
      let lines := xs.map (·.at_)
      if (s.toPromote (s.coreOf g) lines).isEmpty then
        k ((s.acquire g.t g.w qs lines).mapGang g fun _ q => { q with acqLines := [] })
      else s.acquire g.t g.w qs lines

/-- The release part of a fence (R370). -/
def State.fenceRelease (s : State) (g : GangRef) (k : State → State) : State :=
  s.releasing g 1 fun s => k (s.mapGang g fun _ q => { q with relFence := true })

/-- `fence.rel` (R370). -/
def execFenceRel (s : State) : Out :=
  withGang s fun g => s.fenceRelease g fun s => s.retire g 1 1 .count

/-- `fence.acq` (R370). -/
def execFenceAcq (s : State) : Out :=
  withGang s fun g => s.fenceAcquire g fun s => s.retire g 1 1 .count

/-- `fence.ar` (R370): the acquire part first. -/
def execFenceAr (s : State) : Out :=
  withGang s fun g => s.fenceAcquire g fun s => s.fenceRelease g fun s => s.retire g 1 1 .count

/-- `ifence` (R193): the core drops the context's instruction lines. -/
def execIfence (s : State) : Out :=
  withGang s fun g =>
    let c := s.ctxOf g
    (s.modCore (s.coreOf g) fun k => { k with ilines := k.ilines.filter fun l => l.ctx != c }).retire g 1 1
      .count

/-! ### `exit` -/

/-- A quad exits (R104, R310). -/
def Quad.exit (q : Quad) : Quad :=
  { q with
    em := 0
    joins := Vector.replicate 8 0
    exited := true
    wait := .ready
    inHandler := false
    clause := none
    trapClause := none
    pendTraps := []
    waitTrap := none
    nestHandled := none
    poll := none
    stamp := none
    drainSt := .idle
    fetched := [] }

/-- A stopped loop-nest entry whose handler ended its quad is discarded (R381 item 6). -/
def State.discardEntry (s : State) (core id : Nat) : State :=
  (s.modCore core fun k =>
    { k with queues := k.queues.map fun l => l.filter fun e => e.id != id }).wake core

/-- The loop-nest faults that a quad's exit leaves without a handler are unhandled (R381 item 7). -/
def State.orphanFaults (s : State) (g : GangRef) (n : Nat) : State :=
  (s.quadOf g n).pendTraps.foldl (fun s p =>
    match p with
    | .nest cause addr _ _ =>
      (s.logAt g 0x0001 5 cause.code (trapLogAddr (trapInfo 0 cause addr))).ctxFault (s.ctxOf g)
    | .fuse => s
    | .watchdog => s) s

/-- `exit` (R104, R310). -/
def execExit (s : State) : Out :=
  withGang s fun g =>
    s.releasing g 1 fun s =>
      let qs := s.live g
      let s := s.account g 1 .count
      let s := qs.foldl (fun s n =>
        match (s.quadOf g n).nestHandled with
        | some e => s.discardEntry (s.coreOf g) e
        | none => s) s
      let s := qs.foldl (fun s n => s.orphanFaults g n) s
      let s := (((s.mapGang g fun _ q => q.exit).regang g).fuseTest g.t g.w).barTest g.t
      if (s.waveOf g).quads.all (·.exited) then s.freeLatch g.t g.w else s

end Sys2Proof.Machine
end

