-- ==== Sys2Proof/Machine/Ring.lean ====
section
/-! DEFINITION. Slot rings (R139 to R141, R371, R372). -/

namespace Sys2Proof.Machine

/-- The ring of a 48-byte descriptor; `none` when it breaks a limit (R139). -/
def ringOf (bs : List Byte) : Option Ring :=
  let r : Ring :=
    { base := field64 bs 0, filled := field64 bs 8, freed := field64 bs 16, claim := field64 bs 24
      bytes := field bs 32 4, lgslots := field bs 36 1 }
  if zeroField bs 37 11 && r.bytes % 16 == 0 && decide (16 ≤ r.bytes) && decide (r.bytes ≤ 65536) &&
      decide (r.lgslots ≤ 12) && r.base.toNat % r.bytes == 0 then some r
  else none

/-- The address of slot `i` (R139). -/
def Ring.slot (r : Ring) (i : Word) : Word :=
  r.base + BitVec.ofNat 64 (r.bytes * (i.toNat % 2 ^ r.lgslots))

/-! ### Blocks that an instruction reads at issue -/

/-- What a check of an instruction comes to: a result, a fault, or a wait for bytes of another device (R353, R438). -/
inductive Check (α : Type) where
  | ok (a : α)
  | fault (f : MFault)
  | waits

/-- A check that waits for nothing. -/
def Check.of {α : Type} : Except MFault α → Check α
  | .ok a => .ok a
  | .error f => .fault f

/-- The reply to an instruction's read of a block at an address, once it has come. -/
def Quad.fetchedAt (q : Quad) (va : Word) : Option (Option (List Byte)) :=
  (q.fetched.find? fun x => x.1 == va.toNat).map (·.2)

/-- A read of a block by an instruction of a quad has no reply yet. -/
def State.fetching (s : State) (g : GangRef) (n : Nat) (va : Word) : Bool :=
  s.requests.any fun r => r.addr == va &&
    (match r.who with
     | .fetch t w q => t == g.t && w == g.w && q == n
     | .load _ _ _ _ | .store _ _ _ | .wait _ _ _ | .engine _ _ _ | .tender _ => false)

/-- One piece of a block. Of a Sector window the bytes come with a reply, for which the instruction waits; a read that
failed is a poisoned line (R439, R443). -/
def blockPiece (s : State) (g : GangRef) (src : TrapSrc) (n : Nat) (p : Nat × Nat × Word × TlbEntry) :
    State × Check (List Byte) :=
  let va := p.2.2.1
  let poison (a : Word) : Check (List Byte) := .fault { cause := .trans .poison, addr := a, tf := none }
  match physKind p.1 with
  | .sector w off =>
    match (s.quadOf g n).fetchedAt va with
    | some (some bs) => (s, .ok bs)
    | some none => (s, poison va)
    | none =>
      if s.fetching g n va then (s, .waits)
      else
        match sendRemote s (s.ctxOf g) w off (.fetch g.t g.w n) va (.read p.2.1) with
        | (s, some _) => (s, .waits)
        | (s, none) => (s.logAt g 0x0006 7 0 va, poison va)
  | .hbm | .host _ | .unpopulated =>
    match readPieces s g src 0 0 0 0 [p] with
    | (s, x) =>
      match x.fault with
      | some a => (s, poison a)
      | none => (s, .ok x.bytes)

/-- The pieces of a block, which are all asked for together. -/
def blockPieces (s : State) (g : GangRef) (src : TrapSrc) (n : Nat) :
    List (Nat × Nat × Word × TlbEntry) → State × Check (List Byte)
  | [] => (s, .ok [])
  | p :: ps =>
    match blockPiece s g src n p with
    | (s, .fault f) => (s, .fault f)
    | (s, .waits) => ((blockPieces s g src n ps).1, .waits)
    | (s, .ok bs) =>
      match blockPieces s g src n ps with
      | (s, .ok more) => (s, .ok (bs ++ more))
      | (s, .fault f) => (s, .fault f)
      | (s, .waits) => (s, .waits)

/-- A block of memory that an instruction of a quad reads at issue: a ring descriptor, a copy control block, a texture
descriptor or a walk record. A poisoned part raises the fault at once. -/
def blockAt (s : State) (g : GangRef) (src : TrapSrc) (n : Nat) (va : Word) (len : Nat) :
    State × Check (List Byte) :=
  match locate s (s.coreOf g) (s.ctxOf g) (s.teamOf g).kernel.scratchBytes va len .read with
  | (s, .error f) => (s, .fault f)
  | (s, .ok (.scratch off)) => (s, .ok ((s.teamOf g).scratch.read off len))
  | (s, .ok (.mem ps)) => blockPieces s g src n ps

/-- The gang waits for the blocks that its quads have asked for. -/
def State.awaitFetch (s : State) (g : GangRef) : State :=
  s.hold g (.fetch (s.requests.filterMap fun r =>
    match r.who with
    | .fetch t w q => if t = g.t ∧ w = g.w ∧ g.quads.contains q then some r.id else none
    | .load _ _ _ _ | .store _ _ _ | .wait _ _ _ | .engine _ _ _ | .tender _ => none))

/-- The instruction has taken the blocks that its quads have read through Sector windows. -/
def State.dropFetched (s : State) (g : GangRef) : State :=
  if g.quads.all fun n => (s.quadOf g n).fetched.isEmpty then s
  else s.mapGang g fun _ q => { q with fetched := [] }

/-! ### Descriptors -/

/-- A check of one counter address of a block (R124). -/
def counterCheck (s : State) (g : GangRef) (n : Nat) (va : Word) (need : Need) :
    State × Except MFault Loc :=
  checkAsk s g (counterAsk n va need)

/-- The checks of `kset` in one quad (R139, R371). -/
def ksetQuad (s : State) (g : GangRef) (sa : SReg) (n : Nat) : State × Check Ring :=
  let va := (s.quadOf g n).rs sa
  let bad : MFault := { cause := .ringDescriptor, addr := va, tf := none }
  if va.toNat % 16 ≠ 0 then (s, .fault bad)
  else
    match blockAt s g 1 n va 48 with
    | (s, .fault f) => (s, .fault f)
    | (s, .waits) => (s, .waits)
    | (s, .ok bs) =>
      match ringOf bs with
      | none => (s, .fault bad)
      | some r =>
        match counterCheck s g n r.filled .counterGet with
        | (s, .error f) => (s, .fault f)
        | (s, .ok _) =>
          match counterCheck s g n r.freed .counterGet with
          | (s, .error f) => (s, .fault f)
          | (s, .ok _) => (s, .ok r)

/-- What the checks of the quads of a gang come to. -/
structure QuadChecks (α : Type) where
  passed : List (Nat × α)
  failed : List (Nat × MFault)
  waits : Bool

/-- A check made in every quad of a gang: the results of the quads that pass, the faults of those that
fail (R353). -/
def eachQuad {α : Type} (f : State → Nat → State × Check α) : List Nat → State → State × QuadChecks α
  | [], s => (s, { passed := [], failed := [], waits := false })
  | n :: ns, s =>
    match f s n with
    | (s, x) =>
      match eachQuad f ns s with
      | (s, y) =>
        (s, match x with
            | .ok a => { y with passed := (n, a) :: y.passed }
            | .fault e => { y with failed := (n, e) :: y.failed }
            | .waits => { y with waits := true })

/-- An instruction whose checks each quad makes for itself (R353): the lowest-numbered failing quad
gives the cause and the address. -/
def State.checkedQuads {α : Type} (s : State) (g : GangRef) (qs : List Nat) (src : TrapSrc)
    (f : State → Nat → State × Check α) (perform : State → List (Nat × α) → State) : State :=
  match eachQuad f qs s with
  | (s, x) =>
    if x.waits then s.awaitFetch g
    else
      match x.failed with
      | [] => perform (s.dropFetched g) x.passed
      | (n, e) :: bad =>
        let late := n :: bad.map (·.1)
        s.memTrap g e (fun n => if late.contains n then 0xF else 0) src

/-- Loads a ring handle of a team. -/
def State.setRing (s : State) (t k : Nat) (r : Ring) : State :=
  s.modTeam t fun x => { x with rings := x.rings.setIfInBounds k (some r) }

/-- A ring handle of a team. -/
def Team.ring (t : Team) (k : Nat) : Option Ring := t.rings.getD k none

/-- A ring number above 15 is an illegal operand (R371, R372). -/
def withRing (s : State) (k : SReg) (f : GangRef → State) : Out :=
  withGang s fun g => if 15 < k.toNat then s.badOperand g 1 else f g

/-- `kset` (R371): the handle holds the descriptor of the highest-numbered quad. -/
def execKset (k sa : SReg) (s : State) : Out :=
  withRing s k fun g =>
    s.checkedQuads g (s.live g) 1 (fun s n => ksetQuad s g sa n) fun s rs =>
      (rs.foldl (fun s x => s.setRing g.t k.toNat x.2) s).retire g 1 1 .count

/-- The fault of a handle that no `kset` has loaded (R371, R372). -/
def State.noRing (s : State) (g : GangRef) : State := s.trap g .ringDescriptor 0 allLanes 1

/-- `kfill` and `kfree` (R371): each quad adds 1 with release. -/
def ringAdd (k : SReg) (counter : Ring → Word) (s : State) : Out :=
  withRing s k fun g =>
    match (s.teamOf g).ring k.toNat with
    | none => s.noRing g
    | some r =>
      counterAdds s g true .count ((s.live g).map fun n => { quad := n, addr := counter r, addend := 1 })

/-- `kfill` (R371). -/
def execKfill (k : SReg) (s : State) : Out := ringAdd k (·.filled) s
/-- `kfree` (R371). -/
def execKfree (k : SReg) (s : State) : Out := ringAdd k (·.freed) s

/-- The target of a ring wait for slot index `i` (R372). -/
def Ring.target (r : Ring) (full : Bool) (i : Word) : Nat :=
  if full then i.toNat + 1 else i.toNat + 1 - 2 ^ r.lgslots

/-- `kwait` (R372). -/
def ringWait (k sb : SReg) (full : Bool) (st : Option (BitVec 6)) (s : State) : Out :=
  withRing s k fun g =>
    match (s.teamOf g).ring k.toNat with
    | none => s.noRing g
    | some r =>
      counterWait s g { kind := if full then .kwaitFull else .kwaitFree, acq := true, st := st }
        ((s.live g).map fun n =>
          let q := s.quadOf g n
          { ask := counterAsk n (if full then r.filled else r.freed) .counterGet
            target := r.target full (q.rs sb), timeout := (q.rsN (sb.toNat + 1)).extractLsb' 0 32 })

/-- `kwait.free` (R372). -/
def execKwaitFree (k sb : SReg) (s : State) : Out := ringWait k sb false none s
/-- `kwait.full` (R372). -/
def execKwaitFull (k sb : SReg) (s : State) : Out := ringWait k sb true none s
/-- `kwait.free.st` (R372). -/
def execKwaitFreeSt (sd k sb : SReg) (s : State) : Out := ringWait k sb false (some sd) s
/-- `kwait.full.st` (R372). -/
def execKwaitFullSt (sd k sb : SReg) (s : State) : Out := ringWait k sb true (some sd) s

end Sys2Proof.Machine
end

