-- ==== Sys2Proof/Machine/Engine.lean ====
section
/-! DEFINITION. What the engines of a core share (R75, R76, R142, R188, R375 to R377): their accesses,
their counter adds and waits, and the performance of a copy. -/

namespace Sys2Proof.Machine

/-- An engine operation: its core, context, team (none for a copy packet, R65) and wave, its identity,
its log source (R491) and its agent code in order logs (R473). -/
structure Eng where
  core : Nat
  ctx : BitVec 6
  team : Option Nat
  wave : Nat
  id : Nat
  src : Nat
  req : Nat
  deriving DecidableEq, Repr

/-- The engine operation of a queue entry. -/
def Entry.eng (e : Entry) (core : Nat) : Eng :=
  let nest : Bool := match e.body with
    | .nest _ => true
    | .copy _ => false
    | .qwait _ _ => false
    | .qadd _ _ => false
    | .marker _ _ => false
  { core := core, ctx := e.ctx, team := some e.team, wave := e.wave, id := e.id
    src := if nest then 5 else 2, req := if nest then 3 else 1 }

/-- The engine operation of a copy packet (R65, R491). -/
def Admitted.eng (a : Admitted) (c : BitVec 6) : Eng :=
  { core := a.core, ctx := c, team := none, wave := 0xFFFF, id := a.id, src := 2, req := 1 }

/-- The engine operation of a gang's quad, for the checks at issue. -/
def engAt (s : State) (g : GangRef) : Eng :=
  { core := s.coreOf g, ctx := s.ctxOf g, team := some g.t, wave := g.w, id := 0, src := 2, req := 1 }

/-- The scratchpad size an engine operation can reach. -/
def Eng.size (e : Eng) (s : State) : Nat :=
  match e.team with
  | some t => (s.team t).kernel.scratchBytes
  | none => 0

/-- An entry of the error log by an engine (R47). -/
def State.engLog (s : State) (e : Eng) (code source detail : Nat) (addr : Word) : State :=
  s.log e.ctx
    { code := code, source := source, detail := detail
      gridid := match e.team with | some t => (s.team t).gridid | none => 0xFFFFFFFF
      addr := addr, core := e.core, wave := e.wave }

/-- The place of an engine's access, checked in the order of R353. -/
def engLocate (s : State) (e : Eng) (va : Word) (n align : Nat) (need : Need) :
    State × Except MFault Loc :=
  if va.toNat % align ≠ 0 then (s, .error { cause := .alignment, addr := va, tf := none })
  else locate s e.core e.ctx (e.size s) va n need

/-- The bytes of a team's scratchpad. -/
def Eng.scratch (e : Eng) (s : State) (off n : Nat) : List Byte :=
  match e.team with
  | some t => (s.team t).scratch.read off n
  | none => List.replicate n 0

/-- Writes the scratchpad of an engine's team. -/
def State.engScratch (s : State) (e : Eng) (off : Nat) (bs : List Byte) : State :=
  match e.team with
  | some t => s.scratchWrite t off bs e.src
  | none => s

/-- The keys of an engine's requests that bring no bytes of its operation, above every address: the replies to a
claim and to the waits on E and F (R141), the acknowledgements of writes and adds. -/
def claimKey : Nat := 2 ^ 65
/-- The key of the wait on E. -/
def freeKey : Nat := 2 ^ 65 + 1
/-- The key of the wait on F. -/
def fillKey : Nat := 2 ^ 65 + 2
/-- The key of a write. -/
def writeKey : Nat := 2 ^ 65 + 3
/-- The key of the add that publishes an index, or of an element's write: the operation goes on with its reply. -/
def awaitKey : Nat := 2 ^ 65 + 4
/-- The key of any other counter add, by its log source (R491). -/
def addKey (src : Nat) : Nat := 2 ^ 65 + 16 + src

/-- A plain write by an engine, through the L1 of its core (R187). -/
def engWrite (s : State) (e : Eng) (va : Word) (bs : List Byte) : State × Option MFault :=
  match engLocate s e va bs.length 1 .store with
  | (s, .error f) => (s, some f)
  | (s, .ok (.scratch off)) => (s.engScratch e off bs, none)
  | (s, .ok (.mem ps)) =>
    ((ps.foldl (fun (x : State × List Byte) p =>
      let part := x.2.take p.2.1
      let s :=
        match physKind p.1 with
        | .sector w off =>
          match sendRemote x.1 e.ctx w off (.engine e.core e.id writeKey) p.2.2.1 (.write part) with
          | (s, some _) => s
          | (s, none) => s.engLog e 0x0006 7 0 p.2.2.1
        | .hbm | .host _ | .unpopulated => writePiece x.1 e.core e.ctx [] e.src p part
      (s, x.2.drop p.2.1)) (s, bs)).1, none)

/-- What an engine's read gives: bytes, poison, a Sector read that failed and has logged its entry (R439, R443), a fault,
or a wait for Sector replies. -/
inductive EngRead where
  | bytes (bs : List Byte)
  | poison (va : Word)
  | lost (va : Word)
  | fault (f : MFault)
  | waits
  deriving DecidableEq, Repr

/-- A Sector request of the engine operation for these bytes has no reply yet. -/
def State.engAsked (s : State) (e : Eng) (key : Nat) : Bool :=
  s.requests.any fun r =>
    match r.who with
    | .engine c i k => c == e.core && i == e.id && k == key
    | .load _ _ _ _ | .store _ _ _ | .wait _ _ _ | .fetch _ _ _ | .tender _ => false

/-- A Sector request of an engine operation has no reply yet: something of it has not been performed (R76, R188). -/
def State.engOutstanding (s : State) (core id : Nat) : Bool :=
  s.requests.any fun r =>
    match r.who with
    | .engine c i _ => c == core && i == id
    | .load _ _ _ _ | .store _ _ _ | .wait _ _ _ | .fetch _ _ _ | .tender _ => false

/-- The bytes that a Sector reply brought for a key. -/
def fetchedAt (l : List (Nat × Option (List Byte))) (key n : Nat) : Option (Option (List Byte)) :=
  match l with
  | [] => none
  | (k, x) :: rest =>
    match x with
    | some bs =>
      if k ≤ key ∧ key + n ≤ k + bs.length then some (some ((bs.drop (key - k)).take n))
      else fetchedAt rest key n
    | none => if k = key then some none else fetchedAt rest key n

/-- Reads bytes that lie in one place. Bytes of a Sector window come from the replies, by their key;
plain bytes come from the state `s0`. -/
def engRead (s0 s : State) (e : Eng) (fetched : List (Nat × Option (List Byte))) (key : Nat) (va : Word)
    (n : Nat) : State × EngRead :=
  match engLocate s e va n 1 .read with
  | (s, .error f) => (s, .fault f)
  | (s, .ok (.scratch off)) => (s, .bytes (e.scratch s0 off n))
  | (s, .ok (.mem ps)) =>
    ps.foldl (fun (x : State × EngRead) p =>
      match x.2 with
      | .bytes bs =>
        match physKind p.1 with
        | .hbm =>
          match (upTo p.2.1).find? fun i =>
              poisonedView s0 e.core e.ctx (p.2.2.1 + BitVec.ofNat 64 i) (p.1 + i) with
          | some i => (x.1, .poison (p.2.2.1 + BitVec.ofNat 64 i))
          | none =>
            ((x.1.touchLine (lineOf p.1) e.ctx).lowAs p.1 p.2.2.2.low,
              .bytes (bs ++ (upTo p.2.1).map fun i =>
                viewByte s0 e.core e.ctx (p.2.2.1 + BitVec.ofNat 64 i) (p.1 + i)))
        | .host _ =>
          match hostBytes x.1 p.2.1 with
          | (s, more) => (s, .bytes (bs ++ more))
        | .sector _ _ =>
          match fetchedAt fetched (key + bs.length) p.2.1 with
          | some (some more) => (x.1, .bytes (bs ++ more))
          | some none => (x.1, .lost p.2.2.1)
          | none => (x.1, .waits)
        | .unpopulated => (x.1, .bytes (bs ++ List.replicate p.2.1 0))
      | _ => x) (s, .bytes [])

/-- Asks for the Sector bytes of a range (R438): the reads that could not leave. -/
def engAsk (s : State) (e : Eng) (key : Nat) (va : Word) (n : Nat) :
    State × List (Nat × Option (List Byte)) :=
  match engLocate s e va n 1 .read with
  | (s, .error _) => (s, [])
  | (s, .ok (.scratch _)) => (s, [])
  | (s, .ok (.mem ps)) =>
    let r := ps.foldl (fun (x : State × List (Nat × Option (List Byte)) × Nat) p =>
      match physKind p.1 with
      | .sector w off =>
        match sendRemote x.1 e.ctx w off (.engine e.core e.id x.2.2) p.2.2.1 (.read p.2.1) with
        | (s, some _) => (s, x.2.1, x.2.2 + p.2.1)
        | (s, none) =>
          (s.engLog e 0x0006 7 0 p.2.2.1, x.2.1 ++ [(x.2.2, none)], x.2.2 + p.2.1)
      | .hbm | .host _ | .unpopulated => (x.1, x.2.1, x.2.2 + p.2.1)) (s, [], key)
    (r.1, r.2.1)

/-! ### Counter adds and waits -/

/-- The place of an engine's counter is another device's (R437). -/
def Loc.sector : Loc → Option (Nat × Nat × Word)
  | .mem ((pa, _, va, _) :: _) =>
    match physKind pa with
    | .sector w off => some (w, off, va)
    | .hbm | .host _ | .unpopulated => none
  | .mem [] => none
  | .scratch _ => none

/-- The value of a counter of this device that an engine reaches. -/
def Eng.counter (e : Eng) (s : State) : Loc → Word
  | .scratch off => BitVec.ofNat 64 (leNat (e.scratch s off 8))
  | l => match l.hbm with | some (pa, _) => s.word pa | none => 0

/-- Writes a counter of this device. -/
def State.engSetCounter (s : State) (e : Eng) (v : Word) : Loc → State
  | .scratch off => s.engScratch e off (leBytes 8 v.toNat)
  | .mem ps =>
    match (Loc.mem ps).hbm, ps with
    | some (pa, _), (_, _, _, x) :: _ => (s.homeWrite e.ctx pa (leBytes 8 v.toNat) e.src).lowAs pa x.low
    | _, _ => s

/-- The core's own held bytes of an engine's counter line reach their home slice (R173). -/
def State.engFlush (s : State) (e : Eng) (l : Loc) : State :=
  match l.hbm with
  | some (_, va) => flushLine s e.core e.ctx va
  | none => s

/-- The order-log entry of an engine's counter operation (R473). -/
def Eng.counterOps (e : Eng) (s : State) (l : Loc) : List (Nat × OrderOp) :=
  (orderOps s e.core [l]).map fun x => (x.1, { x.2 with req := coreReq e.core e.req })

/-- The home slice records an engine's release (R178 step 5). -/
def State.engRelease (s : State) (e : Eng) (l : Loc) : State :=
  match l.hbm with
  | some (pa, _) => recordRelease s e.core (lineOf pa)
  | none => s

/-- What became of an engine's counter operation: the state, the details logged once so far, and
whether the operation is over. -/
structure EngStep where
  s : State
  logged : List Nat
  finished : Bool
  deriving DecidableEq, Repr

/-- An entry that is logged once per engine operation. -/
def State.engLogOnce (s : State) (e : Eng) (logged : List Nat) (detail : Nat) (addr : Word) : EngStep :=
  { s := if logged.contains detail then s else s.engLog e 0x0002 e.src detail addr
    logged := if logged.contains detail then logged else detail :: logged, finished := false }

/-- The entry that a failed translation of an engine's counter logs beside that of its counter operation (R40, R160). -/
def State.engTransLog (s : State) (e : Eng) (f : MFault) : State :=
  match f.tf with
  | some t =>
    match t.code with
    | some code => s.engLog e code (t.source e.src) 0 f.addr
    | none => s
  | none => s

/-- An engine's counter operation fails on a poisoned line (R47, R160). -/
def State.engPoison (s : State) (e : Eng) (va : Word) : State := s.engLog e 0x0006 e.src 0 va

/-- An engine add with release (R127, R188, R373): every held line is bound first; a failed binding
holds it. One that goes to another device is sent once the bound lines are written back (notes/assumptions/78.md). -/
def engAddAs (s : State) (e : Eng) (logged : List Nat) (key : Nat) (va addend : Word) : EngStep :=
  match bindAll s e.core e.ctx with
  | (s, some (_, line)) => s.engLogOnce e logged 4 line
  | (s, none) =>
    if s.awaitsSector e.core e.ctx then { s := s, logged := logged, finished := false }
    else
      let s := if (s.ctx e.ctx).mml = 2 then writeBackBound s e.core e.ctx else s
      match engLocate s e va 8 8 .counterAdd with
      | (s, .error f) =>
        { s := (s.engTransLog e f).engLog e 0x0002 e.src 1 va, logged := logged, finished := true }
      | (s, .ok l) =>
        match l.sector with
        | some (w, off, va) =>
          match sendRemote (writeBackBound s e.core e.ctx) e.ctx w off (.engine e.core e.id key) va
              (.add addend true) with
          | (s, some _) => { s := s, logged := logged, finished := true }
          | (s, none) =>
            { s := (s.engLog e 0x0006 7 0 va).engLog e 0x0002 e.src 1 va, logged := logged, finished := true }
        | none =>
          let s := s.engFlush e l
          let old := e.counter s l
          if s.poisonAt l then
            { s := (s.engPoison e va).engLog e 0x0002 e.src 1 va, logged := logged, finished := true }
          else if 2 ^ 64 ≤ old.toNat + addend.toNat then
            { s := s.engLog e 0x0002 e.src 2 va, logged := logged, finished := true }
          else
            match s.orderAll e.ctx (e.counterOps s l) with
            | .error s => { s := s, logged := logged, finished := false }
            | .ok s =>
              { s := (s.engSetCounter e (old + addend) l).engRelease e l, logged := logged, finished := true }

/-- An engine add whose operation is over with it (R373, R377, R380). -/
def engAdd (s : State) (e : Eng) (logged : List Nat) (va addend : Word) : EngStep :=
  engAddAs s e logged (addKey e.src) va addend

/-- The acquire of an engine wait (R180, R188): the promotions it needs are made at once. -/
def State.engAcquire (s : State) (e : Eng) (l : Loc) : State :=
  match l.acqLine with
  | some { place := .line n, .. } => acquireDrop (promoteLine s e.core n) e.core n e.ctx
  | some { place := .remote, .. } => dropCopies s e.core e.ctx
  | some { place := .team, .. } =>
    match e.team with
    | some t => acquireTeam s t e.core e.ctx
    | none => s
  | none => s

/-- The wait on another device's counter is sent; one that finds no link is logged once (R142, R443). -/
def engSendWait (s : State) (e : Eng) (logged : List Nat) (key w off : Nat) (va : Word) (target : Nat) : EngStep :=
  match sendRemote s e.ctx w off (.engine e.core e.id key) va (.wait target true false) with
  | (s, some _) => { s := s, logged := logged, finished := false }
  | (s, none) => (if logged.contains 1 then s else s.engLog e 0x0006 7 0 va).engLogOnce e logged 1 va

/-- An engine wait of this device's counter, evaluated (R142, R181): over when the counter holds at
least the target and the acquire meets no scope fault. `fetched` tells, by `key`, the reply to a wait on
another device's counter; one that failed is sent again when the wait is evaluated again. -/
def engWait (s : State) (e : Eng) (logged : List Nat) (fetched : List (Nat × Option (List Byte)))
    (key : Nat) (va : Word) (target : Nat) : EngStep :=
  match engLocate s e va 8 8 .counterGet with
  | (s, .error f) => (if logged.contains 1 then s else s.engTransLog e f).engLogOnce e logged 1 va
  | (s, .ok l) =>
    match l.sector with
    | some (w, off, va) =>
      match fetchedAt fetched key 0 with
      | some (some _) => { s := s.engAcquire e l, logged := logged, finished := true }
      | some none =>
        if s.engAsked e key then { s := s, logged := logged, finished := false }
        else
          let x := s.engLogOnce e logged 1 va
          engSendWait x.s e x.logged key w off va target
      | none =>
        if s.engAsked e key then { s := s, logged := logged, finished := false }
        else engSendWait s e logged key w off va target
    | none =>
      let s := s.engFlush e l
      if s.poisonAt l then (if logged.contains 1 then s else s.engPoison e va).engLogOnce e logged 1 va
      else
        let s := s.useCounters e.ctx [l]
        if (e.counter s l).toNat < target then { s := s, logged := logged, finished := false }
        else
          let scope : Bool :=
            match l.acqLine with
            | some a => Acquire.fails s e.core { quad := 0, lanes := 0, at_ := a }
            | none => false
          if scope then s.engLogOnce e logged 3 va
          else
            match s.orderAll e.ctx (e.counterOps s l) with
            | .error s => { s := s, logged := logged, finished := false }
            | .ok s => { s := s.engAcquire e l, logged := logged, finished := true }

/-! ### Copies -/

/-- The fields of a copy control block; `none` when a reserved field is not zero or a limit is broken
that the block alone decides (R375, R376). -/
def copyBlockOf (bs : List Byte) : Option CopyBlock :=
  let ctl := field32 bs 48
  let b : CopyBlock :=
    { source := field64 bs 0, dest := field64 bs 8, rowbytes := field bs 16 4, rows := field bs 20 4
      spitch := toSigned 32 (field bs 24 4), dpitch := toSigned 32 (field bs 28 4)
      ctr := field64 bs 32, addend := field64 bs 40, ring := slice (zext ctl) 7 4
      rmode := ctl.getLsbD 1, fill := ctl.getLsbD 0 }
  if zeroField bs 52 12 && slice (zext ctl) 31 8 == 0 && slice (zext ctl) 3 2 == 0 &&
      decide (1 ≤ b.rowbytes) && decide (b.rowbytes ≤ 1048576) && decide (1 ≤ b.rows) &&
      decide (b.rows ≤ 65535) && decide (b.rows * b.rowbytes ≤ 2 ^ 24) &&
      (!b.fill || (b.rowbytes % 4 == 0 && decide (b.source.toNat < 2 ^ 32))) &&
      (!b.rmode || (b.dest == 0 && decide (0 ≤ b.dpitch))) then some b
  else none

/-- The 64-byte image of a block (R429). -/
def CopyBlock.bytes (b : CopyBlock) : List Byte :=
  leBytes 8 b.source.toNat ++ leBytes 8 b.dest.toNat ++ leBytes 4 b.rowbytes ++ leBytes 4 b.rows ++
    leBytes 4 (wrapNat 32 b.spitch) ++ leBytes 4 (wrapNat 32 b.dpitch) ++ leBytes 8 b.ctr.toNat ++
    leBytes 8 b.addend.toNat ++
    leBytes 4 (b.ring * 16 + (if b.rmode then 2 else 0) + (if b.fill then 1 else 0)) ++
    List.replicate 12 0

/-- A copy that has not begun. -/
def CopyBlock.job (b : CopyBlock) : CopyJob :=
  { b := b, asked := false, claimed := none, written := false, published := false }

/-- The limits of a ring-form copy (R376). -/
def CopyBlock.ringOk (b : CopyBlock) (r : Option Ring) : Bool :=
  !b.rmode ||
    (match r with
     | some r => r.claim != 0 && decide ((b.rows - 1 : Int) * b.dpitch + b.rowbytes ≤ r.bytes)
     | none => false)

/-- The first source byte of a row. -/
def CopyBlock.sourceRow (b : CopyBlock) (r : Nat) : Word := b.source + BitVec.ofInt 64 (r * b.spitch)

/-- The first destination byte of a row, from the first byte of the first row. -/
def CopyBlock.destRow (b : CopyBlock) (d0 : Word) (r : Nat) : Word := d0 + BitVec.ofInt 64 (r * b.dpitch)

/-- A range of bytes to be checked. -/
structure ByteSpan where
  va : Word
  n : Nat
  align : Nat
  need : Need
  deriving DecidableEq, Repr

/-- A range cut at 64 KiB page boundaries. -/
def pageCuts : Nat → Word → Nat → List (Word × Nat)
  | 0, _, _ => []
  | fuel + 1, va, n =>
    let room := 65536 - va.toNat % 65536
    if n = 0 then []
    else if n ≤ room then [(va, n)]
    else (va, room) :: pageCuts fuel (va + BitVec.ofNat 64 room) (n - room)

/-- The check of a range: its first failing part (R353). -/
def checkSpan (s : State) (e : Eng) (x : ByteSpan) : State × Option MFault :=
  if x.va.toNat % x.align ≠ 0 then (s, some { cause := .alignment, addr := x.va, tf := none })
  else if inScratchWindow x.va || decide (Config.spw.toNat < x.va.toNat + x.n) then
    match engLocate s e x.va x.n 1 x.need with
    | (s, .ok _) => (s, none)
    | (s, .error f) => (s, some f)
  else
    (pageCuts (x.n / 65536 + 2) x.va x.n).foldl (fun (y : State × Option MFault) (va, n) =>
      match y.2 with
      | some _ => y
      | none =>
        match engLocate y.1 e va n 1 x.need with
        | (s, .ok _) => (s, none)
        | (s, .error f) => (s, some f)) (s, none)

/-- The failure with the lowest address among those of some ranges (R63). -/
def checkSpans (s : State) (e : Eng) (xs : List ByteSpan) : State × Option MFault :=
  xs.foldl (fun (y : State × Option MFault) x =>
    match checkSpan y.1 e x with
    | (s, none) => (s, y.2)
    | (s, some f) =>
      (s, match y.2 with
          | some g => some (if f.addr < g.addr then f else g)
          | none => some f)) (s, none)

/-- Every byte and counter that a copy names (R376). -/
def CopyBlock.spans (b : CopyBlock) (r : Option Ring) : List ByteSpan :=
  let counter (va : Word) (need : Need) : ByteSpan := { va := va, n := 8, align := 8, need := need }
  (if b.fill then [] else (upTo b.rows).map fun i =>
    { va := b.sourceRow i, n := b.rowbytes, align := 1, need := .read }) ++
  (if b.rmode then
    match r with
    | some r =>
      [{ va := r.base, n := r.bytes * 2 ^ r.lgslots, align := 1, need := .store },
        counter r.claim .store, counter r.filled .counterAdd, counter r.freed .counterGet]
    | none => []
   else (upTo b.rows).map fun i =>
    { va := b.destRow b.dest i, n := b.rowbytes, align := 1, need := .store }) ++
  (if b.ctr = 0 then [] else [counter b.ctr .counterAdd])

/-- One part of a copy that lies in one source line and one destination line: its place in the copy,
its row and column, its addresses and its length. -/
structure Chunk where
  key : Nat
  col : Nat
  src : Word
  dst : Word
  n : Nat
  deriving DecidableEq, Repr

/-- The parts of a row. -/
def rowChunks (fill : Bool) : Nat → Nat → Nat → Word → Word → Nat → List Chunk
  | 0, _, _, _, _, _ => []
  | fuel + 1, key, col, src, dst, n =>
    if n = 0 then []
    else
      let k := min n (min (128 - dst.toNat % 128) (if fill then 128 else 128 - src.toNat % 128))
      { key := key, col := col, src := src, dst := dst, n := k } ::
        rowChunks fill fuel (key + k) (col + k) (src + BitVec.ofNat 64 k) (dst + BitVec.ofNat 64 k) (n - k)

/-- The parts of a copy whose first destination byte is `d0` (R377). -/
def CopyBlock.chunks (b : CopyBlock) (d0 : Word) : List Chunk :=
  (upTo b.rows).flatMap fun r =>
    rowChunks b.fill (b.rowbytes + 1) (r * b.rowbytes) 0 (b.sourceRow r) (b.destRow d0 r) b.rowbytes

/-- The address is a source byte of the copy (R377). -/
def CopyBlock.isSource (b : CopyBlock) (va : Word) : Bool :=
  !b.fill && (upTo b.rows).any fun r => decide ((va - b.sourceRow r).toNat < b.rowbytes)

/-- What a copy has met so far: failing addresses with their cause codes, and the poisoned source lines
that it has logged. -/
structure CopyNotes where
  fails : List (Word × Nat)
  lines : List Nat
  deriving DecidableEq, Repr

/-- The destination line of a part becomes poisoned (R377); a scratchpad keeps its bytes. -/
def poisonDest (s : State) (e : Eng) (x : Chunk) : State :=
  match engLocate s e x.dst x.n 1 .store with
  | (s, .ok l) =>
    match l.hbm with
    | some (pa, va) =>
      let s := flushLine s e.core e.ctx va
      { s with poisoned := insertNat (lineOf pa) s.poisoned }
    | none => s
  | (s, .error _) => s

/-- The bytes of a part in runs that are written: where a destination byte is also a source byte, it may
keep its old value (R377). -/
def writtenRuns (b : CopyBlock) (id : Nat) (dst : Word) : Nat → List Byte → List (Word × List Byte)
  | _, [] => []
  | key, x :: xs =>
    let rest := writtenRuns b id (dst + 1) (key + 1) xs
    if b.isSource dst && !Config.copyTakesNew id key then rest
    else
      match rest with
      | (a, bs) :: more => if a = dst + 1 then (dst, x :: bs) :: more else (dst, [x]) :: rest
      | [] => [(dst, [x])]

/-- Performs one part of a copy (R377). -/
def copyChunk (s0 : State) (e : Eng) (b : CopyBlock) (fetched : List (Nat × Option (List Byte)))
    (y : State × CopyNotes) (x : Chunk) : State × CopyNotes :=
  let s := y.1
  let read : State × EngRead :=
    if b.fill then
      (s, .bytes ((upTo x.n).map fun i => b.source.extractLsb' (8 * ((x.col + i) % 4)) 8))
    else engRead s0 s e fetched x.key x.src x.n
  match read with
  | (s, .fault f) => (s, { y.2 with fails := (f.addr, f.cause.code) :: y.2.fails })
  | (s, .waits) => (s, y.2)
  | (s, .poison va) | (s, .lost va) =>
    let line := va.toNat / 128
    let s := if y.2.lines.contains line then s else s.engLog e 0x0006 e.src 0 va
    (poisonDest s e x, { y.2 with lines := line :: y.2.lines })
  | (s, .bytes bs) =>
    (writtenRuns b e.id x.dst x.key bs).foldl (fun (y : State × CopyNotes) (a, run) =>
      match engWrite y.1 e a run with
      | (s, none) => (s, y.2)
      | (s, some f) => (s, { y.2 with fails := (f.addr, f.cause.code) :: y.2.fails })) (s, y.2)

/-- The failure with the lowest address. -/
def lowestFail : (Word × Nat) → List (Word × Nat) → Word × Nat
  | x, [] => x
  | x, y :: ys => lowestFail (if y.1 < x.1 then y else x) ys

/-- The one entry of a copy some of whose bytes failed translation (R377): 0x0004, 0x0005 or 0x000A. -/
def State.copyFailLog (s : State) (e : Eng) (fails : List (Word × Nat)) : State :=
  match fails with
  | [] => s
  | x :: xs =>
    match lowestFail x xs with
    | (va, cause) =>
      if cause = 0x25 then s.engLog e 0x0004 e.src 0 va
      else if cause = 0x24 then s.engLog e 0x0005 e.src 0 va
      else s.engLog e 0x000A e.src cause va

/-- Performs the reads and writes of a copy whose first destination byte is `d0` (R377). -/
def copyBytes (s : State) (e : Eng) (b : CopyBlock) (fetched : List (Nat × Option (List Byte)))
    (d0 : Word) : State :=
  match (b.chunks d0).foldl (copyChunk s e b fetched) (s, { fails := [], lines := [] }) with
  | (s, notes) => s.copyFailLog e notes.fails

/-- Asks for every source byte that lies in a Sector window. -/
def copyAsk (s : State) (e : Eng) (b : CopyBlock) : State × List (Nat × Option (List Byte)) :=
  if b.fill then (s, [])
  else (upTo b.rows).foldl (fun y r =>
    (pageCuts (b.rowbytes / 65536 + 2) (b.sourceRow r) b.rowbytes).foldl
      (fun (y : State × List (Nat × Option (List Byte))) (va, n) =>
        let key := r * b.rowbytes + (va - b.sourceRow r).toNat
        match engAsk y.1 e key va n with
        | (s, more) => (s, y.2 ++ more)) y) (s, [])

/-- A write of the engine operation still waits for its reply. -/
def State.engWriting (s : State) (core id : Nat) : Bool :=
  s.requests.any fun r =>
    (match r.who with
     | .engine c i _ => c == core && i == id
     | .load _ _ _ _ | .store _ _ _ | .wait _ _ _ | .fetch _ _ _ | .tender _ => false) &&
    (match r.body.kind with
     | .write _ => true
     | _ => false)

/-- A read of the engine operation still waits for its reply. -/
def State.engFetching (s : State) (e : Eng) : Bool :=
  s.requests.any fun r =>
    (match r.who with
     | .engine c i _ => c == e.core && i == e.id
     | .load _ _ _ _ | .store _ _ _ | .wait _ _ _ | .fetch _ _ _ | .tender _ => false) &&
    (match r.body.kind with
     | .read _ => true
     | _ => false)

/-- The copy reaches scratchpad as its destination, or as its source (R408). -/
def CopyBlock.scratchDest (b : CopyBlock) (r : Option Ring) : Bool :=
  if b.rmode then (match r with | some r => inScratchWindow r.base | none => false)
  else inScratchWindow b.dest

/-- The copy's source lies in scratchpad (R408). -/
def CopyBlock.scratchSource (b : CopyBlock) : Bool := !b.fill && inScratchWindow b.source

/-- A stamp takes the start of a copy (R408). -/
def Stamp.copyStart (x : Stamp) (clk : Nat) (inn out : Bool) : Stamp :=
  let first (o : Option Nat) : Option Nat := match o with | some n => some n | none => some clk
  { x with inStart := if inn then first x.inStart else x.inStart
           outStart := if out then first x.outStart else x.outStart }

/-- A stamp takes the end of a copy that started while it was open (R408, R471). -/
def Stamp.copyEnd (x : Stamp) (stamp : Option Nat) (clk : Nat) (inn out : Bool) : Stamp :=
  if stamp = some x.id then
    { x with inEnd := if inn then some clk else x.inEnd, outEnd := if out then some clk else x.outEnd }
  else x

end Sys2Proof.Machine
end

