-- ==== Sys2Proof/Machine/EngineQueue.lean ====
section
/-! DEFINITION. The engine queues (R75 to R77): `cpy`, `qwait`, `qadd` and `qfence` (R373, R374, R376),
and the events in which a queue performs its entries (R141, R142, R188, R377). -/

namespace Sys2Proof.Machine

/-! ### Entries -/

/-- The entries of an engine queue (R75). -/
def engineDepth : Nat := 32

/-- A new entry of a quad. -/
def newEntry (s : State) (g : GangRef) (n : Nat) (body : EntryBody) : Entry :=
  { id := s.nextId, ctx := s.ctxOf g, team := g.t, wave := g.w, quad := n, body := body
    fetched := [], done := false, sent := false, logged := [], stamp := none }

/-- Places entries of the quads of a gang at the tail of a queue, one after another. -/
def State.placeEntries (s : State) (g : GangRef) (q : BitVec 3) (xs : List (Nat × EntryBody)) : State :=
  xs.foldl (fun s x =>
    let e := newEntry s g x.1 x.2
    (s.modEngine (s.coreOf g) q (· ++ [e])).bumpId) s

/-- A scalar instruction that places at most one entry per quad (R373): a queue without room stalls the
gang (R75). -/
def State.enqueue (s : State) (g : GangRef) (q : BitVec 3) (xs : List (Nat × EntryBody)) : State :=
  if engineDepth < (s.engine (s.coreOf g) q).length + xs.length then s.hold g .engineFull
  else (s.placeEntries g q xs).retire g 1 1 .count

/-- The quads whose s[sa] is not 0: the others place nothing (R373). -/
def State.placing (s : State) (g : GangRef) (sa : SReg) : List Nat :=
  (s.live g).filter fun n => (s.quadOf g n).rs sa != 0

/-- The checks of `cpy` in one quad (R376): the block's address, its read, its fields, then every byte
and counter of the copy. -/
def cpyQuad (s : State) (g : GangRef) (sa : SReg) (n : Nat) : State × Check CopyBlock :=
  let va := (s.quadOf g n).rs sa
  let bad : MFault := { cause := .copyBlock, addr := va, tf := none }
  if va.toNat % 64 ≠ 0 then (s, .fault { cause := .alignment, addr := va, tf := none })
  else
    match blockAt s g 1 n va 64 with
    | (s, .fault f) => (s, .fault f)
    | (s, .waits) => (s, .waits)
    | (s, .ok bs) =>
      match copyBlockOf bs with
      | none => (s, .fault bad)
      | some b =>
        let ring := (s.teamOf g).ring b.ring
        if b.ringOk ring then
          match checkSpans s (engAt s g) (b.spans ring) with
          | (s, some f) => (s, .fault f)
          | (s, none) => (s, .ok b)
        else (s, .fault bad)

/-- `cpy` (R373, R376). -/
def execCpy (sa : SReg) (q : BitVec 3) (s : State) : Out :=
  withGang s fun g =>
    s.checkedQuads g (s.placing g sa) 1 (fun s n => cpyQuad s g sa n) fun s bs =>
      s.enqueue g q (bs.map fun x => (x.1, .copy x.2.job))

/-- `qwait` and `qadd` (R373): the counter checks of R124, then one entry per quad. -/
def queueCounter (sa sb : SReg) (q : BitVec 3) (need : Need) (body : Word → Word → EntryBody)
    (s : State) : Out :=
  withGang s fun g =>
    let qs := s.placing g sa
    s.checked g (qs.map fun n => counterAsk n ((s.quadOf g n).rs sa) need) 1 fun s _ =>
      s.enqueue g q (qs.map fun n => (n, body ((s.quadOf g n).rs sa) ((s.quadOf g n).rs sb)))

/-- `qwait` (R142, R373). -/
def execQwait (sa sb : SReg) (q : BitVec 3) (s : State) : Out :=
  queueCounter sa sb q .counterGet .qwait s
/-- `qadd` (R188, R373). -/
def execQadd (sa sb : SReg) (q : BitVec 3) (s : State) : Out :=
  queueCounter sa sb q .counterAdd .qadd s

/-- The queues of a mask. -/
def maskQueues (mask : BitVec 8) : List (BitVec 3) :=
  ((upTo 8).filter fun i => mask.getLsbD i).map (BitVec.ofNat 3)

/-- `qfence` (R77, R374): one marker for the gang at the tail of every named queue at once, when each
has room; a mask of zero places none. -/
def execQfence (mask : BitVec 8) (s : State) : Out :=
  withGang s fun g =>
    let core := s.coreOf g
    let qs := maskQueues mask
    if qs.any fun q => decide (engineDepth ≤ (s.engine core q).length) then s.hold g .engineFull
    else
      let e := newEntry s g (s.firstLive g) (.marker mask s.nextId)
      (qs.foldl (fun s q => s.modEngine core q (· ++ [e])) s).bumpId.retire g 1 1 .count

/-! ### Progress of a queue -/

/-- An entry's operation stands midway, and goes on before its context is saved (notes/assumptions/82.md): it has
claimed an index of a ring, or its claim or the write of its element is on its way. -/
def State.midway (s : State) (core : Nat) (e : Entry) : Bool :=
  e.fetched.any (fun x => x.1 == claimKey || x.1 == awaitKey) || s.engAsked (e.eng core) claimKey ||
    s.engAsked (e.eng core) awaitKey ||
    match e.body with
    | .copy j => j.claimed.isSome
    | .qwait _ _ | .qadd _ _ | .nest _ | .marker _ _ => false

/-- The head of a queue. While its context is being saved, only an entry that has been performed but for
its completion add goes on, or one that stands midway (R423, R424). -/
def State.engineHead (s : State) (core : Nat) (q : BitVec 3) : Option Entry :=
  match s.engine core q with
  | e :: _ => if (s.ctx e.ctx).saving && !e.done && !s.midway core e then none else some e
  | [] => none

/-- The head of a queue is changed. -/
def State.setHead (s : State) (core : Nat) (q : BitVec 3) (e : Entry) : State :=
  s.modEngine core q fun l =>
    match l with
    | _ :: rest => e :: rest
    | [] => []

/-- The head of a queue has been performed: stalled gangs may try again (R75, R76). -/
def State.popHead (s : State) (core : Nat) (q : BitVec 3) : State :=
  (s.modEngine core q (·.drop 1)).wake core

/-- A change to the stamp of the entry's quad (R408). -/
def State.stampOf (s : State) (e : Entry) (f : Stamp → Stamp) : State :=
  s.modQuad e.team e.wave e.quad fun q => { q with stamp := q.stamp.map f }

/-- The handle that a copy of an entry names. -/
def State.jobRing (s : State) (e : Entry) (j : CopyJob) : Option Ring :=
  if j.b.rmode then (s.team e.team).ring j.b.ring else none

/-- The stamp of a copy's quad takes its end (R408, R471): when its completion add is performed, or at its
last write when it has no counter. -/
def State.accrueEnd (s : State) (e : Entry) : State :=
  match e.body with
  | .copy j =>
    s.stampOf e (·.copyEnd e.stamp s.clk (j.b.scratchDest (s.jobRing e j)) j.b.scratchSource)
  | .qwait _ _ => s
  | .qadd _ _ => s
  | .nest _ => s
  | .marker _ _ => s

/-- The head of a queue has nothing left to do (R76): it is performed, and leaves, once every request that it sent to
another device has its reply. -/
def State.finishHead (s : State) (core : Nat) (q : BitVec 3) (e : Entry) : State :=
  if s.engOutstanding core e.id then s.setHead core q { e with done := true, sent := true, logged := [] }
  else (s.accrueEnd e).popHead core q

/-- The last write of a ring copy without a counter has been performed: the stamp takes its end (R471). -/
def State.lastWrite (s : State) (core : Nat) (q : BitVec 3) (e : Entry) : State :=
  match e.body with
  | .copy j =>
    if j.b.rmode && j.b.ctr == 0 && j.written && e.stamp.isSome && !s.engWriting core e.id then
      (s.accrueEnd e).setHead core q { e with stamp := none }
    else s
  | .qwait _ _ | .qadd _ _ | .nest _ | .marker _ _ => s

/-- The stamps of the copies at the heads of a core's queues take the ends that the last reply has brought (R471). -/
def State.lastWrites (s : State) (core : Nat) : State :=
  (upTo 8).foldl (fun s q =>
    match s.engine core (BitVec.ofNat 3 q) with
    | e :: _ => s.lastWrite core (BitVec.ofNat 3 q) e
    | [] => s) s

/-- The heads of a core's queues whose last reply has come leave (R76). -/
def State.retireSent (s : State) (core : Nat) : State :=
  (upTo 8).foldl (fun s q =>
    match s.engine core (BitVec.ofNat 3 q) with
    | e :: _ => if e.sent then s.finishHead core (BitVec.ofNat 3 q) e else s
    | [] => s) s

/-- What an engine's counter operation leaves of the head. -/
def EngStep.settle (x : EngStep) (core : Nat) (q : BitVec 3) (e : Entry) : State :=
  if x.finished then x.s.finishHead core q e
  else x.s.setHead core q { e with logged := x.logged }

/-- The completion add of an entry that has been performed (R377, R380): the address and addend, or
none. -/
def EntryBody.completion : EntryBody → Word × Word
  | .copy j => (j.b.ctr, j.b.addend)
  | .nest b => (b.s3, b.s4)
  | .qwait _ _ => (0, 0)
  | .qadd _ _ => (0, 0)
  | .marker _ _ => (0, 0)

/-- An entry has been performed but for its completion add (R377, R380). -/
def State.completeHead (s : State) (core : Nat) (q : BitVec 3) (e : Entry) : State :=
  if e.body.completion.1 = 0 then s.finishHead core q e
  else s.setHead core q { e with done := true, logged := [] }

/-- The counter operation that the head of a queue is held at: an engine wait, an engine add, or the
completion add of an entry that has been performed. -/
def State.headCounter (s : State) (core : Nat) (q : BitVec 3) (waits adds completes : Bool) : State :=
  match s.engineHead core q with
  | none => s
  | some e =>
    if e.sent then s
    else match e.body with
    | .qwait a t =>
      if waits then (engWait s (e.eng core) e.logged e.fetched 0 a t.toNat).settle core q e else s
    | .qadd a x => if adds then (engAdd s (e.eng core) e.logged a x).settle core q e else s
    | .copy _ | .nest _ =>
      if completes && e.done then
        (engAdd s (e.eng core) e.logged e.body.completion.1 e.body.completion.2).settle core q e
      else s
    | .marker _ _ => s

/-- The head of a queue has logged this detail. -/
def State.headLogged (s : State) (core : Nat) (q : BitVec 3) (detail : Nat) : Bool :=
  match s.engineHead core q with
  | some e => e.logged.contains detail
  | none => false

/-- `ENGINE_WAIT_SATISFIED` (R142, R188). -/
def execEngineWaitSatisfied (core : Nat) (q : BitVec 3) (s : State) : Out :=
  .next (s.headCounter core q true false false)

/-- `ENGINE_WAIT_REEVALUATE` (R142, R181): a wait that failed its checks is evaluated again. -/
def execEngineWaitReevaluate (core : Nat) (q : BitVec 3) (s : State) : Out :=
  .next
    (if s.headLogged core q 1 || s.headLogged core q 3 then s.headCounter core q true false false else s)

/-- `ENGINE_ADD_PERFORM` (R373). -/
def execEngineAddPerform (core : Nat) (q : BitVec 3) (s : State) : Out :=
  .next (s.headCounter core q false true false)

/-- `ENGINE_COMPLETION_ADD` (R188). -/
def execEngineCompletionAdd (core : Nat) (q : BitVec 3) (s : State) : Out :=
  .next (s.headCounter core q false false true)

/-- `ENGINE_BINDING_RETRY` (R188): an add whose binding failed is tried again. -/
def execEngineBindingRetry (core : Nat) (q : BitVec 3) (s : State) : Out :=
  .next (if s.headLogged core q 4 then s.headCounter core q false true true else s)

/-- The group of the marker at the head of a queue. -/
def State.headGroup (s : State) (core : Nat) (q : BitVec 3) : Option Nat :=
  match s.engineHead core q with
  | some e =>
    match e.body with
    | .marker _ n => some n
    | .copy _ => none
    | .qwait _ _ => none
    | .qadd _ _ => none
    | .nest _ => none
  | none => none

/-- The queues of a core that hold a marker of a group. -/
def State.groupQueues (s : State) (core group : Nat) : List (BitVec 3) :=
  (maskQueues 0xFF).filter fun q => (s.engine core q).any fun e =>
    match e.body with
    | .marker _ n => n == group
    | .copy _ => false
    | .qwait _ _ => false
    | .qadd _ _ => false
    | .nest _ => false

/-- `QFENCE_MARKER_RETIRE` (R77): the markers of a group stand at the heads of all their queues and
retire together. -/
def execQfenceMarkerRetire (core group : Nat) (s : State) : Out :=
  .next
    (let qs := s.groupQueues core group
     if qs.all fun q => s.headGroup core q == some group then
       qs.foldl (fun s q => s.popHead core q) s
     else s)

/-! ### Copies -/

/-- The copy in an entry. -/
def Entry.job? (e : Entry) : Option CopyJob :=
  match e.body with
  | .copy j => if e.done then none else some j
  | .qwait _ _ => none
  | .qadd _ _ => none
  | .nest _ => none
  | .marker _ _ => none

/-- A copy starts: its Sector bytes are asked for, the stamp takes the start, and the copy engine is busy with it for a
number of cycles that is timing (R377, R408, R468; notes/assumptions/61.md). -/
def State.startCopy (s : State) (core : Nat) (e : Entry) (j : CopyJob) : State × Entry :=
  let r := s.jobRing e j
  let s := s.stampOf e (·.copyStart s.clk (j.b.scratchDest r) j.b.scratchSource)
  let s := s.stall core e.ctx 10 (Config.copyCycles e.id)
  match copyAsk s (e.eng core) j.b with
  | (s, more) =>
    let open? := (s.quad e.team e.wave e.quad).stamp.map (·.id)
    (s, { e with body := .copy { j with asked := true }, fetched := more, stamp := open? })

/-- A ring's claim word, F or E fails as a copy uses it (R377): one entry is logged, and the copy goes
no further. -/
def State.ringFails (s : State) (core : Nat) (q : BitVec 3) (e : Entry) (va : Word) : State :=
  (s.engLog (e.eng core) 0x0002 2 1 va).completeHead core q e

/-- A word of a ring is there for an engine (R124, R377); what else its failure logs is logged (R40, R160). -/
def ringWord (s : State) (e : Eng) (va : Word) (need : Need) : State × Option Loc :=
  match engLocate s e va 8 8 need with
  | (s, .ok l) => if s.poisonAt l then (s.engPoison e va, none) else (s, some l)
  | (s, .error f) => (s.engTransLog e f, none)

/-- The claim of an index (R141 step 1): an atomic add of 1 on the claim word. -/
def State.claimIndex (s : State) (core : Nat) (q : BitVec 3) (e : Entry) (j : CopyJob) (r : Ring) :
    State :=
  let g := e.eng core
  let claimed (s : State) (i : Word) : State :=
    s.setHead core q { e with body := .copy { j with claimed := some i } }
  match ringWord s g r.claim .store with
  | (s, none) => s.ringFails core q e r.claim
  | (s, some l) =>
    match l.sector with
    | some (w, off, va) =>
      match fetchedAt e.fetched claimKey 8 with
      | some (some bs) => claimed s (field64 bs 0)
      | some none => s.ringFails core q e r.claim
      | none =>
        if s.engAsked g claimKey then s
        else
          match sendRemote s e.ctx w off (.engine core e.id claimKey) va
              (.atomic .add true 1 0 false false) with
          | (s, some _) => s.setHead core q e
          | (s, none) => (s.engLog g 0x0006 7 0 va).ringFails core q e r.claim
    | none =>
      let s := s.engFlush g l
      let i := g.counter s l
      match s.orderAll e.ctx (g.counterOps s l) with
      | .error s => s
      | .ok s => claimed (s.engSetCounter g (i + 1) l) i

/-- `COPY_PERFORM` (R76, R377): the head of a queue is a copy. Once the bytes that lie in Sector windows
have come, its bytes are copied, or an index of its ring is claimed. -/
def execCopyPerform (core : Nat) (q : BitVec 3) (s : State) : Out :=
  .next
    (match s.engineHead core q with
     | none => s
     | some e =>
       match e.job? with
       | none => s
       | some j =>
         let (s, e) := if j.asked then (s, e) else s.startCopy core e j
         let j := { j with asked := true }
         if s.engFetching (e.eng core) then s.setHead core q e
         else if j.b.rmode then
           match s.jobRing e j with
           | none => (s.setHead core q e).completeHead core q e
           | some r => if j.claimed.isSome then s else s.claimIndex core q e j r
         else (copyBytes s (e.eng core) j.b e.fetched j.b.dest).completeHead core q e)

/-- `ENGINE_RING_FREE_WAIT_END` (R141 steps 2 and 3): E + S ≥ i + 1, so the claimed slot is written. -/
def execEngineRingFreeWaitEnd (core : Nat) (q : BitVec 3) (s : State) : Out :=
  .next
    (match s.engineHead core q with
     | none => s
     | some e =>
       match e.job? with
       | none => s
       | some j =>
         match j.claimed, s.jobRing e j with
         | some i, some r =>
           if j.written then s
           else if fetchedAt e.fetched freeKey 0 = some none then s.ringFails core q e r.freed
           else
             match ringWord s (e.eng core) r.freed .counterGet with
             | (s, none) => s.ringFails core q e r.freed
             | (s, some _) =>
               let x := engWait s (e.eng core) e.logged e.fetched freeKey r.freed (r.target false i)
               if x.finished then
                 let e' := { e with body := .copy { j with written := true }, logged := [] }
                 ((copyBytes x.s (e.eng core) j.b e.fetched (r.slot i)).setHead core q e').lastWrite core q e'
               else if x.logged.contains 1 then x.s.completeHead core q e
               else x.s.setHead core q { e with logged := x.logged }
         | _, _ => s)

/-- The add of 1 to F of a ring copy (R141 step 5, R377): one that goes to another device is over with its reply, and one
that fails there ends the copy, which has logged it. -/
def State.publishAdd (s : State) (core : Nat) (q : BitVec 3) (e : Entry) (r : Ring) : State :=
  let y := engAddAs s (e.eng core) e.logged awaitKey r.filled 1
  if y.finished && !y.s.engAsked (e.eng core) awaitKey then y.s.completeHead core q e
  else y.s.setHead core q { e with logged := y.logged }

/-- `ENGINE_RING_PUBLISH` (R141 steps 4 and 5): F ≥ i, so 1 is added to F with release. -/
def execEngineRingPublish (core : Nat) (q : BitVec 3) (s : State) : Out :=
  .next
    (match s.engineHead core q with
     | none => s
     | some e =>
       match e.job? with
       | none => s
       | some j =>
         match j.claimed, s.jobRing e j with
         | some i, some r =>
           if !j.written || s.engAsked (e.eng core) awaitKey then s
           else if (fetchedAt e.fetched awaitKey 0).isSome then s.completeHead core q e
           else if fetchedAt e.fetched fillKey 0 = some none then s.ringFails core q e r.filled
           else
             match ringWord s (e.eng core) r.filled .counterAdd with
             | (s, none) => s.ringFails core q e r.filled
             | (s, some _) =>
               if j.published then s.publishAdd core q e r
               else
                 let x := engWait s (e.eng core) e.logged e.fetched fillKey r.filled i.toNat
                 let e := { e with logged := x.logged }
                 if x.finished then x.s.publishAdd core q { e with body := .copy { j with published := true } } r
                 else if x.logged.contains 1 then x.s.completeHead core q e
                 else x.s.setHead core q e
         | _, _ => s)

end Sys2Proof.Machine
end

