-- ==== Sys2Proof/Machine/Tender.lean ====
section
/-! DEFINITION. What Tender and the dispatcher share: a port's access to a register block (R30, R49), their
reads and writes of a context's memory, their counter adds (R62, R89), how an admitted packet takes its place
(R61, R62, R82), and the reset sequence of a context (R37). -/

namespace Sys2Proof.Machine

/-! ### Register blocks -/

/-- Tender records an attempt in its device log (R30, R31, R434). -/
def State.tenderNote (s : State) (p : Port) (off : Nat) : State :=
  { s with tenderLog := { port := p, offset := off } :: s.tenderLog }

/-- The completion of a non-posted access of a port (R432 to R434). -/
def State.replyTo (s : State) (p : Port) (r : HostReply) : State := s.modPort p fun x => { x with reply := r }

/-- A write by a port to a control block or a Lantern window: before firmware runs none is open, and a port
that does not own the context is dropped (R30, R49, R50, R467). -/
def State.blockWrite (s : State) (p : Port) (c : BitVec 6) (off : Nat) (k : State → State) : State :=
  if s.fw ≠ .running then s else if s.owner c = some p then k s else s.tenderNote p off

/-- A read of a register of a control block or a Lantern window; it reads as zero where the port may not
(R30, R49, R467). -/
def State.blockRead (s : State) (p : Port) (c : BitVec 6) (off : Nat) (k : State → State × Word) : State :=
  let zero : HostReply := .data (leBytes 8 0)
  if s.fw ≠ .running then s.replyTo p zero
  else if s.owner c = some p then
    match k s with
    | (s, v) => s.replyTo p (.data (leBytes 8 v.toNat))
  else (s.tenderNote p off).replyTo p zero

/-- The offset of a register of a control block (R32). -/
def blockOffset (c : BitVec 6) (reg : Nat) : Nat := 0x400000 + 0x1000 * c.toNat + reg

/-- The offset of a register of a Lantern window (R467). -/
def lanternOffset (c : BitVec 6) (reg : Nat) : Nat := 0x600000 + 0x1000 * c.toNat + reg

/-- CTXSTATE.result (R33). -/
def State.setResult (s : State) (c : BitVec 6) (n : Byte) : State := s.modCtx c fun x => { x with result := n }

/-! ### A context's memory -/

/-- Some line of a range is poisoned (R160). -/
def State.poisonedRange (s : State) (pa n : Nat) : Bool :=
  (upTo ((pa + n + 127) / 128 - pa / 128)).any fun i => s.isPoisoned (lineOf pa + i)

/-- The lines of a range are read (R159). -/
def State.touchRange (s : State) (c : BitVec 6) (pa n : Nat) : State :=
  (upTo ((pa + n + 127) / 128 - pa / 128)).foldl (fun s i => s.touchLine (lineOf pa + i) c) s

/-- A line of a range is poisoned and not written whole by a write of the range (R160). -/
def State.poisonedPart (s : State) (pa n : Nat) : Bool :=
  (upTo ((pa + n + 127) / 128 - pa / 128)).any fun i =>
    let l := lineOf pa + i
    s.isPoisoned l && !(decide (pa ≤ 128 * l) && decide (128 * l + 128 ≤ pa + n))

/-- What Tender or the dispatcher reads: bytes, a failure, or a wait for Sector replies. -/
inductive TRead where
  | bytes (bs : List Byte)
  | failed
  | waits
  deriving DecidableEq, Repr

/-- What a failed translation of Tender or the dispatcher logs beside the entry of its operation: that the frame is not
the context's, or that a table line is poisoned (R40, R160, R439). -/
def State.deviceFault (s : State) (c : BitVec 6) (src : Nat) (va : Word) (f : TFault) : State :=
  s.logFault c f (.plain 0 src 0 va)

/-- Bytes that the dispatcher reads for a queue through a Sector window (R438): they are asked for once, and one
that finds no link or is refused fails (R439, R443). -/
def State.queueFetch (s : State) (c : BitVec 6) (q : BitVec 8) (va : Word) (w off : Nat) (kind : RemoteKind) :
    State × TRead :=
  match s.fetches.find? fun f => f.ctx == c && f.queue == q && f.addr == va with
  | some f =>
    match f.reply with
    | none => (s, .waits)
    | some none => (s, .failed)
    | some (some bs) => (s, .bytes bs)
  | none =>
    match sendRemote s c w off (.tender q) va kind with
    | (s, some r) =>
      ({ s with fetches := { ctx := c, queue := q, addr := va, req := r, reply := none } :: s.fetches }, .waits)
    | (s, none) => (s.log c (.plain 0x0006 7 0 va), .failed)

/-- The dispatcher has done with what it read for a queue. -/
def State.clearFetches (s : State) (c : BitVec 6) (q : BitVec 8) : State :=
  { s with fetches := s.fetches.filter fun f => f.ctx != c || f.queue != q }

/-- A write that the dispatcher has made for a queue through a Sector window has no reply yet. -/
def State.queueWrites (s : State) (c : BitVec 6) (q : BitVec 8) : Bool :=
  s.requests.any fun r =>
    r.ctx == c && remoteWrites r.body.kind &&
      (match r.who with
       | .tender p => p == q
       | .load _ _ _ _ | .store _ _ _ | .wait _ _ _ | .engine _ _ _ | .fetch _ _ _ => false)

/-- Tender or the dispatcher reads bytes of a context's memory. A poisoned line is consumed under the source `src`
(R160). Bytes of a Sector window are fetched for a queue; Tender's own reads of one fail. -/
def deviceRead (s : State) (c : BitVec 6) (q : Option (BitVec 8)) (src : Nat) (va : Word) (n : Nat) :
    State × TRead :=
  (pageCuts (n / 65536 + 2) va n).foldl (fun x (va, n) =>
    match x.2 with
    | .failed => x
    | .waits => x
    | .bytes bs =>
      match translateWalk x.1 c va .read with
      | (s, .error f) => (s.deviceFault c src va f, .failed)
      | (s, .ok (pa, e)) =>
        match physKind pa with
        | .hbm =>
          if s.poisonedRange pa n then (s.log c (.plain 0x0006 src 0 va), .failed)
          else ((s.touchRange c pa n).lowAs pa e.low, .bytes (bs ++ s.mem.read pa n))
        | .host _ =>
          match hostBytes s n with
          | (s, more) => (s, .bytes (bs ++ more))
        | .sector w off =>
          match q with
          | none => (s, .failed)
          | some q =>
            match s.queueFetch c q va w off (.read n) with
            | (s, .bytes more) => (s, .bytes (bs ++ more))
            | (s, r) => (s, r)
        | .unpopulated => (s, .failed)) (s, .bytes [])

/-- Tender reads bytes of a context's memory; `none` when the read fails. -/
def tenderRead (s : State) (c : BitVec 6) (va : Word) (n : Nat) : State × Option (List Byte) :=
  match deviceRead s c none 8 va n with
  | (s, .bytes bs) => (s, some bs)
  | (s, .failed) => (s, none)
  | (s, .waits) => (s, none)

/-- Tender writes bytes of a context's memory; `none` when it cannot (R425). -/
def tenderWrite (s : State) (c : BitVec 6) (va : Word) (bs : List Byte) : Option State :=
  ((pageCuts (bs.length / 65536 + 2) va bs.length).foldl (fun (x : Option State × List Byte) (va, n) =>
    let s : Option State :=
      match x.1 with
      | none => none
      | some s =>
        match translateWalk s c va .store with
        | (_, .error _) => none
        | (s, .ok (pa, e)) =>
          if physKind pa = .hbm && !s.poisonedPart pa n then
            some ((s.homeWrites c pa (x.2.take n) 8).lowAs pa e.low)
          else none
    (s, x.2.drop n)) (some s, bs)).1

/-! ### Counters of queues, packets and Tender -/

/-- The place of a counter of this device that a queue or packet names (R124); `none` when it fails the
checks or its translation. -/
def State.counterPlace (s : State) (c : BitVec 6) (va : Word) (need : Need) : Option Nat :=
  if va.toNat % 8 ≠ 0 then none
  else
    match translateFresh s c va need with
    | .ok (pa, _) => if physKind pa = .hbm && !s.isPoisoned (lineOf pa) then some pa else none
    | .error _ => none

/-- A counter operation that fails on a poisoned line has consumed it (R160), and one that fails its translation logs
what that logs (R40, R160). -/
def State.counterPoison (s : State) (c : BitVec 6) (src : Nat) (va : Word) (need : Need) : State :=
  if va.toNat % 8 ≠ 0 then s
  else
    match translateFresh s c va need with
    | .ok (pa, _) =>
      if physKind pa = .hbm && s.isPoisoned (lineOf pa) then s.log c (.plain 0x0006 src 0 va) else s
    | .error f => s.deviceFault c src va f

/-- A counter as the dispatcher finds it for a queue (R58, R438): its value, with its place when it is this
device's; or it fails the checks of R124 or its translation; or its Sector reply is awaited. -/
inductive QCounter where
  | value (v : Word) (place : Option Nat)
  | bad
  | waits
  deriving DecidableEq, Repr

/-- The dispatcher reads a counter for a queue. -/
def State.queueCounter (s : State) (c : BitVec 6) (q : BitVec 8) (va : Word) : State × QCounter :=
  match s.counterPlace c va .counterGet with
  | some pa => ((s.touchWalk c va).dirtyLine (lineOf pa) c, .value (s.word pa) (some pa))
  | none =>
    if va.toNat % 8 ≠ 0 then (s, .bad)
    else
      match translateWalk s c va .counterGet with
      | (t, .ok (pa, _)) =>
        match physKind pa with
        | .sector w off =>
          match t.queueFetch c q va w off (.get true) with
          | (t, .bytes bs) => (t, .value (field64 bs 0) none)
          | (t, .failed) => (t, .bad)
          | (t, .waits) => (t, .waits)
        | .hbm | .host _ | .unpopulated => (s.counterPoison c 6 va .counterGet, .bad)
      | (_, .error _) => (s.counterPoison c 6 va .counterGet, .bad)

/-- The core number that stands for the dispatcher in a Sector request. -/
def dispatcherCore : Nat := 288

/-- An add of this device's own queues (R62, R64, R67, R89). -/
inductive AddDone where
  /-- It was performed, or it failed and was logged (R63, R67). -/
  | over (s : State)
  /-- It has left on a Sector link: its reply is awaited. -/
  | sent (s : State) (req : Nat)
  /-- A replay holds it (R475). -/
  | held (s : State)
  deriving DecidableEq, Repr

/-- The state that an add leaves. -/
def AddDone.state : AddDone → State
  | .over s => s
  | .sent s _ => s
  | .held s => s

/-- A counter add with a system-scope release by the dispatcher (R62, R63, R64, R67, R89, R127). `who` awaits the
reply of a Sector window. -/
def dispatchAdd (s : State) (c : BitVec 6) (va addend : Word) (who : Requester) : AddDone :=
  let bad (s : State) : AddDone := .over (s.log c (.plain 0x0002 6 1 va))
  match s.counterPlace c va .counterAdd with
  | some pa =>
    let old := s.word pa
    let s := s.touchWalk c va
    if 2 ^ 64 ≤ old.toNat + addend.toNat then
      .over ((s.dirtyLine (lineOf pa) c).log c (.plain 0x0002 6 2 va))
    else
      match s.orderAll c [(pa, outsideOrder va tenderReq)] with
      | .error s => .held s
      | .ok s =>
        .over (releaseOutside (s.homeWrite c pa (leBytes 8 (old + addend).toNat) 6) (lineOf pa))
  | none =>
    if va.toNat % 8 ≠ 0 then bad s
    else
      match translateWalk s c va .counterAdd with
      | (t, .ok (pa, _)) =>
        match physKind pa with
        | .sector w off =>
          match sendRemote t c w off who va (.add addend true) with
          | (t, some r) => .sent t r
          | (t, none) => bad (t.log c (.plain 0x0006 7 0 va))
        | .hbm | .host _ | .unpopulated => bad (s.counterPoison c 6 va .counterAdd)
      | (_, .error _) => bad (s.counterPoison c 6 va .counterAdd)

/-! ### Packets take their place -/

/-- The type of a packet (R60). -/
def packetType (p : List Byte) : Nat := field p 0 1

/-- The irq bit of a packet (R60). -/
def packetIrq (p : List Byte) : Bool := field p 1 1 % 2 == 1

/-- Teams of a launch packet in x, y and z (R61). -/
def packetTeams (p : List Byte) : Nat × Nat × Nat := (field p 24 4, field p 28 4, field p 32 4)

/-- The GRIDID that a launch takes, and the counter after it (R82). -/
def nextGrid (g : BitVec 32) : BitVec 32 × BitVec 32 :=
  if g = 0xFFFFFFFF then (0, 1) else (g, g + 1)

/-- The launch of a packet (R61, R81). -/
def launchOf (c : BitVec 6) (q : BitVec 8) (index : Word) (p : List Byte) (k : Kernel) (grid : BitVec 32) :
    Launch :=
  let (x, y, z) := packetTeams p
  { ctx := c, queue := q, index := index, packet := p, kernel := k, gridid := grid, state := .dispatching
    resumed := false, total := x * y * z, next := 0, ended := 0, compAddr := field64 p 40, addend := field64 p 48
    parent := field32 p 56, irq := packetIrq p, sent := false }

/-- A packet completes: it leaves its queue, and an interrupt that it asks for is raised (R45, R64). -/
def State.finishPacket (s : State) (c : BitVec 6) (q : BitVec 8) (id : Nat) : State :=
  let a := (s.queue c q).admitted.find? fun a => a.id == id
  let s := s.modQueue c q fun u => { u with admitted := u.admitted.filter fun a => a.id != id }
  match a with
  | some a => if packetIrq a.packet then s.raise c 0 else s
  | none => s

/-- A queue stops (R58). -/
def State.stopQueue (s : State) (c : BitVec 6) (q : BitVec 8) (code detail : Nat) (va : Word) : State :=
  (s.modQueue c q fun u => { u with state := .stopped }).log c (.plain code 6 detail va)

/-- The core whose copy engine performs copy packets (R65; notes/assumptions/30.md). -/
def packetCore : Nat := 0

/-- A queue's entry for a packet. -/
def admittedOf (id : Nat) (e : Entering) : Admitted :=
  { id := id, index := e.index, packet := e.packet, started := e.kernel.isSome
    restored := false, satisfied := false, job := e.block.map CopyBlock.job
    core := packetCore, stage := 0, fetched := [], logged := [] }

/-- A packet takes its place (R61, R62, R82): a launch is created, a no-op completes, and a queue with no further
packet is empty (R58). -/
def State.enterPacket (s : State) (c : BitVec 6) (q : BitVec 8) (e : Entering) : State :=
  let id := s.nextId
  let s := s.bumpId.modQueue c q fun u =>
    { u with entering := none, admitted := u.admitted ++ [admittedOf id e]
             state := if u.state = .ready ∧ e.producer ≤ e.index + 1 then .empty else u.state }
  match e.kernel with
  | some k =>
    let (g, next) := nextGrid (s.ctx c).grid
    ({ s with launches := s.launches ++ [launchOf c q e.index e.packet k g] } : State).modCtx c
      fun y => { y with grid := next }
  | none => if packetType e.packet = 0 then s.finishPacket c q id else s

/-- The add of 1 to the consumer counter of a queue that another device has performed (R62): the packet is admitted. -/
def State.packetEnters (s : State) (c : BitVec 6) (q : BitVec 8) : State :=
  match (s.queue c q).entering with
  | some e => s.enterPacket c q e
  | none => s

/-- The add of 1 to the consumer counter of a queue fails at another device (R58): the queue stops, and the packet is
not admitted. -/
def State.entryFails (s : State) (c : BitVec 6) (q : BitVec 8) (detail : Nat) : State :=
  if (s.queue c q).entering.isSome then
    (s.modQueue c q fun u => { u with entering := none }).stopQueue c q 0x0002 detail (s.queue c q).cons
  else s

/-! ### The reset sequence -/

/-- A team is discarded: nothing of it is left (R37). -/
def Team.discard (t : Team) : Team :=
  { Team.blank with ctx := t.ctx, core := t.core, launch := t.launch, teamid := t.teamid, gridid := t.gridid
                    phase := if t.phase = .ended then .ended else .discarded }

/-- A launch meets a context reset (R81). -/
def Launch.discard (l : Launch) : Launch :=
  if l.state = .completed then l else { l with state := .discarded }

/-- A core forgets a context: translations, checks, L1 lines, engine entries, walks and latches (R37). -/
def CoreSt.forget (k : CoreSt) (c : BitVec 6) (owner : Nat → BitVec 6) : CoreSt :=
  { k with
    tlb := k.tlb.filter fun e => e.ctx != c
    checks := k.checks.filter fun e => e.ctx != c
    held := k.held.filter fun h => h.ctx != c
    clean := k.clean.filter fun h => h.ctx != c
    ilines := k.ilines.filter fun h => h.ctx != c
    queues := k.queues.map fun l => l.filter fun e => e.ctx != c
    walks := k.walks.filter fun w => w.ctx != c
    quarters := k.quarters.map fun q =>
      match q.latch.owner with
      | some (t, _) => if owner t = c then { q with latch := Latch.free } else q
      | none => q }

/-- A slice forgets a context: lines that it last wrote reach HBM, and its logs end (R37, R472). -/
def Slice.forget (y : Slice) (c : BitVec 6) : Slice :=
  { y with
    lines := y.lines.map fun (l : Line) => if l.writer = c then { l with st := .clean } else l
    logStopped := y.logStopped.filter fun d => d != c
    replay := y.replay.filter fun r => r.ctx != c }

/-- A queue of a context that leaves the states that R58 names. -/
def Queue.disable (_ : Queue) : Queue := Queue.reset

/-- Quads of every core that stalled on a resource may try again. -/
def State.wakeAll (s : State) : State := (upTo 288).foldl (fun s k => s.wake k) s

/-- The accumulates of a context that its slices have accepted complete there (R37 step 2). -/
def State.finishQueued (s : State) (c : BitVec 6) : State :=
  (s.accs.filter fun a => a.ctx == c && decide (a.phase = .queued)).foldl (fun s a => s.performAcc a) s

/-- Accumulates of other devices for a context are at their home slices, which complete them (R37 step 2, R202). -/
def State.portsHold (s : State) (c : BitVec 6) : Bool := s.portAccs.any fun a => a.req.dstCtx == c

/-- The reset sequence of a context (R37, R58, R74, R81, R469): lines that a release has bound are written
back, and accumulates that have reached their slices complete; everything else of the context that is in flight is
discarded. Its waits that other devices hold are dropped here and are not cancelled there: the spec has the
timeout of R441 cancel one and says nothing of a reset (notes/assumptions/76.md). -/
def State.resetSequence (s : State) (c : BitVec 6) : State :=
  let s := (upTo 288).foldl (fun s k => writeBackBound s k c) s
  let teams := s.teams
  let owner (t : Nat) : BitVec 6 := (teams.getD t Team.blank).ctx
  let s := ({ s with
    teams := s.teams.map fun (t : Team) => if t.ctx = c then t.discard else t
    launches := s.launches.map fun (l : Launch) => if l.ctx = c then l.discard else l } : State).finishQueued c
  let s := { s with
    accs := s.accs.filter fun a => a.ctx != c
    requests := s.requests.filter fun r => r.ctx != c
    fetches := s.fetches.filter fun f => f.ctx != c
    remoteWaits := s.remoteWaits.filter fun h => h.req.dstCtx != c
    stalls := s.stalls.filter fun x => x.ctx != c
    cores := s.cores.map fun (k : CoreSt) => k.forget c owner
    slices := s.slices.map fun (y : Slice) => y.forget c }
  let s := s.modCtx c fun x =>
    { x with queues := x.queues.map Queue.disable, saving := false, faultPending := false, neverRun := false
             lnActive := 0, lnShot := [] }
  s.wakeAll

end Sys2Proof.Machine
end

