-- ==== Sys2Proof/Machine/Context.lean ====
section
/-! DEFINITION. The life of a context (R30 to R39): its commands, the tables that a bind and a reset read
(R53 to R56, R437), ownership (R31) and the invalidation of translations (R156, R186). -/

namespace Sys2Proof.Machine

/-! ### The tables -/

/-- The queue of a descriptor: `none` when an enabled descriptor breaks a limit (R54, R56). -/
def queueOf (bs : List Byte) : Option Queue :=
  let ctl := field32 bs 24
  let n := slice (zext ctl) 11 8
  let ring := field64 bs 0
  let prod := field64 bs 8
  let cons := field64 bs 16
  if !ctl.getLsbD 3 then some Queue.reset
  else if zeroField bs 28 4 && slice (zext ctl) 7 4 == 0 && slice (zext ctl) 31 12 == 0 && decide (4 ≤ n) &&
      ring.toNat % (64 * 2 ^ n) == 0 && prod.toNat % 8 == 0 && cons.toNat % 8 == 0 then
    some { Queue.reset with
      ring := ring, prod := prod, cons := cons, prio := ctl.extractLsb' 0 3, lgsize := n, state := .empty }
  else none

/-- Reads the descriptor of one queue (R55, R56). -/
def attachQueue (s : State) (c : BitVec 6) (q : Nat) : State :=
  let va : Word := ((s.ctx c).qtab ++ 0#13) + BitVec.ofNat 64 (32 * q)
  match tenderRead s c va 32 with
  | (s, r) =>
    match r.bind queueOf with
    | some u => s.modQueue c (BitVec.ofNat 8 q) fun _ => u
    | none => (s.modQueue c (BitVec.ofNat 8 q) fun _ => Queue.reset).log c (.plain 0x0007 6 1 va)

/-- The remote window of an entry: `none` when a valid entry breaks a limit (R437). -/
def windowOf (bs : List Byte) : Option RemoteWindow :=
  let flags := field bs 21 1
  let size := field bs 8 8
  if flags % 2 = 0 then some RemoteWindow.reset
  else if flags == 1 && zeroField bs 22 10 && field bs 0 8 % 65536 == 0 && size % 65536 == 0 &&
      decide (size ≤ 2 ^ 40) && decide (field bs 16 4 < 2 ^ 20) && decide (field bs 20 1 < 64) then
    some { valid := true, rbase := field64 bs 0, size := size, dev := BitVec.ofNat 20 (field bs 16 4)
           ctx := BitVec.ofNat 6 (field bs 20 1) }
  else none

/-- Reads one entry of the remote window table (R437). An entry that cannot be read names no window. -/
def attachWindow (s : State) (c : BitVec 6) (w : Nat) : State :=
  let va : Word := ((s.ctx c).rwt ++ 0#13) + BitVec.ofNat 64 (32 * w)
  let set (s : State) (r : RemoteWindow) : State :=
    s.modCtx c fun x => { x with windows := x.windows.setIfInBounds w r }
  match tenderRead s c va 32 with
  | (s, none) => set s RemoteWindow.reset
  | (s, some bs) =>
    match windowOf bs with
    | some r => set s r
    | none => (set s RemoteWindow.reset).log c (.plain 0x0007 7 2 va)

/-- Reads both tables of a context (R55, R437). -/
def attachTables (s : State) (c : BitVec 6) : State :=
  (upTo 256).foldl (fun s w => attachWindow s c w) ((upTo 256).foldl (fun s q => attachQueue s c q) s)

/-! ### Commands -/

/-- A context is bound or later: its queues and windows are attached and its window counts (R36, R434,
R439). -/
def CtxPhase.attached (p : CtxPhase) : Bool := p.live

/-- A command that is not listed for the state (R34). -/
def State.refuseCommand (s : State) (c : BitVec 6) : State := s.setResult c 2

/-- A command that finishes at once (R34, R45). -/
def State.finishCommand (s : State) (c : BitVec 6) (result : Byte) : State := (s.setResult c result).raise c 3

/-- A command is accepted and a transition is in progress. -/
def State.startCommand (s : State) (c : BitVec 6) : State :=
  s.modCtx c fun x => { x with busy := true, result := 0 }

/-- The transition of a command is over (R45). -/
def State.endCommand (s : State) (c : BitVec 6) : State := (s.modCtx c fun x => { x with busy := false }).raise c 3

/-- A write of CTXCMD other than reset: ignored while busy (R34). -/
def State.command (s : State) (p : Port) (c : BitVec 6) (k : State → State) : State :=
  s.blockWrite p c (blockOffset c 0) fun s => if (s.ctx c).busy then s.setResult c 1 else k s

/-- The create command (R34, R467). -/
def State.createCtx (s : State) (c : BitVec 6) : State :=
  if (s.ctx c).phase = .destroyed then
    ({ s with stalls := s.stalls.filter fun x => x.ctx != c } : State).modCtx c
      (fun _ => Ctx.fresh .created) |>.finishCommand c 0
  else s.refuseCommand c

/-- `CTXCMD_CREATE` (R34). -/
def execCtxcmdCreate (port : Port) (ctx : BitVec 6) (s : State) : Out :=
  .next (s.command port ctx fun s => s.createCtx ctx)

/-- Checks 1 to 6 of R36. -/
def Ctx.bindable (x : Ctx) : Bool :=
  x.tag != 0 && x.ways != 0 && x.acc != 0 && decide (x.winLo ≤ x.winHi) &&
    decide ((x.winHi.toNat + 1) * 65536 ≤ Config.withheld) &&
    decide (x.winLo ≤ x.root) && decide (x.root ≤ x.winHi) && canonical (x.log ++ 0#6)

/-- A context is bound or later, and its window with it (R36, R39). -/
def CtxPhase.holdsWindow : CtxPhase → Bool
  | .bound | .running | .quiescing | .saved | .faulted | .reset => true
  | .created | .destroyed => false

/-- The context counts for check 7 of R36. -/
def Ctx.counts (x : Ctx) : Bool := x.phase.holdsWindow || (decide (x.phase = .created) && x.busy && !x.destroying)

/-- Check 7 of R36 fails: a context of another tag has an overlapping window. -/
def State.windowTaken (s : State) (c : BitVec 6) : Bool :=
  let x := s.ctx c
  allCtxs.any fun d =>
    let y := s.ctx d
    d != c && y.counts && y.tag != x.tag && decide (y.winLo ≤ x.winHi) && decide (x.winLo ≤ y.winHi)

/-- The result of the bind checks (R36): 0 when all of them pass. -/
def State.bindChecks (s : State) (c : BitVec 6) : Byte :=
  if !(s.ctx c).bindable then 3 else if s.windowTaken c then 4 else 0

/-- The bind command (R36). -/
def State.bindCtx (s : State) (c : BitVec 6) : State :=
  if (s.ctx c).phase = .created then
    if s.bindChecks c = 0 then s.startCommand c else s.finishCommand c (s.bindChecks c)
  else s.refuseCommand c

/-- `CTXCMD_BIND` (R36). -/
def execCtxcmdBind (port : Port) (ctx : BitVec 6) (s : State) : Out :=
  .next (s.command port ctx fun s => s.bindCtx ctx)

/-- `BIND_COMPLETE` (R34, R55). The registers are writable until now (R33), so that the checks are made again on what
they hold: no context is bound with registers that have not passed (R36, R43; notes/assumptions/85.md). The window is
open to the reads of the tables (R42, R492). -/
def execBindComplete (ctx : BitVec 6) (s : State) : Out :=
  .next
    (let x := s.ctx ctx
     if x.phase = .created && x.busy && !x.destroying then
       if s.bindChecks ctx = 0 then
         (attachTables (s.modCtx ctx fun y => { y with phase := .bound }) ctx).endCommand ctx
       else (s.setResult ctx (s.bindChecks ctx)).endCommand ctx
     else s)

/-- What changes when a run begins: the Lantern mode takes effect, with logs and replays from their start
(R467, R472, R475). -/
def State.startRun (s : State) (c : BitVec 6) : State :=
  let s := { s with slices := s.slices.map fun (y : Slice) =>
    { y with logStopped := y.logStopped.filter fun d => d != c, replay := y.replay.filter fun r => r.ctx != c } }
  s.modCtx c fun x =>
    { x with phase := .running, neverRun := false, lnActive := if x.lnMode = 3 then 0 else x.lnMode, lnOvf := false
             lnDiverged := false }

/-- A launch of the context meets the quiesce (R81). -/
def Launch.quiesce (l : Launch) : Launch :=
  match l.state with
  | .dispatching | .running => { l with state := .quiescing }
  | .completing | .completed | .aborting | .quiescing | .saved | .discarded | .faulted => l

/-- The quiesce command (R34, R81, R423): pre-emption takes effect. -/
def State.quiesceCtx (s : State) (c : BitVec 6) : State :=
  if (s.ctx c).phase = .running then
    let s := { s with launches := s.launches.map fun (l : Launch) => if l.ctx = c then l.quiesce else l }
    (s.startCommand c).modCtx c fun x =>
      { x with phase := .quiescing, quiesceAt := s.wall, quiesceDrain := x.dlDrain.toNat
               quiesceSave := max 1 x.dlSave.toNat, quiesceMig := x.migDrain, saving := false
               faultPending := false }
  else s.refuseCommand c

/-- `CTXCMD_QUIESCE` (R423). -/
def execCtxcmdQuiesce (port : Port) (ctx : BitVec 6) (s : State) : Out :=
  .next (s.command port ctx fun s => s.quiesceCtx ctx)

/-- The context enters reset: the sequence begins and vector 2 is raised (R37, R45). A destroy in progress is given
up (notes/assumptions/46.md). -/
def State.enterReset (s : State) (c : BitVec 6) : State :=
  ((s.resetSequence c).modCtx c fun x =>
    { x with phase := .reset, busy := true, resetQuiet := !x.busy, destroying := false }).raise c 2

/-- The reset command (R34, R37, R38): a transition in progress does not hold it. -/
def State.resetCtx (s : State) (c : BitVec 6) : State :=
  if (s.ctx c).phase.live then (s.startCommand c).enterReset c else s.refuseCommand c

/-- `CTXCMD_RESET` (R34, R37). -/
def execCtxcmdReset (port : Port) (ctx : BitVec 6) (s : State) : Out :=
  .next (s.blockWrite port ctx (blockOffset ctx 0) fun s => s.resetCtx ctx)

/-- `RESET_SEQUENCE_COMPLETE` (R34, R37, R55): both tables are read again. -/
def execResetSequenceComplete (ctx : BitVec 6) (s : State) : Out :=
  .next
    (let x := s.ctx ctx
     if x.phase = .reset && x.busy && !s.portsHold ctx then
       let s := attachTables (s.modCtx ctx fun y => { y with phase := .bound }) ctx
       if x.resetQuiet then s.modCtx ctx fun y => { y with busy := false } else s.endCommand ctx
     else s)

/-- The destroy command (R34, R39). -/
def State.destroyCtx (s : State) (c : BitVec 6) : State :=
  match (s.ctx c).phase with
  | .created | .bound | .saved | .faulted =>
    ((s.startCommand c).resetSequence c).modCtx c fun x => { x with destroying := true }
  | .destroyed | .running | .quiescing | .reset => s.refuseCommand c

/-- `CTXCMD_DESTROY` (R39). -/
def execCtxcmdDestroy (port : Port) (ctx : BitVec 6) (s : State) : Out :=
  .next (s.command port ctx fun s => s.destroyCtx ctx)

/-- Another bound context with the same tag reaches a frame (R39). -/
def State.reachedByPeer (s : State) (c : BitVec 6) (pa : Nat) : Bool :=
  allCtxs.any fun d =>
    d != c && (s.ctx d).phase.holdsWindow && (s.ctx d).tag == (s.ctx c).tag && (s.ctx d).inWindow pa

/-- `DESTROY_SEQUENCE_COMPLETE` (R37, R39): what the context took since the destroy command is discarded too, the
lines of the window become invalid, the control block takes its reset values, queues and vectors are detached. What a
port's MSI-X table still holds pending stays pending there and is raised when the host unmasks it: the spec does not say
(notes/assumptions/76.md). -/
def execDestroySequenceComplete (ctx : BitVec 6) (s : State) : Out :=
  .next
    (let x := s.ctx ctx
     if x.destroying && !s.portsHold ctx then
       let s := s.resetSequence ctx
       let gone (l : Line) : Bool :=
         x.phase != .created && x.inWindow (l.line * 128) && !s.reachedByPeer ctx (l.line * 128)
       ({ s with
         slices := s.slices.map fun (y : Slice) => { y with lines := y.lines.filter fun l => !gone l }
         logWaits := s.logWaits.filter fun l => l.ctx != ctx } : State).modCtx ctx
         fun _ => Ctx.fresh .destroyed
     else s)

/-! ### Ownership -/

/-- Sets an entry of the ownership table. -/
def State.setOwner (s : State) (c : BitVec 6) (o : Option Port) : State :=
  { s with owners := s.owners.set c.toNat o c.isLt }

/-- OWNCMD.result of a port (R31). -/
def State.ownResult (s : State) (p : Port) (n : BitVec 2) : State := s.modPort p fun x => { x with ownResult := n }

/-- A write of OWNCMD (R31). -/
def State.ownCmd (s : State) (p : Port) (val : Word) : State :=
  let c : BitVec 6 := val.extractLsb' 0 6
  let refuse (n : BitVec 2) : State := (s.ownResult p n).tenderNote p 0x0810
  if s.fw ≠ .running then s
  else if (s.ctx c).phase ≠ .destroyed then refuse 1
  else if s.owner c ≠ some p && s.owner c ≠ none then refuse 2
  else
    match slice val 9 8 with
    | 0 => (s.setOwner c (some .p0)).ownResult p 0
    | 1 => (s.setOwner c (some .p1)).ownResult p 0
    | 2 => (s.setOwner c none).ownResult p 0
    | _ => refuse 3

/-- `OWNCMD` (R31). -/
def execOwncmd (port : Port) (val : Word) (s : State) : Out := .next (s.ownCmd port val)

/-! ### Invalidation -/

/-- The range of a CTXINV (R156): its first address as a number, and its length; `none` is every
translation of the context. -/
def invRange (size : BitVec 2) (va : BitVec 41) : Option (Nat × Nat) :=
  let a := ((va ++ 0#16).signExtend 64).toNat
  match size.toNat with
  | 0 => some (a / 2 ^ 16 * 2 ^ 16, 2 ^ 16)
  | 1 => some (a / 2 ^ 21 * 2 ^ 21, 2 ^ 21)
  | 2 => some (a / 2 ^ 30 * 2 ^ 30, 2 ^ 30)
  | _ => none

/-- Bytes from `a` on, `n` of them, meet the range of a CTXINV. -/
def inRange (r : Option (Nat × Nat)) (a n : Nat) : Bool :=
  match r with
  | none => true
  | some (b, m) => decide (a < b + m) && decide (b < a + n)

/-- A write of CTXINV (R156): every cached translation that overlaps the range is dropped. -/
def State.startInv (s : State) (c : BitVec 6) (val : Word) : State :=
  let x := s.ctx c
  if !x.phase.live then s.setResult c 2
  else if x.invPend then s.setResult c 1
  else
    let size : BitVec 2 := val.extractLsb' 57 2
    let va : BitVec 41 := val.extractLsb' 16 41
    let r := invRange size va
    ({ s with cores := s.cores.map fun (k : CoreSt) =>
        { k with tlb := k.tlb.filter fun e => !(e.ctx == c && inRange r e.base (2 ^ e.lg)) } } : State).modCtx c
      fun y => { y with invPend := true, invSize := size, invVa := va }

/-- `CTXINV` (R156). -/
def execCtxinv (port : Port) (ctx : BitVec 6) (val : Word) (s : State) : Out :=
  .next (s.blockWrite port ctx (blockOffset ctx 0x88) fun s => s.startInv ctx val)

/-- The accumulate has a translation and has not been performed (R156): one that was refused translates again. -/
def AccPhase.translated : AccPhase → Bool
  | .flight | .queued => true
  | .returning | .overflow => false

/-- An access of the context in the range has been translated and not performed (R156): an accumulate, a Sector
request, or an accumulate that another device has sent to the context. -/
def State.inFlightIn (s : State) (c : BitVec 6) (r : Option (Nat × Nat)) : Bool :=
  (s.accs.any fun a => a.ctx == c && a.phase.translated && inRange r a.addr.toNat a.ty.width) ||
    (s.requests.any fun q =>
      q.ctx == c && !q.body.kind.waits && inRange r q.addr.toNat q.body.kind.size) ||
    s.portAccs.any fun a => a.req.dstCtx == c && inRange r a.req.addr.toNat a.req.kind.size

/-- What a CTXINV does in one core (R186): bound lines of the range are written back, clean copies and
instruction lines of it go. -/
def State.invCore (s : State) (c : BitVec 6) (r : Option (Nat × Nat)) (core : Nat) : State :=
  let hit (line : Nat) : Bool := inRange r (line * 128) 128
  let s := ((s.core core).held.filter fun h => h.ctx == c && h.bound.isSome && hit h.line).foldl
    (fun s h => writeBackOne s core h) s
  s.modCore core fun k =>
    { k with clean := k.clean.filter fun h => !(h.ctx == c && hit h.line)
             ilines := k.ilines.filter fun h => !(h.ctx == c && hit h.line) }

/-- `CTXINV_COMPLETE` (R156, R186). -/
def execCtxinvComplete (ctx : BitVec 6) (s : State) : Out :=
  .next
    (let x := s.ctx ctx
     let r := invRange x.invSize x.invVa
     if x.invPend && !s.inFlightIn ctx r then
       ((upTo 288).foldl (fun s k => s.invCore ctx r k) s).modCtx ctx fun y => { y with invPend := false }
     else s)

end Sys2Proof.Machine
end

