-- ==== Sys2Proof/Machine/Control.lean ====
section
/-! DEFINITION. Clause headers (R270 to R273), branches and calls (R307 to R309), `trap`, `tret` and
`tret.decline` (R311 to R313). -/

namespace Sys2Proof.Machine

/-! ### Clause headers -/

/-- A quad starts the clause (R270). -/
def Quad.startClause (q : Quad) (h : Header) : Quad :=
  { q with
    wait := .ready
    pc := q.pc + 8
    clause := some { setA := h.setA, setB := h.setB, left := h.length, barWait := false } }

/-- The CLK at which the gang arrived at the header (R103). -/
def Quad.heldSince (q : Quad) (now : Nat) : Nat :=
  match q.wait with
  | .header _ _ since => since
  | _ => now

/-- The gang moves to the pending set at a header with the yield hint, when the pending set of its
quarter holds a ready gang (R118). -/
def State.yieldSlot (s : State) (g : GangRef) : State :=
  let w := s.waveOf g
  if (readyGangs s w.core w.quarter false).isEmpty then s
  else s.modWave g.t g.w fun x => { x with gangs := x.gangs.map fun y =>
      if y.base = g.base then { y with active := false } else y }

/-- A clause header (R270, R271, R103, R354, R418): the gang is held until every flag of the mask is
zero in every quad, takes the faults that its loads deferred to it, or starts the clause. -/
def execClauseHeader (h : Header) (s : State) : Out :=
  withGang s fun g =>
    if g.quads.all fun n => (s.quadOf g n).flagsClear h.wait then
      match s.raiseDeferred g (Deferred.atHeader h.wait) 1 with
      | some s => s
      | none =>
        let s := (s.mapGang g fun _ q => q.startClause h).occupy g 1
        if h.yield then s.yieldSlot g else s
    else
      let s := s.mapGang g fun _ q => { q with wait := .header h.wait h.msplit (q.heldSince s.clk) }
      if h.yield then s.yieldSlot g else s

/-! ### Branches -/

/-- The target of an SB branch (R280). -/
def Quad.target (q : Quad) (off : BitVec 20) : Word := q.pc + (sext off <<< 2)

/-- A branch that each quad of the gang evaluates by itself (R308): taken quads go to their target
and leave the clause, the others go on, and the gang divides into the two (R102). -/
def branchStep (s : State) (taken : Quad → Bool) (target : Quad → Word) (link : Quad → Quad) : Out :=
  withGang s fun g =>
    ((s.mapGang g fun _ q =>
      if taken q then (link q).jump (target q) else q.advance 1).account g 1 .count).regangBy g fun n =>
        taken (s.quadOf g n)

/-- `b` (R307). -/
def execB (off : BitVec 20) (s : State) : Out := branchStep s (fun _ => true) (·.target off) id
/-- `bmz` (R307). -/
def execBmz (off : BitVec 20) (s : State) : Out := branchStep s (fun q => q.em == 0) (·.target off) id
/-- `bmnz` (R307). -/
def execBmnz (off : BitVec 20) (s : State) : Out := branchStep s (fun q => q.em != 0) (·.target off) id
/-- `bmall` (R307). -/
def execBmall (off : BitVec 20) (s : State) : Out := branchStep s (fun q => q.em == 0xF) (·.target off) id
/-- `bmnall` (R307). -/
def execBmnall (off : BitVec 20) (s : State) : Out := branchStep s (fun q => q.em != 0xF) (·.target off) id
/-- `bcall` (R307): s63 := PC + 4. -/
def execBcall (off : BitVec 20) (s : State) : Out :=
  branchStep s (fun _ => true) (·.target off) fun q => q.setS 63 (q.pc + 4)
/-- `bz` (R307). -/
def execBz (sa : SReg) (imm : BitVec 12) (s : State) : Out :=
  branchStep s (fun q => q.rs sa == 0) (fun q => q.pc + (sext imm <<< 2)) id
/-- `bnz` (R307). -/
def execBnz (sa : SReg) (imm : BitVec 12) (s : State) : Out :=
  branchStep s (fun q => q.rs sa != 0) (fun q => q.pc + (sext imm <<< 2)) id

/-- A register branch (R307 to R309): a misaligned target in any quad is an alignment fault of the
gang, and nothing is written. -/
def registerBranch (s : State) (sa : SReg) (link : Quad → Quad) : Out :=
  match s.issuing with
  | none => .fault .noIssuer
  | some g =>
    let bad (n : Nat) : Bool := ((s.quadOf g n).rs sa).extractLsb' 0 2 != 0
    match g.quads.find? bad with
    | some n => .next (s.trap g .alignment ((s.quadOf g n).rs sa) (failing bad) 1)
    | none => branchStep s (fun _ => true) (fun q => q.rs sa) link

/-- `bjr` (R307). -/
def execBjr (sa : SReg) (s : State) : Out := registerBranch s sa id
/-- `bcallr` (R307): the target is read before the link register is written. -/
def execBcallr (sd sa : SReg) (s : State) : Out := registerBranch s sa fun q => q.setS sd (q.pc + 4)

/-! ### Traps -/

/-- `trap` (R311): performed, it raises the software trap in every quad; TRAPPC receives PC + 4. -/
def execTrap (imm : BitVec 12) (s : State) : Out :=
  withGang s fun g =>
    ((s.mapGang g fun _ q => q.advance 1).account g 1 .count).trap g .software (zext imm) allLanes 1

/-- The quads that execute a return while they run no handler (R312). -/
def notInHandler (s : State) (g : GangRef) (n : Nat) : Bool := !(s.quadOf g n).inHandler

/-- `tret` (R312, R313). -/
def execTret (s : State) : Out :=
  withGang s fun g =>
    if g.quads.any (notInHandler s g) then
      s.trap g .illegalInstr (s.leader g).pc (failing (notInHandler s g)) 1
    else s.trapReturn g

/-- `tret.decline` (R312, R416): the quads leave the handler and park, with TRAPINFO and TRAPPC as
the handler left them; the source of its entry is that of the instruction that trapped (R491). -/
def execTretDecline (s : State) : Out :=
  withGang s fun g =>
    if g.quads.any (notInHandler s g) then
      s.trap g .illegalInstr (s.leader g).pc (failing (notInHandler s g)) 1
    else
      ((s.account g 1 .count).mapGang g fun _ q => { q with inHandler := false, nestHandled := none }
        ).unhandled g (s.leader g).trapSrc

end Sys2Proof.Machine
end

