-- ==== Sys2Proof/Machine/CrossLane.lean ====
section
/-! DEFINITION. The cross-lane instructions but `vappend` (R344 to R346). -/

namespace Sys2Proof.Machine

/-- What a cross-lane instruction sees of one span (R344): its first quad, log2 of its quads, its
lanes by position, and which of them are active. -/
structure Span where
  base : Nat
  w : Nat
  lanes : List Lane
  active : List Bool

/-- The number of lanes of a span (R344). -/
def Span.size (x : Span) : Nat := 4 * 2 ^ x.w

/-- The lane at a position. -/
def Span.lane (x : Span) (p : Nat) : Lane := x.lanes.getD p Lane.start

/-- The lane at a position is active. -/
def Span.isActive (x : Span) (p : Nat) : Bool := x.active.getD p false

/-- The active positions of a span, ascending. -/
def Span.actives (x : Span) : List Nat := (upTo x.size).filter x.isActive

/-- The span of a quad (R344): exited quads take part with `em` = 0. -/
def spanOf (s : State) (g : GangRef) (o : LaneOp) (n : Nat) : Span :=
  let w := min o.minw.toNat (s.teamOf g).kernel.lgwave
  let base := n / 2 ^ w * 2 ^ w
  { base := base, w := w
    lanes := (upTo (4 * 2 ^ w)).map fun p => (s.quadOf g (base + p / 4)).lane (p % 4)
    active := (upTo (4 * 2 ^ w)).map fun p => (s.quadOf g (base + p / 4)).active o (p % 4) }

/-- A cross-lane instruction: every quad of a span, an exited one too (R344), is changed by what it sees of it. -/
def crossLane (s : State) (o : LaneOp) (opnds : List Opnd) (f : Span → Nat → Quad → Quad) : Out :=
  laneStep s o opnds fun _ s g =>
    (s.modQuads g.t g.w g.quads fun n q => f (spanOf s g o n) n q).retire g 3 (2 * cycles32 g) .count

/-- A cross-lane instruction that writes vd in the active lanes of each quad; `f` is given the span
and the lane's position. -/
def crossWrite (s : State) (o : LaneOp) (opnds : List Opnd) (regs : Nat) (f : Span → Nat → Nat) : Out :=
  crossLane s o opnds fun x n q => q.mapLanes fun i l =>
    let p := 4 * (n - x.base) + i
    if x.isActive p then l.write o.vd.toNat regs (f x p) else l

/-- One step of a fold (R346). -/
def foldStep (t : ElemTy) (op : RedOp) (a b : Nat) : Nat :=
  let c : FpMode := { ty := t, rnd := .rne, r := 0, ftz := false }
  match op with
  | .add => if t.isFloat then c.add a b else t.bitsOf (t.intOf a + t.intOf b)
  | .min => if t.isFloat then c.min a b else intMin t a b
  | .max => if t.isFloat then c.max a b else intMax t a b
  | .and => a &&& b
  | .or => a ||| b
  | .xor => a ^^^ b

/-- The identity of an exclusive scan (R346). -/
def foldIdentity (t : ElemTy) (op : RedOp) : Nat :=
  match op with
  | .add => 0
  | .min => if t.isFloat then t.fmt.infEnc else t.bitsOf t.maxInt
  | .max => if t.isFloat then t.fmt.infEnc + t.fmt.signBit else t.bitsOf t.minInt
  | .and => 2 ^ t.bits - 1
  | .or => 0
  | .xor => 0

/-- The first value of a fold (R346): a NaN result is the canonical NaN, also that of a fold over one lane (R246,
R322). -/
def foldStart (t : ElemTy) (a : Nat) : Nat :=
  if t.isFloat then
    match t.fmt.decode a with
    | .nan => t.fmt.nanEnc
    | .fin _ _ _ _ | .inf _ => a
  else a

/-- The fold over values in ascending position: from the first value on (R346). -/
def foldLanes (t : ElemTy) (op : RedOp) : List Nat → Nat
  | [] => foldIdentity t op
  | a :: as => as.foldl (foldStep t op) (foldStart t a)

/-- The values of va at positions. -/
def valuesAt (x : Span) (o : LaneOp) (regs : Nat) (ps : List Nat) : List Nat :=
  ps.map fun p => (x.lane p).read o.va.toNat regs

/-- `vred` (R345, R346). -/
def execVred (o : LaneOp) (m : Mods) (op : RedOp) (s : State) : Out :=
  crossWrite s o [.ty o.vd m.ty, .ty o.va m.ty] (regsOf m.ty) fun x _ =>
    foldLanes m.ty op (valuesAt x o (regsOf m.ty) x.actives)

/-- `vscan` (R345, R346). -/
def execVscan (o : LaneOp) (m : Mods) (op : RedOp) (excl : Bool) (s : State) : Out :=
  crossWrite s o [.ty o.vd m.ty, .ty o.va m.ty] (regsOf m.ty) fun x p =>
    foldLanes m.ty op (valuesAt x o (regsOf m.ty)
      (x.actives.filter fun j => if excl then decide (j < p) else decide (j ≤ p)))

/-- `vshuf` (R345). -/
def execVshuf (o : LaneOp) (s : State) : Out :=
  crossWrite s o [.one o.vd, .one o.va, .one o.vb] 1 fun x p =>
    (x.lane ((x.lane p).read o.vb.toNat 1 % x.size)).read o.va.toNat 1

/-- `vbcast` (R345). -/
def execVbcast (o : LaneOp) (n : BitVec 6) (s : State) : Out :=
  crossWrite s o [.one o.vd, .one o.va] 1 fun x _ => (x.lane (n.toNat % x.size)).read o.va.toNat 1

/-- `vrot` (R345). -/
def execVrot (o : LaneOp) (n : BitVec 6) (s : State) : Out :=
  crossWrite s o [.one o.vd, .one o.va] 1 fun x p =>
    (x.lane ((p + n.toNat) % x.size)).read o.va.toNat 1

/-- `vqswz` (R345). -/
def execVqswz (o : LaneOp) (q0 q1 q2 q3 : BitVec 2) (s : State) : Out :=
  crossWrite s o [.one o.vd, .one o.va] 1 fun x p =>
    let i :=
      match p % 4 with
      | 0 => q0
      | 1 => q1
      | 2 => q2
      | _ => q3
    (x.lane (p / 4 * 4 + i.toNat)).read o.va.toNat 1

/-- The positions of active lanes whose predicate va is 1. -/
def Span.voters (x : Span) (o : LaneOp) : List Nat :=
  x.actives.filter fun p => (x.lane p).rp o.va.toNat

/-- `vballot` (R345): written in every quad of the span, whatever its `em`. -/
def execVballot (o : LaneOp) (s : State) : Out :=
  crossLane s o [.s o.vd, .p o.va] fun x _ q =>
    q.setSN o.vd.toNat (BitVec.ofNat 64 ((x.voters o).foldl (fun m p => m + 2 ^ p) 0))

/-- `vcount` (R345). -/
def execVcount (o : LaneOp) (s : State) : Out :=
  crossWrite s o [.one o.vd, .p o.va] 1 fun x p => ((x.voters o).filter fun j => decide (j < p)).length

/-- `vfind` (R345): 64 when there is none. -/
def execVfind (o : LaneOp) (s : State) : Out :=
  crossLane s o [.s o.vd, .p o.va] fun x _ q =>
    q.setSN o.vd.toNat (BitVec.ofNat 64 ((x.voters o).headD 64))

end Sys2Proof.Machine
end

