-- ==== Sys2Proof/Machine/Ray.lean ====
section
/-! DEFINITION. The exact geometry of walks (R221, R238, R404 to R406): boxes, triangles and screen
tiles. A finite f32 is an integer multiple of 2^-149, so that every test compares integers. -/

namespace Sys2Proof.Machine

/-! ### Exact reals -/

/-- A finite f32 over 2^-149; none for a NaN or an infinity. -/
def f32Fixed (bits : Nat) : Option Int :=
  match f32.decode bits with
  | .fin neg m e _ => some (scaled neg m e (-149))
  | .nan => none
  | .inf _ => none

/-- An extended real num / den; den = 0 is the infinity of num's sign. -/
structure Ext where
  num : Int
  den : Nat
  deriving DecidableEq, Repr

/-- An f32 as an extended real; none for a NaN. -/
def f32Ext (bits : Nat) : Option Ext :=
  match f32.decode bits with
  | .fin neg m e _ => some { num := scaled neg m e (-149), den := 2 ^ 149 }
  | .nan => none
  | .inf neg => some { num := if neg then -1 else 1, den := 0 }

/-- The order of extended reals. -/
def Ext.le (a b : Ext) : Bool :=
  if a.den = 0 ∧ b.den = 0 then decide (a.num ≤ b.num)
  else decide (a.num * b.den ≤ b.num * a.den)

/-- Strictly below. -/
def Ext.lt (a b : Ext) : Bool := !b.le a

/-- The greater of two. -/
def Ext.max (a b : Ext) : Ext := if a.le b then b else a

/-- The smaller of two. -/
def Ext.min (a b : Ext) : Ext := if a.le b then a else b

/-- A quotient of integers, for a divisor that is not 0. -/
def ratio (a b : Int) : Ext := if b < 0 then { num := -a, den := b.natAbs } else { num := a, den := b.natAbs }

/-- A quotient rounded to f32 (R405). -/
def Ext.round (a : Ext) : Nat := f32.roundTo .rne 0 false ((Num.ofInt a.num).div (Num.ofInt a.den))

/-- Three coordinates over 2^-149. -/
structure Vec3 where
  x : Int
  y : Int
  z : Int
  deriving DecidableEq, Repr

/-- The difference of two vectors. -/
def Vec3.sub (a b : Vec3) : Vec3 := { x := a.x - b.x, y := a.y - b.y, z := a.z - b.z }

/-- The cross product. -/
def Vec3.cross (a b : Vec3) : Vec3 :=
  { x := a.y * b.z - a.z * b.y, y := a.z * b.x - a.x * b.z, z := a.x * b.y - a.y * b.x }

/-- The dot product. -/
def Vec3.dot (a b : Vec3) : Int := a.x * b.x + a.y * b.y + a.z * b.z

/-- Three consecutive f32 of a byte list; none when one is a NaN or an infinity. -/
def vec3At (bs : List Byte) (off : Nat) : Option Vec3 :=
  match f32Fixed (field bs off 4), f32Fixed (field bs (off + 4) 4), f32Fixed (field bs (off + 8) 4) with
  | some x, some y, some z => some { x := x, y := y, z := z }
  | _, _, _ => none

/-! ### Rays -/

/-- The ray of a record (R225). -/
structure Ray where
  origin : Vec3
  dir : Vec3
  tmin : Ext
  tmax : Ext
  deriving DecidableEq, Repr

/-- The ray of a record image; none when it misses everything (R404, R405). -/
def rayOf (bs : List Byte) : Option Ray :=
  match vec3At bs 0, vec3At bs 16, f32Ext (field bs 12 4), f32Ext (field bs 28 4) with
  | some o, some d, some a, some b => some { origin := o, dir := d, tmin := a, tmax := b }
  | _, _, _, _ => none

/-! ### Boxes -/

/-- An axis-aligned box. -/
structure Box where
  lo : Vec3
  hi : Vec3
  deriving DecidableEq, Repr

/-- A quantised bound (R221): the origin plus q × 2^(e − 127), rounded. -/
def quantBound (rnd : Rnd) (o q e : Nat) : Option Int :=
  f32Fixed (f32.roundTo rnd 0 false
    ((f32.decode o).add rnd (.fin false q ((e : Int) - 127) false)))

/-- A quantised child box (R221): header at `boxoff`, six bytes per child. -/
def quantBox (bs : List Byte) (boxoff child : Nat) : Option Box :=
  let bound (rnd : Rnd) (axis k : Nat) : Option Int :=
    quantBound rnd (field bs (boxoff + 4 * axis) 4) (field bs (boxoff + 16 + 6 * child + k) 1)
      (field bs (boxoff + 12 + axis) 1)
  match bound .rd 0 0, bound .rd 1 1, bound .rd 2 2, bound .ru 0 3, bound .ru 1 4, bound .ru 2 5 with
  | some a, some b, some c, some d, some e, some f =>
    some { lo := { x := a, y := b, z := c }, hi := { x := d, y := e, z := f } }
  | _, _, _, _, _, _ => none

/-- An fp32 child box (R221). -/
def plainBox (bs : List Byte) (boxoff child : Nat) : Option Box :=
  match vec3At bs (boxoff + 24 * child), vec3At bs (boxoff + 24 * child + 12) with
  | some lo, some hi => some { lo := lo, hi := hi }
  | _, _ => none

/-- The box is empty (R221). -/
def Box.isEmpty (b : Box) : Bool :=
  decide (b.hi.x < b.lo.x) || decide (b.hi.y < b.lo.y) || decide (b.hi.z < b.lo.z)

/-- The interval of one axis (R404): none when it is empty; the two ends, none for all reals. -/
def axisRange (o d lo hi : Int) : Option (Option (Ext × Ext)) :=
  if d = 0 then (if lo ≤ o ∧ o ≤ hi then some none else none)
  else
    let a := ratio (lo - o) d
    let b := ratio (hi - o) d
    some (some (a.min b, a.max b))

/-- Cuts the ray's interval by one axis. -/
def cutAxis (r : Option (Ext × Ext)) (axis : Option (Option (Ext × Ext))) : Option (Ext × Ext) :=
  match r, axis with
  | some (a, b), some (some (c, d)) => some (a.max c, b.min d)
  | some x, some none => some x
  | _, _ => none

/-- The entry of a ray into a box; none for a miss (R404). -/
def Ray.entry (r : Ray) (b : Box) : Option Ext :=
  if b.isEmpty then none
  else
    let x := cutAxis (some (r.tmin, r.tmax)) (axisRange r.origin.x r.dir.x b.lo.x b.hi.x)
    let y := cutAxis x (axisRange r.origin.y r.dir.y b.lo.y b.hi.y)
    match cutAxis y (axisRange r.origin.z r.dir.z b.lo.z b.hi.z) with
    | some (a, b) => if a.le b then some a else none
    | none => none

/-- Inserts a hit behind every hit whose entry is not greater. -/
def insertHit (x : Nat × Ext) : List (Nat × Ext) → List (Nat × Ext)
  | [] => [x]
  | y :: ys => if x.2.lt y.2 then x :: y :: ys else y :: insertHit x ys

/-- The result of `box4` from the hits in rising order of their `t` (R404). -/
def boxResult (hits : List (Nat × Ext)) : Nat :=
  let order := hits.foldl (fun l x => insertHit x l) []
  let mask := hits.foldl (fun m x => m + 2 ^ x.1) 0
  let places := (order.zip (upTo order.length)).foldl (fun m (x, i) => m + x.1 * 2 ^ (2 * i + 4)) 0
  mask + places + hits.length * 2 ^ 12

/-! ### Triangles -/

/-- What a triangle test gives on a hit (R405). -/
structure TriHit where
  t : Nat
  u : Nat
  v : Nat
  back : Bool
  deriving DecidableEq, Repr

/-- The triangle test on exact reals (R405), on the 36 bytes of three vertices. -/
def Ray.triangle (r : Ray) (bs : List Byte) : Option TriHit :=
  match vec3At bs 0, vec3At bs 12, vec3At bs 24 with
  | some v0, some v1, some v2 =>
    let e1 := v1.sub v0
    let e2 := v2.sub v0
    let s := r.origin.sub v0
    let pv := r.dir.cross e2
    let det := e1.dot pv
    let qv := s.cross e1
    if det = 0 then none
    else
      let u := ratio (s.dot pv) det
      let v := ratio (r.dir.dot qv) det
      let t := ratio (e2.dot qv) det
      if decide (0 ≤ u.num) && decide (0 ≤ v.num) && decide (u.num + v.num ≤ (u.den : Int)) &&
          r.tmin.le t && t.lt r.tmax then
        some { t := t.round, u := u.round, v := v.round, back := decide (det < 0) }
      else none
  | _, _, _ => none

/-! ### Screen tiles -/

/-- An edge or depth plane (R237). -/
structure Plane where
  a : Num
  b : Num
  c : Num
  deriving DecidableEq, Repr

/-- The plane at a byte offset of a record. -/
def planeAt (bs : List Byte) (off : Nat) : Plane :=
  { a := f32.decode (field bs off 4), b := f32.decode (field bs (off + 4) 4)
    c := f32.decode (field bs (off + 8) 4) }

/-- A pixel's sample coordinate (R238). -/
def sampleAt (x : Nat) : Num := .fin false (2 * x + 1) (-1) false

/-- The exact value of a plane at a pixel's sample (R238). -/
def Plane.at_ (p : Plane) (x y : Nat) : Num :=
  ((p.a.mul (sampleAt x)).add .rne (p.b.mul (sampleAt y))).add .rne p.c

/-- A coefficient is above 0. -/
def above0 (a : Num) : Bool := (Num.zero false).lt a

/-- The edge covers the sample of a pixel (R238). -/
def Plane.covers (p : Plane) (x y : Nat) : Bool :=
  let e := p.at_ x y
  above0 e || (e.isZero && (above0 p.a || (p.a.isZero && above0 p.b)))

/-- The edge covers some sample of a tile of side `n` (R406): it does where its value is greatest. -/
def Plane.touches (p : Plane) (x y n : Nat) : Bool :=
  p.covers (if above0 p.a then x + n - 1 else x) (if above0 p.b then y + n - 1 else y)

/-- The three edges of a record (R237). -/
def edgesOf (bs : List Byte) : List Plane := [planeAt bs 0, planeAt bs 12, planeAt bs 24]

/-- `edge3` (R406). -/
def tileKept (bs : List Byte) (x y n : Nat) : Bool := (edgesOf bs).all fun p => p.touches x y n

/-- The depth of a covered pixel as f32; none when the pixel is not covered (R238). -/
def pixelDepth (bs : List Byte) (x y : Nat) : Option Nat :=
  if (edgesOf bs).all fun p => p.covers x y then
    let z := f32.roundTo .rne 0 false ((planeAt bs 36).at_ x y)
    match f32.decode z with
    | .fin neg m e _ =>
      if m = 0 then some 0
      else if neg || (Num.fin false 1 0 false).lt (.fin neg m e false) then none
      else some z
    | .nan => none
    | .inf _ => none
  else none

/-- The four pixels of a quad, as R239 numbers them, with their depths. -/
def quadDepths (bs : List Byte) (x y : Nat) : List (Option Nat) :=
  (upTo 4).map fun i => pixelDepth bs (x + i % 2) (y + i / 2)

/-- The coverage mask of a quad (R239). -/
def coverage (zs : List (Option Nat)) : Nat :=
  (zs.zip (upTo zs.length)).foldl (fun m (z, i) => if z.isSome then m + 2 ^ i else m) 0

/-- The 32-byte entry of R239. -/
def coverageEntry (x y prim : Nat) (zs : List (Option Nat)) : List Byte :=
  leBytes 2 x ++ leBytes 2 y ++ leBytes 4 prim ++ leBytes 1 (coverage zs) ++ List.replicate 7 0 ++
    zs.flatMap fun z => leBytes 4 (z.getD 0)

end Sys2Proof.Machine
end

