-- ==== Sys2Proof/Machine/WalkCore.lean ====
section
/-! DEFINITION. The walk engine (R218 to R236): the record that a walk holds, its accesses, the end of a
walk, its layout, node and stack, and how it begins. -/

namespace Sys2Proof.Machine

/-! ### The record -/

/-- Bytes of the record image. -/
def Walk.bytes (w : Walk) : List Byte := w.image.toList

/-- A 32-bit field of the record. -/
def Walk.w32 (w : Walk) (off : Nat) : Nat := field w.bytes off 4

/-- A 64-bit field of the record. -/
def Walk.w64 (w : Walk) (off : Nat) : Word := field64 w.bytes off

/-- Writes a field of the record image. -/
def Walk.put (w : Walk) (off n v : Nat) : Walk := { w with image := putImage w.image off (leBytes n v) }

/-- ctl.wpc. -/
def Walk.wpc (w : Walk) : Nat := w.w32 160 % 256

/-- ctl.layout. -/
def Walk.layoutNo (w : Walk) : Nat := slice (w.w64 160) 11 8

/-- The stack entries in use. -/
def Walk.sp (w : Walk) : Nat := w.w32 140

/-- The stack entries that lie in the overflow area (R223). -/
def Walk.spilled (w : Walk) : Nat := w.sp - w.stack.length

/-- The address of a stack entry in the overflow area (R223). -/
def Walk.slot (w : Walk) (i : Nat) : Word := w.w64 128 + BitVec.ofNat 64 (8 * i)

/-- A walk register. -/
def Walk.reg (w : Walk) (r : WReg) : Word := w.regs[r.toNat]'r.isLt

/-- Writes a walk register. -/
def Walk.setReg (w : Walk) (r : WReg) (v : Word) : Walk := { w with regs := w.regs.set r.toNat v r.isLt }

/-- The walk goes to another word. -/
def Walk.goto (w : Walk) (wpc : Nat) : Walk := w.put 160 1 wpc

/-- The ring index that is claimed but not published (R225). -/
def Walk.claim (w : Walk) : Option Word :=
  if w.w64 192 = BitVec.allOnes 64 then none else some (w.w64 192)

/-- The control word with a state and a cause (R225). -/
def Walk.ctl (w : Walk) (st cause : Nat) : Nat :=
  let x := (w.w64 160).toNat
  x % 2 ^ 16 + st * 2 ^ 16 + cause * 2 ^ 20 + x / 2 ^ 28 % 4 * 2 ^ 28

/-- The record as memory receives it when the walk is stopped (R227). -/
def Walk.record256 (w : Walk) (st cause : Nat) (faddr : Word) : List Byte :=
  let w := { w with image := putImage w.image 56 (w.regs.toList.flatMap fun (r : Word) => leBytes 8 r.toNat) }
  ((w.put 160 8 (w.ctl st cause)).put 184 8 faddr.toNat).bytes

/-- The fields of a record break a limit of R225. -/
def badRecord (bs : List Byte) : Bool :=
  let ctl := field64 bs 160
  let st := slice ctl 19 16
  let depth := slice ctl 15 12
  let cause := slice ctl 27 20
  let cap := field bs 136 4
  let paybytes := field bs 152 4
  !zeroField bs 200 56 || slice ctl 63 30 != 0 || slice (field64 bs 168) 63 43 != 0 ||
    decide (5 < st) || decide (8 < depth) || (decide (2 ≤ st) && depth == 0) ||
    !(decide (cause ≤ 0x0A) || (decide (0x10 ≤ cause) && decide (cause ≤ 0x15))) ||
    field bs 48 8 % 4 != 0 || field bs 128 8 == 0 || field bs 128 8 % 8 != 0 ||
    decide (cap < 16) || decide (65536 < cap) || decide (cap < field bs 140 4) ||
    paybytes % 16 != 0 || (field bs 144 8 == 0 && paybytes != 0)

/-! ### Accesses -/

/-- The engine operation of a walk. -/
def Walk.eng (w : Walk) (core : Nat) : Eng :=
  { core := core, ctx := w.ctx, team := some w.team, wave := w.wave, id := w.id, src := 3, req := 2 }

/-- What ends a walk in state faulted: the cause of R225, faddr, and the code and the source of the entry that it
logs. -/
structure WFault where
  cause : Nat
  addr : Word
  code : Option Nat
  src : Nat := 3
  deriving DecidableEq, Repr

/-- A fault that logs nothing and names no address. -/
def WFault.of (cause : Nat) : WFault := { cause := cause, addr := 0, code := none }

/-- The walk fault of a failed access (R225, R233). R225 has no cause for a visibility address or a word of a ring that is
not aligned: the model takes 0x12 with that address (notes/assumptions/38.md). -/
def walkFaultOf (f : MFault) : WFault :=
  match f.cause with
  | .trans c =>
    { cause := c.index, addr := f.addr
      code := match f.tf with
        | some t => t.code
        | none => if c = .poison then some 0x0006 else none }
  | .scratchRange => { cause := 0x15, addr := f.addr, code := none }
  | _ => { cause := 0x12, addr := f.addr, code := none }

/-- The walk fault of a poisoned line (R160, R233). -/
def walkPoison (va : Word) : WFault := { cause := 0x07, addr := va, code := some 0x0006 }

/-- The walk fault of a Sector access that failed: its request has logged the entry (R439, R443). -/
def walkLost (va : Word) : WFault := { walkPoison va with code := none }

/-- The walk fault of a Sector access that finds no link: it logs the entry of a failed request (R443). -/
def walkNoLink (va : Word) : WFault := { walkPoison va with src := 7 }

/-- Some byte lies in the scratchpad window. -/
def touchesWindow (va : Word) (n : Nat) : Bool :=
  inScratchWindow va || decide (Config.spw.toNat < va.toNat + n)

/-- What a walk operation comes to: it is performed, with the word it goes to when that is not the next;
it faults; it waits; or the walk ends in a state of R225. -/
inductive WRes where
  | go (w : Walk) (jump : Option Nat)
  | fault (f : WFault)
  | wait (w : Walk)
  | ends (st : Nat)
  deriving DecidableEq, Repr

/-- The key of a walk's Sector read of an address. -/
def readKey (va : Word) : Nat := 2 ^ 64 + va.toNat

/-- A walk reads bytes that are not in a scratchpad (R233). -/
def walkRead (s : State) (e : Eng) (w : Walk) (va : Word) (n : Nat)
    (k : State → List Byte → State × WRes) : State × WRes :=
  if touchesWindow va n then (s, .fault { cause := 0x15, addr := va, code := none })
  else
    match engRead s s e w.fetched (readKey va) va n with
    | (s, .bytes bs) => k s bs
    | (s, .poison a) => (s, .fault (walkPoison a))
    | (s, .lost a) => (s, .fault (walkLost a))
    | (s, .fault f) => (s, .fault (walkFaultOf f))
    | (s, .waits) =>
      if s.engAsked e (readKey va) then (s, .wait w)
      else
        match engAsk s e (readKey va) va n with
        | (s, more) => (s, .wait { w with fetched := w.fetched ++ more })

/-- The first address of a range whose line is poisoned and is not written whole (R160). -/
def poisonedPart (s : State) (ps : List (Nat × Nat × Word × TlbEntry)) : Option Word :=
  ps.findSome? fun (pa, n, va, _) =>
    match physKind pa with
    | .hbm =>
      (lineParts (n / 128 + 2) pa (List.replicate n 0)).findSome? fun (a, part) =>
        if s.isPoisoned (lineOf a) && part.length != 128 then some (va + BitVec.ofNat 64 (a - pa)) else none
    | .host _ | .sector _ _ | .unpopulated => none

/-- A walk writes bytes that are not in a scratchpad (R227, R233); a write that fails changes
nothing. -/
def walkWrite (s : State) (e : Eng) (va : Word) (bs : List Byte) : State × Option WFault :=
  if touchesWindow va bs.length then (s, some { cause := 0x15, addr := va, code := none })
  else
    match engLocate s e va bs.length 1 .store with
    | (s, .error f) => (s, some (walkFaultOf f))
    | (s, .ok (.scratch _)) => (s, none)
    | (s, .ok (.mem ps)) =>
      match poisonedPart s ps with
      | some a => (s, some (walkPoison a))
      | none =>
        match engWrite s e va bs with
        | (s, none) => (s, none)
        | (s, some f) => (s, some (walkFaultOf f))

/-! ### The end of a walk -/

/-- Stack entries that the engine holds go to the overflow area (R223, R227): `i` is the place of the
first of them, which is the lowest. -/
def spillStack (s : State) (e : Eng) (w : Walk) : Nat → List Word → State × Option WFault
  | _, [] => (s, none)
  | i, x :: xs =>
    match walkWrite s e (w.slot i) (leBytes 8 x.toNat) with
    | (s, some f) => (s, some f)
    | (s, none) => spillStack s e w (i + 1) xs

/-- The stack is spilled and the whole record is written (R227). -/
def writeRecord (s : State) (e : Eng) (w : Walk) (st cause : Nat) (faddr : Word) :
    State × Option WFault :=
  match spillStack s e w w.spilled w.stack.reverse with
  | (s, some f) => (s, some f)
  | (s, none) => walkWrite s e w.record (w.record256 st cause faddr)

/-- The record writes of a walk that is done (R227): hit fields, tmax and ctl. -/
def writeDone (s : State) (e : Eng) (w : Walk) : State × Option WFault :=
  match walkWrite s e (w.record + 28) ((w.bytes.drop 28).take 20) with
  | (s, some f) => (s, some f)
  | (s, none) => walkWrite s e (w.record + 160) (leBytes 8 (w.ctl 5 0))

/-- The registers that the owner lane receives (R226, R395). -/
def Walk.results (w : Walk) (st cause : Nat) : List RegWrite :=
  [.v w.lane w.vd (BitVec.ofNat 32 (st + cause * 16)),
    .v w.lane (w.vd + 1) (BitVec.ofNat 32 (w.w32 32)),
    .v w.lane (w.vd + 2) (BitVec.ofNat 32 (w.w32 36)),
    .v w.lane (w.vd + 3) (BitVec.ofNat 32 (w.w32 40)),
    .v w.lane (w.vd + 4) (BitVec.ofNat 32 (w.w32 44))]

/-- A walk of the quad's outstanding instruction has ended its run. -/
def Pend.landWalk (p : Pend) (id : Nat) (ws : List RegWrite) : Pend :=
  { p with writes := p.writes ++ ws, walks := p.walks.filter fun i => i != id }

/-- The owner lane receives its results, and the engine has a place free (R232, R395). -/
def State.landWalk (s : State) (core : Nat) (w : Walk) (st cause : Nat) : State :=
  let s := s.modQuad w.team w.wave w.quad fun q =>
    { q with pends := q.pends.map fun p =>
        if p.id = w.pend then p.landWalk w.id (w.results st cause) else p }
  (s.modCore core fun k => { k with walks := k.walks.filter fun x => x.id != w.id }).wake core

/-- An entry of the error log that a walk causes. -/
def State.logWalk (s : State) (e : Eng) (f : WFault) : State :=
  match f.code with
  | some code => s.engLog e code f.src 0 f.addr
  | none => s

/-- Accumulates and Sector requests of a walk are outstanding: its completion waits for them (R240). -/
def State.walkBusy (s : State) (w : Walk) : Bool :=
  (s.accs.any fun a => a.walk == some w.id) ||
  s.requests.any fun r =>
    match r.who with
    | .engine _ i _ => i == w.id
    | .load _ _ _ _ | .store _ _ _ | .wait _ _ _ | .fetch _ _ _ | .tender _ => false

/-- A walk ends its run in a state of R225 (R227): a record write or spill that fails ends it in state
faulted with the cause of that failure, and faddr is not written. -/
def State.endWalk (s : State) (core : Nat) (w : Walk) (st cause : Nat) (faddr : Word) : State :=
  let e := w.eng core
  match (if st = 5 then writeDone s e w else writeRecord s e w st cause faddr) with
  | (s, none) => s.landWalk core w st cause
  | (s, some f) => (s.logWalk e f).landWalk core w 3 f.cause

/-- A fault ends a walk, and no other (R233). -/
def State.faultWalk (s : State) (core : Nat) (w : Walk) (f : WFault) : State :=
  (s.logWalk (w.eng core) f).endWalk core w 3 f.cause f.addr

/-- Changes a walk of a core. -/
def State.setWalk (s : State) (core : Nat) (w : Walk) : State :=
  s.modCore core fun k => { k with walks := k.walks.map fun x => if x.id = w.id then w else x }

/-- A running walk of a core. -/
def State.walk? (s : State) (core id : Nat) : Option Walk :=
  (s.core core).walks.find? fun w => w.id == id

/-! ### Layouts and nodes -/

/-- Bytes per child pointer (R220). -/
def Layout.pointerBytes (l : Layout) : Nat := if l.cpenc = 0 then 8 else 4

/-- Bytes of one triangle's primitive data in a leaf (R221). -/
def Layout.leafBytes (l : Layout) : Nat := if l.leafenc = 0 then 40 else 4

/-- Bytes of the boxes of an interior node (R221). -/
def Layout.boxBytes (l : Layout) : Nat := if l.boxenc = 0 then 24 * l.maxkids else 16 + 6 * l.maxkids

/-- Bytes of a node. -/
def Layout.nodeBytes (l : Layout) : Nat := 16 * l.nodesz

/-- The layout of a 32-byte entry; none when it is malformed (R220, R221). -/
def layoutOf (bs : List Byte) : Option Layout :=
  let l : Layout :=
    { nodesz := field bs 0 1, maxkids := field bs 1 1, kindoff := field bs 2 1, cpoff := field bs 3 1
      cpenc := field bs 4 1, boxoff := field bs 5 1, boxenc := field bs 6 1, leafoff := field bs 7 1
      leafenc := field bs 8 1, base := field64 bs 16 }
  if decide (2 ≤ l.nodesz) && decide (l.nodesz ≤ 16) && decide (1 ≤ l.maxkids) &&
      decide (l.maxkids ≤ 8) && decide (l.cpenc ≤ 2) && decide (l.boxenc ≤ 1) &&
      decide (l.leafenc ≤ 1) && zeroField bs 9 7 && zeroField bs 24 8 &&
      (l.base == 0 || l.cpenc == 2 || l.leafenc == 1) &&
      decide (l.kindoff < l.nodeBytes) && decide (l.cpoff + l.pointerBytes * l.maxkids ≤ l.nodeBytes) &&
      decide (l.boxoff + l.boxBytes ≤ l.nodeBytes) && decide (l.leafoff + l.leafBytes ≤ l.nodeBytes)
  then some l else none

/-- The child count in a node's kind byte (R220). -/
def Layout.kids (l : Layout) (bs : List Byte) : Nat := field bs l.kindoff 1 % 16

/-- The triangle count in a leaf's kind byte (R220). -/
def Layout.tris (l : Layout) (bs : List Byte) : Nat := field bs l.kindoff 1 / 16

/-- The node is malformed (R220, R221); the reserved byte of a quantised header is zero (R11). -/
def Layout.malformed (l : Layout) (bs : List Byte) : Bool :=
  let n := l.kids bs
  if n = 0 then
    l.tris bs == 0 || decide (l.nodeBytes < l.leafoff + l.leafBytes * l.tris bs)
  else
    decide (l.maxkids < n) ||
      (l.boxenc == 1 && (field bs (l.boxoff + 15) 1 != 0 || (upTo 3).any fun i =>
        let e := field bs (l.boxoff + 12 + i) 1
        e == 0 || e == 255))

/-- `fetch` of a node (R403). -/
def fetchNode (s : State) (e : Eng) (w : Walk) (va : Word) (k : State → Walk → State × WRes) :
    State × WRes :=
  if va.toNat % 16 ≠ 0 then (s, .fault (.of 0x11))
  else
    walkRead s e w va w.layout.nodeBytes fun s bs =>
      if w.layout.malformed bs then (s, .fault (.of 0x11))
      else k s ({ w with buffer := some bs }.put 120 8 va.toNat)

/-! ### The stack -/

/-- A push (R223); the write to the overflow area comes first. -/
def pushWalk (s : State) (e : Eng) (w : Walk) (x : Word) : State × WRes :=
  if w.w32 136 ≤ w.sp then (s, .fault (.of 0x10))
  else
    let up : Walk := w.put 140 4 (w.sp + 1)
    if w.stack.length < 16 then (s, .go { up with stack := x :: w.stack } none)
    else
      match walkWrite s e (w.slot w.spilled) (leBytes 8 (w.stack.getD 15 0).toNat) with
      | (s, some f) => (s, .fault f)
      | (s, none) => (s, .go { up with stack := x :: w.stack.take 15 } none)

/-- A pop (R223): while the overflow area holds entries, the engine takes the highest of them, so that it holds the
top 16. -/
def popWalk (s : State) (e : Eng) (w : Walk) (k : State → Walk → Word → State × WRes) : State × WRes :=
  if w.sp = 0 then (s, .fault (.of 0x12))
  else
    let down : Walk := w.put 140 4 (w.sp - 1)
    match w.stack with
    | x :: xs =>
      if w.spilled = 0 then k s { down with stack := xs } x
      else walkRead s e w (w.slot (w.spilled - 1)) 8 fun s bs =>
        k s { down with stack := xs ++ [field64 bs 0] } x
    | [] => walkRead s e w (w.slot (w.sp - 1)) 8 fun s bs => k s down (field64 bs 0)

/-! ### Claims (R227) -/

/-- The state of a record lets a claim take it (R227). -/
def ClaimKind.takes (k : ClaimKind) (st : Nat) : Bool :=
  match k with
  | .start => st == 0 || st == 5
  | .resume => st == 2 || st == 3 || st == 4
  | .restore => st == 4

/-- The control word that a claim leaves: state running, and the depth that a start gives (R227, R230). -/
def ClaimKind.control (k : ClaimKind) (depth ctl : Nat) : Nat :=
  let depth := match k with
    | .start => depth
    | .resume | .restore => ctl / 2 ^ 12 % 16
  ctl / 2 ^ 20 * 2 ^ 20 + 2 ^ 16 + depth * 2 ^ 12 + ctl % 2 ^ 12

/-- The state of a record in its control word (R225). -/
def ctlState (ctl : Nat) : Nat := ctl / 2 ^ 16 % 16

/-- The word that owns a record (R225). -/
def Walk.ownerWord (s : State) (w : Walk) : Nat :=
  (4 * w.quad + w.lane) * 2 ^ 37 + (s.wave w.team w.wave).wid * 2 ^ 32 + (s.team w.team).teamid.toNat

/-- A lower lane of the same instruction has not made its claim in a Sector window (R395): lanes claim in ascending
order, and the engine numbers their walks so. Claims in this device's memory are made at issue; no record lies both
there and in a Sector window. -/
def State.claimsBefore (s : State) (core : Nat) (w : Walk) : Bool :=
  (s.core core).walks.any fun x =>
    x.team == w.team && x.wave == w.wave && x.pend == w.pend && decide (x.id < w.id) &&
      match x.want with
      | some k => !k.claimed
      | none => false

/-- The engine takes the bytes of its record (R223). -/
def Walk.load (w : Walk) (bs : List Byte) : Walk :=
  { w with image := Vector.ofFn fun i => bs.getD i.val 0
           regs := Vector.ofFn fun i => field64 bs (56 + 8 * i.val) }

/-- The engine gives up a walk whose record refuses the claim (R226): the lane receives only vd (R395). -/
def State.refuseWalk (s : State) (core : Nat) (w : Walk) : State :=
  let s := s.modQuad w.team w.wave w.quad fun q =>
    { q with pends := q.pends.map fun p =>
        if p.id = w.pend then p.landWalk w.id [.v w.lane w.vd 0x206] else p }
  (s.modCore core fun k => { k with walks := k.walks.filter fun x => x.id != w.id }).wake core

/-- A walk that lost its record ends in state faulted, and nothing is written to it (R227). -/
def State.loseWalk (s : State) (core : Nat) (w : Walk) (f : WFault) : State :=
  (s.logWalk (w.eng core) f).landWalk core w 3 f.cause

/-- A step of the claim of a record in a Sector window (R227, R440): an atomic compares the control word and sets it;
one that found another word which lets the claim take it is repeated; then the owner is written and the record is
loaded. A mapping that no longer names a Sector window is a lost record; one that breaks a limit of R225 when it is
loaded is refused (R11; notes/assumptions/34.md). -/
def State.claimStep (s : State) (core : Nat) (w : Walk) (k : WalkClaim) : State :=
  let e := w.eng core
  let retry (s : State) (k : WalkClaim) : State := s.setWalk core { w with want := some k, fetched := [] }
  if k.claimed then
    match walkRead s e w w.record 256 fun s bs => (s, .go ({ w with want := none, fetched := [] }.load bs) none) with
    | (s, .go x _) => if badRecord x.bytes then s.refuseWalk core w else s.setWalk core x
    | (s, .fault f) => s.loseWalk core w f
    | (s, .wait w) => s.setWalk core w
    | (s, .ends _) => s
  else if s.claimsBefore core w then s
  else
    match engLocate s e w.record 256 1 .store with
    | (s, .error f) => s.loseWalk core w (walkFaultOf f)
    | (s, .ok l) =>
      match l.sector with
      | none => s.loseWalk core w (walkPoison w.record)
      | some (win, off, va) =>
        match fetchedAt w.fetched claimKey 8 with
        | some none => s.loseWalk core w (walkLost va)
        | some (some bs) =>
          let old := field64 bs 0
          if old = k.ctl then
            let own : State × Option WFault :=
              match k.kind with
              | .restore => (s, none)
              | .start | .resume =>
                match walkWrite s e (w.record + 156) (leBytes 4 (s.team w.team).gridid.toNat) with
                | (s, some f) => (s, some f)
                | (s, none) => walkWrite s e (w.record + 168) (leBytes 8 (w.ownerWord s))
            match own with
            | (s, some f) => s.loseWalk core w f
            | (s, none) => retry s { k with claimed := true }
          else if k.kind.takes (ctlState old.toNat) then retry s { k with ctl := old }
          else s.refuseWalk core w
        | none =>
          if s.engAsked e claimKey then s
          else
            match sendRemote s e.ctx win (off + 160) (.engine e.core e.id claimKey) (va + 160)
                (.atomic .cas true (BitVec.ofNat 64 (k.kind.control k.depth k.ctl.toNat)) k.ctl false false) with
            | (s, some _) => s
            | (s, none) => s.loseWalk core w (walkNoLink va)

/-! ### Beginning -/

/-- The engine loads the layout, the top of the stack and the node of a walk that starts or resumes
(R219, R223, R403). -/
def startWalk (s : State) (e : Eng) (w : Walk) : State × WRes :=
  let table : Word := (s.ctx w.ctx).lay ++ 0#9
  let entry := table + BitVec.ofNat 64 (32 * w.layoutNo)
  walkRead s e w entry 32 fun s bs =>
    match layoutOf bs with
    | none => (s, .fault { cause := 0x11, addr := 0, code := none })
    | some l =>
      let w := { w with layout := l }
      let n := min w.sp 16
      let begin (s : State) (stack : List Word) : State × WRes :=
        let w := { w with stack := stack, active := true }
        if w.w64 120 = 0 then (s, .go w none)
        else fetchNode s e w (w.w64 120) fun s w => (s, .go w none)
      if n = 0 then begin s []
      else
        walkRead s e w (w.slot (w.sp - n)) (8 * n) fun s bs =>
          begin s (((upTo n).map fun i => field64 bs (8 * i)).reverse)

/-- The most operations a walk executes between a start or resume and its end (R224). -/
def stepLimit : Nat := 1048576

/-- What the walk engine does next with a walk: a state of its own, or a word to perform. -/
inductive WalkNext where
  | state (s : State)
  | word (w : Code) (s : State)

/-- A walk has begun, faulted at its beginning, or waits. -/
def State.begun (s : State) (core : Nat) (w : Walk) : State × WRes → State
  | (s', .go w' _) => s'.setWalk core { w' with fetched := [], steps := 0 }
  | (_, .fault f) => if s.walkBusy w then s else s.faultWalk core w f
  | (s', .wait w') => s'.setWalk core w'
  | (_, .ends _) => s

/-- A line of walk code lies in a Sector window (R222, R438): it is asked for, and once it has come the core holds it;
one that could not be had is a poisoned line (R439, R443). -/
def State.walkCodeRemote (s : State) (core : Nat) (w : Walk) (line : Word) (win off : Nat) : State :=
  let e := w.eng core
  let lost (s : State) (f : WFault) : State := if s.walkBusy w then s else s.faultWalk core w f
  match fetchedAt w.fetched line.toNat 128 with
  | some (some bs) =>
    (s.fillCode core w.ctx (line.toNat / 128) bs).setWalk core
      { w with fetched := w.fetched.filter fun x => x.1 != line.toNat }
  | some none => lost s (walkLost line)
  | none =>
    if s.engAsked e line.toNat then s
    else
      match sendRemote s w.ctx win off (.engine core w.id line.toNat) line (.read 128) with
      | (s, some _) => s
      | (s, none) => lost s (walkNoLink line)

/-- The word at a walk's wpc (R222). -/
def State.walkWord (s : State) (core : Nat) (w : Walk) : WalkNext :=
  let va := w.w64 48 + BitVec.ofNat 64 (4 * w.wpc)
  let stop (s : State) (f : WFault) : WalkNext :=
    .state (if s.walkBusy w then s else s.faultWalk core w f)
  if touchesWindow va 4 then stop s { cause := 0x15, addr := va, code := none }
  else
    match fetchWord s core w.ctx va with
    | (s, .word x) => .word x { s with cur := .walk core w.id }
    | (s, .fault f) => stop s (walkFaultOf f)
    | (s, .remote a win off) => .state (s.walkCodeRemote core w a win off)
    | (s, .check b) =>
      let s := s.modCore core fun k =>
        if k.checks.any fun x => x.ctx == w.ctx && x.base == b then k
        else { k with checks := { ctx := w.ctx, base := b } :: k.checks }
      .state (s.setWalk core { w with check := some b })

/-- A walk's operation stands midway, and goes on before its context is saved (notes/assumptions/82.md): its claim of an
index or its publication in a Sector window is on its way (R235). -/
def State.walkMidway (s : State) (core : Nat) (w : Walk) : Bool :=
  w.fetched.any (fun x => x.1 == claimKey || x.1 == awaitKey) || s.engAsked (w.eng core) claimKey ||
    s.engAsked (w.eng core) awaitKey

/-- The next thing the engine does with a walk: nothing while its context is being saved, unless an operation stands
midway, or while a code page check is in progress. -/
def State.nextWalk (s : State) (core id : Nat) : WalkNext :=
  match s.walk? core id with
  | none => .state s
  | some w =>
    match w.want with
    | some k => .state (s.claimStep core w k)
    | none =>
    if ((s.ctx w.ctx).saving && !s.walkMidway core w) || w.check.isSome then .state s
    else if !w.active then .state (s.begun core w (startWalk s (w.eng core) w))
    else if stepLimit ≤ w.steps then
      .state (if s.walkBusy w then s else s.faultWalk core w (.of 0x13))
    else s.walkWord core w

/-! ### Performing an operation -/

/-- The stall counter of walk operations counts one that was executed (R468). -/
def State.ranWalkOp (s : State) (core : Nat) (w : Walk) : State := s.stall core w.ctx 11 1

/-- What an operation of a walk leaves (R224, R401, R487): wpc advances unless the operation says
otherwise; an operation that faults has no effect. -/
def State.settleWalk (s : State) (core : Nat) (w : Walk) : State × WRes → State
  | (s', .go w' jump) =>
    match jump with
    | some l =>
      (s'.setWalk core { w'.goto l with fetched := [], logged := [], steps := w.steps + 1 }).ranWalkOp core w
    | none =>
      if w.wpc = 255 then (if s.walkBusy w then s else s.faultWalk core w (.of 0x12))
      else
        (s'.setWalk core { w'.goto (w.wpc + 1) with fetched := [], logged := [], steps := w.steps + 1 }).ranWalkOp
          core w
  | (_, .fault f) => if s.walkBusy w then s else s.faultWalk core w f
  | (s', .wait w') => s'.setWalk core w'
  | (_, .ends st) =>
    if s.walkBusy w then s
    else if st = 2 then
      if w.wpc = 255 then s.faultWalk core w (.of 0x12)
      else (s.endWalk core (w.goto (w.wpc + 1)) 2 0 0).ranWalkOp core w
    else (s.endWalk core w st 0 0).ranWalkOp core w

/-- The meaning of a walk operation. -/
def withWalk (s : State) (f : Eng → Walk → State × WRes) : Out :=
  match s.cur with
  | .walk core id =>
    match s.walk? core id with
    | some w => .next (s.settleWalk core w (f (w.eng core) w))
    | none => .fault .noIssuer
  | .gang _ _ _ => .fault .noIssuer
  | .none => .fault .noIssuer

/-- A word that is no walk operation (R401). -/
def badWalkWord (s : State) : Out := withWalk s fun _ _ => (s, .fault (.of 0x12))

/-- An operation that writes one register. -/
def regOp (d : WReg) (f : Walk → Word) (s : State) : Out :=
  withWalk s fun _ w => (s, .go (w.setReg d (f w)) none)

/-- The node buffer, when it holds a node of the wanted kind whose child or triangle `i` exists; else
0x12 (R402 to R405). -/
def withNode (s : State) (w : Walk) (interior : Bool) (i : Nat) (k : List Byte → State × WRes) :
    State × WRes :=
  match w.buffer with
  | none => (s, .fault (.of 0x12))
  | some bs =>
    let n := w.layout.kids bs
    let limit := if interior then n else if n = 0 then w.layout.tris bs else 0
    if i < limit then k bs else (s, .fault (.of 0x12))

end Sys2Proof.Machine
end

