-- ==== Sys2Proof/Machine/Link.lean ====
section
/-! DEFINITION. Sector links (R437 to R445): link states, the requests of this device and their replies,
and the requests that it serves for other devices. -/

namespace Sys2Proof

/-- The code of the entry that a refused or failed request logs (R439). -/
def RefuseWhy.code : RefuseWhy → Nat
  | .tenant => 0x0004
  | .window => 0x0005
  | .other => 0x0006

/-- A wait kind. -/
def RemoteKind.isWait : RemoteKind → Bool
  | .wait _ _ _ => true
  | .read _ | .write _ | .atomic _ _ _ _ _ _ | .accum _ _ _ _ | .get _ | .add _ _ | .cancel _ => false

/-- The request brings bytes to its requester. -/
def RemoteKind.brings : RemoteKind → Bool
  | .read _ | .atomic _ _ _ _ _ _ | .get _ => true
  | .write _ | .accum _ _ _ _ | .add _ _ | .wait _ _ _ | .cancel _ => false

/-- The alignment that the place of a request needs (R124, R353). -/
def RemoteKind.align : RemoteKind → Nat
  | .read _ | .write _ | .cancel _ => 1
  | .atomic _ w8 _ _ _ _ => if w8 then 8 else 4
  | .accum _ ty _ _ => ty.width
  | .get _ | .add _ _ | .wait _ _ _ => 8

/-- A counter operation (R125). -/
def RemoteKind.isCounter : RemoteKind → Bool
  | .get _ | .add _ _ | .wait _ _ _ => true
  | .read _ | .write _ | .atomic _ _ _ _ _ _ | .accum _ _ _ _ | .cancel _ => false

/-- The permissions that a request asks of its page (R150, R439). -/
def RemoteKind.need : RemoteKind → Machine.Need
  | .read _ => Machine.Need.read
  | .write _ => Machine.Need.store
  | .atomic _ _ _ _ _ _ => Machine.Need.store
  | .accum _ _ _ _ => Machine.Need.store
  | .get _ => Machine.Need.counterGet
  | .add _ _ => Machine.Need.counterAdd
  | .wait _ _ _ => Machine.Need.counterGet
  | .cancel _ => Machine.Need.read

end Sys2Proof

namespace Sys2Proof.Machine

/-! ### Requests of this device -/

/-- The lanes of a quad that a loaded value goes to, as TRAPINFO names them (R412). -/
def Dest.lanes : Dest → BitVec 4
  | .v lane _ _ => laneBit lane
  | .s _ => 0xF
  | .j _ => 0xF
  | .held => 0xF

/-- Bytes that arrive for one load of an outstanding instruction. -/
def LoadDest.arrive (l : LoadDest) (off : Nat) (bs : List Byte) : LoadDest :=
  { l with bytes := patch l.bytes off (bs.take (l.bytes.length - off)) }

/-- A request of an outstanding instruction has its reply: bytes for its loads, or none (R354, R443). -/
def Pend.arrive (p : Pend) (req : Nat) (quad : Nat) (targets : List (Nat × Nat × Nat))
    (bs : Option (List Byte)) (addr : Word) : Pend :=
  let mine := targets.filter fun t => t.1 == quad
  let p := { p with requests := p.requests.filter fun r => r != req }
  match bs with
  | some bs =>
    mine.foldl (fun p t => { p with loads := modAt p.loads t.2.1 fun l => l.arrive t.2.2 bs }) p
  | none =>
    mine.foldl (fun p t =>
      let lanes := match p.loads[t.2.1]? with | some l => l.dest.lanes | none => 0
      { p with
        loads := modAt p.loads t.2.1 fun l => { l with dropped := true }
        faults := p.faults ++ [poisonDeferred p.flag addr lanes] }) p

/-- The reply of a request of an outstanding instruction reaches every quad of the wave. -/
def Wave.arrive (w : Wave) (pend req : Nat) (targets : List (Nat × Nat × Nat)) (bs : Option (List Byte))
    (addr : Word) : Wave :=
  { w with quads := (upTo w.quads.length).map fun n =>
      let q := w.quad n
      { q with pends := q.pends.map fun p => if p.id = pend then p.arrive req n targets bs addr else p } }

/-- A wait of a quad that another device holds is released (R128, R441). -/
def Quad.remoteRelease (q : Quad) (req : Nat) (status : BitVec 2) : Quad :=
  match q.wait with
  | .counter x =>
    if x.request = some req then { q with wait := .counter { x with status := some status } } else q
  | _ => q

/-- Bytes, or a failed read, reach an engine operation, a copy packet or a walk. -/
def State.engineArrive (s : State) (core id key : Nat) (bs : Option (List Byte)) : State :=
  let add (l : List (Nat × Option (List Byte))) : List (Nat × Option (List Byte)) :=
    l.filter (fun x => x.1 != key) ++ [(key, bs)]
  let s := s.modCore core fun k =>
    { k with
      queues := k.queues.map fun l => l.map fun e => if e.id = id then { e with fetched := add e.fetched } else e
      walks := k.walks.map fun w => if w.id = id then { w with fetched := add w.fetched } else w }
  { s with ctxs := s.ctxs.map fun (x : Ctx) =>
      { x with queues := x.queues.map fun u =>
          { u with admitted := u.admitted.map fun a =>
              if a.id = id then { a with fetched := add a.fetched } else a } } }

/-- The request is no longer outstanding: what it held back goes on. -/
def State.dropRequest (s : State) (r : Request) : State :=
  let s := { s with requests := s.requests.filter fun x => x.id != r.id }
  match r.who with
  | .store t w _ => (s.wake (s.wave t w).core).pumpCore (s.wave t w).core
  | .engine core _ _ => (((s.wake core).pumpCore core).lastWrites core).retireSent core
  | .load t w _ _ => s.wake (s.wave t w).core
  | .wait _ _ _ | .fetch _ _ _ | .tender _ => s

/-- The quads that a request concerns (R47). -/
def Request.concerns (r : Request) : List (Nat × Nat × Nat) :=
  match r.who with
  | .load t w _ targets => targets.map fun x => (t, w, x.1)
  | .store t w q => [(t, w, q)]
  | .wait t w q => [(t, w, q)]
  | .fetch t w q => [(t, w, q)]
  | .engine _ _ _ => []
  | .tender _ => []

/-- A quad that waits for blocks has one of them, or its read has failed; another quad of the gang may have asked for
it (R438). -/
def Quad.fetchArrive (q : Quad) (mine : Bool) (req : Nat) (addr : Word) (bs : Option (List Byte)) : Quad :=
  match q.wait with
  | .fetch reqs =>
    if reqs.contains req then
      let rest := reqs.filter (· != req)
      { q with
        fetched := if mine then q.fetched ++ [(addr.toNat, bs)] else q.fetched
        wait := if rest.isEmpty then .ready else .fetch rest }
    else q
  | _ => q

/-- The reply to an acquiring request has come (R180): the core drops its copies, and the quads that waited for it go
on. -/
def State.acquired (s : State) (t w : Nat) (r : Request) : State :=
  if remoteAcquires r.body.kind then
    (dropCopies s (s.wave t w).core r.ctx).modWave t w fun x =>
      { x with quads := x.quads.map fun q => q.answered r.id }
  else s

/-- The operation that made the request goes on with its reply: it brings bytes, it is a wait, or it is an add or a
write that its engine awaits. -/
def Request.answers (r : Request) (key : Nat) : Bool := r.body.kind.brings || r.body.kind.isWait || key == awaitKey

/-- A request has its reply: bytes, or none where it failed or was refused (R439, R443). -/
def State.landReply (s : State) (r : Request) (bs : Option (List Byte)) : State :=
  match r.who with
  | .load t w pend targets =>
    (s.modWave t w fun x => x.arrive pend r.id targets bs r.addr).acquired t w r
  | .fetch t w q =>
    s.modWave t w fun x => { x with quads := x.quads.mapIdx fun n y => y.fetchArrive (n == q) r.id r.addr bs }
  | .tender _ =>
    { s with fetches := s.fetches.map fun (f : QueueFetch) => if f.req = r.id then { f with reply := some bs } else f }
  | .engine core id key => if r.answers key then s.engineArrive core id key bs else s
  | .store _ _ _ => s
  | .wait _ _ _ => s

/-- A counter add. -/
def Request.isAdd (r : Request) : Bool :=
  match r.body.kind with
  | .add _ _ => true
  | .read _ | .write _ | .atomic _ _ _ _ _ _ | .accum _ _ _ _ | .get _ | .wait _ _ _ | .cancel _ => false

/-- The log source of a counter add of an engine, a walk, a packet or a launch (R63, R491). -/
def Request.addSource (r : Request) : Option Nat :=
  match r.who with
  | .engine core _ key =>
    if !r.isAdd then none
    else if core = dispatcherCore then some 6
    else if key = awaitKey then some 2
    else if addKey 0 ≤ key then some (key - addKey 0)
    else none
  | .load _ _ _ _ | .store _ _ _ | .wait _ _ _ | .fetch _ _ _ | .tender _ => none

/-- The engine operation of a queue entry or a walk of a core. -/
def State.engOf (s : State) (core id : Nat) : Option Eng :=
  let k := s.core core
  match k.queues.toList.flatten.find? fun e => e.id == id with
  | some e => some (e.eng core)
  | none => (k.walks.find? fun w => w.id == id).map (·.eng core)

/-- A counter add that another device did not perform logs what a local one logs (R63, R67, R127, R373, R377): detail 1
for a failed check, 2 for an overflow. A walk faults on the first (R407). -/
def State.addFails (s : State) (r : Request) (detail : Nat) : State :=
  match r.who, r.addSource with
  | .engine core id _, some src =>
    match s.engOf core id with
    | some e => if e.src = 3 ∧ detail = 1 then s else s.engLog e 0x0002 (if e.src = 3 then 3 else src) detail r.addr
    | none =>
      s.log r.ctx { LogEntry.plain 0x0002 src detail r.addr with core := if core < 288 then core else 0xFFFF }
  | _, _ => s

/-- A request fails or is refused (R439, R443): one entry is logged with the code, and the requester sees a
poisoned line. A wait of a quad is released with status 2; a queue whose consumer counter it was stops (R58). -/
def State.failRequest (s : State) (r : Request) (code : Nat) : State :=
  let s := ((s.logFor r.ctx r.concerns code 7 r.addr).addFails r 1).dropRequest r
  match r.who with
  | .store t w q => s.deferDrain [(t, w, q)] r.addr
  | .wait t w q => s.modQuad t w q fun x => x.remoteRelease r.id 2
  | .tender q => if r.isAdd then s.entryFails r.ctx q 1 else s.landReply r none
  | .load _ _ _ _ | .fetch _ _ _ | .engine _ _ _ => s.landReply r none

/-- A request that brings nothing has been performed (R440): what awaits it goes on, and a packet whose consumer counter
was advanced takes its place (R62). -/
def State.acknowledged (s : State) (r : Request) : State :=
  let s := (s.dropRequest r).landReply r (some [])
  match r.who with
  | .tender q => if r.isAdd then s.packetEnters r.ctx q else s
  | .load _ _ _ _ | .store _ _ _ | .wait _ _ _ | .engine _ _ _ | .fetch _ _ _ => s

/-- A counter add would take its counter past 2^64 - 1, and is not performed (R67, R127). That of a consumer counter
stops its queue, which the spec does not say (notes/assumptions/79.md). -/
def State.addOverflows (s : State) (r : Request) : State :=
  let s := ((s.addFails r 2).dropRequest r).landReply r (some [])
  match r.who with
  | .tender q => if r.isAdd then s.entryFails r.ctx q 2 else s
  | .load _ _ _ _ | .store _ _ _ | .wait _ _ _ | .engine _ _ _ | .fetch _ _ _ => s

/-- The request with an identity. -/
def State.request? (s : State) (id : Nat) : Option Request := s.requests.find? fun r => r.id == id

/-- A wait has its reply: that of a quad is released and its gang goes on (R128); that of an engine or packet is
satisfied (R142). -/
def State.endRemoteWait (s : State) (r : Request) (status : BitVec 2) : State :=
  match r.who with
  | .wait t w q =>
    let s := (s.dropRequest r).modQuad t w q fun x => x.remoteRelease r.id status
    match (s.quad t w q).cwait? with
    | some x => s.resumeWaits t w x.tag
    | none => s
  | .engine _ _ _ => (s.dropRequest r).landReply r (some [])
  | .load _ _ _ _ | .store _ _ _ | .fetch _ _ _ | .tender _ => s

/-- The bytes of a reply reach the requester. -/
def State.deliver (s : State) (r : Request) (bs : List Byte) : State := (s.dropRequest r).landReply r (some bs)

/-- A refused or failed wait of a quad is released with status 2 and its gang goes on. -/
def State.failWait (s : State) (r : Request) (code : Nat) : State :=
  let s := s.failRequest r code
  match r.who with
  | .wait t w q =>
    match (s.quad t w q).cwait? with
    | some x => s.resumeWaits t w x.tag
    | none => s
  | .load _ _ _ _ | .store _ _ _ | .engine _ _ _ | .fetch _ _ _ | .tender _ => s

/-- Every request that awaits a reply on a link fails (R445). -/
def State.failLink (s : State) (n : Nat) : State :=
  (s.requests.filter fun r => r.link == n && r.retryAt.isNone).foldl (fun s r => s.failWait r 0x0006) s

/-- The wait has sent its cancel (R441). -/
def Request.cancelled (r : Request) (s : State) : Bool :=
  match r.who with
  | .wait t w q =>
    match (s.quad t w q).cwait? with
    | some x => x.cancelled
    | none => false
  | .load _ _ _ _ | .store _ _ _ | .engine _ _ _ | .fetch _ _ _ | .tender _ => false

/-- What a reply does (R142, R439, R443). A reply that does not answer its request changes nothing. A regression leaves
the wait of an engine or a packet where it is, and is logged in its context (R67, R136). A wait that has sent its cancel
is not sent again. -/
def State.takeReply (s : State) (r : Request) (x : RemoteRep) : State :=
  match x with
  | .data bs => if r.body.kind.brings then s.deliver r bs else s
  | .done => if r.body.kind.brings || r.body.kind.isWait then s else s.acknowledged r
  | .overflow => if r.body.kind.brings || r.body.kind.isWait then s else s.addOverflows r
  | .refused why => s.failWait r why.code
  | .satisfied => if r.body.kind.isWait then s.endRemoteWait r 0 else s
  | .regression =>
    match r.who with
    | .wait _ _ _ => s.endRemoteWait r 2
    | .engine _ _ _ => if r.body.kind.isWait then s.log r.ctx (.plain 0x0002 7 0 r.addr) else s
    | .load _ _ _ _ | .store _ _ _ | .fetch _ _ _ | .tender _ => s
  | .retry =>
    if r.body.kind.isWait && !r.cancelled s then
      { s with requests := s.requests.map fun (y : Request) => if y.id = r.id then { y with retryAt := some s.wall } else y }
    else s

/-- `REMOTE_REPLY` (R443). -/
def execRemoteReply (req : Nat) (r : RemoteRep) (s : State) : Out :=
  .next (match s.request? req with | some x => s.takeReply x r | none => s)

/-- `REMOTE_REQUEST_TIMEOUT` (R443): 2 ms have passed without a reply. -/
def execRemoteRequestTimeout (req : Nat) (s : State) : Out :=
  .next
    (match s.request? req with
     | some r =>
       if r.retryAt.isNone && decide (r.sentAt + 2000 * microsecond ≤ s.wall) then s.failWait r 0x0006 else s
     | none => s)

/-- `REMOTE_WAIT_CANCEL` (R441): at expiry the quad sends a cancel, by the route of that moment (R443), and stays parked
until it is acknowledged; where no link is up the wait fails. -/
def execRemoteWaitCancel (team wave quad : Nat) (s : State) : Out :=
  .next
    (match (s.quad team wave quad).cwait? with
     | some x =>
       match x.request.bind s.request? with
       | some r =>
         if s.cycleOver && x.expired && !x.cancelled then
           match routeLink s r.dev with
           | some l =>
             let body : RemoteReq := { r.body with id := s.nextId, kind := .cancel r.id }
             ({ s.bumpId with
               requests := s.requests.map fun (y : Request) =>
                 if y.id = r.id then { y with link := l, sentAt := s.wall, retryAt := none } else y
               sectorOut := .request l body :: s.sectorOut } : State).modQuad team wave
               quad fun q => { q with wait := .counter { x with cancelled := true } }
           | none => s.failWait r 0x0006
         else s
       | none => s
     | none => s)

/-- `REMOTE_CANCEL_ACK` (R441): the target has acknowledged the cancel of this wait. -/
def execRemoteCancelAck (req : Nat) (satisfied : Bool) (s : State) : Out :=
  .next
    (match s.request? req with
     | some r => if r.cancelled s then s.endRemoteWait r (if satisfied then 0 else 1) else s
     | none => s)

/-- `REMOTE_WAIT_RETRY` (R142): 4 µs after a retry reply the wait is sent again. -/
def execRemoteWaitRetry (req : Nat) (s : State) : Out :=
  .next
    (match s.request? req with
     | some r =>
       match r.retryAt with
       | some t =>
         if t + 4 * microsecond ≤ s.wall && !r.cancelled s then
           match routeLink s r.dev with
           | some l =>
             { s with
               requests := s.requests.map fun (y : Request) =>
                 if y.id = r.id then { y with link := l, sentAt := s.wall, retryAt := none } else y
               sectorOut := .request l r.body :: s.sectorOut }
           | none => s.failWait r 0x0006
         else s
       | none => s
     | none => s)

/-! ### Requests that this device serves -/

/-- Why a request is refused, with the entry that this device logs beside its reply: a counter operation that fails the
checks of R124 logs code 0x0002 with detail 1 (notes/assumptions/80.md), every other refusal the code of R439. -/
structure Refused where
  why : RefuseWhy
  counter : Bool
  deriving DecidableEq, Repr

/-- The refusal of a failed translation (R439). -/
def refusedBy (r : RemoteReq) (f : TFault) : Refused :=
  { why := match f.cause with
      | .tenant => .tenant
      | .window => .window
      | .canonical | .notpresent | .format | .physical | .poison | .code | .counter | .write | .scope => .other
    counter := r.kind.isCounter && f.cause == .counter }

/-- A poisoned line of the place of a request refuses it; a write of the whole line does not touch the old bytes
(R160). -/
def State.servePoison (s : State) (r : RemoteReq) (pa n : Nat) : Bool :=
  match r.kind with
  | .write _ => s.poisonedPart pa n
  | .read _ | .atomic _ _ _ _ _ _ | .accum _ _ _ _ | .get _ | .add _ _ | .wait _ _ _ | .cancel _ =>
    s.poisonedRange pa n

/-- One piece of the place of a request (R439): it is translated, with the reads of the walk. -/
def servePiece (r : RemoteReq) (x : State × Except Refused (List (Nat × Nat × TlbEntry))) (p : Word × Nat) :
    State × Except Refused (List (Nat × Nat × TlbEntry)) :=
  match x with
  | (s, .error w) => (s, .error w)
  | (s, .ok ps) =>
    match translateWalk s r.dstCtx p.1 r.kind.need with
    | (s, .ok (pa, e)) =>
      if physKind pa = .hbm && !s.servePoison r pa p.2 then (s, .ok (ps ++ [(pa, p.2, e)]))
      else (s, .error { why := .other, counter := false })
    | (s, .error f) => (s, .error (refusedBy r f))

/-- The place of a request (R439): the pieces of memory of this device, or why it is refused. -/
def servePlace (s : State) (r : RemoteReq) : State × Except Refused (List (Nat × Nat × TlbEntry)) :=
  if r.addr.toNat % r.kind.align ≠ 0 then (s, .error { why := .other, counter := r.kind.isCounter })
  else (pieces r.addr r.kind.size).foldl (servePiece r) (s, .ok [])

/-- A reply leaves on a link. -/
def State.replyRemote (s : State) (link : Nat) (r : RemoteReq) (x : RemoteRep) : State :=
  { s with sectorOut := .reply link r.id x :: s.sectorOut }

/-- A request is refused (R124, R439): the entry is logged in the serving context, whatever its state. -/
def State.refuseRemote (s : State) (link : Nat) (r : RemoteReq) (x : Refused) : State :=
  let e : LogEntry :=
    if x.counter then .plain 0x0002 7 1 r.addr else .plain x.why.code 7 0 r.addr
  (s.log r.dstCtx e).replyRemote link r (.refused x.why)

/-- An acquire by a Sector port at a place (R182, R192): a counter read, a wait, or an atomic, at which a later
`fence.acq` of the requester may acquire (R171). -/
def State.portAcquire (s : State) (pa : Nat) (e : TlbEntry) : State :=
  if e.scope == 4 then acquireSystem s (lineOf pa) else s

/-- An acquiring atomic of a Sector port meets a scope fault (R181): it needs scope system, the page's cap is narrower,
and some core has released on the line. -/
def State.portScopeFails (s : State) (acq : Bool) (pa : Nat) (e : TlbEntry) : Bool :=
  acq && decide (e.scope.toNat < 4) &&
    (s.marked (lineOf pa) || match s.record (lineOf pa) with | some x => x.seen != 0 | none => false)

/-- A release by a Sector port at a place (R192). -/
def State.portRelease (s : State) (rel : Bool) (pa : Nat) : State :=
  if rel then releaseOutside s (lineOf pa) else s

/-- An ordered operation of a Sector port: a replay of the serving context may hold it (R475). -/
def State.serveOrdered (s : State) (c : BitVec 6) (pa : Nat) (o : OrderOp) (k : State → State) : State :=
  match s.orderAll c [(pa, o)] with
  | .error s => s
  | .ok s => k s

/-- Bytes written over pieces of memory by a Sector port. -/
def State.serveWrite (s : State) (c : BitVec 6) (ps : List (Nat × Nat × TlbEntry)) (bs : List Byte) : State :=
  (ps.foldl (fun (x : State × List Byte) p =>
    ((x.1.homeWrites c p.1 (x.2.take p.2.1) 7).lowAs p.1 p.2.2.low, x.2.drop p.2.1)) (s, bs)).1

/-- A counter of the place of a request is used (R159). -/
def State.serveCounter (s : State) (c : BitVec 6) (pa : Nat) (e : TlbEntry) : State :=
  (s.dirtyLine (lineOf pa) c).lowAs pa e.low

/-- An accumulate of another device arrives (R202, R440, R475): it takes an entry of the slice's queue, or waits at its
input; one that a replay does not have next, or that finds no entry in a replay, has not arrived. -/
def State.acceptPort (s : State) (link : Nat) (r : RemoteReq) (n pa : Nat) (e : TlbEntry) : State :=
  let c := r.dstCtx
  let room := decide (s.queueHeld (homeSlice pa) < AccClass.room .unrefusable)
  let o : OrderOp := { outsideOrder r.addr (linkReq link) with cls := 1, count := n }
  let take (s : State) : State :=
    { s.bumpId with
      portAccs := s.portAccs ++ [{ link := link, req := r, pa := pa, queued := room, seq := s.nextId, low := e.low }] }
  match replayGate s c pa o with
  | .wait => s.noteWait c pa o
  | .next i _ => if room then take (s.useEntry c pa o i) else s
  | .diverge => take (s.diverge c)
  | .free => take s

/-- Entries of the remote part of the spilled waiter table (R134); one whose reply has left occupies none. -/
def remoteTable : Nat := 65536

/-- Performs a request at its place (R440). An accumulate takes an entry of the slice's queue, or waits at its input
(R202). The acknowledgement of a cancel tells whether the wait was satisfied before it arrived (R441). -/
def State.serveAt (s : State) (link : Nat) (r : RemoteReq) (ps : List (Nat × Nat × TlbEntry)) : State :=
  let c := r.dstCtx
  let order (pa : Nat) (o : OrderOp) (k : State → State) : State := s.serveOrdered c pa o k
  let op : OrderOp := outsideOrder r.addr (linkReq link)
  match r.kind, ps with
  | .read n, ps =>
    let s := ps.foldl (fun s p => (s.touchRange c p.1 p.2.1).lowAs p.1 p.2.2.low) s
    s.replyRemote link r (.data ((ps.flatMap fun p => s.mem.read p.1 p.2.1).take n))
  | .write bs, ps => (s.serveWrite c ps bs).replyRemote link r .done
  | .atomic a w8 x y rel acq, (pa, _, e) :: _ =>
    if s.portScopeFails acq pa e then s.refuseRemote link r { why := .other, counter := false }
    else
      order pa op fun s =>
        let n := if w8 then 8 else 4
        let old := s.mem.read pa n
        let new := a.apply n (leNat old) x.toNat y.toNat
        let s := ((s.homeWrite c pa (leBytes n new) 7).lowAs pa e.low).portRelease rel pa
        (s.portAcquire pa e).replyRemote link r (.data old)
  | .accum _ _ _ n, (pa, _, e) :: _ => s.acceptPort link r n pa e
  | .get _, (pa, _, e) :: _ =>
    order pa op fun s =>
      let old := s.mem.read pa 8
      ((s.serveCounter c pa e).portAcquire pa e).replyRemote link r (.data old)
  | .add x rel, (pa, _, e) :: _ =>
    let old := s.word pa
    if 2 ^ 64 ≤ old.toNat + x.toNat then
      ((s.serveCounter c pa e).log c (.plain 0x0002 7 2 r.addr)).replyRemote link r .overflow
    else
      order pa op fun s =>
        (((s.homeWrite c pa (leBytes 8 (old + x).toNat) 7).lowAs pa e.low).portRelease rel pa).replyRemote link r
          .done
  | .wait t _ _, (pa, _, e) :: _ =>
    let h : HeldRemote :=
      { link := link, req := r, pa := pa, cap := e.scope.toNat, answer := none, sent := false }
    let s := s.serveCounter c pa e
    if t ≤ (s.word pa).toNat then
      order pa op fun s =>
        let s := (s.portAcquire pa e).replyRemote link r .satisfied
        { s with remoteWaits := { h with answer := some .satisfied, sent := true } :: s.remoteWaits }
    else if remoteTable ≤ (s.remoteWaits.filter fun h => !h.sent).length then s.replyRemote link r .retry
    else { s with remoteWaits := h :: s.remoteWaits }
  | .cancel id, _ =>
    let mine (h : HeldRemote) : Bool := h.req.id == id && h.req.srcDev == r.srcDev && h.req.srcCtx == r.srcCtx
    let drop (s : State) : State := { s with remoteWaits := s.remoteWaits.filter fun h => !mine h }
    match s.remoteWaits.find? mine with
    | none => s.replyRemote link r .done
    | some h =>
      match h.answer with
      | none => (drop s).replyRemote link r .done
      | some x =>
        let s := if h.sent then s else s.answerOne h x
        (drop s).replyRemote link r (if x == .satisfied then .satisfied else .done)
  | .atomic _ _ _ _ _ _, [] => s
  | .accum _ _ _ _, [] => s
  | .get _, [] => s
  | .add _ _, [] => s
  | .wait _ _ _, [] => s

/-- Serves a request in the context it names (R439). -/
def State.serve (s : State) (link : Nat) (r : RemoteReq) : State :=
  let x := s.ctx r.dstCtx
  let isCancel : Bool := match r.kind with
    | .cancel _ => true
    | .read _ | .write _ | .atomic _ _ _ _ _ _ | .accum _ _ _ _ | .get _ | .add _ _ | .wait _ _ _ => false
  if !x.phase.live then s.refuseRemote link r { why := .other, counter := false }
  else if r.tag ≠ x.tag then s.refuseRemote link r { why := .tenant, counter := false }
  else if isCancel then s.serveAt link r []
  else
    match servePlace s r with
    | (s, .error w) => s.refuseRemote link r w
    | (s, .ok ps) => s.serveAt link r ps

/-- An accumulate of another device is performed at its home slice (R200, R216, R440); one that finds its line
poisoned is refused (R160). -/
def State.performPort (s : State) (a : PortAcc) : State :=
  let c := a.req.dstCtx
  let line := lineOf a.pa
  let s := { s with portAccs := s.portAccs.filter fun x => x != a }
  match a.req.kind with
  | .accum op ty v n =>
    if s.isPoisoned line then s.refuseRemote a.link a.req { why := .other, counter := false }
    else
      let s := s.recordOrder c a.pa { outsideOrder a.req.addr (linkReq a.link) with cls := 1, count := n }
      let new := accCombine ty op (leNat (s.mem.read a.pa ty.width)) v.toNat
      (((s.homeWrite c a.pa (leBytes ty.width new) 7).lowAs a.pa a.low).countLine line).replyRemote a.link a.req .done
  | .read _ | .write _ | .atomic _ _ _ _ _ _ | .get _ | .add _ _ | .wait _ _ _ | .cancel _ => s

/-- The accumulates of other devices that the slices perform in a cycle: the first accepted of each line (R202). -/
def State.firstPorts (s : State) : List PortAcc :=
  s.portAccs.filter fun a =>
    a.queued && !s.accBefore (lineOf a.pa) a.seq && !s.portBefore (lineOf a.pa) a.seq

/-- Accumulates of other devices that wait at the input of a slice take the entries that are free (R202). -/
def State.admitPorts (s : State) : State :=
  s.portAccs.foldl (fun s a =>
    if !a.queued && decide (s.queueHeld (homeSlice a.pa) < AccClass.room .unrefusable) then
      { s.bumpId with
        portAccs := s.portAccs.map fun x => if x = a then { x with queued := true, seq := s.nextId } else x }
    else s) s

/-- What the slices do with their accumulate queues in one cycle (R202): one accumulate of each line is performed, in
the order in which the slice accepted them. -/
def State.performQueues (s : State) : State :=
  let mine := s.firstAccs
  let ports := s.firstPorts
  (ports.foldl (fun s a => s.performPort a) (mine.foldl (fun s a => s.performAcc a) s)).admitPorts

/-- The link is up. -/
def State.linkUp (s : State) (n : Nat) : Bool :=
  match s.links[n]? with
  | some l => l.state == .up
  | none => false

/-- `REMOTE_REQUEST` (R439, R440): a request for this device arrives on an up link. -/
def execRemoteRequest (link : Nat) (r : RemoteReq) (s : State) : Out :=
  .next (if s.linkUp link then s.serve link r else s)

/-- `SECTOR_FORWARDING` (R443): traffic for another device goes on by the route table. -/
def execSectorForwarding (link dst : Nat) (payload : List Byte) (s : State) : Out :=
  .next
    (if s.linkUp link && dst != s.fabId.toNat then
      match routeLink s (BitVec.ofNat 20 dst) with
      | some l => { s with sectorOut := .forward l dst payload :: s.sectorOut }
      | none => s
     else s)

/-! ### Link states -/

/-- Changes one link. -/
def State.modLink (s : State) (n : Nat) (f : Link → Link) : State := { s with links := modVec s.links n f }

/-- A link. -/
def State.link (s : State) (n : Nat) : Link := if h : n < 18 then s.links[n] else Link.reset

/-- LNKCTL.en is written with 1 (R445). -/
def State.enableLink (s : State) (n : Nat) : State :=
  s.modLink n fun l =>
    { l with en := true, state := if l.state = .disabled && s.fabValid then .down else l.state }

/-- LNKCTL.en is written with 0 (R445). -/
def State.disableLink (s : State) (n : Nat) : State :=
  let s' := if (s.link n).state = .up then s.failLink n else s
  s'.modLink n fun l =>
    { l with en := false, state := .disabled, fails := if l.state = .failed then 0 else l.fails }

/-- A device register of BAR 0 that only port 0 writes (R433). -/
def State.bar0Write (s : State) (p : Port) (k : State → State) : State :=
  if s.fw = .running ∧ p = .p0 then k s else s

/-- `LNKCTL_EN_SET` (R445). -/
def execLnkctlEnSet (port : Port) (n : Nat) (s : State) : Out := .next (s.bar0Write port fun s => s.enableLink n)

/-- `LNKCTL_EN_CLEAR` (R445). -/
def execLnkctlEnClear (port : Port) (n : Nat) (s : State) : Out :=
  .next (s.bar0Write port fun s => s.disableLink n)

/-- `LINK_PEER_DETECTED` (R445). -/
def execLinkPeerDetected (n : Nat) (s : State) : Out :=
  .next (s.modLink n fun l => if l.state = .down then { l with state := .training, trainAt := s.wall } else l)

/-- The time in which a link trains (R445). -/
def trainTime : Nat := 10000 * microsecond

/-- `LINK_TRAINED` (R444, R445). -/
def execLinkTrained (n : Nat) (peer : BitVec 20) (plink : BitVec 5) (s : State) : Out :=
  .next (s.modLink n fun l =>
    if l.state = .training && decide (s.wall ≤ l.trainAt + trainTime) then
      { l with state := .up, peer := peer, plink := plink, fails := 0 } else l)

/-- `LINK_TRAINING_TIMEOUT` (R445): the eighth failure leaves the link failed. -/
def execLinkTrainingTimeout (n : Nat) (s : State) : Out :=
  .next (s.modLink n fun l =>
    if l.state = .training && decide (l.trainAt + trainTime ≤ s.wall) then
      { l with state := if 8 ≤ l.fails.toNat + 1 then .failed else .down, fails := l.fails + 1 } else l)

/-- `LINK_FLIT_ERROR` (R445): the link replays the flit, which software cannot see. -/
def execLinkFlitError (_n : Nat) (s : State) : Out := .next s

/-- `LINK_LOSS` (R445). -/
def execLinkLoss (n : Nat) (s : State) : Out :=
  .next
    (if (s.link n).state = .up then (s.failLink n).modLink n fun l => { l with state := .down } else s)

end Sys2Proof.Machine
end

