-- ==== Sys2Proof/Machine/Device.lean ====
section
/-! DEFINITION. The device as a whole: reset, firmware, recovery and identity (R49 to R52), clock steps
(R25), uncorrectable errors (R48, R160) and the eviction of L2 lines (R159). -/

namespace Sys2Proof.Machine

/-! ### Reset and firmware -/

/-- `DEVICE_RESET` (R49): every register takes its reset value and the firmware image is verified. HBM, the
route table that lies in it and flash keep what they hold. -/
def execDeviceReset (s : State) : Out :=
  .next { State.reset with
    mem := s.mem, poisoned := s.poisoned, flash := s.flash, route := s.route, agenda := s.agenda
    free := s.free, nextId := s.nextId }

/-- A firmware image passes the checks of R49. -/
def imageOk (img : List Byte) : Bool := Config.rsaOk img && Config.slhOk img && Config.versionOk img

/-- The recovery window as it opens (R51). -/
def Recovery.opened : Recovery := { buffer := [], len := 0, state := 0, reason := 0 }

/-- `FIRMWARE_VERIFY_COMPLETE` (R49, R50). -/
def execFirmwareVerifyComplete (s : State) : Out :=
  .next
    (if s.fw = .verifying then
      if imageOk s.flash then { s with fw := .running }
      else { s with fw := .failed, recovery := Recovery.opened }
     else s)

/-- Bytes of the image buffer (R51). -/
def recoveryBytes : Nat := 4190208

/-- The write of RCVCMD.go (R51). -/
def State.recoveryGo (s : State) : State :=
  if s.fw = .failed ∧ s.recovery.state ≠ 1 then
    { s with recovery := { s.recovery with state := 1, reason := 0 } }
  else s

/-- `RCVCMD_GO` (R51). -/
def execRcvcmdGo (s : State) : Out := .next s.recoveryGo

/-- Why a recovery image is rejected (R51); 0 when it is not. -/
def recoveryReason (len : Nat) (img : List Byte) : Byte :=
  if len = 0 ∨ recoveryBytes < len then 1
  else if !Config.rsaOk img then 2
  else if !Config.slhOk img then 3
  else if !Config.versionOk img then 4
  else if !Config.flashOk img then 5
  else 0

/-- `RECOVERY_VERIFY_COMPLETE` (R50, R51): a rejected image leaves flash unchanged. -/
def execRecoveryVerifyComplete (s : State) : Out :=
  .next
    (if s.fw = .failed ∧ s.recovery.state = 1 then
      let len := s.recovery.len.toNat
      let img := s.recovery.buffer.read 0 len
      let why := recoveryReason len img
      if why = 0 then { s with flash := img, recovery := { s.recovery with state := 2, reason := 0 } }
      else { s with recovery := { s.recovery with state := 3, reason := why } }
     else s)

/-- A write of eight bytes to the recovery window (R51). -/
def State.recoveryWrite (s : State) (off : Nat) (val : Word) : State :=
  let r := s.recovery
  if off = 0x3FF008 then (if val.getLsbD 0 then s.recoveryGo else s)
  else if r.state = 1 then s
  else if off + 8 ≤ recoveryBytes then
    { s with recovery := { r with buffer := r.buffer.write off (leBytes 8 val.toNat) } }
  else if off = 0x3FF000 then { s with recovery := { r with len := val.extractLsb' 0 22 } }
  else s

/-- The identity record less its signatures (R52). -/
def identityFields (s : State) (nonce : BitVec 384) : List Byte :=
  [0x4A, 0x5A, 0x39, 0x31, 0x34, 0x30, 0, 0] ++ leBytes 4 Config.stepping.toNat ++
    leBytes 4 Config.mmlLevel ++ leBytes 2 2 ++ leBytes 2 Config.cores ++ leBytes 2 Config.slices ++
    leBytes 2 12 ++ leBytes 2 Config.links ++ leBytes 4 s.fabId.toNat ++
    leBytes 8 (Config.firmwareVersion s.flash).toNat ++ leBytes 48 (Config.sha384 s.flash).toNat ++
    leBytes 48 nonce.toNat

/-- The signed identity record (R52). -/
def identityRecord (s : State) (nonce : BitVec 384) : List Byte :=
  let f := identityFields s nonce
  f ++ leBytes 384 (Config.signRsa f).toNat ++ leBytes 29792 (Config.signSlh f).toNat

/-- The port owns a context (R30). -/
def State.ownsAny (s : State) (p : Port) : Bool := s.owners.any fun o => o == some p

/-- `ATTESTATION_REQUEST` (R52). -/
def execAttestationRequest (port : Port) (nonce : BitVec 384) (s : State) : Out :=
  .next
    (if s.fw = .running ∧ s.ownsAny port then
      s.modPort port fun x => { x with attestation := some (identityRecord s nonce) }
     else s)

/-! ### The clock -/

/-- `CLOCK_STEP_DOWN` (R25): never below 1.2 GHz. -/
def execClockStepDown (s : State) : Out := .next { s with rate := if 12 < s.rate then s.rate - 1 else s.rate }

/-- `CLOCK_STEP_UP` (R25): up to the 1.9 GHz of R8. -/
def execClockStepUp (s : State) : Out := .next { s with rate := if s.rate < 19 then s.rate + 1 else s.rate }

/-! ### Errors -/

/-- One context meets a device-wide error (R48). -/
def State.deviceErrorIn (s : State) (c : BitVec 6) : State :=
  if (s.ctx c).phase.live then (s.log c (.plain 0x0009 8 0 0)).enterReset c else s

/-- `DEVICE_WIDE_UNCORRECTABLE_ERROR` (R48). -/
def execDeviceWideUncorrectableError (s : State) : Out :=
  .next
    (let s := allCtxs.foldl (fun s c => s.deviceErrorIn c) s
     { s with ports := s.ports.map fun p => { p with deviceErrors := p.deviceErrors + 1 } })

/-- Registers of a control block after an uncorrectable error in a per-context structure: the spec says
that the error is confined to the context, and no more (R48). The window, the tag, the root, the remote
windows and the state of the context confine it. -/
def Ctx.damage (x : Ctx) (n : Nat) : Ctx :=
  { x with
    ways := (Config.ctxDamage n 0 (zext x.ways)).setWidth 16
    acc := (Config.ctxDamage n 1 (zext x.acc)).setWidth 8
    mml := (Config.ctxDamage n 2 (zext x.mml)).setWidth 4
    log := (Config.ctxDamage n 3 (zext x.log)).setWidth 58
    qtab := (Config.ctxDamage n 4 (zext x.qtab)).setWidth 51
    man := (Config.ctxDamage n 5 (zext x.man)).setWidth 48
    lay := (Config.ctxDamage n 6 (zext x.lay)).setWidth 55
    save := (Config.ctxDamage n 7 (zext x.save)).setWidth 52
    grid := (Config.ctxDamage n 8 (zext x.grid)).setWidth 32 }

/-- `PER_CONTEXT_UNCORRECTABLE_ERROR` (R48). -/
def execPerContextUncorrectableError (ctx : BitVec 6) (s : State) : Out :=
  .next (s.bumpFree.modCtx ctx fun x => x.damage s.free)

/-- `LINE_POISON_DETECT` (R160). -/
def execLinePoisonDetect (line : Nat) (s : State) : Out :=
  .next
    (if line * 128 < Config.hbmTop then { s with poisoned := insertNat line s.poisoned } else s)

/-- `L2_LINE_EVICTION` (R159, R160): the line becomes invalid. HBM receives the bytes that the line holds,
and a poisoned line stays poisoned. -/
def execL2LineEviction (line : Nat) (s : State) : Out :=
  .next
    (s.modSlice (homeSlice (line * 128)) fun y => { y with lines := y.lines.filter fun l => l.line != line })

end Sys2Proof.Machine
end

