-- ==== Sys2Proof/Machine/Registers.lean ====
section
/-! DEFINITION. Registers that hosts read and write: control blocks (R32, R33, R53, R95, R156, R161, R218,
R422, R437), the Lantern window (R467, R470, R122), device registers and the route window (R433, R442,
R443). -/

namespace Sys2Proof.Machine

/-! ### Control blocks -/

/-- The number of a state in CTXSTATE (R33). -/
def CtxPhase.code : CtxPhase → Nat
  | .destroyed => 0 | .created => 1 | .bound => 2 | .running => 3 | .quiescing => 4 | .saved => 5
  | .faulted => 6 | .reset => 7

/-- CTXSTATE as it reads (R33). -/
def Ctx.stateWord (x : Ctx) : Word :=
  BitVec.ofNat 64 (x.lost.toNat * 2 ^ 16 + x.result.toNat * 2 ^ 8 + (if x.busy then 8 else 0) + x.phase.code)

/-- The queues that are stopped, 64 of them from queue `64 * m` on (R59). -/
def Ctx.stoppedWord (x : Ctx) (m : Nat) : Word :=
  BitVec.ofNat 64 ((upTo 64).foldl (fun n b =>
    if (x.queues.toList.getD (64 * m + b) Queue.reset).state = .stopped then n + 2 ^ b else n) 0)

/-- A register of a control block as it reads (R9, R33, R53, R59, R95, R156, R161, R218, R422, R437): fields that are
write only, reserved fields and other offsets read as zero. -/
def Ctx.registerWord (x : Ctx) (reg : Nat) : Word :=
  match reg with
  | 0x008 => x.stateWord
  | 0x010 => zext x.root <<< 16
  | 0x018 => zext x.winLo <<< 16
  | 0x020 => zext x.winHi <<< 16
  | 0x028 => zext x.tag
  | 0x030 => zext x.ways
  | 0x038 => zext x.acc
  | 0x040 => zext x.mml
  | 0x048 => zext x.log <<< 6
  | 0x050 => zext x.qtab <<< 13
  | 0x058 => BitVec.ofNat 64 ((if x.migDrain then 1 else 0) + (if x.migPortable then 2 else 0))
  | 0x060 => x.stoppedWord 0
  | 0x068 => x.stoppedWord 1
  | 0x070 => x.stoppedWord 2
  | 0x078 => x.stoppedWord 3
  | 0x080 => zext x.man <<< 16 ||| zext x.lgcount
  | 0x088 => if x.invPend then 1 <<< 63 else 0
  | 0x090 => zext x.lay <<< 9
  | 0x098 => zext x.save <<< 12
  | 0x0A0 => zext x.svUsed <<< 32 ||| zext x.svSize
  | 0x0A8 => zext x.dlSave <<< 16 ||| zext x.dlDrain
  | 0x0B0 => zext x.rwt <<< 13
  | _ => 0

/-- A read of a register of a control block: one of CTXSTATE clears lost (R33). -/
def State.ctxRead (s : State) (c : BitVec 6) (reg : Nat) : State × Word :=
  (if reg = 0x008 then s.modCtx c fun x => { x with lost := 0 } else s, (s.ctx c).registerWord reg)

/-- `CTXSTATE_READ` (R32, R33). -/
def execCtxstateRead (port : Port) (ctx : BitVec 6) (s : State) : Out :=
  .next (s.blockRead port ctx (blockOffset ctx 8) fun s => s.ctxRead ctx 8)

/-- A configuration register: writable in state created only (R33). -/
def State.configWrite (s : State) (c : BitVec 6) (f : Ctx → Ctx) : State :=
  if (s.ctx c).phase = .created then s.modCtx c f else s.setResult c 2

/-- The states in which CTXDL is writable (R422). -/
def CtxPhase.takesDeadline : CtxPhase → Bool
  | .created | .bound | .running | .saved => true
  | .destroyed | .quiescing | .faulted | .reset => false

/-- A command by its code (R33, R34). -/
def State.ctxCommand (s : State) (c : BitVec 6) (run : State → State) : Nat → State
  | 0 => s
  | 5 => s.resetCtx c
  | n =>
    if (s.ctx c).busy then s.setResult c 1
    else
      match n with
      | 1 => s.createCtx c
      | 2 => s.bindCtx c
      | 3 => run s
      | 4 => s.quiesceCtx c
      | 6 => s.destroyCtx c
      | _ => s.refuseCommand c

/-- A write of a register of a control block (R33, R53, R95, R156, R161, R218, R422, R437). A write to any
other place is discarded. `run` is the run command. -/
def State.ctxRegister (s : State) (c : BitVec 6) (run : State → State) (reg : Nat) (v : Word) : State :=
  match reg with
  | 0x000 => s.ctxCommand c run (slice v 2 0)
  | 0x010 => s.configWrite c fun x => { x with root := v.extractLsb' 16 36 }
  | 0x018 => s.configWrite c fun x => { x with winLo := v.extractLsb' 16 36 }
  | 0x020 => s.configWrite c fun x => { x with winHi := v.extractLsb' 16 36 }
  | 0x028 => s.configWrite c fun x => { x with tag := v.extractLsb' 0 16 }
  | 0x030 => s.configWrite c fun x => { x with ways := v.extractLsb' 0 16 }
  | 0x038 => s.configWrite c fun x => { x with acc := v.extractLsb' 0 8 }
  | 0x040 => s.configWrite c fun x => { x with mml := v.extractLsb' 0 4 }
  | 0x048 => s.configWrite c fun x => { x with log := v.extractLsb' 6 58 }
  | 0x050 => s.configWrite c fun x => { x with qtab := v.extractLsb' 13 51 }
  | 0x058 =>
    if (s.ctx c).phase = .destroyed then s else s.modCtx c fun x => { x with migDrain := v.getLsbD 0 }
  | 0x080 => s.configWrite c fun x => { x with man := v.extractLsb' 16 48, lgcount := v.extractLsb' 0 5 }
  | 0x088 => s.startInv c v
  | 0x090 => s.configWrite c fun x => { x with lay := v.extractLsb' 9 55 }
  | 0x098 => s.configWrite c fun x => { x with save := v.extractLsb' 12 52 }
  | 0x0A0 => s.configWrite c fun x => { x with svSize := v.extractLsb' 0 32 }
  | 0x0A8 =>
    if (s.ctx c).phase.takesDeadline then
      s.modCtx c fun x => { x with dlSave := v.extractLsb' 16 16, dlDrain := v.extractLsb' 0 16 }
    else s
  | 0x0B0 => s.configWrite c fun x => { x with rwt := v.extractLsb' 13 51 }
  | _ => s

/-! ### The Lantern window -/

/-- LNSTAT as it reads (R467). -/
def Ctx.lanternWord (x : Ctx) : Word :=
  BitVec.ofNat 64 (x.lnRefused.toNat + (if x.lnOvf then 2 ^ 8 else 0) + (if x.lnDiverged then 2 ^ 9 else 0))

/-- Clears the stall counters of the selected core for a context (R467); an increment of the same cycle stays (R470). -/
def State.clearStalls (s : State) (c : BitVec 6) (v : Word) : State :=
  if v.getLsbD 0 then
    let core := (s.ctx c).lnCore.toNat
    { s with stalls := s.stalls.filterMap fun (x : Stall) =>
        if x.core = core ∧ x.ctx = c then x.clear s.clk else some x }
  else s

/-- `LNCLR` (R470). -/
def execLnclr (port : Port) (ctx : BitVec 6) (val : Word) (s : State) : Out :=
  .next (s.blockWrite port ctx (lanternOffset ctx 0x10) fun s => s.clearStalls ctx val)

/-- The wave of a context in the selected slot: its team and WAVEID (R467). -/
def State.selected (s : State) (c : BitVec 6) : Option (Nat × Nat) :=
  let x := s.ctx c
  (upTo s.teams.length).findSome? fun t =>
    let y := s.team t
    if y.ctx == c && (decide (y.phase = .live) || decide (y.phase = .stopped)) then
      (upTo y.waves.length).findSome? fun w =>
        let z := y.wave w
        if z.core = x.lnCore.toNat ∧ z.slot = x.lnSlot.toNat then some (t, w) else none
    else none

/-- The wait code of a quad (R121). R121 names one code for each state and does not say which one a quad has that runs a
trap handler and is also held or parked: the model lets codes 1 to 5 go before 6; a wait that the table does not name
reads 0, or 6 in a handler (notes/assumptions/76.md). -/
def Quad.waitCode (q : Quad) : Nat :=
  if q.exited then 8
  else
    match q.wait with
    | .unhandled => 7
    | .header _ _ _ => 1
    | .jwait _ _ => 2
    | .fuse _ _ => 3
    | .counter _ => 4
    | .engineFull => 5
    | .ready | .structural | .codeCheck | .drain _ | .promote _ _ _ | .fetch _ | .interlock _ | .landed _ =>
      if q.inHandler then 6 else 0

/-- The jreg field of R121. -/
def Quad.jreg (q : Quad) : Nat :=
  match q.wait with
  | .jwait j _ => j.toNat
  | _ => 0

/-- The GANGMAP of a quad (R101, R304). -/
def Wave.mapOf (w : Wave) (n : Nat) : Nat :=
  match w.gangs.find? fun g => decide (g.base ≤ n) && decide (n < g.base + 2 ^ g.lg) with
  | some g => (2 ^ 2 ^ g.lg - 1) * 2 ^ g.base
  | none => 0

/-- The status word of a quad (R121): the pc is that of its next instruction. -/
def Quad.statusWord (q : Quad) : Word :=
  (q.issued.pc &&& (2 ^ 57 - 1)) ||| BitVec.ofNat 64 (q.waitCode * 2 ^ 57 + q.jreg * 2 ^ 61)

/-- The second word of a quad: its GANGMAP and its `em` (R121). -/
def Wave.gangWord (w : Wave) (n : Nat) : Word :=
  BitVec.ofNat 64 (w.mapOf n + (w.quad n).em.toNat * 2 ^ 16)

/-- The third word of a quad: its join slices (R121). -/
def Quad.joinWord (q : Quad) : Word := BitVec.ofNat 64 (leNat q.joins.toList)

/-- A word of a quad of the selected wave: 0 where the slot holds no wave of the context, or the wave no such
quad (R467). -/
def State.quadWord (s : State) (c : BitVec 6) (n : Nat) (f : Wave → Word) : Word :=
  match s.selected c with
  | none => 0
  | some (t, w) => if n < (s.wave t w).quads.length then f (s.wave t w) else 0

/-- A stall counter as it reads (R468, R470): it holds every count up to now. -/
def State.stallRead (s : State) (core : Nat) (c : BitVec 6) (i : Nat) : Word := s.stallCount core c i

/-- A register of a Lantern window as the machine stands (R9, R467, R468). -/
def State.lanternWord (s : State) (c : BitVec 6) (reg : Nat) : Word :=
  let x := s.ctx c
  match reg with
  | 0x000 => zext x.lnSlot <<< 9 ||| zext x.lnCore
  | 0x008 => x.lanternWord
  | 0x018 => zext x.lnBase <<< 16 ||| zext x.lnLgseg <<< 8 ||| zext x.lnMode
  | r =>
    if r % 8 ≠ 0 then 0
    else if 0x100 ≤ r ∧ r < 0x180 then s.stallRead x.lnCore.toNat c ((r - 0x100) / 8)
    else if 0x200 ≤ r ∧ r < 0x300 then
      let n := (r - 0x200) / 16
      s.quadWord c n fun w => if r % 16 = 0 then (w.quad n).statusWord else w.gangWord n
    else if 0x300 ≤ r ∧ r < 0x380 then
      let n := (r - 0x300) / 8
      s.quadWord c n fun w => (w.quad n).joinWord
    else 0

/-- The registers of a Lantern window that show the quads of the selected wave (R467). -/
def quadRegisters : List Nat := (upTo 48).map fun i => 0x200 + 8 * i

/-- A read of a register of a Lantern window: one of LNSTAT clears refused (R467). The first read of a register of the
quads takes the words of all of them in that cycle, and each read after it, of another of them, returns what was taken
then, so that the values of different quads are those of one cycle (R122; notes/assumptions/87.md). -/
def State.lanternRead (s : State) (c : BitVec 6) (reg : Nat) : State × Word :=
  if reg = 0x008 then (s.modCtx c fun x => { x with lnRefused := 0 }, s.lanternWord c reg)
  else if quadRegisters.contains reg then
    let kept := (s.ctx c).lnShot
    let shot := if kept.any (·.1 == reg) then kept else quadRegisters.map fun r => (r, s.lanternWord c r)
    (s.modCtx c fun x => { x with lnShot := shot.filter (·.1 != reg) }, lookupD shot reg 0)
  else (s, s.lanternWord c reg)

/-- `LNSTAT_READ` (R467). -/
def execLnstatRead (port : Port) (ctx : BitVec 6) (s : State) : Out :=
  .next (s.blockRead port ctx (lanternOffset ctx 8) fun s => s.lanternRead ctx 8)

/-- A Lantern write is refused and counted (R122, R467). -/
def State.refuseLantern (s : State) (c : BitVec 6) : State :=
  s.modCtx c fun x => { x with lnRefused := if x.lnRefused = 255 then 255 else x.lnRefused + 1 }

/-- The pc of a quad's next instruction is written (R121, R122): one that interlocks has issued the instruction at its
pc. -/
def Quad.setNext (q : Quad) (v : Word) : Quad := { q with pc := q.pc + (v - q.issued.pc) }

/-- A write of LNQST or LNQGM of quad `n` (R122, R467): allowed while the whole wave is parked after an
unhandled trap. The spec does not say what a write for a quad that the wave does not have does: the model refuses and
counts it (notes/assumptions/76.md). -/
def State.lanternQuad (s : State) (c : BitVec 6) (n : Nat) (gm : Bool) (v : Word) : State :=
  let s := s.modCtx c fun x => { x with lnShot := [] }
  match s.selected c with
  | none => s.refuseLantern c
  | some (t, w) =>
    if (s.wave t w).stopped && decide (n < (s.wave t w).quads.length) then
      s.modQuad t w n fun q =>
        if gm then { q with em := v.extractLsb' 16 4 }
        else q.setNext ((v.extractLsb' 0 57 : BitVec 57).signExtend 64)
    else s.refuseLantern c

/-- `LANTERN_QUAD_WRITE` (R122). -/
def execLanternQuadWrite (port : Port) (ctx : BitVec 6) (n : BitVec 4) (gm : Bool) (val : Word) (s : State) :
    Out :=
  .next (s.blockWrite port ctx (lanternOffset ctx (0x200 + 16 * n.toNat + (if gm then 8 else 0)))
    fun s => s.lanternQuad ctx n.toNat gm val)

/-- The states in which LNLOG is writable (R467). -/
def CtxPhase.takesLog : CtxPhase → Bool
  | .bound | .saved => true
  | .destroyed | .created | .running | .quiescing | .faulted | .reset => false

/-- LNLOG.lgseg, whose range is 12 to 24 (R467). -/
def segmentSize (n : BitVec 5) : BitVec 5 := if n.toNat < 12 then 12 else if 24 < n.toNat then 24 else n

/-- A write of a register of a Lantern window (R467). -/
def State.lanternRegister (s : State) (c : BitVec 6) (reg : Nat) (v : Word) : State :=
  match reg with
  | 0x000 =>
    if 287 < slice v 8 0 then s
    else s.modCtx c fun x => { x with lnCore := v.extractLsb' 0 9, lnSlot := v.extractLsb' 9 7, lnShot := [] }
  | 0x010 => s.clearStalls c v
  | 0x018 =>
    if (s.ctx c).phase.takesLog then
      s.modCtx c fun x =>
        { x with lnBase := v.extractLsb' 16 48, lnLgseg := segmentSize (v.extractLsb' 8 5)
                 lnMode := v.extractLsb' 0 2 }
    else s.setResult c 2
  | r =>
    if 0x200 ≤ r ∧ r < 0x300 ∧ r % 8 = 0 then s.lanternQuad c ((r - 0x200) / 16) (r % 16 == 8) v else s

/-! ### Device registers -/

/-- Every link is disabled (R442). -/
def State.linksDown (s : State) : Bool := s.links.all fun l => l.state == .disabled

/-- A write of FABID (R442). -/
def State.setFabric (s : State) (v : Word) : State :=
  if s.linksDown then { s with fabValid := v.getLsbD 31, fabId := v.extractLsb' 0 20 } else s

/-- Eight bytes of the route window: four entries of the route table (R443). -/
def State.setRoutes (s : State) (off : Nat) (v : Word) : State :=
  { s with route := (upTo 4).foldl (fun r i =>
      assocSet r (off / 2 + i) ((v.extractLsb' (16 * i) 16) &&& 0x1F1F)) s.route }

/-- A write of a register of BAR 0 (R433). -/
def State.deviceRegister (s : State) (p : Port) (off : Nat) (v : Word) : State :=
  if off = 0x0810 then s.ownCmd p v
  else
    s.bar0Write p fun s =>
      if off = 0x0800 then s.setFabric v
      else if 0x1100 ≤ off ∧ off < 0x1100 + 8 * 18 ∧ off % 8 = 0 then
        if v.getLsbD 0 then s.enableLink ((off - 0x1100) / 8) else s.disableLink ((off - 0x1100) / 8)
      else if 0x100000 ≤ off ∧ off < 0x300000 ∧ off % 8 = 0 then s.setRoutes (off - 0x100000) v
      else s

/-- A write of a register of BAR 2 (R433, R50, R51). -/
def State.blockRegister (s : State) (p : Port) (run : BitVec 6 → State → State) (off : Nat) (v : Word) :
    State :=
  if s.fw = .failed then (if p = .p0 then s.recoveryWrite off v else s)
  else
    let c : BitVec 6 := BitVec.ofNat 6 (off / 0x1000)
    if 0x400000 ≤ off ∧ off < 0x440000 then
      s.blockWrite p c off fun s => s.ctxRegister c (run c) (off % 0x1000) v
    else if 0x600000 ≤ off ∧ off < 0x640000 then
      s.blockWrite p c off fun s => s.lanternRegister c (off % 0x1000) v
    else s

/-! ### Reads of the BARs -/

/-- The contexts that a port owns, as OWNMAP shows them (R31). -/
def State.ownMap (s : State) (p : Port) : Word :=
  BitVec.ofNat 64 (allCtxs.foldl (fun n c => if s.owner c = some p then n + 2 ^ c.toNat else n) 0)

/-- The number of a state in LNKST (R444). -/
def LinkState.code : LinkState → Nat
  | .disabled => 0 | .down => 1 | .training => 2 | .up => 3 | .failed => 4

/-- LNKST of a link as it reads (R444). -/
def Link.stateWord (l : Link) : Word :=
  BitVec.ofNat 64 (l.peer.toNat * 2 ^ 28 + l.plink.toNat * 2 ^ 23 + l.fails.toNat * 2 ^ 8 + l.state.code)

/-- FABID as it reads (R442). -/
def State.fabricWord (s : State) : Word :=
  BitVec.ofNat 64 ((if s.fabValid then 2 ^ 31 else 0) + s.fabId.toNat)

/-- Four entries of the route table, from entry `i` on (R443). -/
def State.routeWord (s : State) (i : Nat) : Word :=
  BitVec.ofNat 64 ((upTo 4).foldl (fun n k => n + (s.routeOf (i + k)).toNat * 2 ^ (16 * k)) 0)

/-- A register of BAR 0 as a port reads it (R9, R31, R433, R442 to R444): every port may read it, and one that is not
listed reads as zero. -/
def State.deviceWord (s : State) (p : Port) (off : Nat) : Word :=
  if s.fw ≠ .running then 0
  else
    match off with
    | 0x0800 => s.fabricWord
    | 0x0810 => BitVec.ofNat 64 ((s.portAt p).ownResult.toNat * 2 ^ 16)
    | 0x0818 => s.ownMap .p0
    | 0x0820 => s.ownMap .p1
    | _ =>
      if off % 8 ≠ 0 then 0
      else if 0x1000 ≤ off ∧ off < 0x1000 + 8 * 18 then
        match s.links[(off - 0x1000) / 8]? with
        | some l => l.stateWord
        | none => 0
      else if 0x1100 ≤ off ∧ off < 0x1100 + 8 * 18 then
        match s.links[(off - 0x1100) / 8]? with
        | some l => if l.en then 1 else 0
        | none => 0
      else if 0x100000 ≤ off ∧ off < 0x300000 then s.routeWord ((off - 0x100000) / 2)
      else 0

/-- The recovery window as it reads (R51). -/
def Recovery.word (r : Recovery) (off : Nat) : Word :=
  if off + 8 ≤ recoveryBytes then BitVec.ofNat 64 (leNat (r.buffer.read off 8))
  else if off = 0x3FF000 then zext r.len
  else if off = 0x3FF010 then BitVec.ofNat 64 (r.reason.toNat * 2 ^ 8 + r.state.toNat)
  else 0

/-- A host reads a register of BAR 2 (R30, R51, R433, R467). -/
def State.blockReply (s : State) (p : Port) (off : Nat) : State :=
  let word (v : Word) : State := s.replyTo p (.data (leBytes 8 v.toNat))
  if s.fw = .failed then word (if p = .p0 then s.recovery.word off else 0)
  else
    let c : BitVec 6 := BitVec.ofNat 6 (off / 0x1000)
    if 0x400000 ≤ off ∧ off < 0x440000 then s.blockRead p c off fun s => s.ctxRead c (off % 0x1000)
    else if 0x600000 ≤ off ∧ off < 0x640000 then s.blockRead p c off fun s => s.lanternRead c (off % 0x1000)
    else word 0

/-- A host reads a register of eight bytes (R9, R433). -/
def State.hostRegisterRead (s : State) (p : Port) (bar : Bar) (off : Nat) : State :=
  match bar with
  | .bar0 => s.replyTo p (.data (leBytes 8 (s.deviceWord p off).toNat))
  | .bar2 => s.blockReply p off

end Sys2Proof.Machine
end

