-- ==== Sys2Proof/Machine/HostPort.lean ====
section
/-! DEFINITION. A host's accesses to device memory through BAR 4 (R182, R191, R434). -/

namespace Sys2Proof.Machine

/-- The number of a port. -/
def portNo : Port → Nat
  | .p0 => 0
  | .p1 => 1

/-- The log source of a port (R47, R491). -/
def portSource (p : Port) : Nat := 9 + portNo p

/-- The requester id of a port in order logs (R473). -/
def portReq (p : Port) : Nat := 0x900 + portNo p

/-- The lowest-numbered context of the port whose window is open and holds the frame (R434, R491). -/
def State.hostCtx (s : State) (p : Port) (pa : Nat) : Option (BitVec 6) :=
  allCtxs.find? fun c => s.owner c == some p && (s.ctx c).phase.live && (s.ctx c).inWindow pa

/-- The parts of an access that lie in one frame each. -/
def frameParts (addr : BitVec 40) (n : Nat) : List (Nat × Nat) :=
  (pageCuts (n / 65536 + 2) (zext addr) n).map fun x => (x.1.toNat, x.2)

/-- Entries of a table of a level (R146). -/
def tableEntries (lvl : Nat) : Nat :=
  match lvl with
  | 3 => 4096
  | 2 => 32768
  | 1 => 512
  | _ => 32

/-- Some leaf of scope cap system (R147) under the table `t` of level `n - 1` maps a frame. -/
def systemLeaf (s : State) (pa : Nat) : Nat → Nat → Bool
  | 0, _ => false
  | lvl + 1, t =>
    (upTo (tableEntries lvl)).any fun i =>
      let a := t + 16 * i
      let w0 := s.tableWord a
      if !w0.getLsbD 0 || s.isPoisoned (lineOf a) || malformedEntry w0 (s.tableWord (a + 8)) lvl then false
      else if w0.getLsbD 1 then
        let frame := slice w0 51 16 * 65536
        slice w0 9 7 == 4 && decide (frame ≤ pa) && decide (pa < frame + 2 ^ leafLg lvl)
      else systemLeaf s pa lvl (slice w0 51 9 * 512)

/-- The page of a frame has scope cap system (R182): a context of the same tag whose window holds the frame maps it
so (notes/assumptions/50.md). -/
def State.systemPage (s : State) (c : BitVec 6) (pa : Nat) : Bool :=
  allCtxs.any fun d =>
    (s.ctx d).phase.live && (s.ctx d).tag == (s.ctx c).tag && (s.ctx d).inWindow pa &&
      systemLeaf s pa 4 ((s.ctx d).root.toNat * 65536)

/-- A host's read of a line is an acquire at system scope: releases are promoted when the page's cap is system
(R182). -/
def State.hostAcquire (s : State) (c : BitVec 6) (line : Nat) : State :=
  match s.record line with
  | none => s
  | some r => if r.pending ≠ 0 && s.systemPage c (line * 128) then acquireSystem s line else s

/-- A host consumes a poisoned line (R160). -/
def State.hostPoison (s : State) (p : Port) (c : BitVec 6) (pa : Nat) : State :=
  s.log c (.plain 0x0006 (portSource p) 0 (BitVec.ofNat 64 pa))

/-- The part of a host read that lies in one frame (R182, R434): it acquires on the lines it reads. What a
poisoned line returns is a free value. -/
def State.hostReadPart (s : State) (p : Port) (x : Nat × Nat) : State × List Byte :=
  match s.hostCtx p x.1 with
  | none => (s.tenderNote p x.1, List.replicate x.2 0)
  | some c =>
    if s.poisonedRange x.1 x.2 then hostBytes (s.hostPoison p c x.1) x.2
    else
      let lines := (upTo ((x.1 + x.2 + 127) / 128 - x.1 / 128)).map (lineOf x.1 + ·)
      let s := lines.foldl (fun s l => s.hostAcquire c l) (s.touchRange c x.1 x.2)
      (s, s.mem.read x.1 x.2)

/-- `HOST_BAR4_READ` (R434). -/
def execHostBar4Read (port : Port) (addr : BitVec 40) (len : Nat) (s : State) : Out :=
  .next
    (match (frameParts addr len).foldl (fun (y : State × List Byte) x =>
        match y.1.hostReadPart port x with
        | (s, bs) => (s, y.2 ++ bs)) (s, []) with
     | (s, bs) => s.replyTo port (.data bs))

/-- The part of a host write that lies in one line (R160, R191): it is performed at the home slice, and is a
release for an agent that acquires there. -/
def State.hostWriteLine (s : State) (p : Port) (c : BitVec 6) (pa : Nat) (bs : List Byte) : State :=
  if s.isPoisoned (lineOf pa) && bs.length != 128 then s.hostPoison p c pa
  else releaseOutside (s.homeWrite c pa bs (portSource p)) (lineOf pa)

/-- The part of a host write that lies in one frame (R434). -/
def State.hostWritePart (s : State) (p : Port) (pa : Nat) (bs : List Byte) : State :=
  match s.hostCtx p pa with
  | none => s.tenderNote p pa
  | some c =>
    (lineParts (bs.length / 128 + 2) pa bs).foldl (fun s x => s.hostWriteLine p c x.1 x.2) s

/-- `HOST_POSTED_WRITE` (R191, R434). A write with Relaxed Ordering differs only in the order in which it
may be performed, which the agenda gives. -/
def execHostPostedWrite (port : Port) (addr : BitVec 40) (data : List Byte) (_relaxed : Bool) (s : State) : Out :=
  .next
    ((frameParts addr data.length).foldl (fun (y : State × List Byte) x =>
      (y.1.hostWritePart port x.1 (y.2.take x.2), y.2.drop x.2)) (s, data)).1

/-- A FetchAdd to a counter in a window that is open to the port (R127, R191, R434). -/
def State.fetchAdd (s : State) (p : Port) (c : BitVec 6) (pa : Nat) (addend : Word) : State :=
  let old := s.word pa
  if s.isPoisoned (lineOf pa) then
    match hostBytes (s.hostPoison p c pa) 8 with
    | (s, bs) => s.replyTo p (.data bs)
  else if 2 ^ 64 ≤ old.toNat + addend.toNat then
    ((s.dirtyLine (lineOf pa) c).log c (.plain 0x0002 (portSource p) 2 (BitVec.ofNat 64 pa))).replyTo p
      .completerAbort
  else
    match s.orderAll c [(pa, outsideOrder (BitVec.ofNat 64 pa) (portReq p))] with
    | .error s => s
    | .ok s =>
      let s := releaseOutside (s.homeWrite c pa (leBytes 8 (old + addend).toNat) (portSource p)) (lineOf pa)
      (s.hostAcquire c (lineOf pa)).replyTo p (.data (leBytes 8 old.toNat))

/-- A host's AtomicOp other than a FetchAdd of 64 bits (R432). -/
def State.hostAtomic (s : State) (p : Port) : State := s.replyTo p .unsupported

/-- A host writes the mask bit of an entry of its MSI-X table (R45; notes/assumptions/84.md). -/
def State.hostMask (s : State) (p : Port) (v : BitVec 8) (m : Bool) : State :=
  s.modPort p fun x => x.setMask v.toNat m

/-- `HOST_FETCHADD` (R434). -/
def execHostFetchadd (port : Port) (addr : BitVec 40) (addend : Word) (s : State) : Out :=
  .next
    (let pa := addr.toNat
     if pa % 8 ≠ 0 then s.replyTo port .completerAbort
     else
       match s.hostCtx port pa with
       | none => (s.tenderNote port pa).replyTo port (.data (leBytes 8 0))
       | some c => s.fetchAdd port c pa addend)

end Sys2Proof.Machine
end

