-- ==== Sys2Proof/Machine/WalkStart.lean ====
section
/-! DEFINITION. `wstart` and `wresume` (R226 to R232, R395): the checks of the records, the claims and
the walks that begin. -/

namespace Sys2Proof.Machine

/-- A lane whose record has passed the checks of R229. -/
structure WalkLane where
  quad : Nat
  lane : Nat
  va : Word
  /-- Its place in this device's memory, or none for one in a Sector window. -/
  pa : Option Nat
  depth : Nat
  bytes : List Byte
  deriving DecidableEq, Repr

/-- The range is poisoned where the core reads it (R160): its first poisoned byte. -/
def poisonedByte (s : State) (core : Nat) (c : BitVec 6) (va : Word) (pa n : Nat) : Option Word :=
  ((upTo n).find? fun i => poisonedView s core c (va + BitVec.ofNat 64 i) (pa + i)).map fun i =>
    va + BitVec.ofNat 64 i

/-- A fault of the checks of R229, whose TRAPINFO carries the record address: what its own failing address logs is
logged first. -/
def State.walkTrap (s : State) (g : GangRef) (va : Word) (f : MFault) : State × MFault :=
  let w := s.waveOf g
  ((match f.tf with
    | some t => s.logFault (s.ctxOf g) t
        { code := 0, source := 0, detail := 0, gridid := (s.teamOf g).gridid, addr := f.addr
          core := w.core, wave := w.wid }
    | none => s), { cause := f.cause, addr := va, tf := none })

/-- Bytes of a record, with the place of one that lies in this device's memory; one in a Sector window is fetched
(R438). Host memory holds no line at a home slice: a record there is read as poisoned (notes/assumptions/22.md). -/
def recordBytes (s : State) (g : GangRef) (n : Nat) (va : Word) : State × Check (Option Nat × List Byte) :=
  match locate s (s.coreOf g) (s.ctxOf g) (s.teamOf g).kernel.scratchBytes va 256 .store with
  | (s, .error f) => (s, .fault f)
  | (s, .ok (.scratch _)) => (s, .fault { cause := .walkRecord, addr := va, tf := none })
  | (s, .ok (.mem ps)) =>
    let here : Option Nat := match ps with
      | (pa, _, _, _) :: _ => if physKind pa = .hbm then some pa else none
      | [] => none
    if ps.any fun p => match physKind p.1 with
        | .host _ => true
        | .hbm | .sector _ _ | .unpopulated => false then
      (s.logAt g 0x0006 0 0 va, .fault { cause := .trans .poison, addr := va, tf := none })
    else
      match blockPieces s g 0 n ps with
      | (s, .ok bs) => (s, .ok (here, bs))
      | (s, .fault f) => (s, .fault f)
      | (s, .waits) => (s, .waits)

/-- The nesting depth of a walk that starts (R230): the parent's depth field is read with its record, which is rejected
as the record itself would be when it breaks a limit (R11, R229). -/
def traceDepth (s : State) (g : GangRef) (n : Nat) (va parent : Word) : State × Check Nat :=
  if parent = 0 then (s, .ok 1)
  else if touchesWindow parent 256 then
    (s, .fault { cause := .walkRecord, addr := va, tf := none })
  else
    match blockAt s g 0 n parent 256 with
    | (s, .fault f) => (s, .fault f)
    | (s, .waits) => (s, .waits)
    | (s, .ok bs) =>
      if badRecord bs then (s, .fault { cause := .walkRecord, addr := va, tf := none })
      else (s, .ok (slice (field64 bs 160) 15 12 + 1))

/-- The checks of R229 for one lane, before a fault takes the record address. Where several cases of R229 apply at once
the spec does not say which one is raised: the model takes alignment, the record, the parent, the payload's translation,
the fields, the depth and the payload's size, in this order (notes/assumptions/38.md). -/
def walkLook (s : State) (g : GangRef) (start : Bool) (n i : Nat) (va : Word) : State × Check WalkLane :=
  let k := (s.teamOf g).kernel
  let bad (c : TrapCause) : MFault := { cause := c, addr := va, tf := none }
  if va.toNat % 256 ≠ 0 then (s, .fault (bad .alignment))
  else if inScratchWindow va then (s, .fault (bad .walkRecord))
  else
    match recordBytes s g n va with
    | (s, .fault f) => (s, .fault f)
    | (s, .waits) => (s, .waits)
    | (s, .ok (pa, bs)) =>
      match traceDepth s g n va (field64 bs 176) with
      | (s, .fault f) => (s, .fault f)
      | (s, .waits) => (s, .waits)
      | (s, .ok depth) =>
        let paybytes := field bs 152 4
        let payload : State × Option MFault :=
          if field64 bs 144 = 0 then (s, none)
          else checkSpan s (engAt s g) { va := field64 bs 144, n := paybytes, align := 1, need := .store }
        match payload with
        | (s, some f) => (s, .fault f)
        | (s, none) =>
          if badRecord bs then (s, .fault (bad .walkRecord))
          else if start && decide (k.wdepth < depth) then (s, .fault (bad .walkDepth))
          else if k.walkpay < paybytes then (s, .fault (bad .walkScratch))
          else (s, .ok { quad := n, lane := i, va := va, pa := pa, depth := depth, bytes := bs })

/-- The checks of R229 for one lane; TRAPINFO carries the record address. -/
def walkCheck (s : State) (g : GangRef) (o : LaneOp) (start : Bool) (n i : Nat) : State × Check WalkLane :=
  let l := (s.quadOf g n).lane i
  let va : Word := l.rv (o.va.toNat + 1) ++ l.rv o.va.toNat
  match walkLook s g start n i va with
  | (s, .fault f) =>
    match s.walkTrap g va f with
    | (s, f) => (s, .fault f)
  | x => x

/-- What the checks of the active lanes come to. -/
structure WalkChecks where
  passed : List WalkLane
  failed : List (Nat × Nat × MFault)
  waits : Bool
  deriving DecidableEq, Repr

/-- The checks of every active lane: those that pass, and the faults of those that fail. -/
def walkChecks (g : GangRef) (o : LaneOp) (start : Bool) :
    List (Nat × Nat) → State → State × WalkChecks
  | [], s => (s, { passed := [], failed := [], waits := false })
  | (n, i) :: rest, s =>
    match walkCheck s g o start n i with
    | (s, x) =>
      match walkChecks g o start rest s with
      | (s, y) =>
        (s, match x with
            | .ok a => { y with passed := a :: y.passed }
            | .fault f => { y with failed := (n, i, f) :: y.failed }
            | .waits => { y with waits := true })

/-- The lanes of a quad that failed (R412). -/
def walkFailed (bad : List (Nat × Nat × MFault)) (n : Nat) : BitVec 4 :=
  bad.foldl (fun m x => if x.1 = n then m ||| laneBit x.2.1 else m) 0

/-- A walk of a record, before its engine has read its layout. -/
def newWalk (s : State) (g : GangRef) (o : LaneOp) (pend : Nat) (x : WalkLane) (bs : List Byte)
    (want : Option WalkClaim) : Walk :=
  Walk.load
    { id := s.nextId, ctx := s.ctxOf g, team := g.t, wave := g.w, quad := x.quad, lane := x.lane
      pend := pend, vd := o.vd.toNat, record := x.va, image := Vector.replicate 256 0
      regs := Vector.replicate 8 0, stack := []
      layout := { nodesz := 0, maxkids := 0, kindoff := 0, cpoff := 0, cpenc := 0, boxoff := 0, boxenc := 0
                  leafoff := 0, leafenc := 0, base := 0 }
      buffer := none, steps := 0, want := want, active := false, fetched := [], logged := [], check := none } bs

/-- The claim of a record (R227): one atomic at the home slice of its second line, where the record
takes its owner; the walk that begins, or none when the record refuses. The engine claims a record in a Sector
window. -/
def claimRecord (s : State) (g : GangRef) (o : LaneOp) (start : Bool) (pend : Nat) (x : WalkLane) :
    State × Option Walk :=
  let core := s.coreOf g
  let c := s.ctxOf g
  let kind : ClaimKind := if start then .start else .resume
  let begin (s : State) (w : Walk) : State × Option Walk :=
    ((s.modCore core fun k => { k with walks := k.walks ++ [w] }).bumpId, some w)
  match x.pa with
  | none =>
    begin s (newWalk s g o pend x x.bytes
      (some { kind := kind, depth := x.depth, ctl := field64 x.bytes 160, claimed := false }))
  | some pa =>
    let s := flushLine s core c (x.va + 128)
    let ctl := (s.word (pa + 160)).toNat
    if kind.takes (ctlState ctl) then
      let bs := (upTo 256).map fun i => viewByte s core c (x.va + BitVec.ofNat 64 i) (pa + i)
      let w := newWalk s g o pend x bs none
      let head := leBytes 4 (s.teamOf g).gridid.toNat ++ leBytes 8 (kind.control x.depth ctl) ++
        leBytes 8 (w.ownerWord s)
      begin (s.homeWrite c (pa + 156) head 3) { w with image := putImage w.image 156 head }
    else (s, none)

/-- The claims of the active lanes in ascending order (R395): what each quad's performance waits for,
and the status of a refused lane (R226). -/
def claimAll (g : GangRef) (o : LaneOp) (start : Bool) (pend : Nat) :
    List WalkLane → State → State × List (Nat × Nat ⊕ Nat × RegWrite)
  | [], s => (s, [])
  | x :: xs, s =>
    match claimRecord s g o start pend x with
    | (s, r) =>
      match claimAll g o start pend xs s with
      | (s, l) =>
        (s, (match r with
            | some w => .inl (x.quad, w.id)
            | none => .inr (x.quad, .v x.lane o.vd.toNat 0x206)) :: l)

/-- What a quad's performance waits for and writes. -/
def walkLater (l : List (Nat × Nat ⊕ Nat × RegWrite)) (n : Nat) : Later :=
  { Later.empty with
    walks := l.filterMap fun x =>
      match x with
      | .inl (q, id) => if q = n then some id else none
      | .inr _ => none
    writes := l.filterMap fun x =>
      match x with
      | .inl _ => none
      | .inr (q, w) => if q = n then some w else none }

/-- The order-log entry of a claim in this device's memory (R473). -/
def claimOrder (s : State) (g : GangRef) (x : WalkLane) : Option (Nat × OrderOp) :=
  x.pa.map fun pa => (pa + 128, { atomicOrder (s.coreOf g) (x.va + 128) with req := coreReq (s.coreOf g) 2 })

/-- `wstart` and `wresume` (R229, R395). -/
def walkStep (o : LaneOp) (start : Bool) (s : State) : Out :=
  laneStep s o [.v o.va 2 2, .v o.vd 5 1] fun flag s g =>
    if flagFull s g flag then s.hold g .structural
    else
      match walkChecks g o start (s.activeLanes g o) s with
      | (s, y) =>
        if y.waits then s.awaitFetch g
        else
          match y.failed, y.passed with
          | (_, _, f) :: _, _ => s.memTrap g f (walkFailed y.failed) 0
          | [], xs =>
            if 256 < (s.core (s.coreOf g)).walks.length + xs.length then s.hold g .structural
            else
              match s.orderAll (s.ctxOf g) (xs.filterMap (claimOrder s g)) with
              | .error s => s
              | .ok s =>
                let pend := s.nextId
                match claimAll g o start pend xs (s.dropFetched g).bumpId with
                | (s, l) => s.issueLong g 3 (cycles32 g) pend flag (walkLater l)

/-- `wstart` (R395). -/
def execWstart (o : LaneOp) (s : State) : Out := walkStep o true s
/-- `wresume` (R395). -/
def execWresume (o : LaneOp) (s : State) : Out := walkStep o false s

end Sys2Proof.Machine
end

