-- ==== Sys2Proof/Machine/Pages.lean ====
section
/-! DEFINITION. Translation caches, L1 lines and code pages: the walk of a page table (R149, R152), what
leaves a cache (R154, R177), the check of a code page (R162) and the abort of a launch (R90). -/

namespace Sys2Proof.Machine

/-! ### Caches -/

/-- `PAGE_TABLE_WALK` (R149, R154): a walk that ends in a fault caches nothing, and logs what the fault logs (R40, R160).
The spec gives a walk that no access waits for no source: the model takes 1 (notes/assumptions/77.md). -/
def execPageTableWalk (core : Nat) (ctx : BitVec 6) (va : Word) (s : State) : Out :=
  .next
    (if (s.ctx ctx).phase.live && !(s.core core).tlb.any fun e => e.covers ctx va then
      match walkTable s ctx va with
      | .ok e => (s.touchWalk ctx va).modCore core fun k => { k with tlb := tlbInsert e k.tlb }
      | .error f => (s.touchWalk ctx va).logFault ctx f { LogEntry.plain 0 1 0 va with core := core }
     else s)

/-- `TRANSLATION_CACHE_EVICTION` (R154, R162). -/
def execTranslationCacheEviction (core : Nat) (ctx : BitVec 6) (va : Word) (s : State) : Out :=
  .next (s.modCore core fun k => { k with tlb := k.tlb.filter fun e => !e.covers ctx va })

/-- `L1_LINE_EVICTION` (R177): a pinned line stays. -/
def execL1LineEviction (core : Nat) (ctx : BitVec 6) (va : Word) (s : State) : Out :=
  .next
    (let line := va.toNat / 128
     let s := s.modCore core fun k =>
       { k.dropClean ctx line with
         ilines := k.ilines.filter fun h => !(h.ctx == ctx && h.line == line) }
     match (s.core core).heldLine ctx line with
     | some h => if h.pinned then s else evictHeld s core h
     | none => s)

/-! ### The abort of a launch -/

/-- The entry is a loop nest that a fault has stopped (R381). -/
def Entry.stoppedNest (e : Entry) : Bool :=
  match e.body with
  | .nest b => b.stopped
  | .copy _ | .qwait _ _ | .qadd _ _ | .marker _ _ => false

/-- The stopped loop nests of a launch are discarded: no handler is left that could let them go on (R90, R381;
notes/assumptions/81.md). -/
def State.dropStopped (s : State) (launch : Nat) : State :=
  ({ s with cores := s.cores.map fun (k : CoreSt) =>
      { k with queues := k.queues.map fun l =>
          l.filter fun e => !(e.stoppedNest && (s.team e.team).launch == launch) } } : State).wakeAll

/-- A wave of an aborted launch is stopped: none of its quads issues again (R90). -/
def Wave.abort (w : Wave) : Wave :=
  { w with stopped := true, gangs := [], quads := w.quads.map Quad.exit }

/-- A team of an aborted launch (R90). One that was saved and not placed again has no wave; what it carries is performed
on the core that held it, as R88 gives (notes/assumptions/81.md). -/
def Team.abort (t : Team) : Team :=
  if t.phase = .saved then { t with phase := .stopped, waves := [] }
  else { t with waves := t.waves.map Wave.abort }

/-- A code-integrity fault aborts the launch only while it dispatches or runs (R81). In every other state the gang
that met the page keeps waiting for it, and a save takes it along (notes/assumptions/81.md). -/
def Launch.abortable (l : Launch) : Bool :=
  match l.state with
  | .dispatching | .running => true
  | .quiescing | .completing | .completed | .aborting | .saved | .discarded | .faulted => false

/-- The launch is stopped by a code-integrity fault (R81, R90). -/
def Launch.abort (l : Launch) : Launch := if l.abortable then { l with state := .aborting } else l

/-- The A-latches that waves of a launch own become free (R391). -/
def State.freeLatches (s : State) (launch : Nat) : State :=
  (upTo s.teams.length).foldl (fun s t =>
    if (s.team t).launch = launch then
      (upTo (s.team t).waves.length).foldl (fun s w => s.freeLatch t w) s
    else s) s

/-- A launch is aborted (R90): its waves stop and no further team is placed. -/
def State.abortLaunch (s : State) (launch : Nat) : State :=
  let s := (s.freeLatches launch).dropStopped launch
  ({ s with teams := s.teams.map fun (t : Team) => if t.launch = launch then t.abort else t } : State).modLaunch
    launch Launch.abort

/-! ### The check of a code page -/

/-- The code page passes its check (R162). Bytes that lie behind an aperture are free values; those of a Sector window
are asked for (R438; notes/assumptions/83.md). -/
def pageChecks (s : State) (c : BitVec 6) (e : TlbEntry) : State × Bool :=
  let x := s.ctx c
  let idx := e.manifest.toNat
  if 2 ^ x.lgcount.toNat ≤ idx then (s, false)
  else
    match tenderRead s c ((x.man ++ 0#16) + BitVec.ofNat 64 (64 * idx)) 64 with
    | (s, none) => (s, false)
    | (s, some bs) =>
      let passes (page : List Byte) : Bool :=
        zeroField bs 48 16 && Config.sha384 page == BitVec.ofNat 384 (field bs 0 48)
      match physKind e.frame with
      | .hbm =>
        if s.poisonedRange e.frame 65536 then (s.log c (.plain 0x0006 1 0 (BitVec.ofNat 64 e.base)), false)
        else (s.touchRange c e.frame 65536, passes (s.mem.read e.frame 65536))
      | .sector w off =>
        match sendRemote s c w off (.engine walkerCore 0 0) (BitVec.ofNat 64 e.base) (.read 65536) with
        | (s, none) => (s.log c (.plain 0x0006 7 0 (BitVec.ofNat 64 e.base)), false)
        | (s, some _) =>
          match hostBytes s 65536 with
          | (s, page) => (s, passes page)
      | .host _ | .unpopulated =>
        match hostBytes s 65536 with
        | (s, page) => (s, passes page)

/-- The cached translation of a code page is verified (R162). -/
def State.verifyPage (s : State) (core : Nat) (c : BitVec 6) (base : Nat) : State :=
  s.modCore core fun k =>
    { k with tlb := k.tlb.map fun e => if e.ctx == c && e.base == base then { e with verified := true } else e }

/-- The quad waits for the check of a code page that holds its next instruction (R162). -/
def Quad.awaitsPage (q : Quad) (base : Nat) : Bool :=
  decide (q.wait = .codeCheck) &&
    (upTo 8).any fun i => (q.pc + BitVec.ofNat 64 (4 * i)).toNat / 65536 * 65536 == base

/-- The waits for a code page end (R162). -/
def State.wakePage (s : State) (core : Nat) (c : BitVec 6) (base : Nat) : State :=
  let s := { s with teams := s.teams.map fun (t : Team) =>
    if t.ctx = c then
      { t with waves := t.waves.map fun (w : Wave) =>
          if w.core = core then
            { w with quads := w.quads.map fun (q : Quad) =>
                if q.awaitsPage base then { q with wait := .ready } else q }
          else w }
    else t }
  s.modCore core fun k =>
    { k with
      checks := k.checks.filter fun x => !(x.ctx == c && x.base == base)
      walks := k.walks.map fun (w : Walk) => if w.ctx = c ∧ w.check = some base then { w with check := none } else w }

/-- The gangs that wait for a code page: team, wave and first quad (R162). -/
def State.pageWaiters (s : State) (core : Nat) (c : BitVec 6) (base : Nat) : List GangRef :=
  (upTo s.teams.length).flatMap fun t =>
    if (s.team t).ctx = c ∧ (s.team t).phase = .live then
      (upTo (s.team t).waves.length).flatMap fun w =>
        let x := s.wave t w
        if x.core = core then
          (x.gangs.filter fun g => (x.quad g.base).awaitsPage base).map fun g =>
            { t := t, w := w, base := g.base, lg := g.lg }
        else []
    else []

/-- A gang's fetch meets a page that failed its check (R90, R162): one entry for each launch. -/
def State.codeFault (s : State) (g : GangRef) : State :=
  let n := (s.teamOf g).launch
  match s.launches[n]? with
  | some l => if l.abortable then (s.logAt g 0x0003 1 0 (s.leader g).pc).abortLaunch n else s
  | none => s

/-- A walk's fetch meets a page that failed its check (R162, R222, R225, R491): the walk ends with cause
0x14, once what it has sent is performed (R240), and the launch is aborted, where its state allows it (R81). Walks of a
launch that is already aborted log no further entry. -/
def State.walkCodeFault (s : State) (core : Nat) (w : Walk) : State :=
  let va := w.w64 48 + BitVec.ofNat 64 (4 * w.wpc)
  let n := (s.team w.team).launch
  let busy := s.walkBusy w
  let s :=
    match s.launches[n]? with
    | none => s
    | some l =>
      if l.abortable then (s.engLog (w.eng core) 0x0003 3 0 va).abortLaunch n
      else if l.state = .aborting || busy then s
      else s.engLog (w.eng core) 0x0003 3 0 va
  if busy then s else s.endWalk core w 3 0x14 va

/-- `CODE_HASH_CHECK_COMPLETE` (R162). -/
def execCodeHashCheckComplete (core : Nat) (ctx : BitVec 6) (va : Word) (s : State) : Out :=
  .next
    (let base := va.toNat / 65536 * 65536
     if (s.core core).checks.any fun x => x.ctx == ctx && x.base == base then
       match (s.core core).tlb.find? fun e => e.ctx == ctx && e.base == base with
       | none => s.wakePage core ctx base
       | some e =>
         match pageChecks s ctx e with
         | (s, true) => (s.verifyPage core ctx base).wakePage core ctx base
         | (s, false) =>
           let gangs := s.pageWaiters core ctx base
           let walks := (s.core core).walks.filter fun w => w.ctx == ctx && w.check == some base
           let s := s.wakePage core ctx base
           let s := gangs.foldl (fun s g => s.codeFault g) s
           walks.foldl (fun s w => s.walkCodeFault core w) s
     else s)

end Sys2Proof.Machine
end

