-- ==== Sys2Proof/Machine/Kernel.lean ====
section
/-! DEFINITION. Kernel descriptors (R78 to R80), what fits on a core (R17 to R19, R83). -/

namespace Sys2Proof.Machine

/-- Waves of a kernel that one quarter can hold (R19). -/
def Kernel.perQuarter (k : Kernel) : Nat :=
  let w := 2 ^ k.lgwave
  min 32 (min (128 / w) (196608 / (16 * k.regs * w)))

/-- One team fits on an empty core, or core pair (R80). -/
def Kernel.fitsEmpty (k : Kernel) : Bool :=
  decide (k.waves ≤ (if k.pair then 8 else 4) * k.perQuarter)

/-- The fields of a kernel descriptor as they stand. -/
def kernelFields (bs : List Byte) : Kernel :=
  let shape := field32 bs 16
  let f (hi lo : Nat) : Nat := slice (zext shape) hi lo
  { entry := field64 bs 0, trapvec := field64 bs 8, lgwave := f 2 0, regs := 8 * f 9 3, waves := f 15 10
    pair := shape.getLsbD 16, scr := f 20 17, lgres := f 24 21, wdepth := f 28 25
    msplit := shape.getLsbD 29, fusetrap := shape.getLsbD 30
    fusetmo := if field bs 20 4 = 0 then 2048 else field bs 20 4, wdog := field32 bs 24
    walkpay := field bs 28 2, mml := field bs 30 2, rtboff := field bs 32 4
    push := (upTo (field bs 36 1)).map fun i => field64 bs (40 + 8 * i), seed := field64 bs 72
    shape := shape }

/-- The limits of R78, R79, R80 and R195. -/
def Kernel.legal (k : Kernel) (bs : List Byte) : Bool :=
  k.entry.toNat % 4 == 0 && !k.shape.getLsbD 31 && decide (k.lgwave ≤ 4) && decide (8 ≤ k.regs) &&
    decide (k.regs ≤ 640) && decide (1 ≤ k.waves) && decide (k.waves ≤ 32) && decide (k.scr ≤ 14) &&
    (k.lgres == 0 || (decide (4 ≤ k.lgres) && decide (k.lgres ≤ 10))) && decide (k.wdepth ≤ 8) &&
    decide (64 ≤ k.fusetmo) && decide (k.fusetmo ≤ 65536) && k.walkpay % 16 == 0 &&
    decide (k.walkpay ≤ 1024) && k.mml == 1 && k.rtboff % 32 == 0 && decide (k.push.length ≤ 4) &&
    zeroField bs 37 3 && zeroField bs (40 + 8 * k.push.length) (32 - 8 * k.push.length) &&
    zeroField bs 80 48 && decide (k.rtboff + 32 * k.rtn ≤ k.scratchBytes) &&
    (k.rtn == 0 || k.scr != 0) && k.fitsEmpty

/-- The kernel of a descriptor; `none` when it is malformed (R80). -/
def kernelOf (bs : List Byte) : Option Kernel :=
  let k := kernelFields bs
  if k.legal bs then some k else none

/-- The launch is in flight in its context (R70, R81, R91). -/
def Launch.inFlight (l : Launch) : Bool :=
  match l.state with
  | .dispatching | .running | .completing | .aborting | .quiescing | .saved | .faulted => true
  | .completed | .discarded => false

/-! ### What fits -/

/-- Waves that are resident in a quarter of a core. -/
def State.residents (s : State) (core quarter : Nat) : List (Nat × Wave) :=
  s.teams.flatMap fun t =>
    if t.phase = .live ∨ t.phase = .stopped then
      (t.waves.filter fun w => w.core == core && w.quarter == quarter).map fun w => (t.kernel.regs, w)
    else []

/-- Bytes of register bank that waves take: 16 bytes for each register of a quad (R18). -/
def bankBytes (l : List (Nat × Wave)) : Nat := l.foldl (fun n x => n + 16 * x.1 * x.2.quads.length) 0

/-- Quads of some waves. -/
def quadCount (l : List (Nat × Wave)) : Nat := l.foldl (fun n x => n + x.2.quads.length) 0

/-- `n` more waves of a kernel fit in a quarter (R18). -/
def State.quarterFits (s : State) (k : Kernel) (core quarter n : Nat) : Bool :=
  let l := s.residents core quarter
  let w := 2 ^ k.lgwave
  decide (l.length + n ≤ 32) && decide (quadCount l + n * w ≤ 128) &&
    decide (bankBytes l + n * (16 * k.regs * w) ≤ 196608)

/-- Units of 32 KiB of scratchpad that the teams on a core take (R17, R83, R85). -/
def State.scratchUnits (s : State) (core : Nat) : Nat :=
  s.teams.foldl (fun n t =>
    if (t.phase = .live ∨ t.phase = .stopped) ∧
        (t.core = core ∨ (t.kernel.pair ∧ t.core / 2 = core / 2)) then n + t.kernel.scr
    else n) 0

/-- The core of a wave that is placed in a quarter (R85): of a pair, 4 to 7 are the quarters of the odd
core. -/
def placedCore (k : Kernel) (core q : Nat) : Nat := if k.pair then core / 2 * 2 + q / 4 else core

/-- A team fits on a core with its waves in these quarters (R83, R85). -/
def State.teamFits (s : State) (k : Kernel) (core : Nat) (quarters : List Nat) : Bool :=
  decide (core < 288) && quarters.length == k.waves && (!k.pair || core % 2 == 0) &&
    quarters.all (fun q => decide (q < if k.pair then 8 else 4)) &&
    (upTo (if k.pair then 8 else 4)).all (fun q =>
      s.quarterFits k (placedCore k core q) (q % 4) (quarters.filter (· == q)).length) &&
    decide (s.scratchUnits core + k.scr ≤ 14) && (!k.pair || decide (s.scratchUnits (core + 1) + k.scr ≤ 14))

/-- Waves of a kernel that still fit in a quarter. -/
def State.room (s : State) (k : Kernel) (core quarter : Nat) : Nat :=
  let l := s.residents core quarter
  let w := 2 ^ k.lgwave
  min (32 - l.length) (min ((128 - quadCount l) / w) ((196608 - bankBytes l) / (16 * k.regs * w)))

/-- A team fits somewhere on a core or core pair (R83, R84). -/
def State.coreHasRoom (s : State) (k : Kernel) (core : Nat) : Bool :=
  let n := (upTo (if k.pair then 8 else 4)).foldl (fun n q => n + s.room k (placedCore k core q) (q % 4)) 0
  (!k.pair || core % 2 == 0) && decide (k.waves ≤ n) && decide (s.scratchUnits core + k.scr ≤ 14) &&
    (!k.pair || decide (s.scratchUnits (core + 1) + k.scr ≤ 14))

/-- A team fits somewhere (R84). -/
def State.hasRoom (s : State) (k : Kernel) : Bool := (upTo 288).any fun c => s.coreHasRoom k c

/-- A saved team of the context has not been placed again (R431). -/
def State.restoring (s : State) (c : BitVec 6) : Bool :=
  s.teams.any fun t => t.ctx == c && decide (t.phase = .saved)

end Sys2Proof.Machine
end

