-- ==== Sys2Proof/Machine/Packet.lean ====
section
/-! DEFINITION. Queues and packets (R57 to R70): what a queue observes, how a packet is checked and
admitted, the arbiter, and the packets that are not launches. -/

namespace Sys2Proof.Machine

/-! ### Packets -/

/-- The barrier bit of a packet (R60). -/
def packetBarrier (p : List Byte) : Bool := field p 1 1 / 2 % 2 == 1

/-- Bytes of a packet that its type uses (R61). -/
def packetUsed : Nat → Nat
  | 0 => 8
  | 1 => 60
  | 2 => 32
  | 3 => 24
  | _ => 24

/-- A packet has a reserved type, or a reserved field that is not zero (R60, R61, R63). -/
def slotReserved (p : List Byte) : Bool :=
  let t := packetType p
  decide (4 < t) || field p 0 8 / 2 ^ 10 != 0 || !zeroField p (packetUsed t) (64 - packetUsed t)

/-- The fields of a slot fail R63. -/
def slotMalformed (p : List Byte) : Bool :=
  let t := packetType p
  let (x, y, z) := packetTeams p
  slotReserved p ||
    (t == 1 && (x == 0 || y == 0 || z == 0 || decide (2 ^ 32 ≤ x * y * z) || decide (4096 < field p 36 4) ||
      field p 8 8 % 64 != 0 || field p 40 8 % 8 != 0)) ||
    (t == 2 && (field p 8 8 % 64 != 0 || field p 16 8 % 8 != 0)) ||
    ((t == 3 || t == 4) && field p 8 8 % 8 != 0)

/-- Changes an admitted packet. -/
def State.modPacket (s : State) (c : BitVec 6) (q : BitVec 8) (id : Nat) (f : Admitted → Admitted) : State :=
  s.modQueue c q fun u => { u with admitted := u.admitted.map fun a => if a.id = id then f a else a }

/-! ### What a queue observes -/

/-- The queue enters a state. -/
def State.setQueue (s : State) (c : BitVec 6) (q : BitVec 8) (st : QueueState) : State :=
  s.modQueue c q fun u => { u with state := st }

/-- The slot of a packet (R57). -/
def Queue.slot (u : Queue) (i : Word) : Word := u.ring + BitVec.ofNat 64 (64 * (i.toNat % 2 ^ u.lgsize))

/-- An admitted packet is a counter wait (R66). -/
def Admitted.isWait (a : Admitted) : Bool := packetType a.packet == 3

/-- A launch packet's parent is in flight (R70). -/
def State.parentRuns (s : State) (c : BitVec 6) (p : List Byte) : Bool :=
  packetType p == 1 && field p 56 4 != 0xFFFFFFFF &&
    s.launches.any fun l => l.ctx == c && l.inFlight && l.gridid == field32 p 56

/-- The head packet of a queue is held (R66, R70). -/
def State.headHeld (s : State) (c : BitVec 6) (u : Queue) (p : Option (List Byte)) : Bool :=
  decide (16 ≤ u.admitted.length) || u.admitted.any (·.isWait) ||
    (match p with
     | some p => (packetBarrier p && !u.admitted.isEmpty) || s.parentRuns c p
     | none => false)

/-- What the dispatcher finds in a queue's counters: P and C, with the place of P when it is this device's; the
address of one that fails (R58), the producer counter first; or a wait for a Sector reply. -/
inductive Look where
  | values (p c : Word) (place : Option Nat)
  | bad (va : Word)
  | waits
  deriving DecidableEq, Repr

/-- The dispatcher reads both counters of a queue, once its own adds have been performed (R58). When both fail the
spec does not say which one is logged: the model takes the producer counter (notes/assumptions/76.md). -/
def State.lookAt (s : State) (c : BitVec 6) (q : BitVec 8) : State × Look :=
  let u := s.queue c q
  if s.queueWrites c q then (s, .waits)
  else
    match s.queueCounter c q u.prod with
    | (s, .bad) => (s, .bad u.prod)
    | (s, .waits) => (s, .waits)
    | (s, .value p pp) =>
      match s.queueCounter c q u.cons with
      | (s, .bad) => (s, .bad u.cons)
      | (s, .waits) => (s, .waits)
      | (s, .value i _) => (s, .values p i pp)

/-- What a queue observes of its counters and its head (R58). -/
inductive Seen where
  | empty
  | over
  | bad (va : Word)
  | waits
  | held
  | head (index producer slot : Word) (packet : Option (List Byte))
  deriving DecidableEq, Repr

/-- A queue looks at its counters and its head packet (R57, R58, R66, R70). A look that finds a packet
acquires at system scope on the producer counter, so that it reads the slot as the release of a kernel's
`cadd` left it (notes/assumptions/73.md). A ready queue with P - C > 2^n whose head would also be held has two rows in
R58: the model takes the stop first (notes/assumptions/76.md). -/
def observe (s : State) (c : BitVec 6) (q : BitVec 8) : State × Seen :=
  let u := s.queue c q
  match s.lookAt c q with
  | (s, .bad va) => (s, .bad va)
  | (s, .waits) => (s, .waits)
  | (s, .values p i pp) =>
    if p ≤ i then (s, .empty)
    else if 2 ^ u.lgsize < (p - i).toNat then (s, .over)
    else
      let s := match pp with | some a => acquireSystem s (lineOf a) | none => s
      match deviceRead s c (some q) 6 (u.slot i) 64 with
      | (s, .waits) => (s, .waits)
      | (s, .failed) => (s, if s.headHeld c u none then .held else .head i p (u.slot i) none)
      | (s, .bytes raw) => (s, if s.headHeld c u (some raw) then .held else .head i p (u.slot i) (some raw))

/-- What holds the head of a blocked queue has not ended (R58, R66, R70): the head is the packet at C, whatever P is;
where the counters name none, or it cannot be read, no packet is held by its own bits. -/
def State.stillHeld (s : State) (c : BitVec 6) (q : BitVec 8) (p i : Word) (place : Option Nat) :
    State × Option Bool :=
  let u := s.queue c q
  if p ≤ i then (s, some (s.headHeld c u none))
  else
    let s := match place with | some a => acquireSystem s (lineOf a) | none => s
    match deviceRead s c (some q) 6 (u.slot i) 64 with
    | (s, .waits) => (s, none)
    | (s, .failed) => (s, some (s.headHeld c u none))
    | (s, .bytes raw) => (s, some (s.headHeld c u (some raw)))

/-- `QUEUE_READY` (R58): an empty queue observes P > C, or the holding condition of a blocked one has ended; a blocked
queue with P - C > 2^n leaves blocked only then, too, and stops as a ready one. Only a running context's queues act. -/
def execQueueReady (ctx : BitVec 6) (q : BitVec 8) (s : State) : Out :=
  .next
    (let u := s.queue ctx q
     if (s.ctx ctx).phase ≠ .running then s
     else
       match u.state with
       | .empty =>
         match s.lookAt ctx q with
         | (s, .waits) => s
         | (s, .bad va) => (s.clearFetches ctx q).stopQueue ctx q 0x0002 1 va
         | (s, .values p i _) =>
           let s := s.clearFetches ctx q
           if i < p then s.setQueue ctx q .ready else s
       | .blocked =>
         match s.lookAt ctx q with
         | (s, .waits) => s
         | (s, .bad va) => (s.clearFetches ctx q).stopQueue ctx q 0x0002 1 va
         | (s, .values p i place) =>
           match s.stillHeld ctx q p i place with
           | (s, none) => s
           | (s, some true) => s.clearFetches ctx q
           | (s, some false) => (s.clearFetches ctx q).setQueue ctx q .ready
       | .ready | .stopped | .disabled => s)

/-! ### The checks of admission -/

/-- A counter that a packet names passes R124 and has write permission (R63). -/
def State.packetCounter (s : State) (c : BitVec 6) (va : Word) : Bool :=
  if va.toNat % 8 ≠ 0 then false
  else
    match translateFresh s c va .counterAdd with
    | .ok (pa, _) => physKind pa != .hbm || !s.isPoisoned (lineOf pa)
    | .error _ => false

/-- The engine operation of a copy packet that is not yet admitted. -/
def packetEng (c : BitVec 6) : Eng :=
  { core := packetCore, ctx := c, team := none, wave := 0xFFFF, id := 0, src := 2, req := 1 }

/-- What an admitted packet has beside its bytes. -/
inductive PacketBody where
  | plain
  | launch (k : Kernel)
  | copy (b : CopyBlock)
  deriving DecidableEq, Repr

/-- What the checks of a packet come to (R63): its body, the address that the entry of a malformed one carries, or
a wait for Sector replies. -/
inductive PacketCheck where
  | ok (x : PacketBody)
  | bad (va : Word)
  | waits
  deriving DecidableEq, Repr

/-- The copy control block of a copy packet (R63, R65, R376). -/
def packetBlock (s : State) (c : BitVec 6) (q : Option (BitVec 8)) (va : Word) : State × PacketCheck :=
  match deviceRead s c q 6 va 64 with
  | (s, .failed) => (s, .bad va)
  | (s, .waits) => (s, .waits)
  | (s, .bytes bs) =>
    match copyBlockOf bs with
    | none => (s, .bad va)
    | some b =>
      if b.rmode || (!b.fill && inScratchWindow b.source) || inScratchWindow b.dest ||
          (b.ctr != 0 && inScratchWindow b.ctr) then (s, .bad va)
      else
        match checkSpans s (packetEng c) (b.spans none) with
        | (s, some f) => (s, .bad f.addr)
        | (s, none) => (s, .ok (.copy b))

/-- The packet's own counter is checked after its descriptor or block: where both fail, the spec does not say which
address the entry carries, and the model takes that of the descriptor or block (notes/assumptions/76.md). -/
def State.thenCounter (s : State) (c : BitVec 6) (va : Word) (x : PacketCheck) : State × PacketCheck :=
  match x with
  | .ok x =>
    if s.packetCounter c va then (s, .ok x) else (s.counterPoison c 6 va .counterAdd, .bad va)
  | .bad va => (s, .bad va)
  | .waits => (s, .waits)

/-- The checks of a packet (R63, R80). A slot that could not be read is malformed with its own address: the spec does
not name this case (notes/assumptions/76.md). -/
def checkPacket (s : State) (c : BitVec 6) (q : BitVec 8) (slot : Word) (raw : Option (List Byte)) :
    State × PacketCheck :=
  match raw with
  | none => (s, .bad slot)
  | some p =>
    if slotMalformed p then (s, .bad slot)
    else
      match packetType p with
      | 1 =>
        match deviceRead s c (some q) 6 (field64 p 8) 128 with
        | (s, .failed) => (s, .bad (field64 p 8))
        | (s, .waits) => (s, .waits)
        | (s, .bytes bs) =>
          match kernelOf bs with
          | some k => s.thenCounter c (field64 p 40) (.ok (.launch k))
          | none => (s, .bad (field64 p 8))
      | 2 =>
        match packetBlock s c (some q) (field64 p 8) with
        | (s, x) => s.thenCounter c (field64 p 16) x
      | 3 => s.thenCounter c (field64 p 8) (.ok .plain)
      | 4 => s.thenCounter c (field64 p 8) (.ok .plain)
      | _ => (s, .ok .plain)

/-! ### Admission -/

/-- A restored packet that has yet to start (R73, R431): a copy as its block is read, a counter wait or a counter add as
the device takes it up at its place in the queue (notes/assumptions/79.md). -/
def Admitted.startsAgain (a : Admitted) : Bool :=
  packetType a.packet == 2 || packetType a.packet == 3 || packetType a.packet == 4

/-- The head packet of a queue as it enters. -/
def PacketBody.entering (x : PacketBody) (index producer : Word) (packet : List Byte) : Entering :=
  { index := index, producer := producer, packet := packet, req := 0
    kernel := match x with
      | .launch k => some k
      | .plain => none
      | .copy _ => none
    block := match x with
      | .copy b => some b
      | .plain => none
      | .launch _ => none }

/-- The dispatcher adds 1 to the consumer counter of a queue (R62); none when the counter fails (R58). -/
def State.advanceQueue (s : State) (c : BitVec 6) (q : BitVec 8) : Option AddDone :=
  let cons := (s.queue c q).cons
  if s.packetCounter c cons then some (dispatchAdd s c cons 1 (.tender q)) else none

/-- The queue has had its grant (R68). -/
def State.granted (s : State) (c : BitVec 6) (q : BitVec 8) : State :=
  (s.modQueue c q fun u => { u with readyCycles := 0, boost := 0 }).modCtx c fun y => { y with lastQueue := q }

/-- The head packet of a queue, which passed its checks, is admitted (R58, R62, R68); `p` is the producer counter as
it was observed. Where the consumer counter lies in another device the packet enters when that has performed the add. -/
def State.admitHead (s : State) (c : BitVec 6) (q : BitVec 8) (index p : Word) (packet : List Byte)
    (x : PacketBody) : State :=
  let cons := (s.queue c q).cons
  let e := x.entering index p packet
  match s.advanceQueue c q with
  | none => (s.counterPoison c 6 cons .counterAdd).stopQueue c q 0x0002 1 cons
  | some (.held s) => s
  | some (.over s) => (s.granted c q).enterPacket c q e
  | some (.sent s r) => (s.granted c q).modQueue c q fun u => { u with entering := some { e with req := r } }

/-! ### Arbitration -/

/-- The cycles that a queue has spent in ready raise its effective priority (R68). -/
def Queue.age (u : Queue) : Queue :=
  { u with boost := u.boost + u.readyCycles / 65536, readyCycles := u.readyCycles % 65536 }

/-- A queue's effective priority (R68). -/
def Queue.effective (u : Queue) : Nat := min 7 (u.prio.toNat + u.boost)

/-- `QUEUE_PRIORITY_AGING` (R68). -/
def execQueuePriorityAging (ctx : BitVec 6) (q : BitVec 8) (s : State) : Out :=
  .next (s.modQueue ctx q Queue.age)

/-- The ready queue that the arbiter picks among those it has not passed over (R68): highest effective priority, then
round robin. -/
def State.pick (s : State) (c : BitVec 6) (skip : List (BitVec 8)) : Option (BitVec 8) :=
  ((upTo 256).map fun i => (s.ctx c).lastQueue + 1 + BitVec.ofNat 8 i).foldl (fun best q =>
    if (s.queue c q).state = .ready ∧ !skip.contains q then
      match best with
      | none => some q
      | some b => if (s.queue c b).effective < (s.queue c q).effective then some q else some b
    else best) none

/-- One grant to a context (R69): held queues become blocked, and at most one packet is admitted. A queue whose
counters name no packet, or that awaits Sector replies, stays ready and is passed over (R58). -/
def State.grantTo (s : State) (c : BitVec 6) (skip : List (BitVec 8)) : Nat → State
  | 0 => s
  | n + 1 =>
    match s.pick c skip with
    | none => s
    | some q =>
      match observe s c q with
      | (s, .empty) => (s.clearFetches c q).grantTo c (q :: skip) n
      | (s, .waits) => s.grantTo c (q :: skip) n
      | (s, .held) => ((s.clearFetches c q).setQueue c q .blocked).grantTo c skip n
      | (s, .over) => (s.clearFetches c q).stopQueue c q 0x0007 0 (s.queue c q).prod
      | (s, .bad va) => (s.clearFetches c q).stopQueue c q 0x0002 1 va
      | (s, .head index p slot raw) =>
        match checkPacket s c q slot raw with
        | (s, .waits) => s.grantTo c (q :: skip) n
        | (s, .bad va) => (s.clearFetches c q).stopQueue c q 0x0007 0 va
        | (s, .ok x) => (s.clearFetches c q).admitHead c q index p (raw.getD []) x

/-- The packets that a run has restored and that have not started since (R73, R431). -/
def State.restoredIn (s : State) (c : BitVec 6) : List Nat :=
  (s.ctx c).queues.toList.flatMap fun u => (u.admitted.filter (·.restored)).map (·.id)

/-- A launch that a run has restored has placed none of its teams (R73, R94). -/
def State.resumedUnstarted (s : State) (c : BitVec 6) : Bool :=
  s.launches.any fun l => l.ctx == c && l.resumed && l.state == .dispatching && l.next == 0

/-- The context may take a grant (R58, R69, R73, R431). -/
def State.takesGrant (s : State) (c : BitVec 6) : Bool :=
  decide ((s.ctx c).phase = .running) && !s.restoring c && (s.restoredIn c).isEmpty && !s.resumedUnstarted c &&
    (upTo 256).any fun q => decide ((s.queue c (BitVec.ofNat 8 q)).state = .ready)

/-- `DISPATCH_OPPORTUNITY` (R68, R69): the next running context with a ready queue, by CTXID. -/
def execDispatchOpportunity (s : State) : Out :=
  .next
    (match ((upTo 64).map fun i => s.lastGrant + 1 + BitVec.ofNat 6 i).find? fun c => s.takesGrant c with
     | none => s
     | some c =>
       let s := s.modCtx c fun x => { x with queues := x.queues.map Queue.age }
       { s with lastGrant := c }.grantTo c [] 256)

/-! ### Counter waits and adds -/

/-- An admitted packet of a queue by its number. -/
def State.packet? (s : State) (c : BitVec 6) (q : BitVec 8) (idx : Word) : Option Admitted :=
  (s.queue c q).admitted.find? fun a => a.index == idx

/-- A Sector request of a packet has no reply yet. -/
def State.packetAsked (s : State) (id : Nat) : Bool := s.engOutstanding dispatcherCore id

/-- The device acts on the packets of a context (R58, R431). -/
def State.packetsRun (s : State) (c : BitVec 6) : Bool :=
  decide ((s.ctx c).phase = .running) && !s.restoring c

/-- A restored packet starts after those before it in the save area (R431). -/
def State.startsNow (s : State) (c : BitVec 6) (a : Admitted) : Bool :=
  !a.restored || (s.restoredIn c).all fun i => decide (a.id ≤ i)

/-- The operation of a packet may go on (R65, R73): one that has begun also while the context quiesces. -/
def State.packetGoes (s : State) (c : BitVec 6) (a : Admitted) : Bool :=
  (s.packetsRun c && s.startsNow c a) || (decide ((s.ctx c).phase = .quiescing) && a.started)

/-- The counter of a counter-wait packet fails as it is evaluated (R58, R67): the queue stops, and the packet never
completes. -/
def State.failPacketWait (s : State) (c : BitVec 6) (q : BitVec 8) (a : Admitted) : State :=
  (s.modPacket c q a.id fun a => { a with logged := [1] }).stopQueue c q 0x0002 1 (field64 a.packet 8)

/-- A counter-wait packet is evaluated (R67): satisfied, it completes with an acquire at system scope. -/
def State.evalWait (s : State) (c : BitVec 6) (q : BitVec 8) (a : Admitted) : State :=
  let va := field64 a.packet 8
  let target := field64 a.packet 16
  let s := s.modPacket c q a.id fun a => { a with restored := false }
  match s.counterPlace c va .counterGet with
  | some pa =>
    let s := (s.touchWalk c va).dirtyLine (lineOf pa) c
    if target ≤ s.word pa then
      match s.orderAll c [(pa, outsideOrder va tenderReq)] with
      | .error s => s
      | .ok s => (acquireSystem s (lineOf pa)).finishPacket c q a.id
    else s
  | none =>
    let bad := (s.counterPoison c 6 va .counterGet).failPacketWait c q a
    if va.toNat % 8 ≠ 0 then s.failPacketWait c q a
    else
      match translateWalk s c va .counterGet with
      | (s, .ok (pa, _)) =>
        match physKind pa with
        | .sector w off =>
          match fetchedAt a.fetched 0 0 with
          | some (some _) => s.finishPacket c q a.id
          | some none => s.failPacketWait c q a
          | none =>
            if s.packetAsked a.id then s
            else
              match sendRemote s c w off (.engine dispatcherCore a.id 0) va (.wait target.toNat true false) with
              | (s, some _) => s
              | (s, none) => (s.log c (.plain 0x0006 7 0 va)).failPacketWait c q a
        | .hbm | .host _ | .unpopulated => bad
      | (_, .error _) => bad

/-- `COUNTER_WAIT_PACKET_SATISFIED` (R67). -/
def execCounterWaitPacketSatisfied (ctx : BitVec 6) (q : BitVec 8) (idx : Word) (s : State) : Out :=
  .next
    (match s.packet? ctx q idx with
     | some a =>
       if packetType a.packet = 3 ∧ s.packetsRun ctx ∧ s.startsNow ctx a ∧ !a.logged.contains 1 then
         s.evalWait ctx q a
       else s
     | none => s)

/-- The packet is the oldest of its queue that has not completed. -/
def State.isOldest (s : State) (c : BitVec 6) (q : BitVec 8) (id : Nat) : Bool :=
  match (s.queue c q).admitted with
  | a :: _ => a.id == id
  | [] => false

/-- `COUNTER_ADD_PACKET_PERFORM` (R67): after every earlier packet of the queue has completed. An add that
left on a Sector link completes with its reply. One that a run has restored is taken up in its turn (R73, R431). -/
def execCounterAddPacketPerform (ctx : BitVec 6) (q : BitVec 8) (idx : Word) (s : State) : Out :=
  .next
    (match s.packet? ctx q idx with
     | some a =>
       if packetType a.packet = 4 ∧ s.packetGoes ctx a then
         let s := if a.restored then s.modPacket ctx q a.id fun a => { a with restored := false } else s
         if !s.isOldest ctx q a.id then s
         else if a.started then (if s.packetAsked a.id then s else s.finishPacket ctx q a.id)
         else
           match dispatchAdd s ctx (field64 a.packet 8) (field64 a.packet 16)
               (.engine dispatcherCore a.id 0) with
           | .held s => s
           | .sent s _ => s.modPacket ctx q a.id fun a => { a with started := true }
           | .over s => s.finishPacket ctx q a.id
       else s
     | none => s)

/-! ### Copies -/

/-- A packet whose copy is in progress takes a change of its job. -/
def State.setPacketJob (s : State) (c : BitVec 6) (q : BitVec 8) (a : Admitted) : State :=
  s.modPacket c q a.id fun _ => a

/-- The counter adds of a copy packet (R65): the block's, then the packet's, each after the bindings of
R188; the packet completes once the request of every write and add to another device has its reply (R64). -/
def State.packetAdds (s : State) (c : BitVec 6) (q : BitVec 8) (a : Admitted) (b : CopyBlock) : State :=
  let e := a.eng c
  let keep (x : EngStep) (stage : Nat) : State :=
    x.s.setPacketJob c q { a with logged := if x.finished then [] else x.logged
                                  stage := if x.finished then stage else a.stage }
  if a.stage = 3 then (if s.engOutstanding e.core a.id then s else s.finishPacket c q a.id)
  else if a.stage = 1 then
    if b.ctr = 0 then s.setPacketJob c q { a with stage := 2 } else keep (engAdd s e a.logged b.ctr b.addend) 2
  else
    match bindAll s e.core e.ctx with
    | (s, some (_, line)) => keep (s.engLogOnce e a.logged 4 line) 2
    | (s, none) =>
      let x := engAdd s { e with src := 6 } a.logged (field64 a.packet 16) (field64 a.packet 24)
      keep x 3

/-- One step of a copy packet (R65, R377): the control block of one that was restored from an area alone is read
again (notes/assumptions/79.md); the Sector bytes are asked for, the copy engine is busy for a number of cycles that is
timing (R468; notes/assumptions/61.md), the bytes are copied, then the counter adds follow. -/
def State.copyPacket (s : State) (c : BitVec 6) (q : BitVec 8) (a : Admitted) : State :=
  match a.job with
  | none =>
    match packetBlock s c (some q) (field64 a.packet 8) with
    | (s, .ok (.copy b)) => (s.clearFetches c q).setPacketJob c q { a with job := some b.job }
    | (s, .bad va) => ((s.clearFetches c q).setPacketJob c q { a with logged := [1], restored := false }).stopQueue c q 0x0007 0 va
    | (s, .ok _) => s
    | (s, .waits) => s
  | some j =>
    if !a.started then
      match copyAsk (s.stall a.core c 10 (Config.copyCycles a.id)) (a.eng c) j.b with
      | (s, more) => s.setPacketJob c q { a with started := true, restored := false, fetched := more }
    else if a.stage = 0 then
      if s.engFetching (a.eng c) then s
      else (copyBytes s (a.eng c) j.b a.fetched j.b.dest).setPacketJob c q { a with stage := 1, logged := [] }
    else s.packetAdds c q a j.b

/-- The steps of a copy packet as far as they go at once. -/
def State.copyPacketGo (s : State) (c : BitVec 6) (q : BitVec 8) (idx : Word) : Nat → State
  | 0 => s
  | n + 1 =>
    match s.packet? c q idx with
    | some a => if packetType a.packet = 2 ∧ s.packetGoes c a ∧ !(a.job.isNone && a.logged.contains 1) then (s.copyPacket c q a).copyPacketGo c q idx n else s
    | none => s

/-- `COPY_PACKET_PERFORM` (R65). -/
def execCopyPacketPerform (ctx : BitVec 6) (q : BitVec 8) (idx : Word) (s : State) : Out :=
  .next (s.copyPacketGo ctx q idx 6)

end Sys2Proof.Machine
end

