-- ==== Sys2Proof/Machine/Launch.lean ====
section
/-! DEFINITION. Teams of a launch: where they are placed and in what order (R83 to R87, R474, R475), how they
end (R88), and the completion of the launch (R89, R90). -/

namespace Sys2Proof.Machine

/-! ### Seats -/

/-- The core, quarter and slot of each wave of a team in the given quarters (R83, R85). The spec does not say which slot
a wave takes, nor how the slots 0 to 127 of R467 are shared out: the model takes the lowest free one of the quarter,
and quarter r has the slots 32r to 32r + 31 (notes/assumptions/76.md). -/
def State.seats (s : State) (k : Kernel) (core : Nat) (quarters : List Nat) : List (Nat × Nat × Nat) :=
  quarters.foldl (fun acc q =>
    let c := placedCore k core q
    let r := q % 4
    let used := (s.residents c r).map (·.2.slot) ++
      (acc.filter fun x => x.1 == c && x.2.1 == r).map (·.2.2)
    acc ++ [(c, r, ((upTo 32).map fun i => 32 * r + i).find? (fun n => !used.contains n) |>.getD (32 * r))]) []

/-- A wave takes its seat; its gangs wait for a place in the active set (R117). -/
def Wave.sit (w : Wave) (seat : Nat × Nat × Nat) (seq : Nat) : Wave :=
  { w with
    core := seat.1, quarter := seat.2.1, slot := seat.2.2, seq := seq
    gangs := w.gangs.map fun g => { g with active := false, slotFree := 0 } }

/-- Gangs enter the active set of their quarter while it has places (R117). -/
def enterActive : Nat → List Gang → List Gang
  | _, [] => []
  | 0, g :: gs => g :: enterActive 0 gs
  | n + 1, g :: gs => { g with active := true } :: enterActive n gs

/-- The gangs of a wave that was just placed enter the active set (R117). -/
def State.activate (s : State) (t w : Nat) : State :=
  let x := s.wave t w
  s.modWave t w fun y => { y with gangs := enterActive (8 - activeCount s x.core x.quarter) y.gangs }

/-- All waves of a team become resident at once (R83). Their age among each other is in WAVEID order
(notes/assumptions/76.md). -/
def State.seatTeam (s : State) (t core : Nat) (quarters : List Nat) : State :=
  let x := s.team t
  let seats := s.seats x.kernel core quarters
  let id := s.nextId
  let s := s.modTeam t fun x =>
    { x with
      core := core, phase := .live
      waves := (x.waves.zip seats).mapIdx fun i y => y.1.sit y.2 (id + i) }
  (upTo x.waves.length).foldl (fun s w => s.activate t w) { s with nextId := id + x.waves.length }

/-! ### New teams -/

/-- A quad of a new team (R86). -/
def Launch.quad (l : Launch) : Quad :=
  let (x, y, z) := packetTeams l.packet
  let q := { Quad.start with pc := l.kernel.entry, seed := l.kernel.seed }
  (((q.setSN 0 (field64 l.packet 16)).setSN 1 (BitVec.ofNat 64 (field l.packet 36 4))).setSN 2
    (BitVec.ofNat 64 (x + y * 2 ^ 32))).setSN 3 (BitVec.ofNat 64 z)

/-- A wave of a new team, before it has a seat (R86, R101). -/
def Launch.wave (l : Launch) (wid : Nat) : Wave :=
  { Wave.blank with
    wid := wid, wdog := l.kernel.wdog, stopped := false
    gangs := [{ base := 0, lg := l.kernel.lgwave, active := false, slotFree := 0 }]
    quads := List.replicate (2 ^ l.kernel.lgwave) l.quad }

/-- The next team of a launch (R84, R86): its scratchpad and its counter are 0. -/
def Launch.team (l : Launch) (n : Nat) : Team :=
  { Team.blank with
    ctx := l.ctx, launch := n, kernel := l.kernel, teamid := BitVec.ofNat 32 l.next, gridid := l.gridid
    waves := (upTo l.kernel.waves).map l.wave }

/-- The fetch of a pushed line (R87): one that lies in a Sector window is asked for, and comes with its first fetch
(R438; notes/assumptions/83.md); a poisoned one is logged and skipped (R160). -/
def pushFetch (s : State) (core : Nat) (c : BitVec 6) (va : Word) : State :=
  match fetchWord s core c va with
  | (s, .word _) => s
  | (s, .check _) => s
  | (s, .fault f) =>
    if f.cause = .trans .poison then s.log c { LogEntry.plain 0x0006 1 0 va with core := core } else s
  | (s, .remote a w off) =>
    match sendRemote s c w off (.engine walkerCore 0 0) a (.read 128) with
    | (s, some _) => s
    | (s, none) => s.log c { LogEntry.plain 0x0006 7 0 a with core := core }

/-- A core loads a pushed line into its L1; a line that cannot be fetched is skipped (R87, R162). -/
def pushLine (s : State) (core : Nat) (c : BitVec 6) (va : Word) : State :=
  match translate s core c va .fetch with
  | (s, .error f) =>
    if f.cause = .poison then s.logFault c f { LogEntry.plain 0 1 0 va with core := core } else s
  | (s, .ok (_, e)) =>
    if e.verified then pushFetch s core c va
    else
      match pageChecks s c e with
      | (s, true) => pushFetch (s.verifyPage core c e.base) core c va
      | (s, false) => s

/-- The cores of a team. -/
def Team.coresOf (t : Team) : List Nat := if t.kernel.pair then [t.core, t.core + 1] else [t.core]

/-- The pushes of a launch whose first team reaches a core (R87). -/
def State.pushLines (s : State) (t : Nat) : State :=
  let x := s.team t
  let seen (core : Nat) : Bool := (upTo t).any fun u =>
    (s.team u).launch == x.launch && (s.team u).coresOf.contains core
  (x.coresOf.filter fun core => !seen core).foldl
    (fun s core => x.kernel.push.foldl (fun s va => pushLine s core x.ctx va) s) s

/-- The placement record of a team (R474). -/
def State.recordPlacement (s : State) (t : Nat) : State :=
  let x := s.team t
  if (s.ctx x.ctx).lnActive = 1 then
    s.logAppend x.ctx 128 (x.gridid.toNat + x.teamid.toNat * 2 ^ 32) x.core
  else s

/-! ### Teams that are placed again (R431) -/

/-- A wait that a saved quad keeps: timers start afresh; other waits are found again when the quad issues
(R120, R132). -/
def QWait.restart (w : QWait) (clk : Nat) : QWait :=
  match w with
  | .jwait j _ => .jwait j clk
  | .fuse w _ => .fuse w clk
  | .counter x =>
    .counter { x with elapsed := 0, woken := 0, status := none, spilled := false, request := none, cancelled := false }
  | .interlock n => .interlock n
  | .landed n => .landed n
  | .unhandled => .unhandled
  | .ready | .header _ _ _ | .engineFull | .structural | .codeCheck | .drain _ | .promote _ _ _ | .fetch _ =>
    .ready

/-- A saved quad before its first issue. -/
def Quad.restart (q : Quad) (clk : Nat) : Quad := { q with wait := q.wait.restart clk, drainSt := .idle, fetched := [] }

/-- Saved bytes of a line that is held again; bytes that the core holds already stay (R431). -/
def HeldLine.mergeUnder (h : HeldLine) (old : Option HeldLine) : HeldLine :=
  match old with
  | none => h
  | some o =>
    { o with
      mask := o.mask ||| h.mask
      sources := Vector.ofFn fun i =>
        if o.mask.extractLsb' (8 * i.val) 8 = 0 then h.sources[i] else o.sources[i]
      data := Vector.ofFn fun i => if o.mask.getLsbD i.val then o.data[i] else h.data[i]
      writers := o.writers ++ h.writers.filter fun w => !o.writers.contains w }

/-- A saved held line is held by the new core, to be bound at its next release (R431). -/
def State.holdAgain (s : State) (core : Nat) (h : HeldLine) : State :=
  s.modCore core fun k =>
    let h := { h with bound := none }.mergeUnder (k.heldLine h.ctx h.line)
    let k := (k.dropClean h.ctx h.line).dropHeld h.ctx h.line
    { k with held := h :: k.held }

/-- A saved overflow entry waits in the core's overflow queue and is sent again (R214). The save area does not name the
wave that issued it: a poisoned line is reported to wave 0 (notes/assumptions/31.md). -/
def State.overflowAgain (s : State) (t : Nat) (bs : List Byte) : State :=
  let x := s.team t
  let info := field64 bs 24
  match AccOp.ofCode (slice info 3 0), AccTy.ofCode (slice info 7 4) with
  | some op, some ty =>
    let a : Acc :=
      { id := s.nextId, oldest := 0, ctx := x.ctx, core := x.core, team := t, wave := 0, quad := 0
        addr := field64 bs 0, pa := 0, op := op, ty := ty
        value := BitVec.ofNat 128 (field bs 8 ty.width), count := slice info 47 32, cls := .forced
        phase := .overflow, seq := 0, low := false, rel := x.fenced, walk := none }
    ({ s.bumpId with accs := s.accs ++ [a] } : State).sendOverflow a.id
  | _, _ => s

/-- The core whose engines perform what a wave of a team left: that of the wave, or of the team when it has no waves. -/
def State.engineCore (s : State) (t w : Nat) : Nat :=
  let x := s.team t
  if w < x.waves.length then (x.wave w).core else x.core

/-- A saved walk claims its record again, which must still be in state saved, and runs (R227); a record that another
walk has claimed meanwhile, or that breaks a limit of R225, refuses it (notes/assumptions/31.md, notes/assumptions/34.md).
One that cannot be read or written ends it in state faulted. The engine claims a record in a Sector window. A walk whose
claim a replay holds is not placed yet (R475). -/
def State.walkAgain (s : State) (t : Nat) (w : Walk) : State × List Walk :=
  let core := s.engineCore t w.wave
  let w := { w with team := t, check := none, fetched := [], logged := [], want := none
                    stack := [], buffer := none, steps := 0, active := false }
  let join (s : State) (w : Walk) : State := s.modCore core fun k => { k with walks := k.walks ++ [w] }
  match locate s core w.ctx 0 w.record 256 .store with
  | (s, .error f) => (s.loseWalk core w (walkFaultOf f), [])
  | (s, .ok l) =>
    match l.sector, l.hbm with
    | some _, _ =>
      (join s { w with want := some { kind := .restore, depth := 0, ctl := 4 * 2 ^ 16, claimed := false } }, [])
    | none, none => (s.loseWalk core w (walkPoison w.record), [])
    | none, some (pa, va) =>
      match poisonedByte s core w.ctx va pa 256 with
      | some a => (s.loseWalk core w (walkPoison a), [])
      | none =>
        let s := flushLine s core w.ctx (va + 128)
        let ctl := (s.word (pa + 160)).toNat
        let bs := (upTo 256).map fun i => viewByte s core w.ctx (va + BitVec.ofNat 64 i) (pa + i)
        if !ClaimKind.restore.takes (ctlState ctl) || badRecord bs then (s.refuseWalk core w, [])
        else
          match s.orderOne w.ctx (pa + 128) { atomicOrder core (va + 128) with req := coreReq core 2 } with
          | .error s => (s, [w])
          | .ok s =>
            let now := leBytes 8 (ClaimKind.restore.control 0 ctl)
            let w := w.load bs
            (join (s.homeWrite w.ctx (pa + 160) now 3) { w with image := putImage w.image 160 now }, [])

/-- The carried lines and engine entries of a team go to its core (R431). -/
def State.unload (s : State) (t : Nat) : State :=
  let c := (s.team t).carried
  let s := s.modTeam t fun x => { x with carried := { x.carried with held := [], entries := [] } }
  let s := c.held.foldl (fun s h => s.holdAgain (s.team t).core h) s
  c.entries.foldl (fun s e =>
    s.modEngine (s.engineCore t e.2.wave) (BitVec.ofNat 3 e.1) (· ++ [{ e.2 with team := t }])) s

/-- What a team still carries is placed while the limits of its core allow: overflow entries under R199, and
walks while the engine holds fewer than 256 (R214, R232, R431). -/
def State.restock (s : State) (t : Nat) : State :=
  let c := (s.team t).carried
  if c.held.isEmpty && c.entries.isEmpty && c.overflow.isEmpty && c.walks.isEmpty then s
  else
    let s := s.unload t
    let put (x : State × List (List Byte)) (bs : List Byte) : State × List (List Byte) :=
      if x.1.outstanding (x.1.team t).core < 64 then (x.1.overflowAgain t bs, x.2) else (x.1, x.2 ++ [bs])
    let run (x : State × List Walk) (w : Walk) : State × List Walk :=
      if (x.1.core (x.1.engineCore t w.wave)).walks.length < 256 then
        match x.1.walkAgain t w with
        | (s, left) => (s, x.2 ++ left)
      else (x.1, x.2 ++ [w])
    match c.overflow.foldl put (s, []) with
    | (s, overflow) =>
      match c.walks.foldl run (s, []) with
      | (s, walks) =>
        s.modTeam t fun x => { x with carried := { x.carried with overflow := overflow, walks := walks } }

/-- Every resident team that still carries something from its save (R431). -/
def State.restockAll (s : State) : State :=
  (upTo s.teams.length).foldl (fun s t => if (s.team t).resident then s.restock t else s) s

/-- A saved forced-fuse wait takes its width from word 1 of its instruction (R114, R120, R428). Where that word lies in
no memory of this device that can be read, the gang meets the instruction again (notes/assumptions/35.md). -/
def State.fuseAgain (s : State) (t w n : Nat) : State :=
  match (s.quad t w n).wait with
  | .fuse 7 since =>
    let wait : QWait :=
      match codeAt s (s.team t).ctx ((s.quad t w n).pc + 4) with
      | some x => .fuse (min (slice (zext x) 3 1) (s.team t).kernel.lgwave) since
      | none => .ready
    s.modQuad t w n fun q => { q with wait := wait }
  | _ => s

/-- A saved trap handler runs a trap of the log source that its cause or its instruction gives (R491). -/
def State.sourceAgain (s : State) (t w n : Nat) : State :=
  let q := s.quad t w n
  let cause := slice q.trapinfo 59 54
  if !q.inHandler then s
  else if 0x31 ≤ cause ∧ cause ≤ 0x38 then s.modQuad t w n fun q => { q with trapSrc := 5 }
  else
    match codeAt s (s.team t).ctx q.trappc with
    | some x => s.modQuad t w n fun q => { q with trapSrc := srcOf x }
    | none => s

/-- A saved counter wait is evaluated again as at issue (R132, R472). -/
def State.waitAgain (s : State) (t w n tag : Nat) : State :=
  match (s.quad t w n).cwait? with
  | none => s
  | some x =>
    let core := (s.wave t w).core
    let set (s : State) (y : CWait) : State :=
      s.modQuad t w n fun q => { q with wait := .counter { y with tag := tag } }
    let ready (s : State) : State := s.modQuad t w n fun q => { q with wait := .ready }
    match x.kind with
    | .bar => (set s x).modQuad t w n (·.barAgain (s.team t))
    | .cwait | .kwaitFull | .kwaitFree =>
      match locate s core (s.team t).ctx (s.team t).kernel.scratchBytes x.addr 8 .counterGet with
      | (s, .error _) => ready s
      | (s, .ok l) =>
        let y := { x with loc := l.counterLoc, cap := l.cap }
        let c := (s.team t).ctx
        if s.poisonAt l then ready s
        else if s.passes t x.kind x.target l then
          match s.orderAll c (orderOps s core [l]) with
          | .ok s => set (s.useCounters c [l]) { y with status := some 0 }
          | .error s => set s { y with spilled := s.spills core tag x.addr x.target }
        else
          match y.loc with
          | .remote v off =>
            match sendRemote s c v off (.wait t w n) x.addr (.wait x.target x.acq true) with
            | (s, some r) => set s { y with request := some r }
            | (s, none) => set (s.logFor c [(t, w, n)] 0x0006 7 x.addr) { y with status := some 2 }
          | .hbm _ | .scratch _ | .team =>
            set (s.useCounters c [l]) { y with spilled := s.spills core tag x.addr x.target }

/-- The saved waits of a wave, gang by gang (R132). -/
def State.waitsAgain (s : State) (t w : Nat) : State :=
  (s.wave t w).gangs.foldl (fun s g =>
    let tag := s.nextId
    let qs := (upTo (2 ^ g.lg)).map (g.base + ·)
    let s := qs.foldl (fun s n => s.waitAgain t w n tag) s.bumpId
    if qs.any fun n => (s.quad t w n).released then s.resumeWaits t w tag else s) s

/-- What the device does before a restored team's first issue (R120, R431). -/
def State.restoreTeam (s : State) (t : Nat) : State :=
  let s := s.modTeam t fun x =>
    { x with
      tiles := []
      waves := x.waves.map fun (w : Wave) => { w with quads := w.quads.map (·.restart s.clk) } }
  let s := s.restock t
  (upTo (s.team t).waves.length).foldl (fun s w =>
    let s := (upTo (s.wave t w).quads.length).foldl (fun s n => (s.fuseAgain t w n).sourceAgain t w n) s
    (s.waitsAgain t w).fuseTest t w) s

/-! ### Placement -/

/-- What a launch would place next (R84, R431). -/
inductive NextTeam where
  | none
  | new
  | saved (team : Nat)
  deriving DecidableEq, Repr

/-- The saved team of a launch with the lowest TEAMID (R84, R431). -/
def State.firstSaved (s : State) (launch : Nat) : Option Nat :=
  (upTo s.teams.length).foldl (fun best t =>
    let x := s.team t
    if x.launch = launch ∧ x.phase = .saved then
      match best with
      | some b => if x.teamid < (s.team b).teamid then some t else some b
      | none => some t
    else best) none

/-- The next team of a launch: a saved one goes before every unstarted team of its context (R431). -/
def State.nextTeam (s : State) (launch : Nat) : NextTeam :=
  match s.launches[launch]? with
  | none => .none
  | some l =>
    if (s.ctx l.ctx).phase ≠ .running then .none
    else
      match s.firstSaved launch with
      | some t => .saved t
      | none => if l.state = .dispatching ∧ l.next < l.total ∧ !s.restoring l.ctx then .new else .none

/-- The core of the last placement record of a team (R474, R475), among the first `n` records; a record whose reserved
word is not zero is none (R11). -/
def lastPlacement (s : State) (c : BitVec 6) (grid team : BitVec 32) : Nat → Option Nat
  | 0 => none
  | n + 1 =>
    let a := (s.ctx c).segment 128 + BitVec.ofNat 64 (64 + 16 * n)
    let core := logWord s c (a + 8)
    if logWord s c a = grid.toNat + team.toNat * 2 ^ 32 ∧ core < 2 ^ 32 then some core
    else lastPlacement s c grid team n

/-- The core that a replay fixes for a team (R475). -/
def State.replayCore (s : State) (c : BitVec 6) (grid team : BitVec 32) : Option Nat :=
  let x := s.ctx c
  if x.lnActive = 2 && !x.lnDiverged then
    lastPlacement s c grid team (logWord s c (x.segment 128))
  else none

/-- The TEAMID of what a launch would place next. -/
def NextTeam.id (x : NextTeam) (s : State) (l : Launch) : BitVec 32 :=
  match x with
  | .saved t => (s.team t).teamid
  | .new | .none => BitVec.ofNat 32 l.next

/-- The next team of a launch fits somewhere, or, in a replay, on its core (R83, R475). -/
def State.fitsNow (s : State) (launch : Nat) : Bool :=
  match s.nextTeam launch, s.launches[launch]? with
  | .none, _ => false
  | _, none => false
  | x, some l =>
    match s.replayCore l.ctx l.gridid (x.id s l) with
    | some core => s.coreHasRoom l.kernel core
    | none => s.hasRoom l.kernel

/-- No launch of the context that was admitted earlier has a team that fits (R84). -/
def State.isTurn (s : State) (launch : Nat) (c : BitVec 6) : Bool :=
  (upTo launch).all fun n =>
    match s.launches[n]? with
    | some l => l.ctx != c || !s.fitsNow n
    | none => true

/-- The launch has placed one more team (R81). -/
def Launch.placed (l : Launch) : Launch :=
  { l with next := l.next + 1, state := if l.next + 1 = l.total then .running else l.state }

/-- A new team of a launch starts on a core (R81, R86, R87). -/
def State.startTeam (s : State) (launch core : Nat) (l : Launch) (quarters : List Nat) : State :=
  let t := s.teams.length
  let s := { s with teams := s.teams ++ [l.team launch] }
  (((s.seatTeam t core quarters).pushLines t).recordPlacement t).modLaunch launch Launch.placed

/-- `TEAM_PLACE` (R83, R84, R431). The core and the quarters are the device's choice (R28); a choice that does
not fit places nothing. -/
def execTeamPlace (launch core : Nat) (quarters : List Nat) (s : State) : Out :=
  .next
    (match s.launches[launch]? with
     | none => s
     | some l =>
       let x := s.nextTeam launch
       let chosen : Bool :=
         match s.replayCore l.ctx l.gridid (x.id s l) with
         | some k => k == core
         | none => true
       if chosen && s.isTurn launch l.ctx && s.teamFits l.kernel core quarters then
         match x with
         | .none => s
         | .new => s.startTeam launch core l quarters
         | .saved t =>
           (((s.seatTeam t core quarters).pushLines t).restoreTeam t).recordPlacement t
       else s)

/-! ### The end of a team -/

/-- A Sector request belongs to the operations of a team (R88). An engine's writes and adds are known by
their core. -/
def Request.ofTeam (r : Request) (x : Team) (t : Nat) : Bool :=
  match r.who with
  | .load u _ _ _ => u == t
  | .store u _ _ => u == t
  | .wait u _ _ => u == t
  | .fetch u _ _ => u == t
  | .tender _ => false
  | .engine core _ _ =>
    r.ctx == x.ctx && x.coresOf.contains core &&
      (match r.body.kind with
       | .wait _ _ _ => false
       | .read _ | .write _ | .atomic _ _ _ _ _ _ | .accum _ _ _ _ | .get _ | .add _ _ | .cancel _ => true)

/-- Everything the waves of a team issued has been performed, but for residuals (R88). -/
def State.teamQuiet (s : State) (t : Nat) : Bool :=
  let x := s.team t
  x.waves.all (fun w => w.quads.all fun q => q.exited && q.pends.isEmpty) &&
    x.coresOf.all (fun core =>
      (s.core core).queues.toList.all (fun l => l.all fun e => e.team != t) &&
        (s.core core).walks.all fun w => w.team != t) &&
    s.accs.all (fun a => a.team != t || decide (a.phase = .overflow)) &&
    s.requests.all fun r => !r.ofTeam x t

/-- The launch of a team that has ended (R81, R90, R92). -/
def Launch.teamEnded (l : Launch) (resident : Bool) : Launch :=
  let l := { l with ended := l.ended + 1 }
  match l.state with
  | .dispatching | .running | .quiescing => if l.ended = l.total then { l with state := .completing } else l
  | .aborting => if resident then l else { l with state := .completing }
  | .completing | .completed | .saved | .discarded | .faulted => l

/-- A team's scratchpad, slots and registers are freed (R88). -/
def State.freeTeam (s : State) (t : Nat) : State :=
  let x := s.team t
  let s := s.modTeam t fun x => { x with phase := .ended, waves := [], scratch := [], tiles := [] }
  let resident := s.teams.any fun y =>
    y.launch == x.launch && (decide (y.phase = .live) || decide (y.phase = .stopped))
  let s := s.modLaunch x.launch fun l => l.teamEnded resident
  x.coresOf.foldl (fun s core => s.wake core) s

/-- `TEAM_END` (R88, R210, R213): residuals are delivered before the team is freed. Those of an aborted launch, whose
delivery has no instruction that could fault, are tried again until they translate or the context is reset
(notes/assumptions/81.md). -/
def execTeamEnd (team : Nat) (s : State) : Out :=
  .next
    (let x := s.team team
     if x.resident ∧ s.teamQuiet team ∧ s.restored team then
       if s.needsDrain team then s.pumpDrain team s.nextId else s.freeTeam team
     else s)

/-! ### Completion -/

/-- The cores that held a team of a launch. -/
def State.launchCores (s : State) (launch : Nat) : List Nat :=
  sortNats (s.teams.flatMap fun t => if t.launch = launch then t.coresOf else [])

/-- The number under which the dispatcher sends a launch's completion add to another device. -/
def completionId (launch : Nat) : Nat := 2 ^ 64 + launch

/-- Every store of the launch's cores for the context reaches its home slice (R89): a line that cannot be
bound stays held. -/
def State.settleStores (s : State) (c : BitVec 6) (cores : List Nat) : State :=
  cores.foldl (fun s core =>
    let s := ((s.core core).held.filter fun h => h.ctx == c && h.bound.isNone).foldl
      (fun s h => (bindLine s core h).1) s
    writeBackBound s core c) s

/-- The launch is completed: its packet leaves its queue, and an interrupt it asks for is raised (R45,
R81). -/
def State.finishLaunch (s : State) (n : Nat) (l : Launch) : State :=
  let s := s.modLaunch n fun l => { l with state := .completed }
  match (s.queue l.ctx l.queue).admitted.find? fun a => a.index == l.index && a.packet == l.packet with
  | some a => s.finishPacket l.ctx l.queue a.id
  | none => if l.irq then s.raise l.ctx 0 else s

/-- `LAUNCH_COMPLETION_ADD` (R89, R90, R93): one counter add with a system-scope release, after every effect
of the launch. An add that leaves on a Sector link completes with its reply. -/
def execLaunchCompletionAdd (launch : Nat) (s : State) : Out :=
  .next
    (match s.launches[launch]? with
     | none => s
     | some l =>
       if l.state ≠ .completing then s
       else if l.sent then (if s.packetAsked (completionId launch) then s else s.finishLaunch launch l)
       else
         let cores := s.launchCores launch
         let s := s.settleStores l.ctx cores
         if cores.any fun core => s.awaitsSector core l.ctx then s
         else
           match dispatchAdd s l.ctx l.compAddr l.addend (.engine dispatcherCore (completionId launch) 0) with
           | .held s => s
           | .sent s _ => s.modLaunch launch fun l => { l with sent := true }
           | .over s => s.finishLaunch launch l)

/-! ### Replay -/

/-- An arrival at a slice has waited 1 ms in the replay of a context (R476). -/
def State.arrivalLate (s : State) (c : BitVec 6) (slice : Nat) : Bool :=
  let x := s.ctx c
  x.lnActive == 2 && !x.lnDiverged &&
    ((s.sliceAt slice).replayOf c).waits.any fun w => decide (w.since + 1000 * microsecond ≤ s.wall)

/-- `REPLAY_ARRIVAL_TIMEOUT` (R476): an arrival at a slice has waited 1 ms in a replay. -/
def execReplayArrivalTimeout (ctx : BitVec 6) (slice : Nat) (s : State) : Out :=
  .next (if s.arrivalLate ctx slice then s.diverge ctx else s)

end Sys2Proof.Machine
end

