-- ==== Sys2Proof/Machine/Mask.lean ====
section
/-! DEFINITION. Predicate, mask and join instructions but `jst` and `jld` (R314 to R317, R106 to
R112). -/

namespace Sys2Proof.Machine

/-- A predicate instruction (R315): p[vd] in the active lanes. -/
def predStep (s : State) (o : LaneOp) (opnds : List Opnd) (f : Quad → Nat → Lane → Bool) : Out :=
  laneQuads s o opnds cycles32 fun _ q => q.mapLanes fun i l =>
    if q.active o i then l.setP o.vd.toNat (f q i l) else l

/-- Two predicate sources. -/
def pred2 (s : State) (o : LaneOp) (f : Bool → Bool → Bool) : Out :=
  predStep s o [.p o.vd, .p o.va, .p o.vb] fun _ _ l => f (l.rp o.va.toNat) (l.rp o.vb.toNat)

/-- `pand` (R315). -/
def execPand (o : LaneOp) (s : State) : Out := pred2 s o fun a b => a && b
/-- `por` (R315). -/
def execPor (o : LaneOp) (s : State) : Out := pred2 s o fun a b => a || b
/-- `pxor` (R315). -/
def execPxor (o : LaneOp) (s : State) : Out := pred2 s o fun a b => a != b
/-- `pandn` (R315). -/
def execPandn (o : LaneOp) (s : State) : Out := pred2 s o fun a b => a && !b
/-- `pnot` (R315). -/
def execPnot (o : LaneOp) (s : State) : Out :=
  predStep s o [.p o.vd, .p o.va] fun _ _ l => !l.rp o.va.toNat
/-- `pset` (R315). -/
def execPset (o : LaneOp) (bit : Bool) (s : State) : Out := predStep s o [.p o.vd] fun _ _ _ => bit
/-- `pfroms` (R315). -/
def execPfroms (o : LaneOp) (s : State) : Out :=
  predStep s o [.p o.vd, .s o.va] fun q i _ => (q.rsN o.va.toNat).getLsbD i

/-- The four predicate bits of a quad (R315). -/
def Quad.predBits (q : Quad) (n : Nat) : Nat :=
  (upTo 4).foldl (fun x i => if (q.lane i).rp n then x + 2 ^ i else x) 0

/-- `ptos` (R315): every quad, whatever `em`. -/
def execPtos (o : LaneOp) (s : State) : Out :=
  laneQuads s o [.s o.vd, .p o.va] cycles32 fun _ q =>
    q.setSN o.vd.toNat (BitVec.ofNat 64 (q.predBits o.va.toNat))

/-- `pmtop` (R315): every lane that passes the guard, whatever `em`. -/
def execPmtop (o : LaneOp) (s : State) : Out :=
  laneQuads s o [.p o.vd] cycles32 fun _ q => q.mapLanes fun i l =>
    if guardOk o l then l.setP o.vd.toNat (q.emBit i) else l

/-- A 4-bit mask from a test of each lane. -/
def mask4 (f : Nat → Bool) : BitVec 4 :=
  BitVec.ofNat 4 ((upTo 4).foldl (fun x i => if f i then x + 2 ^ i else x) 0)

/-- A mask instruction (R316): the new `em` bit of every lane that passes the guard. -/
def maskStep (s : State) (o : LaneOp) (opnds : List Opnd) (f : Quad → Nat → Bool) : Out :=
  laneQuads s o opnds cycles32 fun _ q =>
    { q with em := mask4 fun i => if guardOk o (q.lane i) then f q i else q.emBit i }

/-- `pmand` (R316). -/
def execPmand (o : LaneOp) (s : State) : Out :=
  maskStep s o [.p o.va] fun q i => q.emBit i && (q.lane i).rp o.va.toNat
/-- `pmandn` (R316). -/
def execPmandn (o : LaneOp) (s : State) : Out :=
  maskStep s o [.p o.va] fun q i => q.emBit i && !(q.lane i).rp o.va.toNat
/-- `pmor` (R316). -/
def execPmor (o : LaneOp) (s : State) : Out :=
  maskStep s o [.p o.va] fun q i => q.emBit i || (q.lane i).rp o.va.toNat
/-- `pmset` (R316). -/
def execPmset (o : LaneOp) (s : State) : Out :=
  maskStep s o [.s o.va] fun q i => (q.rsN o.va.toNat).getLsbD i
/-- `pmtos` (R316). -/
def execPmtos (o : LaneOp) (s : State) : Out :=
  laneQuads s o [.s o.vd] cycles32 fun _ q => q.setSN o.vd.toNat (zext q.em)

/-! ### Join registers -/

/-- exp of a join slice (R105). -/
def Quad.expected (q : Quad) (j : Nat) : BitVec 4 := (q.join j).extractLsb' 0 4

/-- arr of a join slice (R105). -/
def Quad.arrived (q : Quad) (j : Nat) : BitVec 4 := (q.join j).extractLsb' 4 4

/-- An instruction that writes the slices of the gang's quads; the waits of R107 are tested again
(R110, R112). -/
def joinStep (s : State) (o : LaneOp) (f : Quad → Byte) : Out :=
  laneStep s o [.j o.vd] fun _ s g =>
    (s.mapGang g fun _ q => q.setJoin o.vd.toNat (f q)).retire g 3 (cycles32 g) .count

/-- `jset` (R106). -/
def execJset (o : LaneOp) (s : State) : Out := joinStep s o fun q => 0#4 ++ q.em
/-- `jarr` (R106). -/
def execJarr (o : LaneOp) (s : State) : Out :=
  joinStep s o fun q =>
    (q.arrived o.vd.toNat ||| (q.em &&& q.expected o.vd.toNat)) ++ q.expected o.vd.toNat
/-- `jdrop` (R106). -/
def execJdrop (o : LaneOp) (s : State) : Out :=
  joinStep s o fun q => (q.arrived o.vd.toNat &&& ~~~q.em) ++ (q.expected o.vd.toNat &&& ~~~q.em)

/-- `jwait` (R106 to R110): every quad parks at it, under the timer of the arrived set that it joins; the set is
released at once when nothing holds it back. -/
def execJwait (o : LaneOp) (s : State) : Out :=
  laneStep s o [.j o.vd] fun _ s g =>
    let j := o.vd.extractLsb' 0 3
    let since := (s.waveOf g).jwaitSince j (s.leader g).pc s.clk
    ((s.hold g (.jwait j since)).account g (cycles32 g) .count).regang g

end Sys2Proof.Machine
end

