-- ==== Sys2Proof/Machine/Nest.lean ====
section
/-! DEFINITION. Loop nests (R378 to R381): the `lnest` instructions, and the events in which an engine
queue performs an element or meets its fault. -/

namespace Sys2Proof

/-- The trip count of a level; an absent level counts as 1 (R288, R378). -/
def Level.trips (l : Level) : Nat := max 1 l.extent.toNat

/-- A stride in elements (R288). -/
def strideOf (f : BitVec 10) : Int :=
  let m : Int := (f.extractLsb' 0 6).toNat * 2 ^ (f.extractLsb' 6 3).toNat
  if f.getLsbD 9 then -m else m

/-- The number of elements (R380). -/
def Nest.count (n : Nest) : Nat := n.levels.foldl (fun k l => k * l.trips) 1

/-- The sum of index times stride over the levels, for linear index `n` (R378). -/
def nestOffset (pick : Level → BitVec 10) : List Level → Nat → Int
  | [], _ => 0
  | l :: ls, n => ((n % l.trips : Nat) : Int) * strideOf (pick l) + nestOffset pick ls (n / l.trips)

end Sys2Proof

namespace Sys2Proof.Machine

/-! ### Forms -/

/-- The operation is a reduction (R379). -/
def nestReduces (op : Nat) : Bool := decide (0x10 ≤ op)

/-- The operation uses operand Y (R379). -/
def nestUsesY (op : Nat) : Bool := !(op == 0x00 || op == 0x10 || op == 0x12 || op == 0x13)

/-- The type of the accumulator and of D (R379). -/
def nestAccTy (op : Nat) (t : ElemTy) : ElemTy :=
  if nestReduces op && (t == .f16 || t == .bf16) then .f32 else t

/-- Bytes of an element. -/
def elemBytes (t : ElemTy) : Nat := t.bits / 8

/-- The address of an operand's element `n` (R378). -/
def nestAddr (n : Nest) (base : Word) (size : Nat) (pick : Level → BitVec 10) (i : Nat) : Word :=
  base + BitVec.ofInt 64 (size * nestOffset pick n.levels i)

/-! ### Issue -/

/-- The checks of one quad at issue (R380): the alignment of the used bases and of the counter, then
the checks of R124 on the counter. -/
def nestQuad (s : State) (g : GangRef) (op : Nat) (x : Nest) (n : Nat) :
    State × Check NestBody :=
  let q := s.quadOf g n
  let r (i : Nat) : Word := q.rsN (x.sn.toNat + i)
  let size := elemBytes x.ty
  let dsize := elemBytes (nestAccTy op x.ty)
  let used : List (Word × Nat) :=
    [(r 0, dsize), (r 1, size)] ++ (if nestUsesY op then [(r 2, size)] else []) ++
      (if r 3 = 0 then [] else [(r 3, 8)])
  let b : NestBody :=
    { op := op, nest := x, s0 := r 0, s1 := r 1, s2 := r 2, s3 := r 3, s4 := r 4, seed := q.seed, n := 0
      ac := 0, acLoaded := false, stopped := false }
  match used.find? fun u => u.1.toNat % u.2 != 0 with
  | some u => (s, .fault { cause := .alignment, addr := u.1, tf := none })
  | none =>
    if r 3 = 0 then (s, .ok b)
    else
      match counterCheck s g n (r 3) .counterAdd with
      | (s, .error f) => (s, .fault f)
      | (s, .ok _) => (s, .ok b)

/-- `lnest` (R378 to R380): every quad whose `em` is not 0 places its entry. -/
def nestStep (op : Nat) (x : Nest) (s : State) : Out :=
  withGang s fun g =>
    let qs := (s.live g).filter fun n => (s.quadOf g n).em != 0
    s.checkedQuads g qs 5 (fun s n => nestQuad s g op x n) fun s bs =>
      if engineDepth < (s.engine (s.coreOf g) x.queue).length + bs.length then s.hold g .engineFull
      else
        let s := s.placeEntries g x.queue (bs.map fun y => (y.1, .nest y.2))
        (s.mapGang g fun _ q => q.reseed x.rnd).retire g 8 1 .count

/-- `lnest.copy` (R379). -/
def execLnestCopy (n : Nest) (s : State) : Out := nestStep 0x00 n s
/-- `lnest.add` (R379). -/
def execLnestAdd (n : Nest) (s : State) : Out := nestStep 0x01 n s
/-- `lnest.sub` (R379). -/
def execLnestSub (n : Nest) (s : State) : Out := nestStep 0x02 n s
/-- `lnest.mul` (R379). -/
def execLnestMul (n : Nest) (s : State) : Out := nestStep 0x03 n s
/-- `lnest.fma` (R379). -/
def execLnestFma (n : Nest) (s : State) : Out := nestStep 0x04 n s
/-- `lnest.min` (R379). -/
def execLnestMin (n : Nest) (s : State) : Out := nestStep 0x05 n s
/-- `lnest.max` (R379). -/
def execLnestMax (n : Nest) (s : State) : Out := nestStep 0x06 n s
/-- `lnest.sum` (R379). -/
def execLnestSum (n : Nest) (s : State) : Out := nestStep 0x10 n s
/-- `lnest.dot` (R379). -/
def execLnestDot (n : Nest) (s : State) : Out := nestStep 0x11 n s
/-- `lnest.rmax` (R379). -/
def execLnestRmax (n : Nest) (s : State) : Out := nestStep 0x12 n s
/-- `lnest.rmin` (R379). -/
def execLnestRmin (n : Nest) (s : State) : Out := nestStep 0x13 n s

/-! ### Elements -/

/-- An integer step (R379): sums and products wrap modulo 2^32. -/
def nestInt (op : Nat) (t : ElemTy) (d x y : Nat) : Nat :=
  let v (a : Nat) : Int := t.intOf a
  match op with
  | 0x00 => x
  | 0x01 => t.bitsOf (v x + v y)
  | 0x02 => t.bitsOf (v x - v y)
  | 0x03 => t.bitsOf (v x * v y)
  | 0x04 => t.bitsOf (v x * v y + v d)
  | 0x05 => intMin t x y
  | 0x06 => intMax t x y
  | 0x10 => t.bitsOf (v d + v x)
  | 0x11 => t.bitsOf (v d + v x * v y)
  | 0x12 => intMax t d x
  | _ => intMin t d x

/-- A float step (R379): one rounding to the type of the result; a copy moves the encoding (R246). -/
def nestFloat (op : Nat) (c : FpMode) (d x y : Nat) : Nat :=
  let acc := nestAccTy op c.ty
  let wide (a : Nat) : Nat := convert c.ty acc .rne 0 false false a
  let last (a : Num) : Nat := acc.fmt.roundTo c.rnd c.r false a
  match op with
  | 0x00 => x
  | 0x01 => c.add x y
  | 0x02 => c.sub x y
  | 0x03 => c.mul x y
  | 0x04 => c.fma x y d
  | 0x05 => c.min x y
  | 0x06 => c.max x y
  | 0x10 => last ((acc.fmt.decode d).add c.rnd (c.arg x))
  | 0x11 => last (((c.arg x).mul (c.arg y)).add c.rnd (acc.fmt.decode d))
  | 0x12 => acc.fmt.maxEncOf d (wide x)
  | _ => acc.fmt.minEnc d (wide x)

/-- The result of element `n` from D (or the accumulator), X and Y (R379). -/
def NestBody.compute (b : NestBody) (quad d x y : Nat) : Nat :=
  let t := b.nest.ty
  if t.isFloat then
    nestFloat b.op
      { ty := t, rnd := b.nest.rnd, r := stochOf b.nest.rnd b.seed (4 * quad) (b.n % 2 ^ 32), ftz := false }
      d x y
  else nestInt b.op t d x y

/-- Where a step of an entry stands: it has been taken, it waits for a Sector reply, or it faults. -/
inductive NestStep where
  | taken (b : NestBody)
  | waits
  | faults (cause : TrapCause) (addr : Word) (tf : Option TFault)
  deriving DecidableEq, Repr

/-- The loop-nest cause that matches a cause (R381, R410). -/
def TrapCause.toNest : TrapCause → TrapCause
  | .trans c => .nest c
  | c => c

/-- What a read of an operand gives (R380): its value, or where the step stands without it. -/
def nestRead (s : State) (e : Eng) (fetched : List (Nat × Option (List Byte))) (va : Word) (n : Nat) :
    State × Except NestStep Nat :=
  match engRead s s e fetched va.toNat va n with
  | (s, .bytes bs) => (s, .ok (leNat bs))
  | (s, .poison a) => (s, .error (.faults (.nest .poison) a none))
  | (s, .lost a) => (s, .error (.faults (.nest .poison) a (some (.of .poison))))
  | (s, .fault f) => (s, .error (.faults f.cause.toNest f.addr f.tf))
  | (s, .waits) =>
    if s.engAsked e va.toNat then (s, .error .waits)
    else
      match engAsk s e va.toNat va n with
      | (s, []) => (s, .error .waits)
      | (s, _ :: _) => (s, .error (.faults (.nest .poison) va (some (.of .poison))))

/-- The operands of an element (R380): D where it is read, X, and Y where it is used. -/
def nestOperands (s : State) (e : Eng) (fetched : List (Nat × Option (List Byte))) (b : NestBody) :
    State × Except NestStep (Nat × Nat × Nat) :=
  let size := elemBytes b.nest.ty
  match nestRead s e fetched (nestAddr b.nest b.s1 size Level.x b.n) size with
  | (s, .error r) => (s, .error r)
  | (s, .ok x) =>
    let y : State × Except NestStep Nat :=
      if nestUsesY b.op then nestRead s e fetched (nestAddr b.nest b.s2 size Level.y b.n) size
      else (s, .ok 0)
    match y with
    | (s, .error r) => (s, .error r)
    | (s, .ok y) =>
      if nestReduces b.op then (s, .ok (b.ac.toNat, x, y))
      else if b.op = 0x04 then
        match nestRead s e fetched (nestAddr b.nest b.s0 size Level.d b.n) size with
        | (s, .error r) => (s, .error r)
        | (s, .ok d) => (s, .ok (d, x, y))
      else (s, .ok (0, x, y))

/-- A destination of a nest lies in a poisoned line, of which it is never the whole (R160, R381). -/
def nestPoisoned (s : State) (e : Eng) (va : Word) (n : Nat) : Bool :=
  match engLocate s e va n 1 .store with
  | (s, .ok (.mem ps)) =>
    ps.any fun p =>
      decide (physKind p.1 = .hbm) &&
        (s.isPoisoned (lineOf p.1) || s.isPoisoned (lineOf (p.1 + p.2.1 - 1)))
  | _ => false

/-- A write of a nest, which changes nothing when it faults. One that goes to another device is over with its reply; one
that fails there is a poisoned line (R381, R439, R443). -/
def nestWrite (s : State) (e : Eng) (fetched : List (Nat × Option (List Byte))) (va : Word) (n v : Nat) (b : NestBody) :
    State × NestStep :=
  let failed : NestStep := .faults (.nest .poison) va (some (.of .poison))
  match engLocate s e va n 1 .store with
  | (s, .error f) => (s, .faults f.cause.toNest f.addr f.tf)
  | (s, .ok l) =>
    match l.sector with
    | some (w, off, va) =>
      match fetchedAt fetched awaitKey 0 with
      | some (some _) => (s, .taken b)
      | some none => (s, failed)
      | none =>
        if s.engAsked e awaitKey then (s, .waits)
        else
          match sendRemote s e.ctx w off (.engine e.core e.id awaitKey) va (.write (leBytes n v)) with
          | (s, some _) => (s, .waits)
          | (s, none) => (s.engLog e 0x0006 7 0 va, failed)
    | none =>
      if nestPoisoned s e va n then (s, .faults (.nest .poison) va none)
      else
        match engWrite s e va (leBytes n v) with
        | (s, none) => (s, .taken b)
        | (s, some f) => (s, .faults f.cause.toNest f.addr f.tf)

/-- The next step of an entry (R380): the load of the accumulator, one element, or, after the last, the
write of a reduction's result. -/
def nestNext (s : State) (e : Eng) (quad : Nat) (fetched : List (Nat × Option (List Byte)))
    (b : NestBody) : State × NestStep :=
  let acc := elemBytes (nestAccTy b.op b.nest.ty)
  if nestReduces b.op && !b.acLoaded then
    match nestRead s e fetched b.s0 acc with
    | (s, .error r) => (s, r)
    | (s, .ok v) => (s, .taken { b with ac := BitVec.ofNat 64 v, acLoaded := true })
  else if b.n < b.nest.count then
    match nestOperands s e fetched b with
    | (s, .error r) => (s, r)
    | (s, .ok (d, x, y)) =>
      let v := b.compute quad d x y
      if nestReduces b.op then (s, .taken { b with ac := BitVec.ofNat 64 v, n := b.n + 1 })
      else
        nestWrite s e fetched (nestAddr b.nest b.s0 acc Level.d b.n) acc v { b with n := b.n + 1 }
  else if nestReduces b.op then nestWrite s e fetched b.s0 acc b.ac.toNat b
  else (s, .taken b)

/-- Every element of the entry has been performed before this step. -/
def NestBody.atEnd (b : NestBody) : Bool :=
  decide (b.nest.count ≤ b.n) && (!nestReduces b.op || b.acLoaded)

/-- The loop nest at the head of a queue, while it is not stopped. -/
def State.headNest (s : State) (core : Nat) (q : BitVec 3) : Option (Entry × NestBody) :=
  match s.engineHead core q with
  | some e =>
    match e.body with
    | .nest b => if e.done || b.stopped then none else some (e, b)
    | .copy _ => none
    | .qwait _ _ => none
    | .qadd _ _ => none
    | .marker _ _ => none
  | none => none

/-- `LNEST_ENTRY_PERFORM` (R380): one step of the entry at the head of a queue. -/
def execLnestEntryPerform (core : Nat) (q : BitVec 3) (s : State) : Out :=
  .next
    (match s.headNest core q with
     | none => s
     | some (e, b) =>
       match nestNext s (e.eng core) e.quad e.fetched b with
       | (s, .waits) => s
       | (_, .faults _ _ _) => s
       | (s', .taken b') =>
         let e := { e with body := .nest b', fetched := [] }
         let s' := s'.setHead core q e
         if b.atEnd || (b'.atEnd && !nestReduces b.op) then s'.completeHead core q e else s')

/-- The quad's wait is one that it leaves to run a loop-nest handler (R381 item 3). -/
def Quad.leavesForNest (q : Quad) : Bool :=
  !q.inHandler &&
    (match q.wait with
     | .counter _ => true
     | .jwait _ _ => true
     | _ => false)

/-- A quad parked in a counter wait or at a `jwait` leaves it (R381 item 3); it stands at the waiting
instruction, in a gang of its own. -/
def State.leaveForNest (s : State) (t w n : Nat) : State :=
  if (s.quad t w n).leavesForNest then
    match s.gangOf t w n with
    | none => s
    | some g =>
      let s := s.modQuad t w n fun q => { q with wait := .ready }
      if g.lg = 0 then s else s.splitOff g n
  else s

/-- The launch of a team is being aborted (R90). -/
def State.inAbort (s : State) (t : Nat) : Bool :=
  match s.launches[(s.team t).launch]? with
  | some l => l.state == .aborting
  | none => false

/-- An element's fault (R381): the entry stops, and its quad has a pending trap; the fault of a quad
that has exited is unhandled. An aborted launch has no quad left that could take the trap, and comes to its error
completion (R90): its entry is discarded, as after a handler that ends the quad (notes/assumptions/81.md). -/
def State.stopNest (s : State) (core : Nat) (q : BitVec 3) (e : Entry) (b : NestBody)
    (cause : TrapCause) (addr : Word) (tf : Option TFault) : State :=
  let g := e.eng core
  let s :=
    match tf with
    | some f =>
      match f.code with
      | some code => s.engLog g code (f.source 5) 0 addr
      | none => s
    | none => if cause = TrapCause.nest .poison then s.engLog g 0x0006 5 0 addr else s
  if s.inAbort e.team then s.popHead core q else
  let s := s.setHead core q { e with body := .nest { b with stopped := true }, fetched := [] }
  if (s.quad e.team e.wave e.quad).exited then
    (s.engLog g 0x0001 5 cause.code (trapLogAddr (trapInfo 0 cause addr))).ctxFault e.ctx
  else
    (s.modQuad e.team e.wave e.quad fun x =>
      { x with pendTraps := x.pendTraps ++ [PendTrap.nest cause addr q e.id] }).leaveForNest e.team e.wave e.quad

/-- `LNEST_ELEMENT_FAULT` (R381). -/
def execLnestElementFault (core : Nat) (q : BitVec 3) (s : State) : Out :=
  .next
    (match s.headNest core q with
     | none => s
     | some (e, b) =>
       match nestNext s (e.eng core) e.quad e.fetched b with
       | (_, .waits) => s
       | (_, .taken _) => s
       | (s', .faults cause addr tf) => s'.stopNest core q e b cause addr tf)

end Sys2Proof.Machine
end

