-- ==== Sys2Proof/Machine/WaveEvents.lean ====
section
/-! DEFINITION. The events of gangs and quads: completion of long-latency instructions (R276, R277),
miss-split (R103), the timers of fuses (R109, R115), polling back-off (R143), swaps (R118) and the
watchdog (R421). An event whose condition does not hold changes nothing. -/

namespace Sys2Proof.Machine

/-! ### Long-latency completion -/

/-- The quad waits for promotions (R180): the results of its acquiring atomic have not landed. -/
def Quad.promoting (q : Quad) : Bool :=
  match q.wait with
  | .promote _ _ _ => true
  | _ => false

/-- An outstanding instruction may complete: its walks have ended and its Sector replies have come. -/
def Pend.ripe (p : Pend) : Bool := p.walks.isEmpty && p.requests.isEmpty

/-- `LONG_LATENCY_COMPLETE` (R276, R277, R354): the performance of a quad completes, and a gang that its full flag
held back may issue (R276). -/
def execLongLatencyComplete (team wave quad idx : Nat) (s : State) : Out :=
  .next
    (let q := s.quad team wave quad
     match q.pends[idx]? with
     | none => s
     | some p =>
       if p.ripe && !q.promoting then
         let s := (s.modQuad team wave quad fun q => q.finish p s.clk).trimLatch team wave
         let s := s.wake (s.wave team wave).core
         match s.gangOf team wave quad with
         | some g => s.unlock g
         | none => s
       else s)

/-- A polling quad's stretch has ended (R143). -/
def Quad.endBackoff (q : Quad) (clk : Nat) : Quad :=
  match q.poll with
  | some p => if p.holding && decide (p.until_ ≤ clk) then { q with poll := some { p with holding := false } } else q
  | none => q

/-- `YIELD_BACKOFF_EXPIRY` (R143). -/
def execYieldBackoffExpiry (team wave base : Nat) (s : State) : Out :=
  .next
    (match s.gang? team wave base with
     | some g => s.mapGang g fun _ q => q.endBackoff s.clk
     | none => s)

/-! ### Miss-split -/

/-- The wait of a quad held at a miss-split header (R103): its mask and arrival. -/
def Quad.splitHeader (q : Quad) : Option (BitVec 12 × Nat) :=
  match q.wait with
  | .header mask true since => some (mask, since)
  | _ => none

/-- The wave's timers count: it is resident and not stopped by an unhandled trap (R116, R416). -/
def State.timed (s : State) (t w : Nat) : Bool := (s.team t).resident && !(s.wave t w).stopped

/-- The quads of a gang that has been held at a miss-split header for 16 cycles, when some are ready and some are not
(R103): the one and the other. -/
def State.missParts (s : State) (g : GangRef) : Option (List Nat × List Nat) :=
  match (s.leader g).splitHeader with
  | none => none
  | some (mask, since) =>
    let ready := (s.live g).filter fun n => (s.quadOf g n).flagsClear mask
    let rest := (s.live g).filter fun n => !(s.quadOf g n).flagsClear mask
    if (s.teamOf g).kernel.msplit && decide (since + 16 ≤ s.clk) && !ready.isEmpty && !rest.isEmpty then
      some (ready, rest)
    else none

/-- `MISS_SPLIT` (R103). -/
def execMissSplit (team wave base : Nat) (s : State) : Out :=
  .next
    (match s.gang? team wave base with
     | none => s
     | some g =>
       match s.missParts g with
       | none => s
       | some (ready, rest) =>
         s.replaceGangs team wave g.quads
           (sortRuns (s.runsOf team wave ready ++ s.runsOf team wave rest)))

/-- The gang that starts at a quad is held at a header that it splits at now (R103). -/
def State.splitDue (s : State) (t w base : Nat) : Bool :=
  s.timed t w && (s.quad t w base).splitHeader.isSome &&
    match s.gang? t w base with
    | some g => (s.missParts g).isSome
    | none => false

/-- The back-off of the gang that starts at a quad ends in one of its quads (R143). -/
def State.backoffDue (s : State) (t w base : Nat) : Bool :=
  (match s.gang? t w base with
   | some g => g.quads.any fun n =>
       match (s.quad t w n).poll with
       | some p => p.holding && decide (p.until_ ≤ s.clk)
       | none => false
   | none => false)

/-! ### Fuse timers -/

/-- The `jwait` a quad is parked at. -/
def Quad.jwait? (q : Quad) : Option (BitVec 3) :=
  match q.wait with
  | .jwait j _ => some j
  | _ => none

/-- The fuse timer of the `jwait` at which a quad is parked has expired (R109). -/
def State.fuseDue (s : State) (t w n : Nat) : Bool :=
  s.timed t w &&
    (match (s.quad t w n).jwait? with
     | some j =>
       decide ((s.wave t w).jwaitSince j (s.quad t w n).pc s.clk + (s.team t).kernel.fusetmo ≤ s.clk)
     | none => false)

/-- `FUSE_TIMEOUT` (R109, R110): after every arrival, exit, park and write of its cycle R107 is tested first; then
the arrived set is released without the quads still awaited, FUSEST counts it, and with fusetrap each released
gang has a pending trap. -/
def execFuseTimeout (team wave base : Nat) (s : State) : Out :=
  .next
    (let s := s.joinTest team wave
     let q := s.quad team wave base
     match q.jwait? with
     | none => s
     | some j =>
       let x := s.wave team wave
       let k := (s.team team).kernel
       if s.cycleOver && s.fuseDue team wave base then
         let set := x.arrived j q.pc
         let s := s.releaseSet team wave j set
         let s := s.modWave team wave fun y =>
           { y with fusest := if y.fusest = BitVec.allOnes 32 then y.fusest else y.fusest + 1 }
         if k.fusetrap then
           s.modQuads team wave set fun _ q => { q with pendTraps := q.pendTraps ++ [.fuse] }
         else s
       else s)

/-- The width of the forced fuse a quad waits at. -/
def Quad.fuse? (q : Quad) : Option Nat :=
  match q.wait with
  | .fuse w _ => some w
  | _ => none

/-- The timer of the forced fuse at which the gang that starts at a quad waits has expired (R115). -/
def State.widthDue (s : State) (t w base : Nat) : Bool :=
  s.timed t w &&
    (match s.gang? t w base with
     | none => false
     | some g =>
       match (s.leader g).fuse? with
       | none => false
       | some k => decide (fuseSince s g (g.run k).quads k + (s.teamOf g).kernel.fusetmo ≤ s.clk))

/-- `WIDTH_FAULT` (R115): the timer of a forced fuse has expired, and every arrival and exit of the cycle has taken
place; every gang that waits in the run takes the width fault. -/
def execWidthFault (team wave base : Nat) (s : State) : Out :=
  .next
    (match s.gang? team wave base with
     | none => s
     | some g =>
       match (s.leader g).fuse? with
       | none => s
       | some w =>
         let run := g.run w
         let flow := (s.leader g).flow
         if s.cycleOver && s.widthDue team wave base then
           let bases := (s.waveOf g).gangs.filterMap fun y =>
             if run.quads.contains y.base && (s.quadOf g y.base).atFuse w flow then some y.base else none
           bases.foldl (fun s b =>
             match s.gang? team wave b with
             | some g => s.trap g .width 0 allLanes 0
             | none => s) s
         else s)

/-! ### Swaps and the watchdog -/

/-- The active gangs of a quarter that are not ready (R118), with their wave's age. -/
def idleGangs (s : State) (core quarter : Nat) : List (Nat × GangRef) :=
  (upTo s.teams.length).flatMap fun t =>
    let x := s.team t
    if x.phase = .live then
      (upTo x.waves.length).flatMap fun n =>
        let w := x.wave n
        if w.core = core ∧ w.quarter = quarter then
          (w.gangs.filter fun g => g.active && (w.stopped || !w.gangReady g)).map fun g =>
            (w.seq, { t := t, w := n, base := g.base, lg := g.lg })
        else []
    else []

/-- A gang enters or leaves the active set. -/
def State.setActive (s : State) (g : GangRef) (active : Bool) (slotFree : Nat) : State :=
  s.modWave g.t g.w fun w =>
    { w with gangs := w.gangs.map fun y =>
        if y.base = g.base then { y with active := active, slotFree := slotFree } else y }

/-- `GANG_SWAP` (R118): the oldest ready pending gang takes the slot of an active gang that is not
ready, or a free slot; the slot issues nothing for 2 cycles. The spec does not say which of several idle gangs gives up
its slot, nor how a pending gang enters a free slot: the model takes the oldest, and gives a free slot the same delay
(notes/assumptions/76.md). -/
def execGangSwap (core quarter : Nat) (s : State) : Out :=
  .next
    (match oldest (readyGangs s core quarter false) with
     | none => s
     | some inn =>
       if activeCount s core quarter < 8 then s.setActive inn true (s.clk + 2)
       else
         match oldest (idleGangs s core quarter) with
         | some out => (s.setActive out false 0).setActive inn true (s.clk + 2)
         | none => s)

/-- `WATCHDOG_EXPIRY` (R420, R421): an issue has brought WDOG from 1 to 0 and reloaded it; the quads of the gang that
issued have a pending watchdog trap. It takes place before anything else moves. -/
def execWatchdogExpiry (team wave base : Nat) (s : State) : Out :=
  .next
    (let hit := (s.wave team wave).dog
     if hit.contains base then
       (s.modQuads team wave hit fun _ q => if q.exited then q else { q with pendTraps := q.pendTraps ++ [.watchdog] }
         ).modWave team wave fun x => { x with dog := [] }
     else s)

end Sys2Proof.Machine
end

