-- ==== Sys2Proof/Machine/Matrix.lean ====
section
/-! DEFINITION. Matrix instructions (R385 to R394): `mma`, `mmas`, `vspk`, the A-latch and `mrel`; and
the stamps of `sstamp` (R408, R471). -/

namespace Sys2Proof.Machine

/-! ### Families -/

/-- How a family sums a K-group (R389). -/
inductive MatSum where
  | chain
  | window
  | integer
  deriving DecidableEq, Repr

/-- What a pair of operand types fixes (R385). -/
structure Family where
  ta : ElemTy
  tb : ElemTy
  k : Nat
  sum : MatSum
  scales : Bool
  sparse : Bool
  deriving DecidableEq, Repr

/-- The family of a value of FMT (R383, R385). -/
def familyOf (fmt : BitVec 13) : Option Family :=
  if fmtPair (fmt.extractLsb' 0 5) (fmt.extractLsb' 8 5) then
    match ElemTy.ofCode (fmt.extractLsb' 0 5).toNat, ElemTy.ofCode (fmt.extractLsb' 8 5).toNat with
    | some ta, some tb =>
      let f (k : Nat) (sum : MatSum) (scales sparse : Bool) : Family :=
        { ta := ta, tb := tb, k := k, sum := sum, scales := scales, sparse := sparse }
      match ta with
      | .f64 => some (f 2 .chain false false)
      | .f32 => some (f 4 .chain false false)
      | .f16 | .bf16 => some (f 16 .window false false)
      | .e4m3 | .e5m2 => some (f 32 .window true true)
      | .e3m2 | .e2m3 | .e2m1 => some (f 64 .window true true)
      | .i8 => some (f 32 .integer false true)
      | .i4 => some (f 64 .integer false true)
      | .i16 | .i32 | .i64 | .n8 | .n16 | .n32 | .n64 | .fx128 => none
    | _, _ => none
  else none

/-- The accumulator type (R385). -/
def Family.acc (f : Family) : ElemTy :=
  match f.sum with
  | .integer => .i32
  | .window => .f32
  | .chain => f.ta

/-- The registers of `n` packed elements of a type (R248). -/
def packedRegs (t : ElemTy) (n : Nat) : Nat := ceilDiv (t.bits * n) 32

/-- Registers of A: the kept half in the sparse form (R385, R393). -/
def Family.aRegs (f : Family) (sparse : Bool) : Nat := packedRegs f.ta (if sparse then f.k / 2 else f.k)

/-- Registers of B. -/
def Family.bRegs (f : Family) : Nat := packedRegs f.tb f.k

/-- Registers of C. -/
def Family.cRegs (f : Family) : Nat := 16 * regsOf f.acc

/-- The instruction's form: sparse, with its metadata register, reuse and scales. -/
structure MatForm where
  sparse : Option (BitVec 10)
  reuse : Bool
  scl : Bool
  deriving DecidableEq, Repr

/-- The matrix-unit cycles of a span (R385). -/
def MatForm.cycles (x : MatForm) : Nat := if x.sparse.isSome then 2 else 4

/-- Registers of a row's metadata (R393). -/
def Family.metaRegs (f : Family) : Nat := if f.k = 32 then 2 else 3

/-- The operand limits of R388 and R393 for a family. -/
def MatForm.opnds (x : MatForm) (o : LaneOp) (f : Family) : List Opnd :=
  [.v o.vd f.cRegs 16, .v o.va (f.aRegs x.sparse.isSome) 4, .v o.vb f.bRegs 4] ++
    (if x.scl then [.v o.vc 2 2] else []) ++
    (match x.sparse with
     | some vm => [.v vm f.metaRegs 4]
     | none => [])

/-- The family by which the gang that issues checks its operands. -/
def State.leaderFamily (s : State) : Option Family :=
  match s.issuing with
  | some g => familyOf (s.leader g).fmt
  | none => none

/-! ### Spans -/

/-- The first quads of the spans of a gang (R386). -/
def spanBases (g : GangRef) : List Nat := (upTo (2 ^ g.lg / 4)).map fun i => g.base + 4 * i

/-- The quads of a span that have not exited. -/
def State.spanLive (s : State) (g : GangRef) (b : Nat) : List Quad :=
  ((upTo 4).map fun i => s.quadOf g (b + i)).filter fun q => !q.exited

/-- All values of a list are equal. -/
def allSame {α : Type} [DecidableEq α] : List α → Bool
  | [] => true
  | a :: l => l.all (· == a)

/-- A span whose instruction may be performed (R388, R393): its family, or `none` where it breaks a
limit. A span whose quads have all exited performs nothing. -/
def spanFamily (s : State) (g : GangRef) (x : MatForm) (o : LaneOp) (b : Nat) : Option (Option Family) :=
  match s.spanLive g b with
  | [] => some none
  | q :: qs =>
    match familyOf q.fmt with
    | none => none
    | some f =>
      if allSame ((q :: qs).map (·.fmt)) && (!x.scl || (allSame ((q :: qs).map (·.scb)) && f.scales)) &&
          (x.sparse.isNone || f.sparse) &&
          (x.opnds o f).all (·.ok (s.teamOf g).kernel.regs) then some (some f)
      else none

/-- The lane at a position of a span. -/
def State.spanLane (s : State) (g : GangRef) (b p : Nat) : Lane := (s.quadOf g (b + p / 4)).lane (p % 4)

/-- The row at a position of a span is active (R389). -/
def State.spanActive (s : State) (g : GangRef) (o : LaneOp) (b p : Nat) : Bool :=
  (s.quadOf g (b + p / 4)).active o (p % 4)

/-- Element `k` of a packed value (R248). -/
def packedElem (t : ElemTy) (v k : Nat) : Nat := part t.bits v k

/-- The dense position that element `e` of a row's A takes: itself, or the index of its group's metadata
(R393). -/
def densePos (m : Option Nat) (e : Nat) : Nat :=
  match m with
  | none => e
  | some meta_ => 8 * (e / 4) + meta_ / 2 ^ (12 * (e / 4) + 3 * (e % 4)) % 8

/-- The scale of the block of a position (R387, R389). -/
def scaleAt (scl : Option (Nat × Byte)) (pos : Nat) : Option (Nat × Int) :=
  scl.map fun (reg, scb) => scaleOf (BitVec.ofNat 8 (reg / 2 ^ (8 * (pos / 16)))) scb

/-- One K-group (R389, R393): the new element of C from the old one, a row of A, its metadata, a column
of B, and the scale registers with SCB. -/
def matElem (f : Family) (c a b : Nat) (m : Option Nat) (sa sb : Option (Nat × Byte)) : Nat :=
  let n := if m.isSome then f.k / 2 else f.k
  let av (e : Nat) : Nat := packedElem f.ta a e
  let bv (e : Nat) : Nat := packedElem f.tb b (densePos m e)
  match f.sum with
  | .chain =>
    let c0 : FpMode := { ty := f.ta, rnd := .rne, r := 0, ftz := false }
    (upTo n).foldl (fun c e => c0.fma (av e) (bv e) c) c
  | .integer =>
    ElemTy.i32.bitsOf ((upTo n).foldl (fun (x : Int) e => x + f.ta.intOf (av e) * f.tb.intOf (bv e))
      (ElemTy.i32.intOf c))
  | .window =>
    windowSum (f32.decode c :: (upTo n).map fun e =>
      (eff (f.ta.fmt.decode (av e)) (scaleAt sa (densePos m e))).mul
        (eff (f.tb.fmt.decode (bv e)) (scaleAt sb (densePos m e))))

/-- The metadata value of a row (R393). -/
def rowMeta (x : MatForm) (f : Family) (l : Lane) : Option Nat :=
  x.sparse.map fun vm => l.read vm.toNat f.metaRegs % 2 ^ (12 * (f.k / 8))

/-- The first group of a row's metadata that is not strictly ascending (R266, R394). -/
def badGroup (f : Family) (meta_ : Nat) : Option Nat :=
  (upTo (f.k / 8)).find? fun g =>
    let idx (t : Nat) : Nat := meta_ / 2 ^ (12 * g + 3 * t) % 8
    !(decide (idx 0 < idx 1) && decide (idx 1 < idx 2) && decide (idx 2 < idx 3))

/-- The scale register at offset `i` of vc, from position 0 of the span, with the span's SCB (R387). -/
def State.spanScale (s : State) (g : GangRef) (x : MatForm) (o : LaneOp) (b i : Nat) :
    Option (Nat × Byte) :=
  if x.scl then
    match s.spanLive g b with
    | q :: _ => some (((s.spanLane g b 0).rv (o.vc.toNat + i)).toNat, q.scb)
    | [] => none
  else none

/-- The writes of one row (R389): all sixteen elements of C, from the state before any write. -/
def State.matRow (s : State) (g : GangRef) (x : MatForm) (o : LaneOp) (f : Family) (b i : Nat) :
    List RegWrite :=
  let l := s.spanLane g b i
  let n := regsOf f.acc
  let a := l.read o.va.toNat (f.aRegs x.sparse.isSome)
  let sa := s.spanScale g x o b 0
  let sb := s.spanScale g x o b 1
  (upTo 16).flatMap fun j =>
    let reg := o.vd.toNat + n * j
    let y := matElem f (l.read reg n) a ((s.spanLane g b j).read o.vb.toNat f.bRegs) (rowMeta x f l) sa sb
    (upTo n).map fun r => .v (i % 4) (reg + r) (BitVec.ofNat 32 (y / 2 ^ (32 * r)))

/-- The rows of a quad: what its performance writes at completion. -/
def State.matQuad (s : State) (g : GangRef) (x : MatForm) (o : LaneOp) (n : Nat) : Later :=
  let b := n / 4 * 4
  match spanFamily s g x o b with
  | some (some f) =>
    Later.ofWrites ((upTo 4).flatMap fun i =>
      let p := 4 * (n % 4) + i
      if s.spanActive g o b p then s.matRow g x o f b p else [])
  | _ => Later.empty

/-! ### The A-latch -/

/-- The copies of a span's A registers, and of its scale register (R390). -/
def State.latchRegs (s : State) (g : GangRef) (x : MatForm) (o : LaneOp) (f : Family) (b : Nat) :
    List (Nat × Nat × Code) :=
  (upTo 16).flatMap fun p =>
    let l := s.spanLane g b p
    ((upTo (f.aRegs x.sparse.isSome)).map fun i => (p, o.va.toNat + i, l.rv (o.va.toNat + i))) ++
      (if x.scl then [(p, o.vc.toNat, l.rv o.vc.toNat)] else [])

/-- A span's entry for this instruction. -/
def State.latchEntry (s : State) (g : GangRef) (x : MatForm) (o : LaneOp) (f : Family) (b : Nat) :
    LatchEntry :=
  { span := b, va := o.va, ta := BitVec.ofNat 5 f.ta.code, scl := x.scl
    vc := if x.scl then o.vc else 0, regs := s.latchRegs g x o f b }

/-- What a matrix instruction does to its quarter's A-latch (R390, R391). -/
def State.useLatch (s : State) (g : GangRef) (x : MatForm) (o : LaneOp) : State :=
  let w := s.waveOf g
  let me := some (g.t, g.w)
  let new := (spanBases g).filterMap fun b =>
    match spanFamily s g x o b with
    | some (some f) => some (s.latchEntry g x o f b)
    | _ => none
  s.modCore w.core fun k =>
    { k with quarters := modVec k.quarters w.quarter fun y =>
        if x.reuse && (y.latch.owner.isNone || y.latch.owner == me) then
          { y with latch :=
              { owner := me, lastUse := s.clk
                entries := new ++ y.latch.entries.filter fun e => !new.any fun z => z.span == e.span } }
        else if y.latch.owner = me then { y with latch := { y.latch with lastUse := s.clk } }
        else y }

/-- `mrel` (R391). -/
def execMrel (s : State) : Out :=
  withGang s fun g => (s.freeLatch g.t g.w).retire g 1 1 .count

/-- `A_LATCH_IDLE_RELEASE` (R391): 1,024 cycles without a matrix instruction of the owner. -/
def execALatchIdleRelease (core quarter : Nat) (s : State) : Out :=
  .next (s.modCore core fun k =>
    { k with quarters := modVec k.quarters quarter fun y =>
        if y.latch.owner.isSome && decide (y.latch.lastUse + 1024 ≤ s.clk) then { y with latch := Latch.free }
        else y })

/-! ### `mma` and `mmas` -/

/-- The active rows whose metadata is not ascending (R394): quad, lane and group. -/
def badRows (s : State) (g : GangRef) (x : MatForm) (o : LaneOp) : List (Nat × Nat × Nat) :=
  (spanBases g).flatMap fun b =>
    match spanFamily s g x o b with
    | some (some f) =>
      (upTo 16).filterMap fun p =>
        if s.spanActive g o b p then
          match rowMeta x f (s.spanLane g b p) with
          | some m => (badGroup f m).map fun n => (b + p / 4, p % 4, n)
          | none => none
        else none
    | _ => []

/-- The matrix unit is busy for the gang's spans, and the stamps of the gang count it (R408), as the stall counter
of the core does (R468). -/
def Quad.busyMatrix (q : Quad) (cycles : Nat) : Quad :=
  { q with stamp := q.stamp.map fun x => { x with mmBusy := x.mmBusy + cycles } }

/-- A matrix instruction over its fused gang (R388, R389, R393, R394). -/
def matBody (x : MatForm) (o : LaneOp) (flag : Option (BitVec 4)) (s : State) (g : GangRef) : State :=
  if flagFull s g flag then s.hold g .structural
  else if decide ((s.teamOf g).kernel.lgwave < 2) ||
      (spanBases g).any fun b => (spanFamily s g x o b).isNone then s.badOperand g 0
  else
    match badRows s g x o with
    | (_, _, n) :: _ =>
      let bad := badRows s g x o
      s.trap g .sparseMeta (BitVec.ofNat 64 n)
        (fun m => bad.foldl (fun r y => if y.1 = m then r ||| laneBit y.2.1 else r) 0)
        0
    | [] =>
      let cost := x.cycles * (spanBases g).length
      let later (n : Nat) : Later := s.matQuad g x o n
      let s' := ((s.useLatch g x o).mapGang g fun _ q => q.busyMatrix cost).stall (s.coreOf g) (s.ctxOf g) 12 cost
      s'.bumpId.issueLong g 3 cost s.nextId flag later

/-- The frame of a matrix instruction: the operand limits by the issuing gang's family. -/
def matStep (x : MatForm) (o : LaneOp) (s : State) : Out :=
  let opnds := match s.leaderFamily with
    | some f => x.opnds o f
    | none => []
  laneStep s o opnds (matBody x o)

/-- `mma` (R388, R389). -/
def execMma (o : LaneOp) (reuse scl : Bool) (s : State) : Out :=
  matStep { sparse := none, reuse := reuse, scl := scl } o s

/-- `mmas` (R393, R394). -/
def execMmas (o : LaneOp) (reuse scl : Bool) (vm : BitVec 10) (s : State) : Out :=
  matStep { sparse := some vm, reuse := reuse, scl := scl } o s

/-! ### `vspk` -/

/-- One group of `vspk` in a lane (R392): the kept elements go to their register, the metadata is collected. -/
def spkGroup (ty : ElemTy) (o : LaneOp) (x : Lane × Nat) (g : Nat) : Lane × Nat :=
  let v := x.1.read o.va.toNat 8
  let group : List Nat := (upTo 8).map fun i => packedElem ty v (8 * g + i)
  let idx := prune48 ty group
  let word := (upTo 4).foldl (fun w t => w + 2 ^ (8 * t) * group.getD (idx.getD t 0) 0) 0
  let meta_ := (upTo 4).foldl (fun w t => w + 2 ^ (3 * t) * idx.getD t 0) 0
  (x.1.setV (o.vd.toNat + g) (BitVec.ofNat 32 word), x.2 + 2 ^ (12 * g) * meta_)

/-- One lane of `vspk` (R392). The groups take effect in the order written (R14): one whose elements lie where an
earlier group was written reads what that group wrote. -/
def spkLane (ty : ElemTy) (o : LaneOp) (l : Lane) : Lane :=
  let x := (upTo 4).foldl (spkGroup ty o) (l, 0)
  x.1.write o.vc.toNat 2 x.2

/-- `vspk` (R392). -/
def execVspk (o : LaneOp) (ty : ElemTy) (s : State) : Out :=
  laneMap s o [.v o.va 8 4, .v o.vd 4 4, .v o.vc 2 2] cycles32 .rne fun _ _ l => spkLane ty o l

/-! ### Stamps -/

/-- A stamp opened at an address. -/
def Stamp.opened (id : Nat) (addr : Word) (clk : Nat) : Stamp :=
  { id := id, addr := addr, openClk := clk, inStart := none, inEnd := none, opWait := 0, mmBusy := 0
    outStart := none, outEnd := none }

/-- `sstamp.open` (R408). -/
def execSstampOpen (sa : SReg) (s : State) : Out :=
  withGang s fun g =>
    s.checked g ((s.live g).map fun n =>
      { quad := n, lanes := 0xF, addr := (s.quadOf g n).rs sa, len := 64, align := 64, need := .store
        spad := false }) 1 fun s _ =>
      (s.bumpId.mapGang g fun _ q => { q with stamp := some (Stamp.opened s.nextId (q.rs sa) s.clk) }).retire g 1 1 .count

/-- The record of a stamp (R471). -/
def Stamp.bytes (x : Stamp) (clk : Nat) : List Byte :=
  [x.openClk, clk, x.inStart.getD 0, x.inEnd.getD 0, x.opWait, x.mmBusy, x.outStart.getD 0,
    x.outEnd.getD 0].flatMap (leBytes 8)

/-- `sstamp.close` (R408, R471): every quad with an open stamp stores its record. -/
def execSstampClose (s : State) : Out :=
  withGang s fun g =>
    let open_ : List (Nat × Stamp) := (s.live g).filterMap fun n => ((s.quadOf g n).stamp).map fun x => (n, x)
    s.checked g (open_.map fun (n, x) =>
      { quad := n, lanes := 0xF, addr := x.addr, len := 64, align := 64, need := .store
        spad := false }) 1 fun s locs =>
      ((storeAll s g 1 ((open_.zip locs).map fun (y, l) => (y.1, l, y.2.bytes s.clk))).mapGang g fun _ q =>
        { q with stamp := none }).retire g 1 1 .count

end Sys2Proof.Machine
end

