-- ==== Sys2Proof/Machine/Save.lean ====
section
/-! DEFINITION. Pre-emption (R423 to R429): the layout of the save area and the three steps of a save. -/

namespace Sys2Proof.Machine

/-! ### The layout of the save area -/

/-- Zero bytes. -/
def zeros (n : Nat) : List Byte := List.replicate n 0

/-- The wait kind of R428. -/
def WaitKind.code : WaitKind → Nat
  | .cwait => 0 | .kwaitFull => 1 | .kwaitFree => 2 | .bar => 3

/-- The state word of a quad record (R428). -/
def Quad.stateWord (q : Quad) (map : Nat) : Nat :=
  let x := q.cwait?
  let st : Option (BitVec 6) := x.bind (·.st)
  let acq : Bool := match x with | some y => y.acq | none => false
  q.em.toNat + (if q.inHandler then 2 ^ 4 else 0) + (if q.exited then 2 ^ 5 else 0) + q.waitCode * 2 ^ 8 +
    q.jreg * 2 ^ 12 + map * 2 ^ 16 + q.scb.toNat * 2 ^ 32 + (st.getD 0).toNat * 2 ^ 40 +
    (if st.isSome then 2 ^ 46 else 0) + (if acq then 2 ^ 47 else 0)

/-- The wait fields of a quad record, +64 to +87 (R428). -/
def Quad.waitBytes (q : Quad) : List Byte :=
  match q.wait with
  | .counter x =>
    leBytes 8 x.addr.toNat ++ leBytes 8 x.target ++ leBytes 4 x.timeout.toNat ++ leBytes 4 x.kind.code
  | .fuse _ _ => zeros 20 ++ leBytes 4 4
  | _ => zeros 24

/-- A clause context as a quad record holds it; none is 0 (R428). -/
def ClauseCtx.word : Option ClauseCtx → Nat
  | none => 0
  | some k =>
    (k.setA.getD 0).toNat + (if k.setA.isSome then 2 ^ 4 else 0) + (k.setB.getD 0).toNat * 2 ^ 5 +
      (if k.setB.isSome then 2 ^ 9 else 0) + k.left.toNat * 2 ^ 10 + (if k.barWait then 2 ^ 20 else 0)

/-- The pending deferred fault of a quad record (R428): the first one. -/
def Quad.deferredWord (q : Quad) : Nat :=
  match q.deferred with
  | [] => 0
  | d :: _ =>
    1 + (if d.isDrain then 2 ^ 2 else 0) + d.cause.code * 2 ^ 4 + (d.cause.addrField d.addr).toNat * 2 ^ 10

/-- The record of a quad (R428). -/
def Quad.record (x : Quad) (regs map : Nat) : List Byte :=
  let q := x.issued
  leBytes 8 q.pc.toNat ++ leBytes 8 (q.stateWord map) ++ leBytes 8 q.fmt.toNat ++ leBytes 8 q.seed.toNat ++
    leBytes 8 q.gen ++ q.f.toList.map (fun n => n.setWidth 8) ++ zeros 4 ++ q.joins.toList ++ q.waitBytes ++
    leBytes 8 q.trapinfo.toNat ++ leBytes 8 q.trappc.toNat ++ leBytes 8 (ClauseCtx.word q.clause) ++
    leBytes 8 (ClauseCtx.word q.trapClause + (if q.trapClause.isSome then 2 ^ 63 else 0)) ++
    leBytes 8 q.deferredWord ++ q.s.toList.flatMap (fun r => leBytes 8 r.toNat) ++
    q.lanes.toList.flatMap (fun l => leBytes 4 l.p.toNat) ++
    (upTo regs).flatMap fun n => q.lanes.toList.flatMap fun l => leBytes 4 (l.rv n).toNat

/-- A wave header with the records of its quads (R427). -/
def Wave.record (w : Wave) (regs : Nat) : List Byte :=
  leBytes 4 w.wid ++ leBytes 4 w.fusest.toNat ++ leBytes 4 w.wdog.toNat ++ zeros 52 ++
    (upTo w.quads.length).flatMap fun n => (w.quad n).record regs (w.mapOf n)

/-- The 48 bytes of a loaded ring handle (R139, R427). -/
def Ring.bytes48 (r : Ring) : List Byte :=
  leBytes 8 r.base.toNat ++ leBytes 8 r.filled.toNat ++ leBytes 8 r.freed.toNat ++ leBytes 8 r.claim.toNat ++
    leBytes 4 r.bytes ++ leBytes 1 r.lgslots ++ zeros 11

/-- The kind and the body of an engine entry (R429). -/
def EntryBody.record : EntryBody → Nat × List Byte
  | .copy j => (0, j.b.bytes ++ zeros 56)
  | .qwait a v => (1, leBytes 8 a.toNat ++ leBytes 8 v.toNat ++ zeros 104)
  | .qadd a v => (2, leBytes 8 a.toNat ++ leBytes 8 v.toNat ++ zeros 104)
  | .nest b =>
    (3, (encNest (BitVec.ofNat 6 b.op) b.nest).flatMap (fun w => leBytes 4 w.toNat) ++
      [b.s0, b.s1, b.s2, b.s3, b.s4].flatMap (fun (x : Word) => leBytes 8 x.toNat) ++ leBytes 8 b.n ++
      leBytes 8 b.ac.toNat ++ leBytes 8 b.seed.toNat ++ zeros 24)
  | .marker m g => (4, leBytes 8 m.toNat ++ leBytes 8 g ++ zeros 104)

/-- An engine entry of a team save (R429). -/
def Entry.record (q : Nat) (e : Entry) : List Byte :=
  leBytes 1 q ++ leBytes 1 e.body.record.1 ++ leBytes 1 e.quad ++ leBytes 1 e.wave ++ zeros 4 ++ e.body.record.2

/-- A held-line record (R429). -/
def HeldLine.record (h : HeldLine) : List Byte :=
  leBytes 8 (h.line * 128) ++ leBytes 16 h.mask.toNat ++ zeros 8 ++ h.data.toList

/-- The mask of the loaded ring handles (R427). -/
def Team.ringMask (t : Team) : Nat :=
  (upTo 16).foldl (fun m k => if (t.ring k).isSome then m + 2 ^ k else m) 0

/-- The team header after its size (R427). -/
def Team.header (t : Team) : List Byte :=
  let c := t.carried
  leBytes 4 t.teamid.toNat ++ leBytes 4 t.gridid.toNat ++ leBytes 4 t.kernel.shape.toNat ++
    leBytes 4 t.kernel.rtboff ++ leBytes 8 t.counter.toNat ++ leBytes 2 c.overflow.length ++
    leBytes 2 c.entries.length ++ leBytes 2 c.walks.length ++ leBytes 2 c.held.length ++
    leBytes 2 t.ringMask ++ zeros 22 ++
    (upTo 16).flatMap (fun k =>
      match t.ring k with
      | some r => r.bytes48
      | none => zeros 48) ++ zeros 192

/-- The team save of a saved team (R427). -/
def Team.saveBytes (t : Team) : List Byte :=
  let c := t.carried
  let rest := t.header ++ t.scratch.read 0 t.kernel.scratchBytes ++
    t.waves.flatMap (fun w => w.record t.kernel.regs) ++ c.overflow.flatten ++
    c.entries.flatMap (fun e => e.2.record e.1) ++ c.walks.flatMap (fun w => leBytes 8 w.record.toNat) ++
    c.held.flatMap (·.record)
  leBytes 8 (rest.length + 8) ++ rest

/-- A kernel record (R94). -/
def Launch.record (l : Launch) (live : Nat) (teamsave : Word) : List Byte :=
  l.packet ++ leBytes 4 l.gridid.toNat ++ leBytes 4 l.next ++ leBytes 4 live ++
    leBytes 4 Config.stepping.toNat ++ leBytes 8 teamsave.toNat ++ leBytes 4 (if live = 0 then 1 else 0) ++
    leBytes 2 l.kernel.mml ++ zeros 34

/-- A packet record (R426). -/
def Admitted.record (a : Admitted) (q : Nat) : List Byte := a.packet ++ leBytes 2 q ++ zeros 62

/-- The header of the save area (R426). -/
def saveHeader (grid kernels packets total : Nat) : List Byte :=
  leBytes 4 1 ++ leBytes 4 Config.stepping.toNat ++ leBytes 4 grid ++ leBytes 4 kernels ++
    leBytes 4 packets ++ zeros 4 ++ leBytes 8 total ++ zeros 224

/-- A number rounded up to a multiple of 256. -/
def align256 (n : Nat) : Nat := ceilDiv n 256 * 256

/-! ### What is saved -/

/-- Inserts an element into a list that rises by a key. -/
def insertOn {α : Type} (key : α → Nat) (x : α) : List α → List α
  | [] => [x]
  | y :: ys => if key x < key y then x :: y :: ys else y :: insertOn key x ys

/-- A list in rising order of a key. -/
def sortOn {α : Type} (key : α → Nat) (l : List α) : List α := l.foldl (fun acc x => insertOn key x acc) []

/-- The launches of a context that quiesce: each has a record (R94, R426). -/
def State.quiescing (s : State) (c : BitVec 6) : List Nat :=
  (upTo s.launches.length).filter fun n =>
    match s.launches[n]? with
    | some l => l.ctx == c && decide (l.state = .quiescing)
    | none => false

/-- The teams of a launch in a phase, in TEAMID order (R426). -/
def State.teamsIn (s : State) (launch : Nat) (p : TeamPhase) : List Nat :=
  sortOn (fun t => (s.team t).teamid.toNat)
    ((upTo s.teams.length).filter fun t =>
      (s.team t).launch == launch && decide ((s.team t).phase = p))

/-- The admitted packets of a context that have not started, with their queues, in admission order (R73,
R426). -/
def State.unstarted (s : State) (c : BitVec 6) : List (Nat × Admitted) :=
  sortOn (fun x => x.2.id)
    ((upTo 256).flatMap fun q =>
      ((s.queue c (BitVec.ofNat 8 q)).admitted.filter fun a => !a.started).map fun a => (q, a))

/-- Places team saves one after another from an offset on (R426): what each launch's record says of its first
team save, and the bytes. -/
def layTeams (s : State) : Nat → List Nat → Nat × List Byte
  | off, [] => (off, [])
  | off, t :: ts =>
    let bs := (s.team t).saveBytes
    let (last, more) := layTeams s (align256 (off + bs.length)) ts
    if ts.isEmpty then (off + bs.length, bs) else (last, bs ++ zeros (align256 bs.length - bs.length) ++ more)

/-- The records and team saves of launches: their kernel records, the end, and the bytes from `off` on. -/
def layLaunches (s : State) (base : Word) : Nat → List Nat → List Byte × Nat × List Byte
  | off, [] => ([], off, [])
  | off, n :: ns =>
    match s.launches[n]? with
    | none => layLaunches s base off ns
    | some l =>
      let ts := s.teamsIn n .saved
      let start := align256 off
      let (stop, bs) := if ts.isEmpty then (off, []) else layTeams s start ts
      let (records, last, more) := layLaunches s base stop ns
      (l.record ts.length (if ts.isEmpty then 0 else base + BitVec.ofNat 64 start) ++ records, last,
        (if ts.isEmpty then [] else zeros (start - off) ++ bs) ++ more)

/-- The base of the save area (R422). -/
def Ctx.saveBase (x : Ctx) : Word := x.save ++ 0#12

/-- The save area of a context whose teams are saved (R426). -/
def State.saveArea (s : State) (c : BitVec 6) : List Byte :=
  let x := s.ctx c
  let ls := s.quiescing c
  let ps := s.unstarted c
  let off := 256 + 128 * (ls.length + ps.length)
  let (records, total, saves) := layLaunches s x.saveBase off ls
  saveHeader x.grid.toNat ls.length ps.length total ++ records ++
    ps.flatMap (fun p => p.2.record p.1) ++ saves

/-! ### Step 2 -/

/-- The teams of a context that a save stops, launch by launch in TEAMID order. -/
def State.stoppedTeams (s : State) (c : BitVec 6) : List Nat :=
  ((upTo s.launches.length).flatMap fun n => s.teamsIn n .stopped).filter fun t => (s.team t).ctx == c

/-- A team of the context is resident. -/
def State.hasResident (s : State) (c : BitVec 6) : Bool :=
  s.teams.any fun t => t.ctx == c && (decide (t.phase = .live) || decide (t.phase = .stopped))

/-- The moment of step 3 of R423 has come. -/
def Ctx.deadlinePassed (x : Ctx) (wall : Nat) : Bool :=
  decide (x.quiesceAt + (x.quiesceDrain + x.quiesceSave) * microsecond ≤ wall)

/-- `DRAIN_WINDOW_END` (R423, R424 step 1): resident teams stop at instruction boundaries. With CTXMIG.drain no
team is saved. -/
def execDrainWindowEnd (ctx : BitVec 6) (s : State) : Out :=
  .next
    (let x := s.ctx ctx
     if x.phase = .quiescing && !x.saving && !x.quiesceMig && !x.deadlinePassed s.wall &&
         decide (x.quiesceAt + x.quiesceDrain * microsecond ≤ s.wall) then
       ({ s with teams := s.teams.map fun (t : Team) =>
           if t.ctx = ctx ∧ t.phase = .live then { t with phase := .stopped } else t } : State).modCtx ctx
         fun y => { y with saving := true }
     else s)

/-- An outstanding instruction waits for nothing but walks (R424 step 2). -/
def Pend.onlyWalks (p : Pend) : Bool := !p.walks.isEmpty && p.requests.isEmpty

/-- The quad has nothing outstanding but walks. -/
def Quad.settled (q : Quad) : Bool := !q.promoting && q.pends.all (·.onlyWalks)

/-- The request is a wait on another device's counter. -/
def Request.isWait (r : Request) : Bool :=
  match r.body.kind with
  | .wait _ _ _ => true
  | .read _ | .write _ | .atomic _ _ _ _ _ _ | .accum _ _ _ _ | .get _ | .add _ _ | .cancel _ => false

/-- Every quad of a team has exited. -/
def Team.allExited (t : Team) : Bool := t.waves.all fun w => w.quads.all (·.exited)

/-- A save waits for an engine entry (notes/assumptions/82.md): one that stands midway, or has been performed but for its
completion add, unless a binding that fails holds that add. -/
def State.entryOpen (s : State) (core : Nat) (e : Entry) : Bool :=
  s.midway core e || e.sent || (e.done && !e.logged.contains 4)

/-- Nothing of a context on a core is midway: no claim of a record (R227), no operation of a walk (R235) and no engine
entry. -/
def State.coreSavable (s : State) (c : BitVec 6) (core : Nat) (k : CoreSt) : Bool :=
  (k.walks.all fun w => w.ctx != c || (w.want.isNone && !s.walkMidway core w)) &&
    k.queues.toList.all fun l => l.all fun e => e.ctx != c || !s.entryOpen core e

/-- Everything that a save waits for has ended (R92, R210, R424): teams whose quads have exited, instructions but
walks, what is midway on a core, accumulates, residuals that can be delivered, Sector requests but waits, completions, and
packets that have begun. -/
def State.savable (s : State) (c : BitVec 6) : Bool :=
  (s.stoppedTeams c).all (fun t =>
      !(s.team t).allExited && (s.team t).waves.all (fun w => w.quads.all (·.settled)) &&
        !s.undelivered t s.nextId) &&
    s.cores.toList.zipIdx.all (fun x => s.coreSavable c x.2 x.1) &&
    s.accs.all (fun a => a.ctx != c || decide (a.phase = .overflow)) &&
    s.requests.all (fun r => r.ctx != c || r.isWait) &&
    s.launches.all (fun l => l.ctx != c || !(decide (l.state = .completing) || decide (l.state = .aborting))) &&
    (upTo 256).all fun q => (s.queue c (BitVec.ofNat 8 q)).admitted.all fun a => packetType a.packet == 1 || !a.started

/-- The gang would issue next, or is held at a header (R425). -/
def Wave.atBoundary (w : Wave) (g : Gang) : Bool :=
  !w.stopped && (upTo (2 ^ g.lg)).all fun i =>
    match (w.quad (g.base + i)).wait with
    | .ready | .header _ _ _ => true
    | _ => false

/-- Pending traps of a wave take effect before its save (R425). -/
def State.trapsFirst (s : State) (t w : Nat) : State :=
  ((s.wave t w).gangs.filter fun g => (s.wave t w).atBoundary g).foldl (fun s g =>
    match s.gang? t w g.base with
    | some r => (s.takePending r).getD s
    | none => s) s

/-- Running walks of a context on a core are written as saved (R227, R424 step 3); a record write that fails
ends its walk, and the save goes on once that has landed. -/
def State.saveWalks (s : State) (c : BitVec 6) (core : Nat) : State :=
  ((s.core core).walks.filter fun w => w.ctx == c).foldl (fun s w =>
    match writeRecord s (w.eng core) w 4 0 0 with
    | (s, none) => s
    | (s, some f) => (s.logWalk (w.eng core) f).landWalk core w 3 f.cause) s

/-- The lines of a context are bound and written back, its clean copies go (R424 step 6). -/
def State.emptyL1 (s : State) (c : BitVec 6) (core : Nat) : State :=
  (s.settleStores c [core]).modCore core fun k =>
    { k with clean := k.clean.filter fun h => h.ctx != c, ilines := k.ilines.filter fun h => h.ctx != c }

/-- A wait that is saved leaves the device that holds it (R132, R441): the cancel goes by the route of this moment (R443),
and one that finds no link is not sent. -/
def State.cancelWaits (s : State) (c : BitVec 6) : State :=
  let mine (r : Request) : Bool := r.ctx == c && r.isWait
  let s := (s.requests.filter mine).foldl (fun s r =>
    match routeLink s r.dev with
    | some l =>
      let body : RemoteReq := { r.body with id := s.nextId, kind := .cancel r.id }
      { s.bumpId with sectorOut := .request l body :: s.sectorOut }
    | none => s) s
  { s with requests := s.requests.filter fun r => !mine r }

/-- The held lines of a context that a core could not bind. -/
def State.unbound (s : State) (c : BitVec 6) (core : Nat) : List HeldLine :=
  (s.core core).held.filter fun h => h.ctx == c && h.bound.isNone

/-- The body of an engine entry as its record holds it (R429): a copy from its start, a loop nest at its element. -/
def EntryBody.carried : EntryBody → EntryBody
  | .copy j => .copy j.b.job
  | .nest b => .nest { b with acLoaded := decide (0 < b.n) }
  | .qwait a v => .qwait a v
  | .qadd a v => .qadd a v
  | .marker m g => .marker m g

/-- An engine entry that is carried: nothing of it is under way. -/
def Entry.carried (e : Entry) : Entry :=
  { e with body := e.body.carried, fetched := [], done := false, sent := false, logged := [], stamp := none }

/-- What a team carries (R424, R427): its engine entries, overflow entries and walks, and the lines of its
cores that could not be bound. -/
def State.carriedBy (s : State) (t : Nat) : Carried :=
  let x := s.team t
  { held := x.coresOf.flatMap fun core => s.unbound x.ctx core
    entries := x.coresOf.flatMap fun core => (upTo 8).flatMap fun q =>
      ((s.engine core (BitVec.ofNat 3 q)).filter fun e => e.team == t).map fun e => (q, e.carried)
    overflow := (s.accs.filter fun a => a.team == t).map (fun a => a.residual.bytes) ++ x.carried.overflow
    walks := x.coresOf.flatMap (fun core => (s.core core).walks.filter fun w => w.team == t) ++ x.carried.walks }

/-- What has landed of an outstanding instruction whose other walks are saved is written before the quad is recorded
(R236). -/
def Quad.landEarly (q : Quad) : Quad :=
  let q := (q.pends.flatMap (·.writes)).foldl (fun q w => q.write w) q
  { q with pends := q.pends.map fun p => { p with writes := [] } }

/-- A team leaves its core (R424): its place is free, its latches and stamps are gone. -/
def State.packTeam (s : State) (t : Nat) : State :=
  let x := s.team t
  let carried := s.carriedBy t
  let s := (upTo x.waves.length).foldl (fun s w => s.freeLatch t w) s
  let s := { s with accs := s.accs.filter fun a => a.team != t }
  let s := x.coresOf.foldl (fun s core =>
    (s.modCore core fun k =>
      { k with
        held := k.held.filter fun h => !(h.ctx == x.ctx && h.bound.isNone)
        queues := k.queues.map fun l => l.filter fun e => e.team != t
        walks := k.walks.filter fun w => w.team != t }).wake core) s
  s.modTeam t fun y =>
    { y with
      phase := .saved, carried := carried
      waves := y.waves.map fun (w : Wave) =>
        { w with quads := w.quads.map fun (q : Quad) => { q.landEarly with stamp := none } } }

/-- A launch that quiesces is saved (R81), or faulted when a trap was unhandled meanwhile (R34). -/
def Launch.save (l : Launch) (faulted : Bool) : Launch :=
  if l.state = .quiescing then { l with state := if faulted then .faulted else .saved } else l

/-- The context enters saved, or faulted (R34, R45, R423). -/
def State.enterSaved (s : State) (c : BitVec 6) (total : Nat) (portable : Bool) : State :=
  let faulted := (s.ctx c).faultPending
  let s := { s with launches := s.launches.map fun (l : Launch) => if l.ctx = c then l.save faulted else l }
  let s := s.modCtx c fun x =>
    { x with
      phase := if faulted then .faulted else .saved
      svUsed := BitVec.ofNat 32 (ceilDiv total 4096), migPortable := portable, saving := false
      faultPending := false }
  (if faulted then s.raise c 2 else s).endCommand c

/-- Steps 7 and 8 of R424 and the rest of step 2 of R423; `none` when the save area cannot be written
(R425). -/
def State.writeSave (s : State) (c : BitVec 6) : Option State :=
  let s := s.cancelWaits c
  let s := (s.stoppedTeams c).foldl (fun s t => s.packTeam t) s
  let area := s.saveArea c
  let x := s.ctx c
  if x.svSize.toNat * 4096 < area.length then none
  else
    (tenderWrite s c x.saveBase area).map fun s =>
      s.enterSaved c area.length ((s.quiescing c).all fun n => (s.teamsIn n .saved).isEmpty)

/-- Quads of a wave that an operation has released leave their waits before the wave is saved: they are no longer
parked (R128, R132). -/
def State.releasedFirst (s : State) (t w : Nat) : State :=
  (upTo (s.wave t w).quads.length).foldl (fun s n =>
    match (s.quad t w n).cwait? with
    | some x => if x.status.isSome then s.resumeWaits t w x.tag else s
    | none => s) s

/-- Walks are saved and held lines bound on every core; then waits that were released, by these writes too, and
pending traps (R424 steps 3 and 6, R128, R425). -/
def State.beginSave (s : State) (c : BitVec 6) : State :=
  let s := (upTo 288).foldl (fun s core => (s.saveWalks c core).emptyL1 c core) s
  (s.stoppedTeams c).foldl (fun s t =>
    (upTo (s.team t).waves.length).foldl (fun s w => (s.releasedFirst t w).trapsFirst t w) s) s

/-- `SAVE_COMPLETE` (R92, R423 to R425). While something that the save waits for is outstanding, or the area
cannot be written, the save does not complete. -/
def execSaveComplete (ctx : BitVec 6) (s : State) : Out :=
  .next
    (let x := s.ctx ctx
     if x.phase = .quiescing ∧ !x.deadlinePassed s.wall ∧ (x.saving ∨ !s.hasResident ctx) then
       let s := (s.stoppedTeams ctx).foldl (fun s t => s.pumpDrain t s.nextId) s
       if s.savable ctx then
         let s := s.beginSave ctx
         if s.savable ctx then (s.writeSave ctx).getD s else s
       else s
     else s)

/-- `SAVE_DEADLINE` (R34, R38, R423): the entry is written before the sequence starts. -/
def execSaveDeadline (ctx : BitVec 6) (s : State) : Out :=
  .next
    (let x := s.ctx ctx
     if x.phase = .quiescing ∧ x.deadlinePassed s.wall then
       (s.log ctx (.plain 0x0008 8 0 0)).enterReset ctx
     else s)

end Sys2Proof.Machine
end

