-- ==== Sys2Proof/Machine/Restore.lean ====
section
/-! DEFINITION. The run command (R34, R96, R430, R431): how a save area is read back, and the launches, teams and
packets that come of it. Then the register writes that need it. -/

namespace Sys2Proof.Machine

/-! ### Reading a quad -/

/-- A clause context of a quad record; a count of 0 is none (R428). -/
def clauseOf (x : Word) : Option ClauseCtx :=
  if slice x 19 10 = 0 then none
  else some {
    setA := if x.getLsbD 4 then some (x.extractLsb' 0 4) else none
    setB := if x.getLsbD 9 then some (x.extractLsb' 5 4) else none
    left := x.extractLsb' 10 10, barWait := x.getLsbD 20 }

/-- The translation causes that a deferred fault may have. -/
def transCauses : List TransCause :=
  [.canonical, .notpresent, .format, .window, .tenant, .physical, .poison, .write, .code, .counter, .scope]

/-- The pending deferred fault of a quad record (R428). It does not name the flag whose header raises it. -/
def deferredOf (x : Word) (flag : BitVec 4) : List Deferred :=
  if x.getLsbD 0 then
    match transCauses.find? fun c => (TrapCause.trans c).code == slice x 9 4 with
    | some c =>
      [{ point := if slice x 3 2 = 1 then .drainPoint else .header flag, cause := .trans c
         addr := ((x.extractLsb' 10 54 : BitVec 54) ++ 0#3).signExtend 64, lanes := 0xF }]
    | none => []
  else []

/-- The saved wait of a quad record (R121, R428). The width of a forced fuse stands in its instruction: 7 until that is
fetched. -/
def waitOf (bs : List Byte) : QWait :=
  let st := field64 bs 8
  match slice st 11 8 with
  | 2 => .jwait (st.extractLsb' 12 3) 0
  | 3 => .fuse 7 0
  | 4 =>
    let kind : WaitKind := match field bs 84 4 with
      | 0 => .cwait
      | 1 => .kwaitFull
      | 2 => .kwaitFree
      | _ => .bar
    let target := field bs 72 8
    .counter {
      kind := kind, loc := .team, addr := field64 bs 64
      target := if target = 0 ∧ kind = .kwaitFull then 2 ^ 64 else target
      timeout := BitVec.ofNat 32 (field bs 80 4), elapsed := 0, woken := 0, cap := 4, acq := st.getLsbD 47
      st := if st.getLsbD 46 then some (st.extractLsb' 40 6) else none
      status := none, spilled := false, tag := 0, request := none, cancelled := false }
  | 7 => .unhandled
  | _ => .ready

/-- A reserved bit of a quad record is set (R430). -/
def quadReserved (bs : List Byte) : Bool :=
  let st := field64 bs 8
  slice st 7 6 != 0 || st.getLsbD 15 || slice st 63 48 != 0 || slice (field64 bs 16) 63 13 != 0 ||
    slice (field64 bs 16) 7 5 != 0 || slice (field64 bs 96) 1 0 != 0 ||
    (upTo 12).any (fun i => decide (64 ≤ field bs (40 + i) 1)) || !zeroField bs 52 4 ||
    slice (field64 bs 104) 63 21 != 0 || slice (field64 bs 112) 62 21 != 0 || (field64 bs 120).getLsbD 1 ||
    (upTo 4).any fun i => field bs (643 + 4 * i) 1 != 0

/-- A lane of a quad record. -/
def laneOf (bs : List Byte) (regs i : Nat) : Lane :=
  { v := Vector.ofFn fun n => if n.val < regs then field32 bs (656 + 16 * n.val + 4 * i) else 0
    p := BitVec.ofNat 24 (field bs (640 + 4 * i) 3) }

/-- The quad of a record (R428). -/
def quadOf (bs : List Byte) (regs : Nat) (flag : BitVec 4) : Quad :=
  let st := field64 bs 8
  { Quad.start with
    pc := field64 bs 0, em := st.extractLsb' 0 4, inHandler := st.getLsbD 4, exited := st.getLsbD 5
    scb := st.extractLsb' 32 8, fmt := BitVec.ofNat 13 (field bs 16 2), seed := field64 bs 24, gen := field bs 32 8
    f := Vector.ofFn fun i => BitVec.ofNat 6 (field bs (40 + i.val) 1)
    joins := Vector.ofFn fun i => bs.getD (56 + i.val) 0
    wait := waitOf bs, trapinfo := field64 bs 88, trappc := field64 bs 96
    clause := clauseOf (field64 bs 104)
    trapClause := if (field64 bs 112).getLsbD 63 then clauseOf (field64 bs 112) else none
    deferred := deferredOf (field64 bs 120) flag
    s := Vector.ofFn fun i => field64 bs (128 + 8 * i.val)
    lanes := Vector.ofFn fun i => laneOf bs regs i.val }

/-- The quad is parked after an unhandled trap (R416). -/
def QWait.isUnhandled : QWait → Bool
  | .unhandled => true
  | _ => false

/-- Bytes of a quad record (R428). -/
def quadSize (k : Kernel) : Nat := 656 + 16 * k.regs

/-- Bytes of a wave header with its records (R427). -/
def waveSize (k : Kernel) : Nat := 64 + 2 ^ k.lgwave * quadSize k

/-- The number of set bits among the low 16, and the lowest of them: a GANGMAP as a gang. -/
def gangOfMap (m : Nat) : Option Gang :=
  match (upTo 16).filter fun i => m.testBit i with
  | [] => none
  | b :: rest => some { base := b, lg := Nat.log2 (rest.length + 1), active := false, slotFree := 0 }

/-- The wave at the head of the bytes (R120, R427, R428); `none` when a reserved field is not zero. -/
def waveOf (k : Kernel) (wid : Nat) (flag : BitVec 4) (bs : List Byte) : Option Wave :=
  let quads := (upTo (2 ^ k.lgwave)).map fun n => (bs.drop (64 + n * quadSize k)).take (quadSize k)
  if field bs 0 4 != wid || !zeroField bs 12 52 || quads.any quadReserved then none
  else
    let qs := quads.map fun q => quadOf q k.regs flag
    let maps := quads.map fun q => slice (field64 q 8) 31 16
    some { Wave.blank with
      wid := wid, fusest := field32 bs 4, wdog := field32 bs 8
      stopped := qs.any fun q => q.wait.isUnhandled
      gangs := (maps.foldl (fun l m => if l.contains m then l else l ++ [m]) []).filterMap gangOfMap
      quads := qs }

/-! ### Reading a team -/

/-- The bytes of an engine entry's body as a nest (R429); `none` when its words are no loop nest. -/
def nestBodyOf (bs : List Byte) : Option NestBody :=
  let w (i : Nat) : Code := field32 bs (8 + 4 * i)
  match decodeNest (w 0) (w 1) (w 2) (w 3) (w 4) (w 5) (w 6) (w 7) with
  | .error _ => none
  | .ok i =>
    let body (op : Nat) (n : Nest) : Option NestBody :=
      some {
        op := op, nest := n, s0 := field64 bs 40, s1 := field64 bs 48, s2 := field64 bs 56, s3 := field64 bs 64
        s4 := field64 bs 72, seed := field64 bs 96, n := field bs 80 8, ac := field64 bs 88
        acLoaded := decide (0 < field bs 80 8), stopped := false }
    match i with
    | .lnestCopy n => body 0x00 n
    | .lnestAdd n => body 0x01 n
    | .lnestSub n => body 0x02 n
    | .lnestMul n => body 0x03 n
    | .lnestFma n => body 0x04 n
    | .lnestMin n => body 0x05 n
    | .lnestMax n => body 0x06 n
    | .lnestSum n => body 0x10 n
    | .lnestDot n => body 0x11 n
    | .lnestRmax n => body 0x12 n
    | .lnestRmin n => body 0x13 n
    | _ => none

/-- The body of an engine entry (R429); `none` when it is none or a reserved field is not zero. -/
def entryBodyOf (bs : List Byte) : Option EntryBody :=
  match field bs 1 1 with
  | 0 =>
    if zeroField bs 72 56 then
      (copyBlockOf ((bs.drop 8).take 64)).map fun b => .copy b.job
    else none
  | 1 => if zeroField bs 24 104 then some (.qwait (field64 bs 8) (field64 bs 16)) else none
  | 2 => if zeroField bs 24 104 then some (.qadd (field64 bs 8) (field64 bs 16)) else none
  | 3 => if zeroField bs 104 24 then (nestBodyOf bs).map .nest else none
  | 4 =>
    if zeroField bs 9 7 && zeroField bs 24 104 then
      some (.marker (BitVec.ofNat 8 (field bs 8 1)) (field bs 16 8))
    else none
  | _ => none

/-- The group of a marker is told apart from those of other teams. -/
def EntryBody.regroup (b : EntryBody) (base : Nat) : EntryBody :=
  match b with
  | .marker m g => .marker m ((base + 1) * 2 ^ 64 + g)
  | .copy j => .copy j
  | .qwait a v => .qwait a v
  | .qadd a v => .qadd a v
  | .nest x => .nest x

/-- An engine entry of a team save, with its queue (R429). -/
def entryOf (c : BitVec 6) (id : Nat) (bs : List Byte) : Option (Nat × Entry) :=
  if 7 < field bs 0 1 ∨ !zeroField bs 4 4 then none
  else
    (entryBodyOf bs).map fun b =>
      (field bs 0 1,
        { id := id, ctx := c, team := 0, wave := field bs 3 1, quad := field bs 2 1, body := b, fetched := []
          done := false, sent := false, logged := [], stamp := none })

/-- The log sources that a write through the L1 can have (R47, R491): lane, scalar, copy, loop-nest. -/
def writerSource : Fin 4 → BitVec 4
  | 0 => 0 | 1 => 1 | 2 => 2 | 3 => 5

/-- A held-line record (R429). It does not name the writers. -/
def heldOf (c : BitVec 6) (bs : List Byte) : Option HeldLine :=
  if zeroField bs 24 8 && field bs 0 8 % 128 == 0 then
    some {
      ctx := c, line := field bs 0 8 / 128, mask := BitVec.ofNat 128 (field bs 8 16)
      data := Vector.ofFn fun i => bs.getD (32 + i.val) 0
      sources := Vector.ofFn fun i => writerSource (Config.savedSource (field bs 0 8) i.val), bound := none
      pinned := false, writers := [], low := false }
  else none

/-- The reserved fields of an overflow entry are zero (R204). -/
def overflowOk (bs : List Byte) : Bool :=
  let info := field64 bs 24
  slice info 62 48 == 0 && slice info 31 8 == 0

/-- A saved walk: its owner comes from its record (R225), which is rejected when it breaks a limit (R11;
notes/assumptions/34.md). What the save area does not hold, the register that
receives its status, is free (notes/assumptions/31.md). -/
def savedWalk (s : State) (c : BitVec 6) (id pend : Nat) (va : Word) : Option Walk :=
  match tenderRead s c va 256 with
  | (_, none) => none
  | (s, some bs) =>
    let own := field64 bs 168
    let lane := slice own 42 37
    if badRecord bs then none
    else some {
      id := id, ctx := c, team := 0, wave := slice own 36 32, quad := lane / 4, lane := lane % 4, pend := pend
      vd := (Config.freeByte (s.free + id)).toNat, record := va, image := Vector.replicate 256 0
      regs := Vector.replicate 8 0, stack := []
      layout := { nodesz := 0, maxkids := 0, kindoff := 0, cpoff := 0, cpenc := 0, boxoff := 0, boxenc := 0
                  leafoff := 0, leafenc := 0, base := 0 }
      buffer := none, steps := 0, want := none, active := false, fetched := [], logged := [], check := none }

/-- `n` consecutive pieces of `size` bytes from `off` on. -/
def chop (bs : List Byte) (off size n : Nat) : List (List Byte) :=
  (upTo n).map fun i => (bs.drop (off + i * size)).take size

/-- Every element of a list of options, or none. -/
def allSome {α : Type} : List (Option α) → Option (List α)
  | [] => some []
  | x :: xs =>
    match x, allSome xs with
    | some a, some l => some (a :: l)
    | _, _ => none

/-- A quad waits again for its saved walks: for each unit of a flag it has an outstanding instruction, the first
of which waits for the walks; without a flag it interlocks (R276, R277). -/
def Quad.awaitWalks (q : Quad) (id : Nat) (walks : List Nat) : Quad :=
  let pend (i : Nat) (flag : Option (BitVec 4)) : Pend :=
    { id := id + i, flag := flag, writes := [], loads := [], blends := [], faults := []
      walks := if i = 0 then walks else [], requests := [], poll := none }
  let flags := (upTo 12).flatMap fun n => List.replicate (q.f.getD n 0).toNat (BitVec.ofNat 4 n)
  if flags.isEmpty then
    (if walks.isEmpty then q else { q with pends := [pend 0 none], wait := .interlock 0 })
  else { q with pends := flags.mapIdx fun i n => pend i (some n) }

/-- The quads of a gang that a walk instruction without a flag holds, and that have no saved walk, have completed it: they
wait for the others (R277, R431). -/
def Wave.awaitGangs (w : Wave) : Wave :=
  let held (n : Nat) : Bool := w.gangs.any fun g =>
    decide (g.base ≤ n) && decide (n < g.base + 2 ^ g.lg) &&
      (upTo (2 ^ g.lg)).any fun i => (w.quad (g.base + i)).wait == .interlock 0
  { w with quads := w.quads.mapIdx fun n q =>
      if !q.exited && decide (q.wait = .ready) && held n then { q with wait := .landed 0 } else q }

/-- The engine queue of the loop-nest fault whose handler a quad runs, as TRAPINFO names it (R411). -/
def Quad.nestQueue (q : Quad) : Option Nat :=
  let cause := slice q.trapinfo 59 54
  if q.inHandler && decide (0x31 ≤ cause) && decide (cause ≤ 0x38) then some (slice q.trapinfo 62 60) else none

/-- The loop-nest entry that is stopped while a quad runs its handler (R381): the first of the quad's in its queue. -/
def Quad.nestStopped (q : Quad) (wave n : Nat) (es : List (Nat × Entry)) : Option Nat :=
  q.nestQueue.bind fun queue =>
    (es.find? fun e =>
      e.1 == queue && e.2.wave == wave && e.2.quad == n &&
        (match e.2.body with
         | .nest _ => true
         | .copy _ | .qwait _ _ | .qadd _ _ | .marker _ _ => false)).map (·.2.id)

/-- An entry stops at its element (R381). -/
def Entry.stopAt (e : Entry) : Entry :=
  match e.body with
  | .nest b => { e with body := .nest { b with stopped := true } }
  | .copy _ | .qwait _ _ | .qadd _ _ | .marker _ _ => e

/-- The pend under which a quad waits for its saved walks. -/
def walkPend (base wave quad : Nat) : Nat := base + 1048576 + 4096 * (16 * wave + quad)

/-- The team of a team save (R427 to R429), with its size; `none` when a reserved field is not zero, when the save
is not of the launch, or when it does not lie in the bytes (R430). `base` is the first identity it may use. -/
def teamOfSave (s : State) (l : Launch) (base : Nat) (bs : List Byte) : Option (Team × Nat) :=
  let k := l.kernel
  let size := field bs 0 8
  let no := field bs 32 2
  let ne := field bs 34 2
  let nw := field bs 36 2
  let nh := field bs 38 2
  let mask := field bs 40 2
  let scratch := 1024
  let waves := scratch + k.scratchBytes
  let over_ := waves + k.waves * waveSize k
  let entries := over_ + 32 * no
  let walks := entries + 128 * ne
  let held := walks + 8 * nw
  let fits : Bool :=
    size == held + 160 * nh && decide (size ≤ bs.length) && field bs 12 4 == l.gridid.toNat &&
      field bs 16 4 == k.shape.toNat && field bs 20 4 == k.rtboff && zeroField bs 42 22 && zeroField bs 832 192
  let ringAt (i : Nat) : Option (Option Ring) :=
    let d := (bs.drop (64 + 48 * i)).take 48
    if mask.testBit i then (ringOf d).map some else if zeroField d 0 48 then some none else none
  let flag := BitVec.ofNat 4 ((Config.freeByte (s.free + base)).toNat % 12)
  match allSome ((upTo 16).map ringAt),
      allSome ((upTo k.waves).map fun w => waveOf k w flag ((bs.drop (waves + w * waveSize k)).take (waveSize k))),
      allSome ((chop bs entries 128 ne).mapIdx fun i b =>
        (entryOf l.ctx (base + i) b).map fun e => (e.1, { e.2 with body := e.2.body.regroup base })),
      allSome ((chop bs walks 8 nw).mapIdx fun i b =>
        (savedWalk s l.ctx (base + 65536 + i) 0 (field64 b 0)).map fun w =>
          { w with pend := walkPend base w.wave w.quad }),
      allSome ((chop bs held 160 nh).map fun b => heldOf l.ctx b) with
  | some rings, some ws, some es, some walks, some hs =>
    if fits && (chop bs over_ 32 no).all overflowOk then
      let own (w n : Nat) : List Nat := (walks.filter fun x => x.wave == w && x.quad == n).map (·.id)
      let await (w : Wave) : Wave :=
        Wave.awaitGangs { w with quads := w.quads.mapIdx fun n q =>
            { q.awaitWalks (walkPend base w.wid n) (own w.wid n) with nestHandled := q.nestStopped w.wid n es } }
      let stopped : List Nat := ws.flatMap fun w =>
        (upTo w.quads.length).filterMap fun n => (w.quad n).nestStopped w.wid n es
      some
        ({ Team.blank with
            ctx := l.ctx, kernel := k, teamid := BitVec.ofNat 32 (field bs 8 4), gridid := l.gridid
            phase := .saved, scratch := Mem.write [] 0 ((bs.drop scratch).take k.scratchBytes)
            counter := field64 bs 24, rings := Vector.ofFn fun i => rings.getD i.val none
            waves := ws.map await
            carried := {
              held := hs, entries := es.map fun e => (e.1, if stopped.contains e.2.id then e.2.stopAt else e.2)
              overflow := chop bs over_ 32 no, walks := walks } }, size)
    else none
  | _, _, _, _, _ => none

/-! ### Reading the area -/

/-- A team of a save: a saved team of the state whose save stands unchanged, or one read from its save; with the offset
and the size of the save. -/
structure TeamRead where
  team : Nat ⊕ Team
  off : Nat
  size : Nat
  deriving DecidableEq, Repr

/-- A launch of a kernel record, the launch of the state that it continues, and its teams. -/
structure Resumed where
  launch : Launch
  old : Option Nat
  teams : List TeamRead
  deriving DecidableEq, Repr

/-- A saved team of the context whose team save is these bytes. -/
def State.sameSave (s : State) (c : BitVec 6) (bs : List Byte) : Option Nat :=
  (upTo s.teams.length).find? fun t =>
    let x := s.team t
    x.ctx == c && decide (x.phase = .saved) && x.gridid.toNat == field bs 12 4 && x.teamid.toNat == field bs 8 4 &&
      x.saveBytes == bs.take (field bs 0 8)

/-- The first identity of a team whose save lies at an offset; 4,096 for each byte are enough. -/
def firstId (s : State) (off : Nat) : Nat := s.nextId + 4096 * off

/-- The team saves of a launch from an offset on (R427). -/
def readTeams (s : State) (l : Launch) (area : List Byte) : Nat → Nat → Option (List TeamRead)
  | 0, _ => some []
  | n + 1, off =>
    let bs := area.drop off
    let more (x : Nat ⊕ Team) (size : Nat) : Option (List TeamRead) :=
      (readTeams s l area n (off + align256 size)).map fun xs => { team := x, off := off, size := size } :: xs
    match s.sameSave l.ctx bs with
    | some t =>
      if (s.team t).carried.walks.all fun w => (savedWalk s l.ctx 0 0 w.record).isSome then
        more (.inl t) (field bs 0 8)
      else none
    | none =>
      match teamOfSave s l (firstId s off) bs with
      | none => none
      | some (t, size) => more (.inr t) size

/-- Every byte of the area from an offset on that no team save takes is reserved and zero (R426): the saves rise by
their offsets. -/
def gapsZero (area : List Byte) : Nat → List TeamRead → Bool
  | off, [] => zeroField area off (area.length - off)
  | off, x :: xs => zeroField area off (x.off - off) && gapsZero area (max off (x.off + x.size)) xs

/-- The saved launch of the context that a kernel record continues. -/
def State.sameLaunch (s : State) (c : BitVec 6) (bs : List Byte) : Option Nat :=
  (upTo s.launches.length).find? fun n =>
    match s.launches[n]? with
    | some l =>
      l.ctx == c && decide (l.state = .saved) && l.gridid.toNat == field bs 64 4 && l.packet == bs.take 64
    | none => false

/-- The kernel of a record: that of the launch it continues, or its descriptor read again (R94, R96). -/
def kernelOfRecord (s : State) (c : BitVec 6) (bs : List Byte) : Option Kernel :=
  match (s.sameLaunch c bs).bind fun n => s.launches[n]? with
  | some l => some l.kernel
  | none => (tenderRead s c (field64 bs 8) 128).2.bind kernelOf

/-- A kernel record (R94, R96, R430); `none` when it is rejected. -/
def readKernel (s : State) (c : BitVec 6) (area : List Byte) (bs : List Byte) : Option Resumed :=
  let live := field bs 72 4
  let next := field bs 68 4
  let at_ := (field64 bs 80 - (s.ctx c).saveBase).toNat
  let legal : Bool :=
    field bs 88 4 / 2 == 0 && zeroField bs 94 34 && !slotReserved (bs.take 64) && decide (field bs 92 2 ≤ Config.mmlLevel) &&
      (live == 0 || (field32 bs 76 == Config.stepping && at_ % 256 == 0 && decide (at_ < area.length)))
  if !legal then none
  else
    match kernelOfRecord s c bs with
    | none => none
    | some k =>
      let queue := Config.savedQueue c.toNat (field bs 64 4)
      let l := launchOf c queue (BitVec.allOnes 64) (bs.take 64) k (field32 bs 64)
      let l := { l with next := next, ended := next - live
                        state := if next < l.total then .dispatching else .running }
      (readTeams s l area live at_).map fun ts =>
        { launch := l, old := s.sameLaunch c bs, teams := ts }

/-- The number of earlier records that are equal to record `i`. -/
def earlierEqual (records : List (List Byte)) (i : Nat) : Nat :=
  ((records.take i).filter fun b => b == records.getD i []).length

/-- A packet of a packet record with its queue: one of the state, or one that is read (R426, R430). Of equal records
each stands for a packet of its own. A copy control block is read again as the packet starts
(notes/assumptions/79.md). -/
def readPacket (s : State) (c : BitVec 6) (records : List (List Byte)) (i : Nat) (bs : List Byte) :
    Option (BitVec 8 × Admitted) :=
  let q : BitVec 8 := BitVec.ofNat 8 (field bs 64 2)
  let p := bs.take 64
  if !zeroField bs 66 62 || decide (255 < field bs 64 2) || slotReserved p then none
  else
    match ((s.queue c q).admitted.filter fun a => a.packet == p && !a.started)[earlierEqual records i]? with
    | some a => some (q, { a with id := s.nextId + i, restored := a.startsAgain && !a.logged.contains 1 })
    | none =>
      let a := admittedOf (s.nextId + i)
        { index := BitVec.allOnes 64 - 1 - BitVec.ofNat 64 i, producer := 0, packet := p, kernel := none
          block := none, req := 0 }
      some (q, { a with restored := a.startsAgain })

/-- What a save area holds: the GRIDID counter, launches and packets. -/
structure SaveArea where
  grid : BitVec 32
  launches : List Resumed
  packets : List (BitVec 8 × Admitted)
  deriving DecidableEq, Repr

/-- The save area of a context (R426, R430); `none` when the device rejects it. -/
def readSave (s : State) (c : BitVec 6) : Option SaveArea :=
  let x := s.ctx c
  match (tenderRead s c x.saveBase 256).2 with
  | none => none
  | some h =>
    let total := field h 24 8
    if field h 0 4 != 1 || !zeroField h 20 4 || !zeroField h 32 224 || decide (total < 256) ||
        decide (x.svSize.toNat * 4096 < total) then none
    else
      match (tenderRead s c x.saveBase total).2 with
      | none => none
      | some area =>
        let nk := field area 12 4
        let np := field area 16 4
        if total < 256 + 128 * (nk + np) then none
        else
          match allSome ((chop area 256 128 nk).map fun b => readKernel s c area b),
              allSome ((chop area (256 + 128 * nk) 128 np).mapIdx fun i b =>
                readPacket s c (chop area (256 + 128 * nk) 128 np) i b) with
          | some ls, some ps =>
            if gapsZero area (256 + 128 * (nk + np)) (sortOn (·.off) (ls.flatMap (·.teams))) then
              some { grid := field32 area 8, launches := ls, packets := ps }
            else none
          | _, _ => none

/-! ### The run command -/

/-- The spec does not say what becomes of a saved launch or team that the area does not name. The model discards the
team; the launch stays in saved, as R81 gives it no other way, and places nothing (notes/assumptions/82.md). -/
def State.dropUnnamed (s : State) (c : BitVec 6) (a : SaveArea) : State :=
  let keptT : List Nat := a.launches.flatMap fun r => r.teams.filterMap fun t =>
    match t.team with
    | .inl n => some n
    | .inr _ => none
  { s with
    teams := s.teams.mapIdx fun n t =>
      if t.ctx = c ∧ t.phase = .saved ∧ !keptT.contains n then t.discard else t }

/-- The launch packets of launches that are read from an area alone (R94, R426). -/
def SaveArea.launchPackets (a : SaveArea) (id : Nat) : List (BitVec 8 × Admitted) :=
  ((a.launches.filter fun r => r.old.isNone).map (·.launch)).mapIdx fun i l =>
    (l.queue, admittedOf (id + i)
      { index := l.index, producer := 0, packet := l.packet, kernel := some l.kernel, block := none, req := 0 })

/-- Admitted packets of a context after a restore (R73, R431): those of resumed launches, then the packet
records. -/
def State.restorePackets (s : State) (c : BitVec 6) (a : SaveArea) : State :=
  let launched (p : Admitted) : Bool := packetType p.packet == 1 && s.launches.any fun l =>
    l.ctx == c && l.inFlight && l.state != .saved && l.index == p.index && l.packet == p.packet
  s.modCtx c fun x =>
    { x with queues := x.queues.mapIdx fun q u =>
        { u with admitted := u.admitted.filter launched ++
            ((a.launchPackets (s.nextId + a.packets.length) ++ a.packets).filter fun p => p.1.toNat == q).map (·.2) } }

/-- A launch resumes with its teams (R96): its place among the launches is kept, or it follows them. -/
def State.resumeLaunch (s : State) (r : Resumed) : State :=
  let n := r.old.getD s.launches.length
  let s : State :=
    match r.old with
    | some n =>
      s.modLaunch n fun l =>
        { l with next := r.launch.next, ended := r.launch.ended, state := r.launch.state, resumed := true }
    | none => { s with launches := s.launches ++ [{ r.launch with resumed := true }] }
  r.teams.foldl (fun s t =>
    match t.team with
    | .inl _ => s
    | .inr x => { s with teams := s.teams ++ [{ x with launch := n }] }) s

/-- The state of a context after its save area was read (R431). -/
def State.resume (s : State) (c : BitVec 6) (a : SaveArea) : State :=
  let s := a.launches.foldl (fun s r => s.resumeLaunch r) (s.dropUnnamed c a)
  let s := s.restorePackets c a
  let s := s.modCtx c fun x => { x with grid := a.grid }
  let size := (s.ctx c).svSize.toNat * 4096
  { s with free := s.free + firstId s size, nextId := firstId s size }

/-- The save area of a context that has never run holds a save: a migration has copied it there (R96 steps 3 to 5;
notes/assumptions/86.md). -/
def State.holdsSave (s : State) (c : BitVec 6) : Bool :=
  let x := s.ctx c
  x.neverRun && decide (0 < x.svSize.toNat) &&
    match (tenderRead s c x.saveBase 256).2 with
    | some h => field h 0 4 == 1 && decide (256 < field h 24 8)
    | none => false

/-- The run of a context whose save area is restored first (R430). -/
def State.runRestored (s : State) (c : BitVec 6) : State :=
  match readSave s c with
  | none => s.finishCommand c 3
  | some a => ((s.resume c a).startRun c).finishCommand c 0

/-- The run command (R34, R96, R430): a context that is bound runs, one that is saved is restored first. R34 restores an
area only from saved, and the steps of R96 end with a run of a context that was just bound: the model restores the area of
one that has never run when it holds a save (notes/assumptions/86.md). -/
def State.runCtx (s : State) (c : BitVec 6) : State :=
  match (s.ctx c).phase with
  | .bound => if s.holdsSave c then s.runRestored c else (s.startRun c).finishCommand c 0
  | .saved => s.runRestored c
  | .destroyed | .created | .running | .quiescing | .faulted | .reset => s.refuseCommand c

/-- `CTXCMD_RUN` (R34, R430). -/
def execCtxcmdRun (port : Port) (ctx : BitVec 6) (s : State) : Out :=
  .next (s.command port ctx fun s => s.runCtx ctx)

/-- `REGISTER_WRITE` (R33): a write of a register of BAR 0 or BAR 2. -/
def execRegisterWrite (port : Port) (bar : Bar) (off : BitVec 24) (val : Word) (s : State) : Out :=
  .next
    (match bar with
     | .bar0 => s.deviceRegister port off.toNat val
     | .bar2 => s.blockRegister port (fun c s => s.runCtx c) off.toNat val)

end Sys2Proof.Machine
end

