-- ==== Sys2Proof/Machine/Texture.lean ====
section
/-! DEFINITION. Texture instructions (R396 to R400): the descriptor of each quad, the texels of each lane,
and the loads and blends of a performance. -/

namespace Sys2Proof.Machine

/-- What a lane takes (R398): the texels it reads; for each result register a channel, a denominator and
its weighted texels by their place in that list; or plain numbers. -/
structure TexPlan where
  texels : List Word
  outs : List (Nat × Nat × List (Nat × Nat))
  ints : List Nat
  deriving DecidableEq, Repr

/-- A plan whose four channels are the same weighted texels (R397): a texel of weight zero takes no
part. -/
def TexPlan.blend (den : Nat) (ts : List (Nat × Word)) : TexPlan :=
  let used := ts.filter fun t => t.1 != 0
  let terms := (upTo used.length).map fun i => ((used.getD i (0, 0)).1, i)
  { texels := used.map (·.2), outs := (upTo 4).map fun c => (c, den, terms), ints := [] }

/-- A texture form (R398): its vector source and result registers, whether it filters its samples (R397, R399), and a
lane's plan. -/
structure TexForm where
  srcs : Nat
  dsts : Nat
  filters : Bool
  plan : TexDesc → Lane → TexPlan

/-- A descriptor as an instruction finds it (R400): a fault, poison, a wait for bytes of another device, or its fields. -/
inductive DescRead where
  | fault (f : MFault)
  | poison (va : Word)
  | waits
  | ok (d : TexDesc)
  deriving DecidableEq, Repr

/-- Reads a quad's descriptor (R396, R400, R438). -/
def descAt (s : State) (g : GangRef) (n : Nat) (va : Word) : State × DescRead :=
  if va.toNat % 32 ≠ 0 then (s, .fault { cause := .alignment, addr := va, tf := none })
  else
    match locate s (s.coreOf g) (s.ctxOf g) (s.teamOf g).kernel.scratchBytes va 32 .read with
    | (s, .error f) => (s, .fault f)
    | (s, .ok _) =>
      match blockAt s g 0 n va 32 with
      | (s, .fault f) => (s, .poison f.addr)
      | (s, .waits) => (s, .waits)
      | (s, .ok bs) =>
        match texDescOf bs with
        | some d => (s, .ok d)
        | none => (s, .fault { cause := .texDescriptor, addr := va, tf := none })

/-- The descriptors of the quads with an active lane, in order. -/
def descAll (g : GangRef) (o : LaneOp) : List Nat → State → State × List (Nat × DescRead)
  | [], s => (s, [])
  | n :: ns, s =>
    match descAt s g n ((s.quadOf g n).rsN o.vb.toNat) with
    | (s, r) =>
      match descAll g o ns s with
      | (s, rs) => (s, (n, r) :: rs)

/-- The lanes of an instruction with their plans. -/
def texPlans (s : State) (g : GangRef) (o : LaneOp) (x : TexForm) (ds : List (Nat × DescRead)) :
    List (Nat × Nat × TexDesc × TexPlan) :=
  ds.flatMap fun (n, r) =>
    match r with
    | .ok d => ((upTo 4).filter fun i => (s.quadOf g n).active o i).map fun i =>
        (n, i, d, x.plan d ((s.quadOf g n).lane i))
    | .fault _ => []
    | .poison _ => []
    | .waits => []

/-- The texel addresses of a lane (R400). -/
def texAsks (n i : Nat) (d : TexDesc) (p : TexPlan) : List Ask :=
  p.texels.map fun va =>
    { quad := n, lanes := laneBit i, addr := va, len := texelBytes d.fmt, align := 1, need := .read
      spad := false }

/-- The active lanes of a quad. -/
def Quad.activeMask (q : Quad) (o : LaneOp) : BitVec 4 :=
  (upTo 4).foldl (fun m i => if q.active o i then m ||| laneBit i else m) 0

/-- The failures of an instruction, quad by quad: its descriptor's, or its lanes'. -/
def texFails (s : State) (g : GangRef) (o : LaneOp) (ds : List (Nat × DescRead))
    (bad : List (Ask × MFault)) : List (Nat × BitVec 4 × MFault) :=
  ds.flatMap fun (n, r) =>
    match r with
    | .fault f => [(n, (s.quadOf g n).activeMask o, f)]
    | .poison _ => []
    | .waits => []
    | .ok _ => (bad.filter fun x => x.1.quad == n).map fun x => (n, x.1.lanes, x.2)

/-- What one lane adds to its quad's performance: the blends of its texels, whose loads begin at
`first`, or its numbers. -/
def Later.takeTex (l : Later) (o : LaneOp) (i first : Nat) (d : TexDesc) (p : TexPlan) : Later :=
  { l with
    blends := l.blends ++ (upTo p.outs.length).map fun r =>
      let (c, den, ts) := p.outs.getD r (0, 1, [])
      { lane := i, reg := o.vd.toNat + r, fmt := d.fmt, chan := c, den := den
        terms := ts.map fun (w, k) => (w, first + k) }
    writes := l.writes ++ (upTo p.ints.length).map fun r =>
      .v i (o.vd.toNat + r) (BitVec.ofNat 32 (p.ints.getD r 0)) }

/-- The performance of one quad: the loads of its lanes' texels and the results they make. -/
def texQuad (s : State) (g : GangRef) (o : LaneOp) (pend : Nat) (flag : Option (BitVec 4))
    (plans : List (Nat × TexDesc × TexPlan)) (items : List (Want × Loc)) : State × Later :=
  match loadQuad s g 0 pend flag Later.empty items with
  | (s, l) =>
    (s, (plans.foldl (fun (x : Later × Nat) (i, d, p) =>
      (x.1.takeTex o i x.2 d p, x.2 + p.texels.length)) (l, 0)).1)

/-- A texture instruction over its fused gang (R398, R400); the stall counter of filtered samples counts one for each
lane (R468; notes/assumptions/61.md). -/
def texBody (o : LaneOp) (x : TexForm) (flag : Option (BitVec 4)) (s : State) (g : GangRef) : State :=
  if flagFull s g flag then s.hold g .structural
  else
    let qs := (s.live g).filter fun n => (s.quadOf g n).activeMask o != 0
    match descAll g o qs s with
    | (s, ds) =>
      if ds.any fun y => y.2 == .waits then s.awaitFetch g
      else
      let s := s.dropFetched g
      let plans := texPlans s g o x ds
      let asks := plans.flatMap fun (n, i, d, p) => texAsks n i d p
      match checkAsks s g asks with
      | (s, locs, bad) =>
        match texFails s g o ds bad with
        | (n, m, f) :: rest =>
          s.memTrap g f (fun k => ((n, m, f) :: rest).foldl (fun a y => if y.1 = k then a ||| y.2.1 else a) 0)
            0
        | [] =>
          let items : List (Want × Loc) := (asks.zip locs).map fun (a, l) =>
            ({ ask := a, dest := .held, signed := false }, l)
          let id := s.nextId
          match perQuad (fun s n =>
              match ds.find? fun y => y.1 == n with
              | some (_, .poison va) =>
                (s, { Later.empty with
                      faults := [poisonDeferred flag va ((s.quadOf g n).activeMask o)] })
              | _ =>
                texQuad s g o id flag
                  ((plans.filter fun y => y.1 == n).map (·.2)) (items.filter fun y => y.1.ask.quad == n))
              (s.live g) s.bumpId with
          | (s, ls) =>
            (s.stall (s.coreOf g) (s.ctxOf g) 13 (if x.filters then plans.length else 0)).issueLong g 3
              (cycles32 g) id flag fun n => lookupD ls n Later.empty

/-- The frame of a texture instruction (R398). -/
def texStep (o : LaneOp) (x : TexForm) (s : State) : Out :=
  laneStep s o [.v o.vd x.dsts 1, .v o.va x.srcs 1, .s o.vb] (texBody o x)

/-- The operands u and v of a lane. -/
def texUV (o : LaneOp) (l : Lane) : Code × Code := (l.rv o.va.toNat, l.rv (o.va.toNat + 1))

/-- `tex.point` (R397, R398). -/
def execTexPoint (o : LaneOp) (s : State) : Out :=
  texStep o
    { srcs := 2, dsts := 4, filters := false
      plan := fun d l => TexPlan.blend 1 [(1, d.point (texUV o l).1 (texUV o l).2)] } s

/-- `tex.bilinear` (R397, R398). -/
def execTexBilinear (o : LaneOp) (s : State) : Out :=
  texStep o
    { srcs := 2, dsts := 4, filters := true
      plan := fun d l => TexPlan.blend 65536 (d.bilinear 0 (texUV o l).1 (texUV o l).2) } s

/-- `tex.trilinear` (R399): the weights of both levels, so that the result is rounded once. -/
def execTexTrilinear (o : LaneOp) (s : State) : Out :=
  texStep o
    { srcs := 3, dsts := 4, filters := true
      plan := fun d l =>
        let (u, v) := texUV o l
        let lam := (floorScaled 256 0 (d.levels - 1) (l.rv (o.va.toNat + 2))).toNat
        let n0 := lam / 256
        let fl := lam % 256
        let part (k n : Nat) : List (Nat × Word) := (d.bilinear n u v).map fun t => (k * t.1, t.2)
        TexPlan.blend 16777216 (part (256 - fl) n0 ++ part fl (min (n0 + 1) (d.levels - 1))) } s

/-- `tex.gather` (R398): channel 0 of the four texels. -/
def execTexGather (o : LaneOp) (s : State) : Out :=
  texStep o
    { srcs := 2, dsts := 4, filters := false
      plan := fun d l =>
        { texels := (d.bilinear 0 (texUV o l).1 (texUV o l).2).map (·.2)
          outs := (upTo 4).map fun i => (0, 1, [(1, i)]), ints := [] } } s

/-- `texf` (R398). -/
def execTexf (o : LaneOp) (s : State) : Out :=
  texStep o
    { srcs := 3, dsts := 4, filters := false
      plan := fun d l =>
        let x := (l.rv o.va.toNat).toInt
        let y := (l.rv (o.va.toNat + 1)).toInt
        let n := (l.rv (o.va.toNat + 2)).toNat
        if n < d.levels ∧ 0 ≤ x ∧ x < d.wid n ∧ 0 ≤ y ∧ y < d.hei n then
          TexPlan.blend 1 [(1, d.texel n x.toNat y.toNat)]
        else { texels := [], outs := (upTo 4).map fun c => (c, 1, []), ints := [] } } s

/-- `texsz` (R398). -/
def execTexsz (o : LaneOp) (s : State) : Out :=
  texStep o
    { srcs := 1, dsts := 2, filters := false
      plan := fun d l =>
        let n := (l.rv o.va.toNat).toNat
        { texels := [], outs := []
          ints := if n < d.levels then [d.wid n, d.hei n] else [0, 0] } } s

end Sys2Proof.Machine
end

