-- ==== Sys2Proof/Machine/VectorFp.lean ====
section
/-! DEFINITION. The FP32 and FP64 vector instructions (R331 to R338). -/

namespace Sys2Proof.Machine

/-- How a form's modifier word rounds, with the lane's stochastic number (R321). -/
def modeOf (m : Mods) (r : Nat) : FpMode := { ty := m.ty, rnd := m.rnd, r := r, ftz := m.ftz }

/-- One source (R331). -/
def vFp1 (s : State) (o : LaneOp) (m : Mods) (k : Nat) (f : FpMode → Nat → Nat) : Out :=
  lane1 s o m.ty m.ty (fun g => k * cyclesOf m.ty g) m.rnd fun r a => f (modeOf m r) a

/-- Two sources (R331). -/
def vFp2 (s : State) (o : LaneOp) (m : Mods) (k : Nat) (f : FpMode → Nat → Nat → Nat) : Out :=
  lane2 s o m.ty (fun g => k * cyclesOf m.ty g) m.rnd fun r a b => f (modeOf m r) a b

/-- Three sources (R331). -/
def vFp3 (s : State) (o : LaneOp) (m : Mods) (f : FpMode → Nat → Nat → Nat → Nat) : Out :=
  lane3 s o m.ty (cyclesOf m.ty) m.rnd fun r a b c => f (modeOf m r) a b c

/-- `vadd` (R331). -/
def execVaddFp (o : LaneOp) (m : Mods) (s : State) : Out := vFp2 s o m 1 FpMode.add
/-- `vsub` (R331). -/
def execVsubFp (o : LaneOp) (m : Mods) (s : State) : Out := vFp2 s o m 1 FpMode.sub
/-- `vmul` (R331). -/
def execVmulFp (o : LaneOp) (m : Mods) (s : State) : Out := vFp2 s o m 1 FpMode.mul
/-- `vfma` (R331). -/
def execVfma (o : LaneOp) (m : Mods) (s : State) : Out := vFp3 s o m FpMode.fma
/-- `vfnma` (R331). -/
def execVfnma (o : LaneOp) (m : Mods) (s : State) : Out := vFp3 s o m FpMode.fnma
/-- `vmin` (R332). -/
def execVminFp (o : LaneOp) (m : Mods) (s : State) : Out := vFp2 s o m 1 FpMode.min
/-- `vmax` (R332). -/
def execVmaxFp (o : LaneOp) (m : Mods) (s : State) : Out := vFp2 s o m 1 FpMode.max
/-- `vabs` (R331). -/
def execVabsFp (o : LaneOp) (m : Mods) (s : State) : Out := vFp1 s o m 1 FpMode.abs
/-- `vneg` (R331). -/
def execVneg (o : LaneOp) (m : Mods) (s : State) : Out := vFp1 s o m 1 FpMode.neg
/-- `vcopysign` (R331). -/
def execVcopysign (o : LaneOp) (m : Mods) (s : State) : Out := vFp2 s o m 1 FpMode.copysign
/-- `vdiv` (R333). -/
def execVdiv (o : LaneOp) (m : Mods) (s : State) : Out := vFp2 s o m 4 FpMode.div
/-- `vsqrt` (R333). -/
def execVsqrt (o : LaneOp) (m : Mods) (s : State) : Out := vFp1 s o m 4 FpMode.sqrt
/-- `vrcp` (R333). -/
def execVrcp (o : LaneOp) (m : Mods) (s : State) : Out := vFp1 s o m 4 FpMode.rcp
/-- `vrsqrt` (R333). -/
def execVrsqrt (o : LaneOp) (m : Mods) (s : State) : Out := vFp1 s o m 4 FpMode.rsqrt
/-- `vrint` (R334). -/
def execVrint (o : LaneOp) (m : Mods) (s : State) : Out := vFp1 s o m 1 FpMode.rint
/-- `vclip` (R331). -/
def execVclip (o : LaneOp) (m : Mods) (s : State) : Out := vFp1 s o m 1 FpMode.clip
/-- `vclamp` (R331). -/
def execVclamp (o : LaneOp) (m : Mods) (s : State) : Out := vFp3 s o m FpMode.clamp
/-- `vsign` (R332). -/
def execVsign (o : LaneOp) (m : Mods) (s : State) : Out := vFp1 s o m 1 FpMode.sign

/-- `vcmp` on floats (R335). -/
def execVcmpFp (o : LaneOp) (m : Mods) (cc : Cond) (s : State) : Out :=
  laneCmp s o m.ty fun a b => (modeOf m 0).cmp cc a b

/-- `vclass` (R335): a 32-bit mask. -/
def execVclass (o : LaneOp) (m : Mods) (s : State) : Out :=
  lane1 s o m.ty .n32 (cyclesOf m.ty) .rne fun r a => (modeOf m r).cls a

/-- `vldexp` (R331): the exponent is an i32 in one register. -/
def execVldexp (o : LaneOp) (m : Mods) (s : State) : Out :=
  laneMap s o [.ty o.vd m.ty, .ty o.va m.ty, .one o.vb] (cyclesOf m.ty) m.rnd fun q lane l =>
    l.write o.vd.toNat (regsOf m.ty)
      ((modeOf m (stochOf m.rnd q.seed lane 0)).ldexp (l.read o.va.toNat (regsOf m.ty))
        (ElemTy.i32.intOf (l.read o.vb.toNat 1)))

/-- `vgetexp` (R336): an i32. -/
def execVgetexp (o : LaneOp) (m : Mods) (s : State) : Out :=
  lane1 s o m.ty .i32 (cyclesOf m.ty) .rne fun r a => (modeOf m r).getexp a

/-- `vlerp` (R331). -/
def execVlerp (o : LaneOp) (m : Mods) (s : State) : Out := vFp3 s o m FpMode.lerp
/-- `vexp2` (R337). -/
def execVexp2 (o : LaneOp) (m : Mods) (s : State) : Out := vFp1 s o m 4 FpMode.exp2
/-- `vlog2` (R337). -/
def execVlog2 (o : LaneOp) (m : Mods) (s : State) : Out := vFp1 s o m 4 FpMode.log2
/-- `vsinpi` (R337). -/
def execVsinpi (o : LaneOp) (m : Mods) (s : State) : Out := vFp1 s o m 4 FpMode.sinpi
/-- `vcospi` (R337). -/
def execVcospi (o : LaneOp) (m : Mods) (s : State) : Out := vFp1 s o m 4 FpMode.cospi

/-! ### Immediate forms (R338): RNE, subnormals kept -/

/-- The rounding of the immediate forms. -/
def immMode : FpMode := { ty := .f32, rnd := .rne, r := 0, ftz := false }

/-- `vadd` with an immediate. -/
def execVaddF32Imm (o : LaneOp) (imm : BitVec 32) (s : State) : Out :=
  laneImm s o fun a => immMode.add a imm.toNat
/-- `vmul` with an immediate. -/
def execVmulF32Imm (o : LaneOp) (imm : BitVec 32) (s : State) : Out :=
  laneImm s o fun a => immMode.mul a imm.toNat
/-- `vfma` with an immediate: a × m + c. -/
def execVfmaF32Imm (o : LaneOp) (imm : BitVec 32) (s : State) : Out :=
  laneMap s o [.one o.vd, .one o.va, .one o.vc] cycles32 .rne fun _ _ l =>
    l.write o.vd.toNat 1 (immMode.fma (l.read o.va.toNat 1) imm.toNat (l.read o.vc.toNat 1))
/-- `vmax` with an immediate. -/
def execVmaxF32Imm (o : LaneOp) (imm : BitVec 32) (s : State) : Out :=
  laneImm s o fun a => immMode.max a imm.toNat
/-- `vcmp` with an immediate. -/
def execVcmpF32Imm (o : LaneOp) (cc : Cond) (imm : BitVec 32) (s : State) : Out :=
  laneMap s o [.p o.vd, .one o.va] cycles32 .rne fun _ _ l =>
    l.setP o.vd.toNat (immMode.cmp cc (l.read o.va.toNat 1) imm.toNat)

end Sys2Proof.Machine
end

