-- ==== Sys2Proof/Machine/VectorInt.lean ====
section
/-! DEFINITION. The integer vector instructions (R325 to R330). -/

namespace Sys2Proof.Machine

/-- A two-source integer form (R325). -/
def vInt2 (s : State) (o : LaneOp) (t : ElemTy) (f : Nat → Nat → Nat) : Out :=
  lane2 s o t (cyclesOf t) .rne fun _ a b => f a b

/-- A one-source integer form (R325). -/
def vInt1 (s : State) (o : LaneOp) (t : ElemTy) (f : Nat → Nat) : Out :=
  lane1 s o t t (cyclesOf t) .rne fun _ a => f a

/-- `vadd` (R325). -/
def execVaddInt (o : LaneOp) (m : Mods) (s : State) : Out := vInt2 s o m.ty (intBin m.ty m.sat (· + ·))
/-- `vsub` (R325). -/
def execVsubInt (o : LaneOp) (m : Mods) (s : State) : Out := vInt2 s o m.ty (intBin m.ty m.sat (· - ·))
/-- `vmul` (R325). -/
def execVmulInt (o : LaneOp) (m : Mods) (s : State) : Out := vInt2 s o m.ty (intBin m.ty m.sat (· * ·))
/-- `vmulh` (R325). -/
def execVmulh (o : LaneOp) (m : Mods) (s : State) : Out := vInt2 s o m.ty (intMulh m.ty)
/-- `vmad` (R325). -/
def execVmad (o : LaneOp) (m : Mods) (s : State) : Out :=
  lane3 s o m.ty (cyclesOf m.ty) .rne fun _ a b c => intMad m.ty m.sat a b c
/-- `vmin` (R325). -/
def execVminInt (o : LaneOp) (m : Mods) (s : State) : Out := vInt2 s o m.ty (intMin m.ty)
/-- `vmax` (R325). -/
def execVmaxInt (o : LaneOp) (m : Mods) (s : State) : Out := vInt2 s o m.ty (intMax m.ty)
/-- `vabs` (R325). -/
def execVabsInt (o : LaneOp) (m : Mods) (s : State) : Out := vInt1 s o m.ty (intAbs m.ty m.sat)
/-- `vand` (R325). -/
def execVand (o : LaneOp) (m : Mods) (s : State) : Out := vInt2 s o m.ty (· &&& ·)
/-- `vor` (R325). -/
def execVor (o : LaneOp) (m : Mods) (s : State) : Out := vInt2 s o m.ty (· ||| ·)
/-- `vxor` (R325). -/
def execVxor (o : LaneOp) (m : Mods) (s : State) : Out := vInt2 s o m.ty (· ^^^ ·)
/-- `vnot` (R325). -/
def execVnot (o : LaneOp) (m : Mods) (s : State) : Out := vInt1 s o m.ty (intNot m.ty)
/-- `vpopc` (R325). -/
def execVpopc (o : LaneOp) (m : Mods) (s : State) : Out := vInt1 s o m.ty (popNat m.ty.bits)
/-- `vclz` (R325). -/
def execVclz (o : LaneOp) (m : Mods) (s : State) : Out := vInt1 s o m.ty (clzNat m.ty.bits)

/-- The amount of a shift in a lane (R325): an immediate, or the low `k` bits of vb. -/
def shiftBy (l : Lane) (o : LaneOp) (amt : ShiftAmt) (k : Nat) : Nat :=
  match amt with
  | .imm n => n.toNat
  | .reg => (l.rv o.vb.toNat).toNat % 2 ^ k

/-- The operand of a shift amount: vb, of the given registers, in the register form only. -/
def amtOpnd (o : LaneOp) (amt : ShiftAmt) (regs : Nat) : List Opnd :=
  match amt with
  | .imm _ => []
  | .reg => [.v o.vb regs regs]

/-- A shift (R325). -/
def vShift (s : State) (o : LaneOp) (t : ElemTy) (amt : ShiftAmt) (f : Nat → Nat → Nat) : Out :=
  laneMap s o ([.ty o.vd t, .ty o.va t] ++ amtOpnd o amt (regsOf t)) (cyclesOf t) .rne fun _ _ l =>
    l.write o.vd.toNat (regsOf t)
      (f (l.read o.va.toNat (regsOf t)) (shiftBy l o amt (if regsOf t = 1 then 5 else 6)))

/-- `vshl` (R325). -/
def execVshl (o : LaneOp) (m : Mods) (amt : ShiftAmt) (s : State) : Out := vShift s o m.ty amt (intShl m.ty)
/-- `vshr` (R325). -/
def execVshr (o : LaneOp) (m : Mods) (amt : ShiftAmt) (s : State) : Out := vShift s o m.ty amt (intShr m.ty)

/-- `vrshr` (R329): the source is an i32 or an i64, the amount has six bits. -/
def execVrshr (o : LaneOp) (m : Mods) (src64 : Bool) (amt : ShiftAmt) (s : State) : Out :=
  let src : ElemTy := if src64 then .i64 else .i32
  laneMap s o ([.one o.vd, .ty o.va src] ++ amtOpnd o amt 1) (cyclesOf src) .rne fun _ _ l =>
    l.write o.vd.toNat 1
      (requant m.ty (src.intOf (l.read o.va.toNat (regsOf src))) (shiftBy l o amt 6))

/-- `vbfe` (R326): the length is one more than its field. -/
def execVbfe (o : LaneOp) (m : Mods) (p n : BitVec 5) (s : State) : Out :=
  vInt1 s o m.ty fun a => bitField m.ty a p.toNat (n.toNat + 1)

/-- `vcmp` on integers (R327). -/
def execVcmpInt (o : LaneOp) (m : Mods) (cc : Cond) (s : State) : Out :=
  laneCmp s o m.ty fun a b => cc.holdsInt (m.ty.intOf a) (m.ty.intOf b)

/-- `vsel` (R327): the type gives only the width. -/
def execVsel (o : LaneOp) (m : Mods) (s : State) : Out :=
  laneMap s o [.ty o.vd m.ty, .ty o.va m.ty, .ty o.vb m.ty, .p o.vc] (cyclesOf m.ty) .rne fun _ _ l =>
    l.write o.vd.toNat (regsOf m.ty)
      (if l.rp o.vc.toNat then l.read o.va.toNat (regsOf m.ty) else l.read o.vb.toNat (regsOf m.ty))

/-- `vdot4` (R328). -/
def execVdot4 (o : LaneOp) (m : Mods) (s : State) : Out :=
  lane3 s o m.ty cycles32 .rne fun _ a b c => dot4 m.ty m.sat a b c

/-! ### Immediate forms (R330) -/

/-- `vadd` with an immediate. -/
def execVaddIntImm (o : LaneOp) (imm : BitVec 32) (s : State) : Out :=
  laneImm s o fun a => (a + imm.toNat) % 2 ^ 32
/-- `vmul` with an immediate. -/
def execVmulIntImm (o : LaneOp) (imm : BitVec 32) (s : State) : Out :=
  laneImm s o fun a => (a * imm.toNat) % 2 ^ 32
/-- `vand` with an immediate. -/
def execVandImm (o : LaneOp) (imm : BitVec 32) (s : State) : Out := laneImm s o fun a => a &&& imm.toNat
/-- `vor` with an immediate. -/
def execVorImm (o : LaneOp) (imm : BitVec 32) (s : State) : Out := laneImm s o fun a => a ||| imm.toNat
/-- `vxor` with an immediate. -/
def execVxorImm (o : LaneOp) (imm : BitVec 32) (s : State) : Out := laneImm s o fun a => a ^^^ imm.toNat

/-- `vcmp` with an immediate: signed, or unsigned for `.n32`. -/
def execVcmpIntImm (o : LaneOp) (cc : Cond) (uns : Bool) (imm : BitVec 32) (s : State) : Out :=
  let t : ElemTy := if uns then .n32 else .i32
  laneMap s o [.p o.vd, .one o.va] cycles32 .rne fun _ _ l =>
    l.setP o.vd.toNat (cc.holdsInt (t.intOf (l.read o.va.toNat 1)) (t.intOf imm.toNat))

/-- `vmov` of an immediate. -/
def execVmovImm (o : LaneOp) (imm : BitVec 32) (s : State) : Out :=
  laneMap s o [.one o.vd] cycles32 .rne fun _ _ l => l.write o.vd.toNat 1 imm.toNat

end Sys2Proof.Machine
end

