-- ==== Sys2Proof/Machine/VectorConv.lean ====
section
/-! DEFINITION. Conversions and packed 16-bit forms (R339 to R343). -/

namespace Sys2Proof.Machine

/-- A source or destination element stands in part of a word (R340). -/
def isPart (t : ElemTy) : Bool :=
  match t with
  | .i8 | .n8 | .e4m3 | .e5m2 | .i16 | .n16 | .f16 | .bf16 | .i4 | .e2m1 => true
  | .i32 | .i64 | .n32 | .n64 | .f32 | .f64 | .fx128 | .e3m2 | .e2m3 => false

/-- The source element of `vcvt` (R340). -/
def readElem (l : Lane) (t : ElemTy) (n i : Nat) : Nat :=
  if isPart t then part t.bits (l.read n 1) i
  else l.read n (regsOf t) % 2 ^ t.bits

/-- The destination element of `vcvt` (R340): the rest of a shared word keeps its value. -/
def writeElem (l : Lane) (t : ElemTy) (n i x : Nat) : Lane :=
  if isPart t then l.write n 1 (putPart t.bits (l.read n 1) i x) else l.write n (regsOf t) x

/-- `vcvt` (R339, R340): under RS, elem = di. -/
def execVcvt (o : LaneOp) (m : Mods) (src : ElemTy) (si di : BitVec 3) (s : State) : Out :=
  let cost : GangRef → Nat := if regsOf src = 1 ∧ regsOf m.ty = 1 then cycles32 else cycles64
  laneMap s o [.ty o.vd m.ty, .ty o.va src] cost m.rnd fun q lane l =>
    writeElem l m.ty o.vd.toNat di.toNat
      (convert src m.ty m.rnd (stochOf m.rnd q.seed lane di.toNat) m.sat m.ftz
        (readElem l src o.va.toNat si.toNat))

/-- How many elements `vpack` moves (R341). -/
def packCount (t : ElemTy) : Nat := if t.bits = 6 then 16 else 32 / t.bits

/-- The words of the packed form (R341). -/
def packWords (t : ElemTy) : Nat := if t.bits = 6 then 3 else 1

/-- `vpack` (R341). -/
def execVpack (o : LaneOp) (m : Mods) (s : State) : Out :=
  laneMap s o [.v o.vd (packWords m.ty) 1, .v o.va (packCount m.ty) 1] cycles32 .rne fun _ _ l =>
    l.write o.vd.toNat (packWords m.ty)
      ((upTo (packCount m.ty)).foldl (fun x i =>
        x + (l.read (o.va.toNat + i) 1) % 2 ^ m.ty.bits * 2 ^ (m.ty.bits * i)) 0)

/-- One unpacked element (R341): sign-extended for i16, i8 and i4. -/
def unpacked (t : ElemTy) (x : Nat) : Nat := if t.isSigned then wrapNat 32 (toSigned t.bits x) else x

/-- `vunpack` (R341). -/
def execVunpack (o : LaneOp) (m : Mods) (s : State) : Out :=
  laneMap s o [.v o.vd (packCount m.ty) 1, .v o.va (packWords m.ty) 1] cycles32 .rne fun _ _ l =>
    let x := l.read o.va.toNat (packWords m.ty)
    (upTo (packCount m.ty)).foldl (fun l i =>
      l.write (o.vd.toNat + i) 1 (unpacked m.ty (part m.ty.bits x i))) l

/-- A packed form on both halves of two sources (R342); under RS, elem = h. -/
def packed2 (s : State) (o : LaneOp) (m : Mods) (f : Nat → Nat → Nat → Nat) : Out :=
  laneMap s o [.one o.vd, .one o.va, .one o.vb] cycles32 m.rnd fun q lane l =>
    l.write o.vd.toNat 1 (halves (fun h a b _ => f (stochOf m.rnd q.seed lane h) a b)
      (l.read o.va.toNat 1) (l.read o.vb.toNat 1) 0)

/-- `vadd2` (R342). -/
def execVadd2 (o : LaneOp) (m : Mods) (s : State) : Out :=
  packed2 s o m fun r a b =>
    if m.ty.isFloat then (modeOf m r).add a b else intBin m.ty m.sat (· + ·) a b
/-- `vsub2` (R342). -/
def execVsub2 (o : LaneOp) (m : Mods) (s : State) : Out :=
  packed2 s o m fun r a b =>
    if m.ty.isFloat then (modeOf m r).sub a b else intBin m.ty m.sat (· - ·) a b
/-- `vmul2` (R342). -/
def execVmul2 (o : LaneOp) (m : Mods) (s : State) : Out :=
  packed2 s o m fun r a b =>
    if m.ty.isFloat then (modeOf m r).mul a b else intBin m.ty m.sat (· * ·) a b
/-- `vmin2` (R342). -/
def execVmin2 (o : LaneOp) (m : Mods) (s : State) : Out :=
  packed2 s o m fun r a b => if m.ty.isFloat then (modeOf m r).min a b else intMin m.ty a b
/-- `vmax2` (R342). -/
def execVmax2 (o : LaneOp) (m : Mods) (s : State) : Out :=
  packed2 s o m fun r a b => if m.ty.isFloat then (modeOf m r).max a b else intMax m.ty a b

/-- `vfma2` (R342). -/
def execVfma2 (o : LaneOp) (m : Mods) (s : State) : Out :=
  laneMap s o [.one o.vd, .one o.va, .one o.vb, .one o.vc] cycles32 m.rnd fun q lane l =>
    l.write o.vd.toNat 1 (halves (fun h a b c =>
        if m.ty.isFloat then (modeOf m (stochOf m.rnd q.seed lane h)).fma a b c
        else intMad m.ty m.sat a b c)
      (l.read o.va.toNat 1) (l.read o.vb.toNat 1) (l.read o.vc.toNat 1))

/-- `vdot2` (R343). -/
def execVdot2 (o : LaneOp) (m : Mods) (s : State) : Out :=
  laneMap s o [.one o.vd, .one o.va, .one o.vb, .one o.vc] cycles32 m.rnd fun q lane l =>
    l.write o.vd.toNat 1 (dot2 (modeOf m (stochOf m.rnd q.seed lane 0)) m.sat
      (l.read o.va.toNat 1) (l.read o.vb.toNat 1) (l.read o.vc.toNat 1))

/-- The amount of a packed shift in a half (R342). -/
def halfAmount (l : Lane) (o : LaneOp) (amt : ShiftAmt) (h : Nat) : Nat :=
  match amt with
  | .imm n => n.toNat % 16
  | .reg => part 16 (l.read o.vb.toNat 1) h % 16

/-- A packed shift (R342). -/
def packedShift (s : State) (o : LaneOp) (amt : ShiftAmt) (f : Nat → Nat → Nat) : Out :=
  laneMap s o ([.one o.vd, .one o.va] ++ amtOpnd o amt 1) cycles32 .rne fun _ _ l =>
    l.write o.vd.toNat 1 (halves (fun h a _ _ => f a (halfAmount l o amt h)) (l.read o.va.toNat 1) 0 0)

/-- `vshl2` (R342). -/
def execVshl2 (o : LaneOp) (m : Mods) (amt : ShiftAmt) (s : State) : Out :=
  packedShift s o amt (intShl m.ty)
/-- `vshr2` (R342). -/
def execVshr2 (o : LaneOp) (m : Mods) (amt : ShiftAmt) (s : State) : Out :=
  packedShift s o amt (intShr m.ty)

/-- `vcvt2` (R343): two f32 into two halves; under RS, elem = h. -/
def execVcvt2 (o : LaneOp) (m : Mods) (s : State) : Out :=
  laneMap s o [.one o.vd, .one o.va, .one o.vb] cycles32 m.rnd fun q lane l =>
    let c (h x : Nat) : Nat := convert .f32 m.ty m.rnd (stochOf m.rnd q.seed lane h) m.sat m.ftz x
    l.write o.vd.toNat 1 (c 0 (l.read o.va.toNat 1) + c 1 (l.read o.vb.toNat 1) * 2 ^ 16)

/-- A half that `vhsel` names (R343): a0, a1, b0, b1. -/
def namedHalf (a b : Nat) (h : BitVec 2) : Nat := if h.toNat < 2 then part 16 a h.toNat else part 16 b (h.toNat - 2)

/-- `vhsel` (R343). -/
def execVhsel (o : LaneOp) (h0 h1 : BitVec 2) (s : State) : Out :=
  laneMap s o [.one o.vd, .one o.va, .one o.vb] cycles32 .rne fun _ _ l =>
    let a := l.read o.va.toNat 1
    let b := l.read o.vb.toNat 1
    l.write o.vd.toNat 1 (namedHalf a b h0 + namedHalf a b h1 * 2 ^ 16)

end Sys2Proof.Machine
end

