-- ==== Sys2Proof/Machine/WalkOps.lean ====
section
/-! DEFINITION. The walk operations (R402 to R407) and the coverage that they emit (R235, R239,
R240). -/

namespace Sys2Proof.Machine

/-! ### Plain operations -/

/-- `done` (R227, R402). -/
def execWalkDone (s : State) : Out := withWalk s fun _ _ => (s, .ends 5)

/-- `yield` (R227, R402). -/
def execWalkYield (s : State) : Out := withWalk s fun _ _ => (s, .ends 2)

/-- `fetch` (R403). -/
def execWalkFetch (a : WReg) (s : State) : Out :=
  withWalk s fun e w => fetchNode s e w (w.reg a) fun s w => (s, .go w none)

/-- `fld` (R402). -/
def execWalkFld (d : WReg) (sx : Bool) (n : BitVec 2) (off : BitVec 8) (s : State) : Out :=
  withWalk s fun _ w =>
    let k := 2 ^ n.toNat
    match w.buffer with
    | none => (s, .fault (.of 0x12))
    | some bs =>
      if w.layout.nodeBytes < off.toNat + k then (s, .fault (.of 0x12))
      else
        let v := field bs off.toNat k
        (s, .go (w.setReg d (BitVec.ofInt 64 (if sx then toSigned (8 * k) v else v))) none)

/-- `child` (R220, R402). -/
def execWalkChild (d a : WReg) (s : State) : Out :=
  withWalk s fun _ w =>
    let i := (w.reg a).toNat
    let l := w.layout
    withNode s w true i fun bs =>
      let p := field bs (l.cpoff + l.pointerBytes * i) l.pointerBytes
      let va : Word :=
        if l.cpenc = 0 then BitVec.ofNat 64 p
        else if l.cpenc = 1 then w.w64 120 + BitVec.ofInt 64 (16 * toSigned 32 p)
        else l.base + BitVec.ofNat 64 (p * l.nodeBytes)
      (s, .go (w.setReg d va) none)

/-- `push` (R223). -/
def execWalkPush (a : WReg) (s : State) : Out := withWalk s fun e w => pushWalk s e w (w.reg a)

/-- `pop` (R223). -/
def execWalkPop (d : WReg) (s : State) : Out :=
  withWalk s fun e w => popWalk s e w fun s w x => (s, .go (w.setReg d x) none)

/-- `add` (R402). -/
def execWalkAdd (d a b : WReg) (s : State) : Out := regOp d (fun w => w.reg a + w.reg b) s
/-- `addi` (R402). -/
def execWalkAddi (d a : WReg) (imm : BitVec 17) (s : State) : Out :=
  regOp d (fun w => w.reg a + sext imm) s
/-- `sub` (R402). -/
def execWalkSub (d a b : WReg) (s : State) : Out := regOp d (fun w => w.reg a - w.reg b) s
/-- `and` (R402). -/
def execWalkAnd (d a b : WReg) (s : State) : Out := regOp d (fun w => w.reg a &&& w.reg b) s
/-- `shl` (R402). -/
def execWalkShl (d a : WReg) (n : BitVec 6) (s : State) : Out := regOp d (fun w => w.reg a <<< n.toNat) s
/-- `shr` (R402). -/
def execWalkShr (d a : WReg) (n : BitVec 6) (s : State) : Out := regOp d (fun w => w.reg a >>> n.toNat) s
/-- `movi` (R402). -/
def execWalkMovi (d : WReg) (imm : BitVec 17) (s : State) : Out := regOp d (fun _ => sext imm) s

/-- The condition of `cmp` (R402). -/
def walkCond (c : WalkCond) (x y : Word) : Bool :=
  match c with
  | .eq => x == y
  | .ne => x != y
  | .ltN => decide (x < y)
  | .geN => decide (y ≤ x)
  | .ltI => x.slt y
  | .geI => y.sle x

/-- `cmp` (R402). -/
def execWalkCmp (d a b : WReg) (c : WalkCond) (s : State) : Out :=
  regOp d (fun w => if walkCond c (w.reg a) (w.reg b) then 1 else 0) s

/-- `jmp` (R402). -/
def execWalkJmp (l : BitVec 8) (s : State) : Out := withWalk s fun _ w => (s, .go w (some l.toNat))

/-- `jz` (R402). -/
def execWalkJz (a : WReg) (l : BitVec 8) (s : State) : Out :=
  withWalk s fun _ w => (s, .go w (if w.reg a = 0 then some l.toNat else none))

/-- `jnz` (R402). -/
def execWalkJnz (a : WReg) (l : BitVec 8) (s : State) : Out :=
  withWalk s fun _ w => (s, .go w (if w.reg a = 0 then none else some l.toNat))

/-! ### Tests -/

/-- The box of a child of the node in the buffer (R221). -/
def Layout.boxOf (l : Layout) (bs : List Byte) (child : Nat) : Option Box :=
  if l.boxenc = 0 then plainBox bs l.boxoff child else quantBox bs l.boxoff child

/-- The hits of `box4` in rising order of `t` (R404). -/
def boxHits (w : Walk) (bs : List Byte) (first : Nat) : List (Nat × Ext) :=
  match rayOf w.bytes with
  | none => []
  | some r =>
    (upTo 4).filterMap fun t =>
      if first + t < w.layout.kids bs then
        match w.layout.boxOf bs (first + t) with
        | some b => (r.entry b).map fun x => (t, x)
        | none => none
      else none

/-- `box4` (R404). -/
def execWalkBox4 (d a : WReg) (s : State) : Out :=
  withWalk s fun _ w =>
    let i := (w.reg a).toNat
    withNode s w true i fun bs =>
      (s, .go (w.setReg d (BitVec.ofNat 64 (boxResult (boxHits w bs i)))) none)

/-- The result of a triangle test from its 40 bytes (R405). -/
def triResult (w : Walk) (d b : WReg) (bs : List Byte) : Walk :=
  match (rayOf w.bytes).bind fun r => r.triangle bs with
  | none => w.setReg d (BitVec.allOnes 64)
  | some h =>
    let w := w.setReg d (BitVec.ofNat 64 (field bs 36 4 * 2 ^ 32 + h.t))
    w.setReg b (BitVec.ofNat 64 (h.v * 2 ^ 32 + (if h.back then 2 ^ 31 else 0) + h.u))

/-- `tri` (R405). -/
def execWalkTri (d a b : WReg) (s : State) : Out :=
  withWalk s fun e w =>
    let n := (w.reg a).toNat
    let l := w.layout
    withNode s w false n fun bs =>
      if l.leafenc = 0 then (s, .go (triResult w d b ((bs.drop (l.leafoff + 40 * n)).take 40)) none)
      else
        walkRead s e w (l.base + BitVec.ofNat 64 (40 * field bs (l.leafoff + 4 * n) 4)) 40 fun s bs =>
          (s, .go (triResult w d b bs) none)

/-- The bits are a non-negative finite f32. -/
def finiteNonNeg (bits : Nat) : Bool :=
  match f32.decode bits with
  | .fin neg m _ _ => !neg || m == 0
  | .nan => false
  | .inf _ => false

/-- `commit` (R402). -/
def execWalkCommit (a b : WReg) (s : State) : Out :=
  withWalk s fun _ w =>
    let x := (w.reg a).toNat
    let y := (w.reg b).toNat
    let t := x % 2 ^ 32
    if finiteNonNeg t then
      let w := ((((w.put 28 4 t).put 32 4 t).put 36 4 (x / 2 ^ 32)).put 40 4 (y % 2 ^ 31)).put 44 4
        (y / 2 ^ 32)
      (s, .go (w.put 163 1 (w.w32 160 / 2 ^ 24 % 16 + 16 + (if y / 2 ^ 31 % 2 = 1 then 32 else 0))) none)
    else (s, .fault (.of 0x12))

/-- The coordinates in a walk register (R406, R407). -/
def Walk.tileXY (w : Walk) (a : WReg) : Nat × Nat := (slice (w.reg a) 15 0, slice (w.reg a) 31 16)

/-- `edge3` (R406); a tile size outside 1 to 6 is 0x12. -/
def execWalkEdge3 (d a : WReg) (lg : BitVec 3) (s : State) : Out :=
  withWalk s fun _ w =>
    if lg = 0 ∨ lg = 7 then (s, .fault (.of 0x12))
    else
      let (x, y) := w.tileXY a
      (s, .go (w.setReg d (if tileKept w.bytes x y (2 ^ lg.toNat) then 1 else 0)) none)

/-! ### Coverage to a ring (R141, R235, R239) -/

/-- The mark that the slot has been written. -/
def slotMark : Nat := 2 ^ 40 + 3
/-- The mark that every earlier slot has been published. -/
def turnMark : Nat := 2 ^ 40 + 4

/-- The walk has set a mark in this operation. -/
def Walk.marked (w : Walk) (k : Nat) : Bool := w.fetched.any fun x => x.1 == k

/-- Sets a mark. -/
def Walk.mark (w : Walk) (k : Nat) : Walk := { w with fetched := (k, some []) :: w.fetched, logged := [] }

/-- A word of a ring, with its checks (R233, R407). -/
def walkRingWord (s : State) (e : Eng) (va : Word) (need : Need) (k : State → Loc → State × WRes) :
    State × WRes :=
  match engLocate s e va 8 8 need with
  | (s, .error f) => (s, .fault (walkFaultOf f))
  | (s, .ok l) => if s.poisonAt l then (s, .fault (walkPoison va)) else k s l

/-- The claim of an index (R141 step 1), which the record keeps (R235). -/
def walkClaim (s : State) (e : Eng) (w : Walk) (r : Ring) : State × WRes :=
  walkRingWord s e r.claim .store fun s l =>
    match l.sector with
    | some (win, off, va) =>
      match fetchedAt w.fetched claimKey 8 with
      | some (some bs) => (s, .wait { w.put 192 8 (field bs 0 8) with fetched := [] })
      | some none => (s, .fault (walkLost va))
      | none =>
        if s.engAsked e claimKey then (s, .wait w)
        else
          match sendRemote s e.ctx win off (.engine e.core e.id claimKey) va
              (.atomic .add true 1 0 false false) with
          | (s, some _) => (s, .wait w)
          | (s, none) => (s, .fault (walkNoLink va))
    | none =>
      let s := s.engFlush e l
      let i := e.counter s l
      match s.orderAll e.ctx (e.counterOps s l) with
      | .error s => (s, .wait w)
      | .ok s => (s.engSetCounter e (i + 1) l, .wait (w.put 192 8 i.toNat))

/-- A wait of a walk on E or F in its progress (R141): over, or held. One on another device's counter that fails is a
poisoned line (R439, R443). -/
def walkWait (s : State) (e : Eng) (w : Walk) (key : Nat) (va : Word) (target : Nat) (k : State → State × WRes) :
    State × WRes :=
  if fetchedAt w.fetched key 0 = some none then (s, .fault (walkLost va))
  else
    let x := engWait s e w.logged w.fetched key va target
    if x.finished then k x.s
    else if x.logged.contains 1 then (x.s, .fault (walkNoLink va))
    else (x.s, .wait { w with logged := x.logged })

/-- The slot of a claimed index is written once it is free (R141 steps 2 and 3). -/
def walkSlot (s : State) (e : Eng) (w : Walk) (r : Ring) (i : Word) (entry : List Byte) : State × WRes :=
  walkRingWord s e r.freed .counterGet fun s _ =>
    walkWait s e w freeKey r.freed (r.target false i) fun s =>
      match engLocate s e (r.slot i) 32 1 .store with
      | (s, .error f) => (s, .fault (walkFaultOf f))
      | (s, .ok l) =>
        let bad : Option Word := match l with
          | .mem ps => poisonedPart s ps
          | .scratch _ => none
        match bad with
        | some a => (s, .fault (walkPoison a))
        | none =>
          match engWrite s e (r.slot i) entry with
          | (s, none) => (s, .wait (w.mark slotMark))
          | (s, some f) => (s, .fault (walkFaultOf f))

/-- The add of 1 to F (R141 step 5): one that goes to another device is over with its reply, and one that fails there is a
poisoned line (R439, R443). -/
def walkAdd (s : State) (e : Eng) (w : Walk) (r : Ring) (l : Loc) : State × WRes :=
  let published (s : State) : State × WRes := (s, .go (w.put 192 8 (2 ^ 64 - 1)) none)
  match fetchedAt w.fetched awaitKey 0 with
  | some (some _) => published s
  | some none => (s, .fault (walkLost r.filled))
  | none =>
    if s.engAsked e awaitKey then (s, .wait w)
    else
      let x := engAddAs s e w.logged awaitKey r.filled 1
      if !x.finished || x.s.engAsked e awaitKey then (x.s, .wait { w with logged := x.logged })
      else if l.sector.isSome then (x.s, .fault (walkNoLink r.filled))
      else published x.s

/-- A written slot is published in its turn (R141 steps 4 and 5). -/
def walkPublish (s : State) (e : Eng) (w : Walk) (r : Ring) (i : Word) : State × WRes :=
  walkRingWord s e r.filled .counterAdd fun s l =>
    if w.marked turnMark then walkAdd s e w r l
    else walkWait s e w fillKey r.filled i.toNat fun s => (s, .wait (w.mark turnMark))

/-- `emit.ring` (R235, R239, R407). R239 gives no consequence for a ring whose slots are smaller than 32 bytes: the model
takes 0x12, as for a handle without a claim word (notes/assumptions/38.md). -/
def execWalkEmitRing (a : WReg) (n : BitVec 4) (s : State) : Out :=
  withWalk s fun e w =>
    let (x, y) := w.tileXY a
    let zs := quadDepths w.bytes x y
    if x % 2 ≠ 0 ∨ y % 2 ≠ 0 ∨ w.wpc = 255 then (s, .fault (.of 0x12))
    else
      match (s.team w.team).ring n.toNat with
      | none => (s, .fault (.of 0x12))
      | some r =>
        if r.claim = 0 ∨ r.bytes < 32 then (s, .fault (.of 0x12))
        else if coverage zs = 0 then (s, .go w none)
        else
          match w.claim with
          | none => walkClaim s e w r
          | some i =>
            if w.marked slotMark then walkPublish s e w r i
            else walkSlot s e w r i (coverageEntry x y (slice (w.regs[4]) 31 0) zs)

/-! ### Coverage to a visibility buffer (R240) -/

/-- The accumulates of a quad: address and key of each covered pixel (R240). -/
def visKeys (w : Walk) (x y : Nat) (zs : List (Option Nat)) : List (Word × Nat) :=
  (zs.zip (upTo 4)).filterMap fun (z, i) =>
    z.map fun z =>
      let px := x + i % 2
      let py := y + i / 2
      (w.regs[6] + BitVec.ofNat 64 (8 * (py * slice (w.regs[7]) 31 0 + px)),
        z * 2 ^ 32 + slice (w.regs[4]) 31 0)

/-- The places of a walk's accumulates, or the first that fails. -/
def visPlaces (s : State) (e : Eng) : List (Word × Nat) →
    State × Except WFault (List (Word × Nat × List (Nat × Nat × Word × TlbEntry)))
  | [] => (s, .ok [])
  | (va, key) :: rest =>
    if touchesWindow va 8 then (s, .error { cause := 0x15, addr := va, code := none })
    else
      match engLocate s e va 8 8 .store with
      | (s, .error f) => (s, .error (walkFaultOf f))
      | (s, .ok (.scratch _)) => (s, .ok [])
      | (s, .ok (.mem ps)) =>
        match visPlaces s e rest with
        | (s, .ok l) => (s, .ok ((va, key, ps) :: l))
        | (s, .error f) => (s, .error f)

/-- One accumulate of a walk leaves the core (R199, R201, R240). -/
def sendVis (s : State) (e : Eng) (w : Walk) (x : Word × Nat × List (Nat × Nat × Word × TlbEntry)) :
    State :=
  match x.2.2 with
  | [] => s
  | (pa, n, va, t) :: _ =>
    match physKind pa with
    | .hbm =>
      let s := flushLine s e.core e.ctx va
      let id := s.nextId
      let a : Acc :=
        { id := id, oldest := id, ctx := e.ctx, core := e.core, team := w.team, wave := w.wave
          quad := w.quad, addr := va, pa := pa, seq := 0, low := t.low, op := .min, ty := .vis
          value := BitVec.ofNat 128 x.2.1, count := 1, cls := .unrefusable, phase := .flight, rel := false, walk := some w.id }
      { s.bumpId with accs := s.accs ++ [a] }
    | .host _ =>
      match hostBytes s n with
      | (s, old) =>
        writePiece s e.core e.ctx [] e.src (pa, n, va, t)
          (leBytes 8 (accCombine .vis .min (leNat old) x.2.1))
    | .sector win off =>
      match sendRemote s e.ctx win off (.engine e.core e.id 0) va
          (.accum .min .vis (BitVec.ofNat 128 x.2.1) 1) with
      | (s, some _) => s
      | (s, none) => s.engLog e 0x0006 7 0 va
    | .unpopulated => s

/-- `emit.vis` (R240, R407). -/
def execWalkEmitVis (a : WReg) (s : State) : Out :=
  withWalk s fun e w =>
    let (x, y) := w.tileXY a
    let zs := quadDepths w.bytes x y
    if x % 2 ≠ 0 ∨ y % 2 ≠ 0 ∨ w.wpc = 255 then (s, .fault (.of 0x12))
    else
      match visPlaces s e (visKeys w x y zs) with
      | (s, .error f) => (s, .fault f)
      | (s, .ok l) =>
        if 64 < s.outstanding e.core + l.length then (s, .wait w)
        else (l.foldl (fun s x => sendVis s e w x) s, .go w none)

/-! ### The step limit, and the fast dispatch of a word -/

/-- `WALK_STEP_LIMIT` (R224): the walk has executed its last operation. -/
def execWalkStepLimit (core slot : Nat) (s : State) : Out :=
  .next
    (match s.walk? core slot with
     | none => s
     | some w =>
       if stepLimit ≤ w.steps && w.active && !s.walkBusy w then s.faultWalk core w (.of 0x13) else s)

/-- The walk operation of a word (R401), without a value of `Instr`: the compiler has no tag for the
last constructors of that type, so a run uses this form; `stepWalkWord` is proved equal to it. -/
def runWalkWord (x : Code) (s : State) : Out :=
  let d := bits x 23 3
  let a := bits x 20 3
  let b := bits x 17 3
  let imm := bits x 0 17
  let ok (c : Bool) (y : Out) : Out := if c then y else badWalkWord s
  let d0 := d == 0
  let a0 := a == 0
  let b0 := b == 0
  let i0 := imm == 0
  match (bits x 26 6).toNat with
  | 0x00 => ok (d0 && a0 && b0 && i0) (execWalkDone s)
  | 0x01 => ok (d0 && b0 && i0) (execWalkFetch a s)
  | 0x02 => ok (a0 && b0 && bits x 11 6 == 0) (execWalkFld d (bit x 10) (bits x 8 2) (bits x 0 8) s)
  | 0x03 => ok (b0 && i0) (execWalkChild d a s)
  | 0x04 => ok (b0 && i0) (execWalkBox4 d a s)
  | 0x05 => ok i0 (execWalkTri d a b s)
  | 0x06 => ok (d0 && i0) (execWalkCommit a b s)
  | 0x07 =>
    let lg : BitVec 3 := bits x 0 3
    ok (b0 && bits x 3 14 == 0 && decide (1 ≤ lg.toNat ∧ lg.toNat ≤ 6)) (execWalkEdge3 d a lg s)
  | 0x08 =>
    if bit x 0 then ok (d0 && b0 && bits x 1 16 == 0) (execWalkEmitVis a s)
    else ok (d0 && b0 && bits x 5 12 == 0) (execWalkEmitRing a (bits x 1 4) s)
  | 0x09 => ok (d0 && b0 && i0) (execWalkPush a s)
  | 0x0A => ok (a0 && b0 && i0) (execWalkPop d s)
  | 0x0B => ok i0 (execWalkAdd d a b s)
  | 0x0C => ok b0 (execWalkAddi d a imm s)
  | 0x0D => ok i0 (execWalkSub d a b s)
  | 0x0E => ok i0 (execWalkAnd d a b s)
  | 0x0F =>
    if bit x 6 then ok (b0 && bits x 7 10 == 0) (execWalkShr d a (bits x 0 6) s)
    else ok (b0 && bits x 7 10 == 0) (execWalkShl d a (bits x 0 6) s)
  | 0x10 =>
    match WalkCond.ofCode (bits x 0 3).toNat with
    | some c => ok (bits x 3 14 == 0) (execWalkCmp d a b c s)
    | none => badWalkWord s
  | 0x11 => ok (a0 && b0) (execWalkMovi d imm s)
  | 0x12 => ok (d0 && a0 && b0 && bits x 8 9 == 0) (execWalkJmp (bits x 0 8) s)
  | 0x13 => ok (d0 && b0 && bits x 8 9 == 0) (execWalkJz a (bits x 0 8) s)
  | 0x14 => ok (d0 && b0 && bits x 8 9 == 0) (execWalkJnz a (bits x 0 8) s)
  | 0x15 => ok (d0 && a0 && b0 && i0) (execWalkYield s)
  | _ => badWalkWord s

end Sys2Proof.Machine
end

