-- ==== Sys2Proof/Machine/Dispatch.lean ====
section
/-! DEFINITION. The dispatch: one arm per constructor of `Instr`, each one direct call of a meaning. -/

namespace Sys2Proof.Machine

/-- Performs an instruction. -/
def exec (i : Instr) (s : State) : Host.Outcome State Fault Refusal :=
  match i with
  | .sadd sd sa sb => Sys2Proof.Machine.execSadd sd sa sb s
  | .ssub sd sa sb => Sys2Proof.Machine.execSsub sd sa sb s
  | .smul sd sa sb => Sys2Proof.Machine.execSmul sd sa sb s
  | .smulhI64 sd sa sb => Sys2Proof.Machine.execSmulhI64 sd sa sb s
  | .smulhN64 sd sa sb => Sys2Proof.Machine.execSmulhN64 sd sa sb s
  | .sand sd sa sb => Sys2Proof.Machine.execSand sd sa sb s
  | .sor sd sa sb => Sys2Proof.Machine.execSor sd sa sb s
  | .sxor sd sa sb => Sys2Proof.Machine.execSxor sd sa sb s
  | .sshl sd sa sb => Sys2Proof.Machine.execSshl sd sa sb s
  | .sshrN64 sd sa sb => Sys2Proof.Machine.execSshrN64 sd sa sb s
  | .sshrI64 sd sa sb => Sys2Proof.Machine.execSshrI64 sd sa sb s
  | .sminI64 sd sa sb => Sys2Proof.Machine.execSminI64 sd sa sb s
  | .sminN64 sd sa sb => Sys2Proof.Machine.execSminN64 sd sa sb s
  | .smaxI64 sd sa sb => Sys2Proof.Machine.execSmaxI64 sd sa sb s
  | .smaxN64 sd sa sb => Sys2Proof.Machine.execSmaxN64 sd sa sb s
  | .sdivI64 sd sa sb => Sys2Proof.Machine.execSdivI64 sd sa sb s
  | .sdivN64 sd sa sb => Sys2Proof.Machine.execSdivN64 sd sa sb s
  | .sremI64 sd sa sb => Sys2Proof.Machine.execSremI64 sd sa sb s
  | .sremN64 sd sa sb => Sys2Proof.Machine.execSremN64 sd sa sb s
  | .spopc sd sa => Sys2Proof.Machine.execSpopc sd sa s
  | .sclz sd sa => Sys2Proof.Machine.execSclz sd sa s
  | .sctz sd sa => Sys2Proof.Machine.execSctz sd sa s
  | .saddi sd sa imm => Sys2Proof.Machine.execSaddi sd sa imm s
  | .sandi sd sa imm => Sys2Proof.Machine.execSandi sd sa imm s
  | .sori sd sa imm => Sys2Proof.Machine.execSori sd sa imm s
  | .sxori sd sa imm => Sys2Proof.Machine.execSxori sd sa imm s
  | .sshli sd sa n => Sys2Proof.Machine.execSshli sd sa n s
  | .sshriN64 sd sa n => Sys2Proof.Machine.execSshriN64 sd sa n s
  | .sshriI64 sd sa n => Sys2Proof.Machine.execSshriI64 sd sa n s
  | .scmpEq sd sa sb => Sys2Proof.Machine.execScmpEq sd sa sb s
  | .scmpNe sd sa sb => Sys2Proof.Machine.execScmpNe sd sa sb s
  | .scmpI64Lt sd sa sb => Sys2Proof.Machine.execScmpI64Lt sd sa sb s
  | .scmpI64Ge sd sa sb => Sys2Proof.Machine.execScmpI64Ge sd sa sb s
  | .scmpN64Lt sd sa sb => Sys2Proof.Machine.execScmpN64Lt sd sa sb s
  | .scmpN64Ge sd sa sb => Sys2Proof.Machine.execScmpN64Ge sd sa sb s
  | .ssel sd sa sb sc => Sys2Proof.Machine.execSsel sd sa sb sc s
  | .sli sd imm => Sys2Proof.Machine.execSli sd imm s
  | .slui sd imm => Sys2Proof.Machine.execSlui sd imm s
  | .spcui sd imm => Sys2Proof.Machine.execSpcui sd imm s
  | .sgetr sd num => Sys2Proof.Machine.execSgetr sd num s
  | .sgetrQpc sd idx => Sys2Proof.Machine.execSgetrQpc sd idx s
  | .ssetr sa num => Sys2Proof.Machine.execSsetr sa num s
  | .b off => Sys2Proof.Machine.execB off s
  | .bmz off => Sys2Proof.Machine.execBmz off s
  | .bmnz off => Sys2Proof.Machine.execBmnz off s
  | .bmall off => Sys2Proof.Machine.execBmall off s
  | .bmnall off => Sys2Proof.Machine.execBmnall off s
  | .bcall off => Sys2Proof.Machine.execBcall off s
  | .bjr sa => Sys2Proof.Machine.execBjr sa s
  | .bcallr sd sa => Sys2Proof.Machine.execBcallr sd sa s
  | .bz sa imm => Sys2Proof.Machine.execBz sa imm s
  | .bnz sa imm => Sys2Proof.Machine.execBnz sa imm s
  | .snop => Sys2Proof.Machine.execSnop s
  | .snopProgress => Sys2Proof.Machine.execSnopProgress s
  | .exit => Sys2Proof.Machine.execExit s
  | .trap imm => Sys2Proof.Machine.execTrap imm s
  | .tret => Sys2Proof.Machine.execTret s
  | .tretDecline => Sys2Proof.Machine.execTretDecline s
  | .sldN64 sd sa imm => Sys2Proof.Machine.execSldN64 sd sa imm s
  | .sldN32 sd sa imm => Sys2Proof.Machine.execSldN32 sd sa imm s
  | .sldI32 sd sa imm => Sys2Proof.Machine.execSldI32 sd sa imm s
  | .sstN64 sd sa imm => Sys2Proof.Machine.execSstN64 sd sa imm s
  | .sstN32 sd sa imm => Sys2Proof.Machine.execSstN32 sd sa imm s
  | .sldN64Yield sd sa imm => Sys2Proof.Machine.execSldN64Yield sd sa imm s
  | .satomAdd sd sa sb ord => Sys2Proof.Machine.execSatomAdd sd sa sb ord s
  | .satomSwap sd sa sb ord => Sys2Proof.Machine.execSatomSwap sd sa sb ord s
  | .satomAnd sd sa sb ord => Sys2Proof.Machine.execSatomAnd sd sa sb ord s
  | .satomOr sd sa sb ord => Sys2Proof.Machine.execSatomOr sd sa sb ord s
  | .satomXor sd sa sb ord => Sys2Proof.Machine.execSatomXor sd sa sb ord s
  | .satomMinI64 sd sa sb ord => Sys2Proof.Machine.execSatomMinI64 sd sa sb ord s
  | .satomMinN64 sd sa sb ord => Sys2Proof.Machine.execSatomMinN64 sd sa sb ord s
  | .satomMaxI64 sd sa sb ord => Sys2Proof.Machine.execSatomMaxI64 sd sa sb ord s
  | .satomMaxN64 sd sa sb ord => Sys2Proof.Machine.execSatomMaxN64 sd sa sb ord s
  | .satomCas sd sa sb ord => Sys2Proof.Machine.execSatomCas sd sa sb ord s
  | .dzero sa imm => Sys2Proof.Machine.execDzero sa imm s
  | .spfL2 sa imm => Sys2Proof.Machine.execSpfL2 sa imm s
  | .spfL1 sa imm => Sys2Proof.Machine.execSpfL1 sa imm s
  | .cadd sa sb => Sys2Proof.Machine.execCadd sa sb s
  | .caddRel sa sb => Sys2Proof.Machine.execCaddRel sa sb s
  | .qfence mask => Sys2Proof.Machine.execQfence mask s
  | .cget sd sa => Sys2Proof.Machine.execCget sd sa s
  | .cgetAcq sd sa => Sys2Proof.Machine.execCgetAcq sd sa s
  | .cgetTeam sd => Sys2Proof.Machine.execCgetTeam sd s
  | .cwait sa sb acq => Sys2Proof.Machine.execCwait sa sb acq s
  | .cwaitSt sd sa sb acq => Sys2Proof.Machine.execCwaitSt sd sa sb acq s
  | .bar => Sys2Proof.Machine.execBar s
  | .fenceRel => Sys2Proof.Machine.execFenceRel s
  | .fenceAcq => Sys2Proof.Machine.execFenceAcq s
  | .fenceAr => Sys2Proof.Machine.execFenceAr s
  | .ifence => Sys2Proof.Machine.execIfence s
  | .kset k sa => Sys2Proof.Machine.execKset k sa s
  | .kfill k => Sys2Proof.Machine.execKfill k s
  | .kfree k => Sys2Proof.Machine.execKfree k s
  | .kwaitFree k sb => Sys2Proof.Machine.execKwaitFree k sb s
  | .kwaitFull k sb => Sys2Proof.Machine.execKwaitFull k sb s
  | .kwaitFreeSt sd k sb => Sys2Proof.Machine.execKwaitFreeSt sd k sb s
  | .kwaitFullSt sd k sb => Sys2Proof.Machine.execKwaitFullSt sd k sb s
  | .cpy sa q => Sys2Proof.Machine.execCpy sa q s
  | .qwait sa sb q => Sys2Proof.Machine.execQwait sa sb q s
  | .qadd sa sb q => Sys2Proof.Machine.execQadd sa sb q s
  | .sfmt ta tb => Sys2Proof.Machine.execSfmt ta tb s
  | .mrel => Sys2Proof.Machine.execMrel s
  | .sstampOpen sa => Sys2Proof.Machine.execSstampOpen sa s
  | .sstampClose => Sys2Proof.Machine.execSstampClose s
  | .clauseHeader h => Sys2Proof.Machine.execClauseHeader h s
  | .vaddInt o m => Sys2Proof.Machine.execVaddInt o m s
  | .vsubInt o m => Sys2Proof.Machine.execVsubInt o m s
  | .vmulInt o m => Sys2Proof.Machine.execVmulInt o m s
  | .vmulh o m => Sys2Proof.Machine.execVmulh o m s
  | .vmad o m => Sys2Proof.Machine.execVmad o m s
  | .vminInt o m => Sys2Proof.Machine.execVminInt o m s
  | .vmaxInt o m => Sys2Proof.Machine.execVmaxInt o m s
  | .vabsInt o m => Sys2Proof.Machine.execVabsInt o m s
  | .vand o m => Sys2Proof.Machine.execVand o m s
  | .vor o m => Sys2Proof.Machine.execVor o m s
  | .vxor o m => Sys2Proof.Machine.execVxor o m s
  | .vnot o m => Sys2Proof.Machine.execVnot o m s
  | .vshl o m amt => Sys2Proof.Machine.execVshl o m amt s
  | .vshr o m amt => Sys2Proof.Machine.execVshr o m amt s
  | .vrshr o m src64 amt => Sys2Proof.Machine.execVrshr o m src64 amt s
  | .vpopc o m => Sys2Proof.Machine.execVpopc o m s
  | .vclz o m => Sys2Proof.Machine.execVclz o m s
  | .vbfe o m p n => Sys2Proof.Machine.execVbfe o m p n s
  | .vcmpInt o m cc => Sys2Proof.Machine.execVcmpInt o m cc s
  | .vsel o m => Sys2Proof.Machine.execVsel o m s
  | .vdot4 o m => Sys2Proof.Machine.execVdot4 o m s
  | .vaddIntImm o imm => Sys2Proof.Machine.execVaddIntImm o imm s
  | .vmulIntImm o imm => Sys2Proof.Machine.execVmulIntImm o imm s
  | .vandImm o imm => Sys2Proof.Machine.execVandImm o imm s
  | .vorImm o imm => Sys2Proof.Machine.execVorImm o imm s
  | .vxorImm o imm => Sys2Proof.Machine.execVxorImm o imm s
  | .vcmpIntImm o cc uns imm => Sys2Proof.Machine.execVcmpIntImm o cc uns imm s
  | .vmovImm o imm => Sys2Proof.Machine.execVmovImm o imm s
  | .vaddFp o m => Sys2Proof.Machine.execVaddFp o m s
  | .vsubFp o m => Sys2Proof.Machine.execVsubFp o m s
  | .vmulFp o m => Sys2Proof.Machine.execVmulFp o m s
  | .vfma o m => Sys2Proof.Machine.execVfma o m s
  | .vfnma o m => Sys2Proof.Machine.execVfnma o m s
  | .vminFp o m => Sys2Proof.Machine.execVminFp o m s
  | .vmaxFp o m => Sys2Proof.Machine.execVmaxFp o m s
  | .vabsFp o m => Sys2Proof.Machine.execVabsFp o m s
  | .vneg o m => Sys2Proof.Machine.execVneg o m s
  | .vcopysign o m => Sys2Proof.Machine.execVcopysign o m s
  | .vdiv o m => Sys2Proof.Machine.execVdiv o m s
  | .vsqrt o m => Sys2Proof.Machine.execVsqrt o m s
  | .vrcp o m => Sys2Proof.Machine.execVrcp o m s
  | .vrsqrt o m => Sys2Proof.Machine.execVrsqrt o m s
  | .vrint o m => Sys2Proof.Machine.execVrint o m s
  | .vclip o m => Sys2Proof.Machine.execVclip o m s
  | .vclamp o m => Sys2Proof.Machine.execVclamp o m s
  | .vsign o m => Sys2Proof.Machine.execVsign o m s
  | .vcmpFp o m cc => Sys2Proof.Machine.execVcmpFp o m cc s
  | .vclass o m => Sys2Proof.Machine.execVclass o m s
  | .vldexp o m => Sys2Proof.Machine.execVldexp o m s
  | .vgetexp o m => Sys2Proof.Machine.execVgetexp o m s
  | .vlerp o m => Sys2Proof.Machine.execVlerp o m s
  | .vexp2 o m => Sys2Proof.Machine.execVexp2 o m s
  | .vlog2 o m => Sys2Proof.Machine.execVlog2 o m s
  | .vsinpi o m => Sys2Proof.Machine.execVsinpi o m s
  | .vcospi o m => Sys2Proof.Machine.execVcospi o m s
  | .vaddF32Imm o imm => Sys2Proof.Machine.execVaddF32Imm o imm s
  | .vmulF32Imm o imm => Sys2Proof.Machine.execVmulF32Imm o imm s
  | .vfmaF32Imm o imm => Sys2Proof.Machine.execVfmaF32Imm o imm s
  | .vmaxF32Imm o imm => Sys2Proof.Machine.execVmaxF32Imm o imm s
  | .vcmpF32Imm o cc imm => Sys2Proof.Machine.execVcmpF32Imm o cc imm s
  | .vcvt o m src si di => Sys2Proof.Machine.execVcvt o m src si di s
  | .vpack o m => Sys2Proof.Machine.execVpack o m s
  | .vunpack o m => Sys2Proof.Machine.execVunpack o m s
  | .vcvt2 o m => Sys2Proof.Machine.execVcvt2 o m s
  | .vadd2 o m => Sys2Proof.Machine.execVadd2 o m s
  | .vsub2 o m => Sys2Proof.Machine.execVsub2 o m s
  | .vmul2 o m => Sys2Proof.Machine.execVmul2 o m s
  | .vfma2 o m => Sys2Proof.Machine.execVfma2 o m s
  | .vmin2 o m => Sys2Proof.Machine.execVmin2 o m s
  | .vmax2 o m => Sys2Proof.Machine.execVmax2 o m s
  | .vdot2 o m => Sys2Proof.Machine.execVdot2 o m s
  | .vshl2 o m amt => Sys2Proof.Machine.execVshl2 o m amt s
  | .vshr2 o m amt => Sys2Proof.Machine.execVshr2 o m amt s
  | .vhsel o h0 h1 => Sys2Proof.Machine.execVhsel o h0 h1 s
  | .vred o m op => Sys2Proof.Machine.execVred o m op s
  | .vscan o m op excl => Sys2Proof.Machine.execVscan o m op excl s
  | .vshuf o => Sys2Proof.Machine.execVshuf o s
  | .vbcast o n => Sys2Proof.Machine.execVbcast o n s
  | .vrot o n => Sys2Proof.Machine.execVrot o n s
  | .vqswz o q0 q1 q2 q3 => Sys2Proof.Machine.execVqswz o q0 q1 q2 q3 s
  | .vballot o => Sys2Proof.Machine.execVballot o s
  | .vcount o => Sys2Proof.Machine.execVcount o s
  | .vfind o => Sys2Proof.Machine.execVfind o s
  | .vappend o off => Sys2Proof.Machine.execVappend o off s
  | .pand o => Sys2Proof.Machine.execPand o s
  | .por o => Sys2Proof.Machine.execPor o s
  | .pxor o => Sys2Proof.Machine.execPxor o s
  | .pandn o => Sys2Proof.Machine.execPandn o s
  | .pnot o => Sys2Proof.Machine.execPnot o s
  | .pset o bit => Sys2Proof.Machine.execPset o bit s
  | .pfroms o => Sys2Proof.Machine.execPfroms o s
  | .ptos o => Sys2Proof.Machine.execPtos o s
  | .pmand o => Sys2Proof.Machine.execPmand o s
  | .pmandn o => Sys2Proof.Machine.execPmandn o s
  | .pmor o => Sys2Proof.Machine.execPmor o s
  | .pmset o => Sys2Proof.Machine.execPmset o s
  | .pmtos o => Sys2Proof.Machine.execPmtos o s
  | .pmtop o => Sys2Proof.Machine.execPmtop o s
  | .jset o => Sys2Proof.Machine.execJset o s
  | .jarr o => Sys2Proof.Machine.execJarr o s
  | .jdrop o => Sys2Proof.Machine.execJdrop o s
  | .jwait o => Sys2Proof.Machine.execJwait o s
  | .jst o off => Sys2Proof.Machine.execJst o off s
  | .jld o off => Sys2Proof.Machine.execJld o off s
  | .vld o ty m => Sys2Proof.Machine.execVld o ty m s
  | .vst o ty m => Sys2Proof.Machine.execVst o ty m s
  | .vlds o ty m => Sys2Proof.Machine.execVlds o ty m s
  | .vsts o ty m => Sys2Proof.Machine.execVsts o ty m s
  | .vpf o m => Sys2Proof.Machine.execVpf o m s
  | .vatomAdd o ty m => Sys2Proof.Machine.execVatomAdd o ty m s
  | .vatomSwap o ty m => Sys2Proof.Machine.execVatomSwap o ty m s
  | .vatomAnd o ty m => Sys2Proof.Machine.execVatomAnd o ty m s
  | .vatomOr o ty m => Sys2Proof.Machine.execVatomOr o ty m s
  | .vatomXor o ty m => Sys2Proof.Machine.execVatomXor o ty m s
  | .vatomMin o ty m => Sys2Proof.Machine.execVatomMin o ty m s
  | .vatomMax o ty m => Sys2Proof.Machine.execVatomMax o ty m s
  | .vatomCas o ty m => Sys2Proof.Machine.execVatomCas o ty m s
  | .vaccAdd o ty m => Sys2Proof.Machine.execVaccAdd o ty m s
  | .vaccMin o ty m => Sys2Proof.Machine.execVaccMin o ty m s
  | .vaccMax o ty m => Sys2Proof.Machine.execVaccMax o ty m s
  | .rflush o => Sys2Proof.Machine.execRflush o s
  | .mma o reuse scl => Sys2Proof.Machine.execMma o reuse scl s
  | .mmas o reuse scl vm => Sys2Proof.Machine.execMmas o reuse scl vm s
  | .vspk o ty => Sys2Proof.Machine.execVspk o ty s
  | .wstart o => Sys2Proof.Machine.execWstart o s
  | .wresume o => Sys2Proof.Machine.execWresume o s
  | .texPoint o => Sys2Proof.Machine.execTexPoint o s
  | .texBilinear o => Sys2Proof.Machine.execTexBilinear o s
  | .texTrilinear o => Sys2Proof.Machine.execTexTrilinear o s
  | .texGather o => Sys2Proof.Machine.execTexGather o s
  | .texf o => Sys2Proof.Machine.execTexf o s
  | .texsz o => Sys2Proof.Machine.execTexsz o s
  | .lnestCopy n => Sys2Proof.Machine.execLnestCopy n s
  | .lnestAdd n => Sys2Proof.Machine.execLnestAdd n s
  | .lnestSub n => Sys2Proof.Machine.execLnestSub n s
  | .lnestMul n => Sys2Proof.Machine.execLnestMul n s
  | .lnestFma n => Sys2Proof.Machine.execLnestFma n s
  | .lnestMin n => Sys2Proof.Machine.execLnestMin n s
  | .lnestMax n => Sys2Proof.Machine.execLnestMax n s
  | .lnestSum n => Sys2Proof.Machine.execLnestSum n s
  | .lnestDot n => Sys2Proof.Machine.execLnestDot n s
  | .lnestRmax n => Sys2Proof.Machine.execLnestRmax n s
  | .lnestRmin n => Sys2Proof.Machine.execLnestRmin n s
  | .walkDone => Sys2Proof.Machine.execWalkDone s
  | .walkFetch a => Sys2Proof.Machine.execWalkFetch a s
  | .walkFld d sx n off => Sys2Proof.Machine.execWalkFld d sx n off s
  | .walkChild d a => Sys2Proof.Machine.execWalkChild d a s
  | .walkBox4 d a => Sys2Proof.Machine.execWalkBox4 d a s
  | .walkTri d a b => Sys2Proof.Machine.execWalkTri d a b s
  | .walkCommit a b => Sys2Proof.Machine.execWalkCommit a b s
  | .walkEdge3 d a lg => Sys2Proof.Machine.execWalkEdge3 d a lg s
  | .walkEmitRing a n => Sys2Proof.Machine.execWalkEmitRing a n s
  | .walkEmitVis a => Sys2Proof.Machine.execWalkEmitVis a s
  | .walkPush a => Sys2Proof.Machine.execWalkPush a s
  | .walkPop d => Sys2Proof.Machine.execWalkPop d s
  | .walkAdd d a b => Sys2Proof.Machine.execWalkAdd d a b s
  | .walkAddi d a imm => Sys2Proof.Machine.execWalkAddi d a imm s
  | .walkSub d a b => Sys2Proof.Machine.execWalkSub d a b s
  | .walkAnd d a b => Sys2Proof.Machine.execWalkAnd d a b s
  | .walkShl d a n => Sys2Proof.Machine.execWalkShl d a n s
  | .walkShr d a n => Sys2Proof.Machine.execWalkShr d a n s
  | .walkCmp d a b c => Sys2Proof.Machine.execWalkCmp d a b c s
  | .walkMovi d imm => Sys2Proof.Machine.execWalkMovi d imm s
  | .walkJmp l => Sys2Proof.Machine.execWalkJmp l s
  | .walkJz a l => Sys2Proof.Machine.execWalkJz a l s
  | .walkJnz a l => Sys2Proof.Machine.execWalkJnz a l s
  | .walkYield => Sys2Proof.Machine.execWalkYield s
  | .walkStepLimit core slot => Sys2Proof.Machine.execWalkStepLimit core slot s
  | .ctxcmdCreate port ctx => Sys2Proof.Machine.execCtxcmdCreate port ctx s
  | .ctxcmdBind port ctx => Sys2Proof.Machine.execCtxcmdBind port ctx s
  | .bindComplete ctx => Sys2Proof.Machine.execBindComplete ctx s
  | .ctxcmdRun port ctx => Sys2Proof.Machine.execCtxcmdRun port ctx s
  | .ctxcmdQuiesce port ctx => Sys2Proof.Machine.execCtxcmdQuiesce port ctx s
  | .ctxcmdReset port ctx => Sys2Proof.Machine.execCtxcmdReset port ctx s
  | .resetSequenceComplete ctx => Sys2Proof.Machine.execResetSequenceComplete ctx s
  | .ctxcmdDestroy port ctx => Sys2Proof.Machine.execCtxcmdDestroy port ctx s
  | .destroySequenceComplete ctx => Sys2Proof.Machine.execDestroySequenceComplete ctx s
  | .owncmd port val => Sys2Proof.Machine.execOwncmd port val s
  | .ctxinv port ctx val => Sys2Proof.Machine.execCtxinv port ctx val s
  | .ctxinvComplete ctx => Sys2Proof.Machine.execCtxinvComplete ctx s
  | .ctxstateRead port ctx => Sys2Proof.Machine.execCtxstateRead port ctx s
  | .registerWrite port bar off val => Sys2Proof.Machine.execRegisterWrite port bar off val s
  | .lnclr port ctx val => Sys2Proof.Machine.execLnclr port ctx val s
  | .lnstatRead port ctx => Sys2Proof.Machine.execLnstatRead port ctx s
  | .lanternQuadWrite port ctx n gm val => Sys2Proof.Machine.execLanternQuadWrite port ctx n gm val s
  | .lnkctlEnSet port n => Sys2Proof.Machine.execLnkctlEnSet port n s
  | .lnkctlEnClear port n => Sys2Proof.Machine.execLnkctlEnClear port n s
  | .rcvcmdGo => Sys2Proof.Machine.execRcvcmdGo s
  | .recoveryVerifyComplete => Sys2Proof.Machine.execRecoveryVerifyComplete s
  | .deviceReset => Sys2Proof.Machine.execDeviceReset s
  | .firmwareVerifyComplete => Sys2Proof.Machine.execFirmwareVerifyComplete s
  | .attestationRequest port nonce => Sys2Proof.Machine.execAttestationRequest port nonce s
  | .hostBar4Read port addr len => Sys2Proof.Machine.execHostBar4Read port addr len s
  | .hostPostedWrite port addr data relaxed => Sys2Proof.Machine.execHostPostedWrite port addr data relaxed s
  | .hostFetchadd port addr addend => Sys2Proof.Machine.execHostFetchadd port addr addend s
  | .clockStepDown => Sys2Proof.Machine.execClockStepDown s
  | .clockStepUp => Sys2Proof.Machine.execClockStepUp s
  | .deviceWideUncorrectableError => Sys2Proof.Machine.execDeviceWideUncorrectableError s
  | .linePoisonDetect line => Sys2Proof.Machine.execLinePoisonDetect line s
  | .queueReady ctx q => Sys2Proof.Machine.execQueueReady ctx q s
  | .dispatchOpportunity => Sys2Proof.Machine.execDispatchOpportunity s
  | .queuePriorityAging ctx q => Sys2Proof.Machine.execQueuePriorityAging ctx q s
  | .copyPacketPerform ctx q idx => Sys2Proof.Machine.execCopyPacketPerform ctx q idx s
  | .counterWaitPacketSatisfied ctx q idx => Sys2Proof.Machine.execCounterWaitPacketSatisfied ctx q idx s
  | .counterAddPacketPerform ctx q idx => Sys2Proof.Machine.execCounterAddPacketPerform ctx q idx s
  | .teamPlace launch core quarters => Sys2Proof.Machine.execTeamPlace launch core quarters s
  | .teamEnd team => Sys2Proof.Machine.execTeamEnd team s
  | .launchCompletionAdd launch => Sys2Proof.Machine.execLaunchCompletionAdd launch s
  | .codeHashCheckComplete core ctx va => Sys2Proof.Machine.execCodeHashCheckComplete core ctx va s
  | .pageTableWalk core ctx va => Sys2Proof.Machine.execPageTableWalk core ctx va s
  | .missSplit team wave base => Sys2Proof.Machine.execMissSplit team wave base s
  | .fuseTimeout team wave base => Sys2Proof.Machine.execFuseTimeout team wave base s
  | .widthFault team wave base => Sys2Proof.Machine.execWidthFault team wave base s
  | .gangSwap core quarter => Sys2Proof.Machine.execGangSwap core quarter s
  | .yieldBackoffExpiry team wave base => Sys2Proof.Machine.execYieldBackoffExpiry team wave base s
  | .longLatencyComplete team wave quad idx => Sys2Proof.Machine.execLongLatencyComplete team wave quad idx s
  | .counterWaitTimeout team wave quad => Sys2Proof.Machine.execCounterWaitTimeout team wave quad s
  | .counterWatchNotify team wave quad => Sys2Proof.Machine.execCounterWatchNotify team wave quad s
  | .remoteWaitRetry req => Sys2Proof.Machine.execRemoteWaitRetry req s
  | .engineWaitReevaluate core q => Sys2Proof.Machine.execEngineWaitReevaluate core q s
  | .engineWaitSatisfied core q => Sys2Proof.Machine.execEngineWaitSatisfied core q s
  | .engineAddPerform core q => Sys2Proof.Machine.execEngineAddPerform core q s
  | .engineCompletionAdd core q => Sys2Proof.Machine.execEngineCompletionAdd core q s
  | .engineBindingRetry core q => Sys2Proof.Machine.execEngineBindingRetry core q s
  | .copyPerform core q => Sys2Proof.Machine.execCopyPerform core q s
  | .engineRingFreeWaitEnd core q => Sys2Proof.Machine.execEngineRingFreeWaitEnd core q s
  | .engineRingPublish core q => Sys2Proof.Machine.execEngineRingPublish core q s
  | .qfenceMarkerRetire core group => Sys2Proof.Machine.execQfenceMarkerRetire core group s
  | .lnestEntryPerform core q => Sys2Proof.Machine.execLnestEntryPerform core q s
  | .lnestElementFault core q => Sys2Proof.Machine.execLnestElementFault core q s
  | .l1LineEviction core ctx va => Sys2Proof.Machine.execL1LineEviction core ctx va s
  | .l2LineEviction line => Sys2Proof.Machine.execL2LineEviction line s
  | .promotionWritebackAck core line => Sys2Proof.Machine.execPromotionWritebackAck core line s
  | .accumulateArrival acc occupancy => Sys2Proof.Machine.execAccumulateArrival acc occupancy s
  | .accumulateWindowStart => Sys2Proof.Machine.execAccumulateWindowStart s
  | .refusalReply acc => Sys2Proof.Machine.execRefusalReply acc s
  | .drainComplete team drain => Sys2Proof.Machine.execDrainComplete team drain s
  | .watchdogExpiry team wave base => Sys2Proof.Machine.execWatchdogExpiry team wave base s
  | .aLatchIdleRelease core quarter => Sys2Proof.Machine.execALatchIdleRelease core quarter s
  | .drainWindowEnd ctx => Sys2Proof.Machine.execDrainWindowEnd ctx s
  | .saveComplete ctx => Sys2Proof.Machine.execSaveComplete ctx s
  | .saveDeadline ctx => Sys2Proof.Machine.execSaveDeadline ctx s
  | .linkPeerDetected n => Sys2Proof.Machine.execLinkPeerDetected n s
  | .linkTrained n peer plink => Sys2Proof.Machine.execLinkTrained n peer plink s
  | .linkTrainingTimeout n => Sys2Proof.Machine.execLinkTrainingTimeout n s
  | .linkFlitError n => Sys2Proof.Machine.execLinkFlitError n s
  | .linkLoss n => Sys2Proof.Machine.execLinkLoss n s
  | .remoteRequest link r => Sys2Proof.Machine.execRemoteRequest link r s
  | .remoteReply req r => Sys2Proof.Machine.execRemoteReply req r s
  | .remoteRequestTimeout req => Sys2Proof.Machine.execRemoteRequestTimeout req s
  | .remoteWaitCancel team wave quad => Sys2Proof.Machine.execRemoteWaitCancel team wave quad s
  | .remoteCancelAck req satisfied => Sys2Proof.Machine.execRemoteCancelAck req satisfied s
  | .replayArrivalTimeout ctx slice => Sys2Proof.Machine.execReplayArrivalTimeout ctx slice s
  | .perContextUncorrectableError ctx => Sys2Proof.Machine.execPerContextUncorrectableError ctx s
  | .translationCacheEviction core ctx va => Sys2Proof.Machine.execTranslationCacheEviction core ctx va s
  | .sectorForwarding link dst payload => Sys2Proof.Machine.execSectorForwarding link dst payload s

end Sys2Proof.Machine
end

