-- ==== Sys2Proof/Machine/Place.lean ====
section
/-! DEFINITION. Placing one instruction where the machine issues next: what `State.withFetchWord`
does, in words of the code stream or of walk code. -/

namespace Sys2Proof.Machine

/-- The virtual and physical address at which a placed instruction stands. -/
def placeAt : Nat := 0x20000

/-- The words of an instruction as bytes (R5, R268). -/
def bytesOfWords (ws : List Code) : List Byte := ws.flatMap fun w => leBytes 4 w.toNat

/-- The translation of the page that holds the placed instruction: a verified code page (R162). -/
def placePage : TlbEntry :=
  { ctx := 0, base := placeAt, lg := 16, frame := placeAt, w := false, ctr := false, code := true
    poison := false, scope := 4, cache := 0, tag := 0, manifest := 0, verified := true }

/-- The quad that reaches the placed instruction: outside a clause when the word is a header, else
inside one that names set-flags 0 and 1. -/
def placeQuad (w : Code) : Quad :=
  { Quad.start with
    pc := BitVec.ofNat 64 placeAt
    clause := if slice (zext w) 31 30 = 3 then none
      else some { setA := some 0, setB := some 1, left := 1023, barWait := false } }

/-- The kernel of the placed instruction. -/
def placeKernel : Kernel := { Kernel.blank with entry := BitVec.ofNat 64 placeAt, regs := 640 }

/-- A team of one wave of one quad on quarter 0 of core 0, which is older than any other. -/
def placeTeam (launch : Nat) (w : Code) : Team :=
  { Team.blank with
    kernel := placeKernel
    launch := launch
    phase := .live
    waves := [{ Wave.blank with
      stopped := false
      gangs := [{ base := 0, lg := 0, active := true, slotFree := 0 }]
      quads := [placeQuad w] }] }

/-- A wave leaves the active set of a quarter of core 0. -/
def Wave.standAside (w : Wave) : Wave :=
  if w.core = 0 ∧ w.quarter = 0 then
    { w with gangs := w.gangs.map fun g => { g with active := false } } else w

/-- Every wave of a team stands aside. -/
def Team.standAside (t : Team) : Team := { t with waves := t.waves.map Wave.standAside }

/-- Places words of the code stream at the head of quarter 0 of core 0, which moves next. -/
def State.placeCode (s : State) (ws : List Code) : State :=
  let w := ws.headD 0
  let s := { s with
    mem := s.mem.write placeAt (bytesOfWords ws)
    teams := s.teams.map Team.standAside ++
      [placeTeam s.launches.length w]
    agenda := { dt := 0, agent := .quarter 0 0 } :: s.agenda }
  let s := s.modCtx 0 fun x => { x with phase := .running, winHi := 0xBFFFF, tag := 0 }
  s.modCore 0 fun k =>
    { k with
      tlb := tlbInsert placePage k.tlb
      ilines := k.ilines.filter fun l => l.ctx != 0
      clean := k.clean.filter fun l => l.ctx != 0
      held := k.held.filter fun l => l.ctx != 0
      quarters := modVec k.quarters 0 fun y => { y with busyUntil := 0 } }

/-- The record image of a running walk whose program starts at the placed word (R225): prog, the
overflow area and its capacity, and state running. -/
def placeImage : Vector Byte 256 :=
  putImage (putImage (putImage (putImage (Vector.replicate 256 0) 48 (leBytes 8 placeAt))
    128 (leBytes 8 0x30000)) 136 (leBytes 4 16)) 160 (leBytes 8 0x11000)

/-- A running walk of the placed team that stands at the placed word (R223, R225). -/
def placeWalk (id team : Nat) : Walk :=
  { id := id, ctx := 0, team := team, wave := 0, quad := 0, lane := 0, pend := id, vd := 0
    record := BitVec.ofNat 64 0x30100, image := placeImage, regs := Vector.replicate 8 0, stack := []
    layout := { nodesz := 16, maxkids := 4, kindoff := 0, cpoff := 16, cpenc := 0, boxoff := 64
                boxenc := 0, leafoff := 16, leafenc := 0, base := 0 }
    buffer := none, steps := 0, want := none, active := true, fetched := [], logged := [], check := none }

/-- Places a word of walk code in front of a walk of core 0, which moves next. -/
def State.placeWalkWord (s : State) (w : Code) : State :=
  let id := s.nextId
  let s := s.placeCode [w]
  let s := { s with
    nextId := id + 1
    agenda := { dt := 0, agent := .walk 0 id } :: s.agenda.drop 1 }
  let s := s.modQuad (s.teams.length - 1) 0 0 fun q =>
    { q with wait := .interlock 3
             pends := [{ id := id, flag := none, writes := [], loads := [], blends := [], faults := []
                         walks := [id], requests := [], poll := none }] }
  s.modCore 0 fun k => { k with walks := placeWalk id (s.teams.length - 1) :: k.walks }

end Sys2Proof.Machine
end

