-- ==== Sys2Proof/Machine/Due.lean ====
section
/-! DEFINITION. What must take place before anything else moves: watchdog expiries (R421), lines that a full L1 or a
full slice has to give up (R17, R44, R158), and, once every event of a cycle has taken place, the timers that have run
out (R103, R109, R115, R130, R135, R142, R143, R391, R423, R441, R443, R445, R476), after the test of R107; and one cycle of
the clock. -/

namespace Sys2Proof.Machine

/-- An event that takes place before anything else. -/
inductive Due where
  | watchdog (team wave base : Nat)
  | l1Line (core : Nat) (ctx : BitVec 6) (va : Word)
  | l2Line (line : Nat)
  | join (team wave : Nat)
  | fuse (team wave quad : Nat)
  | width (team wave base : Nat)
  | split (team wave base : Nat)
  | backoff (team wave base : Nat)
  | notify (team wave quad : Nat)
  | wait (team wave quad : Nat)
  | cancel (team wave quad : Nat)
  | drain (ctx : BitVec 6)
  | deadline (ctx : BitVec 6)
  | retry (req : Nat)
  | request (req : Nat)
  | link (n : Nat)
  | latch (core quarter : Nat)
  | replay (ctx : BitVec 6) (slice : Nat)
  deriving DecidableEq, Repr

/-- The event takes place. -/
def Due.perform (s : State) : Due → Out
  | .watchdog t w n => execWatchdogExpiry t w n s
  | .l1Line core c va => execL1LineEviction core c va s
  | .l2Line line => execL2LineEviction line s
  | .join t w => .next (s.joinTest t w)
  | .fuse t w n => execFuseTimeout t w n s
  | .width t w n => execWidthFault t w n s
  | .split t w n => execMissSplit t w n s
  | .backoff t w n => execYieldBackoffExpiry t w n s
  | .notify t w n => execCounterWatchNotify t w n s
  | .wait t w n => execCounterWaitTimeout t w n s
  | .cancel t w n => execRemoteWaitCancel t w n s
  | .drain c => execDrainWindowEnd c s
  | .deadline c => execSaveDeadline c s
  | .retry r => execRemoteWaitRetry r s
  | .request r => execRemoteRequestTimeout r s
  | .link n => execLinkTrainingTimeout n s
  | .latch core q => execALatchIdleRelease core q s
  | .replay c n => execReplayArrivalTimeout c n s

/-! ### Capacity -/

/-- Lines of the L1 of a core: what the scratchpads of its teams leave of the SRAM of 512 KiB (R17). -/
def State.l1Lines (s : State) (core : Nat) : Nat := 4096 - 256 * s.scratchUnits core

/-- The virtual address of a line. -/
def lineVa (line : Nat) : Word := BitVec.ofNat 64 (128 * line)

/-- The line that leaves an L1 which holds more than it can (R17, R177): the clean copy, else the instruction line,
else the held line that has been there longest; a pinned line stays (notes/assumptions/7.md). -/
def State.l1Victim (s : State) (core : Nat) (k : CoreSt) : Option Due :=
  let n := k.held.length + k.clean.length + k.ilines.length
  if n ≤ 512 then none
  else if n ≤ s.l1Lines core then none
  else
    match k.clean.getLast? with
    | some h => some (.l1Line core h.ctx (lineVa h.line))
    | none =>
      match k.ilines.getLast? with
      | some h => some (.l1Line core h.ctx (lineVa h.line))
      | none =>
        match (k.held.filter fun h => !h.pinned).getLast? with
        | some h => some (.l1Line core h.ctx (lineVa h.line))
        | none => none

/-- The first core whose L1 holds more than it can. -/
def State.l1Due (s : State) : Option Due := s.cores.toList.zipIdx.findSome? fun x => s.l1Victim x.2 x.1

/-- The line that leaves the first slice which holds more than it can (R44, R158). -/
def State.l2Due (s : State) : Option Due := s.slices.toList.findSome? fun y => y.victim.map .l2Line

/-! ### Timers -/

/-- A quad resumes at the latest within 0.5 µs of the operation that satisfied its wait, within 1.5 µs where the wait has
spilled (R135). -/
def CWait.resumes (x : CWait) : Bool :=
  x.status.isSome && decide ((if x.spilled then 3 * microsecond else microsecond) ≤ 2 * x.woken)

/-- The timer of a quad that has run out: of its fuse (R109, R115), of a header or back-off of the gang that it leads
(R103, R143), or of its counter wait (R130, R135, R441). -/
def State.quadTimer (s : State) (t w n : Nat) : Option Due :=
  if s.fuseDue t w n then some (.fuse t w n)
  else if s.widthDue t w n then some (.width t w n)
  else if s.splitDue t w n then some (.split t w n)
  else if s.backoffDue t w n then some (.backoff t w n)
  else
    match (s.quad t w n).cwait? with
    | none => none
    | some x =>
      if x.resumes then some (.notify t w n)
      else if !x.expired then none
      else
        match x.request with
        | none => some (.wait t w n)
        | some r =>
          if !x.cancelled && s.requests.any fun y => y.id == r then some (.cancel t w n) else none

/-- A timer of a wave that is resident. -/
def State.waveTimer (s : State) : Option Due :=
  (upTo s.teams.length).findSome? fun t =>
    if (s.team t).resident then
      (upTo (s.team t).waves.length).findSome? fun w =>
        (upTo (s.wave t w).quads.length).findSome? fun n => s.quadTimer t w n
    else none

/-- The end of the drain window or of the save window of a context (R423). -/
def State.saveTimer (s : State) (c : BitVec 6) : Option Due :=
  let x := s.ctx c
  if x.phase ≠ .quiescing then none
  else if x.deadlinePassed s.wall then some (.deadline c)
  else if !x.saving && !x.quiesceMig && decide (x.quiesceAt + x.quiesceDrain * microsecond ≤ s.wall) then
    some (.drain c)
  else none

/-- A Sector request that has waited long enough: for its reply (R443), also the cancel of a wait, or after a retry (R142).
When a wait that the other device holds fails is left to the agenda (notes/assumptions/55.md). -/
def State.requestTimer (s : State) (r : Request) : Option Due :=
  match r.retryAt with
  | some t =>
    if decide (t + 4 * microsecond ≤ s.wall) && !r.cancelled s then some (.retry r.id) else none
  | none =>
    if (!r.body.kind.isWait || r.cancelled s) && decide (r.sentAt + 2000 * microsecond ≤ s.wall) then
      some (.request r.id)
    else none

/-- A link that has not trained in time (R445). -/
def State.linkTimer (s : State) (n : Nat) : Option Due :=
  if (s.link n).state = .training ∧ (s.link n).trainAt + trainTime ≤ s.wall then some (.link n)
  else none

/-- A quarter whose A-latch has been idle for 1,024 cycles (R391). -/
def State.latchTimer (s : State) (core : Nat) : Option Due :=
  (upTo 4).findSome? fun q =>
    match ((s.core core).quarters.toList.getD q { busyUntil := 0, latch := Latch.free }).latch with
    | l => if l.owner.isSome && decide (l.lastUse + 1024 ≤ s.clk) then some (.latch core q) else none

/-- A slice at which an arrival has waited 1 ms in the replay of a context (R476). -/
def State.replayTimer (s : State) (c : BitVec 6) : Option Due :=
  if (s.ctx c).lnActive == 2 then
    (upTo 128).findSome? fun n => if s.arrivalLate c n then some (.replay c n) else none
  else none

/-- An arrived set that is released (R107): tested before any timer of its cycle (R110). -/
def State.joinTimer (s : State) : Option Due :=
  (upTo s.teams.length).findSome? fun t =>
    if (s.team t).resident then
      (upTo (s.team t).waves.length).findSome? fun w =>
        if (s.wave t w).joinDue then some (.join t w) else none
    else none

/-- The first of the timers that have run out. -/
def State.timer (s : State) : Option Due :=
  s.joinTimer.or (s.waveTimer.or ((allCtxs.findSome? s.saveTimer).or ((s.requests.findSome? s.requestTimer).or
    (((upTo 18).findSome? s.linkTimer).or (((upTo 288).findSome? s.latchTimer).or
      (allCtxs.findSome? s.replayTimer))))))

/-! ### What is due -/

/-- A gang whose issue has brought WDOG to 0 (R421). -/
def State.dogDue (s : State) : Option Due :=
  (upTo s.teams.length).findSome? fun t =>
    (upTo (s.team t).waves.length).findSome? fun w =>
      ((s.wave t w).dog.head?).map fun n => .watchdog t w n

/-- What must take place before the agenda goes on. The test of R107, and a timer that runs out in a cycle, come after
every event of that cycle (R110, R131). -/
def State.due (s : State) : Option Due :=
  s.dogDue.or (s.l1Due.or (s.l2Due.or (if s.cycleOver then s.timer else none)))

/-- One cycle of the arithmetic clock: slices perform what they have queued (R202), resident teams get back
what their saves hold as far as the limits of their cores allow (R199, R232, R431), the waits of contexts with an order log
are evaluated (R472, R475), and entries of the error log that had to wait are tried again (R475). -/
def State.cycle (s : State) : State := (s.performQueues.restockAll.orderWaits.relog).passTime 1

end Sys2Proof.Machine
end

