-- ==== Sys2Proof/Machine/Step.lean ====
section
/-! DEFINITION. One step: the head of the agenda says how much time passes and which agent moves. -/

namespace Sys2Proof.Machine

/-- What an issue opportunity answers: a state of its own, or the instruction it reached. -/
def Issued.run : Issued → Host.Outcome State Fault Refusal
  | .state s => .next s
  | .instr i s => exec i s

/-- The walk at hand performs what its word decodes to (R401): a word that is no operation faults it. -/
def performWalk (r : Except DecodeError Instr) (s : State) : Host.Outcome State Fault Refusal :=
  match r with
  | .ok i => exec i s
  | .error _ => badWalkWord s

/-- The walk at hand performs a word of walk code. -/
noncomputable def stepWalkWord (x : Code) (s : State) : Host.Outcome State Fault Refusal :=
  performWalk (decodeWalk x) s

/-- A word that needs some fields to be zero. -/
theorem performWalk_need (c : Bool) (i : Instr) (s : State) :
    performWalk (need c i) s = if c then exec i s else badWalkWord s := by
  cases c <;> rfl

/-- A word that needs its instruction to be well-formed. -/
theorem performWalk_legal (c : Bool) (i : Instr) (e : DecodeError) (s : State) :
    performWalk (if c then legal i else .error e) s = if c && i.wf then exec i s else badWalkWord s := by
  unfold legal
  cases c <;> cases h : i.wf <;> rfl

/-- The two forms of a walk word's performance agree, so a run may use the second. -/
@[csimp] theorem stepWalkWord_eq_runWalkWord : @stepWalkWord = @runWalkWord := by
  funext x s
  unfold stepWalkWord runWalkWord decodeWalk
  dsimp only
  generalize (bits x 26 6).toNat = op
  match op with
  | 0x07 => exact performWalk_legal _ _ _ _
  | 0x08 => cases bit x 0 <;> exact performWalk_need _ _ _
  | 0x0F => cases bit x 6 <;> exact performWalk_need _ _ _
  | 0x10 =>
    cases WalkCond.ofCode (bits x 0 3).toNat with
    | none => rfl
    | some c => exact performWalk_need _ _ _
  | 0x00 | 0x01 | 0x02 | 0x03 | 0x04 | 0x05 | 0x06 | 0x09 | 0x0A | 0x0B | 0x0C | 0x0D | 0x0E | 0x11
  | 0x12 | 0x13 | 0x14 | 0x15 => exact performWalk_need _ _ _
  | _ + 22 => rfl

/-- What the walk engine does next: a state of its own, or a word of walk code. -/
def WalkNext.run : WalkNext → Host.Outcome State Fault Refusal
  | .state s => .next s
  | .word x s => stepWalkWord x s

/-- One agent moves. -/
def State.move (s : State) : Agent → Host.Outcome State Fault Refusal
  | .quarter core q => (s.issueQuarter core q).run
  | .walk core id => (s.nextWalk core id).run
  | .event i => exec i { s with cur := .none }
  | .hostRead p bar off => .next (s.hostRegisterRead p bar off.toNat)
  | .hostAtomic p => .next (s.hostAtomic p)
  | .hostMask p v m => .next (s.hostMask p v m)

/-- One step of the machine: what is due takes place; else the head of the agenda moves, or one cycle passes, which
brings the head of the agenda one cycle nearer. -/
def step (s : State) : Host.Outcome State Fault Refusal :=
  match s.due with
  | some d => d.perform { s with cur := .none }
  | none =>
    match s.agenda with
    | [] => .next s.cycle
    | x :: rest =>
      match x.dt with
      | 0 => ({ s with agenda := rest } : State).move x.agent
      | n + 1 => .next ({ s with agenda := { x with dt := n } :: rest } : State).cycle

/-- Places the instruction whose bits are `w` where the next step issues: eight words of the code
stream, or one word of walk code where the words are no instruction of the code stream. -/
def State.withFetchWord (s : State) (nbits w : Nat) : State :=
  let ws := tableWords nbits w
  if tableIsWalk nbits w then s.placeWalkWord (ws.headD 0) else s.placeCode ws

end Sys2Proof.Machine
end

