-- ==== Sys2Proof/Safety.lean ====
section
/-! DEFINITION. What a safe run is, and what one performance of an instruction by a gang leaves as it
was: the terms the statements use. -/

namespace Sys2Proof.Machine

/-- The outcome is a next state. -/
def Goes : Out → Prop
  | .next _ => True
  | .fault _ => False
  | .refused _ => False

/-- A state from which the machine takes a step. -/
def State.safe (s : State) : Prop := Goes (step s)

/-! ### The canonical form of memory -/

/-- The agenda's events are operations and events without an encoding: an instruction of the code stream or
of walk code reaches `exec` only through a quarter or a walk engine (R117, R223). -/
def State.agendaOk (s : State) : Prop := ∀ x ∈ s.agenda, ∀ i, x.agent = .event i → encode i = []

/-- HBM, every scratchpad and the recovery buffer are in canonical form, the arithmetic clock runs at
one of its rates (R25), and the agenda's events are events. -/
structure State.Inv (s : State) : Prop where
  agenda : s.agendaOk
  mem : s.mem.wf = true
  scratch : ∀ t ∈ s.teams, t.scratch.wf = true
  recovery : s.recovery.buffer.wf = true
  rate : 12 ≤ s.rate ∧ s.rate ≤ 19

/-! ### One performance by a gang -/

/-- WDOG counts at an issue of the gang (R420): it is not 0 and no quad of the gang is in its handler. -/
def dogRuns (s : State) (g : GangRef) : Bool :=
  (s.waveOf g).wdog != 0 && !(g.quads.any fun q => (s.quadOf g q).inHandler)

/-- WDOG after an issue of the gang that does not reload it (R420). -/
def dogNext (s : State) (g : GangRef) : BitVec 32 :=
  if dogRuns s g then
    if (s.waveOf g).wdog = 1 then (s.teamOf g).kernel.wdog else (s.waveOf g).wdog - 1
  else (s.waveOf g).wdog

/-- The quads of the wave for which an issue has brought WDOG from 1 to 0, after an issue of the gang (R420, R421): the
expiry gives them a pending watchdog trap before anything else moves. -/
def dogHits (s : State) (g : GangRef) : List Nat :=
  if dogRuns s g && (s.waveOf g).wdog == 1 then g.quads else (s.waveOf g).dog

/-- An A-latch has become another one by writes of a wave (R390): it has lost some span entries, and none where the wave
does not own it. -/
def Latch.Less (a b : Latch) (owner : Nat × Nat) : Prop :=
  b = { a with entries := b.entries } ∧ b.entries.Sublist a.entries ∧ (a.owner ≠ some owner → b = a)

/-- Nothing outside a gang has changed but the stall counters, the busy times of quarters and span entries of A-latches
that the gang's wave owns: memory, contexts, slices, launches, accumulates, requests, ports and every other device register
are as they were; so are the L1, translations, instruction lines, engine queues and walks of every core, every
other A-latch, every other team, every other wave of the gang's team, the team's scratchpad, counter and rings, and every
quad of the wave that is not the gang's. -/
structure Outside (s t : State) (g : GangRef) : Prop where
  device : t = { s with teams := t.teams, cores := t.cores, stalls := t.stalls }
  core : ∀ c, t.core c = { s.core c with quarters := (t.core c).quarters }
  latch : ∀ (c i : Nat) (y : Quarter), (t.core c).quarters[i]? = some y →
    ∃ x, (s.core c).quarters[i]? = some x ∧ x.latch.Less y.latch (g.t, g.w)
  teams : t.teams.length = s.teams.length
  team : ∀ i, i ≠ g.t → t.team i = s.team i
  own : t.teamOf g = { s.teamOf g with waves := (t.teamOf g).waves }
  waves : (t.teamOf g).waves.length = (s.teamOf g).waves.length
  wave : ∀ w, w ≠ g.w → t.wave g.t w = s.wave g.t w
  mine : t.waveOf g =
    { s.waveOf g with wdog := (t.waveOf g).wdog, fusest := (t.waveOf g).fusest, dog := (t.waveOf g).dog
                      gangs := (t.waveOf g).gangs, quads := (t.waveOf g).quads }
  quads : (t.waveOf g).quads.length = (s.waveOf g).quads.length
  quad : ∀ n, n ∉ g.quads → t.quadOf g n = s.quadOf g n

/-- More pending traps. -/
def Quad.addTraps (q : Quad) (l : List PendTrap) : Quad := { q with pendTraps := q.pendTraps ++ l }

/-- What one performance by a gang did: nothing outside the gang, WDOG, FUSEST and the quads whose watchdog expires as
given, and each quad of the gang that has not exited changed by `f`. An exited quad keeps its state. -/
structure Effect (s t : State) (g : GangRef) (dog fuse : BitVec 32) (hits : List Nat)
    (f : Nat → Quad → Quad) : Prop extends Outside s t g where
  dog : g.w < (s.teamOf g).waves.length → (t.waveOf g).wdog = dog
  hits : g.w < (s.teamOf g).waves.length → (t.waveOf g).dog = hits
  fuse : g.w < (s.teamOf g).waves.length → (t.waveOf g).fusest = fuse
  exited : ∀ n, (s.quadOf g n).exited = true → t.quadOf g n = s.quadOf g n
  each : ∀ n ∈ g.quads, n < (s.waveOf g).quads.length → (s.quadOf g n).exited = false →
    t.quadOf g n = f n (s.quadOf g n)

/-- An instruction performs on top of a state `u` that its accesses have led to: it answers a next state
that differs from `u` as `Effect` says, with the watchdog counted once (R98, R420). -/
def CompletesFrom (i : Instr) (s : State) (g : GangRef) (u : State) (f : Nat → Quad → Quad) : Prop :=
  ∃ t, exec i s = .next t ∧
    Effect u t g (dogNext u g) (u.waveOf g).fusest (dogHits u g) f

/-- An instruction performs: it answers a next state that differs from `s` as `Effect` says, with the
watchdog counted once (R98, R420). -/
def Completes (i : Instr) (s : State) (g : GangRef) (f : Nat → Quad → Quad) : Prop :=
  CompletesFrom i s g s f

/-- What an unhandled trap of a gang adds to a state in which its quads have recorded the trap and parked (R416): the wave
stops, code 0x0001 is logged, with the source of the instruction that trapped, the cause and the address `addr` (R491), and
the context enters faulted and raises vector 2 (R34, R45). -/
def State.stopsUnhandled (v : State) (g : GangRef) (src : TrapSrc) (cause : Nat) (addr : Word) : State :=
  ((v.modWave g.t g.w fun x => { x with stopped := true }).log (v.ctxOf g)
    { code := 0x0001, source := src, detail := cause, gridid := (v.teamOf g).gridid, addr := addr
      core := (v.waveOf g).core, wave := (v.waveOf g).wid }).ctxFault (v.ctxOf g)

/-! ### Memory -/

/-- A request that a page-table walk sends for an entry behind a Sector window (R438). -/
def Request.ofWalk (r : Request) : Prop := r.who = .engine walkerCore 0 0 ∧ r.body.kind = .read 16

/-- Nothing has changed but cached translations, clean L1 copies, the lines that home slices hold, stall
counters and the counters of identities and free values, and the requests that page-table walks have sent: what a read
of this device's memory may do (R154, R159, R177, R438). -/
structure ReadOnly (s u : State) : Prop where
  device : u = { s with cores := u.cores, slices := u.slices, stalls := u.stalls, nextId := u.nextId, free := u.free
                        requests := u.requests, sectorOut := u.sectorOut }
  requests : ∃ l, u.requests = l ++ s.requests ∧ ∀ r ∈ l, r.ofWalk
  sent : ∃ l, u.sectorOut = l ++ s.sectorOut ∧ ∀ x ∈ l, ∃ link body, x = .request link body ∧ body.kind = .read 16
  core : ∀ c, u.core c = { s.core c with tlb := (u.core c).tlb, clean := (u.core c).clean }
  slice : ∀ n, u.sliceAt n = { s.sliceAt n with lines := (u.sliceAt n).lines }

/-- The pieces of a resolved place: physical address, length, virtual address, leaf. -/
def Loc.pieces : Loc → List (Nat × Nat × Word × TlbEntry)
  | .scratch _ => []
  | .mem ps => ps

/-- The places lie in scratchpad or in HBM lines that are not poisoned, in pages that keep their offsets
and map each virtual page to one physical page. -/
structure PlainPlaces (s : State) (locs : List Loc) : Prop where
  hbm : ∀ l ∈ locs, ∀ p ∈ l.pieces, ∀ i < p.2.1,
    physKind (p.1 + i) = .hbm ∧ s.isPoisoned (lineOf (p.1 + i)) = false
  offset : ∀ l ∈ locs, ∀ p ∈ l.pieces,
    p.1 % 65536 = p.2.2.1.toNat % 65536 ∧ p.2.1 + p.1 % 65536 ≤ 65536
  page : ∀ l ∈ locs, ∀ p ∈ l.pieces, ∀ k ∈ locs, ∀ q ∈ k.pieces,
    p.2.2.1.toNat / 65536 = q.2.2.1.toNat / 65536 → p.1 / 65536 = q.1 / 65536

/-- The bytes that a core reads at a resolved place: the team's scratchpad, or its own view of memory
(R177, R350). -/
def seenAt (s : State) (g : GangRef) (len : Nat) : Loc → List Byte
  | .scratch off => (s.teamOf g).scratch.read off len
  | .mem ps => ps.flatMap fun p => (List.range p.2.1).map fun i =>
      viewByte s (s.coreOf g) (s.ctxOf g) (p.2.2.1 + BitVec.ofNat 64 i) (p.1 + i)

/-- A quad issues a long-latency instruction of `len` words (R276, R277): the outstanding instruction is
noted; with a flag the flag rises by 1 and the quad goes on, without one it interlocks. -/
def Quad.sendsOff (q : Quad) (len : Nat) (p : Pend) : Quad :=
  match p.flag with
  | some n =>
    { q with pends := q.pends ++ [p], f := q.f.setIfInBounds n.toNat (q.f.getD n.toNat 0 + 1) }.advance len
  | none => { q with pends := q.pends ++ [p], wait := .interlock len }

/-- What watches the counter at a physical address for a context (R136): waits of parked quads, of engine queues, of
packets and of other devices, and queues whose producer counter it is. -/
def State.watchers (s : State) (c : BitVec 6) (pa : Nat) : List Word :=
  let x := s.ctx c
  let named (l : List Word) : List Word := if x.phase.live then l.filter (namesCounter s c pa) else []
  (s.teams.filter (·.ctx == c)).flatMap (·.waitAddrs (.hbm pa)) ++ (s.engineWaits c).filter (namesCounter s c pa) ++
    named x.packetWaits ++
    ((s.remoteWaits.filter fun h => h.pa == pa && h.answer.isNone && h.req.dstCtx == c).map (·.req.addr)) ++
    named (x.watches.map (·.2))

/-- No counter of a range that a write makes fall is watched (R136): `r` is the state with the bytes written. -/
def State.fallsUnseen (s r : State) (pa n : Nat) : Prop :=
  ∀ w ∈ wordsIn pa n, r.word w < s.word w → ∀ c, r.watchers c w = []

/-- The release steps of R178 can be taken at once and lead from `s` through `v` to `u`: no quad of the
gang has a fault deferred to a drain point and no other quad of its wave one of an accumulate (R212), every held line
binds, no Sector access awaits its reply, and the team has no residual to deliver; in memory model mode 2 the bound
lines are then written back (R194). -/
structure ReleaseNow (s : State) (g : GangRef) (v u : State) : Prop where
  faults : ∀ n ∈ g.quads, ∀ d ∈ (s.quadOf g n).deferred, d.isDrain = false
  bound : bindAll s (s.coreOf g) (s.ctxOf g) = (v, none)
  wave : s.waveFaults g = []
  replies : v.awaitsSector (s.coreOf g) (s.ctxOf g) = false
  loads : v.remotePending g = false
  drain : (v.leader g).drainSt = .idle
  residuals : v.needsDrain g.t = false
  result : u = if (v.ctx (s.ctxOf g)).mml = 2 then writeBackBound v (s.coreOf g) (s.ctxOf g) else v

/-! ### Lane instructions -/

/-- A lane instruction runs at once in the gang that reaches it (R274, R277, R282, R283, R114): the gang
issues, the clause names the selected set-flag, the guard and every register field are legal, and the gang
is wide enough. -/
structure LaneReady (s : State) (g : GangRef) (o : LaneOp) (opnds : List Opnd) : Prop where
  issuing : s.issuing = some g
  flag : (laneFlag (s.leader g).clause o.flag).isSome = true
  guard : badGuard o.guard = false
  fields : ∀ x ∈ opnds, x.ok (s.teamOf g).kernel.regs = true
  width : min o.minw.toNat (s.teamOf g).kernel.lgwave ≤ g.lg

/-- Every active lane of a quad changed by itself (R320): its `em` bit is 1 and its guard holds. `f` is
given the lane's number in the quad. -/
def Quad.eachLane (q : Quad) (o : LaneOp) (f : Nat → Lane → Lane) : Quad :=
  { q with lanes := Vector.ofFn fun i =>
      if q.em.getLsbD i.val && guardOk o q.lanes[i] then f i.val q.lanes[i] else q.lanes[i] }

/-! ### The geometry of walks -/

/-- A finite extended real as a rational number. -/
def Ext.val (a : Ext) : ℚ := (a.num : ℚ) / (a.den : ℚ)

/-- A number lies between the ends of the ray (R404, R405), whose upper end may be infinite: `strict` leaves the upper
end itself out. -/
def Ray.within (r : Ray) (strict : Bool) (t : ℚ) : Prop :=
  r.tmin.val ≤ t ∧ (r.tmax.den ≠ 0 → if strict then t < r.tmax.val else t ≤ r.tmax.val)

/-- The point of the ray at `t` lies in the box (R404). -/
def Ray.meets (r : Ray) (b : Box) (t : ℚ) : Prop :=
  let inside (o d lo hi : Int) : Prop := (lo : ℚ) ≤ o + t * d ∧ (o : ℚ) + t * d ≤ hi
  r.within false t ∧ inside r.origin.x r.dir.x b.lo.x b.hi.x ∧ inside r.origin.y r.dir.y b.lo.y b.hi.y ∧
    inside r.origin.z r.dir.z b.lo.z b.hi.z

/-- The point of the ray at `t` is the point of the triangle at (u, v) (R405). -/
def Ray.strikes (r : Ray) (v0 v1 v2 : Vec3) (t u v : ℚ) : Prop :=
  let at_ (o d a b c : Int) : Prop := (o : ℚ) + t * d = a + u * (b - a) + v * (c - a)
  0 ≤ u ∧ 0 ≤ v ∧ u + v ≤ 1 ∧ r.within true t ∧ at_ r.origin.x r.dir.x v0.x v1.x v2.x ∧
    at_ r.origin.y r.dir.y v0.y v1.y v2.y ∧ at_ r.origin.z r.dir.z v0.z v1.z v2.z

/-! ### The forms of lane instructions -/

/-- The fields that tell one form of a lane instruction from another, beside its registers. -/
structure LaneForm where
  m : Mods
  mm : MemMods
  src : ElemTy
  ty : ElemTy
  acc : AccTy
  cc : Cond
  op : RedOp
  imm : BitVec 32
  n : BitVec 6
  p : BitVec 5
  len : BitVec 5
  si : BitVec 3
  di : BitVec 3
  h0 : BitVec 2
  h1 : BitVec 2
  h2 : BitVec 2
  h3 : BitVec 2
  vm : BitVec 10
  a : Bool
  b : Bool
  deriving DecidableEq, Repr

/-- The lane instructions that work on the quad's vector registers, with the register fields that they use (R325 to
R343). -/
def valueForms (o : LaneOp) (x : LaneForm) : List (List Opnd × List Instr) :=
  let m := x.m
  let d := Opnd.ty o.vd m.ty
  let a := Opnd.ty o.va m.ty
  let b := Opnd.ty o.vb m.ty
  let c := Opnd.ty o.vc m.ty
  let wide : ElemTy := if x.a then .i64 else .i32
  let count : Nat := if m.ty.bits = 6 then 16 else 32 / m.ty.bits
  let words : Nat := if m.ty.bits = 6 then 3 else 1
  [([d, a, b], [.vaddInt o m, .vsubInt o m, .vmulInt o m, .vmulh o m, .vminInt o m, .vmaxInt o m, .vand o m, .vor o m,
      .vxor o m, .vaddFp o m, .vsubFp o m, .vmulFp o m, .vminFp o m, .vmaxFp o m, .vcopysign o m, .vdiv o m,
      .vshl o m .reg, .vshr o m .reg]),
   ([d, a, b, c], [.vmad o m, .vdot4 o m, .vfma o m, .vfnma o m, .vclamp o m, .vlerp o m]),
   ([d, a], [.vabsInt o m, .vnot o m, .vpopc o m, .vclz o m, .vbfe o m x.p x.len, .vshl o m (.imm x.n), .vshr o m (.imm x.n),
      .vabsFp o m, .vneg o m, .vsqrt o m, .vrcp o m, .vrsqrt o m, .vrint o m, .vclip o m, .vsign o m, .vexp2 o m,
      .vlog2 o m, .vsinpi o m, .vcospi o m]),
   ([.one o.vd, .ty o.va wide], [.vrshr o m x.a (.imm x.n)]),
   ([.one o.vd, .ty o.va wide, .one o.vb], [.vrshr o m x.a .reg]),
   ([.p o.vd, a, b], [.vcmpInt o m x.cc, .vcmpFp o m x.cc]),
   ([.p o.vd, .one o.va], [.vcmpIntImm o x.cc x.a x.imm, .vcmpF32Imm o x.cc x.imm]),
   ([d, a, b, .p o.vc], [.vsel o m]),
   ([.one o.vd, .one o.va], [.vaddIntImm o x.imm, .vmulIntImm o x.imm, .vandImm o x.imm, .vorImm o x.imm, .vxorImm o x.imm,
      .vaddF32Imm o x.imm, .vmulF32Imm o x.imm, .vmaxF32Imm o x.imm, .vshl2 o m (.imm x.n), .vshr2 o m (.imm x.n),
      .vbcast o x.n, .vrot o x.n, .vqswz o x.h0 x.h1 x.h2 x.h3]),
   ([.one o.vd], [.vmovImm o x.imm]),
   ([.one o.vd, .one o.va, .one o.vc], [.vfmaF32Imm o x.imm]),
   ([.ty o.vd .n32, a], [.vclass o m]),
   ([.ty o.vd .i32, a], [.vgetexp o m]),
   ([d, a, .one o.vb], [.vldexp o m]),
   ([d, .ty o.va x.src], [.vcvt o m x.src x.si x.di]),
   ([.v o.vd words 1, .v o.va count 1], [.vpack o m]),
   ([.v o.vd count 1, .v o.va words 1], [.vunpack o m]),
   ([.one o.vd, .one o.va, .one o.vb], [.vcvt2 o m, .vadd2 o m, .vsub2 o m, .vmul2 o m, .vmin2 o m, .vmax2 o m,
      .vshl2 o m .reg, .vshr2 o m .reg, .vhsel o x.h0 x.h1, .vshuf o]),
   ([.one o.vd, .one o.va, .one o.vb, .one o.vc], [.vfma2 o m, .vdot2 o m]),
   ([d, a], [.vred o m x.op, .vscan o m x.op x.a]),
   ([.v o.va 8 4, .v o.vd 4 4, .v o.vc 2 2], [.vspk o x.ty])]

/-- The other lane instructions, with the register fields that they use (R315, R316, R106, R345, R359 to R367, R395 to
R400); those of a matrix instruction depend on the gang's family. -/
def otherForms (o : LaneOp) (x : LaneForm) : List ((State → List Opnd) × List Instr) :=
  let at_ (l : List Opnd) : State → List Opnd := fun _ => l
  let addr : List Opnd := if x.mm.flat then [.v o.va 2 2] else [.one o.va, .s o.vb]
  let regs := x.acc.width / 4
  let mat (y : MatForm) : State → List Opnd := fun s =>
    match s.leaderFamily with
    | some f => y.opnds o f
    | none => []
  [(at_ [.p o.vd, .p o.va, .p o.vb], [.pand o, .por o, .pxor o, .pandn o]),
   (at_ [.p o.vd, .p o.va], [.pnot o]),
   (at_ [.p o.vd], [.pset o x.a, .pmtop o]),
   (at_ [.p o.vd, .s o.va], [.pfroms o]),
   (at_ [.s o.vd, .p o.va], [.ptos o, .vballot o, .vfind o]),
   (at_ [.p o.va], [.pmand o, .pmandn o, .pmor o]),
   (at_ [.s o.va], [.pmset o]),
   (at_ [.s o.vd], [.pmtos o]),
   (at_ [.one o.vd, .p o.va], [.vcount o]),
   (at_ [.j o.vd], [.jset o, .jarr o, .jdrop o, .jwait o]),
   (at_ [.j o.vd, .s o.va], [.jst o x.imm, .jld o x.imm]),
   (at_ (.ty o.vd x.ty :: addr), [.vld o x.ty x.mm]),
   (at_ (.ty o.vc x.ty :: addr), [.vst o x.ty x.mm]),
   (at_ [.ty o.vd x.ty, .one o.va], [.vlds o x.ty x.mm]),
   (at_ [.ty o.vc x.ty, .one o.va], [.vsts o x.ty x.mm]),
   (at_ addr, [.vpf o x.mm]),
   (at_ (.ty o.vd x.ty :: .ty o.vc x.ty :: addr), [.vatomAdd o x.ty x.mm, .vatomSwap o x.ty x.mm, .vatomAnd o x.ty x.mm,
      .vatomOr o x.ty x.mm, .vatomXor o x.ty x.mm, .vatomMin o x.ty x.mm, .vatomMax o x.ty x.mm, .vatomCas o x.ty x.mm]),
   (at_ [.one o.vd, .p o.va, .s o.vb], [.vappend o x.imm]),
   (at_ (.v o.vc regs regs :: addr), [.vaccAdd o x.acc x.mm, .vaccMin o x.acc x.mm, .vaccMax o x.acc x.mm]),
   (at_ [], [.rflush o]),
   (at_ [.v o.va 2 2, .v o.vd 5 1], [.wstart o, .wresume o]),
   (at_ [.v o.vd 4 1, .v o.va 2 1, .s o.vb], [.texPoint o, .texBilinear o, .texGather o]),
   (at_ [.v o.vd 4 1, .v o.va 3 1, .s o.vb], [.texTrilinear o, .texf o]),
   (at_ [.v o.vd 2 1, .v o.va 1 1, .s o.vb], [.texsz o]),
   (mat { sparse := none, reuse := x.a, scl := x.b }, [.mma o x.a x.b]),
   (mat { sparse := some x.vm, reuse := x.a, scl := x.b }, [.mmas o x.a x.b x.vm])]

/-- Every lane instruction, by the register fields that it uses. -/
def laneForms (o : LaneOp) (x : LaneForm) : List ((State → List Opnd) × List Instr) :=
  ((valueForms o x).map fun y => (fun _ => y.1, y.2)) ++ otherForms o x

end Sys2Proof.Machine
end

