-- ==== Sys2Proof/Certificates/Slice0/Obligations.lean ====
section
/-! DEFINITION. The statements about the machine, one `def Obligations.<Name> : Prop` each. -/

open Sys2Proof Sys2Proof.Machine

/-! ### Scalar instructions -/

/-- R299: the register ALU but the divisions. Each quad that has not exited writes the result, computed
from its own registers, to its own s[sd], and goes on one word; nothing else of it changes, and WDOG
counts (R420). Nothing outside the gang changes. -/
def Obligations.ScalarAlu : Prop :=
  ∀ (s : State) (g : GangRef) (sd sa sb : SReg), s.issuing = some g →
    let writes (i : Instr) (r : Word → Word → Word) : Prop :=
      Completes i s g fun _ q => (q.setS sd (r (q.rs sa) (q.rs sb))).advance 1
    writes (.sadd sd sa sb) (fun a b => BitVec.ofNat 64 (a.toNat + b.toNat)) ∧
    writes (.ssub sd sa sb) (fun a b => BitVec.ofInt 64 (a.toInt - b.toInt)) ∧
    writes (.smul sd sa sb) (fun a b => BitVec.ofNat 64 (a.toNat * b.toNat)) ∧
    writes (.smulhI64 sd sa sb) (fun a b => BitVec.ofInt 64 (a.toInt * b.toInt / 2 ^ 64)) ∧
    writes (.smulhN64 sd sa sb) (fun a b => BitVec.ofNat 64 (a.toNat * b.toNat / 2 ^ 64)) ∧
    writes (.sand sd sa sb) (fun a b => a &&& b) ∧
    writes (.sor sd sa sb) (fun a b => a ||| b) ∧
    writes (.sxor sd sa sb) (fun a b => a ^^^ b) ∧
    writes (.sshl sd sa sb) (fun a b => BitVec.ofNat 64 (a.toNat * 2 ^ (b.toNat % 64))) ∧
    writes (.sshrN64 sd sa sb) (fun a b => BitVec.ofNat 64 (a.toNat / 2 ^ (b.toNat % 64))) ∧
    writes (.sshrI64 sd sa sb) (fun a b => BitVec.ofInt 64 (a.toInt / 2 ^ (b.toNat % 64))) ∧
    writes (.sminI64 sd sa sb) (fun a b => BitVec.ofInt 64 (min a.toInt b.toInt)) ∧
    writes (.sminN64 sd sa sb) (fun a b => BitVec.ofNat 64 (min a.toNat b.toNat)) ∧
    writes (.smaxI64 sd sa sb) (fun a b => BitVec.ofInt 64 (max a.toInt b.toInt)) ∧
    writes (.smaxN64 sd sa sb) (fun a b => BitVec.ofNat 64 (max a.toNat b.toNat)) ∧
    writes (.spopc sd sa) (fun a _ => a.cpop) ∧
    writes (.sclz sd sa) (fun a _ => a.clz) ∧
    writes (.sctz sd sa) (fun a _ => a.ctz)

/-- R300: the divisions truncate towards zero and never fault. -/
def Obligations.ScalarDivision : Prop :=
  ∀ (s : State) (g : GangRef) (sd sa sb : SReg), s.issuing = some g →
    let writes (i : Instr) (r : Word → Word → Word) : Prop :=
      Completes i s g fun _ q => (q.setS sd (r (q.rs sa) (q.rs sb))).advance 1
    let edge (a b : Word) : Prop := a.toInt = -2 ^ 63 ∧ b.toInt = -1
    ∃ qS mS qN mN : Word → Word → Word,
      writes (.sdivI64 sd sa sb) qS ∧ writes (.sremI64 sd sa sb) mS ∧
      writes (.sdivN64 sd sa sb) qN ∧ writes (.sremN64 sd sa sb) mN ∧
      (∀ a b, b = 0 → qS a b = -1 ∧ mS a b = a ∧ qN a b = BitVec.allOnes 64 ∧ mN a b = a) ∧
      (∀ a b, edge a b → qS a b = BitVec.ofInt 64 (-2 ^ 63) ∧ mS a b = 0) ∧
      (∀ a b, b ≠ 0 → ¬ edge a b →
        (qS a b).toInt = a.toInt.tdiv b.toInt ∧ (mS a b).toInt = a.toInt - b.toInt * (qS a b).toInt) ∧
      (∀ a b, b ≠ 0 → (qN a b).toNat = a.toNat / b.toNat ∧ (mN a b).toNat = a.toNat - b.toNat * (qN a b).toNat)

/-- R301, R280: the immediate forms; R302: compares and select. -/
def Obligations.ScalarImmediateAndCompare : Prop :=
  ∀ (s : State) (g : GangRef) (sd sa sb sc : SReg) (imm : BitVec 12) (n : BitVec 6) (wide : BitVec 20),
    s.issuing = some g →
    let writes (i : Instr) (r : Quad → Word) : Prop :=
      Completes i s g fun _ q => (q.setS sd (r q)).advance 1
    let tells (i : Instr) (c : Word → Word → Prop) : Prop :=
      ∃ r : Quad → Word, writes i r ∧ ∀ q, (c (q.rs sa) (q.rs sb) → r q = 1) ∧ (¬ c (q.rs sa) (q.rs sb) → r q = 0)
    writes (.saddi sd sa imm) (fun q => q.rs sa + imm.signExtend 64) ∧
    writes (.sandi sd sa imm) (fun q => q.rs sa &&& imm.signExtend 64) ∧
    writes (.sori sd sa imm) (fun q => q.rs sa ||| imm.signExtend 64) ∧
    writes (.sxori sd sa imm) (fun q => q.rs sa ^^^ imm.signExtend 64) ∧
    writes (.sshli sd sa n) (fun q => BitVec.ofNat 64 ((q.rs sa).toNat * 2 ^ n.toNat)) ∧
    writes (.sshriN64 sd sa n) (fun q => BitVec.ofNat 64 ((q.rs sa).toNat / 2 ^ n.toNat)) ∧
    writes (.sshriI64 sd sa n) (fun q => BitVec.ofInt 64 ((q.rs sa).toInt / 2 ^ n.toNat)) ∧
    writes (.sli sd imm) (fun _ => BitVec.ofInt 64 imm.toInt) ∧
    writes (.slui sd wide) (fun _ => BitVec.ofInt 64 (wide.toInt * 2 ^ 12)) ∧
    writes (.spcui sd wide) (fun q => q.pc + BitVec.ofInt 64 (wide.toInt * 2 ^ 12)) ∧
    tells (.scmpEq sd sa sb) (fun a b => a = b) ∧
    tells (.scmpNe sd sa sb) (fun a b => a ≠ b) ∧
    tells (.scmpI64Lt sd sa sb) (fun a b => a.toInt < b.toInt) ∧
    tells (.scmpI64Ge sd sa sb) (fun a b => b.toInt ≤ a.toInt) ∧
    tells (.scmpN64Lt sd sa sb) (fun a b => a.toNat < b.toNat) ∧
    tells (.scmpN64Ge sd sa sb) (fun a b => b.toNat ≤ a.toNat) ∧
    writes (.ssel sd sa sb sc) (fun q => if q.rs sc = 0 then q.rs sb else q.rs sa)

/-! ### Special registers, branches, traps -/

/-- R303, R304: `sgetr`. Each quad reads the register's value; a number that R304 does not assign, and QPC
with an index of no quad of the wave, are illegal operands. QPC is the address of the quad's next instruction, also in a
quad that interlocks on one it has issued (R121, R277). -/
def Obligations.SpecialRegisterRead : Prop :=
  ∀ (s : State) (g : GangRef) (sd : SReg) (num idx : BitVec 6), s.issuing = some g →
    let next (q : Quad) : Word :=
      match q.wait with
      | .interlock n => q.pc + BitVec.ofNat 64 (4 * n)
      | .landed n => q.pc + BitVec.ofNat 64 (4 * n)
      | _ => q.pc
    (num.toNat ≤ 18 → ∃ v : Nat → Quad → Word,
      Completes (.sgetr sd num) s g (fun n q => (q.setS sd (v n q)).advance 1) ∧
      ∀ n q,
        (num = 0 → v n q = BitVec.ofNat 64 (s.waveOf g).wid) ∧
        (num = 1 → v n q = BitVec.ofNat 64 n) ∧
        (num = 2 → v n q = (s.teamOf g).teamid.setWidth 64) ∧
        (num = 3 → v n q = (s.teamOf g).gridid.setWidth 64) ∧
        (num = 4 → v n q = BitVec.ofNat 64 (s.waveOf g).core) ∧
        (num = 5 → (s.waveOf g).core < 288 → v n q = if (s.waveOf g).core < 144 then 0 else 1) ∧
        (num = 6 → v n q = (s.teamOf g).ctx.setWidth 64) ∧
        (num = 7 → ∀ i : Nat, i < 64 → ((v n q).getLsbD i = true ↔ i ∈ g.quads)) ∧
        (num = 9 → v n q = q.fmt.setWidth 64) ∧
        (num = 10 → v n q = q.scb.signExtend 64) ∧
        (num = 11 → v n q = q.seed) ∧
        (num = 12 → v n q = BitVec.ofNat 64 (s.teamOf g).kernel.rtboff) ∧
        (num = 13 → v n q = BitVec.ofNat 64 (s.teamOf g).kernel.rtn) ∧
        (num = 14 → v n q = (s.waveOf g).fusest.setWidth 64) ∧
        (num = 15 → v n q = (s.waveOf g).wdog.setWidth 64) ∧
        (num = 16 → v n q = BitVec.ofNat 64 s.clk) ∧
        (num = 17 → v n q = q.trapinfo) ∧
        (num = 18 → v n q = q.trappc)) ∧
    (18 < num.toNat →
      exec (.sgetr sd num) s = .next (s.trap g .illegalOperand (s.leader g).pc (fun _ => 0xF) 1)) ∧
    (idx.toNat < 2 ^ (s.teamOf g).kernel.lgwave →
      Completes (.sgetrQpc sd idx) s g fun _ q => (q.setS sd (next (s.quadOf g idx.toNat))).advance 1) ∧
    (2 ^ (s.teamOf g).kernel.lgwave ≤ idx.toNat →
      exec (.sgetrQpc sd idx) s = .next (s.trap g .illegalOperand (s.leader g).pc (fun _ => 0xF) 1))

/-- R306, with R303 to R305, R383 and R420: `ssetr`. A register held per quad is written in each quad's
copy from that quad's register; FUSEST and WDOG, held per wave, take the value of the gang's
highest-numbered quad; a write of TRAPPC discards the clause context; FMT with a pair that R385 does not
list, and every read-only or unassigned register, is an illegal operand. `sfmt` writes FMT (R384). That the issue of a
write of WDOG counts on the value it replaces is the model's reading (notes/assumptions/15.md). -/
def Obligations.SpecialRegisterWrite : Prop :=
  ∀ (s : State) (g : GangRef) (sa : SReg) (num : BitVec 6) (ta tb : BitVec 5), s.issuing = some g →
    let top : Word := (s.quadOf g (g.base + 2 ^ g.lg - 1)).rs sa
    let pair (n : Nat) : Bool :=
      fmtPair (((s.quadOf g n).rs sa).extractLsb' 0 5) (((s.quadOf g n).rs sa).extractLsb' 8 5)
    (num = 9 → (∀ n ∈ g.quads, pair n = true) →
      Completes (.ssetr sa num) s g fun _ q =>
        ({ q with fmt := (q.rs sa).extractLsb' 8 5 ++ 0#3 ++ (q.rs sa).extractLsb' 0 5 } : Quad).advance 1) ∧
    (num = 9 → (∃ n ∈ g.quads, pair n = false) →
      exec (.ssetr sa num) s = .next (s.trap g .illegalOperand (s.leader g).pc
        (fun n => if pair n then 0 else 0xF) 1)) ∧
    (num = 10 → Completes (.ssetr sa num) s g fun _ q =>
      ({ q with scb := (q.rs sa).extractLsb' 0 8 } : Quad).advance 1) ∧
    (num = 11 → Completes (.ssetr sa num) s g fun _ q => ({ q with seed := q.rs sa } : Quad).advance 1) ∧
    (num = 14 → ∃ t, exec (.ssetr sa num) s = .next t ∧
      Effect s t g (dogNext s g) (top.extractLsb' 0 32) (dogHits s g) fun _ q => q.advance 1) ∧
    (num = 15 → ∃ t, exec (.ssetr sa num) s = .next t ∧
      Effect s t g (top.extractLsb' 0 32) (s.waveOf g).fusest (dogHits s g) fun _ q => q.advance 1) ∧
    (num = 18 → Completes (.ssetr sa num) s g fun _ q =>
      ({ q with trappc := (q.rs sa).extractLsb' 2 62 ++ 0#2, trapClause := none } : Quad).advance 1) ∧
    (num ≠ 9 → num ≠ 10 → num ≠ 11 → num ≠ 14 → num ≠ 15 → num ≠ 18 →
      exec (.ssetr sa num) s = .next (s.trap g .illegalOperand (s.leader g).pc (fun _ => 0xF) 1)) ∧
    Completes (.sfmt ta tb) s g (fun _ q => ({ q with fmt := tb ++ 0#3 ++ ta } : Quad).advance 1)

/-- R307, R308: branches. Each quad evaluates the branch with its own `em` or register; a taken quad goes
to its target and leaves its clause, the others go on; `bcall` and `bcallr` write the link.
R309: a register target that is not aligned in any quad is an alignment fault of the gang: the trap
names the lowest-numbered such quad's target and those quads, and no link is written.
R310, R420: `snop` does nothing else, and `snop.progress` restarts WDOG; that its own issue counts first is the model's
reading (notes/assumptions/15.md). -/
def Obligations.Branches : Prop :=
  (∀ (s : State) (g : GangRef) (off : BitVec 20) (sd sa : SReg) (imm : BitVec 12), s.issuing = some g →
     let far (q : Quad) : Word := q.pc + BitVec.ofInt 64 (4 * off.toInt)
     let near (q : Quad) : Word := q.pc + BitVec.ofInt 64 (4 * imm.toInt)
     let goes (q : Quad) (target : Word) : Quad := { q with pc := target, clause := none }
     Completes (.b off) s g (fun _ q => goes q (far q)) ∧
     Completes (.bmz off) s g (fun _ q => if q.em = 0 then goes q (far q) else q.advance 1) ∧
     Completes (.bmnz off) s g (fun _ q => if q.em ≠ 0 then goes q (far q) else q.advance 1) ∧
     Completes (.bmall off) s g (fun _ q => if q.em = 0xF then goes q (far q) else q.advance 1) ∧
     Completes (.bmnall off) s g (fun _ q => if q.em ≠ 0xF then goes q (far q) else q.advance 1) ∧
     Completes (.bcall off) s g (fun _ q => goes (q.setS 63 (q.pc + 4)) (far q)) ∧
     Completes (.bz sa imm) s g (fun _ q => if q.rs sa = 0 then goes q (near q) else q.advance 1) ∧
     Completes (.bnz sa imm) s g (fun _ q => if q.rs sa ≠ 0 then goes q (near q) else q.advance 1) ∧
     ((∀ n ∈ g.quads, ((s.quadOf g n).rs sa).toNat % 4 = 0) →
       Completes (.bjr sa) s g (fun _ q => goes q (q.rs sa)) ∧
       Completes (.bcallr sd sa) s g (fun _ q => goes (q.setS sd (q.pc + 4)) (q.rs sa)))) ∧
  (∀ (s : State) (g : GangRef) (sd sa : SReg) (n : Nat), s.issuing = some g →
     n ∈ g.quads → ((s.quadOf g n).rs sa).toNat % 4 ≠ 0 →
     (∀ i ∈ g.quads, i < n → ((s.quadOf g i).rs sa).toNat % 4 = 0) →
     ∀ i, i = .bjr sa ∨ i = .bcallr sd sa →
       exec i s = .next (s.trap g .alignment ((s.quadOf g n).rs sa)
         (fun k => if ((s.quadOf g k).rs sa).toNat % 4 = 0 then 0 else 0xF) 1)) ∧
  (∀ (s : State) (g : GangRef), s.issuing = some g →
     Completes .snop s g (fun _ q => q.advance 1) ∧
     ∃ t, exec .snopProgress s = .next t ∧
       Effect s t g (s.teamOf g).kernel.wdog (s.waveOf g).fusest (dogHits s g) fun _ q => q.advance 1)

/-- R415, with R305 and R411: taking a trap, in a gang that runs no handler and whose kernel has one. Every
quad of the gang records TRAPINFO, its PC in TRAPPC, its clause context and its instruction's log source (R491), and goes
on in the handler at the trap vector, outside a clause; nothing else changes. That WDOG does not count an issue that
traps is the model's reading (notes/assumptions/15.md).
R416, R34, R45, R491: a trap in a gang whose kernel has no handler, or that runs one. Its quads record TRAPINFO and TRAPPC,
keep their PC and park, and nothing outside the gang changes; on top of that the wave stops, code 0x0001 is logged with the
cause and the address that TRAPINFO holds, and the context enters faulted and raises vector 2 (`State.stopsUnhandled`). -/
def Obligations.TrapEntry : Prop :=
  (∀ (s : State) (g : GangRef) (cause : TrapCause) (addr : Word) (lanes : Nat → BitVec 4) (src : TrapSrc),
     let saves (n : Nat) (q : Quad) : Quad :=
       { q with
         trapinfo := lanes n ++ BitVec.ofNat 6 cause.code ++ cause.addrField addr
         trapSrc := src, trappc := q.pc.extractLsb' 2 62 ++ 0#2, trapClause := q.clause, drainSt := .idle, fetched := [] }
     ((s.teamOf g).kernel.trapvec ≠ 0 → (∀ n ∈ g.quads, (s.quadOf g n).inHandler = false) →
       Effect s (s.trap g cause addr lanes src) g (s.waveOf g).wdog (s.waveOf g).fusest (s.waveOf g).dog fun n q =>
         { saves n q with inHandler := true, pc := (s.teamOf g).kernel.trapvec, clause := none, wait := .ready }) ∧
     (g.w < (s.teamOf g).waves.length →
       ((s.teamOf g).kernel.trapvec = 0 ∨ ∃ n ∈ g.quads, (s.quadOf g n).inHandler = true) →
       let t := s.trap g cause addr lanes src
       let named : Word :=
         match cause with
         | .software | .sparseMeta => addr &&& BitVec.ofNat 64 (2 ^ 54 - 1)
         | .width | .fuseTimeout | .watchdog => 0
         | _ => (addr.extractLsb' 3 54 ++ 0#3).signExtend 64
       ((s.leader g).exited = false → s.firstLive g < (s.waveOf g).quads.length → ∃ v : State,
         Effect s v g (s.waveOf g).wdog (s.waveOf g).fusest (s.waveOf g).dog (fun n q =>
           { saves n q with wait := .unhandled }) ∧
         t = (v.stopsUnhandled g src cause.code named).regang g) ∧
       (t.waveOf g).stopped = true ∧
       (∀ n ∈ g.quads, n < (s.waveOf g).quads.length → (s.quadOf g n).exited = false →
         (t.quadOf g n).wait = .unhandled ∧ (t.quadOf g n).pc = (s.quadOf g n).pc ∧
         (t.quadOf g n).s = (s.quadOf g n).s ∧ (t.quadOf g n).lanes = (s.quadOf g n).lanes ∧
         (t.quadOf g n).em = (s.quadOf g n).em ∧ (t.quadOf g n).trapClause = (s.quadOf g n).clause ∧
         (t.quadOf g n).trappc = (s.quadOf g n).pc.extractLsb' 2 62 ++ 0#2 ∧
         (t.quadOf g n).trapinfo = lanes n ++ BitVec.ofNat 6 cause.code ++ cause.addrField addr) ∧
       ((s.ctx (s.ctxOf g)).phase = .running → (t.ctx (s.ctxOf g)).phase = .faulted) ∧
       ((s.ctx (s.ctxOf g)).phase = .quiescing → (t.ctx (s.ctxOf g)).phase = .quiescing))) ∧
  (∀ (v : State) (c : BitVec 6), let x := v.ctx c
     (x.phase = .running → v.ctxFault c = State.raise { v.modCtx c (fun y => { y with phase := .faulted }) with
       launches := v.launches.map fun (l : Launch) =>
         if l.ctx = c ∧ (l.state = .dispatching ∨ l.state = .running ∨ l.state = .quiescing) then
           { l with state := .faulted } else l } c 2) ∧
     (x.phase = .quiescing → v.ctxFault c = (v.modCtx c fun y => { y with faultPending := true }).raise c 2) ∧
     (x.phase = .faulted → v.ctxFault c = v.raise c 2))

/-- R311, R415: `trap` raises the software trap with its code in every quad; TRAPPC receives PC + 4 and the
clause context describes the rest of the body. That its issue counts in WDOG is the model's reading
(notes/assumptions/15.md). -/
def Obligations.SoftwareTrap : Prop :=
  ∀ (s : State) (g : GangRef) (imm : BitVec 12), s.issuing = some g →
    (s.teamOf g).kernel.trapvec ≠ 0 → (∀ n ∈ g.quads, (s.quadOf g n).inHandler = false) →
    Completes (.trap imm) s g fun _ q =>
      { q with
        trapinfo := 0xF#4 ++ 0x01#6 ++ imm.setWidth 54
        trapSrc := 1
        trappc := (q.pc + 4).extractLsb' 2 62 ++ 0#2
        trapClause := (q.advance 1).clause
        inHandler := true
        pc := (s.teamOf g).kernel.trapvec
        clause := none
        wait := .ready
        drainSt := .idle
        fetched := [] }

/-- R312, R313: `tret` leaves the handler and goes on at TRAPPC, in the recorded clause when there is one;
`tret.decline` leaves it and parks after an unhandled trap (R416), whose entry names the instruction that trapped (R491). In
a quad that runs no handler each is an illegal instruction. -/
def Obligations.TrapReturn : Prop :=
  ∀ (s : State) (g : GangRef), s.issuing = some g →
    ((∀ n ∈ g.quads, (s.quadOf g n).inHandler = true) →
      ((∀ n ∈ g.quads, (s.quadOf g n).nestHandled = none) →
        ∃ t, exec .tret s = .next t ∧ Effect s t g (s.waveOf g).wdog (s.waveOf g).fusest (s.waveOf g).dog fun _ q =>
          { q with inHandler := false, pc := q.trappc, clause := q.trapClause, trapClause := none }) ∧
      (∃ t, exec .tret s = .next t ∧
        (∀ n ∈ g.quads, n < (s.waveOf g).quads.length → (s.quadOf g n).exited = false →
          t.quadOf g n = { s.quadOf g n with
            inHandler := false, pc := (s.quadOf g n).trappc, clause := (s.quadOf g n).trapClause
            trapClause := none, nestHandled := none }) ∧
        t.mem = s.mem ∧ t.ctxs = s.ctxs ∧
        ∀ q, ∀ e ∈ t.engine (s.coreOf g) q, ∀ b, e.body = .nest b →
          (∃ n ∈ g.quads, (s.quadOf g n).nestHandled = some e.id) → b.stopped = false) ∧
      (∃ t v : State, exec .tretDecline s = .next t ∧
        Effect s v g (s.waveOf g).wdog (s.waveOf g).fusest (s.waveOf g).dog (fun _ q =>
          { q with inHandler := false, nestHandled := none, wait := .unhandled }) ∧
        let info := (s.leader g).trapinfo
        let cause := (info.extractLsb' 54 6).toNat
        t = v.stopsUnhandled g (s.leader g).trapSrc cause
          (if cause = 0x01 ∨ cause = 0x11 then info &&& BitVec.ofNat 64 (2 ^ 54 - 1)
           else if cause = 0x06 ∨ cause = 0x07 ∨ cause = 0x08 then 0
           else (info.extractLsb' 0 54 ++ 0#3).signExtend 64)) ∧
      (g.w < (s.teamOf g).waves.length → ∃ t, exec .tretDecline s = .next t ∧
        (t.waveOf g).stopped = true ∧
        (∀ n ∈ g.quads, n < (s.waveOf g).quads.length → (s.quadOf g n).exited = false →
          (t.quadOf g n).wait = .unhandled ∧ (t.quadOf g n).inHandler = false ∧
          (t.quadOf g n).pc = (s.quadOf g n).pc ∧ (t.quadOf g n).s = (s.quadOf g n).s ∧
          (t.quadOf g n).trapinfo = (s.quadOf g n).trapinfo ∧
          (t.quadOf g n).trappc = (s.quadOf g n).trappc) ∧
        ((s.ctx (s.ctxOf g)).phase = .running → (t.ctx (s.ctxOf g)).phase = .faulted))) ∧
    ((∃ n ∈ g.quads, (s.quadOf g n).inHandler = false) →
      ∀ i, i = .tret ∨ i = .tretDecline →
        exec i s = .next (s.trap g .illegalInstr (s.leader g).pc
          (fun n => if (s.quadOf g n).inHandler then 0 else 0xF) 1))


/-! ### Vector arithmetic

In each statement an active lane of a quad (`Quad.eachLane`, R320) has its destination written from its
own registers, and nothing else of the quad changes but that it goes on three words, and WDOG
counts (`Completes`, R420). -/

/-- R325, R242: the register forms of integer arithmetic, over the integers their operands stand for. -/
def Obligations.LaneInteger : Prop :=
  ∀ (s : State) (g : GangRef) (o : LaneOp) (m : Mods),
    let k := m.ty.bits
    let regs := regsOf m.ty
    let raw (l : Lane) (r : BitVec 10) : Nat := l.read r.toNat regs
    let val (l : Lane) (r : BitVec 10) : Int :=
      if m.ty.isSigned then (BitVec.ofNat k (raw l r)).toInt else ((BitVec.ofNat k (raw l r)).toNat : Int)
    let lo : Int := if m.ty.isSigned then -2 ^ (k - 1) else 0
    let hi : Int := if m.ty.isSigned then 2 ^ (k - 1) - 1 else 2 ^ k - 1
    let wrap (x : Int) : Nat := (BitVec.ofInt k x).toNat
    let fit (x : Int) : Nat := wrap (if m.sat then max lo (min x hi) else x)
    let d := Opnd.ty o.vd m.ty
    let a := Opnd.ty o.va m.ty
    let b := Opnd.ty o.vb m.ty
    let c := Opnd.ty o.vc m.ty
    let puts (i : Instr) (opnds : List Opnd) (r : Lane → Nat) : Prop :=
      i.wf = true → LaneReady s g o opnds →
      Completes i s g fun _ q => (q.eachLane o fun _ l => l.write o.vd.toNat regs (r l)).advance 3
    puts (.vaddInt o m) [d, a, b] (fun l => fit (val l o.va + val l o.vb)) ∧
    puts (.vsubInt o m) [d, a, b] (fun l => fit (val l o.va - val l o.vb)) ∧
    puts (.vmulInt o m) [d, a, b] (fun l => fit (val l o.va * val l o.vb)) ∧
    puts (.vmulh o m) [d, a, b] (fun l => wrap (val l o.va * val l o.vb / 2 ^ k)) ∧
    puts (.vmad o m) [d, a, b, c] (fun l => fit (val l o.va * val l o.vb + val l o.vc)) ∧
    puts (.vminInt o m) [d, a, b] (fun l => wrap (min (val l o.va) (val l o.vb))) ∧
    puts (.vmaxInt o m) [d, a, b] (fun l => wrap (max (val l o.va) (val l o.vb))) ∧
    puts (.vabsInt o m) [d, a] (fun l => fit (val l o.va).natAbs) ∧
    puts (.vand o m) [d, a, b] (fun l => raw l o.va &&& raw l o.vb) ∧
    puts (.vor o m) [d, a, b] (fun l => raw l o.va ||| raw l o.vb) ∧
    puts (.vxor o m) [d, a, b] (fun l => raw l o.va ^^^ raw l o.vb) ∧
    puts (.vnot o m) [d, a] (fun l => 2 ^ k - 1 - raw l o.va) ∧
    puts (.vpopc o m) [d, a] (fun l => ((List.range k).filter (raw l o.va).testBit).length) ∧
    (∃ z : Lane → Nat, puts (.vclz o m) [d, a] z ∧
      ((Instr.vclz o m).wf = true → ∀ l, z l ≤ k ∧ raw l o.va < 2 ^ (k - z l) ∧
        (z l < k → 2 ^ (k - 1 - z l) ≤ raw l o.va)))

/-- R325, R326, R329, R260: shifts, the bit-field extract and the requantising shift. A register amount
takes the low five bits of vb for a 32-bit type and six bits for the others; an immediate is itself. -/
def Obligations.LaneShift : Prop :=
  ∀ (s : State) (g : GangRef) (o : LaneOp) (m : Mods) (n : BitVec 6) (p len : BitVec 5) (wide : Bool),
    let k := m.ty.bits
    let regs := regsOf m.ty
    let raw (l : Lane) : Nat := l.read o.va.toNat regs
    let x (l : Lane) : Int :=
      if m.ty.isSigned then (BitVec.ofNat k (raw l)).toInt else ((BitVec.ofNat k (raw l)).toNat : Int)
    let puts (i : Instr) (opnds : List Opnd) (dst : Nat) (r : Lane → Nat) : Prop :=
      i.wf = true → LaneReady s g o opnds →
      Completes i s g fun _ q => (q.eachLane o fun _ l => l.write o.vd.toNat dst (r l)).advance 3
    let d := Opnd.ty o.vd m.ty
    let a := Opnd.ty o.va m.ty
    let by_ (l : Lane) : Nat := (l.rv o.vb.toNat).toNat % k
    let src : ElemTy := if wide then .i64 else .i32
    let y (l : Lane) : Int := (BitVec.ofNat src.bits (l.read o.va.toNat (regsOf src))).toInt
    let lo : Int := if m.ty.isSigned then -2 ^ (k - 1) else 0
    let hi : Int := if m.ty.isSigned then 2 ^ (k - 1) - 1 else 2 ^ k - 1
    let round (v : Int) (t : Nat) : Int :=
      if t = 0 then v else if v < 0 then -((v.natAbs + 2 ^ (t - 1)) / 2 ^ t : Nat) else ((v.natAbs + 2 ^ (t - 1)) / 2 ^ t : Nat)
    let quant (v : Int) (t : Nat) : Nat := (BitVec.ofInt 32 (max lo (min (round v t) hi))).toNat
    puts (.vshl o m (.imm n)) [d, a] regs (fun l => raw l * 2 ^ n.toNat % 2 ^ k) ∧
    puts (.vshl o m .reg) [d, a, .ty o.vb m.ty] regs (fun l => raw l * 2 ^ by_ l % 2 ^ k) ∧
    puts (.vshr o m (.imm n)) [d, a] regs (fun l => (BitVec.ofInt k (x l / 2 ^ n.toNat)).toNat) ∧
    puts (.vshr o m .reg) [d, a, .ty o.vb m.ty] regs (fun l => (BitVec.ofInt k (x l / 2 ^ by_ l)).toNat) ∧
    puts (.vrshr o m wide (.imm n)) [.one o.vd, .ty o.va src] 1 (fun l => quant (y l) n.toNat) ∧
    puts (.vrshr o m wide .reg) [.one o.vd, .ty o.va src, .one o.vb] 1
      (fun l => quant (y l) ((l.rv o.vb.toNat).toNat % 64)) ∧
    puts (.vbfe o m p len) [d, a] 1 (fun l =>
      let f := BitVec.ofNat (len.toNat + 1) (raw l / 2 ^ p.toNat)
      if m.ty.isSigned then (BitVec.ofInt 32 f.toInt).toNat else f.toNat)

/-- R328: `vdot4` adds to c the four products of the 8-bit elements of a and b, signed for i8 and unsigned
for n8, and the sum is taken modulo 2^32 or saturated. -/
def Obligations.ByteDotProduct : Prop :=
  ∀ (s : State) (g : GangRef) (o : LaneOp) (m : Mods),
    (Instr.vdot4 o m).wf = true →
    LaneReady s g o [.one o.vd, .one o.va, .one o.vb, .one o.vc] →
    let int {n : Nat} (x : BitVec n) : Int := if m.ty.isSigned then x.toInt else x.toNat
    let lo : Int := if m.ty.isSigned then -2 ^ 31 else 0
    let hi : Int := if m.ty.isSigned then 2 ^ 31 - 1 else 2 ^ 32 - 1
    let sum (a b c : Code) : Int :=
      int c + int (a.extractLsb' 0 8) * int (b.extractLsb' 0 8) + int (a.extractLsb' 8 8) * int (b.extractLsb' 8 8)
        + int (a.extractLsb' 16 8) * int (b.extractLsb' 16 8) + int (a.extractLsb' 24 8) * int (b.extractLsb' 24 8)
    let out (x : Int) : Code := BitVec.ofInt 32 (if m.sat then max lo (min x hi) else x)
    Completes (.vdot4 o m) s g fun _ q =>
      (q.eachLane o fun _ l =>
        l.setV o.vd.toNat (out (sum (l.rv o.va.toNat) (l.rv o.vb.toNat) (l.rv o.vc.toNat)))).advance 3

/-- R327, R330, R335, R338: compares write one predicate bit, and `vsel` selects by one; the immediate
forms of integers act on 32-bit registers. -/
def Obligations.LaneCompareAndImmediate : Prop :=
  ∀ (s : State) (g : GangRef) (o : LaneOp) (m : Mods) (cc : Cond) (uns : Bool) (imm : BitVec 32),
    let regs := regsOf m.ty
    let raw (l : Lane) (r : BitVec 10) : Nat := l.read r.toNat regs
    let val (l : Lane) (r : BitVec 10) : Int := m.ty.intOf (raw l r)
    let test (a b : Int) : Prop :=
      match cc with
      | .eq => a = b
      | .ne => a ≠ b
      | .lt => a < b
      | .le => a ≤ b
      | .gt => b < a
      | .ge => b ≤ a
      | .ord | .uno => True
    let tells (i : Instr) (opnds : List Opnd) (c : Lane → Prop) : Prop :=
      i.wf = true → LaneReady s g o opnds → ∃ r : Lane → Bool, (∀ l, r l = true ↔ c l) ∧
        Completes i s g fun _ q => (q.eachLane o fun _ l => l.setP o.vd.toNat (r l)).advance 3
    let puts (i : Instr) (opnds : List Opnd) (r : Lane → Lane) : Prop :=
      LaneReady s g o opnds → Completes i s g fun _ q => (q.eachLane o fun _ l => r l).advance 3
    let one (f : Code → Code) (l : Lane) : Lane := l.setV o.vd.toNat (f (l.rv o.va.toNat))
    let int (x : Code) : Int := if uns then x.toNat else x.toInt
    let fp (t : ElemTy) (z : Bool) (a : Nat) : Sys2Proof.Num := t.fmt.decode (t.fmt.flush z a)
    let a := Opnd.ty o.va m.ty
    let b := Opnd.ty o.vb m.ty
    tells (.vcmpInt o m cc) [.p o.vd, a, b] (fun l => test (val l o.va) (val l o.vb)) ∧
    tells (.vcmpIntImm o cc uns imm) [.p o.vd, .one o.va] (fun l => test (int (l.rv o.va.toNat)) (int imm)) ∧
    tells (.vcmpFp o m cc) [.p o.vd, a, b]
      (fun l => cc.holdsFp (fp m.ty m.ftz (raw l o.va)) (fp m.ty m.ftz (raw l o.vb)) = true) ∧
    tells (.vcmpF32Imm o cc imm) [.p o.vd, .one o.va]
      (fun l => cc.holdsFp (fp .f32 false (l.rv o.va.toNat).toNat) (fp .f32 false imm.toNat) = true) ∧
    puts (.vsel o m) [.ty o.vd m.ty, a, b, .p o.vc] (fun l =>
      l.write o.vd.toNat regs (if l.rp o.vc.toNat then raw l o.va else raw l o.vb)) ∧
    puts (.vaddIntImm o imm) [.one o.vd, .one o.va] (one (· + imm)) ∧
    puts (.vmulIntImm o imm) [.one o.vd, .one o.va] (one (· * imm)) ∧
    puts (.vandImm o imm) [.one o.vd, .one o.va] (one (· &&& imm)) ∧
    puts (.vorImm o imm) [.one o.vd, .one o.va] (one (· ||| imm)) ∧
    puts (.vxorImm o imm) [.one o.vd, .one o.va] (one (· ^^^ imm)) ∧
    puts (.vmovImm o imm) [.one o.vd] (fun l => l.setV o.vd.toNat imm)

/-- R331, R333, R334, R337, with R252 to R256: a float form rounds the exact result of its operands once,
by its modifier word, with subnormals flushed under `.ftz`; RS draws one stochastic number for each lane
and then adds 1 to SEED, and no other form changes SEED. The exact results of vexp2, vlog2, vsinpi and vcospi are those of
the model's series (notes/assumptions/20.md), and the sign of an exact zero of vlerp is its reading
(notes/assumptions/41.md). -/
def Obligations.LaneFloat : Prop :=
  ∀ (s : State) (g : GangRef) (o : LaneOp) (m : Mods),
    let regs := regsOf m.ty
    let f := m.ty.fmt
    let arg (l : Lane) (r : BitVec 10) : Sys2Proof.Num := f.decode (f.flush m.ftz (l.read r.toNat regs))
    let puts (i : Instr) (src : List Opnd) (r : Lane → Sys2Proof.Num) : Prop :=
      LaneReady s g o (.ty o.vd m.ty :: src) →
      Completes i s g fun n q =>
        let stoch (lane : Nat) : Nat := if m.rnd = .rs then stochHash q.seed (4 * n + lane) 0 else 0
        let q' := q.eachLane o fun lane l =>
          l.write o.vd.toNat regs (f.flush m.ftz (f.roundTo m.rnd (stoch lane) false (r l)))
        ({ q' with seed := if m.rnd = .rs then q.seed + 1 else q.seed } : Quad).advance 3
    let a := Opnd.ty o.va m.ty
    let b := Opnd.ty o.vb m.ty
    let c := Opnd.ty o.vc m.ty
    let one : Sys2Proof.Num := .fin false 1 0 false
    puts (.vaddFp o m) [a, b] (fun l => (arg l o.va).add m.rnd (arg l o.vb)) ∧
    puts (.vsubFp o m) [a, b] (fun l => (arg l o.va).add m.rnd (arg l o.vb).neg) ∧
    puts (.vmulFp o m) [a, b] (fun l => (arg l o.va).mul (arg l o.vb)) ∧
    puts (.vfma o m) [a, b, c] (fun l => ((arg l o.va).mul (arg l o.vb)).add m.rnd (arg l o.vc)) ∧
    puts (.vfnma o m) [a, b, c] (fun l => ((arg l o.va).mul (arg l o.vb)).neg.add m.rnd (arg l o.vc)) ∧
    puts (.vdiv o m) [a, b] (fun l => (arg l o.va).div (arg l o.vb)) ∧
    puts (.vsqrt o m) [a] (fun l => (arg l o.va).sqrt) ∧
    puts (.vrcp o m) [a] (fun l => one.div (arg l o.va)) ∧
    puts (.vrsqrt o m) [a] (fun l => (arg l o.va).rsqrt) ∧
    puts (.vlerp o m) [a, b, c] (fun l =>
      (arg l o.va).add m.rnd ((arg l o.vc).mul ((arg l o.vb).add m.rnd (arg l o.va).neg))) ∧
    puts (.vexp2 o m) [a] (fun l => (arg l o.va).exp2) ∧
    puts (.vlog2 o m) [a] (fun l => (arg l o.va).log2) ∧
    puts (.vsinpi o m) [a] (fun l => (arg l o.va).sinPi) ∧
    puts (.vcospi o m) [a] (fun l => (arg l o.va).cosPi)

/-- R331, R332, R334, R335, R336, R338: the float forms that select, change a sign, classify or scale, and
the immediate forms, which round to nearest even and keep subnormals. -/
def Obligations.LaneFloatSelect : Prop :=
  ∀ (s : State) (g : GangRef) (o : LaneOp) (m : Mods) (imm : BitVec 32),
    let regs := regsOf m.ty
    let f := m.ty.fmt
    let raw (l : Lane) (r : BitVec 10) : Nat := l.read r.toNat regs
    let inp (l : Lane) (r : BitVec 10) : Nat := f.flush m.ftz (raw l r)
    let sign := 2 ^ (m.ty.bits - 1)
    let one := f.roundTo .rne 0 false (.fin false 1 0 false)
    let puts (i : Instr) (src : List Opnd) (dst : ElemTy) (r : Lane → Nat) : Prop :=
      i.wf = true → LaneReady s g o (.ty o.vd dst :: src) →
      Completes i s g fun _ q => (q.eachLane o fun _ l => l.write o.vd.toNat (regsOf dst) (r l)).advance 3
    let a := Opnd.ty o.va m.ty
    let b := Opnd.ty o.vb m.ty
    let c := Opnd.ty o.vc m.ty
    let w (l : Lane) (r : BitVec 10) : Sys2Proof.Num := f32.decode (l.rv r.toNat).toNat
    let rne (x : Sys2Proof.Num) : Nat := f32.roundTo .rne 0 false x
    puts (.vminFp o m) [a, b] m.ty (fun l => f.minEnc (inp l o.va) (inp l o.vb)) ∧
    puts (.vmaxFp o m) [a, b] m.ty (fun l => f.maxEncOf (inp l o.va) (inp l o.vb)) ∧
    puts (.vabsFp o m) [a] m.ty (fun l => raw l o.va % sign) ∧
    puts (.vneg o m) [a] m.ty (fun l => raw l o.va ^^^ sign) ∧
    puts (.vcopysign o m) [a, b] m.ty (fun l => raw l o.va % sign + raw l o.vb / sign * sign) ∧
    puts (.vclamp o m) [a, b, c] m.ty (fun l =>
      f.minEnc (f.flush m.ftz (f.maxEncOf (inp l o.va) (inp l o.vb))) (inp l o.vc)) ∧
    puts (.vclip o m) [a] m.ty (fun l =>
      f.minEnc (f.flush m.ftz (f.maxEncOf (inp l o.va) 0)) (f.flush m.ftz one)) ∧
    puts (.vsign o m) [a] m.ty (fun l =>
      match f.decode (inp l o.va) with
      | .nan => f.nanEnc
      | .inf neg => if neg then one + sign else one
      | .fin neg k _ _ => if k = 0 then inp l o.va else if neg then one + sign else one) ∧
    puts (.vrint o m) [a] m.ty (fun l =>
      match f.decode (inp l o.va) with
      | .nan => f.nanEnc
      | .inf neg => f.flush m.ftz (f.roundTo m.rnd 0 false (.inf neg))
      | .fin neg k e st => f.flush m.ftz (f.roundTo m.rnd 0 false
          (.fin neg (Sys2Proof.Num.toIntR m.rnd 0 neg k e st).natAbs 0 false))) ∧
    (∃ cls : Lane → Nat, puts (.vclass o m) [a] .n32 cls ∧ ∀ l,
      match f.decode (raw l o.va) with
      | .nan => cls l = if raw l o.va / 2 ^ (f.mbits - 1) % 2 = 1 then 512 else 256
      | .inf neg => cls l = if neg then 1 else 128
      | .fin neg k _ _ =>
        (k = 0 → cls l = if neg then 8 else 16) ∧
        (k ≠ 0 → f.isSubnormal (raw l o.va) = true → cls l = if neg then 4 else 32) ∧
        (k ≠ 0 → f.isSubnormal (raw l o.va) = false → cls l = if neg then 2 else 64)) ∧
    (∃ e : Lane → Nat, puts (.vgetexp o m) [a] .i32 e ∧ ∀ l,
      match f.decode (inp l o.va) with
      | .nan => e l = 0x7FFFFFFF
      | .inf _ => e l = 0x7FFFFFFF
      | .fin _ k x _ =>
        (k = 0 → e l = 0x80000000) ∧
        (k ≠ 0 → ∃ n : Nat, 2 ^ n ≤ k ∧ k < 2 ^ (n + 1) ∧ e l = (BitVec.ofInt 32 (n + x)).toNat)) ∧
    (LaneReady s g o [.ty o.vd m.ty, a, .one o.vb] →
      Completes (.vldexp o m) s g fun n q =>
        let stoch (lane : Nat) : Nat := if m.rnd = .rs then stochHash q.seed (4 * n + lane) 0 else 0
        let q' := q.eachLane o fun lane l =>
          let by_ : Int := max (-5000) (min (l.rv o.vb.toNat).toInt 5000)
          let x : Sys2Proof.Num :=
            match f.decode (inp l o.va) with
            | .nan => .nan
            | .inf neg => .inf neg
            | .fin neg k e st => .fin neg k (e + by_) st
          l.write o.vd.toNat regs (f.flush m.ftz (f.roundTo m.rnd (stoch lane) false x))
        ({ q' with seed := if m.rnd = .rs then q.seed + 1 else q.seed } : Quad).advance 3) ∧
    puts (.vaddF32Imm o imm) [.one o.va] .f32 (fun l => rne ((w l o.va).add .rne (f32.decode imm.toNat))) ∧
    puts (.vmulF32Imm o imm) [.one o.va] .f32 (fun l => rne ((w l o.va).mul (f32.decode imm.toNat))) ∧
    puts (.vfmaF32Imm o imm) [.one o.va, .one o.vc] .f32 (fun l =>
      rne (((w l o.va).mul (f32.decode imm.toNat)).add .rne (w l o.vc))) ∧
    puts (.vmaxF32Imm o imm) [.one o.va] .f32 (fun l => f32.maxEncOf (l.rv o.va.toNat).toNat imm.toNat)

/-- R339, R340, R257 to R259: `vcvt` converts the element that its index names and writes only that
element's bits; R341: `vpack` and `vunpack`. -/
def Obligations.LaneConversion : Prop :=
  ∀ (s : State) (g : GangRef) (o : LaneOp) (m : Mods) (src : ElemTy) (si di : BitVec 3),
    let k := m.ty.bits
    let six : Bool := k == 6
    let count : Nat := if six then 16 else 32 / k
    let words : Nat := if six then 3 else 1
    (LaneReady s g o [.ty o.vd m.ty, .ty o.va src] →
      Completes (.vcvt o m src si di) s g fun n q =>
        let stoch (lane : Nat) : Nat :=
          if m.rnd = .rs then stochHash q.seed (4 * n + lane) di.toNat else 0
        let q' := q.eachLane o fun lane l =>
          let x : Nat :=
            if 1 < src.perWord then (l.rv o.va.toNat).toNat / 2 ^ (src.bits * si.toNat) % 2 ^ src.bits
            else l.read o.va.toNat (regsOf src) % 2 ^ src.bits
          let y := convert src m.ty m.rnd (stoch lane) m.sat m.ftz x
          if 1 < m.ty.perWord then
            let old := (l.rv o.vd.toNat).toNat
            let at_ := k * di.toNat
            l.write o.vd.toNat 1
              (old / 2 ^ (at_ + k) * 2 ^ (at_ + k) + y % 2 ^ k * 2 ^ at_ + old % 2 ^ at_)
          else l.write o.vd.toNat (regsOf m.ty) y
        ({ q' with seed := if m.rnd = .rs then q.seed + 1 else q.seed } : Quad).advance 3) ∧
    (LaneReady s g o [.v o.vd words 1, .v o.va count 1] →
      Completes (.vpack o m) s g fun _ q => (q.eachLane o fun _ l =>
        l.write o.vd.toNat words ((List.range count).foldr (fun i x =>
          (l.rv (o.va.toNat + i)).toNat % 2 ^ k + 2 ^ k * x) 0)).advance 3) ∧
    (LaneReady s g o [.v o.vd count 1, .v o.va words 1] →
      Completes (.vunpack o m) s g fun _ q => (q.eachLane o fun _ l =>
        (List.range count).foldl (fun l' i =>
          let e : BitVec k := BitVec.ofNat k (l.read o.va.toNat words / 2 ^ (k * i))
          l'.setV (o.vd.toNat + i) (if m.ty.isSigned then e.signExtend 32 else e.setWidth 32)) l).advance 3)

/-- R342, R343: the packed 16-bit forms act on each half by itself. Of the forms that move elements between the packed
and the unpacked form, and of `vcvt` (R339 to R341), the second part says when each runs: it answers a next state in
which every quad of the gang goes on three words. The sign of an exact zero of vdot2 under rounding down is the model's
reading (notes/assumptions/41.md). -/
def Obligations.PackedHalves : Prop :=
  (∀ (s : State) (g : GangRef) (o : LaneOp) (m : Mods) (n : BitVec 6) (h0 h1 : BitVec 2),
    let f := m.ty.fmt
    let half (l : Lane) (r : BitVec 10) (h : Nat) : Nat := (l.rv r.toNat).toNat / 2 ^ (16 * h) % 2 ^ 16
    let val (l : Lane) (r : BitVec 10) (h : Nat) : Int := m.ty.intOf (half l r h)
    let num (l : Lane) (r : BitVec 10) (h : Nat) : Sys2Proof.Num := f.decode (f.flush m.ftz (half l r h))
    let lo : Int := if m.ty.isSigned then -2 ^ 15 else 0
    let hi : Int := if m.ty.isSigned then 2 ^ 15 - 1 else 2 ^ 16 - 1
    let fit (x : Int) : Nat := (BitVec.ofInt 16 (if m.sat then max lo (min x hi) else x)).toNat
    let two (l : Lane) (r : Nat → Nat) : Lane := l.setV o.vd.toNat (BitVec.ofNat 32 (r 0 + r 1 * 2 ^ 16))
    let puts (i : Instr) (opnds : List Opnd) (r : (Nat → Nat) → Lane → Lane) : Prop :=
      i.wf = true → LaneReady s g o opnds →
      Completes i s g fun q n =>
        let stoch (lane h : Nat) : Nat := if m.rnd = .rs then stochHash n.seed (4 * q + lane) h else 0
        let q' := n.eachLane o fun lane l => r (stoch lane) l
        ({ q' with seed := if m.rnd = .rs then n.seed + 1 else n.seed } : Quad).advance 3
    let ops := [Opnd.one o.vd, .one o.va, .one o.vb]
    let ops3 := [Opnd.one o.vd, .one o.va, .one o.vb, .one o.vc]
    let round (r : Nat) (x : Sys2Proof.Num) : Nat := f.flush m.ftz (f.roundTo m.rnd r false x)
    let pick (fl : Bool) (x y : Nat) : Nat := if fl then x else y
    puts (.vadd2 o m) ops (fun r l => two l fun h => pick m.ty.isFloat
      (round (r h) ((num l o.va h).add m.rnd (num l o.vb h))) (fit (val l o.va h + val l o.vb h))) ∧
    puts (.vsub2 o m) ops (fun r l => two l fun h => pick m.ty.isFloat
      (round (r h) ((num l o.va h).add m.rnd (num l o.vb h).neg)) (fit (val l o.va h - val l o.vb h))) ∧
    puts (.vmul2 o m) ops (fun r l => two l fun h => pick m.ty.isFloat
      (round (r h) ((num l o.va h).mul (num l o.vb h))) (fit (val l o.va h * val l o.vb h))) ∧
    puts (.vfma2 o m) ops3 (fun r l => two l fun h => pick m.ty.isFloat
      (round (r h) (((num l o.va h).mul (num l o.vb h)).add m.rnd (num l o.vc h)))
      (fit (val l o.va h * val l o.vb h + val l o.vc h))) ∧
    puts (.vmin2 o m) ops (fun _ l => two l fun h => pick m.ty.isFloat
      (f.minEnc (f.flush m.ftz (half l o.va h)) (f.flush m.ftz (half l o.vb h)))
      (if val l o.vb h < val l o.va h then half l o.vb h else half l o.va h)) ∧
    puts (.vmax2 o m) ops (fun _ l => two l fun h => pick m.ty.isFloat
      (f.maxEncOf (f.flush m.ftz (half l o.va h)) (f.flush m.ftz (half l o.vb h)))
      (if val l o.va h < val l o.vb h then half l o.vb h else half l o.va h)) ∧
    puts (.vshl2 o m (.imm n)) [.one o.vd, .one o.va] (fun _ l => two l fun h =>
      half l o.va h * 2 ^ n.toNat % 2 ^ 16) ∧
    puts (.vshl2 o m .reg) ops (fun _ l => two l fun h =>
      half l o.va h * 2 ^ (half l o.vb h % 16) % 2 ^ 16) ∧
    puts (.vshr2 o m (.imm n)) [.one o.vd, .one o.va] (fun _ l => two l fun h =>
      (BitVec.ofInt 16 (val l o.va h / 2 ^ n.toNat)).toNat) ∧
    puts (.vshr2 o m .reg) ops (fun _ l => two l fun h =>
      (BitVec.ofInt 16 (val l o.va h / 2 ^ (half l o.vb h % 16))).toNat) ∧
    puts (.vdot2 o m) ops3 (fun r l =>
      let c := (l.rv o.vc.toNat).toNat
      let t : ElemTy := if m.ty.isFloat then .f32 else if m.ty.isSigned then .i32 else .n32
      let z := f32.decode (f32.flush m.ftz c)
      let sum : Int := t.intOf c + val l o.va 0 * val l o.vb 0 + val l o.va 1 * val l o.vb 1
      l.setV o.vd.toNat (BitVec.ofNat 32 (pick m.ty.isFloat
        (f32.flush m.ftz (f32.roundTo m.rnd (r 0) false
          ((z.add m.rnd ((num l o.va 0).mul (num l o.vb 0))).add m.rnd ((num l o.va 1).mul (num l o.vb 1)))))
        (t.intResult m.sat sum)))) ∧
    puts (.vcvt2 o m) ops (fun r l => two l fun h =>
      let x := (l.rv (if h = 0 then o.va else o.vb).toNat).toNat
      f.flush m.ftz (f.roundTo m.rnd (r h) m.sat (f32.decode (f32.flush m.ftz x)))) ∧
    (LaneReady s g o ops → Completes (.vhsel o h0 h1) s g fun _ q => (q.eachLane o fun _ l =>
      let name (h : BitVec 2) : BitVec 16 :=
        match h with
        | 0 => (l.rv o.va.toNat).extractLsb' 0 16
        | 1 => (l.rv o.va.toNat).extractLsb' 16 16
        | 2 => (l.rv o.vb.toNat).extractLsb' 0 16
        | 3 => (l.rv o.vb.toNat).extractLsb' 16 16
      l.setV o.vd.toNat (name h1 ++ name h0)).advance 3)) ∧
  (∀ (s : State) (g : GangRef) (o : LaneOp) (m : Mods) (src : ElemTy) (si di : BitVec 3) (i : Instr)
     (opnds : List Opnd),
     (i = .vcvt o m src si di ∧ opnds = [.ty o.vd m.ty, .ty o.va src]) ∨
       (i = .vpack o m ∧
         opnds = [.v o.vd (if m.ty.bits = 6 then 3 else 1) 1, .v o.va (if m.ty.bits = 6 then 16 else 32 / m.ty.bits) 1]) ∨
       (i = .vunpack o m ∧
         opnds = [.v o.vd (if m.ty.bits = 6 then 16 else 32 / m.ty.bits) 1, .v o.va (if m.ty.bits = 6 then 3 else 1) 1]) →
     LaneReady s g o opnds →
     ∃ t, exec i s = .next t ∧ ∀ n ∈ g.quads, n < (s.waveOf g).quads.length → (s.quadOf g n).exited = false →
       (t.quadOf g n).pc = (s.quadOf g n).pc + 12)

/-- R344 to R346: within the span of each quad, the cross-lane forms read every lane's registers and the
lanes that are active, by position, and write the active lanes; `vballot` and `vfind` write s[sd] in every
quad. The result does not depend on how wide the gang is. A gang holds exited quads in the performance of a forced fuse
only (R114, `Obligations.LaneHeldBack`). A NaN result is the canonical NaN, also of one lane (R246, R322). -/
def Obligations.CrossLane : Prop :=
  ∀ (s : State) (g : GangRef) (o : LaneOp) (m : Mods) (op : RedOp) (excl : Bool) (n : BitVec 6)
    (z0 z1 z2 z3 : BitVec 2),
    let w := min o.minw.toNat (s.teamOf g).kernel.lgwave
    let size := 4 * 2 ^ w
    let first (q : Nat) : Nat := q / 2 ^ w * 2 ^ w
    let lane (q p : Nat) : Lane := (s.quadOf g (first q + p / 4)).lane (p % 4)
    let on (q p : Nat) : Bool := (s.quadOf g (first q + p / 4)).em.getLsbD (p % 4) && guardOk o (lane q p)
    let pos (q i : Nat) : Nat := 4 * (q - first q) + i
    let actives (q : Nat) : List Nat := (List.range size).filter (on q)
    let t := m.ty
    let f := t.fmt
    let val (q p : Nat) : Nat := (lane q p).read o.va.toNat (regsOf t)
    let comb (a b : Nat) : Nat :=
      match op with
      | .add => if t.isFloat then f.roundTo .rne 0 false ((f.decode a).add .rne (f.decode b))
        else (BitVec.ofInt t.bits (t.intOf a + t.intOf b)).toNat
      | .min => if t.isFloat then f.minEnc a b else if t.intOf b < t.intOf a then b else a
      | .max => if t.isFloat then f.maxEncOf a b else if t.intOf a < t.intOf b then b else a
      | .and => a &&& b
      | .or => a ||| b
      | .xor => a ^^^ b
    let start : Nat :=
      match op with
      | .add => 0
      | .min => if t.isFloat then f.infEnc else if t.isSigned then 2 ^ (t.bits - 1) - 1 else 2 ^ t.bits - 1
      | .max => if t.isFloat then f.infEnc + f.signBit else if t.isSigned then 2 ^ (t.bits - 1) else 0
      | .and => 2 ^ t.bits - 1
      | .or => 0
      | .xor => 0
    let fold (q : Nat) (ps : List Nat) : Nat :=
      match ps with
      | [] => start
      | p :: ps => ps.foldl (fun a p => comb a (val q p)) (if t.isFloat ∧ f.decode (val q p) = .nan then f.nanEnc else val q p)
    let live : Prop := ∀ n ∈ g.quads, (s.quadOf g n).exited = false
    let puts (i : Instr) (opnds : List Opnd) (regs : Nat) (r : Nat → Nat → Nat) : Prop :=
      i.wf = true → live → LaneReady s g o opnds →
      Completes i s g fun q x => (x.eachLane o fun i l => l.write o.vd.toNat regs (r q (pos q i))).advance 3
    let tells (i : Instr) (opnds : List Opnd) (r : Nat → Word) : Prop :=
      live → LaneReady s g o opnds → Completes i s g fun q x => (x.setSN o.vd.toNat (r q)).advance 3
    let va (q p : Nat) : Nat := ((lane q p).rv o.va.toNat).toNat
    let votes (q p : Nat) : Bool := on q p && (lane q p).rp o.va.toNat
    puts (.vred o m op) [.ty o.vd t, .ty o.va t] (regsOf t) (fun q _ => fold q (actives q)) ∧
    puts (.vscan o m op excl) [.ty o.vd t, .ty o.va t] (regsOf t) (fun q p =>
      fold q ((actives q).filter fun j => decide (j < p) || (!excl && decide (j = p)))) ∧
    puts (.vshuf o) [.one o.vd, .one o.va, .one o.vb] 1
      (fun q p => va q (((lane q p).rv o.vb.toNat).toNat % size)) ∧
    puts (.vbcast o n) [.one o.vd, .one o.va] 1 (fun q _ => va q (n.toNat % size)) ∧
    puts (.vrot o n) [.one o.vd, .one o.va] 1 (fun q p => va q ((p + n.toNat) % size)) ∧
    puts (.vqswz o z0 z1 z2 z3) [.one o.vd, .one o.va] 1 (fun q p =>
      va q (p - p % 4 + (if p % 4 = 0 then z0 else if p % 4 = 1 then z1 else if p % 4 = 2 then z2 else z3).toNat)) ∧
    puts (.vcount o) [.one o.vd, .p o.va] 1
      (fun q p => ((List.range size).filter fun j => votes q j && decide (j < p)).length) ∧
    tells (.vfind o) [.s o.vd, .p o.va]
      (fun q => BitVec.ofNat 64 (((List.range size).find? (votes q)).getD 64)) ∧
    (∃ r : Nat → Word, tells (.vballot o) [.s o.vd, .p o.va] r ∧
      ∀ q p, p < 64 → ((r q).getLsbD p = true ↔ p < size ∧ votes q p = true))

/-! ### Predicates, masks, joins, gangs -/

/-- R315, R316: predicate and mask instructions. The mask instructions, and `pmtop`, take the lanes that
pass the guard whatever `em`; `ptos` and `pmtos` write the quad's scalar. -/
def Obligations.PredicatesAndMasks : Prop :=
  ∀ (s : State) (g : GangRef) (o : LaneOp) (bit : Bool),
    let pred (i : Instr) (opnds : List Opnd) (r : Quad → Nat → Lane → Bool) : Prop :=
      LaneReady s g o opnds → Completes i s g fun _ q =>
        (q.eachLane o fun i l => l.setP o.vd.toNat (r q i l)).advance 3
    let mask (i : Instr) (opnds : List Opnd) (r : Quad → Nat → Bool) : Prop :=
      LaneReady s g o opnds → ∃ em : Quad → BitVec 4,
        (∀ q, ∀ i < 4, (em q).getLsbD i = if guardOk o (q.lane i) then r q i else q.em.getLsbD i) ∧
        Completes i s g fun _ q => ({ q with em := em q } : Quad).advance 3
    let p2 := [Opnd.p o.vd, .p o.va, .p o.vb]
    let pa (l : Lane) : Bool := l.p.getLsbD o.va.toNat
    let pb (l : Lane) : Bool := l.p.getLsbD o.vb.toNat
    let sa (q : Quad) (i : Nat) : Bool := (q.rsN o.va.toNat).getLsbD i
    pred (.pand o) p2 (fun _ _ l => pa l && pb l) ∧
    pred (.por o) p2 (fun _ _ l => pa l || pb l) ∧
    pred (.pxor o) p2 (fun _ _ l => pa l ^^ pb l) ∧
    pred (.pandn o) p2 (fun _ _ l => pa l && !pb l) ∧
    pred (.pnot o) [.p o.vd, .p o.va] (fun _ _ l => !pa l) ∧
    pred (.pset o bit) [.p o.vd] (fun _ _ _ => bit) ∧
    pred (.pfroms o) [.p o.vd, .s o.va] (fun q i _ => sa q i) ∧
    mask (.pmand o) [.p o.va] (fun q i => q.em.getLsbD i && pa (q.lane i)) ∧
    mask (.pmandn o) [.p o.va] (fun q i => q.em.getLsbD i && !pa (q.lane i)) ∧
    mask (.pmor o) [.p o.va] (fun q i => q.em.getLsbD i || pa (q.lane i)) ∧
    mask (.pmset o) [.s o.va] (fun q i => sa q i) ∧
    (LaneReady s g o [.s o.vd] →
      Completes (.pmtos o) s g fun _ q => (q.setSN o.vd.toNat (q.em.setWidth 64)).advance 3) ∧
    (LaneReady s g o [.s o.vd, .p o.va] → ∃ v : Quad → Word,
      (∀ q i, (v q).getLsbD i = (decide (i < 4) && pa (q.lane i))) ∧
      Completes (.ptos o) s g fun _ q => (q.setSN o.vd.toNat (v q)).advance 3) ∧
    (LaneReady s g o [.p o.vd] → Completes (.pmtop o) s g fun _ q =>
      ({ q with lanes := Vector.ofFn fun i =>
          if guardOk o q.lanes[i] then q.lanes[i].setP o.vd.toNat (q.em.getLsbD i.val) else q.lanes[i] }
        : Quad).advance 3)

/-- R106: `jset`, `jarr` and `jdrop` write the slices of the gang's quads, and `jwait` parks them, under the timer of the
arrived set that they join (R109).
R107, R108: the test of the arrived sets of a wave. Each `jwait` on which quads are parked is taken once, by its lowest
quad, and tested as the releases before it left the wave: its set is released when no other quad of the wave with a
non-zero exp in its register holds it back, which one does that has not exited and runs a trap handler or is parked at no
`jwait` and in no counter wait; each of its quads then takes `em` := arr, clears its slice and goes on past the `jwait`.
Otherwise nothing changes, and in a stopped wave nothing is released (R416). The order of several sets is the model's
choice (notes/assumptions/76.md).
R110, R112: once every event of a cycle has taken place the test comes before every timer. -/
def Obligations.JoinInstructions : Prop :=
  (∀ (s : State) (g : GangRef) (o : LaneOp), LaneReady s g o [.j o.vd] →
     let exp (q : Quad) : BitVec 4 := (q.join o.vd.toNat).extractLsb' 0 4
     let arr (q : Quad) : BitVec 4 := (q.join o.vd.toNat).extractLsb' 4 4
     let slice (q : Quad) (arr exp : BitVec 4) : Quad := (q.setJoin o.vd.toNat (arr ++ exp)).advance 3
     let j : BitVec 3 := o.vd.extractLsb' 0 3
     Completes (.jset o) s g (fun _ q => slice q 0 q.em) ∧
     Completes (.jarr o) s g (fun _ q => slice q (arr q ||| (q.em &&& exp q)) (exp q)) ∧
     Completes (.jdrop o) s g (fun _ q => slice q (arr q &&& ~~~q.em) (exp q &&& ~~~q.em)) ∧
     ∃ since, Completes (.jwait o) s g (fun _ q => { q with wait := .jwait j since }) ∧
       ((∀ k since', (s.quadOf g k).wait = .jwait j since' → (s.quadOf g k).pc ≠ (s.leader g).pc) → since = s.clk) ∧
       ∀ k since', k < (s.waveOf g).quads.length → (s.quadOf g k).wait = .jwait j since' →
         (s.quadOf g k).pc = (s.leader g).pc → since ≤ since') ∧
  (∀ (s : State) (t w : Nat), t < s.teams.length → w < (s.team t).waves.length →
     let at_ (u : State) (x : BitVec 3 × Word) (n : Nat) : Prop :=
       n < (u.wave t w).quads.length ∧ (∃ since, (u.quad t w n).wait = .jwait x.1 since) ∧ (u.quad t w n).pc = x.2
     let holds (u : State) (x : BitVec 3 × Word) (n : Nat) : Prop :=
       let q := u.quad t w n
       n < (u.wave t w).quads.length ∧ ¬ at_ u x n ∧ (q.join x.1.toNat).extractLsb' 0 4 ≠ 0 ∧ q.exited = false ∧
         (q.inHandler = true ∨ (∀ c, q.wait ≠ .counter c) ∧ ∀ k since, q.wait ≠ .jwait k since)
     ((s.wave t w).stopped = true → s.joinTest t w = s) ∧
     ((s.wave t w).stopped = false →
       ∃ (sets : List (BitVec 3 × Word)) (test : State → BitVec 3 × Word → State),
         s.joinTest t w = sets.foldl test s ∧ sets.Nodup ∧ (∀ x, x ∈ sets ↔ ∃ n, at_ s x n) ∧
         sets.Pairwise (fun x y => ∃ n, at_ s x n ∧ ∀ m, at_ s y m → n < m) ∧
         ∀ (u : State) (x : BitVec 3 × Word), t < u.teams.length → w < (u.team t).waves.length →
           ((∀ n, ¬ at_ u x n) ∨ (∃ n, holds u x n) → test u x = u) ∧
           ((∃ n, at_ u x n) → (∀ n, ¬ holds u x n) →
             test u x = { u with teams := (test u x).teams } ∧ ∀ n,
               (at_ u x n → (test u x).quad t w n = (({ u.quad t w n with
                 em := ((u.quad t w n).join x.1.toNat).extractLsb' 4 4, wait := .ready } : Quad).setJoin x.1.toNat 0
                 ).advance 3) ∧
               (¬ at_ u x n → (test u x).quad t w n = u.quad t w n))) ∧
     (s.cycleOver = true → s.dogDue = none → s.l1Due = none → s.l2Due = none → (s.team t).resident = true →
       (s.wave t w).stopped = false → (∃ x, (∃ n, at_ s x n) ∧ ∀ n, ¬ holds s x n) →
       ∃ i k, s.due = some (.join i k) ∧ step s = .next (({ s with cur := .none } : State).joinTest i k)))

/-- R101, R102: the cut of a set of quads. Every run is aligned, each quad of the set is in exactly one run,
no run holds a quad outside the set, and no run lies in a larger aligned run of the set. -/
def Obligations.GangCut : Prop :=
  ∀ qs : List Nat, qs.Pairwise (· < ·) → (∀ q ∈ qs, q < 16) →
    let runs := cutRuns (qs.length + 1) qs
    let covers (r : Nat × Nat) (q : Nat) : Prop := r.1 ≤ q ∧ q < r.1 + 2 ^ r.2
    (∀ r ∈ runs, r.2 ≤ 4 ∧ r.1 % 2 ^ r.2 = 0 ∧ ∀ q, covers r q → q ∈ qs) ∧
    (∀ q ∈ qs, ∃ r ∈ runs, covers r q ∧ ∀ r' ∈ runs, covers r' q → r' = r) ∧
    (∀ r ∈ runs, ∀ k, r.2 < k → k ≤ 4 → ∃ i, i < 2 ^ k ∧ r.1 / 2 ^ k * 2 ^ k + i ∉ qs) ∧
    runs.Pairwise (fun a b => a.1 + 2 ^ a.2 ≤ b.1)

/-- R114, R115, R283, R282, R277: every lane instruction. A set-flag that the clause does not name is an illegal
instruction; a bad guard or register field an illegal operand; a gang that is wide enough performs it; one that is too
narrow waits at it, which changes no register, until every quad of its run has arrived or exited, and the run then
performs it as one gang. That a short-latency instruction may not name such a flag either is the model's reading
(notes/assumptions/16.md). -/
def Obligations.LaneHeldBack : Prop :=
  (∀ (o : LaneOp) (x : LaneForm), ∀ row ∈ laneForms o x, ∀ i ∈ row.2,
     ∃ body : Option (BitVec 4) → State → GangRef → State, ∀ (s : State) (g : GangRef), s.issuing = some g →
       let legal := badGuard o.guard = false ∧ ∀ y ∈ row.1 s, y.ok (s.teamOf g).kernel.regs = true
       let w := min o.minw.toNat (s.teamOf g).kernel.lgwave
       let run := { g with base := g.base / 2 ^ w * 2 ^ w, lg := w }
       let here (n : Nat) : Prop :=
         (s.quadOf g n).exited = true ∨ n ∈ g.quads ∨
           (∃ since, (s.quadOf g n).wait = .fuse w since) ∧ (s.quadOf g n).pc = (s.leader g).pc ∧
             (s.quadOf g n).clause = (s.leader g).clause
       (laneFlag (s.leader g).clause o.flag = none →
         exec i s = .next (s.trap g .illegalInstr (s.leader g).pc (fun _ => 0xF) 0)) ∧
       ∀ f, laneFlag (s.leader g).clause o.flag = some f →
         (¬ legal → exec i s = .next (s.trap g .illegalOperand (s.leader g).pc (fun _ => 0xF) 0)) ∧
         (legal → w ≤ g.lg → exec i s = .next (body f s g)) ∧
         (legal → g.lg < w → (∀ n ∈ run.quads, here n) → exec i s = .next (body f (s.fuse run) run)) ∧
         (legal → g.lg < w → (∃ n ∈ run.quads, ¬ here n) →
           ∃ t since, exec i s = .next t ∧ since ≤ s.clk ∧
             Effect s t g (s.waveOf g).wdog (s.waveOf g).fusest (s.waveOf g).dog fun _ q =>
               { q with wait := .fuse w since })) ∧
  (∀ (s : State) (run : GangRef), run.w < (s.teamOf run).waves.length →
     let t := s.fuse run
     t = { s with teams := t.teams } ∧ (∀ i, i ≠ run.t → t.team i = s.team i) ∧ t.gang? run.t run.w run.base = some run ∧
     ∀ n, t.quadOf run n =
       if n ∈ run.quads ∧ n < (s.waveOf run).quads.length ∧ (s.quadOf run n).exited = false then
         { s.quadOf run n with wait := .ready }
       else s.quadOf run n)

/-! ### Clause headers and memory -/

/-- R270, R271, R103, R354: a clause header starts its clause when every flag of its mask is zero in every
quad and no load of those flags has deferred a fault; else the gang is held at it, or takes the fault. That a header leaves WDOG as
it was is the model's reading (notes/assumptions/15.md). -/
def Obligations.ClauseHeader : Prop :=
  ∀ (s : State) (g : GangRef) (h : Header), s.issuing = some g →
    let clear (n : Nat) : Bool := (List.range 12).all fun i => !h.wait.getLsbD i || (s.quadOf g n).f.getD i 0 == 0
    let met (d : Deferred) : Bool :=
      match d.point with
      | .header f => h.wait.getLsbD f.toNat
      | .interlock => false
      | .drainPoint => false
      | .waveDrain => false
    ((∀ n ∈ g.quads, clear n = true) → (∀ n ∈ g.quads, ∀ d ∈ (s.quadOf g n).deferred, met d = false) →
      ∃ t, exec (.clauseHeader h) s = .next t ∧
        Effect s t g (s.waveOf g).wdog (s.waveOf g).fusest (s.waveOf g).dog fun _ q =>
          { q with wait := .ready, pc := q.pc + 8
                   clause := some { setA := h.setA, setB := h.setB, left := h.length, barWait := false } }) ∧
    ((∃ n ∈ g.quads, clear n = false) →
      ∃ t, exec (.clauseHeader h) s = .next t ∧
        Effect s t g (s.waveOf g).wdog (s.waveOf g).fusest (s.waveOf g).dog fun _ q =>
          { q with wait := .header h.wait h.msplit (match q.wait with | .header _ _ k => k | _ => s.clk) }) ∧
    (∀ n d, (∀ k ∈ g.quads, clear k = true) → n ∈ g.quads → (s.quadOf g n).deferred.find? met = some d →
      (∀ k ∈ g.quads, k < n → (s.quadOf g k).deferred.find? met = none) →
      exec (.clauseHeader h) s = .next
        ((s.mapGang g fun _ q => { q with deferred := q.deferred.filter fun x => !met x }).trap g d.cause d.addr
          (fun k => ((s.quadOf g k).deferred.filter met).foldl (fun m x => m ||| x.lanes) 0) 1))

/-- R355, R318, R359 to R363, R276, R277: loads. When every address passes its checks and names scratchpad
or memory of this device, the instruction raises its flag, or interlocks, in every quad of the gang; each
quad's outstanding instruction holds the bytes that the core saw, for each of its accesses in order;
nothing else changes but what a read may fill (`ReadOnly`). That the bytes are those seen as the instruction issues is the
model's reading (notes/assumptions/6.md). -/
def Obligations.LoadsIssue : Prop :=
  ∀ (s s1 : State) (g : GangRef) (locs : List Loc) (sd sa : SReg) (imm : BitVec 12) (o : LaneOp)
    (ty : ElemTy) (m : MemMods) (off : BitVec 32) (f : Option (BitVec 4)),
    let live := g.quads.filter fun n => !(s.quadOf g n).exited
    let lanes := live.flatMap fun n => ((List.range 4).filter fun i => (s.quadOf g n).active o i).map fun i => (n, i)
    let loads (i : Instr) (len : Nat) (flag : Option (BitVec 4)) (yield : Bool) (wants : List Want) : Prop :=
      flagFull s g flag = false → checkAsks s g (wants.map (·.ask)) = (s1, locs, []) → PlainPlaces s locs →
      let mine (n : Nat) := (wants.zip locs).filter fun x => x.1.ask.quad == n
      let pend (n : Nat) : Pend :=
        { id := s1.nextId, flag := flag, writes := [], blends := [], faults := [], walks := [], requests := []
          loads := (mine n).map fun x =>
            { dest := x.1.dest, bytes := seenAt s g x.1.ask.len x.2, plus := 0, signed := x.1.signed
              dropped := false }
          poll := if yield ∧ mine n ≠ [] then some ((mine n).map (·.1.ask.addr)) else none }
      ∃ u, ReadOnly s u ∧ CompletesFrom i s g u fun n q => q.sendsOff len (pend n)
    let scalar (len : Nat) (signed : Bool) : List Want := live.map fun n =>
      { ask := { quad := n, lanes := 0xF, addr := (s.quadOf g n).rs sa + imm.signExtend 64, len := len, align := 1
                 need := .read, spad := false }
        dest := .s sd.toNat, signed := signed }
    let join : List Want := live.map fun n =>
      let a := (s.quadOf g n).rsN o.va.toNat + off.signExtend 64
      { ask := { quad := n, lanes := 0xF, addr := if a.toNat % 16 = 0 then a + BitVec.ofNat 64 n else a, len := 1
                 align := if a.toNat % 16 = 0 then 1 else 16, need := .read, spad := false }
        dest := .j o.vd.toNat, signed := false }
    let vector (spad : Bool) : List Want := lanes.map fun x =>
      let q := s.quadOf g x.1
      { ask := { quad := x.1, lanes := 1#4 <<< x.2
                 addr := if spad then q.scratchLaneAddr o m x.2 else q.laneAddr o m x.2
                 len := ty.bits / 8, align := 1, need := .read, spad := spad }
        dest := .v x.2 o.vd.toNat (regsOf ty), signed := ty == .i8 || ty == .i16 }
    let sflag : Option (BitVec 4) := match (s.leader g).clause with | some c => c.setA | none => none
    (s.issuing = some g →
      loads (.sldN64 sd sa imm) 1 sflag false (scalar 8 false) ∧
      loads (.sldN32 sd sa imm) 1 sflag false (scalar 4 false) ∧
      loads (.sldI32 sd sa imm) 1 sflag false (scalar 4 true) ∧
      loads (.sldN64Yield sd sa imm) 1 sflag true (scalar 8 false)) ∧
    (laneFlag (s.leader g).clause o.flag = some f →
      (LaneReady s g o [.j o.vd, .s o.va] → loads (.jld o off) 3 f false join) ∧
      (LaneReady s g o (.ty o.vd ty :: if m.flat then [.v o.va 2 2] else [.one o.va, .s o.vb]) →
        loads (.vld o ty m) 3 f m.yield (vector false)) ∧
      (LaneReady s g o [.ty o.vd ty, .one o.va] → loads (.vlds o ty m) 3 f false (vector true)))

/-- R355, R357, R318, R361: stores, `dzero` and the prefetches. When every address passes its checks the
accesses are performed one after another in ascending order of quads and lanes, each as `storeLoc` says
(`Obligations.StoreFrame`), and the gang goes on; a prefetch faults nowhere and is a read. -/
def Obligations.StoresPerform : Prop :=
  ∀ (s s1 : State) (g : GangRef) (locs : List Loc) (sd sa : SReg) (imm : BitVec 12) (o : LaneOp)
    (ty : ElemTy) (m : MemMods) (off : BitVec 32),
    let live := g.quads.filter fun n => !(s.quadOf g n).exited
    let lanes := live.flatMap fun n => ((List.range 4).filter fun i => (s.quadOf g n).active o i).map fun i => (n, i)
    let si (n : Nat) : Word := (s.quadOf g n).rs sa + imm.signExtend 64
    let scalar (len align : Nat) : List Ask := live.map fun n =>
      { quad := n, lanes := 0xF, addr := si n, len := len, align := align, need := .store, spad := false }
    let join : List Ask := live.map fun n =>
      let a := (s.quadOf g n).rsN o.va.toNat + off.signExtend 64
      { quad := n, lanes := 0xF, addr := if a.toNat % 16 = 0 then a + BitVec.ofNat 64 n else a, len := 1
        align := if a.toNat % 16 = 0 then 1 else 16, need := .store, spad := false }
    let vector (spad : Bool) : List Ask := lanes.map fun x =>
      let q := s.quadOf g x.1
      { quad := x.1, lanes := 1#4 <<< x.2
        addr := if spad then q.scratchLaneAddr o m x.2 else q.laneAddr o m x.2
        len := ty.bits / 8, align := 1, need := .store, spad := spad }
    let stores (i : Instr) (len : Nat) (src : TrapSrc) (asks : List Ask) (data : List (List Byte)) (from_ : State) : Prop :=
      checkAsks s g asks = (s1, locs, []) →
      let items := (asks.zip locs).zip data |>.map fun x => (x.1.1.quad, x.1.2, x.2)
      CompletesFrom i s g (storeAll from_ g src items) fun _ q => q.advance len
    let low (len : Nat) : List (List Byte) := live.map fun n => leBytes len ((s.quadOf g n).rs sd).toNat
    let vdata : List (List Byte) := lanes.map fun x =>
      leBytes (ty.bits / 8) (((s.quadOf g x.1).lane x.2).read o.vc.toNat (regsOf ty))
    let addr := if m.flat then [Opnd.v o.va 2 2] else [Opnd.one o.va, .s o.vb]
    (s.issuing = some g →
      stores (.sstN64 sd sa imm) 1 1 (scalar 8 1) (low 8) s1 ∧
      stores (.sstN32 sd sa imm) 1 1 (scalar 4 1) (low 4) s1 ∧
      (checkAsks s g (scalar 128 128) = (s1, locs, []) →
        CompletesFrom (.dzero sa imm) s g
          (((live.zip locs)).foldl (fun s x => zeroLine s g x.1 x.2) s1) fun _ q => q.advance 1) ∧
      (∃ u, ReadOnly s u ∧ CompletesFrom (.spfL2 sa imm) s g u fun _ q => q.advance 1) ∧
      (∃ u, ReadOnly s u ∧ CompletesFrom (.spfL1 sa imm) s g u fun _ q => q.advance 1)) ∧
    (LaneReady s g o [.j o.vd, .s o.va] →
      stores (.jst o off) 3 0 join (live.map fun n => [(s.quadOf g n).join o.vd.toNat]) s1) ∧
    (LaneReady s g o (.ty o.vc ty :: addr) →
      stores (.vst o ty m) 3 0 (vector false) vdata (s1.bankCount g (scratchOf (vector false) locs))) ∧
    (LaneReady s g o [.ty o.vc ty, .one o.va] →
      stores (.vsts o ty m) 3 0 (vector true) vdata (s1.bankCount g (scratchOf (vector true) locs))) ∧
    (LaneReady s g o addr → ∃ u, ReadOnly s u ∧ CompletesFrom (.vpf o m) s g u fun _ q => q.advance 3)

/-- R177, R350, R147, R159, R160, R136, R184, R354, R357: what one store to a resolved place changes. In scratchpad: the
stored bytes of the team's own scratchpad; where no watched counter word falls, HBM, the cores and every other team stay,
and a watched word that falls releases its waits and is logged. In memory whose page is held in the L1: the core sees the
stored bytes, and HBM, every line that the store does not touch, and what every other core sees, stay; a bound line is
first written back, which stores its written bytes in its frame. In memory whose page bypasses the L1: the core flushes its
own written bytes of the line and drops its copy (the model's reading of R173: notes/assumptions/8.md), and the bytes of
HBM change; a poisoned line discards a partial store and clears with a whole one. A store over two pages, or two lines, is
two stores. A zeroed line reads 0 in memory and in the core's view, and every other byte stays. -/
def Obligations.StoreFrame : Prop :=
  ∀ (s : State) (g : GangRef) (core : Nat) (c : BitVec 6) (who : List (Nat × Nat × Nat)) (src : TrapSrc)
    (bs : List Byte),
    -- scratchpad
    (∀ off, g.t < s.teams.length → (s.teamOf g).scratch.wf = true →
      let t := storeLoc s core c g.t who src (.scratch off) bs
      let v := s.modTeam g.t fun x => { x with scratch := x.scratch.write off bs }
      let waits (w : Nat) : List Word := (s.teamOf g).waitAddrs (.scratch w) ++ s.engineScratchWaits g.t (scratchAddr w)
      (∀ a, (t.teamOf g).scratch.get a =
        if off ≤ a ∧ a < off + bs.length then bs.getD (a - off) 0 else (s.teamOf g).scratch.get a) ∧
      ((∀ w ∈ wordsIn off bs.length, v.scratchWord g.t w < s.scratchWord g.t w → waits w = []) →
        t = { s with teams := t.teams } ∧ ∀ i, i ≠ g.t → t.team i = s.team i) ∧
      (bs.length = 8 → off % 8 = 0 → v.scratchWord g.t off < s.scratchWord g.t off → waits off ≠ [] →
        t = (v.modTeam g.t (·.notify (.scratch off) (s.scratchWord g.t off) (v.scratchWord g.t off))).log (s.ctxOf g)
          { code := 0x0002, source := src, detail := 0, gridid := (s.teamOf g).gridid, addr := scratchAddr off
            core := (s.teamOf g).core, wave := 0xFFFF })) ∧
    -- memory held in the L1
    (∀ pa va e, core < 288 → physKind pa = .hbm → e.cache ≠ 1 →
      va.toNat % 65536 + bs.length ≤ 65536 →
      (∀ h ∈ (s.core core).held, h.ctx = c → va.toNat / 128 ≤ h.line → h.line * 128 < va.toNat + bs.length →
        h.bound = none) →
      let t := storeLoc s core c g.t who src (.mem [(pa, bs.length, va, e)]) bs
      t.mem = s.mem ∧ t.teams = s.teams ∧ t.slices = s.slices ∧ t.ctxs = s.ctxs ∧
      (∀ k, k ≠ core → t.core k = s.core k) ∧
      (∀ i < bs.length, ∀ p, viewByte t core c (va + BitVec.ofNat 64 i) p = bs.getD i 0) ∧
      (∀ a p, (∀ i < bs.length, a.toNat / 128 ≠ (va.toNat + i) / 128) →
        viewByte t core c a p = viewByte s core c a p) ∧
      (∀ d a p, d ≠ c → viewByte t core d a p = viewByte s core d a p)) ∧
    (∀ pa va e h l, physKind pa = .hbm → e.cache ≠ 1 → va.toNat % 128 + bs.length ≤ 128 → bs ≠ [] →
      (s.core core).heldLine c (va.toNat / 128) = some h → h.bound = some l →
      storeLoc s core c g.t who src (.mem [(pa, bs.length, va, e)]) bs =
        storeLoc (writeBackOne s core h) core c g.t who src (.mem [(pa, bs.length, va, e)]) bs) ∧
    (∀ (h : HeldLine) (l : Nat), h.bound = some l → s.isPoisoned l = false → s.mem.wf = true →
      let byte (a : Nat) : Byte := if a / 128 = l ∧ h.mask.getLsbD (a % 128) = true then h.data.getD (a % 128) 0 else s.mem.get a
      (∀ i < 16, leNat (s.mem.read (l * 128 + 8 * i) 8) ≤ leNat ((List.range 8).map fun k => byte (l * 128 + 8 * i + k))) →
      let t := writeBackOne s core h
      (∀ a, t.mem.get a = byte a) ∧ (∀ k, k ≠ core → t.core k = s.core k) ∧
        t.core core = (s.core core).dropHeld h.ctx h.line) ∧
    -- memory that bypasses the L1
    (∀ pa va e, s.mem.wf = true → physKind pa = .hbm → e.cache = 1 → bs ≠ [] → pa % 128 + bs.length ≤ 128 →
      (s.core core).heldLine c (va.toNat / 128) = none →
      let t := storeLoc s core c g.t who src (.mem [(pa, bs.length, va, e)]) bs
      (s.isPoisoned (lineOf pa) = false ∨ bs.length = 128 → s.fallsUnseen (s.rawWrite c pa bs) pa bs.length →
        (∀ a, t.mem.get a = if pa ≤ a ∧ a < pa + bs.length then bs.getD (a - pa) 0 else s.mem.get a) ∧
        t.isPoisoned (lineOf pa) = false ∧
        t.lineState (lineOf pa) = some .dirty ∧ t.ctxs = s.ctxs ∧ (∀ k, k ≠ core → t.core k = s.core k) ∧
        t.core core = (s.core core).dropClean c (va.toNat / 128)) ∧
      (s.isPoisoned (lineOf pa) = true → bs.length ≠ 128 →
        t = ((s.modCore core (·.dropClean c (va.toNat / 128))).logFor c who 0x0006 src va).deferDrain who va)) ∧
    (∀ pa va e h, physKind pa = .hbm → e.cache = 1 → bs ≠ [] → pa % 128 + bs.length ≤ 128 →
      (s.core core).heldLine c (va.toNat / 128) = some h →
      let v := s.modCore core (·.dropClean c (va.toNat / 128))
      storeLoc s core c g.t who src (.mem [(pa, bs.length, va, e)]) bs =
        storeLoc (if h.pinned then v else evictHeld v core h) core c g.t who src (.mem [(pa, bs.length, va, e)]) bs) ∧
    -- over two pages, over two lines
    (∀ p ps, storeLoc s core c g.t who src (.mem (p :: ps)) bs =
      storeLoc (storeLoc s core c g.t who src (.mem [p]) (bs.take p.2.1)) core c g.t who src (.mem ps) (bs.drop p.2.1)) ∧
    (∀ pa va e, e.cache = 1 → (∀ i < bs.length, physKind (pa + i) = .hbm) →
      let room := 128 - pa % 128
      room < bs.length →
      storeLoc s core c g.t who src (.mem [(pa, bs.length, va, e)]) bs =
        storeLoc (storeLoc s core c g.t who src (.mem [(pa, room, va, e)]) (bs.take room)) core c g.t who src
          (.mem [(pa + room, bs.length - room, va + BitVec.ofNat 64 room, e)]) (bs.drop room)) ∧
    -- `dzero`
    (∀ n pa va e ps, physKind pa = .hbm →
      let t := zeroLine s g n (.mem ((pa, 128, va, e) :: ps))
      let view (u : State) (a : Word) (p : Nat) : Byte := viewByte u (s.coreOf g) (s.ctxOf g) a p
      t.lineState (lineOf pa) = some .zero ∧
      (s.mem.wf = true →
        s.fallsUnseen (s.rawWrite (s.ctxOf g) (lineOf pa * 128) (List.replicate 128 0)) (lineOf pa * 128) 128 →
        (∀ a, t.mem.get a = if a / 128 = lineOf pa then 0 else s.mem.get a) ∧ t.isPoisoned (lineOf pa) = false ∧
        (∀ a p, a.toNat / 128 = va.toNat / 128 → p / 128 = lineOf pa → view t a p = 0) ∧
        (∀ a p, a.toNat / 128 ≠ va.toNat / 128 → p / 128 ≠ lineOf pa → view t a p = view s a p) ∧
        t.ctxs = s.ctxs ∧ ∀ k, k ≠ s.coreOf g → t.core k = s.core k))

/-- R276, R277, R354: the completion of a quad's outstanding instruction, where the quad waits for no
promotion and the instruction waits for no walk and no Sector reply. Its
writes are performed in order, its flag falls by 1, A-latch copies unlike the registers go (`State.trimLatch`, R390), the
gangs of the core that a full count held back may try again (`State.wake`, R117, R276), and nothing else changes; an
interlocked gang of one quad goes on, unless its wave has been stopped by an unhandled trap (R416): it then stays parked. -/
def Obligations.LongLatencyCompletes : Prop :=
  ∀ (s : State) (t w n idx : Nat) (p : Pend),
    let q := s.quad t w n
    t < s.teams.length → w < (s.team t).waves.length → n < (s.wave t w).quads.length → q.exited = false →
    q.pends[idx]? = some p → p.walks = [] → p.requests = [] → p.poll = none →
    let writes := p.writes ++ p.loads.flatMap (·.regWrites) ++ p.blendWrites
    let done := writes.foldl (fun x y => x.write y)
      ({ q with pends := q.pends.filter fun x => x.id != p.id, deferred := q.deferred ++ p.faults } : Quad)
    let core := (s.wave t w).core
    (∀ f, p.flag = some f → (∀ lines reqs len, q.wait ≠ .promote lines reqs len) → (∀ len, q.wait ≠ .landed len) →
      exec (.longLatencyComplete t w n idx) s =
        .next ((s.modQuad t w n fun _ => { done with f := done.f.setIfInBounds f.toNat (done.f.getD f.toNat 0 - (if done.f.getD f.toNat 0 = 0 then 0 else 1)) }).trimLatch t w |>.wake core)) ∧
    (∀ len, p.flag = none → q.wait = .interlock len → (s.wave t w).stopped = false → done.deferred = [] →
      ((s.wave t w).gangs.find? fun x => decide (x.base ≤ n) && decide (n < x.base + 2 ^ x.lg)).map
        (fun x => (x.base, x.lg)) = some (n, 0) →
      exec (.longLatencyComplete t w n idx) s =
        .next ((s.modQuad t w n fun _ => ({ done with wait := .ready } : Quad).advance len).trimLatch t w |>.wake core)) ∧
    (∀ len, p.flag = none → q.wait = .interlock len → (s.wave t w).stopped = true →
      exec (.longLatencyComplete t w n idx) s =
        .next ((s.modQuad t w n fun _ => { done with wait := .landed len }).trimLatch t w |>.wake core))

/-! ### Atomics, counters, barriers, rings -/

/-- R356, R364, R347, R367, R276, R169: the returning atomics and counter reads. When every address passes its
checks, the release steps of a releasing form can be taken at once (`ReleaseNow`), an acquiring form meets
no scope fault, and no replay has another operation first, the atomics are performed one after another in
ascending order of quads and lanes, each as `atomAt` says (`Obligations.AtomicValue`), and what they gave
is outstanding in each quad; an acquiring form then acquires. That an atomic or a counter read takes effect and samples
at its issue is the model's reading (notes/assumptions/6.md), as is that the core's own held bytes of its line leave for
the home slice first (notes/assumptions/8.md). -/
def Obligations.AtomicsIssue : Prop :=
  ∀ (s s1 v u w x : State) (g : GangRef) (locs : List Loc) (ls : List (Nat × Later)) (sd sa sb : SReg)
    (ord : MemOrd) (o : LaneOp) (ty : ElemTy) (m : MemMods) (off : BitVec 32) (f : Option (BitVec 4)),
    let live := g.quads.filter fun n => !(s.quadOf g n).exited
    let lanes := live.flatMap fun n => ((List.range 4).filter fun i => (s.quadOf g n).active o i).map fun i => (n, i)
    let atoms (i : Instr) (len : Nat) (src : TrapSrc) (flag : Option (BitVec 4)) (ord : MemOrd) (banks : Bool)
        (reqs : List AtomReq) : Prop :=
      let items := reqs.zip locs
      flagFull s g flag = false →
      checkAsks s g (reqs.map (·.ask) ++ reqs.flatMap (·.more)) = (s1, locs, []) →
      (if ord.releases then ReleaseNow s1 g v u else u = s1) →
      (ord.acquires = true → ∀ a ∈ acquiresOf items, a.fails u (u.coreOf g) = false) →
      u.orderAll (u.ctxOf g) (orderOps u (u.coreOf g) (items.map (·.2))) = .ok w →
      let z := if banks then w.bankCount g (scratchOf (reqs.map (·.ask)) locs) else w
      atomAll z.bumpId g src ord w.nextId flag [] items = (x, ls) →
      ∃ t, exec i s = .next
          (if ord.acquires then t.acquire g.t g.w (t.live g) ((acquiresOf items).map (·.at_)) else t) ∧
        Effect x t g (dogNext x g) (x.waveOf g).fusest (dogHits x g) fun n q =>
          q.sendsOff len ((lookupD ls n Later.empty).pend w.nextId flag)
    let scalar (op : AtomOp) : List AtomReq := live.map fun n =>
      let q := s.quadOf g n
      { ask := { quad := n, lanes := 0xF, addr := q.rs sa, len := 8, align := 8, need := .store, spad := false }
        more := [], dests := [{ quad := n, lanes := 0xF, dest := .s sd.toNat, plus := 0 }]
        op := op, operand := (q.rs sb).toNat, expected := (q.rs sd).toNat, get := false }
    let counter : List AtomReq := live.map fun n =>
      { ask := { quad := n, lanes := 0xF, addr := (s.quadOf g n).rs sa, len := 8, align := 8
                 need := .counterGet, spad := false }
        more := [], dests := [{ quad := n, lanes := 0xF, dest := .s sd.toNat, plus := 0 }]
        op := .or, operand := 0, expected := 0, get := true }
    let vector (op : AtomOp) : List AtomReq := lanes.map fun y =>
      let q := s.quadOf g y.1
      { ask := { quad := y.1, lanes := 1#4 <<< y.2, addr := q.laneAddr o m y.2, len := ty.bits / 8
                 align := ty.bits / 8, need := .store, spad := false }
        more := [], dests := [{ quad := y.1, lanes := 1#4 <<< y.2, dest := .v y.2 o.vd.toNat (regsOf ty), plus := 0 }]
        op := op, operand := (q.lane y.2).read o.vc.toNat (regsOf ty)
        expected := (q.lane y.2).read o.vd.toNat (regsOf ty), get := false }
    let span := min o.minw.toNat (s.teamOf g).kernel.lgwave
    let appends : List AtomReq :=
      ((List.range (2 ^ g.lg / 2 ^ span)).map fun i => g.base + i * 2 ^ span).flatMap (appendReq s g o off span)
    let sflag : Option (BitVec 4) := match (s.leader g).clause with | some c => c.setA | none => none
    (s.issuing = some g →
      atoms (.satomAdd sd sa sb ord) 1 1 sflag ord false (scalar .add) ∧
      atoms (.satomSwap sd sa sb ord) 1 1 sflag ord false (scalar .swap) ∧
      atoms (.satomAnd sd sa sb ord) 1 1 sflag ord false (scalar .and) ∧
      atoms (.satomOr sd sa sb ord) 1 1 sflag ord false (scalar .or) ∧
      atoms (.satomXor sd sa sb ord) 1 1 sflag ord false (scalar .xor) ∧
      atoms (.satomMinI64 sd sa sb ord) 1 1 sflag ord false (scalar .minS) ∧
      atoms (.satomMinN64 sd sa sb ord) 1 1 sflag ord false (scalar .minN) ∧
      atoms (.satomMaxI64 sd sa sb ord) 1 1 sflag ord false (scalar .maxS) ∧
      atoms (.satomMaxN64 sd sa sb ord) 1 1 sflag ord false (scalar .maxN) ∧
      atoms (.satomCas sd sa sb ord) 1 1 sflag ord false (scalar .cas) ∧
      atoms (.cget sd sa) 1 1 sflag .none false counter ∧
      atoms (.cgetAcq sd sa) 1 1 sflag .acq false counter ∧
      (flagFull s g sflag = false → CompletesFrom (.cgetTeam sd) s g s.bumpId fun _ q => q.sendsOff 1
        { id := s.nextId, flag := sflag, writes := [.s sd.toNat (s.teamOf g).counter], loads := [], blends := []
          faults := [], walks := [], requests := [], poll := none })) ∧
    (laneFlag (s.leader g).clause o.flag = some f →
      LaneReady s g o ([.ty o.vd ty, .ty o.vc ty] ++ if m.flat then [.v o.va 2 2] else [.one o.va, .s o.vb]) →
      atoms (.vatomAdd o ty m) 3 0 f m.ord true (vector .add) ∧
      atoms (.vatomSwap o ty m) 3 0 f m.ord true (vector .swap) ∧
      atoms (.vatomAnd o ty m) 3 0 f m.ord true (vector .and) ∧
      atoms (.vatomOr o ty m) 3 0 f m.ord true (vector .or) ∧
      atoms (.vatomXor o ty m) 3 0 f m.ord true (vector .xor) ∧
      atoms (.vatomMin o ty m) 3 0 f m.ord true (vector (if ty.isSigned then .minS else .minN)) ∧
      atoms (.vatomMax o ty m) 3 0 f m.ord true (vector (if ty.isSigned then .maxS else .maxN)) ∧
      atoms (.vatomCas o ty m) 3 0 f m.ord true (vector .cas)) ∧
    (laneFlag (s.leader g).clause o.flag = some f → LaneReady s g o [.one o.vd, .p o.va, .s o.vb] →
      atoms (.vappend o off) 3 0 f .none false appends)

/-- R356, R364, R351, R367, R347: one returning atomic at scratchpad or at a line of HBM that is not poisoned
and that the core does not hold. It gives the old bytes; a counter read writes nothing; the others write
the new value and, where the write makes no counter word fall, no other byte of memory. `vappend` makes one
add of the number of lanes that append in a span, whose lanes receive the old value plus their rank. -/
def Obligations.AtomicValue : Prop :=
  ∀ (s : State) (g : GangRef) (src : TrapSrc) (ord : MemOrd) (pend : Nat) (targets : List (Nat × Nat × Nat))
    (a : AtomReq) (n pa off : Nat) (va : Word) (e : TlbEntry) (o : LaneOp) (imm : BitVec 32) (w base : Nat),
    let k := 8 * n
    let b := a.operand
    let int (x : Nat) : Int := if x < 2 ^ (k - 1) then (x : Int) else (x : Int) - 2 ^ k
    let new (old : Nat) : Nat :=
      match a.op with
      | .add => (old + b) % 2 ^ k
      | .swap => b
      | .and => old &&& b
      | .or => old ||| b
      | .xor => old ^^^ b
      | .minS => if int old < int b then old else b
      | .minN => min old b
      | .maxS => if int old < int b then b else old
      | .maxN => max old b
      | .cas => if old = a.expected then b else old
    (1 ≤ n → a.ask.len = n → b < 2 ^ k → g.t < s.teams.length → (s.teamOf g).scratch.wf = true →
      let old := (s.teamOf g).scratch.read off n
      let r := atomAt s g src ord pend targets a (.scratch off)
      r.2 = { bytes := old, fault := none, reqs := [] } ∧
      ∀ x, (r.1.teamOf g).scratch.get x =
        if a.get = false ∧ off ≤ x ∧ x < off + n then (leBytes n (new (leNat old))).getD (x - off) 0
        else (s.teamOf g).scratch.get x) ∧
    (1 ≤ n → b < 2 ^ k → physKind pa = .hbm → s.isPoisoned (lineOf pa) = false →
      (s.core (s.coreOf g)).heldLine (s.ctxOf g) (va.toNat / 128) = none → s.mem.wf = true →
      let old := s.mem.read pa n
      let r := atomAt s g src ord pend targets a (.mem [(pa, n, va, e)])
      r.2 = { bytes := old, fault := none, reqs := [] } ∧
      (a.get = true → r.1.mem = s.mem ∧ r.1.teams = s.teams) ∧
      (a.get = false →
        (∀ y ∈ wordsIn pa n, s.word y ≤ (s.rawWrite (s.ctxOf g) pa (leBytes n (new (leNat old)))).word y) →
        ∀ x, r.1.mem.get x = if pa ≤ x ∧ x < pa + n then (leBytes n (new (leNat old))).getD (x - pa) 0
          else s.mem.get x)) ∧
    (let p := appenders s g o base w;
      (p = [] → appendReq s g o imm w base = []) ∧
      ∀ q i rest, p = (q, i) :: rest → ∃ r, appendReq s g o imm w base = [r] ∧
        r.op = .add ∧ r.operand = p.length ∧ r.get = false ∧ r.ask.len = 4 ∧ r.ask.align = 4 ∧
        (∀ z ∈ r.ask :: r.more, z.addr = (s.quadOf g q).rsN o.vb.toNat + imm.signExtend 64) ∧
        r.dests.map (fun d => (d.quad, d.dest, d.plus)) =
          (p.zip (List.range p.length)).map fun y => (y.1.1, .v y.1.2 o.vd.toNat 1, y.2))

/-- R125, R127, R367, R371, R420: the counter adds. The adds of a gang whose addresses pass their checks are
performed quad by quad; each adds to its counter, or, where the sum would pass 2^64 - 1, leaves it and
raises the counter fault in that quad and the later ones. `cadd` restarts WDOG, and its own issue counts first (the model's
reading, notes/assumptions/15.md). A ring form names a ring
above 15 as an illegal operand, and faults where no `kset` has loaded the ring. That the core's own held bytes of a
counter's line leave for the home slice before the add is the model's reading (notes/assumptions/8.md). -/
def Obligations.CounterAdds : Prop :=
  ∀ (s s1 v u w y : State) (g : GangRef) (locs : List Loc) (k sa sb : SReg) (r : Ring), s.issuing = some g →
    let live := g.quads.filter fun n => !(s.quadOf g n).exited
    let adds (i : Instr) (rel reload : Bool) (reqs : List AddReq) : Prop :=
      checkAsks s g (reqs.map fun a => { quad := a.quad, lanes := 0xF, addr := a.addr, len := 8, align := 8
                                         need := .counterAdd, spad := false }) = (s1, locs, []) →
      (if rel then ReleaseNow s1 g v u else u = s1) →
      let items := reqs.zip locs
      let s2 := u.flushAll g locs
      let fit := items.length - (addAll s2 g rel items).2.length
      s2.orderAll (u.ctxOf g) (orderOps s2 (u.coreOf g) (locs.take fit)) = .ok w →
      (addAll w g rel items = (y, []) → ∃ t, exec i s = .next t ∧
        Effect y t g (if reload then (y.teamOf g).kernel.wdog else dogNext y g) (y.waveOf g).fusest
          (dogHits y g) fun _ q => q.advance 1) ∧
      (∀ a l rest, addAll w g rel items = (y, (a, l) :: rest) →
        exec i s = .next (y.trap g .counterFault a.addr
          (fun n => if a.quad = n ∨ n ∈ rest.map (·.1.quad) then 0xF else 0) 1))
    let own : List AddReq := live.map fun n =>
      { quad := n, addr := (s.quadOf g n).rs sa, addend := (s.quadOf g n).rs sb }
    let ring (va : Word) : List AddReq := live.map fun n => { quad := n, addr := va, addend := 1 }
    adds (.cadd sa sb) false true own ∧
    adds (.caddRel sa sb) true true own ∧
    (k.toNat ≤ 15 → (s.teamOf g).rings.getD k.toNat none = some r →
      adds (.kfill k) true false (ring r.filled) ∧ adds (.kfree k) true false (ring r.freed)) ∧
    (∀ i, i = .kfill k ∨ i = .kfree k →
      (15 < k.toNat → exec i s = .next (s.trap g .illegalOperand (s.leader g).pc (fun _ => 0xF) 1)) ∧
      (k.toNat ≤ 15 → (s.teamOf g).rings.getD k.toNat none = none →
        exec i s = .next (s.trap g .ringDescriptor 0 (fun _ => 0xF) 1))) ∧
    (∀ (rel : Bool) (n pa : Nat) (addr addend va : Word) (e : TlbEntry), physKind pa = .hbm → s.isPoisoned (lineOf pa) = false →
      pa % 8 = 0 → s.mem.wf = true →
      (2 ^ 64 ≤ (s.word pa).toNat + addend.toNat → addOne s g rel n addr addend (.mem [(pa, 8, va, e)]) = none) ∧
      ((s.word pa).toNat + addend.toNat < 2 ^ 64 → ∃ t, addOne s g rel n addr addend (.mem [(pa, 8, va, e)]) = some t ∧
        t.word pa = s.word pa + addend ∧ ∀ x, x < pa ∨ pa + 8 ≤ x → t.mem.get x = s.mem.get x))

/-- R128, R129, R130, R368, R372: counter waits on counters of this device. When no replay has another
operation first, each quad whose
counter has reached its target goes on, past the instruction (`Quad.pastWait`) with 0 in its status register; every other quad of the gang parks.
The waits of a ring are for its filled or freed counter. The gang then acquires, where the form does. That the core's own
held bytes of a counter's line leave for the home slice before the wait is evaluated is the model's reading
(notes/assumptions/8.md). -/
def Obligations.CounterWaits : Prop :=
  ∀ (s s1 w : State) (g : GangRef) (locs : List Loc) (k sd sa sb : SReg) (acq : Bool) (r : Ring),
    s.issuing = some g →
    let live := g.quads.filter fun n => !(s.quadOf g n).exited
    let waits (i : Instr) (kind : WaitKind) (acq : Bool) (st : Option SReg) (addr : Nat → Word) (target : Nat → Nat) : Prop :=
      checkAsks s g (live.map fun n => { quad := n, lanes := 0xF, addr := addr n, len := 8, align := 8
                                         need := .counterGet, spad := false }) = (s1, locs, []) →
      let u := s1.flushAll g locs
      (∀ l ∈ locs, u.poisonAt l = false ∧ ∃ x, u.counterAt g.t l = some x) →
      let place (n : Nat) : Loc := ((live.zip locs).lookup n).getD (.mem [])
      let met (n : Nat) : Bool := u.reached g.t (target n) (place n)
      let acquires : List Acquire := (live.filter met).filterMap fun n =>
        (place n).acqLine.map fun l => { quad := n, lanes := 0xF, at_ := l }
      (acq = true → ∀ a ∈ acquires, a.fails u (u.coreOf g) = false) →
      u.orderAll (u.ctxOf g) (orderOps u (u.coreOf g) ((live.filter met).map place)) = .ok w →
      (∀ n ∈ live, w.reached g.t (target n) (place n) = met n) →
      let v := w.useCounters (w.ctxOf g) locs
      ∃ (t : State) (spill : Nat → Bool), exec i s = .next (if acq then t.acquire g.t g.w (live.filter met) (acquires.map (·.at_))
          else t) ∧
        Effect v.bumpId t g (dogNext v g) (v.waveOf g).fusest (dogHits v g) fun n q =>
          if met n then
            (q.pastWait st 0).noteAtomic (place n).acqLine
          else { q with wait := .counter {
              kind := kind, loc := (place n).counterLoc, addr := addr n, target := target n
              timeout := (q.rsN (sb.toNat + 1)).extractLsb' 0 32, elapsed := 0, woken := 0, cap := (place n).cap
              acq := acq, st := st, status := none, spilled := spill n, tag := v.nextId, request := none
              cancelled := false } }
    let value (n : Nat) : Nat := ((s.quadOf g n).rs sb).toNat
    waits (.cwait sa sb acq) .cwait acq none (fun n => (s.quadOf g n).rs sa) value ∧
    waits (.cwaitSt sd sa sb acq) .cwait acq (some sd) (fun n => (s.quadOf g n).rs sa) value ∧
    (k.toNat ≤ 15 → (s.teamOf g).rings.getD k.toNat none = some r →
      waits (.kwaitFull k sb) .kwaitFull true none (fun _ => r.filled) (fun n => value n + 1) ∧
      waits (.kwaitFullSt sd k sb) .kwaitFull true (some sd) (fun _ => r.filled) (fun n => value n + 1) ∧
      waits (.kwaitFree k sb) .kwaitFree true none (fun _ => r.freed) (fun n => value n + 1 - 2 ^ r.lgslots) ∧
      waits (.kwaitFreeSt sd k sb) .kwaitFree true (some sd) (fun _ => r.freed) (fun n => value n + 1 - 2 ^ r.lgslots)) ∧
    (∀ i, i = .kwaitFree k sb ∨ i = .kwaitFull k sb ∨ i = .kwaitFreeSt sd k sb ∨ i = .kwaitFullSt sd k sb →
      (15 < k.toNat → exec i s = .next (s.trap g .illegalOperand (s.leader g).pc (fun _ => 0xF) 1)) ∧
      (k.toNat ≤ 15 → (s.teamOf g).rings.getD k.toNat none = none →
        exec i s = .next (s.trap g .ringDescriptor 0 (fun _ => 0xF) 1)))

/-- R138, R369: `bar`, where its release steps can be taken at once, in a kernel without a bridged pair and a
gang none of whose quads waits for an acquiring Sector request. The team counter rises by 1 for each quad that arrives; a quad
whose barrier target is reached goes on, and every other quad of the gang parks in the wait for it. -/
def Obligations.Barrier : Prop :=
  ∀ (s v u : State) (g : GangRef), s.issuing = some g → ReleaseNow s g v u →
    g.t < u.teams.length → g.w < (u.teamOf g).waves.length → (u.teamOf g).kernel.pair = false →
    let live := g.quads.filter fun n => !(u.quadOf g n).exited
    let stands (n : Nat) : Bool := (u.quadOf g n).inBarWait
    (∀ n ∈ live, n < (u.waveOf g).quads.length) → (∀ n ∈ live, u.acquiring g.t g.w n = []) →
    ∃ t, exec .bar s = .next t ∧ t.mem = u.mem ∧
      (t.teamOf g).counter = (u.teamOf g).counter + BitVec.ofNat 64 (live.filter fun n => !stands n).length ∧
      ∀ n ∈ live,
        let q := u.quadOf g n
        let q' := t.quadOf g n
        let target := (t.teamOf g).barTarget q'.gen
        q'.gen = (if stands n then q.gen else q.gen + 1) ∧ q'.s = q.s ∧ q'.lanes = q.lanes ∧ q'.em = q.em ∧
        (target ≤ (t.teamOf g).counter.toNat → q'.pc = q.pc + 4 ∧ q'.wait = .ready) ∧
        ((t.teamOf g).counter.toNat < target → q'.pc = q.pc ∧
          ∃ c, q'.wait = .counter c ∧ c.kind = .bar ∧ c.loc = .team ∧ c.target = target ∧ c.status = none)

/-- R370, R193, R310, R104: the fences, `ifence` and `exit`, where the release steps, or the acquires, can be
taken at once. A release fence notes in every quad that later atomics release; an acquire fence drops stale
copies and forgets the atomics it acquired, once every earlier atomic and accumulate of the gang has completed; `ifence` drops the context's instruction lines of the core;
`exit` ends the quads: `em` and the join slices are 0, and the registers stay. -/
def Obligations.FencesAndExit : Prop :=
  ∀ (s v u : State) (g : GangRef), s.issuing = some g →
    let xs : List Acquire := (s.live g).flatMap fun n =>
      (s.quadOf g n).acqLines.map fun l => { quad := n, lanes := 0xF, at_ := l }
    let acquirable : Prop := s.atomicsPending g = false ∧ (∀ a ∈ xs, a.fails s (s.coreOf g) = false) ∧
      s.toPromote (s.coreOf g) (xs.map (·.at_)) = []
    let got := s.acquire g.t g.w (s.live g) (xs.map (·.at_))
    (ReleaseNow s g v u → CompletesFrom .fenceRel s g u fun _ q => ({ q with relFence := true } : Quad).advance 1) ∧
    (acquirable → CompletesFrom .fenceAcq s g got fun _ q => ({ q with acqLines := [] } : Quad).advance 1) ∧
    (acquirable → ReleaseNow (got.mapGang g fun _ q => { q with acqLines := [] }) g v u →
      CompletesFrom .fenceAr s g u fun _ q => ({ q with relFence := true } : Quad).advance 1) ∧
    CompletesFrom .ifence s g
      (s.modCore (s.coreOf g) fun k => { k with ilines := k.ilines.filter fun l => l.ctx != s.ctxOf g })
      (fun _ q => q.advance 1) ∧
    (ReleaseNow s g v u → ∃ t, exec .exit s = .next t ∧
      ∀ n ∈ g.quads, n < (u.waveOf g).quads.length → (u.quadOf g n).exited = false →
        (t.quadOf g n).exited = true ∧ (t.quadOf g n).em = 0 ∧ (t.quadOf g n).joins = Vector.replicate 8 0 ∧
        (t.quadOf g n).wait = .ready ∧ (t.quadOf g n).s = (u.quadOf g n).s ∧
        (t.quadOf g n).lanes = (u.quadOf g n).lanes ∧ (t.quadOf g n).pc = (u.quadOf g n).pc)

/-- R139, R371: `kset`. When each quad's descriptor passes its checks, the handle holds the ring of the
highest-numbered quad, and what the quads fetched is used up; while a descriptor in a Sector window has not come, the
gang waits (its request leaves by R438; that the gang waits for it is the model's reading, notes/assumptions/28.md). A ring above 15 is an illegal operand; a descriptor that is not 16-byte aligned, or
whose slots, size or reserved bytes break a limit, is refused. -/
def Obligations.RingHandle : Prop :=
  ∀ (s u v : State) (g : GangRef) (k sa : SReg) (rs : List (Nat × Ring)), s.issuing = some g →
    (15 < k.toNat → exec (.kset k sa) s = .next (s.trap g .illegalOperand (s.leader g).pc (fun _ => 0xF) 1)) ∧
    (k.toNat ≤ 15 → eachQuad (fun s n => ksetQuad s g sa n) (s.live g) s =
        (u, { passed := rs, failed := [], waits := false }) →
      CompletesFrom (.kset k sa) s g (rs.foldl (fun s x => s.setRing g.t k.toNat x.2) u)
        (fun _ q => ({ q with fetched := [] } : Quad).advance 1) ∧
      (g.t < u.teams.length → ∀ n r, rs.getLast? = some (n, r) →
        ((rs.foldl (fun s x => s.setRing g.t k.toNat x.2) u).teamOf g).rings.getD k.toNat none = some r)) ∧
    (∀ bs r, ringOf bs = some r →
      r.base = BitVec.ofNat 64 (field bs 0 8) ∧ r.filled = BitVec.ofNat 64 (field bs 8 8) ∧
      r.freed = BitVec.ofNat 64 (field bs 16 8) ∧ r.claim = BitVec.ofNat 64 (field bs 24 8) ∧
      r.bytes = field bs 32 4 ∧ r.lgslots = field bs 36 1 ∧
      16 ≤ r.bytes ∧ r.bytes ≤ 65536 ∧ r.bytes % 16 = 0 ∧ r.lgslots ≤ 12 ∧ r.base.toNat % r.bytes = 0) ∧
    (k.toNat ≤ 15 → ∀ x, eachQuad (fun s n => ksetQuad s g sa n) (s.live g) s = (v, x) → x.waits = true →
      exec (.kset k sa) s = .next (v.awaitFetch g)) ∧
    (∀ n, ((s.quadOf g n).rs sa).toNat % 16 ≠ 0 →
      (ksetQuad s g sa n).1 = s ∧ ∃ f, (ksetQuad s g sa n).2 = .fault f ∧ f.cause = .ringDescriptor ∧
        f.addr = (s.quadOf g n).rs sa)

/-! ### Engine queues, loop nests -/

/-- R75, R77, R373, R374, R376: `cpy`, `qwait`, `qadd` and `qfence`. Each quad whose s[sa] is not 0 places one
entry at the tail of its core's queue, in ascending order of quads; with no room for all of them the gang
stalls and places none. `qfence` places one marker in every queue of its mask at once. `cpy` refuses a block
that is not 64-byte aligned. -/
def Obligations.EngineEntries : Prop :=
  ∀ (s u : State) (g : GangRef) (sa sb : SReg) (q : BitVec 3) (mask : BitVec 8) (locs : List Loc)
    (bs : List (Nat × CopyBlock)), s.issuing = some g →
    let live := g.quads.filter fun n => !(s.quadOf g n).exited
    let placing := live.filter fun n => (s.quadOf g n).rs sa != 0
    let counter (need : Need) : List Ask := placing.map fun n =>
      { quad := n, lanes := 0xF, addr := (s.quadOf g n).rs sa, len := 8, align := 8, need := need, spad := false }
    let entry (id n : Nat) (b : EntryBody) : Entry :=
      { id := id, ctx := u.ctxOf g, team := g.t, wave := g.w, quad := n, body := b, fetched := [], done := false, sent := false
        logged := [], stamp := none }
    let core := u.coreOf g
    let grown (t : State) : Prop :=
      t = { u with cores := t.cores, nextId := t.nextId } ∧
      ∀ c, t.core c = { u.core c with queues := (t.core c).queues }
    let enters (i : Instr) (f : Quad → Quad) (xs : List (Nat × EntryBody)) : Prop :=
      ((u.engine core q).length + xs.length ≤ 32 → ∃ t, grown t ∧ CompletesFrom i s g t (fun _ q => (f q).advance 1) ∧
        (∀ c k, c ≠ core ∨ k ≠ q → t.engine c k = u.engine c k) ∧
        (core < 288 → t.engine core q =
          u.engine core q ++ xs.zipIdx.map fun x => entry (u.nextId + x.2) x.1.1 x.1.2)) ∧
      (32 < (u.engine core q).length + xs.length →
        exec i s = .next (u.mapGang g fun _ q => { f q with wait := .engineFull }))
    (eachQuad (fun s n => cpyQuad s g sa n) placing s = (u, { passed := bs, failed := [], waits := false }) →
      enters (.cpy sa q) (fun q => { q with fetched := [] }) (bs.map fun x =>
        (x.1, .copy { b := x.2, asked := false, claimed := none, written := false, published := false }))) ∧
    (checkAsks s g (counter .counterGet) = (u, locs, []) →
      enters (.qwait sa sb q) id (placing.map fun n => (n, .qwait ((s.quadOf g n).rs sa) ((s.quadOf g n).rs sb)))) ∧
    (checkAsks s g (counter .counterAdd) = (u, locs, []) →
      enters (.qadd sa sb q) id (placing.map fun n => (n, .qadd ((s.quadOf g n).rs sa) ((s.quadOf g n).rs sb)))) ∧
    (u = s →
      ((∀ k : BitVec 3, mask.getLsbD k.toNat = true → (s.engine core k).length < 32) →
        ∃ t, grown t ∧ CompletesFrom (.qfence mask) s g t (fun _ q => q.advance 1) ∧
          (∀ c k, c ≠ core → t.engine c k = s.engine c k) ∧
          (core < 288 → ∀ k : BitVec 3, t.engine core k = s.engine core k ++
            if mask.getLsbD k.toNat then [entry s.nextId (s.firstLive g) (.marker mask s.nextId)] else [])) ∧
      (∀ k : BitVec 3, mask.getLsbD k.toNat = true → 32 ≤ (s.engine core k).length →
        exec (.qfence mask) s = .next (s.hold g .engineFull))) ∧
    (∀ n, ((s.quadOf g n).rs sa).toNat % 64 ≠ 0 →
      cpyQuad s g sa n = (s, .fault { cause := .alignment, addr := (s.quadOf g n).rs sa, tf := none }))

/-- R288, R378 to R380: the loop-nest instructions. Every quad whose `em` is not 0 places one entry, with its
five scalar operands and its SEED as they stand; each form carries its operation, and an instruction with
stochastic rounding then advances SEED. With no room for all the entries the gang stalls.
R378, R379: the elements of a loop nest. An operand's element lies at its base plus its size times the
sum, over the levels, of index times stride; the first level runs fastest. Integer steps wrap in 32 bits. -/
def Obligations.NestEntries : Prop :=
  (∀ (s u : State) (g : GangRef) (x : Nest) (bs : List (Nat × NestBody)), s.issuing = some g →
     let live := g.quads.filter fun n => !(s.quadOf g n).exited
     let placing := live.filter fun n => (s.quadOf g n).em != 0
     let core := u.coreOf g
     let nest (i : Instr) (op : Nat) : Prop :=
       eachQuad (fun s n => nestQuad s g op x n) placing s = (u, { passed := bs, failed := [], waits := false }) →
       ((u.engine core x.queue).length + bs.length ≤ 32 →
         ∃ t, t = { u with cores := t.cores, nextId := t.nextId } ∧
           (∀ c, t.core c = { u.core c with queues := (t.core c).queues }) ∧
           CompletesFrom i s g t (fun _ q =>
             ({ q with fetched := [], seed := if x.rnd = .rs then q.seed + 1 else q.seed } : Quad).advance 8) ∧
           (∀ c k, c ≠ core ∨ k ≠ x.queue → t.engine c k = u.engine c k) ∧
           (core < 288 → t.engine core x.queue = u.engine core x.queue ++ bs.zipIdx.map fun y =>
             { id := u.nextId + y.2, ctx := u.ctxOf g, team := g.t, wave := g.w, quad := y.1.1, body := .nest y.1.2
               fetched := [], done := false, sent := false, logged := [], stamp := none })) ∧
       (32 < (u.engine core x.queue).length + bs.length →
         exec i s = .next (u.mapGang g fun _ q => { q with fetched := [], wait := .engineFull })) ∧
       (∀ n b, (n, b) ∈ bs → n ∈ placing ∧ b.op = op ∧ b.nest = x ∧ b.n = 0 ∧ b.acLoaded = false ∧ b.stopped = false)
     nest (.lnestCopy x) 0x00 ∧ nest (.lnestAdd x) 0x01 ∧ nest (.lnestSub x) 0x02 ∧ nest (.lnestMul x) 0x03 ∧
     nest (.lnestFma x) 0x04 ∧ nest (.lnestMin x) 0x05 ∧ nest (.lnestMax x) 0x06 ∧ nest (.lnestSum x) 0x10 ∧
     nest (.lnestDot x) 0x11 ∧ nest (.lnestRmax x) 0x12 ∧ nest (.lnestRmin x) 0x13) ∧
  ((∀ (x : Nest) (base : Word) (size : Nat) (pick : Level → BitVec 10) (idx : List Nat),
     idx.length = x.levels.length →
     (∀ p ∈ idx.zip x.levels, p.1 < max 1 p.2.extent.toNat) →
     let linear (l : List (Nat × Level)) : Nat := l.foldr (fun p k => p.1 + max 1 p.2.extent.toNat * k) 0
     linear (idx.zip x.levels) < x.count ∧
     nestAddr x base size pick (linear (idx.zip x.levels)) =
       base + BitVec.ofInt 64 (size * ((idx.zip x.levels).map fun p => (p.1 : Int) * strideOf (pick p.2)).sum)) ∧
   (∀ (f : BitVec 10), strideOf f =
     (if f.getLsbD 9 then -1 else 1) * (((f.extractLsb' 0 6).toNat * 2 ^ (f.extractLsb' 6 3).toNat : Nat) : Int)) ∧
   ∀ (b : NestBody) (quad : Nat) (d x y : BitVec 32),
     b.nest.ty = .i32 ∨ b.nest.ty = .n32 →
     let int (v : BitVec 32) : Int := if b.nest.ty = .i32 then v.toInt else v.toNat
     let out (v : Int) : Nat := (BitVec.ofInt 32 v).toNat
     let is (op : Nat) (v : Int) : Prop := b.op = op → b.compute quad d.toNat x.toNat y.toNat = out v
     is 0x00 (int x) ∧ is 0x01 (int x + int y) ∧ is 0x02 (int x - int y) ∧ is 0x03 (int x * int y) ∧
     is 0x04 (int x * int y + int d) ∧ is 0x05 (min (int x) (int y)) ∧ is 0x06 (max (int x) (int y)) ∧
     is 0x10 (int d + int x) ∧ is 0x11 (int d + int x * int y) ∧ is 0x12 (max (int d) (int x)) ∧
     is 0x13 (min (int d) (int x)))

/-- R391, R408, R471: `mrel` frees the A-latch of its quarter where the wave owns it; `sstamp.open` opens a
stamp in every quad, and `sstamp.close` stores the record of every open one and closes it. -/
def Obligations.LatchAndStamps : Prop :=
  ∀ (s u : State) (g : GangRef) (sa : SReg) (locs : List Loc), s.issuing = some g →
    let live := g.quads.filter fun n => !(s.quadOf g n).exited
    let asks (xs : List (Nat × Word)) : List Ask := xs.map fun x =>
      { quad := x.1, lanes := 0xF, addr := x.2, len := 64, align := 64, need := .store, spad := false }
    let opened : List (Nat × Stamp) := live.filterMap fun n => (s.quadOf g n).stamp.map fun x => (n, x)
    let record (x : Stamp) : List Byte :=
      leBytes 8 x.openClk ++ leBytes 8 u.clk ++ leBytes 8 (x.inStart.getD 0) ++ leBytes 8 (x.inEnd.getD 0) ++
        leBytes 8 x.opWait ++ leBytes 8 x.mmBusy ++ leBytes 8 (x.outStart.getD 0) ++ leBytes 8 (x.outEnd.getD 0)
    (∃ t, t = { s with cores := t.cores } ∧ CompletesFrom .mrel s g t (fun _ q => q.advance 1) ∧
      (∀ c, t.core c = { s.core c with quarters := (t.core c).quarters }) ∧
      ∀ c (i : Nat), ((t.core c).quarters[i]?).map (·.latch) = ((s.core c).quarters[i]?).map fun y =>
        if c = s.coreOf g ∧ i = (s.waveOf g).quarter ∧ y.latch.owner = some (g.t, g.w) then
          { owner := none, entries := [], lastUse := 0 } else y.latch) ∧
    (checkAsks s g (asks (live.map fun n => (n, (s.quadOf g n).rs sa))) = (u, locs, []) →
      CompletesFrom (.sstampOpen sa) s g u.bumpId fun _ q =>
        ({ q with stamp := some { id := u.nextId, addr := q.rs sa, openClk := u.clk, inStart := none, inEnd := none, opWait := 0
                                  mmBusy := 0, outStart := none, outEnd := none } } : Quad).advance 1) ∧
    (checkAsks s g (asks (opened.map fun x => (x.1, x.2.addr))) = (u, locs, []) →
      CompletesFrom .sstampClose s g (storeAll u g 1 ((opened.zip locs).map fun x => (x.1.1, x.2, record x.1.2)))
        fun _ q => ({ q with stamp := none } : Quad).advance 1)

/-! ### Accumulates -/

/-- R198, R199, R365, R366: `vacc` and `rflush`. The addends of lanes that name one address are combined; then
each is performed in scratchpad or leaves the core (`sendAddend`), unless that would pass 64 outstanding
accumulates, where the gang waits; in a replay it also waits while a refusal of its tile entry is on its way (R475). `rflush` goes on where the team has no residual to deliver, and
otherwise starts a drain. -/
def Obligations.AccumulateIssue : Prop :=
  ∀ (s u : State) (g : GangRef) (o : LaneOp) (ty : AccTy) (m : MemMods) (locs : List Loc),
    let regs := ty.width / 4
    let live := g.quads.filter fun n => !(s.quadOf g n).exited
    let lanes := live.flatMap fun n => ((List.range 4).filter fun i => (s.quadOf g n).active o i).map fun i => (n, i)
    let asks : List Ask := lanes.map fun x =>
      { quad := x.1, lanes := 1#4 <<< x.2, addr := (s.quadOf g x.1).laneAddr o m x.2, len := ty.width
        align := ty.width, need := .store, spad := false }
    let adds (i : Instr) (op : AccOp) : Prop :=
      LaneReady s g o (.v o.vc regs regs :: if m.flat then [.v o.va 2 2] else [.one o.va, .s o.vb]) →
      checkAsks s g asks = (u, locs, []) →
      let xs := ((asks.zip locs).zip lanes).foldl (fun xs y =>
        addAddend ty op
          { quad := y.2.1, quads := [y.2.1], addr := y.1.1.addr, loc := y.1.2
            value := ((u.quadOf g y.2.1).lane y.2.2).read o.vc.toNat regs, count := 1 } xs) []
      let leaving := (xs.filter fun x => x.loc.leaves).length
      (u.outstanding (u.coreOf g) + leaving ≤ 64 → (∀ x ∈ xs, u.refusalOut g.t x.addr = false) →
        CompletesFrom i s g (xs.foldl (fun s x => sendAddend s g ty op x) (u.bankCount g (scratchOf asks locs)))
          fun _ q => q.advance 3) ∧
      (64 < u.outstanding (u.coreOf g) + leaving → exec i s = .next (u.hold g .structural)) ∧
      (u.outstanding (u.coreOf g) + leaving ≤ 64 → (∃ x ∈ xs, u.refusalOut g.t x.addr = true) → exec i s = .next u) ∧
      (xs.map (·.addr)).Nodup ∧
      ∀ x ∈ xs,
        let mine := (asks.zip lanes).filter fun y => y.1.addr == x.addr
        x.count = mine.length ∧ x.quads = mine.map (·.2.1) ∧
        (op = .add → ty = .i32 ∨ ty = .i64 ∨ ty = .n64 ∨ ty = .fx128 →
          x.value = (mine.map fun y => ((u.quadOf g y.2.1).lane y.2.2).read o.vc.toNat regs).sum % 2 ^ (8 * ty.width))
    adds (.vaccAdd o ty m) .add ∧ adds (.vaccMin o ty m) .min ∧ adds (.vaccMax o ty m) .max ∧
    (LaneReady s g o [] → (∀ n ∈ g.quads, ∀ d ∈ (s.quadOf g n).deferred, d.isDrain = false) →
      s.waveFaults g = [] → (s.leader g).drainSt = .idle →
      (s.needsDrain g.t = false → Completes (.rflush o) s g fun _ q => q.advance 3) ∧
      (s.needsDrain g.t = true → exec (.rflush o) s = .next (s.startDrain g)))

/-! ### Matrix and texture -/

/-- R276, R388 to R394: `mma` and `mmas`, in a kernel whose waves are wide enough and where every span keeps
the operand limits of its own family; and `vspk`. The instruction is outstanding in each quad with the
rows of its active lanes (below), computed from the registers as they stand. A span
that breaks a limit is an illegal operand, and a sparse row whose metadata does not ascend traps.
R389, R385: the elements of a dense matrix product. A quad's rows are those of its active lanes, and each
has sixteen elements; the element of column j has the row's A, the B of position j of the span, and the
old element. Integer families add every product and wrap in 32 bits; f64 and f32 add the products one by
one, each with one rounding. -/
def Obligations.MatrixIssue : Prop :=
  (∀ (s : State) (g : GangRef) (o : LaneOp) (reuse scl : Bool) (vm : BitVec 10) (f : Family)
     (flag : Option (BitVec 4)) (ty : ElemTy),
     s.leaderFamily = some f → laneFlag (s.leader g).clause o.flag = some flag → flagFull s g flag = false →
     let spans := (List.range (2 ^ g.lg / 4)).map fun i => g.base + 4 * i
     let mat (i : Instr) (x : MatForm) : Prop :=
       LaneReady s g o (x.opnds o f) →
       let cost := (if x.sparse.isSome then 2 else 4) * spans.length
       (2 ≤ (s.teamOf g).kernel.lgwave → (∀ b ∈ spans, (spanFamily s g x o b).isSome = true) →
         (badRows s g x o = [] →
           ∃ t, t = { s with cores := t.cores, nextId := s.nextId + 1
                             stalls := addStall s.clk (s.coreOf g) (s.ctxOf g) 12 cost s.stalls } ∧
             (∀ c, t.core c = { s.core c with quarters := (t.core c).quarters }) ∧
             CompletesFrom i s g t fun n q =>
               ({ q with stamp := q.stamp.map fun y => { y with mmBusy := y.mmBusy + cost } } : Quad).sendsOff 3
                 { id := s.nextId, flag := flag, writes := (s.matQuad g x o n).writes, loads := [], blends := []
                   faults := [], walks := [], requests := [], poll := none }) ∧
         (∀ n i' k rest, badRows s g x o = (n, i', k) :: rest →
           exec i s = .next (s.trap g .sparseMeta (BitVec.ofNat 64 k)
             (fun m => (badRows s g x o).foldl (fun r y => if y.1 = m then r ||| 1#4 <<< y.2.1 else r) 0) 0))) ∧
       (∀ b ∈ spans, spanFamily s g x o b = none →
         exec i s = .next (s.trap g .illegalOperand (s.leader g).pc (fun _ => 0xF) 0))
     mat (.mma o reuse scl) { sparse := none, reuse := reuse, scl := scl } ∧
     mat (.mmas o reuse scl vm) { sparse := some vm, reuse := reuse, scl := scl } ∧
     (LaneReady s g o [.v o.va 8 4, .v o.vd 4 4, .v o.vc 2 2] →
       Completes (.vspk o ty) s g fun _ q => (q.eachLane o fun _ l => spkLane ty o l).advance 3)) ∧
  ((∀ (s : State) (g : GangRef) (x : MatForm) (o : LaneOp) (n : Nat) (f : Family),
     let b := n / 4 * 4
     let lane (p : Nat) : Lane := (s.quadOf g (b + p / 4)).lane (p % 4)
     let k := regsOf f.acc
     spanFamily s g x o b = some (some f) → x.sparse = none → x.scl = false →
     (s.matQuad g x o n).writes =
       ((List.range 4).filter fun i => (s.quadOf g (b + n % 4)).active o i).flatMap fun i =>
         (List.range 16).flatMap fun j => (List.range k).map fun r =>
           .v i (o.vd.toNat + k * j + r) (BitVec.ofNat 32
             (matElem f ((lane (4 * (n % 4) + i)).read (o.vd.toNat + k * j) k)
               ((lane (4 * (n % 4) + i)).read o.va.toNat (f.aRegs false)) ((lane j).read o.vb.toNat f.bRegs)
               none none none / 2 ^ (32 * r)))) ∧
   (∀ (f : Family) (fmt : BitVec 13) (c : BitVec 32) (a b : Nat), familyOf fmt = some f → f.sum = .integer →
     let int (v e : Nat) : Int := (BitVec.ofNat f.ta.bits (v / 2 ^ (f.ta.bits * e))).toInt
     matElem f c.toNat a b none none none =
       (BitVec.ofInt 32 (c.toInt + ((List.range f.k).map fun e => int a e * int b e).sum)).toNat) ∧
   (∀ (f : Family) (fmt : BitVec 13) (c a b : Nat), familyOf fmt = some f → f.sum = .chain →
     let el (v e : Nat) : Nat := v / 2 ^ (f.ta.bits * e) % 2 ^ f.ta.bits
     (f.ta = .f64 ∧ f.k = 2 ∨ f.ta = .f32 ∧ f.k = 4) ∧
     matElem f c a b none none none = (List.range f.k).foldl (fun c e =>
       ({ ty := f.ta, rnd := .rne, r := 0, ftz := false } : FpMode).fma (el a e) (el b e) c) c))

/-- R276, R396 to R400: the texture instructions, where every descriptor is well formed, and every texel passes
its checks and lies in scratchpad or in memory of this device that is not poisoned. Each quad's outstanding
instruction holds the bytes of its texels in order, and the blends and numbers its lanes make of them. That the texels are
the bytes read at issue is the model's reading (notes/assumptions/6.md), as are the single rounding of a trilinear sample
and the four texels of a gather (notes/assumptions/40.md).
R396, R397: texture addressing. A wrapped coordinate lies in the level; a point sample is a texel of level 0;
the four weights of a bilinear sample sum to 65,536, and its texels are texels of the level. -/
def Obligations.TextureIssue : Prop :=
  (∀ (s s0 s1 s2 : State) (g : GangRef) (o : LaneOp) (flag : Option (BitVec 4)) (ds : List (Nat × TexDesc))
     (locs : List Loc),
     laneFlag (s.leader g).clause o.flag = some flag → flagFull s g flag = false →
     let live := g.quads.filter fun n => !(s.quadOf g n).exited
     let qs := live.filter fun n => (List.range 4).any fun i => (s.quadOf g n).active o i
     descAll g o qs s = (s0, ds.map fun x => (x.1, .ok x.2)) → s1 = s0.dropFetched g →
     let u (l : Lane) : Code := l.rv o.va.toNat
     let v (l : Lane) : Code := l.rv (o.va.toNat + 1)
     let w (l : Lane) : Code := l.rv (o.va.toNat + 2)
     let tex (i : Instr) (srcs dsts : Nat) (plan : TexDesc → Lane → TexPlan) : Prop :=
       LaneReady s g o [.v o.vd dsts 1, .v o.va srcs 1, .s o.vb] →
       let plans := ds.flatMap fun x =>
         ((List.range 4).filter fun i => (s1.quadOf g x.1).active o i).map fun i =>
           (x.1, i, x.2, plan x.2 ((s1.quadOf g x.1).lane i))
       let asks : List Ask := plans.flatMap fun x => x.2.2.2.texels.map fun va =>
         { quad := x.1, lanes := 1#4 <<< x.2.1, addr := va, len := texelBytes x.2.2.1.fmt, align := 1, need := .read
           spad := false }
       checkAsks s1 g asks = (s2, locs, []) → PlainPlaces s2 locs →
       let pend (n : Nat) : Later :=
         ((plans.filter fun x => x.1 == n).foldl (fun (a : Later × Nat) x =>
           (a.1.takeTex o x.2.1 a.2 x.2.2.1 x.2.2.2, a.2 + x.2.2.2.texels.length))
           ({ Later.empty with
               loads := ((asks.zip locs).filter fun x => x.1.quad == n).map fun x =>
                 { dest := .held, bytes := seenAt s2 g x.1.len x.2, plus := 0, signed := false, dropped := false } },
             0)).1
       ∃ t, ReadOnly s2 t ∧ CompletesFrom i s g t fun n q => q.sendsOff 3 ((pend n).pend s2.nextId flag)
     tex (.texPoint o) 2 4 (fun d l => TexPlan.blend 1 [(1, d.point (u l) (v l))]) ∧
     tex (.texBilinear o) 2 4 (fun d l => TexPlan.blend 65536 (d.bilinear 0 (u l) (v l))) ∧
     tex (.texTrilinear o) 3 4 (fun d l =>
       let lam := (floorScaled 256 0 (d.levels - 1) (w l)).toNat
       TexPlan.blend (256 * 65536)
         (((d.bilinear (lam / 256) (u l) (v l)).map fun t => ((256 - lam % 256) * t.1, t.2)) ++
           (d.bilinear (min (lam / 256 + 1) (d.levels - 1)) (u l) (v l)).map fun t => (lam % 256 * t.1, t.2))) ∧
     tex (.texGather o) 2 4 (fun d l =>
       { texels := (d.bilinear 0 (u l) (v l)).map (·.2), outs := (List.range 4).map fun i => (0, 1, [(1, i)])
         ints := [] }) ∧
     tex (.texf o) 3 4 (fun d l =>
       if (w l).toNat < d.levels ∧ 0 ≤ (u l).toInt ∧ (u l).toInt < d.wid (w l).toNat ∧ 0 ≤ (v l).toInt ∧
           (v l).toInt < d.hei (w l).toNat then
         TexPlan.blend 1 [(1, d.texel (w l).toNat (u l).toInt.toNat (v l).toInt.toNat)]
       else { texels := [], outs := (List.range 4).map fun c => (c, 1, []), ints := [] }) ∧
     tex (.texsz o) 1 2 (fun d l =>
       { texels := [], outs := []
         ints := if (u l).toNat < d.levels then [d.wid (u l).toNat, d.hei (u l).toNat] else [0, 0] })) ∧
  ((∀ (mode w : Nat) (x : Int), 1 ≤ w → wrapCoord mode w x < w) ∧
   (∀ (w : Nat) (x : Int), 1 ≤ w →
     (wrapCoord 0 w x : Int) = x % w ∧
     (0 ≤ x → x < w → wrapCoord 0 w x = x.toNat ∧ wrapCoord 1 w x = x.toNat ∧ wrapCoord 2 w x = x.toNat) ∧
     (x < 0 → wrapCoord 1 w x = 0) ∧ ((w : Int) ≤ x → wrapCoord 1 w x = w - 1) ∧
     wrapCoord 2 w (-1 - x) = wrapCoord 2 w x ∧ wrapCoord 2 w (x + 2 * w) = wrapCoord 2 w x) ∧
   (∀ (bs : List Byte) (d : TexDesc), texDescOf bs = some d →
     1 ≤ d.w ∧ d.w ≤ 16384 ∧ 1 ≤ d.h ∧ d.h ≤ 16384 ∧ 1 ≤ d.levels ∧ d.levels ≤ 15 ∧ d.fmt ≤ 5 ∧ d.wrapX < 3 ∧
     d.wrapY < 3 ∧ d.pitch % 16 = 0 ∧ d.w * texelBytes d.fmt ≤ d.pitch) ∧
   (∀ (d : TexDesc) (n x y : Nat), d.texel n x y =
     d.base + BitVec.ofNat 64
       (((List.range n).map fun m => (if m = 0 then d.pitch else (d.wid m * texelBytes d.fmt + 15) / 16 * 16) * d.hei m).sum
         + y * (if n = 0 then d.pitch else (d.wid n * texelBytes d.fmt + 15) / 16 * 16) + x * texelBytes d.fmt)) ∧
   ∀ (d : TexDesc) (n : Nat) (u v : Code), 1 ≤ d.w → 1 ≤ d.h →
     (∃ x y, x < d.w ∧ y < d.h ∧ d.point u v = d.texel 0 x y) ∧
     ((d.bilinear n u v).map (·.1)).sum = 65536 ∧ (d.bilinear n u v).length = 4 ∧
     ∀ t ∈ d.bilinear n u v, ∃ x y, x < d.wid n ∧ y < d.hei n ∧ t.2 = d.texel n x y)
/-! ### Walks -/

/-- R229, R232, R276, R395: `wstart` and `wresume`, where no lane's checks fail. With room for a walk per
active lane, the records are claimed one after another in ascending order, and the instruction is
outstanding in each quad, with the walks it waits for and the refused lanes' status. With no room the gang
stalls; while a record in a Sector window has not come, it waits (its request leaves by R438; that the gang waits for it
is the model's reading, notes/assumptions/28.md). A lane that fails a check takes the trap for
the instruction, and no record is claimed.
R225, R226, R227: one claim, of a record in this device's memory whose lines the core does not hold. `wstart` claims a
record that is idle or done, `wresume` one that is yielded, faulted or interrupted; the record then is running, with its
depth and its owner, where the write makes no counter word fall, and no other byte of memory changes. A
record in any other state is refused with its lane's status, and stays as it is. -/
def Obligations.WalksBegin : Prop :=
  (∀ (s s1 w x : State) (g : GangRef) (o : LaneOp) (flag : Option (BitVec 4)) (ok : List WalkLane)
     (l : List (Nat × Nat ⊕ Nat × RegWrite)),
     LaneReady s g o [.v o.va 2 2, .v o.vd 5 1] → laneFlag (s.leader g).clause o.flag = some flag →
     flagFull s g flag = false →
     let live := g.quads.filter fun n => !(s.quadOf g n).exited
     let lanes := live.flatMap fun n => ((List.range 4).filter fun i => (s.quadOf g n).active o i).map fun i => (n, i)
     let walks (i : Instr) (start : Bool) : Prop :=
       (walkChecks g o start lanes s = (s1, { passed := ok, failed := [], waits := false }) →
         let room := (s1.core (s1.coreOf g)).walks.length + ok.length
         (room ≤ 256 → s1.orderAll (s1.ctxOf g) (ok.filterMap (claimOrder s1 g)) = .ok w →
           claimAll g o start w.nextId ok (w.dropFetched g).bumpId = (x, l) →
           CompletesFrom i s g x fun n q => q.sendsOff 3
             { id := w.nextId, flag := flag, loads := [], blends := [], faults := [], requests := [], poll := none
               walks := (l.filterMap Sum.getLeft?).filterMap fun y => if y.1 = n then some y.2 else none
               writes := (l.filterMap Sum.getRight?).filterMap fun y => if y.1 = n then some y.2 else none }) ∧
         (256 < room → exec i s = .next (s1.hold g .structural))) ∧
       (∀ y, walkChecks g o start lanes s = (s1, y) → y.waits = true → exec i s = .next (s1.awaitFetch g)) ∧
       (∀ n k f rest, walkChecks g o start lanes s =
           (s1, { passed := ok, failed := (n, k, f) :: rest, waits := false }) →
         exec i s = .next (s1.memTrap g f
           (fun m => ((n, k, f) :: rest).foldl (fun r y => if y.1 = m then r ||| 1#4 <<< y.2.1 else r) 0) 0))
     walks (.wstart o) true ∧ walks (.wresume o) false) ∧
  (∀ (s : State) (g : GangRef) (o : LaneOp) (start : Bool) (pend pa : Nat) (y : WalkLane), y.pa = some pa →
     (s.core (s.coreOf g)).heldLine (s.ctxOf g) ((y.va + 128).toNat / 128) = none → s.mem.wf = true →
     let ctl := (s.word (pa + 160)).toNat
     let st := ctl / 2 ^ 16 % 16
     let may := if start then st = 0 ∨ st = 5 else st = 2 ∨ st = 3 ∨ st = 4
     let depth := if start then y.depth else ctl / 2 ^ 12 % 16
     let owner := (4 * y.quad + y.lane) * 2 ^ 37 + (s.waveOf g).wid * 2 ^ 32 + (s.teamOf g).teamid.toNat
     let bytes := leBytes 4 (s.teamOf g).gridid.toNat ++
       leBytes 8 (ctl / 2 ^ 20 * 2 ^ 20 + 2 ^ 16 + depth * 2 ^ 12 + ctl % 2 ^ 12) ++ leBytes 8 owner
     let r := claimRecord s g o start pend y
     (¬may → r.2 = none ∧ r.1.mem = s.mem ∧ r.1.teams = s.teams ∧
       (r.1.core (s.coreOf g)).walks = (s.core (s.coreOf g)).walks ∧
       (claimAll g o start pend [y] s).2 = [.inr (y.quad, .v y.lane o.vd.toNat 0x206)]) ∧
     (may → (∀ a ∈ wordsIn (pa + 156) 20, s.word a ≤ (s.rawWrite (s.ctxOf g) (pa + 156) bytes).word a) →
       (∀ a, r.1.mem.get a = if pa + 156 ≤ a ∧ a < pa + 176 then bytes.getD (a - (pa + 156)) 0
         else s.mem.get a) ∧
       ∃ w, r.2 = some w ∧ w.record = y.va ∧ w.ctx = s.ctxOf g ∧ w.team = g.t ∧ w.wave = g.w ∧ w.quad = y.quad ∧
         w.lane = y.lane ∧ w.pend = pend ∧ w.vd = o.vd.toNat ∧ w.active = false ∧ w.steps = 0 ∧ w.stack = [] ∧
         (s.coreOf g < 288 → (r.1.core (s.coreOf g)).walks = (s.core (s.coreOf g)).walks ++ [w]) ∧
         (claimAll g o start pend [y] s).2 = [.inl (y.quad, w.id)]))

/-- R224, R401, R402: the walk operations that read and write registers, and the jumps. The walk's register is
written, wpc goes to the next word, or to the jump's, and nothing else of the machine changes but the
walk's own counts; a walk at word 255 whose operation does not jump faults. -/
def Obligations.WalkRegisters : Prop :=
  ∀ (s : State) (core id : Nat) (w : Walk) (d a b : WReg) (imm : BitVec 17) (n : BitVec 6) (cc : WalkCond)
    (l : BitVec 8), s.cur = .walk core id → s.walk? core id = some w →
    let at_ (x : Walk) (pc : Nat) : State :=
      (s.setWalk core { x.put 160 1 pc with fetched := [], logged := [], steps := w.steps + 1 }).stall core w.ctx 11 1
    let on (i : Instr) (x : Walk) : Prop :=
      (w.wpc ≠ 255 → exec i s = .next (at_ x (w.wpc + 1))) ∧
      (w.wpc = 255 → s.walkBusy w = false →
        exec i s = .next (s.faultWalk core w { cause := 0x12, addr := 0, code := none }))
    let sets (i : Instr) (v : Word) : Prop := on i { w with regs := w.regs.set d.toNat v d.isLt }
    let x := w.reg a
    let y := w.reg b
    let test : Prop :=
      match cc with
      | .eq => x = y
      | .ne => x ≠ y
      | .ltN => x.toNat < y.toNat
      | .geN => y.toNat ≤ x.toNat
      | .ltI => x.toInt < y.toInt
      | .geI => y.toInt ≤ x.toInt
    sets (.walkAdd d a b) (x + y) ∧ sets (.walkAddi d a imm) (x + imm.signExtend 64) ∧ sets (.walkSub d a b) (x - y) ∧
    sets (.walkAnd d a b) (x &&& y) ∧ sets (.walkShl d a n) (x <<< n.toNat) ∧ sets (.walkShr d a n) (x >>> n.toNat) ∧
    sets (.walkMovi d imm) (imm.signExtend 64) ∧
    (test → sets (.walkCmp d a b cc) 1) ∧ (¬test → sets (.walkCmp d a b cc) 0) ∧
    exec (.walkJmp l) s = .next (at_ w l.toNat) ∧
    (x = 0 → exec (.walkJz a l) s = .next (at_ w l.toNat) ∧ on (.walkJnz a l) w) ∧
    (x ≠ 0 → on (.walkJz a l) w ∧ exec (.walkJnz a l) s = .next (at_ w l.toNat)) ∧
    ∀ t, (∃ v, t = (s.setWalk core v).stall core w.ctx 11 1) →
      t = { s with cores := t.cores, stalls := addStall s.clk core w.ctx 11 1 s.stalls } ∧ (∀ c, c ≠ core → t.core c = s.core c) ∧
      t.core core = { s.core core with walks := (t.core core).walks }

/-- R220, R223, R402 to R406: the walk operations that read the record and its node. In each the walk goes on
to the next word; at word 255, which has none, it faults with cause 0x12 and has no effect. `fetch` reads a node that is
not malformed; `push` and `pop` use the sixteen entries that
the engine holds and the overflow area below them. An operation whose node, child, triangle, byte range, value or tile
size is not there faults with cause 0x12, a misaligned or malformed node with 0x11, and a full stack with 0x10.
R404: the hits of `box4` are the children that the ray meets, at the entry of each, and its result is their mask, their
order and their count. R405: a triangle is hit where the ray's point at t is the point of the triangle at (u, v). R406: a tile
is kept where each edge alone covers a sample of it. -/
def Obligations.WalkNodes : Prop :=
  (∀ (s u : State) (core id : Nat) (w : Walk) (d a b : WReg) (sx : Bool) (n : BitVec 2) (off : BitVec 8)
    (lg : BitVec 3) (bs : List Byte), s.cur = .walk core id → s.walk? core id = some w →
    let faults (cause : Nat) (i : Instr) : Prop := s.walkBusy w = false →
      exec i s = .next (s.faultWalk core w { cause := cause, addr := 0, code := none })
    let on (i : Instr) (v : State) (x : Walk) : Prop :=
      (w.wpc ≠ 255 → exec i s = .next ((v.setWalk core
        { x.put 160 1 (w.wpc + 1) with fetched := [], logged := [], steps := w.steps + 1 }).stall core w.ctx 11 1)) ∧
      (w.wpc = 255 → faults 0x12 i)
    let set (r : WReg) (v : Word) (x : Walk) : Walk := { x with regs := x.regs.set r.toNat v r.isLt }
    let i := (w.reg a).toNat
    let lay := w.layout
    let kind := field bs lay.kindoff 1
    let reads (v : State) (va : Word) (k : Nat) (bs : List Byte) : Prop :=
      touchesWindow va k = false ∧ engRead s s (w.eng core) w.fetched (readKey va) va k = (v, .bytes bs)
    (∀ bs', (w.reg a).toNat % 16 = 0 → reads u (w.reg a) lay.nodeBytes bs' → lay.malformed bs' = false →
      on (.walkFetch a) u ({ w with buffer := some bs' }.put 120 8 i)) ∧
    ((w.reg a).toNat % 16 ≠ 0 → faults 0x11 (.walkFetch a)) ∧
    (∀ bs', reads u (w.reg a) lay.nodeBytes bs' → lay.malformed bs' = true → faults 0x11 (.walkFetch a)) ∧
    (w.buffer = none →
      faults 0x12 (.walkFld d sx n off) ∧ faults 0x12 (.walkChild d a) ∧ faults 0x12 (.walkBox4 d a) ∧
      faults 0x12 (.walkTri d a b)) ∧
    (w.buffer = some bs →
      (lay.nodeBytes < off.toNat + 2 ^ n.toNat → faults 0x12 (.walkFld d sx n off)) ∧
      (kind % 16 ≤ i → faults 0x12 (.walkChild d a) ∧ faults 0x12 (.walkBox4 d a)) ∧
      (kind % 16 ≠ 0 ∨ kind / 16 ≤ i → faults 0x12 (.walkTri d a b)) ∧
      (off.toNat + 2 ^ n.toNat ≤ lay.nodeBytes → on (.walkFld d sx n off) s (set d
        (let v := BitVec.ofNat (8 * 2 ^ n.toNat) (field bs off.toNat (2 ^ n.toNat))
         if sx then v.signExtend 64 else v.zeroExtend 64) w)) ∧
      (i < kind % 16 →
        (lay.cpenc = 0 → on (.walkChild d a) s (set d (field64 bs (lay.cpoff + 8 * i)) w)) ∧
        (lay.cpenc = 1 → on (.walkChild d a) s (set d
          (w.w64 120 + (field32 bs (lay.cpoff + 4 * i)).signExtend 64 * 16) w)) ∧
        (lay.cpenc = 2 → on (.walkChild d a) s (set d
          (lay.base + (field32 bs (lay.cpoff + 4 * i)).zeroExtend 64 * BitVec.ofNat 64 lay.nodeBytes) w)) ∧
        on (.walkBox4 d a) s (set d (BitVec.ofNat 64 (boxResult (boxHits w bs i))) w)) ∧
      (kind % 16 = 0 → i < kind / 16 →
        (lay.leafenc = 0 → on (.walkTri d a b) s (triResult w d b ((bs.drop (lay.leafoff + 40 * i)).take 40))) ∧
        (lay.leafenc ≠ 0 → ∀ bs', reads u (lay.base + BitVec.ofNat 64 (40 * field bs (lay.leafoff + 4 * i) 4)) 40 bs' →
          on (.walkTri d a b) u (triResult w d b bs')))) ∧
    (w.w32 136 ≤ w.sp → faults 0x10 (.walkPush a)) ∧ (w.sp = 0 → faults 0x12 (.walkPop d)) ∧
    (w.sp < w.w32 136 →
      let up : Walk := w.put 140 4 (w.sp + 1)
      (w.stack.length < 16 → on (.walkPush a) s { up with stack := w.reg a :: w.stack }) ∧
      (16 ≤ w.stack.length →
        walkWrite s (w.eng core) (w.slot w.spilled) (leBytes 8 (w.stack.getD 15 0).toNat) = (u, none) →
        on (.walkPush a) u { up with stack := w.reg a :: w.stack.take 15 })) ∧
    (0 < w.sp →
      let down : Walk := w.put 140 4 (w.sp - 1)
      (∀ x xs, w.stack = x :: xs →
        (w.spilled = 0 → on (.walkPop d) s (set d x { down with stack := xs })) ∧
        (∀ bs', 0 < w.spilled → reads u (w.slot (w.spilled - 1)) 8 bs' →
          on (.walkPop d) u (set d x { down with stack := xs ++ [field64 bs' 0] }))) ∧
      (∀ bs', w.stack = [] → reads u (w.slot (w.sp - 1)) 8 bs' → on (.walkPop d) u (set d (field64 bs' 0) down))) ∧
    (let x := (w.reg a).toNat
     let y := (w.reg b).toNat
     (finiteNonNeg (x % 2 ^ 32) = false → faults 0x12 (.walkCommit a b)) ∧
     (finiteNonNeg (x % 2 ^ 32) = true → on (.walkCommit a b) s
       ((((((w.put 28 4 (x % 2 ^ 32)).put 32 4 (x % 2 ^ 32)).put 36 4 (x / 2 ^ 32)).put 40 4 (y % 2 ^ 31)).put 44 4
         (y / 2 ^ 32)).put 163 1 (w.w32 160 / 2 ^ 24 % 16 + 16 + (if y / 2 ^ 31 % 2 = 1 then 32 else 0))))) ∧
    (lg.toNat = 0 ∨ lg.toNat = 7 → faults 0x12 (.walkEdge3 d a lg)) ∧
    (1 ≤ lg.toNat → lg.toNat ≤ 6 → on (.walkEdge3 d a lg) s (set d
      (if tileKept w.bytes (slice (w.reg a) 15 0) (slice (w.reg a) 31 16) (2 ^ lg.toNat) then 1 else 0) w))) ∧
  (∀ (w : Walk) (bs : List Byte) (i : Nat),
    let hits := boxHits w bs i
    let kids := field bs w.layout.kindoff 1 % 16
    (∀ t x, (t, x) ∈ hits ↔ t < 4 ∧ i + t < kids ∧ ∃ r b, rayOf w.bytes = some r ∧
      w.layout.boxOf bs (i + t) = some b ∧ r.entry b = some x) ∧
    (∀ t < 4, (boxResult hits).testBit t = hits.any fun y => y.1 == t) ∧
    boxResult hits / 2 ^ 12 = hits.length ∧
    (∀ k < hits.length, ∃ x, (boxResult hits / 2 ^ (2 * k + 4) % 4, x) ∈ hits ∧
      ∀ k' < k, ∃ x', (boxResult hits / 2 ^ (2 * k' + 4) % 4, x') ∈ hits ∧ x'.le x = true ∧
        (x.le x' = true → boxResult hits / 2 ^ (2 * k' + 4) % 4 < boxResult hits / 2 ^ (2 * k + 4) % 4)) ∧
    (∀ c, w.layout.boxenc = 0 → ∀ b, w.layout.boxOf bs c = some b ↔
      vec3At bs (w.layout.boxoff + 24 * c) = some b.lo ∧ vec3At bs (w.layout.boxoff + 24 * c + 12) = some b.hi)) ∧
  (∀ (bs : List Byte) (r : Ray), rayOf bs = some r ↔
    vec3At bs 0 = some r.origin ∧ vec3At bs 16 = some r.dir ∧ f32Ext (field bs 12 4) = some r.tmin ∧
      f32Ext (field bs 28 4) = some r.tmax) ∧
  (∀ (bs : List Byte) (off : Nat) (v : Vec3), vec3At bs off = some v ↔
    f32Fixed (field bs off 4) = some v.x ∧ f32Fixed (field bs (off + 4) 4) = some v.y ∧
      f32Fixed (field bs (off + 8) 4) = some v.z) ∧
  (∀ (r : Ray) (b : Box), r.tmin.den ≠ 0 → r.tmax.den ≠ 0 ∨ 0 < r.tmax.num →
    (∀ x, r.entry b = some x → x.den ≠ 0 ∧ r.meets b x.val ∧ ∀ t, r.meets b t → x.val ≤ t) ∧
    (r.entry b = none → ∀ t, ¬ r.meets b t)) ∧
  (∀ (r : Ray) (bs : List Byte) (v0 v1 v2 : Vec3), vec3At bs 0 = some v0 → vec3At bs 12 = some v1 →
    vec3At bs 24 = some v2 → r.tmin.den ≠ 0 → r.tmax.den ≠ 0 ∨ 0 < r.tmax.num →
    let det := (v1.sub v0).dot (r.dir.cross (v2.sub v0))
    (∀ h, r.triangle bs = some h → det ≠ 0 ∧ h.back = decide (det < 0) ∧ ∃ t u v : Ext,
      t.den ≠ 0 ∧ u.den ≠ 0 ∧ v.den ≠ 0 ∧ h.t = t.round ∧ h.u = u.round ∧ h.v = v.round ∧
      r.strikes v0 v1 v2 t.val u.val v.val) ∧
    (r.triangle bs = none → det = 0 ∨ ∀ t u v, ¬ r.strikes v0 v1 v2 t u v)) ∧
  (∀ (w : Walk) (d b : WReg) (bs : List Byte),
    let set (r : WReg) (v : Nat) (x : Walk) : Walk := { x with regs := x.regs.set r.toNat (BitVec.ofNat 64 v) r.isLt }
    ((rayOf w.bytes).bind (fun r => r.triangle bs) = none → triResult w d b bs = set d (2 ^ 64 - 1) w) ∧
    ∀ r h, rayOf w.bytes = some r → r.triangle bs = some h → triResult w d b bs =
      set b (h.v * 2 ^ 32 + (if h.back then 2 ^ 31 else 0) + h.u) (set d (field bs 36 4 * 2 ^ 32 + h.t) w)) ∧
  ∀ (bs : List Byte) (x y n : Nat), 1 ≤ n →
    (tileKept bs x y n = true ↔ ∀ off ∈ [0, 12, 24], ∃ i < n, ∃ j < n, (planeAt bs off).covers (x + i) (y + j) = true)

/-- R141, R224, R227, R235, R239, R240, R395, R407: the operations that emit coverage, and the ends of a walk. A ring that no
`kset` has loaded or that has no claim word ends the walk with cause 0x12, as odd coordinates do; so does, by the model's
choice, a ring whose slots are below 32 bytes (notes/assumptions/38.md). An uncovered
quad emits nothing and the walk goes on; a covered one claims an index, which the record keeps, writes its slot once that is
free, and is published in its turn; or it leaves as accumulates, while the core has room for them. `done` and `yield`
write the record and hand the owner lane its results, with the failure's cause where the write fails; that an end waits
for what the walk has outstanding is the model's reading (`State.walkBusy`, notes/assumptions/38.md). A walk that has executed
its last operation faults with cause 0x13. -/
def Obligations.WalkEmitsAndEnds : Prop :=
  (∀ (s : State) (core id : Nat), (s.walk? core id = none → exec (.walkStepLimit core id) s = .next s) ∧
    ∀ w, s.walk? core id = some w →
      (1048576 ≤ w.steps → w.active = true → s.walkBusy w = false → exec (.walkStepLimit core id) s = .next
        (s.faultWalk core w { cause := 0x13, addr := 0, code := none })) ∧
      (w.steps < 1048576 ∨ w.active = false ∨ s.walkBusy w = true → exec (.walkStepLimit core id) s = .next s)) ∧
  (∀ (w : Walk) (st cause : Nat), w.results st cause =
    [.v w.lane w.vd (BitVec.ofNat 32 (st + 16 * cause)), .v w.lane (w.vd + 1) (BitVec.ofNat 32 (w.w32 32)),
      .v w.lane (w.vd + 2) (BitVec.ofNat 32 (w.w32 36)), .v w.lane (w.vd + 3) (BitVec.ofNat 32 (w.w32 40)),
      .v w.lane (w.vd + 4) (BitVec.ofNat 32 (w.w32 44))]) ∧
  ∀ (s u v t : State) (core id : Nat) (w : Walk) (a : WReg) (n : BitVec 4) (r : Ring) (i : Word) (loc : Loc)
    (ps : List (Word × Nat × List (Nat × Nat × Word × TlbEntry))),
    s.cur = .walk core id → s.walk? core id = some w →
    let e := w.eng core
    let x := slice (w.reg a) 15 0
    let y := slice (w.reg a) 31 16
    let zs := quadDepths w.bytes x y
    let on (i : Instr) (v : State) (x : Walk) : Prop :=
      exec i s = .next ((v.setWalk core
        { x.put 160 1 (w.wpc + 1) with fetched := [], logged := [], steps := w.steps + 1 }).stall core w.ctx 11 1)
    let faults (i : Instr) : Prop := s.walkBusy w = false →
      exec i s = .next (s.faultWalk core w { cause := 0x12, addr := 0, code := none })
    (x % 2 ≠ 0 ∨ y % 2 ≠ 0 ∨ w.wpc = 255 → faults (.walkEmitRing a n) ∧ faults (.walkEmitVis a)) ∧
    (w.wpc ≠ 255 → x % 2 = 0 → y % 2 = 0 →
      ((s.team w.team).ring n.toNat = none → faults (.walkEmitRing a n)) ∧
      (∀ r', (s.team w.team).ring n.toNat = some r' → r'.claim = 0 ∨ r'.bytes < 32 → faults (.walkEmitRing a n)) ∧
      ((s.team w.team).ring n.toNat = some r → r.claim ≠ 0 → 32 ≤ r.bytes →
        (coverage zs = 0 → on (.walkEmitRing a n) s w) ∧
        (coverage zs ≠ 0 → w.claim = none → engLocate s e r.claim 8 8 .store = (u, .ok loc) → u.poisonAt loc = false →
          loc.sector = none → v = u.engFlush e loc → v.orderAll e.ctx (e.counterOps v loc) = .ok t →
          exec (.walkEmitRing a n) s =
            .next ((t.engSetCounter e (e.counter v loc + 1) loc).setWalk core (w.put 192 8 (e.counter v loc).toNat))) ∧
        (∀ loc' t', coverage zs ≠ 0 → w.claim = some i → w.marked slotMark = false →
          engLocate s e r.freed 8 8 .counterGet = (u, .ok loc) → u.poisonAt loc = false →
          fetchedAt w.fetched freeKey 0 ≠ some none →
          let y' := engWait u e w.logged w.fetched freeKey r.freed (i.toNat + 1 - 2 ^ r.lgslots)
          y'.finished = true →
          engLocate y'.s e (r.base + BitVec.ofNat 64 (r.bytes * (i.toNat % 2 ^ r.lgslots))) 32 1 .store =
            (v, .ok (.mem loc')) → poisonedPart v loc' = none →
          engWrite v e (r.base + BitVec.ofNat 64 (r.bytes * (i.toNat % 2 ^ r.lgslots)))
            (coverageEntry x y (slice (w.regs[4]) 31 0) zs) = (t', none) →
          exec (.walkEmitRing a n) s = .next (t'.setWalk core (w.mark slotMark))) ∧
        (coverage zs ≠ 0 → w.claim = some i → w.marked slotMark = true →
          engLocate s e r.filled 8 8 .counterAdd = (u, .ok loc) → u.poisonAt loc = false →
          (w.marked turnMark = false → fetchedAt w.fetched fillKey 0 ≠ some none →
            let y' := engWait u e w.logged w.fetched fillKey r.filled i.toNat
            y'.finished = true → exec (.walkEmitRing a n) s = .next (y'.s.setWalk core (w.mark turnMark))) ∧
          (w.marked turnMark = true → fetchedAt w.fetched awaitKey 0 = none → u.engAsked e awaitKey = false →
            loc.sector = none →
            let y' := engAddAs u e w.logged awaitKey r.filled 1
            y'.finished = true → y'.s.engAsked e awaitKey = false →
            on (.walkEmitRing a n) y'.s (w.put 192 8 (2 ^ 64 - 1))) ∧
          (∀ bs, w.marked turnMark = true → fetchedAt w.fetched awaitKey 0 = some (some bs) →
            on (.walkEmitRing a n) u (w.put 192 8 (2 ^ 64 - 1))))) ∧
      (visPlaces s e (visKeys w x y zs) = (u, .ok ps) →
        (u.outstanding core + ps.length ≤ 64 →
          on (.walkEmitVis a) (ps.foldl (fun s z => sendVis s e w z) u) w) ∧
        (64 < u.outstanding core + ps.length → exec (.walkEmitVis a) s = .next (u.setWalk core w)))) ∧
    (s.walkBusy w = false →
      (writeDone s e w = (u, none) → exec .walkDone s = .next ((u.landWalk core w 5 0).stall core w.ctx 11 1)) ∧
      (∀ f, writeDone s e w = (u, some f) →
        exec .walkDone s = .next (((u.logWalk e f).landWalk core w 3 f.cause).stall core w.ctx 11 1)) ∧
      (w.wpc = 255 → faults .walkYield) ∧
      (w.wpc ≠ 255 →
        let w' := w.put 160 1 (w.wpc + 1)
        (writeRecord s e w' 2 0 0 = (u, none) → exec .walkYield s =
          .next ((u.landWalk core w' 2 0).stall core w.ctx 11 1)) ∧
        ∀ f, writeRecord s e w' 2 0 0 = (u, some f) → exec .walkYield s =
          .next (((u.logWalk e f).landWalk core w' 3 f.cause).stall core w.ctx 11 1)))

/-! ### Events of waves and engines -/

/-- R103, R109, R110, R115, R118, R128, R130, R131, R143, R391, R421, R441: the events of waves. Each states the
condition on which the event acts and what it then does; without its condition it changes nothing. A timer acts once
every other event of its cycle has taken place (`State.cycleOver`), in a wave that is resident and not stopped. Which idle
gang gives up its slot, and how a pending gang enters a free one, is the model's choice (notes/assumptions/76.md); so is the
order of the events of one cycle (notes/assumptions/2.md). -/
def Obligations.WaveEvents : Prop :=
  ∀ (s : State) (g : GangRef) (quad core quarter : Nat), s.gang? g.t g.w g.base = some g →
    let k := (s.teamOf g).kernel
    let live := g.quads.filter fun n => !(s.quadOf g n).exited
    let each (f : Quad → Quad) : State := s.mapGang g fun _ q => f q
    -- miss-split
    (∀ mask since, (s.leader g).wait = .header mask true since →
      let clear (n : Nat) : Bool := (List.range 12).all fun i => !mask.getLsbD i || (s.quadOf g n).f.getD i 0 == 0
      let ready := live.filter clear
      let rest := live.filter fun n => !clear n
      (k.msplit = true → since + 16 ≤ s.clk → ready ≠ [] → rest ≠ [] →
        exec (.missSplit g.t g.w g.base) s = .next (s.replaceGangs g.t g.w g.quads
          (sortRuns (s.runsOf g.t g.w ready ++ s.runsOf g.t g.w rest)))) ∧
      (k.msplit = false ∨ s.clk < since + 16 ∨ ready = [] ∨ rest = [] →
        exec (.missSplit g.t g.w g.base) s = .next s)) ∧
    -- fuse timers
    ((∀ j since, ((s.joinTest g.t g.w).quadOf g g.base).wait ≠ .jwait j since) →
      exec (.fuseTimeout g.t g.w g.base) s = .next (s.joinTest g.t g.w)) ∧
    (∀ j since, let u := s.joinTest g.t g.w
      let q := u.quadOf g g.base
      q.wait = .jwait j since →
      let set := (u.waveOf g).arrived j q.pc
      let due : Prop := u.cycleOver = true ∧ u.timed g.t g.w = true ∧
        (u.waveOf g).jwaitSince j q.pc u.clk + (u.teamOf g).kernel.fusetmo ≤ u.clk
      (¬ due → exec (.fuseTimeout g.t g.w g.base) s = .next u) ∧
      (due →
        ∃ t, exec (.fuseTimeout g.t g.w g.base) s = .next t ∧
          (g.w < (u.teamOf g).waves.length → (t.waveOf g).fusest =
            if (u.waveOf g).fusest.toNat = 2 ^ 32 - 1 then (u.waveOf g).fusest else (u.waveOf g).fusest + 1) ∧
          ∀ n ∈ set, t.quadOf g n = (((({ u.quadOf g n with
            em := ((u.quadOf g n).join j.toNat).extractLsb' 4 4, wait := .ready } : Quad).setJoin j.toNat 0).advance 3).addTraps
              (if (u.teamOf g).kernel.fusetrap then [.fuse] else [])))) ∧
    (∀ w since, (s.leader g).wait = .fuse w since →
      let run := { g with base := g.base / 2 ^ w * 2 ^ w, lg := w }
      let bases := (s.waveOf g).gangs.filterMap fun y =>
        if run.quads.contains y.base && (s.quadOf g y.base).atFuse w (s.leader g).flow then some y.base else none
      let due : Prop := s.cycleOver = true ∧ s.timed g.t g.w = true ∧ fuseSince s g run.quads w + k.fusetmo ≤ s.clk
      (due → exec (.widthFault g.t g.w g.base) s = .next (bases.foldl (fun s b =>
          match s.gang? g.t g.w b with
          | some r => s.trap r .width 0 (fun _ => 0xF) 0
          | none => s) s)) ∧
      (¬ due → exec (.widthFault g.t g.w g.base) s = .next s)) ∧
    -- swaps, back-off, watchdog, A-latch
    (∀ inn, oldest (readyGangs s core quarter false) = some inn →
      (activeCount s core quarter < 8 → exec (.gangSwap core quarter) s = .next (s.setActive inn true (s.clk + 2))) ∧
      (8 ≤ activeCount s core quarter → ∀ out, oldest (idleGangs s core quarter) = some out →
        exec (.gangSwap core quarter) s = .next ((s.setActive out false 0).setActive inn true (s.clk + 2)))) ∧
    (oldest (readyGangs s core quarter false) = none → exec (.gangSwap core quarter) s = .next s) ∧
    exec (.yieldBackoffExpiry g.t g.w g.base) s = .next (each fun q =>
      { q with poll := q.poll.map fun p => if p.holding ∧ p.until_ ≤ s.clk then { p with holding := false } else p }) ∧
    (g.base ∈ (s.waveOf g).dog → exec (.watchdogExpiry g.t g.w g.base) s = .next
      ((s.modQuads g.t g.w (s.waveOf g).dog fun _ q => if q.exited then q else q.addTraps [.watchdog]).modWave g.t g.w
        fun w => { w with dog := [] })) ∧
    (g.base ∉ (s.waveOf g).dog → exec (.watchdogExpiry g.t g.w g.base) s = .next s) ∧
    (∃ t, exec (.aLatchIdleRelease core quarter) s = .next t ∧ t = { s with cores := t.cores } ∧
      (∀ c, t.core c = { s.core c with quarters := (t.core c).quarters }) ∧
      ∀ c i : Nat, (t.core c).quarters[i]? = ((s.core c).quarters[i]?).map fun y =>
        if c = core ∧ i = quarter ∧ y.latch.owner.isSome = true ∧ y.latch.lastUse + 1024 ≤ s.clk then
          { y with latch := { owner := none, entries := [], lastUse := 0 } } else y) ∧
    -- counter waits
    (∀ x, (s.quad g.t g.w quad).wait = .counter x →
      let expired (y : CWait) : Prop := y.timeout ≠ 0 ∧ y.timeout.toNat ≤ y.elapsed ∧ y.status = none
      (x.status.isSome = true → exec (.counterWatchNotify g.t g.w quad) s = .next (s.resumeWaits g.t g.w x.tag)) ∧
      (x.status = none → exec (.counterWatchNotify g.t g.w quad) s = .next s) ∧
      (s.cycleOver = true → expired x → x.request = none → ∃ u : State, exec (.counterWaitTimeout g.t g.w quad) s = .next (u.resumeWaits g.t g.w x.tag) ∧
        u = { s with teams := u.teams } ∧ (u.quad g.t g.w quad).wait = .counter { x with status := some 1 } ∧
        ∀ n y, (s.quad g.t g.w n).wait = .counter y → ¬ (y.tag = x.tag ∧ expired y ∧ y.request = none) →
          (u.quad g.t g.w n).wait = .counter y) ∧
      (¬ expired x ∨ s.cycleOver = false ∨ x.request.isSome = true →
        exec (.counterWaitTimeout g.t g.w quad) s = .next s) ∧
      (∀ r, (x.request.bind fun id => s.requests.find? fun y => y.id == id) = some r →
        (expired x → s.cycleOver = true → x.cancelled = false →
          (∀ l, routeLink s r.dev = some l → exec (.remoteWaitCancel g.t g.w quad) s = .next
            (({ s with
                nextId := s.nextId + 1
                requests := s.requests.map fun (y : Request) =>
                  if y.id = r.id then { y with link := l, sentAt := s.wall, retryAt := none } else y
                sectorOut := .request l ({ r.body with id := s.nextId, kind := .cancel r.id }) :: s.sectorOut } : State).modQuad
              g.t g.w quad fun q => { q with wait := .counter { x with cancelled := true } })) ∧
          (routeLink s r.dev = none → exec (.remoteWaitCancel g.t g.w quad) s = .next (s.failWait r 0x0006))) ∧
        (¬ expired x ∨ s.cycleOver = false ∨ x.cancelled = true →
          exec (.remoteWaitCancel g.t g.w quad) s = .next s)) ∧
      (∀ st, x.status = some st →
        let scope := x.acq && Acquire.fails s (s.wave g.t g.w).core { quad := quad, lanes := 0xF, at_ := x.acqLine }
        let go (f : Quad → Quad) : Prop := s.leaveWait g.t g.w quad = s.modQuad g.t g.w quad f
        (st = 0 → scope = true → go fun q => { q with wait := .ready, waitTrap := some (.trans .scope, lineAddr x.addr) }) ∧
        (st = 0 → scope = false → go fun q => (q.pastWait x.st 0).noteAtomic (some x.acqLine)) ∧
        (∀ r, st ≠ 0 → x.st = some r → go fun q => q.pastWait (some r) (st.setWidth 64)) ∧
        (st = 1 → x.st = none → go fun q => { q with wait := .ready, waitTrap := some (.counterTimeout, x.addr) }) ∧
        (st = 2 → x.st = none → go fun q => { q with wait := .ready, waitTrap := some (.counterRegression, x.addr) })))

/-- R76, R77, R141, R142, R181, R188, R373, R377, R380, R381: the events of an engine queue, whose head is `e`
and whose context is not being saved, unless the entry has been performed but for its completion add or its operation stands
midway (that those go on is R423 and the model's reading, notes/assumptions/82.md). A head that is done with leaves the queue,
once every request that it sent to
another device has its reply (R76); one that must wait stays at the head. A ring copy whose claim word, F or E fails is
logged and goes no further (R377). -/
def Obligations.EngineEvents : Prop :=
  ∀ (s u : State) (core : Nat) (q : BitVec 3) (e : Entry) (rest : List Entry), core < 288 →
    s.engine core q = e :: rest → (s.ctx e.ctx).saving = false ∨ e.done = true ∨ s.midway core e = true →
    e.sent = false →
    let g := e.eng core
    let ends (i : Instr) (x : EngStep) : Prop :=
      (x.finished = true → exec i s = .next
        (if x.s.engOutstanding core e.id then x.s.setHead core q { e with done := true, sent := true, logged := [] }
         else (x.s.accrueEnd e).popHead core q)) ∧
      (x.finished = false → exec i s = .next (x.s.setHead core q { e with logged := x.logged }))
    let completes (va addend : Word) : Prop :=
      let x := engAdd s g e.logged va addend
      ends (.engineCompletionAdd core q) x ∧ (4 ∈ e.logged → ends (.engineBindingRetry core q) x)
    (∀ a t, e.body = .qwait a t →
      let x := engWait s g e.logged e.fetched 0 a t.toNat
      ends (.engineWaitSatisfied core q) x ∧
      (1 ∈ e.logged ∨ 3 ∈ e.logged → ends (.engineWaitReevaluate core q) x)) ∧
    (∀ a v, e.body = .qadd a v →
      let x := engAdd s g e.logged a v
      ends (.engineAddPerform core q) x ∧ (4 ∈ e.logged → ends (.engineBindingRetry core q) x)) ∧
    (∀ b, e.body = .nest b → e.done = true → completes b.s3 b.s4) ∧
    (∀ j, e.body = .copy j → e.done = true → completes j.b.ctr j.b.addend) ∧
    (∀ j, e.body = .copy j → e.done = false →
      let x := if j.asked then (s, e) else s.startCopy core e j
      (x.1.engFetching (x.2.eng core) = true → exec (.copyPerform core q) s = .next (x.1.setHead core q x.2)) ∧
      (x.1.engFetching (x.2.eng core) = false → j.b.rmode = false → exec (.copyPerform core q) s = .next
        ((copyBytes x.1 (x.2.eng core) j.b x.2.fetched j.b.dest).completeHead core q x.2)) ∧
      (x.1.engFetching (x.2.eng core) = false → j.b.rmode = true → x.1.jobRing x.2 { j with asked := true } = none →
        exec (.copyPerform core q) s = .next ((x.1.setHead core q x.2).completeHead core q x.2)) ∧
      (∀ r, x.1.engFetching (x.2.eng core) = false → j.b.rmode = true → x.1.jobRing x.2 { j with asked := true } = some r →
        j.claimed = none →
        exec (.copyPerform core q) s = .next (x.1.claimIndex core q x.2 { j with asked := true } r)) ∧
      ∀ r i l, j.claimed = some i → s.jobRing e j = some r →
        (j.written = false → fetchedAt e.fetched freeKey 0 = some none →
          exec (.engineRingFreeWaitEnd core q) s = .next (s.ringFails core q e r.freed)) ∧
        (j.written = false → fetchedAt e.fetched freeKey 0 ≠ some none → ringWord s g r.freed .counterGet = (u, none) →
          exec (.engineRingFreeWaitEnd core q) s = .next (u.ringFails core q e r.freed)) ∧
        (j.written = false → fetchedAt e.fetched freeKey 0 ≠ some none → ringWord s g r.freed .counterGet = (u, some l) →
          let x := engWait u g e.logged e.fetched freeKey r.freed (r.target false i)
          let e' := { e with body := .copy { j with written := true }, logged := [] }
          (x.finished = true → exec (.engineRingFreeWaitEnd core q) s = .next
            (((copyBytes x.s g j.b e.fetched (r.slot i)).setHead core q e').lastWrite core q e')) ∧
          (x.finished = false → 1 ∉ x.logged → exec (.engineRingFreeWaitEnd core q) s = .next
            (x.s.setHead core q { e with logged := x.logged })) ∧
          (x.finished = false → 1 ∈ x.logged → exec (.engineRingFreeWaitEnd core q) s = .next
            (x.s.completeHead core q e))) ∧
        (j.written = true → s.engAsked g awaitKey = true → exec (.engineRingPublish core q) s = .next s) ∧
        (j.written = true → s.engAsked g awaitKey = false → (fetchedAt e.fetched awaitKey 0).isSome = true →
          exec (.engineRingPublish core q) s = .next (s.completeHead core q e)) ∧
        (j.written = true → s.engAsked g awaitKey = false → fetchedAt e.fetched awaitKey 0 = none →
          (fetchedAt e.fetched fillKey 0 = some none →
            exec (.engineRingPublish core q) s = .next (s.ringFails core q e r.filled)) ∧
          (fetchedAt e.fetched fillKey 0 ≠ some none → ringWord s g r.filled .counterAdd = (u, none) →
            exec (.engineRingPublish core q) s = .next (u.ringFails core q e r.filled)) ∧
          (fetchedAt e.fetched fillKey 0 ≠ some none → ringWord s g r.filled .counterAdd = (u, some l) →
            let publishes (v : State) (e : Entry) : Prop :=
              let y := engAddAs v (e.eng core) e.logged awaitKey r.filled 1
              (y.finished = true → y.s.engAsked (e.eng core) awaitKey = false →
                exec (.engineRingPublish core q) s = .next (y.s.completeHead core q e)) ∧
              (y.finished = false ∨ y.s.engAsked (e.eng core) awaitKey = true →
                exec (.engineRingPublish core q) s = .next (y.s.setHead core q { e with logged := y.logged }))
            (j.published = true → publishes u e) ∧
            (j.published = false →
              let x := engWait u g e.logged e.fetched fillKey r.filled i.toNat
              (x.finished = true →
                publishes x.s { e with body := .copy { j with published := true }, logged := x.logged }) ∧
              (x.finished = false → 1 ∉ x.logged → exec (.engineRingPublish core q) s = .next
                (x.s.setHead core q { e with logged := x.logged })) ∧
              (x.finished = false → 1 ∈ x.logged → exec (.engineRingPublish core q) s = .next
                (x.s.completeHead core q { e with logged := x.logged })))))) ∧
    (∀ n, (∀ k ∈ s.groupQueues core n, s.headGroup core k = some n) →
      exec (.qfenceMarkerRetire core n) s = .next ((s.groupQueues core n).foldl (fun s k => s.popHead core k) s)) ∧
    (∀ b, e.body = .nest b → e.done = false → b.stopped = false →
      (∀ b', nestNext s g e.quad e.fetched b = (u, .taken b') →
        let e' := { e with body := .nest b', fetched := [] }
        let last := b.atEnd = true ∨ b'.atEnd = true ∧ nestReduces b.op = false
        (¬ last → exec (.lnestEntryPerform core q) s = .next (u.setHead core q e')) ∧
        (last → exec (.lnestEntryPerform core q) s = .next ((u.setHead core q e').completeHead core q e'))) ∧
      (∀ cause a tf, nestNext s g e.quad e.fetched b = (u, .faults cause a tf) →
        exec (.lnestElementFault core q) s = .next (u.stopNest core q e b cause a tf)) ∧
      (nestNext s g e.quad e.fetched b = (u, .waits) →
        exec (.lnestEntryPerform core q) s = .next u ∧ exec (.lnestElementFault core q) s = .next s)) ∧
    (let t := s.popHead core q;
      t.engine core q = rest ∧ t.mem = s.mem ∧ ∀ (c : Nat) (k : BitVec 3), c ≠ core ∨ k ≠ q → t.engine c k = s.engine c k)

/-- R149, R154, R156, R159, R160, R162, R177, R180: events of the translation caches, the L1 and the home
slices. -/
def Obligations.CacheEvents : Prop :=
  ∀ (s u : State) (core line : Nat) (c : BitVec 6) (va : Word),
    let k := s.core core
    -- translations
    ((∃ t, exec (.translationCacheEviction core c va) s = .next t ∧ t = { s with cores := t.cores } ∧
      (∀ d, d ≠ core → t.core d = s.core d) ∧
      t.core core = { k with tlb := k.tlb.filter fun e => !e.covers c va })) ∧
    ReadOnly s (s.touchWalk c va) ∧ (∀ d, (s.touchWalk c va).core d = s.core d) ∧
    ((s.ctx c).phase.live = true → (∀ e ∈ k.tlb, e.covers c va = false) →
      (∀ e, walkTable s c va = .ok e → exec (.pageTableWalk core c va) s = .next
        ((s.touchWalk c va).modCore core fun k => { k with tlb := tlbInsert e k.tlb })) ∧
      (∀ f, walkTable s c va = .error f → f.code = none →
        exec (.pageTableWalk core c va) s = .next (s.touchWalk c va)) ∧
      (∀ f code, walkTable s c va = .error f → f.code = some code →
        exec (.pageTableWalk core c va) s = .next ((s.touchWalk c va).log c
          { code := code, source := f.source 1, detail := 0, gridid := 0xFFFFFFFF, addr := va, core := core
            wave := 0xFFFF }))) ∧
    ((s.ctx c).phase.live = false ∨ (∃ e ∈ k.tlb, e.covers c va = true) →
      exec (.pageTableWalk core c va) s = .next s) ∧
    (∀ e, { ctx := c, base := va.toNat / 65536 * 65536 } ∈ k.checks →
      (k.tlb.find? fun e => e.ctx == c && e.base == va.toNat / 65536 * 65536) = some e →
      pageChecks s c e = (u, true) →
      exec (.codeHashCheckComplete core c va) s = .next
        ((u.verifyPage core c (va.toNat / 65536 * 65536)).wakePage core c (va.toNat / 65536 * 65536))) ∧
    -- lines
    (k.heldLine c (va.toNat / 128) = none → ∃ t, exec (.l1LineEviction core c va) s = .next t ∧
      t = { s with cores := t.cores } ∧ (∀ d, d ≠ core → t.core d = s.core d) ∧
      t.core core = { k with
        clean := k.clean.filter fun h => !(h.ctx == c && h.line == va.toNat / 128)
        ilines := k.ilines.filter fun h => !(h.ctx == c && h.line == va.toNat / 128) }) ∧
    (∀ h, core < 288 → k.heldLine c (va.toNat / 128) = some h →
      let v := s.modCore core fun k => { k with
        clean := k.clean.filter fun h => !(h.ctx == c && h.line == va.toNat / 128)
        ilines := k.ilines.filter fun h => !(h.ctx == c && h.line == va.toNat / 128) }
      (h.pinned = true → exec (.l1LineEviction core c va) s = .next v) ∧
      (∀ b, h.pinned = false → h.bound = some b →
        exec (.l1LineEviction core c va) s = .next (writeBackOne v core h)) ∧
      (∀ b x, h.pinned = false → h.bound = none → bindLine v core h = (u, .ok b) →
        (u.core core).heldLine h.ctx h.line = some x →
        exec (.l1LineEviction core c va) s = .next (writeBackOne u core { x with bound := some b })) ∧
      (∀ f, h.pinned = false → h.bound = none → bindLine v core h = (u, .error f) → exec (.l1LineEviction core c va) s = .next
        (u.modCore core fun k => { k with held := k.held.map fun x =>
          if x.ctx == h.ctx && x.line == h.line then { x with pinned := true } else x }))) ∧
    (∃ t, exec (.l2LineEviction line) s = .next t ∧ t = { s with slices := t.slices } ∧ t.lineState line = none ∧
      ∀ n, n ≠ line → t.lineState n = s.lineState n) ∧
    (line * 128 < Config.hbmTop → ∃ t, exec (.linePoisonDetect line) s = .next t ∧
      t = { s with poisoned := t.poisoned } ∧ t.isPoisoned line = true ∧
      ∀ n, n ≠ line → t.isPoisoned n = s.isPoisoned n) ∧
    (Config.hbmTop ≤ line * 128 → exec (.linePoisonDetect line) s = .next s) ∧
    (s.promoting core line = [] → exec (.promotionWritebackAck core line) s = .next s) ∧
    (∀ d ds, s.promoting core line = d :: ds →
      let v := (d :: ds).foldl (fun s c => acquireDrop s core line c) (promoteLine s core line)
      ∃ t, exec (.promotionWritebackAck core line) s = .next t ∧ t = { v with teams := t.teams } ∧
        ∀ i w n lines reqs len, (v.wave i w).core = core → (v.quad i w n).wait = .promote lines reqs len →
          (t.quad i w n).wait =
            if lines.filter (· != line) = [] ∧ reqs = [] then (match len with | some n => .interlock n | none => .ready)
            else .promote (lines.filter (· != line)) reqs len)

/-- R173, R196, R198 to R212, R475: what becomes of an accumulate. An addend in scratchpad is performed at once; one to HBM on a
line that the core does not hold leaves the core; at the home slice it takes an entry of the accumulate queue, is
refused, being refusable, or waits. In a replay the log decides: it waits for its turn, is refused where its entry says so,
and takes an entry of the queue else. In each cycle a slice performs, of each line, the queued accumulate that it accepted
first; the core then has no copy of the line that it filled meanwhile, and one whose line is poisoned is discarded, logged and
faults its wave. A refused addend is placed in its team's residual tile; a drain ends when nothing is left. -/
def Obligations.AccumulateEvents : Prop :=
  (∀ (s : State) (g : GangRef) (ty : AccTy) (op : AccOp) (x : Addend),
    (∀ off, x.loc = .scratch off → g.t < s.teams.length → (s.teamOf g).scratch.wf = true →
      let old := leNat ((s.teamOf g).scratch.read off ty.width)
      let new := accCombine ty op old x.value
      (op = .add → ty = .i32 ∨ ty = .i64 ∨ ty = .n64 ∨ ty = .fx128 → new = (old + x.value) % 2 ^ (8 * ty.width)) ∧
      (op = .min → ty = .n64 ∨ ty = .vis → new = min old x.value) ∧
      (op = .max → ty = .n64 → new = max old x.value) ∧
      ∀ a, ((sendAddend s g ty op x).teamOf g).scratch.get a =
        if off ≤ a ∧ a < off + ty.width then (leBytes ty.width new).getD (a - off) 0
        else (s.teamOf g).scratch.get a) ∧
    (∀ pa n va e ps, x.loc = .mem ((pa, n, va, e) :: ps) → physKind pa = .hbm →
      (s.core (s.coreOf g)).heldLine (s.ctxOf g) (va.toNat / 128) = none → (s.teamOf g).kernel.rtn = 0 →
      let t := sendAddend s g ty op x
      t = { s with cores := t.cores, accs := t.accs, nextId := s.nextId + 1, teams := t.teams } ∧
      t.teams = (x.quads.eraseDups.foldl (fun s n => s.modQuad g.t g.w n fun q => q.noteAtomic x.loc.acqLine) s).teams ∧
      t.accs = s.accs ++ [
        { id := s.nextId, oldest := s.nextId, ctx := s.ctxOf g, core := s.coreOf g, team := g.t, wave := g.w
          quad := x.quad, addr := va, pa := pa, op := op, ty := ty, value := BitVec.ofNat 128 x.value
          count := x.count, cls := .unrefusable, phase := .flight, rel := (t.quadOf g x.quad).relFence
          walk := none, seq := 0, low := e.low }])) ∧
  (∀ (s : State) (acc : Nat),
    ((s.accs.find? fun a => a.id == acc && decide (a.phase = .flight)) = none →
      ∀ occ, exec (.accumulateArrival acc occ) s = .next s) ∧
    ∀ a : Acc, (s.accs.find? fun a => a.id == acc && decide (a.phase = .flight)) = some a →
    let held := s.queueHeld (homeSlice a.pa)
    let busy := (s.ctx a.ctx).acc.toNat ≤ s.lineCount (lineOf a.pa) ∨ 48 ≤ held
    let room := if a.cls = .forced then 64 else 48
    let refused (v : State) : State :=
      { v with accs := v.accs.map fun x => if x.id = a.id then { x with phase := .returning } else x }
    let queued (v : State) : State :=
      { v with nextId := v.nextId + 1
               accs := v.accs.map fun x => if x.id = a.id then { x with phase := .queued, seq := v.nextId } else x }
    let gate := replayGate s a.ctx a.pa (a.order 0)
    (∀ occ, occ ≠ held → exec (.accumulateArrival acc occ) s = .next s) ∧
    (gate = .free →
      (a.cls = .refusable → busy →
        exec (.accumulateArrival acc held) s = .next (refused (s.recordOrder a.ctx a.pa (a.order 1)))) ∧
      (a.cls = .refusable → ¬ busy → exec (.accumulateArrival acc held) s = .next (queued s)) ∧
      (a.cls ≠ .refusable → room ≤ held → exec (.accumulateArrival acc held) s = .next s) ∧
      (a.cls ≠ .refusable → held < room → exec (.accumulateArrival acc held) s = .next (queued s))) ∧
    (gate = .wait →
      exec (.accumulateArrival acc held) s = .next (s.noteWait a.ctx a.pa (a.order 0))) ∧
    (∀ i out, gate = .next i out →
      let v := s.useEntry a.ctx a.pa (a.order 0) i
      (out = 1 → a.cls = .refusable → exec (.accumulateArrival acc held) s = .next (refused v)) ∧
      (out ≠ 1 ∨ a.cls ≠ .refusable → room ≤ held → exec (.accumulateArrival acc held) s = .next s) ∧
      (out ≠ 1 ∨ a.cls ≠ .refusable → held < room → exec (.accumulateArrival acc held) s = .next (queued v))) ∧
    (gate = .diverge → exec (.accumulateArrival acc held) s = .next ((s.diverge a.ctx).acceptAcc a))) ∧
  (∀ s : State,
    let mine := s.accs.filter fun a => decide (a.phase = .queued) &&
      (s.accs.all fun b => !decide (b.phase = .queued) || lineOf b.pa != lineOf a.pa || decide (a.seq ≤ b.seq)) &&
      s.portAccs.all fun b => !b.queued || lineOf b.pa != lineOf a.pa || decide (a.seq ≤ b.seq)
    let ports := s.portAccs.filter fun a => a.queued &&
      (s.accs.all fun b => !decide (b.phase = .queued) || lineOf b.pa != lineOf a.pa || decide (a.seq ≤ b.seq)) &&
      s.portAccs.all fun b => !b.queued || lineOf b.pa != lineOf a.pa || decide (a.seq ≤ b.seq)
    s.performQueues =
      (ports.foldl (fun s a => s.performPort a) (mine.foldl (fun s a => s.performAcc a) s)).admitPorts ∧
    (∀ a, s.accs = [a] → a.phase = .queued → s.portAccs = [] → s.performQueues = s.performAcc a)) ∧
  (∀ (s : State) (a : Acc),
    let v := s.modCore a.core fun k =>
      { k with clean := k.clean.filter fun h => !(h.ctx == a.ctx && h.line == a.addr.toNat / 128) }
    let r := v.recordOrder a.ctx a.pa (a.order 0)
    let done := ((r.homeWrite a.ctx a.pa (leBytes a.ty.width (accCombine a.ty a.op
      (leNat (r.mem.read a.pa a.ty.width)) a.value.toNat)) a.source).lowAs a.pa a.low).countLine (lineOf a.pa)
    (s.isPoisoned (lineOf a.pa) = false → a.rel = false → s.performAcc a = done.dropAcc a) ∧
    (s.isPoisoned (lineOf a.pa) = false → a.rel = true →
      s.performAcc a = (recordRelease done a.core (lineOf a.pa)).dropAcc a) ∧
    (s.isPoisoned (lineOf a.pa) = true → s.performAcc a =
      ((v.logFor a.ctx [(a.team, a.wave, a.quad)] 0x0006 a.source a.addr).deferWave a.team a.wave a.quad
        a.addr).dropAcc a)) ∧
  (∀ s : State, ∃ t, exec .accumulateWindowStart s = .next t ∧ t = { s with slices := t.slices } ∧
    (∀ n, t.sliceAt n = { s.sliceAt n with window := (t.sliceAt n).window, counts := (t.sliceAt n).counts }) ∧
    ∀ n, n < 128 → (t.sliceAt n).window = s.clk / 256 ∧
      (t.sliceAt n).counts = if (s.sliceAt n).window = s.clk / 256 then (s.sliceAt n).counts else []) ∧
  (∀ (s : State) (acc : Nat) (a : Acc),
    (s.accs.find? fun a => a.id == acc && decide (a.phase = .returning)) = some a →
    let u := s.stall a.core a.ctx 8 1
    let ends (v : State) : State := (if (v.ctx a.ctx).lnActive = 2 then v.sendHeld a.team else v).pumpCore a.core
    let x := s.team a.team
    let i := tileIndex x.kernel a.addr
    (tileEntry x i = none → exec (.refusalReply acc) s = .next
      (ends ((u.setTile a.team i a.residual.bytes
        (some { idx := i, oldest := a.oldest, wave := a.wave, quad := a.quad })).dropAcc a))) ∧
    (∀ y, tileEntry x i = some y → y.addr = a.addr → y.op = a.op → y.ty = a.ty →
      exec (.refusalReply acc) s = .next
        (ends ((u.setTile a.team i (y.combine a.residual).bytes
          (some { idx := i, oldest := min a.oldest (x.oldestIn i), wave := a.wave, quad := a.quad })).dropAcc a))) ∧
    (∀ y, tileEntry x i = some y → y.sameAs a.residual = false → exec (.refusalReply acc) s = .next
      (ends (({ u with accs := s.accs.map fun z =>
        if z.id = a.id then { z with phase := .overflow } else z } : State).sendOverflow a.id)))) ∧
  (∀ (s : State) (acc : Nat), (s.accs.find? fun a => a.id == acc && decide (a.phase = .returning)) = none →
    exec (.refusalReply acc) s = .next s) ∧
  (∀ (s : State) (t drain : Nat), drain ∉ (s.team t).drains → exec (.drainComplete t drain) s = .next s) ∧
  (∀ (s : State) (t drain : Nat), drain ∈ (s.team t).drains →
    let u := s.pumpDrain t drain
    (u.draining t drain = true ∨ u.drainResult t drain = .idle → exec (.drainComplete t drain) s = .next u) ∧
    (u.draining t drain = false → u.drainResult t drain ≠ .idle → ∃ v, exec (.drainComplete t drain) s = .next v ∧
      v = { u with teams := v.teams } ∧ ∀ w n,
        v.quad t w n = if (u.quad t w n).wait = .drain drain then
          { u.quad t w n with wait := .ready, drainSt := u.drainResult t drain } else u.quad t w n))

/-! ### Contexts, ports, links, dispatch -/

/-- R34, R36, R37, R39, R96, R430: the commands of a context's control block, by the port that owns it while
firmware runs. A command that the state lists acts; one that it does not list has result 2; while a
transition is in progress every command but reset has result 1. Bind checks the control block, then that
no context of another tag has an overlapping window. A run from saved restores the save area (R430); one from bound does so,
by the model's choice, where a context that has never run has an area that holds a save (R96; notes/assumptions/86.md). A port
that does not own the context is dropped and
noted. That a reset happens at once and that a destroy keeps the state while it is in progress are the model's readings
(notes/assumptions/45.md, notes/assumptions/46.md). -/
def Obligations.ContextCommands : Prop :=
  ∀ (s : State) (p : Port) (c : BitVec 6), s.fw = .running →
    let x := s.ctx c
    let answer (r : Byte) : State := s.modCtx c fun y => { y with result := r }
    let ends (u : State) (r : Byte) : State := (u.modCtx c fun y => { y with result := r }).raise c 3
    let starts : State := s.modCtx c fun y => { y with busy := true, result := 0 }
    let bindable : Prop := x.tag ≠ 0 ∧ x.ways ≠ 0 ∧ x.acc ≠ 0 ∧ x.winLo ≤ x.winHi ∧
      (x.winHi.toNat + 1) * 65536 ≤ Config.withheld ∧ x.winLo ≤ x.root ∧ x.root ≤ x.winHi ∧
      canonical (x.log ++ 0#6) = true
    let taken : Prop := ∃ d, d ≠ c ∧ (s.ctx d).counts = true ∧ (s.ctx d).tag ≠ x.tag ∧ (s.ctx d).winLo ≤ x.winHi ∧
      x.winLo ≤ (s.ctx d).winHi
    (s.owner c = some p →
      (x.busy = true → ∀ i ∈ [Instr.ctxcmdCreate p c, .ctxcmdBind p c, .ctxcmdRun p c, .ctxcmdQuiesce p c,
        .ctxcmdDestroy p c], exec i s = .next (answer 1)) ∧
      (x.busy = false →
        (x.phase = .destroyed → exec (.ctxcmdCreate p c) s = .next (ends (({ s with
          stalls := s.stalls.filter fun y => y.ctx != c } : State).modCtx c fun _ => Ctx.fresh .created) 0)) ∧
        (x.phase ≠ .destroyed → exec (.ctxcmdCreate p c) s = .next (answer 2)) ∧
        (x.phase = .created → ¬ bindable → exec (.ctxcmdBind p c) s = .next (ends s 3)) ∧
        (x.phase = .created → bindable → taken → exec (.ctxcmdBind p c) s = .next (ends s 4)) ∧
        (x.phase = .created → bindable → ¬ taken → exec (.ctxcmdBind p c) s = .next starts) ∧
        (x.phase ≠ .created → exec (.ctxcmdBind p c) s = .next (answer 2)) ∧
        (x.phase = .bound → s.holdsSave c = false → exec (.ctxcmdRun p c) s = .next (ends (s.startRun c) 0)) ∧
        (x.phase = .saved ∨ x.phase = .bound ∧ s.holdsSave c = true → readSave s c = none →
          exec (.ctxcmdRun p c) s = .next (ends s 3)) ∧
        (∀ a, x.phase = .saved ∨ x.phase = .bound ∧ s.holdsSave c = true → readSave s c = some a →
          exec (.ctxcmdRun p c) s = .next (ends ((s.resume c a).startRun c) 0)) ∧
        (x.phase ≠ .bound → x.phase ≠ .saved → exec (.ctxcmdRun p c) s = .next (answer 2)) ∧
        (x.phase = .running → exec (.ctxcmdQuiesce p c) s = .next
          (({ s with launches := s.launches.map fun (l : Launch) => if l.ctx = c then l.quiesce else l } : State).modCtx
            c fun y => { y with
              busy := true, result := 0, phase := .quiescing, quiesceAt := s.wall, quiesceDrain := x.dlDrain.toNat
              quiesceSave := max 1 x.dlSave.toNat, quiesceMig := x.migDrain, saving := false
              faultPending := false })) ∧
        (x.phase ≠ .running → exec (.ctxcmdQuiesce p c) s = .next (answer 2)) ∧
        (x.phase ∈ [.created, .bound, .saved, .faulted] → exec (.ctxcmdDestroy p c) s = .next
          ((starts.resetSequence c).modCtx c fun y => { y with destroying := true })) ∧
        (x.phase ∉ [.created, .bound, .saved, .faulted] → exec (.ctxcmdDestroy p c) s = .next (answer 2))) ∧
      (x.phase.live = true → exec (.ctxcmdReset p c) s = .next (starts.enterReset c)) ∧
      (x.phase.live = false → exec (.ctxcmdReset p c) s = .next (answer 2))) ∧
    (s.owner c ≠ some p → ∀ i ∈ [Instr.ctxcmdCreate p c, .ctxcmdBind p c, .ctxcmdRun p c, .ctxcmdQuiesce p c,
      .ctxcmdDestroy p c, .ctxcmdReset p c], exec i s = .next
        { s with tenderLog := { port := p, offset := 0x400000 + 0x1000 * c.toNat } :: s.tenderLog }) ∧
    (let t := s.enterReset c;
      (t.ctx c).phase = .reset ∧ (t.ctx c).busy = true ∧ (t.ctx c).destroying = false ∧
      (∀ a ∈ t.accs, a.ctx ≠ c) ∧ (∀ r ∈ t.requests, r.ctx ≠ c) ∧
      (∀ i < s.teams.length, (s.team i).ctx = c → (t.team i).phase = .ended ∨ (t.team i).phase = .discarded) ∧
      ∀ k, (∀ e ∈ (t.core k).tlb, e.ctx ≠ c) ∧ (∀ h ∈ (t.core k).held, h.ctx ≠ c) ∧
        (∀ h ∈ (t.core k).clean, h.ctx ≠ c) ∧ (∀ h ∈ (t.core k).ilines, h.ctx ≠ c) ∧
        (∀ w ∈ (t.core k).walks, w.ctx ≠ c) ∧ ∀ q, ∀ e ∈ t.engine k q, e.ctx ≠ c)

/-- R9, R31 to R34, R39, R45, R48, R55, R59, R121, R122, R156, R422 to R425, R467, R470: what ends a context's
transitions and saves, the ownership of contexts, invalidations, and the writes and reads of the registers of control
blocks and Lantern windows. A bind that completes makes the checks of R36 again on what the registers then hold
(notes/assumptions/85.md). The model's readings and choices: the order of OWNCMD's refusals (notes/assumptions/44.md), when a
reset and a destroy take effect (notes/assumptions/45.md, notes/assumptions/46.md), the registers that an uncorrectable error
damages (notes/assumptions/54.md), the source and the address of code 0x0008 (notes/assumptions/67.md), the wait codes and the
refused Lantern writes (notes/assumptions/76.md), and that the words of all quads are taken at the first read of one of them
(notes/assumptions/87.md). -/
def Obligations.ContextEvents : Prop :=
  ∀ (s : State) (p : Port) (c : BitVec 6) (v : Word),
    let x := s.ctx c
    let put (f : Ctx → Ctx) : State := s.modCtx c f
    let mine : Prop := s.fw = .running ∧ s.owner c = some p
    -- transitions
    (x.phase = .created → x.busy = true → x.destroying = false →
      let ends (u : State) : State := (u.modCtx c fun y => { y with busy := false }).raise c 3
      (s.bindChecks c = 0 → exec (.bindComplete c) s = .next
        (ends (attachTables (put fun y => { y with phase := .bound }) c))) ∧
      (s.bindChecks c ≠ 0 → exec (.bindComplete c) s = .next (ends (put fun y => { y with result := s.bindChecks c })))) ∧
    (x.phase ≠ .created ∨ x.busy = false ∨ x.destroying = true → exec (.bindComplete c) s = .next s) ∧
    (x.phase = .reset → x.busy = true → s.portsHold c = false →
      let u := (attachTables (put fun y => { y with phase := .bound }) c).modCtx c fun y => { y with busy := false }
      exec (.resetSequenceComplete c) s = .next (if x.resetQuiet then u else u.raise c 3)) ∧
    (x.phase ≠ .reset → exec (.resetSequenceComplete c) s = .next s) ∧
    (x.destroying = true → s.portsHold c = false →
      let v := s.resetSequence c
      ∃ t, exec (.destroySequenceComplete c) s = .next t ∧
      t = { v with ctxs := t.ctxs, slices := t.slices, logWaits := v.logWaits.filter fun l => l.ctx != c } ∧
      (∀ n, t.sliceAt n = { v.sliceAt n with lines := (t.sliceAt n).lines }) ∧ t.ctx c = Ctx.fresh .destroyed ∧
      ∀ d, d ≠ c → t.ctx d = v.ctx d) ∧
    (s.portsHold c = true → exec (.resetSequenceComplete c) s = .next s ∧
      exec (.destroySequenceComplete c) s = .next s) ∧
    (x.destroying = false → exec (.destroySequenceComplete c) s = .next s) ∧
    -- saves
    (x.phase = .quiescing → x.saving = false → x.quiesceMig = false → x.quiesceAt + x.quiesceDrain * microsecond ≤ s.wall →
      s.wall < x.quiesceAt + (x.quiesceDrain + x.quiesceSave) * microsecond → ∃ t, exec (.drainWindowEnd c) s = .next t ∧ t = { s with teams := t.teams, ctxs := t.ctxs } ∧
        t.ctx c = { x with saving := true } ∧ (∀ d, d ≠ c → t.ctx d = s.ctx d) ∧
        ∀ i, t.team i = if (s.team i).ctx = c ∧ (s.team i).phase = .live then { s.team i with phase := .stopped } else s.team i) ∧
    (s.wall < x.quiesceAt + x.quiesceDrain * microsecond ∨
        x.quiesceAt + (x.quiesceDrain + x.quiesceSave) * microsecond ≤ s.wall →
      exec (.drainWindowEnd c) s = .next s) ∧
    (x.phase = .quiescing → x.quiesceAt + (x.quiesceDrain + x.quiesceSave) * microsecond ≤ s.wall →
      exec (.saveDeadline c) s = .next ((s.log c (.plain 0x0008 8 0 0)).enterReset c)) ∧
    (s.wall < x.quiesceAt + (x.quiesceDrain + x.quiesceSave) * microsecond → exec (.saveDeadline c) s = .next s) ∧
    (x.quiesceAt + (x.quiesceDrain + x.quiesceSave) * microsecond ≤ s.wall → exec (.saveComplete c) s = .next s) ∧
    (∀ u, x.phase = .quiescing → s.wall < x.quiesceAt + (x.quiesceDrain + x.quiesceSave) * microsecond →
      x.saving = true ∨ s.hasResident c = false →
      let s1 := (s.stoppedTeams c).foldl (fun s t => s.pumpDrain t s.nextId) s
      s1.savable c = true → (s1.beginSave c).savable c = true → (s1.beginSave c).writeSave c = some u →
      exec (.saveComplete c) s = .next u) ∧
    (x.phase ≠ .quiescing → exec (.saveComplete c) s = .next s) ∧
    -- errors
    (exec (.perContextUncorrectableError c) s = .next ({ s with free := s.free + 1 }.modCtx c fun y => y.damage s.free) ∧
      ∀ n, let y := x.damage n
        y = { x with ways := y.ways, acc := y.acc, mml := y.mml, log := y.log, qtab := y.qtab, man := y.man
                     lay := y.lay, save := y.save, grid := y.grid }) ∧
    (∃ t, exec .deviceWideUncorrectableError s = .next t ∧
      (∀ q, (t.portAt q).deviceErrors = (s.portAt q).deviceErrors + 1) ∧
      (x.phase.live = true → (t.ctx c).phase = .reset ∧ (t.ctx c).busy = true) ∧
      (x.phase.live = false → (t.ctx c).phase = x.phase)) ∧
    -- ownership
    (s.fw = .running →
      let d : BitVec 6 := v.extractLsb' 0 6
      let tells (n : BitVec 2) (u : State) : State := u.modPort p fun y => { y with ownResult := n }
      let no (n : BitVec 2) : State := { tells n s with tenderLog := { port := p, offset := 0x0810 } :: s.tenderLog }
      let gives (o : Option Port) : State := tells 0 { s with owners := s.owners.set d.toNat o d.isLt }
      ((s.ctx d).phase ≠ .destroyed → exec (.owncmd p v) s = .next (no 1)) ∧
      ((s.ctx d).phase = .destroyed → s.owner d ≠ some p → s.owner d ≠ none → exec (.owncmd p v) s = .next (no 2)) ∧
      ((s.ctx d).phase = .destroyed → s.owner d = some p ∨ s.owner d = none →
        (v.extractLsb' 8 2 = 0 → exec (.owncmd p v) s = .next (gives (some .p0))) ∧
        (v.extractLsb' 8 2 = 1 → exec (.owncmd p v) s = .next (gives (some .p1))) ∧
        (v.extractLsb' 8 2 = 2 → exec (.owncmd p v) s = .next (gives none)) ∧
        (v.extractLsb' 8 2 = 3 → exec (.owncmd p v) s = .next (no 3)))) ∧
    -- invalidation
    (mine → x.phase.live = true → x.invPend = false → ∃ t, exec (.ctxinv p c v) s = .next t ∧
      t = { s with cores := t.cores, ctxs := t.ctxs } ∧ (∀ d, d ≠ c → t.ctx d = s.ctx d) ∧
      t.ctx c = { x with invPend := true, invSize := v.extractLsb' 57 2, invVa := v.extractLsb' 16 41 } ∧
      ∀ k, t.core k = { s.core k with tlb := (s.core k).tlb.filter fun e =>
        !(e.ctx == c && inRange (invRange (v.extractLsb' 57 2) (v.extractLsb' 16 41)) e.base (2 ^ e.lg)) }) ∧
    (mine → x.phase.live = false → exec (.ctxinv p c v) s = .next (put fun y => { y with result := 2 })) ∧
    (mine → x.phase.live = true → x.invPend = true → exec (.ctxinv p c v) s = .next (put fun y => { y with result := 1 })) ∧
    (let r := invRange x.invSize x.invVa;
      (x.invPend = true → s.inFlightIn c r = false → exec (.ctxinvComplete c) s = .next
        (((List.range 288).foldl (fun s k => s.invCore c r k) s).modCtx c fun y => { y with invPend := false })) ∧
      (x.invPend = false ∨ s.inFlightIn c r = true → exec (.ctxinvComplete c) s = .next s)) ∧
    -- registers
    (mine →
      let reply (u : State) (n : Nat) : State := u.modPort p fun y => { y with reply := .data (leBytes 8 n) }
      let code : Nat := match x.phase with
        | .destroyed => 0 | .created => 1 | .bound => 2 | .running => 3 | .quiescing => 4 | .saved => 5 | .faulted => 6
        | .reset => 7
      let writes (reg : Nat) (f : Ctx → Ctx) : Prop :=
        let i := Instr.registerWrite p .bar2 (BitVec.ofNat 24 (0x400000 + 0x1000 * c.toNat + reg)) v
        (x.phase = .created → exec i s = .next (put f)) ∧
        (x.phase ≠ .created → exec i s = .next (put fun y => { y with result := 2 }))
      exec (.ctxstateRead p c) s = .next (reply (put fun y => { y with lost := 0 })
        ((code + (if x.busy then 8 else 0) + x.result.toNat * 2 ^ 8 + x.lost.toNat * 2 ^ 16) % 2 ^ 64)) ∧
      exec (.lnstatRead p c) s = .next (reply (put fun y => { y with lnRefused := 0 })
        (x.lnRefused.toNat + (if x.lnOvf then 2 ^ 8 else 0) + (if x.lnDiverged then 2 ^ 9 else 0))) ∧
      writes 0x010 (fun y => { y with root := v.extractLsb' 16 36 }) ∧
      writes 0x018 (fun y => { y with winLo := v.extractLsb' 16 36 }) ∧
      writes 0x020 (fun y => { y with winHi := v.extractLsb' 16 36 }) ∧
      writes 0x028 (fun y => { y with tag := v.extractLsb' 0 16 }) ∧
      writes 0x030 (fun y => { y with ways := v.extractLsb' 0 16 }) ∧
      writes 0x038 (fun y => { y with acc := v.extractLsb' 0 8 }) ∧
      writes 0x040 (fun y => { y with mml := v.extractLsb' 0 4 }) ∧
      writes 0x048 (fun y => { y with log := v.extractLsb' 6 58 }) ∧
      writes 0x050 (fun y => { y with qtab := v.extractLsb' 13 51 }) ∧
      writes 0x080 (fun y => { y with man := v.extractLsb' 16 48, lgcount := v.extractLsb' 0 5 }) ∧
      writes 0x090 (fun y => { y with lay := v.extractLsb' 9 55 }) ∧
      writes 0x098 (fun y => { y with save := v.extractLsb' 12 52 }) ∧
      writes 0x0A0 (fun y => { y with svSize := v.extractLsb' 0 32 }) ∧
      writes 0x0B0 (fun y => { y with rwt := v.extractLsb' 13 51 }) ∧
      (let reads (u : State) (off : Nat) (w : Word) : Prop :=
          s.hostRegisterRead p .bar2 (off + 0x1000 * c.toNat) = reply u w.toNat
        let reg (n : Nat) (w : Word) : Prop := reads s (0x400000 + n) w
        reg 0x000 0 ∧ reg 0x010 (0#12 ++ x.root ++ 0#16) ∧ reg 0x018 (0#12 ++ x.winLo ++ 0#16) ∧
        reg 0x020 (0#12 ++ x.winHi ++ 0#16) ∧ reg 0x028 (0#48 ++ x.tag) ∧ reg 0x030 (0#48 ++ x.ways) ∧
        reg 0x038 (0#56 ++ x.acc) ∧ reg 0x040 (0#60 ++ x.mml) ∧ reg 0x048 (x.log ++ 0#6) ∧ reg 0x050 (x.qtab ++ 0#13) ∧
        reg 0x058 (0#62 ++ BitVec.ofBool x.migPortable ++ BitVec.ofBool x.migDrain) ∧
        (∀ m < 4, ∃ w : Word, reg (0x060 + 8 * m) w ∧ ∀ b < 64, w.getLsbD b =
          decide ((s.queue c (BitVec.ofNat 8 (64 * m + b))).state = .stopped)) ∧
        reg 0x080 (x.man ++ 0#11 ++ x.lgcount) ∧ reg 0x088 (BitVec.ofBool x.invPend ++ 0#63) ∧ reg 0x090 (x.lay ++ 0#9) ∧
        reg 0x098 (x.save ++ 0#12) ∧ reg 0x0A0 (x.svUsed ++ x.svSize) ∧ reg 0x0A8 (0#32 ++ x.dlSave ++ x.dlDrain) ∧
        reg 0x0B0 (x.rwt ++ 0#13) ∧ (∀ n, 0x0B0 < n → n < 0x1000 → reg n 0) ∧
        reads s 0x600000 (0#48 ++ x.lnSlot ++ x.lnCore) ∧ reads s 0x600010 0 ∧
        reads s 0x600018 (x.lnBase ++ 0#3 ++ x.lnLgseg ++ 0#6 ++ x.lnMode) ∧
        (∀ i < 16, reads s (0x600100 + 8 * i) (s.stallCount x.lnCore.toNat c i)) ∧
        (let quadRegs : List Nat := (List.range 48).map fun i => 0x200 + 8 * i
         let keeps (l : List (Nat × Word)) : State := put fun y => { y with lnShot := l }
         let shows (off : Nat) (w : Word) : Prop := x.lnShot.any (fun y => y.1 == off) = false →
           reads (keeps ((quadRegs.map fun r => (r, s.lanternWord c r)).filter fun y => y.1 != off)) (0x600000 + off) w
         (∀ off ∈ quadRegs, x.lnShot.any (fun y => y.1 == off) = true →
           reads (keeps (x.lnShot.filter fun y => y.1 != off)) (0x600000 + off) (lookupD x.lnShot off 0)) ∧
         (s.selected c = none → ∀ i < 48, shows (0x200 + 8 * i) 0) ∧
         ∀ (t w : Nat) (n : BitVec 4), s.selected c = some (t, w) → n.toNat < (s.wave t w).quads.length →
           let y := s.quad t w n.toNat
           shows (0x200 + 16 * n.toNat) (BitVec.ofNat 3 y.jreg ++ BitVec.ofNat 4 y.waitCode ++
             y.issued.pc.extractLsb' 0 57) ∧
           shows (0x208 + 16 * n.toNat) (BitVec.ofNat 64 ((s.wave t w).mapOf n.toNat + y.em.toNat * 2 ^ 16)) ∧
           (y.exited = true → y.waitCode = 8) ∧
           (let code (a : QWait) (k : Nat) : Prop := y.exited = false → y.wait = a → y.waitCode = k;
             (∀ m a b, code (.header m a b) 1) ∧ (∀ j t, code (.jwait j t) 2) ∧ (∀ m t, code (.fuse m t) 3) ∧
             (∀ a, code (.counter a) 4) ∧ code .engineFull 5 ∧ code .unhandled 7 ∧
             code .ready (if y.inHandler then 6 else 0)) ∧
           ∃ d, shows (0x300 + 8 * n.toNat) d ∧ ∀ j < 8, d.extractLsb' (8 * j) 8 = y.joins.toList.getD j 0)) ∧
      (v.getLsbD 0 = true → exec (.lnclr p c v) s = .next
        { s with stalls := s.stalls.filterMap fun y =>
            if y.core = x.lnCore.toNat ∧ y.ctx = c then
              (if y.clk = s.clk then some { y with count := y.recent } else none)
            else some y }) ∧
      (v.getLsbD 0 = false → exec (.lnclr p c v) s = .next s) ∧
      (∀ (n : BitVec 4) (gm : Bool),
        let u := put fun y => { y with lnShot := [] }
        let refused := u.modCtx c fun y => { y with lnRefused := if y.lnRefused = 255 then 255 else y.lnRefused + 1 }
        (∀ t w, s.selected c = some (t, w) →
          (n.toNat < (s.wave t w).quads.length → (s.wave t w).stopped = true →
            exec (.lanternQuadWrite p c n gm v) s = .next (u.modQuad t w n.toNat fun q =>
              if gm then { q with em := v.extractLsb' 16 4 }
              else q.setNext ((v.extractLsb' 0 57 : BitVec 57).signExtend 64))) ∧
          ((s.wave t w).quads.length ≤ n.toNat ∨ (s.wave t w).stopped = false →
            exec (.lanternQuadWrite p c n gm v) s = .next refused)) ∧
        (s.selected c = none → exec (.lanternQuadWrite p c n gm v) s = .next refused)) ∧
      ∀ (q : Quad) (a : Word), (q.setNext a).issued.pc = a ∧ q.setNext a = { q with pc := (q.setNext a).pc })

/-- R9, R25, R31, R45, R49 to R52, R124, R142, R182, R191, R432 to R434, R439 to R445: the device's reset and firmware, its
clock, host accesses to device memory, reads of its registers, Sector links, and the requests that leave and reach the
device. The model's choices in it: what a device reset keeps (notes/assumptions/51.md), registers that read 0 before the
firmware runs (49.md), the order and the addresses of host accesses (50.md), the layout of the identity record (52.md), how
a failed request reaches its requester (55.md), the code 0x0002 of a refused counter operation (80.md), and the masking
of MSI-X vectors (84.md). -/
def Obligations.DeviceEvents : Prop :=
  ∀ (s : State) (p : Port) (n : Nat),
    -- firmware and clock
    (∃ t, exec .deviceReset s = .next t ∧ t = { State.reset with
      mem := s.mem, poisoned := s.poisoned, flash := s.flash, route := s.route, agenda := s.agenda, free := s.free
      nextId := s.nextId }) ∧
    (s.fw = .verifying → (imageOk s.flash = true → exec .firmwareVerifyComplete s = .next { s with fw := .running }) ∧
      (imageOk s.flash = false → exec .firmwareVerifyComplete s = .next
        { s with fw := .failed, recovery := { buffer := [], len := 0, state := 0, reason := 0 } })) ∧
    (s.fw ≠ .verifying → exec .firmwareVerifyComplete s = .next s) ∧
    (s.fw = .failed → s.recovery.state ≠ 1 → exec .rcvcmdGo s = .next
      { s with recovery := { s.recovery with state := 1, reason := 0 } }) ∧
    (s.fw = .failed → s.recovery.state = 1 →
      let img := s.recovery.buffer.read 0 s.recovery.len.toNat
      (recoveryReason s.recovery.len.toNat img = 0 → exec .recoveryVerifyComplete s = .next
        { s with flash := img, recovery := { s.recovery with state := 2, reason := 0 } }) ∧
      (recoveryReason s.recovery.len.toNat img ≠ 0 → exec .recoveryVerifyComplete s = .next
        { s with recovery := { s.recovery with state := 3, reason := recoveryReason s.recovery.len.toNat img } })) ∧
    (∀ nonce, s.fw = .running → (∃ c, s.owner c = some p) → exec (.attestationRequest p nonce) s = .next
      (s.modPort p fun y => { y with attestation := some (identityRecord s nonce) })) ∧
    exec .clockStepDown s = .next { s with rate := if 12 < s.rate then s.rate - 1 else s.rate } ∧
    exec .clockStepUp s = .next { s with rate := if s.rate < 19 then s.rate + 1 else s.rate } ∧
    -- host accesses
    (∀ (a : BitVec 40) (len : Nat), 1 ≤ len → a.toNat % 65536 + len ≤ 65536 →
      let pa := a.toNat
      (s.hostCtx p pa = none → exec (.hostBar4Read p a len) s = .next
        (({ s with tenderLog := { port := p, offset := pa } :: s.tenderLog } : State).modPort p fun y =>
          { y with reply := .data (List.replicate len 0) })) ∧
      (∀ c, s.hostCtx p pa = some c → s.poisonedRange pa len = false → ∃ t, exec (.hostBar4Read p a len) s = .next t ∧
        (t.portAt p).reply = .data (t.mem.read pa len) ∧
        ((∀ l, pa / 128 ≤ l → l * 128 < pa + len → s.record l = none) → t.mem = s.mem)) ∧
      (∀ (c : BitVec 6) (bs : List Byte) (relaxed : Bool), bs.length = len → pa % 128 + len ≤ 128 →
        s.hostCtx p pa = some c → s.isPoisoned (pa / 128) = false → s.mem.wf = true →
        (∀ w ∈ wordsIn pa len, s.word w ≤ (s.rawWrite c pa bs).word w) →
        ∃ t, exec (.hostPostedWrite p a bs relaxed) s = .next t ∧ t.outsideReleased (pa / 128) = true ∧
          ∀ b, t.mem.get b = if pa ≤ b ∧ b < pa + len then bs.getD (b - pa) 0 else s.mem.get b)) ∧
    (∀ (a : BitVec 40) (v : Word) (c : BitVec 6),
      let pa := a.toNat
      let reply (u : State) (r : HostReply) : State := u.modPort p fun y => { y with reply := r }
      (pa % 8 ≠ 0 → exec (.hostFetchadd p a v) s = .next (reply s .completerAbort)) ∧
      (pa % 8 = 0 → s.hostCtx p pa = some c → s.isPoisoned (pa / 128) = false →
        (2 ^ 64 ≤ (s.word pa).toNat + v.toNat → exec (.hostFetchadd p a v) s = .next
          (reply ((s.dirtyLine (lineOf pa) c).log c (.plain 0x0002 (9 + match p with | .p0 => 0 | .p1 => 1) 2 (BitVec.ofNat 64 pa))) .completerAbort)) ∧
        ((s.word pa).toNat + v.toNat < 2 ^ 64 → (s.ctx c).lnActive = 0 → s.record (pa / 128) = none → s.mem.wf = true →
          ∃ t, exec (.hostFetchadd p a v) s = .next t ∧ (t.portAt p).reply = .data (leBytes 8 (s.word pa).toNat) ∧
            t.word pa = s.word pa + v ∧ ∀ b, b < pa ∨ pa + 8 ≤ b → t.mem.get b = s.mem.get b))) ∧
    s.hostAtomic p = s.modPort p (fun y => { y with reply := .unsupported }) ∧
    -- MSI-X: a vector of a masked entry becomes pending, and is raised as the entry is unmasked
    (∀ (y : PortSt) (i : BitVec 8) (e : MsixEntry), y.msix[i.toNat]? = some e →
      (e.masked = true → (y.raiseVector i.toNat).raised = y.raised ∧
        (y.raiseVector i.toNat).msix[i.toNat]? = some { masked := true, pending := true }) ∧
      (e.masked = false → y.raiseVector i.toNat = { y with raised := i.toNat :: y.raised }) ∧
      (e.pending = true → (y.setMask i.toNat false).raised = i.toNat :: y.raised ∧
        (y.setMask i.toNat false).msix[i.toNat]? = some { masked := false, pending := false }) ∧
      ((y.setMask i.toNat true).raised = y.raised ∧
        (y.setMask i.toNat true).msix[i.toNat]? = some { masked := true, pending := e.pending }) ∧
      (e.pending = false → (y.setMask i.toNat false).raised = y.raised)) ∧
    (∀ (c : BitVec 6) (k : Nat), s.owner c = some p → s.raise c k = s.modPort p (·.raiseVector (4 * c.toNat + k))) ∧
    -- registers of the device and the recovery window
    (let reads (bar : Bar) (off : Nat) (w : Word) : Prop :=
        s.hostRegisterRead p bar off = s.modPort p fun y => { y with reply := .data (leBytes 8 w.toNat) }
      let owned (o : Port) (w : Word) : Prop := ∀ c : BitVec 6, w.getLsbD c.toNat = decide (s.owner c = some o)
      (s.fw = .running →
        reads .bar0 0x0800 (0#32 ++ BitVec.ofBool s.fabValid ++ 0#11 ++ s.fabId) ∧
        reads .bar0 0x0810 (0#46 ++ (s.portAt p).ownResult ++ 0#16) ∧
        (∃ w, reads .bar0 0x0818 w ∧ owned .p0 w) ∧ (∃ w, reads .bar0 0x0820 w ∧ owned .p1 w) ∧
        (∀ k < 18, let l := s.link k
          let st : BitVec 3 := match l.state with
            | .disabled => 0 | .down => 1 | .training => 2 | .up => 3 | .failed => 4
          reads .bar0 (0x1000 + 8 * k) (0#16 ++ l.peer ++ l.plink ++ 0#7 ++ l.fails ++ 0#5 ++ st) ∧
          reads .bar0 (0x1100 + 8 * k) (0#63 ++ BitVec.ofBool l.en)) ∧
        (∀ i < 262144, reads .bar0 (0x100000 + 8 * i) (s.routeOf (4 * i + 3) ++ s.routeOf (4 * i + 2) ++
          s.routeOf (4 * i + 1) ++ s.routeOf (4 * i)))) ∧
      (s.fw = .failed → p = .p0 → let r := s.recovery
        (∀ i < 523776, reads .bar2 (8 * i) (BitVec.ofNat 64 (leNat (r.buffer.read (8 * i) 8)))) ∧
        reads .bar2 0x3FF000 (0#42 ++ r.len) ∧ reads .bar2 0x3FF008 0 ∧ reads .bar2 0x3FF010 (0#48 ++ r.reason ++ 0#5 ++ r.state)) ∧
      (s.fw = .failed → p = .p1 → ∀ off, reads .bar2 off 0)) ∧
    -- links
    (s.fw = .running → p = .p0 →
      exec (.lnkctlEnSet p n) s = .next (s.modLink n fun l =>
        { l with en := true, state := if l.state = .disabled ∧ s.fabValid = true then .down else l.state }) ∧
      exec (.lnkctlEnClear p n) s = .next ((if (s.link n).state = .up then s.failLink n else s).modLink n fun l =>
        { l with en := false, state := .disabled, fails := if l.state = .failed then 0 else l.fails })) ∧
    (s.fw ≠ .running ∨ p ≠ .p0 → exec (.lnkctlEnSet p n) s = .next s ∧ exec (.lnkctlEnClear p n) s = .next s) ∧
    exec (.linkPeerDetected n) s = .next
      (s.modLink n fun l => if l.state = .down then { l with state := .training, trainAt := s.wall } else l) ∧
    (∀ peer plink, exec (.linkTrained n peer plink) s = .next (s.modLink n fun l =>
      if l.state = .training ∧ s.wall ≤ l.trainAt + 10000 * microsecond then
        { l with state := .up, peer := peer, plink := plink, fails := 0 } else l)) ∧
    exec (.linkTrainingTimeout n) s = .next (s.modLink n fun l =>
      if l.state = .training ∧ l.trainAt + 10000 * microsecond ≤ s.wall then
        { l with state := if 8 ≤ l.fails.toNat + 1 then .failed else .down, fails := l.fails + 1 } else l) ∧
    exec (.linkFlitError n) s = .next s ∧
    ((s.link n).state = .up → exec (.linkLoss n) s = .next ((s.failLink n).modLink n fun l => { l with state := .down })) ∧
    ((s.link n).state ≠ .up → exec (.linkLoss n) s = .next s) ∧
    (∀ (dst : Nat) (bs : List Byte) (l : Nat), s.linkUp n = true → dst ≠ s.fabId.toNat →
      routeLink s (BitVec.ofNat 20 dst) = some l → exec (.sectorForwarding n dst bs) s = .next
        { s with sectorOut := .forward l dst bs :: s.sectorOut }) ∧
    -- requests that this device serves
    (∀ r : RemoteReq, s.linkUp n = true →
      let c := r.dstCtx
      let replies (u : State) (x : RemoteRep) : State := { u with sectorOut := .reply n r.id x :: u.sectorOut }
      ((s.ctx c).phase.live = false → exec (.remoteRequest n r) s = .next
        (replies (s.log c (.plain 0x0006 7 0 r.addr)) (.refused .other))) ∧
      ((s.ctx c).phase.live = true → r.tag ≠ (s.ctx c).tag → exec (.remoteRequest n r) s = .next
        (replies (s.log c (.plain 0x0004 7 0 r.addr)) (.refused .tenant))) ∧
      ((s.ctx c).phase.live = true → r.tag = (s.ctx c).tag →
        (∀ v w, servePlace s r = (v, .error w) → (∀ id, r.kind ≠ .cancel id) →
          let e : LogEntry := if w.counter then .plain 0x0002 7 1 r.addr else
            .plain (match w.why with | .tenant => 0x0004 | .window => 0x0005 | .other => 0x0006) 7 0 r.addr
          exec (.remoteRequest n r) s = .next (replies (v.log c e) (.refused w.why))) ∧
        (∀ v rel, r.kind = .add v rel → r.addr.toNat % 8 ≠ 0 →
          servePlace s r = (s, .error { why := .other, counter := true })) ∧
        (∀ k v ps, r.kind = .read k → servePlace s r = (v, .ok ps) → ∃ t, exec (.remoteRequest n r) s = .next t ∧
          t.mem = s.mem ∧ t.sectorOut =
            .reply n r.id (.data ((ps.flatMap fun x => s.mem.read x.1 x.2.1).take k)) :: s.sectorOut) ∧
        (∀ v rel u pa k e, r.kind = .add v rel → servePlace s r = (u, .ok [(pa, k, e)]) → pa % 8 = 0 →
          (2 ^ 64 ≤ (u.word pa).toNat + v.toNat → exec (.remoteRequest n r) s = .next (replies
            (((u.dirtyLine (lineOf pa) c).lowAs pa e.low).log c (.plain 0x0002 7 2 r.addr)) .overflow)) ∧
          ((s.ctx c).lnActive = 0 → s.mem.wf = true → (s.word pa).toNat + v.toNat < 2 ^ 64 →
          ∃ t, exec (.remoteRequest n r) s = .next t ∧ t.word pa = s.word pa + v ∧
            (∀ b, b < pa ∨ pa + 8 ≤ b → t.mem.get b = s.mem.get b) ∧
            (rel = true → t.outsideReleased (pa / 128) = true) ∧
            t.sectorOut = .reply n r.id .done :: s.sectorOut)))) ∧
    -- requests of this device
    (∀ r, s.request? n = some r →
      (∀ bs, r.body.kind.brings = true → exec (.remoteReply n (.data bs)) s = .next (s.deliver r bs)) ∧
      (r.body.kind.brings = false → r.body.kind.isWait = false →
        exec (.remoteReply n .done) s = .next (s.acknowledged r) ∧
        exec (.remoteReply n .overflow) s = .next (s.addOverflows r)) ∧
      (∀ why, exec (.remoteReply n (.refused why)) s = .next (s.failWait r
        (match why with | .tenant => 0x0004 | .window => 0x0005 | .other => 0x0006))) ∧
      (∀ t w k, r.who = .wait t w k → exec (.remoteReply n .regression) s = .next (s.endRemoteWait r 2)) ∧
      (∀ core id key, r.who = .engine core id key → r.body.kind.isWait = true →
        exec (.remoteReply n .regression) s = .next (s.log r.ctx (.plain 0x0002 7 0 r.addr))) ∧
      (r.body.kind.isWait = true → exec (.remoteReply n .satisfied) s = .next (s.endRemoteWait r 0)) ∧
      (r.body.kind.isWait = true → r.cancelled s = false →
        exec (.remoteReply n .retry) s = .next { s with requests := s.requests.map fun (y : Request) =>
          if y.id = r.id then { y with retryAt := some s.wall } else y }) ∧
      (r.retryAt = none → r.sentAt + 2000 * microsecond ≤ s.wall →
        exec (.remoteRequestTimeout n) s = .next (s.failWait r 0x0006)) ∧
      (s.wall < r.sentAt + 2000 * microsecond → exec (.remoteRequestTimeout n) s = .next s) ∧
      (∀ t, r.retryAt = some t → t + 4 * microsecond ≤ s.wall → r.cancelled s = false → routeLink s r.dev = none →
        exec (.remoteWaitRetry n) s = .next (s.failWait r 0x0006)) ∧
      (∀ t l, r.retryAt = some t → t + 4 * microsecond ≤ s.wall → r.cancelled s = false → routeLink s r.dev = some l →
        exec (.remoteWaitRetry n) s = .next { s with
          requests := s.requests.map fun (y : Request) =>
            if y.id = r.id then { y with link := l, sentAt := s.wall, retryAt := none } else y
          sectorOut := .request l r.body :: s.sectorOut }) ∧
      (∀ ok, r.cancelled s = true →
        exec (.remoteCancelAck n ok) s = .next (s.endRemoteWait r (if ok then 0 else 1))))

/-- R58, R62, R64 to R70, R73, R81 to R90, R476: queues, packets, launches and teams. The model's readings in it: that a
queue that stops is tested before one whose head is held (notes/assumptions/76.md), when restored packets and counter adds
are taken up (79.md), the lines that a completion add waits for and the add that leaves on a Sector link (65.md), and what
a replay holds (63.md). -/
def Obligations.DispatchEvents : Prop :=
  ∀ (s : State) (c : BitVec 6) (q : BitVec 8) (idx : Word) (n core : Nat) (quarters : List Nat),
    let u := s.queue c q
    let running : Prop := (s.ctx c).phase = .running
    let becomes (t : State) (st : QueueState) : State := t.modQueue c q fun u => { u with state := st }
    -- queues
    (running → u.state = .empty → s.queueWrites c q = false → ∀ pp pc, s.counterPlace c u.prod .counterGet = some pp →
      s.counterPlace c u.cons .counterGet = some pc → ∃ t, exec (.queueReady c q) s = .next t ∧
      t = { becomes s (if s.word pc < s.word pp then .ready else .empty) with slices := t.slices, fetches := t.fetches } ∧
      t.fetches = s.fetches.filter fun f => f.ctx != c || f.queue != q) ∧
    (running → u.state = .empty → s.queueWrites c q = false →
      let stops (t : State) : State :=
        (becomes (t.clearFetches c q) .stopped).log c (.plain 0x0002 6 1 u.prod)
      (u.prod.toNat % 8 ≠ 0 → exec (.queueReady c q) s = .next (stops s)) ∧
      (∀ f, u.prod.toNat % 8 = 0 → translateFresh s c u.prod .counterGet = .error f →
        exec (.queueReady c q) s = .next (stops (s.deviceFault c 6 u.prod f)))) ∧
    (running → u.state = .blocked → ∀ v,
      (s.lookAt c q = (v, .waits) → exec (.queueReady c q) s = .next v) ∧
      (∀ va, s.lookAt c q = (v, .bad va) → exec (.queueReady c q) s = .next
        ((becomes (v.clearFetches c q) .stopped).log c (.plain 0x0002 6 1 va))) ∧
      (∀ i p place w, s.lookAt c q = (v, .values p i place) →
        (v.stillHeld c q p i place = (w, some true) → exec (.queueReady c q) s = .next (w.clearFetches c q)) ∧
        (v.stillHeld c q p i place = (w, some false) →
          exec (.queueReady c q) s = .next (becomes (w.clearFetches c q) .ready)) ∧
        (v.stillHeld c q p i place = (w, none) → exec (.queueReady c q) s = .next w))) ∧
    -- what the counters say, and what holds a head packet
    (∀ v i p place, s.lookAt c q = (v, .values p i place) →
      (p ≤ i → observe s c q = (v, .empty) ∧
        v.stillHeld c q p i place = (v, some (v.headHeld c (v.queue c q) none))) ∧
      (i < p → 2 ^ u.lgsize < (p - i).toNat → observe s c q = (v, .over))) ∧
    (∀ raw, s.headHeld c u (some raw) = true ↔
      16 ≤ u.admitted.length ∨ (∃ a ∈ u.admitted, packetType a.packet = 3) ∨
        (packetBarrier raw = true ∧ u.admitted ≠ []) ∨
        (packetType raw = 1 ∧ field raw 56 4 ≠ 0xFFFFFFFF ∧
          ∃ l ∈ s.launches, l.ctx = c ∧ l.inFlight = true ∧ l.gridid = field32 raw 56)) ∧
    (¬ running → exec (.queueReady c q) s = .next s) ∧
    exec (.queuePriorityAging c q) s = .next (s.modQueue c q fun u =>
      { u with boost := u.boost + u.readyCycles / 65536, readyCycles := u.readyCycles % 65536 }) ∧
    (∀ d b v i p slot raw,
      (((List.range 64).map fun i => s.lastGrant + 1 + BitVec.ofNat 6 i).find? fun c => s.takesGrant c) = some d →
      let w : State := { s.modCtx d (fun x => { x with queues := x.queues.map Queue.age }) with lastGrant := d }
      w.pick d [] = some b →
      (observe w d b = (v, .over) → exec .dispatchOpportunity s = .next
        (((v.clearFetches d b).modQueue d b fun u => { u with state := .stopped }).log d
          (.plain 0x0007 6 0 (v.queue d b).prod))) ∧
      (observe w d b = (v, .head i p slot raw) → ∀ y,
      (∀ x, checkPacket v d b slot raw = (y, .ok x) →
        exec .dispatchOpportunity s = .next ((y.clearFetches d b).admitHead d b i p (raw.getD []) x)) ∧
      (∀ va, checkPacket v d b slot raw = (y, .bad va) → exec .dispatchOpportunity s = .next
        (((y.clearFetches d b).modQueue d b fun u => { u with state := .stopped }).log d (.plain 0x0007 6 0 va))))) ∧
    ((∀ d, s.takesGrant d = false) → exec .dispatchOpportunity s = .next s) ∧
    -- admission: the add of 1 to the consumer counter comes first
    (∀ i p raw x, let e : Entering := x.entering i p raw
      let granted (t : State) : State := (t.modQueue c q fun u => { u with readyCycles := 0, boost := 0 }).modCtx c
        fun y => { y with lastQueue := q }
      (s.packetCounter c u.cons = false → s.admitHead c q i p raw x =
        ((s.counterPoison c 6 u.cons .counterAdd).modQueue c q fun u => { u with state := .stopped }).log c
          (.plain 0x0002 6 1 u.cons)) ∧
      (s.packetCounter c u.cons = true → ∀ t,
        (dispatchAdd s c u.cons 1 (.tender q) = .over t → s.admitHead c q i p raw x = (granted t).enterPacket c q e) ∧
        (∀ r, dispatchAdd s c u.cons 1 (.tender q) = .sent t r → s.admitHead c q i p raw x =
          (granted t).modQueue c q fun u => { u with entering := some { e with req := r } }) ∧
        (dispatchAdd s c u.cons 1 (.tender q) = .held t → s.admitHead c q i p raw x = t))) ∧
    (∀ e, u.entering = some e → s.packetEnters c q = s.enterPacket c q e ∧ ∀ detail, s.entryFails c q detail =
      ((s.modQueue c q fun u => { u with entering := none }).modQueue c q fun u => { u with state := .stopped }).log c
        (.plain 0x0002 6 detail u.cons)) ∧
    (∀ e, let t := s.enterPacket c q e
      (∀ k, e.kernel = some k → t.launches = s.launches ++ [launchOf c q e.index e.packet k (nextGrid (s.ctx c).grid).1] ∧
        (t.ctx c).grid = (nextGrid (s.ctx c).grid).2 ∧
        (t.queue c q).admitted = u.admitted ++ [admittedOf s.nextId e]) ∧
      (t.queue c q).state = if u.state = .ready ∧ e.producer ≤ e.index + 1 then .empty else u.state) ∧
    -- packets
    (∀ a, s.packet? c q idx = some a →
      let gone (t : State) : State :=
        let t := t.modQueue c q fun u => { u with admitted := u.admitted.filter fun x => x.id != a.id }
        if packetIrq a.packet then t.raise c 0 else t
      ((u.admitted.find? fun x => x.id == a.id) = some a →
        s.finishPacket c q a.id = gone s) ∧
      (packetType a.packet = 3 → s.packetsRun c = true → s.startsNow c a = true → a.logged = [] →
        (s.ctx c).lnActive = 0 → ∀ pa, s.counterPlace c (field64 a.packet 8) .counterGet = some pa →
        let v := (((s.modPacket c q a.id fun a => { a with restored := false }).touchWalk c
          (field64 a.packet 8)).dirtyLine (lineOf pa) c)
        (field64 a.packet 16 ≤ s.word pa → exec (.counterWaitPacketSatisfied c q idx) s = .next
          ((acquireSystem v (pa / 128)).finishPacket c q a.id)) ∧
        (s.word pa < field64 a.packet 16 → exec (.counterWaitPacketSatisfied c q idx) s = .next v)) ∧
      (packetType a.packet = 4 → s.packetGoes c a = true →
        let v := if a.restored then s.modPacket c q a.id fun a => { a with restored := false } else s
        (v.isOldest c q a.id = false → exec (.counterAddPacketPerform c q idx) s = .next v) ∧
        (v.isOldest c q a.id = true → a.started = true → exec (.counterAddPacketPerform c q idx) s = .next
          (if v.packetAsked a.id then v else v.finishPacket c q a.id)) ∧
        (v.isOldest c q a.id = true → a.started = false → ∀ t,
          let add := dispatchAdd v c (field64 a.packet 8) (field64 a.packet 16) (.engine dispatcherCore a.id 0)
          (add = .over t → exec (.counterAddPacketPerform c q idx) s = .next (t.finishPacket c q a.id)) ∧
          (∀ r, add = .sent t r → exec (.counterAddPacketPerform c q idx) s = .next
            (t.modPacket c q a.id fun a => { a with started := true })) ∧
          (add = .held t → exec (.counterAddPacketPerform c q idx) s = .next t))) ∧
      (s.packetGoes c a = false → exec (.copyPacketPerform c q idx) s = .next s ∧
        (packetType a.packet = 4 → exec (.counterAddPacketPerform c q idx) s = .next s)) ∧
      (∀ j, s.packetGoes c a = true → a.job = some j → a.started = true → a.stage = 0 → s.engFetching (a.eng c) = true →
        exec (.copyPacketPerform c q idx) s = .next s)) ∧
    exec (.copyPacketPerform c q idx) s = .next (s.copyPacketGo c q idx 6) ∧
    (∀ a, s.packet? c q idx = some a → packetType a.packet = 2 → s.packetGoes c a = true → a.job.isSome = true →
      a.started = true → a.stage = 3 → s.copyPacketGo c q idx 1 =
        if s.engOutstanding a.core a.id then s else s.finishPacket c q a.id) ∧
    (∀ a j, s.packet? c q idx = some a → packetType a.packet = 2 → s.packetGoes c a = true → a.job = some j → a.started = true → a.stage = 0 →
      s.engFetching (a.eng c) = false →
      s.copyPacketGo c q idx 1 = (copyBytes s (a.eng c) j.b a.fetched j.b.dest).modPacket c q a.id
        fun _ => { a with stage := 1, logged := [] }) ∧
    (∀ (va addend : Word) (who : Requester) pa, s.counterPlace c va .counterAdd = some pa →
      (2 ^ 64 ≤ (s.word pa).toNat + addend.toNat →
        dispatchAdd s c va addend who =
          .over (((s.touchWalk c va).dirtyLine (lineOf pa) c).log c (.plain 0x0002 6 2 va))) ∧
      ((s.word pa).toNat + addend.toNat < 2 ^ 64 → (s.ctx c).lnActive = 0 → s.mem.wf = true → pa % 8 = 0 →
        ∃ t, dispatchAdd s c va addend who = .over t ∧ t.word pa = s.word pa + addend ∧
          t.outsideReleased (pa / 128) = true ∧ ∀ b, b < pa ∨ pa + 8 ≤ b → t.mem.get b = s.mem.get b)) ∧
    -- launches and teams
    (∀ l, s.launches[n]? = some l →
      (s.isTurn n l.ctx = true → s.teamFits l.kernel core quarters = true →
        (∀ k, s.replayCore l.ctx l.gridid ((s.nextTeam n).id s l) = some k → k = core) →
        (s.nextTeam n = .new → exec (.teamPlace n core quarters) s = .next (s.startTeam n core l quarters)) ∧
        (∀ t, s.nextTeam n = .saved t → exec (.teamPlace n core quarters) s = .next
          ((((s.seatTeam t core quarters).pushLines t).restoreTeam t).recordPlacement t)) ∧
        (s.nextTeam n = .none → exec (.teamPlace n core quarters) s = .next s)) ∧
      (s.teamFits l.kernel core quarters = false → exec (.teamPlace n core quarters) s = .next s) ∧
      (l.state ≠ .completing → exec (.launchCompletionAdd n) s = .next s) ∧
      (l.state = .completing → l.sent = false →
        let cores := s.launchCores n
        let v := s.settleStores l.ctx cores
        (cores.any fun core => v.awaitsSector core l.ctx) = false →
        ∀ t, let add := dispatchAdd v l.ctx l.compAddr l.addend (.engine dispatcherCore (2 ^ 64 + n) 0)
          (add = .over t → exec (.launchCompletionAdd n) s = .next (t.finishLaunch n l)) ∧
          (∀ r, add = .sent t r →
            exec (.launchCompletionAdd n) s = .next (t.modLaunch n fun l => { l with sent := true })) ∧
          (add = .held t → exec (.launchCompletionAdd n) s = .next t)) ∧
      (l.state = .completing → l.sent = true → s.packetAsked (2 ^ 64 + n) = true →
        exec (.launchCompletionAdd n) s = .next s) ∧
      (l.state = .completing → l.sent = true → s.packetAsked (2 ^ 64 + n) = false →
        exec (.launchCompletionAdd n) s = .next (s.finishLaunch n l)) ∧
      (∀ k, let t := l.team n
        t.ctx = l.ctx ∧ t.scratch = [] ∧ t.counter = 0 ∧ t.waves.length = l.kernel.waves ∧
        (k < l.kernel.waves → (t.wave k).wid = k ∧ (t.wave k).quads.length = 2 ^ l.kernel.lgwave ∧
          ∀ i < 2 ^ l.kernel.lgwave, let z := (t.wave k).quad i
            z.pc = l.kernel.entry ∧ z.em = 0xF ∧ z.seed = l.kernel.seed ∧ z.inHandler = false ∧ z.exited = false ∧
            z.s.toList = [field64 l.packet 16, BitVec.ofNat 64 (field l.packet 36 4),
              BitVec.ofNat 64 (field l.packet 24 4 + field l.packet 28 4 * 2 ^ 32),
              BitVec.ofNat 64 (field l.packet 32 4)] ++ List.replicate 60 0))) ∧
    (let x := s.team n;
      (x.phase = .live ∨ x.phase = .stopped → s.teamQuiet n = true → s.restored n = true →
        (s.needsDrain n = false → exec (.teamEnd n) s = .next (s.freeTeam n)) ∧
        (s.needsDrain n = true → exec (.teamEnd n) s = .next (s.pumpDrain n s.nextId))) ∧
      (s.teamQuiet n = false → exec (.teamEnd n) s = .next s)) ∧
    -- an arrival that has waited 1 ms in a replay
    (let waits := ((s.sliceAt n).replayOf c).waits;
      ((s.ctx c).lnActive = 2 → (s.ctx c).lnDiverged = false → (∃ w ∈ waits, w.since + 1000 * microsecond ≤ s.wall) →
        exec (.replayArrivalTimeout c n) s = .next (s.modCtx c fun x => { x with lnDiverged := true })) ∧
      ((s.ctx c).lnActive ≠ 2 ∨ (∀ w ∈ waits, s.wall < w.since + 1000 * microsecond) →
        exec (.replayArrivalTimeout c n) s = .next s))

/-! ### Decoding, the step, reset and the invariant -/

/-- R268 to R290, R401: words that the spec itself writes out, of each class and several families, decode to
the instructions it derives them from; reserved words do not decode. -/
def Obligations.DecodeKnownWords : Prop :=
  -- scalar: sadd s4, s2, s3; sgetr s9, QPC, 5; bmnz, 12 words ahead; cadd.rel [s4], s5; sfmt.e4m3.e5m2
  decodeCode [0x001020C0] = .ok (.sadd 4 2 3, []) ∧
  decodeCode [0x0A240148] = .ok (.sgetrQpc 9 5, []) ∧
  decodeCode [0x1020000C] = .ok (.bmnz 12, []) ∧
  decodeCode [0x20004141] = .ok (.caddRel 4 5, []) ∧
  decodeCode [0x280001AC] = .ok (.sfmt 12 13, []) ∧
  -- lane: vpack.i8 v24, v20; ?!p4 pmor p5; vld.i32.fa v8, [s6 + v12*4 + 0x40]
  decodeCode [0x50106014, 0x00000F80, 0] = .ok (.vpack
    { vd := 24, va := 20, vb := 0, vc := 0, guard := 31, neg := false, flag := .none, minw := 0 }
    { ty := .i8, rnd := .rne, sat := false, ftz := false }, []) ∧
  decodeCode [0x58A00005, 0x00000240, 0] = .ok (.pmor
    { vd := 0, va := 5, vb := 0, vc := 0, guard := 4, neg := true, flag := .none, minw := 0 }, []) ∧
  decodeCode [0x5C00200C, 0x01800F90, 0x00400802] = .ok (.vld
    { vd := 8, va := 12, vb := 6, vc := 0, guard := 31, neg := false, flag := .a, minw := 0 } .i32
    { off := 0x40, flat := false, ord := .none, yield := false, scale := 2 }, []) ∧
  -- .clause wait=f0 of four words
  decodeCode [0xC0040000, 0x01000000] = .ok (.clauseHeader
    { wait := 1, setA := none, setB := none, length := 4, yield := false, msplit := false }, []) ∧
  -- walk code: shr a1, a1, 4; movi of the worked program; tri a3, a2, a4
  decodeWalk 0x3C900044 = .ok (.walkShr 1 1 4) ∧
  decodeWalk 0x45000000 = .ok (.walkMovi 2 0) ∧
  decodeWalk 0x15A80000 = .ok (.walkTri 3 2 4) ∧
  -- a reserved SU operation, a reserved lane opcode, a walk operation above 0x15
  (decodeCode [0x38000000]).toOption = none ∧ (decodeCode [0x68000000, 0xF80, 0]).toOption = none ∧
  (decodeWalk 0x58000000).toOption = none

/-- R268 to R289 and R401: the decoder gives back every well-formed instruction from the words that the
encoder writes for it, whatever words follow; an operation of walk code is one word of its own stream. -/
def Obligations.DecodeEncode : Prop :=
  ∀ i : Instr, i.wf = true → encode i ≠ [] →
    (∃ n, encode i = [n] ∧ decodeWalk n = .ok i) ∨
    ∀ rest, decodeCode (encode i ++ rest) = .ok (i, rest)

/-- R117, R268, R272, R274, R401, R402, R414: a step runs the decoded instruction. When nothing is due before it and a
quarter is the next to move, the oldest ready gang of its active set then issues, unless the
datapath is busy; with no trap pending, the word at its PC and the words after it are fetched and decoded,
and the step is `exec` of the instruction they decode to, in the state the fetch leaves: outside a clause a
header, inside one an instruction of another class that fits the rest of the body. A header where no clause
may begin, a word outside a clause that is no header, an instruction that does not fit and words that do
not decode raise the illegal-instruction fault instead. A word of a cached instruction line, and a word of
HBM on a miss, is the little-endian word at its place. A walk engine's step performs the decoded walk
operation; a word that is none faults the walk. That an instruction which overruns its body is illegal before its later
words are fetched is the model's reading (notes/assumptions/64.md). -/
def Obligations.StepIssues : Prop :=
  (∀ (s : State) (core q : Nat) (rest : List Slot) (g : GangRef),
    s.due = none → s.agenda = { dt := 0, agent := .quarter core q } :: rest →
    let v : State := { s with agenda := rest }
    oldest (readyGangs v core q true) = some g →
    (∀ x, (v.core core).quarters[q]? = some x → x.busyUntil ≤ v.clk) →
    let u := { v with cur := .gang g.t g.w g.base }
    u.takePending g = none →
    ∀ (u1 : State) (w : Code), fetchWord u (u.coreOf g) (u.ctxOf g) (u.leader g).pc = (u1, .word w) →
      let header : Bool := slice (zext w) 31 30 == 3
      ((header = !(u.leader g).clause.isNone) → step s = .next
        (u1.illegal g (if (u.leader g).clause.isNone then 1 else srcOf w))) ∧
      (∀ k, (u.leader g).clause = some k → k.left.toNat < instrWords w →
        step s = .next (u1.illegal g (srcOf w))) ∧
      (((u.leader g).clause = none ∧ header = true ∨
          ∃ k, (u.leader g).clause = some k ∧ header = false ∧ instrWords w ≤ k.left.toNat) →
        ∀ (u2 : State) (ws : List Code),
          fetchWords u1 (u.coreOf g) (u.ctxOf g) ((u.leader g).pc + 4) (instrWords w - 1) = (u2, .ok ws) →
          (∀ i l, decodeCode (w :: ws) = .ok (i, l) → step s = exec i u2) ∧
          (∀ e, decodeCode (w :: ws) = .error e → step s = .next (u2.illegal g (srcOf w))))) ∧
  (∀ (s s1 : State) (core : Nat) (c : BitVec 6) (va : Word) (pa : Nat) (e : TlbEntry),
    translate s core c va .fetch = (s1, .ok (pa, e)) →
    (e.verified = false → fetchWord s core c va = (s1, .check e.base)) ∧
    (∀ h, e.verified = true → (s1.core core).iline c (va.toNat / 128) = some h →
      fetchWord s core c va = (s1, .word (field32 h.data.toList (va.toNat % 128)))) ∧
    (e.verified = true → (s1.core core).iline c (va.toNat / 128) = none → physKind pa = .hbm →
      poisonedView s1 core c va pa = false →
      (fetchWord s core c va).2 =
        .word (field32 (codeLine s1 core c (va.toNat / 128) (lineOf pa)) (va.toNat % 128)))) ∧
  (∀ (s : State) (core id : Nat) (rest : List Slot) (x : Code) (u : State),
    s.due = none → s.agenda = { dt := 0, agent := .walk core id } :: rest →
    ({ s with agenda := rest } : State).nextWalk core id = .word x u →
    u.cur = .walk core id ∧
    (∀ i, decodeWalk x = .ok i → step s = exec i u) ∧
    (∀ e, decodeWalk x = .error e → step s = badWalkWord u))

/-- The other moves of a step. What is due takes place first, with no issuer: the expiry of a watchdog, a line that a full
L1 or slice gives up, and, once every event of the cycle has taken place, the test of arrived sets, then a timer that has
run out (R107, R109, R110, R131, R421). Else a head of the agenda whose time has not come waits one cycle, in which the slices perform what they have
queued (R202); an empty agenda lets a cycle pass. An event of the agenda happens with no issuer; a quarter with no ready
gang does nothing, a busy one counts a stalled cycle (R117, R119, R468), and a pending trap is taken before the fetch
(R414); a walk engine whose walk has no word to perform ends in the state that says why; a host reads a register, has
an AtomicOp refused, or masks an MSI-X vector (R45, R432, R433). That the agenda says who moves next, and after how
long, is the model's own choice (notes/assumptions/2.md). -/
def Obligations.StepAgenda : Prop :=
  ∀ (s : State) (rest : List Slot) (dt : Nat),
    -- what is due
    (∀ d, s.due = some d → step s = d.perform { s with cur := .none }) ∧
    (∀ d, s.dogDue = some d → s.due = some d) ∧
    (s.cycleOver = true → s.due = none → s.timer = none) ∧
    (s.cycleOver = false → ∀ d, s.due = some d →
      (∃ t w n, d = .watchdog t w n) ∨ (∃ k c va, d = .l1Line k c va) ∨ ∃ l, d = .l2Line l) ∧
    (s.cycleOver = true → s.dogDue = none → s.l1Due = none → s.l2Due = none → s.due = s.timer) ∧
    (∀ d, s.joinTimer = some d → s.timer = some d ∧ ∃ t w, d = .join t w) ∧
    (∀ t w, (Due.join t w).perform s = .next (s.joinTest t w)) ∧
    -- the agenda
    (s.due = none →
      (s.agenda = [] → step s = .next s.cycle) ∧
      (∀ a, s.agenda = { dt := dt + 1, agent := a } :: rest →
        step s = .next ({ s with agenda := { dt := dt, agent := a } :: rest } : State).cycle) ∧
      let v : State := { s with agenda := rest }
      (∀ i, s.agenda = { dt := 0, agent := .event i } :: rest → step s = exec i { v with cur := .none }) ∧
      (∀ p bar off, s.agenda = { dt := 0, agent := .hostRead p bar off } :: rest →
        step s = .next (v.hostRegisterRead p bar off.toNat)) ∧
      (∀ p, s.agenda = { dt := 0, agent := .hostAtomic p } :: rest → step s = .next (v.hostAtomic p)) ∧
      (∀ p i m, s.agenda = { dt := 0, agent := .hostMask p i m } :: rest → step s = .next (v.hostMask p i m)) ∧
      (∀ core q, s.agenda = { dt := 0, agent := .quarter core q } :: rest →
        (oldest (readyGangs v core q true) = none → step s = .next v) ∧
        ∀ g, oldest (readyGangs v core q true) = some g →
          (∀ x, (v.core core).quarters[q]? = some x → v.clk < x.busyUntil →
            step s = .next (v.stall core (v.ctxOf g) 6 1)) ∧
          ((∀ x, (v.core core).quarters[q]? = some x → x.busyUntil ≤ v.clk) →
            ∀ u, ({ v with cur := .gang g.t g.w g.base }).takePending g = some u → step s = .next u)) ∧
      (∀ core id u, s.agenda = { dt := 0, agent := .walk core id } :: rest →
        v.nextWalk core id = .state u → step s = .next u)) ∧
    -- time that passes moves the clock by as much and leaves the agenda
    (s.passTime dt).clk = s.clk + dt ∧ (s.passTime dt).agenda = s.agenda ∧ s.passTime 0 = s ∧
    s.cycle.clk = s.clk + 1 ∧ s.cycle.agenda = s.agenda

/-- R30, R32, R53, R82, R95, R304, R444, R467: the machine right after device reset. Contexts 0 to 31
belong to port 0 and the rest to port 1; every context is destroyed, with the reset values of its control
block, no queue bound and no remote window; no team, launch, accumulate or remote wait exists; every link is
disabled; no translation, line or walk is held; CLK is 0. That an unwritten byte of memory reads as 0
(notes/assumptions/1.md), and that caches, queues, windows and lists of which the spec gives no reset state are empty
(notes/assumptions/4.md), is the model's own choice. -/
def Obligations.ResetValues : Prop :=
  let s := State.reset
  (∀ n < 64, s.owners[n]? = some (if n < 32 then some .p0 else some .p1)) ∧
  (∀ c : BitVec 6, let x := s.ctx c
    x.phase = .destroyed ∧ x.root = 0 ∧ x.tag = 0 ∧ x.ways = 0 ∧ x.acc = 16 ∧ x.mml = 0 ∧ x.log = 0 ∧
    x.qtab = 0 ∧ x.dlSave = 20000 ∧ x.dlDrain = 1000 ∧ x.lnLgseg = 12 ∧ x.lnMode = 0 ∧
    (∀ q < 256, (x.queues[q]?).map (·.state) = some .disabled) ∧
    (∀ w < 256, (x.windows[w]?).map (·.valid) = some false)) ∧
  (∀ c, let k := s.core c
    k.tlb = [] ∧ k.ilines = [] ∧ k.clean = [] ∧ k.held = [] ∧ k.walks = [] ∧ k.checks = []) ∧
  (∀ n < 18, (s.links[n]?).map (fun l => (l.state, l.en)) = some (.disabled, false)) ∧
  s.teams = [] ∧ s.launches = [] ∧ s.accs = [] ∧ s.remoteWaits = [] ∧ s.fabValid = false ∧ s.clk = 0 ∧
  s.rate = 19 ∧ s.fw = .verifying ∧ ∀ a, s.mem.get a = 0

/-- The invariant holds right after reset (notes/assumptions/1.md for the memory). -/
def Obligations.ResetInv : Prop := State.reset.Inv

/-- R25: from every state in the invariant a step leads to a state in the invariant: memory, every
scratchpad and the recovery buffer keep their canonical form, the arithmetic clock stays at one of its
rates, and the agenda's events stay events. -/
def Obligations.StepKeepsInv : Prop := ∀ s t : State, s.Inv → step s = .next t → t.Inv

/-- R290, R300, R414: no instruction, word or datum stops the machine. From every state whose agenda's
events are events the step answers a next state, never a fault and never a refusal. -/
def Obligations.StepAlwaysGoes : Prop := ∀ s : State, s.agendaOk → s.safe
end

