-- ==== Sys2Proof/Laws/Exec.lean ====
section
/-! SUPPORT. One arm of `exec` at a time: the meaning that each constructor calls. -/

namespace Sys2Proof.Machine

theorem exec_sadd {sd sa sb} (s : State) :
    exec (.sadd sd sa sb) s = execSadd sd sa sb s := rfl
theorem exec_ssub {sd sa sb} (s : State) :
    exec (.ssub sd sa sb) s = execSsub sd sa sb s := rfl
theorem exec_smul {sd sa sb} (s : State) :
    exec (.smul sd sa sb) s = execSmul sd sa sb s := rfl
theorem exec_smulhI64 {sd sa sb} (s : State) :
    exec (.smulhI64 sd sa sb) s = execSmulhI64 sd sa sb s := rfl
theorem exec_smulhN64 {sd sa sb} (s : State) :
    exec (.smulhN64 sd sa sb) s = execSmulhN64 sd sa sb s := rfl
theorem exec_sand {sd sa sb} (s : State) :
    exec (.sand sd sa sb) s = execSand sd sa sb s := rfl
theorem exec_sor {sd sa sb} (s : State) :
    exec (.sor sd sa sb) s = execSor sd sa sb s := rfl
theorem exec_sxor {sd sa sb} (s : State) :
    exec (.sxor sd sa sb) s = execSxor sd sa sb s := rfl
theorem exec_sshl {sd sa sb} (s : State) :
    exec (.sshl sd sa sb) s = execSshl sd sa sb s := rfl
theorem exec_sshrN64 {sd sa sb} (s : State) :
    exec (.sshrN64 sd sa sb) s = execSshrN64 sd sa sb s := rfl
theorem exec_sshrI64 {sd sa sb} (s : State) :
    exec (.sshrI64 sd sa sb) s = execSshrI64 sd sa sb s := rfl
theorem exec_sminI64 {sd sa sb} (s : State) :
    exec (.sminI64 sd sa sb) s = execSminI64 sd sa sb s := rfl
theorem exec_sminN64 {sd sa sb} (s : State) :
    exec (.sminN64 sd sa sb) s = execSminN64 sd sa sb s := rfl
theorem exec_smaxI64 {sd sa sb} (s : State) :
    exec (.smaxI64 sd sa sb) s = execSmaxI64 sd sa sb s := rfl
theorem exec_smaxN64 {sd sa sb} (s : State) :
    exec (.smaxN64 sd sa sb) s = execSmaxN64 sd sa sb s := rfl
theorem exec_sdivI64 {sd sa sb} (s : State) :
    exec (.sdivI64 sd sa sb) s = execSdivI64 sd sa sb s := rfl
theorem exec_sdivN64 {sd sa sb} (s : State) :
    exec (.sdivN64 sd sa sb) s = execSdivN64 sd sa sb s := rfl
theorem exec_sremI64 {sd sa sb} (s : State) :
    exec (.sremI64 sd sa sb) s = execSremI64 sd sa sb s := rfl
theorem exec_sremN64 {sd sa sb} (s : State) :
    exec (.sremN64 sd sa sb) s = execSremN64 sd sa sb s := rfl
theorem exec_spopc {sd sa} (s : State) :
    exec (.spopc sd sa) s = execSpopc sd sa s := rfl
theorem exec_sclz {sd sa} (s : State) :
    exec (.sclz sd sa) s = execSclz sd sa s := rfl
theorem exec_sctz {sd sa} (s : State) :
    exec (.sctz sd sa) s = execSctz sd sa s := rfl
theorem exec_saddi {sd sa imm} (s : State) :
    exec (.saddi sd sa imm) s = execSaddi sd sa imm s := rfl
theorem exec_sandi {sd sa imm} (s : State) :
    exec (.sandi sd sa imm) s = execSandi sd sa imm s := rfl
theorem exec_sori {sd sa imm} (s : State) :
    exec (.sori sd sa imm) s = execSori sd sa imm s := rfl
theorem exec_sxori {sd sa imm} (s : State) :
    exec (.sxori sd sa imm) s = execSxori sd sa imm s := rfl
theorem exec_sshli {sd sa n} (s : State) :
    exec (.sshli sd sa n) s = execSshli sd sa n s := rfl
theorem exec_sshriN64 {sd sa n} (s : State) :
    exec (.sshriN64 sd sa n) s = execSshriN64 sd sa n s := rfl
theorem exec_sshriI64 {sd sa n} (s : State) :
    exec (.sshriI64 sd sa n) s = execSshriI64 sd sa n s := rfl
theorem exec_scmpEq {sd sa sb} (s : State) :
    exec (.scmpEq sd sa sb) s = execScmpEq sd sa sb s := rfl
theorem exec_scmpNe {sd sa sb} (s : State) :
    exec (.scmpNe sd sa sb) s = execScmpNe sd sa sb s := rfl
theorem exec_scmpI64Lt {sd sa sb} (s : State) :
    exec (.scmpI64Lt sd sa sb) s = execScmpI64Lt sd sa sb s := rfl
theorem exec_scmpI64Ge {sd sa sb} (s : State) :
    exec (.scmpI64Ge sd sa sb) s = execScmpI64Ge sd sa sb s := rfl
theorem exec_scmpN64Lt {sd sa sb} (s : State) :
    exec (.scmpN64Lt sd sa sb) s = execScmpN64Lt sd sa sb s := rfl
theorem exec_scmpN64Ge {sd sa sb} (s : State) :
    exec (.scmpN64Ge sd sa sb) s = execScmpN64Ge sd sa sb s := rfl
theorem exec_ssel {sd sa sb sc} (s : State) :
    exec (.ssel sd sa sb sc) s = execSsel sd sa sb sc s := rfl
theorem exec_sli {sd imm} (s : State) :
    exec (.sli sd imm) s = execSli sd imm s := rfl
theorem exec_slui {sd imm} (s : State) :
    exec (.slui sd imm) s = execSlui sd imm s := rfl
theorem exec_spcui {sd imm} (s : State) :
    exec (.spcui sd imm) s = execSpcui sd imm s := rfl
theorem exec_sgetr {sd num} (s : State) :
    exec (.sgetr sd num) s = execSgetr sd num s := rfl
theorem exec_sgetrQpc {sd idx} (s : State) :
    exec (.sgetrQpc sd idx) s = execSgetrQpc sd idx s := rfl
theorem exec_ssetr {sa num} (s : State) :
    exec (.ssetr sa num) s = execSsetr sa num s := rfl
theorem exec_b {off} (s : State) :
    exec (.b off) s = execB off s := rfl
theorem exec_bmz {off} (s : State) :
    exec (.bmz off) s = execBmz off s := rfl
theorem exec_bmnz {off} (s : State) :
    exec (.bmnz off) s = execBmnz off s := rfl
theorem exec_bmall {off} (s : State) :
    exec (.bmall off) s = execBmall off s := rfl
theorem exec_bmnall {off} (s : State) :
    exec (.bmnall off) s = execBmnall off s := rfl
theorem exec_bcall {off} (s : State) :
    exec (.bcall off) s = execBcall off s := rfl
theorem exec_bjr {sa} (s : State) :
    exec (.bjr sa) s = execBjr sa s := rfl
theorem exec_bcallr {sd sa} (s : State) :
    exec (.bcallr sd sa) s = execBcallr sd sa s := rfl
theorem exec_bz {sa imm} (s : State) :
    exec (.bz sa imm) s = execBz sa imm s := rfl
theorem exec_bnz {sa imm} (s : State) :
    exec (.bnz sa imm) s = execBnz sa imm s := rfl
theorem exec_snop (s : State) :
    exec (.snop) s = execSnop s := rfl
theorem exec_snopProgress (s : State) :
    exec (.snopProgress) s = execSnopProgress s := rfl
theorem exec_exit (s : State) :
    exec (.exit) s = execExit s := rfl
theorem exec_trap {imm} (s : State) :
    exec (.trap imm) s = execTrap imm s := rfl
theorem exec_tret (s : State) :
    exec (.tret) s = execTret s := rfl
theorem exec_tretDecline (s : State) :
    exec (.tretDecline) s = execTretDecline s := rfl
theorem exec_sldN64 {sd sa imm} (s : State) :
    exec (.sldN64 sd sa imm) s = execSldN64 sd sa imm s := rfl
theorem exec_sldN32 {sd sa imm} (s : State) :
    exec (.sldN32 sd sa imm) s = execSldN32 sd sa imm s := rfl
theorem exec_sldI32 {sd sa imm} (s : State) :
    exec (.sldI32 sd sa imm) s = execSldI32 sd sa imm s := rfl
theorem exec_sstN64 {sd sa imm} (s : State) :
    exec (.sstN64 sd sa imm) s = execSstN64 sd sa imm s := rfl
theorem exec_sstN32 {sd sa imm} (s : State) :
    exec (.sstN32 sd sa imm) s = execSstN32 sd sa imm s := rfl
theorem exec_sldN64Yield {sd sa imm} (s : State) :
    exec (.sldN64Yield sd sa imm) s = execSldN64Yield sd sa imm s := rfl
theorem exec_satomAdd {sd sa sb ord} (s : State) :
    exec (.satomAdd sd sa sb ord) s = execSatomAdd sd sa sb ord s := rfl
theorem exec_satomSwap {sd sa sb ord} (s : State) :
    exec (.satomSwap sd sa sb ord) s = execSatomSwap sd sa sb ord s := rfl
theorem exec_satomAnd {sd sa sb ord} (s : State) :
    exec (.satomAnd sd sa sb ord) s = execSatomAnd sd sa sb ord s := rfl
theorem exec_satomOr {sd sa sb ord} (s : State) :
    exec (.satomOr sd sa sb ord) s = execSatomOr sd sa sb ord s := rfl
theorem exec_satomXor {sd sa sb ord} (s : State) :
    exec (.satomXor sd sa sb ord) s = execSatomXor sd sa sb ord s := rfl
theorem exec_satomMinI64 {sd sa sb ord} (s : State) :
    exec (.satomMinI64 sd sa sb ord) s = execSatomMinI64 sd sa sb ord s := rfl
theorem exec_satomMinN64 {sd sa sb ord} (s : State) :
    exec (.satomMinN64 sd sa sb ord) s = execSatomMinN64 sd sa sb ord s := rfl
theorem exec_satomMaxI64 {sd sa sb ord} (s : State) :
    exec (.satomMaxI64 sd sa sb ord) s = execSatomMaxI64 sd sa sb ord s := rfl
theorem exec_satomMaxN64 {sd sa sb ord} (s : State) :
    exec (.satomMaxN64 sd sa sb ord) s = execSatomMaxN64 sd sa sb ord s := rfl
theorem exec_satomCas {sd sa sb ord} (s : State) :
    exec (.satomCas sd sa sb ord) s = execSatomCas sd sa sb ord s := rfl
theorem exec_dzero {sa imm} (s : State) :
    exec (.dzero sa imm) s = execDzero sa imm s := rfl
theorem exec_spfL2 {sa imm} (s : State) :
    exec (.spfL2 sa imm) s = execSpfL2 sa imm s := rfl
theorem exec_spfL1 {sa imm} (s : State) :
    exec (.spfL1 sa imm) s = execSpfL1 sa imm s := rfl
theorem exec_cadd {sa sb} (s : State) :
    exec (.cadd sa sb) s = execCadd sa sb s := rfl
theorem exec_caddRel {sa sb} (s : State) :
    exec (.caddRel sa sb) s = execCaddRel sa sb s := rfl
theorem exec_qfence {mask} (s : State) :
    exec (.qfence mask) s = execQfence mask s := rfl
theorem exec_cget {sd sa} (s : State) :
    exec (.cget sd sa) s = execCget sd sa s := rfl
theorem exec_cgetAcq {sd sa} (s : State) :
    exec (.cgetAcq sd sa) s = execCgetAcq sd sa s := rfl
theorem exec_cgetTeam {sd} (s : State) :
    exec (.cgetTeam sd) s = execCgetTeam sd s := rfl
theorem exec_cwait {sa sb acq} (s : State) :
    exec (.cwait sa sb acq) s = execCwait sa sb acq s := rfl
theorem exec_cwaitSt {sd sa sb acq} (s : State) :
    exec (.cwaitSt sd sa sb acq) s = execCwaitSt sd sa sb acq s := rfl
theorem exec_bar (s : State) :
    exec (.bar) s = execBar s := rfl
theorem exec_fenceRel (s : State) :
    exec (.fenceRel) s = execFenceRel s := rfl
theorem exec_fenceAcq (s : State) :
    exec (.fenceAcq) s = execFenceAcq s := rfl
theorem exec_fenceAr (s : State) :
    exec (.fenceAr) s = execFenceAr s := rfl
theorem exec_ifence (s : State) :
    exec (.ifence) s = execIfence s := rfl
theorem exec_kset {k sa} (s : State) :
    exec (.kset k sa) s = execKset k sa s := rfl
theorem exec_kfill {k} (s : State) :
    exec (.kfill k) s = execKfill k s := rfl
theorem exec_kfree {k} (s : State) :
    exec (.kfree k) s = execKfree k s := rfl
theorem exec_kwaitFree {k sb} (s : State) :
    exec (.kwaitFree k sb) s = execKwaitFree k sb s := rfl
theorem exec_kwaitFull {k sb} (s : State) :
    exec (.kwaitFull k sb) s = execKwaitFull k sb s := rfl
theorem exec_kwaitFreeSt {sd k sb} (s : State) :
    exec (.kwaitFreeSt sd k sb) s = execKwaitFreeSt sd k sb s := rfl
theorem exec_kwaitFullSt {sd k sb} (s : State) :
    exec (.kwaitFullSt sd k sb) s = execKwaitFullSt sd k sb s := rfl
theorem exec_cpy {sa q} (s : State) :
    exec (.cpy sa q) s = execCpy sa q s := rfl
theorem exec_qwait {sa sb q} (s : State) :
    exec (.qwait sa sb q) s = execQwait sa sb q s := rfl
theorem exec_qadd {sa sb q} (s : State) :
    exec (.qadd sa sb q) s = execQadd sa sb q s := rfl
theorem exec_sfmt {ta tb} (s : State) :
    exec (.sfmt ta tb) s = execSfmt ta tb s := rfl
theorem exec_mrel (s : State) :
    exec (.mrel) s = execMrel s := rfl
theorem exec_sstampOpen {sa} (s : State) :
    exec (.sstampOpen sa) s = execSstampOpen sa s := rfl
theorem exec_sstampClose (s : State) :
    exec (.sstampClose) s = execSstampClose s := rfl
theorem exec_clauseHeader {h} (s : State) :
    exec (.clauseHeader h) s = execClauseHeader h s := rfl
theorem exec_vaddInt {o m} (s : State) :
    exec (.vaddInt o m) s = execVaddInt o m s := rfl
theorem exec_vsubInt {o m} (s : State) :
    exec (.vsubInt o m) s = execVsubInt o m s := rfl
theorem exec_vmulInt {o m} (s : State) :
    exec (.vmulInt o m) s = execVmulInt o m s := rfl
theorem exec_vmulh {o m} (s : State) :
    exec (.vmulh o m) s = execVmulh o m s := rfl
theorem exec_vmad {o m} (s : State) :
    exec (.vmad o m) s = execVmad o m s := rfl
theorem exec_vminInt {o m} (s : State) :
    exec (.vminInt o m) s = execVminInt o m s := rfl
theorem exec_vmaxInt {o m} (s : State) :
    exec (.vmaxInt o m) s = execVmaxInt o m s := rfl
theorem exec_vabsInt {o m} (s : State) :
    exec (.vabsInt o m) s = execVabsInt o m s := rfl
theorem exec_vand {o m} (s : State) :
    exec (.vand o m) s = execVand o m s := rfl
theorem exec_vor {o m} (s : State) :
    exec (.vor o m) s = execVor o m s := rfl
theorem exec_vxor {o m} (s : State) :
    exec (.vxor o m) s = execVxor o m s := rfl
theorem exec_vnot {o m} (s : State) :
    exec (.vnot o m) s = execVnot o m s := rfl
theorem exec_vshl {o m amt} (s : State) :
    exec (.vshl o m amt) s = execVshl o m amt s := rfl
theorem exec_vshr {o m amt} (s : State) :
    exec (.vshr o m amt) s = execVshr o m amt s := rfl
theorem exec_vrshr {o m src64 amt} (s : State) :
    exec (.vrshr o m src64 amt) s = execVrshr o m src64 amt s := rfl
theorem exec_vpopc {o m} (s : State) :
    exec (.vpopc o m) s = execVpopc o m s := rfl
theorem exec_vclz {o m} (s : State) :
    exec (.vclz o m) s = execVclz o m s := rfl
theorem exec_vbfe {o m p n} (s : State) :
    exec (.vbfe o m p n) s = execVbfe o m p n s := rfl
theorem exec_vcmpInt {o m cc} (s : State) :
    exec (.vcmpInt o m cc) s = execVcmpInt o m cc s := rfl
theorem exec_vsel {o m} (s : State) :
    exec (.vsel o m) s = execVsel o m s := rfl
theorem exec_vdot4 {o m} (s : State) :
    exec (.vdot4 o m) s = execVdot4 o m s := rfl
theorem exec_vaddIntImm {o imm} (s : State) :
    exec (.vaddIntImm o imm) s = execVaddIntImm o imm s := rfl
theorem exec_vmulIntImm {o imm} (s : State) :
    exec (.vmulIntImm o imm) s = execVmulIntImm o imm s := rfl
theorem exec_vandImm {o imm} (s : State) :
    exec (.vandImm o imm) s = execVandImm o imm s := rfl
theorem exec_vorImm {o imm} (s : State) :
    exec (.vorImm o imm) s = execVorImm o imm s := rfl
theorem exec_vxorImm {o imm} (s : State) :
    exec (.vxorImm o imm) s = execVxorImm o imm s := rfl
theorem exec_vcmpIntImm {o cc uns imm} (s : State) :
    exec (.vcmpIntImm o cc uns imm) s = execVcmpIntImm o cc uns imm s := rfl
theorem exec_vmovImm {o imm} (s : State) :
    exec (.vmovImm o imm) s = execVmovImm o imm s := rfl
theorem exec_vaddFp {o m} (s : State) :
    exec (.vaddFp o m) s = execVaddFp o m s := rfl
theorem exec_vsubFp {o m} (s : State) :
    exec (.vsubFp o m) s = execVsubFp o m s := rfl
theorem exec_vmulFp {o m} (s : State) :
    exec (.vmulFp o m) s = execVmulFp o m s := rfl
theorem exec_vfma {o m} (s : State) :
    exec (.vfma o m) s = execVfma o m s := rfl
theorem exec_vfnma {o m} (s : State) :
    exec (.vfnma o m) s = execVfnma o m s := rfl
theorem exec_vminFp {o m} (s : State) :
    exec (.vminFp o m) s = execVminFp o m s := rfl
theorem exec_vmaxFp {o m} (s : State) :
    exec (.vmaxFp o m) s = execVmaxFp o m s := rfl
theorem exec_vabsFp {o m} (s : State) :
    exec (.vabsFp o m) s = execVabsFp o m s := rfl
theorem exec_vneg {o m} (s : State) :
    exec (.vneg o m) s = execVneg o m s := rfl
theorem exec_vcopysign {o m} (s : State) :
    exec (.vcopysign o m) s = execVcopysign o m s := rfl
theorem exec_vdiv {o m} (s : State) :
    exec (.vdiv o m) s = execVdiv o m s := rfl
theorem exec_vsqrt {o m} (s : State) :
    exec (.vsqrt o m) s = execVsqrt o m s := rfl
theorem exec_vrcp {o m} (s : State) :
    exec (.vrcp o m) s = execVrcp o m s := rfl
theorem exec_vrsqrt {o m} (s : State) :
    exec (.vrsqrt o m) s = execVrsqrt o m s := rfl
theorem exec_vrint {o m} (s : State) :
    exec (.vrint o m) s = execVrint o m s := rfl
theorem exec_vclip {o m} (s : State) :
    exec (.vclip o m) s = execVclip o m s := rfl
theorem exec_vclamp {o m} (s : State) :
    exec (.vclamp o m) s = execVclamp o m s := rfl
theorem exec_vsign {o m} (s : State) :
    exec (.vsign o m) s = execVsign o m s := rfl
theorem exec_vcmpFp {o m cc} (s : State) :
    exec (.vcmpFp o m cc) s = execVcmpFp o m cc s := rfl
theorem exec_vclass {o m} (s : State) :
    exec (.vclass o m) s = execVclass o m s := rfl
theorem exec_vldexp {o m} (s : State) :
    exec (.vldexp o m) s = execVldexp o m s := rfl
theorem exec_vgetexp {o m} (s : State) :
    exec (.vgetexp o m) s = execVgetexp o m s := rfl
theorem exec_vlerp {o m} (s : State) :
    exec (.vlerp o m) s = execVlerp o m s := rfl
theorem exec_vexp2 {o m} (s : State) :
    exec (.vexp2 o m) s = execVexp2 o m s := rfl
theorem exec_vlog2 {o m} (s : State) :
    exec (.vlog2 o m) s = execVlog2 o m s := rfl
theorem exec_vsinpi {o m} (s : State) :
    exec (.vsinpi o m) s = execVsinpi o m s := rfl
theorem exec_vcospi {o m} (s : State) :
    exec (.vcospi o m) s = execVcospi o m s := rfl
theorem exec_vaddF32Imm {o imm} (s : State) :
    exec (.vaddF32Imm o imm) s = execVaddF32Imm o imm s := rfl
theorem exec_vmulF32Imm {o imm} (s : State) :
    exec (.vmulF32Imm o imm) s = execVmulF32Imm o imm s := rfl
theorem exec_vfmaF32Imm {o imm} (s : State) :
    exec (.vfmaF32Imm o imm) s = execVfmaF32Imm o imm s := rfl
theorem exec_vmaxF32Imm {o imm} (s : State) :
    exec (.vmaxF32Imm o imm) s = execVmaxF32Imm o imm s := rfl
theorem exec_vcmpF32Imm {o cc imm} (s : State) :
    exec (.vcmpF32Imm o cc imm) s = execVcmpF32Imm o cc imm s := rfl
theorem exec_vcvt {o m src si di} (s : State) :
    exec (.vcvt o m src si di) s = execVcvt o m src si di s := rfl
theorem exec_vpack {o m} (s : State) :
    exec (.vpack o m) s = execVpack o m s := rfl
theorem exec_vunpack {o m} (s : State) :
    exec (.vunpack o m) s = execVunpack o m s := rfl
theorem exec_vcvt2 {o m} (s : State) :
    exec (.vcvt2 o m) s = execVcvt2 o m s := rfl
theorem exec_vadd2 {o m} (s : State) :
    exec (.vadd2 o m) s = execVadd2 o m s := rfl
theorem exec_vsub2 {o m} (s : State) :
    exec (.vsub2 o m) s = execVsub2 o m s := rfl
theorem exec_vmul2 {o m} (s : State) :
    exec (.vmul2 o m) s = execVmul2 o m s := rfl
theorem exec_vfma2 {o m} (s : State) :
    exec (.vfma2 o m) s = execVfma2 o m s := rfl
theorem exec_vmin2 {o m} (s : State) :
    exec (.vmin2 o m) s = execVmin2 o m s := rfl
theorem exec_vmax2 {o m} (s : State) :
    exec (.vmax2 o m) s = execVmax2 o m s := rfl
theorem exec_vdot2 {o m} (s : State) :
    exec (.vdot2 o m) s = execVdot2 o m s := rfl
theorem exec_vshl2 {o m amt} (s : State) :
    exec (.vshl2 o m amt) s = execVshl2 o m amt s := rfl
theorem exec_vshr2 {o m amt} (s : State) :
    exec (.vshr2 o m amt) s = execVshr2 o m amt s := rfl
theorem exec_vhsel {o h0 h1} (s : State) :
    exec (.vhsel o h0 h1) s = execVhsel o h0 h1 s := rfl
theorem exec_vred {o m op} (s : State) :
    exec (.vred o m op) s = execVred o m op s := rfl
theorem exec_vscan {o m op excl} (s : State) :
    exec (.vscan o m op excl) s = execVscan o m op excl s := rfl
theorem exec_vshuf {o} (s : State) :
    exec (.vshuf o) s = execVshuf o s := rfl
theorem exec_vbcast {o n} (s : State) :
    exec (.vbcast o n) s = execVbcast o n s := rfl
theorem exec_vrot {o n} (s : State) :
    exec (.vrot o n) s = execVrot o n s := rfl
theorem exec_vqswz {o q0 q1 q2 q3} (s : State) :
    exec (.vqswz o q0 q1 q2 q3) s = execVqswz o q0 q1 q2 q3 s := rfl
theorem exec_vballot {o} (s : State) :
    exec (.vballot o) s = execVballot o s := rfl
theorem exec_vcount {o} (s : State) :
    exec (.vcount o) s = execVcount o s := rfl
theorem exec_vfind {o} (s : State) :
    exec (.vfind o) s = execVfind o s := rfl
theorem exec_vappend {o off} (s : State) :
    exec (.vappend o off) s = execVappend o off s := rfl
theorem exec_pand {o} (s : State) :
    exec (.pand o) s = execPand o s := rfl
theorem exec_por {o} (s : State) :
    exec (.por o) s = execPor o s := rfl
theorem exec_pxor {o} (s : State) :
    exec (.pxor o) s = execPxor o s := rfl
theorem exec_pandn {o} (s : State) :
    exec (.pandn o) s = execPandn o s := rfl
theorem exec_pnot {o} (s : State) :
    exec (.pnot o) s = execPnot o s := rfl
theorem exec_pset {o bit} (s : State) :
    exec (.pset o bit) s = execPset o bit s := rfl
theorem exec_pfroms {o} (s : State) :
    exec (.pfroms o) s = execPfroms o s := rfl
theorem exec_ptos {o} (s : State) :
    exec (.ptos o) s = execPtos o s := rfl
theorem exec_pmand {o} (s : State) :
    exec (.pmand o) s = execPmand o s := rfl
theorem exec_pmandn {o} (s : State) :
    exec (.pmandn o) s = execPmandn o s := rfl
theorem exec_pmor {o} (s : State) :
    exec (.pmor o) s = execPmor o s := rfl
theorem exec_pmset {o} (s : State) :
    exec (.pmset o) s = execPmset o s := rfl
theorem exec_pmtos {o} (s : State) :
    exec (.pmtos o) s = execPmtos o s := rfl
theorem exec_pmtop {o} (s : State) :
    exec (.pmtop o) s = execPmtop o s := rfl
theorem exec_jset {o} (s : State) :
    exec (.jset o) s = execJset o s := rfl
theorem exec_jarr {o} (s : State) :
    exec (.jarr o) s = execJarr o s := rfl
theorem exec_jdrop {o} (s : State) :
    exec (.jdrop o) s = execJdrop o s := rfl
theorem exec_jwait {o} (s : State) :
    exec (.jwait o) s = execJwait o s := rfl
theorem exec_jst {o off} (s : State) :
    exec (.jst o off) s = execJst o off s := rfl
theorem exec_jld {o off} (s : State) :
    exec (.jld o off) s = execJld o off s := rfl
theorem exec_vld {o ty m} (s : State) :
    exec (.vld o ty m) s = execVld o ty m s := rfl
theorem exec_vst {o ty m} (s : State) :
    exec (.vst o ty m) s = execVst o ty m s := rfl
theorem exec_vlds {o ty m} (s : State) :
    exec (.vlds o ty m) s = execVlds o ty m s := rfl
theorem exec_vsts {o ty m} (s : State) :
    exec (.vsts o ty m) s = execVsts o ty m s := rfl
theorem exec_vpf {o m} (s : State) :
    exec (.vpf o m) s = execVpf o m s := rfl
theorem exec_vatomAdd {o ty m} (s : State) :
    exec (.vatomAdd o ty m) s = execVatomAdd o ty m s := rfl
theorem exec_vatomSwap {o ty m} (s : State) :
    exec (.vatomSwap o ty m) s = execVatomSwap o ty m s := rfl
theorem exec_vatomAnd {o ty m} (s : State) :
    exec (.vatomAnd o ty m) s = execVatomAnd o ty m s := rfl
theorem exec_vatomOr {o ty m} (s : State) :
    exec (.vatomOr o ty m) s = execVatomOr o ty m s := rfl
theorem exec_vatomXor {o ty m} (s : State) :
    exec (.vatomXor o ty m) s = execVatomXor o ty m s := rfl
theorem exec_vatomMin {o ty m} (s : State) :
    exec (.vatomMin o ty m) s = execVatomMin o ty m s := rfl
theorem exec_vatomMax {o ty m} (s : State) :
    exec (.vatomMax o ty m) s = execVatomMax o ty m s := rfl
theorem exec_vatomCas {o ty m} (s : State) :
    exec (.vatomCas o ty m) s = execVatomCas o ty m s := rfl
theorem exec_vaccAdd {o ty m} (s : State) :
    exec (.vaccAdd o ty m) s = execVaccAdd o ty m s := rfl
theorem exec_vaccMin {o ty m} (s : State) :
    exec (.vaccMin o ty m) s = execVaccMin o ty m s := rfl
theorem exec_vaccMax {o ty m} (s : State) :
    exec (.vaccMax o ty m) s = execVaccMax o ty m s := rfl
theorem exec_rflush {o} (s : State) :
    exec (.rflush o) s = execRflush o s := rfl
theorem exec_mma {o reuse scl} (s : State) :
    exec (.mma o reuse scl) s = execMma o reuse scl s := rfl
theorem exec_mmas {o reuse scl vm} (s : State) :
    exec (.mmas o reuse scl vm) s = execMmas o reuse scl vm s := rfl
theorem exec_vspk {o ty} (s : State) :
    exec (.vspk o ty) s = execVspk o ty s := rfl
theorem exec_wstart {o} (s : State) :
    exec (.wstart o) s = execWstart o s := rfl
theorem exec_wresume {o} (s : State) :
    exec (.wresume o) s = execWresume o s := rfl
theorem exec_texPoint {o} (s : State) :
    exec (.texPoint o) s = execTexPoint o s := rfl
theorem exec_texBilinear {o} (s : State) :
    exec (.texBilinear o) s = execTexBilinear o s := rfl
theorem exec_texTrilinear {o} (s : State) :
    exec (.texTrilinear o) s = execTexTrilinear o s := rfl
theorem exec_texGather {o} (s : State) :
    exec (.texGather o) s = execTexGather o s := rfl
theorem exec_texf {o} (s : State) :
    exec (.texf o) s = execTexf o s := rfl
theorem exec_texsz {o} (s : State) :
    exec (.texsz o) s = execTexsz o s := rfl
theorem exec_lnestCopy {n} (s : State) :
    exec (.lnestCopy n) s = execLnestCopy n s := rfl
theorem exec_lnestAdd {n} (s : State) :
    exec (.lnestAdd n) s = execLnestAdd n s := rfl
theorem exec_lnestSub {n} (s : State) :
    exec (.lnestSub n) s = execLnestSub n s := rfl
theorem exec_lnestMul {n} (s : State) :
    exec (.lnestMul n) s = execLnestMul n s := rfl
theorem exec_lnestFma {n} (s : State) :
    exec (.lnestFma n) s = execLnestFma n s := rfl
theorem exec_lnestMin {n} (s : State) :
    exec (.lnestMin n) s = execLnestMin n s := rfl
theorem exec_lnestMax {n} (s : State) :
    exec (.lnestMax n) s = execLnestMax n s := rfl
theorem exec_lnestSum {n} (s : State) :
    exec (.lnestSum n) s = execLnestSum n s := rfl
theorem exec_lnestDot {n} (s : State) :
    exec (.lnestDot n) s = execLnestDot n s := rfl
theorem exec_lnestRmax {n} (s : State) :
    exec (.lnestRmax n) s = execLnestRmax n s := rfl
theorem exec_lnestRmin {n} (s : State) :
    exec (.lnestRmin n) s = execLnestRmin n s := rfl
theorem exec_walkDone (s : State) :
    exec (.walkDone) s = execWalkDone s := rfl
theorem exec_walkFetch {a} (s : State) :
    exec (.walkFetch a) s = execWalkFetch a s := rfl
theorem exec_walkFld {d sx n off} (s : State) :
    exec (.walkFld d sx n off) s = execWalkFld d sx n off s := rfl
theorem exec_walkChild {d a} (s : State) :
    exec (.walkChild d a) s = execWalkChild d a s := rfl
theorem exec_walkBox4 {d a} (s : State) :
    exec (.walkBox4 d a) s = execWalkBox4 d a s := rfl
theorem exec_walkTri {d a b} (s : State) :
    exec (.walkTri d a b) s = execWalkTri d a b s := rfl
theorem exec_walkCommit {a b} (s : State) :
    exec (.walkCommit a b) s = execWalkCommit a b s := rfl
theorem exec_walkEdge3 {d a lg} (s : State) :
    exec (.walkEdge3 d a lg) s = execWalkEdge3 d a lg s := rfl
theorem exec_walkEmitRing {a n} (s : State) :
    exec (.walkEmitRing a n) s = execWalkEmitRing a n s := rfl
theorem exec_walkEmitVis {a} (s : State) :
    exec (.walkEmitVis a) s = execWalkEmitVis a s := rfl
theorem exec_walkPush {a} (s : State) :
    exec (.walkPush a) s = execWalkPush a s := rfl
theorem exec_walkPop {d} (s : State) :
    exec (.walkPop d) s = execWalkPop d s := rfl
theorem exec_walkAdd {d a b} (s : State) :
    exec (.walkAdd d a b) s = execWalkAdd d a b s := rfl
theorem exec_walkAddi {d a imm} (s : State) :
    exec (.walkAddi d a imm) s = execWalkAddi d a imm s := rfl
theorem exec_walkSub {d a b} (s : State) :
    exec (.walkSub d a b) s = execWalkSub d a b s := rfl
theorem exec_walkAnd {d a b} (s : State) :
    exec (.walkAnd d a b) s = execWalkAnd d a b s := rfl
theorem exec_walkShl {d a n} (s : State) :
    exec (.walkShl d a n) s = execWalkShl d a n s := rfl
theorem exec_walkShr {d a n} (s : State) :
    exec (.walkShr d a n) s = execWalkShr d a n s := rfl
theorem exec_walkCmp {d a b c} (s : State) :
    exec (.walkCmp d a b c) s = execWalkCmp d a b c s := rfl
theorem exec_walkMovi {d imm} (s : State) :
    exec (.walkMovi d imm) s = execWalkMovi d imm s := rfl
theorem exec_walkJmp {l} (s : State) :
    exec (.walkJmp l) s = execWalkJmp l s := rfl
theorem exec_walkJz {a l} (s : State) :
    exec (.walkJz a l) s = execWalkJz a l s := rfl
theorem exec_walkJnz {a l} (s : State) :
    exec (.walkJnz a l) s = execWalkJnz a l s := rfl
theorem exec_walkYield (s : State) :
    exec (.walkYield) s = execWalkYield s := rfl
theorem exec_walkStepLimit {core slot} (s : State) :
    exec (.walkStepLimit core slot) s = execWalkStepLimit core slot s := rfl
theorem exec_ctxcmdCreate {port ctx} (s : State) :
    exec (.ctxcmdCreate port ctx) s = execCtxcmdCreate port ctx s := rfl
theorem exec_ctxcmdBind {port ctx} (s : State) :
    exec (.ctxcmdBind port ctx) s = execCtxcmdBind port ctx s := rfl
theorem exec_bindComplete {ctx} (s : State) :
    exec (.bindComplete ctx) s = execBindComplete ctx s := rfl
theorem exec_ctxcmdRun {port ctx} (s : State) :
    exec (.ctxcmdRun port ctx) s = execCtxcmdRun port ctx s := rfl
theorem exec_ctxcmdQuiesce {port ctx} (s : State) :
    exec (.ctxcmdQuiesce port ctx) s = execCtxcmdQuiesce port ctx s := rfl
theorem exec_ctxcmdReset {port ctx} (s : State) :
    exec (.ctxcmdReset port ctx) s = execCtxcmdReset port ctx s := rfl
theorem exec_resetSequenceComplete {ctx} (s : State) :
    exec (.resetSequenceComplete ctx) s = execResetSequenceComplete ctx s := rfl
theorem exec_ctxcmdDestroy {port ctx} (s : State) :
    exec (.ctxcmdDestroy port ctx) s = execCtxcmdDestroy port ctx s := rfl
theorem exec_destroySequenceComplete {ctx} (s : State) :
    exec (.destroySequenceComplete ctx) s = execDestroySequenceComplete ctx s := rfl
theorem exec_owncmd {port val} (s : State) :
    exec (.owncmd port val) s = execOwncmd port val s := rfl
theorem exec_ctxinv {port ctx val} (s : State) :
    exec (.ctxinv port ctx val) s = execCtxinv port ctx val s := rfl
theorem exec_ctxinvComplete {ctx} (s : State) :
    exec (.ctxinvComplete ctx) s = execCtxinvComplete ctx s := rfl
theorem exec_ctxstateRead {port ctx} (s : State) :
    exec (.ctxstateRead port ctx) s = execCtxstateRead port ctx s := rfl
theorem exec_registerWrite {port bar off val} (s : State) :
    exec (.registerWrite port bar off val) s = execRegisterWrite port bar off val s := rfl
theorem exec_lnclr {port ctx val} (s : State) :
    exec (.lnclr port ctx val) s = execLnclr port ctx val s := rfl
theorem exec_lnstatRead {port ctx} (s : State) :
    exec (.lnstatRead port ctx) s = execLnstatRead port ctx s := rfl
theorem exec_lanternQuadWrite {port ctx n gm val} (s : State) :
    exec (.lanternQuadWrite port ctx n gm val) s = execLanternQuadWrite port ctx n gm val s := rfl
theorem exec_lnkctlEnSet {port n} (s : State) :
    exec (.lnkctlEnSet port n) s = execLnkctlEnSet port n s := rfl
theorem exec_lnkctlEnClear {port n} (s : State) :
    exec (.lnkctlEnClear port n) s = execLnkctlEnClear port n s := rfl
theorem exec_rcvcmdGo (s : State) :
    exec (.rcvcmdGo) s = execRcvcmdGo s := rfl
theorem exec_recoveryVerifyComplete (s : State) :
    exec (.recoveryVerifyComplete) s = execRecoveryVerifyComplete s := rfl
theorem exec_deviceReset (s : State) :
    exec (.deviceReset) s = execDeviceReset s := rfl
theorem exec_firmwareVerifyComplete (s : State) :
    exec (.firmwareVerifyComplete) s = execFirmwareVerifyComplete s := rfl
theorem exec_attestationRequest {port nonce} (s : State) :
    exec (.attestationRequest port nonce) s = execAttestationRequest port nonce s := rfl
theorem exec_hostBar4Read {port addr len} (s : State) :
    exec (.hostBar4Read port addr len) s = execHostBar4Read port addr len s := rfl
theorem exec_hostPostedWrite {port addr data relaxed} (s : State) :
    exec (.hostPostedWrite port addr data relaxed) s = execHostPostedWrite port addr data relaxed s := rfl
theorem exec_hostFetchadd {port addr addend} (s : State) :
    exec (.hostFetchadd port addr addend) s = execHostFetchadd port addr addend s := rfl
theorem exec_clockStepDown (s : State) :
    exec (.clockStepDown) s = execClockStepDown s := rfl
theorem exec_clockStepUp (s : State) :
    exec (.clockStepUp) s = execClockStepUp s := rfl
theorem exec_deviceWideUncorrectableError (s : State) :
    exec (.deviceWideUncorrectableError) s = execDeviceWideUncorrectableError s := rfl
theorem exec_linePoisonDetect {line} (s : State) :
    exec (.linePoisonDetect line) s = execLinePoisonDetect line s := rfl
theorem exec_queueReady {ctx q} (s : State) :
    exec (.queueReady ctx q) s = execQueueReady ctx q s := rfl
theorem exec_dispatchOpportunity (s : State) :
    exec (.dispatchOpportunity) s = execDispatchOpportunity s := rfl
theorem exec_queuePriorityAging {ctx q} (s : State) :
    exec (.queuePriorityAging ctx q) s = execQueuePriorityAging ctx q s := rfl
theorem exec_copyPacketPerform {ctx q idx} (s : State) :
    exec (.copyPacketPerform ctx q idx) s = execCopyPacketPerform ctx q idx s := rfl
theorem exec_counterWaitPacketSatisfied {ctx q idx} (s : State) :
    exec (.counterWaitPacketSatisfied ctx q idx) s = execCounterWaitPacketSatisfied ctx q idx s := rfl
theorem exec_counterAddPacketPerform {ctx q idx} (s : State) :
    exec (.counterAddPacketPerform ctx q idx) s = execCounterAddPacketPerform ctx q idx s := rfl
theorem exec_teamPlace {launch core quarters} (s : State) :
    exec (.teamPlace launch core quarters) s = execTeamPlace launch core quarters s := rfl
theorem exec_teamEnd {team} (s : State) :
    exec (.teamEnd team) s = execTeamEnd team s := rfl
theorem exec_launchCompletionAdd {launch} (s : State) :
    exec (.launchCompletionAdd launch) s = execLaunchCompletionAdd launch s := rfl
theorem exec_codeHashCheckComplete {core ctx va} (s : State) :
    exec (.codeHashCheckComplete core ctx va) s = execCodeHashCheckComplete core ctx va s := rfl
theorem exec_pageTableWalk {core ctx va} (s : State) :
    exec (.pageTableWalk core ctx va) s = execPageTableWalk core ctx va s := rfl
theorem exec_missSplit {team wave base} (s : State) :
    exec (.missSplit team wave base) s = execMissSplit team wave base s := rfl
theorem exec_fuseTimeout {team wave base} (s : State) :
    exec (.fuseTimeout team wave base) s = execFuseTimeout team wave base s := rfl
theorem exec_widthFault {team wave base} (s : State) :
    exec (.widthFault team wave base) s = execWidthFault team wave base s := rfl
theorem exec_gangSwap {core quarter} (s : State) :
    exec (.gangSwap core quarter) s = execGangSwap core quarter s := rfl
theorem exec_yieldBackoffExpiry {team wave base} (s : State) :
    exec (.yieldBackoffExpiry team wave base) s = execYieldBackoffExpiry team wave base s := rfl
theorem exec_longLatencyComplete {team wave quad idx} (s : State) :
    exec (.longLatencyComplete team wave quad idx) s = execLongLatencyComplete team wave quad idx s := rfl
theorem exec_counterWaitTimeout {team wave quad} (s : State) :
    exec (.counterWaitTimeout team wave quad) s = execCounterWaitTimeout team wave quad s := rfl
theorem exec_counterWatchNotify {team wave quad} (s : State) :
    exec (.counterWatchNotify team wave quad) s = execCounterWatchNotify team wave quad s := rfl
theorem exec_remoteWaitRetry {req} (s : State) :
    exec (.remoteWaitRetry req) s = execRemoteWaitRetry req s := rfl
theorem exec_engineWaitReevaluate {core q} (s : State) :
    exec (.engineWaitReevaluate core q) s = execEngineWaitReevaluate core q s := rfl
theorem exec_engineWaitSatisfied {core q} (s : State) :
    exec (.engineWaitSatisfied core q) s = execEngineWaitSatisfied core q s := rfl
theorem exec_engineAddPerform {core q} (s : State) :
    exec (.engineAddPerform core q) s = execEngineAddPerform core q s := rfl
theorem exec_engineCompletionAdd {core q} (s : State) :
    exec (.engineCompletionAdd core q) s = execEngineCompletionAdd core q s := rfl
theorem exec_engineBindingRetry {core q} (s : State) :
    exec (.engineBindingRetry core q) s = execEngineBindingRetry core q s := rfl
theorem exec_copyPerform {core q} (s : State) :
    exec (.copyPerform core q) s = execCopyPerform core q s := rfl
theorem exec_engineRingFreeWaitEnd {core q} (s : State) :
    exec (.engineRingFreeWaitEnd core q) s = execEngineRingFreeWaitEnd core q s := rfl
theorem exec_engineRingPublish {core q} (s : State) :
    exec (.engineRingPublish core q) s = execEngineRingPublish core q s := rfl
theorem exec_qfenceMarkerRetire {core group} (s : State) :
    exec (.qfenceMarkerRetire core group) s = execQfenceMarkerRetire core group s := rfl
theorem exec_lnestEntryPerform {core q} (s : State) :
    exec (.lnestEntryPerform core q) s = execLnestEntryPerform core q s := rfl
theorem exec_lnestElementFault {core q} (s : State) :
    exec (.lnestElementFault core q) s = execLnestElementFault core q s := rfl
theorem exec_l1LineEviction {core ctx va} (s : State) :
    exec (.l1LineEviction core ctx va) s = execL1LineEviction core ctx va s := rfl
theorem exec_l2LineEviction {line} (s : State) :
    exec (.l2LineEviction line) s = execL2LineEviction line s := rfl
theorem exec_promotionWritebackAck {core line} (s : State) :
    exec (.promotionWritebackAck core line) s = execPromotionWritebackAck core line s := rfl
theorem exec_accumulateArrival {acc occupancy} (s : State) :
    exec (.accumulateArrival acc occupancy) s = execAccumulateArrival acc occupancy s := rfl
theorem exec_accumulateWindowStart (s : State) :
    exec (.accumulateWindowStart) s = execAccumulateWindowStart s := rfl
theorem exec_refusalReply {acc} (s : State) :
    exec (.refusalReply acc) s = execRefusalReply acc s := rfl
theorem exec_drainComplete {team drain} (s : State) :
    exec (.drainComplete team drain) s = execDrainComplete team drain s := rfl
theorem exec_watchdogExpiry {team wave base} (s : State) :
    exec (.watchdogExpiry team wave base) s = execWatchdogExpiry team wave base s := rfl
theorem exec_aLatchIdleRelease {core quarter} (s : State) :
    exec (.aLatchIdleRelease core quarter) s = execALatchIdleRelease core quarter s := rfl
theorem exec_drainWindowEnd {ctx} (s : State) :
    exec (.drainWindowEnd ctx) s = execDrainWindowEnd ctx s := rfl
theorem exec_saveComplete {ctx} (s : State) :
    exec (.saveComplete ctx) s = execSaveComplete ctx s := rfl
theorem exec_saveDeadline {ctx} (s : State) :
    exec (.saveDeadline ctx) s = execSaveDeadline ctx s := rfl
theorem exec_linkPeerDetected {n} (s : State) :
    exec (.linkPeerDetected n) s = execLinkPeerDetected n s := rfl
theorem exec_linkTrained {n peer plink} (s : State) :
    exec (.linkTrained n peer plink) s = execLinkTrained n peer plink s := rfl
theorem exec_linkTrainingTimeout {n} (s : State) :
    exec (.linkTrainingTimeout n) s = execLinkTrainingTimeout n s := rfl
theorem exec_linkFlitError {n} (s : State) :
    exec (.linkFlitError n) s = execLinkFlitError n s := rfl
theorem exec_linkLoss {n} (s : State) :
    exec (.linkLoss n) s = execLinkLoss n s := rfl
theorem exec_remoteRequest {link r} (s : State) :
    exec (.remoteRequest link r) s = execRemoteRequest link r s := rfl
theorem exec_remoteReply {req r} (s : State) :
    exec (.remoteReply req r) s = execRemoteReply req r s := rfl
theorem exec_remoteRequestTimeout {req} (s : State) :
    exec (.remoteRequestTimeout req) s = execRemoteRequestTimeout req s := rfl
theorem exec_remoteWaitCancel {team wave quad} (s : State) :
    exec (.remoteWaitCancel team wave quad) s = execRemoteWaitCancel team wave quad s := rfl
theorem exec_remoteCancelAck {req satisfied} (s : State) :
    exec (.remoteCancelAck req satisfied) s = execRemoteCancelAck req satisfied s := rfl
theorem exec_replayArrivalTimeout {ctx slice} (s : State) :
    exec (.replayArrivalTimeout ctx slice) s = execReplayArrivalTimeout ctx slice s := rfl
theorem exec_perContextUncorrectableError {ctx} (s : State) :
    exec (.perContextUncorrectableError ctx) s = execPerContextUncorrectableError ctx s := rfl
theorem exec_translationCacheEviction {core ctx va} (s : State) :
    exec (.translationCacheEviction core ctx va) s = execTranslationCacheEviction core ctx va s := rfl
theorem exec_sectorForwarding {link dst payload} (s : State) :
    exec (.sectorForwarding link dst payload) s = execSectorForwarding link dst payload s := rfl

end Sys2Proof.Machine
end

