-- ==== Sys2Proof/Laws/State.lean ====
section
/-! SUPPORT. What every update of the state and of a quad leaves as it was: one lemma per field and
update. -/

namespace Sys2Proof.Machine

/-! `State.modCtx` -/

@[simp] theorem State.modCtx_clk (s : State) (c : BitVec 6) (h : Ctx → Ctx) : (s.modCtx c h).clk = s.clk := rfl
@[simp] theorem State.modCtx_rate (s : State) (c : BitVec 6) (h : Ctx → Ctx) : (s.modCtx c h).rate = s.rate := rfl
@[simp] theorem State.modCtx_wall (s : State) (c : BitVec 6) (h : Ctx → Ctx) : (s.modCtx c h).wall = s.wall := rfl
@[simp] theorem State.modCtx_mem (s : State) (c : BitVec 6) (h : Ctx → Ctx) : (s.modCtx c h).mem = s.mem := rfl
@[simp] theorem State.modCtx_poisoned (s : State) (c : BitVec 6) (h : Ctx → Ctx) : (s.modCtx c h).poisoned = s.poisoned := rfl
@[simp] theorem State.modCtx_owners (s : State) (c : BitVec 6) (h : Ctx → Ctx) : (s.modCtx c h).owners = s.owners := rfl
@[simp] theorem State.modCtx_cores (s : State) (c : BitVec 6) (h : Ctx → Ctx) : (s.modCtx c h).cores = s.cores := rfl
@[simp] theorem State.modCtx_slices (s : State) (c : BitVec 6) (h : Ctx → Ctx) : (s.modCtx c h).slices = s.slices := rfl
@[simp] theorem State.modCtx_teams (s : State) (c : BitVec 6) (h : Ctx → Ctx) : (s.modCtx c h).teams = s.teams := rfl
@[simp] theorem State.modCtx_launches (s : State) (c : BitVec 6) (h : Ctx → Ctx) : (s.modCtx c h).launches = s.launches := rfl
@[simp] theorem State.modCtx_accs (s : State) (c : BitVec 6) (h : Ctx → Ctx) : (s.modCtx c h).accs = s.accs := rfl
@[simp] theorem State.modCtx_portAccs (s : State) (c : BitVec 6) (h : Ctx → Ctx) : (s.modCtx c h).portAccs = s.portAccs := rfl
@[simp] theorem State.modCtx_requests (s : State) (c : BitVec 6) (h : Ctx → Ctx) : (s.modCtx c h).requests = s.requests := rfl
@[simp] theorem State.modCtx_fetches (s : State) (c : BitVec 6) (h : Ctx → Ctx) : (s.modCtx c h).fetches = s.fetches := rfl
@[simp] theorem State.modCtx_remoteWaits (s : State) (c : BitVec 6) (h : Ctx → Ctx) : (s.modCtx c h).remoteWaits = s.remoteWaits := rfl
@[simp] theorem State.modCtx_sectorOut (s : State) (c : BitVec 6) (h : Ctx → Ctx) : (s.modCtx c h).sectorOut = s.sectorOut := rfl
@[simp] theorem State.modCtx_ports (s : State) (c : BitVec 6) (h : Ctx → Ctx) : (s.modCtx c h).ports = s.ports := rfl
@[simp] theorem State.modCtx_tenderLog (s : State) (c : BitVec 6) (h : Ctx → Ctx) : (s.modCtx c h).tenderLog = s.tenderLog := rfl
@[simp] theorem State.modCtx_fw (s : State) (c : BitVec 6) (h : Ctx → Ctx) : (s.modCtx c h).fw = s.fw := rfl
@[simp] theorem State.modCtx_flash (s : State) (c : BitVec 6) (h : Ctx → Ctx) : (s.modCtx c h).flash = s.flash := rfl
@[simp] theorem State.modCtx_recovery (s : State) (c : BitVec 6) (h : Ctx → Ctx) : (s.modCtx c h).recovery = s.recovery := rfl
@[simp] theorem State.modCtx_fabValid (s : State) (c : BitVec 6) (h : Ctx → Ctx) : (s.modCtx c h).fabValid = s.fabValid := rfl
@[simp] theorem State.modCtx_fabId (s : State) (c : BitVec 6) (h : Ctx → Ctx) : (s.modCtx c h).fabId = s.fabId := rfl
@[simp] theorem State.modCtx_route (s : State) (c : BitVec 6) (h : Ctx → Ctx) : (s.modCtx c h).route = s.route := rfl
@[simp] theorem State.modCtx_links (s : State) (c : BitVec 6) (h : Ctx → Ctx) : (s.modCtx c h).links = s.links := rfl
@[simp] theorem State.modCtx_stalls (s : State) (c : BitVec 6) (h : Ctx → Ctx) : (s.modCtx c h).stalls = s.stalls := rfl
@[simp] theorem State.modCtx_logWaits (s : State) (c : BitVec 6) (h : Ctx → Ctx) : (s.modCtx c h).logWaits = s.logWaits := rfl
@[simp] theorem State.modCtx_lastGrant (s : State) (c : BitVec 6) (h : Ctx → Ctx) : (s.modCtx c h).lastGrant = s.lastGrant := rfl
@[simp] theorem State.modCtx_agenda (s : State) (c : BitVec 6) (h : Ctx → Ctx) : (s.modCtx c h).agenda = s.agenda := rfl
@[simp] theorem State.modCtx_cur (s : State) (c : BitVec 6) (h : Ctx → Ctx) : (s.modCtx c h).cur = s.cur := rfl
@[simp] theorem State.modCtx_free (s : State) (c : BitVec 6) (h : Ctx → Ctx) : (s.modCtx c h).free = s.free := rfl
@[simp] theorem State.modCtx_nextId (s : State) (c : BitVec 6) (h : Ctx → Ctx) : (s.modCtx c h).nextId = s.nextId := rfl

/-! `State.modCore` -/

@[simp] theorem State.modCore_clk (s : State) (c : Nat) (h : CoreSt → CoreSt) : (s.modCore c h).clk = s.clk := rfl
@[simp] theorem State.modCore_rate (s : State) (c : Nat) (h : CoreSt → CoreSt) : (s.modCore c h).rate = s.rate := rfl
@[simp] theorem State.modCore_wall (s : State) (c : Nat) (h : CoreSt → CoreSt) : (s.modCore c h).wall = s.wall := rfl
@[simp] theorem State.modCore_mem (s : State) (c : Nat) (h : CoreSt → CoreSt) : (s.modCore c h).mem = s.mem := rfl
@[simp] theorem State.modCore_poisoned (s : State) (c : Nat) (h : CoreSt → CoreSt) : (s.modCore c h).poisoned = s.poisoned := rfl
@[simp] theorem State.modCore_owners (s : State) (c : Nat) (h : CoreSt → CoreSt) : (s.modCore c h).owners = s.owners := rfl
@[simp] theorem State.modCore_ctxs (s : State) (c : Nat) (h : CoreSt → CoreSt) : (s.modCore c h).ctxs = s.ctxs := rfl
@[simp] theorem State.modCore_slices (s : State) (c : Nat) (h : CoreSt → CoreSt) : (s.modCore c h).slices = s.slices := rfl
@[simp] theorem State.modCore_teams (s : State) (c : Nat) (h : CoreSt → CoreSt) : (s.modCore c h).teams = s.teams := rfl
@[simp] theorem State.modCore_launches (s : State) (c : Nat) (h : CoreSt → CoreSt) : (s.modCore c h).launches = s.launches := rfl
@[simp] theorem State.modCore_accs (s : State) (c : Nat) (h : CoreSt → CoreSt) : (s.modCore c h).accs = s.accs := rfl
@[simp] theorem State.modCore_portAccs (s : State) (c : Nat) (h : CoreSt → CoreSt) : (s.modCore c h).portAccs = s.portAccs := rfl
@[simp] theorem State.modCore_requests (s : State) (c : Nat) (h : CoreSt → CoreSt) : (s.modCore c h).requests = s.requests := rfl
@[simp] theorem State.modCore_fetches (s : State) (c : Nat) (h : CoreSt → CoreSt) : (s.modCore c h).fetches = s.fetches := rfl
@[simp] theorem State.modCore_remoteWaits (s : State) (c : Nat) (h : CoreSt → CoreSt) : (s.modCore c h).remoteWaits = s.remoteWaits := rfl
@[simp] theorem State.modCore_sectorOut (s : State) (c : Nat) (h : CoreSt → CoreSt) : (s.modCore c h).sectorOut = s.sectorOut := rfl
@[simp] theorem State.modCore_ports (s : State) (c : Nat) (h : CoreSt → CoreSt) : (s.modCore c h).ports = s.ports := rfl
@[simp] theorem State.modCore_tenderLog (s : State) (c : Nat) (h : CoreSt → CoreSt) : (s.modCore c h).tenderLog = s.tenderLog := rfl
@[simp] theorem State.modCore_fw (s : State) (c : Nat) (h : CoreSt → CoreSt) : (s.modCore c h).fw = s.fw := rfl
@[simp] theorem State.modCore_flash (s : State) (c : Nat) (h : CoreSt → CoreSt) : (s.modCore c h).flash = s.flash := rfl
@[simp] theorem State.modCore_recovery (s : State) (c : Nat) (h : CoreSt → CoreSt) : (s.modCore c h).recovery = s.recovery := rfl
@[simp] theorem State.modCore_fabValid (s : State) (c : Nat) (h : CoreSt → CoreSt) : (s.modCore c h).fabValid = s.fabValid := rfl
@[simp] theorem State.modCore_fabId (s : State) (c : Nat) (h : CoreSt → CoreSt) : (s.modCore c h).fabId = s.fabId := rfl
@[simp] theorem State.modCore_route (s : State) (c : Nat) (h : CoreSt → CoreSt) : (s.modCore c h).route = s.route := rfl
@[simp] theorem State.modCore_links (s : State) (c : Nat) (h : CoreSt → CoreSt) : (s.modCore c h).links = s.links := rfl
@[simp] theorem State.modCore_stalls (s : State) (c : Nat) (h : CoreSt → CoreSt) : (s.modCore c h).stalls = s.stalls := rfl
@[simp] theorem State.modCore_logWaits (s : State) (c : Nat) (h : CoreSt → CoreSt) : (s.modCore c h).logWaits = s.logWaits := rfl
@[simp] theorem State.modCore_lastGrant (s : State) (c : Nat) (h : CoreSt → CoreSt) : (s.modCore c h).lastGrant = s.lastGrant := rfl
@[simp] theorem State.modCore_agenda (s : State) (c : Nat) (h : CoreSt → CoreSt) : (s.modCore c h).agenda = s.agenda := rfl
@[simp] theorem State.modCore_cur (s : State) (c : Nat) (h : CoreSt → CoreSt) : (s.modCore c h).cur = s.cur := rfl
@[simp] theorem State.modCore_free (s : State) (c : Nat) (h : CoreSt → CoreSt) : (s.modCore c h).free = s.free := rfl
@[simp] theorem State.modCore_nextId (s : State) (c : Nat) (h : CoreSt → CoreSt) : (s.modCore c h).nextId = s.nextId := rfl

/-! `State.modSlice` -/

@[simp] theorem State.modSlice_clk (s : State) (c : Nat) (h : Slice → Slice) : (s.modSlice c h).clk = s.clk := rfl
@[simp] theorem State.modSlice_rate (s : State) (c : Nat) (h : Slice → Slice) : (s.modSlice c h).rate = s.rate := rfl
@[simp] theorem State.modSlice_wall (s : State) (c : Nat) (h : Slice → Slice) : (s.modSlice c h).wall = s.wall := rfl
@[simp] theorem State.modSlice_mem (s : State) (c : Nat) (h : Slice → Slice) : (s.modSlice c h).mem = s.mem := rfl
@[simp] theorem State.modSlice_poisoned (s : State) (c : Nat) (h : Slice → Slice) : (s.modSlice c h).poisoned = s.poisoned := rfl
@[simp] theorem State.modSlice_owners (s : State) (c : Nat) (h : Slice → Slice) : (s.modSlice c h).owners = s.owners := rfl
@[simp] theorem State.modSlice_ctxs (s : State) (c : Nat) (h : Slice → Slice) : (s.modSlice c h).ctxs = s.ctxs := rfl
@[simp] theorem State.modSlice_cores (s : State) (c : Nat) (h : Slice → Slice) : (s.modSlice c h).cores = s.cores := rfl
@[simp] theorem State.modSlice_teams (s : State) (c : Nat) (h : Slice → Slice) : (s.modSlice c h).teams = s.teams := rfl
@[simp] theorem State.modSlice_launches (s : State) (c : Nat) (h : Slice → Slice) : (s.modSlice c h).launches = s.launches := rfl
@[simp] theorem State.modSlice_accs (s : State) (c : Nat) (h : Slice → Slice) : (s.modSlice c h).accs = s.accs := rfl
@[simp] theorem State.modSlice_portAccs (s : State) (c : Nat) (h : Slice → Slice) : (s.modSlice c h).portAccs = s.portAccs := rfl
@[simp] theorem State.modSlice_requests (s : State) (c : Nat) (h : Slice → Slice) : (s.modSlice c h).requests = s.requests := rfl
@[simp] theorem State.modSlice_fetches (s : State) (c : Nat) (h : Slice → Slice) : (s.modSlice c h).fetches = s.fetches := rfl
@[simp] theorem State.modSlice_remoteWaits (s : State) (c : Nat) (h : Slice → Slice) : (s.modSlice c h).remoteWaits = s.remoteWaits := rfl
@[simp] theorem State.modSlice_sectorOut (s : State) (c : Nat) (h : Slice → Slice) : (s.modSlice c h).sectorOut = s.sectorOut := rfl
@[simp] theorem State.modSlice_ports (s : State) (c : Nat) (h : Slice → Slice) : (s.modSlice c h).ports = s.ports := rfl
@[simp] theorem State.modSlice_tenderLog (s : State) (c : Nat) (h : Slice → Slice) : (s.modSlice c h).tenderLog = s.tenderLog := rfl
@[simp] theorem State.modSlice_fw (s : State) (c : Nat) (h : Slice → Slice) : (s.modSlice c h).fw = s.fw := rfl
@[simp] theorem State.modSlice_flash (s : State) (c : Nat) (h : Slice → Slice) : (s.modSlice c h).flash = s.flash := rfl
@[simp] theorem State.modSlice_recovery (s : State) (c : Nat) (h : Slice → Slice) : (s.modSlice c h).recovery = s.recovery := rfl
@[simp] theorem State.modSlice_fabValid (s : State) (c : Nat) (h : Slice → Slice) : (s.modSlice c h).fabValid = s.fabValid := rfl
@[simp] theorem State.modSlice_fabId (s : State) (c : Nat) (h : Slice → Slice) : (s.modSlice c h).fabId = s.fabId := rfl
@[simp] theorem State.modSlice_route (s : State) (c : Nat) (h : Slice → Slice) : (s.modSlice c h).route = s.route := rfl
@[simp] theorem State.modSlice_links (s : State) (c : Nat) (h : Slice → Slice) : (s.modSlice c h).links = s.links := rfl
@[simp] theorem State.modSlice_stalls (s : State) (c : Nat) (h : Slice → Slice) : (s.modSlice c h).stalls = s.stalls := rfl
@[simp] theorem State.modSlice_logWaits (s : State) (c : Nat) (h : Slice → Slice) : (s.modSlice c h).logWaits = s.logWaits := rfl
@[simp] theorem State.modSlice_lastGrant (s : State) (c : Nat) (h : Slice → Slice) : (s.modSlice c h).lastGrant = s.lastGrant := rfl
@[simp] theorem State.modSlice_agenda (s : State) (c : Nat) (h : Slice → Slice) : (s.modSlice c h).agenda = s.agenda := rfl
@[simp] theorem State.modSlice_cur (s : State) (c : Nat) (h : Slice → Slice) : (s.modSlice c h).cur = s.cur := rfl
@[simp] theorem State.modSlice_free (s : State) (c : Nat) (h : Slice → Slice) : (s.modSlice c h).free = s.free := rfl
@[simp] theorem State.modSlice_nextId (s : State) (c : Nat) (h : Slice → Slice) : (s.modSlice c h).nextId = s.nextId := rfl

/-! `State.modPort` -/

@[simp] theorem State.modPort_clk (s : State) (c : Port) (h : PortSt → PortSt) : (s.modPort c h).clk = s.clk := rfl
@[simp] theorem State.modPort_rate (s : State) (c : Port) (h : PortSt → PortSt) : (s.modPort c h).rate = s.rate := rfl
@[simp] theorem State.modPort_wall (s : State) (c : Port) (h : PortSt → PortSt) : (s.modPort c h).wall = s.wall := rfl
@[simp] theorem State.modPort_mem (s : State) (c : Port) (h : PortSt → PortSt) : (s.modPort c h).mem = s.mem := rfl
@[simp] theorem State.modPort_poisoned (s : State) (c : Port) (h : PortSt → PortSt) : (s.modPort c h).poisoned = s.poisoned := rfl
@[simp] theorem State.modPort_owners (s : State) (c : Port) (h : PortSt → PortSt) : (s.modPort c h).owners = s.owners := rfl
@[simp] theorem State.modPort_ctxs (s : State) (c : Port) (h : PortSt → PortSt) : (s.modPort c h).ctxs = s.ctxs := rfl
@[simp] theorem State.modPort_cores (s : State) (c : Port) (h : PortSt → PortSt) : (s.modPort c h).cores = s.cores := rfl
@[simp] theorem State.modPort_slices (s : State) (c : Port) (h : PortSt → PortSt) : (s.modPort c h).slices = s.slices := rfl
@[simp] theorem State.modPort_teams (s : State) (c : Port) (h : PortSt → PortSt) : (s.modPort c h).teams = s.teams := rfl
@[simp] theorem State.modPort_launches (s : State) (c : Port) (h : PortSt → PortSt) : (s.modPort c h).launches = s.launches := rfl
@[simp] theorem State.modPort_accs (s : State) (c : Port) (h : PortSt → PortSt) : (s.modPort c h).accs = s.accs := rfl
@[simp] theorem State.modPort_portAccs (s : State) (c : Port) (h : PortSt → PortSt) : (s.modPort c h).portAccs = s.portAccs := rfl
@[simp] theorem State.modPort_requests (s : State) (c : Port) (h : PortSt → PortSt) : (s.modPort c h).requests = s.requests := rfl
@[simp] theorem State.modPort_fetches (s : State) (c : Port) (h : PortSt → PortSt) : (s.modPort c h).fetches = s.fetches := rfl
@[simp] theorem State.modPort_remoteWaits (s : State) (c : Port) (h : PortSt → PortSt) : (s.modPort c h).remoteWaits = s.remoteWaits := rfl
@[simp] theorem State.modPort_sectorOut (s : State) (c : Port) (h : PortSt → PortSt) : (s.modPort c h).sectorOut = s.sectorOut := rfl
@[simp] theorem State.modPort_tenderLog (s : State) (c : Port) (h : PortSt → PortSt) : (s.modPort c h).tenderLog = s.tenderLog := rfl
@[simp] theorem State.modPort_fw (s : State) (c : Port) (h : PortSt → PortSt) : (s.modPort c h).fw = s.fw := rfl
@[simp] theorem State.modPort_flash (s : State) (c : Port) (h : PortSt → PortSt) : (s.modPort c h).flash = s.flash := rfl
@[simp] theorem State.modPort_recovery (s : State) (c : Port) (h : PortSt → PortSt) : (s.modPort c h).recovery = s.recovery := rfl
@[simp] theorem State.modPort_fabValid (s : State) (c : Port) (h : PortSt → PortSt) : (s.modPort c h).fabValid = s.fabValid := rfl
@[simp] theorem State.modPort_fabId (s : State) (c : Port) (h : PortSt → PortSt) : (s.modPort c h).fabId = s.fabId := rfl
@[simp] theorem State.modPort_route (s : State) (c : Port) (h : PortSt → PortSt) : (s.modPort c h).route = s.route := rfl
@[simp] theorem State.modPort_links (s : State) (c : Port) (h : PortSt → PortSt) : (s.modPort c h).links = s.links := rfl
@[simp] theorem State.modPort_stalls (s : State) (c : Port) (h : PortSt → PortSt) : (s.modPort c h).stalls = s.stalls := rfl
@[simp] theorem State.modPort_logWaits (s : State) (c : Port) (h : PortSt → PortSt) : (s.modPort c h).logWaits = s.logWaits := rfl
@[simp] theorem State.modPort_lastGrant (s : State) (c : Port) (h : PortSt → PortSt) : (s.modPort c h).lastGrant = s.lastGrant := rfl
@[simp] theorem State.modPort_agenda (s : State) (c : Port) (h : PortSt → PortSt) : (s.modPort c h).agenda = s.agenda := rfl
@[simp] theorem State.modPort_cur (s : State) (c : Port) (h : PortSt → PortSt) : (s.modPort c h).cur = s.cur := rfl
@[simp] theorem State.modPort_free (s : State) (c : Port) (h : PortSt → PortSt) : (s.modPort c h).free = s.free := rfl
@[simp] theorem State.modPort_nextId (s : State) (c : Port) (h : PortSt → PortSt) : (s.modPort c h).nextId = s.nextId := rfl

/-! `State.modTeam` -/

@[simp] theorem State.modTeam_clk (s : State) (a : Nat) (h : Team → Team) : (s.modTeam a h).clk = s.clk := rfl
@[simp] theorem State.modTeam_rate (s : State) (a : Nat) (h : Team → Team) : (s.modTeam a h).rate = s.rate := rfl
@[simp] theorem State.modTeam_wall (s : State) (a : Nat) (h : Team → Team) : (s.modTeam a h).wall = s.wall := rfl
@[simp] theorem State.modTeam_mem (s : State) (a : Nat) (h : Team → Team) : (s.modTeam a h).mem = s.mem := rfl
@[simp] theorem State.modTeam_poisoned (s : State) (a : Nat) (h : Team → Team) : (s.modTeam a h).poisoned = s.poisoned := rfl
@[simp] theorem State.modTeam_owners (s : State) (a : Nat) (h : Team → Team) : (s.modTeam a h).owners = s.owners := rfl
@[simp] theorem State.modTeam_ctxs (s : State) (a : Nat) (h : Team → Team) : (s.modTeam a h).ctxs = s.ctxs := rfl
@[simp] theorem State.modTeam_cores (s : State) (a : Nat) (h : Team → Team) : (s.modTeam a h).cores = s.cores := rfl
@[simp] theorem State.modTeam_slices (s : State) (a : Nat) (h : Team → Team) : (s.modTeam a h).slices = s.slices := rfl
@[simp] theorem State.modTeam_launches (s : State) (a : Nat) (h : Team → Team) : (s.modTeam a h).launches = s.launches := rfl
@[simp] theorem State.modTeam_accs (s : State) (a : Nat) (h : Team → Team) : (s.modTeam a h).accs = s.accs := rfl
@[simp] theorem State.modTeam_portAccs (s : State) (a : Nat) (h : Team → Team) : (s.modTeam a h).portAccs = s.portAccs := rfl
@[simp] theorem State.modTeam_requests (s : State) (a : Nat) (h : Team → Team) : (s.modTeam a h).requests = s.requests := rfl
@[simp] theorem State.modTeam_fetches (s : State) (a : Nat) (h : Team → Team) : (s.modTeam a h).fetches = s.fetches := rfl
@[simp] theorem State.modTeam_remoteWaits (s : State) (a : Nat) (h : Team → Team) : (s.modTeam a h).remoteWaits = s.remoteWaits := rfl
@[simp] theorem State.modTeam_sectorOut (s : State) (a : Nat) (h : Team → Team) : (s.modTeam a h).sectorOut = s.sectorOut := rfl
@[simp] theorem State.modTeam_ports (s : State) (a : Nat) (h : Team → Team) : (s.modTeam a h).ports = s.ports := rfl
@[simp] theorem State.modTeam_tenderLog (s : State) (a : Nat) (h : Team → Team) : (s.modTeam a h).tenderLog = s.tenderLog := rfl
@[simp] theorem State.modTeam_fw (s : State) (a : Nat) (h : Team → Team) : (s.modTeam a h).fw = s.fw := rfl
@[simp] theorem State.modTeam_flash (s : State) (a : Nat) (h : Team → Team) : (s.modTeam a h).flash = s.flash := rfl
@[simp] theorem State.modTeam_recovery (s : State) (a : Nat) (h : Team → Team) : (s.modTeam a h).recovery = s.recovery := rfl
@[simp] theorem State.modTeam_fabValid (s : State) (a : Nat) (h : Team → Team) : (s.modTeam a h).fabValid = s.fabValid := rfl
@[simp] theorem State.modTeam_fabId (s : State) (a : Nat) (h : Team → Team) : (s.modTeam a h).fabId = s.fabId := rfl
@[simp] theorem State.modTeam_route (s : State) (a : Nat) (h : Team → Team) : (s.modTeam a h).route = s.route := rfl
@[simp] theorem State.modTeam_links (s : State) (a : Nat) (h : Team → Team) : (s.modTeam a h).links = s.links := rfl
@[simp] theorem State.modTeam_stalls (s : State) (a : Nat) (h : Team → Team) : (s.modTeam a h).stalls = s.stalls := rfl
@[simp] theorem State.modTeam_logWaits (s : State) (a : Nat) (h : Team → Team) : (s.modTeam a h).logWaits = s.logWaits := rfl
@[simp] theorem State.modTeam_lastGrant (s : State) (a : Nat) (h : Team → Team) : (s.modTeam a h).lastGrant = s.lastGrant := rfl
@[simp] theorem State.modTeam_agenda (s : State) (a : Nat) (h : Team → Team) : (s.modTeam a h).agenda = s.agenda := rfl
@[simp] theorem State.modTeam_cur (s : State) (a : Nat) (h : Team → Team) : (s.modTeam a h).cur = s.cur := rfl
@[simp] theorem State.modTeam_free (s : State) (a : Nat) (h : Team → Team) : (s.modTeam a h).free = s.free := rfl
@[simp] theorem State.modTeam_nextId (s : State) (a : Nat) (h : Team → Team) : (s.modTeam a h).nextId = s.nextId := rfl

/-! `State.modWave` -/

@[simp] theorem State.modWave_clk (s : State) (a b : Nat) (h : Wave → Wave) : (s.modWave a b h).clk = s.clk := rfl
@[simp] theorem State.modWave_rate (s : State) (a b : Nat) (h : Wave → Wave) : (s.modWave a b h).rate = s.rate := rfl
@[simp] theorem State.modWave_wall (s : State) (a b : Nat) (h : Wave → Wave) : (s.modWave a b h).wall = s.wall := rfl
@[simp] theorem State.modWave_mem (s : State) (a b : Nat) (h : Wave → Wave) : (s.modWave a b h).mem = s.mem := rfl
@[simp] theorem State.modWave_poisoned (s : State) (a b : Nat) (h : Wave → Wave) : (s.modWave a b h).poisoned = s.poisoned := rfl
@[simp] theorem State.modWave_owners (s : State) (a b : Nat) (h : Wave → Wave) : (s.modWave a b h).owners = s.owners := rfl
@[simp] theorem State.modWave_ctxs (s : State) (a b : Nat) (h : Wave → Wave) : (s.modWave a b h).ctxs = s.ctxs := rfl
@[simp] theorem State.modWave_cores (s : State) (a b : Nat) (h : Wave → Wave) : (s.modWave a b h).cores = s.cores := rfl
@[simp] theorem State.modWave_slices (s : State) (a b : Nat) (h : Wave → Wave) : (s.modWave a b h).slices = s.slices := rfl
@[simp] theorem State.modWave_launches (s : State) (a b : Nat) (h : Wave → Wave) : (s.modWave a b h).launches = s.launches := rfl
@[simp] theorem State.modWave_accs (s : State) (a b : Nat) (h : Wave → Wave) : (s.modWave a b h).accs = s.accs := rfl
@[simp] theorem State.modWave_portAccs (s : State) (a b : Nat) (h : Wave → Wave) : (s.modWave a b h).portAccs = s.portAccs := rfl
@[simp] theorem State.modWave_requests (s : State) (a b : Nat) (h : Wave → Wave) : (s.modWave a b h).requests = s.requests := rfl
@[simp] theorem State.modWave_fetches (s : State) (a b : Nat) (h : Wave → Wave) : (s.modWave a b h).fetches = s.fetches := rfl
@[simp] theorem State.modWave_remoteWaits (s : State) (a b : Nat) (h : Wave → Wave) : (s.modWave a b h).remoteWaits = s.remoteWaits := rfl
@[simp] theorem State.modWave_sectorOut (s : State) (a b : Nat) (h : Wave → Wave) : (s.modWave a b h).sectorOut = s.sectorOut := rfl
@[simp] theorem State.modWave_ports (s : State) (a b : Nat) (h : Wave → Wave) : (s.modWave a b h).ports = s.ports := rfl
@[simp] theorem State.modWave_tenderLog (s : State) (a b : Nat) (h : Wave → Wave) : (s.modWave a b h).tenderLog = s.tenderLog := rfl
@[simp] theorem State.modWave_fw (s : State) (a b : Nat) (h : Wave → Wave) : (s.modWave a b h).fw = s.fw := rfl
@[simp] theorem State.modWave_flash (s : State) (a b : Nat) (h : Wave → Wave) : (s.modWave a b h).flash = s.flash := rfl
@[simp] theorem State.modWave_recovery (s : State) (a b : Nat) (h : Wave → Wave) : (s.modWave a b h).recovery = s.recovery := rfl
@[simp] theorem State.modWave_fabValid (s : State) (a b : Nat) (h : Wave → Wave) : (s.modWave a b h).fabValid = s.fabValid := rfl
@[simp] theorem State.modWave_fabId (s : State) (a b : Nat) (h : Wave → Wave) : (s.modWave a b h).fabId = s.fabId := rfl
@[simp] theorem State.modWave_route (s : State) (a b : Nat) (h : Wave → Wave) : (s.modWave a b h).route = s.route := rfl
@[simp] theorem State.modWave_links (s : State) (a b : Nat) (h : Wave → Wave) : (s.modWave a b h).links = s.links := rfl
@[simp] theorem State.modWave_stalls (s : State) (a b : Nat) (h : Wave → Wave) : (s.modWave a b h).stalls = s.stalls := rfl
@[simp] theorem State.modWave_logWaits (s : State) (a b : Nat) (h : Wave → Wave) : (s.modWave a b h).logWaits = s.logWaits := rfl
@[simp] theorem State.modWave_lastGrant (s : State) (a b : Nat) (h : Wave → Wave) : (s.modWave a b h).lastGrant = s.lastGrant := rfl
@[simp] theorem State.modWave_agenda (s : State) (a b : Nat) (h : Wave → Wave) : (s.modWave a b h).agenda = s.agenda := rfl
@[simp] theorem State.modWave_cur (s : State) (a b : Nat) (h : Wave → Wave) : (s.modWave a b h).cur = s.cur := rfl
@[simp] theorem State.modWave_free (s : State) (a b : Nat) (h : Wave → Wave) : (s.modWave a b h).free = s.free := rfl
@[simp] theorem State.modWave_nextId (s : State) (a b : Nat) (h : Wave → Wave) : (s.modWave a b h).nextId = s.nextId := rfl

/-! `State.modQuad` -/

@[simp] theorem State.modQuad_clk (s : State) (a b c : Nat) (h : Quad → Quad) : (s.modQuad a b c h).clk = s.clk := rfl
@[simp] theorem State.modQuad_rate (s : State) (a b c : Nat) (h : Quad → Quad) : (s.modQuad a b c h).rate = s.rate := rfl
@[simp] theorem State.modQuad_wall (s : State) (a b c : Nat) (h : Quad → Quad) : (s.modQuad a b c h).wall = s.wall := rfl
@[simp] theorem State.modQuad_mem (s : State) (a b c : Nat) (h : Quad → Quad) : (s.modQuad a b c h).mem = s.mem := rfl
@[simp] theorem State.modQuad_poisoned (s : State) (a b c : Nat) (h : Quad → Quad) : (s.modQuad a b c h).poisoned = s.poisoned := rfl
@[simp] theorem State.modQuad_owners (s : State) (a b c : Nat) (h : Quad → Quad) : (s.modQuad a b c h).owners = s.owners := rfl
@[simp] theorem State.modQuad_ctxs (s : State) (a b c : Nat) (h : Quad → Quad) : (s.modQuad a b c h).ctxs = s.ctxs := rfl
@[simp] theorem State.modQuad_cores (s : State) (a b c : Nat) (h : Quad → Quad) : (s.modQuad a b c h).cores = s.cores := rfl
@[simp] theorem State.modQuad_slices (s : State) (a b c : Nat) (h : Quad → Quad) : (s.modQuad a b c h).slices = s.slices := rfl
@[simp] theorem State.modQuad_launches (s : State) (a b c : Nat) (h : Quad → Quad) : (s.modQuad a b c h).launches = s.launches := rfl
@[simp] theorem State.modQuad_accs (s : State) (a b c : Nat) (h : Quad → Quad) : (s.modQuad a b c h).accs = s.accs := rfl
@[simp] theorem State.modQuad_portAccs (s : State) (a b c : Nat) (h : Quad → Quad) : (s.modQuad a b c h).portAccs = s.portAccs := rfl
@[simp] theorem State.modQuad_requests (s : State) (a b c : Nat) (h : Quad → Quad) : (s.modQuad a b c h).requests = s.requests := rfl
@[simp] theorem State.modQuad_fetches (s : State) (a b c : Nat) (h : Quad → Quad) : (s.modQuad a b c h).fetches = s.fetches := rfl
@[simp] theorem State.modQuad_remoteWaits (s : State) (a b c : Nat) (h : Quad → Quad) : (s.modQuad a b c h).remoteWaits = s.remoteWaits := rfl
@[simp] theorem State.modQuad_sectorOut (s : State) (a b c : Nat) (h : Quad → Quad) : (s.modQuad a b c h).sectorOut = s.sectorOut := rfl
@[simp] theorem State.modQuad_ports (s : State) (a b c : Nat) (h : Quad → Quad) : (s.modQuad a b c h).ports = s.ports := rfl
@[simp] theorem State.modQuad_tenderLog (s : State) (a b c : Nat) (h : Quad → Quad) : (s.modQuad a b c h).tenderLog = s.tenderLog := rfl
@[simp] theorem State.modQuad_fw (s : State) (a b c : Nat) (h : Quad → Quad) : (s.modQuad a b c h).fw = s.fw := rfl
@[simp] theorem State.modQuad_flash (s : State) (a b c : Nat) (h : Quad → Quad) : (s.modQuad a b c h).flash = s.flash := rfl
@[simp] theorem State.modQuad_recovery (s : State) (a b c : Nat) (h : Quad → Quad) : (s.modQuad a b c h).recovery = s.recovery := rfl
@[simp] theorem State.modQuad_fabValid (s : State) (a b c : Nat) (h : Quad → Quad) : (s.modQuad a b c h).fabValid = s.fabValid := rfl
@[simp] theorem State.modQuad_fabId (s : State) (a b c : Nat) (h : Quad → Quad) : (s.modQuad a b c h).fabId = s.fabId := rfl
@[simp] theorem State.modQuad_route (s : State) (a b c : Nat) (h : Quad → Quad) : (s.modQuad a b c h).route = s.route := rfl
@[simp] theorem State.modQuad_links (s : State) (a b c : Nat) (h : Quad → Quad) : (s.modQuad a b c h).links = s.links := rfl
@[simp] theorem State.modQuad_stalls (s : State) (a b c : Nat) (h : Quad → Quad) : (s.modQuad a b c h).stalls = s.stalls := rfl
@[simp] theorem State.modQuad_logWaits (s : State) (a b c : Nat) (h : Quad → Quad) : (s.modQuad a b c h).logWaits = s.logWaits := rfl
@[simp] theorem State.modQuad_lastGrant (s : State) (a b c : Nat) (h : Quad → Quad) : (s.modQuad a b c h).lastGrant = s.lastGrant := rfl
@[simp] theorem State.modQuad_agenda (s : State) (a b c : Nat) (h : Quad → Quad) : (s.modQuad a b c h).agenda = s.agenda := rfl
@[simp] theorem State.modQuad_cur (s : State) (a b c : Nat) (h : Quad → Quad) : (s.modQuad a b c h).cur = s.cur := rfl
@[simp] theorem State.modQuad_free (s : State) (a b c : Nat) (h : Quad → Quad) : (s.modQuad a b c h).free = s.free := rfl
@[simp] theorem State.modQuad_nextId (s : State) (a b c : Nat) (h : Quad → Quad) : (s.modQuad a b c h).nextId = s.nextId := rfl

/-! `State.modQuads` -/

@[simp] theorem State.modQuads_clk (s : State) (a b : Nat) (c : List Nat) (h : Nat → Quad → Quad) : (s.modQuads a b c h).clk = s.clk := rfl
@[simp] theorem State.modQuads_rate (s : State) (a b : Nat) (c : List Nat) (h : Nat → Quad → Quad) : (s.modQuads a b c h).rate = s.rate := rfl
@[simp] theorem State.modQuads_wall (s : State) (a b : Nat) (c : List Nat) (h : Nat → Quad → Quad) : (s.modQuads a b c h).wall = s.wall := rfl
@[simp] theorem State.modQuads_mem (s : State) (a b : Nat) (c : List Nat) (h : Nat → Quad → Quad) : (s.modQuads a b c h).mem = s.mem := rfl
@[simp] theorem State.modQuads_poisoned (s : State) (a b : Nat) (c : List Nat) (h : Nat → Quad → Quad) : (s.modQuads a b c h).poisoned = s.poisoned := rfl
@[simp] theorem State.modQuads_owners (s : State) (a b : Nat) (c : List Nat) (h : Nat → Quad → Quad) : (s.modQuads a b c h).owners = s.owners := rfl
@[simp] theorem State.modQuads_ctxs (s : State) (a b : Nat) (c : List Nat) (h : Nat → Quad → Quad) : (s.modQuads a b c h).ctxs = s.ctxs := rfl
@[simp] theorem State.modQuads_cores (s : State) (a b : Nat) (c : List Nat) (h : Nat → Quad → Quad) : (s.modQuads a b c h).cores = s.cores := rfl
@[simp] theorem State.modQuads_slices (s : State) (a b : Nat) (c : List Nat) (h : Nat → Quad → Quad) : (s.modQuads a b c h).slices = s.slices := rfl
@[simp] theorem State.modQuads_launches (s : State) (a b : Nat) (c : List Nat) (h : Nat → Quad → Quad) : (s.modQuads a b c h).launches = s.launches := rfl
@[simp] theorem State.modQuads_accs (s : State) (a b : Nat) (c : List Nat) (h : Nat → Quad → Quad) : (s.modQuads a b c h).accs = s.accs := rfl
@[simp] theorem State.modQuads_portAccs (s : State) (a b : Nat) (c : List Nat) (h : Nat → Quad → Quad) : (s.modQuads a b c h).portAccs = s.portAccs := rfl
@[simp] theorem State.modQuads_requests (s : State) (a b : Nat) (c : List Nat) (h : Nat → Quad → Quad) : (s.modQuads a b c h).requests = s.requests := rfl
@[simp] theorem State.modQuads_fetches (s : State) (a b : Nat) (c : List Nat) (h : Nat → Quad → Quad) : (s.modQuads a b c h).fetches = s.fetches := rfl
@[simp] theorem State.modQuads_remoteWaits (s : State) (a b : Nat) (c : List Nat) (h : Nat → Quad → Quad) : (s.modQuads a b c h).remoteWaits = s.remoteWaits := rfl
@[simp] theorem State.modQuads_sectorOut (s : State) (a b : Nat) (c : List Nat) (h : Nat → Quad → Quad) : (s.modQuads a b c h).sectorOut = s.sectorOut := rfl
@[simp] theorem State.modQuads_ports (s : State) (a b : Nat) (c : List Nat) (h : Nat → Quad → Quad) : (s.modQuads a b c h).ports = s.ports := rfl
@[simp] theorem State.modQuads_tenderLog (s : State) (a b : Nat) (c : List Nat) (h : Nat → Quad → Quad) : (s.modQuads a b c h).tenderLog = s.tenderLog := rfl
@[simp] theorem State.modQuads_fw (s : State) (a b : Nat) (c : List Nat) (h : Nat → Quad → Quad) : (s.modQuads a b c h).fw = s.fw := rfl
@[simp] theorem State.modQuads_flash (s : State) (a b : Nat) (c : List Nat) (h : Nat → Quad → Quad) : (s.modQuads a b c h).flash = s.flash := rfl
@[simp] theorem State.modQuads_recovery (s : State) (a b : Nat) (c : List Nat) (h : Nat → Quad → Quad) : (s.modQuads a b c h).recovery = s.recovery := rfl
@[simp] theorem State.modQuads_fabValid (s : State) (a b : Nat) (c : List Nat) (h : Nat → Quad → Quad) : (s.modQuads a b c h).fabValid = s.fabValid := rfl
@[simp] theorem State.modQuads_fabId (s : State) (a b : Nat) (c : List Nat) (h : Nat → Quad → Quad) : (s.modQuads a b c h).fabId = s.fabId := rfl
@[simp] theorem State.modQuads_route (s : State) (a b : Nat) (c : List Nat) (h : Nat → Quad → Quad) : (s.modQuads a b c h).route = s.route := rfl
@[simp] theorem State.modQuads_links (s : State) (a b : Nat) (c : List Nat) (h : Nat → Quad → Quad) : (s.modQuads a b c h).links = s.links := rfl
@[simp] theorem State.modQuads_stalls (s : State) (a b : Nat) (c : List Nat) (h : Nat → Quad → Quad) : (s.modQuads a b c h).stalls = s.stalls := rfl
@[simp] theorem State.modQuads_logWaits (s : State) (a b : Nat) (c : List Nat) (h : Nat → Quad → Quad) : (s.modQuads a b c h).logWaits = s.logWaits := rfl
@[simp] theorem State.modQuads_lastGrant (s : State) (a b : Nat) (c : List Nat) (h : Nat → Quad → Quad) : (s.modQuads a b c h).lastGrant = s.lastGrant := rfl
@[simp] theorem State.modQuads_agenda (s : State) (a b : Nat) (c : List Nat) (h : Nat → Quad → Quad) : (s.modQuads a b c h).agenda = s.agenda := rfl
@[simp] theorem State.modQuads_cur (s : State) (a b : Nat) (c : List Nat) (h : Nat → Quad → Quad) : (s.modQuads a b c h).cur = s.cur := rfl
@[simp] theorem State.modQuads_free (s : State) (a b : Nat) (c : List Nat) (h : Nat → Quad → Quad) : (s.modQuads a b c h).free = s.free := rfl
@[simp] theorem State.modQuads_nextId (s : State) (a b : Nat) (c : List Nat) (h : Nat → Quad → Quad) : (s.modQuads a b c h).nextId = s.nextId := rfl

/-! `State.mapGang` -/

@[simp] theorem State.mapGang_clk (s : State) (a : GangRef) (h : Nat → Quad → Quad) : (s.mapGang a h).clk = s.clk := rfl
@[simp] theorem State.mapGang_rate (s : State) (a : GangRef) (h : Nat → Quad → Quad) : (s.mapGang a h).rate = s.rate := rfl
@[simp] theorem State.mapGang_wall (s : State) (a : GangRef) (h : Nat → Quad → Quad) : (s.mapGang a h).wall = s.wall := rfl
@[simp] theorem State.mapGang_mem (s : State) (a : GangRef) (h : Nat → Quad → Quad) : (s.mapGang a h).mem = s.mem := rfl
@[simp] theorem State.mapGang_poisoned (s : State) (a : GangRef) (h : Nat → Quad → Quad) : (s.mapGang a h).poisoned = s.poisoned := rfl
@[simp] theorem State.mapGang_owners (s : State) (a : GangRef) (h : Nat → Quad → Quad) : (s.mapGang a h).owners = s.owners := rfl
@[simp] theorem State.mapGang_ctxs (s : State) (a : GangRef) (h : Nat → Quad → Quad) : (s.mapGang a h).ctxs = s.ctxs := rfl
@[simp] theorem State.mapGang_cores (s : State) (a : GangRef) (h : Nat → Quad → Quad) : (s.mapGang a h).cores = s.cores := rfl
@[simp] theorem State.mapGang_slices (s : State) (a : GangRef) (h : Nat → Quad → Quad) : (s.mapGang a h).slices = s.slices := rfl
@[simp] theorem State.mapGang_launches (s : State) (a : GangRef) (h : Nat → Quad → Quad) : (s.mapGang a h).launches = s.launches := rfl
@[simp] theorem State.mapGang_accs (s : State) (a : GangRef) (h : Nat → Quad → Quad) : (s.mapGang a h).accs = s.accs := rfl
@[simp] theorem State.mapGang_portAccs (s : State) (a : GangRef) (h : Nat → Quad → Quad) : (s.mapGang a h).portAccs = s.portAccs := rfl
@[simp] theorem State.mapGang_requests (s : State) (a : GangRef) (h : Nat → Quad → Quad) : (s.mapGang a h).requests = s.requests := rfl
@[simp] theorem State.mapGang_fetches (s : State) (a : GangRef) (h : Nat → Quad → Quad) : (s.mapGang a h).fetches = s.fetches := rfl
@[simp] theorem State.mapGang_remoteWaits (s : State) (a : GangRef) (h : Nat → Quad → Quad) : (s.mapGang a h).remoteWaits = s.remoteWaits := rfl
@[simp] theorem State.mapGang_sectorOut (s : State) (a : GangRef) (h : Nat → Quad → Quad) : (s.mapGang a h).sectorOut = s.sectorOut := rfl
@[simp] theorem State.mapGang_ports (s : State) (a : GangRef) (h : Nat → Quad → Quad) : (s.mapGang a h).ports = s.ports := rfl
@[simp] theorem State.mapGang_tenderLog (s : State) (a : GangRef) (h : Nat → Quad → Quad) : (s.mapGang a h).tenderLog = s.tenderLog := rfl
@[simp] theorem State.mapGang_fw (s : State) (a : GangRef) (h : Nat → Quad → Quad) : (s.mapGang a h).fw = s.fw := rfl
@[simp] theorem State.mapGang_flash (s : State) (a : GangRef) (h : Nat → Quad → Quad) : (s.mapGang a h).flash = s.flash := rfl
@[simp] theorem State.mapGang_recovery (s : State) (a : GangRef) (h : Nat → Quad → Quad) : (s.mapGang a h).recovery = s.recovery := rfl
@[simp] theorem State.mapGang_fabValid (s : State) (a : GangRef) (h : Nat → Quad → Quad) : (s.mapGang a h).fabValid = s.fabValid := rfl
@[simp] theorem State.mapGang_fabId (s : State) (a : GangRef) (h : Nat → Quad → Quad) : (s.mapGang a h).fabId = s.fabId := rfl
@[simp] theorem State.mapGang_route (s : State) (a : GangRef) (h : Nat → Quad → Quad) : (s.mapGang a h).route = s.route := rfl
@[simp] theorem State.mapGang_links (s : State) (a : GangRef) (h : Nat → Quad → Quad) : (s.mapGang a h).links = s.links := rfl
@[simp] theorem State.mapGang_stalls (s : State) (a : GangRef) (h : Nat → Quad → Quad) : (s.mapGang a h).stalls = s.stalls := rfl
@[simp] theorem State.mapGang_logWaits (s : State) (a : GangRef) (h : Nat → Quad → Quad) : (s.mapGang a h).logWaits = s.logWaits := rfl
@[simp] theorem State.mapGang_lastGrant (s : State) (a : GangRef) (h : Nat → Quad → Quad) : (s.mapGang a h).lastGrant = s.lastGrant := rfl
@[simp] theorem State.mapGang_agenda (s : State) (a : GangRef) (h : Nat → Quad → Quad) : (s.mapGang a h).agenda = s.agenda := rfl
@[simp] theorem State.mapGang_cur (s : State) (a : GangRef) (h : Nat → Quad → Quad) : (s.mapGang a h).cur = s.cur := rfl
@[simp] theorem State.mapGang_free (s : State) (a : GangRef) (h : Nat → Quad → Quad) : (s.mapGang a h).free = s.free := rfl
@[simp] theorem State.mapGang_nextId (s : State) (a : GangRef) (h : Nat → Quad → Quad) : (s.mapGang a h).nextId = s.nextId := rfl

/-! `State.modLaunch` -/

@[simp] theorem State.modLaunch_clk (s : State) (a : Nat) (h : Launch → Launch) : (s.modLaunch a h).clk = s.clk := rfl
@[simp] theorem State.modLaunch_rate (s : State) (a : Nat) (h : Launch → Launch) : (s.modLaunch a h).rate = s.rate := rfl
@[simp] theorem State.modLaunch_wall (s : State) (a : Nat) (h : Launch → Launch) : (s.modLaunch a h).wall = s.wall := rfl
@[simp] theorem State.modLaunch_mem (s : State) (a : Nat) (h : Launch → Launch) : (s.modLaunch a h).mem = s.mem := rfl
@[simp] theorem State.modLaunch_poisoned (s : State) (a : Nat) (h : Launch → Launch) : (s.modLaunch a h).poisoned = s.poisoned := rfl
@[simp] theorem State.modLaunch_owners (s : State) (a : Nat) (h : Launch → Launch) : (s.modLaunch a h).owners = s.owners := rfl
@[simp] theorem State.modLaunch_ctxs (s : State) (a : Nat) (h : Launch → Launch) : (s.modLaunch a h).ctxs = s.ctxs := rfl
@[simp] theorem State.modLaunch_cores (s : State) (a : Nat) (h : Launch → Launch) : (s.modLaunch a h).cores = s.cores := rfl
@[simp] theorem State.modLaunch_slices (s : State) (a : Nat) (h : Launch → Launch) : (s.modLaunch a h).slices = s.slices := rfl
@[simp] theorem State.modLaunch_teams (s : State) (a : Nat) (h : Launch → Launch) : (s.modLaunch a h).teams = s.teams := rfl
@[simp] theorem State.modLaunch_accs (s : State) (a : Nat) (h : Launch → Launch) : (s.modLaunch a h).accs = s.accs := rfl
@[simp] theorem State.modLaunch_portAccs (s : State) (a : Nat) (h : Launch → Launch) : (s.modLaunch a h).portAccs = s.portAccs := rfl
@[simp] theorem State.modLaunch_requests (s : State) (a : Nat) (h : Launch → Launch) : (s.modLaunch a h).requests = s.requests := rfl
@[simp] theorem State.modLaunch_fetches (s : State) (a : Nat) (h : Launch → Launch) : (s.modLaunch a h).fetches = s.fetches := rfl
@[simp] theorem State.modLaunch_remoteWaits (s : State) (a : Nat) (h : Launch → Launch) : (s.modLaunch a h).remoteWaits = s.remoteWaits := rfl
@[simp] theorem State.modLaunch_sectorOut (s : State) (a : Nat) (h : Launch → Launch) : (s.modLaunch a h).sectorOut = s.sectorOut := rfl
@[simp] theorem State.modLaunch_ports (s : State) (a : Nat) (h : Launch → Launch) : (s.modLaunch a h).ports = s.ports := rfl
@[simp] theorem State.modLaunch_tenderLog (s : State) (a : Nat) (h : Launch → Launch) : (s.modLaunch a h).tenderLog = s.tenderLog := rfl
@[simp] theorem State.modLaunch_fw (s : State) (a : Nat) (h : Launch → Launch) : (s.modLaunch a h).fw = s.fw := rfl
@[simp] theorem State.modLaunch_flash (s : State) (a : Nat) (h : Launch → Launch) : (s.modLaunch a h).flash = s.flash := rfl
@[simp] theorem State.modLaunch_recovery (s : State) (a : Nat) (h : Launch → Launch) : (s.modLaunch a h).recovery = s.recovery := rfl
@[simp] theorem State.modLaunch_fabValid (s : State) (a : Nat) (h : Launch → Launch) : (s.modLaunch a h).fabValid = s.fabValid := rfl
@[simp] theorem State.modLaunch_fabId (s : State) (a : Nat) (h : Launch → Launch) : (s.modLaunch a h).fabId = s.fabId := rfl
@[simp] theorem State.modLaunch_route (s : State) (a : Nat) (h : Launch → Launch) : (s.modLaunch a h).route = s.route := rfl
@[simp] theorem State.modLaunch_links (s : State) (a : Nat) (h : Launch → Launch) : (s.modLaunch a h).links = s.links := rfl
@[simp] theorem State.modLaunch_stalls (s : State) (a : Nat) (h : Launch → Launch) : (s.modLaunch a h).stalls = s.stalls := rfl
@[simp] theorem State.modLaunch_logWaits (s : State) (a : Nat) (h : Launch → Launch) : (s.modLaunch a h).logWaits = s.logWaits := rfl
@[simp] theorem State.modLaunch_lastGrant (s : State) (a : Nat) (h : Launch → Launch) : (s.modLaunch a h).lastGrant = s.lastGrant := rfl
@[simp] theorem State.modLaunch_agenda (s : State) (a : Nat) (h : Launch → Launch) : (s.modLaunch a h).agenda = s.agenda := rfl
@[simp] theorem State.modLaunch_cur (s : State) (a : Nat) (h : Launch → Launch) : (s.modLaunch a h).cur = s.cur := rfl
@[simp] theorem State.modLaunch_free (s : State) (a : Nat) (h : Launch → Launch) : (s.modLaunch a h).free = s.free := rfl
@[simp] theorem State.modLaunch_nextId (s : State) (a : Nat) (h : Launch → Launch) : (s.modLaunch a h).nextId = s.nextId := rfl

/-! `State.modQueue` -/

@[simp] theorem State.modQueue_clk (s : State) (a : BitVec 6) (b : BitVec 8) (h : Queue → Queue) : (s.modQueue a b h).clk = s.clk := rfl
@[simp] theorem State.modQueue_rate (s : State) (a : BitVec 6) (b : BitVec 8) (h : Queue → Queue) : (s.modQueue a b h).rate = s.rate := rfl
@[simp] theorem State.modQueue_wall (s : State) (a : BitVec 6) (b : BitVec 8) (h : Queue → Queue) : (s.modQueue a b h).wall = s.wall := rfl
@[simp] theorem State.modQueue_mem (s : State) (a : BitVec 6) (b : BitVec 8) (h : Queue → Queue) : (s.modQueue a b h).mem = s.mem := rfl
@[simp] theorem State.modQueue_poisoned (s : State) (a : BitVec 6) (b : BitVec 8) (h : Queue → Queue) : (s.modQueue a b h).poisoned = s.poisoned := rfl
@[simp] theorem State.modQueue_owners (s : State) (a : BitVec 6) (b : BitVec 8) (h : Queue → Queue) : (s.modQueue a b h).owners = s.owners := rfl
@[simp] theorem State.modQueue_cores (s : State) (a : BitVec 6) (b : BitVec 8) (h : Queue → Queue) : (s.modQueue a b h).cores = s.cores := rfl
@[simp] theorem State.modQueue_slices (s : State) (a : BitVec 6) (b : BitVec 8) (h : Queue → Queue) : (s.modQueue a b h).slices = s.slices := rfl
@[simp] theorem State.modQueue_teams (s : State) (a : BitVec 6) (b : BitVec 8) (h : Queue → Queue) : (s.modQueue a b h).teams = s.teams := rfl
@[simp] theorem State.modQueue_launches (s : State) (a : BitVec 6) (b : BitVec 8) (h : Queue → Queue) : (s.modQueue a b h).launches = s.launches := rfl
@[simp] theorem State.modQueue_accs (s : State) (a : BitVec 6) (b : BitVec 8) (h : Queue → Queue) : (s.modQueue a b h).accs = s.accs := rfl
@[simp] theorem State.modQueue_portAccs (s : State) (a : BitVec 6) (b : BitVec 8) (h : Queue → Queue) : (s.modQueue a b h).portAccs = s.portAccs := rfl
@[simp] theorem State.modQueue_requests (s : State) (a : BitVec 6) (b : BitVec 8) (h : Queue → Queue) : (s.modQueue a b h).requests = s.requests := rfl
@[simp] theorem State.modQueue_fetches (s : State) (a : BitVec 6) (b : BitVec 8) (h : Queue → Queue) : (s.modQueue a b h).fetches = s.fetches := rfl
@[simp] theorem State.modQueue_remoteWaits (s : State) (a : BitVec 6) (b : BitVec 8) (h : Queue → Queue) : (s.modQueue a b h).remoteWaits = s.remoteWaits := rfl
@[simp] theorem State.modQueue_sectorOut (s : State) (a : BitVec 6) (b : BitVec 8) (h : Queue → Queue) : (s.modQueue a b h).sectorOut = s.sectorOut := rfl
@[simp] theorem State.modQueue_ports (s : State) (a : BitVec 6) (b : BitVec 8) (h : Queue → Queue) : (s.modQueue a b h).ports = s.ports := rfl
@[simp] theorem State.modQueue_tenderLog (s : State) (a : BitVec 6) (b : BitVec 8) (h : Queue → Queue) : (s.modQueue a b h).tenderLog = s.tenderLog := rfl
@[simp] theorem State.modQueue_fw (s : State) (a : BitVec 6) (b : BitVec 8) (h : Queue → Queue) : (s.modQueue a b h).fw = s.fw := rfl
@[simp] theorem State.modQueue_flash (s : State) (a : BitVec 6) (b : BitVec 8) (h : Queue → Queue) : (s.modQueue a b h).flash = s.flash := rfl
@[simp] theorem State.modQueue_recovery (s : State) (a : BitVec 6) (b : BitVec 8) (h : Queue → Queue) : (s.modQueue a b h).recovery = s.recovery := rfl
@[simp] theorem State.modQueue_fabValid (s : State) (a : BitVec 6) (b : BitVec 8) (h : Queue → Queue) : (s.modQueue a b h).fabValid = s.fabValid := rfl
@[simp] theorem State.modQueue_fabId (s : State) (a : BitVec 6) (b : BitVec 8) (h : Queue → Queue) : (s.modQueue a b h).fabId = s.fabId := rfl
@[simp] theorem State.modQueue_route (s : State) (a : BitVec 6) (b : BitVec 8) (h : Queue → Queue) : (s.modQueue a b h).route = s.route := rfl
@[simp] theorem State.modQueue_links (s : State) (a : BitVec 6) (b : BitVec 8) (h : Queue → Queue) : (s.modQueue a b h).links = s.links := rfl
@[simp] theorem State.modQueue_stalls (s : State) (a : BitVec 6) (b : BitVec 8) (h : Queue → Queue) : (s.modQueue a b h).stalls = s.stalls := rfl
@[simp] theorem State.modQueue_logWaits (s : State) (a : BitVec 6) (b : BitVec 8) (h : Queue → Queue) : (s.modQueue a b h).logWaits = s.logWaits := rfl
@[simp] theorem State.modQueue_lastGrant (s : State) (a : BitVec 6) (b : BitVec 8) (h : Queue → Queue) : (s.modQueue a b h).lastGrant = s.lastGrant := rfl
@[simp] theorem State.modQueue_agenda (s : State) (a : BitVec 6) (b : BitVec 8) (h : Queue → Queue) : (s.modQueue a b h).agenda = s.agenda := rfl
@[simp] theorem State.modQueue_cur (s : State) (a : BitVec 6) (b : BitVec 8) (h : Queue → Queue) : (s.modQueue a b h).cur = s.cur := rfl
@[simp] theorem State.modQueue_free (s : State) (a : BitVec 6) (b : BitVec 8) (h : Queue → Queue) : (s.modQueue a b h).free = s.free := rfl
@[simp] theorem State.modQueue_nextId (s : State) (a : BitVec 6) (b : BitVec 8) (h : Queue → Queue) : (s.modQueue a b h).nextId = s.nextId := rfl

/-! `State.modEngine` -/

@[simp] theorem State.modEngine_clk (s : State) (a : Nat) (b : BitVec 3) (h : List Entry → List Entry) : (s.modEngine a b h).clk = s.clk := rfl
@[simp] theorem State.modEngine_rate (s : State) (a : Nat) (b : BitVec 3) (h : List Entry → List Entry) : (s.modEngine a b h).rate = s.rate := rfl
@[simp] theorem State.modEngine_wall (s : State) (a : Nat) (b : BitVec 3) (h : List Entry → List Entry) : (s.modEngine a b h).wall = s.wall := rfl
@[simp] theorem State.modEngine_mem (s : State) (a : Nat) (b : BitVec 3) (h : List Entry → List Entry) : (s.modEngine a b h).mem = s.mem := rfl
@[simp] theorem State.modEngine_poisoned (s : State) (a : Nat) (b : BitVec 3) (h : List Entry → List Entry) : (s.modEngine a b h).poisoned = s.poisoned := rfl
@[simp] theorem State.modEngine_owners (s : State) (a : Nat) (b : BitVec 3) (h : List Entry → List Entry) : (s.modEngine a b h).owners = s.owners := rfl
@[simp] theorem State.modEngine_ctxs (s : State) (a : Nat) (b : BitVec 3) (h : List Entry → List Entry) : (s.modEngine a b h).ctxs = s.ctxs := rfl
@[simp] theorem State.modEngine_slices (s : State) (a : Nat) (b : BitVec 3) (h : List Entry → List Entry) : (s.modEngine a b h).slices = s.slices := rfl
@[simp] theorem State.modEngine_teams (s : State) (a : Nat) (b : BitVec 3) (h : List Entry → List Entry) : (s.modEngine a b h).teams = s.teams := rfl
@[simp] theorem State.modEngine_launches (s : State) (a : Nat) (b : BitVec 3) (h : List Entry → List Entry) : (s.modEngine a b h).launches = s.launches := rfl
@[simp] theorem State.modEngine_accs (s : State) (a : Nat) (b : BitVec 3) (h : List Entry → List Entry) : (s.modEngine a b h).accs = s.accs := rfl
@[simp] theorem State.modEngine_portAccs (s : State) (a : Nat) (b : BitVec 3) (h : List Entry → List Entry) : (s.modEngine a b h).portAccs = s.portAccs := rfl
@[simp] theorem State.modEngine_requests (s : State) (a : Nat) (b : BitVec 3) (h : List Entry → List Entry) : (s.modEngine a b h).requests = s.requests := rfl
@[simp] theorem State.modEngine_fetches (s : State) (a : Nat) (b : BitVec 3) (h : List Entry → List Entry) : (s.modEngine a b h).fetches = s.fetches := rfl
@[simp] theorem State.modEngine_remoteWaits (s : State) (a : Nat) (b : BitVec 3) (h : List Entry → List Entry) : (s.modEngine a b h).remoteWaits = s.remoteWaits := rfl
@[simp] theorem State.modEngine_sectorOut (s : State) (a : Nat) (b : BitVec 3) (h : List Entry → List Entry) : (s.modEngine a b h).sectorOut = s.sectorOut := rfl
@[simp] theorem State.modEngine_ports (s : State) (a : Nat) (b : BitVec 3) (h : List Entry → List Entry) : (s.modEngine a b h).ports = s.ports := rfl
@[simp] theorem State.modEngine_tenderLog (s : State) (a : Nat) (b : BitVec 3) (h : List Entry → List Entry) : (s.modEngine a b h).tenderLog = s.tenderLog := rfl
@[simp] theorem State.modEngine_fw (s : State) (a : Nat) (b : BitVec 3) (h : List Entry → List Entry) : (s.modEngine a b h).fw = s.fw := rfl
@[simp] theorem State.modEngine_flash (s : State) (a : Nat) (b : BitVec 3) (h : List Entry → List Entry) : (s.modEngine a b h).flash = s.flash := rfl
@[simp] theorem State.modEngine_recovery (s : State) (a : Nat) (b : BitVec 3) (h : List Entry → List Entry) : (s.modEngine a b h).recovery = s.recovery := rfl
@[simp] theorem State.modEngine_fabValid (s : State) (a : Nat) (b : BitVec 3) (h : List Entry → List Entry) : (s.modEngine a b h).fabValid = s.fabValid := rfl
@[simp] theorem State.modEngine_fabId (s : State) (a : Nat) (b : BitVec 3) (h : List Entry → List Entry) : (s.modEngine a b h).fabId = s.fabId := rfl
@[simp] theorem State.modEngine_route (s : State) (a : Nat) (b : BitVec 3) (h : List Entry → List Entry) : (s.modEngine a b h).route = s.route := rfl
@[simp] theorem State.modEngine_links (s : State) (a : Nat) (b : BitVec 3) (h : List Entry → List Entry) : (s.modEngine a b h).links = s.links := rfl
@[simp] theorem State.modEngine_stalls (s : State) (a : Nat) (b : BitVec 3) (h : List Entry → List Entry) : (s.modEngine a b h).stalls = s.stalls := rfl
@[simp] theorem State.modEngine_logWaits (s : State) (a : Nat) (b : BitVec 3) (h : List Entry → List Entry) : (s.modEngine a b h).logWaits = s.logWaits := rfl
@[simp] theorem State.modEngine_lastGrant (s : State) (a : Nat) (b : BitVec 3) (h : List Entry → List Entry) : (s.modEngine a b h).lastGrant = s.lastGrant := rfl
@[simp] theorem State.modEngine_agenda (s : State) (a : Nat) (b : BitVec 3) (h : List Entry → List Entry) : (s.modEngine a b h).agenda = s.agenda := rfl
@[simp] theorem State.modEngine_cur (s : State) (a : Nat) (b : BitVec 3) (h : List Entry → List Entry) : (s.modEngine a b h).cur = s.cur := rfl
@[simp] theorem State.modEngine_free (s : State) (a : Nat) (b : BitVec 3) (h : List Entry → List Entry) : (s.modEngine a b h).free = s.free := rfl
@[simp] theorem State.modEngine_nextId (s : State) (a : Nat) (b : BitVec 3) (h : List Entry → List Entry) : (s.modEngine a b h).nextId = s.nextId := rfl

/-! `State.bumpId` -/

@[simp] theorem State.bumpId_clk (s : State) : (s.bumpId).clk = s.clk := rfl
@[simp] theorem State.bumpId_rate (s : State) : (s.bumpId).rate = s.rate := rfl
@[simp] theorem State.bumpId_wall (s : State) : (s.bumpId).wall = s.wall := rfl
@[simp] theorem State.bumpId_mem (s : State) : (s.bumpId).mem = s.mem := rfl
@[simp] theorem State.bumpId_poisoned (s : State) : (s.bumpId).poisoned = s.poisoned := rfl
@[simp] theorem State.bumpId_owners (s : State) : (s.bumpId).owners = s.owners := rfl
@[simp] theorem State.bumpId_ctxs (s : State) : (s.bumpId).ctxs = s.ctxs := rfl
@[simp] theorem State.bumpId_cores (s : State) : (s.bumpId).cores = s.cores := rfl
@[simp] theorem State.bumpId_slices (s : State) : (s.bumpId).slices = s.slices := rfl
@[simp] theorem State.bumpId_teams (s : State) : (s.bumpId).teams = s.teams := rfl
@[simp] theorem State.bumpId_launches (s : State) : (s.bumpId).launches = s.launches := rfl
@[simp] theorem State.bumpId_accs (s : State) : (s.bumpId).accs = s.accs := rfl
@[simp] theorem State.bumpId_portAccs (s : State) : (s.bumpId).portAccs = s.portAccs := rfl
@[simp] theorem State.bumpId_requests (s : State) : (s.bumpId).requests = s.requests := rfl
@[simp] theorem State.bumpId_fetches (s : State) : (s.bumpId).fetches = s.fetches := rfl
@[simp] theorem State.bumpId_remoteWaits (s : State) : (s.bumpId).remoteWaits = s.remoteWaits := rfl
@[simp] theorem State.bumpId_sectorOut (s : State) : (s.bumpId).sectorOut = s.sectorOut := rfl
@[simp] theorem State.bumpId_ports (s : State) : (s.bumpId).ports = s.ports := rfl
@[simp] theorem State.bumpId_tenderLog (s : State) : (s.bumpId).tenderLog = s.tenderLog := rfl
@[simp] theorem State.bumpId_fw (s : State) : (s.bumpId).fw = s.fw := rfl
@[simp] theorem State.bumpId_flash (s : State) : (s.bumpId).flash = s.flash := rfl
@[simp] theorem State.bumpId_recovery (s : State) : (s.bumpId).recovery = s.recovery := rfl
@[simp] theorem State.bumpId_fabValid (s : State) : (s.bumpId).fabValid = s.fabValid := rfl
@[simp] theorem State.bumpId_fabId (s : State) : (s.bumpId).fabId = s.fabId := rfl
@[simp] theorem State.bumpId_route (s : State) : (s.bumpId).route = s.route := rfl
@[simp] theorem State.bumpId_links (s : State) : (s.bumpId).links = s.links := rfl
@[simp] theorem State.bumpId_stalls (s : State) : (s.bumpId).stalls = s.stalls := rfl
@[simp] theorem State.bumpId_logWaits (s : State) : (s.bumpId).logWaits = s.logWaits := rfl
@[simp] theorem State.bumpId_lastGrant (s : State) : (s.bumpId).lastGrant = s.lastGrant := rfl
@[simp] theorem State.bumpId_agenda (s : State) : (s.bumpId).agenda = s.agenda := rfl
@[simp] theorem State.bumpId_cur (s : State) : (s.bumpId).cur = s.cur := rfl
@[simp] theorem State.bumpId_free (s : State) : (s.bumpId).free = s.free := rfl

/-! `State.bumpFree` -/

@[simp] theorem State.bumpFree_clk (s : State) : (s.bumpFree).clk = s.clk := rfl
@[simp] theorem State.bumpFree_rate (s : State) : (s.bumpFree).rate = s.rate := rfl
@[simp] theorem State.bumpFree_wall (s : State) : (s.bumpFree).wall = s.wall := rfl
@[simp] theorem State.bumpFree_mem (s : State) : (s.bumpFree).mem = s.mem := rfl
@[simp] theorem State.bumpFree_poisoned (s : State) : (s.bumpFree).poisoned = s.poisoned := rfl
@[simp] theorem State.bumpFree_owners (s : State) : (s.bumpFree).owners = s.owners := rfl
@[simp] theorem State.bumpFree_ctxs (s : State) : (s.bumpFree).ctxs = s.ctxs := rfl
@[simp] theorem State.bumpFree_cores (s : State) : (s.bumpFree).cores = s.cores := rfl
@[simp] theorem State.bumpFree_slices (s : State) : (s.bumpFree).slices = s.slices := rfl
@[simp] theorem State.bumpFree_teams (s : State) : (s.bumpFree).teams = s.teams := rfl
@[simp] theorem State.bumpFree_launches (s : State) : (s.bumpFree).launches = s.launches := rfl
@[simp] theorem State.bumpFree_accs (s : State) : (s.bumpFree).accs = s.accs := rfl
@[simp] theorem State.bumpFree_portAccs (s : State) : (s.bumpFree).portAccs = s.portAccs := rfl
@[simp] theorem State.bumpFree_requests (s : State) : (s.bumpFree).requests = s.requests := rfl
@[simp] theorem State.bumpFree_fetches (s : State) : (s.bumpFree).fetches = s.fetches := rfl
@[simp] theorem State.bumpFree_remoteWaits (s : State) : (s.bumpFree).remoteWaits = s.remoteWaits := rfl
@[simp] theorem State.bumpFree_sectorOut (s : State) : (s.bumpFree).sectorOut = s.sectorOut := rfl
@[simp] theorem State.bumpFree_ports (s : State) : (s.bumpFree).ports = s.ports := rfl
@[simp] theorem State.bumpFree_tenderLog (s : State) : (s.bumpFree).tenderLog = s.tenderLog := rfl
@[simp] theorem State.bumpFree_fw (s : State) : (s.bumpFree).fw = s.fw := rfl
@[simp] theorem State.bumpFree_flash (s : State) : (s.bumpFree).flash = s.flash := rfl
@[simp] theorem State.bumpFree_recovery (s : State) : (s.bumpFree).recovery = s.recovery := rfl
@[simp] theorem State.bumpFree_fabValid (s : State) : (s.bumpFree).fabValid = s.fabValid := rfl
@[simp] theorem State.bumpFree_fabId (s : State) : (s.bumpFree).fabId = s.fabId := rfl
@[simp] theorem State.bumpFree_route (s : State) : (s.bumpFree).route = s.route := rfl
@[simp] theorem State.bumpFree_links (s : State) : (s.bumpFree).links = s.links := rfl
@[simp] theorem State.bumpFree_stalls (s : State) : (s.bumpFree).stalls = s.stalls := rfl
@[simp] theorem State.bumpFree_logWaits (s : State) : (s.bumpFree).logWaits = s.logWaits := rfl
@[simp] theorem State.bumpFree_lastGrant (s : State) : (s.bumpFree).lastGrant = s.lastGrant := rfl
@[simp] theorem State.bumpFree_agenda (s : State) : (s.bumpFree).agenda = s.agenda := rfl
@[simp] theorem State.bumpFree_cur (s : State) : (s.bumpFree).cur = s.cur := rfl
@[simp] theorem State.bumpFree_nextId (s : State) : (s.bumpFree).nextId = s.nextId := rfl

/-! `State.stall` -/

@[simp] theorem State.stall_clk (s : State) (a : Nat) (b : BitVec 6) (c d : Nat) : (s.stall a b c d).clk = s.clk := rfl
@[simp] theorem State.stall_rate (s : State) (a : Nat) (b : BitVec 6) (c d : Nat) : (s.stall a b c d).rate = s.rate := rfl
@[simp] theorem State.stall_wall (s : State) (a : Nat) (b : BitVec 6) (c d : Nat) : (s.stall a b c d).wall = s.wall := rfl
@[simp] theorem State.stall_mem (s : State) (a : Nat) (b : BitVec 6) (c d : Nat) : (s.stall a b c d).mem = s.mem := rfl
@[simp] theorem State.stall_poisoned (s : State) (a : Nat) (b : BitVec 6) (c d : Nat) : (s.stall a b c d).poisoned = s.poisoned := rfl
@[simp] theorem State.stall_owners (s : State) (a : Nat) (b : BitVec 6) (c d : Nat) : (s.stall a b c d).owners = s.owners := rfl
@[simp] theorem State.stall_ctxs (s : State) (a : Nat) (b : BitVec 6) (c d : Nat) : (s.stall a b c d).ctxs = s.ctxs := rfl
@[simp] theorem State.stall_cores (s : State) (a : Nat) (b : BitVec 6) (c d : Nat) : (s.stall a b c d).cores = s.cores := rfl
@[simp] theorem State.stall_slices (s : State) (a : Nat) (b : BitVec 6) (c d : Nat) : (s.stall a b c d).slices = s.slices := rfl
@[simp] theorem State.stall_teams (s : State) (a : Nat) (b : BitVec 6) (c d : Nat) : (s.stall a b c d).teams = s.teams := rfl
@[simp] theorem State.stall_launches (s : State) (a : Nat) (b : BitVec 6) (c d : Nat) : (s.stall a b c d).launches = s.launches := rfl
@[simp] theorem State.stall_accs (s : State) (a : Nat) (b : BitVec 6) (c d : Nat) : (s.stall a b c d).accs = s.accs := rfl
@[simp] theorem State.stall_portAccs (s : State) (a : Nat) (b : BitVec 6) (c d : Nat) : (s.stall a b c d).portAccs = s.portAccs := rfl
@[simp] theorem State.stall_requests (s : State) (a : Nat) (b : BitVec 6) (c d : Nat) : (s.stall a b c d).requests = s.requests := rfl
@[simp] theorem State.stall_fetches (s : State) (a : Nat) (b : BitVec 6) (c d : Nat) : (s.stall a b c d).fetches = s.fetches := rfl
@[simp] theorem State.stall_remoteWaits (s : State) (a : Nat) (b : BitVec 6) (c d : Nat) : (s.stall a b c d).remoteWaits = s.remoteWaits := rfl
@[simp] theorem State.stall_sectorOut (s : State) (a : Nat) (b : BitVec 6) (c d : Nat) : (s.stall a b c d).sectorOut = s.sectorOut := rfl
@[simp] theorem State.stall_ports (s : State) (a : Nat) (b : BitVec 6) (c d : Nat) : (s.stall a b c d).ports = s.ports := rfl
@[simp] theorem State.stall_tenderLog (s : State) (a : Nat) (b : BitVec 6) (c d : Nat) : (s.stall a b c d).tenderLog = s.tenderLog := rfl
@[simp] theorem State.stall_fw (s : State) (a : Nat) (b : BitVec 6) (c d : Nat) : (s.stall a b c d).fw = s.fw := rfl
@[simp] theorem State.stall_flash (s : State) (a : Nat) (b : BitVec 6) (c d : Nat) : (s.stall a b c d).flash = s.flash := rfl
@[simp] theorem State.stall_recovery (s : State) (a : Nat) (b : BitVec 6) (c d : Nat) : (s.stall a b c d).recovery = s.recovery := rfl
@[simp] theorem State.stall_fabValid (s : State) (a : Nat) (b : BitVec 6) (c d : Nat) : (s.stall a b c d).fabValid = s.fabValid := rfl
@[simp] theorem State.stall_fabId (s : State) (a : Nat) (b : BitVec 6) (c d : Nat) : (s.stall a b c d).fabId = s.fabId := rfl
@[simp] theorem State.stall_route (s : State) (a : Nat) (b : BitVec 6) (c d : Nat) : (s.stall a b c d).route = s.route := rfl
@[simp] theorem State.stall_links (s : State) (a : Nat) (b : BitVec 6) (c d : Nat) : (s.stall a b c d).links = s.links := rfl
@[simp] theorem State.stall_logWaits (s : State) (a : Nat) (b : BitVec 6) (c d : Nat) : (s.stall a b c d).logWaits = s.logWaits := rfl
@[simp] theorem State.stall_lastGrant (s : State) (a : Nat) (b : BitVec 6) (c d : Nat) : (s.stall a b c d).lastGrant = s.lastGrant := rfl
@[simp] theorem State.stall_agenda (s : State) (a : Nat) (b : BitVec 6) (c d : Nat) : (s.stall a b c d).agenda = s.agenda := rfl
@[simp] theorem State.stall_cur (s : State) (a : Nat) (b : BitVec 6) (c d : Nat) : (s.stall a b c d).cur = s.cur := rfl
@[simp] theorem State.stall_free (s : State) (a : Nat) (b : BitVec 6) (c d : Nat) : (s.stall a b c d).free = s.free := rfl
@[simp] theorem State.stall_nextId (s : State) (a : Nat) (b : BitVec 6) (c d : Nat) : (s.stall a b c d).nextId = s.nextId := rfl

/-! `State.passClock` -/

@[simp] theorem State.passClock_rate (s : State) (a : Nat) : (s.passClock a).rate = s.rate := rfl
@[simp] theorem State.passClock_mem (s : State) (a : Nat) : (s.passClock a).mem = s.mem := rfl
@[simp] theorem State.passClock_poisoned (s : State) (a : Nat) : (s.passClock a).poisoned = s.poisoned := rfl
@[simp] theorem State.passClock_owners (s : State) (a : Nat) : (s.passClock a).owners = s.owners := rfl
@[simp] theorem State.passClock_ctxs (s : State) (a : Nat) : (s.passClock a).ctxs = s.ctxs := rfl
@[simp] theorem State.passClock_cores (s : State) (a : Nat) : (s.passClock a).cores = s.cores := rfl
@[simp] theorem State.passClock_slices (s : State) (a : Nat) : (s.passClock a).slices = s.slices := rfl
@[simp] theorem State.passClock_teams (s : State) (a : Nat) : (s.passClock a).teams = s.teams := rfl
@[simp] theorem State.passClock_launches (s : State) (a : Nat) : (s.passClock a).launches = s.launches := rfl
@[simp] theorem State.passClock_accs (s : State) (a : Nat) : (s.passClock a).accs = s.accs := rfl
@[simp] theorem State.passClock_portAccs (s : State) (a : Nat) : (s.passClock a).portAccs = s.portAccs := rfl
@[simp] theorem State.passClock_requests (s : State) (a : Nat) : (s.passClock a).requests = s.requests := rfl
@[simp] theorem State.passClock_fetches (s : State) (a : Nat) : (s.passClock a).fetches = s.fetches := rfl
@[simp] theorem State.passClock_remoteWaits (s : State) (a : Nat) : (s.passClock a).remoteWaits = s.remoteWaits := rfl
@[simp] theorem State.passClock_sectorOut (s : State) (a : Nat) : (s.passClock a).sectorOut = s.sectorOut := rfl
@[simp] theorem State.passClock_ports (s : State) (a : Nat) : (s.passClock a).ports = s.ports := rfl
@[simp] theorem State.passClock_tenderLog (s : State) (a : Nat) : (s.passClock a).tenderLog = s.tenderLog := rfl
@[simp] theorem State.passClock_fw (s : State) (a : Nat) : (s.passClock a).fw = s.fw := rfl
@[simp] theorem State.passClock_flash (s : State) (a : Nat) : (s.passClock a).flash = s.flash := rfl
@[simp] theorem State.passClock_recovery (s : State) (a : Nat) : (s.passClock a).recovery = s.recovery := rfl
@[simp] theorem State.passClock_fabValid (s : State) (a : Nat) : (s.passClock a).fabValid = s.fabValid := rfl
@[simp] theorem State.passClock_fabId (s : State) (a : Nat) : (s.passClock a).fabId = s.fabId := rfl
@[simp] theorem State.passClock_route (s : State) (a : Nat) : (s.passClock a).route = s.route := rfl
@[simp] theorem State.passClock_links (s : State) (a : Nat) : (s.passClock a).links = s.links := rfl
@[simp] theorem State.passClock_stalls (s : State) (a : Nat) : (s.passClock a).stalls = s.stalls := rfl
@[simp] theorem State.passClock_logWaits (s : State) (a : Nat) : (s.passClock a).logWaits = s.logWaits := rfl
@[simp] theorem State.passClock_lastGrant (s : State) (a : Nat) : (s.passClock a).lastGrant = s.lastGrant := rfl
@[simp] theorem State.passClock_agenda (s : State) (a : Nat) : (s.passClock a).agenda = s.agenda := rfl
@[simp] theorem State.passClock_cur (s : State) (a : Nat) : (s.passClock a).cur = s.cur := rfl
@[simp] theorem State.passClock_free (s : State) (a : Nat) : (s.passClock a).free = s.free := rfl
@[simp] theorem State.passClock_nextId (s : State) (a : Nat) : (s.passClock a).nextId = s.nextId := rfl

/-! `Quad.setS` -/

@[simp] theorem Quad.setS_pc (q : Quad) (r : SReg) (x : Word) : (q.setS r x).pc = q.pc := rfl
@[simp] theorem Quad.setS_em (q : Quad) (r : SReg) (x : Word) : (q.setS r x).em = q.em := rfl
@[simp] theorem Quad.setS_f (q : Quad) (r : SReg) (x : Word) : (q.setS r x).f = q.f := rfl
@[simp] theorem Quad.setS_lanes (q : Quad) (r : SReg) (x : Word) : (q.setS r x).lanes = q.lanes := rfl
@[simp] theorem Quad.setS_fmt (q : Quad) (r : SReg) (x : Word) : (q.setS r x).fmt = q.fmt := rfl
@[simp] theorem Quad.setS_scb (q : Quad) (r : SReg) (x : Word) : (q.setS r x).scb = q.scb := rfl
@[simp] theorem Quad.setS_seed (q : Quad) (r : SReg) (x : Word) : (q.setS r x).seed = q.seed := rfl
@[simp] theorem Quad.setS_joins (q : Quad) (r : SReg) (x : Word) : (q.setS r x).joins = q.joins := rfl
@[simp] theorem Quad.setS_trapinfo (q : Quad) (r : SReg) (x : Word) : (q.setS r x).trapinfo = q.trapinfo := rfl
@[simp] theorem Quad.setS_trappc (q : Quad) (r : SReg) (x : Word) : (q.setS r x).trappc = q.trappc := rfl
@[simp] theorem Quad.setS_trapSrc (q : Quad) (r : SReg) (x : Word) : (q.setS r x).trapSrc = q.trapSrc := rfl
@[simp] theorem Quad.setS_clause (q : Quad) (r : SReg) (x : Word) : (q.setS r x).clause = q.clause := rfl
@[simp] theorem Quad.setS_trapClause (q : Quad) (r : SReg) (x : Word) : (q.setS r x).trapClause = q.trapClause := rfl
@[simp] theorem Quad.setS_inHandler (q : Quad) (r : SReg) (x : Word) : (q.setS r x).inHandler = q.inHandler := rfl
@[simp] theorem Quad.setS_exited (q : Quad) (r : SReg) (x : Word) : (q.setS r x).exited = q.exited := rfl
@[simp] theorem Quad.setS_gen (q : Quad) (r : SReg) (x : Word) : (q.setS r x).gen = q.gen := rfl
@[simp] theorem Quad.setS_wait (q : Quad) (r : SReg) (x : Word) : (q.setS r x).wait = q.wait := rfl
@[simp] theorem Quad.setS_pends (q : Quad) (r : SReg) (x : Word) : (q.setS r x).pends = q.pends := rfl
@[simp] theorem Quad.setS_pendTraps (q : Quad) (r : SReg) (x : Word) : (q.setS r x).pendTraps = q.pendTraps := rfl
@[simp] theorem Quad.setS_waitTrap (q : Quad) (r : SReg) (x : Word) : (q.setS r x).waitTrap = q.waitTrap := rfl
@[simp] theorem Quad.setS_deferred (q : Quad) (r : SReg) (x : Word) : (q.setS r x).deferred = q.deferred := rfl
@[simp] theorem Quad.setS_nestHandled (q : Quad) (r : SReg) (x : Word) : (q.setS r x).nestHandled = q.nestHandled := rfl
@[simp] theorem Quad.setS_relFence (q : Quad) (r : SReg) (x : Word) : (q.setS r x).relFence = q.relFence := rfl
@[simp] theorem Quad.setS_acqLines (q : Quad) (r : SReg) (x : Word) : (q.setS r x).acqLines = q.acqLines := rfl
@[simp] theorem Quad.setS_poll (q : Quad) (r : SReg) (x : Word) : (q.setS r x).poll = q.poll := rfl
@[simp] theorem Quad.setS_drainSt (q : Quad) (r : SReg) (x : Word) : (q.setS r x).drainSt = q.drainSt := rfl
@[simp] theorem Quad.setS_stamp (q : Quad) (r : SReg) (x : Word) : (q.setS r x).stamp = q.stamp := rfl
@[simp] theorem Quad.setS_fetched (q : Quad) (r : SReg) (x : Word) : (q.setS r x).fetched = q.fetched := rfl

/-! `Quad.setSN` -/

@[simp] theorem Quad.setSN_pc (q : Quad) (r : Nat) (x : Word) : (q.setSN r x).pc = q.pc := rfl
@[simp] theorem Quad.setSN_em (q : Quad) (r : Nat) (x : Word) : (q.setSN r x).em = q.em := rfl
@[simp] theorem Quad.setSN_f (q : Quad) (r : Nat) (x : Word) : (q.setSN r x).f = q.f := rfl
@[simp] theorem Quad.setSN_lanes (q : Quad) (r : Nat) (x : Word) : (q.setSN r x).lanes = q.lanes := rfl
@[simp] theorem Quad.setSN_fmt (q : Quad) (r : Nat) (x : Word) : (q.setSN r x).fmt = q.fmt := rfl
@[simp] theorem Quad.setSN_scb (q : Quad) (r : Nat) (x : Word) : (q.setSN r x).scb = q.scb := rfl
@[simp] theorem Quad.setSN_seed (q : Quad) (r : Nat) (x : Word) : (q.setSN r x).seed = q.seed := rfl
@[simp] theorem Quad.setSN_joins (q : Quad) (r : Nat) (x : Word) : (q.setSN r x).joins = q.joins := rfl
@[simp] theorem Quad.setSN_trapinfo (q : Quad) (r : Nat) (x : Word) : (q.setSN r x).trapinfo = q.trapinfo := rfl
@[simp] theorem Quad.setSN_trappc (q : Quad) (r : Nat) (x : Word) : (q.setSN r x).trappc = q.trappc := rfl
@[simp] theorem Quad.setSN_trapSrc (q : Quad) (r : Nat) (x : Word) : (q.setSN r x).trapSrc = q.trapSrc := rfl
@[simp] theorem Quad.setSN_clause (q : Quad) (r : Nat) (x : Word) : (q.setSN r x).clause = q.clause := rfl
@[simp] theorem Quad.setSN_trapClause (q : Quad) (r : Nat) (x : Word) : (q.setSN r x).trapClause = q.trapClause := rfl
@[simp] theorem Quad.setSN_inHandler (q : Quad) (r : Nat) (x : Word) : (q.setSN r x).inHandler = q.inHandler := rfl
@[simp] theorem Quad.setSN_exited (q : Quad) (r : Nat) (x : Word) : (q.setSN r x).exited = q.exited := rfl
@[simp] theorem Quad.setSN_gen (q : Quad) (r : Nat) (x : Word) : (q.setSN r x).gen = q.gen := rfl
@[simp] theorem Quad.setSN_wait (q : Quad) (r : Nat) (x : Word) : (q.setSN r x).wait = q.wait := rfl
@[simp] theorem Quad.setSN_pends (q : Quad) (r : Nat) (x : Word) : (q.setSN r x).pends = q.pends := rfl
@[simp] theorem Quad.setSN_pendTraps (q : Quad) (r : Nat) (x : Word) : (q.setSN r x).pendTraps = q.pendTraps := rfl
@[simp] theorem Quad.setSN_waitTrap (q : Quad) (r : Nat) (x : Word) : (q.setSN r x).waitTrap = q.waitTrap := rfl
@[simp] theorem Quad.setSN_deferred (q : Quad) (r : Nat) (x : Word) : (q.setSN r x).deferred = q.deferred := rfl
@[simp] theorem Quad.setSN_nestHandled (q : Quad) (r : Nat) (x : Word) : (q.setSN r x).nestHandled = q.nestHandled := rfl
@[simp] theorem Quad.setSN_relFence (q : Quad) (r : Nat) (x : Word) : (q.setSN r x).relFence = q.relFence := rfl
@[simp] theorem Quad.setSN_acqLines (q : Quad) (r : Nat) (x : Word) : (q.setSN r x).acqLines = q.acqLines := rfl
@[simp] theorem Quad.setSN_poll (q : Quad) (r : Nat) (x : Word) : (q.setSN r x).poll = q.poll := rfl
@[simp] theorem Quad.setSN_drainSt (q : Quad) (r : Nat) (x : Word) : (q.setSN r x).drainSt = q.drainSt := rfl
@[simp] theorem Quad.setSN_stamp (q : Quad) (r : Nat) (x : Word) : (q.setSN r x).stamp = q.stamp := rfl
@[simp] theorem Quad.setSN_fetched (q : Quad) (r : Nat) (x : Word) : (q.setSN r x).fetched = q.fetched := rfl

/-! `Quad.modLane` -/

@[simp] theorem Quad.modLane_pc (q : Quad) (i : Nat) (h : Lane → Lane) : (q.modLane i h).pc = q.pc := rfl
@[simp] theorem Quad.modLane_em (q : Quad) (i : Nat) (h : Lane → Lane) : (q.modLane i h).em = q.em := rfl
@[simp] theorem Quad.modLane_s (q : Quad) (i : Nat) (h : Lane → Lane) : (q.modLane i h).s = q.s := rfl
@[simp] theorem Quad.modLane_f (q : Quad) (i : Nat) (h : Lane → Lane) : (q.modLane i h).f = q.f := rfl
@[simp] theorem Quad.modLane_fmt (q : Quad) (i : Nat) (h : Lane → Lane) : (q.modLane i h).fmt = q.fmt := rfl
@[simp] theorem Quad.modLane_scb (q : Quad) (i : Nat) (h : Lane → Lane) : (q.modLane i h).scb = q.scb := rfl
@[simp] theorem Quad.modLane_seed (q : Quad) (i : Nat) (h : Lane → Lane) : (q.modLane i h).seed = q.seed := rfl
@[simp] theorem Quad.modLane_joins (q : Quad) (i : Nat) (h : Lane → Lane) : (q.modLane i h).joins = q.joins := rfl
@[simp] theorem Quad.modLane_trapinfo (q : Quad) (i : Nat) (h : Lane → Lane) : (q.modLane i h).trapinfo = q.trapinfo := rfl
@[simp] theorem Quad.modLane_trappc (q : Quad) (i : Nat) (h : Lane → Lane) : (q.modLane i h).trappc = q.trappc := rfl
@[simp] theorem Quad.modLane_trapSrc (q : Quad) (i : Nat) (h : Lane → Lane) : (q.modLane i h).trapSrc = q.trapSrc := rfl
@[simp] theorem Quad.modLane_clause (q : Quad) (i : Nat) (h : Lane → Lane) : (q.modLane i h).clause = q.clause := rfl
@[simp] theorem Quad.modLane_trapClause (q : Quad) (i : Nat) (h : Lane → Lane) : (q.modLane i h).trapClause = q.trapClause := rfl
@[simp] theorem Quad.modLane_inHandler (q : Quad) (i : Nat) (h : Lane → Lane) : (q.modLane i h).inHandler = q.inHandler := rfl
@[simp] theorem Quad.modLane_exited (q : Quad) (i : Nat) (h : Lane → Lane) : (q.modLane i h).exited = q.exited := rfl
@[simp] theorem Quad.modLane_gen (q : Quad) (i : Nat) (h : Lane → Lane) : (q.modLane i h).gen = q.gen := rfl
@[simp] theorem Quad.modLane_wait (q : Quad) (i : Nat) (h : Lane → Lane) : (q.modLane i h).wait = q.wait := rfl
@[simp] theorem Quad.modLane_pends (q : Quad) (i : Nat) (h : Lane → Lane) : (q.modLane i h).pends = q.pends := rfl
@[simp] theorem Quad.modLane_pendTraps (q : Quad) (i : Nat) (h : Lane → Lane) : (q.modLane i h).pendTraps = q.pendTraps := rfl
@[simp] theorem Quad.modLane_waitTrap (q : Quad) (i : Nat) (h : Lane → Lane) : (q.modLane i h).waitTrap = q.waitTrap := rfl
@[simp] theorem Quad.modLane_deferred (q : Quad) (i : Nat) (h : Lane → Lane) : (q.modLane i h).deferred = q.deferred := rfl
@[simp] theorem Quad.modLane_nestHandled (q : Quad) (i : Nat) (h : Lane → Lane) : (q.modLane i h).nestHandled = q.nestHandled := rfl
@[simp] theorem Quad.modLane_relFence (q : Quad) (i : Nat) (h : Lane → Lane) : (q.modLane i h).relFence = q.relFence := rfl
@[simp] theorem Quad.modLane_acqLines (q : Quad) (i : Nat) (h : Lane → Lane) : (q.modLane i h).acqLines = q.acqLines := rfl
@[simp] theorem Quad.modLane_poll (q : Quad) (i : Nat) (h : Lane → Lane) : (q.modLane i h).poll = q.poll := rfl
@[simp] theorem Quad.modLane_drainSt (q : Quad) (i : Nat) (h : Lane → Lane) : (q.modLane i h).drainSt = q.drainSt := rfl
@[simp] theorem Quad.modLane_stamp (q : Quad) (i : Nat) (h : Lane → Lane) : (q.modLane i h).stamp = q.stamp := rfl
@[simp] theorem Quad.modLane_fetched (q : Quad) (i : Nat) (h : Lane → Lane) : (q.modLane i h).fetched = q.fetched := rfl

/-! `Quad.mapLanes` -/

@[simp] theorem Quad.mapLanes_pc (q : Quad) (h : Nat → Lane → Lane) : (q.mapLanes h).pc = q.pc := rfl
@[simp] theorem Quad.mapLanes_em (q : Quad) (h : Nat → Lane → Lane) : (q.mapLanes h).em = q.em := rfl
@[simp] theorem Quad.mapLanes_s (q : Quad) (h : Nat → Lane → Lane) : (q.mapLanes h).s = q.s := rfl
@[simp] theorem Quad.mapLanes_f (q : Quad) (h : Nat → Lane → Lane) : (q.mapLanes h).f = q.f := rfl
@[simp] theorem Quad.mapLanes_fmt (q : Quad) (h : Nat → Lane → Lane) : (q.mapLanes h).fmt = q.fmt := rfl
@[simp] theorem Quad.mapLanes_scb (q : Quad) (h : Nat → Lane → Lane) : (q.mapLanes h).scb = q.scb := rfl
@[simp] theorem Quad.mapLanes_seed (q : Quad) (h : Nat → Lane → Lane) : (q.mapLanes h).seed = q.seed := rfl
@[simp] theorem Quad.mapLanes_joins (q : Quad) (h : Nat → Lane → Lane) : (q.mapLanes h).joins = q.joins := rfl
@[simp] theorem Quad.mapLanes_trapinfo (q : Quad) (h : Nat → Lane → Lane) : (q.mapLanes h).trapinfo = q.trapinfo := rfl
@[simp] theorem Quad.mapLanes_trappc (q : Quad) (h : Nat → Lane → Lane) : (q.mapLanes h).trappc = q.trappc := rfl
@[simp] theorem Quad.mapLanes_trapSrc (q : Quad) (h : Nat → Lane → Lane) : (q.mapLanes h).trapSrc = q.trapSrc := rfl
@[simp] theorem Quad.mapLanes_clause (q : Quad) (h : Nat → Lane → Lane) : (q.mapLanes h).clause = q.clause := rfl
@[simp] theorem Quad.mapLanes_trapClause (q : Quad) (h : Nat → Lane → Lane) : (q.mapLanes h).trapClause = q.trapClause := rfl
@[simp] theorem Quad.mapLanes_inHandler (q : Quad) (h : Nat → Lane → Lane) : (q.mapLanes h).inHandler = q.inHandler := rfl
@[simp] theorem Quad.mapLanes_exited (q : Quad) (h : Nat → Lane → Lane) : (q.mapLanes h).exited = q.exited := rfl
@[simp] theorem Quad.mapLanes_gen (q : Quad) (h : Nat → Lane → Lane) : (q.mapLanes h).gen = q.gen := rfl
@[simp] theorem Quad.mapLanes_wait (q : Quad) (h : Nat → Lane → Lane) : (q.mapLanes h).wait = q.wait := rfl
@[simp] theorem Quad.mapLanes_pends (q : Quad) (h : Nat → Lane → Lane) : (q.mapLanes h).pends = q.pends := rfl
@[simp] theorem Quad.mapLanes_pendTraps (q : Quad) (h : Nat → Lane → Lane) : (q.mapLanes h).pendTraps = q.pendTraps := rfl
@[simp] theorem Quad.mapLanes_waitTrap (q : Quad) (h : Nat → Lane → Lane) : (q.mapLanes h).waitTrap = q.waitTrap := rfl
@[simp] theorem Quad.mapLanes_deferred (q : Quad) (h : Nat → Lane → Lane) : (q.mapLanes h).deferred = q.deferred := rfl
@[simp] theorem Quad.mapLanes_nestHandled (q : Quad) (h : Nat → Lane → Lane) : (q.mapLanes h).nestHandled = q.nestHandled := rfl
@[simp] theorem Quad.mapLanes_relFence (q : Quad) (h : Nat → Lane → Lane) : (q.mapLanes h).relFence = q.relFence := rfl
@[simp] theorem Quad.mapLanes_acqLines (q : Quad) (h : Nat → Lane → Lane) : (q.mapLanes h).acqLines = q.acqLines := rfl
@[simp] theorem Quad.mapLanes_poll (q : Quad) (h : Nat → Lane → Lane) : (q.mapLanes h).poll = q.poll := rfl
@[simp] theorem Quad.mapLanes_drainSt (q : Quad) (h : Nat → Lane → Lane) : (q.mapLanes h).drainSt = q.drainSt := rfl
@[simp] theorem Quad.mapLanes_stamp (q : Quad) (h : Nat → Lane → Lane) : (q.mapLanes h).stamp = q.stamp := rfl
@[simp] theorem Quad.mapLanes_fetched (q : Quad) (h : Nat → Lane → Lane) : (q.mapLanes h).fetched = q.fetched := rfl

/-! `Quad.setFlag` -/

@[simp] theorem Quad.setFlag_pc (q : Quad) (n : BitVec 4) (x : BitVec 6) : (q.setFlag n x).pc = q.pc := rfl
@[simp] theorem Quad.setFlag_em (q : Quad) (n : BitVec 4) (x : BitVec 6) : (q.setFlag n x).em = q.em := rfl
@[simp] theorem Quad.setFlag_s (q : Quad) (n : BitVec 4) (x : BitVec 6) : (q.setFlag n x).s = q.s := rfl
@[simp] theorem Quad.setFlag_lanes (q : Quad) (n : BitVec 4) (x : BitVec 6) : (q.setFlag n x).lanes = q.lanes := rfl
@[simp] theorem Quad.setFlag_fmt (q : Quad) (n : BitVec 4) (x : BitVec 6) : (q.setFlag n x).fmt = q.fmt := rfl
@[simp] theorem Quad.setFlag_scb (q : Quad) (n : BitVec 4) (x : BitVec 6) : (q.setFlag n x).scb = q.scb := rfl
@[simp] theorem Quad.setFlag_seed (q : Quad) (n : BitVec 4) (x : BitVec 6) : (q.setFlag n x).seed = q.seed := rfl
@[simp] theorem Quad.setFlag_joins (q : Quad) (n : BitVec 4) (x : BitVec 6) : (q.setFlag n x).joins = q.joins := rfl
@[simp] theorem Quad.setFlag_trapinfo (q : Quad) (n : BitVec 4) (x : BitVec 6) : (q.setFlag n x).trapinfo = q.trapinfo := rfl
@[simp] theorem Quad.setFlag_trappc (q : Quad) (n : BitVec 4) (x : BitVec 6) : (q.setFlag n x).trappc = q.trappc := rfl
@[simp] theorem Quad.setFlag_trapSrc (q : Quad) (n : BitVec 4) (x : BitVec 6) : (q.setFlag n x).trapSrc = q.trapSrc := rfl
@[simp] theorem Quad.setFlag_clause (q : Quad) (n : BitVec 4) (x : BitVec 6) : (q.setFlag n x).clause = q.clause := rfl
@[simp] theorem Quad.setFlag_trapClause (q : Quad) (n : BitVec 4) (x : BitVec 6) : (q.setFlag n x).trapClause = q.trapClause := rfl
@[simp] theorem Quad.setFlag_inHandler (q : Quad) (n : BitVec 4) (x : BitVec 6) : (q.setFlag n x).inHandler = q.inHandler := rfl
@[simp] theorem Quad.setFlag_exited (q : Quad) (n : BitVec 4) (x : BitVec 6) : (q.setFlag n x).exited = q.exited := rfl
@[simp] theorem Quad.setFlag_gen (q : Quad) (n : BitVec 4) (x : BitVec 6) : (q.setFlag n x).gen = q.gen := rfl
@[simp] theorem Quad.setFlag_wait (q : Quad) (n : BitVec 4) (x : BitVec 6) : (q.setFlag n x).wait = q.wait := rfl
@[simp] theorem Quad.setFlag_pends (q : Quad) (n : BitVec 4) (x : BitVec 6) : (q.setFlag n x).pends = q.pends := rfl
@[simp] theorem Quad.setFlag_pendTraps (q : Quad) (n : BitVec 4) (x : BitVec 6) : (q.setFlag n x).pendTraps = q.pendTraps := rfl
@[simp] theorem Quad.setFlag_waitTrap (q : Quad) (n : BitVec 4) (x : BitVec 6) : (q.setFlag n x).waitTrap = q.waitTrap := rfl
@[simp] theorem Quad.setFlag_deferred (q : Quad) (n : BitVec 4) (x : BitVec 6) : (q.setFlag n x).deferred = q.deferred := rfl
@[simp] theorem Quad.setFlag_nestHandled (q : Quad) (n : BitVec 4) (x : BitVec 6) : (q.setFlag n x).nestHandled = q.nestHandled := rfl
@[simp] theorem Quad.setFlag_relFence (q : Quad) (n : BitVec 4) (x : BitVec 6) : (q.setFlag n x).relFence = q.relFence := rfl
@[simp] theorem Quad.setFlag_acqLines (q : Quad) (n : BitVec 4) (x : BitVec 6) : (q.setFlag n x).acqLines = q.acqLines := rfl
@[simp] theorem Quad.setFlag_poll (q : Quad) (n : BitVec 4) (x : BitVec 6) : (q.setFlag n x).poll = q.poll := rfl
@[simp] theorem Quad.setFlag_drainSt (q : Quad) (n : BitVec 4) (x : BitVec 6) : (q.setFlag n x).drainSt = q.drainSt := rfl
@[simp] theorem Quad.setFlag_stamp (q : Quad) (n : BitVec 4) (x : BitVec 6) : (q.setFlag n x).stamp = q.stamp := rfl
@[simp] theorem Quad.setFlag_fetched (q : Quad) (n : BitVec 4) (x : BitVec 6) : (q.setFlag n x).fetched = q.fetched := rfl

/-! `Quad.setJoin` -/

@[simp] theorem Quad.setJoin_pc (q : Quad) (n : Nat) (x : Byte) : (q.setJoin n x).pc = q.pc := rfl
@[simp] theorem Quad.setJoin_em (q : Quad) (n : Nat) (x : Byte) : (q.setJoin n x).em = q.em := rfl
@[simp] theorem Quad.setJoin_s (q : Quad) (n : Nat) (x : Byte) : (q.setJoin n x).s = q.s := rfl
@[simp] theorem Quad.setJoin_f (q : Quad) (n : Nat) (x : Byte) : (q.setJoin n x).f = q.f := rfl
@[simp] theorem Quad.setJoin_lanes (q : Quad) (n : Nat) (x : Byte) : (q.setJoin n x).lanes = q.lanes := rfl
@[simp] theorem Quad.setJoin_fmt (q : Quad) (n : Nat) (x : Byte) : (q.setJoin n x).fmt = q.fmt := rfl
@[simp] theorem Quad.setJoin_scb (q : Quad) (n : Nat) (x : Byte) : (q.setJoin n x).scb = q.scb := rfl
@[simp] theorem Quad.setJoin_seed (q : Quad) (n : Nat) (x : Byte) : (q.setJoin n x).seed = q.seed := rfl
@[simp] theorem Quad.setJoin_trapinfo (q : Quad) (n : Nat) (x : Byte) : (q.setJoin n x).trapinfo = q.trapinfo := rfl
@[simp] theorem Quad.setJoin_trappc (q : Quad) (n : Nat) (x : Byte) : (q.setJoin n x).trappc = q.trappc := rfl
@[simp] theorem Quad.setJoin_trapSrc (q : Quad) (n : Nat) (x : Byte) : (q.setJoin n x).trapSrc = q.trapSrc := rfl
@[simp] theorem Quad.setJoin_clause (q : Quad) (n : Nat) (x : Byte) : (q.setJoin n x).clause = q.clause := rfl
@[simp] theorem Quad.setJoin_trapClause (q : Quad) (n : Nat) (x : Byte) : (q.setJoin n x).trapClause = q.trapClause := rfl
@[simp] theorem Quad.setJoin_inHandler (q : Quad) (n : Nat) (x : Byte) : (q.setJoin n x).inHandler = q.inHandler := rfl
@[simp] theorem Quad.setJoin_exited (q : Quad) (n : Nat) (x : Byte) : (q.setJoin n x).exited = q.exited := rfl
@[simp] theorem Quad.setJoin_gen (q : Quad) (n : Nat) (x : Byte) : (q.setJoin n x).gen = q.gen := rfl
@[simp] theorem Quad.setJoin_wait (q : Quad) (n : Nat) (x : Byte) : (q.setJoin n x).wait = q.wait := rfl
@[simp] theorem Quad.setJoin_pends (q : Quad) (n : Nat) (x : Byte) : (q.setJoin n x).pends = q.pends := rfl
@[simp] theorem Quad.setJoin_pendTraps (q : Quad) (n : Nat) (x : Byte) : (q.setJoin n x).pendTraps = q.pendTraps := rfl
@[simp] theorem Quad.setJoin_waitTrap (q : Quad) (n : Nat) (x : Byte) : (q.setJoin n x).waitTrap = q.waitTrap := rfl
@[simp] theorem Quad.setJoin_deferred (q : Quad) (n : Nat) (x : Byte) : (q.setJoin n x).deferred = q.deferred := rfl
@[simp] theorem Quad.setJoin_nestHandled (q : Quad) (n : Nat) (x : Byte) : (q.setJoin n x).nestHandled = q.nestHandled := rfl
@[simp] theorem Quad.setJoin_relFence (q : Quad) (n : Nat) (x : Byte) : (q.setJoin n x).relFence = q.relFence := rfl
@[simp] theorem Quad.setJoin_acqLines (q : Quad) (n : Nat) (x : Byte) : (q.setJoin n x).acqLines = q.acqLines := rfl
@[simp] theorem Quad.setJoin_poll (q : Quad) (n : Nat) (x : Byte) : (q.setJoin n x).poll = q.poll := rfl
@[simp] theorem Quad.setJoin_drainSt (q : Quad) (n : Nat) (x : Byte) : (q.setJoin n x).drainSt = q.drainSt := rfl
@[simp] theorem Quad.setJoin_stamp (q : Quad) (n : Nat) (x : Byte) : (q.setJoin n x).stamp = q.stamp := rfl
@[simp] theorem Quad.setJoin_fetched (q : Quad) (n : Nat) (x : Byte) : (q.setJoin n x).fetched = q.fetched := rfl

/-! `Quad.advance` -/

@[simp] theorem Quad.advance_em (q : Quad) (n : Nat) : (q.advance n).em = q.em := rfl
@[simp] theorem Quad.advance_s (q : Quad) (n : Nat) : (q.advance n).s = q.s := rfl
@[simp] theorem Quad.advance_f (q : Quad) (n : Nat) : (q.advance n).f = q.f := rfl
@[simp] theorem Quad.advance_lanes (q : Quad) (n : Nat) : (q.advance n).lanes = q.lanes := rfl
@[simp] theorem Quad.advance_fmt (q : Quad) (n : Nat) : (q.advance n).fmt = q.fmt := rfl
@[simp] theorem Quad.advance_scb (q : Quad) (n : Nat) : (q.advance n).scb = q.scb := rfl
@[simp] theorem Quad.advance_seed (q : Quad) (n : Nat) : (q.advance n).seed = q.seed := rfl
@[simp] theorem Quad.advance_joins (q : Quad) (n : Nat) : (q.advance n).joins = q.joins := rfl
@[simp] theorem Quad.advance_trapinfo (q : Quad) (n : Nat) : (q.advance n).trapinfo = q.trapinfo := rfl
@[simp] theorem Quad.advance_trappc (q : Quad) (n : Nat) : (q.advance n).trappc = q.trappc := rfl
@[simp] theorem Quad.advance_trapSrc (q : Quad) (n : Nat) : (q.advance n).trapSrc = q.trapSrc := rfl
@[simp] theorem Quad.advance_trapClause (q : Quad) (n : Nat) : (q.advance n).trapClause = q.trapClause := rfl
@[simp] theorem Quad.advance_inHandler (q : Quad) (n : Nat) : (q.advance n).inHandler = q.inHandler := rfl
@[simp] theorem Quad.advance_exited (q : Quad) (n : Nat) : (q.advance n).exited = q.exited := rfl
@[simp] theorem Quad.advance_gen (q : Quad) (n : Nat) : (q.advance n).gen = q.gen := rfl
@[simp] theorem Quad.advance_wait (q : Quad) (n : Nat) : (q.advance n).wait = q.wait := rfl
@[simp] theorem Quad.advance_pends (q : Quad) (n : Nat) : (q.advance n).pends = q.pends := rfl
@[simp] theorem Quad.advance_pendTraps (q : Quad) (n : Nat) : (q.advance n).pendTraps = q.pendTraps := rfl
@[simp] theorem Quad.advance_waitTrap (q : Quad) (n : Nat) : (q.advance n).waitTrap = q.waitTrap := rfl
@[simp] theorem Quad.advance_deferred (q : Quad) (n : Nat) : (q.advance n).deferred = q.deferred := rfl
@[simp] theorem Quad.advance_nestHandled (q : Quad) (n : Nat) : (q.advance n).nestHandled = q.nestHandled := rfl
@[simp] theorem Quad.advance_relFence (q : Quad) (n : Nat) : (q.advance n).relFence = q.relFence := rfl
@[simp] theorem Quad.advance_acqLines (q : Quad) (n : Nat) : (q.advance n).acqLines = q.acqLines := rfl
@[simp] theorem Quad.advance_poll (q : Quad) (n : Nat) : (q.advance n).poll = q.poll := rfl
@[simp] theorem Quad.advance_drainSt (q : Quad) (n : Nat) : (q.advance n).drainSt = q.drainSt := rfl
@[simp] theorem Quad.advance_stamp (q : Quad) (n : Nat) : (q.advance n).stamp = q.stamp := rfl
@[simp] theorem Quad.advance_fetched (q : Quad) (n : Nat) : (q.advance n).fetched = q.fetched := rfl

/-! `Quad.jump` -/

@[simp] theorem Quad.jump_em (q : Quad) (x : Word) : (q.jump x).em = q.em := rfl
@[simp] theorem Quad.jump_s (q : Quad) (x : Word) : (q.jump x).s = q.s := rfl
@[simp] theorem Quad.jump_f (q : Quad) (x : Word) : (q.jump x).f = q.f := rfl
@[simp] theorem Quad.jump_lanes (q : Quad) (x : Word) : (q.jump x).lanes = q.lanes := rfl
@[simp] theorem Quad.jump_fmt (q : Quad) (x : Word) : (q.jump x).fmt = q.fmt := rfl
@[simp] theorem Quad.jump_scb (q : Quad) (x : Word) : (q.jump x).scb = q.scb := rfl
@[simp] theorem Quad.jump_seed (q : Quad) (x : Word) : (q.jump x).seed = q.seed := rfl
@[simp] theorem Quad.jump_joins (q : Quad) (x : Word) : (q.jump x).joins = q.joins := rfl
@[simp] theorem Quad.jump_trapinfo (q : Quad) (x : Word) : (q.jump x).trapinfo = q.trapinfo := rfl
@[simp] theorem Quad.jump_trappc (q : Quad) (x : Word) : (q.jump x).trappc = q.trappc := rfl
@[simp] theorem Quad.jump_trapSrc (q : Quad) (x : Word) : (q.jump x).trapSrc = q.trapSrc := rfl
@[simp] theorem Quad.jump_trapClause (q : Quad) (x : Word) : (q.jump x).trapClause = q.trapClause := rfl
@[simp] theorem Quad.jump_inHandler (q : Quad) (x : Word) : (q.jump x).inHandler = q.inHandler := rfl
@[simp] theorem Quad.jump_exited (q : Quad) (x : Word) : (q.jump x).exited = q.exited := rfl
@[simp] theorem Quad.jump_gen (q : Quad) (x : Word) : (q.jump x).gen = q.gen := rfl
@[simp] theorem Quad.jump_wait (q : Quad) (x : Word) : (q.jump x).wait = q.wait := rfl
@[simp] theorem Quad.jump_pends (q : Quad) (x : Word) : (q.jump x).pends = q.pends := rfl
@[simp] theorem Quad.jump_pendTraps (q : Quad) (x : Word) : (q.jump x).pendTraps = q.pendTraps := rfl
@[simp] theorem Quad.jump_waitTrap (q : Quad) (x : Word) : (q.jump x).waitTrap = q.waitTrap := rfl
@[simp] theorem Quad.jump_deferred (q : Quad) (x : Word) : (q.jump x).deferred = q.deferred := rfl
@[simp] theorem Quad.jump_nestHandled (q : Quad) (x : Word) : (q.jump x).nestHandled = q.nestHandled := rfl
@[simp] theorem Quad.jump_relFence (q : Quad) (x : Word) : (q.jump x).relFence = q.relFence := rfl
@[simp] theorem Quad.jump_acqLines (q : Quad) (x : Word) : (q.jump x).acqLines = q.acqLines := rfl
@[simp] theorem Quad.jump_poll (q : Quad) (x : Word) : (q.jump x).poll = q.poll := rfl
@[simp] theorem Quad.jump_drainSt (q : Quad) (x : Word) : (q.jump x).drainSt = q.drainSt := rfl
@[simp] theorem Quad.jump_stamp (q : Quad) (x : Word) : (q.jump x).stamp = q.stamp := rfl
@[simp] theorem Quad.jump_fetched (q : Quad) (x : Word) : (q.jump x).fetched = q.fetched := rfl

/-! `Quad.trapSave` -/

@[simp] theorem Quad.trapSave_pc (q : Quad) (m : BitVec 4) (c : TrapCause) (a : Word) (x : TrapSrc) : (q.trapSave m c a x).pc = q.pc := rfl
@[simp] theorem Quad.trapSave_em (q : Quad) (m : BitVec 4) (c : TrapCause) (a : Word) (x : TrapSrc) : (q.trapSave m c a x).em = q.em := rfl
@[simp] theorem Quad.trapSave_s (q : Quad) (m : BitVec 4) (c : TrapCause) (a : Word) (x : TrapSrc) : (q.trapSave m c a x).s = q.s := rfl
@[simp] theorem Quad.trapSave_f (q : Quad) (m : BitVec 4) (c : TrapCause) (a : Word) (x : TrapSrc) : (q.trapSave m c a x).f = q.f := rfl
@[simp] theorem Quad.trapSave_lanes (q : Quad) (m : BitVec 4) (c : TrapCause) (a : Word) (x : TrapSrc) : (q.trapSave m c a x).lanes = q.lanes := rfl
@[simp] theorem Quad.trapSave_fmt (q : Quad) (m : BitVec 4) (c : TrapCause) (a : Word) (x : TrapSrc) : (q.trapSave m c a x).fmt = q.fmt := rfl
@[simp] theorem Quad.trapSave_scb (q : Quad) (m : BitVec 4) (c : TrapCause) (a : Word) (x : TrapSrc) : (q.trapSave m c a x).scb = q.scb := rfl
@[simp] theorem Quad.trapSave_seed (q : Quad) (m : BitVec 4) (c : TrapCause) (a : Word) (x : TrapSrc) : (q.trapSave m c a x).seed = q.seed := rfl
@[simp] theorem Quad.trapSave_joins (q : Quad) (m : BitVec 4) (c : TrapCause) (a : Word) (x : TrapSrc) : (q.trapSave m c a x).joins = q.joins := rfl
@[simp] theorem Quad.trapSave_clause (q : Quad) (m : BitVec 4) (c : TrapCause) (a : Word) (x : TrapSrc) : (q.trapSave m c a x).clause = q.clause := rfl
@[simp] theorem Quad.trapSave_inHandler (q : Quad) (m : BitVec 4) (c : TrapCause) (a : Word) (x : TrapSrc) : (q.trapSave m c a x).inHandler = q.inHandler := rfl
@[simp] theorem Quad.trapSave_exited (q : Quad) (m : BitVec 4) (c : TrapCause) (a : Word) (x : TrapSrc) : (q.trapSave m c a x).exited = q.exited := rfl
@[simp] theorem Quad.trapSave_gen (q : Quad) (m : BitVec 4) (c : TrapCause) (a : Word) (x : TrapSrc) : (q.trapSave m c a x).gen = q.gen := rfl
@[simp] theorem Quad.trapSave_pends (q : Quad) (m : BitVec 4) (c : TrapCause) (a : Word) (x : TrapSrc) : (q.trapSave m c a x).pends = q.pends := rfl
@[simp] theorem Quad.trapSave_pendTraps (q : Quad) (m : BitVec 4) (c : TrapCause) (a : Word) (x : TrapSrc) : (q.trapSave m c a x).pendTraps = q.pendTraps := rfl
@[simp] theorem Quad.trapSave_waitTrap (q : Quad) (m : BitVec 4) (c : TrapCause) (a : Word) (x : TrapSrc) : (q.trapSave m c a x).waitTrap = q.waitTrap := rfl
@[simp] theorem Quad.trapSave_deferred (q : Quad) (m : BitVec 4) (c : TrapCause) (a : Word) (x : TrapSrc) : (q.trapSave m c a x).deferred = q.deferred := rfl
@[simp] theorem Quad.trapSave_nestHandled (q : Quad) (m : BitVec 4) (c : TrapCause) (a : Word) (x : TrapSrc) : (q.trapSave m c a x).nestHandled = q.nestHandled := rfl
@[simp] theorem Quad.trapSave_relFence (q : Quad) (m : BitVec 4) (c : TrapCause) (a : Word) (x : TrapSrc) : (q.trapSave m c a x).relFence = q.relFence := rfl
@[simp] theorem Quad.trapSave_acqLines (q : Quad) (m : BitVec 4) (c : TrapCause) (a : Word) (x : TrapSrc) : (q.trapSave m c a x).acqLines = q.acqLines := rfl
@[simp] theorem Quad.trapSave_poll (q : Quad) (m : BitVec 4) (c : TrapCause) (a : Word) (x : TrapSrc) : (q.trapSave m c a x).poll = q.poll := rfl
@[simp] theorem Quad.trapSave_stamp (q : Quad) (m : BitVec 4) (c : TrapCause) (a : Word) (x : TrapSrc) : (q.trapSave m c a x).stamp = q.stamp := rfl

/-! `Quad.trapEnter` -/

@[simp] theorem Quad.trapEnter_em (q : Quad) (x : Word) : (q.trapEnter x).em = q.em := rfl
@[simp] theorem Quad.trapEnter_s (q : Quad) (x : Word) : (q.trapEnter x).s = q.s := rfl
@[simp] theorem Quad.trapEnter_f (q : Quad) (x : Word) : (q.trapEnter x).f = q.f := rfl
@[simp] theorem Quad.trapEnter_lanes (q : Quad) (x : Word) : (q.trapEnter x).lanes = q.lanes := rfl
@[simp] theorem Quad.trapEnter_fmt (q : Quad) (x : Word) : (q.trapEnter x).fmt = q.fmt := rfl
@[simp] theorem Quad.trapEnter_scb (q : Quad) (x : Word) : (q.trapEnter x).scb = q.scb := rfl
@[simp] theorem Quad.trapEnter_seed (q : Quad) (x : Word) : (q.trapEnter x).seed = q.seed := rfl
@[simp] theorem Quad.trapEnter_joins (q : Quad) (x : Word) : (q.trapEnter x).joins = q.joins := rfl
@[simp] theorem Quad.trapEnter_trapinfo (q : Quad) (x : Word) : (q.trapEnter x).trapinfo = q.trapinfo := rfl
@[simp] theorem Quad.trapEnter_trappc (q : Quad) (x : Word) : (q.trapEnter x).trappc = q.trappc := rfl
@[simp] theorem Quad.trapEnter_trapSrc (q : Quad) (x : Word) : (q.trapEnter x).trapSrc = q.trapSrc := rfl
@[simp] theorem Quad.trapEnter_trapClause (q : Quad) (x : Word) : (q.trapEnter x).trapClause = q.trapClause := rfl
@[simp] theorem Quad.trapEnter_exited (q : Quad) (x : Word) : (q.trapEnter x).exited = q.exited := rfl
@[simp] theorem Quad.trapEnter_gen (q : Quad) (x : Word) : (q.trapEnter x).gen = q.gen := rfl
@[simp] theorem Quad.trapEnter_wait (q : Quad) (x : Word) : (q.trapEnter x).wait = q.wait := rfl
@[simp] theorem Quad.trapEnter_pends (q : Quad) (x : Word) : (q.trapEnter x).pends = q.pends := rfl
@[simp] theorem Quad.trapEnter_pendTraps (q : Quad) (x : Word) : (q.trapEnter x).pendTraps = q.pendTraps := rfl
@[simp] theorem Quad.trapEnter_waitTrap (q : Quad) (x : Word) : (q.trapEnter x).waitTrap = q.waitTrap := rfl
@[simp] theorem Quad.trapEnter_deferred (q : Quad) (x : Word) : (q.trapEnter x).deferred = q.deferred := rfl
@[simp] theorem Quad.trapEnter_nestHandled (q : Quad) (x : Word) : (q.trapEnter x).nestHandled = q.nestHandled := rfl
@[simp] theorem Quad.trapEnter_relFence (q : Quad) (x : Word) : (q.trapEnter x).relFence = q.relFence := rfl
@[simp] theorem Quad.trapEnter_acqLines (q : Quad) (x : Word) : (q.trapEnter x).acqLines = q.acqLines := rfl
@[simp] theorem Quad.trapEnter_poll (q : Quad) (x : Word) : (q.trapEnter x).poll = q.poll := rfl
@[simp] theorem Quad.trapEnter_drainSt (q : Quad) (x : Word) : (q.trapEnter x).drainSt = q.drainSt := rfl
@[simp] theorem Quad.trapEnter_stamp (q : Quad) (x : Word) : (q.trapEnter x).stamp = q.stamp := rfl
@[simp] theorem Quad.trapEnter_fetched (q : Quad) (x : Word) : (q.trapEnter x).fetched = q.fetched := rfl

/-! `Quad.trapReturn` -/

@[simp] theorem Quad.trapReturn_em (q : Quad) : (q.trapReturn).em = q.em := rfl
@[simp] theorem Quad.trapReturn_s (q : Quad) : (q.trapReturn).s = q.s := rfl
@[simp] theorem Quad.trapReturn_f (q : Quad) : (q.trapReturn).f = q.f := rfl
@[simp] theorem Quad.trapReturn_lanes (q : Quad) : (q.trapReturn).lanes = q.lanes := rfl
@[simp] theorem Quad.trapReturn_fmt (q : Quad) : (q.trapReturn).fmt = q.fmt := rfl
@[simp] theorem Quad.trapReturn_scb (q : Quad) : (q.trapReturn).scb = q.scb := rfl
@[simp] theorem Quad.trapReturn_seed (q : Quad) : (q.trapReturn).seed = q.seed := rfl
@[simp] theorem Quad.trapReturn_joins (q : Quad) : (q.trapReturn).joins = q.joins := rfl
@[simp] theorem Quad.trapReturn_trapinfo (q : Quad) : (q.trapReturn).trapinfo = q.trapinfo := rfl
@[simp] theorem Quad.trapReturn_trappc (q : Quad) : (q.trapReturn).trappc = q.trappc := rfl
@[simp] theorem Quad.trapReturn_trapSrc (q : Quad) : (q.trapReturn).trapSrc = q.trapSrc := rfl
@[simp] theorem Quad.trapReturn_exited (q : Quad) : (q.trapReturn).exited = q.exited := rfl
@[simp] theorem Quad.trapReturn_gen (q : Quad) : (q.trapReturn).gen = q.gen := rfl
@[simp] theorem Quad.trapReturn_wait (q : Quad) : (q.trapReturn).wait = q.wait := rfl
@[simp] theorem Quad.trapReturn_pends (q : Quad) : (q.trapReturn).pends = q.pends := rfl
@[simp] theorem Quad.trapReturn_pendTraps (q : Quad) : (q.trapReturn).pendTraps = q.pendTraps := rfl
@[simp] theorem Quad.trapReturn_waitTrap (q : Quad) : (q.trapReturn).waitTrap = q.waitTrap := rfl
@[simp] theorem Quad.trapReturn_deferred (q : Quad) : (q.trapReturn).deferred = q.deferred := rfl
@[simp] theorem Quad.trapReturn_relFence (q : Quad) : (q.trapReturn).relFence = q.relFence := rfl
@[simp] theorem Quad.trapReturn_acqLines (q : Quad) : (q.trapReturn).acqLines = q.acqLines := rfl
@[simp] theorem Quad.trapReturn_poll (q : Quad) : (q.trapReturn).poll = q.poll := rfl
@[simp] theorem Quad.trapReturn_drainSt (q : Quad) : (q.trapReturn).drainSt = q.drainSt := rfl
@[simp] theorem Quad.trapReturn_stamp (q : Quad) : (q.trapReturn).stamp = q.stamp := rfl
@[simp] theorem Quad.trapReturn_fetched (q : Quad) : (q.trapReturn).fetched = q.fetched := rfl

end Sys2Proof.Machine
end

