-- ==== Sys2Proof/Laws/Gang.lean ====
section
/-! SUPPORT. What the operations that every issue shares can do: changing the quads of a gang, the
accounts of an issue, and the division of a gang. -/

namespace Sys2Proof.Machine

/-! ### Lists and vectors -/

@[simp] theorem modAt_length {α : Type} (l : List α) (i : Nat) (f : α → α) :
    (modAt l i f).length = l.length := by
  induction l generalizing i with
  | nil => rfl
  | cons a l ih => cases i <;> simp [modAt, ih]

theorem modAt_getElem? {α : Type} (l : List α) (i n : Nat) (f : α → α) :
    (modAt l i f)[n]? = if n = i then l[n]?.map f else l[n]? := by
  induction l generalizing i n with
  | nil => simp [modAt]
  | cons a l ih =>
    cases i <;> cases n <;> simp [modAt, ih]

theorem modAt_getD {α : Type} (l : List α) (i n : Nat) (f : α → α) (d : α) :
    (modAt l i f).getD n d = if n = i ∧ n < l.length then f (l.getD n d) else l.getD n d := by
  simp only [List.getD_eq_getElem?_getD, modAt_getElem?]
  by_cases h : n = i
  · by_cases hl : n < l.length
    · simp [h, h ▸ hl]
    · simp [h, h ▸ hl]
  · simp [h]

theorem modAt_self {α : Type} (l : List α) (i : Nat) (f : α → α) (d : α)
    (h : i < l.length → f (l.getD i d) = l.getD i d) : modAt l i f = l := by
  apply List.ext_getElem?
  intro n
  rw [modAt_getElem?]
  split
  · next e =>
    subst e
    by_cases hl : n < l.length
    · have := h hl
      simp [List.getD_eq_getElem?_getD, hl] at this ⊢
      exact this
    · simp [hl]
  · rfl

theorem modVec_getElem? {α : Type} {n : Nat} (v : Vector α n) (i k : Nat) (f : α → α) :
    (modVec v i f)[k]? = if k = i then v[k]?.map f else v[k]? := by
  unfold modVec
  split
  · next h =>
    rw [Vector.getElem?_set]
    split
    · next e => subst e; simp [h]
    · next e => rw [if_neg (fun e' => e e'.symm)]
  · next h =>
    split
    · next e => subst e; simp [h]
    · rfl

/-! ### Teams, waves and quads -/

theorem State.team_modTeam (s : State) (a n : Nat) (f : Team → Team) :
    (s.modTeam a f).team n = if n = a ∧ n < s.teams.length then f (s.team n) else s.team n := by
  exact modAt_getD _ _ _ _ _

theorem Team.wave_modWave (t : Team) (a n : Nat) (f : Wave → Wave) :
    (t.modWave a f).wave n = if n = a ∧ n < t.waves.length then f (t.wave n) else t.wave n := by
  exact modAt_getD _ _ _ _ _

theorem Wave.quad_modQuad (w : Wave) (a n : Nat) (f : Quad → Quad) :
    (w.modQuad a f).quad n = if n = a ∧ n < w.quads.length then f (w.quad n) else w.quad n := by
  exact modAt_getD _ _ _ _ _

/-- A team that is not in the state has no waves. -/
theorem State.team_outside (s : State) {t : Nat} (h : ¬ t < s.teams.length) : s.team t = Team.blank := by
  simp [State.team, List.getD_eq_getElem?_getD, List.getElem?_eq_none (Nat.not_lt.mp h)]

theorem Team.wave_outside (x : Team) {w : Nat} (h : ¬ w < x.waves.length) : x.wave w = Wave.blank := by
  simp [Team.wave, List.getD_eq_getElem?_getD, List.getElem?_eq_none (Nat.not_lt.mp h)]

theorem Wave.quad_outside (x : Wave) {n : Nat} (h : ¬ n < x.quads.length) : x.quad n = Quad.start := by
  simp [Wave.quad, List.getD_eq_getElem?_getD, List.getElem?_eq_none (Nat.not_lt.mp h)]

/-- One wave of one team changed: every team after it. -/
theorem State.team_modWave (s : State) (a b n : Nat) (f : Wave → Wave) :
    (s.modWave a b f).team n = if n = a then (s.team n).modWave b f else s.team n := by
  rw [State.modWave, State.team_modTeam]
  by_cases h : n = a
  · by_cases hl : n < s.teams.length
    · simp [h, h ▸ hl]
    · rw [if_neg (fun e => hl e.2), if_pos h, s.team_outside hl]
      rfl
  · simp [h]

/-- One wave changed: every wave after it. -/
theorem State.wave_modWave (s : State) (a b t w : Nat) (f : Wave → Wave) :
    (s.modWave a b f).wave t w =
      if t = a ∧ w = b ∧ w < (s.team t).waves.length then f (s.wave t w) else s.wave t w := by
  simp only [State.wave, State.team_modWave]
  by_cases h : t = a
  · rw [if_pos h, Team.wave_modWave]
    simp [h]
  · simp [h]

/-- Several quads of a wave changed: its quads after it. -/
theorem Wave.quad_foldl_modQuad (qs : List Nat) (hn : qs.Nodup) (f : Nat → Quad → Quad) (n : Nat) :
    ∀ w : Wave, (qs.foldl (fun x q => x.modQuad q (f q)) w).quad n =
      if n ∈ qs ∧ n < w.quads.length then f n (w.quad n) else w.quad n := by
  induction qs with
  | nil => simp
  | cons q qs ih =>
    intro w
    have hq : q ∉ qs := (List.nodup_cons.mp hn).1
    rw [List.foldl_cons, ih (List.nodup_cons.mp hn).2, Wave.quad_modQuad]
    have hl : (w.modQuad q (f q)).quads.length = w.quads.length := by simp [Wave.modQuad]
    rw [hl]
    by_cases h1 : n = q
    · subst h1
      simp [hq]
    · simp [h1]

/-- Several quads changed keep every field of their wave but `quads`. -/
theorem Wave.foldl_modQuad_eq (qs : List Nat) (f : Nat → Quad → Quad) :
    ∀ w : Wave, qs.foldl (fun x q => x.modQuad q (f q)) w =
      { w with quads := (qs.foldl (fun x q => x.modQuad q (f q)) w).quads } := by
  induction qs with
  | nil => intro w; rfl
  | cons q qs ih => intro w; rw [List.foldl_cons, ih]; rfl

@[simp] theorem Wave.foldl_modQuad_length (qs : List Nat) (f : Nat → Quad → Quad) :
    ∀ w : Wave, (qs.foldl (fun x q => x.modQuad q (f q)) w).quads.length = w.quads.length := by
  induction qs with
  | nil => intro w; rfl
  | cons q qs ih => intro w; rw [List.foldl_cons, ih]; simp [Wave.modQuad]

theorem GangRef.mem_quads (g : GangRef) (n : Nat) :
    n ∈ g.quads ↔ g.base ≤ n ∧ n < g.base + 2 ^ g.lg := by
  simp only [GangRef.quads, upTo, List.mem_map, List.mem_range]
  constructor
  · rintro ⟨a, h, rfl⟩; omega
  · rintro ⟨h1, h2⟩; exact ⟨n - g.base, by omega, by omega⟩

theorem GangRef.quads_nodup (g : GangRef) : g.quads.Nodup := by
  unfold GangRef.quads upTo
  exact List.Nodup.map (fun a b h => by simpa using h) List.nodup_range

/-- The quads of a gang after `mapGang`. -/
theorem State.quadOf_mapGang (s : State) (g : GangRef) (f : Nat → Quad → Quad) (n : Nat) :
    (s.mapGang g f).quadOf g n =
      if n ∈ g.quads ∧ n < (s.waveOf g).quads.length ∧ (s.quadOf g n).exited = false
      then f n (s.quadOf g n) else s.quadOf g n := by
  have key : (s.mapGang g f).quadOf g n =
      (if g.w < (s.team g.t).waves.length then
        g.quads.foldl (fun x q => x.modQuad q (fun y => if y.exited then y else f q y)) (s.waveOf g)
        else s.waveOf g).quad n := by
    simp only [State.mapGang, State.modQuads, State.quadOf, State.quad, State.wave_modWave, State.waveOf,
      true_and]
  rw [key]
  by_cases hw : g.w < (s.team g.t).waves.length
  · rw [if_pos hw, Wave.quad_foldl_modQuad _ g.quads_nodup]
    by_cases h : n ∈ g.quads ∧ n < (s.waveOf g).quads.length
    · rw [if_pos h]
      change (if (s.quadOf g n).exited = true then s.quadOf g n else f n (s.quadOf g n)) = _
      cases he : (s.quadOf g n).exited <;> simp [h.1, h.2]
    · rw [if_neg h, if_neg (fun e => h ⟨e.1, e.2.1⟩)]
      rfl
  · have hb : s.waveOf g = Wave.blank := Team.wave_outside _ hw
    rw [if_neg hw, if_neg (fun e => by simp [hb, Wave.blank] at e)]
    rfl

/-! ### Nothing outside a gang changes -/

theorem Latch.Less.refl (a : Latch) (o : Nat × Nat) : a.Less a o := ⟨rfl, .refl _, fun _ => rfl⟩

theorem Latch.Less.trans {a b c : Latch} {o : Nat × Nat} (x : a.Less b o) (y : b.Less c o) : a.Less c o := by
  refine ⟨?_, y.2.1.trans x.2.1, fun h => ?_⟩
  · rw [y.1, x.1]
  · have e := x.2.2 h
    rw [y.2.2 (e ▸ h), e]

/-- Trimming an A-latch takes span entries of its owner away (R390). -/
theorem Latch.less_trim (a : Latch) (o : Nat × Nat) (w : Wave) : a.Less (a.trim o w) o := by
  unfold Latch.trim
  split
  · next h => exact ⟨rfl, List.filter_sublist, fun n => absurd h n⟩
  · exact .refl a o

theorem Outside.refl (s : State) (g : GangRef) : Outside s s g where
  device := rfl
  core _ := rfl
  latch _ _ y h := ⟨y, h, .refl _ _⟩
  teams := rfl
  team _ _ := rfl
  own := rfl
  waves := rfl
  wave _ _ := rfl
  mine := rfl
  quads := rfl
  quad _ _ := rfl

theorem Outside.trans {s t u : State} {g : GangRef} (a : Outside s t g) (b : Outside t u g) :
    Outside s u g where
  device := by rw [b.device, a.device]
  core c := by rw [b.core, a.core]
  latch c i z h := by
    obtain ⟨y, hy, ly⟩ := b.latch c i z h
    obtain ⟨x, hx, lx⟩ := a.latch c i y hy
    exact ⟨x, hx, lx.trans ly⟩
  teams := b.teams.trans a.teams
  team i h := (b.team i h).trans (a.team i h)
  own := by rw [b.own, a.own]
  waves := b.waves.trans a.waves
  wave w h := (b.wave w h).trans (a.wave w h)
  mine := by rw [b.mine, a.mine]
  quads := b.quads.trans a.quads
  quad n h := (b.quad n h).trans (a.quad n h)

/-- A change of the gang's wave that keeps all but WDOG, FUSEST, expiries, gangs and quads, and every quad that is
not the gang's. -/
theorem outside_modWave (s : State) (g : GangRef) (f : Wave → Wave)
    (hf : ∀ x, f x = { x with wdog := (f x).wdog, fusest := (f x).fusest, dog := (f x).dog
                              gangs := (f x).gangs, quads := (f x).quads })
    (hl : ∀ x, (f x).quads.length = x.quads.length)
    (hq : ∀ x n, n ∉ g.quads → (f x).quad n = x.quad n) : Outside s (s.modWave g.t g.w f) g where
  device := rfl
  core _ := rfl
  latch _ _ y h := ⟨y, h, .refl _ _⟩
  teams := modAt_length _ _ _
  team i h := by rw [State.team_modWave, if_neg h]
  own := by rw [State.teamOf, State.team_modWave, if_pos rfl]; rfl
  waves := by rw [State.teamOf, State.team_modWave, if_pos rfl]; exact modAt_length _ _ _
  wave w h := by rw [State.wave_modWave, if_neg fun e => h e.2.1]
  mine := by
    simp only [State.waveOf, State.wave_modWave, true_and]
    split
    · exact hf _
    · rfl
  quads := by
    simp only [State.waveOf, State.wave_modWave, true_and]
    split
    · exact hl _
    · rfl
  quad n h := by
    simp only [State.quadOf, State.quad, State.wave_modWave, true_and]
    split
    · exact hq _ n h
    · rfl

theorem outside_mapGang (s : State) (g : GangRef) (f : Nat → Quad → Quad) :
    Outside s (s.mapGang g f) g := by
  apply outside_modWave
  · intro x
    rw [Wave.foldl_modQuad_eq]
  · intro x
    exact Wave.foldl_modQuad_length _ _ _
  · intro x n h
    rw [Wave.quad_foldl_modQuad _ g.quads_nodup, if_neg fun e => h e.1]

theorem outside_stall (s : State) (g : GangRef) (core : Nat) (c : BitVec 6) (i n : Nat) :
    Outside s (s.stall core c i n) g := { Outside.refl s g with device := rfl }

theorem State.core_modCore (s : State) (a c : Nat) (f : CoreSt → CoreSt) :
    (s.modCore a f).core c = if c = a ∧ c < 288 then f (s.core c) else s.core c := by
  unfold State.modCore State.core modVec
  by_cases ha : a < 288 <;> by_cases hc : c < 288
  · by_cases h : c = a
    · subst h; simp [hc]
    · simp [ha, hc, h, Ne.symm h]
  · simp [hc]
  · have : c ≠ a := fun e => ha (e ▸ hc)
    simp [ha, hc, this]
  · simp [hc]

/-- The quarter of a core whose datapath an issue makes busy. -/
theorem outside_occupy (s : State) (g : GangRef) (cost : Nat) : Outside s (s.occupy g cost) g :=
  { Outside.refl s g with
    device := rfl
    core := fun c => by
      unfold State.occupy
      rw [State.core_modCore]
      split <;> rfl
    latch := fun c i y => by
      unfold State.occupy
      rw [State.core_modCore]
      split
      · dsimp only
        rw [modVec_getElem?]
        split
        · intro h
          obtain ⟨x, hx, rfl⟩ := Option.map_eq_some_iff.1 h
          exact ⟨x, hx, x.latch.less_trim _ _⟩
        · exact fun h => ⟨y, h, .refl _ _⟩
      · exact fun h => ⟨y, h, .refl _ _⟩ }

/-- The division of a gang changes the gangs of its wave alone. -/
theorem outside_regangBy (s : State) (g : GangRef) (side : Nat → Bool) : Outside s (s.regangBy g side) g := by
  unfold State.regangBy
  extract_lets runs
  split
  · exact Outside.refl s g
  · unfold State.replaceGangs
    exact outside_modWave s g _ (fun _ => rfl) (fun _ => rfl) fun _ _ _ => rfl

theorem outside_watchdog (s : State) (g : GangRef) (mode : DogMode) : Outside s (s.watchdog g mode) g :=
  outside_modWave s g _ (fun _ => rfl) (fun _ => rfl) fun _ _ _ => rfl

/-- The accounts of an issue. -/
theorem outside_account (s : State) (g : GangRef) (cost : Nat) (mode : DogMode) :
    Outside s (s.account g cost mode) g :=
  ((outside_stall s g _ _ _ _).trans (outside_occupy _ g _)).trans (outside_watchdog _ g mode)

/-! ### What an issue does to the gang's wave and quads -/

theorem State.quadOf_stall (s : State) (g : GangRef) (n core : Nat) (c : BitVec 6) (i k : Nat) :
    (s.stall core c i k).quadOf g n = s.quadOf g n := rfl

theorem State.quadOf_modCore (s : State) (g : GangRef) (n core : Nat) (f : CoreSt → CoreSt) :
    (s.modCore core f).quadOf g n = s.quadOf g n := rfl

theorem State.quadOf_modWave (s : State) (g : GangRef) (n : Nat) (f : Wave → Wave)
    (h : ∀ x, (f x).quads = x.quads) : (s.modWave g.t g.w f).quadOf g n = s.quadOf g n := by
  simp only [State.quadOf, State.quad, State.wave_modWave, true_and]
  split
  · unfold Wave.quad; rw [h]
  · rfl

theorem State.waveOf_modWave (s : State) (g : GangRef) (f : Wave → Wave)
    (h : g.w < (s.teamOf g).waves.length) : (s.modWave g.t g.w f).waveOf g = f (s.waveOf g) := by
  simp only [State.waveOf, State.wave_modWave, true_and]
  exact if_pos h

theorem State.quadOf_regangBy (s : State) (g : GangRef) (side : Nat → Bool) (n : Nat) :
    (s.regangBy g side).quadOf g n = s.quadOf g n := by
  unfold State.regangBy
  extract_lets runs
  split
  · rfl
  · exact s.quadOf_modWave g n _ fun _ => rfl

/-- The division of a gang keeps every field of its wave but `gangs`. -/
theorem State.waveOf_regangBy (s : State) (g : GangRef) (side : Nat → Bool) :
    (s.regangBy g side).waveOf g =
      { s.waveOf g with gangs := ((s.regangBy g side).waveOf g).gangs } := by
  unfold State.regangBy
  extract_lets runs
  split
  · rfl
  · unfold State.replaceGangs
    simp only [State.waveOf, State.wave_modWave, true_and]
    split <;> rfl

/-- `mapGang` keeps every field of the wave but `quads`. -/
theorem State.waveOf_mapGang (s : State) (g : GangRef) (f : Nat → Quad → Quad) :
    (s.mapGang g f).waveOf g = { s.waveOf g with quads := ((s.mapGang g f).waveOf g).quads } := by
  unfold State.mapGang State.modQuads
  simp only [State.waveOf, State.wave_modWave, true_and]
  split
  · exact Wave.foldl_modQuad_eq _ _ _
  · rfl

theorem State.teamOf_mapGang (s : State) (g : GangRef) (f : Nat → Quad → Quad) :
    ((s.mapGang g f).teamOf g).kernel = (s.teamOf g).kernel := by
  rw [(outside_mapGang s g f).own]

/-- Whether WDOG counts does not depend on changes that leave handlers alone. -/
theorem dogRuns_mapGang (s : State) (g : GangRef) (f : Nat → Quad → Quad)
    (hh : ∀ n q, (f n q).inHandler = q.inHandler) : dogRuns (s.mapGang g f) g = dogRuns s g := by
  unfold dogRuns
  rw [s.waveOf_mapGang]
  have : (fun n => ((s.mapGang g f).quadOf g n).inHandler) = fun n => (s.quadOf g n).inHandler := by
    funext n
    rw [State.quadOf_mapGang]
    split
    · exact hh _ _
    · rfl
  rw [this]

/-- The watchdog of one issue that counts (R420, R421): WDOG, FUSEST and the quads whose watchdog expires. -/
theorem watchdog_count_wave (s : State) (g : GangRef) (h : g.w < (s.teamOf g).waves.length) :
    ((s.watchdog g .count).waveOf g).wdog = dogNext s g ∧
      ((s.watchdog g .count).waveOf g).fusest = (s.waveOf g).fusest ∧
      ((s.watchdog g .count).waveOf g).dog = dogHits s g := by
  unfold State.watchdog
  dsimp only
  rw [State.waveOf_modWave _ _ _ h]
  unfold dogNext dogHits dogRuns
  generalize (s.waveOf g) = w
  cases hy : (g.quads.any fun q => (s.quadOf g q).inHandler) <;> by_cases h0 : w.wdog = 0 <;>
    by_cases h1 : w.wdog = 1 <;> simp_all

/-- A watchdog leaves the quads alone. -/
theorem watchdog_quad (s : State) (g : GangRef) (mode : DogMode) (n : Nat) :
    (s.watchdog g mode).quadOf g n = s.quadOf g n := s.quadOf_modWave g n _ fun _ => rfl

/-- The accounts of an issue, as the gang's wave and quads see them, are those of the watchdog. -/
theorem account_eq (s : State) (g : GangRef) (cost : Nat) (mode : DogMode) :
    ∃ u : State, s.account g cost mode = u.watchdog g mode ∧ Outside s u g ∧ u.teams = s.teams :=
  ⟨_, rfl, (outside_stall s g _ _ _ _).trans (outside_occupy _ g _), rfl⟩

theorem dogRuns_congr {s u : State} (g : GangRef) (h : u.teams = s.teams) : dogRuns u g = dogRuns s g := by
  unfold dogRuns State.waveOf State.quadOf State.quad State.wave State.team
  rw [h]

theorem dogNext_congr {s u : State} (g : GangRef) (h : u.teams = s.teams) : dogNext u g = dogNext s g := by
  unfold dogNext
  rw [dogRuns_congr g h]
  unfold State.teamOf State.waveOf State.wave State.team
  rw [h]

theorem dogHits_congr {s u : State} (g : GangRef) (h : u.teams = s.teams) : dogHits u g = dogHits s g := by
  unfold dogHits
  rw [dogRuns_congr g h]
  unfold State.waveOf State.wave State.team
  rw [h]

/-- A performance of an instruction that changes each quad of the gang by itself and leaves handlers
alone, with the gang dividing by the sides of a branch (R98, R102, R420). -/
theorem issueBy_effect (s : State) (g : GangRef) (cost : Nat) (f : Nat → Quad → Quad) (side : Nat → Bool)
    (hh : ∀ n q, (f n q).inHandler = q.inHandler) :
    Effect s (((s.mapGang g f).account g cost .count).regangBy g side) g (dogNext s g) (s.waveOf g).fusest
      (dogHits s g) f := by
  obtain ⟨u, hu, hout, ht⟩ := account_eq (s.mapGang g f) g cost .count
  have hm := outside_mapGang s g f
  have hw : (u.waveOf g) = (s.mapGang g f).waveOf g := by
    unfold State.waveOf State.wave State.team; rw [ht]
  have hq (n : Nat) : u.quadOf g n = (s.mapGang g f).quadOf g n := by
    unfold State.quadOf State.quad State.wave State.team; rw [ht]
  have hdog : dogNext u g = dogNext s g := by
    rw [dogNext_congr g ht]
    unfold dogNext
    rw [dogRuns_mapGang s g f hh, s.teamOf_mapGang, s.waveOf_mapGang]
  have htr : dogHits u g = dogHits s g := by
    rw [dogHits_congr g ht]
    unfold dogHits
    rw [dogRuns_mapGang s g f hh, s.waveOf_mapGang]
  have hwl : (u.teamOf g).waves.length = (s.teamOf g).waves.length := by
    unfold State.teamOf State.team; rw [ht]; exact hm.waves
  rw [hu]
  refine { toOutside := ((hm.trans hout).trans (outside_watchdog u g .count)).trans (outside_regangBy _ g _),
           dog := fun h => ?_, hits := fun h => ?_, fuse := fun h => ?_, exited := fun n hx => ?_
           each := fun n hn hl hx => ?_ }
  · rw [State.waveOf_regangBy, (watchdog_count_wave u g (hwl ▸ h)).1, hdog]
  · rw [State.waveOf_regangBy, (watchdog_count_wave u g (hwl ▸ h)).2.2, htr]
  · rw [State.waveOf_regangBy, (watchdog_count_wave u g (hwl ▸ h)).2.1, hw, s.waveOf_mapGang]
  · rw [State.quadOf_regangBy, watchdog_quad, hq, State.quadOf_mapGang, hx]
    simp
  · rw [State.quadOf_regangBy, watchdog_quad, hq, State.quadOf_mapGang, if_pos ⟨hn, hl, hx⟩]

/-- The same of an instruction that is no branch. -/
theorem issue_effect (s : State) (g : GangRef) (cost : Nat) (f : Nat → Quad → Quad)
    (hh : ∀ n q, (f n q).inHandler = q.inHandler) :
    Effect s (((s.mapGang g f).account g cost .count).regang g) g (dogNext s g) (s.waveOf g).fusest
      (dogHits s g) f := issueBy_effect s g cost f _ hh

theorem modAt_modAt {α : Type} (l : List α) (i : Nat) (f h : α → α) :
    modAt (modAt l i f) i h = modAt l i (h ∘ f) := by
  apply List.ext_getElem?
  intro n
  simp only [modAt_getElem?]
  split
  · rw [Option.map_map]
  · rfl

theorem State.modWave_modWave (s : State) (a b : Nat) (f h : Wave → Wave) :
    (s.modWave a b f).modWave a b h = s.modWave a b (h ∘ f) := by
  unfold State.modWave State.modTeam Team.modWave
  simp only [modAt_modAt]
  congr 2
  funext t
  simp only [Function.comp, modAt_modAt]

/-- Two waves with the same quads, else equal, are equal. -/
theorem Wave.ext_quads {x y : Wave} (h : x = { y with quads := x.quads })
    (hl : x.quads.length = y.quads.length) (hq : ∀ n, x.quad n = y.quad n) : x = y := by
  rw [h]
  have : x.quads = y.quads := by
    apply List.ext_getElem hl
    intro n h1 h2
    have := hq n
    simpa [Wave.quad, List.getD_eq_getElem?_getD, h1, h2] using this
  rw [this]

/-- Two changes of a gang's quads in turn. -/
theorem mapGang_mapGang (s : State) (g : GangRef) (f h : Nat → Quad → Quad)
    (he : ∀ n q, (f n q).exited = q.exited) :
    (s.mapGang g f).mapGang g h = s.mapGang g fun n q => h n (f n q) := by
  unfold State.mapGang State.modQuads
  rw [State.modWave_modWave]
  congr 1
  funext x
  have e (k : Nat → Quad → Quad) (y : Wave) :
      ∃ l, g.quads.foldl (fun x q => x.modQuad q (k q)) y = { y with quads := l } :=
    ⟨_, Wave.foldl_modQuad_eq _ _ _⟩
  apply Wave.ext_quads
  · obtain ⟨l1, h1⟩ := e (fun n q => if q.exited then q else f n q) x
    obtain ⟨l2, h2⟩ := e (fun n q => if q.exited then q else h n q) { x with quads := l1 }
    obtain ⟨l3, h3⟩ := e (fun n q => if q.exited then q else h n (f n q)) x
    rw [Function.comp, h1, h2, h3]
  · simp [Function.comp]
  · intro n
    simp only [Function.comp, Wave.quad_foldl_modQuad _ g.quads_nodup, Wave.foldl_modQuad_length]
    by_cases hn : n ∈ g.quads ∧ n < x.quads.length
    · simp only [if_pos hn]
      cases hx : (x.quad n).exited <;> simp [he, hx]
    · simp only [if_neg hn]

/-- A retired instruction that changes each quad of the gang by itself. -/
theorem retire_effect (s : State) (g : GangRef) (len cost : Nat) (f : Nat → Quad → Quad)
    (hh : ∀ n q, (f n q).inHandler = q.inHandler) (he : ∀ n q, (f n q).exited = q.exited) :
    Effect s ((s.mapGang g f).retire g len cost .count) g (dogNext s g) (s.waveOf g).fusest
      (dogHits s g) (fun n q => (f n q).advance len) := by
  have : (s.mapGang g f).mapGang g (fun _ q => q.advance len) =
      s.mapGang g fun n q => (f n q).advance len := by
    rw [mapGang_mapGang s g f _ he]
  unfold State.retire
  rw [this]
  exact issue_effect s g cost _ fun n q => hh n q

end Sys2Proof.Machine
end

