-- ==== Sys2Proof/Laws/Issue.lean ====
section
/-! SUPPORT. The frames that instructions run in: what a scalar instruction, a branch and a lane
instruction answer when they perform. -/

namespace Sys2Proof.Machine

theorem withGang_next {s : State} {g : GangRef} (h : s.issuing = some g) (f : GangRef → State) :
    withGang s f = .next (f g) := by
  unfold withGang
  rw [h]

/-- A scalar instruction that changes each quad by itself performs. -/
theorem scalarStep_effect {s : State} {g : GangRef} (h : s.issuing = some g) (f : Quad → Quad)
    (hh : ∀ q, (f q).inHandler = q.inHandler) (he : ∀ q, (f q).exited = q.exited) :
    ∃ t, scalarStep s f = .next t ∧
      Effect s t g (dogNext s g) (s.waveOf g).fusest (dogHits s g) fun _ q => (f q).advance 1 :=
  ⟨_, withGang_next h _, retire_effect s g 1 1 (fun _ q => f q) (fun _ => hh) fun _ => he⟩

/-- A branch performs: taken quads jump, the others go on. -/
theorem branchStep_effect {s : State} {g : GangRef} (h : s.issuing = some g) (taken : Quad → Bool)
    (target : Quad → Word) (link : Quad → Quad) (hh : ∀ q, (link q).inHandler = q.inHandler) :
    ∃ t, branchStep s taken target link = .next t ∧
      Effect s t g (dogNext s g) (s.waveOf g).fusest (dogHits s g)
        fun _ q => if taken q then (link q).jump (target q) else q.advance 1 :=
  ⟨_, withGang_next h _, issueBy_effect s g 1 _ _ fun _ q => by
    split
    · exact hh q
    · rfl⟩

/-- A lane instruction that may run at once has its effect over the gang that reaches it. -/
theorem laneStep_next {s : State} {g : GangRef} {o : LaneOp} {opnds : List Opnd}
    (h : LaneReady s g o opnds) (body : Option (BitVec 4) → State → GangRef → State) :
    ∃ f, laneFlag (s.leader g).clause o.flag = some f ∧
      laneStep s o opnds body = .next (body f s g) := by
  obtain ⟨f, hf⟩ := Option.isSome_iff_exists.mp h.flag
  refine ⟨f, hf, ?_⟩
  have ho : opnds.all (·.ok (s.teamOf g).kernel.regs) = true := List.all_eq_true.mpr h.fields
  have hw : s.withWidth g o.minw.toNat (body f) = body f s g := by
    unfold State.withWidth
    rw [if_pos h.width]
  unfold laneStep
  rw [withGang_next h.issuing, hf]
  simp only [h.guard, ho, hw, Bool.not_true, Bool.or_self, Bool.false_eq_true, if_false]

/-- A short-latency lane instruction that changes each quad by itself performs. -/
theorem laneQuads_effect {s : State} {g : GangRef} {o : LaneOp} {opnds : List Opnd}
    (h : LaneReady s g o opnds) (cost : GangRef → Nat) (f : Nat → Quad → Quad)
    (hh : ∀ n q, (f n q).inHandler = q.inHandler) (he : ∀ n q, (f n q).exited = q.exited) :
    ∃ t, laneQuads s o opnds cost f = .next t ∧
      Effect s t g (dogNext s g) (s.waveOf g).fusest (dogHits s g) fun n q => (f n q).advance 3 := by
  obtain ⟨_, _, hb⟩ := laneStep_next h fun _ s g => (s.mapGang g f).retire g 3 (cost g) .count
  exact ⟨_, hb, retire_effect s g 3 (cost g) f hh he⟩

/-- Changing the active lanes one after another is changing each of them by itself. -/
theorem mapLanes_eachLane (q : Quad) (o : LaneOp) (f : Nat → Lane → Lane) :
    (q.mapLanes fun i l => if q.active o i then f i l else l) = q.eachLane o f := by
  unfold Quad.mapLanes Quad.eachLane Quad.modLane
  have : (upTo 4) = [0, 1, 2, 3] := rfl
  rw [this]
  simp only [List.foldl]
  congr 1
  apply Vector.ext
  intro i hi
  have : i = 0 ∨ i = 1 ∨ i = 2 ∨ i = 3 := by omega
  rcases this with rfl | rfl | rfl | rfl <;>
    simp [modVec, Quad.active, Quad.emBit, Quad.lane]

theorem Quad.reseed_inHandler (q : Quad) (r : Rnd) : (q.reseed r).inHandler = q.inHandler := by
  cases r <;> rfl

theorem Quad.reseed_exited (q : Quad) (r : Rnd) : (q.reseed r).exited = q.exited := by
  cases r <;> rfl

/-- A lane instruction that changes every active lane by itself performs. -/
theorem laneMap_effect {s : State} {g : GangRef} {o : LaneOp} {opnds : List Opnd}
    (h : LaneReady s g o opnds) (cost : GangRef → Nat) (rnd : Rnd) (f : Quad → Nat → Lane → Lane) :
    ∃ t, laneMap s o opnds cost rnd f = .next t ∧
      Effect s t g (dogNext s g) (s.waveOf g).fusest (dogHits s g) fun n q =>
        ((q.eachLane o fun i l => f q (4 * n + i) l).reseed rnd).advance 3 := by
  have e (n : Nat) (q : Quad) : q.lanewise o n rnd f =
      (q.eachLane o fun i l => f q (4 * n + i) l).reseed rnd := by
    unfold Quad.lanewise
    rw [mapLanes_eachLane]
  unfold laneMap
  simp only [e]
  exact laneQuads_effect h cost _ (fun _ q => Quad.reseed_inHandler _ _) fun _ q => Quad.reseed_exited _ _

end Sys2Proof.Machine
end

