-- ==== Sys2Proof/Laws/Mem.lean ====
section
/-! SUPPORT. The laws of memory: what a read gives after a write, and that every operation on memory
keeps its canonical form. -/

namespace Sys2Proof.Machine

/-! ### One byte -/

/-- No address below the bound of the canonical form is listed. -/
theorem Mem.get_below {m : Mem} {lo x : Nat} (h : Mem.wfFrom lo m = true) (hx : x < lo) : m.get x = 0 := by
  cases m with
  | nil => rfl
  | cons p m =>
    simp only [Mem.wfFrom, Bool.and_eq_true, decide_eq_true_eq] at h
    simp only [Mem.get]
    rw [if_neg (by omega), if_pos (by omega)]

/-- The canonical form from a lower bound on. -/
theorem Mem.wfFrom_mono {m : Mem} {lo lo' : Nat} (h : Mem.wfFrom lo m = true) (hl : lo' ≤ lo) :
    Mem.wfFrom lo' m = true := by
  cases m with
  | nil => rfl
  | cons p m =>
    simp only [Mem.wfFrom, Bool.and_eq_true, decide_eq_true_eq] at h ⊢
    exact ⟨⟨by omega, h.1.2⟩, h.2⟩

/-- A write at or above the bound keeps the canonical form. -/
theorem Mem.wfFrom_set {m : Mem} {lo x : Nat} {v : Byte} (h : Mem.wfFrom lo m = true) (hx : lo ≤ x) :
    Mem.wfFrom lo (m.set x v) = true := by
  induction m generalizing lo with
  | nil =>
    simp only [Mem.set]
    split
    · rfl
    · simp only [Mem.wfFrom, Bool.and_eq_true, decide_eq_true_eq, bne_iff_ne]
      exact ⟨⟨hx, ‹_›⟩, trivial⟩
  | cons p m ih =>
    obtain ⟨a, b⟩ := p
    simp only [Mem.wfFrom, Bool.and_eq_true, decide_eq_true_eq, bne_iff_ne] at h
    obtain ⟨⟨ha, hb⟩, hm⟩ := h
    simp only [Mem.set]
    split
    · split
      · simp only [Mem.wfFrom, Bool.and_eq_true, decide_eq_true_eq, bne_iff_ne]
        exact ⟨⟨ha, hb⟩, hm⟩
      · simp only [Mem.wfFrom, Bool.and_eq_true, decide_eq_true_eq, bne_iff_ne]
        exact ⟨⟨hx, ‹_›⟩, ⟨by omega, hb⟩, hm⟩
    · split
      · subst_vars
        split
        · exact Mem.wfFrom_mono hm (by omega)
        · simp only [Mem.wfFrom, Bool.and_eq_true, decide_eq_true_eq, bne_iff_ne]
          exact ⟨⟨hx, ‹_›⟩, hm⟩
      · simp only [Mem.wfFrom, Bool.and_eq_true, decide_eq_true_eq, bne_iff_ne]
        exact ⟨⟨ha, hb⟩, ih hm (by omega)⟩

/-- A write of one byte keeps the canonical form. -/
theorem Mem.wf_set {m : Mem} {x : Nat} {v : Byte} (h : m.wf = true) : (m.set x v).wf = true :=
  Mem.wfFrom_set h (Nat.zero_le _)

/-- The empty memory has the canonical form. -/
@[simp] theorem Mem.wf_nil : Mem.wf [] = true := rfl

/-- A read after a write of one byte. -/
theorem Mem.get_set {m : Mem} {lo : Nat} (x : Nat) (v : Byte) (y : Nat) (h : Mem.wfFrom lo m = true) :
    (m.set x v).get y = if y = x then v else m.get y := by
  induction m generalizing lo with
  | nil =>
    simp only [Mem.set]
    split
    · simp only [Mem.get]
      split
      · exact Eq.symm ‹v = 0›
      · rfl
    · simp only [Mem.get]
      split
      · rfl
      · split <;> rfl
  | cons p m ih =>
    obtain ⟨a, b⟩ := p
    simp only [Mem.wfFrom, Bool.and_eq_true, decide_eq_true_eq, bne_iff_ne] at h
    obtain ⟨⟨ha, hb⟩, hm⟩ := h
    simp only [Mem.set]
    by_cases h1 : x < a
    · rw [if_pos h1]
      by_cases hv : v = 0
      · rw [if_pos hv]
        by_cases hy : y = x
        · rw [if_pos hy, Mem.get, if_neg (by omega), if_pos (by omega), hv]
        · rw [if_neg hy]
      · rw [if_neg hv]
        by_cases hy : y = x
        · rw [if_pos hy, Mem.get, if_pos hy]
        · rw [if_neg hy, Mem.get, if_neg hy]
          by_cases hl : y < x
          · rw [if_pos hl, Mem.get, if_neg (by omega), if_pos (by omega)]
          · rw [if_neg hl]
    · rw [if_neg h1]
      by_cases h2 : x = a
      · rw [if_pos h2]
        subst h2
        by_cases hy : y = x
        · rw [if_pos hy]
          by_cases hv : v = 0
          · rw [if_pos hv, Mem.get_below hm (by omega), hv]
          · rw [if_neg hv, Mem.get, if_pos hy]
        · rw [if_neg hy, Mem.get, if_neg hy]
          by_cases hv : v = 0
          · rw [if_pos hv]
            by_cases hl : y < x
            · rw [if_pos hl, Mem.get_below hm (by omega)]
            · rw [if_neg hl]
          · rw [if_neg hv, Mem.get, if_neg hy]
      · rw [if_neg h2, Mem.get, Mem.get, ih hm]
        by_cases hy : y = x
        · rw [if_neg (by omega), if_neg (by omega), if_pos hy, if_pos hy]
        · rw [if_neg hy, if_neg hy]

/-- A read of the byte just written. -/
theorem Mem.get_set_same {m : Mem} {x : Nat} {v : Byte} (h : m.wf = true) : (m.set x v).get x = v := by
  simp [Mem.get_set x v x h]

/-- A write leaves every other byte alone. -/
theorem Mem.get_set_other {m : Mem} {x y : Nat} {v : Byte} (h : m.wf = true) (hy : y ≠ x) :
    (m.set x v).get y = m.get y := by
  simp [Mem.get_set x v y h, hy]

/-! ### Several bytes -/

/-- A write of several bytes keeps the canonical form. -/
theorem Mem.wf_write {m : Mem} (a : Nat) (bs : List Byte) (h : m.wf = true) : (m.write a bs).wf = true := by
  induction bs generalizing m a with
  | nil => exact h
  | cons b bs ih => exact ih (a + 1) (Mem.wf_set h)

/-- A read after a write of several bytes. -/
theorem Mem.get_write {m : Mem} (a : Nat) (bs : List Byte) (y : Nat) (h : m.wf = true) :
    (m.write a bs).get y = if a ≤ y ∧ y < a + bs.length then bs.getD (y - a) 0 else m.get y := by
  induction bs generalizing m a with
  | nil =>
    rw [Mem.write, if_neg]
    simp only [List.length_nil]
    omega
  | cons b bs ih =>
    rw [Mem.write, ih (a + 1) (Mem.wf_set h), Mem.get_set a b y h]
    simp only [List.length_cons]
    by_cases hy : y = a
    · subst hy
      rw [if_neg (by omega), if_pos rfl, if_pos (by omega)]
      simp
    · rw [if_neg hy]
      by_cases hr : a + 1 ≤ y ∧ y < a + 1 + bs.length
      · rw [if_pos hr, if_pos (by omega)]
        rw [show y - a = (y - (a + 1)) + 1 by omega]
        simp
      · rw [if_neg hr, if_neg (by omega)]

/-- A write of no byte changes nothing. -/
@[simp] theorem Mem.write_nil (m : Mem) (a : Nat) : m.write a [] = m := rfl

/-- A read has as many bytes as it asks for. -/
@[simp] theorem Mem.length_read (m : Mem) (a n : Nat) : (m.read a n).length = n := by simp [Mem.read]

/-- A byte of a read. -/
theorem Mem.getD_read (m : Mem) (a n i : Nat) (h : i < n) : (m.read a n).getD i 0 = m.get (a + i) := by
  simp [Mem.read, h]

/-- A read of what has just been written. -/
theorem Mem.read_write {m : Mem} (a : Nat) (bs : List Byte) (h : m.wf = true) :
    (m.write a bs).read a bs.length = bs := by
  apply List.ext_getElem (by simp)
  intro i h1 h2
  simp only [Mem.read, List.getElem_map, List.getElem_range]
  rw [Mem.get_write a bs _ h, if_pos (by omega)]
  simp [h2]

/-! ### Equal memories are equal data -/

/-- Two memories in canonical form that read the same are the same. -/
theorem Mem.ext_of_wfFrom {m k : Mem} {lo : Nat} (hm : Mem.wfFrom lo m = true) (hk : Mem.wfFrom lo k = true)
    (h : ∀ x, m.get x = k.get x) : m = k := by
  induction m generalizing k lo with
  | nil =>
    cases k with
    | nil => rfl
    | cons p k =>
      simp only [Mem.wfFrom, Bool.and_eq_true, decide_eq_true_eq, bne_iff_ne] at hk
      have := h p.1
      simp [Mem.get] at this
      exact absurd this.symm hk.1.2
  | cons p m ih =>
    obtain ⟨a, b⟩ := p
    simp only [Mem.wfFrom, Bool.and_eq_true, decide_eq_true_eq, bne_iff_ne] at hm
    cases k with
    | nil =>
      have := h a
      simp [Mem.get] at this
      exact absurd this hm.1.2
    | cons q k =>
      obtain ⟨c, d⟩ := q
      simp only [Mem.wfFrom, Bool.and_eq_true, decide_eq_true_eq, bne_iff_ne] at hk
      have hac : a = c := by
        rcases Nat.lt_trichotomy a c with hlt | heq | hgt
        · have := h a
          simp only [Mem.get, if_true] at this
          rw [if_neg (by omega), if_pos hlt] at this
          exact absurd this hm.1.2
        · exact heq
        · have := h c
          simp only [Mem.get, if_true] at this
          rw [if_neg (by omega), if_pos hgt] at this
          exact absurd this.symm hk.1.2
      subst hac
      have hbd : b = d := by simpa [Mem.get] using h a
      subst hbd
      congr 1
      refine ih hm.2 hk.2 fun x => ?_
      rcases Nat.lt_or_ge a x with hx | hx
      · have := h x
        simp only [Mem.get] at this
        rwa [if_neg (by omega), if_neg (by omega), if_neg (by omega), if_neg (by omega)] at this
      · rw [Mem.get_below hm.2 (by omega), Mem.get_below hk.2 (by omega)]

/-- Two memories in canonical form that read the same are the same. -/
theorem Mem.ext_of_wf {m k : Mem} (hm : m.wf = true) (hk : k.wf = true) (h : ∀ x, m.get x = k.get x) : m = k :=
  Mem.ext_of_wfFrom hm hk h

/-! ### The two places of the state that hold bytes -/

/-- What a raw write of HBM does to memory. -/
theorem State.rawWrite_mem (s : State) (c : BitVec 6) (pa : Nat) (bs : List Byte) :
    (s.rawWrite c pa bs).mem = s.mem.write pa bs := by
  simp only [State.rawWrite, State.setLine, State.modSlice]
  split <;> rfl

/-- A raw write of HBM keeps the canonical form. -/
theorem State.rawWrite_wf {s : State} (c : BitVec 6) (pa : Nat) (bs : List Byte) (h : s.mem.wf = true) :
    (s.rawWrite c pa bs).mem.wf = true := by
  rw [State.rawWrite_mem]
  exact Mem.wf_write pa bs h

/-- A byte of HBM after a raw write. -/
theorem State.rawWrite_get {s : State} (c : BitVec 6) (pa : Nat) (bs : List Byte) (x : Nat) (h : s.mem.wf = true) :
    (s.rawWrite c pa bs).mem.get x = if pa ≤ x ∧ x < pa + bs.length then bs.getD (x - pa) 0 else s.mem.get x := by
  rw [State.rawWrite_mem]
  exact Mem.get_write pa bs x h

end Sys2Proof.Machine
end

