-- ==== Sys2Proof/Machine/Object.lean ====
section
/-! DEFINITION. Code objects: the container (R448 to R457) and what a loader checks (R458). -/

namespace Sys2Proof.Machine

/-- The first check of R458 that an object fails. -/
inductive Reject where
  /-- Check 1: the container of R448 and R449. -/
  | container
  /-- Check 2: the digest of the file or a signature (R457). -/
  | signature
  /-- Check 3: the memory-model level (R195). -/
  | level
  /-- Check 4: the section rules of R450, or a base that is not aligned. -/
  | sections
  /-- Check 5: the digest of a code page (R456). -/
  | digest
  /-- Check 6: symbols (R452, R465). -/
  | symbols
  /-- Check 6: layouts (R454). -/
  | layouts
  /-- Check 7: a relocation record (R461). -/
  | relocation
  /-- Check 7: a relocation value out of its range (R460, R462). -/
  | overflow
  deriving DecidableEq, Repr

/-! ### The container -/

/-- One table of an object: how many rows and where it lies. -/
structure ObjTable where
  count : Nat
  off : Nat
  deriving DecidableEq, Repr

/-- The header of a code object (R448). -/
structure ObjHeader where
  magic : Nat
  version : Nat
  mml : Nat
  prefbase : Word
  imagesz : Nat
  sec : ObjTable
  sym : ObjTable
  rel : ObjTable
  ker : ObjTable
  lay : ObjTable
  got : ObjTable
  man : ObjTable
  str : ObjTable
  sigoff : Nat
  sigsz : Nat
  deriving DecidableEq, Repr

/-- The header in a file's first bytes (R448). -/
def objHeader (f : List Byte) : ObjHeader :=
  let table (off : Nat) : ObjTable := { count := field f off 4, off := field f (off + 4) 4 }
  { magic := field f 0 4, version := field f 4 2, mml := field f 6 2, prefbase := field64 f 8, imagesz := field f 16 8
    sec := table 24, sym := table 32, rel := table 40, ker := table 48, lay := table 56, got := table 64
    man := table 72, str := table 80, sigoff := field f 88 4, sigsz := field f 92 4 }

/-- The rows of a table. -/
def ObjTable.rows (t : ObjTable) (f : List Byte) (size : Nat) : List (List Byte) :=
  (upTo t.count).map fun i => (f.drop (t.off + size * i)).take size

/-- A section header (R450). -/
structure ObjSection where
  name : Nat
  flags : Nat
  voff : Nat
  size : Nat
  foff : Nat
  align : Nat
  clean : Bool
  deriving DecidableEq, Repr

/-- A section header's row. -/
def objSection (r : List Byte) : ObjSection :=
  { name := field r 0 4, flags := field r 4 4, voff := field r 8 8, size := field r 16 4, foff := field r 20 4
    align := field r 24 4, clean := zeroField r 28 4 }

/-- The section is code (R450). -/
def ObjSection.code (x : ObjSection) : Bool := x.flags.testBit 0

/-- The section occupies no file bytes (R450). -/
def ObjSection.nobits (x : ObjSection) : Bool := x.flags.testBit 3

/-- A symbol (R452). -/
structure ObjSymbol where
  name : Nat
  sec : Nat
  value : Word
  kind : Nat
  bind : Nat
  clean : Bool
  deriving DecidableEq, Repr

/-- A symbol's row. -/
def objSymbol (r : List Byte) : ObjSymbol :=
  { name := field r 0 4, sec := field r 4 4, value := field64 r 8, kind := field r 16 1, bind := field r 17 1
    clean := zeroField r 18 6 }

/-- The symbol is imported (R452). -/
def ObjSymbol.imported (x : ObjSymbol) : Bool := x.sec == 0xFFFFFFFF

/-- A kernel table entry (R453). -/
structure ObjKernel where
  name : Nat
  flags : Nat
  clean : Bool
  template : List Byte
  deriving DecidableEq, Repr

/-- A kernel's row. -/
def objKernel (r : List Byte) : ObjKernel :=
  { name := field r 0 4, flags := field r 4 4, clean := zeroField r 8 24, template := (r.drop 32).take 128 }

/-- A relocation record (R459). -/
structure ObjReloc where
  site : Nat
  sym : Nat
  type : Nat
  pair : Nat
  addend : Word
  clean : Bool
  deriving DecidableEq, Repr

/-- A relocation record's row. -/
def objReloc (r : List Byte) : ObjReloc :=
  { site := field r 0 8, sym := field r 8 4, type := field r 12 2, pair := field r 16 4, addend := field64 r 24
    clean := zeroField r 14 2 && zeroField r 20 4 }

/-- A code object: its header and tables. -/
structure Object where
  file : List Byte
  header : ObjHeader
  sections : List ObjSection
  symbols : List ObjSymbol
  kernels : List ObjKernel
  layouts : List (List Byte)
  got : List Nat
  manifest : List (List Byte)
  relocs : List ObjReloc
  deriving DecidableEq, Repr

/-- The object in a file. -/
def objectOf (f : List Byte) : Object :=
  let h := objHeader f
  { file := f, header := h, sections := (h.sec.rows f 32).map objSection, symbols := (h.sym.rows f 24).map objSymbol
    kernels := (h.ker.rows f 160).map objKernel, layouts := h.lay.rows f 36
    got := (h.got.rows f 4).map fun r => field r 0 4, manifest := h.man.rows f 64
    relocs := (h.rel.rows f 32).map objReloc }

/-- The name at a string offset, without its NUL (R448). -/
def Object.name (o : Object) (n : Nat) : List Byte :=
  ((o.file.drop (o.header.str.off + n)).take (o.header.str.count - n)).takeWhile (· != 0)

/-- A name field is an offset below strsz whose string ends within the table (R448, R449). -/
def Object.named (o : Object) (n : Nat) : Bool :=
  decide (n + (o.name n).length < o.header.str.count)

/-- Two ranges of bytes do not overlap. -/
def apart (a b : Nat × Nat) : Bool := decide (a.1 + a.2 ≤ b.1) || decide (b.1 + b.2 ≤ a.1)

/-- No two of some ranges overlap. -/
def allApart : List (Nat × Nat) → Bool
  | [] => true
  | x :: l => l.all (apart x) && allApart l

/-- The parts of the file in front of the signature block, each with its size, but for those of size 0 (R449). -/
def Object.parts (o : Object) : List (Nat × Nat) :=
  let h := o.header
  ([(0, 128), (h.sec.off, 32 * h.sec.count), (h.sym.off, 24 * h.sym.count), (h.rel.off, 32 * h.rel.count),
      (h.ker.off, 160 * h.ker.count), (h.lay.off, 36 * h.lay.count), (h.got.off, 4 * h.got.count),
      (h.man.off, 64 * h.man.count), (h.str.off, h.str.count)] ++
    (o.sections.filter fun x => !x.nobits).map fun x => (x.foff, x.size)).filter fun x => x.2 != 0

/-- The first part of the file that does not begin before an offset begins there; the signature block is the last. -/
def Object.nextPart (o : Object) (off : Nat) : Nat :=
  (o.parts.filter fun x => decide (off ≤ x.1)).foldl (fun m x => min m x.1) o.header.sigoff

/-- The end of the last section (R448). -/
def Object.imageEnd (o : Object) : Nat := o.sections.foldl (fun m x => max m (x.voff + x.size)) 0

/-- Check 1 (R448, R449). Bytes between the parts, and a table row's reserved bytes, are bytes that R448 does not list;
those of sections, symbols and relocations belong to the later checks that name their rules. -/
def Object.contained (o : Object) : Bool :=
  let h := o.header
  decide (128 ≤ o.file.length) && h.magic == 0x4E4F474D && h.version == 1 && zeroField o.file 96 32 &&
    decide (1 ≤ h.sec.count) && decide (h.sec.count ≤ 64) && decide (h.lay.count ≤ 16) && h.sigsz == 30320 &&
    h.sigoff + h.sigsz == o.file.length && o.parts.all (fun x => decide (x.1 + x.2 ≤ h.sigoff)) && allApart o.parts &&
    o.sections.all (fun x => o.named x.name) && o.symbols.all (fun x => o.named x.name) &&
    o.kernels.all (fun x => o.named x.name && x.clean && decide (x.flags < 2)) &&
    o.got.all (fun i => decide (i < h.sym.count)) && h.imagesz == o.imageEnd &&
    o.parts.all (fun x => zeroField o.file (x.1 + x.2) (o.nextPart (x.1 + x.2) - (x.1 + x.2))) &&
    o.layouts.all (fun r => zeroField r 13 7 && zeroField r 28 8)

/-- The signature block (R457): D, the SHA-384 of each public key, and the signatures over D. -/
structure SigBlock where
  digest : BitVec 384
  rsaKey : BitVec 384
  slhKey : BitVec 384
  rsa : List Byte
  slh : List Byte
  deriving DecidableEq, Repr

/-- The signature block in its bytes (R457). -/
def sigBlock (bs : List Byte) : SigBlock :=
  let digest (off : Nat) : BitVec 384 := BitVec.ofNat 384 (field bs off 48)
  { digest := digest 0, rsaKey := digest 48, slhKey := digest 96, rsa := (bs.drop 144).take 384
    slh := (bs.drop 528).take 29792 }

/-- The signature block of an object. -/
def Object.block (o : Object) : SigBlock := sigBlock (o.file.drop o.header.sigoff)

/-- Check 2 (R457, R458): D is the digest of the file before the block, and both signatures verify. -/
def Object.signed (o : Object) : Bool :=
  let b := o.block
  b.digest == Config.sha384 (o.file.take o.header.sigoff) && Config.objectRsaOk b.digest b.rsaKey b.rsa &&
    Config.objectSlhOk b.digest b.slhKey b.slh

/-! ### Sections -/

/-- What a section header obeys by itself (R450). -/
def ObjSection.legal (x : ObjSection) (imagesz : Nat) : Bool :=
  x.clean && decide (x.flags < 16) && (upTo 15).any (fun k => x.align == 2 ^ (k + 2)) && x.voff % x.align == 0 &&
    (!x.code || (x.flags == 1 && x.align == 65536)) && (!x.nobits || x.foff == 0) && decide (x.voff + x.size ≤ imagesz)

/-- The pages of 64 KiB that a section touches. -/
def ObjSection.pages (x : ObjSection) : List Nat :=
  if x.size = 0 then []
  else (upTo ((x.voff + x.size - 1) / 65536 + 1 - x.voff / 65536)).map (x.voff / 65536 + ·)

/-- Two sections do not overlap, and have equal flags where they touch one page (R450). -/
def ObjSection.beside (x y : ObjSection) : Bool :=
  x.size == 0 || y.size == 0 ||
    (apart (x.voff, x.size) (y.voff, y.size) && (x.flags == y.flags || x.pages.all fun p => !y.pages.contains p))

/-- Every two sections stand beside each other. -/
def allBeside : List ObjSection → Bool
  | [] => true
  | x :: l => l.all x.beside && allBeside l

/-- The bytes of the name of the global offset table's section. -/
def gotName : List Byte := [0x67, 0x6F, 0x74]

/-- The global offset table's section (R455). -/
def Object.gotSection (o : Object) : Option ObjSection := o.sections.find? fun x => o.name x.name == gotName

/-- Check 4 (R450, R455) for a base. -/
def Object.placed (o : Object) (base : Word) : Bool :=
  o.sections.all (·.legal o.header.imagesz) && allBeside o.sections && o.header.prefbase.toNat % 65536 == 0 &&
    base.toNat % 65536 == 0 &&
    (match o.gotSection with
     | some x => x.size == 8 * o.got.length && !x.code
     | none => o.got.isEmpty)

/-! ### The image -/

/-- The sections of an image with their bytes. -/
abbrev Image := List (ObjSection × List Byte)

/-- The image as the file holds it, at the preferred base (R450, R459). -/
def Object.image (o : Object) : Image :=
  o.sections.map fun x => (x, if x.nobits then List.replicate x.size 0 else (o.file.drop x.foff).take x.size)

/-- Some bytes with others in their place from an offset on. -/
def splice (bs : List Byte) (off : Nat) (new : List Byte) : List Byte :=
  bs.take off ++ new ++ bs.drop (off + new.length)

/-- The section that holds all of some bytes of the image. -/
def Image.holder (im : Image) (site n : Nat) : Option (ObjSection × List Byte) :=
  im.find? fun x => decide (x.1.voff ≤ site) && decide (site + n ≤ x.1.voff + x.1.size)

/-- Some bytes of one section of the image. -/
def Image.read (im : Image) (site n : Nat) : List Byte :=
  match im.holder site n with
  | some (x, bs) => (bs.drop (site - x.voff)).take n
  | none => []

/-- A word of the image. -/
def Image.word (im : Image) (site : Nat) : Code := field32 (im.read site 4) 0

/-- The image with other bytes in one section. -/
def Image.patch (im : Image) (site : Nat) (new : List Byte) : Image :=
  im.map fun (x, bs) =>
    if x.voff ≤ site ∧ site + new.length ≤ x.voff + x.size then (x, splice bs (site - x.voff) new) else (x, bs)

/-- A page of the image; a byte outside the sections is zero (R456). -/
def Image.page (im : Image) (p : Nat) : List Byte :=
  im.foldl (fun pg (x, bs) =>
    let lo := max x.voff (65536 * p)
    let hi := min (x.voff + x.size) (65536 * (p + 1))
    if lo < hi then splice pg (lo - 65536 * p) ((bs.drop (lo - x.voff)).take (hi - lo)) else pg)
    (List.replicate 65536 0)

/-- The pages of the image, rising, with the flags of their sections. -/
def Image.pages (im : Image) : List (Nat × Nat) :=
  (sortNats (im.flatMap fun x => x.1.pages)).map fun p =>
    (p, match im.find? fun x => x.1.pages.contains p with
        | some x => x.1.flags
        | none => 0)

/-- The manifest entry of each code page of the image, in ascending order of pages (R161, R456, R463). -/
def Image.digests (im : Image) : List (Nat × List Byte) :=
  (im.pages.filter fun x => x.2.testBit 0).map fun x =>
    (x.1, leBytes 48 (Config.sha384 (im.page x.1)).toNat ++ List.replicate 16 0)

/-- Check 5 (R456): the manifest holds the digests of the code pages as the file holds them. -/
def Object.digested (o : Object) : Bool := o.manifest == o.image.digests.map (·.2)

/-! ### Symbols and layouts -/

/-- What the loader keeps for a context (R454, R465): its global names with their addresses, and its layouts. -/
structure LoadTable where
  names : List (List Byte × Word)
  layouts : List (Nat × List Byte)
  deriving DecidableEq, Repr

/-- What a symbol obeys by itself (R452). -/
def ObjSymbol.legal (x : ObjSymbol) (sections : Nat) : Bool :=
  x.clean && decide (x.kind ≤ 3) && decide (x.bind ≤ 1) && (x.kind != 2 || x.bind == 1 || x.imported) &&
    (if x.imported then x.value == 0 else decide (x.sec < sections))

/-- The address S of a symbol (R452); none for an import without a name in the table. -/
def Object.address (o : Object) (t : LoadTable) (base : Word) (x : ObjSymbol) : Option Word :=
  if x.imported then (t.names.find? fun y => y.1 == o.name x.name).map (·.2) else some (base + x.value)

/-- The global names that the object exports. -/
def Object.exports (o : Object) (base : Word) : List (List Byte × Word) :=
  (o.symbols.filter fun x => x.bind == 1 && !x.imported).map fun x => (o.name x.name, base + x.value)

/-- No name occurs twice. -/
def namesDiffer : List (List Byte) → Bool
  | [] => true
  | x :: l => !l.contains x && namesDiffer l

/-- The addresses of the symbols (R452, R465): every import is present, and no export is. -/
def Object.addresses (o : Object) (t : LoadTable) (base : Word) : Option (List Word) :=
  if o.symbols.all (·.legal o.sections.length) &&
      namesDiffer ((o.exports base).map (·.1) ++ t.names.map (·.1)) then
    o.symbols.mapM (o.address t base)
  else none

/-- The layout entry of a row at a base (R220, R454). -/
def layoutAt (base : Word) (r : List Byte) : Nat × List Byte :=
  let b := field64 r 20
  (field r 0 4, (r.drop 4).take 16 ++ leBytes 8 (if b = 0 then 0 else b + base).toNat ++ (r.drop 28).take 8)

/-- The layouts of an object and those already installed (R454): a number holds the same contents wherever it is
named. -/
def Object.layoutsAt (o : Object) (t : LoadTable) (base : Word) : Option (List (Nat × List Byte)) :=
  let new := o.layouts.map (layoutAt base)
  if new.all fun x => decide (x.1 < 16) && (new ++ t.layouts).all fun y => x.1 != y.1 || x.2 == y.2 then some new
  else none

end Sys2Proof.Machine
end

