-- ==== Sys2Proof/Machine/Load.lean ====
section
/-! DEFINITION. Relocations (R294, R459 to R463) and what a loader installs and removes (R464 to R466): the writes
of the host that bring a program into a context's memory. -/

namespace Sys2Proof.Machine

/-! ### Relocation values -/

/-- The split of a value at its twelve low bits (R294): the high part, which an imm20 field holds. -/
def hiPart (x : Word) : Int := ((x + 0x800).sshiftRight 12).toInt

/-- The low part of that split. -/
def loPart (x : Word) : Int := (x.extractLsb' 0 12).toInt

/-- A high value fits imm20 (R294, R460). -/
def hiFits (v : Int) : Bool := decide (-2 ^ 19 ≤ v) && decide (v ≤ 2 ^ 19 - 1)

/-- What a record's value rests on (R460): S, A, P, the address G of the symbol's entry in the global offset table, and
Q, the address of the paired record's site. -/
structure RelocBase where
  s : Word
  a : Word
  p : Word
  g : Option Word
  q : Option Word
  deriving DecidableEq, Repr

/-- The value of a record of a type (R460): none where it names no entry or pair that it needs. -/
def relocValue (type : Nat) (x : RelocBase) : Option Int :=
  match type, x.g, x.q with
  | 1, _, _ => some (x.s + x.a).toInt
  | 2, _, _ => some (hiPart (x.s + x.a))
  | 3, _, _ => some (loPart (x.s + x.a))
  | 4, _, _ => some (hiPart (x.s + x.a - x.p))
  | 5, _, some q => some (loPart (x.s + x.a - q))
  | 6, some g, _ => some (hiPart (g - x.p))
  | 7, some g, some q => some (loPart (g - q))
  | _, _, _ => none

/-- The type has a range, which its value must keep (R460). -/
def relocRanged (type : Nat) : Bool := type == 2 || type == 4 || type == 6

/-! ### Which sites are legal -/

/-- The record's word is `slui` (op 0) or `spcui` (op 1) (R461). -/
def isUpper (w : Code) (op : Nat) : Bool := slice (zext w) 31 28 == 3 && slice (zext w) 27 26 == op

/-- The record's word is an SI word with an offset or addend of twelve bits (R461). -/
def isShort (w : Code) : Bool :=
  slice (zext w) 31 30 == 0 && slice (zext w) 29 28 != 3 &&
    (let m := slice (zext w) 29 24
     m == 1 || m == 0x1F || (decide (0x18 ≤ m) && decide (m ≤ 0x1D)))

/-- The record's word begins a lane instruction with an offset in word 2 (R461). -/
def isLaneMem (w : Code) : Bool :=
  slice (zext w) 31 30 == 1 &&
    (let o := slice (zext w) 29 20
     decide (0x1C0 ≤ o) && decide (o ≤ 0x27F))

/-- The bytes that a record patches lie in one section, which is code or is not; the section and its bytes. -/
def Image.siteIn (im : Image) (site n : Nat) (code : Bool) : Bool :=
  match im.holder site n with
  | some (x, _) => x.code == code
  | none => false

/-- The record's site (R461). -/
def ObjReloc.siteOk (r : ObjReloc) (im : Image) : Bool :=
  let w := im.word r.site
  match r.type with
  | 1 => r.site % 8 == 0 && im.siteIn r.site 8 false
  | 2 => r.site % 4 == 0 && im.siteIn r.site 4 true && isUpper w 0
  | 3 | 5 | 7 =>
    r.site % 4 == 0 && im.siteIn r.site 4 true && (isShort w || (isLaneMem w && im.siteIn r.site 12 true))
  | 4 | 6 => r.site % 4 == 0 && im.siteIn r.site 4 true && isUpper w 1
  | _ => false

/-- The record that types 5 and 7 pair with (R461). -/
def ObjReloc.partner (r : ObjReloc) (rs : List ObjReloc) : Option ObjReloc :=
  if r.type = 5 ∨ r.type = 7 then
    match rs[r.pair]? with
    | some y => if y.type + 1 = r.type ∧ y.sym = r.sym ∧ y.addend = r.addend then some y else none
    | none => none
  else none

/-- The place of a symbol's entry in the global offset table, among its rows (R455). -/
def gotIndex : List Nat → Nat → Option Nat
  | [], _ => none
  | x :: l, i => if x = i then some 0 else (gotIndex l i).map (· + 1)

/-- A record is legal (R461). -/
def ObjReloc.legal (r : ObjReloc) (o : Object) : Bool :=
  r.clean && decide (r.sym < o.symbols.length) && r.siteOk o.image &&
    (if r.type = 5 ∨ r.type = 7 then (r.partner o.relocs).isSome else r.pair == 0) &&
    (!(r.type == 6 || r.type == 7) || (gotIndex o.got r.sym).isSome)

/-! ### Applying them -/

/-- The records of an object with what their values rest on: the list and the place of its global offset table. -/
structure RelocSet where
  relocs : List ObjReloc
  got : List Nat
  gotAt : Option Nat
  deriving DecidableEq, Repr

/-- The records of an object. -/
def Object.relocSet (o : Object) : RelocSet :=
  { relocs := o.relocs, got := o.got, gotAt := o.gotSection.map (·.voff) }

/-- What a record's value rests on at a base. -/
def ObjReloc.base (r : ObjReloc) (x : RelocSet) (base : Word) (addrs : List Word) : RelocBase :=
  { s := addrs.getD r.sym 0, a := r.addend, p := base + BitVec.ofNat 64 r.site
    g := match x.gotAt, gotIndex x.got r.sym with
         | some v, some i => some (base + BitVec.ofNat 64 (v + 8 * i))
         | _, _ => none
    q := (r.partner x.relocs).map fun y => base + BitVec.ofNat 64 y.site }

/-- The first pass of R462: a record's value, none when it overflows. -/
def ObjReloc.value (r : ObjReloc) (x : RelocSet) (base : Word) (addrs : List Word) : Option Int :=
  match relocValue r.type (r.base x base addrs) with
  | some v => if relocRanged r.type && !hiFits v then none else some v
  | none => none

/-- A word with some low bits replaced. -/
def lowBits (w : Code) (n : Nat) (v : Int) : Code :=
  BitVec.ofNat 32 (w.toNat / 2 ^ n * 2 ^ n + wrapNat n v)

/-- The second pass of R462: the value stands in the record's field. -/
def ObjReloc.write (r : ObjReloc) (v : Int) (im : Image) : Image :=
  let w := im.word r.site
  if r.type = 1 then im.patch r.site (leBytes 8 (wrapNat 64 v))
  else if relocRanged r.type then im.patch r.site (leBytes 4 (lowBits w 20 v).toNat)
  else if isShort w then im.patch r.site (leBytes 4 (lowBits w 12 v).toNat)
  else im.patch (r.site + 10) (leBytes 2 (wrapNat 16 v))

/-- An image with some of the records applied (R462): none when one overflows, and then nothing is written. -/
def Image.relocate (im : Image) (x : RelocSet) (rs : List ObjReloc) (base : Word) (addrs : List Word) : Option Image :=
  match rs.mapM fun r => (r.value x base addrs).map fun v => (r, v) with
  | some l => some (l.foldl (fun im y => y.1.write y.2 im) im)
  | none => none

/-- The image with every record applied. -/
def Object.relocated (o : Object) (base : Word) (addrs : List Word) : Option Image :=
  o.image.relocate o.relocSet o.relocs base addrs

/-- The global offset table holds the addresses of its symbols (R455). -/
def Object.fillGot (o : Object) (addrs : List Word) (im : Image) : Image :=
  match o.gotSection with
  | some x => im.patch x.voff (o.got.flatMap fun i => leBytes 8 (addrs.getD i 0).toNat)
  | none => im

/-- A kernel descriptor at a base (R78, R453): entry, a trap vector that is present, and the pushed lines move with
it. -/
def ObjKernel.descriptor (k : ObjKernel) (base : Word) : List Byte :=
  let move (off : Nat) (d : List Byte) : List Byte := splice d off (leBytes 8 (field64 d off + base).toNat)
  let d := move 0 k.template
  let d := if k.flags = 1 then move 8 d else d
  (upTo (min 4 (field k.template 36 1))).foldl (fun d i => move (40 + 8 * i) d) d

/-! ### Loading -/

/-- What a loader installs of an object (R464). -/
structure Loaded where
  image : Image
  manifest : List (Nat × List Byte)
  layouts : List (Nat × List Byte)
  kernels : List (List Byte × List Byte)
  exports : List (List Byte × Word)
  deriving DecidableEq, Repr

/-- Checks 1 to 5 of R458. -/
def Object.checked (o : Object) (base : Word) : Except Reject Unit :=
  if !o.contained then .error .container
  else if !o.signed then .error .signature
  else if o.header.mml ≠ 1 ∨ !(o.kernels.all fun k => field k.template 30 2 == o.header.mml) then .error .level
  else if !o.placed base then .error .sections
  else if !o.digested then .error .digest
  else .ok ()

/-- Checks 6 and 7 of R458, and what the object then comes to at the base (R453 to R455, R462, R463). -/
def Object.resolved (o : Object) (t : LoadTable) (base : Word) : Except Reject Loaded :=
  match o.addresses t base with
  | none => .error .symbols
  | some addrs =>
    match o.layoutsAt t base with
    | none => .error .layouts
    | some lays =>
      if !(o.relocs.all fun r => r.legal o) then .error .relocation
      else
        match o.relocated base addrs with
        | none => .error .overflow
        | some im =>
          let im := o.fillGot addrs im
          .ok { image := im, manifest := im.digests, layouts := lays
                kernels := o.kernels.map fun k => (o.name k.name, k.descriptor base), exports := o.exports base }

/-- A loader checks an object for a base and a context's table (R458). -/
def load (t : LoadTable) (base : Word) (f : List Byte) : Except Reject Loaded :=
  let o := objectOf f
  match o.checked base with
  | .error e => .error e
  | .ok _ => o.resolved t base

/-- The table of the context once the object is loaded (R454, R465). -/
def Loaded.table (l : Loaded) (t : LoadTable) : LoadTable :=
  { names := l.exports ++ t.names, layouts := l.layouts ++ t.layouts }

/-! ### Installing and removing -/

/-- Where a loader puts things, as physical addresses: the frame and the leaf of each page of the image, the manifest
and its free index for each code page, the layout table, and a place for each descriptor; the context's tag; and what
it finds of the manifest: lgcount of CTXMAN, and the indices in use. -/
structure Placement where
  frame : List (Nat × Nat)
  leaf : List (Nat × Nat)
  manifest : Nat
  slot : List (Nat × Nat)
  layouts : Nat
  descs : List Nat
  tag : BitVec 16
  lgcount : Nat
  taken : List Nat
  deriving DecidableEq, Repr

/-- What a page of the image has in a list. -/
def placeOf (l : List (Nat × Nat)) (p : Nat) : Option Nat := (l.find? fun x => x.1 == p).map (·.2)

/-- No number occurs twice. -/
def numbersDiffer : List Nat → Bool
  | [] => true
  | x :: l => !l.contains x && numbersDiffer l

/-- The placement is one that R147, R453 and R464 allow: each page has a frame of 64 KiB and an entry of 16 bytes; each code
page has an index of its own that is free and below 2^lgcount of CTXMAN; each kernel has a place for its descriptor that is
aligned to 64 bytes. -/
def Placement.legal (z : Placement) (l : Loaded) : Bool :=
  let slots := l.manifest.filterMap fun x => placeOf z.slot x.1
  l.image.pages.all (fun x =>
      (match placeOf z.frame x.1 with
       | some f => f % 65536 == 0
       | none => false) &&
      (match placeOf z.leaf x.1 with
       | some a => a % 16 == 0
       | none => false)) &&
    slots.length == l.manifest.length && numbersDiffer slots &&
    slots.all (fun i => decide (i < 2 ^ z.lgcount) && !z.taken.contains i) &&
    z.descs.length == l.kernels.length && z.descs.all (fun a => a % 64 == 0)

/-- The leaf of a page of the image (R147, R464 step 3). -/
def Placement.leafOf (z : Placement) (p flags : Nat) : List Byte :=
  let bit (i place : Nat) : Nat := if flags.testBit i then 2 ^ place else 0
  leBytes 8 (3 + bit 1 2 + bit 0 3 + bit 2 4 + 4 * 2 ^ 7 + lookupD z.frame p 0 / 65536 * 65536) ++
    leBytes 8 (z.tag.toNat + if flags.testBit 0 then lookupD z.slot p 0 * 2 ^ 16 else 0)

/-- The writes that install an object, in the order of R464; none where the placement is not legal. Each leaf is one write
of 16 bytes, so that no part of it is visible before the rest (R153). -/
def Loaded.writes (l : Loaded) (z : Placement) : Option (List (Nat × List Byte)) :=
  if z.legal l then
    some (
      (l.image.pages.map fun x => (lookupD z.frame x.1 0, l.image.page x.1)) ++
      (l.manifest.map fun x => (z.manifest + 64 * lookupD z.slot x.1 0, x.2)) ++
      (l.image.pages.map fun x => (lookupD z.leaf x.1 0, z.leafOf x.1 x.2)) ++
      (l.layouts.map fun x => (z.layouts + 32 * x.1, x.2)) ++
      (z.descs.zip l.kernels).map fun x => (x.1, x.2.2))
  else none

/-- Those writes as what a host does, one after the other (R191, R464). -/
noncomputable def installing (p : Port) (ws : List (Nat × List Byte)) : List Slot :=
  ws.map fun x => { dt := 0, agent := .event (.hostPostedWrite p (BitVec.ofNat 40 x.1) x.2 false) }

/-- Where a host stands that removes an object (R466). -/
inductive Removal where
  /-- Step 1: it reads the completion counters until each launch has completed. -/
  | acquiring
  /-- Step 2: it clears the leaves. -/
  | clearing
  /-- Step 3: it writes CTXINV. -/
  | invalidating
  /-- Step 3: it reads CTXINV until pend is 0. -/
  | waiting
  /-- The range and the frames may be used again. -/
  | removed
  deriving DecidableEq, Repr

/-- The completion counters of the launches hold the values of their completion (R466 step 1). -/
def State.launchesDone (s : State) (counters : List (Nat × Word)) : Bool :=
  counters.all fun x => decide (x.2 ≤ s.word x.1)

/-- What a host does next before an object's range is used again, and where it then stands (R466). A step is followed by
the next one when the state shows that it is over. -/
noncomputable def Removal.next (r : Removal) (p : Port) (c : BitVec 6) (counters : List (Nat × Word)) (z : Placement)
    (s : State) : List Slot × Removal :=
  match r with
  | .acquiring =>
    (counters.map fun x => { dt := 0, agent := .event (.hostBar4Read p (BitVec.ofNat 40 x.1) 8) },
      if s.launchesDone counters then .clearing else .acquiring)
  | .clearing =>
    (z.leaf.map fun x =>
        { dt := 0, agent := .event (.hostPostedWrite p (BitVec.ofNat 40 x.2) (List.replicate 16 0) false) },
      .invalidating)
  | .invalidating => ([{ dt := 0, agent := .event (.ctxinv p c (3 * 2 ^ 57)) }], .waiting)
  | .waiting =>
    ([{ dt := 0, agent := .hostRead p .bar2 (BitVec.ofNat 24 (blockOffset c 0x088)) }],
      if (s.ctx c).invPend then .waiting else .removed)
  | .removed => ([], .removed)

end Sys2Proof.Machine
end

