-- ==== Sys2Proof/Machine/Assemble.lean ====
section
/-! DEFINITION. What an assembler writes: clauses around instructions (R296, R297), strides (R288), relocation operators
and their records (R294, R459), descriptor templates from kernel directives (R295, R453), data, symbols, layouts and walk
programs (R295, R401, R452, R454), the global offset table (R455), sections at their places (R451), and an object. -/

namespace Sys2Proof.Machine

/-! ### What no line may come to -/

/-- The state in which the assembler looks at an instruction: a wave of 4 × 2^lgwave lanes, of a kernel with these
registers, has reached it as one gang inside a clause that sets both flags, with a value in the format register. -/
def asmState (regs lgwave : Nat) (fmt : BitVec 13) (i : Instr) : State :=
  let s := State.reset.placeCode (encode i)
  let q : Quad := { placeQuad ((encode i).headD 0) with fmt := fmt }
  { s.modTeam 0 fun t =>
      { t with
        kernel := { t.kernel with regs := regs, lgwave := lgwave }
        waves := t.waves.map fun w =>
          { w with gangs := w.gangs.map fun g => { g with lg := lgwave }, quads := List.replicate (2 ^ lgwave) q } }
    with cur := .gang 0 0 0 }

/-- The instruction raises an illegal-instruction or illegal-operand fault in that state. -/
def illegalIn (regs lgwave : Nat) (fmt : BitVec 13) (i : Instr) : Bool :=
  match exec i (asmState regs lgwave fmt i) with
  | .next t =>
    let c := slice (t.quad 0 0 0).trapinfo 59 54
    c == TrapCause.illegalInstr.code || c == TrapCause.illegalOperand.code
  | .fault _ => false
  | .refused _ => false

/-- The values of the format register that name a family (R383, R385), with each pair of types once. -/
def formats : List (BitVec 13) :=
  (upTo 32).flatMap fun a => (upTo 32).filterMap fun b =>
    let f := BitVec.ofNat 13 (a + 2 ^ 8 * b)
    if (familyOf f).isSome then some f else none

/-- The instruction raises an illegal-instruction or illegal-operand fault of R290 in a kernel with these registers
and lanes (R297). What `mma` and `mmas` meet depends on the format register, a run-time value: they are rejected when they
fault under each of its values. The fault of a return outside a handler is no matter of its encoding. -/
def illegalAt (regs lgwave : Nat) (i : Instr) : Bool :=
  match i with
  | .tret | .tretDecline => false
  | .mma _ _ _ | .mmas _ _ _ _ => formats.all fun f => illegalIn regs lgwave f i
  | i => illegalIn regs lgwave 0 i

/-! ### Strides -/

/-- The field of a stride (R288): the largest exponent for which the mantissa is an integer of magnitude at most 63; none
where there is none. -/
def strideField (x : Int) : Option (BitVec 10) :=
  if x = 0 then some 0
  else
    ((upTo 8).reverse.find? fun e => x.natAbs % 2 ^ e == 0 && decide (x.natAbs / 2 ^ e ≤ 63)).map fun e =>
      BitVec.ofNat 10 ((if x < 0 then 2 ^ 9 else 0) + 2 ^ 6 * e + x.natAbs / 2 ^ e)

/-- A level of a loop nest as it is written: its extent and the strides of operands D, X and Y. -/
def asmLevel (extent : BitVec 16) (d x y : Int) : Option Level :=
  match strideField d, strideField x, strideField y with
  | some d, some x, some y => some { extent := extent, d := d, x := x, y := y }
  | _, _, _ => none

/-! ### Relocation operators -/

/-- A relocation operator (R294). -/
inductive RelocOp where
  | hi | lo | pchi | pclo | gothi | gotlo
  deriving DecidableEq, Repr

/-- The type of the operator's record (R459, R460). -/
def RelocOp.type : RelocOp → Nat
  | .hi => 2 | .lo => 3 | .pchi => 4 | .pclo => 5 | .gothi => 6 | .gotlo => 7

/-- The operator that a low part pairs with (R294). -/
def RelocOp.partner : RelocOp → Option RelocOp
  | .pclo => some .pchi
  | .gotlo => some .gothi
  | .hi | .lo | .pchi | .gothi => none

/-- The operator names an entry of the global offset table (R455). -/
def RelocOp.usesGot : RelocOp → Bool
  | .gothi | .gotlo => true
  | .hi | .lo | .pchi | .pclo => false

/-- The first word of an instruction has the field of the operator (R294, R461). -/
def RelocOp.fits (o : RelocOp) (w : Code) : Bool :=
  match o with
  | .hi => isUpper w 0
  | .pchi | .gothi => isUpper w 1
  | .lo | .pclo | .gotlo => isShort w || isLaneMem w

/-! ### Clauses -/

/-- What stands in code: the start of a kernel with its registers and log2 of its quads, or of a function (640 and 4, which
any kernel may call), a label, a `.clause` with its fields, an instruction, a branch to a label, an instruction whose
immediate is a relocation operator of a symbol, an `.align`, the words of a walk program. -/
inductive AsmItem where
  | start (regs lgwave : Nat)
  | label (name : Nat)
  | clause (h : Header)
  | instr (i : Instr)
  | jump (i : Instr) (dest : Nat)
  | reloc (i : Instr) (op : RelocOp) (sym : Nat)
  | align (n : Nat)
  | walk (ws : List Code)
  deriving DecidableEq, Repr

/-- What is written before the places of labels are known; a clause begins at its mark. -/
inductive AsmWord where
  | opens
  | word (w : Code)
  | jump (i : Instr) (dest : Nat)
  | reloc (w : Code) (op : RelocOp) (sym : Nat)
  | here (name : Nat)
  | align (n : Nat)
  deriving DecidableEq, Repr

/-- The header that a clause has without a `.clause` (R296). -/
def implicitHeader : Header :=
  { wait := 0, setA := none, setB := none, length := 0, yield := false, msplit := false }

/-- A clause that is being framed: its fields, and its body so far. -/
structure AsmClause where
  header : Header
  body : List AsmWord
  deriving DecidableEq, Repr

/-- A clause without a `.clause` and without a word. -/
def AsmClause.fresh : AsmClause := { header := implicitHeader, body := [] }

/-- An instruction that is always a taken transfer (R296, R307). -/
def takenOnly (i : Instr) : Bool :=
  match i with
  | .b _ | .bcall _ | .bjr _ | .bcallr _ _ => true
  | _ => false

/-- A branch with an offset in words; `none` where it is no branch to a label, or the label lies beyond its reach
(R280, R297, R307). -/
def withOffset (i : Instr) (off : Int) : Option Instr :=
  let far : Bool := decide (-2 ^ 19 ≤ off) && decide (off < 2 ^ 19)
  let near : Bool := decide (-2 ^ 11 ≤ off) && decide (off < 2 ^ 11)
  match i with
  | .b _ => if far then some (.b (BitVec.ofInt 20 off)) else none
  | .bmz _ => if far then some (.bmz (BitVec.ofInt 20 off)) else none
  | .bmnz _ => if far then some (.bmnz (BitVec.ofInt 20 off)) else none
  | .bmall _ => if far then some (.bmall (BitVec.ofInt 20 off)) else none
  | .bmnall _ => if far then some (.bmnall (BitVec.ofInt 20 off)) else none
  | .bcall _ => if far then some (.bcall (BitVec.ofInt 20 off)) else none
  | .bz a _ => if near then some (.bz a (BitVec.ofInt 12 off)) else none
  | .bnz a _ => if near then some (.bnz a (BitVec.ofInt 12 off)) else none
  | _ => none

/-- The flag that the words of an instruction select is one that the header sets (R277, R297). -/
def flagSet (h : Header) (ws : List Code) : Bool :=
  let w := ws.getD 0 0
  if slice (zext w) 31 30 = 1 then
    match slice (zext (ws.getD 1 0)) 5 4 with
    | 0 => true
    | 1 => h.setA.isSome
    | 2 => h.setB.isSome
    | _ => false
  else true

/-- A clause with its length filled in (R296); one without a word has no header. -/
def AsmClause.words (c : AsmClause) : List AsmWord :=
  if c.body.isEmpty then []
  else .opens :: (encode (.clauseHeader { c.header with length := BitVec.ofNat 10 c.body.length })).map .word ++ c.body

/-- Words of one instruction go into the open clause, or begin the next (R296). The answer is what is written and the
open clause; none where the assembler may not write the instruction there (R297). -/
def AsmClause.take (c : AsmClause) (i : Instr) (body : List AsmWord) : Option (List AsmWord × AsmClause) :=
  let ws := encode i
  let full := decide (1023 < c.body.length + body.length)
  let d : AsmClause := if full then .fresh else c
  if !i.wf || ws.isEmpty || slice (zext (ws.getD 0 0)) 31 30 == 3 || !flagSet d.header ws then none
  else
    let e : AsmClause := { d with body := d.body ++ body }
    let out := if full then c.words else []
    if takenOnly i then some (out ++ e.words, .fresh) else some (out, e)

/-- Code from an open clause on (R296). A `.clause` with no word behind it yet keeps its fields over a label. -/
def frameFrom : List AsmItem → AsmClause → Option (List AsmWord)
  | [], c => some c.words
  | .start _ _ :: l, c => (frameFrom l .fresh).map (c.words ++ ·)
  | .label n :: l, c =>
    if c.body.isEmpty then (frameFrom l c).map (.here n :: ·)
    else (frameFrom l .fresh).map fun ws => c.words ++ .here n :: ws
  | .clause h :: l, c => (frameFrom l { header := h, body := [] }).map (c.words ++ ·)
  | .instr i :: l, c =>
    match c.take i ((encode i).map .word) with
    | some (out, d) => (frameFrom l d).map (out ++ ·)
    | none => none
  | .jump i dest :: l, c =>
    match c.take i [.jump i dest] with
    | some (out, d) => (frameFrom l d).map (out ++ ·)
    | none => none
  | .reloc i op sym :: l, c =>
    match encode i with
    | [] => none
    | w :: ws =>
      if op.fits w then
        match c.take i (.reloc w op sym :: ws.map .word) with
        | some (out, d) => (frameFrom l d).map (out ++ ·)
        | none => none
      else none
  | .align n :: l, c => (frameFrom l .fresh).map fun ws => c.words ++ .align n :: ws
  | .walk ws :: l, c => (frameFrom l .fresh).map fun more => c.words ++ ws.map .word ++ more

/-- A multiple of some number, not below another number. -/
def roundUpTo (n a : Nat) : Nat := (n + a - 1) / a * a

/-- The words that something takes at a word's place (R295). -/
def AsmWord.size (x : AsmWord) (at_ : Nat) : Nat :=
  match x with
  | .word _ | .jump _ _ | .reloc _ _ _ => 1
  | .opens | .here _ => 0
  | .align n => roundUpTo at_ (max 1 (n / 4)) - at_

/-- The place of a label. -/
def labelPlace (name : Nat) : List AsmWord → Nat → Option Nat
  | [], _ => none
  | x :: l, at_ => if x = .here name then some at_ else labelPlace name l (at_ + x.size at_)

/-- The words of framed code, its branches resolved (R280, R297). -/
def resolveFrom (all : List AsmWord) : List AsmWord → Nat → Option (List Code)
  | [], _ => some []
  | x :: l, at_ =>
    let mine : Option (List Code) :=
      match x with
      | .word w | .reloc w _ _ => some [w]
      | .opens | .here _ => some []
      | .align _ => some (List.replicate (x.size at_) 0)
      | .jump i dest =>
        match labelPlace dest all 0 with
        | none => none
        | some p => (withOffset i ((p : Int) - at_)).map encode
    match mine, resolveFrom all l (at_ + x.size at_) with
    | some ws, some rest => some (ws ++ rest)
    | _, _ => none

/-- The words of some code (R296). -/
def frameCode (l : List AsmItem) : Option (List Code) :=
  match frameFrom l .fresh with
  | some ws => resolveFrom ws ws 0
  | none => none

/-- A padding is a power of two, and stands between functions and kernels (R295). -/
def alignLegal (n : Nat) (l : List AsmItem) : Bool :=
  2 ^ lg n == n &&
    (match l with
     | [] | .start _ _ :: _ | .align _ :: _ | .walk _ :: _ => true
     | .label _ :: _ | .clause _ :: _ | .instr _ :: _ | .jump _ _ :: _ | .reloc _ _ _ :: _ => false)

/-- No line of code is one that R290 and R295 have the assembler reject (R297), from a place with these registers
and lanes on. -/
def codeLegal : List AsmItem → Nat → Nat → Bool
  | [], _, _ => true
  | .start regs lgwave :: l, _, _ => codeLegal l regs lgwave
  | .label _ :: l, regs, lgwave => codeLegal l regs lgwave
  | .clause h :: l, regs, lgwave => ({ h with length := 1 } : Header).wf && codeLegal l regs lgwave
  | .instr i :: l, regs, lgwave => !illegalAt regs lgwave i && codeLegal l regs lgwave
  | .jump i _ :: l, regs, lgwave => !illegalAt regs lgwave i && codeLegal l regs lgwave
  | .reloc i _ _ :: l, regs, lgwave => !illegalAt regs lgwave i && codeLegal l regs lgwave
  | .align n :: l, regs, lgwave => alignLegal n l && codeLegal l regs lgwave
  | .walk _ :: l, regs, lgwave => codeLegal l regs lgwave

/-- What the assembler writes for code; none where it rejects a line (R296, R297). -/
def assemble (l : List AsmItem) : Option (List Code) := if codeLegal l 640 4 then frameCode l else none

/-! ### Uses of relocation operators -/

/-- A use of a relocation operator: the place of its word in the code, its operator and symbol, and for a low part the
place of the `spcui` that it pairs with. -/
structure AsmUse where
  site : Nat
  op : RelocOp
  sym : Nat
  pair : Option Nat
  deriving DecidableEq, Repr

/-- The uses in framed code from a word on, with the uses of the clause so far, the nearest first: a low part pairs with
the nearest preceding `spcui` of its clause that carries its operator of the same symbol; none where there is none
(R294). -/
def usesFrom : List AsmWord → Nat → List AsmUse → Option (List AsmUse)
  | [], _, _ => some []
  | .opens :: l, at_, _ => usesFrom l at_ []
  | .reloc _ op sym :: l, at_, seen =>
    let use (pair : Option Nat) : Option (List AsmUse) :=
      let u : AsmUse := { site := 4 * at_, op := op, sym := sym, pair := pair }
      (usesFrom l (at_ + 1) (u :: seen)).map (u :: ·)
    match op.partner with
    | none => use none
    | some p =>
      match seen.find? fun u => u.op == p && u.sym == sym with
      | some u => use (some u.site)
      | none => none
  | x :: l, at_, seen => usesFrom l (at_ + x.size at_) seen

/-- The uses of relocation operators in some code. -/
def codeUses (l : List AsmItem) : Option (List AsmUse) := (frameFrom l .fresh).bind fun ws => usesFrom ws 0 []

/-- The record of a use (R459), in a table that begins with the records of all the uses of the code. -/
def AsmUse.record (u : AsmUse) (us : List AsmUse) : ObjReloc :=
  { site := u.site, sym := u.sym, type := u.op.type, addend := 0, clean := true
    pair := match u.pair with
      | some p => us.findIdx fun x => x.site == p
      | none => 0 }

/-- The list of the global offset table (R455): each symbol that `%gothi` or `%gotlo` names, in order of first use. -/
def gotList (us : List AsmUse) : List Nat :=
  us.foldl (fun l u => if u.op.usesGot && !l.contains u.sym then l ++ [u.sym] else l) []

/-- A relocation record's row (R459). -/
def ObjReloc.row (r : ObjReloc) : List Byte :=
  leBytes 8 r.site ++ leBytes 4 r.sym ++ leBytes 2 r.type ++ leBytes 2 0 ++ leBytes 4 r.pair ++ leBytes 4 0 ++
    leBytes 8 r.addend.toNat

/-- The words of a `.walkprog` (R295, R401): walk code has no clause headers and at most 256 words. -/
noncomputable def walkProgram (l : List Instr) : Option (List Code) :=
  let ws := l.flatMap encode
  if l.all (fun i => match encode i with
      | [w] => (match decodeWalk w with
        | .ok j => decide (j = i)
        | .error _ => false)
      | _ => false) && decide (ws.length ≤ 256) then some ws else none

/-! ### Data and symbols -/

/-- A line of data (R295): `.byte`, `.half`, `.word` or `.dword` with values, a `.dword` whose expression is a symbol and an
addend, or `.align`. -/
inductive AsmDatum where
  | byte (l : List Word)
  | half (l : List Word)
  | word (l : List Word)
  | dword (l : List Word)
  | symbol (sym : Nat) (addend : Word)
  | align (n : Nat)
  deriving DecidableEq, Repr

/-- A padding is a power of two (R295). -/
def AsmDatum.legal : AsmDatum → Bool
  | .align n => 2 ^ lg n == n
  | .byte _ | .half _ | .word _ | .dword _ | .symbol _ _ => true

/-- The bytes of a line of data at a place; those of a symbol stand once its record is applied. -/
def AsmDatum.bytes (d : AsmDatum) (at_ : Nat) : List Byte :=
  match d with
  | .byte l => l.flatMap fun x => leBytes 1 x.toNat
  | .half l => l.flatMap fun x => leBytes 2 x.toNat
  | .word l => l.flatMap fun x => leBytes 4 x.toNat
  | .dword l => l.flatMap fun x => leBytes 8 x.toNat
  | .symbol _ _ => leBytes 8 0
  | .align n => List.replicate (roundUpTo at_ n - at_) 0

/-- The bytes of a section of data from a place on (R295). -/
def dataFrom : List AsmDatum → Nat → List Byte
  | [], _ => []
  | d :: l, at_ => d.bytes at_ ++ dataFrom l (at_ + (d.bytes at_).length)

/-- The bytes of a section of data; none where it pads to no power of two. -/
def dataBytes (l : List AsmDatum) : Option (List Byte) := if l.all (·.legal) then some (dataFrom l 0) else none

/-- The records of a section of data that lies at an offset, from a place on (R459). -/
def dataRecords (voff : Nat) : List AsmDatum → Nat → List ObjReloc
  | [], _ => []
  | d :: l, at_ =>
    let rest := dataRecords voff l (at_ + (d.bytes at_).length)
    match d with
    | .symbol sym addend =>
      { site := voff + at_, sym := sym, type := 1, pair := 0, addend := addend, clean := true } :: rest
    | .byte _ | .half _ | .word _ | .dword _ | .align _ => rest

/-- The alignment of a section of data: the largest of its paddings, at least 4 (R450, R451; notes/assumptions/88.md). -/
def dataAlign (l : List AsmDatum) : Nat :=
  l.foldl (fun m d =>
    match d with
    | .align n => max m n
    | .symbol _ _ => max m 8
    | .byte _ | .half _ | .word _ | .dword _ => m) 4

/-- A line that concerns a symbol (R295, R452): a definition with its section, value and kind, `.global`, the import directive, or
`.const`. Names are string offsets. -/
inductive AsmSymbol where
  | place (name sec : Nat) (value : Word) (kind : Nat)
  | global (name : Nat)
  | imported (name : Nat)
  | const (name : Nat) (value : Word)
  deriving DecidableEq, Repr

/-- The symbol that a line puts into the table (R452): a kernel and what `.global` names are global, what the import directive
names is imported, and a constant occupies nothing. -/
def AsmSymbol.row (l : List AsmSymbol) (x : AsmSymbol) : Option ObjSymbol :=
  match x with
  | .place name sec value kind =>
    some { name := name, sec := sec, value := value, kind := kind
           bind := if kind == 2 || l.contains (.global name) then 1 else 0, clean := true }
  | .imported name => some { name := name, sec := 0xFFFFFFFF, value := 0, kind := 0, bind := 1, clean := true }
  | .global _ => none
  | .const _ _ => none

/-- The symbols of an object (R295, R452). -/
def symbolTable (l : List AsmSymbol) : List ObjSymbol := l.filterMap (AsmSymbol.row l)

/-- The value of a `.const` in the lines after it (R295). -/
def constValue (l : List AsmSymbol) (name : Nat) : Option Word :=
  l.findSome? fun x =>
    match x with
    | .const n v => if n = name then some v else none
    | .place _ _ _ _ | .global _ | .imported _ => none

/-- The 32 bytes of a layout entry (R220). -/
def Layout.entry (x : Layout) : List Byte :=
  [x.nodesz, x.maxkids, x.kindoff, x.cpoff, x.cpenc, x.boxoff, x.boxenc, x.leafoff, x.leafenc].flatMap (leBytes 1) ++
    leBytes 7 0 ++ leBytes 8 x.base.toNat ++ leBytes 8 0

/-- `.layout` (R295, R454): the layout's number and its entry; none where they break a limit. -/
def layoutRow (n : Nat) (x : Layout) : Option (List Byte) :=
  if n < 16 ∧ layoutOf x.entry = some x then some (leBytes 4 n ++ x.entry) else none

/-! ### Kernel directives -/

/-- The arguments of `.kernel` and the directives of one kernel (R295): offsets from the base for addresses. -/
structure KernelDirs where
  entry : Word
  regs : Option Nat
  lanes : Option Nat
  waves : Nat
  pair : Bool
  scratch : Nat
  residual : Nat
  offset : Option Nat
  fusetmo : Nat
  fusetrap : Bool
  walkdepth : Nat
  wdog : BitVec 32
  walkpay : Nat
  seed : Word
  trap : Option Word
  push : List Word
  msplit : Bool
  deriving DecidableEq, Repr

/-- A kernel that names only its registers and lanes. -/
def KernelDirs.plain (entry : Word) (regs lanes : Nat) : KernelDirs :=
  { entry := entry, regs := some regs, lanes := some lanes, waves := 1, pair := false, scratch := 0, residual := 0
    offset := none, fusetmo := 0, fusetrap := false, walkdepth := 0, wdog := 0, walkpay := 0, seed := 0, trap := none
    push := [], msplit := false }

/-- Bytes of scratchpad for each unit of scr (R295). -/
def KernelDirs.unit (k : KernelDirs) : Nat := if k.pair then 65536 else 32768

/-- The shape word of the directives (R79, R295). -/
def KernelDirs.shape (k : KernelDirs) : Nat :=
  let flag (b : Bool) (i : Nat) : Nat := if b then 2 ^ i else 0
  lg (k.lanes.getD 4 / 4) + 2 ^ 3 * (k.regs.getD 0 / 8) + 2 ^ 10 * k.waves + flag k.pair 16 +
    2 ^ 17 * (k.scratch / k.unit) + (if k.residual = 0 then 0 else 2 ^ 21 * lg k.residual) + 2 ^ 25 * k.walkdepth +
    flag k.msplit 29 + flag k.fusetrap 30

/-- The directives keep the ranges of R295; a kernel without `.regs` or `.wave` is rejected. -/
def KernelDirs.legal (k : KernelDirs) : Bool :=
  (match k.regs with
   | some n => n % 8 == 0 && decide (8 ≤ n) && decide (n ≤ 640)
   | none => false) &&
  (match k.lanes with
   | some n => n == 4 || n == 8 || n == 16 || n == 32 || n == 64
   | none => false) &&
  decide (1 ≤ k.waves) && decide (k.waves ≤ 32) && k.scratch % k.unit == 0 && decide (k.scratch / k.unit ≤ 14) &&
    (k.residual == 0 || (decide (16 ≤ k.residual) && decide (k.residual ≤ 1024) && 2 ^ lg k.residual == k.residual)) &&
    (k.fusetmo == 0 || (decide (64 ≤ k.fusetmo) && decide (k.fusetmo ≤ 65536))) && decide (k.walkdepth ≤ 8) &&
    k.walkpay % 16 == 0 && decide (k.walkpay ≤ 1024) && decide (k.push.length ≤ 4)

/-- The descriptor template of the directives (R78, R295, R453): a pushed line is the line of 128 bytes that holds what
it names, and a residual tile without an offset ends the scratchpad. -/
def KernelDirs.template (k : KernelDirs) (mml : Nat) : Option (List Byte) :=
  if !k.legal then none
  else
    let tile := if k.residual = 0 then 0 else k.offset.getD (k.scratch - 32 * k.residual)
    let lines := (upTo 4).flatMap fun i => leBytes 8 (((k.push.getD i 0).toNat / 128) * 128)
    some (leBytes 8 k.entry.toNat ++ leBytes 8 (k.trap.getD 0).toNat ++ leBytes 4 k.shape ++ leBytes 4 k.fusetmo ++
      leBytes 4 k.wdog.toNat ++ leBytes 2 k.walkpay ++ leBytes 2 mml ++ leBytes 4 tile ++ leBytes 1 k.push.length ++
      leBytes 3 0 ++ lines ++ leBytes 8 k.seed.toNat ++ leBytes 48 0)

/-- The kernel table's entry for a kernel (R453): bit 0 of its flags says that `trap=` names a trap vector. -/
def KernelDirs.row (k : KernelDirs) (name mml : Nat) : Option (List Byte) :=
  (k.template mml).map fun d => leBytes 4 name ++ leBytes 4 (if k.trap.isSome then 1 else 0) ++ leBytes 24 0 ++ d

/-! ### Sections -/

/-- The sections of an object (R451). -/
inductive SecName where
  | text | got | rodata | data | ctrdata | bss
  deriving DecidableEq, Repr

/-- The sections in their order (R451). -/
def SecName.order : List SecName := [.text, .got, .rodata, .data, .ctrdata, .bss]

/-- The name of a section in ASCII. -/
def SecName.ascii : SecName → List Byte
  | .text => [0x74, 0x65, 0x78, 0x74]
  | .got => gotName
  | .rodata => [0x72, 0x6F, 0x64, 0x61, 0x74, 0x61]
  | .data => [0x64, 0x61, 0x74, 0x61]
  | .ctrdata => [0x63, 0x74, 0x72, 0x64, 0x61, 0x74, 0x61]
  | .bss => [0x62, 0x73, 0x73]

/-- The flags that follow from a section's name (R450, R451): code 1, w 2, ctr 4, nobits 8. -/
def SecName.flags : SecName → Nat
  | .text => 1
  | .got | .rodata => 0
  | .data => 2
  | .ctrdata => 6
  | .bss => 10

/-- The section that a `.section` selects (R451): one of another name, or got, is rejected. -/
def selectSection (name : List Byte) : Option SecName :=
  SecName.order.find? fun x => x != .got && x.ascii == name

/-- The places of sections from an offset on (R451), each given by its flags, alignment and size: a section of other flags than the one before begins a page, and one without contents is
left out. The answer has for each section its offset, and the end of the last. -/
def placeSections : List (Nat × Nat × Nat) → Option Nat → Nat → List (Option Nat) × Nat
  | [], _, at_ => ([], at_)
  | (flags, align, size) :: l, before, at_ =>
    if size = 0 then
      match placeSections l before at_ with
      | (ps, e) => (none :: ps, e)
    else
      let fresh : Bool := match before with
        | some f => f != flags
        | none => true
      let off := roundUpTo at_ (if fresh then 65536 else align)
      match placeSections l (some flags) (off + size) with
      | (ps, e) => (some off :: ps, e)

/-- The places of an object's sections in their order, and imagesz (R448, R451), from the alignment and size of each. -/
def layOut (size : SecName → Nat × Nat) : List (Option Nat) × Nat :=
  placeSections (SecName.order.map fun x => (x.flags, (size x).1, (size x).2)) none 0

/-! ### An object -/

/-- What an assembler is given for an object: the code, the data of each section, the bytes of bss with their alignment, the
symbols and the preferred base. A symbol's value is its offset in its section. -/
structure AsmSource where
  code : List AsmItem
  rodata : List AsmDatum
  data : List AsmDatum
  ctrdata : List AsmDatum
  bss : Nat × Nat
  symbols : List (Option SecName × ObjSymbol)
  prefbase : Word
  deriving DecidableEq, Repr

/-- What the file of an object holds of a source: the image at the preferred base, imagesz, the symbols, the records, the
list of the global offset table, and the manifest. -/
structure AsmObject where
  image : Image
  imagesz : Nat
  symbols : List ObjSymbol
  relocs : List ObjReloc
  got : List Nat
  manifest : List (List Byte)
  deriving DecidableEq, Repr

/-- The bytes of a section of a source, with its alignment; got has an alignment of 8 (notes/assumptions/88.md). -/
def AsmSource.contents (a : AsmSource) (words : List Code) (got : List Nat) (x : SecName) : Option (Nat × List Byte) :=
  let lines (l : List AsmDatum) : Option (Nat × List Byte) := (dataBytes l).map fun bs => (dataAlign l, bs)
  match x with
  | .text => some (65536, words.flatMap fun w => leBytes 4 w.toNat)
  | .got => some (8, List.replicate (8 * got.length) 0)
  | .rodata => lines a.rodata
  | .data => lines a.data
  | .ctrdata => lines a.ctrdata
  | .bss => some (max 4 a.bss.1, List.replicate a.bss.2 0)

/-- The records of a source (R459): those of its code, then those of its data by sections, which lie at these places. -/
def AsmSource.records (a : AsmSource) (us : List AsmUse) (at_ : SecName → Nat) : List ObjReloc :=
  us.map (fun u => u.record us) ++ dataRecords (at_ .rodata) a.rodata 0 ++ dataRecords (at_ .data) a.data 0 ++
    dataRecords (at_ .ctrdata) a.ctrdata 0

/-- The image and the tables of an object (R294, R297, R450 to R452, R455, R456, R459): the records that this object decides
are applied for the preferred base, and one that overflows rejects the source; what rests on an imported symbol stays zero
until a loader resolves it (notes/assumptions/88.md). -/
def AsmSource.assemble (a : AsmSource) : Option AsmObject :=
  match Sys2Proof.Machine.assemble a.code, codeUses a.code with
  | some words, some us =>
    let got := gotList us
    match SecName.order.mapM (a.contents words got) with
    | none => none
    | some parts =>
      let size (x : SecName) : Nat × Nat :=
        let y := parts.getD (SecName.order.findIdx fun z => z == x) (4, [])
        (y.1, y.2.length)
      let (places, imagesz) := layOut size
      let at_ (x : SecName) : Nat := (places.getD (SecName.order.findIdx fun z => z == x) none).getD 0
      let kept : Image := ((SecName.order.zip (parts.zip places)).filterMap fun (x, y, p) =>
        p.map fun v =>
          ({ name := 0, flags := x.flags, voff := v, size := y.2.length, foff := 0, align := y.1, clean := true }, y.2))
      let syms := a.symbols.map fun (x, y) =>
        match x with
        | some n => { y with value := BitVec.ofNat 64 (at_ n) + y.value }
        | none => y
      let set : RelocSet :=
        { relocs := a.records us at_, got := got, gotAt := if got.isEmpty then none else some (at_ .got) }
      let decided := set.relocs.filter fun r =>
        r.type == 6 || r.type == 7 || !((syms.getD r.sym { name := 0, sec := 0, value := 0, kind := 0, bind := 0
                                                           clean := true }).imported)
      (kept.relocate set decided a.prefbase (syms.map fun y => a.prefbase + y.value)).map fun im =>
        { image := im, imagesz := imagesz, symbols := syms, relocs := set.relocs, got := got
          manifest := im.digests.map (·.2) }
  | _, _ => none

end Sys2Proof.Machine
end

