-- ==== Sys2Proof/Tests/Slice0.lean ====
section
/-! SUPPORT. Tests: words of every instruction decode, ill-formed terms are refused, worked examples of the spec,
and for every statement with hypotheses a concrete state and operands that meet them. -/

namespace Sys2Proof.Tests

open Sys2Proof Sys2Proof.Machine


/-! ### Words of every instruction, written out from the tables of 12 to 16 -/

/-- The register fields, guard, negation, flag selection and minimum width of words 0 and 1 (R281). -/
def op (vd va vb vc : BitVec 10) (guard : BitVec 5 := 31) (neg : Bool := false) (flag : FlagSel := .none)
    (minw : BitVec 3 := 0) : LaneOp :=
  { vd := vd, va := va, vb := vb, vc := vc, guard := guard, neg := neg, flag := flag, minw := minw }

/-- The modifier word (R285). -/
def md (ty : ElemTy) (rnd : Rnd := .rne) (sat ftz : Bool := false) : Mods :=
  { ty := ty, rnd := rnd, sat := sat, ftz := ftz }

/-- Word 2 of a memory form (R358). -/
def mm (off : BitVec 16) (flat : Bool) (ord : MemOrd) (yield : Bool) (scale : BitVec 2) : MemMods :=
  { off := off, flat := flat, ord := ord, yield := yield, scale := scale }

/-- A level of a nest: its extent and the strides of D, X and Y (R287). -/
def lv (extent : BitVec 16) (d x y : BitVec 10) : Level := { extent := extent, d := d, x := x, y := y }

/-- A nest of two levels on queue 5, s10 to s14, f32, towards zero. -/
def nest (a b : Level) : Nest :=
  { sn := 10, l0 := a, l1 := b, l2 := lv 0 0 0 0, l3 := lv 0 0 0 0, l4 := lv 0 0 0 0, queue := 5, ty := .f32
    rnd := .rz }

/-- Scalar words (R279, R299 to R312, R355 to R376, R384, R391, R408). -/
def scalarWords0 : List (Code × Instr) :=
  [ (0x00151A80, .sadd 5 17 42),
    (0x00151A81, .ssub 5 17 42),
    (0x00151A82, .smul 5 17 42),
    (0x00151A83, .smulhI64 5 17 42),
    (0x00151A84, .smulhN64 5 17 42),
    (0x00151A85, .sand 5 17 42),
    (0x00151A86, .sor 5 17 42),
    (0x00151A87, .sxor 5 17 42),
    (0x00151A88, .sshl 5 17 42),
    (0x00151A89, .sshrN64 5 17 42),
    (0x00151A8A, .sshrI64 5 17 42),
    (0x00151A8B, .sminI64 5 17 42),
    (0x00151A8C, .sminN64 5 17 42),
    (0x00151A8D, .smaxI64 5 17 42),
    (0x00151A8E, .smaxN64 5 17 42),
    (0x00151A8F, .sdivI64 5 17 42),
    (0x00151A90, .sdivN64 5 17 42),
    (0x00151A91, .sremI64 5 17 42),
    (0x00151A92, .sremN64 5 17 42),
    (0x00151013, .spopc 5 17),
    (0x00151014, .sclz 5 17),
    (0x00151015, .sctz 5 17),
    (0x01151FF9, .saddi 5 17 0xFF9),
    (0x02151FF9, .sandi 5 17 0xFF9),
    (0x03151FF9, .sori 5 17 0xFF9),
    (0x04151FF9, .sxori 5 17 0xFF9),
    (0x0515102B, .sshli 5 17 43),
    (0x0615102B, .sshriN64 5 17 43),
    (0x0615106B, .sshriI64 5 17 43),
    (0x07151A80, .scmpEq 5 17 42),
    (0x07151A81, .scmpNe 5 17 42),
    (0x07151A82, .scmpI64Lt 5 17 42),
    (0x07151A83, .scmpI64Ge 5 17 42),
    (0x07151A84, .scmpN64Lt 5 17 42),
    (0x07151A85, .scmpN64Ge 5 17 42),
    (0x08151AA1, .ssel 5 17 42 33),
    (0x09140FF9, .sli 5 0xFF9),
    (0x3059ABCD, .slui 5 0x9ABCD),
    (0x3459ABCD, .spcui 5 0x9ABCD),
    (0x0A14000B, .sgetr 5 11),
    (0x0A140AC8, .sgetrQpc 5 43),
    (0x0B00500B, .ssetr 5 11),
    (0x1009ABCD, .b 0x9ABCD),
    (0x1019ABCD, .bmz 0x9ABCD),
    (0x1029ABCD, .bmnz 0x9ABCD),
    (0x1039ABCD, .bmall 0x9ABCD),
    (0x1049ABCD, .bmnall 0x9ABCD),
    (0x1109ABCD, .bcall 0x9ABCD),
    (0x12005000, .bjr 5),
    (0x12151001, .bcallr 5 17),
    (0x13005FF9, .bz 5 0xFF9),
    (0x14005FF9, .bnz 5 0xFF9) ]

/-- Scalar words (R279, R299 to R312, R355 to R376, R384, R391, R408). -/
def scalarWords1 : List (Code × Instr) :=
  [ (0x15000000, .snop),
    (0x15000001, .snopProgress),
    (0x15000002, .exit),
    (0x2C000FF9, .trap 0xFF9),
    (0x2D000000, .tret),
    (0x2D000001, .tretDecline),
    (0x18151FF9, .sldN64 5 17 0xFF9),
    (0x19151FF9, .sldN32 5 17 0xFF9),
    (0x1A151FF9, .sldI32 5 17 0xFF9),
    (0x1B151FF9, .sstN64 5 17 0xFF9),
    (0x1C151FF9, .sstN32 5 17 0xFF9),
    (0x1D151FF9, .sldN64Yield 5 17 0xFF9),
    (0x1E151AA0, .satomAdd 5 17 42 .acq),
    (0x1E151AA1, .satomSwap 5 17 42 .acq),
    (0x1E151AA2, .satomAnd 5 17 42 .acq),
    (0x1E151AA3, .satomOr 5 17 42 .acq),
    (0x1E151AA4, .satomXor 5 17 42 .acq),
    (0x1E151AA5, .satomMinI64 5 17 42 .acq),
    (0x1E151AA6, .satomMinN64 5 17 42 .acq),
    (0x1E151AA7, .satomMaxI64 5 17 42 .acq),
    (0x1E151AA8, .satomMaxN64 5 17 42 .acq),
    (0x1E151AA9, .satomCas 5 17 42 .acq),
    (0x1F005FF9, .dzero 5 0xFF9),
    (0x1F045FF9, .spfL2 5 0xFF9),
    (0x1F085FF9, .spfL1 5 0xFF9),
    (0x20005440, .cadd 5 17),
    (0x20005441, .caddRel 5 17),
    (0x210000A7, .qfence 0xA7),
    (0x22151000, .cget 5 17),
    (0x22151001, .cgetAcq 5 17),
    (0x22140002, .cgetTeam 5),
    (0x23005681, .cwait 5 26 true),
    (0x23151683, .cwaitSt 5 17 26 true),
    (0x24000000, .bar),
    (0x24000001, .fenceRel),
    (0x24000002, .fenceAcq),
    (0x24000003, .fenceAr),
    (0x24000004, .ifence),
    (0x25151000, .kset 5 17),
    (0x25140001, .kfill 5),
    (0x25140002, .kfree 5),
    (0x26005680, .kwaitFree 5 26),
    (0x26005681, .kwaitFull 5 26),
    (0x26151682, .kwaitFreeSt 5 17 26),
    (0x26151683, .kwaitFullSt 5 17 26),
    (0x27005005, .cpy 5 5),
    (0x2700544D, .qwait 5 17 5),
    (0x27005455, .qadd 5 17 5),
    (0x280001AC, .sfmt 12 13),
    (0x29000000, .mrel),
    (0x2A005000, .sstampOpen 5),
    (0x2A000001, .sstampClose) ]

/-- Walk code (R401, R402). -/
noncomputable def walkWords : List (Code × Instr) :=
  [ (0x00000000, .walkDone),
    (0x04300000, .walkFetch 3),
    (0x098006A7, .walkFld 3 true 2 0xA7),
    (0x0DE00000, .walkChild 3 6),
    (0x11E00000, .walkBox4 3 6),
    (0x15E20000, .walkTri 3 6 1),
    (0x183C0000, .walkCommit 3 6),
    (0x1DE00005, .walkEdge3 3 6 5),
    (0x20300012, .walkEmitRing 3 9),
    (0x20300001, .walkEmitVis 3),
    (0x24300000, .walkPush 3),
    (0x29800000, .walkPop 3),
    (0x2DE20000, .walkAdd 3 6 1),
    (0x31E1ABCD, .walkAddi 3 6 0x1ABCD),
    (0x35E20000, .walkSub 3 6 1),
    (0x39E20000, .walkAnd 3 6 1),
    (0x3DE0002B, .walkShl 3 6 43),
    (0x3DE0006B, .walkShr 3 6 43),
    (0x41E20004, .walkCmp 3 6 1 .ltI),
    (0x4581ABCD, .walkMovi 3 0x1ABCD),
    (0x480000A7, .walkJmp 0xA7),
    (0x4C3000A7, .walkJz 3 0xA7),
    (0x503000A7, .walkJnz 3 0xA7),
    (0x54000000, .walkYield) ]

/-- Integer lane words (R281, R285, R325 to R330). -/
def integerWords : List (List Code × Instr) :=
  [ ([0x40003004, 0x01C00F80, 0x00000102], .vaddInt (op 12 4 7 0) (md .i32 .rne true false)),
    ([0x40103004, 0x01C00F80, 0x00000007], .vsubInt (op 12 4 7 0) (md .n64)),
    ([0x40203004, 0x01C00F80, 0x00000003], .vmulInt (op 12 4 7 0) (md .i64)),
    ([0x40303004, 0x01C00F80, 0x00000006], .vmulh (op 12 4 7 0) (md .n32)),
    ([0x40403004, 0x01C091C0, 0x00000002], .vmad (op 12 4 7 9 3 true .none 0) (md .i32)),
    ([0x40503004, 0x01C00F80, 0x00000006], .vminInt (op 12 4 7 0) (md .n32)),
    ([0x40603004, 0x01C00F80, 0x00000002], .vmaxInt (op 12 4 7 0) (md .i32)),
    ([0x40703004, 0x00000F80, 0x00000103], .vabsInt (op 12 4 0 0) (md .i64 .rne true false)),
    ([0x40803004, 0x01C00F80, 0x00000006], .vand (op 12 4 7 0) (md .n32)),
    ([0x40903004, 0x01C00F80, 0x00000007], .vor (op 12 4 7 0) (md .n64)),
    ([0x40A03004, 0x01C00F80, 0x00000002], .vxor (op 12 4 7 0) (md .i32)),
    ([0x40B03004, 0x00000F80, 0x00000002], .vnot (op 12 4 0 0) (md .i32)),
    ([0x40C03004, 0x00000F80, 0x00015402], .vshl (op 12 4 0 0) (md .i32) (.imm 21)),
    ([0x40D03004, 0x01C00F80, 0x00000003], .vshr (op 12 4 7 0) (md .i64) .reg),
    ([0x40E03004, 0x00000F80, 0x00038C00], .vrshr (op 12 4 0 0) (md .i8) true (.imm 35)),
    ([0x40F03004, 0x00000F80, 0x00000007], .vpopc (op 12 4 0 0) (md .n64)),
    ([0x41003004, 0x00000F80, 0x00000006], .vclz (op 12 4 0 0) (md .n32)),
    ([0x41103004, 0x00000F80, 0x0003CC02], .vbfe (op 12 4 0 0) (md .i32) 19 7),
    ([0x41203004, 0x01C00F80, 0x00000C06], .vcmpInt (op 12 4 7 0) (md .n32) .le),
    ([0x41303004, 0x01C09F80, 0x0000000B], .vsel (op 12 4 7 9) (md .f64)),
    ([0x41403004, 0x01C09F80, 0x00000104], .vdot4 (op 12 4 7 9) (md .n8 .rne true false)),
    ([0x44003004, 0x00000F80, 0x89ABCDEF], .vaddIntImm (op 12 4 0 0) 0x89ABCDEF),
    ([0x44103004, 0x00000F80, 0x89ABCDEF], .vmulIntImm (op 12 4 0 0) 0x89ABCDEF),
    ([0x44203004, 0x00000F80, 0x89ABCDEF], .vandImm (op 12 4 0 0) 0x89ABCDEF),
    ([0x44303004, 0x00000F80, 0x89ABCDEF], .vorImm (op 12 4 0 0) 0x89ABCDEF),
    ([0x44403004, 0x00000F80, 0x89ABCDEF], .vxorImm (op 12 4 0 0) 0x89ABCDEF),
    ([0x44503004, 0x0000DF80, 0x89ABCDEF], .vcmpIntImm (op 12 4 0 0) .ge true 0x89ABCDEF),
    ([0x44603000, 0x00000F80, 0x89ABCDEF], .vmovImm (op 12 0 0 0) 0x89ABCDEF) ]

/-- Float lane words (R331 to R338). -/
def floatWords : List (List Code × Instr) :=
  [ ([0x48003004, 0x01C00F80, 0x000000AB], .vaddFp (op 12 4 7 0) (md .f64 .rs false false)),
    ([0x48103004, 0x01C00F80, 0x0000022A], .vsubFp (op 12 4 7 0) (md .f32 .rz false true)),
    ([0x48203004, 0x01C00F80, 0x0000004B], .vmulFp (op 12 4 7 0) (md .f64 .ru false false)),
    ([0x48303004, 0x01C09F80, 0x0000006A], .vfma (op 12 4 7 9) (md .f32 .rd false false)),
    ([0x48403004, 0x01C09F80, 0x0000008B], .vfnma (op 12 4 7 9) (md .f64 .rna false false)),
    ([0x48503004, 0x01C00F80, 0x0000020A], .vminFp (op 12 4 7 0) (md .f32 .rne false true)),
    ([0x48603004, 0x01C00F80, 0x0000000B], .vmaxFp (op 12 4 7 0) (md .f64)),
    ([0x48703004, 0x00000F80, 0x0000000A], .vabsFp (op 12 4 0 0) (md .f32)),
    ([0x48803004, 0x00000F80, 0x0000000B], .vneg (op 12 4 0 0) (md .f64)),
    ([0x48903004, 0x01C00F80, 0x0000000A], .vcopysign (op 12 4 7 0) (md .f32)),
    ([0x48A03004, 0x01C00F80, 0x0000000B], .vdiv (op 12 4 7 0) (md .f64)),
    ([0x48B03004, 0x00000F80, 0x0000000A], .vsqrt (op 12 4 0 0) (md .f32)),
    ([0x48C03004, 0x00000F80, 0x0000000B], .vrcp (op 12 4 0 0) (md .f64)),
    ([0x48D03004, 0x00000F80, 0x0000000A], .vrsqrt (op 12 4 0 0) (md .f32)),
    ([0x48E03004, 0x00000F80, 0x0000004B], .vrint (op 12 4 0 0) (md .f64 .ru false false)),
    ([0x48F03004, 0x00000F80, 0x0000020A], .vclip (op 12 4 0 0) (md .f32 .rne false true)),
    ([0x49003004, 0x01C09F80, 0x0000000B], .vclamp (op 12 4 7 9) (md .f64)),
    ([0x49103004, 0x00000F80, 0x0000000A], .vsign (op 12 4 0 0) (md .f32)),
    ([0x49203004, 0x01C00F80, 0x00001C0A], .vcmpFp (op 12 4 7 0) (md .f32) .uno),
    ([0x49303004, 0x00000F80, 0x0000000B], .vclass (op 12 4 0 0) (md .f64)),
    ([0x49403004, 0x01C00F80, 0x0000000A], .vldexp (op 12 4 7 0) (md .f32)),
    ([0x49503004, 0x00000F80, 0x0000000A], .vgetexp (op 12 4 0 0) (md .f32)),
    ([0x49603004, 0x01C09F80, 0x0000002A], .vlerp (op 12 4 7 9) (md .f32 .rz false false)),
    ([0x49703004, 0x00000F80, 0x0000000A], .vexp2 (op 12 4 0 0) (md .f32)),
    ([0x49803004, 0x00000F80, 0x0000000A], .vlog2 (op 12 4 0 0) (md .f32)),
    ([0x49903004, 0x00000F80, 0x0000000A], .vsinpi (op 12 4 0 0) (md .f32)),
    ([0x49A03004, 0x00000F80, 0x0000000A], .vcospi (op 12 4 0 0) (md .f32)),
    ([0x49B03004, 0x00000100, 0x3F800000], .vaddF32Imm (op 12 4 0 0 2 false .none 0) 0x3F800000),
    ([0x49C03004, 0x00000F80, 0x40490FDB], .vmulF32Imm (op 12 4 0 0) 0x40490FDB),
    ([0x49D03004, 0x00009F80, 0x3F800000], .vfmaF32Imm (op 12 4 0 9) 0x3F800000),
    ([0x49E03004, 0x00000F80, 0x00000000], .vmaxF32Imm (op 12 4 0 0) 0),
    ([0x49F03004, 0x00006F80, 0xBF800000], .vcmpF32Imm (op 12 4 0 0) .ord 0xBF800000) ]

/-- Conversion and packed words (R339 to R343). -/
def conversionWords : List (List Code × Instr) :=
  [ ([0x50003004, 0x00000F80, 0x0008A464], .vcvt (op 12 4 0 0) (md .n8 .rd false false) .bf16 1 2),
    ([0x50103004, 0x00000F80, 0x00000011], .vpack (op 12 4 0 0) (md .e2m3)),
    ([0x50203004, 0x00000F80, 0x0000000F], .vunpack (op 12 4 0 0) (md .i4)),
    ([0x50303004, 0x01C00F80, 0x000003A8], .vcvt2 (op 12 4 7 0) (md .f16 .rs true true)),
    ([0x50403004, 0x01C00F80, 0x00000248], .vadd2 (op 12 4 7 0) (md .f16 .ru false true)),
    ([0x50503004, 0x01C00F80, 0x00000101], .vsub2 (op 12 4 7 0) (md .i16 .rne true false)),
    ([0x50603004, 0x01C00F80, 0x00000009], .vmul2 (op 12 4 7 0) (md .bf16)),
    ([0x50703004, 0x01C09F80, 0x00000008], .vfma2 (op 12 4 7 9) (md .f16)),
    ([0x50803004, 0x01C00F80, 0x00000005], .vmin2 (op 12 4 7 0) (md .n16)),
    ([0x50903004, 0x01C00F80, 0x00000209], .vmax2 (op 12 4 7 0) (md .bf16 .rne false true)),
    ([0x50A03004, 0x01C09F80, 0x00000001], .vdot2 (op 12 4 7 9) (md .i16)),
    ([0x50B03004, 0x00000F80, 0x00013405], .vshl2 (op 12 4 0 0) (md .n16) (.imm 13)),
    ([0x50C03004, 0x01C00F80, 0x00000001], .vshr2 (op 12 4 7 0) (md .i16) .reg),
    ([0x50D03004, 0x01C00F80, 0x00002400], .vhsel (op 12 4 7 0) 1 2) ]

/-- Cross-lane words (R345). -/
def crossWords : List (List Code × Instr) :=
  [ ([0x54003004, 0x00000F80, 0x0000080A], .vred (op 12 4 0 0) (md .f32) .max),
    ([0x54103004, 0x00000F80, 0x00003406], .vscan (op 12 4 0 0) (md .n32) .xor true),
    ([0x54203004, 0x01C00F80, 0x00000000], .vshuf (op 12 4 7 0)),
    ([0x54303004, 0x00000F80, 0x0000AC00], .vbcast (op 12 4 0 0) 43),
    ([0x54403004, 0x00000F80, 0x0000AC00], .vrot (op 12 4 0 0) 43),
    ([0x54503004, 0x00000F80, 0x00036000], .vqswz (op 12 4 0 0) 0 2 1 3),
    ([0x54603004, 0x00000F80, 0x00000000], .vballot (op 12 4 0 0)),
    ([0x54703004, 0x00000F80, 0x00000000], .vcount (op 12 4 0 0)),
    ([0x54803004, 0x00000F80, 0x00000000], .vfind (op 12 4 0 0)),
    ([0x54903004, 0x01C00F80, 0xFFFFFFFC], .vappend (op 12 4 7 0) 0xFFFFFFFC) ]

/-- Mask, predicate and join words (R315 to R318). -/
def maskWords : List (List Code × Instr) :=
  [ ([0x58003004, 0x01C002C0, 0x00000000], .pand (op 12 4 7 0 5 true .none 0)),
    ([0x58103004, 0x01C002C0, 0x00000000], .por (op 12 4 7 0 5 true .none 0)),
    ([0x58203004, 0x01C002C0, 0x00000000], .pxor (op 12 4 7 0 5 true .none 0)),
    ([0x58303004, 0x01C002C0, 0x00000000], .pandn (op 12 4 7 0 5 true .none 0)),
    ([0x58403004, 0x00000F80, 0x00000000], .pnot (op 12 4 0 0)),
    ([0x58503000, 0x00000F80, 0x00000001], .pset (op 12 0 0 0) true),
    ([0x58603004, 0x00000F80, 0x00000000], .pfroms (op 12 4 0 0)),
    ([0x58703004, 0x00000F80, 0x00000000], .ptos (op 12 4 0 0)),
    ([0x58800004, 0x00000F80, 0x00000000], .pmand (op 0 4 0 0)),
    ([0x58900004, 0x00000F80, 0x00000000], .pmandn (op 0 4 0 0)),
    ([0x58A00004, 0x00000F80, 0x00000000], .pmor (op 0 4 0 0)),
    ([0x58B00004, 0x00000F80, 0x00000000], .pmset (op 0 4 0 0)),
    ([0x58C03000, 0x00000F80, 0x00000000], .pmtos (op 12 0 0 0)),
    ([0x58D03000, 0x00000F80, 0x00000000], .pmtop (op 12 0 0 0)),
    ([0x59003000, 0x00000F80, 0x00000000], .jset (op 12 0 0 0)),
    ([0x59103000, 0x00000F80, 0x00000000], .jarr (op 12 0 0 0)),
    ([0x59203000, 0x00000F80, 0x00000000], .jdrop (op 12 0 0 0)),
    ([0x59303000, 0x00000F86, 0x00000000], .jwait (op 12 0 0 0 31 false .none 3)),
    ([0x59403004, 0x00000F80, 0xFFFFFFF8], .jst (op 12 4 0 0) 0xFFFFFFF8),
    ([0x59503004, 0x00000FA0, 0x00000008], .jld (op 12 4 0 0 31 false .b 0) 8) ]

/-- Memory lane words (R358 to R366). -/
def memoryWords : List (List Code × Instr) :=
  [ ([0x5C003004, 0x01C00F90, 0x8040180E], .vld (op 12 4 7 0 31 false .a 0) .fx128 (mm 0x8040 false .none true 2)),
    ([0x5C100004, 0x00009F80, 0x0010800C], .vst (op 0 4 0 9) .e4m3 (mm 0x10 true .none false 0)),
    ([0x5C203004, 0x00000FA0, 0x00040403], .vlds (op 12 4 0 0 31 false .b 0) .i64 (mm 0x4 false .none false 1)),
    ([0x5C300004, 0x00009F80, 0xFFFE0005], .vsts (op 0 4 0 9) .n16 (mm 0xFFFE false .none false 0)),
    ([0x5C400004, 0x01C00F80, 0x00400C00], .vpf (op 0 4 7 0) (mm 0x40 false .none false 3)),
    ([0x64003004, 0x01C09F80, 0x00202C07], .vatomAdd (op 12 4 7 9) .n64 (mm 0x20 false .rel false 3)),
    ([0x64103004, 0x01C09F80, 0x00204C07], .vatomSwap (op 12 4 7 9) .n64 (mm 0x20 false .acq false 3)),
    ([0x64203004, 0x01C09F80, 0x00206C07], .vatomAnd (op 12 4 7 9) .n64 (mm 0x20 false .ar false 3)),
    ([0x64303004, 0x01C09F80, 0x00202C07], .vatomOr (op 12 4 7 9) .n64 (mm 0x20 false .rel false 3)),
    ([0x64403004, 0x01C09F80, 0x00204C07], .vatomXor (op 12 4 7 9) .n64 (mm 0x20 false .acq false 3)),
    ([0x64503004, 0x01C09F80, 0x00206C07], .vatomMin (op 12 4 7 9) .n64 (mm 0x20 false .ar false 3)),
    ([0x64603004, 0x01C09F80, 0x00202C07], .vatomMax (op 12 4 7 9) .n64 (mm 0x20 false .rel false 3)),
    ([0x64703004, 0x01C09F80, 0x00204C07], .vatomCas (op 12 4 7 9) .n64 (mm 0x20 false .acq false 3)),
    ([0x65000004, 0x01C09F80, 0x00080805], .vaccAdd (op 0 4 7 9) .bf16x2 (mm 0x8 false .none false 2)),
    ([0x65100004, 0x01C09F80, 0x00000406], .vaccMin (op 0 4 7 9) .vis (mm 0x0 false .none false 1)),
    ([0x65200004, 0x00009F80, 0x00008004], .vaccMax (op 0 4 0 9) .f32 (mm 0x0 true .none false 0)),
    ([0x65300000, 0x00000F80, 0x00000000], .rflush (op 0 0 0 0)) ]

/-- Matrix, walk and texture words (R388 to R398). -/
def matrixWords : List (List Code × Instr) :=
  [ ([0x6C003004, 0x01C09F95, 0x00000800], .mma (op 12 4 7 9 31 false .a 2) true true),
    ([0x6C103004, 0x01C00FA6, 0x06000000], .mmas (op 12 4 7 0 31 false .b 3) false false 24),
    ([0x6C203004, 0x00009F80, 0x0000000D], .vspk (op 12 4 0 9) .e5m2),
    ([0x70003004, 0x00000F90, 0x00000000], .wstart (op 12 4 0 0 31 false .a 0)),
    ([0x70103004, 0x00000FA0, 0x00000000], .wresume (op 12 4 0 0 31 false .b 0)),
    ([0x71003004, 0x01C00F90, 0x00000000], .texPoint (op 12 4 7 0 31 false .a 0)),
    ([0x71103004, 0x01C00F90, 0x00000000], .texBilinear (op 12 4 7 0 31 false .a 0)),
    ([0x71203004, 0x01C00F90, 0x00000000], .texTrilinear (op 12 4 7 0 31 false .a 0)),
    ([0x71303004, 0x01C00F90, 0x00000000], .texGather (op 12 4 7 0 31 false .a 0)),
    ([0x71403004, 0x01C00F90, 0x00000000], .texf (op 12 4 7 0 31 false .a 0)),
    ([0x71503004, 0x01C00F90, 0x00000000], .texsz (op 12 4 7 0 31 false .a 0)) ]

/-- Loop-nest words (R287, R288, R379). -/
def nestWords : List (List Code × Instr) :=
  [ ([0x80280008, 0x00000003, 0x00000000, 0x40000401, 0x0001F860, 0x00000000, 0x00000000, 0x35400000], .lnestCopy (nest (lv 8 0x001 0x001 0x000) (lv 3 0x181 0x1F8 0x000))),
    ([0x81280008, 0x00000003, 0x00000000, 0x60100401, 0x0105F860, 0x00000000, 0x00000000, 0x35400000], .lnestAdd (nest (lv 8 0x001 0x001 0x201) (lv 3 0x181 0x1F8 0x041))),
    ([0x82280008, 0x00000003, 0x00000000, 0x60100401, 0x0105F860, 0x00000000, 0x00000000, 0x35400000], .lnestSub (nest (lv 8 0x001 0x001 0x201) (lv 3 0x181 0x1F8 0x041))),
    ([0x83280008, 0x00000003, 0x00000000, 0x60100401, 0x0105F860, 0x00000000, 0x00000000, 0x35400000], .lnestMul (nest (lv 8 0x001 0x001 0x201) (lv 3 0x181 0x1F8 0x041))),
    ([0x84280008, 0x00000003, 0x00000000, 0x60100401, 0x0105F860, 0x00000000, 0x00000000, 0x35400000], .lnestFma (nest (lv 8 0x001 0x001 0x201) (lv 3 0x181 0x1F8 0x041))),
    ([0x85280008, 0x00000003, 0x00000000, 0x60100401, 0x0105F860, 0x00000000, 0x00000000, 0x35400000], .lnestMin (nest (lv 8 0x001 0x001 0x201) (lv 3 0x181 0x1F8 0x041))),
    ([0x86280008, 0x00000003, 0x00000000, 0x60100401, 0x0105F860, 0x00000000, 0x00000000, 0x35400000], .lnestMax (nest (lv 8 0x001 0x001 0x201) (lv 3 0x181 0x1F8 0x041))),
    ([0x90280008, 0x00000003, 0x00000000, 0x00000400, 0x0001F800, 0x00000000, 0x00000000, 0x35400000], .lnestSum (nest (lv 8 0x000 0x001 0x000) (lv 3 0x000 0x1F8 0x000))),
    ([0x91280008, 0x00000003, 0x00000000, 0x20100400, 0x0105F800, 0x00000000, 0x00000000, 0x35400000], .lnestDot (nest (lv 8 0x000 0x001 0x201) (lv 3 0x000 0x1F8 0x041))),
    ([0x92280008, 0x00000003, 0x00000000, 0x00000400, 0x0001F800, 0x00000000, 0x00000000, 0x35400000], .lnestRmax (nest (lv 8 0x000 0x001 0x000) (lv 3 0x000 0x1F8 0x000))),
    ([0x93280008, 0x00000003, 0x00000000, 0x00000400, 0x0001F800, 0x00000000, 0x00000000, 0x35400000], .lnestRmin (nest (lv 8 0x000 0x001 0x000) (lv 3 0x000 0x1F8 0x000))) ]

theorem test_decode_scalar0 : scalarWords0.map (fun p => decodeCode [p.1]) =
    scalarWords0.map (fun p => .ok (p.2, [])) := by rfl

theorem test_decode_scalar1 : scalarWords1.map (fun p => decodeCode [p.1]) =
    scalarWords1.map (fun p => .ok (p.2, [])) := by rfl

theorem test_decode_walk : walkWords.map (fun p => decodeWalk p.1) = walkWords.map (fun p => .ok p.2) := by rfl

theorem test_decode_integer : integerWords.map (fun p => decodeCode p.1) =
    integerWords.map (fun p => .ok (p.2, [])) := by rfl

theorem test_decode_float : floatWords.map (fun p => decodeCode p.1) =
    floatWords.map (fun p => .ok (p.2, [])) := by rfl

theorem test_decode_conversion : conversionWords.map (fun p => decodeCode p.1) =
    conversionWords.map (fun p => .ok (p.2, [])) := by rfl

theorem test_decode_cross : crossWords.map (fun p => decodeCode p.1) =
    crossWords.map (fun p => .ok (p.2, [])) := by rfl

theorem test_decode_mask : maskWords.map (fun p => decodeCode p.1) =
    maskWords.map (fun p => .ok (p.2, [])) := by rfl

theorem test_decode_memory : memoryWords.map (fun p => decodeCode p.1) =
    memoryWords.map (fun p => .ok (p.2, [])) := by rfl

theorem test_decode_matrix : matrixWords.map (fun p => decodeCode p.1) =
    matrixWords.map (fun p => .ok (p.2, [])) := by rfl

theorem test_decode_nest : nestWords.map (fun p => decodeCode p.1) =
    nestWords.map (fun p => .ok (p.2, [])) := by rfl

/-- The clause header of the spec's example (R270): wait f0, four words; and one with every field set. -/
theorem test_decode_header :
    decodeCode [0xC0040000, 0x01000000] = .ok (.clauseHeader
      { wait := 1, setA := none, setB := none, length := 4, yield := false, msplit := false }, []) ∧
    decodeCode [0xE006F300, 0xFFD80000] = .ok (.clauseHeader
      { wait := 0x801, setA := some 7, setB := some 3, length := 1023, yield := true, msplit := true }, []) := by
  constructor <;> rfl

/-- Flag code 3 names no flag (R277, R290): word 1 with bits 5 to 4 at 3. -/
theorem test_decode_flag_three : FlagSel.ofCode 3 = Option.none ∧ FlagSel.ofCode 2 = some .b ∧ FlagSel.ofCode 0 = some .none := by
  exact ⟨rfl, rfl, rfl⟩

/-! ### Ill-formed terms, one for each check, each beside a well-formed neighbour -/

/-- The first instruction is well formed and the second is not. -/
def refuses (good bad : Instr) : Bool := good.wf && !bad.wf

/-- A header of four words that waits for f0, with these set-flags. -/
def header (a b : Option (BitVec 4)) (len : BitVec 10 := 4) : Header :=
  { wait := 1, setA := a, setB := b, length := len, yield := false, msplit := false }

/-- R368, R372: an odd timeout pair; R384: a pair that R385 does not list. -/
theorem test_wf_scalar :
    refuses (.cwait 4 26 true) (.cwait 4 27 true) = true ∧ refuses (.kwaitFull 4 26) (.kwaitFull 4 27) = true ∧
    refuses (.sfmt 12 13) (.sfmt 12 11) = true ∧ refuses (.sfmt 16 18) (.sfmt 14 14) = true := by decide

/-- R271: length 0, set-flags above 11, both set-flags the same. -/
theorem test_wf_header :
    refuses (.clauseHeader (header (some 11) none)) (.clauseHeader (header (some 12) none)) = true ∧
    refuses (.clauseHeader (header none (some 11))) (.clauseHeader (header none (some 12))) = true ∧
    refuses (.clauseHeader (header (some 3) (some 4))) (.clauseHeader (header (some 3) (some 3))) = true ∧
    refuses (.clauseHeader (header none none 1)) (.clauseHeader (header none none 0)) = true := by decide

/-- R282 to R284: a register field that the form does not use, guard 31 negated, minw above 4. -/
theorem test_wf_lane :
    refuses (.vnot (op 1 2 0 0) (md .i32)) (.vnot (op 1 2 3 0) (md .i32)) = true ∧
    refuses (.vand (op 1 2 3 0) (md .i32)) (.vand (op 1 2 3 4) (md .i32)) = true ∧
    refuses (.pmand (op 0 2 0 0)) (.pmand (op 1 2 0 0)) = true ∧
    refuses (.pmtop (op 1 0 0 0)) (.pmtop (op 1 2 0 0)) = true ∧
    refuses (.vshuf (op 1 2 3 0 23 true)) (.vshuf (op 1 2 3 0 31 true)) = true ∧
    refuses (.vshuf (op 1 2 3 0 31 false .none 4)) (.vshuf (op 1 2 3 0 31 false .none 5)) = true ∧
    refuses (.ptos (op 1 2 0 0)) (.ptos (op 1 2 0 0 5)) = true := by decide

/-- R319, R325, R331: a type that the form does not list, and modifiers that it does not use. -/
theorem test_wf_mods :
    refuses (.vaddInt (op 1 2 3 0) (md .n64)) (.vaddInt (op 1 2 3 0) (md .i16)) = true ∧
    refuses (.vaddInt (op 1 2 3 0) (md .i32)) (.vaddInt (op 1 2 3 0) (md .i32 .rz)) = true ∧
    refuses (.vaddInt (op 1 2 3 0) (md .i32 .rne true)) (.vmulh (op 1 2 3 0) (md .i32 .rne true)) = true ∧
    refuses (.vaddFp (op 1 2 3 0) (md .f32 .rz false true)) (.vaddInt (op 1 2 3 0) (md .i32 .rne false true)) = true ∧
    refuses (.vrint (op 1 2 0 0) (md .f32 .rna)) (.vrint (op 1 2 0 0) (md .f32 .rs)) = true ∧
    refuses (.vdot4 (op 1 2 3 4) (md .i8)) (.vdot4 (op 1 2 3 4) (md .i16)) = true := by decide

/-- R325, R326, R329, R327, R340, R342, R346: amounts, fields, conditions, element indices, halves, reductions. -/
theorem test_wf_forms :
    refuses (.vshl (op 1 2 0 0) (md .i32) (.imm 31)) (.vshl (op 1 2 0 0) (md .i32) (.imm 32)) = true ∧
    refuses (.vbfe (op 1 2 0 0) (md .n32) 16 15) (.vbfe (op 1 2 0 0) (md .n32) 17 15) = true ∧
    refuses (.vcmpInt (op 1 2 3 0) (md .i32) .ge) (.vcmpInt (op 1 2 3 0) (md .i32) .ord) = true ∧
    refuses (.vcvt (op 1 2 0 0) (md .n8) .bf16 1 3) (.vcvt (op 1 2 0 0) (md .n8) .bf16 2 3) = true ∧
    refuses (.vcvt (op 1 2 0 0) (md .n8) .bf16 1 3) (.vcvt (op 1 2 0 0) (md .n8) .bf16 1 4) = true ∧
    refuses (.vcvt (op 1 2 0 0) (md .n8 .rne true) .i32 0 0) (.vcvt (op 1 2 0 0) (md .n8 .rne true) .f32 0 0) = true ∧
    refuses (.vmin2 (op 1 2 3 0) (md .i16)) (.vmin2 (op 1 2 3 0) (md .i16 .rne true)) = true ∧
    refuses (.vadd2 (op 1 2 3 0) (md .f16 .rs false true)) (.vadd2 (op 1 2 3 0) (md .i16 .rs)) = true ∧
    refuses (.vred (op 1 2 0 0) (md .f32) .add) (.vred (op 1 2 0 0) (md .f32) .and) = true := by decide

/-- R358, R360, R364, R196: a hint or an order where the form has none, a scaled flat address, a type or a pair
that is not listed. -/
theorem test_wf_memory :
    refuses (.vld (op 1 2 3 0) .fx128 (mm 0 false .none true 3)) (.vld (op 1 2 3 0) .i4 (mm 0 false .none true 3)) = true ∧
    refuses (.vst (op 0 2 3 4) .i8 (mm 0 false .none false 0)) (.vst (op 0 2 3 4) .i8 (mm 0 false .none true 0)) = true ∧
    refuses (.vld (op 1 2 0 0) .i8 (mm 0 true .none false 0)) (.vld (op 1 2 0 0) .i8 (mm 0 true .none false 1)) = true ∧
    refuses (.vatomAdd (op 1 2 3 4) .i32 (mm 0 false .ar false 0)) (.vld (op 1 2 3 0) .i32 (mm 0 false .ar false 0)) = true ∧
    refuses (.vatomAdd (op 1 2 3 4) .n64 (mm 0 false .none false 0)) (.vatomAdd (op 1 2 3 4) .i16 (mm 0 false .none false 0)) = true ∧
    refuses (.vaccMin (op 0 2 3 4) .vis (mm 0 false .none false 0)) (.vaccAdd (op 0 2 3 4) .vis (mm 0 false .none false 0)) = true ∧
    refuses (.vaccAdd (op 0 2 3 4) .bf16x2 (mm 0 false .none false 0)) (.vaccMax (op 0 2 3 4) .bf16x2 (mm 0 false .none false 0)) = true := by
  decide

/-- R276, R388, R398, R401: the minimum widths of the matrix, walk and texture forms, the types of `vspk`, the size
of an edge test. -/
theorem test_wf_units :
    refuses (.mma (op 4 8 12 0 31 false .a 2) true false) (.mma (op 4 8 12 0 31 false .a 1) true false) = true ∧
    refuses (.mma (op 4 8 12 2 31 false .a 2) true true) (.mma (op 4 8 12 2 31 false .a 2) true false) = true ∧
    refuses (.vspk (op 4 8 0 2) .i8) (.vspk (op 4 8 0 2) .i16) = true ∧
    refuses (.wstart (op 4 8 0 0 31 false .a 0)) (.wstart (op 4 8 0 0 31 false .a 1)) = true ∧
    refuses (.texf (op 4 8 12 0 31 false .a 0)) (.texf (op 4 8 12 0 31 false .a 1)) = true ∧
    refuses (.walkEdge3 1 2 6) (.walkEdge3 1 2 7) = true ∧ refuses (.walkEdge3 1 2 1) (.walkEdge3 1 2 0) = true := by
  decide

/-- R288, R379: an absent first level, a level below an absent one, a stride of an absent level or of an operand
that the operation lacks, five scalars past s63, a type or a rounding that is not listed. -/
theorem test_wf_nest :
    let one : Nest := nest (lv 8 1 1 0) (lv 0 0 0 0)
    refuses (.lnestCopy one) (.lnestCopy (nest (lv 0 0 0 0) (lv 3 1 1 0))) = true ∧
    refuses (.lnestCopy one) (.lnestCopy { one with l2 := lv 2 1 1 0 }) = true ∧
    refuses (.lnestCopy one) (.lnestCopy (nest (lv 8 1 1 0) (lv 0 1 0 0))) = true ∧
    refuses (.lnestAdd (nest (lv 8 1 1 1) (lv 0 0 0 0))) (.lnestCopy (nest (lv 8 1 1 1) (lv 0 0 0 0))) = true ∧
    refuses (.lnestCopy { one with sn := 59 }) (.lnestCopy { one with sn := 60 }) = true ∧
    refuses (.lnestCopy { one with ty := .bf16 }) (.lnestCopy { one with ty := .i8 }) = true ∧
    refuses (.lnestCopy { one with ty := .n32, rnd := .rne }) (.lnestCopy { one with ty := .n32 }) = true := by decide


/-! ### A small machine

One team of one wave of four quads, in one gang on core 0 in running context 0, with scratchpad, a data page,
a page that bypasses the L1, and a verified page of code. -/

/-- A page of 64 KiB that is its own frame, of context 0 and tenant 1. -/
def page (base : Nat) (code : Bool) (cache : BitVec 2) : TlbEntry :=
  { ctx := 0, base := base, lg := 16, frame := base, w := !code, ctr := !code, code := code, poison := false
    scope := 2, cache := cache, tag := 1, manifest := 0, verified := code }

/-- A core that has translated the three pages. -/
def demoCore : CoreSt :=
  { CoreSt.reset with tlb := [page 0x10000 false 0, page 0x20000 true 0, page 0x30000 false 1] }

/-- A context in the given state whose window holds the pages. -/
def demoCtx (phase : CtxPhase) : Ctx :=
  { Ctx.fresh phase with winHi := 0xFFFF, tag := 1, ways := 1 }

/-- A quad at the second instruction of a clause with both set-flags. -/
def demoQuad : Quad :=
  { Quad.start with pc := 0x20008, clause := some { setA := some 0, setB := some 1, left := 20, barWait := false } }

/-- The kernel: waves of four quads, every register, 32 KiB of scratchpad, a trap handler. -/
def demoKernel : Kernel := { Kernel.blank with trapvec := 0x20100, lgwave := 2, regs := 640, scr := 1 }

/-- The wave: 2^lg quads in one gang. -/
def demoWave (q : Nat → Quad) (lg : Nat) : Wave :=
  { Wave.blank with
    stopped := false, gangs := [{ base := 0, lg := lg, active := true, slotFree := 0 }], quads := (upTo (2 ^ lg)).map q }

/-- The team. -/
def demoTeam (k : Kernel) (w : Wave) : Team := { Team.blank with kernel := k, phase := .live, waves := [w] }

/-- The machine: its gang issues. -/
def demoOf (k : Kernel) (w : Wave) : State :=
  { State.reset with
    ctxs := Vector.replicate 64 (demoCtx .running), cores := Vector.replicate 288 demoCore
    teams := [demoTeam k w], fw := .running, cur := .gang 0 0 0 }

/-- The machine with every quad the same. -/
def demoQ (q : Quad) : State := demoOf demoKernel (demoWave (fun _ => q) 2)

/-- The machine. -/
def demo : State := demoQ demoQuad

/-- Its gang. -/
def gang : GangRef := { t := 0, w := 0, base := 0, lg := 2 }

/-- An address of scratchpad. -/
def spad : Word := 0xFFFFFFFFFFF00000

/-- Every scalar register names the same address. -/
def at_ (q : Quad) (a : Word) : Quad := { q with s := Vector.replicate 64 a }

/-- A lane operation on v12 and v4 that no form refuses. -/
def o0 : LaneOp := op 12 4 0 0

/-- Checks of addresses that all pass. -/
def Passes (s : State) (g : GangRef) (asks : List Ask) : Prop := ∃ s1 locs, checkAsks s g asks = (s1, locs, [])

/-- Checks pass where none fails. -/
theorem passes {s : State} {g : GangRef} {asks : List Ask} (h : (checkAsks s g asks).2.2.isEmpty = true) :
    Passes s g asks := by
  refine ⟨(checkAsks s g asks).1, (checkAsks s g asks).2.1, ?_⟩
  rw [← List.isEmpty_iff.mp h]

/-! ### Scalar instructions, branches, traps -/

theorem witness_ScalarAlu : demo.issuing = some gang := rfl
theorem witness_ScalarDivision :
    demo.issuing = some gang ∧ (5 : Word) ≠ 0 ∧ ¬((5 : Word).toInt = -2 ^ 63 ∧ (3 : Word).toInt = -1) ∧
    ((0x8000000000000000 : Word).toInt = -2 ^ 63 ∧ (0xFFFFFFFFFFFFFFFF : Word).toInt = -1) := by
  refine ⟨rfl, ?_⟩; decide
theorem witness_ScalarImmediateAndCompare : demo.issuing = some gang := rfl

theorem witness_SpecialRegisterRead :
    demo.issuing = some gang ∧ (demo.waveOf gang).core < 288 ∧
    (18 : BitVec 6).toNat ≤ 18 ∧ 18 < (19 : BitVec 6).toNat ∧
    (3 : BitVec 6).toNat < 2 ^ (demo.teamOf gang).kernel.lgwave ∧
    2 ^ (demo.teamOf gang).kernel.lgwave ≤ (4 : BitVec 6).toNat := by refine ⟨rfl, ?_⟩; decide

/-- A gang whose registers name the pair e4m3, e5m2. -/
theorem witness_SpecialRegisterWrite :
    (demoQ (at_ demoQuad 0x0D0C)).issuing = some gang ∧
    (∀ n ∈ gang.quads, fmtPair ((((demoQ (at_ demoQuad 0x0D0C)).quadOf gang n).rs 5).extractLsb' 0 5)
      ((((demoQ (at_ demoQuad 0x0D0C)).quadOf gang n).rs 5).extractLsb' 8 5) = true) ∧
    (∃ n ∈ gang.quads, fmtPair ((((demoQ (at_ demoQuad 0x0B0C)).quadOf gang n).rs 5).extractLsb' 0 5)
      ((((demoQ (at_ demoQuad 0x0B0C)).quadOf gang n).rs 5).extractLsb' 8 5) = false) := by
  refine ⟨rfl, ?_⟩; decide

theorem witness_Branches :
    (demoQ (at_ demoQuad 0x20040)).issuing = some gang ∧
    (∀ n ∈ gang.quads, (((demoQ (at_ demoQuad 0x20040)).quadOf gang n).rs 5).toNat % 4 = 0) ∧
    (demoQ (at_ demoQuad 0x20042)).issuing = some gang ∧ 0 ∈ gang.quads ∧
    (((demoQ (at_ demoQuad 0x20042)).quadOf gang 0).rs 5).toNat % 4 ≠ 0 := by
  refine ⟨rfl, by decide, rfl, by decide⟩

theorem witness_TrapEntry :
    (demo.teamOf gang).kernel.trapvec ≠ 0 ∧ (∀ n ∈ gang.quads, (demo.quadOf gang n).inHandler = false) ∧
    gang.w < (demo.teamOf gang).waves.length ∧
    (∃ n ∈ gang.quads, ((demoQ { demoQuad with inHandler := true }).quadOf gang n).inHandler = true) ∧
    (demo.ctx (demo.ctxOf gang)).phase = .running := by decide

theorem witness_SoftwareTrap :
    demo.issuing = some gang ∧ (demo.teamOf gang).kernel.trapvec ≠ 0 ∧
    (∀ n ∈ gang.quads, (demo.quadOf gang n).inHandler = false) := by refine ⟨rfl, ?_⟩; decide

theorem witness_TrapReturn :
    (demoQ { demoQuad with inHandler := true }).issuing = some gang ∧
    (∀ n ∈ gang.quads, ((demoQ { demoQuad with inHandler := true }).quadOf gang n).inHandler = true) ∧
    (∀ n ∈ gang.quads, ((demoQ { demoQuad with inHandler := true }).quadOf gang n).nestHandled = none) ∧
    (∃ n ∈ gang.quads, (demo.quadOf gang n).inHandler = false) := by refine ⟨rfl, ?_⟩; decide

/-! ### Lane instructions -/

/-- A lane operation is ready in the machine where its set-flag is there and its guard and fields are legal. -/
theorem ready (o : LaneOp) (opnds : List Opnd) (hf : o.flag = .none) (hg : badGuard o.guard = false)
    (hx : opnds.all (·.ok 640) = true) (hw : o.minw.toNat ≤ 2) : LaneReady demo gang o opnds where
  issuing := rfl
  flag := by rw [hf]; rfl
  guard := hg
  fields := fun x h => List.all_eq_true.mp hx x h
  width := Nat.le_trans (Nat.min_le_left _ _) hw

/-- The fields of v12, v4 and v0 as 64-bit registers, as one register, as predicates and as scalars. -/
theorem ready0 : LaneReady demo gang o0 [.ty 12 .i64, .ty 4 .i64, .ty 0 .i64, .one 12, .one 4, .one 0, .p 12, .p 4,
    .p 0, .s 12, .s 4, .s 0] := ready _ _ rfl rfl rfl (by decide)

theorem witness_LaneInteger :
    [Instr.vaddInt o0 (md .i64), .vsubInt o0 (md .i64), .vmulInt o0 (md .i64), .vmulh o0 (md .i64), .vmad o0 (md .i64),
      .vminInt o0 (md .i64), .vmaxInt o0 (md .i64), .vabsInt o0 (md .i64), .vand o0 (md .i64), .vor o0 (md .i64),
      .vxor o0 (md .i64), .vnot o0 (md .i64), .vpopc o0 (md .i64), .vclz o0 (md .i64)].all (·.wf) = true ∧
    LaneReady demo gang o0 [.ty 12 .i64, .ty 4 .i64, .ty 0 .i64, .ty 0 .i64] :=
  ⟨rfl, ready _ _ rfl rfl rfl (by decide)⟩

theorem witness_LaneShift :
    [Instr.vshl o0 (md .i64) (.imm 63), .vshl o0 (md .i64) .reg, .vshr o0 (md .n32) (.imm 31), .vshr o0 (md .i64) .reg,
      .vrshr o0 (md .i8) true (.imm 63), .vrshr o0 (md .i8) false .reg, .vbfe o0 (md .i32) 16 15].all (·.wf) = true ∧
    LaneReady demo gang o0 [.ty 12 .i64, .one 12, .ty 4 .i64, .ty 4 .i32, .ty 0 .i64, .one 0] :=
  ⟨rfl, ready _ _ rfl rfl rfl (by decide)⟩

theorem witness_ByteDotProduct :
    (Instr.vdot4 o0 (md .i8)).wf = true ∧ LaneReady demo gang o0 [.one 12, .one 4, .one 0, .one 0] :=
  ⟨rfl, ready _ _ rfl rfl rfl (by decide)⟩

theorem witness_LaneCompareAndImmediate :
    [Instr.vcmpInt o0 (md .i64) .ge, .vcmpIntImm o0 .ge true 5, .vcmpFp o0 (md .f64) .uno, .vcmpF32Imm o0 .ord 5].all
      (·.wf) = true ∧
    LaneReady demo gang o0 [.p 12, .ty 12 .f64, .one 12, .ty 4 .f64, .one 4, .ty 0 .f64, .p 0] :=
  ⟨rfl, ready _ _ rfl rfl rfl (by decide)⟩

theorem witness_LaneFloat :
    LaneReady demo gang o0 [.ty 12 .f64, .ty 4 .f64, .ty 0 .f64, .ty 0 .f64] :=
  ready _ _ rfl rfl rfl (by decide)

theorem witness_LaneFloatSelect :
    [Instr.vminFp o0 (md .f64), .vmaxFp o0 (md .f64), .vabsFp o0 (md .f64), .vneg o0 (md .f64), .vcopysign o0 (md .f64),
      .vclamp o0 (md .f64), .vclip o0 (md .f64), .vsign o0 (md .f64), .vrint o0 (md .f64), .vclass o0 (md .f64),
      .vgetexp o0 (md .f64), .vaddF32Imm o0 5, .vmulF32Imm o0 5, .vfmaF32Imm o0 5, .vmaxF32Imm o0 5].all (·.wf) = true ∧
    LaneReady demo gang o0 [.ty 12 .f64, .ty 12 .n32, .ty 4 .f64, .ty 0 .f64, .one 4, .one 0] :=
  ⟨rfl, ready _ _ rfl rfl rfl (by decide)⟩

theorem witness_LaneConversion :
    [Instr.vcvt o0 (md .n8) .bf16 1 3, .vpack o0 (md .e2m3), .vunpack o0 (md .i4)].all (·.wf) = true ∧
    LaneReady demo gang o0 [.ty 12 .n8, .ty 4 .bf16, .v 12 3 1, .v 4 16 1, .v 12 8 1, .v 4 1 1] :=
  ⟨rfl, ready _ _ rfl rfl rfl (by decide)⟩

theorem witness_PackedHalves :
    [Instr.vadd2 o0 (md .f16), .vsub2 o0 (md .f16), .vmul2 o0 (md .f16), .vfma2 o0 (md .f16), .vmin2 o0 (md .f16),
      .vmax2 o0 (md .f16), .vdot2 o0 (md .f16), .vcvt2 o0 (md .f16)].all (·.wf) = true ∧
    [Instr.vadd2 o0 (md .i16), .vmin2 o0 (md .i16), .vshl2 o0 (md .i16) (.imm 15), .vshl2 o0 (md .i16) .reg,
      .vshr2 o0 (md .i16) (.imm 15), .vshr2 o0 (md .i16) .reg, .vdot2 o0 (md .i16)].all (·.wf) = true ∧
    LaneReady demo gang o0 [.one 12, .one 4, .one 0, .one 0] :=
  ⟨rfl, rfl, ready _ _ rfl rfl rfl (by decide)⟩

theorem witness_CrossLane :
    [Instr.vred o0 (md .i64) .xor, .vscan o0 (md .f64) .max true, .vshuf o0, .vbcast o0 63, .vrot o0 63,
      .vqswz o0 0 1 2 3, .vcount o0].all (·.wf) = true ∧
    LaneReady demo gang o0 [.ty 12 .i64, .ty 4 .i64, .one 12, .one 4, .one 0, .p 4, .s 12] :=
  ⟨rfl, ready _ _ rfl rfl rfl (by decide)⟩

theorem witness_PredicatesAndMasks : LaneReady demo gang o0 [.p 12, .p 4, .p 0, .s 12, .s 4] :=
  ready _ _ rfl rfl rfl (by decide)

/-- A wave in which quads 0 and 1 wait at a `jwait` on j3 with every lane expected, and quad 2 holds a slice. -/
def joinWave (held : Byte) : Wave :=
  demoWave (fun n =>
    if n < 2 then { demoQuad with wait := .jwait 3 0, joins := Vector.replicate 8 0xFF }
    else if n = 2 then { demoQuad with joins := Vector.replicate 8 held } else demoQuad) 2

/-- Its quads that wait all wait on j3 at one PC. -/
theorem joinWave_waits (held : Byte) : ∀ n < (joinWave held).quads.length, ∀ k since,
    ((joinWave held).quad n).wait = .jwait k since →
      ∃ a, ((joinWave held).quad n).wait = .jwait 3 a ∧ ((joinWave held).quad n).pc = 0x20008 := by
  intro n hn k since h
  have hl : (joinWave held).quads.length = 4 := rfl
  rw [hl] at hn
  interval_cases n
  · exact ⟨0, rfl, rfl⟩
  · exact ⟨0, rfl, rfl⟩
  · cases h
  · cases h

/-- Some quad waits; all that hold a slice wait, or one does not. -/
theorem witness_JoinInstructions :
    LaneReady demo gang (op 7 0 0 0) [.j 7] ∧
    (∀ held, ∃ n, n < (joinWave held).quads.length ∧ ∃ since, ((joinWave held).quad n).wait = .jwait 3 since ∧
      ((joinWave held).quad n).pc = 0x20008) ∧
    (∀ n < (joinWave 0).quads.length, 2 ≤ n → (((joinWave 0).quad n).join 3).extractLsb' 0 4 = 0) ∧
    ((((joinWave 0x01).quad 2).join 3).extractLsb' 0 4 ≠ 0 ∧ ((joinWave 0x01).quad 2).exited = false ∧
      ((joinWave 0x01).quad 2).wait = .ready) :=
  ⟨ready _ _ rfl rfl rfl (by decide), fun _ => ⟨0, Nat.zero_lt_succ 3, 0, rfl, rfl⟩, by decide, by decide, rfl, rfl⟩

theorem witness_GangCut : [0, 1, 3, 4, 5, 6, 7, 15].Pairwise (· < ·) ∧ ∀ q ∈ [0, 1, 3, 4, 5, 6, 7, 15], q < 16 := by decide

/-- The machine cut into single quads: a gang too narrow for minw 2. -/
def narrow : State :=
  demoOf demoKernel { demoWave (fun _ => demoQuad) 2 with
    gangs := (upTo 4).map fun n => { base := n, lg := 0, active := true, slotFree := 0 } }

/-- One quad. -/
def single : GangRef := { t := 0, w := 0, base := 0, lg := 0 }

theorem witness_LaneHeldBack :
    narrow.issuing = some single ∧
    laneFlag (narrow.leader single).clause .none ≠ none ∧
    (∀ x ∈ [Opnd.ty 12 .i64, .ty 4 .i64, .ty 638 .i64], x.ok (narrow.teamOf single).kernel.regs = true) ∧
    single.lg < min (2 : BitVec 3).toNat (narrow.teamOf single).kernel.lgwave ∧
    ({ single with lg := 2 } : GangRef).quads.all (fun n => (narrow.quadOf single n).exited ||
      single.quads.contains n || (narrow.quadOf single n).atFuse 2 (narrow.leader single).flow) = false ∧
    (Opnd.ty 639 .i64).ok 640 = false ∧ (Opnd.one 640).ok 640 = false ∧ badGuard 24 = true ∧ badGuard 23 = false ∧
    laneFlag ((demoQ { demoQuad with clause := none }).leader gang).clause .a = none := by
  refine ⟨rfl, ?_⟩; decide

/-- A header on flag 0, one whose flag is raised, and one that meets a deferred fault. -/
theorem witness_ClauseHeader :
    let d : Deferred := { point := .header 0, cause := .trans .poison, addr := 0x10000, lanes := 3 }
    let met (d : Deferred) : Bool := match d.point with
      | .header f => (1 : BitVec 12).getLsbD f.toNat
      | .interlock => false
      | .drainPoint => false
      | .waveDrain => false
    let clear (s : State) (n : Nat) : Bool :=
      (List.range 12).all fun i => !(1 : BitVec 12).getLsbD i || (s.quadOf gang n).f.getD i 0 == 0
    let raised := demoQ { demoQuad with f := Vector.replicate 12 1 }
    let late := demoQ { demoQuad with deferred := [d] }
    demo.issuing = some gang ∧ (∀ n ∈ gang.quads, clear demo n = true) ∧ (∀ n ∈ gang.quads, (demo.quadOf gang n).deferred = []) ∧
    raised.issuing = some gang ∧ (∃ n ∈ gang.quads, clear raised n = false) ∧
    late.issuing = some gang ∧ (∀ n ∈ gang.quads, clear late n = true) ∧ 0 ∈ gang.quads ∧
    (late.quadOf gang 0).deferred.find? met = some d ∧ (∀ k ∈ gang.quads, ¬ k < 0) :=
  ⟨rfl, by decide, by decide, rfl, by decide, rfl, by decide, by decide, rfl, by decide⟩


/-- Quads 0 and 1 wait for quads 2 and 3 at a minimum width of a wave; quad 2 has exited. -/
def fusing : State :=
  demoOf demoKernel { demoWave (fun n => if n < 2 then { demoQuad with wait := .fuse 2 0 }
      else { demoQuad with exited := true }) 2 with
    gangs := (upTo 4).map fun n => { base := n, lg := 0, active := true, slotFree := 0 } }

/-- The last quad missing from a forced fuse exits, and the others go on as one gang (R110, R114, R115). -/
theorem test_fuse_after_exit :
    (((fusing.fuseTest 0 0).wave 0 0).gangs.map fun y => (y.base, y.lg)) = [(0, 2)] ∧
    ((fusing.fuseTest 0 0).quad 0 0 1).wait = .ready := by decide

/-! ### Memory -/

/-- The machine whose scalar registers all hold an address. -/
def demoAt (a : Word) : State := demoQ (at_ demoQuad a)

/-- Each quad of the gang asks for its s[n]. -/
def asks (s : State) (len align : Nat) (need : Need) : List Ask :=
  gang.quads.map fun n =>
    { quad := n, lanes := 0xF, addr := (s.quadOf gang n).rs 5, len := len, align := align, need := need, spad := false }

/-- Every lane of the gang asks for s[vb] + v[va], or for its scratchpad word. -/
def laneAsks (s : State) (o : LaneOp) (m : MemMods) (spad : Bool) (len align : Nat) (need : Need) : List Ask :=
  gang.quads.flatMap fun n => ((List.range 4).filter fun i => (s.quadOf gang n).active o i).map fun i =>
    { quad := n, lanes := 1#4 <<< i
      addr := if spad then (s.quadOf gang n).scratchLaneAddr o m i else (s.quadOf gang n).laneAddr o m i
      len := len, align := align, need := need, spad := spad }

/-- A place in the data page. -/
def dataLoc (len : Nat) : Loc := .mem [(0x10000, len, 0x10000, page 0x10000 false 0)]

/-- Places in scratchpad are plain. -/
theorem plain_scratch (s : State) (n off : Nat) : PlainPlaces s (List.replicate n (.scratch off)) where
  hbm := by intro l h; rw [(List.mem_replicate.mp h).2]; intro p hp; cases hp
  offset := by intro l h; rw [(List.mem_replicate.mp h).2]; intro p hp; cases hp
  page := by intro l h; rw [(List.mem_replicate.mp h).2]; intro p hp; cases hp

/-- Words at the start of the data page are plain. -/
theorem plain_data (n : Nat) : PlainPlaces demo (List.replicate n (dataLoc 8)) where
  hbm := by intro l h; rw [(List.mem_replicate.mp h).2]; decide
  offset := by intro l h; rw [(List.mem_replicate.mp h).2]; decide
  page := by intro l h; rw [(List.mem_replicate.mp h).2]; intro p hp k hk; rw [(List.mem_replicate.mp hk).2]; revert p; decide

set_option maxRecDepth 8000 in
/-- Loads from the data page and from scratchpad. -/
theorem witness_LoadsIssue :
    (demoAt 0x10000).issuing = some gang ∧
    laneFlag ((demoAt 0x10000).leader gang).clause .a = some (some 0) ∧
    flagFull (demoAt 0x10000) gang (some 0) = false ∧
    checkAsks (demoAt 0x10000) gang (asks (demoAt 0x10000) 8 1 .read) =
      (demoAt 0x10000, List.replicate 4 (dataLoc 8), []) ∧
    PlainPlaces demo (List.replicate 4 (dataLoc 8)) ∧
    LaneReady demo gang (op 7 4 0 0) [.j 7, .s 4, .one 4, .s 0, .ty 4 .i8, .v 4 2 2] ∧
    checkAsks (demoAt spad) gang (laneAsks (demoAt spad) o0 (mm 0 false .none false 0) true 16 1 .read) =
      (demoAt spad, List.replicate 16 (.scratch 0), []) ∧
    checkAsks (demoAt 0x10000) gang (laneAsks (demoAt 0x10000) o0 (mm 0 false .none false 0) false 8 1 .read) =
      (demoAt 0x10000, List.replicate 16 (dataLoc 8), []) ∧
    PlainPlaces demo (List.replicate 16 (dataLoc 8)) :=
  ⟨rfl, rfl, rfl, rfl, plain_data _, ready _ _ rfl rfl rfl (by decide), rfl, rfl, plain_data _⟩

set_option maxRecDepth 8000 in
/-- Stores to the data page and to scratchpad, and a whole line. -/
theorem witness_StoresPerform :
    (demoAt 0x10000).issuing = some gang ∧
    Passes (demoAt 0x10000) gang (asks (demoAt 0x10000) 8 1 .store) ∧
    Passes (demoAt 0x10000) gang (asks (demoAt 0x10000) 128 128 .store) ∧
    Passes (demoAt spad) gang (laneAsks (demoAt spad) o0 (mm 0 false .none false 0) true 16 1 .store) ∧
    Passes (demoAt 0x10000) gang (laneAsks (demoAt 0x10000) o0 (mm 0 false .none false 0) false 4 1 .store) ∧
    LaneReady demo gang (op 7 4 0 0) [.j 7, .s 4, .one 4, .s 0, .ty 0 .fx128, .v 4 2 2] :=
  ⟨rfl, passes rfl, passes rfl, passes rfl, passes rfl, ready _ _ rfl rfl rfl (by decide)⟩

/-- Scratchpad, a page held in the L1, a page that bypasses it. -/
theorem witness_StoreFrame :
    gang.t < demo.teams.length ∧ (demo.teamOf gang).scratch.wf = true ∧
    physKind 0x10000 = .hbm ∧ (page 0x10000 false 0).cache ≠ 1 ∧ (0x1FFFF : Word).toNat % 65536 + 1 ≤ 65536 ∧
    (∀ h ∈ (demo.core 0).held, h.bound = none) ∧
    demo.mem.wf = true ∧ (page 0x30000 false 1).cache = 1 ∧ 0x30000 % 128 + 128 ≤ 128 ∧
    demo.isPoisoned (lineOf 0x30000) = false ∧
    (∀ w ∈ wordsIn 0x30000 4, demo.word w ≤ (demo.rawWrite 0 0x30000 [1, 2, 3, 4]).word w) := by
  refine ⟨by decide, rfl, rfl, by decide, by decide, by decide, rfl, rfl, by decide, rfl, ?_⟩
  intro w _
  have h : demo.word w = 0 := by
    simp [State.word, Mem.read, demo, demoQ, demoOf, State.reset, Mem.get]
    decide
  rw [h]
  exact BitVec.le_def.mpr (Nat.zero_le _)

/-- A load of flag 0 and a load without a flag in a single quad. -/
def pendOf (flag : Option (BitVec 4)) : Pend :=
  { id := 7, flag := flag, writes := [.s 5 1], loads := [], blends := [], faults := [], walks := [], requests := []
    poll := none }

theorem witness_LongLatencyCompletes :
    let flagged := { demoQuad with pends := [pendOf (some 0)], f := Vector.replicate 12 1 }
    let locked := { demoQuad with pends := [pendOf none], wait := .interlock 1 }
    let s := demoOf demoKernel (demoWave (fun _ => flagged) 0)
    let u := demoOf demoKernel (demoWave (fun _ => locked) 0)
    0 < s.teams.length ∧ 0 < (s.team 0).waves.length ∧ 0 < (s.wave 0 0).quads.length ∧
    (s.quad 0 0 0).exited = false ∧ (s.quad 0 0 0).pends[0]? = some (pendOf (some 0)) ∧
    (s.quad 0 0 0).wait = .ready ∧ (s.wave 0 0).quads.length = 1 ∧
    (u.quad 0 0 0).pends[0]? = some (pendOf none) ∧ (u.quad 0 0 0).wait = .interlock 1 ∧
    (u.quad 0 0 0).deferred = [] ∧
    ((u.wave 0 0).gangs.find? fun x => decide (x.base ≤ 0) && decide (0 < x.base + 2 ^ x.lg)).map
      (fun x => (x.base, x.lg)) = some (0, 0) := by
  refine ⟨by decide, by decide, by decide, rfl, rfl, rfl, rfl, rfl, rfl, rfl, rfl⟩

/-! ### Atomics, counters, barriers, rings -/

/-- The release steps can be taken at once in a machine that holds nothing. -/
theorem releases (q : Quad) (h : ∀ d ∈ q.deferred, d.isDrain = false) (hd : q.drainSt = .idle)
    (he : q.exited = false) (hp : q.pends = []) : ReleaseNow (demoQ q) gang (demoQ q) (demoQ q) where
  faults := fun n hn d hd => by
    simp only [GangRef.quads, gang, List.mem_map, List.mem_range] at hn
    obtain ⟨k, hk, rfl⟩ := hn
    interval_cases k <;> exact h d hd
  bound := rfl
  wave := rfl
  replies := rfl
  loads := by
    simp [State.remotePending, State.live, GangRef.quads, gang, State.quadOf, State.quad, State.wave, Team.wave, State.team,
      Wave.quad, demoQ, demoOf, demoTeam, demoWave, upTo, List.range, List.range.loop, he, hp]
  drain := by
    have : (demoQ q).leader gang = q := by
      simp only [State.leader, State.firstLive, GangRef.quads, gang, upTo]
      simp [State.quadOf, State.quad, State.wave, Team.wave, State.team, Wave.quad, demoQ, demoOf, demoTeam, demoWave, he,
        upTo, List.range, List.range.loop]
    rw [this]; exact hd
  residuals := rfl
  result := rfl

/-- The slices of the machine hold nothing. -/
theorem quiet {s : State} (h : s.slices = Vector.replicate 128 Slice.reset) (n : Nat) : s.sliceAt n = Slice.reset := by
  simp only [State.sliceAt, h]
  split
  · exact Vector.getElem_replicate ..
  · rfl

/-- No acquire of a line meets a scope fault there. -/
theorem quiet_scope {s : State} (h : s.slices = Vector.replicate 128 Slice.reset) (line cap core : Nat) :
    scopeFault s line cap core = false := by
  simp [scopeFault, State.record, State.marked, quiet h, Slice.reset]

/-- One atomic of each quad on the counter at the start of the data page. -/
def atoms (s : State) (op : AtomOp) : List AtomReq := gang.quads.map fun n =>
  { ask := { quad := n, lanes := 0xF, addr := (s.quadOf gang n).rs 5, len := 8, align := 8, need := .store, spad := false }
    more := [], dests := [{ quad := n, lanes := 0xF, dest := .s 5, plus := 0 }], op := op, operand := 1, expected := 0
    get := false }

theorem witness_AtomicsIssue :
    let s := demoAt 0x10000
    s.issuing = some gang ∧ flagFull s gang (some 0) = false ∧
    checkAsks s gang ((atoms s .add).map (·.ask) ++ (atoms s .add).flatMap (·.more)) =
      (s, List.replicate 4 (dataLoc 8), []) ∧
    ReleaseNow s gang s s ∧
    (∀ a ∈ acquiresOf ((atoms s .add).zip (List.replicate 4 (dataLoc 8))), a.fails s (s.coreOf gang) = false) ∧
    (∃ w, s.orderAll (s.ctxOf gang) (orderOps s (s.coreOf gang) (List.replicate 4 (dataLoc 8))) = .ok w) ∧
    LaneReady demo gang o0 [.ty 12 .i64, .ty 0 .i64, .v 4 2 2, .one 4, .s 0, .p 4] := by
  refine ⟨rfl, rfl, rfl, releases _ (by decide) rfl rfl rfl, ?_, ⟨_, rfl⟩, ready _ _ rfl rfl rfl (by decide)⟩
  intro a ha
  have : a.at_.place = .line (0x10000 / 128) ∧ a.at_.cap = 2 := by
    revert a; decide
  simp only [Acquire.fails, this.1]
  exact quiet_scope rfl _ _ _


/-- One atomic of n bytes that swaps in a value. -/
def swapOf (n operand : Nat) : AtomReq :=
  { ask := { quad := 0, lanes := 1, addr := 0x10000, len := n, align := n, need := .store, spad := false }
    more := [], dests := [], op := .swap, operand := operand, expected := 0, get := false }

theorem witness_AtomicValue :
    1 ≤ 8 ∧ (swapOf 8 (2 ^ 64 - 1)).ask.len = 8 ∧ (swapOf 8 (2 ^ 64 - 1)).operand < 2 ^ (8 * 8) ∧
    gang.t < demo.teams.length ∧ (demo.teamOf gang).scratch.wf = true ∧ physKind 0x10000 = .hbm ∧
    demo.isPoisoned (lineOf 0x10000) = false ∧
    (demo.core (demo.coreOf gang)).heldLine (demo.ctxOf gang) ((0x10000 : Word).toNat / 128) = none ∧
    demo.mem.wf = true ∧
    appenders (demoQ { demoQuad with lanes := Vector.replicate 4 { Lane.start with p := 0xFFFFFF } }) gang o0 0 0 =
      [(0, 0), (0, 1), (0, 2), (0, 3)] ∧
    appenders demo gang o0 0 0 = [] := by
  refine ⟨by decide, rfl, by decide, by decide, rfl, rfl, rfl, rfl, rfl, rfl, rfl⟩

/-- A ring whose counters lie in the data page. -/
def ring : Ring :=
  { base := 0x11000, filled := 0x10000, freed := 0x10008, claim := 0x10010, bytes := 64, lgslots := 2 }

/-- A machine with the given scalar registers, memory, scratchpad and ring handles. -/
def stocked (a : Word) (mem scratch : List Byte) (r : Option Ring) : State :=
  { demoOf demoKernel (demoWave (fun _ => at_ demoQuad a) 2) with
    mem := Mem.write [] 0x10000 mem
    teams := [{ demoTeam demoKernel (demoWave (fun _ => at_ demoQuad a) 2) with
      scratch := Mem.write [] 0 scratch, rings := Vector.replicate 16 r }] }

/-- One add of every quad at the start of the data page. -/
def adds (addend : Word) : List (AddReq × Loc) :=
  gang.quads.map fun n => ({ quad := n, addr := 0x10000, addend := addend }, dataLoc 8)

/-- Adds that fit, the first that does not, ring 15 and ring 16, a loaded handle and none. -/
theorem witness_CounterAdds :
    let s := stocked 0x10000 [] [] (some ring)
    let full := stocked 0x10000 (List.replicate 8 0xFF) [] none
    s.issuing = some gang ∧
    checkAsks s gang (asks s 8 8 .counterAdd) = (s, List.replicate 4 (dataLoc 8), []) ∧
    ReleaseNow demo gang demo demo ∧ (addAll (s.flushAll gang (List.replicate 4 (dataLoc 8))) gang true (adds 1)).2 = [] ∧
    (addAll (full.flushAll gang (List.replicate 4 (dataLoc 8))) gang true (adds 1)).2 = adds 1 ∧
    (15 : SReg).toNat ≤ 15 ∧ (s.teamOf gang).rings.getD 15 none = some ring ∧
    (full.teamOf gang).rings.getD 15 none = none ∧ 15 < (16 : SReg).toNat ∧
    physKind 0x10000 = .hbm ∧ 0x10000 % 8 = 0 ∧ (s.word 0x10000).toNat + 1 < 2 ^ 64 ∧
    2 ^ 64 ≤ (full.word 0x10000).toNat + 1 := by
  refine ⟨rfl, rfl, releases _ (by decide) rfl rfl rfl, rfl, rfl, by decide, rfl, rfl, by decide, rfl, rfl, by decide, by decide⟩

theorem witness_CounterWaits :
    let s := stocked 0x10000 [] [] (some ring)
    let u := s.flushAll gang (List.replicate 4 (dataLoc 8))
    s.issuing = some gang ∧ (s.ctx (s.ctxOf gang)).lnActive = 0 ∧
    checkAsks s gang (asks s 8 8 .counterGet) = (s, List.replicate 4 (dataLoc 8), []) ∧
    u.poisonAt (dataLoc 8) = false ∧ u.counterAt gang.t (dataLoc 8) = some 0 ∧
    (∀ line cap core, scopeFault u line cap core = false) ∧
    (15 : SReg).toNat ≤ 15 ∧ (s.teamOf gang).rings.getD 15 none = some ring ∧ 15 < (16 : SReg).toNat ∧
    (demo.teamOf gang).rings.getD 15 none = none :=
  ⟨rfl, rfl, rfl, rfl, rfl, quiet_scope rfl, by decide, rfl, by decide, rfl⟩

theorem witness_Barrier :
    demo.issuing = some gang ∧ ReleaseNow demo gang demo demo ∧ gang.t < demo.teams.length ∧
    gang.w < (demo.teamOf gang).waves.length ∧ (demo.teamOf gang).kernel.pair = false ∧
    (∀ k < (demo.waveOf gang).quads.length, (demo.quadOf gang k).wait = .ready) ∧
    (∀ n ∈ gang.quads, n < (demo.waveOf gang).quads.length) := by
  refine ⟨rfl, releases _ (by decide) rfl rfl rfl, ?_⟩; decide

theorem witness_FencesAndExit :
    demo.issuing = some gang ∧ ReleaseNow demo gang demo demo ∧ demo.remotePending gang = false ∧
    ((demo.live gang).flatMap fun n => (demo.quadOf gang n).acqLines) = [] ∧
    demo.toPromote (demo.coreOf gang) [] = [] :=
  ⟨rfl, releases _ (by decide) rfl rfl rfl, rfl, rfl, rfl⟩

/-- The descriptor of the ring, and a copy control block of one row of 64 bytes. -/
def ringBytes : List Byte :=
  leBytes 8 0x11000 ++ leBytes 8 0x10000 ++ leBytes 8 0x10008 ++ leBytes 8 0x10010 ++ leBytes 4 64 ++ leBytes 12 2
def copyBytes64 : List Byte :=
  leBytes 8 0x10100 ++ leBytes 8 0x10200 ++ leBytes 4 64 ++ leBytes 4 1 ++ leBytes 16 0 ++ leBytes 8 0 ++ leBytes 16 0

/-- A check of every quad that passes. -/
theorem quadsPass {α : Type} {f : State → Nat → State × Check α} {l : List Nat} {s : State}
    (h : ((eachQuad f l s).2.failed.isEmpty && !(eachQuad f l s).2.waits) = true) :
    ∃ u xs, eachQuad f l s = (u, { passed := xs, failed := [], waits := false }) := by
  refine ⟨(eachQuad f l s).1, (eachQuad f l s).2.passed, ?_⟩
  rw [Bool.and_eq_true, Bool.not_eq_true'] at h
  rw [← List.isEmpty_iff.mp h.1, ← h.2]

set_option maxRecDepth 8000 in
theorem witness_RingHandle :
    let s := stocked spad [] ringBytes none
    s.issuing = some gang ∧ (15 : SReg).toNat ≤ 15 ∧ 15 < (16 : SReg).toNat ∧
    (∃ u rs, eachQuad (fun s n => ksetQuad s gang 5 n) (s.live gang) s = (u, { passed := rs, failed := [], waits := false })) ∧
    ringOf ringBytes = some ring ∧ ((demoAt (spad + 8)).quadOf gang 0).rs 5 = spad + 8 ∧
    (spad + 8).toNat % 16 ≠ 0 :=
  ⟨rfl, by decide, by decide, quadsPass rfl, rfl, rfl, by decide⟩

/-! ### Engine queues, loop nests, stamps, accumulates -/

/-- An entry of the given body, and a machine with n of them in each queue. -/
def entry (b : EntryBody) : Entry :=
  { id := 3, ctx := 0, team := 0, wave := 0, quad := 0, body := b, fetched := [], done := false, sent := false, logged := []
    stamp := none }
def queued (es : List Entry) : State :=
  { demoAt 0x10000 with cores := Vector.replicate 288 { demoCore with queues := Vector.replicate 8 es } }

set_option maxRecDepth 8000 in
theorem witness_EngineEntries :
    let s := stocked spad [] copyBytes64 none
    s.issuing = some gang ∧
    (∃ u bs, eachQuad (fun s n => cpyQuad s gang 5 n) gang.quads s = (u, { passed := bs, failed := [], waits := false })) ∧
    Passes (demoAt 0x10000) gang (asks (demoAt 0x10000) 8 8 .counterGet) ∧
    Passes (demoAt 0x10000) gang (asks (demoAt 0x10000) 8 8 .counterAdd) ∧
    ((queued (List.replicate 28 (entry (.qadd 0 0)))).engine 0 7).length + 4 ≤ 32 ∧
    32 < ((queued (List.replicate 29 (entry (.qadd 0 0)))).engine 0 7).length + 4 ∧
    (∀ k : BitVec 3, (0x81 : BitVec 8).getLsbD k.toNat = true →
      ((queued (List.replicate 31 (entry (.qadd 0 0)))).engine 0 k).length < 32) ∧
    32 ≤ ((queued (List.replicate 32 (entry (.qadd 0 0)))).engine 0 7).length ∧
    ((demoAt (spad + 16)).quadOf gang 0).rs 5 = spad + 16 ∧ (spad + 16).toNat % 64 ≠ 0 := by
  refine ⟨rfl, quadsPass rfl, passes rfl, passes rfl, by decide, by decide, by decide, by decide, rfl, by decide⟩

theorem witness_NestEntries :
    let x := nest (lv 8 1 1 0) (lv 0 0 0 0)
    demo.issuing = some gang ∧
    (∃ u bs, eachQuad (fun s n => nestQuad s gang 0x11 x n) gang.quads demo = (u, { passed := bs, failed := [], waits := false })) ∧
    ((queued (List.replicate 28 (entry (.qadd 0 0)))).engine 0 x.queue).length + 4 ≤ 32 ∧
    32 < ((queued (List.replicate 29 (entry (.qadd 0 0)))).engine 0 x.queue).length + 4 ∧
    [7, 0, 0, 0, 0].length = x.levels.length ∧
    (∀ p ∈ [7, 0, 0, 0, 0].zip x.levels, p.1 < max 1 p.2.extent.toNat) := by
  refine ⟨rfl, quadsPass rfl, by decide, by decide, by decide, by decide⟩

theorem witness_LatchAndStamps :
    demo.issuing = some gang ∧ Passes (demoAt 0x10000) gang (asks (demoAt 0x10000) 64 64 .store) :=
  ⟨rfl, passes rfl⟩

/-- An accumulate in flight to the data page. -/
def addend : Acc :=
  { id := 1, oldest := 1, ctx := 0, core := 0, team := 0, wave := 0, quad := 0, addr := 0x10000, pa := 0x10000, op := .add
    ty := .i32, value := 1, count := 1, cls := .unrefusable, phase := .flight, seq := 0, low := false, rel := false, walk := none }

set_option maxRecDepth 8000 in
theorem witness_AccumulateIssue :
    LaneReady demo gang o0 [.v 0 4 4, .v 4 2 2, .one 4, .s 0] ∧
    checkAsks (demoAt 0x10000) gang (laneAsks (demoAt 0x10000) o0 (mm 0 false .none false 0) false 8 8 .store) =
      (demoAt 0x10000, List.replicate 16 (dataLoc 8), []) ∧
    demo.outstanding (demo.coreOf gang) + 1 ≤ 64 ∧ demo.refusalOut gang.t 0x10000 = false ∧
    ({ demo with ctxs := Vector.replicate 64 { demoCtx .running with lnActive := 2 }
                 accs := [{ addend with phase := .returning }] } : State).refusalOut 0 0x10000 = true ∧
    64 < ({ demo with accs := List.replicate 64 addend } : State).outstanding 0 + 1 ∧
    (∀ n ∈ gang.quads, ∀ d ∈ (demo.quadOf gang n).deferred, d.isDrain = false) ∧
    (demo.leader gang).drainSt = .idle ∧ demo.needsDrain gang.t = false := by
  refine ⟨ready _ _ rfl rfl rfl (by decide), rfl, by decide, rfl, rfl, by decide, by decide, rfl, rfl⟩


/-! ### Matrix, texture, walks -/

/-- Quads whose FMT names e4m3 and e5m2. -/
def matQ : Quad := { demoQuad with fmt := 0x0D0C }
def oMat : LaneOp := op 16 32 48 64 31 false .a 2

set_option maxRecDepth 8000 in
/-- A dense and a scaled sparse product whose fields are legal; metadata of zeros, which do not ascend; a span whose
quads name two pairs. -/
theorem witness_MatrixIssue :
    let s := demoQ matQ
    let dense : MatForm := { sparse := none, reuse := false, scl := false }
    let sparse : MatForm := { sparse := some 72, reuse := true, scl := true }
    let mixed := demoOf demoKernel (demoWave (fun n => if n = 1 then { matQ with fmt := 0 } else matQ) 2)
    (∃ f, s.leaderFamily = some f ∧ (dense.opnds oMat f ++ sparse.opnds oMat f).all (·.ok 640) = true) ∧
    s.issuing = some gang ∧ laneFlag (s.leader gang).clause .a = some (some 0) ∧ flagFull s gang (some 0) = false ∧
    badGuard oMat.guard = false ∧ min oMat.minw.toNat (s.teamOf gang).kernel.lgwave ≤ gang.lg ∧
    2 ≤ (s.teamOf gang).kernel.lgwave ∧ (spanFamily s gang dense oMat 0).isSome = true ∧
    (spanFamily s gang sparse oMat 0).isSome = true ∧
    badRows s gang dense oMat = [] ∧ badRows s gang sparse oMat ≠ [] ∧
    spanFamily mixed gang dense oMat 0 = none ∧
    LaneReady demo gang oMat [.v 32 8 4, .v 16 4 4, .v 64 2 2] ∧
    (∃ f, familyOf 0x0000 = some f ∧ f.sum = .integer) ∧ (∃ f, familyOf 0x0A0A = some f ∧ f.sum = .chain) := by
  refine ⟨⟨_, rfl, rfl⟩, rfl, rfl, rfl, rfl, by decide, by decide, rfl, rfl, rfl, by decide, rfl,
    ⟨rfl, rfl, rfl, by decide, by decide⟩, ⟨_, rfl, rfl⟩, ⟨_, rfl, rfl⟩⟩

/-- A texture of 4 by 4 texels of 4 bytes in one level at the start of the data page. -/
def texBytes : List Byte :=
  leBytes 8 0x10000 ++ leBytes 2 4 ++ leBytes 2 4 ++ leBytes 1 1 ++ leBytes 3 0 ++ leBytes 4 16 ++ leBytes 12 0
def texture : TexDesc :=
  { base := 0x10000, w := 4, h := 4, levels := 1, fmt := 0, wrapX := 0, wrapY := 0, pitch := 16 }

set_option maxRecDepth 8000 in
theorem witness_TextureIssue :
    let s := stocked spad [] texBytes none
    let ds := gang.quads.map fun n => (n, texture)
    laneFlag (s.leader gang).clause .a = some (some 0) ∧ flagFull s gang (some 0) = false ∧
    descAll gang (op 12 4 5 0) gang.quads s = (s, ds.map fun x => (x.1, .ok x.2)) ∧
    s.issuing = some gang ∧ [Opnd.v 12 4 1, .v 4 3 1, .s 5].all (·.ok 640) = true ∧
    checkAsks s gang (ds.map fun x => { quad := x.1, lanes := 1, addr := x.2.point 0 0, len := texelBytes texture.fmt
                                        align := 1, need := .read, spad := false }) =
      (s, List.replicate 4 (dataLoc (texelBytes texture.fmt)), []) ∧
    texDescOf texBytes = some texture ∧ 1 ≤ texture.w ∧ 1 ≤ texture.h ∧ texture.levels = 1 := by
  refine ⟨rfl, rfl, rfl, rfl, rfl, rfl, rfl, by decide, by decide, rfl⟩

/-- A record that is idle, with its overflow area in the data page, three edges that cover every sample and a depth
of one half. -/
def recordImage (wpc st sp : Nat) : List Byte :=
  leBytes 8 0 ++ leBytes 4 0x3F800000 ++ leBytes 8 0 ++ leBytes 4 0x3F800000 ++ leBytes 8 0 ++ leBytes 4 0x3F800000 ++
    leBytes 8 0 ++ leBytes 4 0x3F000000 ++ leBytes 80 0 ++ leBytes 8 0x11000 ++ leBytes 4 32 ++ leBytes 4 sp ++
    leBytes 16 0 ++ leBytes 8 (wpc + (if st = 0 then 0 else 0x1000) + st * 0x10000) ++ leBytes 88 0

/-- One lane whose v4 and v5 name an address. -/
def laneAt (a : BitVec 32) : Quad :=
  { demoQuad with em := 1, lanes := Vector.replicate 4 (Lane.start.setV 4 a) }

/-- A machine of one quad whose record has a state. -/
def recorded (st : Nat) (walks : List Walk) : State :=
  { demoOf { demoKernel with wdepth := 1 } (demoWave (fun _ => laneAt 0x10000) 0) with
    mem := Mem.write [] 0x10000 (recordImage 0 st 0), cores := Vector.replicate 288 { demoCore with walks := walks } }

/-- A walk of the record in the data page with its engine's layout of 64-byte nodes of two children. -/
def walk (wpc sp : Nat) (r : Word) (stack : List Word) (buffer : Option (List Byte)) : Walk :=
  { id := 9, ctx := 0, team := 0, wave := 0, quad := 0, lane := 0, pend := 7, vd := 12, record := 0x10000
    image := Vector.ofFn fun i => (recordImage wpc 1 sp).getD i.val 0, regs := Vector.replicate 8 r, stack := stack
    layout := { nodesz := 4, maxkids := 2, kindoff := 0, cpoff := 8, cpenc := 0, boxoff := 16, boxenc := 0, leafoff := 8
                leafenc := 0, base := 0 }
    buffer := buffer, steps := 5, want := none, active := true, fetched := [], logged := [], check := none }

/-- Its lane, once the checks have passed. -/
def lane0 (bs : List Byte) : WalkLane := { quad := 0, lane := 0, va := 0x10000, pa := some 0x10000, depth := 1, bytes := bs }

set_option maxRecDepth 16000 in
theorem witness_WalksBegin :
    let o := op 12 4 0 0 31 false .a 0
    (recorded 0 []).issuing = some single ∧ laneFlag ((recorded 0 []).leader single).clause o.flag = some (some 0) ∧
    flagFull (recorded 0 []) single (some 0) = false ∧ [Opnd.v 4 2 2, .v 12 5 1].all (·.ok 640) = true ∧
    (∃ s1 bs, walkChecks single o true [(0, 0)] (recorded 0 []) =
      (s1, { passed := [lane0 bs], failed := [], waits := false }) ∧ (s1.core 0).walks.length + 1 ≤ 256 ∧
      ∃ w, s1.orderAll (s1.ctxOf single) ([lane0 bs].filterMap (claimOrder s1 single)) = .ok w) ∧
    (walkChecks single o false [(0, 0)] (recorded 2 [])).2.failed = [] ∧
    (lane0 []).pa = some 0x10000 ∧
    256 < ((recorded 0 (List.replicate 256 (walk 0 0 0 [] none))).core 0).walks.length + 1 ∧
    (walkChecks single (op 12 6 0 0 31 false .a 0) true [(0, 0)] (recorded 0 [])).2.failed ≠ [] ∧
    ((recorded 0 []).core 0).heldLine 0 ((0x10000 + 128 : Word).toNat / 128) = none ∧ (recorded 0 []).mem.wf = true ∧
    ((recorded 0 []).word (0x10000 + 160)).toNat / 2 ^ 16 % 16 = 0 ∧
    ((recorded 2 []).word (0x10000 + 160)).toNat / 2 ^ 16 % 16 = 2 := by
  refine ⟨rfl, rfl, rfl, rfl, ⟨_, _, rfl, by decide, _, rfl⟩, rfl, rfl, by decide, by decide, rfl, rfl, rfl, rfl⟩

/-- The walk's engine moves next. -/
def walking (w : Walk) (mem : List Byte) : State :=
  { demo with
    cur := .walk 0 9, mem := Mem.write [] 0x10000 mem, cores := Vector.replicate 288 { demoCore with walks := [w] } }

set_option maxRecDepth 8000 in
/-- A word before the last and the last word, a register of zero and one that is not. -/
theorem witness_WalkRegisters :
    (walking (walk 254 0 0 [] none) []).cur = .walk 0 9 ∧
    (walking (walk 254 0 0 [] none) []).walk? 0 9 = some (walk 254 0 0 [] none) ∧ (walk 254 0 0 [] none).wpc ≠ 255 ∧
    (walking (walk 255 0 3 [] none) []).walk? 0 9 = some (walk 255 0 3 [] none) ∧ (walk 255 0 3 [] none).wpc = 255 ∧
    (walking (walk 255 0 3 [] none) []).walkBusy (walk 255 0 3 [] none) = false ∧
    (walk 254 0 0 [] none).reg 2 = 0 ∧ (walk 255 0 3 [] none).reg 2 ≠ 0 := by
  refine ⟨rfl, rfl, by decide, rfl, by decide, rfl, rfl, by decide⟩

/-- A node of two children, and a leaf of one triangle. -/
def node : List Byte := leBytes 64 2
def leaf : List Byte := leBytes 64 0x10

set_option maxRecDepth 8000 in
theorem witness_WalkNodes :
    let w := walk 0 3 0x10000 [] none
    let s := walking w node
    (∃ v bs, engRead s s (w.eng 0) w.fetched (readKey (w.reg 2)) (w.reg 2) w.layout.nodeBytes = (v, .bytes bs) ∧
      w.layout.malformed bs = false) ∧
    s.cur = .walk 0 9 ∧ s.walk? 0 9 = some w ∧ w.wpc ≠ 255 ∧ (w.reg 2).toNat % 16 = 0 ∧
    touchesWindow (w.reg 2) w.layout.nodeBytes = false ∧
    (walk 0 3 1 [] (some node)).buffer = some node ∧ (60 : BitVec 8).toNat + 2 ^ (2 : BitVec 2).toNat ≤ w.layout.nodeBytes ∧
    ((walk 0 3 1 [] (some node)).reg 2).toNat < field node w.layout.kindoff 1 % 16 ∧
    field leaf w.layout.kindoff 1 % 16 = 0 ∧ 0 < field leaf w.layout.kindoff 1 / 16 ∧
    w.sp < w.w32 136 ∧ 0 < w.sp ∧ w.stack = [] ∧
    (∃ v bs, engRead s s (w.eng 0) w.fetched (readKey (w.slot (w.sp - 1))) (w.slot (w.sp - 1)) 8 = (v, .bytes bs)) ∧
    touchesWindow (w.slot (w.sp - 1)) 8 = false ∧
    (let full := walk 0 31 0 (List.replicate 16 5) none
     full.sp < full.w32 136 ∧ 16 ≤ full.stack.length ∧
       (walkWrite (walking full []) (full.eng 0) (full.slot full.spilled) (leBytes 8 5)).2 = none) ∧
    finiteNonNeg 0 = true ∧ finiteNonNeg 0x7F7FFFFF = true ∧ 1 ≤ (1 : BitVec 3).toNat ∧ (6 : BitVec 3).toNat ≤ 6 := by
  refine ⟨⟨_, _, rfl, rfl⟩, rfl, rfl, by decide, rfl, rfl, rfl, by decide, by decide, rfl, by decide, by decide, by decide,
    rfl, ⟨_, _, rfl⟩, rfl, ⟨by decide, by decide, rfl⟩, rfl, rfl, by decide, by decide⟩

/-- A walk that has claimed index 4 and written its slot. -/
def emitting : Walk :=
  { (walk 7 0 0 [] none).put 192 8 4 with fetched := [(slotMark, none), (turnMark, none)] }

set_option maxRecDepth 8000 in
theorem witness_WalkEmitsAndEnds :
    let s := { walking emitting [] with
      teams := [{ demoTeam demoKernel (demoWave (fun _ => demoQuad) 0) with rings := Vector.replicate 16 (some ring) }] }
    let zs := quadDepths emitting.bytes 0 0
    s.cur = .walk 0 9 ∧ s.walk? 0 9 = some emitting ∧ emitting.wpc ≠ 255 ∧ coverage zs = 15 ∧
    coverage (quadDepths (List.replicate 256 0) 0 0) = 0 ∧
    (s.team emitting.team).ring 15 = some ring ∧ ring.claim ≠ 0 ∧ 32 ≤ ring.bytes ∧ emitting.claim = some 4 ∧
    emitting.marked slotMark = true ∧ emitting.marked turnMark = true ∧
    engLocate s (emitting.eng 0) ring.filled 8 8 .counterAdd = (s, .ok (dataLoc 8)) ∧ s.poisonAt (dataLoc 8) = false ∧
    (engAdd s (emitting.eng 0) emitting.logged ring.filled 1).finished = true ∧
    s.walkBusy emitting = false ∧ (writeDone s (emitting.eng 0) emitting).2 = none ∧
    (writeRecord s (emitting.eng 0) (emitting.put 160 1 8) 2 0 0).2 = none ∧
    (∃ u ps, visPlaces s (emitting.eng 0) [(0x10000, 5)] = (u, .ok ps) ∧ u.outstanding 0 + ps.length ≤ 64) ∧
    emitting.steps < 1048576 ∧ 1048576 ≤ ({ emitting with steps := 1048576 } : Walk).steps := by
  refine ⟨rfl, rfl, by decide, rfl, rfl, rfl, by decide, by decide, rfl, rfl, rfl, rfl, rfl, rfl, rfl, rfl, rfl,
    ⟨_, _, rfl, by decide⟩, by decide, by decide⟩


/-! ### Events of waves and engines -/

/-- No acquire fails where the slices hold nothing. -/
theorem quiet_fails {s : State} (h : s.slices = Vector.replicate 128 Slice.reset) (core : Nat) (a : Acquire) :
    a.fails s core = false := by
  unfold Acquire.fails
  split
  · exact quiet_scope h _ _ _
  · rfl
  · rfl

/-- The machine at a CLK with every quad in one wait. -/
def waiting (k : Kernel) (clk : Nat) (q : Quad) : State := { demoOf k (demoWave (fun _ => q) 2) with clk := clk }

/-- A counter wait on the start of the data page with a timeout of four. -/
def cwait : CWait :=
  { kind := .cwait, loc := .hbm 0x10000, addr := 0x10000, target := 5, timeout := 4, elapsed := 4, cap := 2, acq := true
    st := none, status := none, woken := 0, spilled := false, tag := 3, request := none, cancelled := false }

/-- Eight active gangs of one quad and one pending in a wave of sixteen quads, of which the first waits. -/
def crowd : State :=
  demoOf { demoKernel with lgwave := 4 } { demoWave (fun n => if n = 0 then { demoQuad with wait := .structural } else demoQuad) 4 with
    gangs := (upTo 9).map fun n => { base := n, lg := 0, active := n != 8, slotFree := 0 } }

/-- A remote wait of this device that is outstanding. -/
def remoteWait : Request :=
  { id := 11, cover := 0, who := .wait 0 0 0, ctx := 0, dev := 5, link := 2, sentAt := 0, addr := 0x10000
    body := { id := 11, srcDev := 0, srcCtx := 0, dstCtx := 1, tag := 1, addr := 0x10000, kind := .wait 5 false true }
    retryAt := none }

set_option maxRecDepth 8000 in
theorem witness_WaveEvents :
    demo.gang? 0 0 0 = some gang ∧
    -- a miss-split: quads 0 and 1 are ready, 2 and 3 are not
    (let s := { demoOf { demoKernel with msplit := true } (demoWave (fun n =>
        { demoQuad with wait := .header 1 true 0, f := Vector.replicate 12 (if n < 2 then 0 else 1) }) 2) with clk := 16 }
     s.gang? 0 0 0 = some gang ∧ (s.leader gang).wait = .header 1 true 0 ∧ (s.teamOf gang).kernel.msplit = true ∧
       0 + 16 ≤ s.clk ∧ (gang.quads.filter fun n => (s.quadOf gang n).f.getD 0 0 == 0) = [0, 1]) ∧
    -- fuse timers, before and at their end
    (let s := { demoOf demoKernel (joinWave 0x01) with clk := 2048 }
     let t := waiting demoKernel 2047 { demoQuad with wait := .fuse 3 0 }
     (s.joinTest 0 0).quad 0 0 0 = s.quad 0 0 0 ∧ (s.quad 0 0 0).wait = .jwait 3 0 ∧
       ((s.joinTest 0 0).waveOf gang).jwaitSince 3 0x20008 s.clk + demoKernel.fusetmo ≤ s.clk ∧
       (t.leader gang).wait = .fuse 3 0 ∧ t.clk < fuseSince t gang gang.quads 3 + demoKernel.fusetmo ∧
       fuseSince { t with clk := 2048 } gang gang.quads 3 + demoKernel.fusetmo ≤ 2048) ∧
    -- a pending gang, and a free place or an idle gang
    oldest (readyGangs crowd 0 0 false) = some { t := 0, w := 0, base := 8, lg := 0 } ∧ 8 ≤ activeCount crowd 0 0 ∧
    oldest (idleGangs crowd 0 0) = some { t := 0, w := 0, base := 0, lg := 0 } ∧
    oldest (readyGangs demo 0 0 false) = none ∧ activeCount demo 0 0 < 8 ∧
    -- the watchdog
    (demoWave (fun _ => demoQuad) 2).wdog ≠ 1 ∧ (∀ n ∈ gang.quads, (demo.quadOf gang n).inHandler = false) ∧
    -- counter waits: released, expired, of another device
    (let s := waiting demoKernel 0 { demoQuad with wait := .counter cwait }
     (s.quad 0 0 0).wait = .counter cwait ∧ cwait.timeout ≠ 0 ∧ cwait.timeout.toNat ≤ cwait.elapsed ∧
       cwait.status = none ∧ cwait.request = none ∧
       (({ cwait with request := some 11 } : CWait).request.bind fun id =>
         ({ s with requests := [remoteWait] } : State).requests.find? fun y => y.id == id) = some remoteWait ∧
       Acquire.fails s (s.wave 0 0).core { quad := 0, lanes := 0xF, at_ := cwait.acqLine } = false) := by
  refine ⟨rfl, ⟨rfl, rfl, rfl, by decide, rfl⟩, ⟨rfl, rfl, by decide, rfl, by decide, by decide⟩, rfl, by decide, rfl, rfl,
    by decide, by decide, by decide, rfl, by decide, by decide, rfl, rfl, rfl, quiet_fails rfl _ _⟩


/-- A copy of one row within the data page, plain or to slots of ring 1. -/
def block (rmode : Bool) : CopyBlock :=
  { source := 0x10100, dest := if rmode then 0 else 0x10200, rowbytes := 64, rows := 1, spitch := 0, dpitch := 0, ctr := 0
    addend := 0, ring := 1, rmode := rmode, fill := false }
def job (rmode : Bool) (claimed : Option Word) (written : Bool) : CopyJob :=
  { b := block rmode, asked := true, claimed := claimed, written := written, published := false }

/-- A loop nest of eight elements on the data page at its n-th element; with its X at an address. -/
def nestBody (n : Nat) (x : Word) : NestBody :=
  { op := 0, nest := { nest (lv 8 1 1 0) (lv 0 0 0 0) with ty := .i32, rnd := .rne }, s0 := 0x10200, s1 := x, s2 := 0
    s3 := 0x10000, s4 := 1, seed := 0, n := n, ac := 0, acLoaded := false, stopped := false }

/-- A machine whose queues hold one entry, with ring handles. -/
def engine (e : Entry) : State :=
  { stocked 0x10000 [] [] (some ring) with
    cores := Vector.replicate 288 { demoCore with queues := Vector.replicate 8 [e] } }

/-- A page of another device's memory, through remote window 0 of a context that has one. -/
def farPage : TlbEntry := { page 0x40000 false 0 with frame := Config.apertureBase + 2 ^ 48 }
def farWindow : RemoteWindow := { valid := true, rbase := 0x40000, size := 2 ^ 30, dev := 5, ctx := 1 }
def far (e : Entry) : State :=
  { engine e with
    ctxs := Vector.replicate 64 { demoCtx .running with windows := Vector.replicate 256 farWindow }
    cores := Vector.replicate 288 { demoCore with tlb := [farPage], queues := Vector.replicate 8 [e] }
    fabValid := true, fabId := 1, route := [(5, 2)]
    links := Vector.replicate 18 { Link.reset with state := .up, en := true } }

set_option maxRecDepth 16000 in
theorem witness_EngineEvents :
    let w := entry (.qwait 0x10000 0)
    let a := entry (.qadd 0x10000 1)
    let late := entry (.qwait 0x10000 5)
    let c := entry (.copy { job false none false with asked := false })
    let r := entry (.copy (job true none false))
    let i := entry (.copy (job true (some 4) false))
    let p := entry (.copy (job true (some 0) true))
    let n := entry (.nest (nestBody 6 0x10300))
    let m := entry (.marker 0xFF 3)
    (engine w).engine 0 7 = [w] ∧ ((engine w).ctx w.ctx).saving = false ∧
    -- a wait that is over and one that is not, an add
    (engWait (engine w) (w.eng 0) [] [] 0 0x10000 0).finished = true ∧
    (engWait (engine late) (late.eng 0) [] [] 0 0x10000 5).finished = false ∧
    (engAdd (engine a) (a.eng 0) [] 0x10000 1).finished = true ∧ 4 ∈ ({ a with logged := [1, 3, 4] } : Entry).logged ∧
    -- copies: to a destination, to a slot, the wait for the slot, the publication
    ((engine c).startCopy 0 c { job false none false with asked := false }).1.engFetching (c.eng 0) = false ∧
    (block false).rmode = false ∧ (engine r).engFetching (r.eng 0) = false ∧
    (engine r).jobRing r (job true none false) = some ring ∧
    ringWord (engine i) (i.eng 0) ring.freed .counterGet = (engine i, some (.mem [(0x10008, 8, 0x10008, page 0x10000 false 0)])) ∧
    (engWait (engine i) (i.eng 0) [] [] freeKey ring.freed (ring.target false 3)).finished = true ∧
    (engWait (engine i) (i.eng 0) [] [] freeKey ring.freed (ring.target false 4)).finished = false ∧
    ringWord (engine p) (p.eng 0) ring.filled .counterAdd = (engine p, some (dataLoc 8)) ∧
    (engWait (engine p) (p.eng 0) [] [] fillKey ring.filled 0).finished = true ∧
    (engAdd (engine p) (p.eng 0) [] ring.filled 1).finished = true ∧
    -- markers and loop nests
    (∀ k ∈ (engine m).groupQueues 0 3, (engine m).headGroup 0 k = some 3) ∧
    (∃ u b, nestNext (engine n) (n.eng 0) 0 [] (nestBody 6 0x10300) = (u, .taken b) ∧ b.atEnd = false) ∧
    (∃ u b, nestNext (engine n) (n.eng 0) 0 [] (nestBody 7 0x10300) = (u, .taken b) ∧ b.atEnd = true) ∧
    (∃ u x y z, nestNext (engine n) (n.eng 0) 0 [] (nestBody 6 0x90300) = (u, .faults x y z)) ∧
    (∃ u, nestNext (far n) (n.eng 0) 0 [] (nestBody 6 0x40300) = (u, .waits)) := by
  refine ⟨rfl, rfl, rfl, rfl, rfl, by decide, rfl, rfl, rfl, rfl, rfl, rfl, rfl, rfl, rfl, rfl, by decide,
    ⟨_, _, rfl, rfl⟩, ⟨_, _, rfl, rfl⟩, ⟨_, _, _, _, rfl⟩, ⟨_, rfl⟩⟩

/-! ### Caches, accumulates, contexts -/

/-- Tables that map the first GiB to itself, for tenant 1: CTXROOT 0x50000, a level-2 leaf that may be written
and hold counters. -/
def tables : Mem := Mem.write (Mem.write [] 0x50000 (leBytes 8 0x80001 ++ leBytes 8 1)) 0x80000 (leBytes 8 0x117 ++ leBytes 8 1)

/-- A context whose tables are these. -/
def mapped (phase : CtxPhase) : Ctx := { demoCtx phase with root := 5, save := 0x40, svSize := 16 }

/-- The machine with these contexts, nothing translated, and more memory. -/
def tabled (x : Ctx) (a : Nat) (mem : List Byte) : State :=
  { demo with
    ctxs := Vector.replicate 64 x, mem := Mem.write tables a mem, cores := Vector.replicate 288 CoreSt.reset }

/-- A line that the core holds, bound or not. -/
def heldLine (bound : Option Nat) : HeldLine :=
  { ctx := 0, line := 0x200, mask := 0xF, data := Vector.replicate 128 7, sources := Vector.replicate 16 0, bound := bound, pinned := false, low := false, writers := [] }
def holding (x : Ctx) (bound : Option Nat) : State :=
  { tabled x 0 [] with cores := Vector.replicate 288 { CoreSt.reset with held := [heldLine bound] } }

/-- A code page that waits for its check, and its manifest entry. -/
def checking : State :=
  { demo with cores := Vector.replicate 288 { demoCore with checks := [{ ctx := 0, base := 0x20000 }] } }

/-- What an answer holds. -/
theorem okOf {ε α : Type} {x : Except ε α} (h : x.toOption.isSome = true) : ∃ a, x = .ok a := by
  cases x with
  | ok a => exact ⟨a, rfl⟩
  | error _ => cases h

/-- What a failed answer holds. -/
theorem errorOf {ε α : Type} {x : Except ε α} (h : x.toOption.isNone = true) : ∃ e, x = .error e := by
  cases x with
  | ok _ => cases h
  | error e => exact ⟨e, rfl⟩

set_option maxRecDepth 16000 in
theorem witness_CacheEvents :
    ((tabled (mapped .running) 0 []).ctx 0).phase.live = true ∧
    (∀ e ∈ ((tabled (mapped .running) 0 []).core 0).tlb, e.covers 0 0x10000 = false) ∧
    (∃ e, walkTable (tabled (mapped .running) 0 []) 0 0x3FFFFFFF = .ok e) ∧
    (∃ f, walkTable (tabled (mapped .running) 0 []) 0 0x40000000 = .error f) ∧
    ({ ctx := 0, base := (0x2FFFF : Word).toNat / 65536 * 65536 } : CodeCheck) ∈ (checking.core 0).checks ∧
    ((checking.core 0).tlb.find? fun e => e.ctx == 0 && e.base == (0x2FFFF : Word).toNat / 65536 * 65536) =
      some (page 0x20000 true 0) ∧
    (demo.core 0).heldLine 0 ((0x10000 : Word).toNat / 128) = none ∧
    ((holding (mapped .running) none).core 0).heldLine 0 ((0x10000 : Word).toNat / 128) = some (heldLine none) ∧
    ((holding (mapped .running) (some 5)).core 0).heldLine 0 ((0x10000 : Word).toNat / 128) = some (heldLine (some 5)) ∧
    (∃ u b, bindLine (holding (mapped .running) none) 0 (heldLine none) = (u, .ok b)) ∧
    (∃ u f, bindLine (holding (demoCtx .running) none) 0 (heldLine none) = (u, .error f)) ∧
    (Config.hbmTop / 128 - 1) * 128 < Config.hbmTop ∧ Config.hbmTop ≤ Config.hbmTop / 128 * 128 ∧
    demo.promoting 0 0x200 = [] ∧
    (waiting demoKernel 0 { demoQuad with wait := .promote [0x200] [] none }).promoting 0 0x200 = [0] := by
  refine ⟨rfl, by decide, okOf rfl, errorOf rfl, by decide, rfl, rfl, rfl, rfl, ⟨_, _, rfl⟩, ⟨_, _, rfl⟩, by decide, by decide,
    rfl, rfl⟩

/-- A residual tile with one place, at the start of scratchpad's last KiB. -/
def tiled (mem : Mem) : State :=
  { demo with
    teams := [{ demoTeam { demoKernel with lgres := 1 } (demoWave (fun _ => demoQuad) 2) with scratch := mem }]
    accs := [{ addend with phase := .returning, cls := .refusable }] }

theorem witness_AccumulateEvents :
    gang.t < demo.teams.length ∧ (demo.teamOf gang).scratch.wf = true ∧ physKind 0x10000 = .hbm ∧
    (demo.core (demo.coreOf gang)).heldLine (demo.ctxOf gang) ((0x10000 : Word).toNat / 128) = none ∧
    (demo.teamOf gang).kernel.rtn = 0 ∧ (demo.ctx 0).lnActive = 0 ∧
    (({ demo with accs := [addend] } : State).accs.find? fun a => a.id == 1 && decide (a.phase = .flight)) = some addend ∧
    demo.isPoisoned (lineOf addend.pa) = false ∧ (demo.ctx 0).acc.toNat = 16 ∧
    ((tiled []).accs.find? fun a => a.id == 1 && decide (a.phase = .returning)) =
      some { addend with phase := .returning, cls := .refusable } ∧
    tileEntry ((tiled []).team 0) (tileIndex ((tiled []).team 0).kernel 0x10000) = none ∧
    (∃ y, tileEntry ((tiled (Mem.write [] 0 addend.residual.bytes)).team 0)
      (tileIndex ((tiled []).team 0).kernel 0x10000) = some y ∧ y.addr = addend.addr ∧ y.op = addend.op ∧ y.ty = addend.ty) ∧
    (∃ y, tileEntry ((tiled (Mem.write [] 0 { addend with addr := 0x10080 }.residual.bytes)).team 0)
      (tileIndex ((tiled []).team 0).kernel 0x10000) = some y ∧ y.sameAs addend.residual = false) ∧
    (let s := waiting demoKernel 0 { demoQuad with wait := .drain 4 }
     4 ∈ (s.team 0).drains ∧ (s.pumpDrain 0 4).draining 0 4 = false ∧ (s.pumpDrain 0 4).drainResult 0 4 ≠ .idle) := by
  refine ⟨by decide, rfl, rfl, rfl, rfl, rfl, rfl, rfl, rfl, rfl, rfl, ⟨_, rfl, rfl, rfl, rfl⟩, ⟨_, rfl, rfl⟩, by decide,
    by decide, by decide⟩


/-- A context whose command block may be bound. -/
def bindable : Ctx := { demoCtx .created with tag := 7, winHi := 0xFF }

/-- A save area without launches or packets. -/
def saveBytes : List Byte := leBytes 4 1 ++ leBytes 20 0 ++ leBytes 8 256 ++ leBytes 224 0

/-- Two contexts 0 and 1 and the rest destroyed. -/
def pair (x y : Ctx) : State :=
  { demo with ctxs := ((Vector.replicate 64 (Ctx.fresh .destroyed)).set 0 x).set 1 y }

set_option maxRecDepth 16000 in
theorem witness_ContextCommands :
    demo.fw = .running ∧ demo.owner 31 = some .p0 ∧ demo.owner 32 ≠ some .p0 ∧
    (∀ p ∈ [CtxPhase.running, .created, .bound, .saved, .faulted, .destroyed],
      ((pair (demoCtx p) bindable).ctx 0).phase = p ∧ ((pair (demoCtx p) bindable).ctx 0).busy = false) ∧
    ({ demoCtx .running with busy := true } : Ctx).busy = true ∧
    bindable.tag ≠ 0 ∧ bindable.ways ≠ 0 ∧ bindable.acc ≠ 0 ∧ bindable.winLo ≤ bindable.winHi ∧
    (bindable.winHi.toNat + 1) * 65536 ≤ Config.withheld ∧ bindable.winLo ≤ bindable.root ∧
    bindable.root ≤ bindable.winHi ∧ canonical (bindable.log ++ 0#6) = true ∧ (demoCtx .created).tag ≠ bindable.tag ∧
    (((pair bindable (demoCtx .running)).ctx 1).counts = true ∧ ((pair bindable (demoCtx .running)).ctx 1).winLo ≤ bindable.winHi ∧
      bindable.winLo ≤ ((pair bindable (demoCtx .running)).ctx 1).winHi) ∧
    ((pair bindable (Ctx.fresh .destroyed)).ctx 1).counts = false ∧
    readSave (tabled (mapped .saved) 0x40000 []) 0 = none ∧
    (∃ a, readSave (tabled (mapped .saved) 0x40000 saveBytes) 0 = some a) ∧
    (demo.ctx 0).phase.live = true ∧ (demo.ctx 0).destroying = false ∧ (Ctx.fresh .destroyed).phase.live = false := by
  refine ⟨rfl, by decide, by decide, by decide, rfl, by decide, by decide, by decide, by decide, by decide, by decide,
    by decide, by decide, by decide, by decide, rfl, rfl, ⟨_, rfl⟩, rfl, rfl, rfl⟩

/-- A context that quiesces since wall-clock time 0. -/
def quiescing (saving : Bool) : Ctx :=
  { mapped .quiescing with quiesceDrain := 1000, quiesceSave := 20000, saving := saving }

set_option maxRecDepth 32000 in
theorem witness_ContextEvents :
    (let y : Ctx := { demoCtx .created with busy := true }; y.phase = .created ∧ y.busy = true ∧ y.destroying = false) ∧
    (let y : Ctx := { demoCtx .reset with busy := true }; y.phase = .reset ∧ y.busy = true) ∧
    (demo.ctx 0).phase ≠ .created ∧ ({ demoCtx .created with destroying := true } : Ctx).destroying = true ∧
    (quiescing false).phase = .quiescing ∧ (quiescing false).saving = false ∧ (quiescing false).quiesceMig = false ∧
    (quiescing false).quiesceAt + (quiescing false).quiesceDrain * microsecond ≤ 1000 * microsecond ∧
    1000 * microsecond - 1 < (quiescing false).quiesceAt + (quiescing false).quiesceDrain * microsecond ∧
    (quiescing true).quiesceAt + ((quiescing true).quiesceDrain + (quiescing true).quiesceSave) * microsecond ≤
      21000 * microsecond ∧
    (quiescing true).saving = true ∧
    ((tabled (quiescing true) 0x40000 []).stoppedTeams 0) = [] ∧ (tabled (quiescing true) 0x40000 []).savable 0 = true ∧
    (let v : BitVec 64 := 0x20000000000; v.extractLsb' 57 2 = 0) ∧
    -- ownership
    demo.fw = .running ∧ demo.owner 0 = some .p0 ∧ (State.reset.ctx 0).phase = .destroyed ∧
    (State.reset.owner 32 ≠ some .p0 ∧ State.reset.owner 32 ≠ none) ∧
    ((0x25 : Word).extractLsb' 8 2 = (0 : BitVec 2)) ∧ ((0x325 : Word).extractLsb' 8 2 = (3 : BitVec 2)) ∧
    -- invalidation
    (demo.ctx 0).phase.live = true ∧ (demo.ctx 0).invPend = false ∧
    demo.inFlightIn 0 (invRange (demo.ctx 0).invSize (demo.ctx 0).invVa) = false ∧
    -- Lantern's quad
    (let s := demoOf demoKernel { demoWave (fun _ => demoQuad) 2 with stopped := true }
     s.selected 0 = some (0, 0) ∧ (3 : BitVec 4).toNat < (s.wave 0 0).quads.length ∧ (s.wave 0 0).stopped = true) ∧
    State.reset.selected 0 = none := by
  refine ⟨⟨rfl, rfl, rfl⟩, ⟨rfl, rfl⟩, by decide, rfl, rfl, rfl, rfl, by decide, by decide, by decide, rfl, rfl, rfl, by decide,
    rfl, rfl, rfl, by decide, by decide, by decide, rfl, rfl, rfl, ⟨rfl, by decide, rfl⟩, rfl⟩
/-- Cores that hold nothing stay as they are where a save empties them. -/
theorem idle_core {s : State} (h : s.cores = Vector.replicate 288 CoreSt.reset) (n : Nat) : s.core n = CoreSt.reset := by
  simp only [State.core, h]
  split
  · exact Vector.getElem_replicate ..
  · rfl

theorem idle_emptyL1 {s : State} (h : s.cores = Vector.replicate 288 CoreSt.reset) (c : BitVec 6) (n : Nat) :
    s.emptyL1 c n = s := by
  have hs : s.settleStores c [n] = s := by
    simp only [State.settleStores, List.foldl_cons, List.foldl_nil, idle_core h, writeBackBound]
    change List.foldl _ s (List.filter _ (s.core n).held) = s
    rw [idle_core h]
    rfl
  simp only [State.emptyL1, hs, State.modCore]
  have : modVec s.cores n (fun k =>
      { k with clean := k.clean.filter fun h => h.ctx != c, ilines := k.ilines.filter fun h => h.ctx != c }) = s.cores := by
    rw [h]
    apply Vector.ext
    intro i hi
    simp only [modVec]
    split
    · rw [Vector.getElem_set]
      split
      · simp [CoreSt.reset]
      · rfl
    · rfl
  rw [this]

theorem idle_saveWalks {s : State} (h : s.cores = Vector.replicate 288 CoreSt.reset) (c : BitVec 6) (n : Nat) :
    s.saveWalks c n = s := by
  simp only [State.saveWalks, idle_core h]
  rfl

theorem foldl_same {α β : Type} (f : α → β → α) (l : List β) (s : α) (h : ∀ x, f s x = s) : l.foldl f s = s := by
  induction l with
  | nil => rfl
  | cons x l ih => rw [List.foldl_cons, h x, ih]

theorem idle_beginSave {s : State} (h : s.cores = Vector.replicate 288 CoreSt.reset) (c : BitVec 6)
    (hs : s.stoppedTeams c = []) : s.beginSave c = s := by
  have hf : (upTo 288).foldl (fun s core => (s.saveWalks c core).emptyL1 c core) s = s :=
    foldl_same _ _ _ fun n => by rw [idle_saveWalks h, idle_emptyL1 h]
  simp only [State.beginSave]
  rw [hf, hs]
  rfl

set_option maxRecDepth 8000 in
theorem witness_ContextEvents_save :
    ((tabled (quiescing true) 0x40000 []).beginSave 0).savable 0 = true ∧
    ∃ u, ((tabled (quiescing true) 0x40000 []).beginSave 0).writeSave 0 = some u := by
  have hb : (tabled (quiescing true) 0x40000 []).beginSave 0 = tabled (quiescing true) 0x40000 [] :=
    idle_beginSave rfl 0 rfl
  rw [hb]
  refine ⟨rfl, ?_⟩
  have h1 : (tabled (quiescing true) 0x40000 []).cancelWaits 0 = tabled (quiescing true) 0x40000 [] := rfl
  have h0 : (tabled (quiescing true) 0x40000 []).stoppedTeams 0 = [] := rfl
  simp only [State.writeSave, h1, h0, List.foldl_nil]
  rw [if_neg (by decide)]
  exact ⟨_, rfl⟩

/-! ### The device, its queues and launches -/

/-- The device while its firmware fails, with a recovery image of some length. -/
def recovering (state : BitVec 3) (len : Nat) : State :=
  { State.reset with fw := .failed, recovery := { buffer := [], len := BitVec.ofNat 22 len, state := state, reason := 0 } }

/-- A link in a state since wall-clock time 0. -/
def linked (st : LinkState) : Link := { Link.reset with state := st, en := true }

/-- The machine with outstanding requests, its links up. -/
def asking (r : Request) : State := { far (entry (.qwait 0 0)) with requests := [r] }

/-- A request of another device for context 1. -/
def served (kind : RemoteKind) : RemoteReq := { remoteWait.body with dstCtx := 0, kind := kind }

/-- The machine with tables, whose links are up. -/
def serving : State := { tabled (mapped .running) 0 [] with links := Vector.replicate 18 (linked .up) }

set_option maxRecDepth 16000 in
theorem witness_DeviceEvents :
    -- firmware, recovery, ports
    State.reset.fw = .verifying ∧ (imageOk [] = true ∨ imageOk [] = false) ∧ demo.fw ≠ .verifying ∧
    (recovering 0 0).fw = .failed ∧ (recovering 0 0).recovery.state ≠ 1 ∧ (recovering 1 0).recovery.state = 1 ∧
    recoveryReason 0 [] ≠ 0 ∧ demo.fw = .running ∧ demo.owner 0 = some .p0 ∧
    -- host accesses: outside every window, inside one, to the last byte of a frame and a line
    demo.hostCtx .p0 0xFF00000000 = none ∧ demo.hostCtx .p0 0x10000 = some 0 ∧
    (0x10000 : BitVec 40).toNat % 65536 + 65536 ≤ 65536 ∧ demo.poisonedRange 0x10000 65536 = false ∧
    (∀ l, demo.record l = none) ∧ 0x10000 % 128 + 128 ≤ 128 ∧ demo.isPoisoned (0x10000 / 128) = false ∧ demo.mem.wf = true ∧
    demo.word 0x10000 ≤ (demo.rawWrite 0 0x10000 (leBytes 8 1)).word 0x10000 ∧
    0x10001 % 8 ≠ 0 ∧ 0x10000 % 8 = 0 ∧ 2 ^ 64 ≤ ((stocked 0 (List.replicate 8 0xFF) [] none).word 0x10000).toNat + 1 ∧
    (demo.word 0x10000).toNat + (0xFFFFFFFFFFFFFFFF : Word).toNat < 2 ^ 64 ∧ (demo.ctx 0).lnActive = 0 ∧
    -- links
    State.reset.fw ≠ .running ∧ (serving.link 3).state = .up ∧ (demo.link 3).state ≠ .up ∧ serving.linkUp 3 = true ∧
    (linked .training).state = .training ∧ demo.wall ≤ (linked .training).trainAt + 10000 * microsecond ∧
    routeLink (far (entry (.qwait 0 0))) 5 = some 2 ∧ (5 : Nat) ≠ (far (entry (.qwait 0 0))).fabId.toNat ∧
    -- requests served here
    (State.reset.ctx 0).phase.live = false ∧ (serving.ctx 0).phase.live = true ∧ (served (.read 8)).tag = (serving.ctx 0).tag ∧
    2 ≠ (serving.ctx 0).tag ∧
    (∃ v ps, servePlace serving (served (.read 8)) = (v, .ok ps)) ∧
    (∃ v pa k e, servePlace serving (served (.add 1 true)) = (v, .ok [(pa, k, e)]) ∧ pa % 8 = 0) ∧
    -- requests made here
    (asking remoteWait).request? 11 = some remoteWait ∧ remoteWait.body.kind.isWait = true ∧
    (served (.read 8)).kind.brings = true ∧ (served (.add 1 true)).kind.brings = false ∧
    (served (.add 1 true)).kind.isWait = false ∧ remoteWait.retryAt = none ∧
    2000 * microsecond - 1 < remoteWait.sentAt + 2000 * microsecond ∧ remoteWait.sentAt + 2000 * microsecond ≤ 2000 * microsecond ∧
    0 + 4 * microsecond ≤ 4 * microsecond ∧ remoteWait.cancelled (asking remoteWait) = false ∧
    routeLink (asking remoteWait) remoteWait.dev = some 2 ∧
    remoteWait.cancelled (waiting demoKernel 0 { demoQuad with wait := .counter { cwait with cancelled := true } }) = true := by
  refine ⟨rfl, by cases imageOk [] <;> simp, by decide, rfl, by decide, rfl, by decide, rfl, rfl, rfl, rfl, by decide, rfl, ?_,
    by decide, rfl, rfl, by decide, by decide, by decide, by decide, by decide, rfl, by decide, rfl, by decide, rfl, rfl,
    by decide, rfl, by decide, rfl, rfl, rfl, by decide, ⟨_, _, rfl⟩, ⟨_, _, _, _, rfl, rfl⟩, rfl, rfl, rfl, rfl, rfl, rfl,
    by decide, by decide, by decide, rfl, rfl, rfl⟩
  intro l
  have h : demo.sliceAt l = Slice.reset := quiet rfl _
  simp [State.record, quiet (s := demo) rfl, Slice.reset]

/-- A queue in a state whose counters are the first words of the data page, with admitted packets. -/
def queue (st : QueueState) (adm : List Admitted) : Queue :=
  { Queue.reset with
    ring := 0x11000, prod := 0x10000, cons := 0x10008, lgsize := 4, state := st, admitted := adm }

/-- The machine with tables whose queues are all in one state, with their producer and consumer counts. -/
def queues (st : QueueState) (adm : List Admitted) (p c : Nat) : State :=
  tabled { mapped .running with queues := Vector.replicate 256 (queue st adm) } 0x10000 (leBytes 8 p ++ leBytes 8 c)

/-- A packet of a type that names the counter in front of the data page and a number. -/
def packet (type : Byte) (n : Nat) : Admitted :=
  { id := 21, index := 3, packet := type :: leBytes 7 0 ++ leBytes 8 0x10000 ++ leBytes 8 n ++ leBytes 40 0, started := false
    restored := false, satisfied := false, job := none, core := 0, stage := 0, fetched := [], logged := [] }

/-- A launch of two teams of the machine's kernel. -/
def launch (st : LaunchState) : Launch :=
  { ctx := 0, queue := 0, index := 3, packet := (packet 1 0).packet, kernel := demoKernel, gridid := 1, state := st, resumed := false, total := 2
    next := 0, ended := 0, compAddr := 0x10000, addend := 1, parent := 0xFFFFFFFF, irq := false, sent := false }

/-- The machine with tables, that launch and one team in a phase. -/
def launched (st : LaunchState) (phase : TeamPhase) : State :=
  { queues .empty [] 5 3 with
    launches := [launch st], teams := [{ demoTeam demoKernel (demoWave (fun _ => demoQuad) 2) with phase := phase }] }

set_option maxRecDepth 16000 in
theorem witness_QueueEvents :
    let s := queues .empty [] 5 3
    let r := queues .ready [] 5 3
    ((s.ctx 0).phase = .running ∧ (s.queue 0 0).state = .empty ∧ s.counterPlace 0 0x10000 .counterGet = some 0x10000 ∧
      s.counterPlace 0 0x10008 .counterGet = some 0x10008 ∧ s.word 0x10008 < s.word 0x10000 ∧
      (queues .empty [] 3 3).word 0x10000 ≤ (queues .empty [] 3 3).word 0x10008) ∧
    s.counterPlace 0 0x10004 .counterGet = none ∧
    (∃ v i p slot raw, observe (queues .blocked [] 5 3) 0 0 = (v, .head i p slot raw)) ∧
    (State.reset.ctx 0).phase ≠ .running ∧
    (((List.range 64).map fun i => r.lastGrant + 1 + BitVec.ofNat 6 i).find? fun c => r.takesGrant c) = some 0 ∧
    (let w : State := { r.modCtx 0 (fun x => { x with queues := x.queues.map Queue.age }) with lastGrant := 0 }
     w.pick 0 [] = some 0 ∧ ∃ v i p slot raw y x, observe w 0 0 = (v, .head i p slot raw) ∧ checkPacket v 0 0 slot raw = (y, .ok x)) := by
  refine ⟨⟨rfl, rfl, rfl, rfl, by decide, by decide⟩, rfl, ⟨_, _, _, _, _, rfl⟩, by decide, rfl, ?_⟩
  have h : (queues .ready [] 5 3).modCtx 0 (fun x => { x with queues := x.queues.map Queue.age }) = queues .ready [] 5 3 := by
    simp only [State.modCtx, queues, tabled, modVec]
    congr 1
    apply Vector.ext
    intro i hi
    rw [dif_pos (by decide), Vector.getElem_set]
    split <;> simp [Vector.map_replicate, Queue.age, queue, Queue.reset]
  rw [h]
  exact ⟨rfl, _, _, _, _, _, _, _, rfl, rfl⟩

/-- No context of the machine after reset takes a grant. -/
theorem witness_noGrant (d : BitVec 6) : State.reset.takesGrant d = false := by
  have h : State.reset.ctx d = Ctx.fresh .destroyed := Vector.getElem_replicate ..
  simp only [State.takesGrant, h]
  rfl

set_option maxRecDepth 16000 in
theorem witness_PacketEvents :
    let wait (n : Nat) := queues .ready [packet 3 n] 5 3
    let add := queues .ready [packet 4 1] 5 3
    let copy (stage : Nat) := queues .ready [{ packet 2 0 with job := some (job false none false), started := true, stage := stage }] 5 3
    ((wait 5).packet? 0 0 3 = some (packet 3 5) ∧ packetType (packet 3 5).packet = 3 ∧ (wait 5).packetsRun 0 = true ∧ (wait 5).startsNow 0 (packet 3 5) = true ∧ (packet 3 5).logged = [] ∧
      (((wait 5).queue 0 0).admitted.find? fun x => x.id == (packet 3 5).id) = some (packet 3 5) ∧
      ((wait 5).ctx 0).lnActive = 0 ∧
      (wait 5).counterPlace 0 (field64 (packet 3 5).packet 8) .counterGet = some 0x10000 ∧
      field64 (packet 3 5).packet 16 ≤ (wait 5).word 0x10000 ∧ (wait 6).word 0x10000 < field64 (packet 3 6).packet 16) ∧
    (add.packet? 0 0 3 = some (packet 4 1) ∧ packetType (packet 4 1).packet = 4 ∧ add.packetGoes 0 (packet 4 1) = true ∧
      add.isOldest 0 0 21 = true ∧ ∃ t, dispatchAdd add 0 (field64 (packet 4 1).packet 8) (field64 (packet 4 1).packet 16) (.engine 288 21 0) =
        .over t ∧ t.packetAsked 21 = false) ∧
    ({ add with requests := [{ remoteWait with who := .engine 288 21 0 }] } : State).packetAsked 21 = true ∧
    (tabled { mapped .quiescing with queues := Vector.replicate 256 (queue .ready [packet 4 1]) } 0x10000 []).packetGoes 0
      (packet 4 1) = false ∧
    (let a : Admitted := { packet 2 0 with job := some (job false none false), started := true }
     (copy 0).packet? 0 0 3 = some a ∧ (copy 0).packetGoes 0 a = true ∧ (copy 0).engFetching (a.eng 0) = false ∧
       ({ copy 0 with requests := [{ remoteWait with who := .engine a.core a.id 0, body := served (.read 8) }] } : State).engFetching (a.eng 0) = true) ∧
    (add.counterPlace 0 0x10000 .counterAdd = some 0x10000 ∧ 2 ^ 64 ≤ (add.word 0x10000).toNat + (2 ^ 64 - 5) ∧
      (add.word 0x10000).toNat + (2 ^ 64 - 6) < 2 ^ 64 ∧ add.mem.wf = true ∧ 0x10000 % 8 = 0) := by
  refine ⟨⟨rfl, rfl, rfl, rfl, by decide, rfl, rfl, by decide, by decide⟩, ⟨rfl, rfl, rfl, rfl, _, rfl, rfl⟩, rfl, rfl,
    ⟨rfl, rfl, rfl, rfl⟩, rfl, by decide, by decide, rfl, rfl⟩

set_option maxRecDepth 16000 in
theorem witness_LaunchEvents :
    (let s := launched .dispatching .ended
     s.launches[0]? = some (launch .dispatching) ∧ s.isTurn 0 0 = true ∧ s.teamFits demoKernel 0 [0] = true ∧
       (∀ k, s.replayCore 0 1 ((s.nextTeam 0).id s (launch .dispatching)) = some k → k = 0) ∧ s.nextTeam 0 = .new ∧
       s.teamFits demoKernel 0 [4] = false) ∧
    (launched .dispatching .saved).nextTeam 0 = .saved 0 ∧ (launched .running .live).nextTeam 0 = .none ∧
    (launch .running).state ≠ .completing ∧
    (let s := launched .completing .ended
     ((s.launchCores 0).any fun core => (s.settleStores 0 (s.launchCores 0)).awaitsSector core 0) = false ∧
       (∃ t, dispatchAdd (s.settleStores 0 (s.launchCores 0)) 0 0x10000 1 (.engine 288 (2 ^ 64 + 0) 0) = .over t ∧
         t.packetAsked (2 ^ 64 + 0) = false) ∧ s.packetAsked (2 ^ 64 + 0) = false) ∧
    (let s := demoQ { demoQuad with exited := true }
     (s.team 0).phase = .live ∧ s.teamQuiet 0 = true ∧ s.needsDrain 0 = false ∧ demo.teamQuiet 0 = false) ∧
    (let s := { demoQ { demoQuad with exited := true } with accs := [{ addend with phase := .overflow }], nextId := 100 }
     s.teamQuiet 0 = true ∧ s.needsDrain 0 = true ∧ (∀ l, s.launches[(s.team 0).launch]? = some l → l.state ≠ .aborting)) ∧
    ({ demoCtx .running with lnActive := 2 } : Ctx).lnActive = 2 ∧ (demo.ctx 0).lnActive ≠ 2 := by
  refine ⟨⟨rfl, rfl, rfl, ?_, rfl, rfl⟩, rfl, rfl, by decide, ⟨rfl, ⟨_, rfl, rfl⟩, rfl⟩, ⟨rfl, rfl, rfl, rfl⟩,
    ⟨rfl, rfl, ?_⟩, rfl, by decide⟩
  · intro k h
    have : (launched .dispatching .ended).replayCore 0 1
      (((launched .dispatching .ended).nextTeam 0).id (launched .dispatching .ended) (launch .dispatching)) = none := rfl
    rw [this] at h; cases h
  · intro l h; cases h

/-! ### Decoding and the step -/

theorem witness_DecodeEncode : (Instr.sadd 4 2 3).wf = true ∧ encode (.sadd 4 2 3) = [0x001020C0] := by decide

/-- A quarter whose datapath is busy until some CLK. -/
def quarterTo (busy : Nat) : Quarter := { busyUntil := busy, latch := { owner := none, entries := [], lastUse := 0 } }

/-- The machine with its gang's quarter first, a word at its PC, and a clause or none. -/
def stepping (w : Code) (k : Option ClauseCtx) (busy : Nat) : State :=
  { demoQ { demoQuad with clause := k } with
    cur := .none, mem := Mem.write [] 0x20008 (leBytes 4 w.toNat), clk := 3, agenda := [{ dt := 0, agent := .quarter 0 0 }]
    cores := Vector.replicate 288 { demoCore with quarters := Vector.replicate 4 (quarterTo busy) } }

/-- A pair is known by its second part. -/
theorem paired {α β : Type} {p : α × β} {b : β} (h : p.2 = b) : ∃ a, p = (a, b) := ⟨p.1, by rw [← h]⟩

/-- A body with room for some words. -/
def body (n : BitVec 10) : Option ClauseCtx := some { setA := some 0, setB := some 1, left := n, barWait := false }

/-- The state in which a gang of a stepping machine issues. -/
def stepped (s : State) : State := { s with agenda := [], cur := .gang 0 0 0 }

/-- No L1 and no slice is over its capacity there. -/
theorem fits {s : State} {k : CoreSt} (h : s.cores = Vector.replicate 288 k) (hs : s.slices = Vector.replicate 128 Slice.reset)
    (hk : k.held.length + k.clean.length + k.ilines.length ≤ 512) : s.l1Due = none ∧ s.l2Due = none := by
  constructor
  · refine List.findSome?_eq_none_iff.mpr fun x hx => ?_
    have e : x.1 = k := by
      have m := List.fst_mem_of_mem_zipIdx hx
      rw [h, Vector.toList_replicate] at m
      exact List.eq_of_mem_replicate m
    simp only [State.l1Victim, e, if_pos hk]
  · refine List.findSome?_eq_none_iff.mpr fun y hy => ?_
    rw [hs, Vector.toList_replicate] at hy
    rw [List.eq_of_mem_replicate hy]
    rfl

/-- Nothing is due before the agenda there, while its head moves in this cycle or no timer has run out. -/
theorem nothingDue {s : State} {k : CoreSt} (h : s.cores = Vector.replicate 288 k)
    (hs : s.slices = Vector.replicate 128 Slice.reset) (hk : k.held.length + k.clean.length + k.ilines.length ≤ 512)
    (hd : s.dogDue = none) (ht : s.cycleOver = false ∨ s.timer = none) : s.due = none := by
  have h3 : (if s.cycleOver then s.timer else none) = none := by
    rcases ht with e | e
    · rw [e]; rfl
    · rw [e]; simp
  simp only [State.due, hd, (fits h hs hk).1, (fits h hs hk).2, h3, Option.or_none]

/-- Nor in the machine after reset. -/
theorem resetDue : State.reset.due = none := by
  refine nothingDue (k := CoreSt.reset) rfl rfl (by decide) rfl (Or.inr ?_)
  have h1 : allCtxs.findSome? State.reset.saveTimer = none := by
    refine List.findSome?_eq_none_iff.mpr fun c _ => ?_
    have h : State.reset.ctx c = Ctx.fresh .destroyed := Vector.getElem_replicate ..
    simp only [State.saveTimer, h]
    rfl
  have h2 : (upTo 288).findSome? State.reset.latchTimer = none := by
    refine List.findSome?_eq_none_iff.mpr fun n _ => ?_
    have h : State.reset.core n = CoreSt.reset := idle_core rfl n
    simp only [State.latchTimer, h]
    rfl
  have h3 : State.reset.waveTimer = none := rfl
  have h4 : State.reset.requests.findSome? State.reset.requestTimer = none := rfl
  have h5 : (upTo 18).findSome? State.reset.linkTimer = none := by decide
  have h6 : State.reset.joinTimer = none := rfl
  have h7 : allCtxs.findSome? State.reset.replayTimer = none := by
    refine List.findSome?_eq_none_iff.mpr fun c _ => ?_
    have h : State.reset.ctx c = Ctx.fresh .destroyed := Vector.getElem_replicate ..
    simp only [State.replayTimer, h]
    rfl
  simp only [State.timer, h1, h2, h3, h4, h5, h6, h7, Option.or_none]

set_option maxRecDepth 16000 in
/-- An instruction inside a clause of exactly its length, a header outside one; each where it may not stand; a word that
does not decode; a busy quarter and one free at this very cycle; a walk's word and a word that is none. -/
theorem witness_StepIssues :
    (let s := stepping 0x001020C0 (body 1) 3
     s.due = none ∧ oldest (readyGangs ({ s with agenda := [] } : State) 0 0 true) = some gang ∧
       (∀ x, (({ s with agenda := [] } : State).core 0).quarters[0]? = some x → x.busyUntil ≤ s.clk) ∧
       (stepped s).takePending gang = none ∧
       (∃ u1, fetchWord (stepped s) ((stepped s).coreOf gang) ((stepped s).ctxOf gang) ((stepped s).leader gang).pc =
         (u1, .word 0x001020C0)) ∧
       (∀ u1, ∃ u2, fetchWords u1 ((stepped s).coreOf gang) ((stepped s).ctxOf gang) (((stepped s).leader gang).pc + 4)
         (instrWords 0x001020C0 - 1) = (u2, .ok [])) ∧
       ((stepped s).leader gang).clause = body 1 ∧ slice (zext (0x001020C0 : Code)) 31 30 ≠ 3 ∧ instrWords 0x001020C0 = 1 ∧
       (decodeCode [0x001020C0]).toOption = some (.sadd 4 2 3, [])) ∧
    (let s := stepping 0xC0040000 none 0
     ((stepped s).leader gang).clause = none ∧ slice (zext (0xC0040000 : Code)) 31 30 = 3 ∧ instrWords 0xC0040000 = 2) ∧
    ((stepped (stepping 0x50106014 (body 2) 0)).leader gang).clause = body 2 ∧ (2 : BitVec 10).toNat < instrWords 0x50106014 ∧
    (decodeCode [0x38000000]).toOption = none ∧
    -- a line that is cached, one that is not, a page whose check is not over
    (∃ s1 e, translate demo 0 0 0x20008 .fetch = (s1, .ok (0x20008, e)) ∧ e.verified = true ∧
      (s1.core 0).iline 0 ((0x20008 : Word).toNat / 128) = none ∧ physKind 0x20008 = .hbm ∧
      poisonedView s1 0 0 0x20008 0x20008 = false) ∧
    (let h : CleanLine := { ctx := 0, line := 0x400, data := Vector.replicate 128 5, scopeCore := false }
     ({ demoCore with ilines := [h] } : CoreSt).iline 0 ((0x20008 : Word).toNat / 128) = some h) ∧
    (let s := { demo with cores := Vector.replicate 288 { CoreSt.reset with tlb := [{ page 0x20000 true 0 with verified := false }] } }
     ∃ s1 e, translate s 0 0 0x20008 .fetch = (s1, .ok (0x20008, e)) ∧ e.verified = false) ∧
    -- a walk
    (let w : Walk := (walk 0 0 0 [] none).put 48 8 0x20000
     let s : State := { walking w [] with mem := Mem.write [] 0x20000 (leBytes 4 0x3C900044) }
     ∃ u, s.nextWalk 0 9 = .word 0x3C900044 u) ∧
    (decodeWalk 0x58000000).toOption = none := by
  refine ⟨⟨nothingDue rfl rfl (by decide) rfl (Or.inl rfl), rfl, ?_, rfl, paired (by decide), fun _ => ⟨_, rfl⟩, rfl, by decide, rfl, rfl⟩, ⟨rfl, rfl, rfl⟩, rfl, by decide, rfl,
    ⟨_, _, rfl, rfl, rfl, rfl, rfl⟩, rfl, ⟨_, _, rfl, rfl⟩, ⟨_, rfl⟩, rfl⟩
  intro x h
  have h' : (({ stepping 0x001020C0 (body 1) 3 with agenda := [] } : State).core 0).quarters[0]? =
    some (quarterTo 3) := rfl
  rw [h'] at h; cases h; decide

set_option maxRecDepth 16000 in
theorem witness_StepAgenda :
    -- an expiry that is due, in a cycle that is not over
    (∃ d, ({ stepping 0 none 0 with teams := [{ demoTeam demoKernel { demoWave (fun _ => demoQuad) 2 with dog := [0] } with
      phase := .live }] } : State).dogDue = some d) ∧ (stepping 0 none 0).cycleOver = false ∧
    -- nothing due
    State.reset.due = none ∧ State.reset.agenda = [] ∧ State.reset.cycleOver = true ∧
    (stepping 0 none 0).due = none ∧
    oldest (readyGangs State.reset 0 0 true) = none ∧
    (let s := stepping 0x001020C0 (body 1) 4
     oldest (readyGangs ({ s with agenda := [] } : State) 0 0 true) = some gang ∧ s.clk < 4) ∧
    (∃ u, (stepped { stepping 0 none 0 with teams := (demoQ { demoQuad with clause := none, pendTraps := [.fuse] }).teams }).takePending gang = some u) ∧
    (∃ u, demo.nextWalk 0 9 = .state u) := by
  refine ⟨⟨_, rfl⟩, rfl, resetDue, rfl, rfl, nothingDue rfl rfl (by decide) rfl (Or.inl rfl), rfl, ⟨rfl, by decide⟩,
    ⟨_, rfl⟩, _, rfl⟩

theorem witness_StepKeepsInv : State.reset.Inv ∧ ∃ t, step State.reset = .next t := by
  refine ⟨⟨(fun _ h => nomatch h), rfl, (fun _ h => nomatch h), rfl, by decide⟩, State.reset.cycle, ?_⟩
  unfold step
  rw [resetDue]
  rfl

theorem witness_StepAlwaysGoes : State.reset.agendaOk := fun _ h => by cases h

/-! ### More clauses -/

/-- The machine whose quads name an address of another device's memory in every register. -/
def farAt (a : Word) : State := { far (entry (.qwait 0 0)) with teams := (demoAt a).teams, cur := .gang 0 0 0 }

set_option maxRecDepth 16000 in
/-- Blocks and records of another device: the gang waits for them. -/
theorem witness_waits :
    (eachQuad (fun s n => ksetQuad s gang 5 n) ((farAt 0x40000).live gang) (farAt 0x40000)).2.waits = true ∧
    (let s : State := { farAt 0x40000 with teams := [demoTeam demoKernel (demoWave (fun _ => laneAt 0x40000) 0)] }
     (walkChecks single (op 12 4 0 0 31 false .a 0) true [(0, 0)] s).2.waits = true) := by
  refine ⟨rfl, rfl⟩

/-- A stopped wave, a line that bypasses the L1, a pinned line, an entry whose request has not left. -/
theorem witness_states :
    ({ joinWave 0 with stopped := true } : Wave).stopped = true ∧
    (demo.core 0).heldLine 0 ((0x30000 : Word).toNat / 128) = none ∧
    ({ heldLine none with pinned := true } : HeldLine).pinned = true ∧ (entry (.qadd 0 0)).sent = false ∧
    demo.acquiring 0 0 3 = [] ∧ demo.waveFaults gang = [] := by
  refine ⟨rfl, rfl, rfl, rfl, rfl, rfl⟩

set_option maxRecDepth 8000 in
/-- A stack of one entry, one whose older entries lie in the overflow area, and a ring without a handle. -/
theorem witness_walkStacks :
    (let w := walk 0 1 0 [5] none
     w.sp = 1 ∧ w.spilled = 0 ∧ 0 < w.sp) ∧
    (let w := walk 0 31 0 (List.replicate 16 5) none
     0 < w.spilled ∧ touchesWindow (w.slot (w.spilled - 1)) 8 = false ∧
       ∃ v bs, engRead (walking w []) (walking w []) (w.eng 0) w.fetched (readKey (w.slot (w.spilled - 1)))
         (w.slot (w.spilled - 1)) 8 = (v, .bytes bs)) ∧
    ((walking emitting []).team emitting.team).ring 14 = none ∧ (walking emitting []).walkBusy emitting = false := by
  refine ⟨⟨rfl, rfl, by decide⟩, ⟨by decide, rfl, _, _, rfl⟩, rfl, rfl⟩

/-- Timers run once a cycle is over, in waves that are resident and have not stopped. -/
theorem witness_timers :
    demo.cycleOver = true ∧ demo.timed 0 0 = true ∧ (stepping 0 none 0).cycleOver = false ∧
    0 ∈ ({ demoWave (fun _ => demoQuad) 2 with dog := [0, 1, 2, 3] } : Wave).dog ∧ gang.base ∉ (demo.waveOf gang).dog := by
  refine ⟨rfl, rfl, rfl, by decide, by decide⟩

/-- An accumulate of another device. -/
def portAcc : PortAcc := { link := 2, req := served (.accum .add .i32 1 1), pa := 0x10000, queued := true, seq := 0, low := false }

/-- Queues of the home slice with 0, 47, 48 and 64 entries, and one with an accumulate of another device. -/
theorem witness_accQueues :
    let held (n : Nat) : State := { demo with accs := List.replicate n { addend with phase := .queued } }
    (held 0).queueHeld (homeSlice 0x10000) < 48 ∧ (held 47).queueHeld (homeSlice 0x10000) < 48 ∧
    48 ≤ (held 48).queueHeld (homeSlice 0x10000) ∧ (held 63).queueHeld (homeSlice 0x10000) < 64 ∧
    64 ≤ (held 64).queueHeld (homeSlice 0x10000) ∧ (demo.ctx 0).acc.toNat > demo.lineCount (lineOf 0x10000) ∧
    demo.portAccs = [] ∧ demo.portsHold 0 = false ∧ ({ demo with portAccs := [portAcc] } : State).portsHold 0 = true := by
  decide

/-- Before the end of a save window, and at it; a quad of each wait code. -/
theorem witness_saveWindow :
    1000 * microsecond < (quiescing false).quiesceAt + ((quiescing false).quiesceDrain + (quiescing false).quiesceSave) * microsecond ∧
    (quiescing false).deadlinePassed (21000 * microsecond) = true ∧ (recovering 0 0).fw = .failed := by
  decide

set_option maxRecDepth 16000 in
/-- A request that is refused, and packets that are well formed, malformed, restored and sent. -/
theorem witness_servesAndChecks :
    (∃ v w, servePlace serving { served (.read 8) with addr := 0x40000000 } = (v, .error w)) ∧
    (served (.add 1 true)).kind = .add 1 true ∧ (0x10004 : Word).toNat % 8 ≠ 0 ∧
    (queues .empty [] 5 3).queueWrites 0 0 = false ∧
    (∃ f, translateFresh (tabled (mapped .running) 0 []) 0 0x40000000 .counterGet = .error f) ∧
    (∃ y x, checkPacket (queues .ready [] 5 3) 0 0 0x11000 (some (packet 3 5).packet) = (y, .ok x)) ∧
    (∃ y va, checkPacket (queues .ready [] 5 3) 0 0 0x11000 (some (packet 9 5).packet) = (y, .bad va)) ∧
    ({ packet 4 1 with started := true } : Admitted).started = true ∧ ({ packet 2 0 with stage := 3 } : Admitted).stage = 3 ∧
    demo.restored 0 = true := by
  refine ⟨⟨_, _, rfl⟩, rfl, by decide, rfl, errorOf rfl, ⟨_, _, rfl⟩, ⟨_, _, rfl⟩, rfl, rfl, rfl⟩

/-! ### Witnesses for more clauses -/

/-- An unhandled trap: no handler, or a gang that runs one; in a context that runs, quiesces or has faulted. -/
theorem witness_TrapEntry_unhandled :
    (demo.leader gang).exited = false ∧ demo.firstLive gang < (demo.waveOf gang).quads.length ∧
    ((demoOf { demoKernel with trapvec := 0 } (demoWave (fun _ => demoQuad) 2)).teamOf gang).kernel.trapvec = 0 ∧
    (demo.ctx 0).phase = .running ∧ (demoCtx .quiescing).phase = .quiescing ∧ (demoCtx .faulted).phase = .faulted := by
  refine ⟨rfl, ?_⟩; decide

/-- No quad of the gang has exited. -/
theorem witness_CrossLane_live : ∀ n ∈ gang.quads, (demo.quadOf gang n).exited = false := by decide

/-- A set that is released, one that is held back, and a wave in which some set is due. -/
theorem witness_JoinInstructions_sets :
    let s (held : Byte) : State := demoOf demoKernel (joinWave held)
    0 < (s 0).teams.length ∧ 0 < ((s 0).team 0).waves.length ∧ ((s 0).wave 0 0).stopped = false ∧
    ({ joinWave 0 with stopped := true } : Wave).stopped = true ∧
    (s 0).cycleOver = true ∧ (s 0).dogDue = none ∧ (s 0).l1Due = none ∧ (s 0).l2Due = none ∧
    ((s 0).team 0).resident = true ∧ ((s 0).wave 0 0).joinDue = true ∧ ((s 1).wave 0 0).joinDue = false := by
  have h : (demoOf demoKernel (joinWave 0)).l1Due = none ∧ (demoOf demoKernel (joinWave 0)).l2Due = none :=
    fits (k := demoCore) rfl rfl (by decide)
  exact ⟨by decide, by decide, rfl, rfl, rfl, rfl, h.1, h.2, rfl, rfl, rfl⟩

/-- Some lane forms, with a run all of whose quads are there and one that still waits. -/
theorem witness_LaneHeldBack_run :
    (∀ n ∈ gang.quads, n ∈ gang.quads) ∧ single.w < (narrow.teamOf single).waves.length ∧
    (∃ n ∈ ({ single with lg := 2 } : GangRef).quads, (narrow.quadOf single n).exited = false ∧ n ∉ single.quads ∧
      (narrow.quadOf single n).wait = .ready) ∧
    (let s := demoOf demoKernel { demoWave (fun n => if n = 0 then demoQuad else { demoQuad with wait := .fuse 2 0 }) 2 with
        gangs := (upTo 4).map fun n => { base := n, lg := 0, active := true, slotFree := 0 } }
     s.issuing = some single ∧ ∀ n ∈ ({ single with lg := 2 } : GangRef).quads, n ∈ single.quads ∨
       (s.quadOf single n).wait = .fuse 2 0 ∧ (s.quadOf single n).pc = (s.leader single).pc ∧
         (s.quadOf single n).clause = (s.leader single).clause) := by
  refine ⟨fun _ h => h, by decide, by decide, rfl, by decide⟩

/-- A bound line, a scratchpad word that falls with and without a waiter, a poisoned line, a store over two lines. -/
theorem witness_StoreFrame_more :
    (heldLine (some 5)).bound = some 5 ∧ demo.isPoisoned 5 = false ∧ demo.mem.wf = true ∧
    ((holding (mapped .running) (some 5)).core 0).heldLine 0 0x200 = some (heldLine (some 5)) ∧
    (let s := stocked 0x10000 [] [5] none
     (s.teamOf gang).waitAddrs (.scratch 0) = [] ∧ s.engineScratchWaits gang.t (scratchAddr 0) = [] ∧
       (s.modTeam gang.t fun x => { x with scratch := x.scratch.write 0 [4] }).scratchWord gang.t 0 < s.scratchWord gang.t 0) ∧
    (let q := { demoQuad with wait := .counter { cwait with loc := .scratch 0 } }
     ((waiting demoKernel 0 q).teamOf gang).waitAddrs (.scratch 0) ≠ []) ∧
    ({ demo with poisoned := [0x600] } : State).isPoisoned (lineOf 0x30000) = true ∧ ([1, 2] : List Byte).length ≠ 128 ∧
    (heldLine none).pinned = false ∧ 128 - 0x3007F % 128 < ([1, 2] : List Byte).length ∧
    physKind (0x3007F + 1) = .hbm ∧ 0x30000 % 128 + 128 ≤ 128 := by
  refine ⟨rfl, rfl, rfl, rfl, ⟨rfl, rfl, by decide⟩, by decide, rfl, by decide, rfl, by decide, rfl, by decide⟩

/-- No counter that falls there is watched. -/
theorem witness_StoreFrame_falls : demo.fallsUnseen (demo.rawWrite 0 0x30000 [1, 2, 3, 4]) 0x30000 4 := by
  intro w hw hlt
  exfalso
  have h : demo.word w = 0 := by
    simp [State.word, Mem.read, demo, demoQ, demoOf, State.reset, Mem.get]
    decide
  rw [h] at hlt
  exact absurd (BitVec.lt_def.mp hlt) (Nat.not_lt_zero _)

/-- A gang that a stopped wave keeps parked. -/
theorem witness_LongLatency_stopped :
    let locked := { demoQuad with pends := [pendOf none], wait := .interlock 1 }
    let s := demoOf demoKernel { demoWave (fun _ => locked) 0 with stopped := true }
    (s.quad 0 0 0).pends[0]? = some (pendOf none) ∧ (s.quad 0 0 0).wait = .interlock 1 ∧ (s.wave 0 0).stopped = true :=
  ⟨rfl, rfl, rfl⟩

/-- What the order log says before a wait, and what its counters then hold. -/
theorem witness_CounterWaits_order :
    let s := stocked 0x10000 [] [] (some ring)
    let u := s.flushAll gang (List.replicate 4 (dataLoc 8))
    (∃ w, u.orderAll (u.ctxOf gang) (orderOps u (u.coreOf gang) [dataLoc 8]) = .ok w ∧
      w.reached gang.t 0 (dataLoc 8) = true) ∧
    u.reached gang.t 0 (dataLoc 8) = true ∧ u.reached gang.t 1 (dataLoc 8) = false := by
  refine ⟨⟨_, rfl, rfl⟩, rfl, rfl⟩

/-- No atomic or accumulate of the gang is outstanding. -/
theorem witness_Fences_pending : demo.atomicsPending gang = false := rfl

set_option maxRecDepth 16000 in
/-- Operations of a walk that fault, a ray, a box and a triangle that it meets, and one that it misses. -/
theorem witness_WalkNodes_more :
    (let w := walk 0 3 0x10001 [] none
     (walking w node).walkBusy w = false ∧ (w.reg 2).toNat % 16 ≠ 0 ∧ w.buffer = none) ∧
    (let w := walk 0 3 0x10000 [] none
     ∃ v bs, engRead (walking w (leBytes 64 0xF)) (walking w (leBytes 64 0xF)) (w.eng 0) w.fetched (readKey (w.reg 2)) (w.reg 2)
       w.layout.nodeBytes = (v, .bytes bs) ∧ w.layout.malformed bs = true) ∧
    (let w := walk 255 3 2 [] (some node)
     w.wpc = 255 ∧ w.layout.nodeBytes < (61 : BitVec 8).toNat + 2 ^ (2 : BitVec 2).toNat ∧
       field node w.layout.kindoff 1 % 16 ≤ (w.reg 2).toNat ∧ field node w.layout.kindoff 1 % 16 ≠ 0) ∧
    (let w := walk 0 32 0 [] none
     w.w32 136 ≤ w.sp) ∧ (walk 0 0 0 [] none).sp = 0 ∧ finiteNonNeg 0x7F800000 = false := by
  refine ⟨⟨rfl, by decide, rfl⟩, ⟨_, _, rfl, rfl⟩, ⟨rfl, by decide, by decide, by decide⟩, by decide, rfl, rfl⟩

/-- A ray from (0.25, 0.25, 0) along z, from 0 to 1, and triangles at z = 0.5 that it meets and misses. -/
def ray0 : List Byte :=
  leBytes 4 0x3E800000 ++ leBytes 4 0x3E800000 ++ leBytes 4 0 ++ leBytes 4 0 ++ leBytes 8 0 ++ leBytes 4 0x3F800000 ++
    leBytes 4 0x3F800000
def triAt (x : Nat) : List Byte :=
  leBytes 4 x ++ leBytes 4 0 ++ leBytes 4 0x3F000000 ++ leBytes 4 (if x = 0 then 0x3F800000 else x) ++ leBytes 4 0 ++
    leBytes 4 0x3F000000 ++ leBytes 4 x ++ leBytes 4 0x3F800000 ++ leBytes 4 0x3F000000 ++ leBytes 4 7

set_option exponentiation.threshold 1000 in
set_option maxRecDepth 16000 in
theorem witness_WalkNodes_ray :
    ((rayOf ray0).map fun r => decide (r.tmin.den ≠ 0) && (decide (r.tmax.den ≠ 0) || decide (0 < r.tmax.num))) = some true ∧
    ((rayOf ray0).bind fun r => (r.triangle (triAt 0)).map fun h => (h.t, h.u, h.v)) =
      some (0x3F000000, 0x3E800000, 0x3E800000) ∧
    ((rayOf ray0).bind fun r => r.triangle (triAt 0x3F800000)) = none ∧
    (vec3At (triAt 0) 0).isSome = true ∧ (vec3At (triAt 0) 12).isSome = true ∧ (vec3At (triAt 0) 24).isSome = true ∧
    vec3At (leBytes 12 0x7F800000) 0 = none ∧ rayOf (leBytes 32 0x7F800000) = none :=
  ⟨rfl, rfl, rfl, rfl, rfl, rfl, rfl, rfl⟩

/-- The machine of `emitting`, with its ring and memory. -/
def emits (w : Walk) (r : Ring) (mem : List Byte) : State :=
  { walking w mem with teams := [{ demoTeam demoKernel (demoWave (fun _ => demoQuad) 0) with rings := Vector.replicate 16 (some r) }] }

set_option maxRecDepth 16000 in
/-- A walk that claims an index, writes its slot and takes its turn; slots of 16 to 31 bytes; a record that cannot be
written. -/
theorem witness_WalkEmits_steps :
    (let w := (walk 7 0 0 [] none).put 192 8 (2 ^ 64 - 1)
     let s := emits w ring []
     coverage (quadDepths w.bytes 0 0) ≠ 0 ∧ w.claim = none ∧
       ∃ u, engLocate s (w.eng 0) ring.claim 8 8 .store = (u, .ok (.mem [(0x10010, 8, 0x10010, page 0x10000 false 0)])) ∧
         u.poisonAt (.mem [(0x10010, 8, 0x10010, page 0x10000 false 0)]) = false ∧
         ∃ t, (u.engFlush (w.eng 0) (.mem [(0x10010, 8, 0x10010, page 0x10000 false 0)])).orderAll (w.eng 0).ctx
           ((w.eng 0).counterOps (u.engFlush (w.eng 0) (.mem [(0x10010, 8, 0x10010, page 0x10000 false 0)]))
             (.mem [(0x10010, 8, 0x10010, page 0x10000 false 0)])) = .ok t) ∧
    (Loc.mem [(0x10010, 8, 0x10010, page 0x10000 false 0)]).sector = none ∧
    (let w := (walk 7 0 0 [] none).put 192 8 4
     let s := emits w ring (leBytes 8 4 ++ leBytes 8 1)
     w.claim = some 4 ∧ w.marked slotMark = false ∧ fetchedAt w.fetched freeKey 0 = none ∧
       (engWait s (w.eng 0) w.logged w.fetched freeKey ring.freed (4 + 1 - 2 ^ ring.lgslots)).finished = true ∧
       (∃ u l, engLocate s (w.eng 0) (ring.base + BitVec.ofNat 64 (ring.bytes * (4 % 2 ^ ring.lgslots))) 32 1 .store =
         (u, .ok (.mem l)) ∧ poisonedPart u l = none) ∧
       (engWrite s (w.eng 0) (ring.base + BitVec.ofNat 64 (ring.bytes * (4 % 2 ^ ring.lgslots)))
         (coverageEntry 0 0 0 (quadDepths w.bytes 0 0))).2 = none ∧
       (w.mark slotMark).marked slotMark = true ∧ (w.mark slotMark).marked turnMark = false ∧
       (engWait s (w.eng 0) [] w.fetched fillKey ring.filled 4).finished = true) ∧
    16 ≤ ({ ring with bytes := 16 } : Ring).bytes ∧ ({ ring with bytes := 31 } : Ring).bytes < 32 ∧ ring.claim ≠ 0 ∧
    (let s := emits emitting ring []
     s.engAsked (emitting.eng 0) awaitKey = false ∧ fetchedAt emitting.fetched awaitKey 0 = none ∧
       (engAddAs s (emitting.eng 0) emitting.logged awaitKey ring.filled 1).finished = true ∧
       ((engAddAs s (emitting.eng 0) emitting.logged awaitKey ring.filled 1).s.engAsked (emitting.eng 0) awaitKey) = false) ∧
    (let w := { emitting with fetched := emitting.fetched ++ [(awaitKey, some [])] }
     fetchedAt w.fetched awaitKey 0 = some (some [])) ∧
    (let w := { walk 255 0 0 [] none with record := 0x90000 }
     (∃ u f, writeDone (walking w []) (w.eng 0) w = (u, some f)) ∧ w.wpc = 255 ∧ (walking w []).walkBusy w = false) ∧
    (let w := { walk 7 0 0 [] none with record := 0x90000 }
     ∃ u f, writeRecord (walking w []) (w.eng 0) (w.put 160 1 8) 2 0 0 = (u, some f)) ∧
    64 < ({ demo with accs := List.replicate 64 addend } : State).outstanding 0 + 1 := by
  refine ⟨⟨by decide, rfl, _, rfl, rfl, _, rfl⟩, rfl, ⟨rfl, rfl, rfl, rfl, ⟨_, _, rfl, rfl⟩, rfl, rfl, rfl, rfl⟩, by decide, by decide,
    by decide, ⟨rfl, rfl, rfl, rfl⟩, rfl, ⟨⟨_, _, rfl⟩, rfl, rfl⟩, ⟨_, _, rfl⟩, by decide⟩

/-- A wait of another device that has timed out, with an up link and without one. -/
theorem witness_remoteCancel :
    routeLink (asking remoteWait) remoteWait.dev = some 2 ∧ routeLink ({ demo with requests := [remoteWait] } : State) 5 = none ∧
    (let x : CWait := { cwait with request := some 11 }
     let s : State := { asking remoteWait with teams := (waiting demoKernel 0 { demoQuad with wait := .counter x }).teams }
     (s.quad 0 0 0).wait = .counter x ∧ x.cancelled = false ∧ s.cycleOver = true ∧
       (x.request.bind fun id => s.requests.find? fun y => y.id == id) = some remoteWait) :=
  ⟨rfl, rfl, rfl, rfl, rfl, rfl⟩

set_option maxRecDepth 16000 in
/-- A saving context whose head is performed, or stands midway; ring copies whose words fail, and their last add. -/
theorem witness_EngineEvents_more :
    (let e : Entry := { entry (.copy (job true (some 0) true)) with fetched := [(awaitKey, some [])] }
     (fetchedAt e.fetched awaitKey 0).isSome = true ∧ (engine e).engAsked (e.eng 0) awaitKey = false) ∧
    (let e : Entry := entry (.copy (job true (some 0) true))
     (far e).engine 0 7 = [e] ∧ ((far e).ctx 0).saving = false ∧ fetchedAt e.fetched awaitKey 0 = none ∧
       (engWait (engine e) (e.eng 0) e.logged e.fetched fillKey ring.filled 0).finished = true ∧
       (engAddAs (engine e) (e.eng 0) [] awaitKey ring.filled 1).finished = true ∧
       (engAddAs (engine e) (e.eng 0) [] awaitKey ring.filled 1).s.engAsked (e.eng 0) awaitKey = false) ∧
    (let e : Entry := { entry (.copy (job true (some 0) true)) with fetched := [(fillKey, none)] }
     fetchedAt e.fetched fillKey 0 = some none) ∧
    (let e : Entry := { entry (.copy (job true (some 4) false)) with fetched := [(freeKey, none)] }
     fetchedAt e.fetched freeKey 0 = some none) ∧
    (let e := entry (.copy (job true (some 4) false))
     let r : Ring := { ring with freed := 0x10004, filled := 0x1000C }
     (∃ u, ringWord (engine e) (e.eng 0) r.freed .counterGet = (u, none)) ∧
       ∃ u, ringWord (engine e) (e.eng 0) r.filled .counterAdd = (u, none)) ∧
    (let e : Entry := { entry (.copy { job true none false with asked := true }) with team := 1 }
     (engine e).jobRing e { job true none false with asked := true } = none) ∧
    (let e : Entry := { entry (.nest (nestBody 6 0x10300)) with done := true }
     e.done = true ∧ e.sent = false) ∧
    (let e := entry (.copy (job true (some 4) false))
     (engine e).midway 0 e = true) := by
  refine ⟨⟨rfl, rfl⟩, ⟨rfl, rfl, rfl, rfl, rfl, rfl⟩, rfl, rfl, ⟨⟨_, rfl⟩, _, rfl⟩, rfl, ⟨rfl, rfl⟩, by simp [State.midway, entry, job]⟩

set_option maxRecDepth 64000 in
/-- Walks of tables that fail with and without an entry of the log, and a held line that binds. -/
theorem witness_CacheEvents_more :
    (match walkTable (tabled (mapped .running) 0 []) 0 0x40000000 with
     | .error f => f.code
     | .ok _ => some 0) = none ∧
    (match walkTable ({ tabled (mapped .running) 0 [] with poisoned := [0xA00] } : State) 0 0x10000 with
     | .error f => f.code
     | .ok _ => none) = some 6 ∧
    (bindLine (holding (mapped .running) none) 0 (heldLine none)).2.toOption.isSome = true ∧
    (((bindLine (holding (mapped .running) none) 0 (heldLine none)).1.core 0).heldLine 0 0x200).isSome = true :=
  ⟨rfl, rfl, rfl, rfl⟩

/-- The machine that replays (2) or records (1) an order log with the given words of the segment of the home slice of
0x10000, at the data page. -/
def ordered (active : BitVec 2) (n w0 w1 : Nat) : State :=
  let s := tabled { mapped .running with lnActive := active, lnBase := 1 } (0x10000 + homeSlice 0x10000 * 4096)
    (leBytes 64 n ++ leBytes 8 w0 ++ leBytes 8 w1)
  { s with accs := [{ addend with cls := .refusable }] }

set_option maxRecDepth 16000 in
/-- Each answer of a replay to an arriving accumulate, and a queued one that a slice performs. -/
theorem witness_AccumulateEvents_gates :
    let o := addend.order 0
    let w0 (line : Nat) : Nat := line + homeSlice 0x10000 * 2 ^ 50 + 1 * 2 ^ 57
    (demo.ctx 0).lnActive = 0 ∧ replayGate demo 0 0x10000 o = .free ∧
    replayGate (ordered 2 1 (w0 0x200) (o.req + 2 ^ 16 + 2 ^ 32)) 0 0x10000 o = .next 0 0 ∧
    replayGate (ordered 2 1 (w0 0x200 + 2 ^ 59) (o.req + 2 ^ 16 + 2 ^ 32)) 0 0x10000 o = .next 0 1 ∧
    replayGate (ordered 2 1 (w0 0x200) (o.req + 1 + 2 ^ 16 + 2 ^ 32)) 0 0x10000 o = .wait ∧
    replayGate (ordered 2 0 0 0) 0 0x10000 o = .diverge ∧
    (({ demo with accs := [addend] } : State).accs.find? fun a => a.id == 2 && decide (a.phase = .flight)) = none ∧
    (let a := { addend with phase := .queued }
     ({ demo with accs := [a] } : State).accs = [a] ∧ a.phase = .queued ∧ demo.portAccs = [] ∧
       demo.isPoisoned (lineOf a.pa) = false ∧ a.rel = false) ∧
    ({ demo with poisoned := [0x200] } : State).isPoisoned (lineOf addend.pa) = true ∧
    ({ addend with rel := true } : Acc).rel = true ∧
    0 ∉ (demo.team 0).drains := by
  refine ⟨rfl, rfl, rfl, rfl, rfl, rfl, rfl, ⟨rfl, rfl, rfl, rfl, rfl⟩, rfl, rfl, by decide⟩

set_option maxRecDepth 16000 in
/-- A bound context with a save area that holds a save, and one whose area holds none. -/
theorem witness_ContextCommands_holds :
    (let more (n : Nat) : List Byte := leBytes 4 1 ++ leBytes 20 0 ++ leBytes 8 n ++ leBytes (n - 32) 0
     let x : Ctx := { mapped .bound with neverRun := true }
     x.phase = .bound ∧ (tabled x 0x40000 (more 264)).holdsSave 0 = true ∧ (∃ a, readSave (tabled x 0x40000 (more 264)) 0 = some a) ∧
       (tabled x 0x40000 (more 256)).holdsSave 0 = false) := by
  refine ⟨rfl, rfl, ⟨_, rfl⟩, rfl⟩

set_option maxRecDepth 16000 in
/-- A bind that completes on legal registers, and on ones that a later write has broken; a word of a quad that was taken
before, and none. -/
theorem witness_ContextEvents_more :
    (pair { bindable with busy := true } (Ctx.fresh .destroyed)).bindChecks 0 = 0 ∧
    (pair { bindable with busy := true, tag := 0 } (Ctx.fresh .destroyed)).bindChecks 0 ≠ 0 ∧
    ({ demoCtx .running with lnShot := [(0x200, 5)] } : Ctx).lnShot.any (fun y => y.1 == 0x200) = true ∧
    (demo.ctx 0).lnShot.any (fun y => y.1 == 0x200) = false ∧ demo.portsHold 0 = false := by
  refine ⟨rfl, by decide, rfl, rfl, rfl⟩

/-- A wait that has sent its cancel; no link to its device. -/
theorem witness_DeviceEvents_more :
    (let s := tabled (mapped .running) 0x10000 (List.replicate 8 0xFF)
     2 ^ 64 ≤ (s.word 0x10000).toNat + (1 : Word).toNat) ∧
    remoteWait.cancelled demo = false ∧ routeLink demo remoteWait.dev = none ∧
    (served (.add 1 true)).kind.brings = false ∧ (0x10000 : Nat) % 8 = 0 := by
  refine ⟨by decide, rfl, rfl, rfl, rfl⟩

/-- A queue whose counters lie in another device. -/
def farQueue (st : QueueState) (e : Option Entering) : State :=
  { far (entry (.qwait 0 0)) with
    ctxs := Vector.replicate 64 { mapped .running with
      windows := Vector.replicate 256 farWindow
      queues := Vector.replicate 256 { queue st [] with prod := 0x40000, cons := 0x40008, entering := e } } }

/-- The packet that enters such a queue. -/
def entering : Entering :=
  { index := 3, producer := 5, packet := (packet 1 0).packet, kernel := some demoKernel, block := none, req := 7 }

set_option maxRecDepth 16000 in
/-- Blocked queues whose hold has ended and has not; a queue that runs over; consumer counters that are here, that fail,
and that a replay holds. -/
theorem witness_DispatchEvents_more :
    (∃ v w p i place, (queues .blocked [] 5 3).lookAt 0 0 = (v, .values p i place) ∧
      v.stillHeld 0 0 p i place = (w, some false)) ∧
    (∃ v w p i place, (queues .blocked [packet 3 9] 5 3).lookAt 0 0 = (v, .values p i place) ∧
      v.stillHeld 0 0 p i place = (w, some true)) ∧
    (∃ v, observe (queues .ready [] 50 3) 0 0 = (v, .over)) ∧
    (∃ v p i place, (queues .ready [] 3 3).lookAt 0 0 = (v, .values p i place) ∧ p ≤ i) ∧
    (queues .ready [] 5 3).packetCounter 0 0x10008 = true ∧ (queues .ready [] 5 3).packetCounter 0 0x10004 = false ∧
    (∃ t, dispatchAdd (queues .ready [] 5 3) 0 0x10008 1 (.tender 0) = .over t) ∧
    ((farQueue .ready (some entering)).queue 0 0).entering = some entering ∧ entering.kernel = some demoKernel ∧
    (queues .empty [] 5 3).queueWrites 0 0 = false ∧ (0x10008 : Word).toNat % 8 = 0 := by
  refine ⟨⟨_, _, _, _, _, rfl, rfl⟩, ⟨_, _, _, _, _, rfl, rfl⟩, ⟨_, rfl⟩, ⟨_, _, _, _, rfl, by decide⟩, rfl, rfl, ⟨_, rfl⟩, rfl, rfl, rfl, rfl⟩

/-- An arrival that waits in a replay, before and after 1 ms. -/
theorem witness_replayArrival :
    (let r : ReplayPos := { ctx := 0, used := [], waits := [{ op := addend.order 0, since := 0 }] }
     let s : State := { demo with slices := Vector.replicate 128 { Slice.reset with replay := [r] } }
     ((s.sliceAt 5).replayOf 0).waits = r.waits) ∧
    0 + 1000 * microsecond ≤ 1000 * microsecond ∧ 1000 * microsecond - 1 < 0 + 1000 * microsecond := by
  refine ⟨?_, by decide, by decide⟩
  simp [State.sliceAt, Slice.replayOf]

/-- A set of arrived quads that is tested before any timer. -/
theorem witness_joinTimer : (demoOf demoKernel (joinWave 0)).joinTimer = some (.join 0 0) := rfl

/-- Tables that map the second GiB to window 0 of another device. -/
def farTables (st : QueueState) : State :=
  { farQueue st none with
    mem := Mem.write (Mem.write tables 0x80010 (leBytes 8 (0x117 + Config.apertureBase + 2 ^ 48) ++ leBytes 8 1)) 0x10000
      (leBytes 8 5 ++ leBytes 8 3) }

set_option maxRecDepth 16000 in
/-- Adds of the dispatcher that leave on a link, and that a replay holds. -/
theorem witness_dispatchAdds :
    (∃ t r, dispatchAdd (farTables .ready) 0 0x40000008 1 (.tender 0) = .sent t r) ∧
    (∃ t r, dispatchAdd (farTables .ready) 0 0x40000008 1 (.engine dispatcherCore 21 0) = .sent t r) ∧
    (∃ t, dispatchAdd (ordered 2 1 (0x200 + homeSlice 0x10000 * 2 ^ 50 + 1 * 2 ^ 57) (2 ^ 16 + 2 ^ 32)) 0 0x10000 1
      (.tender 0) = .held t) :=
  ⟨⟨_, _, rfl⟩, ⟨_, _, rfl⟩, _, rfl⟩

/-! ### More examples -/

/-- Reads of control blocks: CTXTAG and CTXWAYS of context 0 by its port, and nothing by the other (R30, R33). -/
theorem test_registerRead :
    ((demo.hostRegisterRead .p0 .bar2 0x400028).portAt .p0).reply = .data (leBytes 8 1) ∧
    ((demo.hostRegisterRead .p1 .bar2 0x400028).portAt .p1).reply = .data (leBytes 8 0) ∧
    ((demo.hostRegisterRead .p0 .bar0 0x0818).portAt .p0).reply = .data (leBytes 8 0xFFFFFFFF) ∧
    ((demo.hostAtomic .p1).portAt .p1).reply = .unsupported := by decide

set_option maxRecDepth 16000 in
/-- A vector of a masked entry waits until the host unmasks the entry, and one of an open entry is raised (R45). -/
theorem test_vectorMask :
    (PortSt.reset.raiseVector 5).raised = [] ∧ ((PortSt.reset.raiseVector 5).setMask 5 false).raised = [5] ∧
    ((PortSt.reset.setMask 6 false).raiseVector 6).raised = [6] := by decide

set_option maxRecDepth 16000 in
/-- A kernel with 8 registers may not name v12, and one with 16 may (R290, R297). -/
theorem test_registersOfKernel :
    illegalAt 8 4 (.vaddInt (op 12 4 7 0) (md .i32)) = true ∧ illegalAt 16 4 (.vaddInt (op 12 4 7 0) (md .i32)) = false := by
  decide

/-! ### The spec's worked examples -/

/-- The address 0x12_3456_7880 of 07_page.md (R157). -/
theorem test_homeSlice : homeSlice 0x1234567880 = 74 ∧ homeSlice (0x1234567880 + 0x200) = 75 := by decide

/-- The cut of R102: quads 2, 3 and 6 of eight take the branch. -/
theorem test_cut : cutRuns 9 [2, 3, 6] = [(2, 1), (6, 0)] ∧ cutRuns 9 [0, 1, 4, 5, 7] = [(0, 1), (4, 1), (7, 0)] := by decide

/-- What a meaning leaves in s4 of quad 0 from s2 and s3. -/
def s4After (f : State → Out) (a b : Word) : Option Word :=
  match f (demoQ { demoQuad with s := (demoQuad.s.set 2 a).set 3 b }) with
  | .next t => some ((t.quadOf gang 0).rs 4)
  | .fault _ => none
  | .refused _ => none

set_option maxRecDepth 8000 in
/-- The table of 13_isa_scalar_control.md (R300): quotients and remainders at their boundary. -/
theorem test_divide :
    s4After (execSdivI64 4 2 3) (-7) 2 = some (-3) ∧ s4After (execSremI64 4 2 3) (-7) 2 = some (-1) ∧
    s4After (execSdivI64 4 2 3) 5 0 = some 0xFFFFFFFFFFFFFFFF ∧ s4After (execSremN64 4 2 3) 5 0 = some 5 ∧
    s4After (execSdivI64 4 2 3) 0x8000000000000000 (-1) = some 0x8000000000000000 ∧
    s4After (execSremI64 4 2 3) 0x8000000000000000 (-1) = some 0 :=
  ⟨rfl, rfl, rfl, rfl, rfl, rfl⟩

/-- The scales of 11_numbers.md (R250), as mantissa and power of two: 0, 0.125, 1, 3 and 31.5, then with SCB = −2. -/
theorem test_scales :
    [0x00, 0x10, 0x60, 0x90, 0xFF].map (scaleOf · 0) = [(0, -7), (16, -7), (32, -5), (48, -4), (63, -1)] ∧
    scaleOf 0x90 0xFE = (48, -6) := by decide

/-- The conversions of 11_numbers.md from f32: 17/64 and its negative, 2^-10, 500 to e4m3, 10^6 to e5m2. -/
theorem test_roundings :
    [Rnd.rne, .rna, .rz, .ru, .rd].map (fun r => convert .f32 .e4m3 r 0 false false 0x3E880000) = [0x28, 0x29, 0x28, 0x29, 0x28] ∧
    [Rnd.rne, .rna, .rz, .ru, .rd].map (fun r => convert .f32 .e4m3 r 0 false false 0xBE880000) = [0xA8, 0xA9, 0xA8, 0xA8, 0xA9] ∧
    [Rnd.rne, .rna, .rz, .ru, .rd].map (fun r => convert .f32 .e4m3 r 0 false false 0x3A800000) = [0, 1, 0, 1, 0] ∧
    [Rnd.rne, .rna, .rz, .ru, .rd].map (fun r => convert .f32 .e4m3 r 0 false false 0x43FA0000) = [0x7E, 0x7E, 0x7E, 0x7E, 0x7E] ∧
    [Rnd.rne, .rna, .rz, .ru, .rd].map (fun r => convert .f32 .e5m2 r 0 false false 0x49742400) = [0x7C, 0x7C, 0x7B, 0x7C, 0x7B] ∧
    [Rnd.rne, .rna, .rz, .ru, .rd].map (fun r => convert .f32 .e5m2 r 0 true false 0x49742400) = [0x7B, 0x7B, 0x7B, 0x7B, 0x7B] ∧
    convert .f32 .e4m3 .rs (2 ^ 31) false false 0x3E880000 = 0x29 ∧
    convert .f32 .e4m3 .rs (2 ^ 31 - 1) false false 0x3E880000 = 0x28 := by decide

/-- The K-group of 11_numbers.md (R261): 2^20 − 2^20 + 2^-45 + 0 with c = 3 × 2^-42, then with c = 2^-50. -/
theorem test_window :
    windowSum [.fin false 3 (-42) false, .fin false 1 20 false, .fin true 1 20 false, .fin false 1 (-45) false, .fin false 0 0 false]
      = 0x2B000000 ∧
    windowSum [.fin false 1 (-50) false, .fin false 1 20 false, .fin true 1 20 false, .fin false 1 (-45) false, .fin false 0 0 false]
      = 0 := by decide

/-- The group of 11_numbers.md (R265): 3, −7, 7, 0, −128, 2, 7, 7 keeps indices 1, 2, 4 and 6. -/
theorem test_prune : prune48 .i8 [3, 0xF9, 7, 0, 0x80, 2, 7, 7] = [1, 2, 4, 6] := by decide

set_option maxRecDepth 16000 in
/-- The scaled product of 16_isa_matrix_walk.md (R390): 32 with SCB 0, 2 with SCB −2. -/
theorem test_scaled :
    let f : Family := { ta := .e4m3, tb := .e4m3, k := 32, sum := .window, scales := true, sparse := false }
    let a := 0x3838383838383838383838383838383838383838383838383838383838383838
    let b := 0x3030303030303030303030303030303030303030303030303030303030303030
    matElem f 0 a b none (some (0x9060, 0)) (some (0x6060, 0)) = 0x42000000 ∧
    matElem f 0 a b none (some (0x9060, 0xFE)) (some (0x6060, 0xFE)) = 0x40000000 := by decide

/-- The strides of 12_encoding.md (R288). -/
theorem test_strides : [0x001, 0x201, 0x181, 0x1F8].map strideOf = [1, -1, 64, 7168] ∧
    [1, -1, 64, 7168, 0, 7297].map strideField = [some 0x001, some 0x201, some 0x181, some 0x1F8, some 0, none] := by decide

/-- The quantised bounds of 10_ray.md (R221): origin 2, exponent byte 123, 8 and 40 steps give 2.5 and 4.5. -/
theorem test_quantised :
    quantBound .rd 0x40000000 8 123 = f32Fixed 0x40200000 ∧ quantBound .ru 0x40000000 40 123 = f32Fixed 0x40900000 ∧
    f32Fixed 0x40200000 ≠ none := by decide

/-! ### The worked object of 19_code_objects.md -/

/-- The code of `kconst`, `kcall` and `helper`, its relocated fields zero. -/
def objectCode : List AsmItem :=
  [.start 640 4, .instr (.slui 4 0), .instr (.saddi 4 4 0), .instr (.sldN64 5 4 8), .instr (.spcui 6 0), .instr (.saddi 6 6 0),
   .instr (.sldN64 7 6 16), .instr (.sstN64 0 5 0), .instr (.sstN64 0 7 8), .instr .exit,
   .start 640 4, .instr (.spcui 8 0), .instr (.sldN64 8 8 0), .instr (.bcallr 63 8), .instr (.sstN64 0 9 0), .instr .exit,
   .start 640 4, .instr (.sli 9 42), .instr (.bjr 63)]

/-- Clauses at 0x000, 0x02C, 0x040 and 0x050, in 0x060 bytes (R296). -/
theorem test_frame :
    ((frameCode objectCode).map fun ws =>
      (ws.length * 4, [0x000, 0x02C, 0x040, 0x050].map fun a => (ws.getD (a / 4) 0, (ws.getD (a / 4 + 1) 0).toNat / 2 ^ 22))) =
    some (0x60, [(0xC0000000, 9), (0xC0000000, 3), (0xC0000000, 2), (0xC0000000, 2)]) := by decide

/-- text in page 0, got at 0x1_0000, rodata at 0x1_0040, imagesz 0x1_0080 (R451). -/
theorem test_layOut :
    layOut (fun x => if x = .text then (65536, 0x60) else if x = .got then (8, 8) else if x = .rodata then (64, 64) else (4, 0)) =
      ([some 0, some 0x10000, some 0x10040, none, none, none], 0x10080) := by decide

/-- A section header without file bytes of its own. -/
def sectionAt (name flags voff size foff align : Nat) : ObjSection :=
  { name := name, flags := flags, voff := voff, size := size, foff := foff, align := align, clean := true }

/-- A data or function symbol. -/
def symbolAt (value : Word) (kind : Nat) : ObjSymbol :=
  { name := 0, sec := 0, value := value, kind := kind, bind := 0, clean := true }

/-- A record with addend 0. -/
def relocAt (site sym type pair : Nat) : ObjReloc :=
  { site := site, sym := sym, type := type, pair := pair, addend := 0, clean := true }

/-- The object: the file holds the name of got, the code, its entry and the constants. -/
def workedObject : Object :=
  { file := gotName ++ [0] ++ ((frameCode objectCode).getD []).flatMap (fun w => leBytes 4 w.toNat) ++ leBytes 8 0 ++
      [3, 5, 7, 11, 13, 17, 19, 23].flatMap (leBytes 8)
    header := { objHeader [] with str := { count := 5, off := 0 }, imagesz := 0x10080, prefbase := 0x10000000 }
    sections := [sectionAt 3 1 0 0x60 4 65536, sectionAt 0 0 0x10000 8 0x64 8, sectionAt 3 0 0x10040 64 0x6C 64]
    symbols := [symbolAt 0x10040 0, symbolAt 0x50 1], kernels := [], layouts := [], got := [1], manifest := []
    relocs := [relocAt 0x08 0 2 0, relocAt 0x0C 0 3 0, relocAt 0x14 0 4 0, relocAt 0x18 0 5 2, relocAt 0x34 1 6 0,
               relocAt 0x38 1 7 4] }

/-- Some words of what an object comes to. -/
def loadedWords (r : Except Reject Loaded) (sites : List Nat) : Option (List Code) :=
  match r with
  | .ok l => some (sites.map l.image.word)
  | .error _ => none

set_option maxRecDepth 8000 in
/-- At base 0x4000_0000 the six records patch these words, and the entry of `helper` holds 0x4000_0050 (R455, R460). -/
theorem test_load :
    loadedWords (workedObject.resolved { names := [], layouts := [] } 0x40000000) [0x08, 0x0C, 0x14, 0x18, 0x34, 0x38, 0x10000]
      = some [0x30440010, 0x01104040, 0x34600010, 0x0118602C, 0x34800010, 0x18208FCC, 0x40000050] := by decide

/-- Its source, with the operators that its records come from. -/
def objectSource : List AsmItem :=
  [.start 640 4, .reloc (.slui 4 0) .hi 0, .reloc (.saddi 4 4 0) .lo 0, .instr (.sldN64 5 4 8), .reloc (.spcui 6 0) .pchi 0,
   .reloc (.saddi 6 6 0) .pclo 0, .instr (.sldN64 7 6 16), .instr (.sstN64 0 5 0), .instr (.sstN64 0 7 8), .instr .exit,
   .start 640 4, .reloc (.spcui 8 0) .gothi 1, .reloc (.sldN64 8 8 0) .gotlo 1, .instr (.bcallr 63 8), .instr (.sstN64 0 9 0),
   .instr .exit, .start 640 4, .instr (.sli 9 42), .instr (.bjr 63)]

set_option maxRecDepth 8000 in
/-- The records of the source, `%pclo` and `%gotlo` paired with the `spcui` before them, and its list of the global offset
table (R294, R455, R459). -/
theorem test_records :
    (codeUses objectSource).map (fun us => (us.map (·.record us), gotList us)) = some (workedObject.relocs, [1]) := by decide

set_option maxRecDepth 8000 in
/-- At base 0x7FFF_0000 record 0 overflows, and the object is rejected (R462). -/
theorem test_overflow :
    (match workedObject.resolved { names := [], layouts := [] } 0x7FFF0000 with
     | .ok _ => none
     | .error e => some e) = some .overflow := by decide

/-- `%hi` and `%lo` of 0x4_5A9C (R294), and the ends of the reach. -/
theorem test_split : hiPart 0x45A9C = 0x46 ∧ loPart 0x45A9C = -1380 ∧ hiFits (hiPart 0x7FFFF7FF) = true ∧
    hiFits (hiPart 0x7FFFF800) = false ∧ hiFits (hiPart 0xFFFFFFFF7FFFF800) = true ∧
    hiFits (hiPart 0xFFFFFFFF7FFFF7FF) = false := by decide

set_option maxRecDepth 16000 in
/-- The descriptor of 04_kernel.md (R79, R295): its shape word, and the tile in the last 2 KiB. -/
theorem test_directives :
    let k : KernelDirs := { KernelDirs.plain 0 96 32 with waves := 4, scratch := 65536, residual := 64, msplit := true }
    k.shape = 0x20C41063 ∧ (k.template 1).map (fun d => (d.length, field d 16 4, field d 32 4)) = some (128, 0x20C41063, 0xF800) ∧
    (k.template 1).bind (fun d => (kernelOf d).map (·.waves)) = some 4 := by decide

end Sys2Proof.Tests
end

section
/-! SUPPORT. The invariant (R25) is kept by everything a step does. Few operations touch what it speaks of: writes to HBM
(`State.rawWrite`), to a scratchpad (`State.scratchWrite`, `Tile`) and to the recovery buffer, the arithmetic clock, a
restore of saved teams, and `step` itself, which takes an event from the agenda. Each has its own argument here. For every
other function `f` of the model the lemma `f_inv` follows `f` branch by branch and cites the lemmas of the functions that
`f` calls; `exec_inv` and `step_inv` put them together. -/

namespace Sys2Proof.Machine

-- One proof after the other: several hundred at a time, each with its own stack, take more memory than the check allows.
set_option Elab.async false

variable {s : State}

/-! ### Parts of the invariant -/

/-- The invariant speaks of five fields only. -/
theorem State.Inv.congr {t : State} (h : s.Inv) (ha : t.agenda = s.agenda) (hm : t.mem = s.mem)
    (ht : t.teams = s.teams) (hr : t.recovery = s.recovery) (hq : t.rate = s.rate) : t.Inv where
  agenda := by unfold State.agendaOk; rw [ha]; exact h.agenda
  mem := hm ▸ h.mem
  scratch := ht ▸ h.scratch
  recovery := hr ▸ h.recovery
  rate := hq ▸ h.rate

/-- Fields that the invariant does not speak of. -/
theorem State.Inv.update (h : s.Inv) {clk wall poisoned owners ctxs cores slices launches accs portAccs requests fetches
    remoteWaits sectorOut ports tenderLog fw flash fabValid fabId route links stalls logWaits lastGrant cur free nextId} :
    ({ s with
        clk := clk, wall := wall, poisoned := poisoned, owners := owners, ctxs := ctxs, cores := cores
        slices := slices, launches := launches, accs := accs, portAccs := portAccs, requests := requests
        fetches := fetches, remoteWaits := remoteWaits, sectorOut := sectorOut, ports := ports
        tenderLog := tenderLog, fw := fw, flash := flash, fabValid := fabValid, fabId := fabId, route := route
        links := links, stalls := stalls, logWaits := logWaits, lastGrant := lastGrant, cur := cur
        free := free, nextId := nextId } : State).Inv :=
  h.congr rfl rfl rfl rfl rfl

theorem State.Inv.setTeams (h : s.Inv) {ts : List Team} (ht : ∀ t ∈ ts, t.scratch.wf = true) :
    ({ s with teams := ts } : State).Inv :=
  { h with scratch := ht }

theorem State.Inv.mapTeams (h : s.Inv) {f : Team → Team} (hf : ∀ t, t.scratch.wf = true → (f t).scratch.wf = true) :
    ({ s with teams := s.teams.map f } : State).Inv :=
  h.setTeams fun _ ht => by
    obtain ⟨t, hm, rfl⟩ := List.mem_map.mp ht
    exact hf t (h.scratch t hm)

theorem mem_modAt {α : Type} {l : List α} {i : Nat} {f : α → α} {x : α} (h : x ∈ modAt l i f) :
    x ∈ l ∨ ∃ y ∈ l, x = f y := by
  obtain ⟨n, hn⟩ := List.mem_iff_getElem?.mp h
  rw [modAt_getElem?] at hn
  split at hn
  · obtain ⟨y, hy, rfl⟩ := Option.map_eq_some_iff.mp hn
    exact .inr ⟨y, List.mem_of_getElem? hy, rfl⟩
  · exact .inl (List.mem_of_getElem? hn)

/-- A next state is in the invariant; a fault or a refusal leaves none. -/
def Out.Inv (o : Out) : Prop :=
  match o with
  | .next s => s.Inv
  | .fault _ => True
  | .refused _ => True

/-- Both answers of a function that goes on from one of them are in the invariant. -/
def BothInv : Except State State → Prop
  | .ok s => s.Inv
  | .error s => s.Inv

/-- The state in which an issue goes on. -/
def Issued.Inv : Issued → Prop
  | .state s => s.Inv
  | .instr _ s => s.Inv

/-- The state in which a walk engine goes on. -/
def WalkNext.Inv : WalkNext → Prop
  | .state s => s.Inv
  | .word _ s => s.Inv

theorem foldl_inv {α : Type} {f : State → α → State} {l : List α} (hf : ∀ s a, s.Inv → (f s a).Inv) (h : s.Inv) :
    (l.foldl f s).Inv := by
  induction l generalizing s with
  | nil => exact h
  | cons a l ih => exact ih (hf _ _ h)

theorem foldl_fst_inv {α β : Type} {f : State × β → α → State × β} {l : List α} {x : State × β}
    (hf : ∀ x a, x.1.Inv → (f x a).1.Inv) (h : x.1.Inv) : (l.foldl f x).1.Inv := by
  induction l generalizing x with
  | nil => exact h
  | cons a l ih => exact ih (hf _ _ h)

theorem getD_inv {o : Option State} (ho : ∀ t, o = some t → t.Inv) (h : s.Inv) : (o.getD s).Inv := by
  cases o with
  | none => exact h
  | some t => exact ho t rfl

/-! ### Writing the state -/

theorem State.modCtx_inv {c f} (hs : s.Inv) : (s.modCtx c f).Inv := hs.update

theorem State.modCore_inv {c f} (hs : s.Inv) : (s.modCore c f).Inv := hs.update

theorem State.modSlice_inv {n f} (hs : s.Inv) : (s.modSlice n f).Inv := hs.update

theorem State.modPort_inv {p f} (hs : s.Inv) : (s.modPort p f).Inv := hs.update

theorem State.modTeam_inv {t f} (hs : s.Inv) (hf : ∀ x : Team, x.scratch.wf = true → (f x).scratch.wf = true) :
    (s.modTeam t f).Inv :=
  hs.setTeams fun _ hx => by
    rcases mem_modAt hx with hx | ⟨y, hy, rfl⟩
    · exact hs.scratch _ hx
    · exact hf _ (hs.scratch _ hy)

theorem State.modWave_inv {t w f} (hs : s.Inv) : (s.modWave t w f).Inv := State.modTeam_inv hs fun _ h => h

theorem State.modQuad_inv {t w q f} (hs : s.Inv) : (s.modQuad t w q f).Inv := State.modTeam_inv hs fun _ h => h

theorem State.modQuads_inv {t w qs f} (hs : s.Inv) : (s.modQuads t w qs f).Inv :=
  State.modTeam_inv hs fun _ h => h

theorem State.modLaunch_inv {n f} (hs : s.Inv) : (s.modLaunch n f).Inv := hs.update

theorem State.modQueue_inv {c q f} (hs : s.Inv) : (s.modQueue c q f).Inv := hs.update

theorem State.modEngine_inv {c q f} (hs : s.Inv) : (s.modEngine c q f).Inv := hs.update

theorem State.bumpId_inv (hs : s.Inv) : s.bumpId.Inv := hs.update

theorem State.bumpFree_inv (hs : s.Inv) : s.bumpFree.Inv := hs.update

theorem State.stall_inv {core ctx idx n} (hs : s.Inv) : (s.stall core ctx idx n).Inv := hs.update

theorem State.raise_inv {c k} (hs : s.Inv) : (s.raise c k).Inv := by
  unfold State.raise
  split
  · exact State.modPort_inv hs
  · exact hs

theorem State.passClock_inv {dt} (hs : s.Inv) : (s.passClock dt).Inv := hs.update

/-! ### Lines -/

theorem State.setLine_inv {line st writer} (hs : s.Inv) : (s.setLine line st writer).Inv :=
  State.modSlice_inv hs

theorem State.touchLine_inv {line c} (hs : s.Inv) : (s.touchLine line c).Inv := by
  unfold State.touchLine
  split
  · exact State.setLine_inv hs
  · exact State.setLine_inv hs

theorem State.dirtyLine_inv {line c} (hs : s.Inv) : (s.dirtyLine line c).Inv := by
  unfold State.dirtyLine
  split
  · exact State.setLine_inv hs
  · exact State.setLine_inv hs

theorem State.lowAs_inv {pa low} (hs : s.Inv) : (s.lowAs pa low).Inv := State.modSlice_inv hs

/-! ### Translation -/

theorem sendRemote_inv {c window off who addr kind} (hs : s.Inv) :
    (sendRemote s c window off who addr kind).1.Inv := by
  unfold sendRemote
  dsimp only
  split
  · exact hs
  · exact hs.update

theorem State.touchEntry_inv {c va pa} (hs : s.Inv) : (s.touchEntry c va pa).Inv := by
  unfold State.touchEntry
  split
  · exact State.touchLine_inv hs
  · exact State.bumpFree_inv hs
  · exact State.bumpFree_inv (sendRemote_inv hs)
  · exact hs

theorem State.touchWalk_inv {c va} (hs : s.Inv) : (s.touchWalk c va).Inv := by
  unfold State.touchWalk
  split
  · exact foldl_inv (fun _ _ => State.touchEntry_inv) hs
  · exact hs

theorem translateWalk_inv {c va n} (hs : s.Inv) : (translateWalk s c va n).1.Inv := State.touchWalk_inv hs

theorem translate_inv {core c va n} (hs : s.Inv) : (translate s core c va n).1.Inv := by
  unfold translate
  grind [State.touchWalk_inv, State.stall_inv, State.modCore_inv]

theorem translatePieces_inv {core c n l} (hs : s.Inv) : (translatePieces s core c n l).1.Inv := by
  induction l generalizing s with
  | nil => exact hs
  | cons p l ih =>
    unfold translatePieces
    grind [translate_inv]

/-! ### The home of a line -/

theorem State.rawWrite_inv {c pa bs} (hs : s.Inv) : (s.rawWrite c pa bs).Inv := by
  have hm : ({ s with mem := s.mem.write pa bs } : State).Inv := { hs with mem := Mem.wf_write _ _ hs.mem }
  unfold State.rawWrite
  refine State.setLine_inv ?_
  split
  · exact hm.update
  · exact hm

theorem Team.notify_scratch (t : Team) (loc : CounterLoc) (old new : Word) :
    (t.notify loc old new).scratch = t.scratch := by
  unfold Team.notify
  split <;> rfl

theorem State.notifyWaits_inv {pa old new} (hs : s.Inv) : (s.notifyWaits pa old new).Inv := by
  unfold State.notifyWaits
  refine State.Inv.update (hs.mapTeams fun t ht => ?_)
  split
  · exact ht
  · rwa [Team.notify_scratch]

theorem releaseOutside_inv {line} (hs : s.Inv) : (releaseOutside s line).Inv := State.modSlice_inv hs

theorem State.logLost_inv {c} (hs : s.Inv) : (s.logLost c).Inv := State.modCtx_inv hs

theorem State.logLater_inv {c e} (hs : s.Inv) : (s.logLater c e).Inv := hs.update

theorem State.regressIn_inv {old lg pa source c} (hs : s.Inv) (hlg : ∀ t c e, t.Inv → (lg t c e).Inv) :
    (s.regressIn old lg pa source c).Inv := by
  unfold State.regressIn
  grind [State.modQueue_inv, foldl_inv]

theorem State.tellRegression_inv {pa} (hs : s.Inv) : (s.tellRegression pa).Inv := hs.update

theorem State.changedBy_inv {lg pa old new source} (hs : s.Inv) (hlg : ∀ t c e, t.Inv → (lg t c e).Inv) :
    (s.changedBy lg pa old new source).Inv := by
  unfold State.changedBy
  grind [State.notifyWaits_inv, State.regressIn_inv, State.tellRegression_inv, foldl_inv]

theorem State.writeBy_inv {lg c pa bs source} (hs : s.Inv) (hlg : ∀ t c e, t.Inv → (lg t c e).Inv) :
    (s.writeBy lg c pa bs source).Inv := by
  unfold State.writeBy
  grind [State.rawWrite_inv, State.changedBy_inv, foldl_inv]

theorem State.logBytes_inv {c va bs} (hs : s.Inv) : (s.logBytes c va bs).Inv := by
  unfold State.logBytes
  grind [State.writeBy_inv, State.logLater_inv, foldl_inv]

theorem State.logAppend_inv {c seg w0 w1} (hs : s.Inv) : (s.logAppend c seg w0 w1).Inv := by
  unfold State.logAppend
  dsimp only
  split
  · exact State.logBytes_inv (State.logBytes_inv hs)
  · exact State.modCtx_inv (State.modSlice_inv hs)

theorem State.recordOrder_inv {c pa o} (hs : s.Inv) : (s.recordOrder c pa o).Inv := by
  unfold State.recordOrder
  dsimp only
  split
  · split
    · exact State.logBytes_inv hs
    · exact State.logAppend_inv hs
  · exact hs

theorem State.diverge_inv {c} (hs : s.Inv) : (s.diverge c).Inv := State.modCtx_inv hs

theorem State.modReplay_inv {c pa f} (hs : s.Inv) : (s.modReplay c pa f).Inv := State.modSlice_inv hs

theorem State.useEntry_inv {c pa o i} (hs : s.Inv) : (s.useEntry c pa o i).Inv := State.modReplay_inv hs

theorem State.noteWait_inv {c pa o} (hs : s.Inv) : (s.noteWait c pa o).Inv := State.modReplay_inv hs

theorem State.orderOne_inv {c pa o} (hs : s.Inv) : BothInv (s.orderOne c pa o) := by
  unfold State.orderOne
  grind [State.noteWait_inv, State.useEntry_inv, State.diverge_inv, State.recordOrder_inv, BothInv]

theorem State.orderAll_inv {c ops} (hs : s.Inv) : BothInv (s.orderAll c ops) := by
  unfold State.orderAll
  refine List.foldlRecOn ops _ hs fun x hx op _ => ?_
  have ho {t : State} (ht : t.Inv) := State.orderOne_inv (c := c) (pa := op.1) (o := op.2) ht
  grind [State.noteWait_inv, BothInv]

theorem State.orderWait_inv {t w n} (hs : s.Inv) : (s.orderWait t w n).Inv := by
  unfold State.orderWait
  grind [State.orderOne_inv, State.modQuad_inv, BothInv]

theorem State.orderHeld_inv {h} (hs : s.Inv) : (s.orderHeld h).Inv := by
  unfold State.orderHeld
  grind [State.orderOne_inv, State.Inv.update, BothInv]

theorem State.orderWaits_inv (hs : s.Inv) : s.orderWaits.Inv := by
  unfold State.orderWaits
  grind [State.orderWait_inv, State.orderHeld_inv, foldl_inv]

theorem State.placeLog_inv {c bs} (hs : s.Inv) : BothInv (s.placeLog c bs) := by
  unfold State.placeLog
  have hw {t : State} {c pa bs n} (ht : t.Inv) : (t.writeBy State.logLater c pa bs n).Inv :=
    State.writeBy_inv ht fun _ _ _ => State.logLater_inv
  grind [State.touchWalk_inv, State.dirtyLine_inv, State.orderOne_inv, State.logLost_inv, releaseOutside_inv,
    State.raise_inv, BothInv]

theorem State.log_inv {c e} (hs : s.Inv) : (s.log c e).Inv := by
  unfold State.log
  grind [State.logLater_inv, State.placeLog_inv, BothInv]

theorem State.relog_inv (hs : s.Inv) : s.relog.Inv := by
  unfold State.relog
  grind [State.placeLog_inv, foldl_inv, State.Inv.update, BothInv]

theorem State.logFault_inv {c f e} (hs : s.Inv) : (s.logFault c f e).Inv := by
  unfold State.logFault
  split
  · exact State.log_inv hs
  · exact hs

theorem State.counterChanged_inv {pa old new source} (hs : s.Inv) : (s.counterChanged pa old new source).Inv :=
  State.changedBy_inv hs fun _ _ _ => State.log_inv

theorem State.homeWrite_inv {c pa bs source} (hs : s.Inv) : (s.homeWrite c pa bs source).Inv :=
  State.writeBy_inv hs fun _ _ _ => State.log_inv

theorem State.homeWrites_inv {c pa bs source} (hs : s.Inv) : (s.homeWrites c pa bs source).Inv :=
  foldl_inv (fun _ _ => State.homeWrite_inv) hs

theorem State.homeRead_inv {c pa n} (hs : s.Inv) : (s.homeRead c pa n).1.Inv := State.touchLine_inv hs

theorem State.homeZero_inv {c line source} (hs : s.Inv) : (s.homeZero c line source).Inv :=
  State.setLine_inv (State.homeWrite_inv hs)

/-! ### Caches -/

theorem locate_inv {core c size va n need} (hs : s.Inv) : (locate s core c size va n need).1.Inv := by
  unfold locate
  grind [translatePieces_inv]

theorem fillClean_inv {core c va pa e} (hs : s.Inv) : (fillClean s core c va pa e).Inv := by
  unfold fillClean
  dsimp only
  split
  · exact hs
  · split
    · exact State.lowAs_inv (State.touchLine_inv hs)
    · exact State.stall_inv (State.modCore_inv (State.lowAs_inv (State.touchLine_inv hs)))

theorem State.deferDrain_inv {who addr} (hs : s.Inv) : (s.deferDrain who addr).Inv :=
  foldl_inv (fun _ _ => State.modQuad_inv) hs

theorem State.deferWave_inv {t w q addr} (hs : s.Inv) : (s.deferWave t w q addr).Inv := State.modQuad_inv hs

theorem State.homeHeld_inv {h line} (hs : s.Inv) : (s.homeHeld h line).Inv := by
  unfold State.homeHeld
  grind [State.rawWrite_inv, State.lowAs_inv, State.counterChanged_inv, foldl_inv]

theorem writeBack_inv {h line} (hs : s.Inv) : (writeBack s h line).Inv := by
  unfold writeBack
  grind [State.log_inv, State.deferDrain_inv, State.homeHeld_inv]

theorem writeBackOne_inv {core h} (hs : s.Inv) : (writeBackOne s core h).Inv := by
  unfold writeBackOne
  split
  · exact State.modCore_inv (writeBack_inv hs)
  · exact hs

theorem writeBackBound_inv {core c} (hs : s.Inv) : (writeBackBound s core c).Inv :=
  foldl_inv (fun _ _ => writeBackOne_inv) hs

theorem writeBackEvery_inv {core} (hs : s.Inv) : (writeBackEvery s core).Inv :=
  foldl_inv (fun _ _ => writeBackOne_inv) hs

theorem State.hostWrite_inv {p pa bs} (hs : s.Inv) : (s.hostWrite p pa bs).Inv := State.modPort_inv hs

theorem State.logFor_inv {c who code source addr} (hs : s.Inv) : (s.logFor c who code source addr).Inv := by
  unfold State.logFor
  split
  · exact State.log_inv hs
  · exact State.log_inv hs

theorem State.sectorWrite_inv {core c who w off va bs} (hs : s.Inv) :
    (s.sectorWrite core c who w off va bs).Inv := by
  unfold State.sectorWrite
  grind [sendRemote_inv, State.logFor_inv, State.deferDrain_inv]

theorem State.leaveHeld_inv {core h pa} (hs : s.Inv) : (s.leaveHeld core h pa).Inv := by
  unfold State.leaveHeld
  grind [State.hostWrite_inv, State.sectorWrite_inv, State.modCore_inv, foldl_inv]

theorem bindLine_inv {core h} (hs : s.Inv) : (bindLine s core h).1.Inv := by
  unfold bindLine
  grind [translate_inv, State.modCore_inv, State.leaveHeld_inv]

theorem bindList_inv {core l} (hs : s.Inv) : (bindList s core l).1.Inv := by
  induction l generalizing s with
  | nil => exact hs
  | cons p l ih =>
    unfold bindList
    grind [bindLine_inv]

theorem bindAll_inv {core c} (hs : s.Inv) : (bindAll s core c).1.Inv := bindList_inv hs

theorem hostBytes_inv {n} (hs : s.Inv) : (hostBytes s n).1.Inv := hs.update

theorem readPiece_inv {core c p} (hs : s.Inv) : (readPiece s core c p).1.Inv := by
  unfold readPiece
  dsimp only
  split
  · split
    · exact hs
    · exact foldl_inv (fun _ _ => fillClean_inv) hs
  · exact hostBytes_inv hs
  · exact hs
  · exact hs

theorem holdBytes_inv {core c va bs who src} (hs : s.Inv) : (holdBytes s core c va bs who src).Inv := by
  unfold holdBytes
  dsimp only
  split
  · exact State.modCore_inv (writeBackOne_inv hs)
  · exact State.modCore_inv hs

theorem evictHeld_inv {core h} (hs : s.Inv) : (evictHeld s core h).Inv := by
  unfold evictHeld
  grind [writeBackOne_inv, bindLine_inv, State.modCore_inv]

theorem flushLine_inv {core c va} (hs : s.Inv) : (flushLine s core c va).Inv := by
  unfold flushLine
  dsimp only
  split
  · split
    · exact State.modCore_inv hs
    · exact evictHeld_inv (State.modCore_inv hs)
  · exact State.modCore_inv hs

theorem writePiece_inv {core c who src p bs} (hs : s.Inv) : (writePiece s core c who src p bs).Inv := by
  unfold writePiece
  grind [flushLine_inv, State.logFor_inv, State.deferDrain_inv, State.homeWrite_inv, State.lowAs_inv,
    holdBytes_inv, State.hostWrite_inv, State.sectorWrite_inv, foldl_inv]

theorem writePieces_inv {core c who src ps bs} (hs : s.Inv) : (writePieces s core c who src ps bs).Inv := by
  induction ps generalizing s bs with
  | nil => exact hs
  | cons p ps ih => exact ih (writePiece_inv hs)

theorem State.scratchChanged_inv {team off old new source} (hs : s.Inv) :
    (s.scratchChanged team off old new source).Inv := by
  have hn : (s.modTeam team (·.notify (.scratch off) old new)).Inv :=
    State.modTeam_inv hs fun x hx => by rwa [Team.notify_scratch]
  unfold State.scratchChanged
  grind [State.log_inv]

theorem State.scratchWrite_inv {team off bs source} (hs : s.Inv) : (s.scratchWrite team off bs source).Inv := by
  unfold State.scratchWrite
  refine foldl_inv (fun t a ht => ?_) (State.modTeam_inv hs fun _ h => Mem.wf_write _ _ h)
  dsimp only
  split
  · exact ht
  · exact State.scratchChanged_inv ht

theorem storeLoc_inv {core c team who src l bs} (hs : s.Inv) : (storeLoc s core c team who src l bs).Inv := by
  unfold storeLoc
  split
  · exact State.scratchWrite_inv hs
  · exact writePieces_inv hs

theorem recordRelease_inv {core line} (hs : s.Inv) : (recordRelease s core line).Inv := by
  unfold recordRelease
  dsimp only
  split
  · exact State.modSlice_inv hs
  · split
    · exact State.modSlice_inv hs
    · split
      · exact hs
      · exact State.modSlice_inv (foldl_inv (fun _ _ => writeBackEvery_inv) hs)

theorem promoteLine_inv {b line} (hs : s.Inv) : (promoteLine s b line).Inv :=
  State.modSlice_inv (foldl_inv (fun _ _ => writeBackEvery_inv) hs)

theorem acquireDrop_inv {b line c} (hs : s.Inv) : (acquireDrop s b line c).Inv := by
  unfold acquireDrop
  dsimp only
  split
  · split
    · exact State.modCore_inv hs
    · exact hs
  · split
    · exact State.modCore_inv hs
    · exact hs

theorem dropCopies_inv {core c} (hs : s.Inv) : (dropCopies s core c).Inv := State.modCore_inv hs

theorem acquireTeam_inv {t core c} (hs : s.Inv) : (acquireTeam s t core c).Inv := by
  unfold acquireTeam
  split
  · exact dropCopies_inv (writeBackEvery_inv hs)
  · split
    · exact dropCopies_inv hs
    · exact hs

theorem acquireSystem_inv {line} (hs : s.Inv) : (acquireSystem s line).Inv :=
  State.modSlice_inv (foldl_inv (fun _ _ => writeBackEvery_inv) hs)

/-! ### Operations on memory -/

theorem withGang_inv {f} (hf : ∀ g, (f g).Inv) : (withGang s f).Inv := by
  unfold withGang
  split
  · exact hf _
  · trivial

theorem State.mapGang_inv {g f} (hs : s.Inv) : (s.mapGang g f).Inv := State.modQuads_inv hs

theorem State.replaceGangs_inv {t w qs runs} (hs : s.Inv) : (s.replaceGangs t w qs runs).Inv :=
  State.modWave_inv hs

theorem State.regangBy_inv {g side} (hs : s.Inv) : (s.regangBy g side).Inv := by
  unfold State.regangBy
  dsimp only
  split
  · exact hs
  · exact State.replaceGangs_inv hs

theorem State.regang_inv {g} (hs : s.Inv) : (s.regang g).Inv := State.regangBy_inv hs

theorem State.watchdog_inv {g mode} (hs : s.Inv) : (s.watchdog g mode).Inv := State.modWave_inv hs

theorem State.trimLatch_inv {t w} (hs : s.Inv) : (s.trimLatch t w).Inv := State.modCore_inv hs

theorem State.occupy_inv {g cost} (hs : s.Inv) : (s.occupy g cost).Inv := State.modCore_inv hs

theorem State.account_inv {g cost mode} (hs : s.Inv) : (s.account g cost mode).Inv :=
  State.watchdog_inv (State.occupy_inv (State.stall_inv hs))

theorem State.retire_inv {g len cost mode} (hs : s.Inv) : (s.retire g len cost mode).Inv :=
  State.regang_inv (State.account_inv (State.mapGang_inv hs))

theorem State.hold_inv {g w} (hs : s.Inv) : (s.hold g w).Inv := State.mapGang_inv hs

theorem State.wake_inv {core} (hs : s.Inv) : (s.wake core).Inv := hs.mapTeams fun _ h => h

theorem State.ctxFault_inv {c} (hs : s.Inv) : (s.ctxFault c).Inv := by
  unfold State.ctxFault
  split
  · exact State.raise_inv hs.update
  · exact State.raise_inv (State.modCtx_inv hs)
  · exact State.raise_inv hs
  · exact hs
  · exact hs
  · exact hs
  · exact hs
  · exact hs

theorem State.unhandled_inv {g src} (hs : s.Inv) : (s.unhandled g src).Inv :=
  State.ctxFault_inv (State.log_inv (State.modWave_inv (State.mapGang_inv hs)))

theorem State.trap_inv {g cause addr lanes src} (hs : s.Inv) : (s.trap g cause addr lanes src).Inv := by
  unfold State.trap
  dsimp only
  split
  · exact State.regang_inv (State.unhandled_inv (State.mapGang_inv hs))
  · exact State.regang_inv (State.mapGang_inv (State.mapGang_inv hs))

theorem State.illegal_inv {g src} (hs : s.Inv) : (s.illegal g src).Inv := State.trap_inv hs

theorem State.badOperand_inv {g src} (hs : s.Inv) : (s.badOperand g src).Inv := State.trap_inv hs

theorem State.logAt_inv {g code src detail addr} (hs : s.Inv) : (s.logAt g code src detail addr).Inv :=
  State.log_inv hs

theorem State.memTrap_inv {g f lanes src} (hs : s.Inv) : (s.memTrap g f lanes src).Inv := by
  unfold State.memTrap
  split
  · exact State.trap_inv (State.logFault_inv hs)
  · exact State.trap_inv hs

theorem State.restartEntries_inv {g} (hs : s.Inv) : (s.restartEntries g).Inv := by
  unfold State.restartEntries
  dsimp only
  split
  · exact hs
  · exact State.modCore_inv hs

theorem State.trapReturn_inv {g} (hs : s.Inv) : (s.trapReturn g).Inv := by
  unfold State.trapReturn
  grind [State.account_inv, State.restartEntries_inv, State.mapGang_inv, State.regang_inv]

theorem State.freeLatch_inv {t w} (hs : s.Inv) : (s.freeLatch t w).Inv := State.modCore_inv hs

theorem State.releaseSet_inv {t w j set} (hs : s.Inv) : (s.releaseSet t w j set).Inv :=
  State.replaceGangs_inv (State.modQuads_inv hs)

theorem State.joinTest_inv {t w} (hs : s.Inv) : (s.joinTest t w).Inv := by
  unfold State.joinTest
  grind [State.releaseSet_inv, foldl_inv]

/-! ### The clock -/

theorem State.answerOne_inv {h r} (hs : s.Inv) : (s.answerOne h r).Inv := by
  unfold State.answerOne
  grind [acquireSystem_inv, State.Inv.update]

theorem State.answerHeld_inv (hs : s.Inv) : s.answerHeld.Inv := by
  unfold State.answerHeld
  grind [State.answerOne_inv, foldl_inv, State.Inv.update]

theorem Team.tick_scratch (t : Team) (dt wall : Nat) : (t.tick dt wall).scratch = t.scratch := by
  unfold Team.tick
  split <;> rfl

theorem State.passTime_inv {dt} (hs : s.Inv) : (s.passTime dt).Inv := by
  unfold State.passTime
  split
  · exact hs
  · exact State.Inv.update ((State.passClock_inv (State.answerHeld_inv hs)).mapTeams fun t ht => by
      rwa [Team.tick_scratch])

/-! ### Issue -/

theorem dropPending_inv {g p} (hs : s.Inv) : (dropPending s g p).Inv := State.mapGang_inv hs

theorem State.splitOff_inv {g n} (hs : s.Inv) : (s.splitOff g n).Inv := State.replaceGangs_inv hs

theorem State.takePending_inv {g t} (hs : s.Inv) (e : s.takePending g = some t) : t.Inv := by
  unfold State.takePending at e
  grind [State.splitOff_inv, dropPending_inv, State.trap_inv, State.mapGang_inv]

theorem State.fillCode_inv {core c line bs} (hs : s.Inv) : (s.fillCode core c line bs).Inv :=
  State.modCore_inv hs

theorem fetchWord_inv {core c va} (hs : s.Inv) : (fetchWord s core c va).1.Inv := by
  unfold fetchWord
  grind [translate_inv, State.touchLine_inv, State.lowAs_inv, State.fillCode_inv, hostBytes_inv]

theorem fetchWords_inv {core c va n} (hs : s.Inv) : (fetchWords s core c va n).1.Inv := by
  induction n generalizing s va with
  | zero => exact hs
  | succ n ih =>
    unfold fetchWords
    grind [fetchWord_inv]

theorem State.codeRemote_inv {g src va w off} (hs : s.Inv) : (s.codeRemote g src va w off).Inv := by
  unfold State.codeRemote
  grind [State.memTrap_inv, State.modQuad_inv, State.fillCode_inv, sendRemote_inv, State.hold_inv,
    State.logAt_inv]

theorem State.fetchFailed_inv {g core c src x} (hs : s.Inv) : (s.fetchFailed g core c src x).Inv := by
  unfold State.fetchFailed
  split
  · split
    · exact State.memTrap_inv (State.logAt_inv hs)
    · exact State.memTrap_inv hs
  · exact State.codeRemote_inv hs
  · exact State.hold_inv (State.modCore_inv hs)
  · exact hs

theorem State.fetchInstr_inv {g} (hs : s.Inv) : (s.fetchInstr g).Inv := by
  unfold State.fetchInstr
  grind [fetchWord_inv, State.fetchFailed_inv, State.illegal_inv, fetchWords_inv, Issued.Inv]

theorem State.issueGang_inv {g} (hs : s.Inv) : (s.issueGang g).Inv := by
  unfold State.issueGang
  grind [State.takePending_inv, State.fetchInstr_inv, Issued.Inv]

theorem State.issueQuarter_inv {core quarter} (hs : s.Inv) : (s.issueQuarter core quarter).Inv := by
  unfold State.issueQuarter
  grind [State.stall_inv, State.issueGang_inv, State.Inv.update, Issued.Inv]

/-! ### Flags -/

theorem State.issueLong_inv {g len cost id flag later} (hs : s.Inv) :
    (s.issueLong g len cost id flag later).Inv :=
  State.regang_inv (State.account_inv (State.mapGang_inv hs))

theorem State.raiseDeferred_inv {g p src t} (hs : s.Inv) (e : s.raiseDeferred g p src = some t) : t.Inv := by
  unfold State.raiseDeferred at e
  grind [State.mapGang_inv, State.trap_inv]

theorem State.raiseDrain_inv {g src t} (hs : s.Inv) (e : s.raiseDrain g src = some t) : t.Inv := by
  unfold State.raiseDrain at e
  grind [State.raiseDeferred_inv, State.modWave_inv, State.mapGang_inv, State.trap_inv]

theorem State.unlock_inv {g} (hs : s.Inv) : (s.unlock g).Inv := by
  unfold State.unlock
  grind [State.raiseDeferred_inv, State.mapGang_inv, State.regang_inv]

/-! ### Scalar forms -/

theorem scalarStep_inv {f} (hs : s.Inv) : (scalarStep s f).Inv :=
  withGang_inv fun _ => State.retire_inv (State.mapGang_inv hs)

theorem scalarAlu_inv {sd sa sb op} (hs : s.Inv) : (scalarAlu s sd sa sb op).Inv := scalarStep_inv hs

theorem scalarUnary_inv {sd sa op} (hs : s.Inv) : (scalarUnary s sd sa op).Inv := scalarStep_inv hs

theorem execSgetr_inv {sd num} (hs : s.Inv) : (execSgetr sd num s).Inv := by
  unfold execSgetr
  grind [withGang_inv, State.badOperand_inv, State.mapGang_inv, State.retire_inv]

theorem execSgetrQpc_inv {sd idx} (hs : s.Inv) : (execSgetrQpc sd idx s).Inv := by
  unfold execSgetrQpc
  grind [withGang_inv, State.badOperand_inv, State.mapGang_inv, State.retire_inv]

theorem execSsetr_inv {sa num} (hs : s.Inv) : (execSsetr sa num s).Inv := by
  unfold execSsetr
  grind [withGang_inv, State.mapGang_inv, State.retire_inv, State.trap_inv, State.modWave_inv,
    State.badOperand_inv]

theorem execSnopProgress_inv (hs : s.Inv) : (execSnopProgress s).Inv :=
  withGang_inv fun _ => State.retire_inv hs

/-! ### Operands of lane forms -/

theorem State.fuse_inv {run} (hs : s.Inv) : (s.fuse run).Inv := State.replaceGangs_inv (State.mapGang_inv hs)

theorem State.fuseTest_inv {t w} (hs : s.Inv) : (s.fuseTest t w).Inv := by
  unfold State.fuseTest
  grind [State.fuse_inv, foldl_inv]

theorem State.withWidth_inv {g minw body} (hs : s.Inv) (hbody : ∀ t g, t.Inv → (body t g).Inv) :
    (s.withWidth g minw body).Inv := by
  unfold State.withWidth
  dsimp only
  split
  · exact hbody s g hs
  · split
    · exact hbody _ _ (State.fuse_inv hs)
    · exact State.hold_inv hs

theorem laneStep_inv {o opnds body} (hs : s.Inv) (hbody : ∀ o t g, t.Inv → (body o t g).Inv) :
    (laneStep s o opnds body).Inv := by
  unfold laneStep
  grind [withGang_inv, State.illegal_inv, State.badOperand_inv, State.withWidth_inv]

theorem laneQuads_inv {o opnds cost f} (hs : s.Inv) : (laneQuads s o opnds cost f).Inv := by
  unfold laneQuads
  grind [laneStep_inv, State.mapGang_inv, State.retire_inv]

theorem laneMap_inv {o opnds cost rnd f} (hs : s.Inv) : (laneMap s o opnds cost rnd f).Inv := laneQuads_inv hs

theorem lane1_inv {o src dst cost rnd f} (hs : s.Inv) : (lane1 s o src dst cost rnd f).Inv := laneMap_inv hs

theorem lane2_inv {o t cost rnd f} (hs : s.Inv) : (lane2 s o t cost rnd f).Inv := laneMap_inv hs

theorem lane3_inv {o t cost rnd f} (hs : s.Inv) : (lane3 s o t cost rnd f).Inv := laneMap_inv hs

theorem laneCmp_inv {o t f} (hs : s.Inv) : (laneCmp s o t f).Inv := laneMap_inv hs

theorem laneImm_inv {o f} (hs : s.Inv) : (laneImm s o f).Inv := laneMap_inv hs

/-! ### What a form reaches -/

theorem checkAsk_inv {g a} (hs : s.Inv) : (checkAsk s g a).1.Inv := by
  unfold checkAsk
  split
  · exact hs
  · split
    · exact hs
    · exact locate_inv hs

theorem checkAsks_inv {g asks} (hs : s.Inv) : (checkAsks s g asks).1.Inv := by
  induction asks generalizing s with
  | nil => exact hs
  | cons a asks ih =>
    unfold checkAsks
    grind [checkAsk_inv]

theorem State.checked_inv {g asks src perform} (hs : s.Inv) (hperform : ∀ t xs, t.Inv → (perform t xs).Inv) :
    (s.checked g asks src perform).Inv := by
  unfold State.checked
  grind [checkAsks_inv, State.memTrap_inv]

theorem State.checkedLow_inv {g asks src perform} (hs : s.Inv) (hperform : ∀ t xs, t.Inv → (perform t xs).Inv) :
    (s.checkedLow g asks src perform).Inv := by
  unfold State.checkedLow
  grind [checkAsks_inv, State.memTrap_inv]

theorem readPieces_inv {g src pend quad k off ps} (hs : s.Inv) :
    (readPieces s g src pend quad k off ps).1.Inv := by
  induction ps generalizing s off with
  | nil => exact hs
  | cons p ps ih =>
    unfold readPieces
    grind [readPiece_inv, State.logAt_inv, sendRemote_inv]

theorem readLoc_inv {g src pend quad k len l} (hs : s.Inv) : (readLoc s g src pend quad k len l).1.Inv := by
  unfold readLoc
  split
  · exact hs
  · exact readPieces_inv hs

theorem loadQuad_inv {g src pend flag l ws} (hs : s.Inv) : (loadQuad s g src pend flag l ws).1.Inv := by
  induction ws generalizing s l with
  | nil => exact hs
  | cons w ws ih =>
    unfold loadQuad
    grind [readLoc_inv]

theorem perQuad_inv {f ns} (hf : ∀ s n, s.Inv → (f s n).1.Inv) (hs : s.Inv) : (perQuad f ns s).1.Inv := by
  induction ns generalizing s with
  | nil => exact hs
  | cons n ns ih =>
    unfold perQuad
    grind []

theorem State.bankCount_inv {g xs} (hs : s.Inv) : (s.bankCount g xs).Inv := State.stall_inv hs

theorem gangLoad_inv {g x wants} (hs : s.Inv) : (gangLoad s g x wants).Inv := by
  unfold gangLoad
  grind [State.hold_inv, State.checked_inv, State.bankCount_inv, perQuad_inv, loadQuad_inv, State.bumpId_inv,
    State.issueLong_inv]

/-! ### Tiles -/

theorem State.setTile_inv {t i bs note} (hs : s.Inv) : (s.setTile t i bs note).Inv :=
  State.modTeam_inv hs fun _ hx => Mem.wf_write _ _ hx

theorem State.clearTile_inv {t i} (hs : s.Inv) : (s.clearTile t i).Inv := State.setTile_inv hs

theorem State.sendTo_inv {a e} (hs : s.Inv) : (s.sendTo a e).Inv := by
  unfold State.sendTo
  grind [hostBytes_inv, writePiece_inv, sendRemote_inv, State.logFor_inv, State.deferDrain_inv,
    State.Inv.update]

theorem State.sendForced_inv {a e} (hs : s.Inv) : (s.sendForced a e).Inv :=
  State.stall_inv (State.sendTo_inv hs)

theorem forcedPlace_inv {core c va} (hs : s.Inv) : (forcedPlace s core c va).1.Inv := translate_inv hs

theorem State.sendOverflow_inv {id} (hs : s.Inv) : (s.sendOverflow id).Inv := by
  unfold State.sendOverflow
  grind [forcedPlace_inv, State.sendForced_inv, State.Inv.update]

theorem State.sendTile_inv {t drain i} (hs : s.Inv) : (s.sendTile t drain i).Inv := by
  unfold State.sendTile
  grind [State.clearTile_inv, forcedPlace_inv, State.bumpId_inv, State.sendForced_inv]

theorem State.pumpDrain_inv {t drain} (hs : s.Inv) : (s.pumpDrain t drain).Inv :=
  foldl_inv (fun _ _ => State.sendTile_inv) (foldl_inv (fun _ _ => State.sendOverflow_inv) hs)

theorem State.pumpCore_inv {core} (hs : s.Inv) : (s.pumpCore core).Inv := by
  unfold State.pumpCore
  grind [State.pumpDrain_inv, foldl_inv]

/-! ### Release -/

theorem State.endDrain_inv {g} (hs : s.Inv) : (s.endDrain g).Inv := State.mapGang_inv hs

theorem State.startDrain_inv {g} (hs : s.Inv) : (s.startDrain g).Inv :=
  State.pumpDrain_inv (State.hold_inv (State.bumpId_inv (State.endDrain_inv hs)))

theorem State.drained_inv {g src k} (hs : s.Inv) (hk : ∀ t, t.Inv → (k t).Inv) : (s.drained g src k).Inv := by
  unfold State.drained
  grind [State.endDrain_inv, forcedPlace_inv, State.memTrap_inv, State.startDrain_inv]

theorem State.atDrainPoint_inv {g src k} (hs : s.Inv) (hk : ∀ t, t.Inv → (k t).Inv) :
    (s.atDrainPoint g src k).Inv := by
  unfold State.atDrainPoint
  grind [State.raiseDrain_inv]

theorem State.releasing_inv {g src k} (hs : s.Inv) (hk : ∀ t, t.Inv → (k t).Inv) :
    (s.releasing g src k).Inv := by
  unfold State.releasing
  grind [State.atDrainPoint_inv, bindAll_inv, State.memTrap_inv, State.hold_inv, State.drained_inv,
    writeBackBound_inv]

theorem State.maybeReleasing_inv {g rel src k} (hs : s.Inv) (hk : ∀ t, t.Inv → (k t).Inv) :
    (s.maybeReleasing g rel src k).Inv := by
  unfold State.maybeReleasing
  split
  · exact State.releasing_inv hs hk
  · exact hk s hs

theorem State.scopeChecked_inv {g xs src k} (hs : s.Inv) (hk : ∀ t, t.Inv → (k t).Inv) :
    (s.scopeChecked g xs src k).Inv := by
  unfold State.scopeChecked
  split
  · exact hk s hs
  · exact State.memTrap_inv hs

theorem State.acquireAt_inv {t core c p} (hs : s.Inv) : (s.acquireAt t core c p).Inv := by
  unfold State.acquireAt
  split
  · split
    · exact acquireDrop_inv hs
    · exact hs
  · exact dropCopies_inv hs
  · exact acquireTeam_inv hs

theorem State.acquire_inv {t w qs lines} (hs : s.Inv) : (s.acquire t w qs lines).Inv := by
  unfold State.acquire
  dsimp only
  split
  · exact foldl_inv (fun _ _ => State.acquireAt_inv) hs
  · exact State.modQuads_inv (foldl_inv (fun _ _ => State.acquireAt_inv) hs)

theorem execPromotionWritebackAck_inv {core line} (hs : s.Inv) :
    (execPromotionWritebackAck core line s).Inv := by
  unfold execPromotionWritebackAck Out.Inv
  dsimp only
  split
  · exact hs
  · exact (foldl_inv (fun _ _ => acquireDrop_inv) (promoteLine_inv hs)).mapTeams fun _ h => h

theorem State.beforeRemote_inv {g n rel} (hs : s.Inv) : (s.beforeRemote g n rel).Inv := by
  unfold State.beforeRemote
  split
  · exact writeBackBound_inv hs
  · exact hs

theorem State.afterAtomic_inv {g n rel l} (hs : s.Inv) : (s.afterAtomic g n rel l).Inv := by
  unfold State.afterAtomic
  dsimp only
  split
  · split
    · exact recordRelease_inv (State.modQuad_inv hs)
    · exact State.modQuad_inv hs
  · exact State.modQuad_inv hs
  · exact State.modQuad_inv hs
  · exact State.modQuad_inv hs

/-! ### Scalar memory forms -/

theorem scalarLoad_inv {sd sa imm len signed yield} (hs : s.Inv) :
    (scalarLoad sd sa imm len signed yield s).Inv :=
  withGang_inv fun _ => gangLoad_inv hs

theorem storeAll_inv {g src xs} (hs : s.Inv) : (storeAll s g src xs).Inv := by
  induction xs generalizing s with
  | nil => exact hs
  | cons x xs ih => exact ih (storeLoc_inv hs)

theorem scalarStore_inv {sd sa imm len} (hs : s.Inv) : (scalarStore sd sa imm len s).Inv := by
  unfold scalarStore
  grind [withGang_inv, State.checked_inv, storeAll_inv, State.retire_inv]

theorem zeroLine_inv {g n l} (hs : s.Inv) : (zeroLine s g n l).Inv := by
  unfold zeroLine
  grind [State.scratchWrite_inv, State.modCore_inv, State.homeZero_inv, writePiece_inv]

theorem execDzero_inv {sa imm} (hs : s.Inv) : (execDzero sa imm s).Inv := by
  unfold execDzero
  grind [withGang_inv, State.checked_inv, zeroLine_inv, State.retire_inv, foldl_inv]

theorem prefetch_inv {core c l1 va} (hs : s.Inv) : (prefetch s core c l1 va).Inv := by
  unfold prefetch
  grind [translate_inv, fillClean_inv, State.touchLine_inv]

theorem scalarPrefetch_inv {sa imm l1} (hs : s.Inv) : (scalarPrefetch sa imm l1 s).Inv :=
  withGang_inv fun _ => State.retire_inv (foldl_inv (fun _ _ => prefetch_inv) hs)

theorem execJst_inv {o off} (hs : s.Inv) : (execJst o off s).Inv := by
  unfold execJst
  grind [laneStep_inv, State.checked_inv, storeAll_inv, State.retire_inv]

theorem execJld_inv {o off} (hs : s.Inv) : (execJld o off s).Inv := laneStep_inv hs fun _ _ _ => gangLoad_inv

/-! ### Vector memory forms -/

theorem vectorLoad_inv {g o t flag yield asks} (hs : s.Inv) : (vectorLoad s g o t flag yield asks).Inv :=
  gangLoad_inv hs

theorem vectorStore_inv {g o t asks} (hs : s.Inv) : (vectorStore s g o t asks).Inv := by
  unfold vectorStore
  grind [State.checked_inv, State.bankCount_inv, storeAll_inv, State.retire_inv]

theorem execVld_inv {o ty m} (hs : s.Inv) : (execVld o ty m s).Inv :=
  laneStep_inv hs fun _ _ _ => vectorLoad_inv

theorem execVst_inv {o ty m} (hs : s.Inv) : (execVst o ty m s).Inv :=
  laneStep_inv hs fun _ _ _ => vectorStore_inv

theorem execVlds_inv {o ty m} (hs : s.Inv) : (execVlds o ty m s).Inv :=
  laneStep_inv hs fun _ _ _ => vectorLoad_inv

theorem execVsts_inv {o ty m} (hs : s.Inv) : (execVsts o ty m s).Inv :=
  laneStep_inv hs fun _ _ _ => vectorStore_inv

theorem execVpf_inv {o m} (hs : s.Inv) : (execVpf o m s).Inv := by
  unfold execVpf
  grind [laneStep_inv, prefetch_inv, State.retire_inv, foldl_inv]

/-! ### Atomics -/

theorem atomAt_inv {g src ord pend targets a l} (hs : s.Inv) : (atomAt s g src ord pend targets a l).1.Inv := by
  unfold atomAt
  grind [State.scratchWrite_inv, flushLine_inv, State.logAt_inv, State.dirtyLine_inv, State.homeWrite_inv,
    State.lowAs_inv, hostBytes_inv, writePiece_inv, State.beforeRemote_inv, sendRemote_inv]

theorem atomAll_inv {g src ord pend flag ls xs} (hs : s.Inv) : (atomAll s g src ord pend flag ls xs).1.Inv := by
  induction xs generalizing s ls with
  | nil => exact hs
  | cons x xs ih =>
    unfold atomAll
    grind [atomAt_inv, State.afterAtomic_inv, foldl_inv]

theorem atomBody_inv {g x ord reqs locs} (hs : s.Inv) : (atomBody s g x ord reqs locs).Inv := by
  unfold atomBody
  grind [State.maybeReleasing_inv, State.scopeChecked_inv, State.orderAll_inv, State.bankCount_inv, atomAll_inv,
    State.bumpId_inv, State.issueLong_inv, State.acquire_inv, BothInv]

theorem gangAtomic_inv {g x ord reqs} (hs : s.Inv) : (gangAtomic s g x ord reqs).Inv := by
  unfold gangAtomic
  split
  · exact State.hold_inv hs
  · exact State.checked_inv hs fun _ _ => atomBody_inv

theorem gangAtomicLow_inv {g x reqs} (hs : s.Inv) : (gangAtomicLow s g x reqs).Inv := by
  unfold gangAtomicLow
  split
  · exact State.hold_inv hs
  · exact State.checkedLow_inv hs fun _ _ => atomBody_inv

theorem satomStep_inv {op sd sa sb ord} (hs : s.Inv) : (satomStep op sd sa sb ord s).Inv :=
  withGang_inv fun _ => gangAtomic_inv hs

theorem vatomStep_inv {op o ty m} (hs : s.Inv) : (vatomStep op o ty m s).Inv :=
  laneStep_inv hs fun _ _ _ => gangAtomic_inv

theorem execVappend_inv {o off} (hs : s.Inv) : (execVappend o off s).Inv :=
  laneStep_inv hs fun _ _ _ => gangAtomicLow_inv

/-! ### Accumulates -/

theorem State.ride_inv {t r id} (hs : s.Inv) : (s.ride t r id).1.Inv := by
  unfold State.ride
  grind [State.clearTile_inv]

theorem sendAddend_inv {g ty op x} (hs : s.Inv) : (sendAddend s g ty op x).Inv := by
  unfold sendAddend
  grind [State.scratchWrite_inv, flushLine_inv, State.ride_inv, State.bumpId_inv, State.modQuad_inv,
    State.sendTo_inv, foldl_inv]

theorem vaccStep_inv {op o ty m} (hs : s.Inv) : (vaccStep op o ty m s).Inv := by
  unfold vaccStep
  grind [laneStep_inv, State.checked_inv, State.hold_inv, State.bankCount_inv, sendAddend_inv, State.retire_inv,
    foldl_inv]

theorem execRflush_inv {o} (hs : s.Inv) : (execRflush o s).Inv := by
  unfold execRflush
  grind [laneStep_inv, State.atDrainPoint_inv, State.drained_inv, State.retire_inv]

theorem State.countLine_inv {line} (hs : s.Inv) : (s.countLine line).Inv := State.modSlice_inv hs

theorem State.dropAcc_inv {a} (hs : s.Inv) : (s.dropAcc a).Inv :=
  State.pumpCore_inv (State.pumpCore_inv (State.wake_inv hs.update))

theorem State.performAcc_inv {a} (hs : s.Inv) : (s.performAcc a).Inv := by
  unfold State.performAcc
  grind [State.modCore_inv, State.logFor_inv, State.deferWave_inv, State.dropAcc_inv, State.recordOrder_inv,
    State.homeWrite_inv, State.lowAs_inv, State.countLine_inv, recordRelease_inv]

theorem State.refuseAcc_inv {a} (hs : s.Inv) : (s.refuseAcc a).Inv := hs.update

theorem State.queueAcc_inv {a} (hs : s.Inv) : (s.queueAcc a).Inv := hs.update

theorem State.acceptAcc_inv {a} (hs : s.Inv) : (s.acceptAcc a).Inv := by
  unfold State.acceptAcc
  dsimp only
  split
  · split
    · exact State.refuseAcc_inv (State.recordOrder_inv hs)
    · exact State.queueAcc_inv hs
  · split
    · exact hs
    · exact State.queueAcc_inv hs
  · split
    · exact hs
    · exact State.queueAcc_inv hs

theorem State.replayAcc_inv {a} (hs : s.Inv) : (s.replayAcc a).Inv := by
  unfold State.replayAcc
  split
  · exact State.noteWait_inv hs
  · split
    · exact State.refuseAcc_inv (State.useEntry_inv hs)
    · split
      · exact hs
      · exact State.queueAcc_inv (State.useEntry_inv hs)
  · exact State.acceptAcc_inv (State.diverge_inv hs)
  · exact State.acceptAcc_inv hs

theorem execAccumulateArrival_inv {acc occupancy} (hs : s.Inv) :
    (execAccumulateArrival acc occupancy s).Inv := by
  unfold execAccumulateArrival
  split
  · exact hs
  · split
    · exact hs
    · exact State.replayAcc_inv hs

theorem execAccumulateWindowStart_inv (hs : s.Inv) : (execAccumulateWindowStart s).Inv := hs.update

theorem State.sendHeld_inv {t} (hs : s.Inv) : (s.sendHeld t).Inv :=
  foldl_inv (fun _ _ => State.sendOverflow_inv) hs

theorem State.placeRefused_inv {a} (hs : s.Inv) : (s.placeRefused a).Inv := by
  unfold State.placeRefused
  grind [State.setTile_inv, State.dropAcc_inv, State.sendOverflow_inv, State.Inv.update]

theorem execRefusalReply_inv {acc} (hs : s.Inv) : (execRefusalReply acc s).Inv := by
  unfold execRefusalReply
  grind [State.stall_inv, State.placeRefused_inv, State.sendHeld_inv, State.pumpCore_inv, Out.Inv]

theorem execDrainComplete_inv {team drain} (hs : s.Inv) : (execDrainComplete team drain s).Inv := by
  unfold execDrainComplete
  grind [State.pumpDrain_inv, State.modTeam_inv, Out.Inv]

/-! ### Counters -/

theorem State.flushAll_inv {g locs} (hs : s.Inv) : (s.flushAll g locs).Inv := by
  unfold State.flushAll
  grind [flushLine_inv, foldl_inv]

theorem State.useCounters_inv {c locs} (hs : s.Inv) : (s.useCounters c locs).Inv := by
  unfold State.useCounters
  grind [State.dirtyLine_inv, State.lowAs_inv, foldl_inv]

theorem addOne_inv {g rel n addr addend l t} (hs : s.Inv) (e : addOne s g rel n addr addend l = some t) :
    t.Inv := by
  unfold addOne at e
  grind [State.logFor_inv, State.deferDrain_inv, State.scratchWrite_inv, State.homeWrite_inv, State.lowAs_inv,
    sendRemote_inv, State.beforeRemote_inv]

theorem addAll_inv {g rel xs} (hs : s.Inv) : (addAll s g rel xs).1.Inv := by
  induction xs generalizing s with
  | nil => exact hs
  | cons x xs ih =>
    unfold addAll
    grind [addOne_inv, State.afterAtomic_inv]

theorem counterAdds_inv {g rel mode reqs} (hs : s.Inv) : (counterAdds s g rel mode reqs).Inv := by
  unfold counterAdds
  grind [State.checked_inv, State.maybeReleasing_inv, State.flushAll_inv, addAll_inv, State.orderAll_inv,
    State.retire_inv, State.trap_inv, BothInv]

theorem execCadd_inv {sa sb} (hs : s.Inv) : (execCadd sa sb s).Inv := withGang_inv fun _ => counterAdds_inv hs

theorem execCaddRel_inv {sa sb} (hs : s.Inv) : (execCaddRel sa sb s).Inv :=
  withGang_inv fun _ => counterAdds_inv hs

theorem cgetStep_inv {sd sa ord} (hs : s.Inv) : (cgetStep sd sa ord s).Inv :=
  withGang_inv fun _ => gangAtomic_inv hs

theorem execCgetTeam_inv {sd} (hs : s.Inv) : (execCgetTeam sd s).Inv := by
  unfold execCgetTeam
  grind [withGang_inv, State.hold_inv, State.issueLong_inv, State.bumpId_inv]

theorem parkQuad_inv {g f tag n addr target timeout l} (hs : s.Inv) :
    (parkQuad s g f tag n addr target timeout l).Inv := by
  unfold parkQuad
  grind [sendRemote_inv, State.modQuad_inv, State.logFor_inv]

theorem waitAll_inv {g f tag xs} (hs : s.Inv) : (waitAll s g f tag xs).Inv := by
  induction xs generalizing s with
  | nil => exact hs
  | cons x xs ih =>
    unfold waitAll
    grind [State.modQuad_inv, parkQuad_inv]

theorem counterWait_inv {g f reqs} (hs : s.Inv) : (counterWait s g f reqs).Inv := by
  unfold counterWait
  grind [State.checked_inv, State.flushAll_inv, State.logAt_inv, State.memTrap_inv, State.scopeChecked_inv,
    State.orderAll_inv, State.useCounters_inv, waitAll_inv, State.bumpId_inv, State.account_inv,
    State.regang_inv, State.acquire_inv, BothInv]

theorem execCwait_inv {sa sb acq} (hs : s.Inv) : (execCwait sa sb acq s).Inv :=
  withGang_inv fun _ => counterWait_inv hs

theorem execCwaitSt_inv {sd sa sb acq} (hs : s.Inv) : (execCwaitSt sd sa sb acq s).Inv :=
  withGang_inv fun _ => counterWait_inv hs

theorem State.leaveWait_inv {t w n} (hs : s.Inv) : (s.leaveWait t w n).Inv := by
  unfold State.leaveWait
  dsimp only
  split
  · split
    · exact hs
    · split
      · split
        · exact State.modQuad_inv hs
        · exact State.modQuad_inv hs
      · split
        · exact State.modQuad_inv hs
        · exact State.modQuad_inv hs
  · exact hs

theorem State.resumeWaits_inv {t w tag} (hs : s.Inv) : (s.resumeWaits t w tag).Inv :=
  State.acquire_inv (State.replaceGangs_inv (foldl_inv (fun _ _ => State.leaveWait_inv) hs))

theorem execCounterWatchNotify_inv {team wave quad} (hs : s.Inv) :
    (execCounterWatchNotify team wave quad s).Inv := by
  unfold execCounterWatchNotify
  split
  · split
    · exact State.resumeWaits_inv hs
    · exact hs
  · exact hs

theorem execCounterWaitTimeout_inv {team wave quad} (hs : s.Inv) :
    (execCounterWaitTimeout team wave quad s).Inv := by
  unfold execCounterWaitTimeout
  split
  · split
    · exact State.resumeWaits_inv (State.modWave_inv hs)
    · exact hs
  · exact hs

theorem State.barTest_inv {t} (hs : s.Inv) : (s.barTest t).Inv := by
  unfold State.barTest
  grind [State.modTeam_inv]

theorem barQuad_inv {g tag n} (hs : s.Inv) : (barQuad s g tag n).Inv := by
  unfold barQuad
  dsimp only
  split
  · exact State.modQuad_inv hs
  · exact State.modQuad_inv hs

theorem execBar_inv (hs : s.Inv) : (execBar s).Inv := by
  unfold execBar
  grind [withGang_inv, State.releasing_inv, State.mapGang_inv, State.modTeam_inv, State.barTest_inv,
    barQuad_inv, State.bumpId_inv, State.account_inv, State.regang_inv, State.acquire_inv, foldl_inv]

theorem State.fenceAcquire_inv {g k} (hs : s.Inv) (hk : ∀ t, t.Inv → (k t).Inv) : (s.fenceAcquire g k).Inv := by
  unfold State.fenceAcquire
  grind [State.hold_inv, State.scopeChecked_inv, State.acquire_inv, State.mapGang_inv]

theorem State.fenceRelease_inv {g k} (hs : s.Inv) (hk : ∀ t, t.Inv → (k t).Inv) : (s.fenceRelease g k).Inv := by
  unfold State.fenceRelease
  grind [State.releasing_inv, State.mapGang_inv]

theorem execFenceRel_inv (hs : s.Inv) : (execFenceRel s).Inv :=
  withGang_inv fun _ => State.fenceRelease_inv hs fun _ => State.retire_inv

theorem execFenceAcq_inv (hs : s.Inv) : (execFenceAcq s).Inv :=
  withGang_inv fun _ => State.fenceAcquire_inv hs fun _ => State.retire_inv

theorem execFenceAr_inv (hs : s.Inv) : (execFenceAr s).Inv := by
  unfold execFenceAr
  grind [withGang_inv, State.fenceAcquire_inv, State.fenceRelease_inv, State.retire_inv]

theorem execIfence_inv (hs : s.Inv) : (execIfence s).Inv :=
  withGang_inv fun _ => State.retire_inv (State.modCore_inv hs)

theorem State.discardEntry_inv {core id} (hs : s.Inv) : (s.discardEntry core id).Inv :=
  State.wake_inv (State.modCore_inv hs)

theorem State.orphanFaults_inv {g n} (hs : s.Inv) : (s.orphanFaults g n).Inv := by
  unfold State.orphanFaults
  grind [State.logAt_inv, State.ctxFault_inv, foldl_inv]

theorem execExit_inv (hs : s.Inv) : (execExit s).Inv := by
  unfold execExit
  grind [withGang_inv, State.releasing_inv, State.account_inv, State.discardEntry_inv, State.orphanFaults_inv,
    State.mapGang_inv, State.regang_inv, State.fuseTest_inv, State.barTest_inv, State.freeLatch_inv, foldl_inv]

/-! ### Rings -/

theorem blockPiece_inv {g src n p} (hs : s.Inv) : (blockPiece s g src n p).1.Inv := by
  unfold blockPiece
  grind [sendRemote_inv, State.logAt_inv, readPieces_inv]

theorem blockPieces_inv {g src n ps} (hs : s.Inv) : (blockPieces s g src n ps).1.Inv := by
  induction ps generalizing s with
  | nil => exact hs
  | cons p ps ih =>
    unfold blockPieces
    grind [blockPiece_inv]

theorem blockAt_inv {g src n va len} (hs : s.Inv) : (blockAt s g src n va len).1.Inv := by
  unfold blockAt
  grind [locate_inv, blockPieces_inv]

theorem State.awaitFetch_inv {g} (hs : s.Inv) : (s.awaitFetch g).Inv := State.hold_inv hs

theorem State.dropFetched_inv {g} (hs : s.Inv) : (s.dropFetched g).Inv := by
  unfold State.dropFetched
  split
  · exact hs
  · exact State.mapGang_inv hs

theorem counterCheck_inv {g n va need} (hs : s.Inv) : (counterCheck s g n va need).1.Inv := checkAsk_inv hs

theorem ksetQuad_inv {g sa n} (hs : s.Inv) : (ksetQuad s g sa n).1.Inv := by
  unfold ksetQuad
  grind [blockAt_inv, counterCheck_inv]

theorem eachQuad_inv {α : Type} {f : State → Nat → State × Check α}
    {ns} (hf : ∀ s n, s.Inv → (f s n).1.Inv) (hs : s.Inv) : (eachQuad f ns s).1.Inv := by
  induction ns generalizing s with
  | nil => exact hs
  | cons n ns ih => exact ih (hf _ _ hs)

theorem State.checkedQuads_inv {α : Type} {g qs src} {f : State → Nat → State × Check α}
    {perform} (hs : s.Inv) (hf : ∀ s n, s.Inv → (f s n).1.Inv) (hp : ∀ s xs, s.Inv → (perform s xs).Inv) :
    (s.checkedQuads g qs src f perform).Inv := by
  have h := eachQuad_inv (ns := qs) hf hs
  unfold State.checkedQuads
  grind [State.awaitFetch_inv, State.dropFetched_inv, State.memTrap_inv]

theorem State.setRing_inv {t k r} (hs : s.Inv) : (s.setRing t k r).Inv := by
  unfold State.setRing
  grind [State.modTeam_inv]

theorem withRing_inv {k f} (hs : s.Inv) (hf : ∀ g, (f g).Inv) : (withRing s k f).Inv := by
  unfold withRing
  grind [withGang_inv, State.badOperand_inv]

theorem execKset_inv {k sa} (hs : s.Inv) : (execKset k sa s).Inv := by
  unfold execKset
  grind [withRing_inv, State.checkedQuads_inv, ksetQuad_inv, State.setRing_inv, State.retire_inv, foldl_inv]

theorem State.noRing_inv {g} (hs : s.Inv) : (s.noRing g).Inv := State.trap_inv hs

theorem ringAdd_inv {k counter} (hs : s.Inv) : (ringAdd k counter s).Inv := by
  unfold ringAdd
  grind [withRing_inv, State.noRing_inv, counterAdds_inv]

theorem ringWait_inv {k sb full st} (hs : s.Inv) : (ringWait k sb full st s).Inv := by
  unfold ringWait
  grind [withRing_inv, State.noRing_inv, counterWait_inv]

/-! ### Engines -/

theorem State.engLog_inv {e code source detail addr} (hs : s.Inv) : (s.engLog e code source detail addr).Inv :=
  State.log_inv hs

theorem engLocate_inv {e va n align need} (hs : s.Inv) : (engLocate s e va n align need).1.Inv := by
  unfold engLocate
  split
  · exact hs
  · exact locate_inv hs

theorem State.engScratch_inv {e off bs} (hs : s.Inv) : (s.engScratch e off bs).Inv := by
  unfold State.engScratch
  split
  · exact State.scratchWrite_inv hs
  · exact hs

theorem engWrite_inv {e va bs} (hs : s.Inv) : (engWrite s e va bs).1.Inv := by
  unfold engWrite
  grind [engLocate_inv, State.engScratch_inv, sendRemote_inv, State.engLog_inv, writePiece_inv, foldl_fst_inv]

theorem engRead_inv {s0 e fetched key va n} (hs : s.Inv) : (engRead s0 s e fetched key va n).1.Inv := by
  have hl := engLocate_inv (e := e) (va := va) (n := n) (align := 1) (need := .read) hs
  unfold engRead
  split
  · grind
  · grind
  · refine foldl_fst_inv (fun x p hx => ?_) (by grind)
    grind [State.touchLine_inv, State.lowAs_inv, hostBytes_inv]

theorem engAsk_inv {e key va n} (hs : s.Inv) : (engAsk s e key va n).1.Inv := by
  unfold engAsk
  grind [engLocate_inv, sendRemote_inv, State.engLog_inv, foldl_fst_inv]

theorem State.engSetCounter_inv {e v l} (hs : s.Inv) : (s.engSetCounter e v l).Inv := by
  unfold State.engSetCounter
  split
  · exact State.engScratch_inv hs
  · split
    · exact State.lowAs_inv (State.homeWrite_inv hs)
    · exact hs

theorem State.engFlush_inv {e l} (hs : s.Inv) : (s.engFlush e l).Inv := by
  unfold State.engFlush
  split
  · exact flushLine_inv hs
  · exact hs

theorem State.engRelease_inv {e l} (hs : s.Inv) : (s.engRelease e l).Inv := by
  unfold State.engRelease
  split
  · exact recordRelease_inv hs
  · exact hs

theorem State.engLogOnce_inv {e logged detail addr} (hs : s.Inv) :
    (s.engLogOnce e logged detail addr).s.Inv := by
  unfold State.engLogOnce
  split
  · exact hs
  · exact State.engLog_inv hs

theorem State.engTransLog_inv {e f} (hs : s.Inv) : (s.engTransLog e f).Inv := by
  unfold State.engTransLog
  split
  · split
    · exact State.engLog_inv hs
    · exact hs
  · exact hs

theorem State.engPoison_inv {e va} (hs : s.Inv) : (s.engPoison e va).Inv := State.engLog_inv hs

theorem engAddAs_inv {e logged key va addend} (hs : s.Inv) : (engAddAs s e logged key va addend).s.Inv := by
  unfold engAddAs
  grind [bindAll_inv, State.engLogOnce_inv, writeBackBound_inv, engLocate_inv, State.engTransLog_inv,
    State.engLog_inv, sendRemote_inv, State.engFlush_inv, State.engPoison_inv, State.orderAll_inv,
    State.engSetCounter_inv, State.engRelease_inv, BothInv]

theorem engAdd_inv {e logged va addend} (hs : s.Inv) : (engAdd s e logged va addend).s.Inv := engAddAs_inv hs

theorem State.engAcquire_inv {e l} (hs : s.Inv) : (s.engAcquire e l).Inv := by
  unfold State.engAcquire
  split
  · exact acquireDrop_inv (promoteLine_inv hs)
  · exact dropCopies_inv hs
  · split
    · exact acquireTeam_inv hs
    · exact hs
  · exact hs

theorem engSendWait_inv {e logged key w off va target} (hs : s.Inv) :
    (engSendWait s e logged key w off va target).s.Inv := by
  unfold engSendWait
  grind [sendRemote_inv, State.engLog_inv, State.engLogOnce_inv]

theorem engWait_inv {e logged fetched key va target} (hs : s.Inv) :
    (engWait s e logged fetched key va target).s.Inv := by
  unfold engWait
  grind [engLocate_inv, State.engTransLog_inv, State.engLogOnce_inv, State.engAcquire_inv, engSendWait_inv,
    State.engFlush_inv, State.engPoison_inv, State.useCounters_inv, State.orderAll_inv, BothInv]

theorem checkSpan_inv {e x} (hs : s.Inv) : (checkSpan s e x).1.Inv := by
  unfold checkSpan
  grind [engLocate_inv, foldl_fst_inv]

theorem checkSpans_inv {e xs} (hs : s.Inv) : (checkSpans s e xs).1.Inv := by
  unfold checkSpans
  grind [checkSpan_inv, foldl_fst_inv]

theorem poisonDest_inv {e x} (hs : s.Inv) : (poisonDest s e x).Inv := by
  unfold poisonDest
  grind [engLocate_inv, flushLine_inv, State.Inv.update]

theorem copyChunk_inv {s0 e b fetched y x} (hy : y.1.Inv) : (copyChunk s0 e b fetched y x).1.Inv := by
  unfold copyChunk
  grind [engRead_inv, State.engLog_inv, poisonDest_inv, engWrite_inv, foldl_fst_inv]

theorem State.copyFailLog_inv {e fails} (hs : s.Inv) : (s.copyFailLog e fails).Inv := by
  unfold State.copyFailLog
  dsimp only
  split
  · exact hs
  · split
    · exact State.engLog_inv hs
    · split
      · exact State.engLog_inv hs
      · exact State.engLog_inv hs

theorem copyBytes_inv {e b fetched d0} (hs : s.Inv) : (copyBytes s e b fetched d0).Inv := by
  unfold copyBytes
  grind [copyChunk_inv, State.copyFailLog_inv, foldl_fst_inv]

theorem copyAsk_inv {e b} (hs : s.Inv) : (copyAsk s e b).1.Inv := by
  unfold copyAsk
  split
  · exact hs
  · exact foldl_fst_inv (fun _ _ => foldl_fst_inv fun _ _ => engAsk_inv) hs

/-! ### Engine queues -/

theorem State.placeEntries_inv {g q xs} (hs : s.Inv) : (s.placeEntries g q xs).Inv := by
  unfold State.placeEntries
  grind [State.modEngine_inv, State.bumpId_inv, foldl_inv]

theorem State.enqueue_inv {g q xs} (hs : s.Inv) : (s.enqueue g q xs).Inv := by
  unfold State.enqueue
  split
  · exact State.hold_inv hs
  · exact State.retire_inv (State.placeEntries_inv hs)

theorem cpyQuad_inv {g sa n} (hs : s.Inv) : (cpyQuad s g sa n).1.Inv := by
  unfold cpyQuad
  grind [blockAt_inv, checkSpans_inv]

theorem execCpy_inv {sa q} (hs : s.Inv) : (execCpy sa q s).Inv :=
  withGang_inv fun _ => State.checkedQuads_inv hs (fun _ _ => cpyQuad_inv) fun _ _ => State.enqueue_inv

theorem queueCounter_inv {sa sb q need body} (hs : s.Inv) : (queueCounter sa sb q need body s).Inv :=
  withGang_inv fun _ => State.checked_inv hs fun _ _ => State.enqueue_inv

theorem execQfence_inv {mask} (hs : s.Inv) : (execQfence mask s).Inv := by
  unfold execQfence
  grind [withGang_inv, State.hold_inv, State.modEngine_inv, State.bumpId_inv, State.retire_inv, foldl_inv]

theorem State.setHead_inv {core q e} (hs : s.Inv) : (s.setHead core q e).Inv := State.modEngine_inv hs

theorem State.popHead_inv {core q} (hs : s.Inv) : (s.popHead core q).Inv :=
  State.wake_inv (State.modEngine_inv hs)

theorem State.stampOf_inv {e f} (hs : s.Inv) : (s.stampOf e f).Inv := State.modQuad_inv hs

theorem State.accrueEnd_inv {e} (hs : s.Inv) : (s.accrueEnd e).Inv := by
  unfold State.accrueEnd
  split
  · exact State.stampOf_inv hs
  · exact hs
  · exact hs
  · exact hs
  · exact hs

theorem State.finishHead_inv {core q e} (hs : s.Inv) : (s.finishHead core q e).Inv := by
  unfold State.finishHead
  split
  · exact State.setHead_inv hs
  · exact State.popHead_inv (State.accrueEnd_inv hs)

theorem State.lastWrite_inv {core q e} (hs : s.Inv) : (s.lastWrite core q e).Inv := by
  unfold State.lastWrite
  split
  · split
    · exact State.setHead_inv (State.accrueEnd_inv hs)
    · exact hs
  · exact hs
  · exact hs
  · exact hs
  · exact hs

theorem State.lastWrites_inv {core} (hs : s.Inv) : (s.lastWrites core).Inv := by
  unfold State.lastWrites
  grind [State.lastWrite_inv, foldl_inv]

theorem State.retireSent_inv {core} (hs : s.Inv) : (s.retireSent core).Inv := by
  unfold State.retireSent
  grind [State.finishHead_inv, foldl_inv]

theorem EngStep.settle_inv {x : EngStep} {core q e} (hx : x.s.Inv) : (x.settle core q e).Inv := by
  unfold EngStep.settle
  split
  · exact State.finishHead_inv hx
  · exact State.setHead_inv hx

theorem State.completeHead_inv {core q e} (hs : s.Inv) : (s.completeHead core q e).Inv := by
  unfold State.completeHead
  split
  · exact State.finishHead_inv hs
  · exact State.setHead_inv hs

theorem State.headCounter_inv {core q waits adds completes} (hs : s.Inv) :
    (s.headCounter core q waits adds completes).Inv := by
  unfold State.headCounter
  grind [engWait_inv, EngStep.settle_inv, engAdd_inv]

theorem execEngineWaitSatisfied_inv {core q} (hs : s.Inv) : (execEngineWaitSatisfied core q s).Inv :=
  State.headCounter_inv hs

theorem execEngineWaitReevaluate_inv {core q} (hs : s.Inv) : (execEngineWaitReevaluate core q s).Inv := by
  unfold execEngineWaitReevaluate
  split
  · exact State.headCounter_inv hs
  · exact hs

theorem execEngineAddPerform_inv {core q} (hs : s.Inv) : (execEngineAddPerform core q s).Inv :=
  State.headCounter_inv hs

theorem execEngineCompletionAdd_inv {core q} (hs : s.Inv) : (execEngineCompletionAdd core q s).Inv :=
  State.headCounter_inv hs

theorem execEngineBindingRetry_inv {core q} (hs : s.Inv) : (execEngineBindingRetry core q s).Inv := by
  unfold execEngineBindingRetry
  split
  · exact State.headCounter_inv hs
  · exact hs

theorem execQfenceMarkerRetire_inv {core group} (hs : s.Inv) : (execQfenceMarkerRetire core group s).Inv := by
  unfold execQfenceMarkerRetire
  dsimp only
  split
  · exact foldl_inv (fun _ _ => State.popHead_inv) hs
  · exact hs

theorem State.startCopy_inv {core e j} (hs : s.Inv) : (s.startCopy core e j).1.Inv :=
  copyAsk_inv (State.stall_inv (State.stampOf_inv hs))

theorem State.ringFails_inv {core q e va} (hs : s.Inv) : (s.ringFails core q e va).Inv :=
  State.completeHead_inv (State.engLog_inv hs)

theorem ringWord_inv {e va need} (hs : s.Inv) : (ringWord s e va need).1.Inv := by
  unfold ringWord
  grind [engLocate_inv, State.engPoison_inv, State.engTransLog_inv]

theorem State.claimIndex_inv {core q e j r} (hs : s.Inv) : (s.claimIndex core q e j r).Inv := by
  unfold State.claimIndex
  grind [State.setHead_inv, ringWord_inv, State.ringFails_inv, sendRemote_inv, State.engLog_inv,
    State.engFlush_inv, State.orderAll_inv, State.engSetCounter_inv, BothInv]

theorem execCopyPerform_inv {core q} (hs : s.Inv) : (execCopyPerform core q s).Inv := by
  unfold execCopyPerform
  grind [State.startCopy_inv, State.setHead_inv, State.completeHead_inv, State.claimIndex_inv, copyBytes_inv,
    Out.Inv]

theorem execEngineRingFreeWaitEnd_inv {core q} (hs : s.Inv) : (execEngineRingFreeWaitEnd core q s).Inv := by
  unfold execEngineRingFreeWaitEnd Out.Inv
  dsimp only
  split
  · exact hs
  · split
    · exact hs
    · split
      · grind [State.ringFails_inv, ringWord_inv, engWait_inv, copyBytes_inv, State.lastWrite_inv,
          State.completeHead_inv, State.setHead_inv]
      · exact hs

theorem State.publishAdd_inv {core q e r} (hs : s.Inv) : (s.publishAdd core q e r).Inv := by
  unfold State.publishAdd
  dsimp only
  split
  · exact State.completeHead_inv (engAddAs_inv hs)
  · exact State.setHead_inv (engAddAs_inv hs)

theorem execEngineRingPublish_inv {core q} (hs : s.Inv) : (execEngineRingPublish core q s).Inv := by
  unfold execEngineRingPublish Out.Inv
  dsimp only
  split
  · exact hs
  · split
    · exact hs
    · split
      · grind [State.ringFails_inv, ringWord_inv, State.publishAdd_inv, engWait_inv, State.completeHead_inv,
          State.setHead_inv]
      · exact hs

/-! ### The tender -/

theorem State.tenderNote_inv {p off} (hs : s.Inv) : (s.tenderNote p off).Inv := hs.update

theorem State.replyTo_inv {p r} (hs : s.Inv) : (s.replyTo p r).Inv := State.modPort_inv hs

theorem State.blockWrite_inv {p c off k} (hs : s.Inv) (hk : ∀ t, t.Inv → (k t).Inv) :
    (s.blockWrite p c off k).Inv := by
  unfold State.blockWrite
  split
  · exact hs
  · split
    · exact hk s hs
    · exact State.tenderNote_inv hs

theorem State.blockRead_inv {p c off k} (hs : s.Inv) (hk : ∀ t, t.Inv → (k t).1.Inv) :
    (s.blockRead p c off k).Inv := by
  unfold State.blockRead
  split
  · exact State.replyTo_inv hs
  · split
    · exact State.replyTo_inv (hk s hs)
    · exact State.replyTo_inv (State.tenderNote_inv hs)

theorem State.setResult_inv {c n} (hs : s.Inv) : (s.setResult c n).Inv := State.modCtx_inv hs

theorem State.touchRange_inv {c pa n} (hs : s.Inv) : (s.touchRange c pa n).Inv :=
  foldl_inv (fun _ _ => State.touchLine_inv) hs

theorem State.deviceFault_inv {c src va f} (hs : s.Inv) : (s.deviceFault c src va f).Inv :=
  State.logFault_inv hs

theorem State.queueFetch_inv {c q va w off kind} (hs : s.Inv) : (s.queueFetch c q va w off kind).1.Inv := by
  unfold State.queueFetch
  grind [sendRemote_inv, State.log_inv, State.Inv.update]

theorem State.clearFetches_inv {c q} (hs : s.Inv) : (s.clearFetches c q).Inv := hs.update

theorem deviceRead_inv {c q src va n} (hs : s.Inv) : (deviceRead s c q src va n).1.Inv := by
  unfold deviceRead
  refine foldl_fst_inv (fun x p hx => ?_) hs
  have ht := translateWalk_inv (c := c) (va := p.1) (n := .read) hx
  dsimp only
  split
  · exact hx
  · exact hx
  · split
    · grind [State.deviceFault_inv]
    · grind [State.log_inv, State.touchRange_inv, State.lowAs_inv, hostBytes_inv, State.queueFetch_inv]

theorem tenderRead_inv {c va n} (hs : s.Inv) : (tenderRead s c va n).1.Inv := by
  unfold tenderRead
  grind [deviceRead_inv]

theorem tenderWrite_inv {c va bs t} (hs : s.Inv) (e : tenderWrite s c va bs = some t) : t.Inv := by
  have hw : ∀ t, tenderWrite s c va bs = some t → t.Inv := by
    unfold tenderWrite
    refine List.foldlRecOn (motive := fun x : Option State × List Byte => ∀ t, x.1 = some t → t.Inv) _ _
      (by grind) fun x hx p _ => ?_
    grind [translateWalk_inv, State.homeWrites_inv, State.lowAs_inv]
  exact hw t e

theorem State.counterPoison_inv {c src va need} (hs : s.Inv) : (s.counterPoison c src va need).Inv := by
  unfold State.counterPoison
  split
  · exact hs
  · split
    · split
      · exact State.log_inv hs
      · exact hs
    · exact State.deviceFault_inv hs

theorem State.queueCounter_inv {c q va} (hs : s.Inv) : (s.queueCounter c q va).1.Inv := by
  unfold State.queueCounter
  grind [State.touchWalk_inv, State.dirtyLine_inv, translateWalk_inv, State.queueFetch_inv,
    State.counterPoison_inv]

theorem dispatchAdd_inv {c va addend who} (hs : s.Inv) : (dispatchAdd s c va addend who).state.Inv := by
  unfold dispatchAdd
  grind [State.log_inv, State.touchWalk_inv, State.dirtyLine_inv, State.orderAll_inv, releaseOutside_inv,
    State.homeWrite_inv, translateWalk_inv, sendRemote_inv, State.counterPoison_inv, BothInv, AddDone.state]

theorem State.finishPacket_inv {c q id} (hs : s.Inv) : (s.finishPacket c q id).Inv := by
  unfold State.finishPacket
  dsimp only
  split
  · split
    · exact State.raise_inv (State.modQueue_inv hs)
    · exact State.modQueue_inv hs
  · exact State.modQueue_inv hs

theorem State.stopQueue_inv {c q code detail va} (hs : s.Inv) : (s.stopQueue c q code detail va).Inv :=
  State.log_inv (State.modQueue_inv hs)

theorem State.enterPacket_inv {c q e} (hs : s.Inv) : (s.enterPacket c q e).Inv := by
  unfold State.enterPacket
  grind [State.modQueue_inv, State.bumpId_inv, State.modCtx_inv, State.finishPacket_inv, State.Inv.update]

theorem State.packetEnters_inv {c q} (hs : s.Inv) : (s.packetEnters c q).Inv := by
  unfold State.packetEnters
  split
  · exact State.enterPacket_inv hs
  · exact hs

theorem State.entryFails_inv {c q detail} (hs : s.Inv) : (s.entryFails c q detail).Inv := by
  unfold State.entryFails
  split
  · exact State.stopQueue_inv (State.modQueue_inv hs)
  · exact hs

theorem State.wakeAll_inv (hs : s.Inv) : s.wakeAll.Inv := by
  unfold State.wakeAll
  grind [State.wake_inv, foldl_inv]

theorem State.finishQueued_inv {c} (hs : s.Inv) : (s.finishQueued c).Inv :=
  foldl_inv (fun _ _ => State.performAcc_inv) hs

theorem State.resetSequence_inv {c} (hs : s.Inv) : (s.resetSequence c).Inv := by
  have hw : ((upTo 288).foldl (fun s k => writeBackBound s k c) s).Inv :=
    foldl_inv (fun _ _ => writeBackBound_inv) hs
  unfold State.resetSequence
  generalize (upTo 288).foldl (fun s k => writeBackBound s k c) s = u at hw ⊢
  refine State.wakeAll_inv (State.modCtx_inv (State.Inv.update (State.finishQueued_inv (State.Inv.update
    (hw.mapTeams fun t ht => ?_)))))
  split
  · rfl
  · exact ht

/-! ### Contexts -/

theorem attachQueue_inv {c q} (hs : s.Inv) : (attachQueue s c q).Inv := by
  unfold attachQueue
  dsimp only
  split
  · exact State.modQueue_inv (tenderRead_inv hs)
  · exact State.log_inv (State.modQueue_inv (tenderRead_inv hs))

theorem attachWindow_inv {c w} (hs : s.Inv) : (attachWindow s c w).Inv := by
  unfold attachWindow
  grind [State.modCtx_inv, tenderRead_inv, State.log_inv]

theorem attachTables_inv {c} (hs : s.Inv) : (attachTables s c).Inv := by
  unfold attachTables
  grind [attachWindow_inv, attachQueue_inv, foldl_inv]

theorem State.refuseCommand_inv {c} (hs : s.Inv) : (s.refuseCommand c).Inv := State.setResult_inv hs

theorem State.finishCommand_inv {c result} (hs : s.Inv) : (s.finishCommand c result).Inv :=
  State.raise_inv (State.setResult_inv hs)

theorem State.startCommand_inv {c} (hs : s.Inv) : (s.startCommand c).Inv := State.modCtx_inv hs

theorem State.endCommand_inv {c} (hs : s.Inv) : (s.endCommand c).Inv := State.raise_inv (State.modCtx_inv hs)

theorem State.command_inv {p c k} (hs : s.Inv) (hk : ∀ t, t.Inv → (k t).Inv) : (s.command p c k).Inv := by
  unfold State.command
  grind [State.blockWrite_inv, State.setResult_inv]

theorem State.createCtx_inv {c} (hs : s.Inv) : (s.createCtx c).Inv := by
  unfold State.createCtx
  split
  · exact State.finishCommand_inv (State.modCtx_inv hs.update)
  · exact State.modCtx_inv hs

theorem execCtxcmdCreate_inv {port ctx} (hs : s.Inv) : (execCtxcmdCreate port ctx s).Inv :=
  State.command_inv hs fun _ => State.createCtx_inv

theorem State.bindCtx_inv {c} (hs : s.Inv) : (s.bindCtx c).Inv := by
  unfold State.bindCtx
  split
  · split
    · exact State.startCommand_inv hs
    · exact State.finishCommand_inv hs
  · exact State.refuseCommand_inv hs

theorem execCtxcmdBind_inv {port ctx} (hs : s.Inv) : (execCtxcmdBind port ctx s).Inv :=
  State.command_inv hs fun _ => State.bindCtx_inv

theorem execBindComplete_inv {ctx} (hs : s.Inv) : (execBindComplete ctx s).Inv := by
  unfold execBindComplete
  grind [attachTables_inv, State.modCtx_inv, State.endCommand_inv, State.setResult_inv, Out.Inv]

theorem State.startRun_inv {c} (hs : s.Inv) : (s.startRun c).Inv := State.modCtx_inv hs.update

theorem State.quiesceCtx_inv {c} (hs : s.Inv) : (s.quiesceCtx c).Inv := by
  unfold State.quiesceCtx
  split
  · exact State.modCtx_inv (State.startCommand_inv hs.update)
  · exact State.modCtx_inv hs

theorem execCtxcmdQuiesce_inv {port ctx} (hs : s.Inv) : (execCtxcmdQuiesce port ctx s).Inv :=
  State.command_inv hs fun _ => State.quiesceCtx_inv

theorem State.enterReset_inv {c} (hs : s.Inv) : (s.enterReset c).Inv := by
  unfold State.enterReset
  grind [State.resetSequence_inv, State.modCtx_inv, State.raise_inv]

theorem State.resetCtx_inv {c} (hs : s.Inv) : (s.resetCtx c).Inv := by
  unfold State.resetCtx
  grind [State.startCommand_inv, State.enterReset_inv, State.refuseCommand_inv]

theorem execCtxcmdReset_inv {port ctx} (hs : s.Inv) : (execCtxcmdReset port ctx s).Inv :=
  State.blockWrite_inv hs fun _ => State.resetCtx_inv

theorem execResetSequenceComplete_inv {ctx} (hs : s.Inv) : (execResetSequenceComplete ctx s).Inv := by
  unfold execResetSequenceComplete
  grind [attachTables_inv, State.modCtx_inv, State.endCommand_inv, Out.Inv]

theorem State.destroyCtx_inv {c} (hs : s.Inv) : (s.destroyCtx c).Inv := by
  unfold State.destroyCtx
  grind [State.startCommand_inv, State.resetSequence_inv, State.modCtx_inv, State.refuseCommand_inv]

theorem execCtxcmdDestroy_inv {port ctx} (hs : s.Inv) : (execCtxcmdDestroy port ctx s).Inv :=
  State.command_inv hs fun _ => State.destroyCtx_inv

theorem execDestroySequenceComplete_inv {ctx} (hs : s.Inv) : (execDestroySequenceComplete ctx s).Inv := by
  unfold execDestroySequenceComplete
  grind [State.resetSequence_inv, State.modCtx_inv, State.Inv.update, Out.Inv]

theorem State.setOwner_inv {c o} (hs : s.Inv) : (s.setOwner c o).Inv := hs.update

theorem State.ownResult_inv {p n} (hs : s.Inv) : (s.ownResult p n).Inv := State.modPort_inv hs

theorem State.ownCmd_inv {p val} (hs : s.Inv) : (s.ownCmd p val).Inv := by
  unfold State.ownCmd
  dsimp only
  split
  · exact hs
  · split
    · exact State.tenderNote_inv (State.ownResult_inv hs)
    · split
      · exact State.tenderNote_inv (State.ownResult_inv hs)
      · split
        · exact State.ownResult_inv (State.setOwner_inv hs)
        · exact State.ownResult_inv (State.setOwner_inv hs)
        · exact State.ownResult_inv (State.setOwner_inv hs)
        · exact State.tenderNote_inv (State.ownResult_inv hs)

theorem execOwncmd_inv {port val} (hs : s.Inv) : (execOwncmd port val s).Inv := State.ownCmd_inv hs

theorem State.startInv_inv {c val} (hs : s.Inv) : (s.startInv c val).Inv := by
  unfold State.startInv
  dsimp only
  split
  · exact State.setResult_inv hs
  · split
    · exact State.setResult_inv hs
    · exact State.modCtx_inv hs.update

theorem execCtxinv_inv {port ctx val} (hs : s.Inv) : (execCtxinv port ctx val s).Inv :=
  State.blockWrite_inv hs fun _ => State.startInv_inv

theorem State.invCore_inv {c r core} (hs : s.Inv) : (s.invCore c r core).Inv :=
  State.modCore_inv (foldl_inv (fun _ _ => writeBackOne_inv) hs)

theorem execCtxinvComplete_inv {ctx} (hs : s.Inv) : (execCtxinvComplete ctx s).Inv := by
  unfold execCtxinvComplete
  grind [State.invCore_inv, State.modCtx_inv, foldl_inv, Out.Inv]

/-! ### Control -/

theorem State.yieldSlot_inv {g} (hs : s.Inv) : (s.yieldSlot g).Inv := by
  unfold State.yieldSlot
  dsimp only
  split
  · exact hs
  · exact State.modWave_inv hs

theorem execClauseHeader_inv {h} (hs : s.Inv) : (execClauseHeader h s).Inv := by
  unfold execClauseHeader
  grind [withGang_inv, State.raiseDeferred_inv, State.mapGang_inv, State.occupy_inv, State.yieldSlot_inv]

theorem branchStep_inv {taken target link} (hs : s.Inv) : (branchStep s taken target link).Inv :=
  withGang_inv fun _ => State.regangBy_inv (State.account_inv (State.mapGang_inv hs))

theorem registerBranch_inv {sa link} (hs : s.Inv) : (registerBranch s sa link).Inv := by
  unfold registerBranch
  grind [State.trap_inv, branchStep_inv, Out.Inv]

theorem execTrap_inv {imm} (hs : s.Inv) : (execTrap imm s).Inv := by
  unfold execTrap
  grind [withGang_inv, State.mapGang_inv, State.account_inv, State.trap_inv]

theorem execTret_inv (hs : s.Inv) : (execTret s).Inv := by
  unfold execTret
  grind [withGang_inv, State.trap_inv, State.trapReturn_inv]

theorem execTretDecline_inv (hs : s.Inv) : (execTretDecline s).Inv := by
  unfold execTretDecline
  grind [withGang_inv, State.trap_inv, State.account_inv, State.mapGang_inv, State.unhandled_inv]

/-! ### Cross-lane forms -/

theorem crossLane_inv {o opnds f} (hs : s.Inv) : (crossLane s o opnds f).Inv := by
  unfold crossLane
  grind [laneStep_inv, State.modQuads_inv, State.retire_inv]

theorem crossWrite_inv {o opnds regs f} (hs : s.Inv) : (crossWrite s o opnds regs f).Inv := crossLane_inv hs

/-! ### Walk engines -/

theorem walkRead_inv {e w va n k} (hs : s.Inv) (hk : ∀ t bs, t.Inv → (k t bs).1.Inv) :
    (walkRead s e w va n k).1.Inv := by
  unfold walkRead
  grind [engRead_inv, engAsk_inv]

theorem walkWrite_inv {e va bs} (hs : s.Inv) : (walkWrite s e va bs).1.Inv := by
  unfold walkWrite
  grind [engLocate_inv, engWrite_inv]

theorem spillStack_inv {e w i xs} (hs : s.Inv) : (spillStack s e w i xs).1.Inv := by
  induction xs generalizing s i with
  | nil => exact hs
  | cons x xs ih =>
    unfold spillStack
    grind [walkWrite_inv]

theorem writeRecord_inv {e w st cause faddr} (hs : s.Inv) : (writeRecord s e w st cause faddr).1.Inv := by
  unfold writeRecord
  grind [spillStack_inv, walkWrite_inv]

theorem writeDone_inv {e w} (hs : s.Inv) : (writeDone s e w).1.Inv := by
  unfold writeDone
  grind [walkWrite_inv]

theorem State.landWalk_inv {core w st cause} (hs : s.Inv) : (s.landWalk core w st cause).Inv :=
  State.wake_inv (State.modCore_inv (State.modQuad_inv hs))

theorem State.logWalk_inv {e f} (hs : s.Inv) : (s.logWalk e f).Inv := by
  unfold State.logWalk
  split
  · exact State.engLog_inv hs
  · exact hs

theorem State.endWalk_inv {core w st cause faddr} (hs : s.Inv) : (s.endWalk core w st cause faddr).Inv := by
  unfold State.endWalk
  grind [writeDone_inv, writeRecord_inv, State.landWalk_inv, State.logWalk_inv]

theorem State.faultWalk_inv {core w f} (hs : s.Inv) : (s.faultWalk core w f).Inv :=
  State.endWalk_inv (State.logWalk_inv hs)

theorem State.setWalk_inv {core w} (hs : s.Inv) : (s.setWalk core w).Inv := State.modCore_inv hs

theorem fetchNode_inv {e w va k} (hs : s.Inv) (hk : ∀ t w, t.Inv → (k t w).1.Inv) :
    (fetchNode s e w va k).1.Inv := by
  unfold fetchNode
  grind [walkRead_inv]

theorem pushWalk_inv {e w x} (hs : s.Inv) : (pushWalk s e w x).1.Inv := by
  unfold pushWalk
  grind [walkWrite_inv]

theorem popWalk_inv {e w k} (hs : s.Inv) (hk : ∀ t w v, t.Inv → (k t w v).1.Inv) : (popWalk s e w k).1.Inv := by
  unfold popWalk
  grind [walkRead_inv]

theorem State.refuseWalk_inv {core w} (hs : s.Inv) : (s.refuseWalk core w).Inv := by
  unfold State.refuseWalk
  grind [State.modQuad_inv, State.modCore_inv, State.wake_inv]

theorem State.loseWalk_inv {core w f} (hs : s.Inv) : (s.loseWalk core w f).Inv :=
  State.landWalk_inv (State.logWalk_inv hs)

theorem State.claimStep_inv {core w k} (hs : s.Inv) : (s.claimStep core w k).Inv := by
  unfold State.claimStep
  dsimp only
  split
  · grind [State.setWalk_inv, walkRead_inv, State.refuseWalk_inv, State.loseWalk_inv]
  · split
    · exact hs
    · have hl := engLocate_inv (e := w.eng core) (va := w.record) (n := 256) (align := 1) (need := .store) hs
      split
      · grind [State.loseWalk_inv]
      · grind [State.setWalk_inv, State.refuseWalk_inv, State.loseWalk_inv, walkWrite_inv, sendRemote_inv]

theorem startWalk_inv {e w} (hs : s.Inv) : (startWalk s e w).1.Inv := by
  unfold startWalk
  grind [walkRead_inv, fetchNode_inv]

theorem State.begun_inv {core w r} (hs : s.Inv) (hr : r.1.Inv) : (s.begun core w r).Inv := by
  unfold State.begun
  grind [State.setWalk_inv, State.faultWalk_inv]

theorem State.walkCodeRemote_inv {core w line win off} (hs : s.Inv) :
    (s.walkCodeRemote core w line win off).Inv := by
  unfold State.walkCodeRemote
  grind [State.faultWalk_inv, State.fillCode_inv, State.setWalk_inv, sendRemote_inv]

theorem State.walkWord_inv {core w} (hs : s.Inv) : (s.walkWord core w).Inv := by
  unfold State.walkWord
  grind [State.faultWalk_inv, fetchWord_inv, State.walkCodeRemote_inv, State.modCore_inv, State.setWalk_inv,
    State.Inv.update, WalkNext.Inv]

theorem State.nextWalk_inv {core id} (hs : s.Inv) : (s.nextWalk core id).Inv := by
  unfold State.nextWalk
  grind [State.claimStep_inv, State.begun_inv, startWalk_inv, State.faultWalk_inv, State.walkWord_inv,
    WalkNext.Inv]

theorem State.ranWalkOp_inv {core w} (hs : s.Inv) : (s.ranWalkOp core w).Inv := State.stall_inv hs

theorem State.settleWalk_inv {core w r} (hs : s.Inv) (hr : r.1.Inv) : (s.settleWalk core w r).Inv := by
  unfold State.settleWalk
  grind [State.setWalk_inv, State.ranWalkOp_inv, State.faultWalk_inv, State.endWalk_inv]

theorem withWalk_inv {f} (hs : s.Inv) (hf : ∀ e w, (f e w).1.Inv) : (withWalk s f).Inv := by
  unfold withWalk
  grind [State.settleWalk_inv, Out.Inv]

theorem badWalkWord_inv (hs : s.Inv) : (badWalkWord s).Inv := withWalk_inv hs fun _ _ => hs

theorem regOp_inv {d f} (hs : s.Inv) : (regOp d f s).Inv := withWalk_inv hs fun _ _ => hs

theorem withNode_inv {w interior i k} (hs : s.Inv) (hk : ∀ bs, (k bs).1.Inv) :
    (withNode s w interior i k).1.Inv := by
  unfold withNode
  grind

/-! ### Links -/

theorem State.engineArrive_inv {core id key bs} (hs : s.Inv) : (s.engineArrive core id key bs).Inv := hs.update

theorem State.dropRequest_inv {r} (hs : s.Inv) : (s.dropRequest r).Inv := by
  unfold State.dropRequest
  grind [State.wake_inv, State.pumpCore_inv, State.lastWrites_inv, State.retireSent_inv, State.Inv.update]

theorem State.acquired_inv {t w r} (hs : s.Inv) : (s.acquired t w r).Inv := by
  unfold State.acquired
  split
  · exact State.modWave_inv (dropCopies_inv hs)
  · exact hs

theorem State.landReply_inv {r bs} (hs : s.Inv) : (s.landReply r bs).Inv := by
  unfold State.landReply
  split
  · exact State.acquired_inv (State.modWave_inv hs)
  · exact State.modWave_inv hs
  · exact hs.update
  · split
    · exact State.engineArrive_inv hs
    · exact hs
  · exact hs
  · exact hs

theorem State.addFails_inv {r detail} (hs : s.Inv) : (s.addFails r detail).Inv := by
  unfold State.addFails
  split
  · split
    · split
      · exact hs
      · exact State.engLog_inv hs
    · exact State.log_inv hs
  · exact hs

theorem State.failRequest_inv {r code} (hs : s.Inv) : (s.failRequest r code).Inv := by
  unfold State.failRequest
  split
  · exact State.deferDrain_inv (State.dropRequest_inv (State.addFails_inv (State.logFor_inv hs)))
  · exact State.modQuad_inv (State.dropRequest_inv (State.addFails_inv (State.logFor_inv hs)))
  · split
    · exact State.entryFails_inv (State.dropRequest_inv (State.addFails_inv (State.logFor_inv hs)))
    · exact State.landReply_inv (State.dropRequest_inv (State.addFails_inv (State.logFor_inv hs)))
  · exact State.landReply_inv (State.dropRequest_inv (State.addFails_inv (State.logFor_inv hs)))
  · exact State.landReply_inv (State.dropRequest_inv (State.addFails_inv (State.logFor_inv hs)))
  · exact State.landReply_inv (State.dropRequest_inv (State.addFails_inv (State.logFor_inv hs)))

theorem State.acknowledged_inv {r} (hs : s.Inv) : (s.acknowledged r).Inv := by
  unfold State.acknowledged
  split
  · split
    · exact State.packetEnters_inv (State.landReply_inv (State.dropRequest_inv hs))
    · exact State.landReply_inv (State.dropRequest_inv hs)
  · exact State.landReply_inv (State.dropRequest_inv hs)
  · exact State.landReply_inv (State.dropRequest_inv hs)
  · exact State.landReply_inv (State.dropRequest_inv hs)
  · exact State.landReply_inv (State.dropRequest_inv hs)
  · exact State.landReply_inv (State.dropRequest_inv hs)

theorem State.addOverflows_inv {r} (hs : s.Inv) : (s.addOverflows r).Inv := by
  unfold State.addOverflows
  split
  · split
    · exact State.entryFails_inv (State.landReply_inv (State.dropRequest_inv (State.addFails_inv hs)))
    · exact State.landReply_inv (State.dropRequest_inv (State.addFails_inv hs))
  · exact State.landReply_inv (State.dropRequest_inv (State.addFails_inv hs))
  · exact State.landReply_inv (State.dropRequest_inv (State.addFails_inv hs))
  · exact State.landReply_inv (State.dropRequest_inv (State.addFails_inv hs))
  · exact State.landReply_inv (State.dropRequest_inv (State.addFails_inv hs))
  · exact State.landReply_inv (State.dropRequest_inv (State.addFails_inv hs))

theorem State.endRemoteWait_inv {r status} (hs : s.Inv) : (s.endRemoteWait r status).Inv := by
  unfold State.endRemoteWait
  grind [State.dropRequest_inv, State.modQuad_inv, State.resumeWaits_inv, State.landReply_inv]

theorem State.deliver_inv {r bs} (hs : s.Inv) : (s.deliver r bs).Inv :=
  State.landReply_inv (State.dropRequest_inv hs)

theorem State.failWait_inv {r code} (hs : s.Inv) : (s.failWait r code).Inv := by
  unfold State.failWait
  dsimp only
  split
  · split
    · exact State.resumeWaits_inv (State.failRequest_inv hs)
    · exact State.failRequest_inv hs
  · exact State.failRequest_inv hs
  · exact State.failRequest_inv hs
  · exact State.failRequest_inv hs
  · exact State.failRequest_inv hs
  · exact State.failRequest_inv hs

theorem State.failLink_inv {n} (hs : s.Inv) : (s.failLink n).Inv := foldl_inv (fun _ _ => State.failWait_inv) hs

theorem State.takeReply_inv {r x} (hs : s.Inv) : (s.takeReply r x).Inv := by
  unfold State.takeReply
  grind [State.deliver_inv, State.acknowledged_inv, State.addOverflows_inv, State.failWait_inv,
    State.endRemoteWait_inv, State.log_inv, State.Inv.update]

theorem execRemoteReply_inv {req r} (hs : s.Inv) : (execRemoteReply req r s).Inv := by
  unfold execRemoteReply
  split
  · exact State.takeReply_inv hs
  · exact hs

theorem execRemoteRequestTimeout_inv {req} (hs : s.Inv) : (execRemoteRequestTimeout req s).Inv := by
  unfold execRemoteRequestTimeout
  split
  · split
    · exact State.failWait_inv hs
    · exact hs
  · exact hs

theorem execRemoteWaitCancel_inv {team wave quad} (hs : s.Inv) :
    (execRemoteWaitCancel team wave quad s).Inv := by
  unfold execRemoteWaitCancel
  split
  · split
    · split
      · split
        · exact State.modQuad_inv hs.update
        · exact State.failWait_inv hs
      · exact hs
    · exact hs
  · exact hs

theorem execRemoteCancelAck_inv {req satisfied} (hs : s.Inv) : (execRemoteCancelAck req satisfied s).Inv := by
  unfold execRemoteCancelAck
  split
  · split
    · exact State.endRemoteWait_inv hs
    · exact hs
  · exact hs

theorem execRemoteWaitRetry_inv {req} (hs : s.Inv) : (execRemoteWaitRetry req s).Inv := by
  unfold execRemoteWaitRetry Out.Inv
  dsimp only
  split
  · split
    · split
      · split
        · exact hs.update
        · exact State.failWait_inv hs
      · exact hs
    · exact hs
  · exact hs

theorem servePiece_inv {r x p} (hx : x.1.Inv) : (servePiece r x p).1.Inv := by
  unfold servePiece
  grind [translateWalk_inv]

theorem servePlace_inv {r} (hs : s.Inv) : (servePlace s r).1.Inv := by
  unfold servePlace
  split
  · exact hs
  · exact foldl_fst_inv (fun _ _ => servePiece_inv) hs

theorem State.replyRemote_inv {link r x} (hs : s.Inv) : (s.replyRemote link r x).Inv := hs.update

theorem State.refuseRemote_inv {link r x} (hs : s.Inv) : (s.refuseRemote link r x).Inv :=
  State.replyRemote_inv (State.log_inv hs)

theorem State.portAcquire_inv {pa e} (hs : s.Inv) : (s.portAcquire pa e).Inv := by
  unfold State.portAcquire
  split
  · exact acquireSystem_inv hs
  · exact hs

theorem State.portRelease_inv {rel pa} (hs : s.Inv) : (s.portRelease rel pa).Inv := by
  unfold State.portRelease
  split
  · exact releaseOutside_inv hs
  · exact hs

theorem State.serveOrdered_inv {c pa o k} (hs : s.Inv) (hk : ∀ t, t.Inv → (k t).Inv) :
    (s.serveOrdered c pa o k).Inv := by
  unfold State.serveOrdered
  grind [State.orderAll_inv, BothInv]

theorem State.serveWrite_inv {c ps bs} (hs : s.Inv) : (s.serveWrite c ps bs).Inv := by
  unfold State.serveWrite
  grind [State.homeWrites_inv, State.lowAs_inv, foldl_fst_inv]

theorem State.serveCounter_inv {c pa e} (hs : s.Inv) : (s.serveCounter c pa e).Inv :=
  State.lowAs_inv (State.dirtyLine_inv hs)

theorem State.acceptPort_inv {link r n pa e} (hs : s.Inv) : (s.acceptPort link r n pa e).Inv := by
  unfold State.acceptPort
  dsimp only
  split
  · exact State.noteWait_inv hs
  · split
    · exact hs.update
    · exact hs
  · exact hs.update
  · exact hs.update

theorem State.serveAt_inv {link r ps} (hs : s.Inv) : (s.serveAt link r ps).Inv := by
  unfold State.serveAt
  grind [State.serveOrdered_inv, State.touchRange_inv, State.lowAs_inv, State.replyRemote_inv,
    State.serveWrite_inv, State.refuseRemote_inv, State.homeWrite_inv, State.portRelease_inv,
    State.portAcquire_inv, State.acceptPort_inv, State.serveCounter_inv, State.log_inv, State.answerOne_inv,
    foldl_inv, State.Inv.update]

theorem State.serve_inv {link r} (hs : s.Inv) : (s.serve link r).Inv := by
  unfold State.serve
  grind [State.refuseRemote_inv, State.serveAt_inv, servePlace_inv]

theorem State.performPort_inv {a} (hs : s.Inv) : (s.performPort a).Inv := by
  unfold State.performPort
  dsimp only
  split
  · split
    · exact State.refuseRemote_inv hs.update
    · exact State.replyRemote_inv
        (State.countLine_inv (State.lowAs_inv (State.homeWrite_inv (State.recordOrder_inv hs.update))))
  · exact hs.update
  · exact hs.update
  · exact hs.update
  · exact hs.update
  · exact hs.update
  · exact hs.update
  · exact hs.update

theorem State.admitPorts_inv (hs : s.Inv) : s.admitPorts.Inv := by
  unfold State.admitPorts
  grind [State.bumpId_inv, foldl_inv, State.Inv.update]

theorem State.performQueues_inv (hs : s.Inv) : s.performQueues.Inv :=
  State.admitPorts_inv (foldl_inv (fun _ _ => State.performPort_inv) (foldl_inv
    (fun _ _ => State.performAcc_inv) hs))

theorem execRemoteRequest_inv {link r} (hs : s.Inv) : (execRemoteRequest link r s).Inv := by
  unfold execRemoteRequest
  split
  · exact State.serve_inv hs
  · exact hs

theorem execSectorForwarding_inv {link dst payload} (hs : s.Inv) :
    (execSectorForwarding link dst payload s).Inv := by
  unfold execSectorForwarding
  split
  · split
    · exact hs.update
    · exact hs
  · exact hs

theorem State.modLink_inv {n f} (hs : s.Inv) : (s.modLink n f).Inv := hs.update

theorem State.enableLink_inv {n} (hs : s.Inv) : (s.enableLink n).Inv := State.modLink_inv hs

theorem State.disableLink_inv {n} (hs : s.Inv) : (s.disableLink n).Inv := by
  unfold State.disableLink
  split
  · exact State.modLink_inv (State.failLink_inv hs)
  · exact State.modLink_inv hs

theorem State.bar0Write_inv {p k} (hs : s.Inv) (hk : ∀ t, t.Inv → (k t).Inv) : (s.bar0Write p k).Inv := by
  unfold State.bar0Write
  split
  · exact hk s hs
  · exact hs

theorem execLnkctlEnSet_inv {port n} (hs : s.Inv) : (execLnkctlEnSet port n s).Inv :=
  State.bar0Write_inv hs fun _ => State.enableLink_inv

theorem execLnkctlEnClear_inv {port n} (hs : s.Inv) : (execLnkctlEnClear port n s).Inv :=
  State.bar0Write_inv hs fun _ => State.disableLink_inv

theorem execLinkPeerDetected_inv {n} (hs : s.Inv) : (execLinkPeerDetected n s).Inv := State.modLink_inv hs

theorem execLinkTrained_inv {n peer plink} (hs : s.Inv) : (execLinkTrained n peer plink s).Inv :=
  State.modLink_inv hs

theorem execLinkTrainingTimeout_inv {n} (hs : s.Inv) : (execLinkTrainingTimeout n s).Inv := State.modLink_inv hs

theorem execLinkFlitError_inv {_n} (hs : s.Inv) : (execLinkFlitError _n s).Inv := hs

theorem execLinkLoss_inv {n} (hs : s.Inv) : (execLinkLoss n s).Inv := by
  unfold execLinkLoss
  split
  · exact State.modLink_inv (State.failLink_inv hs)
  · exact hs

/-! ### The device -/

theorem execDeviceReset_inv (hs : s.Inv) : (execDeviceReset s).Inv :=
  { agenda := hs.agenda, mem := hs.mem, scratch := (fun _ h => nomatch h), recovery := rfl
    rate := ⟨Nat.le_add_right 12 7, Nat.le_refl 19⟩ }

theorem execFirmwareVerifyComplete_inv (hs : s.Inv) : (execFirmwareVerifyComplete s).Inv := by
  unfold execFirmwareVerifyComplete Out.Inv
  dsimp only
  split
  · split
    · exact hs.update
    · exact { hs with recovery := rfl }
  · exact hs

theorem State.recoveryGo_inv (hs : s.Inv) : s.recoveryGo.Inv := by
  unfold State.recoveryGo
  split
  · exact { hs with recovery := hs.recovery }
  · exact hs

theorem execRcvcmdGo_inv (hs : s.Inv) : (execRcvcmdGo s).Inv := State.recoveryGo_inv hs

theorem execRecoveryVerifyComplete_inv (hs : s.Inv) : (execRecoveryVerifyComplete s).Inv := by
  unfold execRecoveryVerifyComplete Out.Inv
  dsimp only
  split
  · split <;> exact { hs with recovery := hs.recovery }
  · exact hs

theorem State.recoveryWrite_inv {off val} (hs : s.Inv) : (s.recoveryWrite off val).Inv := by
  have hb : (s.recovery.buffer.write off (leBytes 8 val.toNat)).wf = true := Mem.wf_write _ _ hs.recovery
  unfold State.recoveryWrite
  dsimp only
  split
  · split
    · exact State.recoveryGo_inv hs
    · exact hs
  · split
    · exact hs
    · split
      · exact { hs with recovery := hb }
      · split
        · exact { hs with recovery := hs.recovery }
        · exact hs

theorem execAttestationRequest_inv {port nonce} (hs : s.Inv) : (execAttestationRequest port nonce s).Inv := by
  unfold execAttestationRequest
  split
  · exact State.modPort_inv hs
  · exact hs

theorem execClockStepDown_inv (hs : s.Inv) : (execClockStepDown s).Inv :=
  { hs with rate := by have := hs.rate; dsimp only; split <;> omega }

theorem execClockStepUp_inv (hs : s.Inv) : (execClockStepUp s).Inv :=
  { hs with rate := by have := hs.rate; dsimp only; split <;> omega }

theorem State.deviceErrorIn_inv {c} (hs : s.Inv) : (s.deviceErrorIn c).Inv := by
  unfold State.deviceErrorIn
  grind [State.log_inv, State.enterReset_inv]

theorem execDeviceWideUncorrectableError_inv (hs : s.Inv) : (execDeviceWideUncorrectableError s).Inv := by
  unfold execDeviceWideUncorrectableError
  grind [State.deviceErrorIn_inv, foldl_inv, State.Inv.update, Out.Inv]

theorem execPerContextUncorrectableError_inv {ctx} (hs : s.Inv) :
    (execPerContextUncorrectableError ctx s).Inv :=
  State.modCtx_inv (State.bumpFree_inv hs)

theorem execLinePoisonDetect_inv {line} (hs : s.Inv) : (execLinePoisonDetect line s).Inv := by
  unfold execLinePoisonDetect
  split
  · exact hs.update
  · exact hs

theorem execL2LineEviction_inv {line} (hs : s.Inv) : (execL2LineEviction line s).Inv := State.modSlice_inv hs

/-! ### Registers -/

theorem State.ctxRead_inv {c reg} (hs : s.Inv) : (s.ctxRead c reg).1.Inv := by
  unfold State.ctxRead
  split
  · exact State.modCtx_inv hs
  · exact hs

theorem execCtxstateRead_inv {port ctx} (hs : s.Inv) : (execCtxstateRead port ctx s).Inv :=
  State.blockRead_inv hs fun _ => State.ctxRead_inv

theorem State.configWrite_inv {c f} (hs : s.Inv) : (s.configWrite c f).Inv := by
  unfold State.configWrite
  split
  · exact State.modCtx_inv hs
  · exact State.modCtx_inv hs

theorem State.ctxCommand_inv {c run n} (hs : s.Inv) (hrun : ∀ t, t.Inv → (run t).Inv) :
    (s.ctxCommand c run n).Inv := by
  unfold State.ctxCommand
  split
  · exact hs
  · exact State.resetCtx_inv hs
  · split
    · exact State.setResult_inv hs
    · split
      · exact State.createCtx_inv hs
      · exact State.bindCtx_inv hs
      · exact hrun s hs
      · exact State.quiesceCtx_inv hs
      · exact State.destroyCtx_inv hs
      · exact State.setResult_inv hs

theorem State.ctxRegister_inv {c run reg v} (hs : s.Inv) (hrun : ∀ t, t.Inv → (run t).Inv) :
    (s.ctxRegister c run reg v).Inv := by
  unfold State.ctxRegister
  grind [State.ctxCommand_inv, State.configWrite_inv, State.modCtx_inv, State.startInv_inv]

theorem State.clearStalls_inv {c v} (hs : s.Inv) : (s.clearStalls c v).Inv := by
  unfold State.clearStalls
  split
  · exact hs.update
  · exact hs

theorem execLnclr_inv {port ctx val} (hs : s.Inv) : (execLnclr port ctx val s).Inv :=
  State.blockWrite_inv hs fun _ => State.clearStalls_inv

theorem State.lanternRead_inv {c reg} (hs : s.Inv) : (s.lanternRead c reg).1.Inv := by
  unfold State.lanternRead
  split
  · exact State.modCtx_inv hs
  · split
    · exact State.modCtx_inv hs
    · exact hs

theorem execLnstatRead_inv {port ctx} (hs : s.Inv) : (execLnstatRead port ctx s).Inv :=
  State.blockRead_inv hs fun _ => State.lanternRead_inv

theorem State.refuseLantern_inv {c} (hs : s.Inv) : (s.refuseLantern c).Inv := State.modCtx_inv hs

theorem State.lanternQuad_inv {c n gm v} (hs : s.Inv) : (s.lanternQuad c n gm v).Inv := by
  unfold State.lanternQuad
  dsimp only
  split
  · exact State.modCtx_inv (State.modCtx_inv hs)
  · split
    · exact State.modQuad_inv (State.modCtx_inv hs)
    · exact State.modCtx_inv (State.modCtx_inv hs)

theorem execLanternQuadWrite_inv {port ctx n gm val} (hs : s.Inv) :
    (execLanternQuadWrite port ctx n gm val s).Inv :=
  State.blockWrite_inv hs fun _ => State.lanternQuad_inv

theorem State.lanternRegister_inv {c reg v} (hs : s.Inv) : (s.lanternRegister c reg v).Inv := by
  unfold State.lanternRegister
  split
  · split
    · exact hs
    · exact State.modCtx_inv hs
  · exact State.clearStalls_inv hs
  · split
    · exact State.modCtx_inv hs
    · exact State.modCtx_inv hs
  · split
    · exact State.lanternQuad_inv hs
    · exact hs

theorem State.setFabric_inv {v} (hs : s.Inv) : (s.setFabric v).Inv := by
  unfold State.setFabric
  split
  · exact hs.update
  · exact hs

theorem State.setRoutes_inv {off v} (hs : s.Inv) : (s.setRoutes off v).Inv := hs.update

theorem State.deviceRegister_inv {p off v} (hs : s.Inv) : (s.deviceRegister p off v).Inv := by
  unfold State.deviceRegister
  grind [State.ownCmd_inv, State.bar0Write_inv, State.setFabric_inv, State.enableLink_inv,
    State.disableLink_inv, State.setRoutes_inv]

theorem State.blockRegister_inv {p run off v} (hs : s.Inv) (hrun : ∀ x t, t.Inv → (run x t).Inv) :
    (s.blockRegister p run off v).Inv := by
  unfold State.blockRegister
  grind [State.recoveryWrite_inv, State.blockWrite_inv, State.ctxRegister_inv, State.lanternRegister_inv]

theorem State.blockReply_inv {p off} (hs : s.Inv) : (s.blockReply p off).Inv := by
  unfold State.blockReply
  split
  · exact State.replyTo_inv hs
  · split
    · exact State.blockRead_inv hs fun _ => State.ctxRead_inv
    · split
      · exact State.blockRead_inv hs fun _ => State.lanternRead_inv
      · exact State.replyTo_inv hs

theorem State.hostRegisterRead_inv {p bar off} (hs : s.Inv) : (s.hostRegisterRead p bar off).Inv := by
  unfold State.hostRegisterRead
  split
  · exact State.replyTo_inv hs
  · exact State.blockReply_inv hs

/-! ### The host port -/

theorem State.hostAcquire_inv {c line} (hs : s.Inv) : (s.hostAcquire c line).Inv := by
  unfold State.hostAcquire
  split
  · exact hs
  · split
    · exact acquireSystem_inv hs
    · exact hs

theorem State.hostPoison_inv {p c pa} (hs : s.Inv) : (s.hostPoison p c pa).Inv := State.log_inv hs

theorem State.hostReadPart_inv {p x} (hs : s.Inv) : (s.hostReadPart p x).1.Inv := by
  unfold State.hostReadPart
  split
  · exact State.tenderNote_inv hs
  · split
    · exact hostBytes_inv (State.hostPoison_inv hs)
    · exact foldl_inv (fun _ _ => State.hostAcquire_inv) (State.touchRange_inv hs)

theorem execHostBar4Read_inv {port addr len} (hs : s.Inv) : (execHostBar4Read port addr len s).Inv :=
  State.replyTo_inv (foldl_fst_inv (fun _ _ => State.hostReadPart_inv) hs)

theorem State.hostWriteLine_inv {p c pa bs} (hs : s.Inv) : (s.hostWriteLine p c pa bs).Inv := by
  unfold State.hostWriteLine
  split
  · exact State.hostPoison_inv hs
  · exact releaseOutside_inv (State.homeWrite_inv hs)

theorem State.hostWritePart_inv {p pa bs} (hs : s.Inv) : (s.hostWritePart p pa bs).Inv := by
  unfold State.hostWritePart
  split
  · exact State.tenderNote_inv hs
  · exact foldl_inv (fun _ _ => State.hostWriteLine_inv) hs

theorem execHostPostedWrite_inv {port addr data _relaxed} (hs : s.Inv) :
    (execHostPostedWrite port addr data _relaxed s).Inv :=
  foldl_fst_inv (fun _ _ => State.hostWritePart_inv) hs

theorem State.fetchAdd_inv {p c pa addend} (hs : s.Inv) : (s.fetchAdd p c pa addend).Inv := by
  unfold State.fetchAdd
  grind [hostBytes_inv, State.hostPoison_inv, State.replyTo_inv, State.dirtyLine_inv, State.log_inv,
    State.orderAll_inv, releaseOutside_inv, State.homeWrite_inv, State.hostAcquire_inv, BothInv]

theorem State.hostAtomic_inv {p} (hs : s.Inv) : (s.hostAtomic p).Inv := State.replyTo_inv hs

theorem State.hostMask_inv {p v m} (hs : s.Inv) : (s.hostMask p v m).Inv := State.modPort_inv hs

theorem execHostFetchadd_inv {port addr addend} (hs : s.Inv) : (execHostFetchadd port addr addend s).Inv := by
  unfold execHostFetchadd
  dsimp only
  split
  · exact State.replyTo_inv hs
  · split
    · exact State.replyTo_inv (State.tenderNote_inv hs)
    · exact State.fetchAdd_inv hs

/-! ### Starting a walk -/

theorem State.walkTrap_inv {g va f} (hs : s.Inv) : (s.walkTrap g va f).1.Inv := by
  unfold State.walkTrap
  split
  · exact State.logFault_inv hs
  · exact hs

theorem recordBytes_inv {g n va} (hs : s.Inv) : (recordBytes s g n va).1.Inv := by
  unfold recordBytes
  grind [locate_inv, State.logAt_inv, blockPieces_inv]

theorem traceDepth_inv {g n va parent} (hs : s.Inv) : (traceDepth s g n va parent).1.Inv := by
  unfold traceDepth
  grind [blockAt_inv]

theorem walkLook_inv {g start n i va} (hs : s.Inv) : (walkLook s g start n i va).1.Inv := by
  unfold walkLook
  grind [recordBytes_inv, traceDepth_inv, checkSpan_inv]

theorem walkCheck_inv {g o start n i} (hs : s.Inv) : (walkCheck s g o start n i).1.Inv := by
  unfold walkCheck
  grind [walkLook_inv, State.walkTrap_inv]

theorem walkChecks_inv {g o start ls} (hs : s.Inv) : (walkChecks g o start ls s).1.Inv := by
  induction ls generalizing s with
  | nil => exact hs
  | cons l ls ih => exact ih (walkCheck_inv hs)

theorem claimRecord_inv {g o start pend x} (hs : s.Inv) : (claimRecord s g o start pend x).1.Inv := by
  unfold claimRecord
  dsimp only
  split
  · exact State.bumpId_inv (State.modCore_inv hs)
  · split
    · split
      · exact State.bumpId_inv (State.modCore_inv (State.homeWrite_inv (flushLine_inv hs)))
      · exact flushLine_inv hs
    · split
      · exact State.bumpId_inv (State.modCore_inv (State.homeWrite_inv (flushLine_inv hs)))
      · exact flushLine_inv hs

theorem claimAll_inv {g o start pend ls} (hs : s.Inv) : (claimAll g o start pend ls s).1.Inv := by
  induction ls generalizing s with
  | nil => exact hs
  | cons l ls ih => exact ih (claimRecord_inv hs)

theorem walkStep_inv {o start} (hs : s.Inv) : (walkStep o start s).Inv := by
  unfold walkStep
  grind [laneStep_inv, State.hold_inv, walkChecks_inv, State.awaitFetch_inv, State.memTrap_inv,
    State.orderAll_inv, claimAll_inv, State.dropFetched_inv, State.bumpId_inv, State.issueLong_inv, BothInv]

/-! ### Pages -/

theorem execPageTableWalk_inv {core ctx va} (hs : s.Inv) : (execPageTableWalk core ctx va s).Inv := by
  unfold execPageTableWalk
  split
  · split
    · exact State.modCore_inv (State.touchWalk_inv hs)
    · exact State.logFault_inv (State.touchWalk_inv hs)
  · exact hs

theorem execTranslationCacheEviction_inv {core ctx va} (hs : s.Inv) :
    (execTranslationCacheEviction core ctx va s).Inv :=
  State.modCore_inv hs

theorem execL1LineEviction_inv {core ctx va} (hs : s.Inv) : (execL1LineEviction core ctx va s).Inv := by
  unfold execL1LineEviction
  dsimp only
  split
  · split
    · exact State.modCore_inv hs
    · exact evictHeld_inv (State.modCore_inv hs)
  · exact State.modCore_inv hs

theorem State.dropStopped_inv {launch} (hs : s.Inv) : (s.dropStopped launch).Inv := by
  unfold State.dropStopped
  grind [State.wakeAll_inv, State.Inv.update]

theorem State.freeLatches_inv {launch} (hs : s.Inv) : (s.freeLatches launch).Inv := by
  unfold State.freeLatches
  grind [State.freeLatch_inv, foldl_inv]

theorem Team.abort_scratch (t : Team) : t.abort.scratch = t.scratch := by
  unfold Team.abort
  split <;> rfl

theorem State.abortLaunch_inv {launch} (hs : s.Inv) : (s.abortLaunch launch).Inv := by
  unfold State.abortLaunch
  refine State.modLaunch_inv ((State.dropStopped_inv (State.freeLatches_inv hs)).mapTeams fun t ht => ?_)
  split
  · rwa [Team.abort_scratch]
  · exact ht

theorem pageChecks_inv {c e} (hs : s.Inv) : (pageChecks s c e).1.Inv := by
  unfold pageChecks
  grind [tenderRead_inv, State.log_inv, State.touchRange_inv, sendRemote_inv, hostBytes_inv]

theorem State.verifyPage_inv {core c base} (hs : s.Inv) : (s.verifyPage core c base).Inv := State.modCore_inv hs

theorem State.wakePage_inv {core c base} (hs : s.Inv) : (s.wakePage core c base).Inv := by
  unfold State.wakePage
  refine State.modCore_inv (hs.mapTeams fun t ht => ?_)
  split <;> exact ht

theorem State.codeFault_inv {g} (hs : s.Inv) : (s.codeFault g).Inv := by
  unfold State.codeFault
  grind [State.logAt_inv, State.abortLaunch_inv]

theorem State.walkCodeFault_inv {core w} (hs : s.Inv) : (s.walkCodeFault core w).Inv := by
  unfold State.walkCodeFault
  grind [State.engLog_inv, State.abortLaunch_inv, State.endWalk_inv]

theorem execCodeHashCheckComplete_inv {core ctx va} (hs : s.Inv) :
    (execCodeHashCheckComplete core ctx va s).Inv := by
  unfold execCodeHashCheckComplete
  grind [State.wakePage_inv, pageChecks_inv, State.verifyPage_inv, State.codeFault_inv, State.walkCodeFault_inv,
    foldl_inv, Out.Inv]

/-! ### Packets -/

theorem State.modPacket_inv {c q id f} (hs : s.Inv) : (s.modPacket c q id f).Inv := State.modQueue_inv hs

theorem State.setQueue_inv {c q st} (hs : s.Inv) : (s.setQueue c q st).Inv := State.modQueue_inv hs

theorem State.lookAt_inv {c q} (hs : s.Inv) : (s.lookAt c q).1.Inv := by
  unfold State.lookAt
  grind [State.queueCounter_inv]

theorem observe_inv {c q} (hs : s.Inv) : (observe s c q).1.Inv := by
  unfold observe
  grind [State.lookAt_inv, acquireSystem_inv, deviceRead_inv]

theorem State.stillHeld_inv {c q p i place} (hs : s.Inv) : (s.stillHeld c q p i place).1.Inv := by
  unfold State.stillHeld
  grind [acquireSystem_inv, deviceRead_inv]

theorem execQueueReady_inv {ctx q} (hs : s.Inv) : (execQueueReady ctx q s).Inv := by
  unfold execQueueReady
  grind [State.lookAt_inv, State.clearFetches_inv, State.stopQueue_inv, State.setQueue_inv, State.stillHeld_inv,
    Out.Inv]

theorem packetBlock_inv {c q va} (hs : s.Inv) : (packetBlock s c q va).1.Inv := by
  unfold packetBlock
  grind [deviceRead_inv, checkSpans_inv]

theorem State.thenCounter_inv {c va x} (hs : s.Inv) : (s.thenCounter c va x).1.Inv := by
  unfold State.thenCounter
  split
  · split
    · exact hs
    · exact State.counterPoison_inv hs
  · exact hs
  · exact hs

theorem checkPacket_inv {c q slot raw} (hs : s.Inv) : (checkPacket s c q slot raw).1.Inv := by
  unfold checkPacket
  grind [deviceRead_inv, State.thenCounter_inv, packetBlock_inv]

theorem State.advanceQueue_inv {c q d} (hs : s.Inv) (e : s.advanceQueue c q = some d) : d.state.Inv := by
  unfold State.advanceQueue at e
  grind [dispatchAdd_inv]

theorem State.granted_inv {c q} (hs : s.Inv) : (s.granted c q).Inv := State.modCtx_inv (State.modQueue_inv hs)

theorem State.admitHead_inv {c q index p packet x} (hs : s.Inv) : (s.admitHead c q index p packet x).Inv := by
  have ha d (e : s.advanceQueue c q = some d) := State.advanceQueue_inv hs e
  unfold State.admitHead
  dsimp only
  split
  · exact State.stopQueue_inv (State.counterPoison_inv hs)
  · exact ha (.held _) ‹_›
  · exact State.enterPacket_inv (State.granted_inv (ha (.over _) ‹_›))
  · exact State.modQueue_inv (State.granted_inv (ha (.sent _ _) ‹_›))

theorem execQueuePriorityAging_inv {ctx q} (hs : s.Inv) : (execQueuePriorityAging ctx q s).Inv :=
  State.modQueue_inv hs

theorem State.grantTo_inv {c skip n} (hs : s.Inv) : (s.grantTo c skip n).Inv := by
  induction n generalizing s skip with
  | zero => exact hs
  | succ n ih =>
    unfold State.grantTo
    split
    · exact hs
    · grind [observe_inv, State.clearFetches_inv, State.setQueue_inv, State.stopQueue_inv, checkPacket_inv,
        State.admitHead_inv]

theorem execDispatchOpportunity_inv (hs : s.Inv) : (execDispatchOpportunity s).Inv := by
  unfold execDispatchOpportunity
  split
  · exact hs
  · exact State.grantTo_inv hs.update

theorem State.failPacketWait_inv {c q a} (hs : s.Inv) : (s.failPacketWait c q a).Inv :=
  State.stopQueue_inv (State.modPacket_inv hs)

theorem State.evalWait_inv {c q a} (hs : s.Inv) : (s.evalWait c q a).Inv := by
  unfold State.evalWait
  grind [State.modPacket_inv, State.touchWalk_inv, State.dirtyLine_inv, State.orderAll_inv, acquireSystem_inv,
    State.finishPacket_inv, State.counterPoison_inv, State.failPacketWait_inv, translateWalk_inv,
    sendRemote_inv, State.log_inv, BothInv]

theorem execCounterWaitPacketSatisfied_inv {ctx q idx} (hs : s.Inv) :
    (execCounterWaitPacketSatisfied ctx q idx s).Inv := by
  unfold execCounterWaitPacketSatisfied
  split
  · split
    · exact State.evalWait_inv hs
    · exact hs
  · exact hs

theorem execCounterAddPacketPerform_inv {ctx q idx} (hs : s.Inv) :
    (execCounterAddPacketPerform ctx q idx s).Inv := by
  unfold execCounterAddPacketPerform
  grind [State.modPacket_inv, State.finishPacket_inv, dispatchAdd_inv, Out.Inv, AddDone.state]

theorem State.setPacketJob_inv {c q a} (hs : s.Inv) : (s.setPacketJob c q a).Inv := State.modPacket_inv hs

theorem State.packetAdds_inv {c q a b} (hs : s.Inv) : (s.packetAdds c q a b).Inv := by
  unfold State.packetAdds
  grind [State.setPacketJob_inv, State.finishPacket_inv, engAdd_inv, bindAll_inv, State.engLogOnce_inv]

theorem State.copyPacket_inv {c q a} (hs : s.Inv) : (s.copyPacket c q a).Inv := by
  unfold State.copyPacket
  grind [packetBlock_inv, State.clearFetches_inv, State.setPacketJob_inv, State.stopQueue_inv, copyAsk_inv,
    State.stall_inv, copyBytes_inv, State.packetAdds_inv]

theorem State.copyPacketGo_inv {c q idx n} (hs : s.Inv) : (s.copyPacketGo c q idx n).Inv := by
  induction n generalizing s with
  | zero => exact hs
  | succ n ih =>
    unfold State.copyPacketGo
    grind [State.copyPacket_inv]

theorem execCopyPacketPerform_inv {ctx q idx} (hs : s.Inv) : (execCopyPacketPerform ctx q idx s).Inv :=
  State.copyPacketGo_inv hs

/-! ### Launches -/

theorem State.activate_inv {t w} (hs : s.Inv) : (s.activate t w).Inv := State.modWave_inv hs

theorem State.seatTeam_inv {t core quarters} (hs : s.Inv) : (s.seatTeam t core quarters).Inv := by
  unfold State.seatTeam
  grind [State.modTeam_inv, State.activate_inv, foldl_inv, State.Inv.update]

theorem pushFetch_inv {core c va} (hs : s.Inv) : (pushFetch s core c va).Inv := by
  unfold pushFetch
  grind [fetchWord_inv, State.log_inv, sendRemote_inv]

theorem pushLine_inv {core c va} (hs : s.Inv) : (pushLine s core c va).Inv := by
  unfold pushLine
  grind [translate_inv, State.logFault_inv, pushFetch_inv, pageChecks_inv, State.verifyPage_inv]

theorem State.pushLines_inv {t} (hs : s.Inv) : (s.pushLines t).Inv :=
  foldl_inv (fun _ _ => foldl_inv fun _ _ => pushLine_inv) hs

theorem State.recordPlacement_inv {t} (hs : s.Inv) : (s.recordPlacement t).Inv := by
  unfold State.recordPlacement
  dsimp only
  split
  · exact State.logAppend_inv hs
  · exact hs

theorem State.holdAgain_inv {core h} (hs : s.Inv) : (s.holdAgain core h).Inv := State.modCore_inv hs

theorem State.overflowAgain_inv {t bs} (hs : s.Inv) : (s.overflowAgain t bs).Inv := by
  unfold State.overflowAgain
  dsimp only
  split
  · exact State.sendOverflow_inv hs.update
  · exact hs

theorem State.walkAgain_inv {t w} (hs : s.Inv) : (s.walkAgain t w).1.Inv := by
  unfold State.walkAgain
  grind [State.modCore_inv, locate_inv, State.loseWalk_inv, flushLine_inv, State.refuseWalk_inv,
    State.orderOne_inv, State.homeWrite_inv, BothInv]

theorem State.unload_inv {t} (hs : s.Inv) : (s.unload t).Inv := by
  unfold State.unload
  grind [State.modTeam_inv, State.holdAgain_inv, State.modEngine_inv, foldl_inv]

theorem State.restock_inv {t} (hs : s.Inv) : (s.restock t).Inv := by
  unfold State.restock
  grind [State.unload_inv, State.overflowAgain_inv, State.walkAgain_inv, State.modTeam_inv, foldl_fst_inv]

theorem State.restockAll_inv (hs : s.Inv) : s.restockAll.Inv := by
  unfold State.restockAll
  grind [State.restock_inv, foldl_inv]

theorem State.fuseAgain_inv {t w n} (hs : s.Inv) : (s.fuseAgain t w n).Inv := by
  unfold State.fuseAgain
  split
  · exact State.modQuad_inv hs
  · exact hs

theorem State.sourceAgain_inv {t w n} (hs : s.Inv) : (s.sourceAgain t w n).Inv := by
  unfold State.sourceAgain
  dsimp only
  split
  · exact hs
  · split
    · exact State.modQuad_inv hs
    · split
      · exact State.modQuad_inv hs
      · exact hs

theorem State.waitAgain_inv {t w n tag} (hs : s.Inv) : (s.waitAgain t w n tag).Inv := by
  unfold State.waitAgain
  split
  · exact hs
  · dsimp only
    split
    · exact State.modQuad_inv (State.modQuad_inv hs)
    all_goals
      grind [State.modQuad_inv, locate_inv, State.orderAll_inv, State.useCounters_inv, sendRemote_inv,
        State.logFor_inv, BothInv]

theorem State.waitsAgain_inv {t w} (hs : s.Inv) : (s.waitsAgain t w).Inv := by
  unfold State.waitsAgain
  grind [State.waitAgain_inv, State.bumpId_inv, State.resumeWaits_inv, foldl_inv]

theorem State.restoreTeam_inv {t} (hs : s.Inv) : (s.restoreTeam t).Inv := by
  unfold State.restoreTeam
  grind [State.modTeam_inv, State.restock_inv, State.fuseAgain_inv, State.sourceAgain_inv, State.waitsAgain_inv,
    State.fuseTest_inv, foldl_inv]

theorem State.startTeam_inv {launch core l quarters} (hs : s.Inv) :
    (s.startTeam launch core l quarters).Inv := by
  have ht : ({ s with teams := s.teams ++ [l.team launch] } : State).Inv := hs.setTeams fun t h => by
    rcases List.mem_append.mp h with h | h
    · exact hs.scratch t h
    · rw [List.mem_singleton.mp h]
      rfl
  exact State.modLaunch_inv (State.recordPlacement_inv (State.pushLines_inv (State.seatTeam_inv ht)))

theorem execTeamPlace_inv {launch core quarters} (hs : s.Inv) : (execTeamPlace launch core quarters s).Inv := by
  unfold execTeamPlace
  grind [State.startTeam_inv, State.seatTeam_inv, State.pushLines_inv, State.restoreTeam_inv,
    State.recordPlacement_inv, Out.Inv]

theorem State.freeTeam_inv {t} (hs : s.Inv) : (s.freeTeam t).Inv := by
  have ht : (s.modTeam t fun x => { x with phase := .ended, waves := [], scratch := [], tiles := [] }).Inv :=
    State.modTeam_inv hs fun _ _ => rfl
  unfold State.freeTeam
  exact foldl_inv (fun _ _ => State.wake_inv) (State.modLaunch_inv ht)

theorem execTeamEnd_inv {team} (hs : s.Inv) : (execTeamEnd team s).Inv := by
  unfold execTeamEnd
  dsimp only
  split
  · split
    · exact State.pumpDrain_inv hs
    · exact State.freeTeam_inv hs
  · exact hs

theorem State.settleStores_inv {c cores} (hs : s.Inv) : (s.settleStores c cores).Inv := by
  unfold State.settleStores
  grind [bindLine_inv, writeBackBound_inv, foldl_inv]

theorem State.finishLaunch_inv {n l} (hs : s.Inv) : (s.finishLaunch n l).Inv := by
  unfold State.finishLaunch
  dsimp only
  split
  · exact State.finishPacket_inv (State.modLaunch_inv hs)
  · split
    · exact State.raise_inv (State.modLaunch_inv hs)
    · exact State.modLaunch_inv hs

theorem execLaunchCompletionAdd_inv {launch} (hs : s.Inv) : (execLaunchCompletionAdd launch s).Inv := by
  unfold execLaunchCompletionAdd
  grind [State.finishLaunch_inv, State.settleStores_inv, dispatchAdd_inv, State.modLaunch_inv, Out.Inv,
    AddDone.state]

theorem execReplayArrivalTimeout_inv {ctx slice} (hs : s.Inv) : (execReplayArrivalTimeout ctx slice s).Inv := by
  unfold execReplayArrivalTimeout
  split
  · exact State.diverge_inv hs
  · exact hs

/-! ### Masks -/

theorem predStep_inv {o opnds f} (hs : s.Inv) : (predStep s o opnds f).Inv := laneQuads_inv hs

theorem pred2_inv {o f} (hs : s.Inv) : (pred2 s o f).Inv := predStep_inv hs

theorem maskStep_inv {o opnds f} (hs : s.Inv) : (maskStep s o opnds f).Inv := laneQuads_inv hs

theorem joinStep_inv {o f} (hs : s.Inv) : (joinStep s o f).Inv := by
  unfold joinStep
  grind [laneStep_inv, State.mapGang_inv, State.retire_inv]

theorem execJwait_inv {o} (hs : s.Inv) : (execJwait o s).Inv := by
  unfold execJwait
  grind [laneStep_inv, State.hold_inv, State.account_inv, State.regang_inv]

/-! ### Nests -/

theorem nestQuad_inv {g op x n} (hs : s.Inv) : (nestQuad s g op x n).1.Inv := by
  unfold nestQuad
  grind [counterCheck_inv]

theorem nestStep_inv {op x} (hs : s.Inv) : (nestStep op x s).Inv := by
  unfold nestStep
  grind [withGang_inv, State.checkedQuads_inv, nestQuad_inv, State.hold_inv, State.placeEntries_inv,
    State.mapGang_inv, State.retire_inv]

theorem nestRead_inv {e fetched va n} (hs : s.Inv) : (nestRead s e fetched va n).1.Inv := by
  unfold nestRead
  grind [engRead_inv, engAsk_inv]

theorem nestOperands_inv {e fetched b} (hs : s.Inv) : (nestOperands s e fetched b).1.Inv := by
  unfold nestOperands
  grind [nestRead_inv]

theorem nestWrite_inv {e fetched va n v b} (hs : s.Inv) : (nestWrite s e fetched va n v b).1.Inv := by
  unfold nestWrite
  grind [engLocate_inv, sendRemote_inv, State.engLog_inv, engWrite_inv]

theorem nestNext_inv {e quad fetched b} (hs : s.Inv) : (nestNext s e quad fetched b).1.Inv := by
  unfold nestNext
  grind [nestRead_inv, nestOperands_inv, nestWrite_inv]

theorem execLnestEntryPerform_inv {core q} (hs : s.Inv) : (execLnestEntryPerform core q s).Inv := by
  unfold execLnestEntryPerform
  grind [nestNext_inv, State.setHead_inv, State.completeHead_inv, Out.Inv]

theorem State.leaveForNest_inv {t w n} (hs : s.Inv) : (s.leaveForNest t w n).Inv := by
  unfold State.leaveForNest
  split
  · split
    · exact hs
    · split
      · exact State.modQuad_inv hs
      · exact State.splitOff_inv (State.modQuad_inv hs)
  · exact hs

theorem State.stopNest_inv {core q e b cause addr tf} (hs : s.Inv) :
    (s.stopNest core q e b cause addr tf).Inv := by
  unfold State.stopNest
  grind [State.engLog_inv, State.popHead_inv, State.setHead_inv, State.ctxFault_inv, State.modQuad_inv,
    State.leaveForNest_inv]

theorem execLnestElementFault_inv {core q} (hs : s.Inv) : (execLnestElementFault core q s).Inv := by
  unfold execLnestElementFault
  grind [nestNext_inv, State.stopNest_inv, Out.Inv]

/-! ### Events of a wave -/

theorem execLongLatencyComplete_inv {team wave quad idx} (hs : s.Inv) :
    (execLongLatencyComplete team wave quad idx s).Inv := by
  unfold execLongLatencyComplete
  dsimp only
  split
  · exact hs
  · split
    · split
      · exact State.unlock_inv (State.wake_inv (State.trimLatch_inv (State.modQuad_inv hs)))
      · exact State.wake_inv (State.trimLatch_inv (State.modQuad_inv hs))
    · exact hs

theorem execYieldBackoffExpiry_inv {team wave base} (hs : s.Inv) :
    (execYieldBackoffExpiry team wave base s).Inv := by
  unfold execYieldBackoffExpiry
  split
  · exact State.mapGang_inv hs
  · exact hs

theorem execMissSplit_inv {team wave base} (hs : s.Inv) : (execMissSplit team wave base s).Inv := by
  unfold execMissSplit
  split
  · exact hs
  · split
    · exact hs
    · exact State.replaceGangs_inv hs

theorem execFuseTimeout_inv {team wave base} (hs : s.Inv) : (execFuseTimeout team wave base s).Inv := by
  unfold execFuseTimeout
  grind [State.joinTest_inv, State.releaseSet_inv, State.modWave_inv, State.modQuads_inv, Out.Inv]

theorem execWidthFault_inv {team wave base} (hs : s.Inv) : (execWidthFault team wave base s).Inv := by
  unfold execWidthFault
  grind [State.trap_inv, foldl_inv, Out.Inv]

theorem State.setActive_inv {g active slotFree} (hs : s.Inv) : (s.setActive g active slotFree).Inv :=
  State.modWave_inv hs

theorem execGangSwap_inv {core quarter} (hs : s.Inv) : (execGangSwap core quarter s).Inv := by
  unfold execGangSwap
  split
  · exact hs
  · split
    · exact State.setActive_inv hs
    · split
      · exact State.setActive_inv (State.setActive_inv hs)
      · exact hs

theorem execWatchdogExpiry_inv {team wave base} (hs : s.Inv) : (execWatchdogExpiry team wave base s).Inv := by
  unfold execWatchdogExpiry
  dsimp only
  split
  · exact State.modWave_inv (State.modQuads_inv hs)
  · exact hs

/-! ### Matrix forms -/

theorem State.useLatch_inv {g x o} (hs : s.Inv) : (s.useLatch g x o).Inv := State.modCore_inv hs

theorem execMrel_inv (hs : s.Inv) : (execMrel s).Inv :=
  withGang_inv fun _ => State.retire_inv (State.freeLatch_inv hs)

theorem execALatchIdleRelease_inv {core quarter} (hs : s.Inv) : (execALatchIdleRelease core quarter s).Inv :=
  State.modCore_inv hs

theorem matBody_inv {x o flag g} (hs : s.Inv) : (matBody x o flag s g).Inv := by
  unfold matBody
  grind [State.hold_inv, State.badOperand_inv, State.trap_inv, State.useLatch_inv, State.mapGang_inv,
    State.stall_inv, State.issueLong_inv, State.bumpId_inv]

theorem matStep_inv {x o} (hs : s.Inv) : (matStep x o s).Inv := laneStep_inv hs fun _ _ _ => matBody_inv

theorem execSstampOpen_inv {sa} (hs : s.Inv) : (execSstampOpen sa s).Inv := by
  unfold execSstampOpen
  grind [withGang_inv, State.checked_inv, State.mapGang_inv, State.bumpId_inv, State.retire_inv]

theorem execSstampClose_inv (hs : s.Inv) : (execSstampClose s).Inv := by
  unfold execSstampClose
  grind [withGang_inv, State.checked_inv, storeAll_inv, State.mapGang_inv, State.retire_inv]

/-! ### The save area -/

theorem execDrainWindowEnd_inv {ctx} (hs : s.Inv) : (execDrainWindowEnd ctx s).Inv := by
  unfold execDrainWindowEnd Out.Inv
  dsimp only
  split
  · refine State.modCtx_inv (hs.mapTeams fun t ht => ?_)
    split <;> exact ht
  · exact hs

theorem State.trapsFirst_inv {t w} (hs : s.Inv) : (s.trapsFirst t w).Inv := by
  unfold State.trapsFirst
  refine foldl_inv (fun u g hu => ?_) hs
  split
  · exact getD_inv (fun _ => State.takePending_inv hu) hu
  · exact hu

theorem State.saveWalks_inv {c core} (hs : s.Inv) : (s.saveWalks c core).Inv := by
  unfold State.saveWalks
  grind [writeRecord_inv, State.logWalk_inv, State.landWalk_inv, foldl_inv]

theorem State.emptyL1_inv {c core} (hs : s.Inv) : (s.emptyL1 c core).Inv :=
  State.modCore_inv (State.settleStores_inv hs)

theorem State.cancelWaits_inv {c} (hs : s.Inv) : (s.cancelWaits c).Inv := by
  unfold State.cancelWaits
  grind [State.bumpId_inv, foldl_inv, State.Inv.update]

theorem State.packTeam_inv {t} (hs : s.Inv) : (s.packTeam t).Inv := by
  unfold State.packTeam
  grind [State.freeLatch_inv, State.modCore_inv, State.wake_inv, State.modTeam_inv, foldl_inv, State.Inv.update]

theorem State.enterSaved_inv {c total portable} (hs : s.Inv) : (s.enterSaved c total portable).Inv := by
  unfold State.enterSaved
  dsimp only
  split
  · exact State.raise_inv (State.modCtx_inv (State.raise_inv (State.modCtx_inv hs.update)))
  · exact State.raise_inv (State.modCtx_inv (State.modCtx_inv hs.update))

theorem State.writeSave_inv {c t} (hs : s.Inv) (e : s.writeSave c = some t) : t.Inv := by
  have hp {ts : List Nat} : (ts.foldl (fun s t => s.packTeam t) (s.cancelWaits c)).Inv :=
    foldl_inv (fun _ _ => State.packTeam_inv) (State.cancelWaits_inv hs)
  unfold State.writeSave at e
  dsimp only at e
  split at e
  · cases e
  · obtain ⟨u, hu, rfl⟩ := Option.map_eq_some_iff.mp e
    exact State.enterSaved_inv (tenderWrite_inv hp hu)

theorem State.releasedFirst_inv {t w} (hs : s.Inv) : (s.releasedFirst t w).Inv := by
  unfold State.releasedFirst
  grind [State.resumeWaits_inv, foldl_inv]

theorem State.beginSave_inv {c} (hs : s.Inv) : (s.beginSave c).Inv := by
  unfold State.beginSave
  grind [State.saveWalks_inv, State.emptyL1_inv, State.releasedFirst_inv, State.trapsFirst_inv, foldl_inv]

theorem execSaveComplete_inv {ctx} (hs : s.Inv) : (execSaveComplete ctx s).Inv := by
  have hp : ((s.stoppedTeams ctx).foldl (fun s t => s.pumpDrain t s.nextId) s).Inv :=
    foldl_inv (fun _ _ => State.pumpDrain_inv) hs
  unfold execSaveComplete Out.Inv
  dsimp only
  split
  · generalize (s.stoppedTeams ctx).foldl (fun s t => s.pumpDrain t s.nextId) s = u at hp ⊢
    have hb : (u.beginSave ctx).Inv := State.beginSave_inv hp
    split
    · split
      · exact getD_inv (fun _ => State.writeSave_inv hb) hb
      · exact hb
    · exact hp
  · exact hs

theorem execSaveDeadline_inv {ctx} (hs : s.Inv) : (execSaveDeadline ctx s).Inv := by
  unfold execSaveDeadline
  grind [State.log_inv, State.enterReset_inv, Out.Inv]

/-! ### Restoring a context -/

theorem State.dropUnnamed_inv {c a} (hs : s.Inv) : (s.dropUnnamed c a).Inv := by
  refine hs.setTeams fun t h => ?_
  obtain ⟨n, hn, rfl⟩ := List.mem_mapIdx.mp h
  split
  · rfl
  · exact hs.scratch _ (List.getElem_mem hn)

/-! ### A save area that is read -/

/-- A team that was read from a save area has a scratchpad in canonical form. -/
def TeamRead.Wf (x : TeamRead) : Prop := ∀ t, x.team = .inr t → t.scratch.wf = true

/-- So have the teams of a launch that was read from a save area. -/
def Resumed.Wf (r : Resumed) : Prop := ∀ x ∈ r.teams, x.Wf

theorem mem_of_allSome {α : Type}
    {l : List (Option α)} {xs : List α} (h : allSome l = some xs) {x : α} (hx : x ∈ xs) : some x ∈ l := by
  induction l generalizing xs with
  | nil => cases h; cases hx
  | cons a l ih =>
    unfold allSome at h
    split at h
    · cases h
      rcases List.mem_cons.mp hx with rfl | hx
      · exact List.mem_cons_self
      · exact List.mem_cons_of_mem _ (ih ‹_› hx)
    · cases h

theorem teamOfSave_wf {l base bs t n} (h : teamOfSave s l base bs = some (t, n)) : t.scratch.wf = true := by
  unfold teamOfSave at h
  dsimp only at h
  split at h
  · split at h
    · cases h
      exact Mem.wf_write _ _ rfl
    · cases h
  · cases h

theorem readTeams_wf {l area n off xs} (h : readTeams s l area n off = some xs) : ∀ x ∈ xs, x.Wf := by
  induction n generalizing off xs with
  | zero => cases h; exact fun _ hx => nomatch hx
  | succ n ih =>
    have more {y : TeamRead} {o} (hy : y.Wf) (e : (readTeams s l area n o).map (y :: ·) = some xs) :
        ∀ x ∈ xs, x.Wf := by
      obtain ⟨ys, hys, rfl⟩ := Option.map_eq_some_iff.mp e
      exact List.forall_mem_cons.mpr ⟨hy, ih hys⟩
    unfold readTeams at h
    dsimp only at h
    split at h
    · split at h
      · exact more (fun _ e => by cases e) h
      · cases h
    · split at h
      · cases h
      · exact more (fun _ e => by cases e; exact teamOfSave_wf ‹_›) h

theorem readKernel_wf {c area bs r} (h : readKernel s c area bs = some r) : r.Wf := by
  unfold readKernel at h
  dsimp only at h
  split at h
  · cases h
  · split at h
    · cases h
    · obtain ⟨ts, hts, rfl⟩ := Option.map_eq_some_iff.mp h
      exact readTeams_wf hts

theorem readSave_wf {c a} (h : readSave s c = some a) : ∀ r ∈ a.launches, r.Wf := by
  have records {area ls}
      (e : allSome ((chop area 256 128 (field area 12 4)).map fun b => readKernel s c area b) = some ls) :
      ∀ r ∈ ls, r.Wf := fun r hr => by
    obtain ⟨b, -, hb⟩ := List.mem_map.mp (mem_of_allSome e hr)
    exact readKernel_wf hb
  unfold readSave at h
  dsimp only at h
  split at h
  · cases h
  · split at h
    · cases h
    · split at h
      · cases h
      · split at h
        · cases h
        · split at h
          · split at h
            · cases h
              exact records ‹_›
            · cases h
          · cases h

theorem State.restorePackets_inv {c a} (hs : s.Inv) : (s.restorePackets c a).Inv := State.modCtx_inv hs

theorem State.resumeLaunch_inv {r} (hs : s.Inv) (hr : r.Wf) : (s.resumeLaunch r).Inv := by
  unfold State.resumeLaunch
  dsimp only
  refine List.foldlRecOn (motive := State.Inv) _ _ ?_ fun u hu x hx => ?_
  · split
    · exact State.modLaunch_inv hs
    · exact hs.update
  · split
    · exact hu
    · next y hy =>
      refine hu.setTeams fun t h => ?_
      rcases List.mem_append.mp h with h | h
      · exact hu.scratch t h
      · rw [List.mem_singleton.mp h]
        exact hr x hx y hy

theorem State.resume_inv {c a} (hs : s.Inv) (ha : ∀ r ∈ a.launches, r.Wf) : (s.resume c a).Inv := by
  have hl : (a.launches.foldl (fun s r => s.resumeLaunch r) (s.dropUnnamed c a)).Inv :=
    List.foldlRecOn (motive := State.Inv) _ _ (State.dropUnnamed_inv hs) fun _ hu r hr =>
      State.resumeLaunch_inv hu (ha r hr)
  exact State.Inv.update (State.modCtx_inv (State.restorePackets_inv hl))

theorem State.runRestored_inv {c} (hs : s.Inv) : (s.runRestored c).Inv := by
  unfold State.runRestored
  split
  · exact State.finishCommand_inv hs
  · exact State.finishCommand_inv (State.startRun_inv (State.resume_inv hs (readSave_wf ‹_›)))

theorem State.runCtx_inv {c} (hs : s.Inv) : (s.runCtx c).Inv := by
  unfold State.runCtx
  split
  · split
    · exact State.runRestored_inv hs
    · exact State.finishCommand_inv (State.startRun_inv hs)
  · exact State.runRestored_inv hs
  · exact State.refuseCommand_inv hs
  · exact State.refuseCommand_inv hs
  · exact State.refuseCommand_inv hs
  · exact State.refuseCommand_inv hs
  · exact State.refuseCommand_inv hs
  · exact State.refuseCommand_inv hs

theorem execCtxcmdRun_inv {port ctx} (hs : s.Inv) : (execCtxcmdRun port ctx s).Inv :=
  State.command_inv hs fun _ => State.runCtx_inv

theorem execRegisterWrite_inv {port bar off val} (hs : s.Inv) : (execRegisterWrite port bar off val s).Inv := by
  unfold execRegisterWrite
  split
  · exact State.deviceRegister_inv hs
  · exact State.blockRegister_inv hs fun _ _ => State.runCtx_inv

/-! ### Textures -/

theorem descAt_inv {g n va} (hs : s.Inv) : (descAt s g n va).1.Inv := by
  unfold descAt
  grind [locate_inv, blockAt_inv]

theorem descAll_inv {g o ns} (hs : s.Inv) : (descAll g o ns s).1.Inv := by
  induction ns generalizing s with
  | nil => exact hs
  | cons n ns ih => exact ih (descAt_inv hs)

theorem texQuad_inv {g o pend flag plans items} (hs : s.Inv) : (texQuad s g o pend flag plans items).1.Inv :=
  loadQuad_inv hs

theorem texBody_inv {o x flag g} (hs : s.Inv) : (texBody o x flag s g).Inv := by
  unfold texBody
  grind [State.hold_inv, descAll_inv, State.awaitFetch_inv, State.dropFetched_inv, checkAsks_inv,
    State.memTrap_inv, perQuad_inv, texQuad_inv, State.bumpId_inv, State.stall_inv, State.issueLong_inv]

theorem texStep_inv {o x} (hs : s.Inv) : (texStep o x s).Inv := laneStep_inv hs fun _ _ _ => texBody_inv

/-! ### Float lane forms -/

theorem vFp1_inv {o m k f} (hs : s.Inv) : (vFp1 s o m k f).Inv := lane1_inv hs

theorem vFp2_inv {o m k f} (hs : s.Inv) : (vFp2 s o m k f).Inv := lane2_inv hs

theorem vFp3_inv {o m f} (hs : s.Inv) : (vFp3 s o m f).Inv := lane3_inv hs

/-! ### Integer lane forms -/

theorem vInt2_inv {o t f} (hs : s.Inv) : (vInt2 s o t f).Inv := lane2_inv hs

theorem vInt1_inv {o t f} (hs : s.Inv) : (vInt1 s o t f).Inv := lane1_inv hs

theorem vShift_inv {o t amt f} (hs : s.Inv) : (vShift s o t amt f).Inv := laneMap_inv hs

theorem execVrshr_inv {o m src64 amt} (hs : s.Inv) : (execVrshr o m src64 amt s).Inv := laneMap_inv hs

theorem execVcmpIntImm_inv {o cc uns imm} (hs : s.Inv) : (execVcmpIntImm o cc uns imm s).Inv := laneMap_inv hs

/-! ### Conversions -/

theorem execVcvt_inv {o m src si di} (hs : s.Inv) : (execVcvt o m src si di s).Inv := laneMap_inv hs

theorem packed2_inv {o m f} (hs : s.Inv) : (packed2 s o m f).Inv := laneMap_inv hs

theorem packedShift_inv {o amt f} (hs : s.Inv) : (packedShift s o amt f).Inv := laneMap_inv hs

/-! ### Operations of walk code -/

theorem execWalkDone_inv (hs : s.Inv) : (execWalkDone s).Inv := withWalk_inv hs fun _ _ => hs

theorem execWalkYield_inv (hs : s.Inv) : (execWalkYield s).Inv := withWalk_inv hs fun _ _ => hs

theorem execWalkFetch_inv {a} (hs : s.Inv) : (execWalkFetch a s).Inv := by
  unfold execWalkFetch
  grind [withWalk_inv, fetchNode_inv]

theorem execWalkFld_inv {d sx n off} (hs : s.Inv) : (execWalkFld d sx n off s).Inv := by
  unfold execWalkFld
  grind [withWalk_inv]

theorem execWalkChild_inv {d a} (hs : s.Inv) : (execWalkChild d a s).Inv :=
  withWalk_inv hs fun _ _ => withNode_inv hs fun _ => hs

theorem execWalkPush_inv {a} (hs : s.Inv) : (execWalkPush a s).Inv := withWalk_inv hs fun _ _ => pushWalk_inv hs

theorem execWalkPop_inv {d} (hs : s.Inv) : (execWalkPop d s).Inv := by
  unfold execWalkPop
  grind [withWalk_inv, popWalk_inv]

theorem execWalkJmp_inv {l} (hs : s.Inv) : (execWalkJmp l s).Inv := withWalk_inv hs fun _ _ => hs

theorem execWalkJz_inv {a l} (hs : s.Inv) : (execWalkJz a l s).Inv := withWalk_inv hs fun _ _ => hs

theorem execWalkJnz_inv {a l} (hs : s.Inv) : (execWalkJnz a l s).Inv := withWalk_inv hs fun _ _ => hs

theorem execWalkBox4_inv {d a} (hs : s.Inv) : (execWalkBox4 d a s).Inv :=
  withWalk_inv hs fun _ _ => withNode_inv hs fun _ => hs

theorem execWalkTri_inv {d a b} (hs : s.Inv) : (execWalkTri d a b s).Inv := by
  unfold execWalkTri
  grind [withWalk_inv, withNode_inv, walkRead_inv]

theorem execWalkCommit_inv {a b} (hs : s.Inv) : (execWalkCommit a b s).Inv := by
  unfold execWalkCommit
  grind [withWalk_inv]

theorem execWalkEdge3_inv {d a lg} (hs : s.Inv) : (execWalkEdge3 d a lg s).Inv := by
  unfold execWalkEdge3
  grind [withWalk_inv]

theorem walkRingWord_inv {e va need k} (hs : s.Inv) (hk : ∀ t l, t.Inv → (k t l).1.Inv) :
    (walkRingWord s e va need k).1.Inv := by
  unfold walkRingWord
  grind [engLocate_inv]

theorem walkClaim_inv {e w r} (hs : s.Inv) : (walkClaim s e w r).1.Inv := by
  unfold walkClaim
  grind [walkRingWord_inv, sendRemote_inv, State.engFlush_inv, State.orderAll_inv, State.engSetCounter_inv,
    BothInv]

theorem walkWait_inv {e w key va target k} (hs : s.Inv) (hk : ∀ t, t.Inv → (k t).1.Inv) :
    (walkWait s e w key va target k).1.Inv := by
  unfold walkWait
  dsimp only
  split
  · exact hs
  · split
    · exact hk (engWait s e w.logged w.fetched key va target).s (engWait_inv hs)
    · split
      · exact engWait_inv hs
      · exact engWait_inv hs

theorem walkSlot_inv {e w r i entry} (hs : s.Inv) : (walkSlot s e w r i entry).1.Inv := by
  unfold walkSlot
  grind [walkRingWord_inv, walkWait_inv, engLocate_inv, engWrite_inv]

theorem walkAdd_inv {e w r l} (hs : s.Inv) : (walkAdd s e w r l).1.Inv := by
  unfold walkAdd
  dsimp only
  split
  · exact hs
  · exact hs
  · split
    · exact hs
    · split
      · exact engAddAs_inv hs
      · split
        · exact engAddAs_inv hs
        · exact engAddAs_inv hs

theorem walkPublish_inv {e w r i} (hs : s.Inv) : (walkPublish s e w r i).1.Inv := by
  unfold walkPublish
  grind [walkRingWord_inv, walkAdd_inv, walkWait_inv]

theorem execWalkEmitRing_inv {a n} (hs : s.Inv) : (execWalkEmitRing a n s).Inv := by
  unfold execWalkEmitRing
  grind [withWalk_inv, walkClaim_inv, walkPublish_inv, walkSlot_inv]

theorem visPlaces_inv {e xs} (hs : s.Inv) : (visPlaces s e xs).1.Inv := by
  induction xs generalizing s with
  | nil => exact hs
  | cons x xs ih =>
    unfold visPlaces
    grind [engLocate_inv]

theorem sendVis_inv {e w x} (hs : s.Inv) : (sendVis s e w x).Inv := by
  unfold sendVis
  grind [flushLine_inv, State.bumpId_inv, hostBytes_inv, writePiece_inv, sendRemote_inv, State.engLog_inv,
    State.Inv.update]

theorem execWalkEmitVis_inv {a} (hs : s.Inv) : (execWalkEmitVis a s).Inv := by
  unfold execWalkEmitVis
  grind [withWalk_inv, visPlaces_inv, sendVis_inv, foldl_inv]

theorem execWalkStepLimit_inv {core slot} (hs : s.Inv) : (execWalkStepLimit core slot s).Inv := by
  unfold execWalkStepLimit
  split
  · exact hs
  · split
    · exact State.faultWalk_inv hs
    · exact hs

/-! ### Every instruction -/

theorem exec_inv {i} (hs : s.Inv) : Out.Inv (exec i s) := by
  unfold exec
  cases i with
  | sadd | ssub | smul | smulhI64 | smulhN64 | sand | sor | sxor | sshl | sshrN64 | sshrI64 | sminI64
  | sminN64 | smaxI64 | smaxN64 | sdivI64 | sdivN64 | sremI64 | sremN64 | scmpEq | scmpNe | scmpI64Lt
  | scmpI64Ge | scmpN64Lt | scmpN64Ge => exact scalarAlu_inv hs
  | spopc | sclz | sctz | saddi | sandi | sori | sxori | sshli | sshriN64 | sshriI64 => exact scalarUnary_inv hs
  | ssel | sli | slui | spcui | snop | sfmt => exact scalarStep_inv hs
  | sgetr => exact execSgetr_inv hs
  | sgetrQpc => exact execSgetrQpc_inv hs
  | ssetr => exact execSsetr_inv hs
  | b | bmz | bmnz | bmall | bmnall | bcall | bz | bnz => exact branchStep_inv hs
  | bjr | bcallr => exact registerBranch_inv hs
  | snopProgress => exact execSnopProgress_inv hs
  | exit => exact execExit_inv hs
  | trap => exact execTrap_inv hs
  | tret => exact execTret_inv hs
  | tretDecline => exact execTretDecline_inv hs
  | sldN64 | sldN32 | sldI32 | sldN64Yield => exact scalarLoad_inv hs
  | sstN64 | sstN32 => exact scalarStore_inv hs
  | satomAdd | satomSwap | satomAnd | satomOr | satomXor | satomMinI64 | satomMinN64 | satomMaxI64
  | satomMaxN64 | satomCas => exact satomStep_inv hs
  | dzero => exact execDzero_inv hs
  | spfL2 | spfL1 => exact scalarPrefetch_inv hs
  | cadd => exact execCadd_inv hs
  | caddRel => exact execCaddRel_inv hs
  | qfence => exact execQfence_inv hs
  | cget | cgetAcq => exact cgetStep_inv hs
  | cgetTeam => exact execCgetTeam_inv hs
  | cwait => exact execCwait_inv hs
  | cwaitSt => exact execCwaitSt_inv hs
  | bar => exact execBar_inv hs
  | fenceRel => exact execFenceRel_inv hs
  | fenceAcq => exact execFenceAcq_inv hs
  | fenceAr => exact execFenceAr_inv hs
  | ifence => exact execIfence_inv hs
  | kset => exact execKset_inv hs
  | kfill | kfree => exact ringAdd_inv hs
  | kwaitFree | kwaitFull | kwaitFreeSt | kwaitFullSt => exact ringWait_inv hs
  | cpy => exact execCpy_inv hs
  | qwait | qadd => exact queueCounter_inv hs
  | mrel => exact execMrel_inv hs
  | sstampOpen => exact execSstampOpen_inv hs
  | sstampClose => exact execSstampClose_inv hs
  | clauseHeader => exact execClauseHeader_inv hs
  | vaddInt | vsubInt | vmulInt | vmulh | vminInt | vmaxInt | vand | vor | vxor => exact vInt2_inv hs
  | vmad | vdot4 => exact lane3_inv hs
  | vabsInt | vnot | vpopc | vclz | vbfe => exact vInt1_inv hs
  | vshl | vshr => exact vShift_inv hs
  | vrshr => exact execVrshr_inv hs
  | vcmpInt | vcmpFp => exact laneCmp_inv hs
  | vsel | vmovImm | vldexp | vfmaF32Imm | vcmpF32Imm | vpack | vunpack | vcvt2 | vfma2 | vdot2 | vhsel
  | vspk => exact laneMap_inv hs
  | vaddIntImm | vmulIntImm | vandImm | vorImm | vxorImm | vaddF32Imm | vmulF32Imm | vmaxF32Imm =>
    exact laneImm_inv hs
  | vcmpIntImm => exact execVcmpIntImm_inv hs
  | vaddFp | vsubFp | vmulFp | vminFp | vmaxFp | vcopysign | vdiv => exact vFp2_inv hs
  | vfma | vfnma | vclamp | vlerp => exact vFp3_inv hs
  | vabsFp | vneg | vsqrt | vrcp | vrsqrt | vrint | vclip | vsign | vexp2 | vlog2 | vsinpi | vcospi =>
    exact vFp1_inv hs
  | vclass | vgetexp => exact lane1_inv hs
  | vcvt => exact execVcvt_inv hs
  | vadd2 | vsub2 | vmul2 | vmin2 | vmax2 => exact packed2_inv hs
  | vshl2 | vshr2 => exact packedShift_inv hs
  | vred | vscan | vshuf | vbcast | vrot | vqswz | vcount => exact crossWrite_inv hs
  | vballot | vfind => exact crossLane_inv hs
  | vappend => exact execVappend_inv hs
  | pand | por | pxor | pandn => exact pred2_inv hs
  | pnot | pset | pfroms => exact predStep_inv hs
  | ptos | pmtos | pmtop => exact laneQuads_inv hs
  | pmand | pmandn | pmor | pmset => exact maskStep_inv hs
  | jset | jarr | jdrop => exact joinStep_inv hs
  | jwait => exact execJwait_inv hs
  | jst => exact execJst_inv hs
  | jld => exact execJld_inv hs
  | vld => exact execVld_inv hs
  | vst => exact execVst_inv hs
  | vlds => exact execVlds_inv hs
  | vsts => exact execVsts_inv hs
  | vpf => exact execVpf_inv hs
  | vatomAdd | vatomSwap | vatomAnd | vatomOr | vatomXor | vatomMin | vatomMax | vatomCas =>
    exact vatomStep_inv hs
  | vaccAdd | vaccMin | vaccMax => exact vaccStep_inv hs
  | rflush => exact execRflush_inv hs
  | mma | mmas => exact matStep_inv hs
  | wstart | wresume => exact walkStep_inv hs
  | texPoint | texBilinear | texTrilinear | texGather | texf | texsz => exact texStep_inv hs
  | lnestCopy | lnestAdd | lnestSub | lnestMul | lnestFma | lnestMin | lnestMax | lnestSum | lnestDot
  | lnestRmax | lnestRmin => exact nestStep_inv hs
  | walkDone => exact execWalkDone_inv hs
  | walkFetch => exact execWalkFetch_inv hs
  | walkFld => exact execWalkFld_inv hs
  | walkChild => exact execWalkChild_inv hs
  | walkBox4 => exact execWalkBox4_inv hs
  | walkTri => exact execWalkTri_inv hs
  | walkCommit => exact execWalkCommit_inv hs
  | walkEdge3 => exact execWalkEdge3_inv hs
  | walkEmitRing => exact execWalkEmitRing_inv hs
  | walkEmitVis => exact execWalkEmitVis_inv hs
  | walkPush => exact execWalkPush_inv hs
  | walkPop => exact execWalkPop_inv hs
  | walkAdd | walkAddi | walkSub | walkAnd | walkShl | walkShr | walkCmp | walkMovi => exact regOp_inv hs
  | walkJmp => exact execWalkJmp_inv hs
  | walkJz => exact execWalkJz_inv hs
  | walkJnz => exact execWalkJnz_inv hs
  | walkYield => exact execWalkYield_inv hs
  | walkStepLimit => exact execWalkStepLimit_inv hs
  | ctxcmdCreate => exact execCtxcmdCreate_inv hs
  | ctxcmdBind => exact execCtxcmdBind_inv hs
  | bindComplete => exact execBindComplete_inv hs
  | ctxcmdRun => exact execCtxcmdRun_inv hs
  | ctxcmdQuiesce => exact execCtxcmdQuiesce_inv hs
  | ctxcmdReset => exact execCtxcmdReset_inv hs
  | resetSequenceComplete => exact execResetSequenceComplete_inv hs
  | ctxcmdDestroy => exact execCtxcmdDestroy_inv hs
  | destroySequenceComplete => exact execDestroySequenceComplete_inv hs
  | owncmd => exact execOwncmd_inv hs
  | ctxinv => exact execCtxinv_inv hs
  | ctxinvComplete => exact execCtxinvComplete_inv hs
  | ctxstateRead => exact execCtxstateRead_inv hs
  | registerWrite => exact execRegisterWrite_inv hs
  | lnclr => exact execLnclr_inv hs
  | lnstatRead => exact execLnstatRead_inv hs
  | lanternQuadWrite => exact execLanternQuadWrite_inv hs
  | lnkctlEnSet => exact execLnkctlEnSet_inv hs
  | lnkctlEnClear => exact execLnkctlEnClear_inv hs
  | rcvcmdGo => exact execRcvcmdGo_inv hs
  | recoveryVerifyComplete => exact execRecoveryVerifyComplete_inv hs
  | deviceReset => exact execDeviceReset_inv hs
  | firmwareVerifyComplete => exact execFirmwareVerifyComplete_inv hs
  | attestationRequest => exact execAttestationRequest_inv hs
  | hostBar4Read => exact execHostBar4Read_inv hs
  | hostPostedWrite => exact execHostPostedWrite_inv hs
  | hostFetchadd => exact execHostFetchadd_inv hs
  | clockStepDown => exact execClockStepDown_inv hs
  | clockStepUp => exact execClockStepUp_inv hs
  | deviceWideUncorrectableError => exact execDeviceWideUncorrectableError_inv hs
  | linePoisonDetect => exact execLinePoisonDetect_inv hs
  | queueReady => exact execQueueReady_inv hs
  | dispatchOpportunity => exact execDispatchOpportunity_inv hs
  | queuePriorityAging => exact execQueuePriorityAging_inv hs
  | copyPacketPerform => exact execCopyPacketPerform_inv hs
  | counterWaitPacketSatisfied => exact execCounterWaitPacketSatisfied_inv hs
  | counterAddPacketPerform => exact execCounterAddPacketPerform_inv hs
  | teamPlace => exact execTeamPlace_inv hs
  | teamEnd => exact execTeamEnd_inv hs
  | launchCompletionAdd => exact execLaunchCompletionAdd_inv hs
  | codeHashCheckComplete => exact execCodeHashCheckComplete_inv hs
  | pageTableWalk => exact execPageTableWalk_inv hs
  | missSplit => exact execMissSplit_inv hs
  | fuseTimeout => exact execFuseTimeout_inv hs
  | widthFault => exact execWidthFault_inv hs
  | gangSwap => exact execGangSwap_inv hs
  | yieldBackoffExpiry => exact execYieldBackoffExpiry_inv hs
  | longLatencyComplete => exact execLongLatencyComplete_inv hs
  | counterWaitTimeout => exact execCounterWaitTimeout_inv hs
  | counterWatchNotify => exact execCounterWatchNotify_inv hs
  | remoteWaitRetry => exact execRemoteWaitRetry_inv hs
  | engineWaitReevaluate => exact execEngineWaitReevaluate_inv hs
  | engineWaitSatisfied => exact execEngineWaitSatisfied_inv hs
  | engineAddPerform => exact execEngineAddPerform_inv hs
  | engineCompletionAdd => exact execEngineCompletionAdd_inv hs
  | engineBindingRetry => exact execEngineBindingRetry_inv hs
  | copyPerform => exact execCopyPerform_inv hs
  | engineRingFreeWaitEnd => exact execEngineRingFreeWaitEnd_inv hs
  | engineRingPublish => exact execEngineRingPublish_inv hs
  | qfenceMarkerRetire => exact execQfenceMarkerRetire_inv hs
  | lnestEntryPerform => exact execLnestEntryPerform_inv hs
  | lnestElementFault => exact execLnestElementFault_inv hs
  | l1LineEviction => exact execL1LineEviction_inv hs
  | l2LineEviction => exact execL2LineEviction_inv hs
  | promotionWritebackAck => exact execPromotionWritebackAck_inv hs
  | accumulateArrival => exact execAccumulateArrival_inv hs
  | accumulateWindowStart => exact execAccumulateWindowStart_inv hs
  | refusalReply => exact execRefusalReply_inv hs
  | drainComplete => exact execDrainComplete_inv hs
  | watchdogExpiry => exact execWatchdogExpiry_inv hs
  | aLatchIdleRelease => exact execALatchIdleRelease_inv hs
  | drainWindowEnd => exact execDrainWindowEnd_inv hs
  | saveComplete => exact execSaveComplete_inv hs
  | saveDeadline => exact execSaveDeadline_inv hs
  | linkPeerDetected => exact execLinkPeerDetected_inv hs
  | linkTrained => exact execLinkTrained_inv hs
  | linkTrainingTimeout => exact execLinkTrainingTimeout_inv hs
  | linkFlitError => exact execLinkFlitError_inv hs
  | linkLoss => exact execLinkLoss_inv hs
  | remoteRequest => exact execRemoteRequest_inv hs
  | remoteReply => exact execRemoteReply_inv hs
  | remoteRequestTimeout => exact execRemoteRequestTimeout_inv hs
  | remoteWaitCancel => exact execRemoteWaitCancel_inv hs
  | remoteCancelAck => exact execRemoteCancelAck_inv hs
  | replayArrivalTimeout => exact execReplayArrivalTimeout_inv hs
  | perContextUncorrectableError => exact execPerContextUncorrectableError_inv hs
  | translationCacheEviction => exact execTranslationCacheEviction_inv hs
  | sectorForwarding => exact execSectorForwarding_inv hs

/-! ### Due events -/

theorem Due.perform_inv {d} (hs : s.Inv) : (Due.perform s d).Inv := by
  cases d with
  | watchdog => exact execWatchdogExpiry_inv hs
  | l1Line => exact execL1LineEviction_inv hs
  | l2Line => exact execL2LineEviction_inv hs
  | join => exact State.joinTest_inv hs
  | fuse => exact execFuseTimeout_inv hs
  | width => exact execWidthFault_inv hs
  | split => exact execMissSplit_inv hs
  | backoff => exact execYieldBackoffExpiry_inv hs
  | notify => exact execCounterWatchNotify_inv hs
  | wait => exact execCounterWaitTimeout_inv hs
  | cancel => exact execRemoteWaitCancel_inv hs
  | drain => exact execDrainWindowEnd_inv hs
  | deadline => exact execSaveDeadline_inv hs
  | retry => exact execRemoteWaitRetry_inv hs
  | request => exact execRemoteRequestTimeout_inv hs
  | link => exact execLinkTrainingTimeout_inv hs
  | latch => exact execALatchIdleRelease_inv hs
  | replay => exact execReplayArrivalTimeout_inv hs

theorem State.cycle_inv (hs : s.Inv) : s.cycle.Inv :=
  State.passTime_inv (State.relog_inv (State.orderWaits_inv (State.restockAll_inv
    (State.performQueues_inv hs))))

/-! ### One step -/

theorem Issued.run_inv {x : Issued} (hx : x.Inv) : Out.Inv x.run := by
  cases x with
  | state s => exact hx
  | instr i s => exact exec_inv hx

theorem performWalk_inv {r} (hs : s.Inv) : Out.Inv (performWalk r s) := by
  cases r with
  | ok i => exact exec_inv hs
  | error e => exact badWalkWord_inv hs

theorem WalkNext.run_inv {x : WalkNext} (hx : x.Inv) : Out.Inv x.run := by
  cases x with
  | state s => exact hx
  | word w s => exact performWalk_inv hx

theorem State.move_inv {a} (hs : s.Inv) : Out.Inv (s.move a) := by
  cases a with
  | quarter core q => exact Issued.run_inv (State.issueQuarter_inv hs)
  | walk core id => exact WalkNext.run_inv (State.nextWalk_inv hs)
  | event i => exact exec_inv hs.update
  | hostRead p bar off => exact State.hostRegisterRead_inv hs
  | hostAtomic p => exact State.hostAtomic_inv hs
  | hostMask p v m => exact State.hostMask_inv hs

/-- A new agenda whose agents are all among those of the old one. -/
theorem State.Inv.setAgenda (h : s.Inv) {l : List Slot} (hl : ∀ x ∈ l, ∃ y ∈ s.agenda, x.agent = y.agent) :
    ({ s with agenda := l } : State).Inv :=
  { h with
    agenda := fun x hx i e => by
      obtain ⟨y, hy, ha⟩ := hl x hx
      exact h.agenda y hy i (ha ▸ e) }

theorem step_inv (hs : s.Inv) : Out.Inv (step s) := by
  unfold step
  split
  · exact Due.perform_inv hs.update
  · split
    · exact State.cycle_inv hs
    · next x rest hr =>
      split
      · exact State.move_inv (hs.setAgenda fun y hy => ⟨y, by rw [hr]; exact List.mem_cons_of_mem _ hy, rfl⟩)
      · refine State.cycle_inv (hs.setAgenda fun y hy => ?_)
        rw [hr]
        rcases List.mem_cons.mp hy with rfl | hy
        · exact ⟨x, List.mem_cons_self, rfl⟩
        · exact ⟨y, List.mem_cons_of_mem _ hy, rfl⟩

/-- Settles O58: each part of the invariant is read off the reset state. -/
theorem resetInv : Obligations.ResetInv := by
  unfold Obligations.ResetInv
  exact ⟨fun _ h => (nomatch h), rfl, fun _ h => (nomatch h), rfl, by decide⟩

/-- Settles O59: the answer of `step` is in the invariant, by `step_inv`. -/
theorem stepKeepsInv : Obligations.StepKeepsInv := by
  unfold Obligations.StepKeepsInv
  intro s t hs e
  have h := step_inv hs
  rwa [e] at h

end Sys2Proof.Machine
end

section
/-! SUPPORT. What an entry of the error log, a write-back and the completion of an accumulate leave as they were in the
teams and contexts. `State.still` is all that logging keeps: the teams, but for counter waits that a write releases, and
the phases of the contexts. `State.roster` is what every operation on the caches keeps: whose each team is, and its phase. -/

namespace Sys2Proof.Machine

variable {s : State}

/-- A quad but for what a counter can release (R128): one that is parked in a counter wait counts as ready. -/
def Quad.still (q : Quad) : Quad :=
  match q.wait with
  | .counter _ => { q with wait := .ready }
  | _ => q

/-- A wave but for the counter waits of its quads. -/
def Wave.still (w : Wave) : Wave := { w with quads := w.quads.map Quad.still }

/-- A team but for its counter waits. -/
def Team.still (t : Team) : Team := { t with waves := t.waves.map Wave.still }

/-- The teams but for their counter waits, and the phases of the contexts. -/
def State.still (s : State) : List Team × Vector CtxPhase 64 := (s.teams.map Team.still, s.ctxs.map Ctx.phase)

/-- The context and the phase of every team. -/
def State.roster (s : State) : List (BitVec 6 × TeamPhase) := s.teams.map fun t => (t.ctx, t.phase)

/-- The state that either answer carries. -/
def eitherState : Except State State → State
  | .ok s => s
  | .error s => s

/-- What every step of a fold keeps, the fold keeps. -/
theorem foldl_keeps {α β : Type} {view : State → β} {f : State → α → State} (hf : ∀ s a, view (f s a) = view s)
    (l : List α) (s : State) : view (l.foldl f s) = view s := by
  induction l generalizing s with
  | nil => rfl
  | cons a l ih => rw [List.foldl_cons, ih, hf]

theorem modVec_map {α β : Type} {n : Nat} {f : α → α} {g : α → β} (h : ∀ x, g (f x) = g x) (v : Vector α n) (i : Nat) :
    (modVec v i f).map g = v.map g := by
  unfold modVec
  split
  · next hi => rw [Vector.map_set, h, ← Vector.getElem_map g, Vector.set_getElem_self]
  · rfl

theorem modAt_map {α β : Type} {f : α → α} {g : α → β} (h : ∀ x, g (f x) = g x) (l : List α) (i : Nat) :
    (modAt l i f).map g = l.map g := by
  apply List.ext_getElem?
  intro k
  rw [List.getElem?_map, List.getElem?_map, modAt_getElem?]
  split
  · rw [Option.map_map]
    exact congrArg (Option.map · _) (funext h)
  · rfl

/-! ### Logging keeps teams and phases -/

theorem State.modCtx_still {c : BitVec 6} {f : Ctx → Ctx} (h : ∀ x, (f x).phase = x.phase) :
    (s.modCtx c f).still = s.still :=
  Prod.ext rfl (modVec_map h _ _)

theorem State.modQueue_still {c q f} : (s.modQueue c q f).still = s.still := State.modCtx_still fun _ => rfl

theorem State.modSlice_still {n f} : (s.modSlice n f).still = s.still := rfl

theorem State.modCore_still {n f} : (s.modCore n f).still = s.still := rfl

theorem State.stall_still {core c i n} : (s.stall core c i n).still = s.still := rfl

theorem State.raise_still {c k} : (s.raise c k).still = s.still := by
  unfold State.raise
  split <;> rfl

theorem State.touchLine_still {line c} : (s.touchLine line c).still = s.still := by
  unfold State.touchLine
  split <;> exact State.modSlice_still

theorem State.dirtyLine_still {line c} : (s.dirtyLine line c).still = s.still := by
  unfold State.dirtyLine
  split <;> exact State.modSlice_still

theorem sendRemote_still {c window off who addr kind} :
    (sendRemote s c window off who addr kind).1.still = s.still := by
  unfold sendRemote
  dsimp only
  split <;> rfl

theorem State.touchEntry_still {c va pa} : (s.touchEntry c va pa).still = s.still := by
  unfold State.touchEntry
  split
  · exact State.touchLine_still
  · rfl
  · exact sendRemote_still
  · rfl

theorem State.touchWalk_still {c va} : (s.touchWalk c va).still = s.still := by
  unfold State.touchWalk
  split
  · exact foldl_keeps (fun _ _ => State.touchEntry_still) _ _
  · rfl

theorem translate_still {core c va n} : (translate s core c va n).1.still = s.still := by
  unfold translate
  grind [State.touchWalk_still, State.stall_still, State.modCore_still]

theorem State.rawWrite_still {c pa bs} : (s.rawWrite c pa bs).still = s.still := by
  unfold State.rawWrite
  dsimp only
  split <;> rfl

/-- A counter's new value reaches counter waits alone. -/
theorem Quad.notify_still (q : Quad) (loc : CounterLoc) (old new : Word) :
    (q.notify loc old new).still = q.still := by
  unfold Quad.notify
  split
  · next w hw =>
    have hq : q.still = { q with wait := .ready } := by unfold Quad.still; rw [hw]
    split
    · split
      · exact hq.symm
      · split
        · exact hq.symm
        · rfl
    · rfl
  · rfl

theorem Team.notify_still (t : Team) (loc : CounterLoc) (old new : Word) :
    (t.notify loc old new).still = t.still := by
  unfold Team.notify
  split
  · rfl
  · have each (w : Wave) : Wave.still { w with quads := w.quads.map (·.notify loc old new) } = w.still := by
      simp only [Wave.still, List.map_map, Function.comp_def, Quad.notify_still]
    simp only [Team.still, List.map_map, Function.comp_def, each]

theorem State.notifyWaits_still {pa old new} : (s.notifyWaits pa old new).still = s.still := by
  refine Prod.ext ?_ rfl
  change (List.map _ s.teams).map Team.still = s.teams.map Team.still
  rw [List.map_map]
  refine congrArg (List.map · s.teams) (funext fun t => ?_)
  dsimp only [Function.comp]
  split
  · rfl
  · exact t.notify_still _ _ _

section
variable {lg : Logger} (hlg : ∀ t c e, (lg t c e).still = t.still)
include hlg

theorem State.regressIn_still {old pa source c} : (s.regressIn old lg pa source c).still = s.still := by
  unfold State.regressIn
  dsimp only
  split
  · rfl
  · rw [hlg]
    exact foldl_keeps (fun _ _ => State.modQueue_still) _ _

theorem State.changedBy_still {pa old new source} : (s.changedBy lg pa old new source).still = s.still := by
  unfold State.changedBy
  dsimp only
  split
  · exact (foldl_keeps (fun _ _ => State.regressIn_still hlg) _ _).trans State.notifyWaits_still
  · exact State.notifyWaits_still

theorem State.writeBy_still {c pa bs source} : (s.writeBy lg c pa bs source).still = s.still := by
  unfold State.writeBy
  split
  · rfl
  · refine (foldl_keeps (fun t a => ?_) _ _).trans State.rawWrite_still
    dsimp only
    split
    · rfl
    · exact State.changedBy_still hlg

end

theorem State.logLater_still (s : State) (c : BitVec 6) (e : LogEntry) : (s.logLater c e).still = s.still := rfl

theorem State.logBytes_still {c va bs} : (s.logBytes c va bs).still = s.still := by
  unfold State.logBytes
  split
  · refine foldl_keeps (fun t x => ?_) _ _
    exact State.writeBy_still State.logLater_still
  · rfl

theorem State.logAppend_still {c seg w0 w1} : (s.logAppend c seg w0 w1).still = s.still := by
  unfold State.logAppend
  dsimp only
  split
  · rw [State.logBytes_still, State.logBytes_still]
  · exact State.modCtx_still fun _ => rfl

theorem State.recordOrder_still {c pa o} : (s.recordOrder c pa o).still = s.still := by
  unfold State.recordOrder
  dsimp only
  split
  · split
    · exact State.logBytes_still
    · exact State.logAppend_still
  · rfl

theorem State.orderOne_still {c pa o} : (eitherState (s.orderOne c pa o)).still = s.still := by
  unfold State.orderOne
  split
  · rfl
  · split <;> rfl
  · exact State.modCtx_still fun _ => rfl
  · exact State.recordOrder_still

theorem State.logLost_still {c} : (s.logLost c).still = s.still := State.modCtx_still fun _ => rfl

theorem State.placeLog_still {c bs} : (eitherState (s.placeLog c bs)).still = s.still := by
  unfold State.placeLog
  dsimp only
  split
  · next pp pc _ _ =>
    have touched : (((s.touchWalk c ((s.ctx c).log ++ 0#6)).dirtyLine (lineOf pp) c).dirtyLine (lineOf pc) c).still =
        s.still := by
      rw [State.dirtyLine_still, State.dirtyLine_still, State.touchWalk_still]
    split
    · exact State.logLost_still.trans touched
    · split
      · exact State.logLost_still.trans touched
      · split
        · next h => exact (congrArg (fun x => (eitherState x).still) h).symm.trans (State.orderOne_still.trans touched)
        · next u h =>
          have placed : u.still = s.still :=
            (congrArg (fun x => (eitherState x).still) h).symm.trans (State.orderOne_still.trans touched)
          refine (State.raise_still (s := releaseOutside _ _)).trans ?_
          exact (State.writeBy_still State.logLater_still).trans ((State.writeBy_still State.logLater_still).trans placed)
  · exact State.logLost_still

/-- Logging an error (R47) leaves the teams and the phases of the contexts as they were, but for counter waits that the
add on the producer counter releases. -/
theorem State.log_still {c e} : (s.log c e).still = s.still := by
  unfold State.log
  split
  · rfl
  · have placed : (eitherState (s.placeLog c (e.bytes s.clk))).still = s.still := State.placeLog_still
    split
    · next h => exact (congrArg (fun x => (eitherState x).still) h).symm.trans placed
    · next h => exact (congrArg (fun x => (eitherState x).still) h).symm.trans placed

end Sys2Proof.Machine
end

section
/-! SUPPORT. Every operation on the caches and the home slices keeps whose each team is, and its phase
(`State.roster`): the write-back of lines, the delivery of accumulates, and what completes at a slice. -/

namespace Sys2Proof.Machine

variable {s : State}

theorem State.roster_of_still {t : State} (h : t.still = s.still) : t.roster = s.roster := by
  have e (u : State) : u.roster = u.still.1.map fun t => (t.ctx, t.phase) := by
    unfold State.roster State.still
    rw [List.map_map]
    rfl
  rw [e, e, h]

theorem State.modTeam_roster {t f} (h : ∀ x : Team, ((f x).ctx, (f x).phase) = (x.ctx, x.phase)) :
    (s.modTeam t f).roster = s.roster := modAt_map h _ _

theorem State.modQuad_roster {t w q f} : (s.modQuad t w q f).roster = s.roster := State.modTeam_roster fun _ => rfl

theorem State.wake_roster {core} : (s.wake core).roster = s.roster := List.map_map

theorem State.log_roster {c e} : (s.log c e).roster = s.roster := State.roster_of_still State.log_still

theorem translate_roster {core c va n} : (translate s core c va n).1.roster = s.roster :=
  State.roster_of_still translate_still

theorem State.homeWrite_still {c pa bs source} : (s.homeWrite c pa bs source).still = s.still :=
  State.writeBy_still fun _ _ _ => State.log_still

theorem State.homeWrite_roster {c pa bs source} : (s.homeWrite c pa bs source).roster = s.roster :=
  State.roster_of_still State.homeWrite_still

theorem State.recordOrder_roster {c pa o} : (s.recordOrder c pa o).roster = s.roster :=
  State.roster_of_still State.recordOrder_still

/-! ### Lines -/

theorem State.deferDrain_roster {who addr} : (s.deferDrain who addr).roster = s.roster :=
  foldl_keeps (fun _ _ => State.modQuad_roster) _ _

theorem State.logFor_roster {c who code source addr} : (s.logFor c who code source addr).roster = s.roster := by
  unfold State.logFor
  split <;> exact State.log_roster

theorem State.homeHeld_roster {h line} : (s.homeHeld h line).roster = s.roster := by
  unfold State.homeHeld
  dsimp only
  refine (foldl_keeps (fun t i => ?_) _ _).trans
    (foldl_keeps (view := State.roster) (fun _ _ => State.roster_of_still State.rawWrite_still) _ _)
  split
  · rfl
  · exact State.roster_of_still (State.changedBy_still fun _ _ _ => State.log_still)

theorem writeBack_roster {h line} : (writeBack s h line).roster = s.roster := by
  unfold writeBack
  dsimp only
  split
  · exact State.deferDrain_roster.trans State.log_roster
  · exact State.homeHeld_roster

theorem writeBackOne_roster {core h} : (writeBackOne s core h).roster = s.roster := by
  unfold writeBackOne
  split
  · exact writeBack_roster
  · rfl

theorem writeBackBound_roster {core c} : (writeBackBound s core c).roster = s.roster :=
  foldl_keeps (fun _ _ => writeBackOne_roster) _ _

theorem writeBackEvery_roster {core} : (writeBackEvery s core).roster = s.roster :=
  foldl_keeps (fun _ _ => writeBackOne_roster) _ _

theorem recordRelease_roster {core line} : (recordRelease s core line).roster = s.roster := by
  unfold recordRelease
  dsimp only
  split
  · rfl
  · split
    · rfl
    · split
      · rfl
      · exact foldl_keeps (view := State.roster) (fun _ _ => writeBackEvery_roster) _ _

theorem State.sectorWrite_roster {core c who w off va bs} : (s.sectorWrite core c who w off va bs).roster = s.roster := by
  have sent : (sendRemote s c w off (writeWho core who) va (.write bs)).1.roster = s.roster :=
    State.roster_of_still sendRemote_still
  unfold State.sectorWrite
  split
  · next h => rwa [h] at sent
  · next h =>
    rw [h] at sent
    exact State.deferDrain_roster.trans (State.logFor_roster.trans sent)

theorem State.leaveHeld_roster {core h pa} : (s.leaveHeld core h pa).roster = s.roster := by
  refine foldl_keeps (view := State.roster) (fun t x => ?_) _ _
  dsimp only
  split
  · rfl
  · exact State.sectorWrite_roster
  · rfl
  · rfl

theorem bindLine_roster {core h} : (bindLine s core h).1.roster = s.roster := by
  have found : (translate s core h.ctx (BitVec.ofNat 64 (h.line * 128)) .store).1.roster = s.roster := translate_roster
  unfold bindLine
  split
  · next e =>
    rw [e] at found
    split
    · exact found
    · exact State.leaveHeld_roster.trans found
  · next e => rwa [e] at found

theorem evictHeld_roster {core h} : (evictHeld s core h).roster = s.roster := by
  have bound : (bindLine s core h).1.roster = s.roster := bindLine_roster
  unfold evictHeld
  split
  · exact writeBackOne_roster
  · split
    · next e =>
      rw [e] at bound
      split
      · exact writeBackOne_roster.trans bound
      · exact bound
    · next e => rwa [e] at bound

theorem flushLine_roster {core c va} : (flushLine s core c va).roster = s.roster := by
  unfold flushLine
  dsimp only
  split
  · split
    · rfl
    · exact evictHeld_roster
  · rfl

theorem holdBytes_roster {core c va bs who src} : (holdBytes s core c va bs who src).roster = s.roster := by
  unfold holdBytes
  dsimp only
  split
  · exact writeBackOne_roster
  · rfl

theorem writePiece_roster {core c who src p bs} : (writePiece s core c who src p bs).roster = s.roster := by
  unfold writePiece
  dsimp only
  split
  · split
    · refine foldl_keeps (fun t x => ?_) _ _
      split
      · exact State.deferDrain_roster.trans (State.logFor_roster.trans flushLine_roster)
      · exact State.homeWrite_roster.trans flushLine_roster
    · exact foldl_keeps (fun _ _ => holdBytes_roster) _ _
  · rfl
  · exact State.sectorWrite_roster
  · rfl

/-! ### Accumulates -/

theorem State.sendTo_roster {a e} : (s.sendTo a e).roster = s.roster := by
  unfold State.sendTo
  dsimp only
  split
  · rfl
  · exact writePiece_roster
  · next w off _ =>
    have sent : (sendRemote s a.ctx w off (.store a.team a.wave a.quad) a.addr
        (.accum a.op a.ty a.value a.count)).1.roster = s.roster := State.roster_of_still sendRemote_still
    split
    · next h => rwa [h] at sent
    · next h =>
      rw [h] at sent
      exact State.deferDrain_roster.trans (State.logFor_roster.trans sent)
  · rfl

theorem State.sendOverflow_roster {id} : (s.sendOverflow id).roster = s.roster := by
  unfold State.sendOverflow
  split
  · rfl
  · next a _ =>
    have found : (forcedPlace s a.core a.ctx a.addr).1.roster = s.roster := translate_roster
    split
    · split
      · next h =>
        rw [h] at found
        exact State.sendTo_roster.trans found
      · next h => rwa [h] at found
    · rfl

theorem State.clearTile_roster {t i} : (s.clearTile t i).roster = s.roster := State.modTeam_roster fun _ => rfl

theorem State.sendTile_roster {t drain i} : (s.sendTile t drain i).roster = s.roster := by
  unfold State.sendTile
  dsimp only
  split
  · rfl
  · split
    · exact State.clearTile_roster
    · next r _ =>
      have found : (forcedPlace s (s.team t).core (s.team t).ctx r.addr).1.roster = s.roster := translate_roster
      split
      · rfl
      · split
        · next h => rwa [h] at found
        · next h =>
          rw [h] at found
          exact State.sendTo_roster.trans (State.clearTile_roster.trans found)

theorem State.pumpDrain_roster {t drain} : (s.pumpDrain t drain).roster = s.roster :=
  (foldl_keeps (fun _ _ => State.sendTile_roster) _ _).trans (foldl_keeps (fun _ _ => State.sendOverflow_roster) _ _)

theorem State.pumpCore_roster {core} : (s.pumpCore core).roster = s.roster := by
  refine foldl_keeps (fun t x => ?_) _ _
  dsimp only
  split
  · split
    · exact State.pumpDrain_roster
    · rfl
  · rfl

theorem State.dropAcc_roster {a} : (s.dropAcc a).roster = s.roster := by
  unfold State.dropAcc
  rw [State.pumpCore_roster, State.pumpCore_roster, State.wake_roster]
  rfl

theorem State.performAcc_roster {a} : (s.performAcc a).roster = s.roster := by
  unfold State.performAcc
  dsimp only
  split
  · rw [State.dropAcc_roster]
    exact State.modQuad_roster.trans State.logFor_roster
  · rw [State.dropAcc_roster]
    split
    · rw [recordRelease_roster]
      exact State.homeWrite_roster.trans State.recordOrder_roster
    · exact State.homeWrite_roster.trans State.recordOrder_roster

theorem State.finishQueued_roster {c} : (s.finishQueued c).roster = s.roster :=
  foldl_keeps (fun _ _ => State.performAcc_roster) _ _

theorem State.wakeAll_roster : s.wakeAll.roster = s.roster := foldl_keeps (fun _ _ => State.wake_roster) _ _

end Sys2Proof.Machine
end

section
/-! Taking a trap (O7; R411, R415, R416, R491): what TRAPINFO gives back, what an unhandled trap adds to the state in
which its quads have parked, and the two ways of `State.trap`. -/

namespace Sys2Proof.Machine

variable {s : State} {g : GangRef}

/-! ### TRAPINFO -/

theorem TrapCause.code_lt (c : TrapCause) : c.code < 64 := by
  cases c with
  | trans c => cases c <;> decide
  | nest c => cases c <;> decide
  | _ => decide

/-- TRAPINFO [59:54] is the cause (R411). -/
theorem slice_trapInfo (lanes : BitVec 4) (c : TrapCause) (addr : Word) : slice (trapInfo lanes c addr) 59 54 = c.code := by
  have field : (trapInfo lanes c addr).extractLsb' 54 6 = BitVec.ofNat 6 c.code :=
    (BitVec.extractLsb'_append_eq_of_le (by decide)).trans
      BitVec.extractLsb'_append_eq_right
  have value := congrArg BitVec.toNat field
  rw [BitVec.extractLsb'_toNat, BitVec.toNat_ofNat, Nat.mod_eq_of_lt c.code_lt] at value
  exact value

/-- TRAPINFO [53:0] is the addr field (R411). -/
theorem trapInfo_addr (lanes : BitVec 4) (c : TrapCause) (addr : Word) :
    (trapInfo lanes c addr).extractLsb' 0 54 = c.addrField addr := BitVec.extractLsb'_append_eq_right

/-- The address that code 0x0001 carries (R491), by the trap's own cause and address. -/
theorem trapLogAddr_trapInfo (lanes : BitVec 4) (c : TrapCause) (addr : Word) :
    trapLogAddr (trapInfo lanes c addr) =
      if c.code = 0x01 ∨ c.code = 0x11 then zext (c.addrField addr)
      else if c.code = 0x06 ∨ c.code = 0x07 ∨ c.code = 0x08 then 0
      else (c.addrField addr ++ 0#3).signExtend 64 := by
  unfold trapLogAddr
  rw [slice_trapInfo, trapInfo_addr]

theorem zext_low54 (a : Word) : zext (a.extractLsb' 0 54) = a &&& BitVec.ofNat 64 (2 ^ 54 - 1) := by
  apply BitVec.eq_of_toNat_eq
  rw [BitVec.toNat_setWidth, BitVec.extractLsb'_toNat, BitVec.toNat_and, BitVec.toNat_ofNat,
    Nat.mod_eq_of_lt (a := 2 ^ 54 - 1) (by decide), Nat.and_two_pow_sub_one_eq_mod]
  omega

/-! ### The quads of a gang -/

theorem mapGang_effect (f : Nat → Quad → Quad) :
    Effect s (s.mapGang g f) g (s.waveOf g).wdog (s.waveOf g).fusest (s.waveOf g).dog f where
  toOutside := outside_mapGang s g f
  dog _ := by rw [s.waveOf_mapGang]
  hits _ := by rw [s.waveOf_mapGang]
  fuse _ := by rw [s.waveOf_mapGang]
  exited n hx := by rw [s.quadOf_mapGang, hx]; simp
  each n hn hl hx := by rw [s.quadOf_mapGang, if_pos ⟨hn, hl, hx⟩]

/-- The division of a gang adds nothing to an effect. -/
theorem Effect.regang {t : State} {dog fuse hits f} (h : Effect s t g dog fuse hits f) :
    Effect s (t.regang g) g dog fuse hits f where
  toOutside := h.toOutside.trans (outside_regangBy t g _)
  dog hw := by unfold State.regang; rw [State.waveOf_regangBy]; exact h.dog hw
  hits hw := by unfold State.regang; rw [State.waveOf_regangBy]; exact h.hits hw
  fuse hw := by unfold State.regang; rw [State.waveOf_regangBy]; exact h.fuse hw
  exited n hx := by unfold State.regang; rw [State.quadOf_regangBy]; exact h.exited n hx
  each n hn hl hx := by unfold State.regang; rw [State.quadOf_regangBy]; exact h.each n hn hl hx

theorem firstLive_mapGang (f : Nat → Quad → Quad) (hf : ∀ n q, (f n q).exited = q.exited) :
    (s.mapGang g f).firstLive g = s.firstLive g := by
  have e (n : Nat) : ((s.mapGang g f).quadOf g n).exited = (s.quadOf g n).exited := by
    rw [s.quadOf_mapGang]
    split
    · exact hf _ _
    · rfl
  unfold State.firstLive
  simp only [e]

theorem firstLive_mem : s.firstLive g ∈ g.quads := by
  unfold State.firstLive
  cases h : g.quads.find? fun n => !(s.quadOf g n).exited with
  | some n => exact List.mem_of_find?_eq_some h
  | none => exact (g.mem_quads _).2 ⟨Nat.le_refl _, Nat.lt_add_of_pos_right (Nat.two_pow_pos _)⟩

theorem leader_mapGang (f : Nat → Quad → Quad) (hf : ∀ n q, (f n q).exited = q.exited)
    (hx : (s.leader g).exited = false) (hl : s.firstLive g < (s.waveOf g).quads.length) :
    (s.mapGang g f).leader g = f (s.firstLive g) (s.leader g) := by
  unfold State.leader
  rw [firstLive_mapGang f hf, s.quadOf_mapGang, if_pos ⟨firstLive_mem, hl, hx⟩]

/-! ### What an unhandled trap adds -/

theorem State.team_still (s : State) (t : Nat) : (s.team t).still = s.still.1.getD t Team.blank := by
  simp only [State.team, State.still, List.getD_eq_getElem?_getD, List.getElem?_map]
  cases s.teams[t]? <;> rfl

theorem Team.wave_still (x : Team) (w : Nat) : (x.wave w).still = x.still.waves.getD w Wave.blank := by
  simp only [Team.wave, Team.still, List.getD_eq_getElem?_getD, List.getElem?_map]
  cases x.waves[w]? <;> rfl

theorem Wave.quad_still (x : Wave) (n : Nat) : (x.quad n).still = x.still.quads.getD n Quad.start := by
  simp only [Wave.quad, Wave.still, List.getD_eq_getElem?_getD, List.getElem?_map]
  cases x.quads[n]? <;> rfl

section
variable {t : State} (h : t.still = s.still)
include h

theorem teamOf_of_still : (t.teamOf g).still = (s.teamOf g).still := by
  unfold State.teamOf
  rw [State.team_still, State.team_still, h]

theorem ctxOf_of_still : t.ctxOf g = s.ctxOf g := by
  have e := congrArg Team.ctx (teamOf_of_still (g := g) h)
  exact e

theorem waveOf_of_still : (t.waveOf g).still = (s.waveOf g).still := by
  have e := teamOf_of_still (g := g) h
  unfold State.waveOf State.wave
  rw [Team.wave_still, Team.wave_still]
  exact congrArg (fun x : Team => x.waves.getD g.w Wave.blank) e

theorem phase_of_still (c : BitVec 6) : (t.ctx c).phase = (s.ctx c).phase := by
  have e := congrArg (fun x : List Team × Vector CtxPhase 64 => x.2[c.toNat]'c.isLt) h
  unfold State.ctx
  simpa [State.still] using e

/-- A quad that is parked after an unhandled trap is no counter wait: nothing that keeps the still state changes it. -/
theorem quadOf_of_still {n : Nat} (hq : (s.quadOf g n).wait = .unhandled) : t.quadOf g n = s.quadOf g n := by
  have e : (t.quadOf g n).still = (s.quadOf g n).still := by
    have w := waveOf_of_still (g := g) h
    unfold State.quadOf State.quad
    rw [Wave.quad_still, Wave.quad_still]
    exact congrArg (fun x : Wave => x.quads.getD n Quad.start) w
  rw [show (s.quadOf g n).still = s.quadOf g n by unfold Quad.still; rw [hq]] at e
  unfold Quad.still at e
  split at e
  · rw [← e] at hq
    exact absurd hq (by simp)
  · exact e

end

theorem State.ctx_modCtx (c d : BitVec 6) (f : Ctx → Ctx) :
    (s.modCtx c f).ctx d = if d = c then f (s.ctx c) else s.ctx d := by
  have e := modVec_getElem? s.ctxs c.toNat d.toNat f
  rw [Vector.getElem?_eq_getElem d.isLt, Vector.getElem?_eq_getElem d.isLt] at e
  unfold State.modCtx State.ctx
  by_cases h : d = c
  · subst h
    simpa using e
  · have : d.toNat ≠ c.toNat := fun k => h (BitVec.eq_of_toNat_eq k)
    simpa [h, this] using e

@[simp] theorem State.raise_ctxs (c : BitVec 6) (k : Nat) : (s.raise c k).ctxs = s.ctxs := by
  unfold State.raise; split <;> rfl

@[simp] theorem State.raise_teams (c : BitVec 6) (k : Nat) : (s.raise c k).teams = s.teams := by
  unfold State.raise; split <;> rfl

@[simp] theorem State.raise_accs (c : BitVec 6) (k : Nat) : (s.raise c k).accs = s.accs := by
  unfold State.raise; split <;> rfl

@[simp] theorem State.raise_requests (c : BitVec 6) (k : Nat) : (s.raise c k).requests = s.requests := by
  unfold State.raise; split <;> rfl

@[simp] theorem State.raise_cores (c : BitVec 6) (k : Nat) : (s.raise c k).cores = s.cores := by
  unfold State.raise; split <;> rfl

theorem State.ctx_raise (c d : BitVec 6) (k : Nat) : (s.raise c k).ctx d = s.ctx d := by
  unfold State.ctx
  simp only [State.raise_ctxs]

theorem Launch.fault_eq (l : Launch) :
    l.fault = if l.state = .dispatching ∨ l.state = .running ∨ l.state = .quiescing then
      { l with state := .faulted } else l := by
  unfold Launch.fault
  cases h : l.state <;> simp

theorem ctxFault_running {c : BitVec 6} (h : (s.ctx c).phase = .running) :
    s.ctxFault c = State.raise { s.modCtx c (fun y => { y with phase := .faulted }) with
      launches := s.launches.map fun l => if l.ctx = c then l.fault else l } c 2 := by
  unfold State.ctxFault
  rw [h]
  rfl

theorem ctxFault_quiescing {c : BitVec 6} (h : (s.ctx c).phase = .quiescing) :
    s.ctxFault c = (s.modCtx c fun y => { y with faultPending := true }).raise c 2 := by
  unfold State.ctxFault
  rw [h]

theorem ctxFault_faulted {c : BitVec 6} (h : (s.ctx c).phase = .faulted) : s.ctxFault c = s.raise c 2 := by
  unfold State.ctxFault
  rw [h]

theorem State.ctxFault_teams (c : BitVec 6) : (s.ctxFault c).teams = s.teams := by
  unfold State.ctxFault
  split
  · exact State.raise_teams c 2
  · exact State.raise_teams c 2
  · exact State.raise_teams c 2
  all_goals rfl

theorem quadOf_congr {t : State} (h : t.teams = s.teams) (n : Nat) : t.quadOf g n = s.quadOf g n := by
  unfold State.quadOf State.quad State.wave State.team
  rw [h]

theorem waveOf_congr {t : State} (h : t.teams = s.teams) : t.waveOf g = s.waveOf g := by
  unfold State.waveOf State.wave State.team
  rw [h]

theorem stopped_quadOf (n : Nat) : (s.modWave g.t g.w fun x => { x with stopped := true }).quadOf g n = s.quadOf g n :=
  s.quadOf_modWave g n _ fun _ => rfl

theorem ctxOf_modWave (f : Wave → Wave) : (s.modWave g.t g.w f).ctxOf g = s.ctxOf g := by
  unfold State.ctxOf
  rw [State.team_modWave, if_pos rfl]
  rfl

theorem stopsUnhandled_stopped {src : TrapSrc} {cause : Nat} {addr : Word} (h : g.w < (s.teamOf g).waves.length) :
    ((s.stopsUnhandled g src cause addr).waveOf g).stopped = true := by
  unfold State.stopsUnhandled
  have e : ((s.modWave g.t g.w fun x => { x with stopped := true }).waveOf g).stopped = true := by
    rw [State.waveOf_modWave s g _ h]
  rw [waveOf_congr (State.ctxFault_teams _)]
  exact (congrArg Wave.stopped (waveOf_of_still State.log_still)).trans e

theorem stopsUnhandled_quadOf {src : TrapSrc} {cause : Nat} {addr : Word} {n : Nat}
    (h : (s.quadOf g n).wait = .unhandled) : (s.stopsUnhandled g src cause addr).quadOf g n = s.quadOf g n := by
  have e := stopped_quadOf (s := s) (g := g) n
  unfold State.stopsUnhandled
  rw [← e] at h ⊢
  exact (quadOf_congr (State.ctxFault_teams _) n).trans (quadOf_of_still State.log_still h)

/-- The phase that an unhandled trap leaves its context in is the one that `State.ctxFault` gives (R34). -/
theorem stopsUnhandled_phase {src : TrapSrc} {cause : Nat} {addr : Word} :
    ((s.ctx (s.ctxOf g)).phase = .running →
      ((s.stopsUnhandled g src cause addr).ctx (s.ctxOf g)).phase = .faulted) ∧
    ((s.ctx (s.ctxOf g)).phase = .quiescing →
      ((s.stopsUnhandled g src cause addr).ctx (s.ctxOf g)).phase = .quiescing) := by
  have logged (b : BitVec 6) (e : LogEntry) :
      (((s.modWave g.t g.w fun x => { x with stopped := true }).log b e).ctx (s.ctxOf g)).phase =
        (s.ctx (s.ctxOf g)).phase := phase_of_still State.log_still _
  unfold State.stopsUnhandled
  constructor <;> intro h
  · rw [ctxFault_running ((logged _ _).trans h), State.ctx_raise]
    change ((State.modCtx _ _ _).ctx _).phase = _
    rw [State.ctx_modCtx, if_pos rfl]
  · rw [ctxFault_quiescing ((logged _ _).trans h), State.ctx_raise, State.ctx_modCtx, if_pos rfl]
    exact (logged _ _).trans h

/-! ### The two ways of a trap -/

/-- R416 in terms of `State.stopsUnhandled`: the quads park, and the rest is added. -/
theorem unhandled_eq (src : TrapSrc) : s.unhandled g src =
    (s.mapGang g fun _ q => { q with wait := .unhandled }).stopsUnhandled g src (slice (s.leader g).trapinfo 59 54)
      (trapLogAddr (s.leader g).trapinfo) := by
  unfold State.unhandled State.stopsUnhandled
  dsimp only
  rw [ctxOf_of_still State.log_still, ctxOf_modWave, s.waveOf_mapGang]
  have own : ((State.modWave (s.mapGang g fun _ q => { q with wait := .unhandled }) g.t g.w
      fun x => { x with stopped := true }).teamOf g).gridid =
      ((s.mapGang g fun _ q => { q with wait := .unhandled }).teamOf g).gridid := by
    unfold State.teamOf
    rw [State.team_modWave, if_pos rfl]
    rfl
  rw [own]

/-- A quad that has recorded an unhandled trap and parked. -/
def Quad.trapPark (q : Quad) (lanes : BitVec 4) (cause : TrapCause) (addr : Word) (src : TrapSrc) : Quad :=
  { q.trapSave lanes cause addr src with wait := .unhandled }

variable {cause : TrapCause} {addr : Word} {lanes : Nat → BitVec 4} {src : TrapSrc}

theorem trap_handled (hv : (s.teamOf g).kernel.trapvec ≠ 0) (hh : ∀ n ∈ g.quads, (s.quadOf g n).inHandler = false) :
    s.trap g cause addr lanes src = (s.mapGang g fun n q =>
      (q.trapSave (lanes n) cause addr src).trapEnter (s.teamOf g).kernel.trapvec).regang g := by
  have calm : (g.quads.any fun n => (s.quadOf g n).inHandler) = false := List.any_eq_false.2 fun n hn => by simp [hh n hn]
  unfold State.trap
  dsimp only
  rw [calm, if_neg (by simpa using hv),
    mapGang_mapGang s g (fun n q => q.trapSave (lanes n) cause addr src) _ fun _ _ => rfl]

theorem trap_unhandled (h : (s.teamOf g).kernel.trapvec = 0 ∨ ∃ n ∈ g.quads, (s.quadOf g n).inHandler = true) :
    ∃ code named, s.trap g cause addr lanes src =
      ((s.mapGang g fun n q => q.trapPark (lanes n) cause addr src).stopsUnhandled g src code named).regang g ∧
      ((s.leader g).exited = false → s.firstLive g < (s.waveOf g).quads.length →
        code = cause.code ∧ ∃ l, named = trapLogAddr (trapInfo l cause addr)) := by
  have taken : (decide ((s.teamOf g).kernel.trapvec = 0) || g.quads.any fun n => (s.quadOf g n).inHandler) = true := by
    simpa using h
  let u := s.mapGang g fun n q => q.trapSave (lanes n) cause addr src
  refine ⟨slice (u.leader g).trapinfo 59 54, trapLogAddr (u.leader g).trapinfo, ?_, fun hx hl => ?_⟩
  · unfold State.trap
    dsimp only
    rw [if_pos taken, unhandled_eq,
      mapGang_mapGang s g (fun n q => q.trapSave (lanes n) cause addr src) _ fun _ _ => rfl]
    rfl
  · have e := leader_mapGang (fun n q => q.trapSave (lanes n) cause addr src) (fun _ _ => rfl) hx hl
    dsimp only [u]
    rw [e]
    exact ⟨slice_trapInfo _ _ _, _, rfl⟩

/-- The address field of code 0x0001 (R491), cause by cause. -/
theorem trapLogAddr_eq (l : BitVec 4) (cause : TrapCause) (addr : Word) :
    trapLogAddr (trapInfo l cause addr) =
      match cause with
      | .software | .sparseMeta => addr &&& BitVec.ofNat 64 (2 ^ 54 - 1)
      | .width | .fuseTimeout | .watchdog => 0
      | _ => (addr.extractLsb' 3 54 ++ 0#3).signExtend 64 := by
  rw [trapLogAddr_trapInfo]
  cases cause with
  | software => exact zext_low54 addr
  | sparseMeta => exact zext_low54 addr
  | trans c => cases c <;> rfl
  | nest c => cases c <;> rfl
  | _ => rfl

theorem Outside.ctxOf {s t : State} {g : GangRef} (h : Outside s t g) : t.ctxOf g = s.ctxOf g := by
  have e := congrArg Team.ctx h.own
  exact e

theorem Outside.ctx {s t : State} {g : GangRef} (h : Outside s t g) (c : BitVec 6) : t.ctx c = s.ctx c := by
  rw [h.device]
  rfl

/-- Settles O7: a handled trap changes the gang's quads alone (`trap_handled`); an unhandled one parks them and adds what
`State.stopsUnhandled` says (`trap_unhandled`), whose log entry no parked quad, no wave's stop and no context's phase
depends on (`State.log_still`). -/
theorem trapEntry : Obligations.TrapEntry := by
  unfold Obligations.TrapEntry
  refine ⟨fun s g cause addr lanes src => ⟨fun hv hh => ?_, fun hw h => ?_⟩,
    fun v c => ⟨fun h => ?_, ctxFault_quiescing, ctxFault_faulted⟩⟩
  · rw [trap_handled hv hh]
    exact (mapGang_effect _).regang
  · obtain ⟨code, named, e, hnamed⟩ := trap_unhandled (cause := cause) (addr := addr) (lanes := lanes) (src := src) h
    let v := s.mapGang g fun n q => q.trapPark (lanes n) cause addr src
    have parked : Effect s v g (s.waveOf g).wdog (s.waveOf g).fusest (s.waveOf g).dog fun n q =>
        q.trapPark (lanes n) cause addr src := mapGang_effect _
    have hctx : v.ctxOf g = s.ctxOf g := parked.ctxOf
    dsimp only
    rw [e]
    refine ⟨fun hx hl => ?_, ?_, fun n hn hl hx => ?_, ?_⟩
    · obtain ⟨rfl, l, rfl⟩ := hnamed hx hl
      exact ⟨v, parked,
        congrArg (fun a => (v.stopsUnhandled g src cause.code a).regang g) (trapLogAddr_eq l cause addr)⟩
    · unfold State.regang
      rw [State.waveOf_regangBy]
      exact stopsUnhandled_stopped (parked.waves ▸ hw)
    · have q : v.quadOf g n = (s.quadOf g n).trapPark (lanes n) cause addr src := parked.each n hn hl hx
      have kept : ((v.stopsUnhandled g src code named).regang g).quadOf g n = v.quadOf g n := by
        unfold State.regang
        rw [State.quadOf_regangBy, stopsUnhandled_quadOf (by rw [q]; rfl)]
      rw [kept, q]
      exact ⟨rfl, rfl, rfl, rfl, rfl, rfl, rfl, rfl⟩
    · have phases := stopsUnhandled_phase (s := v) (g := g) (src := src) (cause := code) (addr := named)
      rw [hctx] at phases
      unfold State.regang
      rw [(outside_regangBy _ g _).ctx]
      exact phases
  · rw [ctxFault_running h]
    have e (l : Launch) : (if l.ctx = c then l.fault else l) =
        if l.ctx = c ∧ (l.state = .dispatching ∨ l.state = .running ∨ l.state = .quiescing) then
          { l with state := .faulted } else l := by
      rw [l.fault_eq, ite_and]
    simp only [e]

end Sys2Proof.Machine
end

section
/-! SUPPORT. The commands of a control block (R34, R36, R37, R39): who may write CTXCMD, the bind checks, and what is left
of a context that enters reset. -/

namespace Sys2Proof.Machine

variable {s : State} {p : Port} {c : BitVec 6} {k : State → State}

/-! ### Writes of CTXCMD -/

theorem blockWrite_owned {off : Nat} (hf : s.fw = .running) (ho : s.owner c = some p) : s.blockWrite p c off k = k s := by
  unfold State.blockWrite
  rw [if_neg (by simp [hf]), if_pos ho]

theorem blockWrite_foreign (hf : s.fw = .running) (ho : s.owner c ≠ some p) :
    s.blockWrite p c (blockOffset c 0) k =
      { s with tenderLog := { port := p, offset := 0x400000 + 0x1000 * c.toNat } :: s.tenderLog } := by
  unfold State.blockWrite
  rw [if_neg (by simp [hf]), if_neg ho]
  rfl

theorem command_foreign (hf : s.fw = .running) (ho : s.owner c ≠ some p) :
    s.command p c k = { s with tenderLog := { port := p, offset := 0x400000 + 0x1000 * c.toNat } :: s.tenderLog } :=
  blockWrite_foreign hf ho

theorem command_busy (hf : s.fw = .running) (ho : s.owner c = some p) (hb : (s.ctx c).busy = true) :
    s.command p c k = s.setResult c 1 := by
  unfold State.command
  rw [blockWrite_owned hf ho, if_pos hb]

theorem command_idle (hf : s.fw = .running) (ho : s.owner c = some p) (hb : (s.ctx c).busy = false) :
    s.command p c k = k s := by
  unfold State.command
  rw [blockWrite_owned hf ho, if_neg (by simp [hb])]

/-! ### Bind -/

theorem Ctx.bindable_iff (x : Ctx) : x.bindable = true ↔
    x.tag ≠ 0 ∧ x.ways ≠ 0 ∧ x.acc ≠ 0 ∧ x.winLo ≤ x.winHi ∧ (x.winHi.toNat + 1) * 65536 ≤ Config.withheld ∧
      x.winLo ≤ x.root ∧ x.root ≤ x.winHi ∧ canonical (x.log ++ 0#6) = true := by
  unfold Ctx.bindable
  simp only [Bool.and_eq_true, bne_iff_ne, decide_eq_true_eq, and_assoc]

theorem mem_allCtxs (d : BitVec 6) : d ∈ allCtxs := by
  unfold allCtxs upTo
  exact List.mem_map.2 ⟨d.toNat, List.mem_range.2 d.isLt, BitVec.ofNat_toNat 6 d ▸ by simp⟩

theorem windowTaken_iff : s.windowTaken c = true ↔
    ∃ d, d ≠ c ∧ (s.ctx d).counts = true ∧ (s.ctx d).tag ≠ (s.ctx c).tag ∧ (s.ctx d).winLo ≤ (s.ctx c).winHi ∧
      (s.ctx c).winLo ≤ (s.ctx d).winHi := by
  unfold State.windowTaken
  simp only [List.any_eq_true, Bool.and_eq_true, bne_iff_ne, decide_eq_true_eq, and_assoc, mem_allCtxs, true_and]

theorem bindCtx_created (h : (s.ctx c).phase = .created) :
    s.bindCtx c = if (s.ctx c).bindable = true then
      if s.windowTaken c = true then s.finishCommand c 4 else s.startCommand c else s.finishCommand c 3 := by
  unfold State.bindCtx State.bindChecks
  rw [if_pos h]
  cases (s.ctx c).bindable <;> cases s.windowTaken c <;> rfl

theorem bindCtx_other (h : (s.ctx c).phase ≠ .created) : s.bindCtx c = s.refuseCommand c := if_neg h

/-! ### The other commands -/

theorem createCtx_other (h : (s.ctx c).phase ≠ .destroyed) : s.createCtx c = s.refuseCommand c := if_neg h

theorem runCtx_bound (h : (s.ctx c).phase = .bound) (hs : s.holdsSave c = false) :
    s.runCtx c = (s.startRun c).finishCommand c 0 := by
  unfold State.runCtx
  simp only [h, hs]
  rfl

/-- A run that restores the save area first: from saved, or from bound where the area holds a save (R96, R430). -/
theorem runCtx_restores (h : (s.ctx c).phase = .saved ∨ (s.ctx c).phase = .bound ∧ s.holdsSave c = true) :
    s.runCtx c = s.runRestored c := by
  unfold State.runCtx
  obtain h | ⟨h, hs⟩ := h
  · rw [h]
  · simp only [h, hs, if_true]

theorem runCtx_other (hb : (s.ctx c).phase ≠ .bound) (hs : (s.ctx c).phase ≠ .saved) :
    s.runCtx c = s.refuseCommand c := by
  unfold State.runCtx
  split
  · contradiction
  · contradiction
  all_goals rfl

theorem runRestored_none (h : readSave s c = none) : s.runRestored c = s.finishCommand c 3 := by
  unfold State.runRestored
  rw [h]

theorem runRestored_some {a : SaveArea} (h : readSave s c = some a) :
    s.runRestored c = ((s.resume c a).startRun c).finishCommand c 0 := by
  unfold State.runRestored
  rw [h]

theorem State.modCtx_modCtx (f h : Ctx → Ctx) : (s.modCtx c f).modCtx c h = s.modCtx c fun x => h (f x) := by
  unfold State.modCtx modVec
  simp [c.isLt]

theorem State.modCtx_congr {f h : Ctx → Ctx} (e : f (s.ctx c) = h (s.ctx c)) : s.modCtx c f = s.modCtx c h := by
  unfold State.modCtx modVec
  unfold State.ctx at e
  rw [dif_pos c.isLt, dif_pos c.isLt, e]

theorem quiesceCtx_running (h : (s.ctx c).phase = .running) :
    s.quiesceCtx c = ({ s with launches := s.launches.map fun l => if l.ctx = c then l.quiesce else l } : State).modCtx c
      fun y => { y with
        busy := true, result := 0, phase := .quiescing, quiesceAt := s.wall, quiesceDrain := (s.ctx c).dlDrain.toNat
        quiesceSave := max 1 (s.ctx c).dlSave.toNat, quiesceMig := (s.ctx c).migDrain, saving := false
        faultPending := false } := by
  unfold State.quiesceCtx State.startCommand
  rw [if_pos h]
  dsimp only
  rw [State.modCtx_modCtx]
  exact State.modCtx_congr rfl

theorem quiesceCtx_other (h : (s.ctx c).phase ≠ .running) : s.quiesceCtx c = s.refuseCommand c := if_neg h

theorem destroyCtx_listed (h : (s.ctx c).phase ∈ [CtxPhase.created, .bound, .saved, .faulted]) :
    s.destroyCtx c = ((s.startCommand c).resetSequence c).modCtx c fun x => { x with destroying := true } := by
  unfold State.destroyCtx
  simp only [List.mem_cons, List.not_mem_nil, or_false] at h
  obtain h | h | h | h := h <;> rw [h]

theorem destroyCtx_other (h : (s.ctx c).phase ∉ [CtxPhase.created, .bound, .saved, .faulted]) :
    s.destroyCtx c = s.refuseCommand c := by
  unfold State.destroyCtx
  cases e : (s.ctx c).phase with
  | created | bound | saved | faulted => exact absurd (by simp [e]) h
  | destroyed | running | quiescing | reset => rfl

theorem resetCtx_live (h : (s.ctx c).phase.live = true) : s.resetCtx c = (s.startCommand c).enterReset c := if_pos h

theorem resetCtx_other (h : (s.ctx c).phase.live = false) : s.resetCtx c = s.refuseCommand c := if_neg (by simp [h])

/-! ### What a reset leaves -/

/-- Nothing that a core holds is the context's. -/
structure CoreSt.FreeOf (k : CoreSt) (c : BitVec 6) : Prop where
  tlb : ∀ e ∈ k.tlb, e.ctx ≠ c
  held : ∀ h ∈ k.held, h.ctx ≠ c
  clean : ∀ h ∈ k.clean, h.ctx ≠ c
  ilines : ∀ h ∈ k.ilines, h.ctx ≠ c
  walks : ∀ w ∈ k.walks, w.ctx ≠ c
  queues : ∀ (q : BitVec 3), ∀ e ∈ k.queues[q.toNat]'q.isLt, e.ctx ≠ c

theorem CoreSt.forget_freeOf (k : CoreSt) (c : BitVec 6) (owner : Nat → BitVec 6) : (k.forget c owner).FreeOf c := by
  have kept {α : Type} (l : List α) (f : α → BitVec 6) : ∀ e ∈ l.filter fun e => f e != c, f e ≠ c := fun e he => by
    simpa using (List.mem_filter.1 he).2
  exact {
    tlb := kept _ _
    held := kept _ _
    clean := kept _ _
    ilines := kept _ _
    walks := kept _ _
    queues := fun q e he => by
      unfold CoreSt.forget at he
      rw [Vector.getElem_map] at he
      exact kept _ _ e he }

theorem CoreSt.reset_freeOf (c : BitVec 6) : CoreSt.reset.FreeOf c where
  tlb := nofun
  held := nofun
  clean := nofun
  ilines := nofun
  walks := nofun
  queues q e he := by
    unfold CoreSt.reset at he
    rw [Vector.getElem_replicate] at he
    nomatch he

/-- A core after every core has forgotten the context; one that the device does not have holds nothing. -/
theorem core_freeOf {t : State} {owner : Nat → BitVec 6} (h : t.cores = s.cores.map fun k => k.forget c owner) (n : Nat) :
    (t.core n).FreeOf c := by
  unfold State.core
  split
  · rw [h, Vector.getElem_map]
    exact CoreSt.forget_freeOf _ c owner
  · exact CoreSt.reset_freeOf c

/-- Every core writes back its bound lines of the context (R37 step 1). -/
def State.writeBackCores (s : State) (c : BitVec 6) : State := (upTo 288).foldl (fun s k => writeBackBound s k c) s

theorem State.writeBackCores_roster : (s.writeBackCores c).roster = s.roster := by
  unfold State.writeBackCores
  exact foldl_keeps (fun _ _ => writeBackBound_roster) _ _

/-- The context's teams and launches are discarded. -/
def State.discardTeams (s : State) (c : BitVec 6) : State :=
  { s with
    teams := s.teams.map fun (t : Team) => if t.ctx = c then t.discard else t
    launches := s.launches.map fun (l : Launch) => if l.ctx = c then l.discard else l }

theorem discardTeams_roster : (s.discardTeams c).roster = s.roster.map fun x =>
    if x.1 = c then (x.1, if x.2 = .ended then .ended else .discarded) else x := by
  unfold State.discardTeams State.roster
  rw [List.map_map, List.map_map]
  refine List.map_congr_left fun t _ => ?_
  dsimp only [Function.comp]
  split <;> rfl

theorem wakeAll_accs : s.wakeAll.accs = s.accs := by
  unfold State.wakeAll
  refine foldl_keeps (view := State.accs) (fun _ _ => ?_) _ _
  rfl

theorem wakeAll_requests : s.wakeAll.requests = s.requests := by
  unfold State.wakeAll
  refine foldl_keeps (view := State.requests) (fun _ _ => ?_) _ _
  rfl

theorem wakeAll_cores : s.wakeAll.cores = s.cores := by
  unfold State.wakeAll
  refine foldl_keeps (view := State.cores) (fun _ _ => ?_) _ _
  rfl

/-- What is left of the context in queues and caches goes, once its accepted accumulates have completed. -/
def State.forgetCtx (s : State) (c : BitVec 6) (owner : Nat → BitVec 6) : State :=
  { s with
    accs := s.accs.filter fun a => a.ctx != c
    requests := s.requests.filter fun r => r.ctx != c
    fetches := s.fetches.filter fun f => f.ctx != c
    remoteWaits := s.remoteWaits.filter fun h => h.req.dstCtx != c
    stalls := s.stalls.filter fun x => x.ctx != c
    cores := s.cores.map fun (k : CoreSt) => k.forget c owner
    slices := s.slices.map fun (y : Slice) => y.forget c }

/-- The control block after the reset sequence. -/
def Ctx.afterReset (x : Ctx) : Ctx :=
  { x with queues := x.queues.map Queue.disable, saving := false, faultPending := false, neverRun := false
           lnActive := 0, lnShot := [] }

theorem resetSequence_eq : ∃ owner, s.resetSequence c =
    (((((s.writeBackCores c).discardTeams c).finishQueued c).forgetCtx c owner).modCtx c Ctx.afterReset).wakeAll :=
  ⟨_, rfl⟩

/-! Control blocks and raised vectors hold no teams, accumulates, requests or cores. -/

theorem State.modCtx_roster {f : Ctx → Ctx} : (s.modCtx c f).roster = s.roster := rfl

theorem State.modCtx_core (f : Ctx → Ctx) (n : Nat) : (s.modCtx c f).core n = s.core n := rfl

theorem State.raise_roster {n : Nat} : (s.raise c n).roster = s.roster := State.roster_of_still State.raise_still

theorem State.raise_core (k n : Nat) : (s.raise c k).core n = s.core n := by
  unfold State.core
  rw [State.raise_cores]

theorem forgetCtx_roster {owner : Nat → BitVec 6} : (s.forgetCtx c owner).roster = s.roster := rfl

theorem forgetCtx_accs {owner : Nat → BitVec 6} : ∀ a ∈ (s.forgetCtx c owner).accs, a.ctx ≠ c :=
  fun a ha => by simpa using (List.mem_filter.1 ha).2

theorem forgetCtx_requests {owner : Nat → BitVec 6} : ∀ r ∈ (s.forgetCtx c owner).requests, r.ctx ≠ c :=
  fun r hr => by simpa using (List.mem_filter.1 hr).2

/-- After the reset sequence every team of the context has ended or is discarded. -/
theorem resetSequence_roster : (s.resetSequence c).roster = s.roster.map fun x =>
    if x.1 = c then (x.1, if x.2 = .ended then .ended else .discarded) else x := by
  obtain ⟨owner, e⟩ := resetSequence_eq (s := s) (c := c)
  rw [e, State.wakeAll_roster, State.modCtx_roster, forgetCtx_roster, State.finishQueued_roster, discardTeams_roster,
    State.writeBackCores_roster]

theorem resetSequence_accs : ∀ a ∈ (s.resetSequence c).accs, a.ctx ≠ c := by
  obtain ⟨owner, e⟩ := resetSequence_eq (s := s) (c := c)
  rw [e, wakeAll_accs, State.modCtx_accs]
  exact forgetCtx_accs

theorem resetSequence_requests : ∀ r ∈ (s.resetSequence c).requests, r.ctx ≠ c := by
  obtain ⟨owner, e⟩ := resetSequence_eq (s := s) (c := c)
  rw [e, wakeAll_requests, State.modCtx_requests]
  exact forgetCtx_requests

theorem resetSequence_core (n : Nat) : ((s.resetSequence c).core n).FreeOf c := by
  obtain ⟨owner, e⟩ := resetSequence_eq (s := s) (c := c)
  rw [e]
  exact core_freeOf (s := ((s.writeBackCores c).discardTeams c).finishQueued c) (owner := owner) wakeAll_cores n

/-! ### Entering reset -/

theorem enterReset_ctx : ((s.enterReset c).ctx c).phase = .reset ∧ ((s.enterReset c).ctx c).busy = true ∧
    ((s.enterReset c).ctx c).destroying = false := by
  unfold State.enterReset
  rw [State.ctx_raise, State.ctx_modCtx, if_pos rfl]
  exact ⟨rfl, rfl, rfl⟩

theorem enterReset_accs : ∀ a ∈ (s.enterReset c).accs, a.ctx ≠ c := by
  unfold State.enterReset
  rw [State.raise_accs, State.modCtx_accs]
  exact resetSequence_accs

theorem enterReset_requests : ∀ r ∈ (s.enterReset c).requests, r.ctx ≠ c := by
  unfold State.enterReset
  rw [State.raise_requests, State.modCtx_requests]
  exact resetSequence_requests

theorem enterReset_core (n : Nat) : ((s.enterReset c).core n).FreeOf c := by
  unfold State.enterReset
  rw [State.raise_core, State.modCtx_core]
  exact resetSequence_core n

/-- A team that the context had when it entered reset has ended or is discarded. -/
theorem enterReset_team {i : Nat} (hi : i < s.teams.length) (hc : (s.team i).ctx = c) :
    ((s.enterReset c).team i).phase = .ended ∨ ((s.enterReset c).team i).phase = .discarded := by
  have e : ((s.enterReset c).roster)[i]? = (s.roster.map fun x =>
      if x.1 = c then (x.1, if x.2 = .ended then .ended else .discarded) else x)[i]? := by
    unfold State.enterReset
    rw [State.raise_roster, State.modCtx_roster, resetSequence_roster]
  have own : s.teams[i] = s.team i := by simp [State.team, hi]
  simp only [State.roster, List.getElem?_map, List.getElem?_eq_getElem hi, Option.map_some, own, hc, if_true] at e
  obtain ⟨t, ht, e⟩ := Option.map_eq_some_iff.1 e
  have now : (s.enterReset c).team i = t := by simp [State.team, List.getD_eq_getElem?_getD, ht]
  have phase := congrArg Prod.snd e
  rw [now]
  dsimp only at phase
  rw [phase]
  split
  · exact .inl rfl
  · exact .inr rfl

end Sys2Proof.Machine
end

section
/-! The commands of a context's control block (O49) and the machine after device reset (O57). -/

namespace Sys2Proof.Machine

/-! ### One command of a context that is not busy -/

section
variable {s : State} {p : Port} {c : BitVec 6} (hf : s.fw = .running) (ho : s.owner c = some p)
  (hb : (s.ctx c).busy = false)

section
include hf ho hb

theorem exec_create_idle : exec (.ctxcmdCreate p c) s = .next (s.createCtx c) :=
  congrArg Host.Outcome.next (command_idle hf ho hb)

theorem exec_bind_idle : exec (.ctxcmdBind p c) s = .next (s.bindCtx c) :=
  congrArg Host.Outcome.next (command_idle hf ho hb)

theorem exec_run_idle : exec (.ctxcmdRun p c) s = .next (s.runCtx c) :=
  congrArg Host.Outcome.next (command_idle hf ho hb)

theorem exec_quiesce_idle : exec (.ctxcmdQuiesce p c) s = .next (s.quiesceCtx c) :=
  congrArg Host.Outcome.next (command_idle hf ho hb)

theorem exec_destroy_idle : exec (.ctxcmdDestroy p c) s = .next (s.destroyCtx c) :=
  congrArg Host.Outcome.next (command_idle hf ho hb)

end

include hf ho

/-- A reset does not wait for a transition in progress (R34). -/
theorem exec_reset_owned : exec (.ctxcmdReset p c) s = .next (s.resetCtx c) :=
  congrArg Host.Outcome.next (blockWrite_owned hf ho)

/-- While a transition is in progress every command but reset has result 1 (R34). -/
theorem exec_command_busy (hb : (s.ctx c).busy = true) : ∀ i ∈ [Instr.ctxcmdCreate p c, .ctxcmdBind p c, .ctxcmdRun p c,
    .ctxcmdQuiesce p c, .ctxcmdDestroy p c], exec i s = .next (s.setResult c 1) := by
  simp only [List.mem_cons, List.not_mem_nil, or_false]
  rintro i (rfl | rfl | rfl | rfl | rfl) <;> exact congrArg Host.Outcome.next (command_busy hf ho hb)

end

/-- A port that does not own the context is dropped and noted (R30). -/
theorem exec_command_foreign {s : State} {p : Port} {c : BitVec 6} (hf : s.fw = .running) (ho : s.owner c ≠ some p) :
    ∀ i ∈ [Instr.ctxcmdCreate p c, .ctxcmdBind p c, .ctxcmdRun p c, .ctxcmdQuiesce p c, .ctxcmdDestroy p c,
      .ctxcmdReset p c], exec i s = .next
        { s with tenderLog := { port := p, offset := 0x400000 + 0x1000 * c.toNat } :: s.tenderLog } := by
  simp only [List.mem_cons, List.not_mem_nil, or_false]
  rintro i (rfl | rfl | rfl | rfl | rfl | rfl) <;> exact congrArg Host.Outcome.next (blockWrite_foreign hf ho)

/-- Settles O49, command by command: each answers what its function gives in the state that `exec_command_busy`,
`exec_command_foreign` and the `exec_…_idle` lemmas name; a reset leaves nothing of the context (`enterReset_core` and the
lemmas beside it). -/
theorem contextCommands : Obligations.ContextCommands := by
  unfold Obligations.ContextCommands
  intro s p c hf
  dsimp only
  refine ⟨fun ho => ⟨exec_command_busy hf ho, fun hb => ?_, fun h => ?_, fun h => ?_⟩, exec_command_foreign hf, ?_⟩
  · rw [exec_create_idle hf ho hb, exec_bind_idle hf ho hb, exec_run_idle hf ho hb, exec_quiesce_idle hf ho hb,
      exec_destroy_idle hf ho hb, ← Ctx.bindable_iff, ← windowTaken_iff]
    refine ⟨fun h => ?create, fun h => ?create2, fun h hn => ?bind3, fun h hn ht => ?bind4, fun h hn ht => ?bind,
      fun h => ?bind2, fun h hs => ?run, fun h hr => ?run3, fun a h hr => ?restore, fun h h' => ?run2,
      fun h => ?quiesce, fun h => ?quiesce2, fun h => ?destroy, fun h => ?destroy2⟩
    case create => exact congrArg Host.Outcome.next (if_pos h)
    case create2 => exact congrArg Host.Outcome.next (createCtx_other h)
    case bind3 => rw [bindCtx_created h, if_neg hn]; rfl
    case bind4 => rw [bindCtx_created h, if_pos hn, if_pos ht]; rfl
    case bind => rw [bindCtx_created h, if_pos hn, if_neg ht]; rfl
    case bind2 => exact congrArg Host.Outcome.next (bindCtx_other h)
    case run => exact congrArg Host.Outcome.next (runCtx_bound h hs)
    case run3 => exact congrArg Host.Outcome.next ((runCtx_restores h).trans (runRestored_none hr))
    case restore => exact congrArg Host.Outcome.next ((runCtx_restores h).trans (runRestored_some hr))
    case run2 => exact congrArg Host.Outcome.next (runCtx_other h h')
    case quiesce => exact congrArg Host.Outcome.next (quiesceCtx_running h)
    case quiesce2 => exact congrArg Host.Outcome.next (quiesceCtx_other h)
    case destroy => exact congrArg Host.Outcome.next (destroyCtx_listed h)
    case destroy2 => exact congrArg Host.Outcome.next (destroyCtx_other h)
  · rw [exec_reset_owned hf ho, resetCtx_live h]
    rfl
  · rw [exec_reset_owned hf ho, resetCtx_other h]
    rfl
  · obtain ⟨hphase, hbusy, hdestroying⟩ := enterReset_ctx (s := s) (c := c)
    refine ⟨hphase, hbusy, hdestroying, enterReset_accs, enterReset_requests, fun i hi hc => enterReset_team hi hc,
      fun k => ?_⟩
    have free : ((s.enterReset c).core k).FreeOf c := enterReset_core k
    exact ⟨free.tlb, free.held, free.clean, free.ilines, free.walks, free.queues⟩

/-! ### Device reset -/

theorem reset_owner {n : Nat} (h : n < 64) :
    State.reset.owners[n]? = some (if n < 32 then some Port.p0 else some Port.p1) := by
  change ownersReset[n]? = _
  unfold ownersReset
  rw [Vector.getElem?_ofFn, dif_pos h]

/-- Every context is destroyed, with the reset values of its control block (R32, R33). -/
theorem reset_ctx (c : BitVec 6) : State.reset.ctx c = Ctx.fresh .destroyed := by
  unfold State.ctx State.reset
  exact Vector.getElem_replicate _

theorem reset_core (n : Nat) : State.reset.core n = CoreSt.reset := by
  unfold State.core
  split
  · exact Vector.getElem_replicate _
  · rfl

theorem fresh_queue (phase : CtxPhase) {q : Nat} (h : q < 256) : (Ctx.fresh phase).queues[q]? = some Queue.reset := by
  unfold Ctx.fresh
  rw [Vector.getElem?_replicate, if_pos h]

theorem fresh_window (phase : CtxPhase) {w : Nat} (h : w < 256) :
    (Ctx.fresh phase).windows[w]? = some RemoteWindow.reset := by
  unfold Ctx.fresh
  rw [Vector.getElem?_replicate, if_pos h]

theorem reset_link {n : Nat} (h : n < 18) : State.reset.links[n]? = some Link.reset := by
  unfold State.reset
  rw [Vector.getElem?_replicate, if_pos h]

/-- Settles O57: each register of the reset state is read off its definition, tables at every index. -/
theorem resetValues : Obligations.ResetValues := by
  unfold Obligations.ResetValues
  refine ⟨fun n hn => reset_owner hn, fun c => ?_, fun c => ?_, fun n hn => ?_, rfl, rfl, rfl, rfl, rfl, rfl, rfl, rfl,
    fun a => rfl⟩
  · dsimp only
    rw [reset_ctx]
    refine ⟨rfl, rfl, rfl, rfl, rfl, rfl, rfl, rfl, rfl, rfl, rfl, rfl, fun q hq => ?_, fun w hw => ?_⟩
    · rw [fresh_queue _ hq]
      rfl
    · rw [fresh_window _ hw]
      rfl
  · dsimp only
    rw [reset_core]
    exact ⟨rfl, rfl, rfl, rfl, rfl, rfl⟩
  · rw [reset_link hn]
    rfl

end Sys2Proof.Machine
end

section
/-! Events of an engine queue (O46; R76, R77, R141, R142, R188, R373, R377, R380): what each event does at a head that may go
on, by the body of the head, and what the departure of a head leaves. -/

namespace Sys2Proof.Machine

/-! ### Queues after an update -/

theorem modVec_bitVec {α : Type} {w : Nat} (v : Vector α (2 ^ w)) (q k : BitVec w) (f : α → α) :
    (modVec v q.toNat f)[k.toNat]'k.isLt = if k = q then f (v[k.toNat]'k.isLt) else v[k.toNat]'k.isLt := by
  have e := modVec_getElem? v q.toNat k.toNat f
  rw [Vector.getElem?_eq_getElem k.isLt, Vector.getElem?_eq_getElem k.isLt] at e
  by_cases h : k = q
  · simpa [h] using e
  · simpa [h, BitVec.toNat_inj] using e

/-- The engine queues after one of them is changed. -/
theorem State.engine_modEngine (s : State) (a c : Nat) (q k : BitVec 3) (f : List Entry → List Entry) :
    (s.modEngine a q f).engine c k = if c = a ∧ k = q ∧ c < 288 then f (s.engine c k) else s.engine c k := by
  have core := congrArg (fun x : CoreSt => x.queues[k.toNat]'k.isLt)
    (s.core_modCore a c fun x => { x with queues := modVec x.queues q.toNat f })
  refine core.trans ?_
  by_cases h : c = a ∧ c < 288
  · rw [if_pos h]
    obtain ⟨rfl, hc⟩ := h
    refine (modVec_bitVec (w := 3) (s.core c).queues q k f).trans ?_
    simp [hc, State.engine]
  · rw [if_neg h, if_neg fun ⟨hc, _, hl⟩ => h ⟨hc, hl⟩]
    rfl

theorem State.engine_popHead (s : State) (a c : Nat) (q k : BitVec 3) :
    (s.popHead a q).engine c k = if c = a ∧ k = q ∧ c < 288 then (s.engine c k).drop 1 else s.engine c k :=
  s.engine_modEngine a c q k (·.drop 1)

/-! ### The head that an event finds -/

section
variable {s : State} {core : Nat} {q : BitVec 3} {e : Entry}

theorem engineHead_cons {rest : List Entry} (hq : s.engine core q = e :: rest)
    (hg : (s.ctx e.ctx).saving = false ∨ e.done = true ∨ s.midway core e = true) : s.engineHead core q = some e := by
  unfold State.engineHead
  rw [hq]
  refine if_neg fun h => ?_
  simp only [Bool.and_eq_true, Bool.not_eq_true'] at h
  obtain ⟨⟨saving, waits⟩, apart⟩ := h
  simp [saving, waits, apart] at hg

theorem job?_copy {j : CopyJob} (hb : e.body = .copy j) (hd : e.done = false) : e.job? = some j := by
  simp [Entry.job?, hb, hd]

variable (h : s.engineHead core q = some e)
include h

theorem headLogged_of_mem {d : Nat} (hl : d ∈ e.logged) : s.headLogged core q d = true := by
  simpa [State.headLogged, h] using hl

/-! ### Counter operations -/

section
variable (hs : e.sent = false)
include hs

theorem headCounter_qwait {a t : Word} (hb : e.body = .qwait a t) :
    s.headCounter core q true false false = (engWait s (e.eng core) e.logged e.fetched 0 a t.toNat).settle core q e := by
  simp [State.headCounter, h, hs, hb]

theorem headCounter_qadd {a v : Word} (hb : e.body = .qadd a v) (completes : Bool) :
    s.headCounter core q false true completes = (engAdd s (e.eng core) e.logged a v).settle core q e := by
  simp [State.headCounter, h, hs, hb]

theorem headCounter_nest {b : NestBody} (hb : e.body = .nest b) (hd : e.done = true) (adds : Bool) :
    s.headCounter core q false adds true = (engAdd s (e.eng core) e.logged b.s3 b.s4).settle core q e := by
  simp [State.headCounter, h, hs, hb, hd, EntryBody.completion]

theorem headCounter_copy {j : CopyJob} (hb : e.body = .copy j) (hd : e.done = true) (adds : Bool) :
    s.headCounter core q false adds true = (engAdd s (e.eng core) e.logged j.b.ctr j.b.addend).settle core q e := by
  simp [State.headCounter, h, hs, hb, hd, EntryBody.completion]

end

/-! ### Copies -/

section
variable {j : CopyJob} (hj : e.job? = some j)
include hj

section
variable {v : State} {x : Entry} (hx : (if j.asked then (s, e) else s.startCopy core e j) = (v, x))
include hx

theorem copyPerform_fetching (hf : v.engFetching (x.eng core) = true) :
    exec (.copyPerform core q) s = .next (v.setHead core q x) := by
  simp [exec_copyPerform, execCopyPerform, h, hj, hx, hf]

variable (hf : v.engFetching (x.eng core) = false)
include hf

theorem copyPerform_plain (hm : j.b.rmode = false) : exec (.copyPerform core q) s =
    .next ((copyBytes v (x.eng core) j.b x.fetched j.b.dest).completeHead core q x) := by
  simp [exec_copyPerform, execCopyPerform, h, hj, hx, hf, hm]

theorem copyPerform_noRing (hm : j.b.rmode = true) (hr : v.jobRing x { j with asked := true } = none) :
    exec (.copyPerform core q) s = .next ((v.setHead core q x).completeHead core q x) := by
  simp [exec_copyPerform, execCopyPerform, h, hj, hx, hf, hm, hr]

theorem copyPerform_claim {r : Ring} (hm : j.b.rmode = true) (hr : v.jobRing x { j with asked := true } = some r)
    (hc : j.claimed = none) :
    exec (.copyPerform core q) s = .next (v.claimIndex core q x { j with asked := true } r) := by
  simp only [hc] at hr
  simp [exec_copyPerform, execCopyPerform, h, hj, hx, hf, hm, hr, hc]

end

section
variable {r : Ring} {i : Word} {u : State} (hc : j.claimed = some i) (hr : s.jobRing e j = some r)
include hc hr

/-! ### The slot that a ring copy has claimed -/

section
variable (hw : j.written = false)
include hw

theorem ringFreeWaitEnd_lost (hk : fetchedAt e.fetched freeKey 0 = some none) :
    exec (.engineRingFreeWaitEnd core q) s = .next (s.ringFails core q e r.freed) := by
  simp [exec_engineRingFreeWaitEnd, execEngineRingFreeWaitEnd, h, hj, hc, hr, hw, hk]

variable (hk : fetchedAt e.fetched freeKey 0 ≠ some none)
include hk

theorem ringFreeWaitEnd_noWord (hl : ringWord s (e.eng core) r.freed .counterGet = (u, none)) :
    exec (.engineRingFreeWaitEnd core q) s = .next (u.ringFails core q e r.freed) := by
  simp [exec_engineRingFreeWaitEnd, execEngineRingFreeWaitEnd, h, hj, hc, hr, hw, hk, hl]

variable {l : Loc} (hl : ringWord s (e.eng core) r.freed .counterGet = (u, some l)) {x : EngStep}
  (hx : engWait u (e.eng core) e.logged e.fetched freeKey r.freed (r.target false i) = x)
include hl hx

theorem ringFreeWaitEnd_writes {e' : Entry} (he : { e with body := .copy { j with written := true }, logged := [] } = e')
    (hf : x.finished = true) : exec (.engineRingFreeWaitEnd core q) s =
    .next (((copyBytes x.s (e.eng core) j.b e.fetched (r.slot i)).setHead core q e').lastWrite core q e') := by
  subst he
  simp [exec_engineRingFreeWaitEnd, execEngineRingFreeWaitEnd, h, hj, hc, hr, hw, hk, hl, hx, hf]

theorem ringFreeWaitEnd_waits (hf : x.finished = false) (hn : 1 ∉ x.logged) :
    exec (.engineRingFreeWaitEnd core q) s = .next (x.s.setHead core q { e with logged := x.logged }) := by
  simp [exec_engineRingFreeWaitEnd, execEngineRingFreeWaitEnd, h, hj, hc, hr, hw, hk, hl, hx, hf, hn]

theorem ringFreeWaitEnd_fails (hf : x.finished = false) (hn : 1 ∈ x.logged) :
    exec (.engineRingFreeWaitEnd core q) s = .next (x.s.completeHead core q e) := by
  simp [exec_engineRingFreeWaitEnd, execEngineRingFreeWaitEnd, h, hj, hc, hr, hw, hk, hl, hx, hf, hn]

end

/-! ### The publication of a slot -/

section
variable (hw : j.written = true)
include hw

theorem ringPublish_asked (ha : s.engAsked (e.eng core) awaitKey = true) :
    exec (.engineRingPublish core q) s = .next s := by
  simp [exec_engineRingPublish, execEngineRingPublish, h, hj, hc, hr, hw, ha]

variable (ha : s.engAsked (e.eng core) awaitKey = false)
include ha

theorem ringPublish_added (hk : (fetchedAt e.fetched awaitKey 0).isSome = true) :
    exec (.engineRingPublish core q) s = .next (s.completeHead core q e) := by
  simp [exec_engineRingPublish, execEngineRingPublish, h, hj, hc, hr, hw, ha, hk]

variable (hk : fetchedAt e.fetched awaitKey 0 = none)
include hk

theorem ringPublish_lost (hf : fetchedAt e.fetched fillKey 0 = some none) :
    exec (.engineRingPublish core q) s = .next (s.ringFails core q e r.filled) := by
  simp [exec_engineRingPublish, execEngineRingPublish, h, hj, hc, hr, hw, ha, hk, hf]

variable (hf : fetchedAt e.fetched fillKey 0 ≠ some none)
include hf

theorem ringPublish_noWord (hl : ringWord s (e.eng core) r.filled .counterAdd = (u, none)) :
    exec (.engineRingPublish core q) s = .next (u.ringFails core q e r.filled) := by
  simp [exec_engineRingPublish, execEngineRingPublish, h, hj, hc, hr, hw, ha, hk, hf, hl]

variable {l : Loc} (hl : ringWord s (e.eng core) r.filled .counterAdd = (u, some l))
include hl

theorem ringPublish_again (hp : j.published = true) :
    exec (.engineRingPublish core q) s = .next (u.publishAdd core q e r) := by
  simp [exec_engineRingPublish, execEngineRingPublish, h, hj, hc, hr, hw, ha, hk, hf, hl, hp]

variable (hp : j.published = false) {x : EngStep}
  (hx : engWait u (e.eng core) e.logged e.fetched fillKey r.filled i.toNat = x)
include hp hx

theorem ringPublish_first (hd : x.finished = true) : exec (.engineRingPublish core q) s =
    .next (x.s.publishAdd core q { e with body := .copy { j with published := true }, logged := x.logged } r) := by
  simp [exec_engineRingPublish, execEngineRingPublish, h, hj, hc, hr, hw, ha, hk, hf, hl, hp, hx, hd]

theorem ringPublish_waits (hd : x.finished = false) (hn : 1 ∉ x.logged) :
    exec (.engineRingPublish core q) s = .next (x.s.setHead core q { e with logged := x.logged }) := by
  simp [exec_engineRingPublish, execEngineRingPublish, h, hj, hc, hr, hw, ha, hk, hf, hl, hp, hx, hd, hn]

theorem ringPublish_fails (hd : x.finished = false) (hn : 1 ∈ x.logged) :
    exec (.engineRingPublish core q) s = .next (x.s.completeHead core q { e with logged := x.logged }) := by
  simp [exec_engineRingPublish, execEngineRingPublish, h, hj, hc, hr, hw, ha, hk, hf, hl, hp, hx, hd, hn]

end

end

end

/-! ### Loop nests -/

theorem headNest_nest {b : NestBody} (hb : e.body = .nest b) (hd : e.done = false) (hn : b.stopped = false) :
    s.headNest core q = some (e, b) := by
  simp [State.headNest, h, hb, hd, hn]

end

section
variable {s u : State} {core : Nat} {q : BitVec 3} {e : Entry} {b : NestBody} (h : s.headNest core q = some (e, b))
include h

theorem nestPerform_taken {b' : NestBody} {e' : Entry} (hn : nestNext s (e.eng core) e.quad e.fetched b = (u, .taken b'))
    (he : { e with body := .nest b', fetched := [] } = e') : exec (.lnestEntryPerform core q) s =
      .next (if b.atEnd || (b'.atEnd && !nestReduces b.op) then (u.setHead core q e').completeHead core q e'
        else u.setHead core q e') := by
  simp [exec_lnestEntryPerform, execLnestEntryPerform, h, hn, he]

theorem nestFault_faults {cause : TrapCause} {a : Word} {tf : Option TFault}
    (hn : nestNext s (e.eng core) e.quad e.fetched b = (u, .faults cause a tf)) :
    exec (.lnestElementFault core q) s = .next (u.stopNest core q e b cause a tf) := by
  simp [exec_lnestElementFault, execLnestElementFault, h, hn]

theorem nest_waits (hn : nestNext s (e.eng core) e.quad e.fetched b = (u, .waits)) :
    exec (.lnestEntryPerform core q) s = .next u ∧ exec (.lnestElementFault core q) s = .next s := by
  simp [exec_lnestEntryPerform, execLnestEntryPerform, exec_lnestElementFault, execLnestElementFault, h, hn]

end

/-! ### What a performed operation leaves of the head -/

section
variable {s : State} {core : Nat} {q : BitVec 3} {e : Entry}

/-- A counter operation that is over finishes the head; one that is not leaves it with what it has logged. -/
theorem settle_ends {i : Instr} {x : EngStep} (hx : exec i s = .next (x.settle core q e)) :
    (x.finished = true → exec i s = .next
      (if x.s.engOutstanding core e.id then x.s.setHead core q { e with done := true, sent := true, logged := [] }
       else (x.s.accrueEnd e).popHead core q)) ∧
    (x.finished = false → exec i s = .next (x.s.setHead core q { e with logged := x.logged })) := by
  rw [hx]
  constructor <;> intro hf <;> simp [EngStep.settle, hf, State.finishHead]

theorem publishAdd_ends {v : State} {i : Instr} {r : Ring} {y : EngStep} (hx : exec i s = .next (v.publishAdd core q e r))
    (hy : engAddAs v (e.eng core) e.logged awaitKey r.filled 1 = y) :
    (y.finished = true → y.s.engAsked (e.eng core) awaitKey = false →
      exec i s = .next (y.s.completeHead core q e)) ∧
    (y.finished = false ∨ y.s.engAsked (e.eng core) awaitKey = true →
      exec i s = .next (y.s.setHead core q { e with logged := y.logged })) := by
  rw [hx, State.publishAdd, hy]
  refine ⟨fun hf ha => by simp [hf, ha], fun h => congrArg Host.Outcome.next (if_neg fun hb => ?_)⟩
  simp only [Bool.and_eq_true, Bool.not_eq_true'] at hb
  simp [hb] at h

theorem bindingRetry_eq (h : s.engineHead core q = some e) (hl : 4 ∈ e.logged) :
    exec (.engineBindingRetry core q) s = .next (s.headCounter core q false true true) := by
  rw [exec_engineBindingRetry, execEngineBindingRetry, if_pos (headLogged_of_mem h hl)]

theorem waitReevaluate_eq (h : s.engineHead core q = some e) (hl : 1 ∈ e.logged ∨ 3 ∈ e.logged) :
    exec (.engineWaitReevaluate core q) s = .next (s.headCounter core q true false false) := by
  have logged : s.headLogged core q 1 || s.headLogged core q 3 := by
    rw [Bool.or_eq_true]
    exact hl.imp (headLogged_of_mem h) (headLogged_of_mem h)
  rw [exec_engineWaitReevaluate, execEngineWaitReevaluate, if_pos logged]

end

/-- Settles O46, event by event: the head may go on (`engineHead_cons`), and each event answers what the lemma of its case
says of that head. -/
theorem engineEvents : Obligations.EngineEvents := by
  unfold Obligations.EngineEvents
  intro s u core q e rest hcore hq hg hs
  have h := engineHead_cons hq hg
  dsimp only
  refine ⟨fun a t hb => ?qwait, fun a v hb => ?qadd, fun b hb hd => ?nestAdd, fun j hb hd => ?copyAdd,
    fun j hb hd => ?copy, fun n hn => ?marker, fun b hb hd hn => ?nest, ?pop⟩
  case qwait =>
    have hc := headCounter_qwait h hs hb
    exact ⟨settle_ends (congrArg Host.Outcome.next hc),
      fun hl => settle_ends ((waitReevaluate_eq h hl).trans (congrArg Host.Outcome.next hc))⟩
  case qadd =>
    have hc := headCounter_qadd h hs hb
    exact ⟨settle_ends (congrArg Host.Outcome.next (hc false)),
      fun hl => settle_ends ((bindingRetry_eq h hl).trans (congrArg Host.Outcome.next (hc true)))⟩
  case nestAdd =>
    have hc := headCounter_nest h hs hb hd
    exact ⟨settle_ends (congrArg Host.Outcome.next (hc false)),
      fun hl => settle_ends ((bindingRetry_eq h hl).trans (congrArg Host.Outcome.next (hc true)))⟩
  case copyAdd =>
    have hc := headCounter_copy h hs hb hd
    exact ⟨settle_ends (congrArg Host.Outcome.next (hc false)),
      fun hl => settle_ends ((bindingRetry_eq h hl).trans (congrArg Host.Outcome.next (hc true)))⟩
  case copy =>
    have hj := job?_copy hb hd
    generalize hx : (if j.asked then (s, e) else s.startCopy core e j) = x
    obtain ⟨v, x⟩ := x
    refine ⟨copyPerform_fetching h hj hx, copyPerform_plain h hj hx, copyPerform_noRing h hj hx,
      fun r hf => copyPerform_claim h hj hx hf, fun r i l hc hr => ⟨ringFreeWaitEnd_lost h hj hc hr,
        ringFreeWaitEnd_noWord h hj hc hr, fun hw hk hl => ?slot, ringPublish_asked h hj hc hr,
        ringPublish_added h hj hc hr, fun hw ha hk => ⟨ringPublish_lost h hj hc hr hw ha hk,
          ringPublish_noWord h hj hc hr hw ha hk, fun hf hl => ?publish⟩⟩⟩
    case slot =>
      exact ⟨ringFreeWaitEnd_writes h hj hc hr hw hk hl rfl rfl, ringFreeWaitEnd_waits h hj hc hr hw hk hl rfl,
        ringFreeWaitEnd_fails h hj hc hr hw hk hl rfl⟩
    case publish =>
      refine ⟨fun hp => publishAdd_ends (ringPublish_again h hj hc hr hw ha hk hf hl hp) rfl, fun hp => ⟨fun hd => ?_,
        ringPublish_waits h hj hc hr hw ha hk hf hl hp rfl, ringPublish_fails h hj hc hr hw ha hk hf hl hp rfl⟩⟩
      exact publishAdd_ends (ringPublish_first h hj hc hr hw ha hk hf hl hp rfl hd) rfl
  case marker =>
    exact congrArg Host.Outcome.next (if_pos (List.all_eq_true.mpr fun k hk => beq_iff_eq.mpr (hn k hk)))
  case nest =>
    have hh := headNest_nest h hb hd hn
    refine ⟨fun b' ht => ⟨fun hl => ?_, fun hl => ?_⟩, fun cause a tf => nestFault_faults hh, nest_waits hh⟩
    · exact (nestPerform_taken hh ht rfl).trans (congrArg _ (if_neg (by simpa using hl)))
    · exact (nestPerform_taken hh ht rfl).trans (congrArg _ (if_pos (by simpa using hl)))
  case pop =>
    refine ⟨?_, rfl, fun c k ho => ?_⟩
    · rw [s.engine_popHead, if_pos ⟨rfl, rfl, hcore⟩, hq]
      rfl
    · rw [s.engine_popHead, if_neg fun hc => ho.elim (· hc.1) (· hc.2.1)]

end Sys2Proof.Machine
end

section
/-! Placing entries in engine queues (O35; R75, R77, R373, R374, R376): what joins a queue and what that leaves alone, the
checks that leave the registers of quads alone, and the four instructions. -/

namespace Sys2Proof.Machine

variable {s u : State} {g : GangRef}

/-! ### Checks leave the registers of quads alone -/

theorem translatePieces_still {core c n l} : (translatePieces s core c n l).1.still = s.still := by
  induction l generalizing s with
  | nil => rfl
  | cons p rest ih =>
    unfold translatePieces
    grind [translate_still]

theorem locate_still {core c size va n need} : (locate s core c size va n need).1.still = s.still := by
  unfold locate
  grind [translatePieces_still]

theorem checkAsk_still {a : Ask} : (checkAsk s g a).1.still = s.still := by
  unfold checkAsk
  grind [locate_still]

theorem checkAsks_still {asks : List Ask} : (checkAsks s g asks).1.still = s.still := by
  induction asks generalizing s with
  | nil => rfl
  | cons a asks ih =>
    unfold checkAsks
    grind [checkAsk_still]

theorem Quad.still_rs (q : Quad) (r : SReg) : q.still.rs r = q.rs r := by
  unfold Quad.still
  split <;> rfl

theorem quadOf_rs_of_still (h : u.still = s.still) (n : Nat) (r : SReg) : (u.quadOf g n).rs r = (s.quadOf g n).rs r := by
  have still : (u.quadOf g n).still = (s.quadOf g n).still := by
    unfold State.quadOf State.quad
    rw [Wave.quad_still, Wave.quad_still]
    exact congrArg (fun x : Wave => x.quads.getD n Quad.start) (waveOf_of_still (g := g) h)
  rw [← Quad.still_rs, still, Quad.still_rs]

/-! ### Quads that a change leaves as they are -/

theorem Wave.foldl_modQuad_self {w : Wave} {qs : List Nat} (hn : qs.Nodup) {f : Nat → Quad → Quad}
    (hf : ∀ n ∈ qs, f n (w.quad n) = w.quad n) : qs.foldl (fun x q => x.modQuad q (f q)) w = w := by
  refine Wave.ext_quads (Wave.foldl_modQuad_eq qs f w) (Wave.foldl_modQuad_length qs f w) fun n => ?_
  rw [Wave.quad_foldl_modQuad qs hn]
  split
  · next h => exact hf n h.1
  · rfl

theorem State.modWave_self {a b : Nat} {f : Wave → Wave} (h : f (s.wave a b) = s.wave a b) : s.modWave a b f = s := by
  have team : (s.team a).modWave b f = s.team a :=
    congrArg (fun l => { s.team a with waves := l }) (modAt_self (s.team a).waves b f Wave.blank fun _ => h)
  exact congrArg (fun l => { s with teams := l }) (modAt_self s.teams a (·.modWave b f) Team.blank fun _ => team)

theorem State.mapGang_self {f : Nat → Quad → Quad} (h : ∀ n ∈ g.quads, f n (s.quadOf g n) = s.quadOf g n) :
    s.mapGang g f = s := by
  refine State.modWave_self (Wave.foldl_modQuad_self g.quads_nodup fun n hn => ?_)
  split
  · rfl
  · exact h n hn

theorem State.dropFetched_eq : s.dropFetched g = s.mapGang g fun _ q => { q with fetched := [] } := by
  unfold State.dropFetched
  split
  · next h =>
    refine (State.mapGang_self fun n hn => ?_).symm
    have empty := List.isEmpty_iff.mp (List.all_eq_true.mp h n hn)
    exact congrArg (fun l => { s.quadOf g n with fetched := l }) empty.symm
  · rfl

theorem State.coreOf_mapGang (f : Nat → Quad → Quad) : (s.mapGang g f).coreOf g = s.coreOf g := by
  have e := congrArg Wave.core (s.waveOf_mapGang g f)
  exact e

/-! ### Queues that have grown -/

/-- Engine queues alone have changed, and identities have been taken. -/
def State.Queued (s t : State) : Prop :=
  t = { s with cores := t.cores, nextId := t.nextId } ∧ ∀ c, t.core c = { s.core c with queues := (t.core c).queues }

theorem State.Queued.refl (s : State) : s.Queued s := ⟨rfl, fun _ => rfl⟩

theorem State.Queued.trans {t v : State} (a : s.Queued t) (b : t.Queued v) : s.Queued v := by
  obtain ⟨device, core⟩ := a
  obtain ⟨device', core'⟩ := b
  exact ⟨by rw [device', device], fun c => by rw [core', core]⟩

theorem State.queued_modEngine (s : State) (c : Nat) (q : BitVec 3) (f : List Entry → List Entry) :
    s.Queued (s.modEngine c q f) := by
  refine ⟨rfl, fun k => ?_⟩
  unfold State.modEngine
  rw [State.core_modCore]
  split <;> rfl

theorem State.queued_bumpId (s : State) : s.Queued s.bumpId := ⟨rfl, fun _ => rfl⟩

/-- Entries placed one after another change no more than their queue and the identities. -/
theorem State.queued_placeEntries (q : BitVec 3) (xs : List (Nat × EntryBody)) : s.Queued (s.placeEntries g q xs) := by
  induction xs generalizing s with
  | nil => exact .refl s
  | cons x xs ih => exact ((s.queued_modEngine _ _ _).trans (State.queued_bumpId _)).trans ih

/-- They stand at its tail in their order, with identities that rise (R75). -/
theorem State.engine_placeEntries (q k : BitVec 3) (c : Nat) (xs : List (Nat × EntryBody)) :
    (s.placeEntries g q xs).engine c k = if c = s.coreOf g ∧ k = q ∧ c < 288 then
      s.engine c k ++ (xs.zipIdx s.nextId).map fun x => { newEntry s g x.1.1 x.1.2 with id := x.2 }
    else s.engine c k := by
  induction xs generalizing s with
  | nil => simp [State.placeEntries]
  | cons x xs ih =>
    refine (ih (s := (s.modEngine (s.coreOf g) q (· ++ [newEntry s g x.1 x.2])).bumpId)).trans ?_
    have place : (s.modEngine (s.coreOf g) q (· ++ [newEntry s g x.1 x.2])).bumpId.engine c k =
        if c = s.coreOf g ∧ k = q ∧ c < 288 then s.engine c k ++ [newEntry s g x.1 x.2] else s.engine c k :=
      s.engine_modEngine _ _ _ _ _
    by_cases h : c = s.coreOf g ∧ k = q ∧ c < 288
    · refine (if_pos h).trans ?_
      rw [place, if_pos h, if_pos h, List.append_assoc]
      rfl
    · exact (if_neg h).trans (by rw [place, if_neg h, if_neg h])

/-- What changes the quads of a gang and what places its entries do not meet. -/
theorem State.placeEntries_mapGang (q : BitVec 3) (f : Nat → Quad → Quad) (xs : List (Nat × EntryBody)) :
    (s.mapGang g f).placeEntries g q xs = (s.placeEntries g q xs).mapGang g f := by
  induction xs generalizing s with
  | nil => rfl
  | cons x xs ih =>
    refine Eq.trans ?_ ih
    have same : newEntry (s.mapGang g f) g x.1 x.2 = newEntry s g x.1 x.2 := by
      unfold newEntry
      rw [(outside_mapGang s g f).ctxOf]
      rfl
    change State.placeEntries (State.bumpId (State.modEngine _ _ _ _)) g q xs = _
    rw [same, s.coreOf_mapGang]
    rfl

/-! ### An instruction that places entries -/

section
variable {i : Instr} {f : Quad → Quad} {q : BitVec 3} {xs : List (Nat × EntryBody)}
  (hi : exec i s = .next ((u.mapGang g fun _ q => f q).enqueue g q xs)) (he : ∀ q, (f q).exited = q.exited)
include hi he

/-- With room for all entries the instruction completes on top of the state in which they stand in their queue. -/
theorem enqueue_room (hh : ∀ q, (f q).inHandler = q.inHandler) (room : (u.engine (u.coreOf g) q).length + xs.length ≤ 32) :
    CompletesFrom i s g (u.placeEntries g q xs) fun _ q => (f q).advance 1 := by
  refine ⟨_, hi.trans (congrArg Host.Outcome.next ?_), retire_effect _ g 1 1 (fun _ => f) (fun _ => hh) fun _ => he⟩
  rw [← State.placeEntries_mapGang]
  refine if_neg ?_
  rw [State.coreOf_mapGang]
  exact Nat.not_lt.mpr room

/-- With too little room the gang stalls and places none (R75). -/
theorem enqueue_full (full : 32 < (u.engine (u.coreOf g) q).length + xs.length) :
    exec i s = .next (u.mapGang g fun _ q => { f q with wait := .engineFull }) := by
  refine hi.trans (congrArg Host.Outcome.next ((if_pos ?_).trans ?_))
  · rw [State.coreOf_mapGang]
    exact full
  · exact mapGang_mapGang u g _ _ fun _ => he

/-- What an instruction does that places entries in one queue of its core. -/
theorem enqueue_enters (hh : ∀ q, (f q).inHandler = q.inHandler) :
    ((u.engine (u.coreOf g) q).length + xs.length ≤ 32 → ∃ t, u.Queued t ∧
      CompletesFrom i s g t (fun _ q => (f q).advance 1) ∧
      (∀ c k, c ≠ u.coreOf g ∨ k ≠ q → t.engine c k = u.engine c k) ∧
      (u.coreOf g < 288 → t.engine (u.coreOf g) q = u.engine (u.coreOf g) q ++
        xs.zipIdx.map fun x => { newEntry u g x.1.1 x.1.2 with id := u.nextId + x.2 })) ∧
    (32 < (u.engine (u.coreOf g) q).length + xs.length →
      exec i s = .next (u.mapGang g fun _ q => { f q with wait := .engineFull })) := by
  refine ⟨fun room => ⟨_, State.queued_placeEntries q xs, enqueue_room hi he hh room, fun c k other => ?_, fun hc => ?_⟩,
    enqueue_full hi he⟩
  · rw [State.engine_placeEntries, if_neg fun h => other.elim (· h.1) (· h.2.1)]
  · rw [State.engine_placeEntries, if_pos ⟨rfl, rfl, hc⟩, List.zipIdx_eq_map_add, List.map_map]
    refine congrArg _ (List.map_congr_left fun x _ => ?_)
    simp only [Function.comp, Nat.add_comm]

end

/-! ### The four instructions -/

section
variable (hg : s.issuing = some g)
include hg

theorem cpy_enqueues {sa : SReg} {bs : List (Nat × CopyBlock)}
    (hc : eachQuad (fun s n => cpyQuad s g sa n) (s.placing g sa) s = (u, { passed := bs, failed := [], waits := false }))
    (q : BitVec 3) : exec (.cpy sa q) s =
      .next ((u.mapGang g fun _ q => { q with fetched := [] }).enqueue g q (bs.map fun x => (x.1, .copy x.2.job))) := by
  rw [exec_cpy, execCpy, withGang_next hg, State.checkedQuads, hc, ← State.dropFetched_eq]
  rfl

/-- The checks have left the registers as they were, so that the entries hold what the quads had. -/
theorem queueCounter_enqueues {sa sb : SReg} {need : Need} {locs : List Loc} (hc : checkAsks s g
      ((s.placing g sa).map fun n => counterAsk n ((s.quadOf g n).rs sa) need) = (u, locs, []))
    (q : BitVec 3) (body : Word → Word → EntryBody) : queueCounter sa sb q need body s =
      .next ((u.mapGang g fun _ q => id q).enqueue g q
        ((s.placing g sa).map fun n => (n, body ((s.quadOf g n).rs sa) ((s.quadOf g n).rs sb)))) := by
  have still : u.still = s.still := by
    rw [← checkAsks_still (s := s), hc]
  rw [queueCounter, withGang_next hg, State.checked, hc, State.mapGang_self fun _ _ => rfl]
  simp only [quadOf_rs_of_still still]

end

theorem mem_maskQueues {mask : BitVec 8} {k : BitVec 3} : k ∈ maskQueues mask ↔ mask.getLsbD k.toNat = true := by
  unfold maskQueues
  rw [List.mem_map]
  constructor
  · rintro ⟨n, hn, rfl⟩
    obtain ⟨small, bit⟩ := List.mem_filter.mp hn
    rwa [BitVec.toNat_ofNat, Nat.mod_eq_of_lt (List.mem_range.mp small)]
  · exact fun bit => ⟨k.toNat, List.mem_filter.mpr ⟨List.mem_range.mpr k.isLt, bit⟩,
      (BitVec.ofNat_toNat 3 k).trans (BitVec.setWidth_eq k)⟩

theorem maskQueues_nodup (mask : BitVec 8) : (maskQueues mask).Nodup := by
  refine List.Nodup.map_on (fun a ha b hb e => ?_) (List.nodup_range.filter _)
  have small {n : Nat} (hn : n ∈ (upTo 8).filter fun i => mask.getLsbD i) : n % 2 ^ 3 = n :=
    Nat.mod_eq_of_lt (List.mem_range.mp (List.mem_filter.mp hn).1)
  have same := congrArg BitVec.toNat e
  rwa [BitVec.toNat_ofNat, BitVec.toNat_ofNat, small ha, small hb] at same

/-- One entry for several queues joins each of them, and changes nothing else. -/
theorem foldl_modEngine_append (core : Nat) (e : Entry) (qs : List (BitVec 3)) :
    s.Queued (qs.foldl (fun s q => s.modEngine core q (· ++ [e])) s) ∧ (qs.Nodup → ∀ c k,
      (qs.foldl (fun s q => s.modEngine core q (· ++ [e])) s).engine c k =
        if c = core ∧ k ∈ qs ∧ c < 288 then s.engine c k ++ [e] else s.engine c k) := by
  induction qs generalizing s with
  | nil => exact ⟨.refl s, fun _ c k => (if_neg (by simp)).symm⟩
  | cons q qs ih =>
    obtain ⟨queued, engine⟩ := ih (s := s.modEngine core q (· ++ [e]))
    refine ⟨(s.queued_modEngine core q _).trans queued, fun hn c k => ?_⟩
    obtain ⟨apart, hn⟩ := List.nodup_cons.mp hn
    refine (engine hn c k).trans ?_
    rw [s.engine_modEngine]
    by_cases h : k = q
    · subst h
      simp [apart]
    · simp [h]

/-- The state in which a group of markers stands in the queues of its mask (R77). -/
def State.fenced (s : State) (g : GangRef) (mask : BitVec 8) : State :=
  ((maskQueues mask).foldl (fun t q => t.modEngine (s.coreOf g) q
    (· ++ [newEntry s g (s.firstLive g) (.marker mask s.nextId)])) s).bumpId

theorem State.queued_fenced (mask : BitVec 8) : s.Queued (s.fenced g mask) :=
  (foldl_modEngine_append _ _ _).1.trans (State.queued_bumpId _)

theorem State.engine_fenced (mask : BitVec 8) (c : Nat) (k : BitVec 3) : (s.fenced g mask).engine c k =
    if c = s.coreOf g ∧ mask.getLsbD k.toNat = true ∧ c < 288 then
      s.engine c k ++ [newEntry s g (s.firstLive g) (.marker mask s.nextId)] else s.engine c k := by
  simp only [← mem_maskQueues]
  exact (foldl_modEngine_append _ _ _).2 (maskQueues_nodup mask) c k

section
variable (hg : s.issuing = some g) {mask : BitVec 8}
include hg

theorem qfence_room (room : ∀ k : BitVec 3, mask.getLsbD k.toNat = true → (s.engine (s.coreOf g) k).length < 32) :
    CompletesFrom (.qfence mask) s g (s.fenced g mask) fun _ q => q.advance 1 := by
  have free : ¬ (maskQueues mask).any (fun q => decide (engineDepth ≤ (s.engine (s.coreOf g) q).length)) = true := by
    rw [List.any_eq_true]
    rintro ⟨k, hk, full⟩
    exact Nat.not_le.mpr (room k (mem_maskQueues.mp hk)) (of_decide_eq_true full)
  have done : exec (.qfence mask) s = .next ((s.fenced g mask).retire g 1 1 .count) := by
    rw [exec_qfence, execQfence, withGang_next hg, if_neg free]
    rfl
  refine ⟨_, done, ?_⟩
  have effect := retire_effect (s.fenced g mask) g 1 1 (fun _ q => q) (fun _ _ => rfl) fun _ _ => rfl
  rwa [State.mapGang_self fun _ _ => rfl] at effect

theorem qfence_full {k : BitVec 3} (hk : mask.getLsbD k.toNat = true) (full : 32 ≤ (s.engine (s.coreOf g) k).length) :
    exec (.qfence mask) s = .next (s.hold g .engineFull) := by
  have stalls : (maskQueues mask).any (fun q => decide (engineDepth ≤ (s.engine (s.coreOf g) q).length)) = true :=
    List.any_eq_true.mpr ⟨k, mem_maskQueues.mpr hk, decide_eq_true full⟩
  rw [exec_qfence, execQfence, withGang_next hg, if_pos stalls]

end

theorem cpyQuad_misaligned {sa : SReg} {n : Nat} (h : ((s.quadOf g n).rs sa).toNat % 64 ≠ 0) :
    cpyQuad s g sa n = (s, .fault { cause := .alignment, addr := (s.quadOf g n).rs sa, tf := none }) :=
  if_pos h

/-- Settles O35: `cpy`, `qwait` and `qadd` place their entries as `enqueue_enters` says, `qfence` its marker as
`State.fenced` says. -/
theorem engineEntries : Obligations.EngineEntries := by
  unfold Obligations.EngineEntries
  intro s u g sa sb q mask locs bs hg
  refine ⟨fun hc => ?cpy, fun hc => ?qwait, fun hc => ?qadd, fun hu => ?qfence, fun n => cpyQuad_misaligned⟩
  case cpy => exact enqueue_enters (cpy_enqueues hg hc q) (fun _ => rfl) fun _ => rfl
  case qwait =>
    exact enqueue_enters (i := .qwait sa sb q) (queueCounter_enqueues hg hc q .qwait) (fun _ => rfl) fun _ => rfl
  case qadd =>
    exact enqueue_enters (i := .qadd sa sb q) (queueCounter_enqueues hg hc q .qadd) (fun _ => rfl) fun _ => rfl
  case qfence =>
    subst hu
    refine ⟨fun room => ⟨_, State.queued_fenced mask, qfence_room hg room, fun c k other => ?_, fun hc k => ?_⟩,
      fun k => qfence_full hg⟩
    · rw [State.engine_fenced, if_neg fun h => other h.1]
    · rw [State.engine_fenced]
      by_cases bit : mask.getLsbD k.toNat = true
      · rw [if_pos ⟨rfl, bit, hc⟩, if_pos bit]
        rfl
      · rw [if_neg fun h => bit h.2.1, if_neg bit, List.append_nil]

end Sys2Proof.Machine
end

section
/-! Special registers (O4; R121, R277, R303, R304). -/

namespace Sys2Proof.Machine

variable {s : State} {g : GangRef}

/-- GANGMAP has the bits of the gang's quads (R304). -/
theorem GangRef.map_getLsbD (g : GangRef) {i : Nat} (hi : i < 64) : g.map.getLsbD i = true ↔ i ∈ g.quads := by
  have fold (l : List Nat) (m : Word) :
      (l.foldl (fun m n => m ||| (1#64 <<< n)) m).getLsbD i = true ↔ m.getLsbD i = true ∨ i ∈ l := by
    induction l generalizing m with
    | nil => simp
    | cons n l ih =>
      have bit : (1#64 <<< n).getLsbD i = true ↔ i = n := by
        rw [BitVec.getLsbD_shiftLeft]
        simp [hi]
        omega
      rw [List.foldl_cons, ih, BitVec.getLsbD_or, Bool.or_eq_true, bit, List.mem_cons, or_assoc]
  exact (fold g.quads 0).trans (by simp)

/-- The half of the device that a core belongs to (R304). -/
theorem halfOf_eq {core : Nat} (h : core < 288) : BitVec.ofNat 64 (halfOf core) = if core < 144 then 0 else 1 := by
  unfold halfOf
  split
  · rw [Nat.div_eq_of_lt ‹_›]
    rfl
  · rw [show core / 144 = 1 by omega]
    rfl

/-- The value of the special register with an assigned number, in each quad (R304). -/
def readSpecial (s : State) (g : GangRef) (num : BitVec 6) (n : Nat) (q : Quad) : Word :=
  (specialReg s g n q num).getD 0

theorem sgetr_completes {sd : SReg} {num : BitVec 6} (h : s.issuing = some g) (hn : num.toNat ≤ 18) :
    Completes (.sgetr sd num) s g fun n q => (q.setS sd (readSpecial s g num n q)).advance 1 := by
  refine ⟨_, ?_, retire_effect s g 1 1 (fun n q => q.setS sd (readSpecial s g num n q)) (fun _ _ => rfl) fun _ _ => rfl⟩
  exact (withGang_next h _).trans (congrArg _ (if_neg (by omega)))

theorem sgetr_unassigned {sd : SReg} {num : BitVec 6} (h : s.issuing = some g) (hn : 18 < num.toNat) :
    exec (.sgetr sd num) s = .next (s.badOperand g 1) :=
  (withGang_next h _).trans (congrArg _ (if_pos hn))

theorem sgetrQpc_completes {sd : SReg} {idx : BitVec 6} (h : s.issuing = some g)
    (hi : idx.toNat < 2 ^ (s.teamOf g).kernel.lgwave) :
    Completes (.sgetrQpc sd idx) s g fun _ q => (q.setS sd (s.quadOf g idx.toNat).issued.pc).advance 1 := by
  refine ⟨_, ?_, retire_effect s g 1 1 (fun _ q => q.setS sd (s.quadOf g idx.toNat).issued.pc) (fun _ _ => rfl) fun _ _ => rfl⟩
  exact (withGang_next h _).trans (congrArg _ (if_neg (Nat.not_le.2 hi)))

theorem sgetrQpc_foreign {sd : SReg} {idx : BitVec 6} (h : s.issuing = some g)
    (hi : 2 ^ (s.teamOf g).kernel.lgwave ≤ idx.toNat) :
    exec (.sgetrQpc sd idx) s = .next (s.badOperand g 1) :=
  (withGang_next h _).trans (congrArg _ (if_pos hi))

/-- Settles O4: each assigned number names its value (`readSpecial`), GANGMAP by its bits (`GangRef.map_getLsbD`); QPC is
the PC of the quad's record once it has issued (`Quad.issued`). -/
theorem specialRegisterRead : Obligations.SpecialRegisterRead := by
  intro s g sd num idx h next
  refine ⟨fun hn => ⟨readSpecial s g num, sgetr_completes h hn, fun n q => ?_⟩, sgetr_unassigned h, fun hi => ?_,
    sgetrQpc_foreign h⟩
  · refine ⟨?_, ?_, ?_, ?_, ?_, ?half, ?_, ?gangmap, ?_, ?_, ?_, ?_, ?_, ?_, ?_, ?_, ?_, ?_⟩ <;> rintro rfl
    case half => exact halfOf_eq
    case gangmap => exact fun _ => g.map_getLsbD
    all_goals rfl
  · have issued (q : Quad) : q.issued.pc = next q := by
      unfold Quad.issued
      dsimp only [next]
      cases q.wait <;> rfl
    exact issued _ ▸ sgetrQpc_completes h hi

end Sys2Proof.Machine
end

section
/-! The cut of a set of quads into gangs (O21; R101, R102). -/

namespace Sys2Proof.Machine

/-- Aligned blocks that meet are nested: the smaller lies in the larger. -/
theorem aligned_nested {b c j k : Nat} (hjk : j ≤ k) (hb : b % 2 ^ j = 0) (hc : c % 2 ^ k = 0) (hbc : b < c + 2 ^ k)
    (hcb : c < b + 2 ^ j) : c ≤ b ∧ b + 2 ^ j ≤ c + 2 ^ k := by
  obtain ⟨p, hp⟩ := Nat.pow_dvd_pow 2 hjk
  obtain ⟨m, rfl⟩ := Nat.dvd_of_mod_eq_zero hb
  obtain ⟨n, rfl⟩ := (Nat.pow_dvd_pow 2 hjk).trans (Nat.dvd_of_mod_eq_zero hc)
  rw [hp, ← Nat.mul_add] at hbc ⊢
  rw [← Nat.mul_succ] at hcb ⊢
  exact ⟨Nat.mul_le_mul_left _ (Nat.le_of_lt_succ (Nat.lt_of_mul_lt_mul_left hcb)),
    Nat.mul_le_mul_left _ (Nat.lt_of_mul_lt_mul_left hbc)⟩

/-- The aligned run of 2^k quads at `b` lies in the set (R102). -/
def RunIn (qs : List Nat) (b k : Nat) : Prop := b % 2 ^ k = 0 ∧ ∀ i < 2 ^ k, b + i ∈ qs

theorem runAt_succ (qs : List Nat) (b k : Nat) [Decidable (RunIn qs b (k + 1))] :
    runAt qs b (k + 1) = if RunIn qs b (k + 1) then k + 1 else runAt qs b k := by
  rw [runAt]
  refine if_congr ?_ rfl rfl
  simp [RunIn]

theorem runAt_le (qs : List Nat) (b n : Nat) : runAt qs b n ≤ n := by
  classical
  induction n with
  | zero => exact Nat.le_refl 0
  | succ n ih =>
    rw [runAt_succ]
    split
    · exact Nat.le_refl _
    · exact Nat.le_succ_of_le ih

theorem runIn_runAt {qs : List Nat} {b : Nat} (hb : b ∈ qs) (n : Nat) : RunIn qs b (runAt qs b n) := by
  classical
  induction n with
  | zero =>
    refine ⟨Nat.mod_one b, fun i hi => ?_⟩
    obtain rfl := Nat.lt_one_iff.mp hi
    exact hb
  | succ n ih =>
    rw [runAt_succ]
    split
    · assumption
    · exact ih

/-- `runAt` finds the largest run. -/
theorem not_runIn_of_runAt_lt {qs : List Nat} {b n j : Nat} (hj : runAt qs b n < j) (hn : j ≤ n) : ¬ RunIn qs b j := by
  classical
  induction n with
  | zero => exact absurd (hj.trans_le hn) (Nat.not_lt_zero _)
  | succ n ih =>
    rw [runAt_succ] at hj
    split at hj
    · exact absurd hn (Nat.not_le.mpr hj)
    · next fails =>
      obtain rfl | below := Nat.eq_or_lt_of_le hn
      · exact fails
      · exact ih hj (Nat.le_of_lt_succ below)

/-- A quad lies in a run. -/
def Covers (r : Nat × Nat) (q : Nat) : Prop := r.1 ≤ q ∧ q < r.1 + 2 ^ r.2

/-- What R102 asks of the cut of a set of quads. -/
structure IsCut (qs : List Nat) (runs : List (Nat × Nat)) : Prop where
  small : ∀ r ∈ runs, r.2 ≤ 4
  inside : ∀ r ∈ runs, RunIn qs r.1 r.2
  covered : ∀ q ∈ qs, ∃ r ∈ runs, Covers r q
  maximal : ∀ r ∈ runs, ∀ k, r.2 < k → k ≤ 4 → ¬ RunIn qs (r.1 / 2 ^ k * 2 ^ k) k
  apart : runs.Pairwise fun a b => a.1 + 2 ^ a.2 ≤ b.1

theorem RunIn.mem {qs : List Nat} {b k q : Nat} (h : RunIn qs b k) (hq : Covers (b, k) q) : q ∈ qs := by
  have := h.2 (q - b) (Nat.sub_lt_left_of_lt_add hq.1 hq.2)
  rwa [Nat.add_sub_cancel' hq.1] at this

theorem RunIn.base_mem {qs : List Nat} {b k : Nat} (h : RunIn qs b k) : b ∈ qs := h.2 0 (Nat.two_pow_pos k)

theorem covers_block (q k : Nat) : Covers (q / 2 ^ k * 2 ^ k, k) q :=
  ⟨Nat.div_mul_le_self q _, Nat.lt_div_mul_add (Nat.two_pow_pos k)⟩

/-- A run and the cut of the quads beyond it are a cut, where the run is the largest at the lowest quad. -/
theorem IsCut.cons {b : Nat} {qs : List Nat} {runs : List (Nat × Nat)} (hb : b ∈ qs) (low : ∀ q ∈ qs, b ≤ q)
    (h : IsCut (qs.filter fun q => decide (b + 2 ^ runAt qs b 4 ≤ q)) runs) : IsCut qs ((b, runAt qs b 4) :: runs) := by
  have sub {q : Nat} (hq : q ∈ qs.filter fun q => decide (b + 2 ^ runAt qs b 4 ≤ q)) :
      q ∈ qs ∧ b + 2 ^ runAt qs b 4 ≤ q := by simpa using hq
  have run : RunIn qs b (runAt qs b 4) := runIn_runAt hb 4
  -- a larger block of the set that meets the run would start at `b`, where `runAt` has found none
  have none_larger {c k : Nat} (hk : runAt qs b 4 < k) (h4 : k ≤ 4) (hc : RunIn qs c k) (hcb : c ≤ b) : False := by
    obtain rfl := Nat.le_antisymm hcb (low c hc.base_mem)
    exact not_runIn_of_runAt_lt hk h4 hc
  refine { small := ?_, inside := ?_, covered := fun q hq => ?_, maximal := ?_, apart := ?_ }
  · exact List.forall_mem_cons.mpr ⟨runAt_le qs b 4, h.small⟩
  · refine List.forall_mem_cons.mpr ⟨run, fun r hr => ⟨(h.inside r hr).1, fun i hi => (sub ((h.inside r hr).2 i hi)).1⟩⟩
  · by_cases here : q < b + 2 ^ runAt qs b 4
    · exact ⟨_, List.mem_cons_self, low q hq, here⟩
    · obtain ⟨r, hr, hc⟩ := h.covered q (List.mem_filter.mpr ⟨hq, decide_eq_true (Nat.not_lt.mp here)⟩)
      exact ⟨r, List.mem_cons_of_mem _ hr, hc⟩
  · refine List.forall_mem_cons.mpr ⟨fun k hk h4 hc => none_larger hk h4 hc (Nat.div_mul_le_self b _), ?_⟩
    intro r hr k hk h4 hc
    refine h.maximal r hr k hk h4 ⟨hc.1, fun i hi => List.mem_filter.mpr ⟨hc.2 i hi, decide_eq_true ?_⟩⟩
    by_contra meets
    have beyond := (sub (h.inside r hr).base_mem).2
    obtain ⟨_, ends⟩ : _ ∧ r.1 < r.1 / 2 ^ k * 2 ^ k + 2 ^ k := covers_block r.1 k
    have first := low _ hc.base_mem
    rcases Nat.lt_or_ge (runAt qs b 4) k with larger | smaller
    · have nested := aligned_nested (Nat.le_of_lt larger) run.1 hc.1 (by omega) (by omega)
      exact none_larger larger h4 hc nested.1
    · have nested := aligned_nested smaller hc.1 run.1 (by omega) (by omega)
      omega
  · refine List.pairwise_cons.mpr ⟨fun r hr => (sub (h.inside r hr).base_mem).2, h.apart⟩

/-- The cut of a rising list of quads (R102). -/
theorem isCut_cutRuns {fuel : Nat} {qs : List Nat} (rising : qs.Pairwise (· < ·)) (hf : qs.length < fuel) :
    IsCut qs (cutRuns fuel qs) := by
  induction fuel generalizing qs with
  | zero => exact absurd hf (Nat.not_lt_zero _)
  | succ fuel ih =>
    cases qs with
    | nil => exact ⟨nofun, nofun, nofun, nofun, .nil⟩
    | cons b qs =>
      have later : ∀ q ∈ qs, b < q := (List.pairwise_cons.mp rising).1
      refine IsCut.cons List.mem_cons_self (List.forall_mem_cons.mpr ⟨Nat.le_refl b, fun q hq => (later q hq).le⟩) (ih ?_ ?_)
      · exact rising.filter _
      · rw [List.filter_cons_of_neg (by simp)]
        exact (List.length_filter_le _ _).trans_lt (Nat.lt_of_succ_lt_succ hf)

/-- A quad lies in one run of a cut only. -/
theorem IsCut.unique {qs : List Nat} {runs : List (Nat × Nat)} (h : IsCut qs runs) {q : Nat} {r r' : Nat × Nat}
    (hr : r ∈ runs) (hr' : r' ∈ runs) (hq : Covers r q) (hq' : Covers r' q) : r' = r := by
  by_contra ne
  let Apart (a b : Nat × Nat) : Prop := a.1 + 2 ^ a.2 ≤ b.1 ∨ b.1 + 2 ^ b.2 ≤ a.1
  have symm : Std.Symm Apart := ⟨fun _ _ => Or.symm⟩
  have : r'.1 + 2 ^ r'.2 ≤ r.1 ∨ r.1 + 2 ^ r.2 ≤ r'.1 := (h.apart.imp (S := Apart) Or.inl).forall hr' hr ne
  obtain ⟨lo, hi⟩ := hq
  obtain ⟨lo', hi'⟩ := hq'
  omega

/-- Settles O21: `cutRuns` makes a cut (`isCut_cutRuns`), whose runs lie apart. -/
theorem gangCut : Obligations.GangCut := by
  intro qs rising _
  have cut := isCut_cutRuns rising (Nat.lt_succ_self _)
  refine ⟨fun r hr => ⟨cut.small r hr, (cut.inside r hr).1, fun q => (cut.inside r hr).mem⟩, fun q hq => ?_,
    fun r hr k hk h4 => ?_, cut.apart⟩
  · obtain ⟨r, hr, hc⟩ := cut.covered q hq
    exact ⟨r, hr, hc, fun r' hr' hc' => cut.unique hr hr' hc hc'⟩
  · by_contra full
    push Not at full
    exact cut.maximal r hr k hk h4 ⟨Nat.mul_mod_left _ _, full⟩

end Sys2Proof.Machine
end

section
/-! Clause headers (O23; R103, R270, R271, R354): the three ways a header goes, and what a change of the gangs of a wave
leaves of an effect. -/

namespace Sys2Proof.Machine

variable {s t u : State} {g : GangRef}

/-! ### Effects -/

/-- A change outside the gang, and of the gangs of its wave, adds nothing to an effect. -/
theorem Effect.outside {dog fuse : BitVec 32} {hits : List Nat} {f : Nat → Quad → Quad} (h : Effect s t g dog fuse hits f)
    (o : Outside t u g) {gangs : List Gang} (e : u.waveOf g = { t.waveOf g with gangs := gangs }) :
    Effect s u g dog fuse hits f := by
  have quad (n : Nat) : u.quadOf g n = t.quadOf g n := congrArg (·.quad n) e
  exact
    { toOutside := h.toOutside.trans o
      dog := fun hw => by rw [e]; exact h.dog hw
      hits := fun hw => by rw [e]; exact h.hits hw
      fuse := fun hw => by rw [e]; exact h.fuse hw
      exited := fun n hx => by rw [quad]; exact h.exited n hx
      each := fun n hn hl hx => by rw [quad]; exact h.each n hn hl hx }

theorem yieldSlot_wave (s : State) (g : GangRef) :
    ∃ gangs, (s.yieldSlot g).waveOf g = { s.waveOf g with gangs := gangs } := by
  unfold State.yieldSlot
  extract_lets w
  split
  · exact ⟨_, rfl⟩
  · simp only [State.waveOf, State.wave_modWave, true_and]
    split <;> exact ⟨_, rfl⟩

theorem outside_yieldSlot (s : State) (g : GangRef) : Outside s (s.yieldSlot g) g := by
  unfold State.yieldSlot
  extract_lets w
  split
  · exact .refl s g
  · exact outside_modWave s g _ (fun _ => rfl) (fun _ => rfl) fun _ _ _ => rfl

/-- The yield hint of a header moves the gang to the pending set and adds nothing else to an effect (R118). -/
theorem Effect.yields {dog fuse : BitVec 32} {hits : List Nat} {f : Nat → Quad → Quad} (h : Effect s t g dog fuse hits f)
    (y : Bool) : Effect s (if y = true then t.yieldSlot g else t) g dog fuse hits f := by
  split
  · obtain ⟨_, e⟩ := yieldSlot_wave t g
    exact h.outside (outside_yieldSlot t g) e
  · exact h

/-! ### Deferred faults -/

theorem GangRef.quads_rising (g : GangRef) : g.quads.Pairwise (· < ·) :=
  List.pairwise_lt_range.map _ fun _ _ h => Nat.add_lt_add_left h _

/-- What is found first in a gang is found in the lowest quad that has it. -/
theorem findSome?_quads {α : Type} {f : Nat → Option α} {n : Nat} {d : α} (hn : n ∈ g.quads) (hd : f n = some d)
    (low : ∀ k ∈ g.quads, k < n → f k = none) : g.quads.findSome? f = some d := by
  obtain ⟨below, above, e⟩ := List.append_of_mem hn
  have rising := g.quads_rising
  rw [e] at rising
  refine List.findSome?_eq_some_iff.mpr ⟨below, n, above, e, hd, fun k hk => low k ?_ ?_⟩
  · exact e ▸ List.mem_append_left _ hk
  · exact (List.pairwise_append.mp rising).2.2 k hk n List.mem_cons_self

theorem raiseDeferred_none {p : Deferred → Bool} {src : TrapSrc}
    (h : ∀ n ∈ g.quads, ∀ d ∈ (s.quadOf g n).deferred, p d = false) : s.raiseDeferred g p src = none := by
  have nothing : (g.quads.findSome? fun n => (s.quadOf g n).deferred.find? p) = none :=
    List.findSome?_eq_none_iff.mpr fun n hn => List.find?_eq_none.mpr fun d hd => by simp [h n hn d hd]
  unfold State.raiseDeferred
  rw [nothing]

/-- All deferred faults that `p` picks are raised together, as the lowest quad's first (R354). -/
theorem raiseDeferred_some {p : Deferred → Bool} {src : TrapSrc} {n : Nat} {d : Deferred} (hn : n ∈ g.quads)
    (hd : (s.quadOf g n).deferred.find? p = some d)
    (low : ∀ k ∈ g.quads, k < n → (s.quadOf g k).deferred.find? p = none) :
    s.raiseDeferred g p src = some ((s.mapGang g fun _ q => { q with deferred := q.deferred.filter fun x => !p x }).trap g
      d.cause d.addr (fun k => (s.quadOf g k).deferredLanes p) src) := by
  unfold State.raiseDeferred
  rw [findSome?_quads hn hd low]

/-! ### The header -/

variable {h : Header}

theorem exec_clauseHeader_raises (hg : s.issuing = some g)
    (clear : ∀ n ∈ g.quads, (s.quadOf g n).flagsClear h.wait = true)
    (e : s.raiseDeferred g (Deferred.atHeader h.wait) 1 = some t) : exec (.clauseHeader h) s = .next t := by
  rw [exec_clauseHeader, execClauseHeader, withGang_next hg, if_pos (List.all_eq_true.mpr clear)]
  simp only [e]

theorem exec_clauseHeader_starts (hg : s.issuing = some g)
    (clear : ∀ n ∈ g.quads, (s.quadOf g n).flagsClear h.wait = true)
    (e : s.raiseDeferred g (Deferred.atHeader h.wait) 1 = none) :
    exec (.clauseHeader h) s = .next
      (let t := (s.mapGang g fun _ q => q.startClause h).occupy g 1
       if h.yield then t.yieldSlot g else t) := by
  rw [exec_clauseHeader, execClauseHeader, withGang_next hg, if_pos (List.all_eq_true.mpr clear)]
  simp only [e]

theorem exec_clauseHeader_held (hg : s.issuing = some g) {n : Nat} (hn : n ∈ g.quads)
    (busy : (s.quadOf g n).flagsClear h.wait = false) :
    exec (.clauseHeader h) s = .next
      (let t := s.mapGang g fun _ q => { q with wait := .header h.wait h.msplit (q.heldSince s.clk) }
       if h.yield then t.yieldSlot g else t) := by
  have held : ¬ (g.quads.all fun n => (s.quadOf g n).flagsClear h.wait) = true := fun all => by
    rw [List.all_eq_true.mp all n hn] at busy
    cases busy
  rw [exec_clauseHeader, execClauseHeader, withGang_next hg, if_neg held]

/-- Settles O23: with every flag of the mask clear the header raises what stands deferred (`raiseDeferred_some`), or starts
the clause; else it holds the gang. Neither the datapath nor the yield hint adds to what the quads see. -/
theorem clauseHeader : Obligations.ClauseHeader := by
  intro s g h hg clear met
  have deferred : Deferred.atHeader h.wait = met := rfl
  refine ⟨fun open_ none_ => ?start, fun ⟨n, hn, busy⟩ => ?hold, fun n d open_ hn hd low => ?raise⟩
  case start =>
    refine ⟨_, exec_clauseHeader_starts hg open_ (raiseDeferred_none (deferred ▸ none_)), ?_⟩
    have started := (mapGang_effect (s := s) (g := g) fun _ q => q.startClause h).outside (outside_occupy _ g 1) rfl
    exact started.yields h.yield
  case hold =>
    exact ⟨_, exec_clauseHeader_held hg hn busy, (mapGang_effect _).yields h.yield⟩
  case raise => exact exec_clauseHeader_raises hg open_ (deferred ▸ raiseDeferred_some hn hd low)

end Sys2Proof.Machine
end

section
/-! SUPPORT. The waves and quads of the state after an update of one quad, of the gangs of a wave, and of every quad of a
team. -/

namespace Sys2Proof.Machine

variable {s : State}

theorem State.quad_modWave (a b t w n : Nat) (f : Wave → Wave) : (s.modWave a b f).quad t w n =
    if t = a ∧ w = b ∧ w < (s.team t).waves.length then (f (s.wave t w)).quad n else s.quad t w n := by
  unfold State.quad
  rw [s.wave_modWave]
  split <;> rfl

/-- A wave that has quads is in its team. -/
theorem State.wave_lt_of_quad_lt {t w n : Nat} (h : n < (s.wave t w).quads.length) : w < (s.team t).waves.length := by
  by_contra out
  rw [State.wave, Team.wave_outside _ out] at h
  exact absurd h (Nat.not_lt_zero n)

theorem State.quad_modQuad (a b k t w n : Nat) (f : Quad → Quad) : (s.modQuad a b k f).quad t w n =
    if t = a ∧ w = b ∧ n = k ∧ n < (s.wave t w).quads.length then f (s.quad t w n) else s.quad t w n := by
  unfold State.modQuad
  rw [s.quad_modWave, Wave.quad_modQuad]
  by_cases hn : n < (s.wave t w).quads.length
  · by_cases h : t = a ∧ w = b
    · simp [h, h.1 ▸ h.2 ▸ State.wave_lt_of_quad_lt hn, State.quad]
    · simp [h, ← and_assoc]
  · simp [hn, State.quad]

/-- Several quads of a wave changed. -/
theorem State.quad_modQuads {t w : Nat} {qs : List Nat} (hn : qs.Nodup) (f : Nat → Quad → Quad) (n : Nat) :
    (s.modQuads t w qs f).quad t w n =
      if n ∈ qs ∧ n < (s.wave t w).quads.length then f n (s.quad t w n) else s.quad t w n := by
  unfold State.modQuads
  rw [s.quad_modWave, Wave.quad_foldl_modQuad qs hn]
  by_cases h : n < (s.wave t w).quads.length
  · rw [if_pos ⟨rfl, rfl, State.wave_lt_of_quad_lt h⟩]
    rfl
  · simp only [h, and_false, if_false]
    exact ite_self _

/-- A change of the gangs of a wave leaves every quad. -/
@[simp] theorem State.quad_replaceGangs (a b t w n : Nat) (qs : List Nat) (runs : List (Nat × Nat)) :
    (s.replaceGangs a b qs runs).quad t w n = s.quad t w n := by
  unfold State.replaceGangs
  dsimp only
  rw [s.quad_modWave]
  split <;> rfl

/-- The test of R138 is made in every quad of the team. -/
theorem State.quad_barTest (t w n : Nat) : (s.barTest t).quad t w n = (s.quad t w n).barAgain (s.team t) := by
  unfold State.barTest State.quad State.wave
  dsimp only
  rw [s.team_modTeam]
  by_cases ht : t < s.teams.length
  · rw [if_pos ⟨rfl, ht⟩]
    unfold Team.wave Wave.quad
    dsimp only
    rw [show Wave.blank = { Wave.blank with quads := Wave.blank.quads.map (·.barAgain (s.team t)) } from rfl, List.getD_map]
    exact List.getD_map (d := Quad.start) ..
  · rw [if_neg (fun h => ht h.2), s.team_outside ht]
    rfl

/-! ### One quad -/

theorem modAt_congr {α : Type} {l : List α} {i : Nat} {f h : α → α} (d : α)
    (e : i < l.length → f (l.getD i d) = h (l.getD i d)) : modAt l i f = modAt l i h := by
  apply List.ext_getElem?
  intro n
  rw [modAt_getElem?, modAt_getElem?]
  split
  · next hn =>
    subst hn
    by_cases hl : n < l.length
    · simpa [List.getD_eq_getElem?_getD, hl] using e hl
    · simp [hl]
  · rfl

/-- Changes of a wave that do the same to the wave as it stands are the same. -/
theorem State.modWave_congr {t w : Nat} {f h : Wave → Wave} (e : f (s.wave t w) = h (s.wave t w)) :
    s.modWave t w f = s.modWave t w h := by
  have team : (s.team t).modWave w f = (s.team t).modWave w h :=
    congrArg (fun l => { s.team t with waves := l }) (modAt_congr Wave.blank fun _ => e)
  exact congrArg (fun l => { s with teams := l })
    (modAt_congr (f := (·.modWave w f)) (h := (·.modWave w h)) Team.blank fun _ => team)

theorem State.modQuad_congr {t w n : Nat} {f h : Quad → Quad} (e : f (s.quad t w n) = h (s.quad t w n)) :
    s.modQuad t w n f = s.modQuad t w n h :=
  State.modWave_congr (congrArg (fun l => { s.wave t w with quads := l }) (modAt_congr Quad.start fun _ => e))

theorem State.modQuads_congr {t w : Nat} {qs : List Nat} (hn : qs.Nodup) {f h : Nat → Quad → Quad}
    (e : ∀ n ∈ qs, f n (s.quad t w n) = h n (s.quad t w n)) : s.modQuads t w qs f = s.modQuads t w qs h := by
  refine State.modWave_congr (Wave.ext_quads ?_ ?_ fun n => ?_)
  · rw [Wave.foldl_modQuad_eq qs f, Wave.foldl_modQuad_eq qs h]
  · rw [Wave.foldl_modQuad_length, Wave.foldl_modQuad_length]
  · rw [Wave.quad_foldl_modQuad qs hn, Wave.quad_foldl_modQuad qs hn]
    split
    · next hq => exact e n hq.1
    · rfl

theorem State.modQuad_modQuad (t w n : Nat) (f h : Quad → Quad) :
    (s.modQuad t w n f).modQuad t w n h = s.modQuad t w n fun q => h (f q) := by
  unfold State.modQuad
  rw [State.modWave_modWave]
  congr 1
  funext x
  exact congrArg (fun l => { x with quads := l }) (modAt_modAt x.quads n f h)

/-- A gang of one quad. -/
theorem State.mapGang_one (t w n : Nat) (f : Nat → Quad → Quad) :
    s.mapGang { t := t, w := w, base := n, lg := 0 } f = s.modQuad t w n fun q => if q.exited then q else f n q := rfl

theorem State.wave_modQuad (t w n : Nat) (f : Quad → Quad) :
    (s.modQuad t w n f).wave t w = (s.wave t w).modQuad n f := by
  unfold State.modQuad
  rw [s.wave_modWave]
  split
  · rfl
  · next h =>
    rw [State.wave, Team.wave_outside _ fun hw => h ⟨rfl, rfl, hw⟩]
    rfl

/-! ### Waking a core -/

/-- A quad that stalled on a resource of its core may try again (R117). -/
def Quad.awake (q : Quad) : Quad :=
  match q.wait with
  | .engineFull => { q with wait := .ready }
  | .structural => { q with wait := .ready }
  | _ => q

/-- The quads of a wave of the core may try again. -/
def Wave.awake (w : Wave) (core : Nat) : Wave := if w.core = core then { w with quads := w.quads.map Quad.awake } else w

/-- The same of a team. -/
def Team.awake (x : Team) (core : Nat) : Team := { x with waves := x.waves.map (·.awake core) }

theorem State.wave_wake (core t w : Nat) : (s.wake core).wave t w = (s.wave t w).awake core := by
  have blank : Wave.blank.awake core = Wave.blank := by
    unfold Wave.awake
    split <;> rfl
  have wave (x : Team) : (x.awake core).wave w = (x.wave w).awake core := by
    have e := List.getD_map (n := w) x.waves Wave.blank (·.awake core)
    rwa [blank] at e
  unfold State.wave
  rw [← wave]
  exact congrArg (·.wave w) (List.getD_map s.teams Team.blank (·.awake core))

/-- Waking a core and changing a quad in the same way before or after. -/
theorem State.modQuad_wake (core t w n : Nat) {f : Quad → Quad} (hf : ∀ q, f q.awake = (f q).awake) :
    (s.wake core).modQuad t w n f = (s.modQuad t w n f).wake core := by
  have map {α : Type} (h : α → α) (k : α → α) (hk : ∀ x, k (h x) = h (k x)) (l : List α) (i : Nat) :
      modAt (l.map h) i k = (modAt l i k).map h := by
    apply List.ext_getElem?
    intro m
    rw [modAt_getElem?, List.getElem?_map, List.getElem?_map, modAt_getElem?]
    split
    · rw [Option.map_map, Option.map_map]
      exact congrArg (Option.map · _) (funext hk)
    · rfl
  have wave (x : Wave) : (x.awake core).modQuad n f = (x.modQuad n f).awake core := by
    unfold Wave.awake Wave.modQuad
    dsimp only
    split
    · exact congrArg (fun l => { x with quads := l }) (map _ _ hf _ _)
    · rfl
  have team (x : Team) : (x.awake core).modWave w (·.modQuad n f) = (x.modWave w (·.modQuad n f)).awake core :=
    congrArg (fun l => { x with waves := l }) (map (·.awake core) (·.modQuad n f) wave _ _)
  exact congrArg (fun l => { s with teams := l }) (map (·.awake core) (·.modWave w (·.modQuad n f)) team _ _)

/-! ### The A-latch of a wave -/

theorem LatchEntry.holds_congr {x y : Wave} (e : LatchEntry) (h : ∀ n, (x.quad n).lanes = (y.quad n).lanes) :
    e.holds x = e.holds y := by
  have lane (n i : Nat) : (x.quad n).lane i = (y.quad n).lane i := by
    unfold Quad.lane
    rw [h]
  unfold LatchEntry.holds
  simp only [lane]

theorem Latch.trim_congr {x y : Wave} (l : Latch) (o : Nat × Nat) (h : ∀ n, (x.quad n).lanes = (y.quad n).lanes) :
    l.trim o x = l.trim o y := by
  unfold Latch.trim
  simp only [LatchEntry.holds_congr _ h]

/-- A change that leaves the vector registers does not ask for another trim. -/
theorem State.modQuad_trimLatch {t w n : Nat} {f : Quad → Quad} (hf : ∀ q, (f q).lanes = q.lanes) :
    (s.trimLatch t w).modQuad t w n f = (s.modQuad t w n f).trimLatch t w := by
  have trim (y : Quarter) : y.latch.trim (t, w) ((s.wave t w).modQuad n f) = y.latch.trim (t, w) (s.wave t w) := by
    refine y.latch.trim_congr _ fun k => ?_
    rw [Wave.quad_modQuad]
    split
    · exact hf _
    · rfl
  unfold State.trimLatch
  rw [State.wave_modQuad]
  simp only [trim]
  rfl

end Sys2Proof.Machine
end

section
/-! Fences and `exit` (O33; R104, R193, R310, R370): what follows the release steps, and what an exit leaves of a quad. -/

namespace Sys2Proof.Machine

variable {s t u v : State} {g : GangRef}

/-! ### Releases and acquires that can be taken at once -/

/-- The release steps of R178 taken at once: the instruction goes on in the state they lead to. -/
theorem ReleaseNow.releasing (h : ReleaseNow s g v u) (src : TrapSrc) (k : State → State) : s.releasing g src k = k u := by
  have drains : s.raiseDrain g src = none := by
    unfold State.raiseDrain
    simp only [h.wave]
    exact raiseDeferred_none h.faults
  unfold State.releasing State.atDrainPoint State.drained
  simp only [drains, h.bound, h.replies, h.loads, h.drain, h.residuals, Bool.or_self, Bool.false_eq_true, if_false]
  rw [h.result]

theorem scopeChecked_pass {xs : List Acquire} {src : TrapSrc} (h : ∀ a ∈ xs, a.fails s (s.coreOf g) = false)
    (k : State → State) : s.scopeChecked g xs src k = k s := by
  have passed : xs.filter (Acquire.fails s (s.coreOf g)) = [] := List.filter_eq_nil_iff.mpr fun a ha => by simp [h a ha]
  unfold State.scopeChecked
  simp only [passed]

/-- The atomics that the quads of a gang have to acquire (R370). -/
def State.fenceAcquires (s : State) (g : GangRef) : List Acquire :=
  (s.live g).flatMap fun n => (s.quadOf g n).acqLines.map fun l => { quad := n, lanes := 0xF, at_ := l }

/-- The acquire part of a fence that waits for nothing. -/
theorem fenceAcquire_now (pending : s.atomicsPending g = false)
    (scope : ∀ a ∈ s.fenceAcquires g, a.fails s (s.coreOf g) = false)
    (promote : s.toPromote (s.coreOf g) ((s.fenceAcquires g).map (·.at_)) = []) (k : State → State) :
    s.fenceAcquire g k = k ((s.acquire g.t g.w (s.live g) ((s.fenceAcquires g).map (·.at_))).mapGang g
      fun _ q => { q with acqLines := [] }) := by
  unfold State.fenceAcquire
  rw [if_neg (by simp [pending])]
  refine (scopeChecked_pass scope _).trans (if_pos ?_)
  exact List.isEmpty_iff.mpr promote

/-- `ifence`: the core without the instruction lines of the gang's context (R193). -/
def State.dropCode (s : State) (g : GangRef) : State :=
  s.modCore (s.coreOf g) fun k => { k with ilines := k.ilines.filter fun l => l.ctx != s.ctxOf g }

/-! ### The frame of a quad that exits -/

/-- What an exit leaves of a quad as it was: its registers and its PC; and whether it has exited. -/
def Quad.kept (q : Quad) : Vector Word 64 × Vector Lane 4 × Word × Bool := (q.s, q.lanes, q.pc, q.exited)

/-- The same of the quads of a gang's wave. -/
def State.kept (s : State) (g : GangRef) : List (Vector Word 64 × Vector Lane 4 × Word × Bool) :=
  (s.waveOf g).quads.map Quad.kept

theorem quadOf_kept (h : t.kept g = s.kept g) (n : Nat) : (t.quadOf g n).kept = (s.quadOf g n).kept := by
  have e (u : State) : (u.quadOf g n).kept = (u.kept g).getD n Quad.start.kept := (List.getD_map (d := Quad.start) ..).symm
  rw [e, e, h]

theorem length_of_kept (h : t.kept g = s.kept g) : (t.waveOf g).quads.length = (s.waveOf g).quads.length := by
  simpa [State.kept] using congrArg List.length h

theorem Quad.still_kept (q : Quad) : q.still.kept = q.kept := by
  unfold Quad.still
  split <;> rfl

theorem kept_of_still (h : t.still = s.still) : t.kept g = s.kept g := by
  have e (u : State) : u.kept g = (u.waveOf g).still.quads.map Quad.kept := by
    simp only [State.kept, Wave.still, List.map_map, Function.comp_def, Quad.still_kept]
  rw [e, e, waveOf_of_still h]

theorem kept_congr (h : t.teams = s.teams) : t.kept g = s.kept g := by
  unfold State.kept
  rw [waveOf_congr h]

theorem modWave_kept {f : Wave → Wave} (h : ∀ x, (f x).quads = x.quads) : (s.modWave g.t g.w f).kept g = s.kept g := by
  unfold State.kept
  simp only [State.waveOf, State.wave_modWave, true_and]
  split
  · rw [h]
  · rfl

theorem wake_kept (core : Nat) : (s.wake core).kept g = s.kept g := by
  have quad (q : Quad) : q.awake.kept = q.kept := by
    unfold Quad.awake
    split <;> rfl
  unfold State.kept State.waveOf
  rw [State.wave_wake]
  unfold Wave.awake
  split
  · simp only [List.map_map, Function.comp_def, quad]
  · rfl

theorem account_kept (cost : Nat) (mode : DogMode) : (s.account g cost mode).kept g = s.kept g := by
  obtain ⟨u, e, _, same⟩ := account_eq s g cost mode
  have watched : (u.watchdog g mode).kept g = u.kept g := modWave_kept fun _ => rfl
  rw [e, watched, kept_congr same]

theorem discardEntry_kept (core id : Nat) : (s.discardEntry core id).kept g = s.kept g := wake_kept core

theorem orphanFaults_kept (n : Nat) : (s.orphanFaults g n).kept g = s.kept g := by
  unfold State.orphanFaults
  refine foldl_keeps (view := fun s => s.kept g) (fun s p => ?_) _ s
  split
  · exact (kept_congr (State.ctxFault_teams _)).trans (kept_of_still State.log_still)
  · rfl
  · rfl

/-! ### What a quad that has exited keeps -/

/-- A quad that has exited and waits for nothing. -/
structure Quad.Gone (q : Quad) : Prop where
  exited : q.exited = true
  ready : q.wait = .ready

theorem fuse_gone {run : GangRef} (ht : run.t = g.t) (hw : run.w = g.w) {n : Nat} (h : (s.quadOf g n).Gone) :
    (s.fuse run).quadOf g n = s.quadOf g n := by
  have same (u : State) : u.quadOf g n = u.quadOf run n := by
    unfold State.quadOf
    rw [ht, hw]
  have kept := s.quadOf_mapGang run (fun _ q => { q with wait := .ready }) n
  rw [if_neg fun e => by rw [← same, h.exited] at e; cases e.2.2] at kept
  rw [same, same]
  exact (State.quad_replaceGangs ..).trans kept

theorem fuseTest_gone {n : Nat} (h : (s.quadOf g n).Gone) : (s.fuseTest g.t g.w).quadOf g n = s.quadOf g n := by
  unfold State.fuseTest
  refine List.foldlRecOn (motive := fun t : State => t.quadOf g n = s.quadOf g n) _ _ rfl fun t same y _ => ?_
  dsimp only
  split
  · split
    · refine (fuse_gone (g := g) ?_ ?_ (same ▸ h)).trans same <;> rfl
    · exact same
  · exact same

theorem barTest_gone {n : Nat} (h : (s.quadOf g n).Gone) : (s.barTest g.t).quadOf g n = s.quadOf g n := by
  refine (s.quad_barTest g.t g.w n).trans ?_
  unfold Quad.barAgain
  rw [show (s.quad g.t g.w n).wait = .ready from h.ready]
  rfl

/-- The state in which the quads of a gang exit: the issue is accounted for, and the loop-nest entries and faults that lose
their handlers are dealt with (R381). -/
def State.beforeExit (s : State) (g : GangRef) : State :=
  let qs := s.live g
  let s := qs.foldl (fun s n =>
    match (s.quadOf g n).nestHandled with
    | some e => s.discardEntry (s.coreOf g) e
    | none => s) (s.account g 1 .count)
  qs.foldl (fun s n => s.orphanFaults g n) s

theorem beforeExit_kept : (s.beforeExit g).kept g = s.kept g := by
  unfold State.beforeExit
  dsimp only
  rw [foldl_keeps (view := fun s => s.kept g) (fun _ n => orphanFaults_kept n)]
  refine (foldl_keeps (view := fun s => s.kept g) (fun s n => ?_) _ _).trans (account_kept 1 .count)
  split
  · exact discardEntry_kept _ _
  · rfl

/-- The quads of a gang exit: what waits for them is tested again (R110, R138), and a wave without quads frees its latch. -/
def State.exitGang (s : State) (g : GangRef) : State :=
  let s := (((s.mapGang g fun _ q => q.exit).regang g).fuseTest g.t g.w).barTest g.t
  if (s.waveOf g).quads.all (·.exited) then s.freeLatch g.t g.w else s

theorem exec_exit_now (hg : s.issuing = some g) (h : ReleaseNow s g v u) :
    exec .exit s = .next ((u.beforeExit g).exitGang g) := by
  rw [exec_exit, execExit, withGang_next hg, h.releasing]
  rfl

theorem Quad.gone_exit (q : Quad) : q.exit.Gone := ⟨rfl, rfl⟩

/-- The tests of R110 and R138 and the latch leave a quad that has exited. -/
theorem exitGang_quad (s : State) (g : GangRef) {n : Nat} {q : Quad}
    (h : ((s.mapGang g fun _ q => q.exit).regang g).quadOf g n = q.exit) : (s.exitGang g).quadOf g n = q.exit := by
  unfold State.exitGang
  generalize (s.mapGang g fun _ q => q.exit).regang g = u at h ⊢
  have fused : (u.fuseTest g.t g.w).quadOf g n = q.exit := (fuseTest_gone (by rw [h]; exact q.gone_exit)).trans h
  have tested : ((u.fuseTest g.t g.w).barTest g.t).quadOf g n = q.exit :=
    (barTest_gone (by rw [fused]; exact q.gone_exit)).trans fused
  dsimp only
  split
  · exact (State.quadOf_modCore ..).trans tested
  · exact tested

/-- A quad of the gang that is live has exited. -/
theorem quadOf_exitGang {n : Nat} (hn : n ∈ g.quads) (hl : n < (s.waveOf g).quads.length)
    (hx : (s.quadOf g n).exited = false) : (s.exitGang g).quadOf g n = (s.quadOf g n).exit := by
  refine exitGang_quad s g ?_
  unfold State.regang
  rw [State.quadOf_regangBy, s.quadOf_mapGang, if_pos ⟨hn, hl, hx⟩]

/-! ### The five instructions -/

section
variable (hg : s.issuing = some g)
include hg

theorem fenceRel_completes (h : ReleaseNow s g v u) :
    CompletesFrom .fenceRel s g u fun _ q => ({ q with relFence := true } : Quad).advance 1 := by
  refine ⟨_, ?_, retire_effect u g 1 1 (fun _ q => { q with relFence := true }) (fun _ _ => rfl) fun _ _ => rfl⟩
  rw [exec_fenceRel, execFenceRel, withGang_next hg, State.fenceRelease, h.releasing]

theorem ifence_completes : CompletesFrom .ifence s g (s.dropCode g) fun _ q => q.advance 1 := by
  refine ⟨_, withGang_next hg _, ?_⟩
  have effect := retire_effect (s.dropCode g) g 1 1 (fun _ q => q) (fun _ _ => rfl) fun _ _ => rfl
  rwa [State.mapGang_self fun _ _ => rfl] at effect

section
variable (pending : s.atomicsPending g = false) (scope : ∀ a ∈ s.fenceAcquires g, a.fails s (s.coreOf g) = false)
  (promote : s.toPromote (s.coreOf g) ((s.fenceAcquires g).map (·.at_)) = [])
include pending scope promote

theorem fenceAcq_completes : CompletesFrom .fenceAcq s g
    (s.acquire g.t g.w (s.live g) ((s.fenceAcquires g).map (·.at_)))
    fun _ q => ({ q with acqLines := [] } : Quad).advance 1 := by
  refine ⟨_, ?_, retire_effect _ g 1 1 (fun _ q => { q with acqLines := [] }) (fun _ _ => rfl) fun _ _ => rfl⟩
  rw [exec_fenceAcq, execFenceAcq, withGang_next hg, fenceAcquire_now pending scope promote]

theorem fenceAr_completes (h : ReleaseNow ((s.acquire g.t g.w (s.live g) ((s.fenceAcquires g).map (·.at_))).mapGang g
    fun _ q => { q with acqLines := [] }) g v u) :
    CompletesFrom .fenceAr s g u fun _ q => ({ q with relFence := true } : Quad).advance 1 := by
  refine ⟨_, ?_, retire_effect u g 1 1 (fun _ q => { q with relFence := true }) (fun _ _ => rfl) fun _ _ => rfl⟩
  rw [exec_fenceAr, execFenceAr, withGang_next hg, fenceAcquire_now pending scope promote, State.fenceRelease, h.releasing]

end

theorem exit_leaves (h : ReleaseNow s g v u) : ∃ t, exec .exit s = .next t ∧
    ∀ n ∈ g.quads, n < (u.waveOf g).quads.length → (u.quadOf g n).exited = false →
      ∃ q : Quad, q.kept = (u.quadOf g n).kept ∧ t.quadOf g n = q.exit := by
  refine ⟨_, exec_exit_now hg h, fun n hn hl hx => ?_⟩
  have kept := beforeExit_kept (s := u) (g := g)
  have quad := quadOf_kept kept n
  have live : ((u.beforeExit g).quadOf g n).exited = false := (congrArg (·.2.2.2) quad).trans hx
  exact ⟨_, quad, quadOf_exitGang hn (length_of_kept kept ▸ hl) live⟩

end

/-- Settles O33: with the release steps (`ReleaseNow.releasing`) or the acquires (`fenceAcquire_now`) taken at once each
fence completes on top of the state they lead to; nothing of an exit reaches the registers of its quads
(`beforeExit_kept`, `quadOf_exitGang`). -/
theorem fencesAndExit : Obligations.FencesAndExit := by
  intro s v u g hg xs acquirable got
  refine ⟨fenceRel_completes hg, fun ⟨pending, scope, promote⟩ => fenceAcq_completes hg pending scope promote,
    fun ⟨pending, scope, promote⟩ => fenceAr_completes hg pending scope promote, ifence_completes hg, fun h => ?exit⟩
  obtain ⟨t, ht, leaves⟩ := exit_leaves hg h
  refine ⟨t, ht, fun n hn hl hx => ?_⟩
  obtain ⟨q, kept, e⟩ := leaves n hn hl hx
  obtain ⟨scalars, lanes, pc, _⟩ := by simpa [Quad.kept] using kept
  rw [e]
  exact ⟨rfl, rfl, rfl, rfl, scalars, lanes, pc⟩

end Sys2Proof.Machine
end

section
/-! The completion of a long-latency instruction (O27; R117, R276, R277, R354, R390, R416): the quad after its writes, and
when its gang goes on. -/

namespace Sys2Proof.Machine

variable {s : State} {g : GangRef}

/-! ### The quad -/

/-- The register writes of a completion, in their order. -/
def Pend.allWrites (p : Pend) : List RegWrite := p.writes ++ p.loads.flatMap (·.regWrites) ++ p.blendWrites

/-- A quad whose outstanding instruction has made its writes and deferred its faults (R354). -/
def Quad.landPend (q : Quad) (p : Pend) : Quad :=
  p.allWrites.foldl (fun x y => x.write y)
    { q with pends := q.pends.filter fun x => x.id != p.id, deferred := q.deferred ++ p.faults }

/-- What register writes leave of a quad. -/
def Quad.status (q : Quad) : QWait × Bool × List Deferred := (q.wait, q.exited, q.deferred)

theorem landPend_status (q : Quad) (p : Pend) : (q.landPend p).status = (q.wait, q.exited, q.deferred ++ p.faults) := by
  unfold Quad.landPend
  refine List.foldlRecOn (motive := fun x : Quad => x.status = _) _ _ rfl fun x same y _ => ?_
  cases y <;> exact same

theorem landPend_wait (q : Quad) (p : Pend) : (q.landPend p).wait = q.wait := congrArg (·.1) (landPend_status q p)

theorem landPend_exited (q : Quad) (p : Pend) : (q.landPend p).exited = q.exited := congrArg (·.2.1) (landPend_status q p)

theorem finish_flag {p : Pend} {f : BitVec 4} (q : Quad) (clk : Nat) (hp : p.poll = none) (hf : p.flag = some f) :
    q.finish p clk = (q.landPend p).lower f := by
  unfold Quad.finish Quad.polled
  simp only [hp, hf]
  rfl

theorem finish_interlock {p : Pend} {q : Quad} {len : Nat} (clk : Nat) (hp : p.poll = none) (hf : p.flag = none)
    (hq : q.wait = .interlock len) : q.finish p clk = { q.landPend p with wait := .landed len } := by
  have wait := (landPend_wait q p).trans hq
  unfold Quad.finish Quad.polled
  simp only [hp, hf]
  change (match (q.landPend p).wait with
    | .interlock len => { q.landPend p with wait := .landed len }
    | _ => q.landPend p) = _
  rw [wait]

/-- The flag falls by 1, and stays at 0 (R276). -/
theorem Quad.lower_eq (q : Quad) (f : BitVec 4) : q.lower f =
    { q with f := q.f.setIfInBounds f.toNat (q.f.getD f.toNat 0 - (if q.f.getD f.toNat 0 = 0 then 0 else 1)) } := by
  unfold Quad.lower Quad.setFlag Quad.flag
  split
  · next h => rw [h]; rfl
  · rfl

/-! ### The gang -/

/-- The state after a completion, before the gang of the quad may go on. -/
def State.landed (s : State) (t w n : Nat) (q : Quad) : State :=
  ((s.modQuad t w n fun _ => q).trimLatch t w).wake (s.wave t w).core

/-- The gang of a quad goes on when it may (R277). -/
def State.goOn (s : State) (t w n : Nat) : State :=
  match s.gangOf t w n with
  | some g => s.unlock g
  | none => s

theorem exec_complete {t w n idx : Nat} {p : Pend} (hp : (s.quad t w n).pends[idx]? = some p) (walks : p.walks = [])
    (requests : p.requests = []) (still : (s.quad t w n).promoting = false) :
    exec (.longLatencyComplete t w n idx) s =
      .next ((s.landed t w n ((s.quad t w n).finish p s.clk)).goOn t w n) := by
  have ripe : (p.ripe && !(s.quad t w n).promoting) = true := by simp [Pend.ripe, walks, requests, still]
  have fin : (s.modQuad t w n fun q => q.finish p s.clk) = s.modQuad t w n fun _ => (s.quad t w n).finish p s.clk :=
    State.modQuad_congr rfl
  have core : (((s.modQuad t w n fun _ => (s.quad t w n).finish p s.clk).trimLatch t w).wave t w).core =
      (s.wave t w).core := by
    have e := congrArg Wave.core (s.wave_modQuad t w n fun _ => (s.quad t w n).finish p s.clk)
    exact e
  rw [exec_longLatencyComplete]
  unfold execLongLatencyComplete
  dsimp only
  simp only [hp]
  rw [if_pos ripe, fin, core]
  rfl

theorem landed_wave (t w n : Nat) (q : Quad) : (s.landed t w n q).wave t w =
    { s.wave t w with quads := (((s.wave t w).modQuad n fun _ => q).quads.map Quad.awake) } := by
  unfold State.landed
  rw [State.wave_wake]
  have trimmed : ((s.modQuad t w n fun _ => q).trimLatch t w).wave t w = (s.wave t w).modQuad n fun _ => q :=
    s.wave_modQuad t w n _
  rw [trimmed]
  exact if_pos rfl

theorem landed_quad {t w n : Nat} (hn : n < (s.wave t w).quads.length) (q : Quad) :
    (s.landed t w n q).quad t w n = q.awake := by
  unfold State.quad
  rw [landed_wave]
  have e := List.getD_map (n := n) ((s.wave t w).modQuad n fun _ => q).quads Quad.start Quad.awake
  refine e.trans (congrArg Quad.awake ?_)
  exact (Wave.quad_modQuad ..).trans (if_pos ⟨rfl, hn⟩)

theorem landed_gangOf (t w n : Nat) (q : Quad) : (s.landed t w n q).gangOf t w n = s.gangOf t w n := by
  unfold State.gangOf
  rw [landed_wave]

theorem gangOf_some {t w n : Nat} (h : s.gangOf t w n = some g) : g.t = t ∧ g.w = w ∧ n ∈ g.quads := by
  obtain ⟨y, hy, rfl⟩ := Option.map_eq_some_iff.mp h
  exact ⟨rfl, rfl, (GangRef.mem_quads _ n).mpr (by simpa using List.find?_some hy)⟩

theorem unlock_stopped (h : (s.waveOf g).stopped = true) : s.unlock g = s := if_pos h

/-- A gang does not go on while a quad of it has not completed (R277). -/
theorem unlock_waits {n : Nat} (hn : n ∈ g.quads) (live : (s.quadOf g n).exited = false)
    (h : (s.quadOf g n).wait.landedLen = none) : s.unlock g = s := by
  have some_waits : ¬ ((g.quads.filter fun n => !(s.quadOf g n).exited).all
      fun n => (s.quadOf g n).wait.landedLen.isSome) = true := fun all => by
    have := List.all_eq_true.mp all n (List.mem_filter.mpr ⟨hn, by simp [live]⟩)
    rw [h] at this
    cases this
  unfold State.unlock
  dsimp only
  rw [if_neg some_waits, ite_self]

theorem goOn_gang {t w n : Nat} (h : s.gangOf t w n = some g) : s.goOn t w n = s.unlock g := by
  unfold State.goOn
  simp only [h]

theorem goOn_stopped {t w n : Nat} (h : (s.wave t w).stopped = true) : s.goOn t w n = s := by
  unfold State.goOn
  split
  · next g hg =>
    obtain ⟨rfl, rfl, _⟩ := gangOf_some hg
    exact unlock_stopped h
  · rfl

theorem goOn_waits {t w n : Nat} (live : (s.quad t w n).exited = false) (h : (s.quad t w n).wait.landedLen = none) :
    s.goOn t w n = s := by
  unfold State.goOn
  split
  · next g hg =>
    obtain ⟨rfl, rfl, hn⟩ := gangOf_some hg
    exact unlock_waits hn live h
  · rfl

/-! ### A gang of one quad -/

/-- Past the interlock of a quad. -/
def Quad.unlocked (q : Quad) : Quad :=
  match q.wait with
  | .landed len => { q with wait := .ready }.advance len
  | _ => q

theorem runAt_singleton (n k : Nat) : runAt [n] n k = 0 := by
  by_contra more
  have next := (runIn_runAt (List.mem_singleton.mpr rfl) k).2 1 (Nat.one_lt_two_pow more)
  exact absurd (List.mem_singleton.mp next) (Nat.succ_ne_self n)

section
variable (one : g.lg = 0)
include one

theorem GangRef.quads_one : g.quads = [g.base] := by
  unfold GangRef.quads
  rw [one]
  rfl

theorem mapGang_one (f : Nat → Quad → Quad) :
    s.mapGang g f = s.modQuad g.t g.w g.base fun q => if q.exited then q else f g.base q := by
  unfold State.mapGang State.modQuads
  rw [g.quads_one one]
  rfl

/-- One quad does not divide (R102). -/
theorem regang_one (live : (s.quadOf g g.base).exited = false) : s.regang g = s := by
  refine if_pos ?_
  have live : (s.quad g.t g.w g.base).exited = false := live
  unfold State.runsBy
  rw [g.quads_one one, one]
  simp [live, groupByKey, cutRuns, runAt_singleton]

/-- The completion of the interlocked instruction of a gang of one quad lets it go on (R277). -/
theorem unlock_one {len : Nat} (runs : (s.waveOf g).stopped = false) (live : (s.quadOf g g.base).exited = false)
    (h : (s.quadOf g g.base).wait = .landed len) (clean : (s.quadOf g g.base).deferred = []) :
    s.unlock g = s.modQuad g.t g.w g.base fun q => if q.exited then q else q.unlocked := by
  have landed : ((g.quads.filter fun n => !(s.quadOf g n).exited).all
      fun n => (s.quadOf g n).wait.landedLen.isSome) = true := by
    rw [g.quads_one one]
    simp [live, h, QWait.landedLen]
  have none_raised (src : TrapSrc) : s.raiseDeferred g Deferred.isInterlock src = none := by
    refine raiseDeferred_none fun k hk d hd => ?_
    rw [g.quads_one one, List.mem_singleton] at hk
    rw [hk, clean] at hd
    cases hd
  have still : ((s.mapGang g fun _ q => q.unlocked).quadOf g g.base).exited = false := by
    have kept (q : Quad) : q.unlocked.exited = q.exited := by
      unfold Quad.unlocked
      split <;> rfl
    rw [s.quadOf_mapGang]
    split
    · exact (kept _).trans live
    · exact live
  unfold State.unlock
  dsimp only
  rw [if_neg (by simp [runs]), if_pos landed]
  simp only [none_raised]
  exact (regang_one one still).trans (mapGang_one one _)

end

theorem awake_of_landed {q : Quad} {len : Nat} (h : q.wait = .landed len) : q.awake = q := by
  unfold Quad.awake
  rw [h]

/-- A quad past its interlock has no other registers, and is not stalled on its core. -/
theorem Quad.unlocked_eq {q : Quad} {len : Nat} (h : q.wait = .landed len) :
    q.unlocked = ({ q with wait := .ready } : Quad).advance len := by
  unfold Quad.unlocked
  rw [h]

theorem Quad.awake_exited (q : Quad) : q.awake.exited = q.exited := by
  unfold Quad.awake
  split <;> rfl

/-- A quad that stalls on its core has no interlock. -/
theorem Quad.awake_unlocked (q : Quad) : q.awake.unlocked = q.unlocked.awake := by
  cases h : q.wait <;> simp [Quad.awake, Quad.unlocked, Quad.advance, h]

theorem Quad.awake_landedLen (q : Quad) : q.awake.wait.landedLen = q.wait.landedLen := by
  cases h : q.wait <;> simp [Quad.awake, h, QWait.landedLen]

/-- Landing and going on is landing past the interlock. -/
theorem landed_unlocked (t w n : Nat) (q : Quad) :
    ((s.landed t w n q).modQuad t w n fun q => if q.exited then q else q.unlocked) =
      s.landed t w n (if q.exited then q else q.unlocked) := by
  have lanes (q : Quad) : (if q.exited then q else q.unlocked).lanes = q.lanes := by
    unfold Quad.unlocked
    split
    · rfl
    · split <;> rfl
  have awake (q : Quad) : (if q.awake.exited then q.awake else q.awake.unlocked) =
      (if q.exited then q else q.unlocked).awake := by
    rw [q.awake_exited, q.awake_unlocked]
    split <;> rfl
  unfold State.landed
  rw [State.modQuad_wake _ _ _ _ awake, State.modQuad_trimLatch lanes, State.modQuad_modQuad]

theorem not_promoting {q : Quad} (h : ∀ lines reqs len, q.wait ≠ .promote lines reqs len) : q.promoting = false := by
  unfold Quad.promoting
  split
  · next e => exact absurd e (h _ _ _)
  · rfl

theorem landedLen_none {q : Quad} (h : ∀ len, q.wait ≠ .landed len) : q.wait.landedLen = none := by
  unfold QWait.landedLen
  split
  · next e => exact absurd e (h _)
  · rfl

/-- A quad that lands alone in its gang, with no fault, goes on at once. -/
theorem landed_goOn {t w n len : Nat} {q : Quad} (hn : n < (s.wave t w).quads.length) (live : q.exited = false)
    (landed : q.wait = .landed len) (clean : q.deferred = []) (runs : (s.wave t w).stopped = false)
    (one : s.gangOf t w n = some { t := t, w := w, base := n, lg := 0 }) :
    (s.landed t w n q).goOn t w n = s.landed t w n (({ q with wait := .ready } : Quad).advance len) := by
  have quad : (s.landed t w n q).quad t w n = q := (landed_quad hn q).trans (awake_of_landed landed)
  have unlocks := unlock_one (s := s.landed t w n q) (g := { t := t, w := w, base := n, lg := 0 }) rfl (len := len)
    (by rw [State.waveOf, landed_wave]; exact runs) (by rw [State.quadOf, quad]; exact live)
    (by rw [State.quadOf, quad]; exact landed) (by rw [State.quadOf, quad]; exact clean)
  rw [goOn_gang ((landed_gangOf t w n q).trans one), unlocks, landed_unlocked, if_neg (by simp [live]), q.unlocked_eq landed]

section
variable {t w n idx : Nat} {p : Pend} (hp : (s.quad t w n).pends[idx]? = some p) (walks : p.walks = [])
  (requests : p.requests = []) (poll : p.poll = none)
include hp walks requests poll

/-- The completion of an instruction that raised a flag (R276). -/
theorem complete_flag {f : BitVec 4} (flag : p.flag = some f) (hn : n < (s.wave t w).quads.length)
    (live : (s.quad t w n).exited = false) (free : ∀ lines reqs len, (s.quad t w n).wait ≠ .promote lines reqs len)
    (unlanded : ∀ len, (s.quad t w n).wait ≠ .landed len) :
    exec (.longLatencyComplete t w n idx) s = .next (s.landed t w n (((s.quad t w n).landPend p).lower f)) := by
  rw [exec_complete hp walks requests (not_promoting free), finish_flag _ _ poll flag]
  refine congrArg Host.Outcome.next (goOn_waits ?_ ?_)
  · rw [landed_quad hn, Quad.awake_exited]
    exact (landPend_exited _ p).trans live
  · rw [landed_quad hn, Quad.awake_landedLen]
    exact (congrArg QWait.landedLen (landPend_wait _ p)).trans (landedLen_none unlanded)

/-- The completion of an interlocked instruction (R277). -/
theorem complete_interlock {len : Nat} (flag : p.flag = none) (hq : (s.quad t w n).wait = .interlock len) :
    exec (.longLatencyComplete t w n idx) s =
      .next ((s.landed t w n { (s.quad t w n).landPend p with wait := .landed len }).goOn t w n) := by
  rw [exec_complete hp walks requests (not_promoting fun _ _ _ => by rw [hq]; exact nofun), finish_interlock _ poll flag hq]

end

/-- Settles O27: the event lands the quad's results (`exec_complete`); its gang goes on when it is the quad alone
(`landed_goOn`), and stays while a quad of it has not completed or its wave has stopped. -/
theorem longLatencyCompletes : Obligations.LongLatencyCompletes := by
  intro s t w n idx p q _ _ hn live hp walks requests poll writes done core
  refine ⟨fun f flag free unlanded => ?flag, fun len flag hq runs clean one => ?alone, fun len flag hq stops => ?stopped⟩
  case flag =>
    rw [complete_flag hp walks requests poll flag hn live free unlanded, Quad.lower_eq]
    rfl
  case alone =>
    rw [complete_interlock hp walks requests poll flag hq]
    refine congrArg Host.Outcome.next (landed_goOn hn ((landPend_exited q p).trans live) rfl clean runs ?_)
    unfold State.gangOf
    cases found : (s.wave t w).gangs.find? fun x => decide (x.base ≤ n) && decide (n < x.base + 2 ^ x.lg) with
    | none => rw [found] at one; cases one
    | some x =>
      rw [found] at one
      obtain ⟨base, lg⟩ : x.base = n ∧ x.lg = 0 := by simpa using one
      simp [base, lg]
  case stopped =>
    rw [complete_interlock hp walks requests poll flag hq, goOn_stopped]
    · rfl
    · rw [landed_wave]
      exact stops

end Sys2Proof.Machine
end

section
/-! Joins (O20; R106 to R112, R416): the slices that the join instructions write, the arrived sets of a wave and their order,
and the test of one of them. -/

namespace Sys2Proof.Machine

variable {s : State} {g : GangRef}

/-! ### The timer of an arrived set -/

theorem Quad.parkedAt_iff {q : Quad} {j : BitVec 3} {pc : Word} :
    q.parkedAt j pc = true ↔ (∃ since, q.wait = .jwait j since) ∧ q.pc = pc := by
  unfold Quad.parkedAt
  split
  · next k since h => simp [h]
  · next h => exact ⟨nofun, fun ⟨⟨_, e⟩, _⟩ => absurd e (h _ _)⟩

/-- The CLK that one quad adds to the start of an arrived set's timer. -/
def Quad.jwaitMin (j : BitVec 3) (pc : Word) (n : Nat) (q : Quad) : Nat :=
  match q.wait with
  | .jwait k since => if k = j ∧ q.pc = pc then min n since else n
  | _ => n

theorem Quad.jwaitMin_le (j : BitVec 3) (pc : Word) (n : Nat) (q : Quad) : q.jwaitMin j pc n ≤ n := by
  unfold Quad.jwaitMin
  split
  · split
    · exact Nat.min_le_left _ _
    · exact Nat.le_refl _
  · exact Nat.le_refl _

theorem Quad.jwaitMin_parked {j : BitVec 3} {pc : Word} {q : Quad} {since : Nat} (n : Nat) (h : q.wait = .jwait j since)
    (hp : q.pc = pc) : q.jwaitMin j pc n = min n since := by
  unfold Quad.jwaitMin
  rw [h]
  exact if_pos ⟨rfl, hp⟩

theorem Quad.jwaitMin_other {j : BitVec 3} {pc : Word} {q : Quad} (n : Nat) (h : q.parkedAt j pc = false) :
    q.jwaitMin j pc n = n := by
  unfold Quad.jwaitMin
  unfold Quad.parkedAt at h
  split
  · next e =>
    rw [e] at h
    refine if_neg fun both => ?_
    simp [both] at h
  · rfl

theorem jwaitSince_eq (w : Wave) (j : BitVec 3) (pc : Word) (now : Nat) :
    w.jwaitSince j pc now = w.quads.foldl (Quad.jwaitMin j pc) now := rfl

theorem foldl_jwaitMin_le (j : BitVec 3) (pc : Word) (l : List Quad) (n : Nat) : l.foldl (Quad.jwaitMin j pc) n ≤ n := by
  induction l generalizing n with
  | nil => exact Nat.le_refl _
  | cons q l ih => exact (ih _).trans (q.jwaitMin_le j pc n)

/-- The timer started at the latest when a quad of the set parked (R109). -/
theorem jwaitSince_le {w : Wave} {j : BitVec 3} {pc : Word} {q : Quad} {since : Nat} (now : Nat) (hq : q ∈ w.quads)
    (h : q.wait = .jwait j since) (hp : q.pc = pc) : w.jwaitSince j pc now ≤ since := by
  rw [jwaitSince_eq]
  obtain ⟨l, r, e⟩ := List.append_of_mem hq
  rw [e, List.foldl_append, List.foldl_cons, Quad.jwaitMin_parked _ h hp]
  exact (foldl_jwaitMin_le ..).trans (Nat.min_le_right _ _)

/-- With no quad in the set its timer starts now (R109). -/
theorem jwaitSince_new {w : Wave} {j : BitVec 3} {pc : Word} (now : Nat) (h : ∀ q ∈ w.quads, q.parkedAt j pc = false) :
    w.jwaitSince j pc now = now := by
  rw [jwaitSince_eq]
  refine List.foldlRecOn (motive := fun n => n = now) _ _ rfl fun n same q hq => ?_
  rw [same]
  exact Quad.jwaitMin_other now (h q hq)

/-! ### The instructions -/

/-- The CLK at which the timer starts of the arrived set that a gang joins at a `jwait` (R109). -/
def State.jwaitStart (s : State) (g : GangRef) (o : LaneOp) : Nat :=
  (s.waveOf g).jwaitSince (o.vd.extractLsb' 0 3) (s.leader g).pc s.clk

section
variable {o : LaneOp} (h : LaneReady s g o [.j o.vd])
include h

theorem joinStep_effect (f : Quad → Byte) : ∃ t, joinStep s o f = .next t ∧
    Effect s t g (dogNext s g) (s.waveOf g).fusest (dogHits s g) fun _ q => (q.setJoin o.vd.toNat (f q)).advance 3 := by
  obtain ⟨_, _, e⟩ := laneStep_next h fun _ s g =>
    (s.mapGang g fun _ q => q.setJoin o.vd.toNat (f q)).retire g 3 (cycles32 g) .count
  exact ⟨_, e, retire_effect s g 3 _ (fun _ q => q.setJoin o.vd.toNat (f q)) (fun _ _ => rfl) fun _ _ => rfl⟩

/-- The quads park under the timer of the set that they join. -/
theorem jwait_completes : Completes (.jwait o) s g fun _ q => { q with wait := .jwait (o.vd.extractLsb' 0 3) (s.jwaitStart g o) } := by
  obtain ⟨_, _, e⟩ := laneStep_next h fun _ s g =>
    ((s.hold g (.jwait (o.vd.extractLsb' 0 3) (s.jwaitStart g o))).account g (cycles32 g) .count).regang g
  exact ⟨_, e, issue_effect s g _ _ fun _ _ => rfl⟩

end

/-! ### The arrived sets of a wave -/

/-- The n-th of some quads is parked at a `jwait`. -/
def ParkedIn (l : List Quad) (x : BitVec 3 × Word) (n : Nat) : Prop :=
  n < l.length ∧ (l.getD n Quad.start).parkedAt x.1 x.2 = true

/-- One quad added to the sets that are found. -/
def addJwait (l : List (BitVec 3 × Word)) (q : Quad) : List (BitVec 3 × Word) :=
  match q.wait with
  | .jwait j _ => if l.contains (j, q.pc) then l else l ++ [(j, q.pc)]
  | _ => l

theorem jwaits_eq (w : Wave) : w.jwaits = w.quads.foldl addJwait [] := rfl

theorem parkedIn_concat {l : List Quad} {q : Quad} {x : BitVec 3 × Word} {n : Nat} :
    ParkedIn (l ++ [q]) x n ↔ ParkedIn l x n ∨ n = l.length ∧ q.parkedAt x.1 x.2 = true := by
  unfold ParkedIn
  rcases Nat.lt_trichotomy n l.length with h | rfl | h
  · simp [List.getD_eq_getElem?_getD, h, h.ne, Nat.lt_succ_of_lt h]
  · simp [List.getD_eq_getElem?_getD]
  · simp [h.not_gt, h.ne', Nat.not_lt.mpr (Nat.succ_le_of_lt h)]

/-- The sets of a list of quads: each once, in the order of their lowest quads. -/
structure Sets (l : List Quad) (sets : List (BitVec 3 × Word)) : Prop where
  nodup : sets.Nodup
  mem : ∀ x, x ∈ sets ↔ ∃ n, ParkedIn l x n
  order : sets.Pairwise fun x y => ∃ n, ParkedIn l x n ∧ ∀ m, ParkedIn l y m → n < m

/-- A quad of a set that is found already changes nothing. -/
theorem Sets.concat_found {l : List Quad} {sets : List (BitVec 3 × Word)} (h : Sets l sets) {q : Quad}
    (found : ∀ x : BitVec 3 × Word, q.parkedAt x.1 x.2 = true → x ∈ sets) : Sets (l ++ [q]) sets where
  nodup := h.nodup
  mem x := by
    rw [h.mem]
    constructor
    · exact fun ⟨n, hn⟩ => ⟨n, parkedIn_concat.mpr (.inl hn)⟩
    · rintro ⟨n, hn⟩
      rcases parkedIn_concat.mp hn with hn | ⟨_, hq⟩
      · exact ⟨n, hn⟩
      · exact (h.mem x).mp (found x hq)
  order := h.order.imp fun ⟨n, hn, first⟩ => by
    refine ⟨n, parkedIn_concat.mpr (.inl hn), fun m hm => ?_⟩
    rcases parkedIn_concat.mp hm with hm | ⟨rfl, _⟩
    · exact first m hm
    · exact hn.1

/-- A quad of a set that is not found adds it at the end. -/
theorem Sets.concat_new {l : List Quad} {sets : List (BitVec 3 × Word)} (h : Sets l sets) {q : Quad} {x : BitVec 3 × Word}
    (new : x ∉ sets) (hq : ∀ y : BitVec 3 × Word, q.parkedAt y.1 y.2 = true ↔ y = x) : Sets (l ++ [q]) (sets ++ [x]) where
  nodup := List.concat_eq_append ▸ h.nodup.concat new
  mem y := by
    rw [List.mem_append, List.mem_singleton, h.mem, ← hq]
    constructor
    · rintro (⟨n, hn⟩ | hy)
      · exact ⟨n, parkedIn_concat.mpr (.inl hn)⟩
      · exact ⟨l.length, parkedIn_concat.mpr (.inr ⟨rfl, hy⟩)⟩
    · rintro ⟨n, hn⟩
      exact (parkedIn_concat.mp hn).imp (fun hn => ⟨n, hn⟩) And.right
  order := by
    refine List.pairwise_append.mpr ⟨?_, List.pairwise_singleton .., fun y hy z hz => ?_⟩
    · refine h.order.imp fun ⟨n, hn, first⟩ => ⟨n, parkedIn_concat.mpr (.inl hn), fun m hm => ?_⟩
      rcases parkedIn_concat.mp hm with hm | ⟨rfl, _⟩
      · exact first m hm
      · exact hn.1
    · obtain rfl := List.mem_singleton.mp hz
      obtain ⟨n, hn⟩ := (h.mem y).mp hy
      refine ⟨n, parkedIn_concat.mpr (.inl hn), fun m hm => ?_⟩
      rcases parkedIn_concat.mp hm with hm | ⟨rfl, _⟩
      · exact absurd ((h.mem z).mpr ⟨m, hm⟩) new
      · exact hn.1

theorem Sets.concat {l : List Quad} {sets : List (BitVec 3 × Word)} (h : Sets l sets) (q : Quad) :
    Sets (l ++ [q]) (addJwait sets q) := by
  unfold addJwait
  split
  · next j since e =>
    have parked (x : BitVec 3 × Word) : q.parkedAt x.1 x.2 = true ↔ x = (j, q.pc) := by
      rw [Quad.parkedAt_iff, e, Prod.ext_iff]
      simp [eq_comm]
    split
    · next found => exact h.concat_found fun x hx => (parked x).mp hx ▸ List.contains_iff_mem.mp found
    · next new => exact h.concat_new (fun m => new (List.contains_iff_mem.mpr m)) parked
  · next e =>
    refine h.concat_found fun x hx => ?_
    obtain ⟨⟨since, hw⟩, _⟩ := Quad.parkedAt_iff.mp hx
    exact absurd hw (e _ _)

theorem sets_jwaits (w : Wave) : Sets w.quads w.jwaits := by
  rw [jwaits_eq]
  induction w.quads using List.reverseRecOn with
  | nil => exact ⟨List.nodup_nil, fun x => by simp [ParkedIn], .nil⟩
  | append_singleton l q ih =>
    rw [List.foldl_append]
    exact ih.concat q

/-! ### The test of one set -/

theorem letsGo_iff {q : Quad} {j : BitVec 3} {pc : Word} (away : q.parkedAt j pc = false) : q.letsGo j pc = false ↔
    (q.join j.toNat).extractLsb' 0 4 ≠ 0 ∧ q.exited = false ∧
      (q.inHandler = true ∨ (∀ c, q.wait ≠ .counter c) ∧ ∀ k since, q.wait ≠ .jwait k since) := by
  unfold Quad.parkedAt at away
  unfold Quad.letsGo
  cases h : q.wait with
  | jwait k since =>
    have other : (k != j || q.pc != pc) = true := by simpa [h, bne_iff_ne, imp_iff_not_or] using away
    simp [other, and_comm, and_assoc]
  | _ => simp [and_comm, and_assoc]

/-- A `jwait` is tested once (R107). -/
def State.testSet (t w : Nat) (s : State) (x : BitVec 3 × Word) : State :=
  let y := s.wave t w
  let set := y.arrived x.1 x.2
  if !set.isEmpty && y.joinReady x.1 x.2 then s.releaseSet t w x.1 set else s

theorem joinTest_eq {t w : Nat} (h : (s.wave t w).stopped = false) :
    s.joinTest t w = (s.wave t w).jwaits.foldl (State.testSet t w) s := by
  unfold State.joinTest
  rw [if_neg (by simp [h])]
  rfl

theorem mem_arrived {y : Wave} {j : BitVec 3} {pc : Word} {n : Nat} :
    n ∈ y.arrived j pc ↔ ParkedIn y.quads (j, pc) n := by
  unfold Wave.arrived ParkedIn
  rw [List.mem_filter, List.mem_range]
  rfl

/-- The quads of a set that is released go on past their `jwait`; every other quad stays as it is (R108). -/
theorem quad_releaseSet (t w : Nat) (j : BitVec 3) {set : List Nat} (hn : set.Nodup) (n : Nat) :
    (s.releaseSet t w j set).quad t w n =
      if n ∈ set ∧ n < (s.wave t w).quads.length then (s.quad t w n).release j else s.quad t w n := by
  unfold State.releaseSet
  rw [State.quad_replaceGangs, State.quad_modQuads hn]

/-- The quad holds a set back (R107). -/
def State.HoldsBack (s : State) (t w : Nat) (x : BitVec 3 × Word) (n : Nat) : Prop :=
  n < (s.wave t w).quads.length ∧ ¬ ParkedIn (s.wave t w).quads x n ∧
    ((s.quad t w n).join x.1.toNat).extractLsb' 0 4 ≠ 0 ∧ (s.quad t w n).exited = false ∧
      ((s.quad t w n).inHandler = true ∨
        (∀ c, (s.quad t w n).wait ≠ .counter c) ∧ ∀ k since, (s.quad t w n).wait ≠ .jwait k since)

theorem joinReady_iff {t w : Nat} {x : BitVec 3 × Word} :
    (s.wave t w).joinReady x.1 x.2 = true ↔ ∀ n, ¬ s.HoldsBack t w x n := by
  unfold Wave.joinReady
  rw [List.all_eq_true]
  refine forall_congr' fun n => ?_
  rw [List.mem_range, Bool.or_eq_true]
  constructor
  · rintro free ⟨hn, away, held⟩
    rcases free hn with parked | goes
    · exact away ⟨hn, parked⟩
    · have stays := (letsGo_iff (Bool.eq_false_iff.mpr fun parked => away ⟨hn, parked⟩)).mpr held
      exact Bool.false_ne_true (stays.symm.trans goes)
  · intro free hn
    by_contra neither
    obtain ⟨away, stays⟩ := not_or.mp neither
    exact free ⟨hn, fun parked => away parked.2,
      (letsGo_iff (Bool.eq_false_iff.mpr away)).mp (Bool.eq_false_iff.mpr stays)⟩

theorem testSet_stays {t w : Nat} {x : BitVec 3 × Word}
    (h : (∀ n, ¬ ParkedIn (s.wave t w).quads x n) ∨ ∃ n, s.HoldsBack t w x n) : s.testSet t w x = s := by
  refine if_neg fun go => ?_
  obtain ⟨some_, ready⟩ := (Bool.and_eq_true ..).mp go
  rcases h with none_ | ⟨n, held⟩
  · obtain ⟨n, hn⟩ : ∃ n, n ∈ (s.wave t w).arrived x.1 x.2 := by
      cases e : (s.wave t w).arrived x.1 x.2 with
      | nil => rw [e] at some_; cases some_
      | cons n l => exact ⟨n, List.mem_cons_self⟩
    exact none_ n (mem_arrived.mp hn)
  · exact joinReady_iff.mp ready n held

theorem testSet_releases {t w : Nat} {x : BitVec 3 × Word} (parked : ∃ n, ParkedIn (s.wave t w).quads x n)
    (free : ∀ n, ¬ s.HoldsBack t w x n) :
    s.testSet t w x = s.releaseSet t w x.1 ((s.wave t w).arrived x.1 x.2) := by
  obtain ⟨n, hn⟩ := parked
  refine if_pos ((Bool.and_eq_true ..).mpr ⟨?_, joinReady_iff.mpr free⟩)
  cases e : (s.wave t w).arrived x.1 x.2 with
  | nil => exact absurd (e ▸ mem_arrived.mpr hn) List.not_mem_nil
  | cons n l => rfl

/-! ### When the test is due -/

/-- An arrived set that is released is tested before any timer (R110). -/
theorem joinTimer_some {t w : Nat} (ht : t < s.teams.length) (hw : w < (s.team t).waves.length)
    (resident : (s.team t).resident = true) (due : (s.wave t w).joinDue = true) : ∃ i k, s.joinTimer = some (.join i k) := by
  have found : s.joinTimer.isSome = true := by
    refine List.findSome?_isSome_iff.mpr ⟨t, List.mem_range.mpr ht, ?_⟩
    rw [if_pos resident]
    refine List.findSome?_isSome_iff.mpr ⟨w, List.mem_range.mpr hw, ?_⟩
    rw [if_pos due]
    rfl
  obtain ⟨d, hd⟩ := Option.isSome_iff_exists.mp found
  obtain ⟨i, _, hi⟩ := List.exists_of_findSome?_eq_some hd
  split at hi
  · obtain ⟨k, _, hk⟩ := List.exists_of_findSome?_eq_some hi
    split at hk
    · cases hk
      exact ⟨i, k, hd⟩
    · cases hk
  · cases hi

theorem joinDue_of_set {t w : Nat} (runs : (s.wave t w).stopped = false) {x : BitVec 3 × Word}
    (parked : ∃ n, ParkedIn (s.wave t w).quads x n) (free : ∀ n, ¬ s.HoldsBack t w x n) : (s.wave t w).joinDue = true := by
  have ready : ((s.wave t w).jwaits.any fun x => (s.wave t w).joinReady x.1 x.2) = true :=
    List.any_eq_true.mpr ⟨x, ((sets_jwaits _).mem x).mpr parked, joinReady_iff.mpr free⟩
  exact (Bool.and_eq_true ..).mpr ⟨by simp [runs], ready⟩

/-- The test comes before every timer of its cycle, and there it is the step (R110, R112). -/
theorem step_joinTest {d : Due} (cycle : s.cycleOver = true) (dog : s.dogDue = none) (l1 : s.l1Due = none)
    (l2 : s.l2Due = none) (timer : s.joinTimer = some d) : s.due = some d ∧ step s = d.perform { s with cur := .none } := by
  have due : s.due = some d := by
    unfold State.due State.timer
    rw [dog, l1, l2, if_pos cycle, timer]
    rfl
  refine ⟨due, ?_⟩
  unfold step
  simp only [due]

/-- Settles O20: the join instructions are lane instructions (`joinStep_effect`, `jwait_completes`); the test of a wave takes
its sets in their order (`sets_jwaits`), and releases the one that no quad holds back (`testSet_releases`). -/
theorem joinInstructions : Obligations.JoinInstructions := by
  constructor
  · intro s g o h exp arr slice j
    have quad (q : Quad) (hq : q ∈ (s.waveOf g).quads) : ∃ k < (s.waveOf g).quads.length, s.quadOf g k = q := by
      obtain ⟨k, hk, rfl⟩ := List.getElem_of_mem hq
      exact ⟨k, hk, List.getD_eq_getElem _ _ hk⟩
    refine ⟨joinStep_effect h _, joinStep_effect h _, joinStep_effect h _, s.jwaitStart g o, jwait_completes h,
      fun alone => jwaitSince_new _ fun q hq => ?_, fun k since hk hwait hpc => jwaitSince_le _ ?_ hwait hpc⟩
    · obtain ⟨k, _, rfl⟩ := quad q hq
      refine Bool.eq_false_iff.mpr fun parked => ?_
      obtain ⟨⟨since, hwait⟩, hpc⟩ := Quad.parkedAt_iff.mp parked
      exact alone k since hwait hpc
    · have at_ : s.quadOf g k = (s.waveOf g).quads[k] := List.getD_eq_getElem _ _ hk
      exact at_ ▸ List.getElem_mem hk
  · intro s t w ht hw at_ holds
    have parked (u : State) (x : BitVec 3 × Word) (n : Nat) : at_ u x n ↔ ParkedIn (u.wave t w).quads x n :=
      and_congr_right fun _ => Quad.parkedAt_iff.symm
    have held (u : State) (x : BitVec 3 × Word) (n : Nat) : holds u x n ↔ u.HoldsBack t w x n :=
      and_congr_right fun _ => and_congr_left fun _ => not_congr (parked u x n)
    simp only [parked, held]
    refine ⟨fun stops => if_pos stops, fun runs => ?_, fun cycle dog l1 l2 resident runs ⟨x, some_, free⟩ => ?_⟩
    · have sets := sets_jwaits (s.wave t w)
      refine ⟨_, State.testSet t w, joinTest_eq runs, sets.nodup, sets.mem, sets.order, fun u x _ _ =>
        ⟨testSet_stays, fun some_ free => ?_⟩⟩
      rw [testSet_releases some_ free]
      have quads := quad_releaseSet (s := u) t w x.1 (set := (u.wave t w).arrived x.1 x.2) (List.nodup_range.filter _)
      refine ⟨rfl, fun n => ⟨fun hn => ?_, fun hn => ?_⟩⟩
      · rw [quads, if_pos ⟨mem_arrived.mpr hn, hn.1⟩]
        rfl
      · rw [quads, if_neg fun both => hn (mem_arrived.mp both.1)]
    · obtain ⟨i, k, timer⟩ := joinTimer_some ht hw resident (joinDue_of_set runs some_ free)
      exact ⟨i, k, step_joinTest cycle dog l1 l2 timer⟩

end Sys2Proof.Machine
end

section
/-! Cross-lane forms (O18; R344 to R346, R246, R322): the span of a quad, what a form writes over it, and the folds. -/

namespace Sys2Proof.Machine

variable {s : State} {g : GangRef} {o : LaneOp}

/-! ### The span of a quad -/

/-- log2 of the quads of a span (R344). -/
def spanLg (s : State) (g : GangRef) (o : LaneOp) : Nat := min o.minw.toNat (s.teamOf g).kernel.lgwave

/-- The lanes of a span. -/
def spanSize (s : State) (g : GangRef) (o : LaneOp) : Nat := 4 * 2 ^ spanLg s g o

/-- The first quad of the span of a quad. -/
def spanFirst (s : State) (g : GangRef) (o : LaneOp) (n : Nat) : Nat := n / 2 ^ spanLg s g o * 2 ^ spanLg s g o

/-- The lane at a position of the span of a quad. -/
def spanLane (s : State) (g : GangRef) (o : LaneOp) (n p : Nat) : Lane :=
  (s.quadOf g (spanFirst s g o n + p / 4)).lane (p % 4)

/-- It is active. -/
def spanOn (s : State) (g : GangRef) (o : LaneOp) (n p : Nat) : Bool :=
  (s.quadOf g (spanFirst s g o n + p / 4)).em.getLsbD (p % 4) && guardOk o (spanLane s g o n p)

/-- The position of a quad's own lane. -/
def spanPos (s : State) (g : GangRef) (o : LaneOp) (n i : Nat) : Nat := 4 * (n - spanFirst s g o n) + i

theorem getD_map_upTo {α : Type} {size p : Nat} (f : Nat → α) (d : α) (hp : p < size) :
    ((upTo size).map f).getD p d = f p := by
  simp [List.getD_eq_getElem?_getD, hp]

section
variable {n p : Nat} (hp : p < spanSize s g o)
include hp

theorem spanOf_lane : (spanOf s g o n).lane p = spanLane s g o n p := getD_map_upTo _ _ hp

theorem spanOf_isActive : (spanOf s g o n).isActive p = spanOn s g o n p := getD_map_upTo _ _ hp

end

theorem spanFirst_le (s : State) (g : GangRef) (o : LaneOp) (n : Nat) : spanFirst s g o n ≤ n := Nat.div_mul_le_self n _

theorem spanPos_lt (s : State) (g : GangRef) (o : LaneOp) (n : Nat) {i : Nat} (hi : i < 4) :
    spanPos s g o n i < spanSize s g o := by
  have inside : n < spanFirst s g o n + 2 ^ spanLg s g o := Nat.lt_div_mul_add (Nat.two_pow_pos _)
  have first := spanFirst_le s g o n
  unfold spanPos spanSize
  omega

theorem spanPos_quad (s : State) (g : GangRef) (o : LaneOp) (n : Nat) {i : Nat} (hi : i < 4) :
    spanFirst s g o n + spanPos s g o n i / 4 = n ∧ spanPos s g o n i % 4 = i := by
  have first := spanFirst_le s g o n
  unfold spanPos
  omega

/-- At a quad's own position the span has the quad's lane. -/
theorem spanOn_spanPos (s : State) (g : GangRef) (o : LaneOp) (n : Nat) {i : Nat} (hi : i < 4) :
    spanOn s g o n (spanPos s g o n i) = (s.quadOf g n).active o i := by
  obtain ⟨quad, lane⟩ := spanPos_quad s g o n hi
  unfold spanOn spanLane
  rw [quad, lane]
  rfl

/-- The active positions of the span of a quad, ascending. -/
def spanActives (s : State) (g : GangRef) (o : LaneOp) (n : Nat) : List Nat :=
  (List.range (spanSize s g o)).filter (spanOn s g o n)

theorem spanOf_actives (n : Nat) : (spanOf s g o n).actives = spanActives s g o n :=
  List.filter_congr fun _ hp => spanOf_isActive (List.mem_range.mp hp)

theorem lt_of_mem_spanActives {n p : Nat} (h : p ∈ spanActives s g o n) : p < spanSize s g o :=
  List.mem_range.mp (List.mem_filter.mp h).1

/-- The position votes. -/
def spanVotes (s : State) (g : GangRef) (o : LaneOp) (n p : Nat) : Bool :=
  spanOn s g o n p && (spanLane s g o n p).rp o.va.toNat

theorem spanOf_voters (n : Nat) : (spanOf s g o n).voters o = (List.range (spanSize s g o)).filter (spanVotes s g o n) := by
  unfold Span.voters spanVotes
  rw [spanOf_actives, spanActives, List.filter_filter]
  refine List.filter_congr fun p hp => ?_
  rw [spanOf_lane (List.mem_range.mp hp), Bool.and_comm]

/-! ### What a form writes -/

theorem mapLanes_congr {q : Quad} {f h : Nat → Lane → Lane} (e : ∀ i < 4, f i = h i) : q.mapLanes f = q.mapLanes h := by
  unfold Quad.mapLanes
  refine List.foldl_ext _ _ _ fun x i hi => ?_
  rw [e i (List.mem_range.mp hi)]

/-- Where no quad of a gang has exited, each of them is changed. -/
theorem modQuads_live (live : ∀ n ∈ g.quads, (s.quadOf g n).exited = false) (f : Nat → Quad → Quad) :
    s.modQuads g.t g.w g.quads f = s.mapGang g f := by
  refine State.modQuads_congr g.quads_nodup fun n hn => ?_
  rw [if_neg]
  rw [show (s.quad g.t g.w n).exited = false from live n hn]
  exact Bool.false_ne_true

theorem Effect.congr {t : State} {dog fuse : BitVec 32} {hits : List Nat} {f h : Nat → Quad → Quad}
    (e : Effect s t g dog fuse hits f) (same : ∀ n ∈ g.quads, f n (s.quadOf g n) = h n (s.quadOf g n)) :
    Effect s t g dog fuse hits h :=
  { e with each := fun n hn hl hx => (e.each n hn hl hx).trans (same n hn) }

section
variable {opnds : List Opnd} (live : ∀ n ∈ g.quads, (s.quadOf g n).exited = false) (h : LaneReady s g o opnds)
include live h

theorem crossLane_effect (f : Span → Nat → Quad → Quad) (hh : ∀ x n q, (f x n q).inHandler = q.inHandler)
    (he : ∀ x n q, (f x n q).exited = q.exited) : ∃ t, crossLane s o opnds f = .next t ∧
      Effect s t g (dogNext s g) (s.waveOf g).fusest (dogHits s g) fun n q => (f (spanOf s g o n) n q).advance 3 := by
  obtain ⟨_, _, e⟩ := laneStep_next h fun _ s g =>
    (s.modQuads g.t g.w g.quads fun n q => f (spanOf s g o n) n q).retire g 3 (2 * cycles32 g) .count
  rw [modQuads_live live] at e
  exact ⟨_, e, retire_effect s g 3 _ (fun n q => f (spanOf s g o n) n q) (fun n q => hh _ n q) fun n q => he _ n q⟩

/-- A form that writes vd performs: what it writes at each position of the span is r. -/
theorem crossWrite_completes {i : Instr} {regs : Nat} {f : Span → Nat → Nat} (e : exec i s = crossWrite s o opnds regs f)
    (r : Nat → Nat → Nat) (hr : ∀ n p, p < spanSize s g o → f (spanOf s g o n) p = r n p) :
    Completes i s g fun n q => (q.eachLane o fun i l => l.write o.vd.toNat regs (r n (spanPos s g o n i))).advance 3 := by
  have kept (q : Quad) (f : Nat → Lane → Lane) : (q.mapLanes f).inHandler = q.inHandler ∧ (q.mapLanes f).exited = q.exited :=
    ⟨rfl, rfl⟩
  obtain ⟨t, ht, effect⟩ := crossLane_effect live h (fun x n q => q.mapLanes fun i l =>
    if x.isActive (4 * (n - x.base) + i) then l.write o.vd.toNat regs (f x (4 * (n - x.base) + i)) else l)
    (fun _ _ q => (kept q _).1) fun _ _ q => (kept q _).2
  refine ⟨t, e.trans ht, effect.congr fun n _ => ?_⟩
  rw [← mapLanes_eachLane]
  refine congrArg (·.advance 3) (mapLanes_congr fun i hi => ?_)
  funext l
  have pos : 4 * (n - (spanOf s g o n).base) + i = spanPos s g o n i := rfl
  rw [pos, spanOf_isActive (spanPos_lt s g o n hi), spanOn_spanPos s g o n hi, hr n _ (spanPos_lt s g o n hi)]

/-- A form that writes s[sd] performs: what it writes in the quads of a span is r. -/
theorem crossScalar_completes {i : Instr} {f : Span → Word}
    (e : exec i s = crossLane s o opnds fun x _ q => q.setSN o.vd.toNat (f x))
    (r : Nat → Word) (hr : ∀ n, f (spanOf s g o n) = r n) :
    Completes i s g fun n q => (q.setSN o.vd.toNat (r n)).advance 3 := by
  obtain ⟨t, ht, effect⟩ := crossLane_effect live h (fun x _ q => q.setSN o.vd.toNat (f x)) (fun _ _ _ => rfl) fun _ _ _ => rfl
  refine ⟨t, e.trans ht, effect.congr fun n _ => ?_⟩
  rw [hr]

end

/-! ### Folds -/

section
variable (t : ElemTy) (op : RedOp)

/-- One step of a fold, written out (R346). -/
def foldTwo (a b : Nat) : Nat :=
  match op with
  | .add => if t.isFloat then t.fmt.roundTo .rne 0 false ((t.fmt.decode a).add .rne (t.fmt.decode b))
    else (BitVec.ofInt t.bits (t.intOf a + t.intOf b)).toNat
  | .min => if t.isFloat then t.fmt.minEnc a b else if t.intOf b < t.intOf a then b else a
  | .max => if t.isFloat then t.fmt.maxEncOf a b else if t.intOf a < t.intOf b then b else a
  | .and => a &&& b
  | .or => a ||| b
  | .xor => a ^^^ b

theorem foldStep_eq : foldStep t op = foldTwo t op := by
  funext a b
  have wraps (x : Int) : t.bitsOf x = (BitVec.ofInt t.bits x).toNat := by
    rw [BitVec.toNat_ofInt]
    rfl
  cases op with
  | add => exact if_congr Iff.rfl rfl (wraps _)
  | _ => rfl

/-- The identity of a fold, written out (R346). -/
def foldNone : Nat :=
  match op with
  | .add => 0
  | .min => if t.isFloat then t.fmt.infEnc else if t.isSigned then 2 ^ (t.bits - 1) - 1 else 2 ^ t.bits - 1
  | .max => if t.isFloat then t.fmt.infEnc + t.fmt.signBit else if t.isSigned then 2 ^ (t.bits - 1) else 0
  | .and => 2 ^ t.bits - 1
  | .or => 0
  | .xor => 0

theorem foldIdentity_eq : foldIdentity t op = foldNone t op := by
  cases op with
  | min => cases t <;> rfl
  | max => cases t <;> rfl
  | _ => rfl

theorem foldStart_eq (a : Nat) : foldStart t a = if t.isFloat ∧ t.fmt.decode a = .nan then t.fmt.nanEnc else a := by
  unfold foldStart
  cases t.isFloat
  · rfl
  · cases h : t.fmt.decode a <;> simp

/-- A fold over the values at positions (R346). -/
def foldAt (val : Nat → Nat) (ps : List Nat) : Nat :=
  match ps with
  | [] => foldNone t op
  | p :: ps => ps.foldl (fun a p => foldTwo t op a (val p))
      (if t.isFloat ∧ t.fmt.decode (val p) = .nan then t.fmt.nanEnc else val p)

theorem foldLanes_map (val : Nat → Nat) (ps : List Nat) : foldLanes t op (ps.map val) = foldAt t op val ps := by
  cases ps with
  | nil => exact foldIdentity_eq t op
  | cons p ps => rw [List.map_cons, foldLanes, List.foldl_map, foldStep_eq, foldStart_eq, foldAt]

end

/-- The value of a position of the span of a quad. -/
def spanValue (s : State) (g : GangRef) (o : LaneOp) (t : ElemTy) (n p : Nat) : Nat :=
  (spanLane s g o n p).read o.va.toNat (regsOf t)

theorem valuesAt_span (t : ElemTy) (n : Nat) {ps : List Nat} (h : ∀ p ∈ ps, p < spanSize s g o) :
    valuesAt (spanOf s g o n) o (regsOf t) ps = ps.map (spanValue s g o t n) :=
  List.map_congr_left fun p hp => by rw [spanOf_lane (h p hp)]; rfl

theorem Lane.read_one (l : Lane) (n : Nat) : l.read n 1 = (l.rv n).toNat := by
  simp [Lane.read, upTo]

/-! ### Ballots -/

/-- Powers of 2 with different exponents add up to the number with just these bits. -/
theorem testBit_sum_pow (P : Nat → Bool) (n : Nat) :
    ((List.range n).filter P).foldl (fun m p => m + 2 ^ p) 0 < 2 ^ n ∧
      ∀ i, (((List.range n).filter P).foldl (fun m p => m + 2 ^ p) 0).testBit i = (decide (i < n) && P i) := by
  induction n with
  | zero => exact ⟨Nat.one_pos, fun i => by simp⟩
  | succ n ih =>
    obtain ⟨small, bits⟩ := ih
    rw [List.range_succ, List.filter_append, List.foldl_append]
    generalize ((List.range n).filter P).foldl (fun m p => m + 2 ^ p) 0 = m at small bits
    cases holds : P n with
    | false =>
      have absent {i : Nat} (e : i = n) : P i = false := e ▸ holds
      simp only [List.filter_cons, List.filter_nil, holds, List.foldl_nil, Bool.false_eq_true, if_false]
      refine ⟨small.trans (Nat.pow_lt_pow_succ (by decide)), fun i => ?_⟩
      rw [bits]
      grind
    | true =>
      simp only [List.filter_cons, List.filter_nil, holds, List.foldl_cons, List.foldl_nil, if_true]
      have fits : m + 2 ^ n < 2 ^ (n + 1) := by omega
      refine ⟨fits, fun i => ?_⟩
      rcases Nat.lt_trichotomy i n with lt | rfl | gt
      · rw [Nat.add_comm, Nat.testBit_two_pow_add_gt lt, bits]
        grind
      · rw [Nat.add_comm, Nat.testBit_two_pow_add_eq, bits]
        grind
      · rw [Nat.testBit_lt_two_pow (fits.trans_le (Nat.pow_le_pow_right (by decide) gt))]
        grind

/-- The positions that vote, as a number with a bit for each. -/
def spanBallot (s : State) (g : GangRef) (o : LaneOp) (n : Nat) : Nat :=
  ((List.range (spanSize s g o)).filter (spanVotes s g o n)).foldl (fun m p => m + 2 ^ p) 0

theorem spanBallot_bit {n p : Nat} (hp : p < 64) :
    (BitVec.ofNat 64 (spanBallot s g o n)).getLsbD p = true ↔ p < spanSize s g o ∧ spanVotes s g o n p = true := by
  rw [BitVec.getLsbD_ofNat, spanBallot, (testBit_sum_pow _ _).2 p]
  simp [hp]

/-! ### The forms -/

/-- The register va at a position of the span of a quad. -/
def spanVa (s : State) (g : GangRef) (o : LaneOp) (n p : Nat) : Nat := ((spanLane s g o n p).rv o.va.toNat).toNat

theorem spanOf_va {n p : Nat} (hp : p < spanSize s g o) : ((spanOf s g o n).lane p).read o.va.toNat 1 = spanVa s g o n p := by
  rw [spanOf_lane hp, Lane.read_one]
  rfl

theorem spanSize_pos (s : State) (g : GangRef) (o : LaneOp) : 0 < spanSize s g o :=
  Nat.mul_pos (by decide) (Nat.two_pow_pos _)

/-- A lane of the same quad is in the span. -/
theorem spanSize_quad {p i : Nat} (hp : p < spanSize s g o) (hi : i < 4) : p - p % 4 + i < spanSize s g o := by
  unfold spanSize at hp ⊢
  omega

/-- What a fold over positions of the span of a quad gives (R346). -/
def spanFold (s : State) (g : GangRef) (o : LaneOp) (t : ElemTy) (op : RedOp) (n : Nat) (ps : List Nat) : Nat :=
  foldAt t op (spanValue s g o t n) ps

theorem foldLanes_span (t : ElemTy) (op : RedOp) (n : Nat) {ps : List Nat} (h : ∀ p ∈ ps, p < spanSize s g o) :
    foldLanes t op (valuesAt (spanOf s g o n) o (regsOf t) ps) = spanFold s g o t op n ps := by
  rw [valuesAt_span t n h, foldLanes_map]
  rfl

section
variable {m : Mods} {op : RedOp} {excl : Bool} {k : BitVec 6} {z0 z1 z2 z3 : BitVec 2}
  (live : ∀ n ∈ g.quads, (s.quadOf g n).exited = false)
include live

theorem vred_completes (h : LaneReady s g o [.ty o.vd m.ty, .ty o.va m.ty]) : Completes (.vred o m op) s g fun n q =>
    (q.eachLane o fun _ l => l.write o.vd.toNat (regsOf m.ty) (spanFold s g o m.ty op n (spanActives s g o n))).advance 3 := by
  refine crossWrite_completes live h (exec_vred s) (fun n _ => spanFold s g o m.ty op n (spanActives s g o n)) fun n p _ => ?_
  rw [spanOf_actives]
  exact foldLanes_span _ _ n fun _ => lt_of_mem_spanActives

/-- The positions that a scan folds at a position (R346). -/
def scanned (s : State) (g : GangRef) (o : LaneOp) (excl : Bool) (n p : Nat) : List Nat :=
  (spanActives s g o n).filter fun j => decide (j < p) || (!excl && decide (j = p))

theorem vscan_completes (h : LaneReady s g o [.ty o.vd m.ty, .ty o.va m.ty]) : Completes (.vscan o m op excl) s g fun n q =>
    (q.eachLane o fun i l => l.write o.vd.toNat (regsOf m.ty)
      (spanFold s g o m.ty op n (scanned s g o excl n (spanPos s g o n i)))).advance 3 := by
  refine crossWrite_completes live h (exec_vscan s)
    (fun n p => spanFold s g o m.ty op n (scanned s g o excl n p)) fun n p _ => ?_
  have before : (fun j => if excl then decide (j < p) else decide (j ≤ p))
      = fun j => decide (j < p) || (!excl && decide (j = p)) := by
    funext j
    cases excl <;> simp [Nat.le_iff_lt_or_eq]
  rw [spanOf_actives, before]
  exact foldLanes_span _ _ n fun _ hj => lt_of_mem_spanActives (List.mem_filter.mp hj).1

theorem vshuf_completes (h : LaneReady s g o [.one o.vd, .one o.va, .one o.vb]) : Completes (.vshuf o) s g fun n q =>
    (q.eachLane o fun i l => l.write o.vd.toNat 1
      (spanVa s g o n (((spanLane s g o n (spanPos s g o n i)).rv o.vb.toNat).toNat % spanSize s g o))).advance 3 := by
  refine crossWrite_completes live h (exec_vshuf s)
    (fun n p => spanVa s g o n (((spanLane s g o n p).rv o.vb.toNat).toNat % spanSize s g o)) fun n p hp => ?_
  rw [spanOf_lane hp, Lane.read_one]
  exact spanOf_va (Nat.mod_lt _ (spanSize_pos s g o))

theorem vbcast_completes (h : LaneReady s g o [.one o.vd, .one o.va]) : Completes (.vbcast o k) s g fun n q =>
    (q.eachLane o fun _ l => l.write o.vd.toNat 1 (spanVa s g o n (k.toNat % spanSize s g o))).advance 3 :=
  crossWrite_completes live h (exec_vbcast s) (fun n _ => spanVa s g o n (k.toNat % spanSize s g o))
    fun _ _ _ => spanOf_va (Nat.mod_lt _ (spanSize_pos s g o))

theorem vrot_completes (h : LaneReady s g o [.one o.vd, .one o.va]) : Completes (.vrot o k) s g fun n q =>
    (q.eachLane o fun i l => l.write o.vd.toNat 1
      (spanVa s g o n ((spanPos s g o n i + k.toNat) % spanSize s g o))).advance 3 :=
  crossWrite_completes live h (exec_vrot s) (fun n p => spanVa s g o n ((p + k.toNat) % spanSize s g o))
    fun _ _ _ => spanOf_va (Nat.mod_lt _ (spanSize_pos s g o))

/-- The position that a swizzle reads at a position (R345). -/
def swizzled (z0 z1 z2 z3 : BitVec 2) (p : Nat) : Nat :=
  p - p % 4 + (if p % 4 = 0 then z0 else if p % 4 = 1 then z1 else if p % 4 = 2 then z2 else z3).toNat

theorem vqswz_completes (h : LaneReady s g o [.one o.vd, .one o.va]) : Completes (.vqswz o z0 z1 z2 z3) s g fun n q =>
    (q.eachLane o fun i l => l.write o.vd.toNat 1
      (spanVa s g o n (swizzled z0 z1 z2 z3 (spanPos s g o n i)))).advance 3 := by
  refine crossWrite_completes live h (exec_vqswz s) (fun n p => spanVa s g o n (swizzled z0 z1 z2 z3 p)) fun n p hp => ?_
  have lane (z : BitVec 2) : ((spanOf s g o n).lane (p / 4 * 4 + z.toNat)).read o.va.toNat 1
      = spanVa s g o n (p - p % 4 + z.toNat) := by
    rw [show p / 4 * 4 + z.toNat = p - p % 4 + z.toNat by omega]
    exact spanOf_va (spanSize_quad hp z.isLt)
  have four : p % 4 = 0 ∨ p % 4 = 1 ∨ p % 4 = 2 ∨ p % 4 = 3 := by omega
  unfold swizzled
  rcases four with e | e | e | e
  · simpa [e] using lane z0
  · simpa [e] using lane z1
  · simpa [e] using lane z2
  · simpa [e] using lane z3

theorem vcount_completes (h : LaneReady s g o [.one o.vd, .p o.va]) : Completes (.vcount o) s g fun n q =>
    (q.eachLane o fun i l => l.write o.vd.toNat 1 ((List.range (spanSize s g o)).filter fun j =>
      spanVotes s g o n j && decide (j < spanPos s g o n i)).length).advance 3 := by
  refine crossWrite_completes live h (exec_vcount s) (fun n p => ((List.range (spanSize s g o)).filter fun j =>
    spanVotes s g o n j && decide (j < p)).length) fun n p _ => ?_
  rw [spanOf_voters, List.filter_filter]
  simp only [Bool.and_comm]

theorem vfind_completes (h : LaneReady s g o [.s o.vd, .p o.va]) : Completes (.vfind o) s g fun n q =>
    (q.setSN o.vd.toNat (BitVec.ofNat 64 (((List.range (spanSize s g o)).find? (spanVotes s g o n)).getD 64))).advance 3 := by
  refine crossScalar_completes live h (exec_vfind s)
    (fun n => BitVec.ofNat 64 (((List.range (spanSize s g o)).find? (spanVotes s g o n)).getD 64)) fun n => ?_
  rw [spanOf_voters, List.headD_eq_head?_getD, List.head?_filter]

theorem vballot_completes (h : LaneReady s g o [.s o.vd, .p o.va]) : Completes (.vballot o) s g fun n q =>
    (q.setSN o.vd.toNat (BitVec.ofNat 64 (spanBallot s g o n))).advance 3 := by
  refine crossScalar_completes live h (exec_vballot s) (fun n => BitVec.ofNat 64 (spanBallot s g o n)) fun n => ?_
  rw [spanOf_voters, spanBallot]

end

/-- Settles O18: each form by what it sees of the span of a quad (`spanOf_lane`, `spanOf_isActive`). -/
theorem crossLaneForms : Obligations.CrossLane := by
  intro s g o m op excl n z0 z1 z2 z3
  refine ⟨fun _ => vred_completes, fun _ => vscan_completes, fun _ => vshuf_completes, fun _ => vbcast_completes,
    fun _ => vrot_completes, fun _ => vqswz_completes, fun _ => vcount_completes, vfind_completes,
    fun q => BitVec.ofNat 64 (spanBallot s g o q), vballot_completes, fun _ _ => spanBallot_bit⟩

end Sys2Proof.Machine
end

section
/-! Events of waves (O45): when each event acts, and what it does. -/

namespace Sys2Proof.Machine

variable {s : State} {g : GangRef}

/-! ### Miss-split (R103) -/

theorem splitHeader_eq {q : Quad} {mask : BitVec 12} {since : Nat} (h : q.wait = .header mask true since) :
    q.splitHeader = some (mask, since) := by
  unfold Quad.splitHeader
  rw [h]

section
variable {mask : BitVec 12} {since : Nat} (hg : s.gang? g.t g.w g.base = some g)
  (held : (s.leader g).wait = .header mask true since)
include held

theorem missParts_held : s.missParts g =
    let ready := (s.live g).filter fun n => (s.quadOf g n).flagsClear mask
    let rest := (s.live g).filter fun n => !(s.quadOf g n).flagsClear mask
    if (s.teamOf g).kernel.msplit && decide (since + 16 ≤ s.clk) && !ready.isEmpty && !rest.isEmpty then
      some (ready, rest) else none := by
  unfold State.missParts
  rw [splitHeader_eq held]

include hg

theorem missSplit_splits (on : (s.teamOf g).kernel.msplit = true) (late : since + 16 ≤ s.clk)
    (ready : (s.live g).filter (fun n => (s.quadOf g n).flagsClear mask) ≠ [])
    (rest : (s.live g).filter (fun n => !(s.quadOf g n).flagsClear mask) ≠ []) :
    exec (.missSplit g.t g.w g.base) s = .next (s.replaceGangs g.t g.w g.quads
      (sortRuns (s.runsOf g.t g.w ((s.live g).filter fun n => (s.quadOf g n).flagsClear mask) ++
        s.runsOf g.t g.w ((s.live g).filter fun n => !(s.quadOf g n).flagsClear mask)))) := by
  rw [exec_missSplit, execMissSplit, hg]
  dsimp only
  rw [missParts_held held]
  dsimp only
  rw [if_pos (by simp [on, late, ready, rest])]

theorem missSplit_stays (no : (s.teamOf g).kernel.msplit = false ∨ s.clk < since + 16 ∨
      (s.live g).filter (fun n => (s.quadOf g n).flagsClear mask) = [] ∨
      (s.live g).filter (fun n => !(s.quadOf g n).flagsClear mask) = []) :
    exec (.missSplit g.t g.w g.base) s = .next s := by
  rw [exec_missSplit, execMissSplit, hg]
  dsimp only
  rw [missParts_held held]
  dsimp only
  rw [if_neg]
  rcases no with h | h | h | h <;> simp [h, Nat.not_le.mpr]

end

/-! ### Fuse timers (R109, R115) -/

theorem jwait?_some {q : Quad} {j : BitVec 3} {since : Nat} (h : q.wait = .jwait j since) : q.jwait? = some j := by
  unfold Quad.jwait?
  rw [h]

theorem jwait?_none {q : Quad} (h : ∀ j since, q.wait ≠ .jwait j since) : q.jwait? = none := by
  unfold Quad.jwait?
  split
  · next j since e => exact absurd e (h j since)
  · rfl

/-- The timer of an arrived set is due (R109). -/
def FuseDue (u : State) (g : GangRef) (j : BitVec 3) : Prop :=
  u.cycleOver = true ∧ u.timed g.t g.w = true ∧
    (u.waveOf g).jwaitSince j (u.quadOf g g.base).pc u.clk + (u.teamOf g).kernel.fusetmo ≤ u.clk

theorem fuseDue_iff {j : BitVec 3} {since : Nat} (h : (s.quadOf g g.base).wait = .jwait j since) :
    (s.cycleOver && s.fuseDue g.t g.w g.base) = true ↔ FuseDue s g j := by
  have parked : (s.quad g.t g.w g.base).jwait? = some j := jwait?_some h
  unfold State.fuseDue FuseDue
  rw [parked]
  simp only [Bool.and_eq_true, decide_eq_true_eq]
  exact Iff.rfl

/-- FUSEST counts an expiry, and stays at its greatest value (R109). -/
def Wave.countFuse (y : Wave) : Wave :=
  { y with fusest := if y.fusest = BitVec.allOnes 32 then y.fusest else y.fusest + 1 }

/-- What the timer of an arrived set does (R109). -/
def State.fuseOut (u : State) (g : GangRef) (j : BitVec 3) (set : List Nat) : State :=
  let t := (u.releaseSet g.t g.w j set).modWave g.t g.w Wave.countFuse
  if (u.teamOf g).kernel.fusetrap then
    t.modQuads g.t g.w set fun _ q => { q with pendTraps := q.pendTraps ++ [.fuse] }
  else t

theorem fuseTimeout_none (h : ∀ j since, ((s.joinTest g.t g.w).quadOf g g.base).wait ≠ .jwait j since) :
    exec (.fuseTimeout g.t g.w g.base) s = .next (s.joinTest g.t g.w) := by
  have away : ((s.joinTest g.t g.w).quad g.t g.w g.base).jwait? = none := jwait?_none h
  rw [exec_fuseTimeout, execFuseTimeout]
  dsimp only
  rw [away]

section
variable {j : BitVec 3} {since : Nat} (h : ((s.joinTest g.t g.w).quadOf g g.base).wait = .jwait j since)
include h

theorem fuseTimeout_parked : exec (.fuseTimeout g.t g.w g.base) s = .next
    (let u := s.joinTest g.t g.w
     if u.cycleOver && u.fuseDue g.t g.w g.base then
       u.fuseOut g j ((u.waveOf g).arrived j (u.quadOf g g.base).pc) else u) := by
  have parked : ((s.joinTest g.t g.w).quad g.t g.w g.base).jwait? = some j := jwait?_some h
  rw [exec_fuseTimeout, execFuseTimeout]
  dsimp only
  rw [parked]
  rfl

theorem fuseTimeout_waits (no : ¬ FuseDue (s.joinTest g.t g.w) g j) :
    exec (.fuseTimeout g.t g.w g.base) s = .next (s.joinTest g.t g.w) :=
  (fuseTimeout_parked h).trans (congrArg _ (if_neg (mt (fuseDue_iff h).mp no)))

theorem fuseTimeout_fires (due : FuseDue (s.joinTest g.t g.w) g j) :
    exec (.fuseTimeout g.t g.w g.base) s = .next (let u := s.joinTest g.t g.w
      u.fuseOut g j ((u.waveOf g).arrived j (u.quadOf g g.base).pc)) :=
  (fuseTimeout_parked h).trans (congrArg _ (if_pos ((fuseDue_iff h).mpr due)))

end

theorem length_modWave (a b t : Nat) (f : Wave → Wave) :
    ((s.modWave a b f).team t).waves.length = (s.team t).waves.length := by
  rw [State.team_modWave]
  split
  · simp [Team.modWave]
  · rfl

theorem fusest_modQuads (t w : Nat) (qs : List Nat) (f : Nat → Quad → Quad) (a b : Nat) :
    ((s.modQuads t w qs f).wave a b).fusest = (s.wave a b).fusest := by
  unfold State.modQuads
  rw [s.wave_modWave]
  split
  · rw [Wave.foldl_modQuad_eq]
  · rfl

theorem fusest_releaseSet (t w : Nat) (j : BitVec 3) (set : List Nat) (a b : Nat) :
    ((s.releaseSet t w j set).wave a b).fusest = (s.wave a b).fusest := by
  unfold State.releaseSet State.replaceGangs
  dsimp only
  rw [State.wave_modWave]
  split <;> exact fusest_modQuads ..

theorem length_releaseSet (t w : Nat) (j : BitVec 3) (set : List Nat) (a : Nat) :
    ((s.releaseSet t w j set).team a).waves.length = (s.team a).waves.length :=
  (length_modWave ..).trans (length_modWave ..)

/-- FUSEST counts each expiry of a fuse timer (R109). -/
theorem fusest_fuseOut {j : BitVec 3} {set : List Nat} (h : g.w < (s.teamOf g).waves.length) :
    ((s.fuseOut g j set).waveOf g).fusest =
      if (s.waveOf g).fusest.toNat = 2 ^ 32 - 1 then (s.waveOf g).fusest else (s.waveOf g).fusest + 1 := by
  have counted : (((s.releaseSet g.t g.w j set).modWave g.t g.w Wave.countFuse).wave g.t g.w).fusest =
      if (s.waveOf g).fusest = BitVec.allOnes 32 then (s.waveOf g).fusest else (s.waveOf g).fusest + 1 := by
    rw [State.wave_modWave, if_pos ⟨rfl, rfl, (length_releaseSet ..).symm ▸ h⟩, Wave.countFuse]
    dsimp only
    rw [fusest_releaseSet]
    rfl
  have top : (s.waveOf g).fusest.toNat = 2 ^ 32 - 1 ↔ (s.waveOf g).fusest = BitVec.allOnes 32 := by
    rw [← BitVec.toNat_inj, BitVec.toNat_allOnes]
  simp only [top, ← counted]
  unfold State.fuseOut
  dsimp only
  split
  · exact fusest_modQuads ..
  · rfl

theorem length_quads_modWave {f : Wave → Wave} (hf : ∀ x, (f x).quads.length = x.quads.length) (a b t w : Nat) :
    ((s.modWave a b f).wave t w).quads.length = (s.wave t w).quads.length := by
  rw [s.wave_modWave]
  split
  · exact hf _
  · rfl

theorem length_quads_replaceGangs (a b t w : Nat) (qs : List Nat) (runs : List (Nat × Nat)) :
    ((s.replaceGangs a b qs runs).wave t w).quads.length = (s.wave t w).quads.length := by
  unfold State.replaceGangs
  dsimp only
  rw [s.wave_modWave]
  split <;> rfl

theorem length_quads_releaseSet (j : BitVec 3) (set : List Nat) (a b t w : Nat) :
    ((s.releaseSet a b j set).wave t w).quads.length = (s.wave t w).quads.length := by
  rw [State.releaseSet, length_quads_replaceGangs, State.modQuads, length_quads_modWave (Wave.foldl_modQuad_length _ _)]

/-- Each quad of the set goes on, and has the fuse trap pending where its kernel asks for it (R109). -/
theorem quad_fuseOut {j : BitVec 3} {pc : Word} {n : Nat} (hn : n ∈ (s.waveOf g).arrived j pc) :
    (s.fuseOut g j ((s.waveOf g).arrived j pc)).quadOf g n =
      ((s.quadOf g n).release j).addTraps (if (s.teamOf g).kernel.fusetrap then [.fuse] else []) := by
  have nodup : ((s.waveOf g).arrived j pc).Nodup := List.nodup_range.filter _
  have inside : n < (s.wave g.t g.w).quads.length := (mem_arrived.mp hn).1
  unfold State.fuseOut State.quadOf
  generalize (s.waveOf g).arrived j pc = set at hn nodup
  have counted : ((s.releaseSet g.t g.w j set).modWave g.t g.w Wave.countFuse).quad g.t g.w n =
      (s.quad g.t g.w n).release j := by
    refine (State.quad_modWave ..).trans ((ite_self ((s.releaseSet g.t g.w j set).quad g.t g.w n)).trans ?_)
    rw [quad_releaseSet _ _ _ nodup, if_pos ⟨hn, inside⟩]
  have length : (((s.releaseSet g.t g.w j set).modWave g.t g.w Wave.countFuse).wave g.t g.w).quads.length =
      (s.wave g.t g.w).quads.length := by
    rw [length_quads_modWave (f := Wave.countFuse) (fun _ => rfl), length_quads_releaseSet]
  dsimp only
  cases (s.teamOf g).kernel.fusetrap
  · rw [if_neg Bool.false_ne_true, counted]
    exact (congrArg (fun l => { (s.quad g.t g.w n).release j with pendTraps := l }) (List.append_nil _)).symm
  · rw [if_pos rfl, State.quad_modQuads nodup, if_pos ⟨hn, length.symm ▸ inside⟩, counted]
    rfl

/-! ### The width fault (R115) -/

/-- The gangs of the run that wait at the forced fuse (R115). -/
def State.fusing (s : State) (g : GangRef) (w : Nat) : List Nat :=
  (s.waveOf g).gangs.filterMap fun y =>
    if (g.run w).quads.contains y.base && (s.quadOf g y.base).atFuse w (s.leader g).flow then some y.base else none

/-- The gang that starts at a quad takes the width fault (R115). -/
def State.widthTrap (t w : Nat) (s : State) (b : Nat) : State :=
  match s.gang? t w b with
  | some r => s.trap r .width 0 (fun _ => 0xF) 0
  | none => s

section
variable {w since : Nat} (hg : s.gang? g.t g.w g.base = some g) (h : (s.leader g).wait = .fuse w since)
include hg h

theorem widthFault_eq : exec (.widthFault g.t g.w g.base) s = .next
    (if s.cycleOver && s.widthDue g.t g.w g.base then (s.fusing g w).foldl (State.widthTrap g.t g.w) s else s) := by
  have fuse : (s.leader g).fuse? = some w := by
    unfold Quad.fuse?
    rw [h]
  rw [exec_widthFault, execWidthFault, hg]
  dsimp only
  rw [fuse]
  rfl

theorem widthDue_iff : (s.cycleOver && s.widthDue g.t g.w g.base) = true ↔ s.cycleOver = true ∧
    s.timed g.t g.w = true ∧ fuseSince s g (g.run w).quads w + (s.teamOf g).kernel.fusetmo ≤ s.clk := by
  have fuse : (s.leader g).fuse? = some w := by
    unfold Quad.fuse?
    rw [h]
  unfold State.widthDue
  rw [hg]
  dsimp only
  rw [fuse]
  simp only [Bool.and_eq_true, decide_eq_true_eq]

end

/-! ### Swaps, back-off, the watchdog and the A-latch -/

theorem gangSwap_free {core quarter : Nat} {inn : GangRef} (h : oldest (readyGangs s core quarter false) = some inn)
    (room : activeCount s core quarter < 8) :
    exec (.gangSwap core quarter) s = .next (s.setActive inn true (s.clk + 2)) := by
  rw [exec_gangSwap, execGangSwap, h]
  exact congrArg _ (if_pos room)

theorem gangSwap_swaps {core quarter : Nat} {inn out : GangRef} (h : oldest (readyGangs s core quarter false) = some inn)
    (full : 8 ≤ activeCount s core quarter) (idle : oldest (idleGangs s core quarter) = some out) :
    exec (.gangSwap core quarter) s = .next ((s.setActive out false 0).setActive inn true (s.clk + 2)) := by
  rw [exec_gangSwap, execGangSwap, h]
  dsimp only
  rw [if_neg (Nat.not_lt.mpr full), idle]

theorem gangSwap_none {core quarter : Nat} (h : oldest (readyGangs s core quarter false) = none) :
    exec (.gangSwap core quarter) s = .next s := by
  rw [exec_gangSwap, execGangSwap, h]

/-- A polling stretch that has ended holds the quad no more (R143). -/
theorem endBackoff_eq (q : Quad) (clk : Nat) : q.endBackoff clk =
    { q with poll := q.poll.map fun p => if p.holding ∧ p.until_ ≤ clk then { p with holding := false } else p } := by
  have same {o : Option Poll} (e : q.poll = o) : q = { q with poll := o } := e ▸ rfl
  unfold Quad.endBackoff
  split
  · next p e =>
    by_cases h : p.holding ∧ p.until_ ≤ clk
    · simp [e, h]
    · simpa [e, h] using same e
  · next e => simpa [e] using same e

theorem yieldBackoffExpiry_eq (hg : s.gang? g.t g.w g.base = some g) :
    exec (.yieldBackoffExpiry g.t g.w g.base) s = .next (s.mapGang g fun _ q => { q with
      poll := q.poll.map fun p => if p.holding ∧ p.until_ ≤ s.clk then { p with holding := false } else p }) := by
  rw [exec_yieldBackoffExpiry, execYieldBackoffExpiry, hg]
  simp only [endBackoff_eq]

theorem watchdogExpiry_hit (h : g.base ∈ (s.waveOf g).dog) : exec (.watchdogExpiry g.t g.w g.base) s = .next
    ((s.modQuads g.t g.w (s.waveOf g).dog fun _ q => if q.exited then q else q.addTraps [.watchdog]).modWave g.t g.w
      fun w => { w with dog := [] }) := by
  rw [exec_watchdogExpiry, execWatchdogExpiry]
  exact congrArg _ (if_pos (List.contains_iff_mem.mpr h))

theorem watchdogExpiry_none (h : g.base ∉ (s.waveOf g).dog) : exec (.watchdogExpiry g.t g.w g.base) s = .next s := by
  rw [exec_watchdogExpiry, execWatchdogExpiry]
  exact congrArg _ (if_neg (mt List.contains_iff_mem.mp h))

/-- The latch of a quarter after the idle test (R391). -/
def Quarter.idleFreed (clk : Nat) (y : Quarter) : Quarter :=
  if y.latch.owner.isSome = true ∧ y.latch.lastUse + 1024 ≤ clk then
    { y with latch := { owner := none, entries := [], lastUse := 0 } } else y

theorem aLatchIdleRelease_eq (core quarter : Nat) : exec (.aLatchIdleRelease core quarter) s =
    .next (s.modCore core fun k => { k with quarters := modVec k.quarters quarter (Quarter.idleFreed s.clk) }) := by
  rw [exec_aLatchIdleRelease, execALatchIdleRelease]
  simp only [Bool.and_eq_true, decide_eq_true_eq]
  rfl

/-- No latch is owned after a reset. -/
theorem idleFreed_reset {i clk : Nat} {y : Quarter} (h : CoreSt.reset.quarters[i]? = some y) : y.idleFreed clk = y := by
  unfold CoreSt.reset at h
  obtain ⟨_, rfl⟩ := Vector.getElem?_eq_some_iff.mp h
  simp [Quarter.idleFreed]

theorem aLatchIdleRelease_quarter (core quarter c i : Nat) :
    ((s.modCore core fun k => { k with quarters := modVec k.quarters quarter (Quarter.idleFreed s.clk) }).core c).quarters[i]? =
      ((s.core c).quarters[i]?).map fun y => if c = core ∧ i = quarter then y.idleFreed s.clk else y := by
  rw [State.core_modCore]
  by_cases hc : c = core ∧ c < 288
  · rw [if_pos hc]
    dsimp only
    rw [modVec_getElem?]
    by_cases hi : i = quarter
    · simp [hi, hc.1]
    · simp [hi]
  · rw [if_neg hc]
    by_cases e : c = core
    · have out : s.core c = CoreSt.reset := dif_neg fun lt => hc ⟨e, lt⟩
      rw [out]
      cases h : CoreSt.reset.quarters[i]? with
      | none => rfl
      | some y => simp [idleFreed_reset h]
    · simp [e]

/-! ### Counter waits (R128 to R131, R441) -/

theorem cwait?_counter {q : Quad} {x : CWait} (h : q.wait = .counter x) : q.cwait? = some x := by
  unfold Quad.cwait?
  rw [h]

/-- A quad that is parked in a counter wait is in its wave. -/
theorem quad_lt_of_counter {t w n : Nat} {x : CWait} (h : (s.quad t w n).wait = .counter x) :
    n < (s.wave t w).quads.length := by
  by_contra out
  rw [State.quad, Wave.quad_outside _ out] at h
  cases h

theorem expired_iff {x : CWait} : x.expired = true ↔ x.timeout ≠ 0 ∧ x.timeout.toNat ≤ x.elapsed ∧ x.status = none := by
  simp [CWait.expired, and_assoc]

theorem timeOut_counter {q : Quad} {x : CWait} (h : q.wait = .counter x) (tag : Nat) : q.timeOut tag =
    if x.tag = tag && x.expired && x.request.isNone then { q with wait := .counter { x with status := some 1 } } else q := by
  unfold Quad.timeOut
  rw [h]

section
variable {t w n : Nat} {x : CWait} (h : (s.quad t w n).wait = .counter x)
include h

theorem counterWatchNotify_eq : exec (.counterWatchNotify t w n) s =
    .next (if x.status.isSome then s.resumeWaits t w x.tag else s) := by
  rw [exec_counterWatchNotify, execCounterWatchNotify, cwait?_counter h]

/-- The waits of a gang that have expired take status 1 (R130). -/
def State.timedOut (s : State) (t w tag : Nat) : State :=
  s.modWave t w fun y => { y with quads := y.quads.map (·.timeOut tag) }

theorem counterWaitTimeout_eq : exec (.counterWaitTimeout t w n) s = .next
    (if s.cycleOver && x.expired && x.request.isNone then (s.timedOut t w x.tag).resumeWaits t w x.tag else s) := by
  rw [exec_counterWaitTimeout, execCounterWaitTimeout, cwait?_counter h]
  rfl

theorem quad_timedOut (tag : Nat) : (s.timedOut t w tag).quad t w n = (s.quad t w n).timeOut tag := by
  have inside := quad_lt_of_counter h
  unfold State.timedOut
  rw [State.quad_modWave, if_pos ⟨rfl, rfl, State.wave_lt_of_quad_lt inside⟩]
  simp [State.quad, Wave.quad, List.getD_eq_getElem?_getD, inside]

section
variable {r : Request} (hr : (x.request.bind fun id => s.requests.find? fun y => y.id == id) = some r)
include hr

/-- The cancel of a wait is sent (R441). -/
def State.sendCancel (s : State) (r : Request) (l : Nat) : State :=
  { s with
    nextId := s.nextId + 1
    requests := s.requests.map fun (y : Request) =>
      if y.id = r.id then { y with link := l, sentAt := s.wall, retryAt := none } else y
    sectorOut := .request l ({ r.body with id := s.nextId, kind := .cancel r.id }) :: s.sectorOut }

theorem remoteWaitCancel_sends (due : (s.cycleOver && x.expired && !x.cancelled) = true) {l : Nat}
    (hl : routeLink s r.dev = some l) : exec (.remoteWaitCancel t w n) s =
      .next ((s.sendCancel r l).modQuad t w n fun q => { q with wait := .counter { x with cancelled := true } }) := by
  have found : x.request.bind s.request? = some r := hr
  rw [exec_remoteWaitCancel, execRemoteWaitCancel, cwait?_counter h]
  dsimp only
  rw [found]
  dsimp only
  rw [if_pos due, hl]
  rfl

theorem remoteWaitCancel_fails (due : (s.cycleOver && x.expired && !x.cancelled) = true)
    (hl : routeLink s r.dev = none) : exec (.remoteWaitCancel t w n) s = .next (s.failWait r 0x0006) := by
  have found : x.request.bind s.request? = some r := hr
  rw [exec_remoteWaitCancel, execRemoteWaitCancel, cwait?_counter h]
  dsimp only
  rw [found]
  dsimp only
  rw [if_pos due, hl]

theorem remoteWaitCancel_stays (no : (s.cycleOver && x.expired && !x.cancelled) ≠ true) :
    exec (.remoteWaitCancel t w n) s = .next s := by
  have found : x.request.bind s.request? = some r := hr
  rw [exec_remoteWaitCancel, execRemoteWaitCancel, cwait?_counter h]
  dsimp only
  rw [found]
  dsimp only
  rw [if_neg no]

end

/-- What a released quad does whose acquire fails, or not (R129, R181). -/
theorem leaveWait_zero (st : x.status = some 0) : s.leaveWait t w n =
    if x.acq && Acquire.fails s (s.wave t w).core { quad := n, lanes := 0xF, at_ := x.acqLine } then
      s.modQuad t w n fun q => { q with wait := .ready, waitTrap := some (.trans .scope, lineAddr x.addr) }
    else s.modQuad t w n fun q => (q.pastWait x.st 0).noteAtomic (some x.acqLine) := by
  unfold State.leaveWait
  rw [h]
  dsimp only
  rw [st]
  rfl

/-- A wait that ended with another status writes it where it names a register (R130). -/
theorem leaveWait_writes {st : BitVec 2} {r : BitVec 6} (hs : x.status = some st) (ne : st ≠ 0) (hr : x.st = some r) :
    s.leaveWait t w n = s.modQuad t w n fun q => q.pastWait (some r) (st.setWidth 64) := by
  unfold State.leaveWait
  rw [h]
  dsimp only
  rw [hs]
  dsimp only
  rw [if_neg ne, hr]

/-- Else it traps (R130). -/
theorem leaveWait_traps {st : BitVec 2} (hs : x.status = some st) (ne : st ≠ 0) (hr : x.st = none) :
    s.leaveWait t w n = s.modQuad t w n fun q =>
      { q with wait := .ready, waitTrap := some (if st = 1 then .counterTimeout else .counterRegression, x.addr) } := by
  unfold State.leaveWait
  rw [h]
  dsimp only
  rw [hs]
  dsimp only
  rw [if_neg ne, hr]

end

theorem exec_aLatchIdleRelease_frees (s : State) (core quarter : Nat) :
    ∃ t, exec (.aLatchIdleRelease core quarter) s = .next t ∧ t = { s with cores := t.cores } ∧
      (∀ c, t.core c = { s.core c with quarters := (t.core c).quarters }) ∧
      ∀ c i : Nat, (t.core c).quarters[i]? = ((s.core c).quarters[i]?).map fun y =>
        if c = core ∧ i = quarter then y.idleFreed s.clk else y := by
  refine ⟨_, aLatchIdleRelease_eq core quarter, rfl, fun c => ?_, aLatchIdleRelease_quarter core quarter⟩
  rw [State.core_modCore]
  split <;> rfl

/-- What the expiry of a wait's timeout leaves of the waits of its wave (R130, R131). -/
theorem counterWaitTimeout_times {t w n : Nat} {x : CWait} (h : (s.quad t w n).wait = .counter x)
    (ended : s.cycleOver = true) (expired : x.expired = true) (here : x.request = none) :
    exec (.counterWaitTimeout t w n) s = .next ((s.timedOut t w x.tag).resumeWaits t w x.tag) ∧
      ((s.timedOut t w x.tag).quad t w n).wait = .counter { x with status := some 1 } ∧
      ∀ k y, (s.quad t w k).wait = .counter y → ¬ (y.tag = x.tag ∧ y.expired = true ∧ y.request = none) →
        ((s.timedOut t w x.tag).quad t w k).wait = .counter y := by
  refine ⟨?_, ?_, fun k y hy other => ?_⟩
  · rw [counterWaitTimeout_eq h, if_pos (by simp [ended, expired, here])]
  · rw [quad_timedOut h, timeOut_counter h, if_pos (by simp [expired, here])]
  · rw [quad_timedOut hy, timeOut_counter hy, if_neg (by simpa [and_assoc] using other), hy]

/-- Settles O45: each event is decided by its condition, and its effect is that of the state operation it makes. -/
theorem waveEvents : Obligations.WaveEvents := by
  intro s g quad core quarter hg
  refine ⟨?split, fuseTimeout_none, ?fuse, ?width, fun inn h => ⟨gangSwap_free h, fun full out => gangSwap_swaps h full⟩,
    gangSwap_none, yieldBackoffExpiry_eq hg, watchdogExpiry_hit, watchdogExpiry_none, ?latch, ?wait⟩
  case split =>
    exact fun mask since held => ⟨missSplit_splits hg held, missSplit_stays hg held⟩
  case fuse =>
    intro j since u q h
    exact ⟨fuseTimeout_waits h, fun due => ⟨_, fuseTimeout_fires h due, fusest_fuseOut, fun n hn => quad_fuseOut hn⟩⟩
  case width =>
    intro w since h
    exact ⟨fun due => (widthFault_eq hg h).trans (congrArg _ (if_pos ((widthDue_iff hg h).mpr due))),
      fun no => (widthFault_eq hg h).trans (congrArg _ (if_neg (mt (widthDue_iff hg h).mp no)))⟩
  case latch =>
    obtain ⟨t, step, cores, quarters, each⟩ := exec_aLatchIdleRelease_frees s core quarter
    refine ⟨t, step, cores, quarters, fun c i => (each c i).trans (congrArg (Option.map · _) (funext fun y => ?_))⟩
    by_cases here : c = core ∧ i = quarter
    · simp [here, Quarter.idleFreed]
    · rw [if_neg here, if_neg fun all => here ⟨all.1, all.2.1⟩]
  case wait =>
    intro x h expired
    have expires {y : CWait} : expired y ↔ y.expired = true := expired_iff.symm
    refine ⟨?released, ?parked, ?times, ?early, fun r hr => ⟨?cancel, ?uncancelled⟩, fun st hs => ?leave⟩
    case released => exact fun released => (counterWatchNotify_eq h).trans (congrArg _ (if_pos released))
    case parked => exact fun parked => (counterWatchNotify_eq h).trans (congrArg _ (if_neg (by simp [parked])))
    case times =>
      intro ended late here
      obtain ⟨step, ends, stays⟩ := counterWaitTimeout_times h ended (expires.mp late) here
      exact ⟨_, step, rfl, ends, fun n y hy other => stays n y hy (by rwa [← expires])⟩
    case early =>
      intro no
      rw [expires] at no
      rw [counterWaitTimeout_eq h, if_neg]
      rcases no with no | no | no <;> simp [no, ← Option.not_isSome]
    case cancel =>
      intro late ended sent
      have due : (s.cycleOver && x.expired && !x.cancelled) = true := by simp [ended, expires.mp late, sent]
      exact ⟨fun l => remoteWaitCancel_sends h hr due, remoteWaitCancel_fails h hr due⟩
    case uncancelled =>
      intro no
      rw [expires] at no
      refine remoteWaitCancel_stays h hr ?_
      rcases no with no | no | no <;> simp [no]
    case leave =>
      refine ⟨fun zero scope => ?_, fun zero scope => ?_, fun r => leaveWait_writes h hs, fun one reg => ?_, fun two reg => ?_⟩
      · exact (leaveWait_zero h (zero ▸ hs)).trans (if_pos scope)
      · exact (leaveWait_zero h (zero ▸ hs)).trans (if_neg (ne_true_of_eq_false scope))
      · exact (leaveWait_traps h hs (by simp [one]) reg).trans (by rw [if_pos one])
      · exact (leaveWait_traps h hs (by simp [two]) reg).trans (by rw [if_neg (by simp [two])])

end Sys2Proof.Machine
end

section
/-! A step runs the decoded instruction (O55; R117, R268, R272, R274, R401, R402, R414). -/

namespace Sys2Proof.Machine

variable {s : State} {g : GangRef}

/-! ### Issue -/

/-- With nothing due, the head of the agenda whose time has come moves. -/
theorem step_moves {a : Agent} {rest : List Slot} (due : s.due = none) (head : s.agenda = { dt := 0, agent := a } :: rest) :
    step s = ({ s with agenda := rest } : State).move a := by
  unfold step
  rw [due, head]

/-- A quarter whose datapath is free issues its oldest ready gang (R117). -/
theorem issueQuarter_issues {core q : Nat} (old : oldest (readyGangs s core q true) = some g)
    (idle : ∀ x, (s.core core).quarters[q]? = some x → x.busyUntil ≤ s.clk)
    (none_ : ({ s with cur := .gang g.t g.w g.base } : State).takePending g = none) :
    s.issueQuarter core q = ({ s with cur := .gang g.t g.w g.base } : State).fetchInstr g := by
  have free : ¬ s.clk < ((s.core core).quarters.getD q
      { busyUntil := 0, latch := { owner := none, entries := [], lastUse := 0 } }).busyUntil := by
    rw [Vector.getD, Array.getD_eq_getD_getElem?, Vector.getElem?_toArray]
    cases h : (s.core core).quarters[q]? with
    | none => exact Nat.not_lt_zero _
    | some x => exact Nat.not_lt.mpr (idle x h)
  unfold State.issueQuarter
  rw [old]
  dsimp only
  rw [if_neg free, State.issueGang, none_]

/-- A word is a clause header (R268). -/
def isHeader (w : Code) : Bool := slice (zext w) 31 30 == 3

/-- A word may begin at a quad's place in its clause: outside one a header, inside one another word whose instruction fits
the rest of the body (R272, R274). -/
def Quad.fits (q : Quad) (w : Code) : Bool :=
  match q.clause with
  | none => isHeader w
  | some k => !isHeader w && decide (instrWords w ≤ k.left.toNat)

section
variable {u1 : State} {w : Code} (word : fetchWord s (s.coreOf g) (s.ctxOf g) (s.leader g).pc = (u1, .word w))
include word

theorem fetchInstr_illegal (no : (s.leader g).fits w = false) :
    s.fetchInstr g = .state (u1.illegal g (if (s.leader g).clause.isNone then 1 else srcOf w)) := by
  unfold State.fetchInstr
  dsimp only
  rw [word]
  refine if_pos ?_
  rw [Bool.not_eq_true']
  exact no

variable (fits : (s.leader g).fits w = true) {u2 : State} {ws : List Code}
  (words : fetchWords u1 (s.coreOf g) (s.ctxOf g) ((s.leader g).pc + 4) (instrWords w - 1) = (u2, .ok ws))
include fits words

theorem fetchInstr_decodes {i : Instr} {l : List Code} (h : decodeCode (w :: ws) = .ok (i, l)) :
    s.fetchInstr g = .instr i u2 := by
  unfold State.fetchInstr
  dsimp only
  rw [word]
  refine (if_neg ?_).trans ?_
  · rw [Bool.not_eq_true', Bool.not_eq_false]
    exact fits
  · rw [words]
    dsimp only
    rw [h]

theorem fetchInstr_reserved {e : DecodeError} (h : decodeCode (w :: ws) = .error e) :
    s.fetchInstr g = .state (u2.illegal g (srcOf w)) := by
  unfold State.fetchInstr
  dsimp only
  rw [word]
  refine (if_neg ?_).trans ?_
  · rw [Bool.not_eq_true', Bool.not_eq_false]
    exact fits
  · rw [words]
    dsimp only
    rw [h]

end

theorem fits_misplaced {q : Quad} {w : Code} (h : isHeader w = !q.clause.isNone) : q.fits w = false := by
  unfold Quad.fits
  cases e : q.clause <;> simp_all

theorem fits_long {q : Quad} {w : Code} {k : ClauseCtx} (h : q.clause = some k) (long : k.left.toNat < instrWords w) :
    q.fits w = false := by
  unfold Quad.fits
  rw [h]
  simp [long]

theorem fits_of {q : Quad} {w : Code} (h : (q.clause = none ∧ isHeader w = true) ∨
    ∃ k, q.clause = some k ∧ isHeader w = false ∧ instrWords w ≤ k.left.toNat) : q.fits w = true := by
  unfold Quad.fits
  rcases h with ⟨e, h⟩ | ⟨k, e, h, fits⟩
  · rw [e]
    exact h
  · rw [e]
    simp [h, fits]

/-! ### The fetch of a word -/

section
variable {s1 : State} {core : Nat} {c : BitVec 6} {va : Word} {pa : Nat} {e : TlbEntry}
  (tr : translate s core c va .fetch = (s1, .ok (pa, e)))
include tr

theorem fetchWord_unverified (h : e.verified = false) : fetchWord s core c va = (s1, .check e.base) := by
  unfold fetchWord
  rw [tr]
  simp [h]

variable (ok : e.verified = true)
include ok

theorem fetchWord_cached {h : CleanLine} (hit : (s1.core core).iline c (va.toNat / 128) = some h) :
    fetchWord s core c va = (s1, .word (field32 h.data.toList (va.toNat % 128))) := by
  unfold fetchWord
  rw [tr]
  simp [ok, hit]

theorem fetchWord_hbm (miss : (s1.core core).iline c (va.toNat / 128) = none) (kind : physKind pa = .hbm)
    (clean : poisonedView s1 core c va pa = false) : (fetchWord s core c va).2 =
      .word (field32 (codeLine s1 core c (va.toNat / 128) (lineOf pa)) (va.toNat % 128)) := by
  unfold fetchWord
  rw [tr]
  simp [ok, miss, kind, clean]

end

/-! ### Walk code -/

/-- A word that the walk engine performs is performed for its walk (R402). -/
theorem walkWord_cur {core : Nat} {w : Walk} {x : Code} {u : State} (h : s.walkWord core w = .word x u) :
    u.cur = .walk core w.id := by
  unfold State.walkWord at h
  dsimp only at h
  split at h
  · cases h
  · split at h <;> cases h
    rfl

theorem nextWalk_cur {core id : Nat} {x : Code} {u : State} (h : s.nextWalk core id = .word x u) :
    u.cur = .walk core id := by
  unfold State.nextWalk at h
  split at h
  · cases h
  · next w found =>
    have here : w.id = id := by simpa using List.find?_some found
    split at h
    · cases h
    · split at h
      · cases h
      · split at h
        · cases h
        · split at h
          · cases h
          · exact here ▸ walkWord_cur h

/-- Settles O55: the step is the move of the agenda's head (`step_moves`), which runs what the fetch of the issuing gang, or
of the walk, decodes to. -/
theorem stepIssues : Obligations.StepIssues := by
  refine ⟨?issue, ?fetch, ?walk⟩
  case issue =>
    intro s core q rest g due head v old idle u pending u1 w word header
    have moves : step s = (u.fetchInstr g).run :=
      (step_moves due head).trans (congrArg Issued.run (issueQuarter_issues old idle pending))
    refine ⟨fun h => ?_, fun k hk long => ?_, fun h u2 ws words => ⟨fun i l d => ?_, fun e d => ?_⟩⟩
    · rw [moves, fetchInstr_illegal word (fits_misplaced h), Issued.run]
    · rw [moves, fetchInstr_illegal word (fits_long hk long), Issued.run, hk]
      rfl
    · rw [moves, fetchInstr_decodes word (fits_of h) words d, Issued.run]
    · rw [moves, fetchInstr_reserved word (fits_of h) words d, Issued.run]
  case fetch =>
    exact fun s s1 core c va pa e tr => ⟨fetchWord_unverified tr, fun h ok => fetchWord_cached tr ok, fetchWord_hbm tr⟩
  case walk =>
    intro s core id rest x u due head next
    have moves : step s = performWalk (decodeWalk x) u :=
      (step_moves due head).trans (congrArg WalkNext.run next)
    exact ⟨nextWalk_cur next, fun i d => by rw [moves, d, performWalk], fun e d => by rw [moves, d, performWalk]⟩

end Sys2Proof.Machine
end

section
/-! Emitting coverage and ending a walk (O44; R141, R224, R227, R235, R239, R240, R395, R407): what an operation of a
walk leaves, by its result, and the result of each of the operations. -/

namespace Sys2Proof.Machine

/-! ### What an operation of a walk leaves -/

section settle
variable {s u : State} {core id : Nat} {w w' : Walk}

/-- An operation of a running walk leaves what its result settles to. -/
theorem withWalk_next (issued : s.cur = .walk core id) (running : s.walk? core id = some w)
    (f : Eng → Walk → State × WRes) : withWalk s f = .next (s.settleWalk core w (f (w.eng core) w)) := by
  rw [withWalk, issued]
  simp only [running]

theorem settleWalk_go (more : w.wpc ≠ 255) : s.settleWalk core w (u, .go w' none) =
    (u.setWalk core { w'.put 160 1 (w.wpc + 1) with fetched := [], logged := [], steps := w.steps + 1 }).stall
      core w.ctx 11 1 := by
  rw [State.settleWalk, if_neg more]
  rfl

theorem settleWalk_wait : s.settleWalk core w (u, .wait w') = u.setWalk core w' := rfl

theorem settleWalk_fault {f : WFault} (idle : s.walkBusy w = false) :
    s.settleWalk core w (u, .fault f) = s.faultWalk core w f := by
  rw [State.settleWalk, idle]
  rfl

theorem settleWalk_done (idle : s.walkBusy w = false) :
    s.settleWalk core w (u, .ends 5) = (s.endWalk core w 5 0 0).stall core w.ctx 11 1 := by
  rw [State.settleWalk, idle]
  rfl

theorem settleWalk_yield (idle : s.walkBusy w = false) (more : w.wpc ≠ 255) :
    s.settleWalk core w (u, .ends 2) = (s.endWalk core (w.put 160 1 (w.wpc + 1)) 2 0 0).stall core w.ctx 11 1 := by
  rw [State.settleWalk, idle, if_neg more]
  rfl

theorem settleWalk_yield_last (idle : s.walkBusy w = false) (last : w.wpc = 255) :
    s.settleWalk core w (u, .ends 2) = s.faultWalk core w (.of 0x12) := by
  rw [State.settleWalk, idle, if_pos last]
  rfl

/-- The record of a walk that is done is written in its two fields; of any other end, whole. -/
theorem endWalk_done {d : State} (wrote : writeDone s (w.eng core) w = (d, none)) :
    s.endWalk core w 5 0 0 = d.landWalk core w 5 0 := by
  simp [State.endWalk, wrote]

theorem endWalk_done_fails {d : State} {f : WFault} (failed : writeDone s (w.eng core) w = (d, some f)) :
    s.endWalk core w 5 0 0 = (d.logWalk (w.eng core) f).landWalk core w 3 f.cause := by
  simp [State.endWalk, failed]

theorem endWalk_yield {d : State} (wrote : writeRecord s (w.eng core) w 2 0 0 = (d, none)) :
    s.endWalk core w 2 0 0 = d.landWalk core w 2 0 := by
  rw [State.endWalk, if_neg (by decide)]
  simp only [wrote]

theorem endWalk_yield_fails {d : State} {f : WFault} (failed : writeRecord s (w.eng core) w 2 0 0 = (d, some f)) :
    s.endWalk core w 2 0 0 = (d.logWalk (w.eng core) f).landWalk core w 3 f.cause := by
  rw [State.endWalk, if_neg (by decide)]
  simp only [failed]

end settle

/-! ### Words of a ring -/

/-- A word of a ring that its checks let through is given to the operation. -/
theorem walkRingWord_ok {s u : State} {e : Eng} {va : Word} {need : Need} {l : Loc}
    (located : engLocate s e va 8 8 need = (u, .ok l)) (sound : u.poisonAt l = false) (k : State → Loc → State × WRes) :
    walkRingWord s e va need k = k u l := by
  rw [walkRingWord, located]
  simp [sound]

/-- A wait whose counter has reached the target lets the operation go on. -/
theorem walkWait_over {s : State} {e : Eng} {w : Walk} {key target : Nat} {va : Word}
    (lives : fetchedAt w.fetched key 0 ≠ some none)
    (due : (engWait s e w.logged w.fetched key va target).finished = true) (k : State → State × WRes) :
    walkWait s e w key va target k = k (engWait s e w.logged w.fetched key va target).s := by
  simp [walkWait, lives, due]

/-- The claim of an index at a claim word of this device: one is added, and the record keeps the index. -/
theorem walkClaim_here {s u t : State} {e : Eng} {w : Walk} {r : Ring} {l : Loc}
    (located : engLocate s e r.claim 8 8 .store = (u, .ok l)) (sound : u.poisonAt l = false) (here : l.sector = none)
    (ordered : (u.engFlush e l).orderAll e.ctx (e.counterOps (u.engFlush e l) l) = .ok t) :
    walkClaim s e w r = (t.engSetCounter e (e.counter (u.engFlush e l) l + 1) l,
      .wait (w.put 192 8 (e.counter (u.engFlush e l) l).toNat)) := by
  rw [walkClaim, walkRingWord_ok located sound]
  simp only [here, ordered]

/-- The slot of a claimed index that is free is written, and marked as written. -/
theorem walkSlot_free {s u v t : State} {e : Eng} {w : Walk} {r : Ring} {i : Word} {entry : List Byte} {l : Loc}
    {ps : List (Nat × Nat × Word × TlbEntry)}
    (freed : engLocate s e r.freed 8 8 .counterGet = (u, .ok l)) (sound : u.poisonAt l = false)
    (lives : fetchedAt w.fetched freeKey 0 ≠ some none)
    (due : (engWait u e w.logged w.fetched freeKey r.freed (r.target false i)).finished = true)
    (slot : engLocate (engWait u e w.logged w.fetched freeKey r.freed (r.target false i)).s e (r.slot i) 32 1 .store =
      (v, .ok (.mem ps)))
    (whole : poisonedPart v ps = none) (wrote : engWrite v e (r.slot i) entry = (t, none)) :
    walkSlot s e w r i entry = (t, .wait (w.mark slotMark)) := by
  rw [walkSlot, walkRingWord_ok freed sound, walkWait_over lives due, slot]
  simp only [whole, wrote]

/-- A written slot whose turn has come is marked so. -/
theorem walkPublish_turn {s u : State} {e : Eng} {w : Walk} {r : Ring} {i : Word} {l : Loc}
    (filled : engLocate s e r.filled 8 8 .counterAdd = (u, .ok l)) (sound : u.poisonAt l = false)
    (early : w.marked turnMark = false) (lives : fetchedAt w.fetched fillKey 0 ≠ some none)
    (due : (engWait u e w.logged w.fetched fillKey r.filled i.toNat).finished = true) :
    walkPublish s e w r i =
      ((engWait u e w.logged w.fetched fillKey r.filled i.toNat).s, .wait (w.mark turnMark)) := by
  rw [walkPublish, walkRingWord_ok filled sound]
  simp only [early, Bool.false_eq_true, if_false]
  exact walkWait_over lives due _

/-- In its turn the slot is published by the add to F. -/
theorem walkPublish_adds {s u : State} {e : Eng} {w : Walk} {r : Ring} {i : Word} {l : Loc}
    (filled : engLocate s e r.filled 8 8 .counterAdd = (u, .ok l)) (sound : u.poisonAt l = false)
    (turn : w.marked turnMark = true) : walkPublish s e w r i = walkAdd u e w r l := by
  rw [walkPublish, walkRingWord_ok filled sound, if_pos turn]

theorem walkAdd_here {u : State} {e : Eng} {w : Walk} {r : Ring} {l : Loc}
    (fresh : fetchedAt w.fetched awaitKey 0 = none) (unasked : u.engAsked e awaitKey = false) (here : l.sector = none)
    (due : (engAddAs u e w.logged awaitKey r.filled 1).finished = true)
    (answered : (engAddAs u e w.logged awaitKey r.filled 1).s.engAsked e awaitKey = false) :
    walkAdd u e w r l =
      ((engAddAs u e w.logged awaitKey r.filled 1).s, .go (w.put 192 8 (2 ^ 64 - 1)) none) := by
  simp only [walkAdd, fresh, unasked, here, due, answered, Bool.not_true, Bool.or_self, Bool.false_eq_true, if_false,
    Option.isSome_none]

theorem walkAdd_replied {u : State} {e : Eng} {w : Walk} {r : Ring} {l : Loc} {bs : List Byte}
    (reply : fetchedAt w.fetched awaitKey 0 = some (some bs)) :
    walkAdd u e w r l = (u, .go (w.put 192 8 (2 ^ 64 - 1)) none) := by
  simp [walkAdd, reply]

/-! ### The operations -/

/-- What `emit.ring` comes to in a state. -/
def emitRingRes (s : State) (e : Eng) (w : Walk) (a : WReg) (n : BitVec 4) : State × WRes :=
  let x := slice (w.reg a) 15 0
  let y := slice (w.reg a) 31 16
  let zs := quadDepths w.bytes x y
  if x % 2 ≠ 0 ∨ y % 2 ≠ 0 ∨ w.wpc = 255 then (s, .fault (.of 0x12))
  else
    match (s.team w.team).ring n.toNat with
    | none => (s, .fault (.of 0x12))
    | some r =>
      if r.claim = 0 ∨ r.bytes < 32 then (s, .fault (.of 0x12))
      else if coverage zs = 0 then (s, .go w none)
      else
        match w.claim with
        | none => walkClaim s e w r
        | some i =>
          if w.marked slotMark then walkPublish s e w r i
          else walkSlot s e w r i (coverageEntry x y (slice (w.regs[4]) 31 0) zs)

/-- What `emit.vis` comes to in a state. -/
def emitVisRes (s : State) (e : Eng) (w : Walk) (a : WReg) : State × WRes :=
  let x := slice (w.reg a) 15 0
  let y := slice (w.reg a) 31 16
  if x % 2 ≠ 0 ∨ y % 2 ≠ 0 ∨ w.wpc = 255 then (s, .fault (.of 0x12))
  else
    match visPlaces s e (visKeys w x y (quadDepths w.bytes x y)) with
    | (s, .error f) => (s, .fault f)
    | (s, .ok l) =>
      if 64 < s.outstanding e.core + l.length then (s, .wait w)
      else (l.foldl (fun s x => sendVis s e w x) s, .go w none)

section ops
variable {s : State} {core id : Nat} {w : Walk} {a : WReg} {n : BitVec 4} {r : Ring}
  (issued : s.cur = .walk core id) (running : s.walk? core id = some w)

include issued running

theorem exec_walkEmitRing_next :
    exec (.walkEmitRing a n) s = .next (s.settleWalk core w (emitRingRes s (w.eng core) w a n)) :=
  (exec_walkEmitRing s).trans (withWalk_next issued running _)

theorem exec_walkEmitVis_next :
    exec (.walkEmitVis a) s = .next (s.settleWalk core w (emitVisRes s (w.eng core) w a)) :=
  (exec_walkEmitVis s).trans (withWalk_next issued running _)

theorem exec_walkDone_next : exec .walkDone s = .next (s.settleWalk core w (s, .ends 5)) :=
  (exec_walkDone s).trans (withWalk_next issued running _)

theorem exec_walkYield_next : exec .walkYield s = .next (s.settleWalk core w (s, .ends 2)) :=
  (exec_walkYield s).trans (withWalk_next issued running _)

omit issued running

theorem emitRingRes_misplaced {e : Eng}
    (bad : slice (w.reg a) 15 0 % 2 ≠ 0 ∨ slice (w.reg a) 31 16 % 2 ≠ 0 ∨ w.wpc = 255) :
    emitRingRes s e w a n = (s, .fault (.of 0x12)) := if_pos bad

theorem emitVisRes_misplaced {e : Eng}
    (bad : slice (w.reg a) 15 0 % 2 ≠ 0 ∨ slice (w.reg a) 31 16 % 2 ≠ 0 ∨ w.wpc = 255) :
    emitVisRes s e w a = (s, .fault (.of 0x12)) := if_pos bad

section placed
variable (more : w.wpc ≠ 255) (evenX : slice (w.reg a) 15 0 % 2 = 0) (evenY : slice (w.reg a) 31 16 % 2 = 0)
include more evenX evenY

theorem emitRingRes_noRing {e : Eng} (none_ : (s.team w.team).ring n.toNat = none) :
    emitRingRes s e w a n = (s, .fault (.of 0x12)) := by
  simp [emitRingRes, more, evenX, evenY, none_]

theorem emitRingRes_unfit {e : Eng} (ring : (s.team w.team).ring n.toNat = some r) (unfit : r.claim = 0 ∨ r.bytes < 32) :
    emitRingRes s e w a n = (s, .fault (.of 0x12)) := by
  simp only [emitRingRes, more, evenX, evenY, ring, unfit, ne_eq, not_true_eq_false, or_self, if_false, if_true]

theorem emitVisRes_room {e : Eng} {u : State} {ps}
    (places : visPlaces s e (visKeys w (slice (w.reg a) 15 0) (slice (w.reg a) 31 16)
      (quadDepths w.bytes (slice (w.reg a) 15 0) (slice (w.reg a) 31 16))) = (u, .ok ps))
    (room : u.outstanding e.core + ps.length ≤ 64) :
    emitVisRes s e w a = (ps.foldl (fun s z => sendVis s e w z) u, .go w none) := by
  simp [emitVisRes, more, evenX, evenY, places, Nat.not_lt.mpr room]

theorem emitVisRes_full {e : Eng} {u : State} {ps}
    (places : visPlaces s e (visKeys w (slice (w.reg a) 15 0) (slice (w.reg a) 31 16)
      (quadDepths w.bytes (slice (w.reg a) 15 0) (slice (w.reg a) 31 16))) = (u, .ok ps))
    (full : 64 < u.outstanding e.core + ps.length) : emitVisRes s e w a = (u, .wait w) := by
  simp [emitVisRes, more, evenX, evenY, places, full]

variable (ring : (s.team w.team).ring n.toNat = some r) (claims : r.claim ≠ 0) (wide : 32 ≤ r.bytes)
include ring claims wide

/-- With a ring that fits, `emit.ring` is by the coverage and by what the record and the marks say is done. -/
theorem emitRingRes_fit {e : Eng} : emitRingRes s e w a n =
    if coverage (quadDepths w.bytes (slice (w.reg a) 15 0) (slice (w.reg a) 31 16)) = 0 then (s, .go w none)
    else
      match w.claim with
      | none => walkClaim s e w r
      | some i =>
        if w.marked slotMark then walkPublish s e w r i
        else walkSlot s e w r i (coverageEntry (slice (w.reg a) 15 0) (slice (w.reg a) 31 16) (slice (w.regs[4]) 31 0)
          (quadDepths w.bytes (slice (w.reg a) 15 0) (slice (w.reg a) 31 16))) := by
  simp only [emitRingRes, more, evenX, evenY, ring, claims, Nat.not_lt.mpr wide, ne_eq, not_true_eq_false, or_self,
    if_false]

end placed
end ops

/-- The step limit's move, by what the walk has executed. -/
theorem exec_walkStepLimit_running {s : State} {core id : Nat} {w : Walk} (running : s.walk? core id = some w) :
    exec (.walkStepLimit core id) s =
      .next (if 1048576 ≤ w.steps && w.active && !s.walkBusy w then s.faultWalk core w (.of 0x13) else s) := by
  rw [exec_walkStepLimit, execWalkStepLimit, running]
  rfl

/-- Settles O44: each operation's result by its cases, and what a walk's move leaves for that result. -/
theorem walkEmitsAndEnds : Obligations.WalkEmitsAndEnds := by
  refine ⟨?limit, ?results, ?ops⟩
  case limit =>
    refine fun s core id => ⟨fun gone => ?_, fun w running => ⟨fun last active idle => ?_, fun held => ?_⟩⟩
    · rw [exec_walkStepLimit, execWalkStepLimit, gone]
    · rw [exec_walkStepLimit_running running, if_pos (by simp [last, active, idle])]
      rfl
    · rw [exec_walkStepLimit_running running, if_neg]
      obtain few | due | busy := held
      · simp [Nat.not_le.mpr few]
      · simp [due]
      · simp [busy]
  case results =>
    intro w st cause
    rw [Walk.results, Nat.mul_comm cause]
  case ops =>
    intro s u v t core id w a n r i loc ps issued running e x y zs on faults
    have ringFaults : emitRingRes s e w a n = (s, .fault (.of 0x12)) → faults (.walkEmitRing a n) := fun res idle => by
      rw [exec_walkEmitRing_next issued running, res, settleWalk_fault idle]
      rfl
    have visFaults : emitVisRes s e w a = (s, .fault (.of 0x12)) → faults (.walkEmitVis a) := fun res idle => by
      rw [exec_walkEmitVis_next issued running, res, settleWalk_fault idle]
      rfl
    have ringWaits : ∀ {v' w'}, emitRingRes s e w a n = (v', .wait w') →
        exec (.walkEmitRing a n) s = .next (v'.setWalk core w') := fun res => by
      rw [exec_walkEmitRing_next issued running, res, settleWalk_wait]
    refine ⟨fun bad => ⟨ringFaults (emitRingRes_misplaced bad), visFaults (emitVisRes_misplaced bad)⟩,
      fun more evenX evenY => ⟨?noRing, ?unfit, ?ring, ?vis⟩, fun idle => ⟨?done, ?doneFails, ?last, ?yield⟩⟩
    case noRing => exact fun gone => ringFaults (emitRingRes_noRing more evenX evenY gone)
    case unfit => exact fun r' ring unfit => ringFaults (emitRingRes_unfit more evenX evenY ring unfit)
    case ring =>
      intro ring claims wide
      have fit := emitRingRes_fit more evenX evenY ring claims wide (e := e)
      have ringGoes : ∀ {v' w'}, emitRingRes s e w a n = (v', .go w' none) → on (.walkEmitRing a n) v' w' := fun res => by
        simp only [on]
        rw [exec_walkEmitRing_next issued running, res, settleWalk_go more]
      refine ⟨fun bare => ringGoes ?_, fun covered fresh located sound here flushed ordered => ringWaits ?_,
        fun ps' t' covered claimed unwritten freed sound lives due slot whole wrote => ringWaits ?_,
        fun covered claimed written filled sound => ⟨fun early lives due => ringWaits ?_,
          fun turn new unasked here due answered => ringGoes ?_, fun bs turn reply => ringGoes ?_⟩⟩
      · rw [fit, if_pos bare]
      · subst flushed
        rw [fit, if_neg covered, fresh]
        exact walkClaim_here located sound here ordered
      · rw [fit, if_neg covered, claimed]
        simp only [unwritten, Bool.false_eq_true, if_false]
        exact walkSlot_free freed sound lives due slot whole wrote
      · rw [fit, if_neg covered, claimed]
        simp only [written, if_true]
        exact walkPublish_turn filled sound early lives due
      · rw [fit, if_neg covered, claimed]
        simp only [written, if_true]
        rw [walkPublish_adds filled sound turn, walkAdd_here new unasked here due answered]
      · rw [fit, if_neg covered, claimed]
        simp only [written, if_true]
        rw [walkPublish_adds filled sound turn, walkAdd_replied reply]
    case vis =>
      refine fun places => ⟨fun room => ?_, fun full => ?_⟩
      · simp only [on]
        rw [exec_walkEmitVis_next issued running, emitVisRes_room more evenX evenY places room, settleWalk_go more]
      · rw [exec_walkEmitVis_next issued running, emitVisRes_full more evenX evenY places full, settleWalk_wait]
    case done => exact fun wrote => by rw [exec_walkDone_next issued running, settleWalk_done idle, endWalk_done wrote]
    case doneFails =>
      exact fun f failed => by rw [exec_walkDone_next issued running, settleWalk_done idle, endWalk_done_fails failed]
    case last =>
      exact fun last _ => by
        rw [exec_walkYield_next issued running, settleWalk_yield_last idle last]
        rfl
    case yield =>
      refine fun more => ⟨fun wrote => ?_, fun f failed => ?_⟩
      · rw [exec_walkYield_next issued running, settleWalk_yield idle more, endWalk_yield wrote]
      · rw [exec_walkYield_next issued running, settleWalk_yield idle more, endWalk_yield_fails failed]
        rfl

end Sys2Proof.Machine
end

section
/-! SUPPORT. What a change of a counter's value does when no one watches the counter fall (R128, R136): it reaches parked
waits and waits held for other devices, and nothing else. -/

namespace Sys2Proof.Machine

variable {s t r : State}

/-! ### Translation does not read teams, caches or waits -/

section fresh
variable (same : t = { s with teams := t.teams, cores := t.cores, remoteWaits := t.remoteWaits })
include same

theorem walkFrom_caches (c : BitVec 6) (va n p : Nat) (tg : BitVec 16) : walkFrom t c va n p tg = walkFrom s c va n p tg := by
  have window (p) : t.windowFails c p = s.windowFails c p := by rw [same]; rfl
  have physical (p) : t.physicalFails c p = s.physicalFails c p := by rw [same]; rfl
  have table (p) : t.tableFails c p = s.tableFails c p := by rw [same]; rfl
  have word (p) : t.tableWord p = s.tableWord p := by rw [same]; rfl
  have poison (p) : t.isPoisoned p = s.isPoisoned p := by rw [same]; rfl
  have ctx : t.ctx c = s.ctx c := by rw [same]; rfl
  induction n generalizing p tg with
  | zero => rfl
  | succ n ih => simp only [walkFrom, ih, window, physical, table, word, poison, ctx]

theorem translateFresh_caches (c : BitVec 6) (va : Word) (n : Need) : translateFresh t c va n = translateFresh s c va n := by
  have ctx : t.ctx c = s.ctx c := by rw [same]; rfl
  have check (e) : leafCheck t c e va n = leafCheck s c e va n := by rw [same]; rfl
  have walk : walkTable t c va = walkTable s c va := by
    unfold walkTable
    rw [walkFrom_caches same, ctx]
  simp only [translateFresh, walk, check]

theorem namesCounter_caches (c : BitVec 6) (pa : Nat) : namesCounter t c pa = namesCounter s c pa := by
  funext va
  simp only [namesCounter, translateFresh_caches same]

end fresh

/-! ### Watchers -/

/-- A wait that stands after a counter's new value stood before it. -/
theorem Quad.waitsAt_of_notify {q : Quad} {at_ loc : CounterLoc} {old new : Word} {x : CWait}
    (stands : (q.notify at_ old new).wait = .counter x) (waits : x.waitsAt loc = true) : q.wait = .counter x := by
  unfold Quad.notify at stands
  split at stands
  · next w hw =>
    have status : ∀ n, (QWait.counter { w with status := some n }) = .counter x → False := fun n e => by
      cases e
      simp [CWait.waitsAt] at waits
    split at stands
    · split at stands
      · exact (status _ stands).elim
      · split at stands
        · exact (status _ stands).elim
        · exact stands
    · exact stands
  · exact stands

theorem Team.waitAddrs_nil_iff {x : Team} {loc : CounterLoc} : x.waitAddrs loc = [] ↔ (x.resident = true →
    ∀ w ∈ x.waves, ∀ q ∈ w.quads, ∀ y, q.wait = .counter y → y.waitsAt loc = false) := by
  unfold Team.waitAddrs
  cases x.resident
  · simp
  · simp only [Bool.not_true, Bool.false_eq_true, if_false, List.flatMap_eq_nil_iff, List.filterMap_eq_nil_iff, true_imp_iff]
    refine forall₂_congr fun w _ => forall₂_congr fun q _ => ?_
    cases q.wait <;> simp

theorem Team.waitAddrs_notify {x : Team} {at_ loc : CounterLoc} {old new : Word} (none_ : x.waitAddrs loc = []) :
    (x.notify at_ old new).waitAddrs loc = [] := by
  unfold Team.notify
  split
  · exact none_
  · rw [Team.waitAddrs_nil_iff] at none_ ⊢
    intro here w' hw' q' hq' y stands
    obtain ⟨w, hw, rfl⟩ := List.mem_map.mp hw'
    obtain ⟨q, hq, rfl⟩ := List.mem_map.mp hq'
    by_contra waits
    exact waits (none_ here w hw q hq y (Quad.waitsAt_of_notify stands (by simpa using waits)))

theorem Team.notify_ctx (x : Team) (at_ : CounterLoc) (old new : Word) : (x.notify at_ old new).ctx = x.ctx := by
  unfold Team.notify
  split <;> rfl

theorem HeldRemote.notify_same (h : HeldRemote) (pa : Nat) (old new : Word) :
    (h.notify pa old new).pa = h.pa ∧ (h.notify pa old new).req = h.req ∧
      ((h.notify pa old new).answer = none → h.answer = none) := by
  unfold HeldRemote.notify
  split
  · next at_ =>
    have open_ : h.answer = none := by simpa using at_.2
    split
    · split
      · split <;> exact ⟨rfl, rfl, fun _ => open_⟩
      · split <;> exact ⟨rfl, rfl, fun _ => open_⟩
    all_goals exact ⟨rfl, rfl, fun _ => open_⟩
  · exact ⟨rfl, rfl, id⟩

theorem State.notifyWaits_device (s : State) (pa : Nat) (old new : Word) : s.notifyWaits pa old new =
    { s with teams := (s.notifyWaits pa old new).teams, remoteWaits := (s.notifyWaits pa old new).remoteWaits } := rfl

/-- The rings of a team stand through a counter's new value. -/
theorem State.headWait_notifyWaits (pa : Nat) (old new : Word) (e : Entry) :
    (s.notifyWaits pa old new).headWait e = s.headWait e := by
  have rings : ((s.notifyWaits pa old new).team e.team).rings = (s.team e.team).rings := by
    have same := (State.team_still (s.notifyWaits pa old new) e.team).trans
      ((congrArg (fun x => x.1.getD e.team Team.blank) State.notifyWaits_still).trans (State.team_still s e.team).symm)
    have rings := congrArg Team.rings same
    exact rings
  unfold State.headWait
  rw [rings]

theorem State.engineWaits_notifyWaits (pa : Nat) (old new : Word) (c : BitVec 6) :
    (s.notifyWaits pa old new).engineWaits c = s.engineWaits c := by
  unfold State.engineWaits
  simp only [State.headWait_notifyWaits]
  rfl

/-- A counter without watchers has none after another one's new value. -/
theorem State.watchers_notifyWaits {c : BitVec 6} {w : Nat} (pa : Nat) (old new : Word) (unseen : s.watchers c w = []) :
    (s.notifyWaits pa old new).watchers c w = [] := by
  have names : namesCounter (s.notifyWaits pa old new) c w = namesCounter s c w :=
    namesCounter_caches rfl c w
  unfold State.watchers at unseen ⊢
  rw [State.engineWaits_notifyWaits, names]
  simp only [List.append_eq_nil_iff, List.flatMap_eq_nil_iff, List.mem_filter, List.map_eq_nil_iff,
    List.filter_eq_nil_iff, and_imp] at unseen ⊢
  obtain ⟨⟨⟨⟨parked, engines⟩, packets⟩, remote⟩, queues⟩ := unseen
  refine ⟨⟨⟨⟨fun x hx ctx => ?_, engines⟩, packets⟩, fun h' hh' => ?_⟩, queues⟩
  · obtain ⟨y, hy, rfl⟩ := List.mem_map.mp hx
    have same : y.ctx = c := by
      dsimp only at ctx
      split at ctx
      · simpa using ctx
      · exact (Team.notify_ctx y _ _ _).symm.trans (by simpa using ctx)
    have before := parked y hy (by simp [same])
    dsimp only
    split
    · exact before
    · exact Team.waitAddrs_notify before
  · obtain ⟨h, hh, rfl⟩ := List.mem_map.mp hh'
    have before := remote h hh
    split
    · exact before
    · obtain ⟨pa', req, open_⟩ := h.notify_same pa old new
      rw [pa', req]
      intro stands
      simp only [Bool.and_eq_true, Option.isNone_iff_eq_none, beq_iff_eq] at stands before
      exact before ⟨⟨stands.1.1, open_ stands.1.2⟩, stands.2⟩

/-! ### A regression that no one watches -/

theorem State.regressIn_unseen {lg : Logger} {old : State} {pa src : Nat} {c : BitVec 6} (unseen : old.watchers c pa = []) :
    s.regressIn old lg pa src c = s := by
  have none_ : (old.teams.filter (·.ctx == c)).flatMap (·.waitAddrs (.hbm pa)) ++
      (old.engineWaits c).filter (namesCounter old c pa) ++
      (if (old.ctx c).phase.live then (old.ctx c).packetWaits.filter (namesCounter old c pa) else []) ++
      ((old.remoteWaits.filter fun h => h.pa == pa && h.answer.isNone && h.req.dstCtx == c).map (·.req.addr)) ++
      (if (old.ctx c).phase.live then (old.ctx c).watches.filter fun (_, va) => namesCounter old c pa va else []).map
        (·.2) = [] := by
    have watches : (if (old.ctx c).phase.live then
        (old.ctx c).watches.filter fun (_, va) => namesCounter old c pa va else []).map (·.2) =
        if (old.ctx c).phase.live then ((old.ctx c).watches.map (·.2)).filter (namesCounter old c pa) else [] := by
      split
      · rw [List.filter_map]
        rfl
      · rfl
    rw [watches]
    exact unseen
  unfold State.regressIn
  dsimp only
  rw [none_]

theorem State.tellRegression_unseen {pa : Nat} (unseen : ∀ c, s.watchers c pa = []) : s.tellRegression pa = s := by
  have none_ : ∀ h ∈ s.remoteWaits, ¬ (h.pa = pa ∧ h.answer.isNone = true) := by
    rintro h hh ⟨here, open_⟩
    have := unseen h.req.dstCtx
    unfold State.watchers at this
    simp only [List.append_eq_nil_iff, List.map_eq_nil_iff, List.filter_eq_nil_iff] at this
    obtain ⟨⟨_, remote⟩, _⟩ := this
    exact remote h hh (by simp [here, open_])
  unfold State.tellRegression
  dsimp only
  rw [List.filterMap_eq_nil_iff.mpr fun h hh => ?_]
  · rfl
  · split
    · rw [if_neg fun at_ => none_ h hh ⟨at_.1, at_.2.1⟩]
    all_goals rfl

/-- A new value that does not fall, or whose fall no one watches, reaches waits alone. -/
theorem State.changedBy_unseen {lg : Logger} {pa src : Nat} {old new : Word}
    (unseen : new < old → ∀ c, s.watchers c pa = []) : s.changedBy lg pa old new src = s.notifyWaits pa old new := by
  unfold State.changedBy
  dsimp only
  split
  · next falls =>
    rw [State.tellRegression_unseen fun c => State.watchers_notifyWaits pa old new (unseen falls c)]
    exact List.foldl_fixed' (fun c => State.regressIn_unseen (unseen falls c)) _
  · rfl

/-! ### A write that no one sees fall -/

/-- Only parked waits and waits held for other devices have changed, and no counter has gained a watcher. -/
structure Notified (r t : State) : Prop where
  device : t = { r with teams := t.teams, remoteWaits := t.remoteWaits }
  unseen : ∀ c w, r.watchers c w = [] → t.watchers c w = []

theorem Notified.refl (r : State) : Notified r r := ⟨rfl, fun _ _ => id⟩

theorem Notified.notifyWaits (h : Notified r t) (pa : Nat) (old new : Word) : Notified r (t.notifyWaits pa old new) :=
  ⟨by rw [State.notifyWaits_device, h.device], fun c w none_ => State.watchers_notifyWaits pa old new (h.unseen c w none_)⟩

/-- The counters that one write has changed, one after another: those that fall are unseen. -/
theorem foldl_changedBy_notified {α : Type} {lg : Logger} {at_ src : α → Nat} {old new : α → Word} (l : List α)
    (unseen : ∀ x ∈ l, new x < old x → ∀ c, r.watchers c (at_ x) = []) (h : Notified r t) :
    Notified r (l.foldl (fun t x => if old x = new x then t else t.changedBy lg (at_ x) (old x) (new x) (src x)) t) := by
  induction l generalizing t with
  | nil => exact h
  | cons x l ih =>
    refine ih (fun y hy => unseen y (List.mem_cons_of_mem _ hy)) ?_
    dsimp only
    split
    · exact h
    · rw [State.changedBy_unseen fun falls c => h.unseen c _ (unseen x List.mem_cons_self falls c)]
      exact h.notifyWaits _ _ _

/-- A write at a home slice that makes no watched counter fall is the raw write, and what waits learn of it. -/
theorem State.writeBy_notified {lg : Logger} {c : BitVec 6} {pa src : Nat} {bs : List Byte} (some_ : bs ≠ [])
    (unseen : s.fallsUnseen (s.rawWrite c pa bs) pa bs.length) :
    Notified (s.rawWrite c pa bs) (s.writeBy lg c pa bs src) := by
  unfold State.writeBy
  rw [if_neg (by simpa using some_)]
  exact foldl_changedBy_notified _ unseen (.refl _)

theorem State.homeWrite_notified {c : BitVec 6} {pa src : Nat} {bs : List Byte} (some_ : bs ≠ [])
    (unseen : s.fallsUnseen (s.rawWrite c pa bs) pa bs.length) :
    Notified (s.rawWrite c pa bs) (s.homeWrite c pa bs src) := State.writeBy_notified some_ unseen

theorem Notified.mem (h : Notified r t) : t.mem = r.mem := by rw [h.device]
theorem Notified.cores (h : Notified r t) : t.cores = r.cores := by rw [h.device]
theorem Notified.slices (h : Notified r t) : t.slices = r.slices := by rw [h.device]
theorem Notified.ctxs (h : Notified r t) : t.ctxs = r.ctxs := by rw [h.device]
theorem Notified.poisoned (h : Notified r t) : t.poisoned = r.poisoned := by rw [h.device]

end Sys2Proof.Machine
end

section
/-! Counter adds (O30; R125, R127, R367, R371, R420): what one add writes, what the adds of a gang come to, and the watchdog
of an instruction that reloads WDOG. -/

namespace Sys2Proof.Machine

variable {s u v w y : State} {g : GangRef}

/-! ### An instruction that reloads WDOG -/

/-- The watchdog of an issue that reloads WDOG (R420): the issue still counts first. -/
theorem watchdog_reload_wave (s : State) (g : GangRef) (h : g.w < (s.teamOf g).waves.length) :
    ((s.watchdog g .reload).waveOf g).wdog = (s.teamOf g).kernel.wdog ∧
      ((s.watchdog g .reload).waveOf g).fusest = (s.waveOf g).fusest ∧
      ((s.watchdog g .reload).waveOf g).dog = dogHits s g := by
  unfold State.watchdog
  dsimp only
  rw [State.waveOf_modWave _ _ _ h]
  refine ⟨rfl, rfl, ?_⟩
  unfold dogHits dogRuns
  cases (g.quads.any fun q => (s.quadOf g q).inHandler)
  · by_cases last : (s.waveOf g).wdog = 1 <;> simp_all
  · simp

/-- A retired instruction that reloads WDOG and otherwise only goes on. -/
theorem retire_reload_effect (s : State) (g : GangRef) (len cost : Nat) :
    Effect s (s.retire g len cost .reload) g (s.teamOf g).kernel.wdog (s.waveOf g).fusest (dogHits s g)
      fun _ q => q.advance len := by
  have hm := outside_mapGang s g fun _ q => q.advance len
  obtain ⟨u, hu, hout, ht⟩ := account_eq (s.mapGang g fun _ q => q.advance len) g cost .reload
  have hw : u.waveOf g = (s.mapGang g fun _ q => q.advance len).waveOf g := by
    unfold State.waveOf State.wave State.team
    rw [ht]
  have hq (n : Nat) : u.quadOf g n = (s.mapGang g fun _ q => q.advance len).quadOf g n := by
    unfold State.quadOf State.quad State.wave State.team
    rw [ht]
  have hk : (u.teamOf g).kernel = (s.teamOf g).kernel :=
    .trans (by unfold State.teamOf State.team; rw [ht]) (s.teamOf_mapGang g fun _ q => q.advance len)
  have hits : dogHits u g = dogHits s g := by
    rw [dogHits_congr g ht]
    unfold dogHits
    rw [dogRuns_mapGang s g (fun _ q => q.advance len) fun _ _ => rfl, s.waveOf_mapGang]
  have hwl : (u.teamOf g).waves.length = (s.teamOf g).waves.length := by
    unfold State.teamOf State.team
    rw [ht]
    exact hm.waves
  unfold State.retire State.regang
  rw [hu]
  refine { toOutside := ((hm.trans hout).trans (outside_watchdog u g .reload)).trans (outside_regangBy _ g _),
           dog := fun h => ?_, hits := fun h => ?_, fuse := fun h => ?_, exited := fun n hx => ?_
           each := fun n hn hl hx => ?_ }
  · rw [State.waveOf_regangBy, (watchdog_reload_wave u g (hwl ▸ h)).1, hk]
  · rw [State.waveOf_regangBy, (watchdog_reload_wave u g (hwl ▸ h)).2.2, hits]
  · rw [State.waveOf_regangBy, (watchdog_reload_wave u g (hwl ▸ h)).2.1, hw, s.waveOf_mapGang]
  · rw [State.quadOf_regangBy, watchdog_quad, hq, State.quadOf_mapGang, hx]
    simp
  · rw [State.quadOf_regangBy, watchdog_quad, hq, State.quadOf_mapGang, if_pos ⟨hn, hl, hx⟩]

/-- A retired instruction that only goes on. -/
theorem retire_count_effect (s : State) (g : GangRef) (len cost : Nat) :
    Effect s (s.retire g len cost .count) g (dogNext s g) (s.waveOf g).fusest (dogHits s g) fun _ q => q.advance len := by
  have h := retire_effect s g len cost (fun _ q => q) (fun _ _ => rfl) fun _ _ => rfl
  rwa [State.mapGang_self fun _ _ => rfl] at h

/-! ### The bytes of a word -/

/-- Bytes of a number that read back as the number. -/
theorem leNat_leBytes (n v : Nat) : leNat (leBytes n v) = v % 256 ^ n := by
  induction n generalizing v with
  | zero => simp [leBytes, leNat, Nat.mod_one]
  | succ n ih =>
    rw [leBytes, leNat, ih, BitVec.toNat_ofNat, pow_succ' 256, Nat.mod_mul]

@[simp] theorem length_leBytes (n v : Nat) : (leBytes n v).length = n := by
  induction n generalizing v with
  | zero => rfl
  | succ n ih => simp [leBytes, ih]

/-- A word that has just been written is read back. -/
theorem State.word_write (c : BitVec 6) (pa : Nat) (x : Word) (wf : s.mem.wf = true) :
    (s.rawWrite c pa (leBytes 8 x.toNat)).word pa = x := by
  have read := Mem.read_write pa (leBytes 8 x.toNat) wf
  rw [length_leBytes] at read
  rw [State.word, State.rawWrite_mem, read, leNat_leBytes, Nat.mod_eq_of_lt (by simpa using x.isLt), BitVec.ofNat_toNat,
    BitVec.setWidth_eq]

/-- An aligned word is the one counter that it touches. -/
theorem wordsIn_word {pa : Nat} (aligned : pa % 8 = 0) : wordsIn pa 8 = [pa] := by
  have one : (pa + 8 + 7) / 8 - pa / 8 = 1 := by omega
  unfold wordsIn upTo
  rw [one]
  simp only [List.range_one, List.map_cons, List.map_nil, Nat.add_zero]
  rw [Nat.div_mul_cancel (Nat.dvd_of_mod_eq_zero aligned)]

/-! ### One add -/

section one
variable {rel : Bool} {n pa : Nat} {addr addend va : Word} {e : TlbEntry}
  (hbm : physKind pa = .hbm) (sound : s.isPoisoned (lineOf pa) = false)
include hbm

theorem counterAt_hbm (t : Nat) : s.counterAt t (.mem [(pa, 8, va, e)]) = some (s.word pa) := by
  simp [State.counterAt, Loc.hbm, hbm]

include sound

theorem poisonAt_hbm : s.poisonAt (.mem [(pa, 8, va, e)]) = false := by
  simp [State.poisonAt, Loc.hbm, hbm, sound]

/-- An add that would pass 2^64 - 1 is none (R127). -/
theorem addOne_overflows (past : 2 ^ 64 ≤ (s.word pa).toNat + addend.toNat) :
    addOne s g rel n addr addend (.mem [(pa, 8, va, e)]) = none := by
  rw [addOne]
  simp only [poisonAt_hbm hbm sound, counterAt_hbm hbm, past, Bool.false_eq_true, if_false, if_true]

/-- An add to a counter in HBM that is not poisoned is a write of the sum at its home slice. -/
theorem addOne_hbm (fits : (s.word pa).toNat + addend.toNat < 2 ^ 64) :
    addOne s g rel n addr addend (.mem [(pa, 8, va, e)]) =
      some ((s.homeWrite (s.ctxOf g) pa (leBytes 8 (s.word pa + addend).toNat) 1).lowAs pa e.low) := by
  rw [addOne]
  simp only [poisonAt_hbm hbm sound, counterAt_hbm hbm, Nat.not_le.mpr fits, Bool.false_eq_true, if_false, Loc.hbm, hbm,
    if_true]

omit hbm sound in
/-- The sum of an add never falls, so that its write reaches memory and waits alone. -/
theorem addWrite_notified (c : BitVec 6) (src : Nat) (aligned : pa % 8 = 0) (wf : s.mem.wf = true)
    (fits : (s.word pa).toNat + addend.toNat < 2 ^ 64) :
    Notified (s.rawWrite c pa (leBytes 8 (s.word pa + addend).toNat))
      (s.homeWrite c pa (leBytes 8 (s.word pa + addend).toNat) src) := by
  refine State.homeWrite_notified (List.ne_nil_of_length_pos (by simp)) fun x hx falls => ?_
  rw [length_leBytes, wordsIn_word aligned, List.mem_singleton] at hx
  subst hx
  rw [State.word_write c x _ wf, BitVec.lt_def, BitVec.toNat_add, Nat.mod_eq_of_lt fits] at falls
  omega

end one

/-! ### The adds of a gang -/

/-- The release steps of a form that releases can be taken at once; the other forms have none. -/
theorem maybeReleasing_now {s1 : State} {rel : Bool} (released : if rel then ReleaseNow s1 g v u else u = s1)
    (k : State → State) : s1.maybeReleasing g rel 1 k = k u := by
  unfold State.maybeReleasing
  cases rel with
  | false => exact congrArg k (Eq.symm released)
  | true => exact ReleaseNow.releasing released 1 k

section adds
variable {s1 : State} {locs : List Loc} {rel : Bool} {mode : DogMode} {reqs : List AddReq}
  (passed : checkAsks s g (reqs.map fun a => counterAsk a.quad a.addr .counterAdd) = (s1, locs, []))
  (released : if rel then ReleaseNow s1 g v u else u = s1)
  (ordered : (u.flushAll g locs).orderAll (u.ctxOf g) (orderOps (u.flushAll g locs) (u.coreOf g)
    (locs.take ((reqs.zip locs).length - (addAll (u.flushAll g locs) g rel (reqs.zip locs)).2.length))) = .ok w)
include passed released ordered

/-- The adds that all fit retire. -/
theorem counterAdds_retires (all : addAll w g rel (reqs.zip locs) = (y, [])) :
    counterAdds s g rel mode reqs = y.retire g 1 1 mode := by
  rw [counterAdds, State.checked, passed]
  simp only [maybeReleasing_now released, ordered, all]

/-- The first add that overflows traps, in its quad and the later ones. -/
theorem counterAdds_overflows {a : AddReq} {l : Loc} {rest : List (AddReq × Loc)}
    (first : addAll w g rel (reqs.zip locs) = (y, (a, l) :: rest)) :
    counterAdds s g rel mode reqs = y.trap g .counterFault a.addr
      (fun n => if a.quad = n ∨ n ∈ rest.map (·.1.quad) then 0xF else 0) 1 := by
  rw [counterAdds, State.checked, passed]
  simp only [maybeReleasing_now released, ordered, first]
  refine congrArg (fun f => y.trap g .counterFault a.addr f 1) (funext fun n => if_congr ?_ rfl rfl)
  rw [List.contains_iff_mem, List.map_cons, List.mem_cons, eq_comm]

end adds

/-! ### The ring forms -/

section ring
variable {k : SReg} {counter : Ring → Word} {r : Ring} (issues : s.issuing = some g)
include issues

theorem withRing_next (legal : k.toNat ≤ 15) (f : GangRef → State) : withRing s k f = .next (f g) := by
  rw [withRing, withGang_next issues, if_neg (Nat.not_lt.mpr legal)]

/-- A ring number above 15 is an illegal operand (R371, R372). -/
theorem withRing_illegal (illegal : 15 < k.toNat) (f : GangRef → State) :
    withRing s k f = .next (s.trap g .illegalOperand (s.leader g).pc (fun _ => 0xF) 1) := by
  rw [withRing, withGang_next issues, if_pos illegal]
  rfl

theorem ringAdd_loaded (legal : k.toNat ≤ 15) (loaded : (s.teamOf g).rings.getD k.toNat none = some r) :
    ringAdd k counter s = .next (counterAdds s g true .count
      ((s.live g).map fun n => { quad := n, addr := counter r, addend := 1 })) := by
  rw [ringAdd, withRing_next issues legal, Team.ring, loaded]

theorem ringAdd_unloaded (legal : k.toNat ≤ 15) (gone : (s.teamOf g).rings.getD k.toNat none = none) :
    ringAdd k counter s = .next (s.trap g .ringDescriptor 0 (fun _ => 0xF) 1) := by
  rw [ringAdd, withRing_next issues legal, Team.ring, gone]
  rfl

end ring

/-- Settles O30: an instruction whose adds are performed retires or traps as `addAll` leaves it; one add writes the sum of
its counter, which no counter sees fall. -/
theorem counterAddsPerform : Obligations.CounterAdds := by
  intro s s1 v u w y g locs k sa sb r issues live adds own ring
  have perform {i : Instr} {rel reload : Bool} {reqs : List AddReq}
      (does : exec i s = .next (counterAdds s g rel (if reload then .reload else .count) reqs)) : adds i rel reload reqs := by
    intro passed released items s2 fit ordered
    refine ⟨fun all => ⟨_, does, ?_⟩, fun a l rest first => ?_⟩
    · rw [counterAdds_retires passed released ordered all]
      cases reload
      · exact retire_count_effect y g 1 1
      · exact retire_reload_effect y g 1 1
    · rw [does, counterAdds_overflows passed released ordered first]
  refine ⟨perform (reload := true) (withGang_next issues _), perform (reload := true) (withGang_next issues _),
    fun legal loaded => ⟨perform (reload := false) ?_, perform (reload := false) ?_⟩, ?_, ?_⟩
  · exact ringAdd_loaded issues legal loaded
  · exact ringAdd_loaded issues legal loaded
  · rintro i (rfl | rfl)
    · exact ⟨fun illegal => withRing_illegal issues illegal _, ringAdd_unloaded issues⟩
    · exact ⟨fun illegal => withRing_illegal issues illegal _, ringAdd_unloaded issues⟩
  · intro rel n pa addr addend va e hbm sound aligned wf
    refine ⟨addOne_overflows hbm sound, fun fits => ⟨_, addOne_hbm hbm sound fits, ?_, fun x outside => ?_⟩⟩
    · have written := addWrite_notified (s.ctxOf g) 1 aligned wf fits
      exact (congrArg (fun m : Mem => BitVec.ofNat 64 (leNat (m.read pa 8))) written.mem).trans
        (State.word_write _ pa _ wf)
    · have written := addWrite_notified (s.ctxOf g) 1 aligned wf fits
      refine (congrArg (fun m : Mem => m.get x) written.mem).trans ?_
      rw [State.rawWrite_get _ _ _ _ wf, length_leBytes, if_neg (by omega)]

end Sys2Proof.Machine
end

section
/-! The team barrier (O32; R138, R369): what the target of a barrier depends on, what an arrival leaves in the quads of the
gang, and an acquire at a team alone. -/

namespace Sys2Proof.Machine

variable {s t u v : State} {g : GangRef}

/-! ### What the target of a barrier depends on -/

/-- The team counter, and for each quad whether it has exited and its generation: what the test of R138 reads. -/
def Team.arrivals (x : Team) : Word × List (List (Bool × Nat)) :=
  (x.counter, x.waves.map fun w => w.quads.map fun q => (q.exited, q.gen))

theorem Team.barTarget_eq (x : Team) (gen : Nat) : x.barTarget gen =
    x.arrivals.2.foldl (fun n l => l.foldl (fun n p => n + (if p.1 then min gen p.2 else gen)) n) 0 := by
  simp only [Team.barTarget, Team.arrivals, List.foldl_map]

theorem Team.barTarget_congr {x y : Team} (h : x.arrivals = y.arrivals) : x.barTarget = y.barTarget := by
  funext gen
  rw [x.barTarget_eq, y.barTarget_eq, h]

/-- How many quads a wave has can be read off as well. -/
theorem Team.quads_congr {x y : Team} (h : x.arrivals = y.arrivals) (w : Nat) :
    (x.wave w).quads.length = (y.wave w).quads.length := by
  have size (z : Team) : (z.wave w).quads.length = (z.arrivals.2.getD w []).length := by
    simp only [Team.wave, Team.arrivals, List.getD_eq_getElem?_getD, List.getElem?_map]
    cases z.waves[w]? <;> simp [Wave.blank]
  rw [size, size, h]

theorem Team.counter_congr {x y : Team} (h : x.arrivals = y.arrivals) : x.counter = y.counter := congrArg Prod.fst h

theorem arrivals_modWave {a b : Nat} {f : Wave → Wave}
    (hf : ∀ x : Wave, (f x).quads.map (fun q => (q.exited, q.gen)) = x.quads.map fun q => (q.exited, q.gen)) (n : Nat) :
    ((s.modWave a b f).team n).arrivals = (s.team n).arrivals := by
  rw [s.team_modWave]
  split
  · exact Prod.ext rfl (modAt_map hf _ _)
  · rfl

theorem arrivals_modQuad {a b k : Nat} {f : Quad → Quad} (hf : ∀ q, ((f q).exited, (f q).gen) = (q.exited, q.gen)) (n : Nat) :
    ((s.modQuad a b k f).team n).arrivals = (s.team n).arrivals := arrivals_modWave (fun _ => modAt_map hf _ _) n

/-- A quad but for what it waits for. -/
def Quad.waitless (q : Quad) : Quad := { q with wait := .ready }

theorem Quad.barAgain_waitless (q : Quad) (x : Team) : (q.barAgain x).waitless = q.waitless := by
  unfold Quad.barAgain
  split
  · split <;> rfl
  · rfl

theorem Quad.barAgain_arrival (q : Quad) (x : Team) : ((q.barAgain x).exited, (q.barAgain x).gen) = (q.exited, q.gen) := by
  have exited := congrArg Quad.exited (q.barAgain_waitless x)
  have gen := congrArg Quad.gen (q.barAgain_waitless x)
  exact Prod.ext exited gen

theorem arrivals_barTest (a : Nat) : ((s.barTest a).team a).arrivals = (s.team a).arrivals := by
  unfold State.barTest
  dsimp only
  rw [s.team_modTeam]
  split
  · refine Prod.ext rfl ?_
    simp only [Team.arrivals, List.map_map, Function.comp_def, Quad.barAgain_arrival]
  · rfl

theorem arrivals_account (cost : Nat) (mode : DogMode) :
    ((s.account g cost mode).teamOf g).arrivals = (s.teamOf g).arrivals := by
  obtain ⟨x, same, _, teams⟩ := account_eq s g cost mode
  rw [same]
  refine (arrivals_modWave (fun _ => by rfl) g.t).trans ?_
  unfold State.team
  rw [teams]
  rfl

theorem arrivals_regang : ((s.regang g).teamOf g).arrivals = (s.teamOf g).arrivals := by
  unfold State.regang State.regangBy
  extract_lets runs
  split
  · rfl
  · exact arrivals_modWave (fun _ => by rfl) g.t

/-! ### What a quad does at a barrier -/

/-- What a quad leaves that reaches a barrier whose target is `target` while the team counter is `count`. -/
def Quad.passesBar (q q' : Quad) (count target : Nat) : Prop :=
  (target ≤ count → q' = q.pastWait none 0) ∧
  (count < target → ∃ c : CWait, q' = { q with wait := .counter c } ∧ c.kind = .bar ∧ c.loc = .team ∧ c.target = target ∧
    c.status = none)

theorem Quad.passesBar_fields {q q' : Quad} {count target : Nat} (h : q.passesBar q' count target) :
    q'.gen = q.gen ∧ q'.s = q.s ∧ q'.lanes = q.lanes ∧ q'.em = q.em ∧
    (target ≤ count → q'.pc = q.pc + 4 ∧ q'.wait = .ready) ∧
    (count < target → q'.pc = q.pc ∧ ∃ c, q'.wait = .counter c ∧ c.kind = .bar ∧ c.loc = .team ∧ c.target = target ∧
      c.status = none) := by
  obtain ⟨passes, parks⟩ := h
  obtain reached | short := Nat.lt_or_ge count target |>.symm
  · obtain rfl := passes reached
    exact ⟨rfl, rfl, rfl, rfl, fun _ => ⟨rfl, rfl⟩, fun short => absurd reached (Nat.not_le.mpr short)⟩
  · obtain ⟨c, rfl, parked⟩ := parks short
    exact ⟨rfl, rfl, rfl, rfl, fun reached => absurd reached (Nat.not_le.mpr short), fun _ => ⟨rfl, c, rfl, parked⟩⟩

/-- What a move of a barrier keeps outside the quads that it names. -/
structure BarFrame (s t : State) (g : GangRef) : Prop where
  device : t = { s with teams := t.teams, nextId := t.nextId }
  arrivals : (t.teamOf g).arrivals = (s.teamOf g).arrivals
  kernel : (t.teamOf g).kernel = (s.teamOf g).kernel
  quads : (t.waveOf g).quads.length = (s.waveOf g).quads.length

theorem BarFrame.trans (h : BarFrame s t g) (k : BarFrame t u g) : BarFrame s u g :=
  ⟨by rw [k.device, h.device], k.arrivals.trans h.arrivals, k.kernel.trans h.kernel, k.quads.trans h.quads⟩

theorem barFrame_modQuad {n : Nat} {f : Quad → Quad} (hf : ∀ q, ((f q).exited, (f q).gen) = (q.exited, q.gen)) :
    BarFrame s (s.modQuad g.t g.w n f) g := by
  refine ⟨rfl, arrivals_modQuad hf g.t, ?_, ?_⟩
  · unfold State.teamOf State.modQuad
    rw [s.team_modWave, if_pos rfl]
    rfl
  · unfold State.waveOf
    rw [s.wave_modQuad]
    simp [Wave.modQuad]

/-- One quad at a barrier. -/
theorem barQuad_passes (s : State) (g : GangRef) (tag n : Nat) : BarFrame s (barQuad s g tag n) g ∧
    (∀ m, m ≠ n → (barQuad s g tag n).quadOf g m = s.quadOf g m) ∧
    (n < (s.waveOf g).quads.length → (s.quadOf g n).passesBar ((barQuad s g tag n).quadOf g n)
      (s.teamOf g).counter.toNat ((s.teamOf g).barTarget (s.quadOf g n).gen)) := by
  have others {f : Quad → Quad} (m : Nat) (other : m ≠ n) : (s.modQuad g.t g.w n f).quadOf g m = s.quadOf g m := by
    unfold State.quadOf
    rw [State.quad_modQuad, if_neg fun h => other h.2.2.1]
  have own {f : Quad → Quad} (here : n < (s.waveOf g).quads.length) :
      (s.modQuad g.t g.w n f).quadOf g n = f (s.quadOf g n) := by
    unfold State.quadOf
    rw [State.quad_modQuad, if_pos ⟨rfl, rfl, rfl, here⟩]
  unfold barQuad
  dsimp only
  split
  · next reached =>
    exact ⟨barFrame_modQuad fun _ => rfl, others, fun here => ⟨fun _ => own here, fun short => absurd reached (by omega)⟩⟩
  · next short =>
    exact ⟨barFrame_modQuad fun _ => rfl, others,
      fun here => ⟨fun reached => absurd reached short, fun _ => ⟨_, own here, rfl, rfl, rfl, rfl⟩⟩⟩

/-- The quads of a gang at a barrier, one after another. -/
theorem foldl_barQuad (tag : Nat) {qs : List Nat} (once : qs.Nodup) (s : State) :
    BarFrame s (qs.foldl (fun s n => barQuad s g tag n) s) g ∧
    (∀ m, m ∉ qs → (qs.foldl (fun s n => barQuad s g tag n) s).quadOf g m = s.quadOf g m) ∧
    ∀ n ∈ qs, n < (s.waveOf g).quads.length →
      (s.quadOf g n).passesBar ((qs.foldl (fun s n => barQuad s g tag n) s).quadOf g n)
        (s.teamOf g).counter.toNat ((s.teamOf g).barTarget (s.quadOf g n).gen) := by
  induction qs generalizing s with
  | nil => exact ⟨⟨rfl, rfl, rfl, rfl⟩, fun _ _ => rfl, fun _ hn => (nomatch hn)⟩
  | cons n qs ih =>
    obtain ⟨fresh, once⟩ := List.nodup_cons.mp once
    obtain ⟨frame, others, own⟩ := barQuad_passes s g tag n
    obtain ⟨frame', others', own'⟩ := ih once (barQuad s g tag n)
    simp only [List.foldl_cons]
    refine ⟨frame.trans frame', fun m hm => ?_, fun m hm here => ?_⟩
    · rw [others' m fun h => hm (List.mem_cons_of_mem _ h), others m fun h => hm (h ▸ List.mem_cons_self)]
    · obtain rfl | later := List.mem_cons.mp hm
      · rw [others' m fresh]
        exact own here
      · have other : m ≠ n := fun h => fresh (h ▸ later)
        have passes := own' m later (frame.quads ▸ here)
        rwa [others m other, Team.barTarget_congr frame.arrivals, Team.counter_congr frame.arrivals] at passes

/-! ### An acquire at the team alone -/

/-- An acquire at the team's own counter, between cores that are no bridged pair, drops copies at most. -/
theorem acquire_team_teams {team w : Nat} {qs : List Nat} {a : Word} {cap : Nat} (single : (s.team team).kernel.pair = false)
    (replies : ∀ n ∈ qs, s.acquiring team w n = []) :
    s.acquire team w qs [{ place := .team, addr := a, cap := cap }] =
      { s with cores := (s.acquire team w qs [{ place := .team, addr := a, cap := cap }]).cores } := by
  have drops : acquireTeam s team (s.wave team w).core (s.team team).ctx =
      { s with cores := (acquireTeam s team (s.wave team w).core (s.team team).ctx).cores } := by
    unfold acquireTeam
    rw [single, if_neg Bool.false_ne_true]
    split <;> rfl
  have now : s.acquire team w qs [{ place := .team, addr := a, cap := cap }] =
      acquireTeam s team (s.wave team w).core (s.team team).ctx := by
    unfold State.acquire
    refine if_pos ?_
    refine Bool.and_eq_true_iff.mpr ⟨rfl, List.all_eq_true.mpr fun n hn => ?_⟩
    change ((acquireTeam s team (s.wave team w).core (s.team team).ctx).acquiring team w n).isEmpty = true
    rw [drops]
    exact List.isEmpty_iff.mpr (replies n hn)
  rw [now]
  exact drops

/-- The same, of the memory, the team and the quads of a gang. -/
theorem acquire_team_frame {qs : List Nat} {a : Word} {cap : Nat} (single : (s.teamOf g).kernel.pair = false)
    (replies : ∀ n ∈ qs, s.acquiring g.t g.w n = []) {t : State}
    (acquired : t = s.acquire g.t g.w qs [{ place := .team, addr := a, cap := cap }]) :
    t.mem = s.mem ∧ t.teamOf g = s.teamOf g ∧ ∀ n, t.quadOf g n = s.quadOf g n := by
  rw [acquired, acquire_team_teams single replies]
  exact ⟨rfl, rfl, fun _ => rfl⟩

/-! ### The barrier -/

/-- The quads of the gang that arrive: those in which the add of an interrupted `bar` does not stand (R381). -/
def State.arriving (s : State) (g : GangRef) : Nat := ((s.live g).filter fun n => !(s.quadOf g n).inBarWait).length

/-- The team after the arrivals of a gang: the counter has risen, and every parked wait of the team is tested again. -/
def State.arrived (s : State) (g : GangRef) : State :=
  ((s.mapGang g fun _ q => q.arrive).modTeam g.t fun t =>
    { t with counter := t.counter + BitVec.ofNat 64 (s.arriving g) }).barTest g.t

theorem Quad.arrive_eq (q : Quad) : q.arrive =
    { q with gen := if q.inBarWait then q.gen else q.gen + 1, clause := q.arrive.clause } := by
  unfold Quad.arrive
  split <;> rfl

theorem quadOf_arrived (n : Nat) :
    ((s.arrived g).quadOf g n).waitless = ((s.mapGang g fun _ q => q.arrive).quadOf g n).waitless := by
  unfold State.arrived State.quadOf
  rw [State.quad_barTest, Quad.barAgain_waitless]
  refine congrArg Quad.waitless ?_
  unfold State.quad State.wave
  rw [State.team_modTeam]
  split <;> rfl

theorem counter_arrived (here : g.t < s.teams.length) :
    ((s.arrived g).teamOf g).counter = (s.teamOf g).counter + BitVec.ofNat 64 (s.arriving g) := by
  refine (Team.counter_congr (arrivals_barTest g.t)).trans ?_
  rw [State.team_modTeam, if_pos ⟨rfl, (outside_mapGang s g _).teams ▸ here⟩]
  have counter := congrArg Team.counter (outside_mapGang s g fun _ q => q.arrive).own
  exact congrArg (· + BitVec.ofNat 64 (s.arriving g)) counter

/-- What arrivals keep: memory, requests, kernels, and the size of the gang's wave. -/
theorem arrived_frame (g : GangRef) : (s.arrived g).mem = s.mem ∧ (s.arrived g).requests = s.requests ∧
    ((s.arrived g).teamOf g).kernel = (s.teamOf g).kernel ∧
    ((s.arrived g).waveOf g).quads.length = (s.waveOf g).quads.length := by
  have mapped := outside_mapGang s g fun _ q => q.arrive
  have kernel := congrArg Team.kernel mapped.own
  have size := mapped.quads
  refine ⟨rfl, rfl, ?_, ?_⟩
  · unfold State.arrived State.barTest State.teamOf
    dsimp only
    simp only [State.team_modTeam]
    split <;> split <;> exact kernel
  · refine (Team.quads_congr (arrivals_barTest g.t) g.w).trans ?_
    rw [State.team_modTeam]
    split <;> exact size

/-- The quads of the gang whose barrier is reached once it has arrived. -/
def State.passingBar (s : State) (g : GangRef) : List Nat := (s.live g).filter fun n =>
  decide (((s.arrived g).teamOf g).barTarget ((s.arrived g).quadOf g n).gen ≤ ((s.arrived g).teamOf g).counter.toNat)

/-- The state in which every quad of the gang has passed its barrier or parks at it. -/
def State.atBar (s : State) (g : GangRef) : State :=
  (s.live g).foldl (fun x n => barQuad x g (s.arrived g).nextId n) (s.arrived g).bumpId

theorem atBar_passes (g : GangRef) : BarFrame (s.arrived g) (s.atBar g) g ∧
    ∀ n ∈ s.live g, n < ((s.arrived g).waveOf g).quads.length →
      ((s.arrived g).quadOf g n).passesBar ((s.atBar g).quadOf g n) ((s.arrived g).teamOf g).counter.toNat
        (((s.arrived g).teamOf g).barTarget ((s.arrived g).quadOf g n).gen) := by
  obtain ⟨frame, -, passes⟩ := foldl_barQuad (g := g) (s.arrived g).nextId (g.quads_nodup.filter _) (s.arrived g).bumpId
    (qs := s.live g)
  exact ⟨⟨by rw [State.atBar, frame.device]; rfl, frame.arrivals, frame.kernel, frame.quads⟩, passes⟩

theorem execBar_next (issues : s.issuing = some g) (released : ReleaseNow s g v u) : exec .bar s =
    .next ((((u.atBar g).account g 1 .count).regang g).acquire g.t g.w (u.passingBar g)
      [{ place := .team, addr := 0, cap := 4 }]) :=
  (withGang_next issues _).trans (congrArg Host.Outcome.next (released.releasing 1 _))

/-- The accounts of an issue and the division of the gang after a barrier. -/
theorem barFrame_accounts (cost : Nat) (mode : DogMode) : ((s.account g cost mode).regang g).mem = s.mem ∧
    ((s.account g cost mode).regang g).requests = s.requests ∧
    (((s.account g cost mode).regang g).teamOf g).kernel = (s.teamOf g).kernel ∧
    (((s.account g cost mode).regang g).teamOf g).arrivals = (s.teamOf g).arrivals ∧
    ∀ n, ((s.account g cost mode).regang g).quadOf g n = s.quadOf g n := by
  have out := (outside_account s g cost mode).trans (outside_regangBy _ g fun _ => false)
  have mem := congrArg State.mem out.device
  have requests := congrArg State.requests out.device
  have kernel := congrArg Team.kernel out.own
  refine ⟨mem, requests, kernel, arrivals_regang.trans (arrivals_account cost mode), fun n => ?_⟩
  obtain ⟨x, same, _, teams⟩ := account_eq s g cost mode
  rw [State.regang, State.quadOf_regangBy, same, watchdog_quad]
  unfold State.quadOf State.quad State.wave State.team
  rw [teams]

/-- Settles O32: the arrivals settle the counter and every target, and neither the quads that then pass or park, nor the
accounts of the issue, nor the acquire at the team change them again. -/
theorem barrier : Obligations.Barrier := by
  intro s v u g issues released team wave single live stands placed replies
  obtain ⟨mem0, requests0, kernel0, size0⟩ := arrived_frame (s := u) g
  obtain ⟨frame, passes⟩ := atBar_passes (s := u) g
  obtain ⟨mem1, requests1, kernel1, arrivals1, quads1⟩ := barFrame_accounts (s := u.atBar g) (g := g) 1 .count
  have requests : (((u.atBar g).account g 1 .count).regang g).requests = u.requests :=
    requests1.trans ((congrArg State.requests frame.device).trans requests0)
  obtain ⟨mem, own, quad⟩ := acquire_team_frame (s := ((u.atBar g).account g 1 .count).regang g) (g := g)
    (qs := u.passingBar g) (a := 0) (cap := 4)
    ((congrArg Kernel.pair (kernel1.trans (frame.kernel.trans kernel0))).trans single)
    (fun n hn => by
      have := replies n (List.mem_of_mem_filter hn)
      unfold State.acquiring at this ⊢
      rwa [requests]) rfl
  have arrivals := arrivals1.trans frame.arrivals
  refine ⟨_, execBar_next issues released, ?_, ?_, fun n hn => ?_⟩
  · exact mem.trans (mem1.trans ((congrArg State.mem frame.device).trans mem0))
  · rw [own]
    exact (Team.counter_congr arrivals).trans (counter_arrived team)
  · simp only [own, quad, quads1, Team.barTarget_congr arrivals, Team.counter_congr arrivals]
    obtain ⟨among, alive⟩ := List.mem_filter.mp hn
    have alive : (u.quadOf g n).exited = false := by simpa using alive
    obtain ⟨gen, regs, lanes, em, goes, parks⟩ := Quad.passesBar_fields (passes n hn (size0 ▸ placed n hn))
    have arrives : ((u.arrived g).quadOf g n).waitless = (u.quadOf g n).arrive.waitless := by
      rw [quadOf_arrived, State.quadOf_mapGang, if_pos ⟨among, placed n hn, alive⟩]
    rw [Quad.arrive_eq] at arrives
    have gen0 := congrArg Quad.gen arrives
    have regs0 := congrArg Quad.s arrives
    have lanes0 := congrArg Quad.lanes arrives
    have em0 := congrArg Quad.em arrives
    have pc0 := congrArg Quad.pc arrives
    rw [gen]
    refine ⟨gen0, regs.trans regs0, lanes.trans lanes0, em.trans em0, fun reached => ?_, fun short => ?_⟩
    · obtain ⟨pc, wait⟩ := goes reached
      exact ⟨pc.trans (congrArg (· + 4) pc0), wait⟩
    · obtain ⟨pc, parked⟩ := parks short
      exact ⟨pc.trans pc0, parked⟩

end Sys2Proof.Machine
end

section
/-! SUPPORT. What the flush of a core's own lines leaves in quads (R173, R184, R354): their registers, and whether they have
exited. -/

namespace Sys2Proof.Machine

variable {s t u w : State} {g : GangRef}

/-- A quad but for its wait and its deferred faults: what a write-back can change of a quad. -/
def Quad.firm (q : Quad) : Quad := { q with wait := .ready, deferred := [] }

def Wave.firm (w : Wave) : Wave := { w with quads := w.quads.map Quad.firm }

def Team.firm (t : Team) : Team := { t with waves := t.waves.map Wave.firm }

/-- The teams but for what a write-back can change of their quads. -/
def State.firm (s : State) : List Team := s.teams.map Team.firm

theorem Quad.still_firm (q : Quad) : q.still.firm = q.firm := by
  unfold Quad.still
  split <;> rfl

theorem State.firm_of_still (h : t.still = s.still) : t.firm = s.firm := by
  have wave (x : Wave) : x.still.firm = x.firm := by
    simp only [Wave.still, Wave.firm, List.map_map, Function.comp_def, Quad.still_firm]
  have team (x : Team) : x.still.firm = x.firm := by
    simp only [Team.still, Team.firm, List.map_map, Function.comp_def, wave]
  have factors (x : State) : x.firm = x.still.1.map Team.firm := by
    simp only [State.firm, State.still, List.map_map, Function.comp_def, team]
  rw [factors, factors, h]

theorem State.log_firm {c e} : (s.log c e).firm = s.firm := State.firm_of_still State.log_still

theorem State.modQuad_firm {a b n : Nat} {f : Quad → Quad} (h : ∀ q, (f q).firm = q.firm) :
    (s.modQuad a b n f).firm = s.firm := by
  have wave (x : Wave) : (x.modQuad n f).firm = x.firm := by
    simp only [Wave.modQuad, Wave.firm, modAt_map h]
  have team (x : Team) : (x.modWave b fun y => y.modQuad n f).firm = x.firm := by
    simp only [Team.modWave, Team.firm, modAt_map wave]
  exact modAt_map team s.teams a

theorem State.deferDrain_firm {who addr} : (s.deferDrain who addr).firm = s.firm :=
  foldl_keeps (fun _ _ => State.modQuad_firm fun _ => by rfl) _ _

theorem State.logFor_firm {c who code source addr} : (s.logFor c who code source addr).firm = s.firm := by
  unfold State.logFor
  split <;> exact State.log_firm

theorem State.homeHeld_firm {h line} : (s.homeHeld h line).firm = s.firm := by
  unfold State.homeHeld
  dsimp only
  refine (foldl_keeps (fun t i => ?_) _ _).trans
    (foldl_keeps (view := State.firm) (fun _ _ => State.firm_of_still State.rawWrite_still) _ _)
  split
  · rfl
  · exact State.firm_of_still (State.changedBy_still fun _ _ _ => State.log_still)

theorem writeBack_firm {h line} : (writeBack s h line).firm = s.firm := by
  unfold writeBack
  dsimp only
  split
  · exact State.deferDrain_firm.trans State.log_firm
  · exact State.homeHeld_firm

theorem writeBackOne_firm {core h} : (writeBackOne s core h).firm = s.firm := by
  unfold writeBackOne
  split
  · exact writeBack_firm
  · rfl

theorem State.sectorWrite_firm {core c who win off va bs} : (s.sectorWrite core c who win off va bs).firm = s.firm := by
  have sent : (sendRemote s c win off (writeWho core who) va (.write bs)).1.firm = s.firm :=
    State.firm_of_still sendRemote_still
  unfold State.sectorWrite
  split
  · next h => rwa [h] at sent
  · next h =>
    rw [h] at sent
    exact State.deferDrain_firm.trans (State.logFor_firm.trans sent)

theorem State.leaveHeld_firm {core h pa} : (s.leaveHeld core h pa).firm = s.firm := by
  refine foldl_keeps (view := State.firm) (fun t x => ?_) _ _
  dsimp only
  split
  · rfl
  · exact State.sectorWrite_firm
  · rfl
  · rfl

theorem bindLine_firm {core h} : (bindLine s core h).1.firm = s.firm := by
  have found : (translate s core h.ctx (BitVec.ofNat 64 (h.line * 128)) .store).1.firm = s.firm :=
    State.firm_of_still translate_still
  unfold bindLine
  split
  · next e =>
    rw [e] at found
    split
    · exact found
    · exact State.leaveHeld_firm.trans found
  · next e => rwa [e] at found

theorem evictHeld_firm {core h} : (evictHeld s core h).firm = s.firm := by
  have bound : (bindLine s core h).1.firm = s.firm := bindLine_firm
  unfold evictHeld
  split
  · exact writeBackOne_firm
  · split
    · next e =>
      rw [e] at bound
      split
      · exact writeBackOne_firm.trans bound
      · exact bound
    · next e => rwa [e] at bound

theorem flushLine_firm {core c va} : (flushLine s core c va).firm = s.firm := by
  unfold flushLine
  dsimp only
  split
  · split
    · rfl
    · exact evictHeld_firm
  · rfl

theorem State.flushAll_firm {locs : List Loc} : (s.flushAll g locs).firm = s.firm := by
  refine foldl_keeps (fun x l => ?_) _ _
  split
  · exact flushLine_firm
  · rfl

/-! ### What equal teams but for waits agree on -/

theorem State.team_firm (s : State) (n : Nat) : (s.team n).firm = s.firm.getD n Team.blank := by
  simp only [State.team, State.firm, List.getD_eq_getElem?_getD, List.getElem?_map]
  cases s.teams[n]? <;> rfl

theorem Team.wave_firm (x : Team) (n : Nat) : (x.wave n).firm = x.firm.waves.getD n Wave.blank := by
  simp only [Team.wave, Team.firm, List.getD_eq_getElem?_getD, List.getElem?_map]
  cases x.waves[n]? <;> rfl

theorem Wave.quad_firm (x : Wave) (n : Nat) : (x.quad n).firm = x.firm.quads.getD n Quad.start.firm := by
  simp only [Wave.quad, Wave.firm, List.getD_eq_getElem?_getD, List.getElem?_map]
  cases x.quads[n]? <;> rfl

section firm
variable (h : t.firm = s.firm)
include h

theorem teamOf_of_firm : (t.teamOf g).firm = (s.teamOf g).firm := by
  unfold State.teamOf
  rw [State.team_firm, State.team_firm, h]

theorem ctxOf_of_firm : t.ctxOf g = s.ctxOf g := by
  have ctx := congrArg Team.ctx (teamOf_of_firm (g := g) h)
  exact ctx

theorem waveOf_of_firm : (t.waveOf g).firm = (s.waveOf g).firm := by
  have waves := congrArg Team.waves (teamOf_of_firm (g := g) h)
  unfold State.waveOf State.wave
  rw [Team.wave_firm, Team.wave_firm]
  exact congrArg (·.getD g.w Wave.blank) waves

theorem coreOf_of_firm : t.coreOf g = s.coreOf g := by
  have core := congrArg Wave.core (waveOf_of_firm (g := g) h)
  exact core

theorem quadOf_of_firm (n : Nat) : (t.quadOf g n).firm = (s.quadOf g n).firm := by
  have quads := congrArg Wave.quads (waveOf_of_firm (g := g) h)
  unfold State.quadOf State.quad
  rw [Wave.quad_firm, Wave.quad_firm]
  exact congrArg (·.getD n Quad.start.firm) quads

theorem rsN_of_firm (n r : Nat) : (t.quadOf g n).rsN r = (s.quadOf g n).rsN r := by
  have regs := congrArg Quad.s (quadOf_of_firm (g := g) h n)
  exact congrArg (·.getD r 0) regs

theorem live_of_firm : t.live g = s.live g := by
  unfold State.live
  refine List.filter_congr fun n _ => ?_
  have exited := congrArg Quad.exited (quadOf_of_firm (g := g) h n)
  exact congrArg (!·) exited

end firm

/-! ### Operations that a replay lets through -/

theorem orderAll_still {c : BitVec 6} {ops : List (Nat × OrderOp)} (ordered : s.orderAll c ops = .ok w) :
    w.still = s.still := by
  have held (e : State) (l : List (Nat × OrderOp)) : l.foldl (fun x (pa, o) =>
      match x with
      | .error h => .error h
      | .ok t =>
        match t.orderOne c pa o with
        | .ok t => .ok t
        | .error _ =>
          match s.orderOne c pa o with
          | .error h => .error h
          | .ok _ => .error (s.noteWait c pa o)) (Except.error e : Except State State) = .error e :=
    List.foldl_fixed' (fun _ => rfl) l
  suffices ∀ t : State, ops.foldl (fun x (pa, o) =>
      match x with
      | .error h => .error h
      | .ok t =>
        match t.orderOne c pa o with
        | .ok t => .ok t
        | .error _ =>
          match s.orderOne c pa o with
          | .error h => .error h
          | .ok _ => .error (s.noteWait c pa o)) (Except.ok t : Except State State) = .ok w → w.still = t.still from
    this s ordered
  clear ordered
  induction ops with
  | nil => exact fun t h => by cases h; rfl
  | cons op ops ih =>
    intro t h
    rw [List.foldl_cons] at h
    have one : (eitherState (t.orderOne c op.1 op.2)).still = t.still := State.orderOne_still
    dsimp only at h
    split at h
    · next x e =>
      rw [e] at one
      exact (ih _ h).trans one
    · split at h <;> rw [held] at h <;> cases h

/-- A counter operation that writes nothing changes home slices alone. -/
theorem State.useCounters_device (c : BitVec 6) (locs : List Loc) :
    s.useCounters c locs = { s with slices := (s.useCounters c locs).slices } := by
  have kept : ({ s.useCounters c locs with slices := s.slices } : State) = { s with slices := s.slices } := by
    refine foldl_keeps (view := fun x : State => { x with slices := s.slices }) (fun x l => ?_) locs s
    split
    · split
      · unfold State.lowAs State.dirtyLine
        split <;> rfl
      · rfl
    · rfl
    · rfl
  exact congrArg (fun x : State => { x with slices := (s.useCounters c locs).slices }) kept

end Sys2Proof.Machine
end

section
/-! Counter waits (O31; R128, R129, R130, R368, R372): the waits of a gang are one change of its quads, each going on or
parking by its own counter. -/

namespace Sys2Proof.Machine

variable {s t u v w x : State} {g : GangRef}

/-! ### Lists -/

theorem lookup_zip {α β : Type} [BEq α] [LawfulBEq α] (d : β) {l : List α} (once : l.Nodup) {m : List β}
    (same : m.length = l.length) : l.zip m = l.map fun n => (n, ((l.zip m).lookup n).getD d) := by
  induction l generalizing m with
  | nil => rfl
  | cons a l ih =>
    obtain _ | ⟨b, m⟩ := m
    · simp at same
    · obtain ⟨fresh, once⟩ := List.nodup_cons.mp once
      rw [List.zip_cons_cons, List.map_cons, List.lookup_cons_self, Option.getD_some]
      refine congrArg _ ((ih once (by simpa using same)).trans (List.map_congr_left fun n hn => ?_))
      rw [List.lookup_cons, beq_false_of_ne fun here : n = a => fresh (here ▸ hn)]

theorem checkAsks_length {asks : List Ask} {s1 : State} {locs : List Loc} (passed : checkAsks s g asks = (s1, locs, [])) :
    locs.length = asks.length := by
  induction asks generalizing s locs with
  | nil => cases passed; rfl
  | cons a asks ih =>
    unfold checkAsks at passed
    split at passed
    · next s' l _ =>
      split at passed
      next s2 ok bad rest =>
      cases passed
      exact congrArg (· + 1) (ih rest)
    · split at passed
      cases passed

/-! ### One quad -/

/-- The wait of a quad that parks on a counter of this device. -/
def WaitForm.parks (f : WaitForm) (tag : Nat) (a : WaitReq) (l : Loc) (spill : Bool) : CWait :=
  { kind := f.kind, loc := l.counterLoc, addr := a.ask.addr, target := a.target, timeout := a.timeout, elapsed := 0
    woken := 0, cap := l.cap, acq := f.acq, st := f.st, status := none, spilled := spill, tag := tag, request := none
    cancelled := false }

/-- What a wait leaves of a quad. -/
def WaitForm.step (f : WaitForm) (tag : Nat) (a : WaitReq) (l : Loc) (met spill : Bool) (q : Quad) : Quad :=
  if met then (q.pastWait f.st 0).noteAtomic l.acqLine else { q with wait := .counter (f.parks tag a l spill) }

/-- A counter that this device holds has a place in a scratchpad or in HBM. -/
theorem counterLoc_local {n : Nat} {l : Loc} {y : Word} (here : s.counterAt n l = some y) (a b : Nat) :
    l.counterLoc ≠ .remote a b := by
  intro away
  unfold Loc.counterLoc at away
  split at away
  · cases away
  · split at away
    · next kind => simp [State.counterAt, Loc.hbm, kind] at here
    · cases away
    · cases away
    · cases away
  · cases away

theorem passes_modQuad (n : Nat) (f : Quad → Quad) (k : WaitKind) (target : Nat) (l : Loc) :
    (x.modQuad g.t g.w n f).passes g.t k target l = x.passes g.t k target l := by
  have scratch (off : Nat) : (x.modQuad g.t g.w n f).scratchWord g.t off = x.scratchWord g.t off := by
    unfold State.scratchWord State.modQuad
    rw [State.team_modWave, if_pos rfl]
    rfl
  have at_ : (x.modQuad g.t g.w n f).counterAt g.t l = x.counterAt g.t l := by
    cases l with
    | scratch off => exact congrArg some (scratch off)
    | mem ps => rfl
  unfold State.passes State.reached
  rw [at_]

/-- One wait of a gang. -/
theorem waitAll_cons {f : WaitForm} {tag : Nat} {a : WaitReq} {l : Loc} {rest : List (WaitReq × Loc)}
    (here : ∀ a b, l.counterLoc ≠ .remote a b) : ∃ spill, waitAll x g f tag ((a, l) :: rest) =
      waitAll (x.modQuad g.t g.w a.ask.quad (f.step tag a l (x.passes g.t f.kind a.target l) spill)) g f tag rest := by
  refine ⟨x.spills (x.coreOf g) tag a.ask.addr a.target, ?_⟩
  rw [waitAll]
  refine congrArg (waitAll · g f tag rest) ?_
  split
  · next met =>
    rw [State.modQuad_modQuad, met]
    rfl
  · next unmet =>
    rw [Bool.not_eq_true] at unmet
    rw [unmet]
    unfold parkQuad
    dsimp only
    split
    · next away => exact absurd away (here _ _)
    all_goals rfl

theorem live_nodup (s : State) (g : GangRef) : (s.live g).Nodup := g.quads_nodup.filter _

theorem modQuads_cons {a b n : Nat} {qs : List Nat} {f : Nat → Quad → Quad} :
    x.modQuads a b (n :: qs) f = (x.modQuad a b n (f n)).modQuads a b qs f := by
  unfold State.modQuads State.modQuad
  rw [State.modWave_modWave]
  rfl

/-- Changing the quads of a gang that have not exited is changing the gang. -/
theorem modQuads_mapGang (f : Nat → Quad → Quad) : x.modQuads g.t g.w (x.live g) f = x.mapGang g f := by
  refine State.modWave_congr (Wave.ext_quads ?_ ?_ fun n => ?_)
  · rw [Wave.foldl_modQuad_eq g.quads fun n q => if q.exited then q else f n q]
    exact Wave.foldl_modQuad_eq (x.live g) f _
  · rw [Wave.foldl_modQuad_length, Wave.foldl_modQuad_length]
  · rw [Wave.quad_foldl_modQuad (x.live g) (g.quads_nodup.filter _), Wave.quad_foldl_modQuad _ g.quads_nodup]
    have quad : (x.wave g.t g.w).quad n = x.quadOf g n := rfl
    by_cases gone : (x.quadOf g n).exited = true
    · simp [State.live, quad, gone]
    · simp [State.live, quad, gone]

/-- The waits of the quads of a gang are one change of those quads. -/
theorem waitAll_modQuads {f : WaitForm} {tag : Nat} {req : Nat → WaitReq} {place : Nat → Loc} {met : Nat → Bool}
    {qs : List Nat} (once : qs.Nodup) (own : ∀ n, (req n).ask.quad = n)
    (here : ∀ n ∈ qs, ∀ a b, (place n).counterLoc ≠ .remote a b)
    (meets : ∀ n ∈ qs, x.passes g.t f.kind (req n).target (place n) = met n) :
    ∃ spill : Nat → Bool, waitAll x g f tag (qs.map fun n => (req n, place n)) =
      x.modQuads g.t g.w qs fun n q => f.step tag (req n) (place n) (met n) (spill n) q := by
  induction qs generalizing x with
  | nil => exact ⟨fun _ => false, (State.modWave_self rfl).symm⟩
  | cons n qs ih =>
    obtain ⟨fresh, once⟩ := List.nodup_cons.mp once
    obtain ⟨spill0, first⟩ := waitAll_cons (x := x) (g := g) (f := f) (tag := tag) (a := req n) (l := place n)
      (rest := qs.map fun n => (req n, place n)) (here n List.mem_cons_self)
    rw [meets n List.mem_cons_self, own n] at first
    obtain ⟨spill, rest⟩ := ih once (fun m hm => here m (List.mem_cons_of_mem _ hm)) (x := x.modQuad g.t g.w n
      (f.step tag (req n) (place n) (met n) spill0)) fun m hm => (passes_modQuad ..).trans (meets m (List.mem_cons_of_mem _ hm))
    refine ⟨fun m => if m = n then spill0 else spill m, ?_⟩
    rw [List.map_cons, first, rest, modQuads_cons]
    simp only [if_true]
    exact State.modQuads_congr once fun m hm => by rw [if_neg fun same : m = n => fresh (same ▸ hm)]

/-! ### A wait by every quad of a gang -/

section waits
variable {s1 : State} {locs : List Loc} {f : WaitForm} {addr : Nat → Word} {target : Nat → Nat} {timeout : Nat → BitVec 32}

/-- The wait of a quad. -/
def waitReq (addr : Nat → Word) (target : Nat → Nat) (timeout : Nat → BitVec 32) (n : Nat) : WaitReq :=
  { ask := counterAsk n (addr n) .counterGet, target := target n, timeout := timeout n }

theorem waitReq_quad (n : Nat) : (waitReq addr target timeout n).ask.quad = n := rfl

/-- The place of a quad's counter, among those of the gang. -/
def waitPlace (live : List Nat) (locs : List Loc) (n : Nat) : Loc := ((live.zip locs).lookup n).getD (.mem [])

/-- A counter of this device that a wait of the ring's freed counter need not reach is reached all the same. -/
theorem passes_eq_reached {k : WaitKind} {n : Nat} {aim : Nat} {l : Loc} {y : Word} (here : x.counterAt n l = some y) :
    x.passes n k aim l = x.reached n aim l := by
  unfold State.passes State.reached
  rw [here]
  cases aim <;> simp

/-- The quads whose counter has reached its target when the wait is evaluated. -/
def metBy (x : State) (g : GangRef) (live : List Nat) (locs : List Loc) (target : Nat → Nat) (n : Nat) : Bool :=
  x.reached g.t (target n) (waitPlace live locs n)

/-- What the quads whose wait is over at once acquire. -/
def waitAcquires (x : State) (g : GangRef) (live : List Nat) (locs : List Loc) (target : Nat → Nat) : List Acquire :=
  (live.filter (metBy x g live locs target)).filterMap fun n =>
    (waitPlace live locs n).acqLine.map fun l => { quad := n, lanes := 0xF, at_ := l }

variable (passed : checkAsks s g ((s.live g).map fun n => counterAsk n (addr n) .counterGet) = (s1, locs, []))
  (here : ∀ l ∈ locs, (s1.flushAll g locs).poisonAt l = false ∧ ∃ y, (s1.flushAll g locs).counterAt g.t l = some y)
  (scope : f.acq = true → ∀ a ∈ waitAcquires (s1.flushAll g locs) g (s.live g) locs target,
    a.fails (s1.flushAll g locs) ((s1.flushAll g locs).coreOf g) = false)
  (ordered : (s1.flushAll g locs).orderAll ((s1.flushAll g locs).ctxOf g) (orderOps (s1.flushAll g locs)
    ((s1.flushAll g locs).coreOf g) (((s.live g).filter (metBy (s1.flushAll g locs) g (s.live g) locs target)).map
      (waitPlace (s.live g) locs))) = .ok w)
  (same : ∀ n ∈ s.live g, metBy w g (s.live g) locs target n = metBy (s1.flushAll g locs) g (s.live g) locs target n)

include passed in
/-- The waits of a gang with their places. -/
theorem waitItems : ((s.live g).map (waitReq addr target timeout)).zip locs =
    (s.live g).map fun n => (waitReq addr target timeout n, waitPlace (s.live g) locs n) := by
  have same : locs.length = (s.live g).length := (checkAsks_length passed).trans (List.length_map _)
  rw [List.zip_map_left, lookup_zip (Loc.mem []) (live_nodup s g) same, List.map_map]
  rfl

include passed in
theorem waitPlace_mem {n : Nat} (hn : n ∈ s.live g) : waitPlace (s.live g) locs n ∈ locs := by
  have item : (waitReq addr (fun _ => 0) (fun _ => 0) n, waitPlace (s.live g) locs n) ∈
      ((s.live g).map (waitReq addr (fun _ => 0) fun _ => 0)).zip locs := by
    rw [waitItems passed]
    exact List.mem_map_of_mem hn
  exact (List.of_mem_zip item).2

include passed here in
/-- The waits that are satisfied at issue. -/
theorem waitItems_now : ((s.live g).map fun n => (waitReq addr target timeout n, waitPlace (s.live g) locs n)).filter
      (fun x => (s1.flushAll g locs).passes g.t f.kind x.1.target x.2) =
    ((s.live g).filter (metBy (s1.flushAll g locs) g (s.live g) locs target)).map
      fun n => (waitReq addr target timeout n, waitPlace (s.live g) locs n) := by
  rw [List.filter_map]
  refine congrArg _ (List.filter_congr fun n hn => ?_)
  obtain ⟨-, y, at_⟩ := here _ (waitPlace_mem passed hn)
  exact passes_eq_reached at_

include passed here scope ordered in
theorem counterWait_next : counterWait s g f ((s.live g).map (waitReq addr target timeout)) =
    let y := w.useCounters (w.ctxOf g) locs
    let t := ((waitAll y.bumpId g f y.nextId ((s.live g).map fun n =>
      (waitReq addr target timeout n, waitPlace (s.live g) locs n))).account g 1 .count).regang g
    if f.acq then t.acquire g.t g.w ((s.live g).filter (metBy (s1.flushAll g locs) g (s.live g) locs target))
      ((waitAcquires (s1.flushAll g locs) g (s.live g) locs target).map (·.at_)) else t := by
  have asks : ((s.live g).map (waitReq addr target timeout)).map (·.ask) =
      (s.live g).map fun n => counterAsk n (addr n) .counterGet := List.map_map
  have sound : ((s.live g).map fun n => (waitReq addr target timeout n, waitPlace (s.live g) locs n)).filter
      (fun x => (s1.flushAll g locs).poisonAt x.2) = [] := by
    refine List.filter_eq_nil_iff.mpr fun x hx => ?_
    obtain ⟨n, hn, rfl⟩ := List.mem_map.mp hx
    simp [(here _ (waitPlace_mem passed hn)).1]
  have acquires : (((s.live g).filter (metBy (s1.flushAll g locs) g (s.live g) locs target)).map
      fun n => (waitReq addr target timeout n, waitPlace (s.live g) locs n)).filterMap (fun x =>
        x.2.acqLine.map fun l => ({ quad := x.1.ask.quad, lanes := 0xF, at_ := l } : Acquire)) =
      waitAcquires (s1.flushAll g locs) g (s.live g) locs target := List.filterMap_map ..
  have pass (k : State → State) : (s1.flushAll g locs).scopeChecked g
      (if f.acq then waitAcquires (s1.flushAll g locs) g (s.live g) locs target else []) 1 k = k (s1.flushAll g locs) := by
    refine scopeChecked_pass (fun a ha => ?_) k
    split at ha
    · next acq => exact scope acq a ha
    · cases ha
  have ctx : (s1.flushAll g locs).ctxOf g = s1.ctxOf g := ctxOf_of_firm State.flushAll_firm
  have core : (s1.flushAll g locs).coreOf g = s1.coreOf g := coreOf_of_firm State.flushAll_firm
  rw [ctx, core] at ordered
  unfold counterWait State.checked
  rw [asks, passed]
  simp only [waitItems passed, sound, waitItems_now passed here, acquires, pass, List.map_map, Function.comp_def,
    waitReq_quad, List.map_id', ordered]

/-- Whether a place is one of this device's counters does not depend on the state. -/
theorem counterAt_somewhere {n : Nat} {l : Loc} {y : Word} (at_ : x.counterAt n l = some y) (z : State) :
    ∃ y, z.counterAt n l = some y := by
  cases l with
  | scratch off => exact ⟨_, rfl⟩
  | mem ps =>
    obtain ⟨p, hbm, -⟩ := Option.map_eq_some_iff.mp at_
    exact ⟨z.word p.1, Option.map_eq_some_iff.mpr ⟨p, hbm, rfl⟩⟩

theorem Quad.pastWait_inHandler (q : Quad) (st : Option (BitVec 6)) (status : Word) :
    (q.pastWait st status).inHandler = q.inHandler := by cases st <;> rfl

theorem Quad.noteAtomic_inHandler (q : Quad) (a : Option AcqLine) : (q.noteAtomic a).inHandler = q.inHandler := by
  unfold Quad.noteAtomic
  split
  · split <;> rfl
  · rfl

theorem WaitForm.step_inHandler (f : WaitForm) (tag : Nat) (a : WaitReq) (l : Loc) (met spill : Bool) (q : Quad) :
    (f.step tag a l met spill q).inHandler = q.inHandler := by
  cases met
  · rfl
  · exact (Quad.noteAtomic_inHandler _ _).trans (q.pastWait_inHandler f.st 0)

include passed ordered in
/-- Up to the waits, a gang's quads keep their registers, and those that have exited. -/
theorem firm_useCounters : (w.useCounters (w.ctxOf g) locs).firm = s.firm := by
  have teams : (w.useCounters (w.ctxOf g) locs).firm = w.firm := by
    rw [State.useCounters_device]
    rfl
  have checks : s1.firm = s.firm := by
    have still := checkAsks_still (s := s) (g := g) (asks := (s.live g).map fun n => counterAsk n (addr n) .counterGet)
    rw [passed] at still
    exact State.firm_of_still still
  exact teams.trans ((State.firm_of_still (orderAll_still ordered)).trans (State.flushAll_firm.trans checks))

include passed here scope ordered same in
/-- A wait whose counters are of this device and that no replay holds (R128): the quads go on or park, and the gang
acquires. -/
theorem counterWait_effect : ∃ (t : State) (spill : Nat → Bool),
    counterWait s g f ((s.live g).map (waitReq addr target timeout)) =
      (if f.acq then t.acquire g.t g.w ((s.live g).filter (metBy (s1.flushAll g locs) g (s.live g) locs target))
        ((waitAcquires (s1.flushAll g locs) g (s.live g) locs target).map (·.at_)) else t) ∧
    let v := w.useCounters (w.ctxOf g) locs
    Effect v.bumpId t g (dogNext v g) (v.waveOf g).fusest (dogHits v g) fun n q =>
      f.step v.nextId (waitReq addr target timeout n) (waitPlace (s.live g) locs n)
        (metBy (s1.flushAll g locs) g (s.live g) locs target n) (spill n) q := by
  have live : (w.useCounters (w.ctxOf g) locs).bumpId.live g = s.live g := live_of_firm (firm_useCounters passed ordered)
  have reached (n : Nat) : metBy (w.useCounters (w.ctxOf g) locs).bumpId g (s.live g) locs target n =
      metBy w g (s.live g) locs target n := by
    rw [State.useCounters_device]
    rfl
  obtain ⟨spill, waits⟩ := waitAll_modQuads (x := (w.useCounters (w.ctxOf g) locs).bumpId) (g := g) (f := f)
    (tag := (w.useCounters (w.ctxOf g) locs).nextId) (req := waitReq addr target timeout) (qs := s.live g)
    (place := waitPlace (s.live g) locs) (met := metBy (s1.flushAll g locs) g (s.live g) locs target) (live_nodup s g)
    (fun _ => rfl)
    (fun n hn => by
      obtain ⟨-, y, at_⟩ := here _ (waitPlace_mem passed hn)
      exact counterLoc_local at_)
    fun n hn => by
      obtain ⟨-, y, at_⟩ := here _ (waitPlace_mem passed hn)
      obtain ⟨z, at_⟩ := counterAt_somewhere at_ (w.useCounters (w.ctxOf g) locs).bumpId
      exact (passes_eq_reached at_).trans ((reached n).trans (same n hn))
  refine ⟨_, spill, counterWait_next passed here scope ordered, ?_⟩
  have mapped := waits.trans ((congrArg (State.modQuads _ g.t g.w · _) live.symm).trans (modQuads_mapGang _))
  dsimp only
  rw [mapped]
  exact issue_effect _ g 1 _ fun n q => f.step_inHandler ..

end waits

/-! ### The forms of a wait -/

/-- The timeout of a quad's wait (R368). -/
def timeoutOf (s : State) (g : GangRef) (sb : SReg) (n : Nat) : BitVec 32 :=
  ((s.quadOf g n).rsN (sb.toNat + 1)).extractLsb' 0 32

section ring
variable {k sb : SReg} {full : Bool} {st : Option (BitVec 6)} {r : Ring} (issues : s.issuing = some g)
include issues

theorem ringWait_loaded (legal : k.toNat ≤ 15) (loaded : (s.teamOf g).rings.getD k.toNat none = some r) :
    ringWait k sb full st s = .next (counterWait s g { kind := if full then .kwaitFull else .kwaitFree, acq := true, st := st }
      ((s.live g).map (waitReq (fun _ => if full then r.filled else r.freed)
        (fun n => r.target full ((s.quadOf g n).rs sb)) (timeoutOf s g sb)))) := by
  rw [ringWait, withRing_next issues legal, Team.ring, loaded]
  rfl

theorem ringWait_unloaded (legal : k.toNat ≤ 15) (gone : (s.teamOf g).rings.getD k.toNat none = none) :
    ringWait k sb full st s = .next (s.trap g .ringDescriptor 0 (fun _ => 0xF) 1) := by
  rw [ringWait, withRing_next issues legal, Team.ring, gone]
  rfl

end ring

/-- Settles O31: every form is a wait by each quad of the gang (`counterWait_effect`), whose registers the flush of the
counters' lines has left as they were. -/
theorem counterWaitsPark : Obligations.CounterWaits := by
  intro s s1 w g locs k sd sa sb acq r issues live waits value
  have perform {i : Instr} {kind : WaitKind} {acq : Bool} {st : Option SReg} {addr : Nat → Word} {target : Nat → Nat}
      (does : exec i s = .next (counterWait s g { kind := kind, acq := acq, st := st }
        ((s.live g).map (waitReq addr target (timeoutOf s g sb))))) : waits i kind acq st addr target := by
    intro passed u here place met acquires scope ordered same v
    obtain ⟨t, spill, next, effect⟩ := counterWait_effect (f := { kind := kind, acq := acq, st := st })
      (timeout := timeoutOf s g sb) passed here scope ordered same
    refine ⟨t, spill, does.trans (congrArg _ next), effect.congr fun n _ => ?_⟩
    have timeout : (v.bumpId.quadOf g n).rsN (sb.toNat + 1) = (s.quadOf g n).rsN (sb.toNat + 1) :=
      rsN_of_firm (firm_useCounters passed ordered) n _
    rw [timeout]
    rfl
  refine ⟨perform (withGang_next issues _), perform (withGang_next issues _), fun legal loaded =>
    ⟨perform (ringWait_loaded issues legal loaded), perform (ringWait_loaded issues legal loaded),
      perform (ringWait_loaded issues legal loaded), perform (ringWait_loaded issues legal loaded)⟩, ?_⟩
  rintro i (rfl | rfl | rfl | rfl) <;>
    exact ⟨fun illegal => withRing_illegal issues illegal _, ringWait_unloaded issues⟩

end Sys2Proof.Machine
end

section
/-! SUPPORT. The lines of an L1 (R177, R184): what a core holds of a line after it drops it or stores into it, and what it
then sees of memory. -/

namespace Sys2Proof.Machine

variable {s t u : State} {core : Nat} {c : BitVec 6}

/-! ### Held lines and clean copies -/

theorem find?_filter_not {α : Type} (l : List α) {p q : α → Bool} (apart : ∀ x ∈ l, q x = true → p x = false) :
    (l.filter fun x => !p x).find? q = l.find? q := by
  rw [List.find?_filter]
  refine List.find?_congr fun x hx => ?_
  cases hq : q x
  · simp
  · simp [apart x hx hq]

theorem CoreSt.heldLine_dropHeld_self (k : CoreSt) (c : BitVec 6) (l : Nat) : (k.dropHeld c l).heldLine c l = none := by
  unfold CoreSt.heldLine CoreSt.dropHeld
  refine List.find?_eq_none.mpr fun x hx same => ?_
  have kept := (List.mem_filter.mp hx).2
  rw [same] at kept
  cases kept

theorem CoreSt.heldLine_dropHeld_other (k : CoreSt) {c d : BitVec 6} {l m : Nat} (other : ¬ (d = c ∧ m = l)) :
    (k.dropHeld c l).heldLine d m = k.heldLine d m :=
  find?_filter_not k.held fun x _ hx => by
    simp only [Bool.and_eq_true, beq_iff_eq] at hx
    obtain ⟨rfl, rfl⟩ := hx
    simpa using other

theorem CoreSt.cleanLine_dropClean_self (k : CoreSt) (c : BitVec 6) (l : Nat) : (k.dropClean c l).cleanLine c l = none := by
  unfold CoreSt.cleanLine CoreSt.dropClean
  refine List.find?_eq_none.mpr fun x hx same => ?_
  have kept := (List.mem_filter.mp hx).2
  rw [same] at kept
  cases kept

theorem CoreSt.cleanLine_dropClean_other (k : CoreSt) {c d : BitVec 6} {l m : Nat} (other : ¬ (d = c ∧ m = l)) :
    (k.dropClean c l).cleanLine d m = k.cleanLine d m :=
  find?_filter_not k.clean fun x _ hx => by
    simp only [Bool.and_eq_true, beq_iff_eq] at hx
    obtain ⟨rfl, rfl⟩ := hx
    simpa using other

/-- The held line of a line is of that line. -/
theorem CoreSt.of_heldLine {k : CoreSt} {l : Nat} {h : HeldLine} (found : k.heldLine c l = some h) :
    h ∈ k.held ∧ h.ctx = c ∧ h.line = l := by
  have here := List.find?_some found
  simp only [Bool.and_eq_true, beq_iff_eq] at here
  exact ⟨List.mem_of_find?_eq_some found, here⟩

/-- A change of a core that leaves a core at reset alone takes place in the core of any number. -/
theorem State.core_modCore_self {f : CoreSt → CoreSt} (reset : f CoreSt.reset = CoreSt.reset) :
    (s.modCore core f).core core = f (s.core core) := by
  rw [State.core_modCore]
  by_cases here : core < 288
  · rw [if_pos ⟨rfl, here⟩]
  · rw [if_neg fun h => here h.2, State.core, dif_neg here, reset]

theorem State.core_modCore_other {f : CoreSt → CoreSt} {k : Nat} (other : k ≠ core) : (s.modCore core f).core k = s.core k := by
  rw [State.core_modCore, if_neg fun h => other h.1]

/-! ### A held line that is stored into -/

/-- A line of which the core holds nothing. -/
def HeldLine.fresh (c : BitVec 6) (line : Nat) : HeldLine :=
  { ctx := c, line := line, mask := 0, data := Vector.replicate 128 0, sources := Vector.replicate 16 0, bound := none
    pinned := false, low := false, writers := [] }

/-- A held line with bytes stored at an offset. -/
def HeldLine.stored (h : HeldLine) (o : Nat) (bs : List Byte) (who : List (Nat × Nat × Nat)) (src : Nat) : HeldLine :=
  { h with
    mask := (upTo bs.length).foldl (fun m i => m ||| (1#128 <<< (o + i))) h.mask
    data := (upTo bs.length).foldl (fun d i => d.setIfInBounds (o + i) (bs.getD i 0)) h.data
    sources := (upTo bs.length).foldl (fun d i => d.setIfInBounds ((o + i) / 8) (BitVec.ofNat 4 src)) h.sources
    writers := who.foldl (fun l w => if l.contains w then l else w :: l) h.writers }

theorem getLsbD_foldl_mask (m : BitVec 128) (o n j : Nat) (hj : j < 128) :
    ((upTo n).foldl (fun m i => m ||| (1#128 <<< (o + i))) m).getLsbD j =
      (m.getLsbD j || (decide (o ≤ j) && decide (j < o + n))) := by
  induction n with
  | zero =>
    have none_ : (decide (o ≤ j) && decide (j < o + 0)) = false := by
      rw [Bool.and_eq_false_iff, decide_eq_false_iff_not, decide_eq_false_iff_not]
      omega
    rw [none_, Bool.or_false]
    rfl
  | succ n ih =>
    unfold upTo at ih ⊢
    rw [List.range_succ, List.foldl_append, List.foldl_cons, List.foldl_nil, BitVec.getLsbD_or, ih, Bool.or_assoc]
    congr 1
    rw [BitVec.getLsbD_shiftLeft]
    have one : (1#128).getLsbD (j - (o + n)) = decide (j - (o + n) = 0) := by
      rw [BitVec.getLsbD_one]
      simp
    rw [one, Bool.eq_iff_iff]
    simp only [Bool.or_eq_true, Bool.and_eq_true, decide_eq_true_eq, Bool.not_eq_true', decide_eq_false_iff_not]
    omega

theorem getD_foldl_data (d : Vector Byte 128) (o n j : Nat) (x : Nat → Byte) (hj : j < 128) :
    ((upTo n).foldl (fun d i => d.setIfInBounds (o + i) (x i)) d).getD j 0 =
      if o ≤ j ∧ j < o + n then x (j - o) else d.getD j 0 := by
  induction n with
  | zero =>
    rw [if_neg (by omega)]
    rfl
  | succ n ih =>
    unfold upTo at ih ⊢
    rw [List.range_succ, List.foldl_append, List.foldl_cons, List.foldl_nil]
    have set (v : Vector Byte 128) : (v.setIfInBounds (o + n) (x n)).getD j 0 = if o + n = j then x n else v.getD j 0 := by
      simp only [Vector.getD, Vector.toArray_setIfInBounds, Array.getD_eq_getD_getElem?, Array.getElem?_setIfInBounds,
        Vector.size_toArray]
      split
      · rw [if_pos (by omega)]
        rfl
      · rfl
    rw [set, ih]
    by_cases last : o + n = j
    · rw [if_pos last, if_pos (by omega), show j - o = n by omega]
    · rw [if_neg last]
      exact if_congr (by omega) rfl rfl

/-- The stored bytes join what the core holds of the line, in place of its clean copy. -/
def State.holdLine (s : State) (core : Nat) (c : BitVec 6) (va : Word) (bs : List Byte) (who : List (Nat × Nat × Nat))
    (src : Nat) : State :=
  s.modCore core fun k =>
    { (k.dropClean c (va.toNat / 128)).dropHeld c (va.toNat / 128) with
      held := (((s.core core).heldLine c (va.toNat / 128)).getD (.fresh c (va.toNat / 128))).stored (va.toNat % 128) bs who
        src :: (k.dropHeld c (va.toNat / 128)).held }

section hold
variable {va : Word} {bs : List Byte} {who : List (Nat × Nat × Nat)} {src : Nat} {h : HeldLine}

/-- A store into a line that the core holds first writes it back, if it is bound. -/
theorem holdBytes_some (found : (s.core core).heldLine c (va.toNat / 128) = some h) :
    holdBytes s core c va bs who src = (writeBackOne s core h).holdLine core c va bs who src := by
  change State.holdLine (match (s.core core).heldLine c (va.toNat / 128) with
    | some h => writeBackOne s core h
    | none => s) core c va bs who src = _
  rw [found]

theorem holdBytes_none (found : (s.core core).heldLine c (va.toNat / 128) = none) :
    holdBytes s core c va bs who src = s.holdLine core c va bs who src := by
  change State.holdLine (match (s.core core).heldLine c (va.toNat / 128) with
    | some h => writeBackOne s core h
    | none => s) core c va bs who src = _
  rw [found]

/-- A store into a line that is not bound is a change of the core alone. -/
theorem holdBytes_unbound (unbound : ∀ h, (s.core core).heldLine c (va.toNat / 128) = some h → h.bound = none) :
    holdBytes s core c va bs who src = s.holdLine core c va bs who src := by
  cases found : (s.core core).heldLine c (va.toNat / 128) with
  | none => exact holdBytes_none found
  | some h => rw [holdBytes_some found, writeBackOne, unbound h found]

end hold

/-! ### What the core sees -/

theorem viewByte_congr {a : Word} {p : Nat} (held : (t.core core).heldLine c (a.toNat / 128) =
    (s.core core).heldLine c (a.toNat / 128)) (clean : (t.core core).cleanLine c (a.toNat / 128) =
    (s.core core).cleanLine c (a.toNat / 128)) (mem : t.mem.get p = s.mem.get p) :
    viewByte t core c a p = viewByte s core c a p := by
  simp only [viewByte, held, clean, mem]

section view
variable {va : Word} {bs : List Byte} {who : List (Nat × Nat × Nat)} {src : Nat} (here : core < 288)
include here

theorem core_holdLine : (s.holdLine core c va bs who src).core core =
    { ((s.core core).dropClean c (va.toNat / 128)).dropHeld c (va.toNat / 128) with
      held := (((s.core core).heldLine c (va.toNat / 128)).getD (.fresh c (va.toNat / 128))).stored (va.toNat % 128) bs who
        src :: ((s.core core).dropHeld c (va.toNat / 128)).held } := by
  unfold State.holdLine
  rw [State.core_modCore, if_pos ⟨rfl, here⟩]

omit here in
theorem heldLine_getD_line (k : CoreSt) (l : Nat) :
    ((k.heldLine c l).getD (.fresh c l)).ctx = c ∧ ((k.heldLine c l).getD (.fresh c l)).line = l := by
  cases found : k.heldLine c l with
  | none => exact ⟨rfl, rfl⟩
  | some h => exact (CoreSt.of_heldLine found).2

/-- The core sees the stored bytes. -/
theorem viewByte_holdLine (fits : va.toNat % 128 + bs.length ≤ 128) {x : Word} (from_ : va.toNat ≤ x.toNat)
    (upto : x.toNat < va.toNat + bs.length) (p : Nat) :
    viewByte (s.holdLine core c va bs who src) core c x p = bs.getD (x.toNat - va.toNat) 0 := by
  have line : x.toNat / 128 = va.toNat / 128 := by omega
  obtain ⟨ctx, at_⟩ := heldLine_getD_line (c := c) (s.core core) (va.toNat / 128)
  have held : ((s.holdLine core c va bs who src).core core).heldLine c (x.toNat / 128) =
      some ((((s.core core).heldLine c (va.toNat / 128)).getD (.fresh c (va.toNat / 128))).stored (va.toNat % 128) bs who
        src) := by
    rw [core_holdLine here, line]
    refine List.find?_cons_of_pos ?_
    exact Bool.and_eq_true_iff.mpr ⟨beq_iff_eq.mpr ctx, beq_iff_eq.mpr at_⟩
  unfold viewByte
  dsimp only
  rw [held]
  dsimp only
  unfold HeldLine.stored
  dsimp only
  rw [getLsbD_foldl_mask _ _ _ _ (by omega), getD_foldl_data _ _ _ _ (fun i => bs.getD i 0) (by omega),
    decide_eq_true (by omega : va.toNat % 128 ≤ x.toNat % 128),
    decide_eq_true (by omega : x.toNat % 128 < va.toNat % 128 + bs.length), Bool.and_true, Bool.or_true, if_pos rfl,
    if_pos (by omega), show x.toNat % 128 - va.toNat % 128 = x.toNat - va.toNat by omega]

/-- Of other lines, and of the lines of other contexts, the core sees what it saw. -/
theorem viewByte_holdLine_other {d : BitVec 6} {x : Word} (other : ¬ (d = c ∧ x.toNat / 128 = va.toNat / 128)) (p : Nat) :
    viewByte (s.holdLine core c va bs who src) core d x p = viewByte s core d x p := by
  obtain ⟨ctx, at_⟩ := heldLine_getD_line (c := c) (s.core core) (va.toNat / 128)
  refine viewByte_congr ?_ ?_ rfl
  · rw [core_holdLine here]
    refine (List.find?_cons_of_neg fun same => other ?_).trans (CoreSt.heldLine_dropHeld_other _ other)
    have same := Bool.and_eq_true_iff.mp same
    exact ⟨(beq_iff_eq.mp same.1).symm.trans ctx, (beq_iff_eq.mp same.2).symm.trans at_⟩
  · rw [core_holdLine here]
    exact CoreSt.cleanLine_dropClean_other _ other

end view

/-! ### The lines of a range -/

theorem lineParts_nil (fuel pa : Nat) : lineParts fuel pa [] = [] := by cases fuel <;> rfl

theorem lineParts_cons (fuel pa : Nat) {bs : List Byte} (some_ : bs ≠ []) : lineParts (fuel + 1) pa bs =
    (pa, bs.take (128 - pa % 128)) :: lineParts fuel (pa + (128 - pa % 128)) (bs.drop (128 - pa % 128)) := by
  cases bs with
  | nil => exact absurd rfl some_
  | cons b bs => rfl

/-- A range within one line is one part. -/
theorem lineParts_one (fuel : Nat) {pa : Nat} {bs : List Byte} (some_ : bs ≠ []) (fits : pa % 128 + bs.length ≤ 128) :
    lineParts (fuel + 1) pa bs = [(pa, bs)] := by
  rw [lineParts_cons fuel pa some_, List.take_of_length_le (by omega), List.drop_of_length_le (by omega), lineParts_nil]

/-- What a store into an L1 leaves: the core sees the bytes, and nothing else has changed. -/
structure HeldStore (s t : State) (core : Nat) (c : BitVec 6) (a : Nat) (bs : List Byte) : Prop where
  device : t = { s with cores := t.cores }
  other : ∀ k, k ≠ core → t.core k = s.core k
  stored : ∀ (x : Word) p, a ≤ x.toNat → x.toNat < a + bs.length → viewByte t core c x p = bs.getD (x.toNat - a) 0
  line : ∀ (x : Word) p, (∀ i < bs.length, x.toNat / 128 ≠ (a + i) / 128) → viewByte t core c x p = viewByte s core c x p
  ctx : ∀ d (x : Word) p, d ≠ c → viewByte t core d x p = viewByte s core d x p

theorem HeldStore.nil (s : State) (core : Nat) (c : BitVec 6) (a : Nat) : HeldStore s s core c a [] :=
  ⟨rfl, fun _ _ => rfl, fun _ _ from_ upto => absurd upto (Nat.not_lt.mpr from_), fun _ _ _ => rfl, fun _ _ _ _ => rfl⟩

/-- Two stores that meet at the edge of a line. -/
theorem HeldStore.append {a n : Nat} {bs : List Byte} (first : HeldStore s t core c a (bs.take n))
    (rest : HeldStore t u core c (a + n) (bs.drop n)) (edge : (a + n) % 128 = 0) : HeldStore s u core c a bs := by
  have taken : (bs.take n).length = min n bs.length := List.length_take
  have dropped : (bs.drop n).length = bs.length - n := List.length_drop
  refine ⟨by rw [rest.device, first.device], fun k hk => (rest.other k hk).trans (first.other k hk),
    fun x p from_ upto => ?_, fun x p apart => ?_, fun d x p hd => (rest.ctx d x p hd).trans (first.ctx d x p hd)⟩
  · by_cases early : x.toNat < a + n
    · rw [rest.line x p fun i _ => by omega, first.stored x p from_ (by omega), List.getD_eq_getElem?_getD,
        List.getElem?_take_of_lt (by omega), ← List.getD_eq_getElem?_getD]
    · rw [rest.stored x p (by omega) (by omega), List.getD_eq_getElem?_getD, List.getElem?_drop,
        ← List.getD_eq_getElem?_getD, show n + (x.toNat - (a + n)) = x.toNat - a by omega]
  · rw [rest.line x p fun i hi => by rw [show a + n + i = a + (n + i) by omega]; exact apart _ (by omega),
      first.line x p fun i hi => apart i (by omega)]

section one
variable {va : Word} {bs : List Byte} {who : List (Nat × Nat × Nat)} {src : Nat} (here : core < 288)
include here

theorem HeldStore.one (some_ : bs ≠ []) (fits : va.toNat % 128 + bs.length ≤ 128) :
    HeldStore s (s.holdLine core c va bs who src) core c va.toNat bs :=
  ⟨rfl, fun _ hk => State.core_modCore_other hk, fun _ p from_ upto => viewByte_holdLine here fits from_ upto p,
    fun _ p apart => viewByte_holdLine_other here (fun h => apart 0 (List.length_pos_iff.mpr some_) h.2) p,
    fun _ _ p hd => viewByte_holdLine_other here (fun h => hd h.1) p⟩

theorem mem_held_holdLine {h : HeldLine} (mem : h ∈ ((s.holdLine core c va bs who src).core core).held) :
    h.line = va.toNat / 128 ∨ h ∈ (s.core core).held := by
  rw [core_holdLine here] at mem
  obtain rfl | old := List.mem_cons.mp mem
  · exact .inl (heldLine_getD_line (s.core core) _).2
  · exact .inr (List.mem_of_mem_filter old)

end one

/-- A store into the lines of a range, one after another, none of which is bound. -/
theorem foldl_holdBytes (here : core < 288) {who : List (Nat × Nat × Nat)} {src : Nat} {fuel a : Nat} {bs : List Byte}
    (enough : a % 128 + bs.length ≤ 128 * fuel) (fits : a + bs.length ≤ 2 ^ 64)
    (free : ∀ h ∈ (s.core core).held, h.ctx = c → a / 128 ≤ h.line → h.line * 128 < a + bs.length → h.bound = none) :
    HeldStore s ((lineParts fuel a bs).foldl (fun s x => holdBytes s core c (BitVec.ofNat 64 x.1) x.2 who src) s)
      core c a bs := by
  induction fuel generalizing s a bs with
  | zero =>
    obtain rfl : bs = [] := List.eq_nil_of_length_eq_zero (by omega)
    exact .nil s core c a
  | succ fuel ih =>
    by_cases some_ : bs = []
    · subst some_
      rw [lineParts_nil]
      exact .nil s core c a
    · have size : 0 < bs.length := List.length_pos_iff.mpr some_
      have addr : (BitVec.ofNat 64 a).toNat = a := by
        rw [BitVec.toNat_ofNat, Nat.mod_eq_of_lt (by omega)]
      have taken : (bs.take (128 - a % 128)).length = min (128 - a % 128) bs.length := List.length_take
      have dropped : (bs.drop (128 - a % 128)).length = bs.length - (128 - a % 128) := List.length_drop
      have first : holdBytes s core c (BitVec.ofNat 64 a) (bs.take (128 - a % 128)) who src =
          s.holdLine core c (BitVec.ofNat 64 a) (bs.take (128 - a % 128)) who src := by
        refine holdBytes_unbound fun h found => ?_
        obtain ⟨mem, ctx, line⟩ := CoreSt.of_heldLine found
        rw [addr] at line
        exact free h mem ctx (by omega) (by omega)
      rw [lineParts_cons fuel a some_, List.foldl_cons, first]
      have one := HeldStore.one (s := s) (c := c) (va := BitVec.ofNat 64 a) (bs := bs.take (128 - a % 128)) (who := who)
        (src := src) here (List.ne_nil_of_length_pos (by omega)) (by rw [addr]; omega)
      rw [addr] at one
      refine one.append (ih (by omega) (by omega) fun h mem ctx above below => ?_) (by omega)
      obtain at_ | old := mem_held_holdLine here mem
      · rw [addr] at at_
        omega
      · exact free h old ctx (by omega) (by omega)

end Sys2Proof.Machine
end

section
/-! SUPPORT. A store into a scratchpad (R123, R128, R136, R350): its bytes, the counters among them, and who watches them. -/

namespace Sys2Proof.Machine

variable {s t u : State} {team : Nat}

/-! ### The scratchpad itself -/

theorem State.log_scratch (c : BitVec 6) (e : LogEntry) (i : Nat) : ((s.log c e).team i).scratch = (s.team i).scratch := by
  have logged := congrArg Team.scratch
    (teamOf_of_still (g := { t := i, w := 0, base := 0, lg := 0 }) (State.log_still (s := s) (c := c) (e := e)))
  exact logged

/-- The changes of counters leave every scratchpad. -/
theorem State.scratchChanged_scratch (off src i : Nat) (old new : Word) :
    ((s.scratchChanged team off old new src).team i).scratch = (s.team i).scratch := by
  have notified : ((s.modTeam team (·.notify (.scratch off) old new)).team i).scratch = (s.team i).scratch := by
    rw [State.team_modTeam]
    split
    · exact Team.notify_scratch _ _ _ _
    · rfl
  unfold State.scratchChanged
  dsimp only
  split
  · exact (State.log_scratch _ _ i).trans notified
  · exact notified

theorem State.scratchWrite_scratch (off src : Nat) (bs : List Byte) (i : Nat) :
    ((s.scratchWrite team off bs src).team i).scratch =
      ((s.modTeam team fun x => { x with scratch := x.scratch.write off bs }).team i).scratch := by
  refine foldl_keeps (view := fun x : State => (x.team i).scratch) (fun x a => ?_) _ _
  dsimp only
  split
  · rfl
  · exact State.scratchChanged_scratch ..

/-! ### Who watches a word of it -/

/-- What watches a word of a team's scratchpad (R123, R136, R142). -/
def State.scratchWaits (s : State) (team w : Nat) : List Word :=
  (s.team team).waitAddrs (.scratch w) ++ s.engineScratchWaits team (scratchAddr w)

/-- What a team keeps through a change of its waits and the bytes of its scratchpad. -/
def Team.labels (x : Team) : BitVec 6 × BitVec 32 × Nat × Kernel × Vector (Option Ring) 16 :=
  (x.ctx, x.gridid, x.core, x.kernel, x.rings)

/-- Teams have changed in their waits and the bytes of scratchpads alone, and no word of `team`'s has gained a watcher. -/
structure ScratchFrame (s t : State) (team : Nat) : Prop where
  device : t = { s with teams := t.teams }
  other : ∀ i, i ≠ team → t.team i = s.team i
  own : (t.team team).labels = (s.team team).labels
  unseen : ∀ w, (s.team team).waitAddrs (.scratch w) = [] → (t.team team).waitAddrs (.scratch w) = []

theorem ScratchFrame.trans (h : ScratchFrame s t team) (k : ScratchFrame t u team) : ScratchFrame s u team :=
  ⟨by rw [k.device, h.device], fun i hi => (k.other i hi).trans (h.other i hi),
    k.own.trans h.own, fun w none_ => k.unseen w (h.unseen w none_)⟩

theorem ScratchFrame.labels (h : ScratchFrame s t team) : (t.team team).ctx = (s.team team).ctx ∧
    (t.team team).gridid = (s.team team).gridid ∧ (t.team team).core = (s.team team).core ∧
    (t.team team).kernel = (s.team team).kernel ∧ (t.team team).rings = (s.team team).rings := by
  simpa only [Team.labels, Prod.mk.injEq] using h.own

theorem scratchFrame_modTeam {f : Team → Team} (own : ∀ x, (f x).labels = x.labels)
    (unseen : ∀ x : Team, ∀ w, x.waitAddrs (.scratch w) = [] → (f x).waitAddrs (.scratch w) = []) :
    ScratchFrame s (s.modTeam team f) team := by
  refine ⟨rfl, fun i hi => ?_, ?_, fun w none_ => ?_⟩
  · rw [State.team_modTeam, if_neg fun h => hi h.1]
  · rw [State.team_modTeam]
    split
    · exact own _
    · rfl
  · rw [State.team_modTeam]
    split
    · exact unseen _ w none_
    · exact none_

theorem Team.notify_labels (x : Team) (at_ : CounterLoc) (old new : Word) : (x.notify at_ old new).labels = x.labels := by
  unfold Team.notify
  split <;> rfl

theorem scratchFrame_notify (at_ : CounterLoc) (old new : Word) :
    ScratchFrame s (s.modTeam team (·.notify at_ old new)) team :=
  scratchFrame_modTeam (fun x => x.notify_labels at_ old new) fun _ _ none_ => Team.waitAddrs_notify none_

theorem scratchFrame_write (off : Nat) (bs : List Byte) :
    ScratchFrame s (s.modTeam team fun x => { x with scratch := x.scratch.write off bs }) team :=
  scratchFrame_modTeam (fun _ => rfl) fun _ _ none_ => none_

theorem ScratchFrame.engines (h : ScratchFrame s t team) (a : Word) :
    t.engineScratchWaits team a = s.engineScratchWaits team a := by
  have cores (c : Nat) : t.core c = s.core c := by
    rw [h.device]
    rfl
  obtain ⟨-, -, core, kernel, own⟩ := h.labels
  have rings (i : Nat) : (t.team i).rings = (s.team i).rings := by
    by_cases here : i = team
    · rw [here, own]
    · rw [h.other i here]
  have heads (e : Entry) : t.headWait e = s.headWait e := by
    unfold State.headWait
    rw [rings]
  unfold State.engineScratchWaits
  simp only [heads, cores, core, kernel]

theorem ScratchFrame.waits (h : ScratchFrame s t team) {w : Nat} (none_ : s.scratchWaits team w = []) :
    t.scratchWaits team w = [] := by
  obtain ⟨parked, engines⟩ := List.append_eq_nil_iff.mp none_
  exact List.append_eq_nil_iff.mpr ⟨h.unseen w parked, (h.engines _).trans engines⟩

/-- A counter that does not fall, or whose fall no one watches, changes waits alone. -/
theorem scratchChanged_unseen {off src : Nat} {old new : Word} (unseen : new < old → s.scratchWaits team off = []) :
    s.scratchChanged team off old new src = s.modTeam team (·.notify (.scratch off) old new) := by
  unfold State.scratchChanged
  dsimp only
  refine if_neg fun h => ?_
  simp only [Bool.and_eq_true, decide_eq_true_eq, Bool.not_eq_true', List.isEmpty_eq_false_iff] at h
  exact h.2 (unseen h.1)

/-- The counters that one store has changed, one after another: those that fall are unseen. -/
theorem foldl_scratchChanged_frame {src : Nat} {old new : Nat → Word} (l : List Nat)
    (unseen : ∀ w ∈ l, new w < old w → s.scratchWaits team w = []) (frame : ScratchFrame s t team) :
    ScratchFrame s (l.foldl (fun t a => if old a = new a then t else t.scratchChanged team a (old a) (new a) src) t) team := by
  induction l generalizing t with
  | nil => exact frame
  | cons a l ih =>
    refine ih (fun w hw => unseen w (List.mem_cons_of_mem _ hw)) ?_
    dsimp only
    split
    · exact frame
    · rw [scratchChanged_unseen fun falls => frame.waits (unseen a List.mem_cons_self falls)]
      exact frame.trans (scratchFrame_notify _ _ _)

/-- A store into a scratchpad that makes no watched word fall. -/
theorem scratchWrite_unseen {off src : Nat} {bs : List Byte} (unseen : ∀ w ∈ wordsIn off bs.length,
    (s.modTeam team fun x => { x with scratch := x.scratch.write off bs }).scratchWord team w < s.scratchWord team w →
      s.scratchWaits team w = []) : ScratchFrame s (s.scratchWrite team off bs src) team := by
  have start := scratchFrame_write (s := s) (team := team) off bs
  unfold State.scratchWrite
  generalize (s.modTeam team fun x => { x with scratch := x.scratch.write off bs }) = v at unseen start ⊢
  exact foldl_scratchChanged_frame _ unseen start

/-- A store of one word that makes a watched word fall. -/
theorem scratchWrite_falls {off src : Nat} {bs : List Byte} (word : bs.length = 8) (aligned : off % 8 = 0)
    {v : State} (written : v = s.modTeam team fun x => { x with scratch := x.scratch.write off bs })
    (falls : v.scratchWord team off < s.scratchWord team off) (watched : s.scratchWaits team off ≠ []) :
    s.scratchWrite team off bs src =
      (v.modTeam team (·.notify (.scratch off) (s.scratchWord team off) (v.scratchWord team off))).log (s.team team).ctx
        { code := 0x0002, source := src, detail := 0, gridid := (s.team team).gridid, addr := scratchAddr off
          core := (s.team team).core, wave := 0xFFFF } := by
  have start : ScratchFrame s v team := written ▸ scratchFrame_write off bs
  have parked : (v.team team).waitAddrs (.scratch off) = (s.team team).waitAddrs (.scratch off) := by
    rw [written, State.team_modTeam]
    split <;> rfl
  have waits : v.scratchWaits team off = s.scratchWaits team off := congrArg₂ (· ++ ·) parked (start.engines _)
  obtain ⟨ctx, grid, core, -, -⟩ := (start.trans (scratchFrame_notify (.scratch off) (s.scratchWord team off)
    (v.scratchWord team off))).labels
  unfold State.scratchWrite
  rw [← written, word, wordsIn_word aligned]
  dsimp only [List.foldl]
  rw [if_neg fun same => absurd falls (by simp [same])]
  unfold State.scratchChanged
  dsimp only
  rw [ctx, grid, core, if_pos]
  refine Bool.and_eq_true_iff.mpr ⟨decide_eq_true falls, ?_⟩
  rw [Bool.not_eq_true', List.isEmpty_eq_false_iff]
  exact fun none_ => watched (waits.symm.trans none_)

end Sys2Proof.Machine
end

section
/-! SUPPORT. Writes at the home slices (R157, R159, R160, R184): the bytes of a held line as one write, the state that a line
takes, and the watchers of a counter when a core drops lines. -/

namespace Sys2Proof.Machine

variable {s t r : State} {core : Nat} {c : BitVec 6}

/-! ### The bytes of a held line -/

/-- The runs of a held line from one byte more on, as writes: that byte, if it is written, and the runs after it. -/
theorem foldl_maskRuns_succ (h : HeldLine) (n base : Nat) (m : Mem) :
    (maskRuns h (n + 1)).foldl (fun m x => m.write (base + x.1) x.2) m =
      (maskRuns h n).foldl (fun m x => m.write (base + x.1) x.2)
        (if h.mask.getLsbD (127 - n) then m.set (base + (127 - n)) (h.data.getD (127 - n) 0) else m) := by
  rw [maskRuns]
  cases h.mask.getLsbD (127 - n) with
  | false => rfl
  | true =>
    simp only [if_true]
    cases maskRuns h n with
    | nil => rfl
    | cons x more =>
      obtain ⟨p, bs⟩ := x
      dsimp only
      split
      · next next_ =>
        subst next_
        rfl
      · rfl

theorem get_foldl_maskRuns (h : HeldLine) {n : Nat} (hn : n ≤ 128) (base : Nat) {m : Mem} (wf : m.wf = true) (a : Nat) :
    ((maskRuns h n).foldl (fun m x => m.write (base + x.1) x.2) m).get a =
      if base + (128 - n) ≤ a ∧ a < base + 128 ∧ h.mask.getLsbD (a - base) = true then h.data.getD (a - base) 0
      else m.get a := by
  induction n generalizing m with
  | zero =>
    rw [if_neg (by omega)]
    rfl
  | succ n ih =>
    rw [foldl_maskRuns_succ h n base m]
    cases bit : h.mask.getLsbD (127 - n) with
    | false =>
      simp only [Bool.false_eq_true, if_false]
      rw [ih (by omega) wf]
      refine if_congr ⟨fun ⟨low, high, set⟩ => ⟨by omega, high, set⟩, fun ⟨low, high, set⟩ => ⟨?_, high, set⟩⟩ rfl rfl
      by_contra early
      rw [show a - base = 127 - n by omega, bit] at set
      cases set
    | true =>
      simp only [if_true]
      rw [ih (by omega) (Mem.wf_set wf), Mem.get_set (lo := 0) _ _ a wf]
      by_cases here : a = base + (127 - n)
      · rw [if_neg (by omega), if_pos here, if_pos ⟨by omega, by omega, by rw [show a - base = 127 - n by omega, bit]⟩,
          show a - base = 127 - n by omega]
      · rw [if_neg here]
        exact if_congr ⟨fun ⟨low, high, set⟩ => ⟨by omega, high, set⟩, fun ⟨low, high, set⟩ => ⟨by omega, high, set⟩⟩ rfl rfl

theorem mem_foldl_rawWrite (l : List (Nat × List Byte)) (c : BitVec 6) (base : Nat) :
    (l.foldl (fun t x => t.rawWrite c (base + x.1) x.2) s).mem = l.foldl (fun m x => m.write (base + x.1) x.2) s.mem := by
  induction l generalizing s with
  | nil => rfl
  | cons x l ih => rw [List.foldl_cons, ih, State.rawWrite_mem, List.foldl_cons]

theorem State.rawWrite_cores (c : BitVec 6) (pa : Nat) (bs : List Byte) : (s.rawWrite c pa bs).cores = s.cores := by
  unfold State.rawWrite State.setLine
  split <;> rfl

theorem State.rawWrite_ctxs (c : BitVec 6) (pa : Nat) (bs : List Byte) : (s.rawWrite c pa bs).ctxs = s.ctxs := by
  unfold State.rawWrite State.setLine
  split <;> rfl

/-- The state in which the written bytes of a held line have reached their home slice. -/
def State.homeRuns (s : State) (h : HeldLine) (line : Nat) : State :=
  ((maskRuns h 128).foldl (fun t x => t.rawWrite h.ctx (line * 128 + x.1) x.2) s).lowAs (line * 128) h.low

/-- A byte of memory after a held line was written back. -/
def heldByte (s : State) (h : HeldLine) (line a : Nat) : Byte :=
  if a / 128 = line ∧ h.mask.getLsbD (a % 128) = true then h.data.getD (a % 128) 0 else s.mem.get a

theorem homeRuns_get (h : HeldLine) (line a : Nat) (wf : s.mem.wf = true) :
    (s.homeRuns h line).mem.get a = heldByte s h line a := by
  refine (congrArg (Mem.get · a) (mem_foldl_rawWrite _ _ _)).trans ?_
  rw [get_foldl_maskRuns h (Nat.le_refl _) _ wf]
  unfold heldByte
  by_cases here : a / 128 = line
  · have off : a - line * 128 = a % 128 := by omega
    rw [off]
    exact if_congr ⟨fun ⟨_, _, set⟩ => ⟨here, set⟩, fun ⟨_, set⟩ => ⟨by omega, by omega, set⟩⟩ rfl rfl
  · rw [if_neg (by omega), if_neg fun h => here h.1]

theorem homeRuns_cores (h : HeldLine) (line : Nat) : (s.homeRuns h line).cores = s.cores :=
  foldl_keeps (view := State.cores) (fun _ _ => State.rawWrite_cores _ _ _) (maskRuns h 128) s

theorem leNat_lt (l : List Byte) : leNat l < 256 ^ l.length := by
  induction l with
  | nil => simp [leNat]
  | cons b l ih =>
    rw [leNat, List.length_cons, pow_succ]
    have := b.isLt
    omega

theorem homeHeld_eq (h : HeldLine) (line : Nat) : s.homeHeld h line = (upTo 16).foldl (fun t i =>
    if s.word (line * 128 + 8 * i) = (s.homeRuns h line).word (line * 128 + 8 * i) then t
    else t.changedBy State.log (line * 128 + 8 * i) (s.word (line * 128 + 8 * i))
      ((s.homeRuns h line).word (line * 128 + 8 * i)) (h.sourceAt (8 * i))) (s.homeRuns h line) := by
  unfold State.homeHeld State.counterChanged State.homeRuns
  rfl

/-- A held line is written back without any counter falling: only waits learn of the new values. -/
theorem homeHeld_notified (h : HeldLine) (line : Nat) (wf : s.mem.wf = true)
    (rises : ∀ i < 16, leNat (s.mem.read (line * 128 + 8 * i) 8) ≤
      leNat ((List.range 8).map fun k => heldByte s h line (line * 128 + 8 * i + k))) :
    Notified (s.homeRuns h line) (s.homeHeld h line) := by
  rw [homeHeld_eq]
  refine foldl_changedBy_notified (at_ := fun i => line * 128 + 8 * i) (old := fun i => s.word (line * 128 + 8 * i))
    (new := fun i => (s.homeRuns h line).word (line * 128 + 8 * i)) (src := fun i => h.sourceAt (8 * i)) (upTo 16)
    (fun i hi falls => ?_) (.refl _)
  have read : (s.homeRuns h line).mem.read (line * 128 + 8 * i) 8 =
      (List.range 8).map fun k => heldByte s h line (line * 128 + 8 * i + k) :=
    List.map_congr_left fun k _ => homeRuns_get h line _ wf
  have size (m : Mem) (a : Nat) : leNat (m.read a 8) < 2 ^ 64 := by
    have := leNat_lt (m.read a 8)
    rwa [Mem.length_read] at this
  have more := rises i (List.mem_range.mp hi)
  rw [← read] at more
  simp only [State.word, BitVec.lt_def, BitVec.toNat_ofNat, Nat.mod_eq_of_lt (size _ _)] at falls
  omega

/-- A bound line of a sound frame that makes no counter fall is written back. -/
theorem writeBackOne_bytes {h : HeldLine} {l : Nat} (bound : h.bound = some l) (sound : s.isPoisoned l = false)
    (wf : s.mem.wf = true) (rises : ∀ i < 16, leNat (s.mem.read (l * 128 + 8 * i) 8) ≤
      leNat ((List.range 8).map fun k => heldByte s h l (l * 128 + 8 * i + k))) :
    (∀ a, (writeBackOne s core h).mem.get a = heldByte s h l a) ∧
      (∀ k, k ≠ core → (writeBackOne s core h).core k = s.core k) ∧
      (writeBackOne s core h).core core = (s.core core).dropHeld h.ctx h.line := by
  have written := homeHeld_notified h l wf rises
  have same (k : Nat) : (s.homeHeld h l).core k = s.core k := by
    unfold State.core
    rw [written.cores, homeRuns_cores]
  have back : writeBackOne s core h = (s.homeHeld h l).modCore core (·.dropHeld h.ctx h.line) := by
    rw [writeBackOne, bound]
    simp only [writeBack, sound, Bool.false_and, Bool.false_eq_true, if_false]
  rw [back]
  refine ⟨fun a => ?_, fun k hk => (State.core_modCore_other hk).trans (same k), ?_⟩
  · rw [State.modCore_mem, written.mem]
    exact homeRuns_get h l a wf
  · rw [State.core_modCore_self rfl, same]

end Sys2Proof.Machine
end

section
/-! SUPPORT. Stores that bypass the L1, and zeroed lines (R147, R159, R160, R173, R357): the state of the line at its home
slice, the poison of it, and what the core still holds. -/

namespace Sys2Proof.Machine

variable {s t r : State} {core : Nat} {c : BitVec 6}

/-! ### Line states -/

theorem State.sliceAt_modSlice (a n : Nat) (f : Slice → Slice) :
    (s.modSlice a f).sliceAt n = if n = a ∧ n < 128 then f (s.sliceAt n) else s.sliceAt n := by
  unfold State.modSlice State.sliceAt modVec
  by_cases ha : a < 128 <;> by_cases hn : n < 128
  · by_cases h : n = a
    · subst h; simp [hn]
    · simp [ha, hn, h, Ne.symm h]
  · simp [hn]
  · have : n ≠ a := fun e => ha (e ▸ hn)
    simp [ha, hn, this]
  · simp [hn]

theorem homeSlice_lt (pa : Nat) : homeSlice pa < 128 := by
  have part (x : Nat) : x % 128 < 2 ^ 7 := Nat.mod_lt _ (by decide)
  have top : (pa / 512 % 2 ^ 43) >>> 42 < 2 ^ 7 := by
    rw [Nat.shiftRight_eq_div_pow]
    omega
  exact Nat.xor_lt_two_pow (Nat.xor_lt_two_pow (Nat.xor_lt_two_pow (Nat.xor_lt_two_pow (Nat.xor_lt_two_pow
    (Nat.xor_lt_two_pow (part _) (part _)) (part _)) (part _)) (part _)) (part _)) top

theorem Slice.find?_useLine (y : Slice) (ways : BitVec 16) (line : Nat) (st : LineState) (writer : BitVec 6) :
    ((y.useLine ways line st writer).lines.find? fun x => x.line == line).map (·.st) = some st := by
  unfold Slice.useLine
  dsimp only
  split
  · next x found =>
    have here : x.line = line := by simpa using List.find?_some found
    simp [here]
  · simp

/-- A line takes the state that it is put into. -/
theorem State.lineState_setLine (line : Nat) (st : LineState) : (s.setLine line st c).lineState line = some st := by
  unfold State.lineState State.setLine
  rw [State.sliceAt_modSlice, if_pos ⟨rfl, homeSlice_lt _⟩]
  exact Slice.find?_useLine ..

/-- The replacement priority of a line says nothing of line states. -/
theorem State.lineState_lowAs (pa line : Nat) (low : Bool) : (s.lowAs pa low).lineState line = s.lineState line := by
  have mapped (l : List Line) : ((l.map fun x => if x.line = lineOf pa then { x with low := low } else x).find?
      fun x => x.line == line).map (·.st) = (l.find? fun x => x.line == line).map (·.st) := by
    have same (x : Line) : (if x.line = lineOf pa then { x with low := low } else x).line = x.line ∧
        (if x.line = lineOf pa then { x with low := low } else x).st = x.st := by
      split <;> exact ⟨rfl, rfl⟩
    rw [List.find?_map, Option.map_map]
    simp only [Function.comp_def, same]
  unfold State.lineState State.lowAs
  rw [State.sliceAt_modSlice]
  split
  · exact mapped _
  · rfl

theorem lineState_congr (same : t.slices = s.slices) (line : Nat) : t.lineState line = s.lineState line := by
  unfold State.lineState State.sliceAt
  rw [same]

/-- A write makes its line dirty. -/
theorem lineState_rawWrite (pa : Nat) (bs : List Byte) : (s.rawWrite c pa bs).lineState (lineOf pa) = some .dirty :=
  State.lineState_setLine _ _

/-! ### Poison -/

/-- A write of a whole line clears its poison, and no write poisons one. -/
theorem State.isPoisoned_rawWrite {pa : Nat} {bs : List Byte} (clears : s.isPoisoned (lineOf pa) = false ∨ bs.length = 128) :
    (s.rawWrite c pa bs).isPoisoned (lineOf pa) = false := by
  unfold State.rawWrite State.setLine
  dsimp only
  split
  · simp [State.isPoisoned, State.modSlice]
  · next part =>
    obtain sound | whole := clears
    · exact sound
    · exact absurd whole part

/-! ### Watchers and the lines of a core -/

section lines
variable {a : Nat} {f : CoreSt → CoreSt} (queues : ∀ k, (f k).queues = k.queues)

theorem State.rawWrite_modCore (a : Nat) (f : CoreSt → CoreSt) (pa : Nat) (bs : List Byte) :
    (s.modCore a f).rawWrite c pa bs = (s.rawWrite c pa bs).modCore a f := by
  unfold State.rawWrite
  dsimp only
  split <;> rfl

include queues

/-- Who watches a counter does not depend on the lines that a core holds. -/
theorem State.watchers_modCore (c : BitVec 6) (w : Nat) : (s.modCore a f).watchers c w = s.watchers c w := by
  have names : namesCounter (s.modCore a f) c w = namesCounter s c w := namesCounter_caches rfl c w
  have engines (x : State) : x.engineWaits c = (x.cores.map CoreSt.queues).toList.flatMap fun q =>
      q.toList.filterMap fun l =>
        match l with
        | e :: _ => if e.ctx = c then x.headWait e else none
        | [] => none := by
    rw [Vector.toList_map, List.flatMap_map]
    rfl
  have same : (s.modCore a f).engineWaits c = s.engineWaits c := by
    rw [engines, engines, show (s.modCore a f).cores.map CoreSt.queues = s.cores.map CoreSt.queues from
      modVec_map queues s.cores a]
    rfl
  unfold State.watchers
  rw [names, same]
  rfl

theorem State.fallsUnseen_modCore {pa n : Nat} {bs : List Byte} (unseen : s.fallsUnseen (s.rawWrite c pa bs) pa n) :
    (s.modCore a f).fallsUnseen ((s.modCore a f).rawWrite c pa bs) pa n := by
  intro w hw falls d
  rw [State.rawWrite_modCore] at falls ⊢
  rw [State.watchers_modCore queues]
  exact unseen w hw falls d

/-- A write at a home slice by a core that has dropped lines first, and that no one sees fall. -/
theorem homeWrite_dropped {pa src : Nat} {bs : List Byte} (some_ : bs ≠ [])
    (unseen : s.fallsUnseen (s.rawWrite c pa bs) pa bs.length) :
    Notified ((s.rawWrite c pa bs).modCore a f) ((s.modCore a f).homeWrite c pa bs src) := by
  rw [← State.rawWrite_modCore]
  exact State.homeWrite_notified some_ (State.fallsUnseen_modCore queues unseen)

/-- What such a write changes. -/
theorem homeWrite_dropped_frame {pa src : Nat} {bs : List Byte} (reset : f CoreSt.reset = CoreSt.reset)
    (wf : s.mem.wf = true) (some_ : bs ≠ []) (clears : s.isPoisoned (lineOf pa) = false ∨ bs.length = 128)
    (unseen : s.fallsUnseen (s.rawWrite c pa bs) pa bs.length) :
    let t := (s.modCore a f).homeWrite c pa bs src
    (∀ b, t.mem.get b = if pa ≤ b ∧ b < pa + bs.length then bs.getD (b - pa) 0 else s.mem.get b) ∧
      t.isPoisoned (lineOf pa) = false ∧ t.lineState (lineOf pa) = some .dirty ∧ t.ctxs = s.ctxs ∧
      (∀ k, k ≠ a → t.core k = s.core k) ∧ t.core a = f (s.core a) := by
  have written := homeWrite_dropped (a := a) (src := src) queues some_ unseen
  have core_ (k : Nat) : ((s.modCore a f).homeWrite c pa bs src).core k = (s.modCore a f).core k := by
    unfold State.core
    rw [written.cores, ← State.rawWrite_modCore, State.rawWrite_cores]
  refine ⟨fun b => ?_, ?_, ?_, ?_, fun k hk => (core_ k).trans (State.core_modCore_other hk),
    (core_ a).trans (State.core_modCore_self reset)⟩
  · exact (congrArg (Mem.get · b) written.mem).trans (State.rawWrite_get c pa bs b wf)
  · exact (congrArg (·.contains (lineOf pa)) written.poisoned).trans (State.isPoisoned_rawWrite (c := c) clears)
  · exact (lineState_congr written.slices _).trans (lineState_rawWrite pa bs)
  · exact written.ctxs.trans (State.rawWrite_ctxs c pa bs)

end lines

/-! ### A store that bypasses the L1 -/

/-- One line of a store that bypasses the L1 (R160, R173, R354). -/
def storePart (s : State) (core : Nat) (c : BitVec 6) (who : List (Nat × Nat × Nat)) (src : Nat) (low : Bool) (v : Word)
    (a : Nat) (part : List Byte) : State :=
  if (flushLine s core c v).isPoisoned (lineOf a) && part.length != 128 then
    ((flushLine s core c v).logFor c who 0x0006 src v).deferDrain who v
  else ((flushLine s core c v).homeWrite c a part src).lowAs a low

section store
variable {team : Nat} {who : List (Nat × Nat × Nat)} {src : Nat} {bs : List Byte} {pa : Nat} {va : Word} {e : TlbEntry}
  {h : HeldLine}

theorem storeLoc_one (p : Nat × Nat × Word × TlbEntry) :
    storeLoc s core c team who src (.mem [p]) bs = writePiece s core c who src p bs := rfl

/-- A store through a page that bypasses the L1 is a store into each line. -/
theorem writePiece_bypass (n : Nat) (hbm : physKind pa = .hbm) (bypass : e.cache = 1) :
    writePiece s core c who src (pa, n, va, e) bs = (lineParts (n / 128 + 2) pa (bs.take n)).foldl
      (fun s x => storePart s core c who src e.low (va + BitVec.ofNat 64 (x.1 - pa)) x.1 x.2) s := by
  unfold writePiece
  dsimp only
  rw [hbm]
  exact (if_pos bypass).trans rfl

/-- A store through any other page goes into the L1. -/
theorem writePiece_held (n : Nat) (hbm : physKind pa = .hbm) (cached : e.cache ≠ 1) :
    writePiece s core c who src (pa, n, va, e) bs = (lineParts (n / 128 + 2) va.toNat (bs.take n)).foldl
      (fun s x => holdBytes s core c (BitVec.ofNat 64 x.1) x.2 who src) s := by
  unfold writePiece
  dsimp only
  rw [hbm]
  exact (if_neg cached).trans rfl

theorem storeLoc_bypass_line (hbm : physKind pa = .hbm) (bypass : e.cache = 1) (some_ : bs ≠ [])
    (fits : pa % 128 + bs.length ≤ 128) :
    storeLoc s core c team who src (.mem [(pa, bs.length, va, e)]) bs = storePart s core c who src e.low va pa bs := by
  rw [storeLoc_one, writePiece_bypass _ hbm bypass, List.take_length, lineParts_one _ some_ fits, List.foldl_cons,
    List.foldl_nil]
  simp only [Nat.sub_self, BitVec.add_zero]

theorem flushLine_none (free : (s.core core).heldLine c (va.toNat / 128) = none) :
    flushLine s core c va = s.modCore core (·.dropClean c (va.toNat / 128)) := by
  have free' : ((s.modCore core (·.dropClean c (va.toNat / 128))).core core).heldLine c (va.toNat / 128) = none := by
    rw [State.core_modCore_self rfl]
    exact free
  unfold flushLine
  dsimp only
  rw [free']

theorem flushLine_some (held : (s.core core).heldLine c (va.toNat / 128) = some h) : flushLine s core c va =
    if h.pinned then s.modCore core (·.dropClean c (va.toNat / 128))
    else evictHeld (s.modCore core (·.dropClean c (va.toNat / 128))) core h := by
  have held' : ((s.modCore core (·.dropClean c (va.toNat / 128))).core core).heldLine c (va.toNat / 128) = some h := by
    rw [State.core_modCore_self rfl]
    exact held
  unfold flushLine
  dsimp only
  rw [held']

/-- A store of a part of a poisoned line is discarded. -/
theorem storePart_poisoned {low : Bool} (free : (s.core core).heldLine c (va.toNat / 128) = none)
    (poisoned : s.isPoisoned (lineOf pa) = true) (part : bs.length ≠ 128) : storePart s core c who src low va pa bs =
      ((s.modCore core (·.dropClean c (va.toNat / 128))).logFor c who 0x0006 src va).deferDrain who va := by
  rw [storePart, flushLine_none free]
  refine if_pos (Bool.and_eq_true_iff.mpr ⟨poisoned, ?_⟩)
  simpa using part

/-- A store into a sound line, or of a whole one, that no one sees fall. -/
theorem storePart_sound {low : Bool} (free : (s.core core).heldLine c (va.toNat / 128) = none) (wf : s.mem.wf = true)
    (some_ : bs ≠ []) (clears : s.isPoisoned (lineOf pa) = false ∨ bs.length = 128)
    (unseen : s.fallsUnseen (s.rawWrite c pa bs) pa bs.length) :
    let t := storePart s core c who src low va pa bs
    (∀ a, t.mem.get a = if pa ≤ a ∧ a < pa + bs.length then bs.getD (a - pa) 0 else s.mem.get a) ∧
      t.isPoisoned (lineOf pa) = false ∧ t.lineState (lineOf pa) = some .dirty ∧ t.ctxs = s.ctxs ∧
      (∀ k, k ≠ core → t.core k = s.core k) ∧ t.core core = (s.core core).dropClean c (va.toNat / 128) := by
  have store : storePart s core c who src low va pa bs =
      ((s.modCore core (·.dropClean c (va.toNat / 128))).homeWrite c pa bs src).lowAs pa low := by
    rw [storePart, flushLine_none free]
    refine if_neg fun bad => ?_
    obtain ⟨poisoned, part⟩ := Bool.and_eq_true_iff.mp bad
    obtain sound | whole := clears
    · exact absurd (sound.symm.trans poisoned) (by decide)
    · simp [whole] at part
  obtain ⟨bytes, clear, dirty, kept⟩ := homeWrite_dropped_frame (a := core) (f := (·.dropClean c (va.toNat / 128)))
    (src := src) (fun _ => rfl) rfl wf some_ clears unseen
  dsimp only
  rw [store]
  exact ⟨bytes, clear, (State.lineState_lowAs ..).trans dirty, kept⟩

/-! ### Stores over two lines -/

/-- The parts of a range do not depend on the fuel, where it is enough. -/
theorem lineParts_fuel {m n a : Nat} {bs : List Byte} (hm : a % 128 + bs.length ≤ 128 * m)
    (hn : a % 128 + bs.length ≤ 128 * n) : lineParts m a bs = lineParts n a bs := by
  induction m generalizing n a bs with
  | zero =>
    obtain rfl : bs = [] := List.eq_nil_of_length_eq_zero (by omega)
    rw [lineParts_nil, lineParts_nil]
  | succ m ih =>
    by_cases some_ : bs = []
    · rw [some_, lineParts_nil, lineParts_nil]
    · have size := List.length_pos_iff.mpr some_
      obtain _ | n := n
      · omega
      · have dropped : (bs.drop (128 - a % 128)).length = bs.length - (128 - a % 128) := List.length_drop
        rw [lineParts_cons m a some_, lineParts_cons n a some_, ih (n := n) (by omega) (by omega)]

/-- Every part of a range lies at or above its start. -/
theorem lineParts_ge {n a : Nat} {bs : List Byte} {x : Nat × List Byte} (mem : x ∈ lineParts n a bs) : a ≤ x.1 := by
  induction n generalizing a bs with
  | zero => cases mem
  | succ n ih =>
    by_cases some_ : bs = []
    · rw [some_, lineParts_nil] at mem
      cases mem
    · rw [lineParts_cons n a some_] at mem
      obtain rfl | later := List.mem_cons.mp mem
      · exact Nat.le_refl a
      · exact (Nat.le_add_right _ _).trans (ih later)

/-- A store that bypasses the L1 and crosses the end of a line is two stores. -/
theorem storeLoc_two_lines (bypass : e.cache = 1) (hbm : ∀ i < bs.length, physKind (pa + i) = .hbm)
    (crosses : 128 - pa % 128 < bs.length) : storeLoc s core c team who src (.mem [(pa, bs.length, va, e)]) bs =
      storeLoc (storeLoc s core c team who src (.mem [(pa, 128 - pa % 128, va, e)]) (bs.take (128 - pa % 128))) core c team who
        src (.mem [(pa + (128 - pa % 128), bs.length - (128 - pa % 128), va + BitVec.ofNat 64 (128 - pa % 128), e)])
        (bs.drop (128 - pa % 128)) := by
  have some_ : bs ≠ [] := List.ne_nil_of_length_pos (by omega)
  have start : physKind pa = .hbm := hbm 0 (by omega)
  have taken : (bs.take (128 - pa % 128)).length = 128 - pa % 128 := by
    rw [List.length_take]
    omega
  have dropped : (bs.drop (128 - pa % 128)).length = bs.length - (128 - pa % 128) := List.length_drop
  have first := storeLoc_bypass_line (s := s) (core := core) (c := c) (team := team) (who := who) (src := src) (va := va)
    (bs := bs.take (128 - pa % 128)) start bypass (List.ne_nil_of_length_pos (by omega)) (by omega)
  rw [taken] at first
  have rest := writePiece_bypass (s := storePart s core c who src e.low va pa (bs.take (128 - pa % 128))) (core := core)
    (c := c) (who := who) (src := src) (bs := bs.drop (128 - pa % 128)) (va := va + BitVec.ofNat 64 (128 - pa % 128))
    (bs.length - (128 - pa % 128)) (hbm (128 - pa % 128) crosses) bypass
  rw [first, storeLoc_one, storeLoc_one, rest, writePiece_bypass _ start bypass, List.take_length,
    lineParts_cons _ _ some_, List.foldl_cons, Nat.sub_self, ← dropped, List.take_length,
    lineParts_fuel (m := bs.length / 128 + 1) (n := (bs.drop (128 - pa % 128)).length / 128 + 2) (by omega) (by omega)]
  simp only [BitVec.add_zero]
  refine List.foldl_ext _ _ _ fun t x hx => ?_
  have above := lineParts_ge hx
  rw [BitVec.add_assoc, ← BitVec.ofNat_add, show 128 - pa % 128 + (x.1 - (pa + (128 - pa % 128))) = x.1 - pa by omega]

end store

/-! ### Zeroed lines -/

section zero
variable {g : GangRef} {n pa : Nat} {va : Word} {e : TlbEntry} {ps : List (Nat × Nat × Word × TlbEntry)}

/-- The core without what it holds of a line. -/
def CoreSt.dropLine (k : CoreSt) (c : BitVec 6) (line : Nat) : CoreSt := (k.dropHeld c line).dropClean c line

/-- `dzero` is a write of a whole line, which is then zero. -/
theorem zeroLine_hbm (hbm : physKind pa = .hbm) : zeroLine s g n (.mem ((pa, 128, va, e) :: ps)) =
    ((s.modCore (s.coreOf g) (·.dropLine (s.ctxOf g) (va.toNat / 128))).homeWrite (s.ctxOf g) (lineOf pa * 128)
      (List.replicate 128 0) 1).setLine (lineOf pa) .zero (s.ctxOf g) := if_pos hbm

theorem lineOf_start (line : Nat) : lineOf (line * 128) = line := Nat.mul_div_cancel _ (by decide)

theorem zeroLine_unseen (hbm : physKind pa = .hbm) (wf : s.mem.wf = true)
    (unseen : s.fallsUnseen (s.rawWrite (s.ctxOf g) (lineOf pa * 128) (List.replicate 128 0)) (lineOf pa * 128) 128) :
    let t := zeroLine s g n (.mem ((pa, 128, va, e) :: ps))
    (∀ a, t.mem.get a = if a / 128 = lineOf pa then 0 else s.mem.get a) ∧ t.isPoisoned (lineOf pa) = false ∧
      t.ctxs = s.ctxs ∧ (∀ k, k ≠ s.coreOf g → t.core k = s.core k) ∧
      t.core (s.coreOf g) = (s.core (s.coreOf g)).dropLine (s.ctxOf g) (va.toNat / 128) := by
  dsimp only
  rw [zeroLine_hbm hbm]
  have zero (k : Nat) : (List.replicate 128 (0 : Byte)).getD k 0 = 0 := by
    rw [List.getD_eq_getElem?_getD]
    exact List.getElem?_getD_replicate_default_eq _ _ k
  have size : (List.replicate 128 (0 : Byte)).length = 128 := List.length_replicate
  generalize List.replicate 128 (0 : Byte) = bs at unseen zero size ⊢
  obtain ⟨bytes, clear, -, kept⟩ := homeWrite_dropped_frame (a := s.coreOf g) (pa := lineOf pa * 128)
    (f := (·.dropLine (s.ctxOf g) (va.toNat / 128))) (src := 1) (fun _ => rfl) rfl wf
    (List.ne_nil_of_length_pos (by omega)) (.inr size) (by rw [size]; exact unseen)
  rw [lineOf_start] at clear
  refine ⟨fun a => (bytes a).trans ?_, clear, kept⟩
  rw [size, zero]
  by_cases here : a / 128 = lineOf pa
  · rw [if_pos here, if_pos (by omega)]
  · rw [if_neg here, if_neg (by omega)]

/-- A core sees 0 in a zeroed line, whose own copies it has dropped. -/
theorem viewByte_dropLine {line : Nat} (dropped : t.core core = (s.core core).dropLine c line) {a : Word} (p : Nat) :
    (a.toNat / 128 = line → viewByte t core c a p = t.mem.get p) ∧
      (a.toNat / 128 ≠ line → t.mem.get p = s.mem.get p → viewByte t core c a p = viewByte s core c a p) := by
  refine ⟨fun here => ?_, fun other mem => viewByte_congr ?_ ?_ mem⟩
  · have held : (t.core core).heldLine c (a.toNat / 128) = none := by
      rw [dropped, here]
      exact (s.core core).heldLine_dropHeld_self c line
    have clean : (t.core core).cleanLine c (a.toNat / 128) = none := by
      rw [dropped, here]
      exact ((s.core core).dropHeld c line).cleanLine_dropClean_self c line
    simp only [viewByte, held, clean]
  · rw [dropped]
    exact (s.core core).heldLine_dropHeld_other fun h => other h.2
  · rw [dropped]
    exact ((s.core core).dropHeld c line).cleanLine_dropClean_other fun h => other h.2

end zero

end Sys2Proof.Machine
end

section
/-! SUPPORT. Logging, writes at the home slices and translations leave the lines of every L1 as they were, so that a line
that leaves an L1 for its home slice leaves it once (R173, R177, R184). -/

namespace Sys2Proof.Machine

variable {s t : State} {core : Nat} {c : BitVec 6}

/-! ### Logging changes no core -/

theorem State.touchLine_cores {line} : (s.touchLine line c).cores = s.cores := by
  unfold State.touchLine
  split <;> rfl

theorem State.dirtyLine_cores {line} : (s.dirtyLine line c).cores = s.cores := by
  unfold State.dirtyLine
  split <;> rfl

theorem sendRemote_cores {window off who addr kind} : (sendRemote s c window off who addr kind).1.cores = s.cores := by
  unfold sendRemote
  dsimp only
  split <;> rfl

theorem State.touchEntry_cores {va pa} : (s.touchEntry c va pa).cores = s.cores := by
  unfold State.touchEntry
  split
  · exact State.touchLine_cores
  · rfl
  · exact sendRemote_cores
  · rfl

theorem State.touchWalk_cores {va} : (s.touchWalk c va).cores = s.cores := by
  unfold State.touchWalk
  split
  · exact foldl_keeps (fun _ _ => State.touchEntry_cores) _ _
  · rfl

section
variable {lg : Logger} (hlg : ∀ t c e, (lg t c e).cores = t.cores)
include hlg

theorem State.regressIn_cores {old pa source} : (s.regressIn old lg pa source c).cores = s.cores := by
  unfold State.regressIn
  dsimp only
  split
  · rfl
  · rw [hlg]
    exact foldl_keeps (fun t x => t.modQueue_cores _ _ _) _ _

theorem State.changedBy_cores {pa old new source} : (s.changedBy lg pa old new source).cores = s.cores := by
  unfold State.changedBy
  dsimp only
  split
  · exact foldl_keeps (view := State.cores) (fun _ _ => State.regressIn_cores hlg) _ _
  · rfl

theorem State.writeBy_cores {pa bs source} : (s.writeBy lg c pa bs source).cores = s.cores := by
  unfold State.writeBy
  split
  · rfl
  · refine (foldl_keeps (fun t a => ?_) _ _).trans (State.rawWrite_cores c pa bs)
    dsimp only
    split
    · rfl
    · exact State.changedBy_cores hlg

end

theorem State.logLater_cores (s : State) (c : BitVec 6) (e : LogEntry) : (s.logLater c e).cores = s.cores := rfl

theorem State.logBytes_cores {va bs} : (s.logBytes c va bs).cores = s.cores := by
  unfold State.logBytes
  split
  · exact foldl_keeps (fun _ _ => State.writeBy_cores State.logLater_cores) _ _
  · rfl

theorem State.logAppend_cores {seg w0 w1} : (s.logAppend c seg w0 w1).cores = s.cores := by
  unfold State.logAppend
  dsimp only
  split
  · rw [State.logBytes_cores, State.logBytes_cores]
  · rfl

theorem State.recordOrder_cores {pa o} : (s.recordOrder c pa o).cores = s.cores := by
  unfold State.recordOrder
  dsimp only
  split
  · split
    · exact State.logBytes_cores
    · exact State.logAppend_cores
  · rfl

theorem State.orderOne_cores {pa o} : (eitherState (s.orderOne c pa o)).cores = s.cores := by
  unfold State.orderOne
  split
  · rfl
  · split <;> rfl
  · rfl
  · exact State.recordOrder_cores

theorem State.placeLog_cores {bs} : (eitherState (s.placeLog c bs)).cores = s.cores := by
  unfold State.placeLog
  dsimp only
  split
  · next pp pc _ _ =>
    have touched : (((s.touchWalk c ((s.ctx c).log ++ 0#6)).dirtyLine (lineOf pp) c).dirtyLine (lineOf pc) c).cores =
        s.cores := by
      rw [State.dirtyLine_cores, State.dirtyLine_cores, State.touchWalk_cores]
    split
    · exact touched
    · split
      · exact touched
      · split
        · next h => exact (congrArg (fun x => (eitherState x).cores) h).symm.trans (State.orderOne_cores.trans touched)
        · next u h =>
          have placed : u.cores = s.cores :=
            (congrArg (fun x => (eitherState x).cores) h).symm.trans (State.orderOne_cores.trans touched)
          refine (State.raise_cores (s := releaseOutside _ _) c 1).trans ?_
          exact (State.writeBy_cores State.logLater_cores).trans ((State.writeBy_cores State.logLater_cores).trans placed)
  · rfl

theorem State.log_cores (s : State) (c : BitVec 6) (e : LogEntry) : (s.log c e).cores = s.cores := by
  unfold State.log
  split
  · rfl
  · have placed : (eitherState (s.placeLog c (e.bytes s.clk))).cores = s.cores := State.placeLog_cores
    split
    · next h => exact (congrArg (fun x => (eitherState x).cores) h).symm.trans placed
    · next h => exact (congrArg (fun x => (eitherState x).cores) h).symm.trans placed

/-! ### Write-backs change no core -/

theorem State.deferDrain_cores {who addr} : (s.deferDrain who addr).cores = s.cores :=
  foldl_keeps (view := State.cores) (fun t _ => t.modQuad_cores _ _ _ _) _ _

theorem State.logFor_cores {who code source addr} : (s.logFor c who code source addr).cores = s.cores := by
  unfold State.logFor
  split <;> exact State.log_cores _ _ _

theorem State.homeHeld_cores {h line} : (s.homeHeld h line).cores = s.cores := by
  rw [homeHeld_eq]
  refine (foldl_keeps (fun t i => ?_) _ _).trans (homeRuns_cores h line)
  split
  · rfl
  · exact State.changedBy_cores State.log_cores

theorem writeBack_cores {h line} : (writeBack s h line).cores = s.cores := by
  unfold writeBack
  dsimp only
  split
  · exact State.deferDrain_cores.trans (State.log_cores _ _ _)
  · exact State.homeHeld_cores

theorem State.sectorWrite_cores {who win off va bs} : (s.sectorWrite core c who win off va bs).cores = s.cores := by
  have sent : (sendRemote s c win off (writeWho core who) va (.write bs)).1.cores = s.cores := sendRemote_cores
  unfold State.sectorWrite
  split
  · next h => rwa [h] at sent
  · next h =>
    rw [h] at sent
    exact State.deferDrain_cores.trans (State.logFor_cores.trans sent)

/-! ### Lines that leave an L1 -/

/-- The lines that a core holds, and its clean copies. -/
def CoreSt.lines (k : CoreSt) : List HeldLine × List CleanLine := (k.held, k.clean)

theorem State.core_lines (s : State) (k : Nat) :
    (s.core k).lines = if h : k < 288 then (s.cores.map CoreSt.lines)[k] else CoreSt.reset.lines := by
  unfold State.core
  split
  · rw [Vector.getElem_map]
  · rfl

theorem core_of_cores (same : t.cores = s.cores) (k : Nat) : t.core k = s.core k := by
  unfold State.core
  rw [same]

theorem core_lines_of_map (same : t.cores.map CoreSt.lines = s.cores.map CoreSt.lines) (k : Nat) :
    (t.core k).lines = (s.core k).lines := by
  rw [State.core_lines, State.core_lines, same]

/-- A translation changes no line of a core, only its translation cache. -/
theorem translate_lines {va : Word} {n : Need} (k : Nat) : ((translate s core c va n).1.core k).lines = (s.core k).lines := by
  refine core_lines_of_map ?_ k
  have walked : (s.touchWalk c va).cores = s.cores := State.touchWalk_cores
  have waited (n : Nat) : ((s.touchWalk c va).stall core c 14 n).cores = s.cores := walked
  have cached (e : TlbEntry) (n : Nat) : (((s.touchWalk c va).stall core c 14 n).modCore core fun k =>
      { k with tlb := tlbInsert e k.tlb }).cores.map CoreSt.lines = s.cores.map CoreSt.lines := by
    rw [← waited n]
    refine modVec_map (fun _ => ?_) _ _
    rfl
  unfold translate
  dsimp only
  cases found : translateFresh s c va n with
  | error f => grind
  | ok x =>
    specialize cached x.2 (Config.walkerCycles s.clk core c.toNat va.toNat)
    grind

section evict
variable {h : HeldLine} {l : Nat}

/-- A bound line that is written back leaves its L1. -/
theorem writeBackOne_core (bound : h.bound = some l) :
    (writeBackOne s core h).core core = (s.core core).dropHeld h.ctx h.line := by
  rw [writeBackOne, bound]
  exact (State.core_modCore_self rfl).trans (congrArg (CoreSt.dropHeld · h.ctx h.line) (core_of_cores writeBack_cores core))

theorem State.leaveHeld_core {pa : Nat} : (s.leaveHeld core h pa).core core = (s.core core).dropHeld h.ctx h.line := by
  refine (State.core_modCore_self rfl).trans (congrArg (CoreSt.dropHeld · h.ctx h.line) (core_of_cores ?_ core))
  refine foldl_keeps (view := State.cores) (fun t x => ?_) _ _
  dsimp only
  split
  · rfl
  · exact State.sectorWrite_cores
  · rfl
  · rfl

/-- A change of the lines of one virtual line of a context. -/
def CoreSt.mapHeld (k : CoreSt) (c : BitVec 6) (line : Nat) (f : HeldLine → HeldLine) : CoreSt :=
  { k with held := k.held.map fun x => if x.ctx == c && x.line == line then f x else x }

theorem CoreSt.heldLine_mapHeld (k : CoreSt) {f : HeldLine → HeldLine}
    (place : ∀ x, (f x).ctx = x.ctx ∧ (f x).line = x.line) : (k.mapHeld c l f).heldLine c l = (k.heldLine c l).map f := by
  unfold CoreSt.heldLine CoreSt.mapHeld
  have same : ((fun x : HeldLine => x.ctx == c && x.line == l) ∘ fun x => if x.ctx == c && x.line == l then f x else x) =
      fun x => x.ctx == c && x.line == l := by
    funext x
    dsimp only [Function.comp]
    split
    · rw [(place x).1, (place x).2]
    · rfl
  rw [List.find?_map, same]
  cases found : k.held.find? fun x => x.ctx == c && x.line == l with
  | none => rfl
  | some x => exact congrArg some (if_pos (List.find?_some found :))

/-- A held line that leaves an L1 is gone, or pinned; the clean copies stay. -/
theorem evictHeld_core (found : (s.core core).heldLine c l = some h) :
    ((evictHeld s core h).core core).clean = (s.core core).clean ∧
      ∀ x, ((evictHeld s core h).core core).heldLine c l = some x → x.pinned = true := by
  obtain ⟨-, rfl, rfl⟩ := CoreSt.of_heldLine found
  have dropped {t : State} {k : CoreSt} (clean : k.clean = (s.core core).clean)
      (gone : t.core core = k.dropHeld h.ctx h.line) : (t.core core).clean = (s.core core).clean ∧
        ∀ x, (t.core core).heldLine h.ctx h.line = some x → x.pinned = true := by
    rw [gone]
    refine ⟨clean, fun x some_ => ?_⟩
    rw [k.heldLine_dropHeld_self] at some_
    cases some_
  have lines := translate_lines (s := s) (core := core) (c := h.ctx) (va := BitVec.ofNat 64 (h.line * 128)) (n := .store) core
  have held := congrArg Prod.fst lines
  have clean := congrArg Prod.snd lines
  have here : ((translate s core h.ctx (BitVec.ofNat 64 (h.line * 128)) .store).1.core core).heldLine h.ctx h.line =
      some h := by
    rw [← found]
    exact congrArg (List.find? _) held
  unfold evictHeld
  split
  · next bound => exact dropped rfl (writeBackOne_core bound)
  · unfold bindLine
    cases walk : translate s core h.ctx (BitVec.ofNat 64 (h.line * 128)) .store with
    | mk v r =>
      rw [walk] at clean here
      cases r with
      | error f =>
        refine ⟨?_, fun x some_ => ?_⟩
        · rw [State.core_modCore_self rfl]
          exact clean
        · rw [State.core_modCore_self rfl] at some_
          have pinned := (v.core core).heldLine_mapHeld (c := h.ctx) (l := h.line) (f := fun x => { x with pinned := true })
            fun _ => ⟨rfl, rfl⟩
          rw [here] at pinned
          obtain rfl := Option.some.inj (some_.symm.trans pinned)
          rfl
      | ok r =>
        obtain ⟨pa, e⟩ := r
        dsimp only
        by_cases hbm : physKind pa = .hbm
        · rw [if_pos hbm]
          have bound : ((v.modCore core (·.mapHeld h.ctx h.line fun x =>
              { x with bound := some (lineOf pa), pinned := false, low := e.low })).core core).heldLine h.ctx h.line =
              some { h with bound := some (lineOf pa), pinned := false, low := e.low } := by
            rw [State.core_modCore_self rfl, CoreSt.heldLine_mapHeld, here]
            · rfl
            · exact fun _ => ⟨rfl, rfl⟩
          unfold CoreSt.mapHeld at bound
          dsimp only
          rw [bound]
          refine dropped (k := _) ?_ (writeBackOne_core rfl)
          rw [State.core_modCore_self rfl]
          exact clean
        · rw [if_neg hbm]
          dsimp only
          rw [State.leaveHeld_core, CoreSt.heldLine_dropHeld_self]
          exact dropped clean State.leaveHeld_core

/-! ### A line is flushed once -/

theorem State.modCore_id {f : CoreSt → CoreSt} (same : f (s.core core) = s.core core) : s.modCore core f = s := by
  unfold State.core at same
  unfold State.modCore modVec
  split
  · next here =>
    rw [dif_pos here] at same
    rw [same, Vector.set_getElem_self]
  · rfl

variable {va : Word}

/-- After a flush the core holds no clean copy of the line, and no written bytes of it but of a pinned line. -/
theorem flushLine_core (s : State) (core : Nat) (c : BitVec 6) (va : Word) :
    ((flushLine s core c va).core core).clean =
        (s.core core).clean.filter (fun h => !(h.ctx == c && h.line == va.toNat / 128)) ∧
      ∀ x, ((flushLine s core c va).core core).heldLine c (va.toNat / 128) = some x → x.pinned = true := by
  have clean : ((s.modCore core (·.dropClean c (va.toNat / 128))).core core).clean =
      (s.core core).clean.filter (fun h => !(h.ctx == c && h.line == va.toNat / 128)) := by
    rw [State.core_modCore_self rfl]
    rfl
  have held : ((s.modCore core (·.dropClean c (va.toNat / 128))).core core).heldLine c (va.toNat / 128) =
      (s.core core).heldLine c (va.toNat / 128) := by
    rw [State.core_modCore_self rfl]
    rfl
  cases found : (s.core core).heldLine c (va.toNat / 128) with
  | none =>
    rw [flushLine_none found]
    exact ⟨clean, fun x some_ => nomatch (held.trans found).symm.trans some_⟩
  | some h =>
    rw [flushLine_some found]
    split
    · next pinned =>
      refine ⟨clean, fun x some_ => ?_⟩
      obtain rfl := Option.some.inj ((held.trans found).symm.trans some_)
      exact pinned
    · obtain ⟨kept, pinned⟩ := evictHeld_core (held.trans found)
      exact ⟨kept.trans clean, pinned⟩

theorem flushLine_flushLine (s : State) (core : Nat) (c : BitVec 6) (va : Word) :
    flushLine (flushLine s core c va) core c va = flushLine s core c va := by
  obtain ⟨clean, pinned⟩ := flushLine_core s core c va
  have same : (flushLine s core c va).modCore core (·.dropClean c (va.toNat / 128)) = flushLine s core c va := by
    refine State.modCore_id ?_
    unfold CoreSt.dropClean
    rw [clean, List.filter_filter]
    simp only [Bool.and_self]
    rw [← clean]
  cases found : ((flushLine s core c va).core core).heldLine c (va.toNat / 128) with
  | none => rw [flushLine_none found, same]
  | some x => rw [flushLine_some found, if_pos (pinned x found), same]

end evict

end Sys2Proof.Machine
end

section
/-! What one store changes (O26), a lemma per place of the store. -/

namespace Sys2Proof.Machine

variable {s : State} {core : Nat} {c : BitVec 6} {team : Nat} {who : List (Nat × Nat × Nat)} {src : Nat} {bs : List Byte}
  {pa : Nat} {va : Word} {e : TlbEntry} {h : HeldLine} {l : Nat}

/-- The stored bytes of a scratchpad. -/
theorem storeLoc_scratch_bytes {off : Nat} (here : team < s.teams.length) (wf : (s.team team).scratch.wf = true) (a : Nat) :
    ((storeLoc s core c team who src (.scratch off) bs).team team).scratch.get a =
      if off ≤ a ∧ a < off + bs.length then bs.getD (a - off) 0 else (s.team team).scratch.get a := by
  refine (congrArg (Mem.get · a) (State.scratchWrite_scratch off src bs team)).trans ?_
  rw [State.team_modTeam, if_pos ⟨rfl, here⟩]
  exact Mem.get_write off bs a wf

/-- A store through a page that the L1 holds, into lines none of which is bound. -/
theorem storeLoc_held (here : core < 288) (hbm : physKind pa = .hbm) (cached : e.cache ≠ 1)
    (page : va.toNat % 65536 + bs.length ≤ 65536) (free : ∀ h ∈ (s.core core).held, h.ctx = c → va.toNat / 128 ≤ h.line →
      h.line * 128 < va.toNat + bs.length → h.bound = none) :
    HeldStore s (storeLoc s core c team who src (.mem [(pa, bs.length, va, e)]) bs) core c va.toNat bs := by
  have size := va.isLt
  rw [storeLoc_one, writePiece_held _ hbm cached, List.take_length]
  exact foldl_holdBytes here (by omega) (by omega) free

/-- A store into one line of the L1. -/
theorem storeLoc_held_line (hbm : physKind pa = .hbm) (cached : e.cache ≠ 1) (some_ : bs ≠ [])
    (fits : va.toNat % 128 + bs.length ≤ 128) :
    storeLoc s core c team who src (.mem [(pa, bs.length, va, e)]) bs = holdBytes s core c va bs who src := by
  rw [storeLoc_one, writePiece_held _ hbm cached, List.take_length, lineParts_one _ some_ fits, List.foldl_cons,
    List.foldl_nil, BitVec.ofNat_toNat, BitVec.setWidth_eq]

/-- A store into a bound line comes after its write-back. -/
theorem storeLoc_bound (hbm : physKind pa = .hbm) (cached : e.cache ≠ 1) (fits : va.toNat % 128 + bs.length ≤ 128)
    (some_ : bs ≠ []) (found : (s.core core).heldLine c (va.toNat / 128) = some h) (bound : h.bound = some l) :
    storeLoc s core c team who src (.mem [(pa, bs.length, va, e)]) bs =
      storeLoc (writeBackOne s core h) core c team who src (.mem [(pa, bs.length, va, e)]) bs := by
  have gone : ((writeBackOne s core h).core core).heldLine c (va.toNat / 128) = none := by
    obtain ⟨-, ctx, line⟩ := CoreSt.of_heldLine found
    rw [writeBackOne_core bound, ctx, line, CoreSt.heldLine_dropHeld_self]
  rw [storeLoc_held_line hbm cached some_ fits, storeLoc_held_line hbm cached some_ fits, holdBytes_some found,
    holdBytes_none gone]

/-- A store that bypasses the L1 flushes the core's line first. -/
theorem storeLoc_flushLine (hbm : physKind pa = .hbm) (bypass : e.cache = 1) (some_ : bs ≠ [])
    (fits : pa % 128 + bs.length ≤ 128) : storeLoc s core c team who src (.mem [(pa, bs.length, va, e)]) bs =
      storeLoc (flushLine s core c va) core c team who src (.mem [(pa, bs.length, va, e)]) bs := by
  rw [storeLoc_bypass_line hbm bypass some_ fits, storeLoc_bypass_line hbm bypass some_ fits]
  unfold storePart
  rw [flushLine_flushLine]

theorem writePiece_take (p : Nat × Nat × Word × TlbEntry) :
    writePiece s core c who src p (bs.take p.2.1) = writePiece s core c who src p bs := by
  obtain ⟨pa, n, va, e⟩ := p
  unfold writePiece
  dsimp only
  rw [List.take_take, Nat.min_self]

/-- A store over several pages is a store into each. -/
theorem storeLoc_cons (p : Nat × Nat × Word × TlbEntry) (ps : List (Nat × Nat × Word × TlbEntry)) :
    storeLoc s core c team who src (.mem (p :: ps)) bs = storeLoc (storeLoc s core c team who src (.mem [p])
      (bs.take p.2.1)) core c team who src (.mem ps) (bs.drop p.2.1) := by
  rw [storeLoc_one, writePiece_take]
  rfl

theorem toNat_add_ofNat {i n : Nat} (fits : va.toNat % 65536 + n ≤ 65536) (hi : i < n) :
    (va + BitVec.ofNat 64 i).toNat = va.toNat + i := by
  have size := va.isLt
  rw [BitVec.toNat_add, BitVec.toNat_ofNat, Nat.mod_eq_of_lt (by omega : i < 2 ^ 64), Nat.mod_eq_of_lt (by omega)]

/-- Settles O26: a lemma for every place of a store. -/
theorem storeFrame : Obligations.StoreFrame := by
  unfold Obligations.StoreFrame
  intro s g core c who src bs
  refine ⟨fun off here wf => ⟨storeLoc_scratch_bytes here wf, fun unseen => ?_, fun word aligned falls watched =>
      scratchWrite_falls word aligned rfl falls watched⟩,
    fun pa va e here hbm cached page free => ?_,
    fun pa va e h l hbm cached fits some_ found bound => storeLoc_bound hbm cached fits some_ found bound,
    fun h l bound sound wf rises => writeBackOne_bytes bound sound wf rises,
    fun pa va e wf hbm bypass some_ fits free => ?_,
    fun pa va e h hbm bypass some_ fits found => ?_,
    storeLoc_cons,
    fun pa va e bypass hbm crosses => storeLoc_two_lines bypass hbm crosses,
    fun n pa va e ps hbm => ?_⟩
  case refine_1 =>
    have frame := scratchWrite_unseen (src := src) unseen
    exact ⟨frame.device, frame.other⟩
  case refine_2 =>
    have store := storeLoc_held (team := g.t) (who := who) (src := src) here hbm cached page free
    have device := store.device
    refine ⟨(congrArg State.mem device :), (congrArg State.teams device :), (congrArg State.slices device :),
      (congrArg State.ctxs device :), store.other, fun i hi p => ?_, store.line, store.ctx⟩
    have at_ := toNat_add_ofNat page hi
    rw [store.stored _ p (by omega) (by omega), at_, Nat.add_sub_cancel_left]
  case refine_3 =>
    dsimp only
    rw [storeLoc_bypass_line hbm bypass some_ fits]
    exact ⟨fun clears unseen => storePart_sound free wf some_ clears unseen,
      fun poisoned part => storePart_poisoned free poisoned part⟩
  case refine_4 =>
    dsimp only
    rw [← flushLine_some found]
    exact storeLoc_flushLine hbm bypass some_ fits
  case refine_5 =>
    refine ⟨?_, fun wf unseen => ?_⟩
    · rw [zeroLine_hbm hbm]
      exact State.lineState_setLine _ _
    · obtain ⟨bytes, clear, ctxs, others, dropped⟩ := zeroLine_unseen (n := n) (va := va) (e := e) (ps := ps) hbm wf unseen
      refine ⟨bytes, clear, fun a p here at_ => ?_, fun a p other away => ?_, ctxs, others⟩
      · exact ((viewByte_dropLine dropped p).1 here).trans ((bytes p).trans (if_pos at_))
      · exact (viewByte_dropLine dropped p).2 other ((bytes p).trans (if_neg away))

end Sys2Proof.Machine
end

section
/-! SUPPORT. What a page-table walk reads (R149, R159, R438): it changes nothing but what a read may change. -/

namespace Sys2Proof.Machine

variable {s t u : State} {c : BitVec 6} {va : Word}

/-! ### Reads compose -/

theorem ReadOnly.refl (s : State) : ReadOnly s s where
  device := rfl
  requests := ⟨[], rfl, by simp⟩
  sent := ⟨[], rfl, by simp⟩
  core _ := rfl
  slice _ := rfl

theorem ReadOnly.trans (first : ReadOnly s t) (second : ReadOnly t u) : ReadOnly s u where
  device := by rw [second.device, first.device]
  requests := by
    obtain ⟨l, more, walk⟩ := first.requests
    obtain ⟨l', more', walk'⟩ := second.requests
    exact ⟨l' ++ l, by rw [more', more, List.append_assoc], fun r hr => (List.mem_append.mp hr).elim (walk' r) (walk r)⟩
  sent := by
    obtain ⟨l, more, read⟩ := first.sent
    obtain ⟨l', more', read'⟩ := second.sent
    exact ⟨l' ++ l, by rw [more', more, List.append_assoc], fun x hx => (List.mem_append.mp hx).elim (read' x) (read x)⟩
  core k := by rw [second.core, first.core]
  slice n := by rw [second.slice, first.slice]

theorem ReadOnly.foldl {α : Type} {f : State → α → State} (reads : ∀ s a, ReadOnly s (f s a)) (l : List α) (s : State) :
    ReadOnly s (l.foldl f s) := by
  induction l generalizing s with
  | nil => exact .refl s
  | cons a l ih => exact (reads s a).trans (ih (f s a))

theorem ReadOnly.bumpFree (s : State) : ReadOnly s s.bumpFree := { ReadOnly.refl s with device := rfl }

/-! ### The reads of a walk -/

theorem Slice.useLine_frame (y : Slice) (ways : BitVec 16) (line : Nat) (st : LineState) (writer : BitVec 6) :
    y.useLine ways line st writer = { y with lines := (y.useLine ways line st writer).lines } := by
  unfold Slice.useLine
  dsimp only
  split <;> rfl

theorem ReadOnly.setLine (s : State) (line : Nat) (st : LineState) (c : BitVec 6) : ReadOnly s (s.setLine line st c) :=
  { ReadOnly.refl s with
    device := rfl
    slice := fun n => by
      unfold State.setLine
      rw [State.sliceAt_modSlice]
      split
      · exact Slice.useLine_frame ..
      · rfl }

theorem ReadOnly.touchLine (s : State) (line : Nat) (c : BitVec 6) : ReadOnly s (s.touchLine line c) := by
  unfold State.touchLine
  split <;> exact ReadOnly.setLine ..

/-- A request of the walkers for a table entry is one that a read may send (R438). -/
theorem ReadOnly.sendRemote (s : State) (c : BitVec 6) (w off : Nat) (va : Word) :
    ReadOnly s (sendRemote s c w off (.engine walkerCore 0 0) va (.read 16)).1 := by
  unfold Machine.sendRemote
  dsimp only
  split
  · exact .refl s
  · exact { ReadOnly.refl s with
      device := rfl
      requests := ⟨[_], rfl, by simp [Request.ofWalk]⟩
      sent := ⟨[_], rfl, by simp⟩ }

theorem ReadOnly.touchEntry (s : State) (c : BitVec 6) (va : Word) (pa : Nat) : ReadOnly s (s.touchEntry c va pa) := by
  unfold State.touchEntry
  split
  · exact .touchLine ..
  · exact .bumpFree s
  · exact (ReadOnly.sendRemote ..).trans (.bumpFree _)
  · exact .refl s

theorem ReadOnly.touchWalk (s : State) (c : BitVec 6) (va : Word) : ReadOnly s (s.touchWalk c va) := by
  unfold State.touchWalk
  split
  · exact .foldl (fun s a => .touchEntry s c va a) _ s
  · exact .refl s

end Sys2Proof.Machine
end

section
/-! Events of the translation caches, the L1 and the home slices (O47; R149, R154, R156, R159, R160, R162, R177, R180): when
each event acts, and what it does. -/

namespace Sys2Proof.Machine

variable {s u : State} {core line : Nat} {c : BitVec 6} {va : Word}

/-! ### Translations (R149, R154, R162) -/

theorem State.logFault_none {f : TFault} (e : LogEntry) (silent : f.code = none) : s.logFault c f e = s := by
  unfold State.logFault
  rw [silent]

theorem State.logFault_some {f : TFault} {code : Nat} (e : LogEntry) (logs : f.code = some code) :
    s.logFault c f e = s.log c { e with code := code, detail := 0, source := f.source e.source } := by
  unfold State.logFault
  rw [logs]

/-- A walk is made for a live context whose page the core has not cached. -/
theorem exec_pageTableWalk_of_missing (live : (s.ctx c).phase.live = true)
    (missing : ∀ e ∈ (s.core core).tlb, e.covers c va = false) :
    (∀ e, walkTable s c va = .ok e → exec (.pageTableWalk core c va) s =
      .next ((s.touchWalk c va).modCore core fun k => { k with tlb := tlbInsert e k.tlb })) ∧
    ∀ f, walkTable s c va = .error f → exec (.pageTableWalk core c va) s =
      .next ((s.touchWalk c va).logFault c f { LogEntry.plain 0 1 0 va with core := core }) := by
  have walks : ((s.ctx c).phase.live && !(s.core core).tlb.any fun e => e.covers c va) = true := by
    simpa [live] using missing
  simp only [exec_pageTableWalk, execPageTableWalk, if_pos walks]
  exact ⟨fun e ok => by rw [ok], fun f fails => by rw [fails]⟩

/-- No other walk is made. -/
theorem exec_pageTableWalk_of_idle (idle : (s.ctx c).phase.live = false ∨ ∃ e ∈ (s.core core).tlb, e.covers c va = true) :
    exec (.pageTableWalk core c va) s = .next s := by
  have none_ : ¬ ((s.ctx c).phase.live && !(s.core core).tlb.any fun e => e.covers c va) = true := by
    rcases idle with dead | cached
    · simp [dead]
    · simpa using fun _ => cached
  rw [exec_pageTableWalk, execPageTableWalk, if_neg none_]

/-- A check that passes verifies its page, and the waits for the page end. -/
theorem exec_codeHashCheckComplete_of_passes {e : TlbEntry}
    (checks : { ctx := c, base := va.toNat / 65536 * 65536 } ∈ (s.core core).checks)
    (found : ((s.core core).tlb.find? fun e => e.ctx == c && e.base == va.toNat / 65536 * 65536) = some e)
    (passes : pageChecks s c e = (u, true)) : exec (.codeHashCheckComplete core c va) s =
      .next ((u.verifyPage core c (va.toNat / 65536 * 65536)).wakePage core c (va.toNat / 65536 * 65536)) := by
  have waits : ((s.core core).checks.any fun x => x.ctx == c && x.base == va.toNat / 65536 * 65536) = true :=
    List.any_eq_true.mpr ⟨_, checks, by simp⟩
  simp only [exec_codeHashCheckComplete, execCodeHashCheckComplete, if_pos waits, found, passes]

/-! ### Lines of an L1 (R177, R184) -/

/-- The core without its clean copies of a line, of data and of code. -/
def CoreSt.dropCopies (k : CoreSt) (c : BitVec 6) (line : Nat) : CoreSt :=
  { k with
    clean := k.clean.filter fun h => !(h.ctx == c && h.line == line)
    ilines := k.ilines.filter fun h => !(h.ctx == c && h.line == line) }

/-- The copies of a line are no written bytes. -/
theorem State.heldLine_dropCopies (s : State) (core : Nat) (c : BitVec 6) (line : Nat) :
    ((s.modCore core (·.dropCopies c line)).core core).heldLine c line = (s.core core).heldLine c line := by
  rw [State.core_modCore_self rfl]
  rfl

theorem exec_l1LineEviction_elim (s : State) (core : Nat) (c : BitVec 6) (va : Word) :
    exec (.l1LineEviction core c va) s =
      let v := s.modCore core (·.dropCopies c (va.toNat / 128))
      .next (((s.core core).heldLine c (va.toNat / 128)).elim v fun h =>
        if h.pinned = true then v else evictHeld v core h) := by
  rw [← s.heldLine_dropCopies, exec_l1LineEviction, execL1LineEviction]
  extract_lets l v
  change _ = Host.Outcome.next (((v.core core).heldLine c l).elim v fun h =>
    if h.pinned = true then v else evictHeld v core h)
  cases (v.core core).heldLine c l <;> rfl

theorem evictHeld_of_bound {h : HeldLine} {b : Nat} (bound : h.bound = some b) :
    evictHeld s core h = writeBackOne s core h := by
  unfold evictHeld
  rw [bound]

theorem evictHeld_of_binds {h x : HeldLine} {b : Nat} (unbound : h.bound = none) (binds : bindLine s core h = (u, .ok b))
    (held : (u.core core).heldLine h.ctx h.line = some x) :
    evictHeld s core h = writeBackOne u core { x with bound := some b } := by
  unfold evictHeld
  rw [unbound, binds]
  dsimp only
  rw [held]

theorem evictHeld_of_fails {h : HeldLine} {f : TFault} (unbound : h.bound = none)
    (fails : bindLine s core h = (u, .error f)) :
    evictHeld s core h = u.modCore core (·.mapHeld h.ctx h.line fun x => { x with pinned := true }) := by
  unfold evictHeld
  rw [unbound, fails]
  rfl

/-! ### Lines of a home slice (R159, R160) -/

theorem State.lineState_dropLine (s : State) (line n : Nat) :
    (s.modSlice (homeSlice (line * 128)) fun y => { y with lines := y.lines.filter fun l => l.line != line }).lineState n =
      if n = line then none else s.lineState n := by
  unfold State.lineState
  rw [State.sliceAt_modSlice]
  by_cases same : n = line
  · subst same
    rw [if_pos ⟨rfl, homeSlice_lt _⟩, if_pos rfl, Option.map_eq_none_iff, List.find?_eq_none]
    intro x hx
    simpa using (List.mem_filter.mp hx).2
  · rw [if_neg same]
    split
    · have kept : (fun x : Line => decide ((x.line != line) = true ∧ (x.line == n) = true)) = fun x => x.line == n := by
        funext x
        rw [Bool.eq_iff_iff]
        simp only [decide_eq_true_eq, bne_iff_ne, beq_iff_eq]
        exact ⟨And.right, fun here => ⟨fun e => same (here ▸ e), here⟩⟩
      dsimp only
      rw [List.find?_filter, kept]
    · rfl

theorem mem_insertNat (n x : Nat) (l : List Nat) : n ∈ insertNat x l ↔ n = x ∨ n ∈ l := by
  induction l with
  | nil => rw [insertNat, List.mem_singleton]; simp
  | cons y l ih =>
    unfold insertNat
    split
    · rw [List.mem_cons]
    · split
      · next same => subst same; simp
      · rw [List.mem_cons, ih, List.mem_cons]
        exact or_left_comm

theorem State.isPoisoned_insertNat (s : State) (line n : Nat) :
    ({ s with poisoned := insertNat line s.poisoned } : State).isPoisoned n = (decide (n = line) || s.isPoisoned n) := by
  rw [Bool.eq_iff_iff]
  simp [State.isPoisoned, mem_insertNat]

/-! ### The acknowledgement of a promotion (R180) -/

/-- What the acknowledgement leaves of a wait for the write-backs of lines. -/
theorem Quad.promoted_wait {q : Quad} {lines reqs : List Nat} {len : Option Nat} (waits : q.wait = .promote lines reqs len) :
    (q.promoted line).wait = if lines.filter (· != line) = [] ∧ reqs = [] then
      len.elim .ready .interlock else .promote (lines.filter (· != line)) reqs len := by
  unfold Quad.promoted Quad.stillAwaits
  rw [waits]
  dsimp only
  simp only [Bool.and_eq_true, List.isEmpty_iff]
  split
  · cases len <;> rfl
  · rfl

/-- A wave whose quads learn of the acknowledgement, when it runs on the core. -/
def Wave.promoted (w : Wave) (core line : Nat) : Wave :=
  if w.core = core then { w with quads := w.quads.map (·.promoted line) } else w

theorem Wave.quad_promoted {w : Wave} (here : w.core = core) (n : Nat) :
    (w.promoted core line).quad n = (w.quad n).promoted line := by
  unfold Wave.promoted Wave.quad
  rw [if_pos here]
  exact List.getD_map (d := Quad.start) ..

/-- Every quad on the core after the acknowledgement. -/
theorem State.quad_promoted {i w : Nat} (here : (s.wave i w).core = core) (n : Nat) :
    ({ s with teams := s.teams.map fun t => { t with waves := t.waves.map (·.promoted core line) } } : State).quad i w n =
      (s.quad i w n).promoted line := by
  have blank : Wave.blank.promoted core line = Wave.blank := by
    unfold Wave.promoted
    split <;> rfl
  have team : ({ s with teams := s.teams.map fun t => { t with waves := t.waves.map (·.promoted core line) } } : State).team i =
      { s.team i with waves := (s.team i).waves.map (·.promoted core line) } :=
    List.getD_map (d := Team.blank) ..
  have wave : ((s.team i).waves.map (·.promoted core line)).getD w Wave.blank = (s.wave i w).promoted core line :=
    (congrArg _ blank.symm).trans (List.getD_map (f := (Wave.promoted · core line)) ..)
  unfold State.quad
  rw [← Wave.quad_promoted here, ← wave]
  unfold State.wave
  rw [team]
  rfl

theorem exec_promotionWritebackAck_of_promoting {d : BitVec 6} {ds : List (BitVec 6)} (acks : s.promoting core line = d :: ds)
    {v : State} (drops : (d :: ds).foldl (fun s c => acquireDrop s core line c) (promoteLine s core line) = v) :
    exec (.promotionWritebackAck core line) s =
      .next { v with teams := v.teams.map fun t => { t with waves := t.waves.map (·.promoted core line) } } := by
  rw [exec_promotionWritebackAck, execPromotionWritebackAck, acks, ← drops]
  rfl

/-! ### The events -/

/-- Settles O47: one lemma per event and case. -/
theorem cacheEvents : Obligations.CacheEvents := by
  unfold Obligations.CacheEvents
  intro s u core line c va
  refine ⟨⟨_, rfl, rfl, fun d other => State.core_modCore_other other, State.core_modCore_self rfl⟩,
    .touchWalk s c va, core_of_cores State.touchWalk_cores, fun live missing => ?walk, exec_pageTableWalk_of_idle,
    fun e => exec_codeHashCheckComplete_of_passes, fun unheld => ?unheld, fun h _ held => ?held, ?dropped, fun hbm => ?poisoned,
    fun outside => ?unpoisoned, fun idle => ?idle, fun d ds acks => ?acks⟩
  case walk =>
    obtain ⟨ok, fails⟩ := exec_pageTableWalk_of_missing live missing
    refine ⟨ok, fun f fault silent => ?_, fun f code fault logs => ?_⟩
    · rw [fails f fault, State.logFault_none _ silent]
    · rw [fails f fault, State.logFault_some _ logs]
      rfl
  case unheld =>
    rw [exec_l1LineEviction_elim, unheld]
    exact ⟨_, rfl, rfl, fun d other => State.core_modCore_other other, State.core_modCore_self rfl⟩
  case held =>
    have evicts := exec_l1LineEviction_elim s core c va
    rw [held] at evicts
    have unpinned (free : h.pinned = false) := evicts.trans (congrArg Host.Outcome.next (if_neg (by simp [free])))
    refine ⟨fun pinned => evicts.trans (congrArg Host.Outcome.next (if_pos pinned)), fun b free bound => ?_,
      fun b x free unbound binds here => ?_, fun f free unbound fails => ?_⟩
    · exact (unpinned free).trans (congrArg Host.Outcome.next (evictHeld_of_bound bound))
    · exact (unpinned free).trans (congrArg Host.Outcome.next (evictHeld_of_binds unbound binds here))
    · exact (unpinned free).trans (congrArg Host.Outcome.next (evictHeld_of_fails unbound fails))
  case dropped =>
    exact ⟨_, rfl, rfl, (s.lineState_dropLine line line).trans (if_pos rfl),
      fun n other => (s.lineState_dropLine line n).trans (if_neg other)⟩
  case poisoned =>
    refine ⟨_, congrArg Host.Outcome.next (if_pos hbm), rfl, ?_, fun n other => ?_⟩
    · simp [State.isPoisoned_insertNat]
    · simp [State.isPoisoned_insertNat, other]
  case unpoisoned => exact congrArg Host.Outcome.next (if_neg (Nat.not_lt.mpr outside))
  case idle => rw [exec_promotionWritebackAck, execPromotionWritebackAck, idle]
  case acks =>
    refine ⟨_, exec_promotionWritebackAck_of_promoting acks rfl, rfl, fun i w n lines reqs len here waits => ?_⟩
    rw [State.quad_promoted here, Quad.promoted_wait waits]
    cases len <;> rfl

end Sys2Proof.Machine
end

section
/-! Returning atomics at issue (O28; R356, R364, R347, R367, R276, R169): a gang whose atomics nothing holds back performs
them in the state that their release leads to, and every quad sends its own off. -/

namespace Sys2Proof.Machine

variable {s s1 u v w x : State} {g : GangRef}

/-! ### A long-latency instruction is sent off -/

theorem Quad.issueLong_eq_sendsOff (q : Quad) (id len : Nat) (flag : Option (BitVec 4)) (l : Later) :
    q.issueLong id len flag l = q.sendsOff len (l.pend id flag) := by
  cases flag <;> rfl

theorem Quad.issueLong_inHandler (q : Quad) (id len : Nat) (flag : Option (BitVec 4)) (l : Later) :
    (q.issueLong id len flag l).inHandler = q.inHandler := by
  cases flag <;> rfl

/-- A long-latency instruction that issues is noted in every quad of its gang (R276, R277). -/
theorem issueLong_effect (s : State) (g : GangRef) (len cost id : Nat) (flag : Option (BitVec 4)) (later : Nat → Later) :
    Effect s (s.issueLong g len cost id flag later) g (dogNext s g) (s.waveOf g).fusest (dogHits s g) fun n q =>
      q.sendsOff len ((later n).pend id flag) :=
  (issue_effect s g cost _ fun n q => q.issueLong_inHandler id len flag (later n)).congr fun _ _ =>
    Quad.issueLong_eq_sendsOff ..

/-- `cget.team` sends off the team counter as it stands (R367). -/
theorem execCgetTeam_completes {sd : SReg} (issues : s.issuing = some g)
    (free : flagFull s g (scalarFlag (s.leader g).clause) = false) :
    CompletesFrom (.cgetTeam sd) s g s.bumpId fun _ q => q.sendsOff 1
      ((Later.ofWrites [.s sd.toNat (s.teamOf g).counter]).pend s.nextId (scalarFlag (s.leader g).clause)) :=
  ⟨_, (withGang_next issues _).trans (congrArg Host.Outcome.next (if_neg (by simp [free]))), issueLong_effect ..⟩

/-! ### The atomics of a gang -/

/-- The release steps of a form that releases can be taken at once, whatever source they log; the other forms have none. -/
theorem maybeReleasing_released {rel : Bool} (released : if rel then ReleaseNow s1 g v u else u = s1) (src : TrapSrc)
    (k : State → State) : s1.maybeReleasing g rel src k = k u := by
  cases rel with
  | false => exact congrArg k (Eq.symm released)
  | true => exact ReleaseNow.releasing released src k

/-- The state in which the atomics of a form take place: a vector form has counted its bank conflicts (R363). -/
def LoadForm.counted (form : LoadForm) (w : State) (g : GangRef) (reqs : List AtomReq) (locs : List Loc) : State :=
  if form.bank then w.bankCount g (scratchOf (reqs.map (·.ask)) locs) else w

theorem LoadForm.counted_nextId (form : LoadForm) (reqs : List AtomReq) (locs : List Loc) :
    (form.counted w g reqs locs).nextId = w.nextId := by
  unfold LoadForm.counted
  split <;> rfl

/-- Places beyond those of the first addresses belong to no atomic. -/
theorem zip_take_length {α β : Type} (l : List α) (m : List β) : l.zip (m.take l.length) = l.zip m := by
  induction l generalizing m with
  | nil => rfl
  | cons a l ih =>
    cases m with
    | nil => rfl
    | cons b m => exact congrArg ((a, b) :: ·) (ih m)

theorem LoadForm.counted_take (form : LoadForm) (reqs : List AtomReq) (locs : List Loc) :
    form.counted w g reqs (locs.take reqs.length) = form.counted w g reqs locs := by
  unfold LoadForm.counted scratchOf
  have places := zip_take_length (reqs.map (·.ask)) locs
  rw [List.length_map] at places
  rw [places]

/-- What an issue of atomics that have been performed leaves: each quad has sent its own off, and the gang acquires where
the form does. -/
def State.sendAtoms (x : State) (g : GangRef) (form : LoadForm) (ord : MemOrd) (id : Nat) (ls : List (Nat × Later))
    (items : List (AtomReq × Loc)) : State :=
  let t := x.issueLong g form.len form.cost id form.flag fun n => lookupD ls n Later.empty
  if ord.acquires then t.acquire g.t g.w (t.live g) ((acquiresOf items).map (·.at_)) else t

section atoms
variable {form : LoadForm} {ord : MemOrd} {reqs : List AtomReq} {locs : List Loc} {ls : List (Nat × Later)}
  (free : flagFull s g form.flag = false)
  (passed : checkAsks s g (reqs.map (·.ask) ++ reqs.flatMap (·.more)) = (s1, locs, []))
  (released : if ord.releases then ReleaseNow s1 g v u else u = s1)
  (scope : ord.acquires = true → ∀ a ∈ acquiresOf (reqs.zip locs), a.fails u (u.coreOf g) = false)
  (ordered : u.orderAll (u.ctxOf g) (orderOps u (u.coreOf g) ((reqs.zip locs).map (·.2))) = .ok w)
  (performed : atomAll (form.counted w g reqs locs).bumpId g form.src ord w.nextId form.flag [] (reqs.zip locs) = (x, ls))

include released scope ordered performed in
/-- Nothing that comes before the atomics holds the gang back (R169, R178, R181). -/
theorem atomBody_performs : atomBody s1 g form ord reqs locs = x.sendAtoms g form ord w.nextId ls (reqs.zip locs) := by
  have pass (k : State → State) :
      u.scopeChecked g (if ord.acquires then acquiresOf (reqs.zip locs) else []) form.src k = k u := by
    refine scopeChecked_pass (fun a ha => ?_) k
    split at ha
    · next acquires => exact scope acquires a ha
    · cases ha
  have id := form.counted_nextId (w := w) (g := g) reqs locs
  unfold LoadForm.counted at performed id
  unfold atomBody
  simp only [maybeReleasing_released released, pass, ordered, id, performed]
  rfl

include free passed released scope ordered performed

/-- Atomics that check one address each are performed. -/
theorem gangAtomic_performs (single : ∀ a ∈ reqs, a.more = []) :
    gangAtomic s g form ord reqs = x.sendAtoms g form ord w.nextId ls (reqs.zip locs) := by
  have asks : reqs.map (·.ask) ++ reqs.flatMap (·.more) = reqs.map (·.ask) := by
    rw [List.flatMap_eq_nil_iff.mpr single, List.append_nil]
  rw [asks] at passed
  unfold gangAtomic State.checked
  rw [if_neg (by simp [free]), passed]
  exact atomBody_performs released scope ordered performed

/-- Atomics that check further addresses are performed at the places of their own. -/
theorem gangAtomicLow_performs (plain : ord = .none) :
    gangAtomicLow s g form reqs = x.sendAtoms g form ord w.nextId ls (reqs.zip locs) := by
  subst plain
  unfold gangAtomicLow State.checkedLow
  rw [if_neg (by simp [free]), passed]
  rw [← zip_take_length reqs locs] at scope ordered performed ⊢
  rw [← form.counted_take] at performed
  exact atomBody_performs released scope ordered performed

end atoms

/-! ### The instructions -/

/-- A lane instruction that may run at once has its effect with the flag that it selects. -/
theorem laneStep_selected {o : LaneOp} {opnds : List Opnd} {f : Option (BitVec 4)} (ready : LaneReady s g o opnds)
    (selected : laneFlag (s.leader g).clause o.flag = some f) (body : Option (BitVec 4) → State → GangRef → State) :
    laneStep s o opnds body = .next (body f s g) := by
  obtain ⟨_, other, next⟩ := laneStep_next ready body
  cases selected.symm.trans other
  exact next

/-- Settles O28: every form but `cget.team` issues the atomics that its quads or lanes name (`gangAtomic_performs`,
`gangAtomicLow_performs`), and what each quad is given goes off with it (`issueLong_effect`). -/
theorem atomicsIssue : Obligations.AtomicsIssue := by
  intro s s1 v u w x g locs ls sd sa sb ord o ty m off f live lanes atoms scalar counter vector span appends sflag
  have perform {i : Instr} {form : LoadForm} {ord : MemOrd} {α : Type} {l : List α} {req : α → AtomReq}
      (does : exec i s = .next (gangAtomic s g form ord (l.map req))) (single : ∀ a, (req a).more = []) :
      atoms i form.len form.src form.flag ord form.bank (l.map req) := by
    intro free passed released scope ordered z performed
    have sent := gangAtomic_performs free passed released scope ordered performed
      (List.forall_mem_map.mpr fun a _ => single a)
    exact ⟨_, does.trans (congrArg Host.Outcome.next sent), issueLong_effect ..⟩
  refine ⟨fun issues => ?scalar, fun selected ready => ?vector, fun selected ready => ?append⟩
  case scalar =>
    have satom (op : AtomOp) {i : Instr} (does : exec i s = satomStep op sd sa sb ord s) :
        atoms i 1 1 sflag ord false (scalar op) :=
      perform (form := scalarForm s g false) (does.trans (withGang_next issues _)) fun _ => rfl
    have cget {i : Instr} {ord : MemOrd} (does : exec i s = cgetStep sd sa ord s) : atoms i 1 1 sflag ord false counter :=
      perform (form := scalarForm s g false) (does.trans (withGang_next issues _)) fun _ => rfl
    exact ⟨satom .add rfl, satom .swap rfl, satom .and rfl, satom .or rfl, satom .xor rfl, satom .minS rfl,
      satom .minN rfl, satom .maxS rfl, satom .maxN rfl, satom .cas rfl, cget rfl, cget rfl, execCgetTeam_completes issues⟩
  case vector =>
    have vatom (op : AtomOp) {i : Instr} (does : exec i s = vatomStep op o ty m s) : atoms i 3 0 f m.ord true (vector op) :=
      perform (form := { len := 3, cost := cycles32 g, src := 0, flag := f, yield := false, bank := true })
        (does.trans (laneStep_selected ready selected _)) fun _ => rfl
    exact ⟨vatom .add rfl, vatom .swap rfl, vatom .and rfl, vatom .or rfl, vatom .xor rfl, vatom _ rfl, vatom _ rfl,
      vatom .cas rfl⟩
  case append =>
    intro free passed released scope ordered z performed
    have sent := gangAtomicLow_performs
      (form := { len := 3, cost := 2 * cycles32 g, src := 0, flag := f, yield := false, bank := false })
      free passed released scope ordered performed rfl
    exact ⟨_, (laneStep_selected ready selected _).trans (congrArg Host.Outcome.next sent), issueLong_effect ..⟩

end Sys2Proof.Machine
end

section
/-! Accumulates at issue (O38; R198, R199, R365, R366, R475): the addends of lanes that name one address are joined in the
order of the lanes, and each combined addend is performed or sent, unless the gang has to wait; `rflush`. -/

namespace Sys2Proof.Machine

variable {s u : State} {g : GangRef} {ty : AccTy} {op : AccOp}

/-! ### Joining the addends of one address (R198) -/

/-- One addend folded into another of the same address. -/
def Addend.join (ty : AccTy) (op : AccOp) (y x : Addend) : Addend :=
  { y with value := accCombine ty op y.value x.value, count := y.count + x.count, quads := y.quads ++ x.quads }

/-- Some addends of one address joined into the first of them; none for no addend. -/
def joinAddends (ty : AccTy) (op : AccOp) : List Addend → Option Addend
  | [] => none
  | y :: ys => some (ys.foldl (Addend.join ty op) y)

/-- The addends of one instruction, those of one address joined. -/
def combineAddends (ty : AccTy) (op : AccOp) (l : List Addend) : List Addend :=
  l.foldl (fun xs x => addAddend ty op x xs) []

theorem addAddend_cons (x y : Addend) (ys : List Addend) : addAddend ty op x (y :: ys) =
    if y.addr = x.addr then y.join ty op x :: ys else y :: addAddend ty op x ys := rfl

theorem joinAddends_append (l : List Addend) (x : Addend) : joinAddends ty op (l ++ [x]) =
    some ((joinAddends ty op l).elim x (·.join ty op x)) := by
  cases l with
  | nil => rfl
  | cons y ys => exact congrArg some (List.foldl_concat ..)

/-- An addend joins that of its own address, or stands for it. -/
theorem find?_addAddend (x : Addend) (a : Word) (ys : List Addend) : (addAddend ty op x ys).find? (·.addr == a) =
    if x.addr = a then some ((ys.find? (·.addr == a)).elim x (·.join ty op x)) else ys.find? (·.addr == a) := by
  induction ys with
  | nil => by_cases here : x.addr = a <;> simp [addAddend, here]
  | cons y ys ih =>
    rw [addAddend_cons]
    by_cases same : y.addr = x.addr
    · rw [if_pos same]
      by_cases here : x.addr = a <;> simp [same, here, Addend.join]
    · rw [if_neg same]
      by_cases there : y.addr = a
      · have elsewhere : x.addr ≠ a := fun e => same (there.trans e.symm)
        simp [there, elsewhere]
      · simp [there, ih]

theorem map_addr_addAddend (x : Addend) (ys : List Addend) : (addAddend ty op x ys).map (·.addr) =
    if x.addr ∈ ys.map (·.addr) then ys.map (·.addr) else ys.map (·.addr) ++ [x.addr] := by
  induction ys with
  | nil => rfl
  | cons y ys ih =>
    rw [addAddend_cons]
    by_cases same : y.addr = x.addr
    · simp [same, Addend.join]
    · rw [if_neg same, List.map_cons, ih]
      by_cases known : x.addr ∈ ys.map (·.addr) <;> simp [Ne.symm same, known]

theorem combineAddends_append (l : List Addend) (x : Addend) :
    combineAddends ty op (l ++ [x]) = addAddend ty op x (combineAddends ty op l) := List.foldl_concat ..

/-- Each address is combined once. -/
theorem combineAddends_nodup (l : List Addend) : ((combineAddends ty op l).map (·.addr)).Nodup := by
  induction l using List.reverseRecOn with
  | nil => exact List.nodup_nil
  | append_singleton l x ih =>
    rw [combineAddends_append, map_addr_addAddend]
    split
    · exact ih
    · next fresh => exact ih.append (List.nodup_singleton _) (List.disjoint_singleton.mpr fresh)

/-- What is combined for an address are the addends that name it, joined in their order. -/
theorem find?_combineAddends (l : List Addend) (a : Word) :
    (combineAddends ty op l).find? (·.addr == a) = joinAddends ty op (l.filter (·.addr == a)) := by
  induction l using List.reverseRecOn with
  | nil => rfl
  | append_singleton l x ih =>
    rw [combineAddends_append, find?_addAddend, ih, List.filter_append]
    by_cases here : x.addr = a
    · have named : [x].filter (·.addr == a) = [x] := by simp [here]
      rw [if_pos here, named, joinAddends_append]
    · have other : [x].filter (·.addr == a) = [] := by simp [here]
      rw [if_neg here, other, List.append_nil]

theorem find?_addr_of_mem {xs : List Addend} (once : (xs.map (·.addr)).Nodup) {x : Addend} (mem : x ∈ xs) :
    xs.find? (·.addr == x.addr) = some x := by
  obtain ⟨before, after, rfl⟩ := List.append_of_mem mem
  refine List.find?_eq_some_iff_append.mpr ⟨beq_self_eq_true _, before, after, rfl, fun y hy => ?_⟩
  rw [List.map_append] at once
  have apart := (List.nodup_append.mp once).2.2 y.addr (List.mem_map_of_mem hy) x.addr (by simp)
  simpa using apart

theorem joinAddends_of_mem {l : List Addend} {x : Addend} (mem : x ∈ combineAddends ty op l) :
    joinAddends ty op (l.filter (·.addr == x.addr)) = some x :=
  (find?_combineAddends l x.addr).symm.trans (find?_addr_of_mem (combineAddends_nodup l) mem)

/-! ### What joined addends hold -/

theorem foldl_join_count (ys : List Addend) (y : Addend) :
    (ys.foldl (Addend.join ty op) y).count = ((y :: ys).map (·.count)).sum := by
  induction ys generalizing y with
  | nil => simp
  | cons x ys ih => rw [List.foldl_cons, ih]; simp [Addend.join, Nat.add_assoc]

theorem foldl_join_quads (ys : List Addend) (y : Addend) :
    (ys.foldl (Addend.join ty op) y).quads = (y :: ys).flatMap (·.quads) := by
  induction ys generalizing y with
  | nil => simp
  | cons x ys ih => rw [List.foldl_cons, ih]; simp [Addend.join]

/-- The types whose addends wrap to the width of the accumulate (R196). -/
def accWraps (ty : AccTy) : Prop := ty = .i32 ∨ ty = .i64 ∨ ty = .n64 ∨ ty = .fx128

theorem accCombine_add (wraps : accWraps ty) (a b : Nat) :
    accCombine ty .add a b = (a + b) % 2 ^ (8 * ty.width) := by
  rcases wraps with rfl | rfl | rfl | rfl <;> rfl

/-- Addends of the types that wrap are joined to their sum (R196). -/
theorem foldl_join_value (wraps : accWraps ty) (ys : List Addend) (y : Addend)
    (fits : y.value < 2 ^ (8 * ty.width)) :
    (ys.foldl (Addend.join ty .add) y).value = ((y :: ys).map (·.value)).sum % 2 ^ (8 * ty.width) := by
  induction ys generalizing y with
  | nil => simpa using (Nat.mod_eq_of_lt fits).symm
  | cons x ys ih =>
    have joined : (y.join ty .add x).value = (y.value + x.value) % 2 ^ (8 * ty.width) := accCombine_add wraps _ _
    rw [List.foldl_cons, ih _ (joined ▸ Nat.mod_lt _ (Nat.two_pow_pos _))]
    simp only [List.map_cons, List.sum_cons, joined, Nat.mod_add_mod, Nat.add_assoc]

/-- What the addends of one address hold together. -/
theorem joinAddends_holds {l : List Addend} {x : Addend} (joined : joinAddends ty op l = some x) :
    x.count = (l.map (·.count)).sum ∧ x.quads = l.flatMap (·.quads) ∧
    (op = .add → accWraps ty → (∀ y ∈ l, y.value < 2 ^ (8 * ty.width)) →
      x.value = (l.map (·.value)).sum % 2 ^ (8 * ty.width)) := by
  cases l with
  | nil => cases joined
  | cons y ys =>
    obtain rfl := Option.some.inj joined
    refine ⟨foldl_join_count ys y, foldl_join_quads ys y, ?_⟩
    rintro rfl wraps fit
    exact foldl_join_value wraps ys y (fit y List.mem_cons_self)

/-! ### The addends of the lanes -/

/-- A value of some registers fits their bits. -/
theorem Lane.read_lt (l : Lane) (n regs : Nat) : l.read n regs < 2 ^ (32 * regs) := by
  have digits (is : List Nat) :
      is.foldr (fun i acc => (l.rv (n + i)).toNat + 2 ^ 32 * acc) 0 < 2 ^ (32 * is.length) := by
    induction is with
    | nil => exact Nat.one_pos
    | cons i is ih =>
      have low := (l.rv (n + i)).isLt
      rw [List.foldr_cons, List.length_cons, Nat.mul_succ, Nat.pow_add]
      omega
  have all := digits (upTo regs)
  rwa [upTo, List.length_range] at all

theorem accTy_register_bits (ty : AccTy) : 32 * (ty.width / 4) = 8 * ty.width := by cases ty <;> rfl

/-- The addend of one lane, from its checked address, its place, its quad and its number. -/
def laneAddend (u : State) (g : GangRef) (ty : AccTy) (vc : Nat) (y : (Ask × Loc) × Nat × Nat) : Addend :=
  { quad := y.2.1, quads := [y.2.1], addr := y.1.1.addr, loc := y.1.2
    value := ((u.quadOf g y.2.1).lane y.2.2).read vc (ty.width / 4), count := 1 }

/-- What a combined addend of lanes holds: as many lanes as name its address, their quads, and for the types that wrap the
sum of their values (R196, R198). -/
theorem combineAddends_lanes {vc : Nat} {items : List ((Ask × Loc) × Nat × Nat)} {x : Addend}
    (mem : x ∈ combineAddends ty op (items.map (laneAddend u g ty vc))) :
    let mine := items.filter fun y => y.1.1.addr == x.addr
    x.count = mine.length ∧ x.quads = mine.map (·.2.1) ∧
    (op = .add → accWraps ty →
      x.value = (mine.map fun y => ((u.quadOf g y.2.1).lane y.2.2).read vc (ty.width / 4)).sum % 2 ^ (8 * ty.width)) := by
  intro mine
  have joined : joinAddends ty op (mine.map (laneAddend u g ty vc)) = some x :=
    (congrArg _ List.filter_map.symm).trans (joinAddends_of_mem mem)
  obtain ⟨count, quads, value⟩ := joinAddends_holds joined
  refine ⟨count.trans ?_, quads.trans ?_, fun add wraps => (value add wraps ?_).trans ?_⟩
  · simp [laneAddend, Function.comp_def]
  · rw [List.flatMap_map, List.map_eq_flatMap]
    rfl
  · refine List.forall_mem_map.mpr fun y _ => ?_
    exact accTy_register_bits ty ▸ Lane.read_lt _ _ _
  · rw [List.map_map]
    rfl

/-! ### `vacc` -/

/-- Which lanes are active does not depend on what a write-back can change. -/
theorem activeLanes_of_firm (h : u.firm = s.firm) (o : LaneOp) : u.activeLanes g o = s.activeLanes g o := by
  have lane (n i : Nat) : (u.quadOf g n).active o i = (s.quadOf g n).active o i := by
    have quad := quadOf_of_firm (g := g) h n
    have em := congrArg Quad.em quad
    have lanes := congrArg Quad.lanes quad
    unfold Quad.active Quad.emBit Quad.lane
    exact em ▸ lanes ▸ rfl
  unfold State.activeLanes
  simp only [live_of_firm h, lane]

/-- The checks of an accumulate, one for each active lane, ascending (R365). -/
def vaccAsks (s : State) (g : GangRef) (o : LaneOp) (ty : AccTy) (m : MemMods) : List Ask :=
  laneAsks s g o m ty.width ty.width .store

/-- The active lanes, each with its check and the place that the check found. -/
def vaccItems (s : State) (g : GangRef) (o : LaneOp) (ty : AccTy) (m : MemMods) (locs : List Loc) :
    List ((Ask × Loc) × Nat × Nat) :=
  ((vaccAsks s g o ty m).zip locs).zip (s.activeLanes g o)

/-- What an accumulate performs or sends: the addends of its lanes as they stand in `u`, combined. -/
def vaccAddends (s u : State) (g : GangRef) (op : AccOp) (o : LaneOp) (ty : AccTy) (m : MemMods) (locs : List Loc) :
    List Addend :=
  combineAddends ty op ((vaccItems s g o ty m locs).map (laneAddend u g ty o.vc.toNat))

section vacc
variable {o : LaneOp} {m : MemMods} {locs : List Loc}
  (ready : LaneReady s g o (.v o.vc (ty.width / 4) (ty.width / 4) :: addrOpnds o m))
  (passed : checkAsks s g (vaccAsks s g o ty m) = (u, locs, []))

include ready passed in
/-- An accumulate whose addresses pass their checks: it waits for room (R199), waits for refusals (R475), or performs. -/
theorem vaccStep_next : vaccStep op o ty m s = .next
    (let xs := vaccAddends s u g op o ty m locs
     if 64 < u.outstanding (u.coreOf g) + (xs.filter fun x => x.loc.leaves).length then u.hold g .structural
     else if xs.any fun x => u.refusalOut g.t x.addr then u
     else (xs.foldl (fun s x => sendAddend s g ty op x) (u.bankCount g
       (scratchOf (vaccAsks s g o ty m) locs))).retire g 3 (cycles32 g) .count) := by
  have still : u.still = s.still := by
    rw [← checkAsks_still (s := s), passed]
  have lanes := activeLanes_of_firm (g := g) (State.firm_of_still still) o
  obtain ⟨f, selected⟩ := Option.isSome_iff_exists.mp ready.flag
  refine (laneStep_selected ready selected _).trans (congrArg Host.Outcome.next ?_)
  unfold vaccAsks at passed
  unfold State.checked vaccAddends combineAddends
  simp only [passed, lanes, List.foldl_map]
  rfl

include passed in
/-- A combined addend holds as many lanes as name its address, their quads, and for the types that wrap the sum of their
values (R196, R198). -/
theorem vaccAddends_holds {x : Addend} (mem : x ∈ vaccAddends s u g op o ty m locs) :
    let mine := ((vaccAsks s g o ty m).zip (s.activeLanes g o)).filter fun y => y.1.addr == x.addr
    x.count = mine.length ∧ x.quads = mine.map (·.2.1) ∧
    (op = .add → accWraps ty → x.value =
      (mine.map fun y => ((u.quadOf g y.2.1).lane y.2.2).read o.vc.toNat (ty.width / 4)).sum % 2 ^ (8 * ty.width)) := by
  intro mine
  obtain ⟨count, quads, value⟩ := combineAddends_lanes mem
  have placed := List.map_fst_zip (checkAsks_length passed).ge
  have pairs : (vaccAsks s g o ty m).zip (s.activeLanes g o) =
      (vaccItems s g o ty m locs).map (Prod.map Prod.fst id) := by
    rw [vaccItems, ← List.zip_map_left, placed]
  have same := (congrArg (List.filter fun y => y.1.addr == x.addr) pairs).trans List.filter_map
  rw [show mine = _ from same, List.length_map, List.map_map, List.map_map]
  exact ⟨count, quads, value⟩

end vacc

/-! ### `rflush` -/

/-- Nothing is deferred to the drain point (R212, R354, R418). -/
theorem atDrainPoint_pass (faults : ∀ n ∈ g.quads, ∀ d ∈ (s.quadOf g n).deferred, d.isDrain = false)
    (wave : s.waveFaults g = []) (src : TrapSrc) (k : State → State) : s.atDrainPoint g src k = k s := by
  have drains : s.raiseDrain g src = none := by
    unfold State.raiseDrain
    rw [wave]
    exact raiseDeferred_none faults
  unfold State.atDrainPoint
  rw [drains]

/-- A gang that no drain has answered starts one where the team has something to deliver (R210). -/
theorem drained_idle (idle : (s.leader g).drainSt = .idle) (src : TrapSrc) (k : State → State) :
    s.drained g src k = if s.needsDrain g.t then s.startDrain g else k s := by
  unfold State.drained
  rw [idle]

theorem execRflush_next {o : LaneOp} (ready : LaneReady s g o [])
    (faults : ∀ n ∈ g.quads, ∀ d ∈ (s.quadOf g n).deferred, d.isDrain = false) (wave : s.waveFaults g = [])
    (idle : (s.leader g).drainSt = .idle) : exec (.rflush o) s = .next
      (if s.needsDrain g.t then s.startDrain g else s.retire g 3 (cycles32 g) .count) := by
  obtain ⟨_, _, next⟩ := laneStep_next ready fun _ s g =>
    s.atDrainPoint g 0 fun s => s.drained g 0 fun s => s.retire g 3 (cycles32 g) .count
  rw [exec_rflush, execRflush, next, atDrainPoint_pass faults wave, drained_idle idle]

/-! ### The instructions -/

/-- Settles O38: `vacc` by its three outcomes (`vaccStep_next`) and what its addends hold (`vaccAddends_holds`), `rflush`
by whether the team has something to deliver (`execRflush_next`). -/
theorem accumulateIssue : Obligations.AccumulateIssue := by
  intro s u g o ty m locs regs live lanes asks adds
  have vacc {op : AccOp} {i : Instr} (does : exec i s = vaccStep op o ty m s) : adds i op := by
    intro ready passed xs leaving
    have combined : xs = vaccAddends s u g op o ty m locs := by
      unfold vaccAddends combineAddends
      rw [List.foldl_map]
      rfl
    have next := does.trans (vaccStep_next ready passed)
    rw [← combined] at next
    refine ⟨fun room clear => ?performs, fun full => ?full, fun room refused => ?refused, ?once, fun x mem => ?holds⟩
    case performs =>
      rw [if_neg (Nat.not_lt.mpr room), if_neg (by simpa using clear)] at next
      exact ⟨_, next, retire_count_effect ..⟩
    case full => rwa [if_pos full] at next
    case refused => rwa [if_neg (Nat.not_lt.mpr room), if_pos (by simpa using refused)] at next
    case once => exact combined ▸ combineAddends_nodup _
    case holds => exact vaccAddends_holds passed (combined ▸ mem)
  refine ⟨vacc rfl, vacc rfl, vacc rfl, fun ready faults wave idle => ⟨fun none_ => ?_, fun some_ => ?_⟩⟩
  · have next := execRflush_next ready faults wave idle
    rw [if_neg (by simp [none_])] at next
    exact ⟨_, next, retire_count_effect ..⟩
  · rw [execRflush_next ready faults wave idle, if_pos some_]

end Sys2Proof.Machine
end

section
/-! The start of walks and the claim of a record (O41; R225 to R229, R232, R276, R395): what an issue of `wstart` or
`wresume` comes to by the checks of its lanes, and what one claim in this device's memory writes. -/

namespace Sys2Proof.Machine

variable {s : State} {g : GangRef} {o : LaneOp} {start : Bool}

/-! ### The issue -/

/-- What a quad's walk instruction waits for and writes, as two lists by the quad. -/
theorem walkLater_pend (l : List (Nat × Nat ⊕ Nat × RegWrite)) (n id : Nat) (flag : Option (BitVec 4)) :
    (walkLater l n).pend id flag =
      { id := id, flag := flag, loads := [], blends := [], faults := [], requests := [], poll := none
        walks := (l.filterMap Sum.getLeft?).filterMap fun y => if y.1 = n then some y.2 else none
        writes := (l.filterMap Sum.getRight?).filterMap fun y => if y.1 = n then some y.2 else none } := by
  rw [List.filterMap_filterMap, List.filterMap_filterMap]
  simp only [walkLater, Later.pend, Later.empty]
  congr 2 <;> funext x <;> cases x <;> rfl

/-- What an issue comes to once the lanes' checks are done (R229, R395). -/
def walkIssue (s1 : State) (g : GangRef) (o : LaneOp) (start : Bool) (flag : Option (BitVec 4)) (y : WalkChecks) :
    State :=
  if y.waits then s1.awaitFetch g
  else
    match y.failed, y.passed with
    | (_, _, f) :: _, _ => s1.memTrap g f (walkFailed y.failed) 0
    | [], xs =>
      if 256 < (s1.core (s1.coreOf g)).walks.length + xs.length then s1.hold g .structural
      else
        match s1.orderAll (s1.ctxOf g) (xs.filterMap (claimOrder s1 g)) with
        | .error s => s
        | .ok s =>
          match claimAll g o start s.nextId xs (s.dropFetched g).bumpId with
          | (t, l) => t.issueLong g 3 (cycles32 g) s.nextId flag (walkLater l)

section issue
variable {i : Instr} {flag : Option (BitVec 4)} {s1 : State} {y : WalkChecks}
  (does : exec i s = walkStep o start s) (ready : LaneReady s g o [.v o.va 2 2, .v o.vd 5 1])
  (selected : laneFlag (s.leader g).clause o.flag = some flag) (free : flagFull s g flag = false)
  (checked : walkChecks g o start (s.activeLanes g o) s = (s1, y))
include does ready selected free checked

theorem walkStep_checked : exec i s = .next (walkIssue s1 g o start flag y) := by
  rw [does, walkStep, laneStep_selected ready selected, if_neg (by simp [free]), checked]
  rfl

theorem walkStep_waits (waits : y.waits = true) : exec i s = .next (s1.awaitFetch g) := by
  rw [walkStep_checked does ready selected free checked, walkIssue, if_pos waits]

theorem walkStep_fails {n k : Nat} {f : MFault} {rest : List (Nat × Nat × MFault)} (moves : y.waits = false)
    (failed : y.failed = (n, k, f) :: rest) : exec i s = .next (s1.memTrap g f (walkFailed y.failed) 0) := by
  rw [walkStep_checked does ready selected free checked, walkIssue, if_neg (by simp [moves]), failed]

variable (moves : y.waits = false) (failed : y.failed = [])
include moves failed

theorem walkStep_full (full : 256 < (s1.core (s1.coreOf g)).walks.length + y.passed.length) :
    exec i s = .next (s1.hold g .structural) := by
  rw [walkStep_checked does ready selected free checked, walkIssue, if_neg (by simp [moves]), failed]
  simp only [full, if_true]

theorem walkStep_claims {w x : State} {l : List (Nat × Nat ⊕ Nat × RegWrite)}
    (room : (s1.core (s1.coreOf g)).walks.length + y.passed.length ≤ 256)
    (ordered : s1.orderAll (s1.ctxOf g) (y.passed.filterMap (claimOrder s1 g)) = .ok w)
    (claimed : claimAll g o start w.nextId y.passed (w.dropFetched g).bumpId = (x, l)) :
    exec i s = .next (x.issueLong g 3 (cycles32 g) w.nextId flag (walkLater l)) := by
  rw [walkStep_checked does ready selected free checked, walkIssue, if_neg (by simp [moves]), failed]
  simp only [Nat.not_lt.mpr room, if_false, ordered, claimed]

end issue

/-! ### One claim in this device's memory -/

theorem ClaimKind.takes_iff (st : Nat) : (if start then ClaimKind.start else ClaimKind.resume).takes st = true ↔
    if start then st = 0 ∨ st = 5 else st = 2 ∨ st = 3 ∨ st = 4 := by
  cases start <;> simp [ClaimKind.takes, or_assoc]

theorem ClaimKind.control_eq (depth ctl : Nat) : (if start then ClaimKind.start else ClaimKind.resume).control depth ctl =
    ctl / 2 ^ 20 * 2 ^ 20 + 2 ^ 16 + (if start then depth else ctl / 2 ^ 12 % 16) * 2 ^ 12 + ctl % 2 ^ 12 := by
  cases start <;> rfl

/-- The state in which a claim finds the second line of its record: the core holds no copy of it. -/
def State.unheld (s : State) (g : GangRef) (y : WalkLane) : State :=
  s.modCore (s.coreOf g) (·.dropClean (s.ctxOf g) ((y.va + 128).toNat / 128))

/-- The words that the claim of a record at a physical address writes: its grid, control word and owner. -/
def claimBytes (s : State) (g : GangRef) (start : Bool) (pa : Nat) (y : WalkLane) : List Byte :=
  leBytes 4 (s.teamOf g).gridid.toNat ++
    leBytes 8 ((if start then ClaimKind.start else ClaimKind.resume).control y.depth (s.word (pa + 160)).toNat) ++
    leBytes 8 ((4 * y.quad + y.lane) * 2 ^ 37 + (s.waveOf g).wid * 2 ^ 32 + (s.teamOf g).teamid.toNat)

theorem claimBytes_length (s : State) (g : GangRef) (start : Bool) (pa : Nat) (y : WalkLane) :
    (claimBytes s g start pa y).length = 20 := by
  simp [claimBytes]

/-- The walk of a lane whose claim has been performed. -/
def claimedWalk (s : State) (g : GangRef) (o : LaneOp) (start : Bool) (pend pa : Nat) (y : WalkLane) : Walk :=
  let t := s.unheld g y
  let w := newWalk t g o pend y
    ((upTo 256).map fun i => viewByte t (s.coreOf g) (s.ctxOf g) (y.va + BitVec.ofNat 64 i) (pa + i)) none
  { w with image := putImage w.image 156 (claimBytes s g start pa y) }

section claim
variable {pend pa : Nat} {y : WalkLane} (here : y.pa = some pa)
  (free : (s.core (s.coreOf g)).heldLine (s.ctxOf g) ((y.va + 128).toNat / 128) = none)
include here free

theorem claimRecord_refused (refused : (if start then ClaimKind.start else ClaimKind.resume).takes
    (ctlState (s.word (pa + 160)).toNat) = false) : claimRecord s g o start pend y = (s.unheld g y, none) := by
  unfold claimRecord
  rw [here]
  dsimp only
  rw [flushLine_none free]
  exact if_neg (Bool.eq_false_iff.mp refused)

theorem claimRecord_taken (taken : (if start then ClaimKind.start else ClaimKind.resume).takes
    (ctlState (s.word (pa + 160)).toNat) = true) : claimRecord s g o start pend y =
      ((((s.unheld g y).homeWrite (s.ctxOf g) (pa + 156) (claimBytes s g start pa y) 3).modCore (s.coreOf g) fun k =>
        { k with walks := k.walks ++ [claimedWalk s g o start pend pa y] }).bumpId,
        some (claimedWalk s g o start pend pa y)) := by
  unfold claimRecord
  rw [here]
  dsimp only
  rw [flushLine_none free]
  exact if_pos taken

end claim

section unheld
variable (s : State) (g : GangRef) (y : WalkLane)

theorem State.unheld_walks (c : Nat) : ((s.unheld g y).core c).walks = (s.core c).walks := by
  rw [State.unheld, State.core_modCore]
  split <;> rfl

theorem State.word_rawWrite_unheld (c : BitVec 6) (pa a : Nat) (bs : List Byte) :
    ((s.unheld g y).rawWrite c pa bs).word a = (s.rawWrite c pa bs).word a := by
  rw [State.word, State.word, State.rawWrite_mem, State.rawWrite_mem]
  rfl

end unheld

section written
variable {pa : Nat} {y : WalkLane} (rises : ∀ a ∈ wordsIn (pa + 156) 20,
  s.word a ≤ (s.rawWrite (s.ctxOf g) (pa + 156) (claimBytes s g start pa y)).word a)
include rises

/-- Where a claim makes no counter word fall, it is the raw write of its bytes, and what waits learn of it. -/
theorem claim_notified (src : Nat) :
    Notified ((s.unheld g y).rawWrite (s.ctxOf g) (pa + 156) (claimBytes s g start pa y))
      ((s.unheld g y).homeWrite (s.ctxOf g) (pa + 156) (claimBytes s g start pa y) src) := by
  have long := claimBytes_length s g start pa y
  refine State.homeWrite_notified (List.ne_nil_of_length_pos (by omega)) fun a within falls => ?_
  rw [long] at within
  rw [State.word_rawWrite_unheld] at falls
  exact absurd falls (BitVec.not_lt.mpr (rises a within))

/-- A claim writes no byte but those of the record's grid, control word and owner. -/
theorem claim_get (canonical : s.mem.wf = true) (src a : Nat) :
    ((s.unheld g y).homeWrite (s.ctxOf g) (pa + 156) (claimBytes s g start pa y) src).mem.get a =
      if pa + 156 ≤ a ∧ a < pa + 176 then (claimBytes s g start pa y).getD (a - (pa + 156)) 0 else s.mem.get a := by
  rw [(claim_notified rises src).mem, State.rawWrite_get (s := s.unheld g y) _ _ _ _ canonical, claimBytes_length]
  rfl

theorem claim_walks (src : Nat) :
    (((s.unheld g y).homeWrite (s.ctxOf g) (pa + 156) (claimBytes s g start pa y) src).core (s.coreOf g)).walks =
      (s.core (s.coreOf g)).walks := by
  rw [← s.unheld_walks g y, State.core, State.core, (claim_notified rises src).cores, State.rawWrite_cores]

end written

theorem claimAll_taken {pend : Nat} {y : WalkLane} {w : Walk} (taken : (claimRecord s g o start pend y).2 = some w) :
    (claimAll g o start pend [y] s).2 = [.inl (y.quad, w.id)] := by
  simp only [claimAll, taken]

theorem claimAll_refused {pend : Nat} {y : WalkLane} (refused : (claimRecord s g o start pend y).2 = none) :
    (claimAll g o start pend [y] s).2 = [.inr (y.quad, .v y.lane o.vd.toNat 0x206)] := by
  simp only [claimAll, refused]

/-- Settles O41: an issue by what its checks came to (`walkStep_checked`), and a claim by the state of its record
(`claimRecord_taken`, `claimRecord_refused`). -/
theorem walksBegin : Obligations.WalksBegin := by
  refine ⟨?issue, ?claim⟩
  case issue =>
    intro s s1 w x g o flag ok l ready selected free live lanes walks
    have begins {i : Instr} {start : Bool} (does : exec i s = walkStep o start s) : walks i start := by
      refine ⟨?passes, fun y checked waits => ?waits, fun n k f rest checked => ?fails⟩
      case passes =>
        intro checked room
        refine ⟨fun fits ordered claimed => ?_, walkStep_full does ready selected free checked rfl rfl⟩
        refine ⟨_, walkStep_claims does ready selected free checked rfl rfl fits ordered claimed, ?_⟩
        simpa only [walkLater_pend] using issueLong_effect x g 3 (cycles32 g) w.nextId flag (walkLater l)
      case waits => exact walkStep_waits does ready selected free checked waits
      case fails => exact walkStep_fails does ready selected free checked rfl rfl
    exact ⟨begins (exec_wstart s), begins (exec_wresume s)⟩
  case claim =>
    intro s g o start pend pa y here free canonical ctl st may depth owner bytes r
    have takes : (if start then ClaimKind.start else ClaimKind.resume).takes st = true ↔ may := ClaimKind.takes_iff st
    have written : bytes = claimBytes s g start pa y := by
      rw [claimBytes, ClaimKind.control_eq]
    refine ⟨fun refused => ?refused, fun taken rises => ?taken⟩
    case refused =>
      have res : r = (s.unheld g y, none) :=
        claimRecord_refused here free (Bool.eq_false_iff.mpr (mt takes.mp refused))
      exact ⟨congrArg (·.2) res, by rw [res]; rfl, by rw [res]; rfl, by rw [res]; exact s.unheld_walks g y _,
        claimAll_refused (congrArg (·.2) res)⟩
    case taken =>
      have res : r = _ := claimRecord_taken here free (takes.mpr taken)
      rw [written] at rises ⊢
      refine ⟨fun a => ?_, claimedWalk s g o start pend pa y, congrArg (·.2) res, rfl, rfl, rfl, rfl, rfl, rfl, rfl, rfl, rfl,
        rfl, rfl, fun core => ?_, claimAll_taken (congrArg (·.2) res)⟩
      · rw [res]
        exact claim_get rises canonical 3 a
      · rw [res]
        change ((State.modCore _ _ _).core _).walks = _
        rw [State.core_modCore, if_pos ⟨rfl, core⟩, ← claim_walks rises 3]

end Sys2Proof.Machine
end

section
/-! SUPPORT. What an operation of a walk comes to (R224, R401, R402, R487): the walk goes on, jumps, or faults at the last
word. -/

namespace Sys2Proof.Machine

/-- The state in which a walk has executed an operation that leaves it as `x`, and stands at a word. -/
def State.ranWalk (v : State) (core : Nat) (w x : Walk) (pc : Nat) : State :=
  (v.setWalk core { x.put 160 1 pc with fetched := [], logged := [], steps := w.steps + 1 }).stall core w.ctx 11 1

/-- An operation faults the walk, once the walk has nothing outstanding. -/
def WalkFaults (s : State) (core : Nat) (w : Walk) (cause : Nat) (i : Instr) : Prop :=
  s.walkBusy w = false → exec i s = .next (s.faultWalk core w { cause := cause, addr := 0, code := none })

/-- An operation leaves the state `v` and the walk `x`, which goes on to its next word; at the last word it faults. -/
def WalkGoes (s : State) (core : Nat) (w : Walk) (i : Instr) (v : State) (x : Walk) : Prop :=
  (w.wpc ≠ 255 → exec i s = .next (v.ranWalk core w x (w.wpc + 1))) ∧ (w.wpc = 255 → WalkFaults s core w 0x12 i)

section
variable {s u : State} {core id : Nat} {w x : Walk} {i : Instr}

theorem settleWalk_last (last : w.wpc = 255) (idle : s.walkBusy w = false) :
    s.settleWalk core w (u, .go x none) = s.faultWalk core w (.of 0x12) := by
  rw [State.settleWalk]
  dsimp only
  rw [if_pos last, idle]
  rfl

theorem settleWalk_jump (l : Nat) : s.settleWalk core w (u, .go x (some l)) = u.ranWalk core w x l := rfl

/-- What an operation of a running walk comes to, for an operation whose result is known. -/
theorem exec_settles {f : Eng → Walk → State × WRes} {r : State × WRes} (issued : s.cur = .walk core id)
    (running : s.walk? core id = some w) (does : exec i s = withWalk s f) (res : f (w.eng core) w = r) :
    exec i s = .next (s.settleWalk core w r) := by
  rw [does, withWalk_next issued running, res]

theorem WalkGoes.of_settles (next : exec i s = .next (s.settleWalk core w (u, .go x none))) : WalkGoes s core w i u x :=
  ⟨fun more => by rw [next, settleWalk_go more]; rfl, fun last idle => by rw [next, settleWalk_last last idle]; rfl⟩

theorem WalkFaults.of_settles {cause : Nat} (next : exec i s = .next (s.settleWalk core w (u, .fault (.of cause)))) :
    WalkFaults s core w cause i := fun idle => by
  rw [next, settleWalk_fault idle]
  rfl

/-- Of the machine, a walk's operation on registers changes the walk and its count of executed operations alone. -/
theorem ranWalk_frame (v : Walk) (t : State) (same : t = (s.setWalk core v).stall core w.ctx 11 1) :
    t = { s with cores := t.cores, stalls := addStall s.clk core w.ctx 11 1 s.stalls } ∧
      (∀ c, c ≠ core → t.core c = s.core c) ∧ t.core core = { s.core core with walks := (t.core core).walks } := by
  subst same
  refine ⟨rfl, fun c other => State.core_modCore_other other, ?_⟩
  have own : ((s.setWalk core v).stall core w.ctx 11 1).core core =
      { s.core core with walks := (s.core core).walks.map fun x => if x.id = v.id then v else x } :=
    State.core_modCore_self rfl
  rw [own]

end

end Sys2Proof.Machine
end

section
/-! Walk operations on registers, and jumps (O42; R224, R401, R402). -/

namespace Sys2Proof.Machine

/-- A condition of `cmp` holds of two registers (R402). -/
def walkHolds (c : WalkCond) (x y : Word) : Prop :=
  match c with
  | .eq => x = y
  | .ne => x ≠ y
  | .ltN => x.toNat < y.toNat
  | .geN => y.toNat ≤ x.toNat
  | .ltI => x.toInt < y.toInt
  | .geI => y.toInt ≤ x.toInt

theorem walkCond_iff (c : WalkCond) (x y : Word) : walkCond c x y = true ↔ walkHolds c x y := by
  cases c with
  | eq => exact beq_iff_eq
  | ne => exact bne_iff_ne
  | ltN => exact decide_eq_true_iff
  | geN => exact decide_eq_true_iff
  | ltI => exact BitVec.slt_iff_toInt_lt
  | geI => exact BitVec.sle_iff_toInt_le

section
variable {s : State} {core id : Nat} {w : Walk} {i : Instr}
  (issued : s.cur = .walk core id) (running : s.walk? core id = some w)
include issued running

/-- An operation that writes one register of its walk. -/
theorem regOp_goes {d : WReg} {f : Walk → Word} {v : Word} (does : exec i s = regOp d f s) (res : f w = v) :
    WalkGoes s core w i s (w.setReg d v) :=
  res ▸ .of_settles (exec_settles issued running does rfl)

/-- An operation that jumps. -/
theorem jump_next {l : Nat} {f : Eng → Walk → State × WRes} (does : exec i s = withWalk s f)
    (res : f (w.eng core) w = (s, .go w (some l))) : exec i s = .next (s.ranWalk core w w l) :=
  exec_settles issued running does res

/-- A jump that is not taken. -/
theorem stay_goes {f : Eng → Walk → State × WRes} (does : exec i s = withWalk s f)
    (res : f (w.eng core) w = (s, .go w none)) : WalkGoes s core w i s w :=
  .of_settles (exec_settles issued running does res)

end

/-- Settles O42: each operation either writes a register (`regOp_goes`) or jumps (`jump_next`), and the walk alone changes
(`ranWalk_frame`). -/
theorem walkRegisters : Obligations.WalkRegisters := by
  intro s core id w d a b imm n cc l issued running at_ on sets x y test
  have holds : walkCond cc x y = true ↔ test := walkCond_iff cc x y
  have writes {i : Instr} {f : Walk → Word} {v : Word} (does : exec i s = regOp d f s) (res : f w = v) : sets i v :=
    regOp_goes issued running does res
  have jumps {i : Instr} {f : Eng → Walk → State × WRes} (does : exec i s = withWalk s f)
      (res : f (w.eng core) w = (s, .go w (some l.toNat))) : exec i s = .next (at_ w l.toNat) :=
    jump_next issued running does res
  have stays {i : Instr} {f : Eng → Walk → State × WRes} (does : exec i s = withWalk s f)
      (res : f (w.eng core) w = (s, .go w none)) : on i w :=
    stay_goes issued running does res
  refine ⟨writes (exec_walkAdd s) rfl, writes (exec_walkAddi s) rfl, writes (exec_walkSub s) rfl,
    writes (exec_walkAnd s) rfl, writes (exec_walkShl s) rfl, writes (exec_walkShr s) rfl, writes (exec_walkMovi s) rfl,
    fun passes => writes (exec_walkCmp s) (if_pos (holds.mpr passes)),
    fun fails => writes (exec_walkCmp s) (if_neg (mt holds.mp fails)), jumps (exec_walkJmp s) rfl,
    fun zero => ⟨jumps (exec_walkJz s) ?_, stays (exec_walkJnz s) ?_⟩,
    fun some_ => ⟨stays (exec_walkJz s) ?_, jumps (exec_walkJnz s) ?_⟩, fun t ⟨v, same⟩ => ranWalk_frame v t same⟩
  · rw [if_pos zero]
  · rw [if_pos zero]
  · rw [if_neg some_]
  · rw [if_neg some_]

end Sys2Proof.Machine
end

section
/-! SUPPORT. Extended reals and boxes (R404): what the order of extended reals says of rational numbers, and the interval in
which a ray is inside a box. -/

namespace Sys2Proof.Machine

/-! ### Extended reals -/

section
variable {a b : Ext}

/-- An extended real is finite or the upper infinity, as the upper end of a ray's interval is. -/
def Ext.Upper (a : Ext) : Prop := a.den ≠ 0 ∨ 0 < a.num

/-- A number is not above an upper end. -/
def Ext.Bounds (b : Ext) (t : ℚ) : Prop := b.den ≠ 0 → t ≤ b.val

theorem Ext.le_iff_val (ha : a.den ≠ 0) (hb : b.den ≠ 0) : a.le b = true ↔ a.val ≤ b.val := by
  have pa : (0 : ℚ) < a.den := Nat.cast_pos.mpr (Nat.pos_of_ne_zero ha)
  have pb : (0 : ℚ) < b.den := Nat.cast_pos.mpr (Nat.pos_of_ne_zero hb)
  rw [Ext.le, if_neg fun h => ha h.1, decide_eq_true_iff, Ext.val, Ext.val, div_le_div_iff₀ pa pb]
  exact_mod_cast Iff.rfl

theorem Ext.le_infinite (ha : a.den ≠ 0) (hb : b.den = 0) (pos : 0 < b.num) : a.le b = true := by
  rw [Ext.le, if_neg fun h => ha h.1, decide_eq_true_iff, hb]
  simpa using mul_nonneg pos.le (Int.natCast_nonneg a.den)

theorem Ext.infinite_not_le (ha : a.den = 0) (pos : 0 < a.num) (hb : b.den ≠ 0) : a.le b = false := by
  rw [Ext.le, if_neg fun h => hb h.2, decide_eq_false_iff_not, ha, not_le]
  simpa using mul_pos pos (Int.natCast_pos.mpr (Nat.pos_of_ne_zero hb))

theorem Ext.Upper.infinite (h : a.Upper) (infinite : a.den = 0) : 0 < a.num := h.resolve_left fun f => f infinite

/-- A finite number is at most an upper end. -/
theorem Ext.le_iff_bounds (ha : a.den ≠ 0) (hb : b.Upper) : a.le b = true ↔ b.Bounds a.val := by
  by_cases finite : b.den = 0
  · exact iff_of_true (le_infinite ha finite (hb.infinite finite)) fun h => absurd finite h
  · rw [le_iff_val ha finite, Ext.Bounds, imp_iff_right finite]

/-- A finite number is below an upper end. -/
theorem Ext.lt_iff_val (ha : a.den ≠ 0) (hb : b.Upper) : a.lt b = true ↔ (b.den ≠ 0 → a.val < b.val) := by
  rw [Ext.lt, Bool.not_eq_true']
  by_cases finite : b.den = 0
  · exact iff_of_true (infinite_not_le finite (hb.infinite finite) ha) fun h => absurd finite h
  · rw [← Bool.not_eq_true, le_iff_val finite ha, not_le, imp_iff_right finite]

theorem Ext.max_finite (ha : a.den ≠ 0) (hb : b.den ≠ 0) : (a.max b).den ≠ 0 := by
  rw [Ext.max]
  split <;> assumption

theorem Ext.min_finite (ha : a.den ≠ 0) (hb : b.den ≠ 0) : (a.min b).den ≠ 0 := by
  rw [Ext.min]
  split <;> assumption

theorem Ext.val_max (ha : a.den ≠ 0) (hb : b.den ≠ 0) : (a.max b).val = Max.max a.val b.val := by
  rw [Ext.max]
  split
  · next h => exact (max_eq_right ((le_iff_val ha hb).mp h)).symm
  · next h => exact (max_eq_left (not_le.mp (mt (le_iff_val ha hb).mpr h)).le).symm

theorem Ext.val_min (ha : a.den ≠ 0) (hb : b.den ≠ 0) : (a.min b).val = Min.min a.val b.val := by
  rw [Ext.min]
  split
  · next h => exact (min_eq_left ((le_iff_val ha hb).mp h)).symm
  · next h => exact (min_eq_right (not_le.mp (mt (le_iff_val ha hb).mpr h)).le).symm

theorem Ext.min_upper (ha : a.Upper) (hb : b.den ≠ 0) : (a.min b).Upper := by
  rw [Ext.min]
  split
  · exact ha
  · exact .inl hb

/-- What lies below the smaller of two ends lies below both. -/
theorem Ext.bounds_min (ha : a.Upper) (hb : b.den ≠ 0) (t : ℚ) : (a.min b).Bounds t ↔ a.Bounds t ∧ t ≤ b.val := by
  by_cases finite : a.den = 0
  · rw [Ext.min, if_neg (by simp [infinite_not_le finite (ha.infinite finite) hb]), Bounds, Bounds, imp_iff_right hb]
    exact ⟨fun h => ⟨fun f => absurd finite f, h⟩, And.right⟩
  · rw [Bounds, Bounds, imp_iff_right (min_finite finite hb), imp_iff_right finite, val_min finite hb, le_min_iff]

end

theorem ratio_finite {d : Int} (x : Int) (some_ : d ≠ 0) : (ratio x d).den ≠ 0 := by
  rw [ratio]
  split <;> exact Int.natAbs_ne_zero.mpr some_

theorem ratio_val (x d : Int) : (ratio x d).val = (x : ℚ) / d := by
  rw [ratio]
  split
  · next neg =>
    have abs : ((d.natAbs : Int) : ℚ) = -d := by rw [Int.ofNat_natAbs_of_nonpos neg.le, Int.cast_neg]
    rw [Ext.val, ← Int.cast_natCast, abs, Int.cast_neg, neg_div_neg_eq]
  · next pos =>
    rw [Ext.val, ← Int.cast_natCast, Int.natAbs_of_nonneg (not_lt.mp pos)]

/-! ### Axes -/

/-- On one axis the point of the ray at `t` lies between two planes. -/
def InSlab (o d lo hi : Int) (t : ℚ) : Prop := (lo : ℚ) ≤ o + t * d ∧ (o : ℚ) + t * d ≤ hi

/-- What an axis leaves of a ray: nothing, everything, or an interval. -/
def AxisSpans (P : ℚ → Prop) : Option (Option (Ext × Ext)) → Prop
  | none => ∀ t, ¬ P t
  | some none => ∀ t, P t
  | some (some (a, b)) => a.den ≠ 0 ∧ b.den ≠ 0 ∧ ∀ t, P t ↔ a.val ≤ t ∧ t ≤ b.val

/-- The range of an axis is the interval in which the ray is between the planes. -/
theorem axisRange_spans {o d lo hi : Int} (ordered : lo ≤ hi) : AxisSpans (InSlab o d lo hi) (axisRange o d lo hi) := by
  unfold axisRange
  by_cases still : d = 0
  · subst still
    have at_ (t : ℚ) : InSlab o 0 lo hi t ↔ lo ≤ o ∧ o ≤ hi := by
      rw [InSlab, Int.cast_zero, mul_zero, add_zero, Int.cast_le, Int.cast_le]
    rw [if_pos rfl]
    split
    · next inside => exact fun t => (at_ t).mpr inside
    · next outside => exact fun t => mt (at_ t).mp outside
  · have fa := ratio_finite (lo - o) still
    have fb := ratio_finite (hi - o) still
    rw [if_neg still]
    refine ⟨Ext.min_finite fa fb, Ext.max_finite fa fb, fun t => ?_⟩
    rw [Ext.val_min fa fb, Ext.val_max fa fb, ratio_val, ratio_val, min_le_iff, le_max_iff, InSlab]
    have ordered' : (lo : ℚ) ≤ hi := Int.cast_le.mpr ordered
    push_cast
    rcases lt_or_gt_of_ne still with neg | pos
    · have neg' : (d : ℚ) < 0 := Int.cast_lt_zero.mpr neg
      rw [div_le_iff_of_neg neg', div_le_iff_of_neg neg', le_div_iff_of_neg neg', le_div_iff_of_neg neg']
      grind
    · have pos' : (0 : ℚ) < d := Int.cast_pos.mpr pos
      rw [div_le_iff₀ pos', div_le_iff₀ pos', le_div_iff₀ pos', le_div_iff₀ pos']
      grind

/-! ### The interval of a ray -/

/-- An interval holds the numbers of which a property is true. -/
def Spans (P : ℚ → Prop) : Option (Ext × Ext) → Prop
  | none => ∀ t, ¬ P t
  | some (a, b) => a.den ≠ 0 ∧ b.Upper ∧ ∀ t, P t ↔ a.val ≤ t ∧ b.Bounds t

theorem cutAxis_spans {P Q : ℚ → Prop} {r : Option (Ext × Ext)} {axis : Option (Option (Ext × Ext))} (hr : Spans P r)
    (ha : AxisSpans Q axis) : Spans (fun t => P t ∧ Q t) (cutAxis r axis) := by
  match r, axis with
  | none, _ => exact fun t h => hr t h.1
  | some _, none => exact fun t h => ha t h.2
  | some (a, b), some none =>
    obtain ⟨fa, ub, left⟩ := hr
    exact ⟨fa, ub, fun t => (and_iff_left (ha t)).trans (left t)⟩
  | some (a, b), some (some (c, d)) =>
    obtain ⟨fa, ub, left⟩ := hr
    obtain ⟨fc, fd, right⟩ := ha
    refine ⟨Ext.max_finite fa fc, Ext.min_upper ub fd, fun t => (and_congr (left t) (right t)).trans ?_⟩
    rw [ Ext.val_max fa fc, max_le_iff, Ext.bounds_min ub fd]
    exact and_and_and_comm

/-- The interval of a ray within a box that is not empty. -/
def Ray.cut (r : Ray) (b : Box) : Option (Ext × Ext) :=
  cutAxis (cutAxis (cutAxis (some (r.tmin, r.tmax)) (axisRange r.origin.x r.dir.x b.lo.x b.hi.x))
    (axisRange r.origin.y r.dir.y b.lo.y b.hi.y)) (axisRange r.origin.z r.dir.z b.lo.z b.hi.z)

section
variable {r : Ray} {b : Box}

theorem Ray.entry_empty (empty : b.isEmpty = true) : r.entry b = none := if_pos empty

theorem Ray.entry_cut (some_ : b.isEmpty = false) :
    r.entry b = (r.cut b).bind fun x => if x.1.le x.2 then some x.1 else none := by
  rw [Ray.entry, if_neg (by simp [some_])]
  unfold Ray.cut
  dsimp only
  split
  · next h => rw [h, Option.bind_some]
  · next h => rw [h, Option.bind_none]

theorem Box.isEmpty_eq_false : b.isEmpty = false ↔ b.lo.x ≤ b.hi.x ∧ b.lo.y ≤ b.hi.y ∧ b.lo.z ≤ b.hi.z := by
  simp [Box.isEmpty, and_assoc]

theorem Ray.meets_iff (t : ℚ) : r.meets b t ↔ ((r.within false t ∧ InSlab r.origin.x r.dir.x b.lo.x b.hi.x t) ∧
    InSlab r.origin.y r.dir.y b.lo.y b.hi.y t) ∧ InSlab r.origin.z r.dir.z b.lo.z b.hi.z t := by
  rw [and_assoc, and_assoc]
  rfl

theorem Ray.meets_not_empty {t : ℚ} (meets : r.meets b t) : b.isEmpty = false := by
  obtain ⟨⟨⟨_, x⟩, y⟩, z⟩ := (r.meets_iff t).mp meets
  exact Box.isEmpty_eq_false.mpr
    ⟨Int.cast_le.mp (x.1.trans x.2), Int.cast_le.mp (y.1.trans y.2), Int.cast_le.mp (z.1.trans z.2)⟩

variable (lower : r.tmin.den ≠ 0) (upper : r.tmax.Upper)
include lower upper

theorem Ray.cut_spans (some_ : b.isEmpty = false) : Spans (r.meets b) (r.cut b) := by
  obtain ⟨x, y, z⟩ := Box.isEmpty_eq_false.mp some_
  have whole : Spans (r.within false) (some (r.tmin, r.tmax)) := ⟨lower, upper, fun t => Iff.rfl⟩
  rw [show r.meets b = _ from funext fun t => propext (r.meets_iff t)]
  exact cutAxis_spans (cutAxis_spans (cutAxis_spans whole (axisRange_spans x)) (axisRange_spans y)) (axisRange_spans z)

/-- The entry of a ray into a box is the least number at which it meets the box. -/
theorem Ray.entry_least {x : Ext} (entered : r.entry b = some x) :
    x.den ≠ 0 ∧ r.meets b x.val ∧ ∀ t, r.meets b t → x.val ≤ t := by
  have some_ : b.isEmpty = false := Bool.eq_false_iff.mpr fun empty => by simp [Ray.entry_empty empty] at entered
  rw [Ray.entry_cut some_, Option.bind_eq_some_iff] at entered
  obtain ⟨⟨a, e⟩, cut, first⟩ := entered
  have spans := r.cut_spans lower upper some_
  rw [cut] at spans
  obtain ⟨fa, ue, spans⟩ := spans
  obtain ⟨fits, here⟩ := Option.ite_none_right_eq_some.mp first
  cases here
  refine ⟨fa, (spans _).mpr ⟨le_rfl, (Ext.le_iff_bounds fa ue).mp fits⟩, fun t meets => ((spans t).mp meets).1⟩

/-- A ray without an entry into a box does not meet it. -/
theorem Ray.not_meets_of_entry_none (missed : r.entry b = none) (t : ℚ) : ¬ r.meets b t := by
  intro meets
  have some_ := r.meets_not_empty meets
  have spans := r.cut_spans lower upper some_
  rw [Ray.entry_cut some_] at missed
  cases cut : r.cut b with
  | none =>
    rw [cut] at spans
    exact spans t meets
  | some x =>
    obtain ⟨a, e⟩ := x
    rw [cut] at spans missed
    obtain ⟨fa, ue, spans⟩ := spans
    obtain ⟨above, below⟩ := (spans t).mp meets
    have fits := (Ext.le_iff_bounds fa ue).mpr fun f => above.trans (below f)
    simp [fits] at missed

end

end Sys2Proof.Machine
end

section
/-! SUPPORT. The triangle test (R405): the solution of the three equations by which the point of a ray is the point of a
triangle, and the order of the numbers in it. -/

namespace Sys2Proof.Machine

/-! ### Numbers of a test -/

theorem Ext.nonneg_iff {a : Ext} (finite : a.den ≠ 0) : 0 ≤ a.num ↔ 0 ≤ a.val := by
  rw [Ext.val, le_div_iff₀ (Nat.cast_pos.mpr (Nat.pos_of_ne_zero finite)), zero_mul, Int.cast_nonneg_iff]

theorem ratio_den (x d : Int) : (ratio x d).den = d.natAbs := by
  rw [ratio]
  split <;> rfl

theorem ratio_sum_le_one {x y d : Int} (some_ : d ≠ 0) :
    (ratio x d).num + (ratio y d).num ≤ ((ratio x d).den : Int) ↔ (ratio x d).val + (ratio y d).val ≤ 1 := by
  rw [Ext.val, Ext.val, ratio_den, ratio_den, ← add_div,
    div_le_one (Nat.cast_pos.mpr (Int.natAbs_pos.mpr some_)), ← Int.cast_add, ← Int.cast_natCast (R := ℚ), Int.cast_le]

/-! ### The equations of a hit -/

/-- Cramer's rule for `s + t d = u a + v b` in three coordinates. -/
theorem cramer {sx sy sz dx dy dz ax ay az bx bY bz t u v det : ℚ} (some_ : det ≠ 0)
    (volume : det = ax * (dy * bz - dz * bY) + ay * (dz * bx - dx * bz) + az * (dx * bY - dy * bx)) :
    sx + t * dx = u * ax + v * bx ∧ sy + t * dy = u * ay + v * bY ∧ sz + t * dz = u * az + v * bz ↔
    t * det = bx * (sy * az - sz * ay) + bY * (sz * ax - sx * az) + bz * (sx * ay - sy * ax) ∧
      u * det = sx * (dy * bz - dz * bY) + sy * (dz * bx - dx * bz) + sz * (dx * bY - dy * bx) ∧
      v * det = dx * (sy * az - sz * ay) + dy * (sz * ax - sx * az) + dz * (sx * ay - sy * ax) := by
  subst volume
  constructor
  · rintro ⟨x, y, z⟩
    refine ⟨?_, ?_, ?_⟩
    · linear_combination -(ay * bz - az * bY) * x - (az * bx - ax * bz) * y - (ax * bY - ay * bx) * z
    · linear_combination -(dy * bz - dz * bY) * x - (dz * bx - dx * bz) * y - (dx * bY - dy * bx) * z
    · linear_combination -(ay * dz - az * dy) * x - (az * dx - ax * dz) * y - (ax * dy - ay * dx) * z
  · rintro ⟨ht, hu, hv⟩
    refine ⟨mul_right_cancel₀ some_ ?_, mul_right_cancel₀ some_ ?_, mul_right_cancel₀ some_ ?_⟩
    · linear_combination dx * ht - ax * hu - bx * hv
    · linear_combination dy * ht - ay * hu - bY * hv
    · linear_combination dz * ht - az * hu - bz * hv

namespace Ray
variable (r : Ray) (v0 v1 v2 : Vec3)

/-- The volume that a ray's direction and the two edges of a triangle span. -/
def triDet : Int := (v1.sub v0).dot (r.dir.cross (v2.sub v0))

/-- The numbers of R405 over that volume, for t, u and v. -/
def triT : Int := (v2.sub v0).dot ((r.origin.sub v0).cross (v1.sub v0))
def triU : Int := (r.origin.sub v0).dot (r.dir.cross (v2.sub v0))
def triV : Int := r.dir.dot ((r.origin.sub v0).cross (v1.sub v0))

/-- The test of R405 on those numbers. -/
def triTest : Bool :=
  let det := r.triDet v0 v1 v2
  let t := ratio (r.triT v0 v1 v2) det
  let u := ratio (r.triU v0 v2) det
  let v := ratio (r.triV v0 v1) det
  decide (0 ≤ u.num) && decide (0 ≤ v.num) && decide (u.num + v.num ≤ (u.den : Int)) && r.tmin.le t && t.lt r.tmax

theorem triangle_eq {bs : List Byte} (h0 : vec3At bs 0 = some v0) (h1 : vec3At bs 12 = some v1)
    (h2 : vec3At bs 24 = some v2) : r.triangle bs =
      if r.triDet v0 v1 v2 = 0 then none
      else if r.triTest v0 v1 v2 then
        some { t := (ratio (r.triT v0 v1 v2) (r.triDet v0 v1 v2)).round
               u := (ratio (r.triU v0 v2) (r.triDet v0 v1 v2)).round
               v := (ratio (r.triV v0 v1) (r.triDet v0 v1 v2)).round
               back := decide (r.triDet v0 v1 v2 < 0) }
      else none := by
  unfold triangle
  rw [h0, h1, h2]
  rfl

variable {r v0 v1 v2} (some_ : r.triDet v0 v1 v2 ≠ 0)
include some_

/-- A ray strikes a triangle that it is not parallel to at one point of its plane at most. -/
theorem strikes_iff (t u v : ℚ) : r.strikes v0 v1 v2 t u v ↔ 0 ≤ u ∧ 0 ≤ v ∧ u + v ≤ 1 ∧ r.within true t ∧
    t = (ratio (r.triT v0 v1 v2) (r.triDet v0 v1 v2)).val ∧ u = (ratio (r.triU v0 v2) (r.triDet v0 v1 v2)).val ∧
      v = (ratio (r.triV v0 v1) (r.triDet v0 v1 v2)).val := by
  have det : ((r.triDet v0 v1 v2 : Int) : ℚ) ≠ 0 := Int.cast_ne_zero.mpr some_
  have solves := cramer (sx := r.origin.x - v0.x) (sy := r.origin.y - v0.y) (sz := r.origin.z - v0.z) (dx := r.dir.x)
    (dy := r.dir.y) (dz := r.dir.z) (ax := v1.x - v0.x) (ay := v1.y - v0.y) (az := v1.z - v0.z) (bx := v2.x - v0.x)
    (bY := v2.y - v0.y) (bz := v2.z - v0.z) (t := t) (u := u) (v := v) det
    (by simp [triDet, Vec3.sub, Vec3.cross, Vec3.dot])
  rw [ratio_val, ratio_val, ratio_val, eq_div_iff det, eq_div_iff det, eq_div_iff det]
  have sums (o d a b c : ℚ) : o + t * d = a + u * (b - a) + v * (c - a) ↔
      o - a + t * d = u * (b - a) + v * (c - a) := by
    constructor <;> intro h <;> linear_combination h
  unfold strikes
  dsimp only
  rw [sums, sums, sums, solves]
  simp [triT, triU, triV, Vec3.sub, Vec3.cross, Vec3.dot]

theorem triTest_iff (lower : r.tmin.den ≠ 0) (upper : r.tmax.Upper) : r.triTest v0 v1 v2 = true ↔
    r.strikes v0 v1 v2 (ratio (r.triT v0 v1 v2) (r.triDet v0 v1 v2)).val
      (ratio (r.triU v0 v2) (r.triDet v0 v1 v2)).val (ratio (r.triV v0 v1) (r.triDet v0 v1 v2)).val := by
  have finite (x : Int) := ratio_finite x some_
  rw [strikes_iff some_, triTest]
  simp only [Bool.and_eq_true, decide_eq_true_iff, and_true]
  rw [Ext.nonneg_iff (finite _), Ext.nonneg_iff (finite _), ratio_sum_le_one some_, Ext.le_iff_val lower (finite _),
    Ext.lt_iff_val (finite _) upper, within]
  simp only [if_true, and_assoc]

end Ray

end Sys2Proof.Machine
end

section
/-! SUPPORT. The hits of `box4` and its result (R404): the order of entries, the order in which hits are reported, and the
number that encodes them. -/

namespace Sys2Proof.Machine

/-! ### The order of entries -/

/-- An extended real that is a number or an infinity of some sign. -/
def Ext.Proper (a : Ext) : Prop := a.den ≠ 0 ∨ a.num ≠ 0

/-- The place of an extended real in their order: the infinities stand outside the numbers. -/
def Ext.key (a : Ext) : ℤ ×ₗ ℚ := if a.den = 0 then toLex (a.num, 0) else toLex (0, a.val)

theorem Ext.le_iff_key {a b : Ext} (ha : a.Proper) (hb : b.Proper) : a.le b = true ↔ a.key ≤ b.key := by
  by_cases ia : a.den = 0 <;> by_cases ib : b.den = 0
  · rw [Ext.le, if_pos ⟨ia, ib⟩, key, key, if_pos ia, if_pos ib, Prod.Lex.toLex_le_toLex, decide_eq_true_iff]
    simp [le_iff_lt_or_eq]
  · have signed := ha.resolve_left fun f => f ia
    have pos : (0 : Int) < b.den := Int.natCast_pos.mpr (Nat.pos_of_ne_zero ib)
    have below : a.num * b.den ≤ b.num * (0 : Nat) ↔ a.num < 0 := by
      rw [Nat.cast_zero, mul_zero, ← not_lt, mul_pos_iff_of_pos_right pos, not_lt, signed.le_iff_lt]
    rw [Ext.le, if_neg fun h => ib h.2, key, key, if_pos ia, if_neg ib, Prod.Lex.toLex_le_toLex, decide_eq_true_iff, ia,
      below]
    simp [signed]
  · have signed := hb.resolve_left fun f => f ib
    have pos : (0 : Int) < a.den := Int.natCast_pos.mpr (Nat.pos_of_ne_zero ia)
    have above : a.num * (0 : Nat) ≤ b.num * a.den ↔ 0 < b.num := by
      rw [Nat.cast_zero, mul_zero, mul_nonneg_iff_of_pos_right pos, signed.symm.le_iff_lt]
    rw [Ext.le, if_neg fun h => ia h.1, key, key, if_neg ia, if_pos ib, Prod.Lex.toLex_le_toLex, decide_eq_true_iff, ib,
      above]
    simp [signed.symm]
  · rw [le_iff_val ia ib, key, key, if_neg ia, if_neg ib, Prod.Lex.toLex_le_toLex]
    simp

theorem f32Ext_proper {bits : Nat} {a : Ext} (h : f32Ext bits = some a) : a.Proper := by
  unfold f32Ext at h
  split at h <;> cases h
  · exact .inl (by positivity)
  · next neg _ => exact .inr (by cases neg <;> decide)

theorem rayOf_tmin_proper {bs : List Byte} {r : Ray} (h : rayOf bs = some r) : r.tmin.Proper := by
  unfold rayOf at h
  split at h <;> cases h
  next lower _ => exact f32Ext_proper lower

theorem Ext.max_proper {a b : Ext} (ha : a.Proper) (hb : b.Proper) : (a.max b).Proper := by
  rw [Ext.max]
  split <;> assumption

theorem cutAxis_proper {r : Option (Ext × Ext)} (o d lo hi : Int) (h : ∀ x ∈ r, x.1.Proper) :
    ∀ x ∈ cutAxis r (axisRange o d lo hi), x.1.Proper := by
  match r with
  | none => exact fun x hx => nomatch hx
  | some (a, b) =>
    have own := h _ rfl
    unfold axisRange
    by_cases still : d = 0
    · rw [if_pos still]
      split
      · exact h
      · exact fun x hx => nomatch hx
    · rw [if_neg still]
      rintro _ ⟨⟩
      exact Ext.max_proper own (.inl (Ext.min_finite (ratio_finite _ still) (ratio_finite _ still)))

/-- The entry of a ray of a record is a number or an infinity. -/
theorem Ray.entry_proper {r : Ray} {b : Box} {x : Ext} (lower : r.tmin.Proper) (entered : r.entry b = some x) :
    x.Proper := by
  cases empty : b.isEmpty with
  | true => simp [Ray.entry_empty empty] at entered
  | false =>
    rw [Ray.entry_cut empty, Option.bind_eq_some_iff] at entered
    obtain ⟨y, cut, first⟩ := entered
    obtain ⟨_, here⟩ := Option.ite_none_right_eq_some.mp first
    cases here
    have whole : ∀ y ∈ some (r.tmin, r.tmax), y.1.Proper := by
      rintro _ ⟨⟩
      exact lower
    exact cutAxis_proper _ _ _ _ (cutAxis_proper _ _ _ _ (cutAxis_proper _ _ _ _ whole)) y cut

/-! ### The order of hits -/

/-- A hit is reported before another: at a lower entry, or at the same and by a lower child. -/
def HitBefore (y x : Nat × Ext) : Prop := y.2.le x.2 = true ∧ (x.2.le y.2 = true → y.1 < x.1)

/-- The hits in the order in which `box4` reports them. -/
def hitOrder (hits : List (Nat × Ext)) : List (Nat × Ext) := hits.foldl (fun l x => insertHit x l) []

theorem insertHit_perm (x : Nat × Ext) (l : List (Nat × Ext)) : (insertHit x l).Perm (x :: l) := by
  induction l with
  | nil => rfl
  | cons y l ih =>
    rw [insertHit]
    split
    · rfl
    · exact (ih.cons y).trans (.swap x y l)

/-- A hit of a later child takes its place among hits that are in order. -/
theorem insertHit_sorted {x : Nat × Ext} {l : List (Nat × Ext)} (px : x.2.Proper) (pl : ∀ y ∈ l, y.2.Proper)
    (later : ∀ y ∈ l, y.1 < x.1) (sorted : l.Pairwise HitBefore) : (insertHit x l).Pairwise HitBefore := by
  induction l with
  | nil => exact List.pairwise_singleton _ _
  | cons y l ih =>
    obtain ⟨first, rest⟩ := List.pairwise_cons.mp sorted
    obtain ⟨py, pl⟩ := List.forall_mem_cons.mp pl
    obtain ⟨ly, ll⟩ := List.forall_mem_cons.mp later
    rw [insertHit]
    split
    · next less =>
      rw [Ext.lt, Bool.not_eq_true', ← Bool.not_eq_true, Ext.le_iff_key py px, not_le] at less
      have below {z : Nat × Ext} (pz : z.2.Proper) (above : y.2.key ≤ z.2.key) : HitBefore x z := by
        have less := less.trans_le above
        exact ⟨(Ext.le_iff_key px pz).mpr less.le, fun h => absurd ((Ext.le_iff_key pz px).mp h) less.not_ge⟩
      refine List.pairwise_cons.mpr ⟨List.forall_mem_cons.mpr ⟨below py le_rfl, fun z hz => ?_⟩, sorted⟩
      exact below (pl z hz) ((Ext.le_iff_key py (pl z hz)).mp (first z hz).1)
    · next more =>
      rw [Ext.lt, Bool.not_eq_true', Bool.not_eq_false] at more
      refine List.pairwise_cons.mpr ⟨fun z hz => ?_, ih pl ll rest⟩
      obtain rfl | hz := List.mem_cons.mp ((insertHit_perm x l).mem_iff.mp hz)
      · exact ⟨more, fun _ => ly⟩
      · exact first z hz

theorem hitOrder_perm (hits : List (Nat × Ext)) : (hitOrder hits).Perm hits := by
  have go (l : List (Nat × Ext)) : (hits.foldl (fun l x => insertHit x l) l).Perm (hits ++ l) := by
    induction hits generalizing l with
    | nil => rfl
    | cons x hits ih =>
      exact (ih (insertHit x l)).trans (((insertHit_perm x l).append_left hits).trans List.perm_middle)
  have all := go []
  rwa [List.append_nil] at all

/-- Hits found in rising order of their children are put in order. -/
theorem hitOrder_sorted {hits : List (Nat × Ext)} (proper : ∀ x ∈ hits, x.2.Proper)
    (rising : hits.Pairwise fun x y => x.1 < y.1) : (hitOrder hits).Pairwise HitBefore := by
  have go (l : List (Nat × Ext)) (pl : ∀ y ∈ l, y.2.Proper) (later : ∀ y ∈ l, ∀ x ∈ hits, y.1 < x.1)
      (sorted : l.Pairwise HitBefore) : (hits.foldl (fun l x => insertHit x l) l).Pairwise HitBefore := by
    induction hits generalizing l with
    | nil => exact sorted
    | cons x hits ih =>
      obtain ⟨px, proper⟩ := List.forall_mem_cons.mp proper
      obtain ⟨first, rising⟩ := List.pairwise_cons.mp rising
      have mem {y : Nat × Ext} (hy : y ∈ insertHit x l) : y = x ∨ y ∈ l :=
        List.mem_cons.mp ((insertHit_perm x l).mem_iff.mp hy)
      refine ih proper rising (insertHit x l) (fun y hy => ?_) (fun y hy z hz => ?_)
        (insertHit_sorted px pl (fun y hy => later y hy x List.mem_cons_self) sorted)
      · exact (mem hy).elim (fun h => h ▸ px) (pl y)
      · exact (mem hy).elim (fun h => h ▸ first z hz) fun h => later y h z (List.mem_cons_of_mem _ hz)
  exact go [] (by simp) (by simp) .nil

/-! ### The encoding -/

theorem foldl_add_map {α : Type} (f : α → Nat) (l : List α) (a : Nat) :
    l.foldl (fun m x => m + f x) a = a + (l.map f).sum := by
  induction l generalizing a with
  | nil => rfl
  | cons x l ih => rw [List.foldl_cons, ih, List.map_cons, List.sum_cons, Nat.add_assoc]

/-- Children in their places, two bits each. -/
theorem sum_places (l : List (Nat × Ext)) (k : Nat) :
    ((l.zip (List.range' k l.length)).map fun x => x.1.1 * 2 ^ (2 * x.2 + 4)).sum =
      2 ^ (2 * k + 4) * Nat.ofDigits 4 (l.map (·.1)) := by
  induction l generalizing k with
  | nil => rfl
  | cons x l ih =>
    rw [List.length_cons, List.range'_succ, List.zip_cons_cons, List.map_cons, List.sum_cons, ih, List.map_cons,
      Nat.ofDigits_cons, show 2 * (k + 1) + 4 = 2 * k + 4 + 2 by ring, pow_add]
    ring

/-- The mask of the children that are hit. -/
def hitMask (hits : List (Nat × Ext)) : Nat := ((hits.map (·.1)).map (2 ^ ·)).sum

/-- The result of `box4` is the mask, the places in order, and the count. -/
theorem boxResult_eq (hits : List (Nat × Ext)) : boxResult hits =
    hitMask hits + 2 ^ 4 * Nat.ofDigits 4 ((hitOrder hits).map (·.1)) + hits.length * 2 ^ 12 := by
  have mask := foldl_add_map (fun x : Nat × Ext => 2 ^ x.1) hits 0
  have places := foldl_add_map (fun x : (Nat × Ext) × Nat => x.1.1 * 2 ^ (2 * x.2 + 4))
    ((hitOrder hits).zip (List.range (hitOrder hits).length)) 0
  rw [List.range_eq_range', sum_places, Nat.zero_add, ← List.range_eq_range'] at places
  rw [Nat.zero_add] at mask
  rw [hitMask, List.map_map]
  exact congrArg₂ (· + · + hits.length * 2 ^ 12) mask places

section encoding
variable {hits : List (Nat × Ext)} (rising : hits.Pairwise fun x y => x.1 < y.1) (small : ∀ x ∈ hits, x.1 < 4)
include rising

theorem mask_testBit (t : Nat) : (hitMask hits).testBit t = hits.any fun x => x.1 == t := by
  have sorted : (hits.map (·.1)).SortedLT := List.sortedLT_iff_pairwise.mpr (List.pairwise_map.mpr rising)
  rw [Bool.eq_iff_iff, ← Nat.mem_bitIndices, hitMask, Nat.bitIndices_sum_map_two_pow sorted, List.any_eq_true]
  simp

include small

theorem mask_lt : hitMask hits < 2 ^ 4 := by
  refine Nat.lt_pow_two_of_testBit _ fun t big => ?_
  rw [mask_testBit rising]
  exact List.any_eq_false.mpr fun x hx => by simpa using ((small x hx).trans_le big).ne

theorem hits_length_le : hits.length ≤ 4 := by
  have once : (hits.map (·.1)).Nodup := (List.pairwise_map.mpr rising).imp fun h => h.ne
  have part : (hits.map (·.1)).Subperm (List.range 4) :=
    once.subperm fun t ht => by
      obtain ⟨x, hx, rfl⟩ := List.mem_map.mp ht
      exact List.mem_range.mpr (small x hx)
  simpa using part.length_le

omit rising in
theorem place_lt {d : Nat} (mem : d ∈ (hitOrder hits).map (·.1)) : d < 4 := by
  obtain ⟨x, hx, rfl⟩ := List.mem_map.mp mem
  exact small x ((hitOrder_perm hits).mem_iff.mp hx)

theorem places_lt : Nat.ofDigits 4 ((hitOrder hits).map (·.1)) < 4 ^ 4 := by
  refine (Nat.ofDigits_lt_base_pow_length (by decide) fun d => place_lt small).trans_le ?_
  rw [List.length_map, (hitOrder_perm hits).length_eq]
  exact Nat.pow_le_pow_right (by decide) (hits_length_le rising small)

theorem boxResult_testBit {t : Nat} (low : t < 4) : (boxResult hits).testBit t = hits.any fun x => x.1 == t := by
  rw [← mask_testBit rising, boxResult_eq]
  rw [show ∀ a b c : Nat, a + 2 ^ 4 * b + c * 2 ^ 12 = 2 ^ 4 * (b + c * 2 ^ 8) + a by omega,
    Nat.testBit_two_pow_mul_add _ (mask_lt rising small), if_pos low]

theorem boxResult_count : boxResult hits / 2 ^ 12 = hits.length := by
  have mask := mask_lt rising small
  have places := places_lt rising small
  rw [boxResult_eq]
  omega

/-- The place `k` of the result is the child of the hit that is reported there. -/
theorem boxResult_place {k : Nat} (within : k < (hitOrder hits).length) :
    boxResult hits / 2 ^ (2 * k + 4) % 4 = (hitOrder hits)[k].1 := by
  have mask := mask_lt rising small
  have few : k < 4 := by
    have := hits_length_le rising small
    rw [(hitOrder_perm hits).length_eq] at within
    omega
  have digit : Nat.ofDigits 4 ((hitOrder hits).map (·.1)) / 4 ^ k % 4 = (hitOrder hits)[k].1 := by
    have long : k < ((hitOrder hits).map (·.1)).length := by rwa [List.length_map]
    rw [Nat.ofDigits_div_pow_eq_ofDigits_drop k (by decide) _ fun d => place_lt small, List.drop_eq_getElem_cons long,
      Nat.ofDigits_cons, Nat.add_mul_mod_self_left, List.getElem_map]
    exact Nat.mod_eq_of_lt (small _ ((hitOrder_perm hits).mem_iff.mp (List.getElem_mem within)))
  rw [← digit, boxResult_eq]
  interval_cases k <;> omega

end encoding

/-! ### The hits -/

/-- A child is hit where it exists, its box is well formed, and the ray meets it (R404). -/
theorem mem_boxHits {w : Walk} {bs : List Byte} {i t : Nat} {x : Ext} : (t, x) ∈ boxHits w bs i ↔
    t < 4 ∧ i + t < w.layout.kids bs ∧ ∃ r b, rayOf w.bytes = some r ∧ w.layout.boxOf bs (i + t) = some b ∧
      r.entry b = some x := by
  unfold boxHits
  cases ray : rayOf w.bytes with
  | none => simp
  | some r =>
    simp only [List.mem_filterMap, List.mem_range, Option.some.injEq, exists_and_left, exists_eq_left']
    constructor
    · rintro ⟨t', low, found⟩
      split at found
      · next kid =>
        split at found
        · next b box =>
          obtain ⟨x', entered, same⟩ := Option.map_eq_some_iff.mp found
          cases same
          exact ⟨low, kid, b, box, entered⟩
        · cases found
      · cases found
    · rintro ⟨low, kid, b, box, entered⟩
      exact ⟨t, low, by simp only [if_pos kid, box, entered, Option.map_some]⟩

theorem boxHits_small {w : Walk} {bs : List Byte} {i : Nat} : ∀ x ∈ boxHits w bs i, x.1 < 4 :=
  fun _ hx => (mem_boxHits.mp hx).1

theorem boxHits_proper {w : Walk} {bs : List Byte} {i : Nat} : ∀ x ∈ boxHits w bs i, x.2.Proper := fun _ hx => by
  obtain ⟨_, _, r, b, ray, _, entered⟩ := mem_boxHits.mp hx
  exact Ray.entry_proper (rayOf_tmin_proper ray) entered

/-- The hits are found in rising order of their children. -/
theorem boxHits_rising {w : Walk} {bs : List Byte} {i : Nat} : (boxHits w bs i).Pairwise fun x y => x.1 < y.1 := by
  unfold boxHits
  split
  · exact .nil
  · next r _ =>
    have own {t : Nat} {y : Nat × Ext} (found : (if i + t < w.layout.kids bs then
        match w.layout.boxOf bs (i + t) with
        | some b => (r.entry b).map fun x => (t, x)
        | none => none
      else none) = some y) : y.1 = t := by
      split at found
      · split at found
        · obtain ⟨x, _, rfl⟩ := Option.map_eq_some_iff.mp found
          rfl
        · cases found
      · cases found
    refine List.pairwise_filterMap.mpr (List.pairwise_lt_range.imp fun less y hy z hz => ?_)
    rwa [own hy, own hz]

/-- Each place of the result names a hit, and every place before it a hit that is reported before. -/
theorem boxResult_ordered (w : Walk) (bs : List Byte) (i k : Nat) (within : k < (boxHits w bs i).length) :
    ∃ x, (boxResult (boxHits w bs i) / 2 ^ (2 * k + 4) % 4, x) ∈ boxHits w bs i ∧ ∀ k' < k, ∃ x',
      (boxResult (boxHits w bs i) / 2 ^ (2 * k' + 4) % 4, x') ∈ boxHits w bs i ∧
      HitBefore (boxResult (boxHits w bs i) / 2 ^ (2 * k' + 4) % 4, x')
        (boxResult (boxHits w bs i) / 2 ^ (2 * k + 4) % 4, x) := by
  have perm := hitOrder_perm (boxHits w bs i)
  have sorted := hitOrder_sorted (boxHits_proper (w := w) (bs := bs) (i := i)) boxHits_rising
  rw [← perm.length_eq] at within
  have place {k : Nat} (within : k < (hitOrder (boxHits w bs i)).length) :
      (boxResult (boxHits w bs i) / 2 ^ (2 * k + 4) % 4, (hitOrder (boxHits w bs i))[k].2) =
        (hitOrder (boxHits w bs i))[k] := by
    rw [boxResult_place boxHits_rising boxHits_small within]
  have found {k : Nat} (within : k < (hitOrder (boxHits w bs i)).length) :
      (boxResult (boxHits w bs i) / 2 ^ (2 * k + 4) % 4, (hitOrder (boxHits w bs i))[k].2) ∈ boxHits w bs i := by
    rw [place within]
    exact perm.mem_iff.mp (List.getElem_mem within)
  refine ⟨(hitOrder (boxHits w bs i))[k].2, found within, fun k' less =>
    ⟨(hitOrder (boxHits w bs i))[k'].2, found (less.trans within), ?_⟩⟩
  rw [place within, place (less.trans within)]
  exact List.pairwise_iff_getElem.mp sorted k' k (less.trans within) within less

end Sys2Proof.Machine
end

section
/-! SUPPORT. Screen tiles (R406): an edge covers a sample of a tile exactly when it covers the sample at which its value is
greatest. -/

namespace Sys2Proof

open Machine

/-! ### The value of an exact number -/

/-- The value of a finite number that stands for itself; 0 otherwise. -/
def Num.val : Num → ℚ
  | .nan => 0
  | .inf _ => 0
  | .fin neg m e _ => (if neg then -(m : ℚ) else m) * 2 ^ e

/-- A number that is not a NaN or an infinity. -/
def Num.Finite (a : Num) : Prop := a.isNan = false ∧ a.isInf = false

/-- A number is at most another: the same, or both finite. -/
def Num.Rises (a b : Num) : Prop := a = b ∨ a.Finite ∧ b.Finite ∧ a.val ≤ b.val

theorem scaled_val (neg : Bool) (m : Nat) {x e : Int} (st : Bool) (low : e ≤ x) :
    (scaled neg m x e : ℚ) * 2 ^ e = (Num.fin neg m x st).val := by
  have split : (2 : ℚ) ^ x = 2 ^ (x - e).toNat * 2 ^ e := by
    rw [← zpow_natCast, Int.toNat_of_nonneg (sub_nonneg.mpr low), ← zpow_add₀ two_ne_zero, sub_add_cancel]
  rw [Num.val, split, scaled]
  cases neg <;> simp [mul_assoc]

theorem Num.val_of_scaled (i e : Int) (st : Bool) : (Num.fin (decide (i < 0)) i.natAbs e st).val = i * 2 ^ e := by
  rw [Num.val, ← Int.cast_natCast]
  by_cases neg : i < 0
  · rw [if_pos (decide_eq_true neg), Int.ofNat_natAbs_of_nonpos neg.le, Int.cast_neg, neg_neg]
  · rw [if_neg (by simpa using neg), Int.natAbs_of_nonneg (not_lt.mp neg)]

/-- The sum of finite numbers is exact. -/
theorem Num.add_val {a b : Num} (mode : Rnd) (ha : a.Finite) (hb : b.Finite) :
    (a.add mode b).Finite ∧ (a.add mode b).val = a.val + b.val := by
  match a, b with
  | .fin n1 m1 e1 s1, .fin n2 m2 e2 s2 =>
    have none_ (n : Bool) (e : Int) (s : Bool) : (Num.fin n 0 e s).val = 0 := by cases n <;> simp [Num.val]
    rw [Num.add]
    split
    · next h =>
      obtain ⟨rfl, _⟩ := h
      exact ⟨⟨rfl, rfl⟩, by rw [none_ n2, add_zero]⟩
    · split
      · next h =>
        obtain ⟨rfl, _⟩ := h
        exact ⟨⟨rfl, rfl⟩, by rw [none_ n1, zero_add]⟩
      · dsimp only
        have sum : ((scaled n1 m1 e1 (min e1 e2) + scaled n2 m2 e2 (min e1 e2) : Int) : ℚ) * 2 ^ min e1 e2 =
            (Num.fin n1 m1 e1 s1).val + (Num.fin n2 m2 e2 s2).val := by
          rw [Int.cast_add, add_mul, scaled_val _ _ s1 (min_le_left _ _), scaled_val _ _ s2 (min_le_right _ _)]
        rw [← sum]
        split
        · next zero => exact ⟨⟨rfl, rfl⟩, by rw [zero, Num.zero, none_, Int.cast_zero, zero_mul]⟩
        · exact ⟨⟨rfl, rfl⟩, Num.val_of_scaled ..⟩

theorem Num.add_of_not_finite {a b c : Num} (mode : Rnd) (ha : a.Finite) (hb : b.Finite) (hc : ¬ c.Finite) :
    a.add mode c = b.add mode c ∧ c.add mode a = c.add mode b := by
  match a, b, c with
  | .fin .., .fin .., .nan => exact ⟨rfl, rfl⟩
  | .fin .., .fin .., .inf _ => exact ⟨rfl, rfl⟩
  | .fin .., .fin .., .fin .. => exact absurd ⟨rfl, rfl⟩ hc

theorem Num.Rises.trans {a b c : Num} (left : a.Rises b) (right : b.Rises c) : a.Rises c := by
  obtain rfl | ⟨fa, fb, ab⟩ := left
  · exact right
  · obtain rfl | ⟨_, fc, bc⟩ := right
    · exact .inr ⟨fa, fb, ab⟩
    · exact .inr ⟨fa, fc, ab.trans bc⟩

theorem Num.Rises.add_right {a b : Num} (h : a.Rises b) (mode : Rnd) (c : Num) :
    (a.add mode c).Rises (b.add mode c) := by
  obtain rfl | ⟨fa, fb, ab⟩ := h
  · exact .inl rfl
  · by_cases fc : c.Finite
    · obtain ⟨fac, ac⟩ := Num.add_val mode fa fc
      obtain ⟨fbc, bc⟩ := Num.add_val mode fb fc
      exact .inr ⟨fac, fbc, by rw [ac, bc]; exact add_le_add_left ab _⟩
    · exact .inl (Num.add_of_not_finite mode fa fb fc).1

theorem Num.Rises.add_left {a b : Num} (h : a.Rises b) (mode : Rnd) (c : Num) :
    (c.add mode a).Rises (c.add mode b) := by
  obtain rfl | ⟨fa, fb, ab⟩ := h
  · exact .inl rfl
  · by_cases fc : c.Finite
    · obtain ⟨fac, ac⟩ := Num.add_val mode fc fa
      obtain ⟨fbc, bc⟩ := Num.add_val mode fc fb
      exact .inr ⟨fac, fbc, by rw [ac, bc]; exact add_le_add_right ab _⟩
    · exact .inl (Num.add_of_not_finite mode fa fb fc).2

theorem Num.isZero_iff {a : Num} (finite : a.Finite) : a.isZero = true ↔ a.val = 0 := by
  match a with
  | .fin neg m e _ => cases neg <;> simp [Num.isZero, Num.val, zpow_ne_zero]

namespace Machine

theorem above0_iff {a : Num} (finite : a.Finite) : above0 a = true ↔ 0 < a.val := by
  match a with
  | .fin neg m e st =>
    have value := scaled_val neg m st (min_le_right 0 e)
    rw [above0, Num.zero, Num.lt, decide_eq_true_iff, ← value, mul_pos_iff_of_pos_right (by positivity), Int.cast_pos]
    simp [scaled]

/-! ### An edge over the samples of a tile -/

theorem mul_sampleAt_val {a : Num} (finite : a.Finite) (x : Nat) :
    (a.mul (sampleAt x)).Finite ∧ (a.mul (sampleAt x)).val = a.val * ((2 * x + 1) / 2) := by
  match a with
  | .fin neg m e st =>
    refine ⟨⟨rfl, rfl⟩, ?_⟩
    rw [sampleAt, Num.mul, Num.val, Num.val, zpow_add₀ two_ne_zero]
    cases neg <;> simp <;> ring

theorem mul_sampleAt_of_not_finite {a : Num} (special : ¬ a.Finite) (x y : Nat) :
    a.mul (sampleAt x) = a.mul (sampleAt y) := by
  match a with
  | .nan => rfl
  | .inf _ => rfl
  | .fin .. => exact absurd ⟨rfl, rfl⟩ special

/-- Along one axis of a tile a coefficient's term is greatest at the last sample where the coefficient is above 0, else at
the first. -/
theorem mul_sampleAt_rises (a : Num) (x : Nat) {n i : Nat} (within : i < n) :
    (a.mul (sampleAt (x + i))).Rises (a.mul (sampleAt (if above0 a then x + n - 1 else x))) := by
  by_cases finite : a.Finite
  · obtain ⟨fi, vi⟩ := mul_sampleAt_val finite (x + i)
    obtain ⟨fc, vc⟩ := mul_sampleAt_val finite (if above0 a then x + n - 1 else x)
    refine .inr ⟨fi, fc, ?_⟩
    rw [vi, vc]
    split
    · next pos =>
      have later : ((x + i : Nat) : ℚ) ≤ (x + n - 1 : Nat) := Nat.cast_le.mpr (by omega)
      exact mul_le_mul_of_nonneg_left (by linarith) ((above0_iff finite).mp pos).le
    · next neg =>
      have first : (x : ℚ) ≤ (x + i : Nat) := Nat.cast_le.mpr (by omega)
      exact mul_le_mul_of_nonpos_left (by linarith) (not_lt.mp (mt (above0_iff finite).mpr neg))
  · exact .inl (mul_sampleAt_of_not_finite finite _ _)

/-- An edge that covers a sample covers every sample at which its value is not less. -/
theorem Plane.covers_of_rises {p : Plane} {x y x' y' : Nat} (h : (p.at_ x y).Rises (p.at_ x' y'))
    (covers : p.covers x y = true) : p.covers x' y' = true := by
  unfold Plane.covers at covers ⊢
  dsimp only at covers ⊢
  obtain same | ⟨fa, fb, le⟩ := h
  · rwa [← same]
  · rw [Bool.or_eq_true, Bool.and_eq_true, above0_iff fa, Num.isZero_iff fa] at covers
    rw [Bool.or_eq_true, Bool.and_eq_true, above0_iff fb, Num.isZero_iff fb]
    obtain pos | ⟨zero, tie⟩ := covers
    · exact .inl (pos.trans_le le)
    · rw [zero] at le
      exact le.lt_or_eq.imp_right fun same => ⟨same.symm, tie⟩

/-- An edge touches a tile when it covers one of its samples. -/
theorem Plane.touches_iff (p : Plane) (x y : Nat) {n : Nat} (some_ : 1 ≤ n) :
    p.touches x y n = true ↔ ∃ i < n, ∃ j < n, p.covers (x + i) (y + j) = true := by
  constructor
  · intro touches
    have corner (a : Num) (x : Nat) : ∃ i < n, (if above0 a then x + n - 1 else x) = x + i := by
      split
      · exact ⟨n - 1, by omega, by omega⟩
      · exact ⟨0, some_, rfl⟩
    obtain ⟨i, hi, ex⟩ := corner p.a x
    obtain ⟨j, hj, ey⟩ := corner p.b y
    refine ⟨i, hi, j, hj, ?_⟩
    rwa [← ex, ← ey]
  · rintro ⟨i, hi, j, hj, covers⟩
    have terms := ((mul_sampleAt_rises p.a x hi).add_right .rne _).trans ((mul_sampleAt_rises p.b y hj).add_left .rne _)
    exact Plane.covers_of_rises (terms.add_right .rne p.c) covers

/-- A tile is kept when each edge of its record touches it. -/
theorem tileKept_iff (bs : List Byte) (x y n : Nat) (some_ : 1 ≤ n) : tileKept bs x y n = true ↔
    ∀ off ∈ [0, 12, 24], ∃ i < n, ∃ j < n, (planeAt bs off).covers (x + i) (y + j) = true := by
  simp only [← Plane.touches_iff _ _ _ some_]
  simp [tileKept, edgesOf]

end Machine

end Sys2Proof
end

section
/-! SUPPORT. The operations of a walk on its node, its stack and its record (R220, R223, R402 to R406): what each comes to. -/

namespace Sys2Proof.Machine

/-! ### Fields of a node -/

theorem field_lt (bs : List Byte) (off n : Nat) : field bs off n < 2 ^ (8 * n) := by
  have short : ((bs.drop off).take n).length ≤ n := List.length_take_le ..
  refine (leNat_lt _).trans_le ?_
  rw [pow_mul]
  exact Nat.pow_le_pow_right (by decide) short

theorem toInt_ofNat {n v : Nat} (some_ : 0 < n) (small : v < 2 ^ n) : (BitVec.ofNat n v).toInt = toSigned n v := by
  have half : 2 ^ n = 2 * 2 ^ (n - 1) := by rw [← pow_succ', Nat.sub_add_cancel some_]
  rw [BitVec.toInt_eq_toNat_cond, BitVec.toNat_ofNat, Nat.mod_eq_of_lt small, toSigned, Nat.cast_pow, Nat.cast_ofNat]
  by_cases low : v < 2 ^ (n - 1)
  · rw [if_pos low, if_pos (by omega)]
  · rw [if_neg low, if_neg (by omega)]

theorem ofInt_toSigned {n v : Nat} (some_ : 0 < n) (small : v < 2 ^ n) :
    BitVec.ofInt 64 (toSigned n v) = (BitVec.ofNat n v).signExtend 64 := by
  rw [BitVec.signExtend, toInt_ofNat some_ small]

theorem ofNat_setWidth {n v : Nat} (small : v < 2 ^ n) : (BitVec.ofNat n v).setWidth 64 = BitVec.ofNat 64 v := by
  apply BitVec.eq_of_toNat_eq
  rw [BitVec.toNat_setWidth, BitVec.toNat_ofNat, BitVec.toNat_ofNat, Nat.mod_eq_of_lt small]

/-- A loaded field of 1, 2, 4 or 8 bytes, extended as `fld` asks (R402). -/
theorem fld_value (bs : List Byte) (off : Nat) (n : BitVec 2) (sx : Bool) :
    BitVec.ofInt 64 (if sx then toSigned (8 * 2 ^ n.toNat) (field bs off (2 ^ n.toNat)) else field bs off (2 ^ n.toNat)) =
      (let v := BitVec.ofNat (8 * 2 ^ n.toNat) (field bs off (2 ^ n.toNat))
       if sx then v.signExtend 64 else v.zeroExtend 64) := by
  have small := field_lt bs off (2 ^ n.toNat)
  cases sx with
  | true => exact ofInt_toSigned (by positivity) small
  | false => exact (BitVec.ofInt_natCast ..).trans (ofNat_setWidth small).symm

/-! ### Fields of a record -/

theorem field_congr {bs bs' : List Byte} {off n : Nat} (same : ∀ i, off ≤ i → bs[i]? = bs'[i]?) :
    field bs off n = field bs' off n := by
  have rest : bs.drop off = bs'.drop off := List.ext_getElem? fun i => by
    rw [List.getElem?_drop, List.getElem?_drop, same _ (Nat.le_add_right off i)]
  rw [field, field, rest]

theorem putImage_above (v : Vector Byte 256) {off i : Nat} {bs : List Byte} (above : off + bs.length ≤ i) :
    (putImage v off bs)[i]? = v[i]? := by
  unfold putImage
  refine List.foldlRecOn (motive := fun x : Vector Byte 256 => x[i]? = v[i]?) _ _ rfl fun x hx k hk => ?_
  have within := List.mem_range.mp hk
  rw [Vector.getElem?_setIfInBounds_ne (by omega), hx]

/-- A field of the record is as it was after a write below it. -/
theorem Walk.w32_put_below {w : Walk} {at_ n v off : Nat} (below : at_ + n ≤ off) : (w.put at_ n v).w32 off = w.w32 off := by
  refine field_congr fun i from_ => ?_
  rw [Walk.bytes, Walk.bytes, Vector.getElem?_toList, Vector.getElem?_toList]
  exact putImage_above _ (by rw [length_leBytes]; omega)

/-! ### Reads of memory -/

theorem walkRead_bytes {s u : State} {e : Eng} {w : Walk} {va : Word} {n : Nat} {bs : List Byte}
    (reads : touchesWindow va n = false ∧ engRead s s e w.fetched (readKey va) va n = (u, .bytes bs))
    (k : State → List Byte → State × WRes) : walkRead s e w va n k = k u bs := by
  rw [walkRead, if_neg (by simp [reads.1]), reads.2]

/-! ### The node buffer -/

section node
variable {s : State} {w : Walk} {interior : Bool} {i : Nat} {bs : List Byte} {k : List Byte → State × WRes}

theorem withNode_empty (empty : w.buffer = none) : withNode s w interior i k = (s, .fault (.of 0x12)) := by
  rw [withNode, empty]

variable (holds : w.buffer = some bs)
include holds

theorem withNode_child (child : i < field bs w.layout.kindoff 1 % 16) : withNode s w true i k = k bs := by
  rw [withNode, holds]
  exact if_pos child

theorem withNode_no_child (none_ : field bs w.layout.kindoff 1 % 16 ≤ i) :
    withNode s w true i k = (s, .fault (.of 0x12)) := by
  rw [withNode, holds]
  exact if_neg (Nat.not_lt.mpr none_)

theorem withNode_triangle (leaf : field bs w.layout.kindoff 1 % 16 = 0) (here : i < field bs w.layout.kindoff 1 / 16) :
    withNode s w false i k = k bs := by
  rw [withNode, holds]
  simp [Layout.kids, Layout.tris, leaf, here]

theorem withNode_no_triangle (none_ : field bs w.layout.kindoff 1 % 16 ≠ 0 ∨ field bs w.layout.kindoff 1 / 16 ≤ i) :
    withNode s w false i k = (s, .fault (.of 0x12)) := by
  rw [withNode, holds]
  refine if_neg ?_
  obtain inner | past := none_
  · simp [Layout.kids, inner]
  · by_cases leaf : w.layout.kids bs = 0
    · simpa [leaf, Layout.tris] using past
    · simp [leaf]

end node

/-- The address of a child, by how the layout encodes it (R220). -/
def childAddr (w : Walk) (bs : List Byte) (i : Nat) : Word :=
  let l := w.layout
  if l.cpenc = 0 then field64 bs (l.cpoff + 8 * i)
  else if l.cpenc = 1 then w.w64 120 + (field32 bs (l.cpoff + 4 * i)).signExtend 64 * 16
  else l.base + (field32 bs (l.cpoff + 4 * i)).zeroExtend 64 * BitVec.ofNat 64 l.nodeBytes

section
variable {w : Walk} {bs : List Byte} {i : Nat}

theorem childAddr_whole (enc : w.layout.cpenc = 0) : childAddr w bs i = field64 bs (w.layout.cpoff + 8 * i) := if_pos enc

theorem childAddr_offset (enc : w.layout.cpenc = 1) :
    childAddr w bs i = w.w64 120 + (field32 bs (w.layout.cpoff + 4 * i)).signExtend 64 * 16 := by
  rw [childAddr]
  simp only [enc, Nat.one_ne_zero, if_false, if_true]

theorem childAddr_index (enc : w.layout.cpenc = 2) : childAddr w bs i = w.layout.base +
    (field32 bs (w.layout.cpoff + 4 * i)).zeroExtend 64 * BitVec.ofNat 64 w.layout.nodeBytes := by
  rw [childAddr]
  simp only [enc, OfNat.ofNat_ne_zero, OfNat.ofNat_ne_one, if_false]

end

/-- The address that `child` computes. -/
theorem childAddr_eq (w : Walk) (bs : List Byte) (i : Nat) :
    (let p := field bs (w.layout.cpoff + w.layout.pointerBytes * i) w.layout.pointerBytes
     if w.layout.cpenc = 0 then BitVec.ofNat 64 p
     else if w.layout.cpenc = 1 then w.w64 120 + BitVec.ofInt 64 (16 * toSigned 32 p)
     else w.layout.base + BitVec.ofNat 64 (p * w.layout.nodeBytes)) = childAddr w bs i := by
  have small := field_lt bs (w.layout.cpoff + 4 * i) 4
  unfold childAddr
  dsimp only
  by_cases whole : w.layout.cpenc = 0
  · rw [if_pos whole, if_pos whole, Layout.pointerBytes, if_pos whole]
    rfl
  · have short : w.layout.pointerBytes = 4 := if_neg whole
    rw [if_neg whole, if_neg whole, short, Int.mul_comm, BitVec.ofInt_mul, ofInt_toSigned (by decide) small,
      BitVec.ofNat_mul, ← ofNat_setWidth small]
    rfl

/-- The record that `commit` leaves: the hit's t, also as the end of the ray, its triangle, u, v and side (R225, R402). -/
def committed (w : Walk) (x y : Nat) : Walk :=
  (((((w.put 28 4 (x % 2 ^ 32)).put 32 4 (x % 2 ^ 32)).put 36 4 (x / 2 ^ 32)).put 40 4 (y % 2 ^ 31)).put 44 4
    (y / 2 ^ 32)).put 163 1 (w.w32 160 / 2 ^ 24 % 16 + 16 + (if y / 2 ^ 31 % 2 = 1 then 32 else 0))

/-! ### The operations -/

section ops
variable {s u : State} {core id : Nat} {w : Walk} {d a b : WReg} {bs : List Byte}
  (issued : s.cur = .walk core id) (running : s.walk? core id = some w)
include issued running

theorem walkFetch_goes (aligned : (w.reg a).toNat % 16 = 0)
    (reads : touchesWindow (w.reg a) w.layout.nodeBytes = false ∧
      engRead s s (w.eng core) w.fetched (readKey (w.reg a)) (w.reg a) w.layout.nodeBytes = (u, .bytes bs))
    (formed : w.layout.malformed bs = false) :
    WalkGoes s core w (.walkFetch a) u ({ w with buffer := some bs }.put 120 8 (w.reg a).toNat) := by
  refine .of_settles (exec_settles issued running (exec_walkFetch s) ?_)
  rw [fetchNode, if_neg (by simp [aligned]), walkRead_bytes reads, if_neg (by simp [formed])]

theorem walkFetch_misaligned (odd : (w.reg a).toNat % 16 ≠ 0) : WalkFaults s core w 0x11 (.walkFetch a) :=
  .of_settles (exec_settles issued running (exec_walkFetch s) (if_pos odd))

theorem walkFetch_malformed
    (reads : touchesWindow (w.reg a) w.layout.nodeBytes = false ∧
      engRead s s (w.eng core) w.fetched (readKey (w.reg a)) (w.reg a) w.layout.nodeBytes = (u, .bytes bs))
    (malformed : w.layout.malformed bs = true) : WalkFaults s core w 0x11 (.walkFetch a) := by
  by_cases aligned : (w.reg a).toNat % 16 = 0
  · refine .of_settles (u := u) (exec_settles issued running (exec_walkFetch s) ?_)
    rw [fetchNode, if_neg (by simp [aligned]), walkRead_bytes reads, if_pos malformed]
  · exact walkFetch_misaligned issued running aligned

theorem walkFld_faults {sx : Bool} {n : BitVec 2} {off : BitVec 8}
    (absent : ∀ bs, w.buffer = some bs → w.layout.nodeBytes < off.toNat + 2 ^ n.toNat) :
    WalkFaults s core w 0x12 (.walkFld d sx n off) := by
  refine .of_settles (u := s) (exec_settles issued running (exec_walkFld s) ?_)
  cases holds : w.buffer with
  | none => rfl
  | some bs => exact if_pos (absent bs holds)

theorem walkFld_goes (holds : w.buffer = some bs) {sx : Bool} {n : BitVec 2} {off : BitVec 8}
    (within : off.toNat + 2 ^ n.toNat ≤ w.layout.nodeBytes) : WalkGoes s core w (.walkFld d sx n off) s (w.setReg d
      (let v := BitVec.ofNat (8 * 2 ^ n.toNat) (field bs off.toNat (2 ^ n.toNat))
       if sx then v.signExtend 64 else v.zeroExtend 64)) := by
  refine .of_settles (exec_settles issued running (exec_walkFld s) ?_)
  simp only [holds, Nat.not_lt.mpr within, if_false, fld_value]

theorem walkChild_faults (absent : ∀ bs, w.buffer = some bs → field bs w.layout.kindoff 1 % 16 ≤ (w.reg a).toNat) :
    WalkFaults s core w 0x12 (.walkChild d a) := by
  refine .of_settles (u := s) (exec_settles issued running (exec_walkChild s) ?_)
  cases holds : w.buffer with
  | none => exact withNode_empty holds
  | some bs => exact withNode_no_child holds (absent bs holds)

theorem walkChild_goes (holds : w.buffer = some bs) (child : (w.reg a).toNat < field bs w.layout.kindoff 1 % 16) :
    WalkGoes s core w (.walkChild d a) s (w.setReg d (childAddr w bs (w.reg a).toNat)) :=
  .of_settles (exec_settles issued running (exec_walkChild s)
    ((withNode_child holds child).trans (by rw [← childAddr_eq])))

theorem walkBox4_faults (absent : ∀ bs, w.buffer = some bs → field bs w.layout.kindoff 1 % 16 ≤ (w.reg a).toNat) :
    WalkFaults s core w 0x12 (.walkBox4 d a) := by
  refine .of_settles (u := s) (exec_settles issued running (exec_walkBox4 s) ?_)
  cases holds : w.buffer with
  | none => exact withNode_empty holds
  | some bs => exact withNode_no_child holds (absent bs holds)

theorem walkBox4_goes (holds : w.buffer = some bs) (child : (w.reg a).toNat < field bs w.layout.kindoff 1 % 16) :
    WalkGoes s core w (.walkBox4 d a) s
      (w.setReg d (BitVec.ofNat 64 (boxResult (boxHits w bs (w.reg a).toNat)))) :=
  .of_settles (exec_settles issued running (exec_walkBox4 s) (withNode_child holds child))

theorem walkTri_faults (absent : ∀ bs, w.buffer = some bs →
      field bs w.layout.kindoff 1 % 16 ≠ 0 ∨ field bs w.layout.kindoff 1 / 16 ≤ (w.reg a).toNat) :
    WalkFaults s core w 0x12 (.walkTri d a b) := by
  refine .of_settles (u := s) (exec_settles issued running (exec_walkTri s) ?_)
  cases holds : w.buffer with
  | none => exact withNode_empty holds
  | some bs => exact withNode_no_triangle holds (absent bs holds)

section triangle
variable (holds : w.buffer = some bs) (leaf : field bs w.layout.kindoff 1 % 16 = 0)
  (here : (w.reg a).toNat < field bs w.layout.kindoff 1 / 16)
include holds leaf here

theorem walkTri_inside (stored : w.layout.leafenc = 0) : WalkGoes s core w (.walkTri d a b) s
    (triResult w d b ((bs.drop (w.layout.leafoff + 40 * (w.reg a).toNat)).take 40)) :=
  .of_settles (exec_settles issued running (exec_walkTri s) ((withNode_triangle holds leaf here).trans (if_pos stored)))

theorem walkTri_beside (apart : w.layout.leafenc ≠ 0) {bs' : List Byte} {va : Word}
    (place : va = w.layout.base + BitVec.ofNat 64 (40 * field bs (w.layout.leafoff + 4 * (w.reg a).toNat) 4))
    (reads : touchesWindow va 40 = false ∧ engRead s s (w.eng core) w.fetched (readKey va) va 40 = (u, .bytes bs')) :
    WalkGoes s core w (.walkTri d a b) u (triResult w d b bs') := by
  subst place
  exact .of_settles (exec_settles issued running (exec_walkTri s)
    ((withNode_triangle holds leaf here).trans ((if_neg apart).trans (walkRead_bytes reads _))))

end triangle

theorem walkPush_full (full : w.w32 136 ≤ w.sp) : WalkFaults s core w 0x10 (.walkPush a) :=
  .of_settles (exec_settles issued running (exec_walkPush s) (if_pos full))

theorem walkPush_held (room : w.sp < w.w32 136) (few : w.stack.length < 16) : WalkGoes s core w (.walkPush a) s
    { w.put 140 4 (w.sp + 1) with stack := w.reg a :: w.stack } :=
  .of_settles (exec_settles issued running (exec_walkPush s) ((if_neg (Nat.not_le.mpr room)).trans (if_pos few)))

theorem walkPush_spills (room : w.sp < w.w32 136) (many : 16 ≤ w.stack.length)
    (wrote : walkWrite s (w.eng core) (w.slot w.spilled) (leBytes 8 (w.stack.getD 15 0).toNat) = (u, none)) :
    WalkGoes s core w (.walkPush a) u { w.put 140 4 (w.sp + 1) with stack := w.reg a :: w.stack.take 15 } := by
  refine .of_settles (exec_settles issued running (exec_walkPush s) ?_)
  rw [pushWalk, if_neg (Nat.not_le.mpr room)]
  dsimp only
  rw [if_neg (Nat.not_lt.mpr many), wrote]

theorem walkPop_empty (empty : w.sp = 0) : WalkFaults s core w 0x12 (.walkPop d) :=
  .of_settles (exec_settles issued running (exec_walkPop s) (if_pos empty))

section pop
variable (some_ : 0 < w.sp)
include some_

theorem walkPop_held {x : Word} {xs : List Word} (top : w.stack = x :: xs) (whole : w.spilled = 0) :
    WalkGoes s core w (.walkPop d) s ({ w.put 140 4 (w.sp - 1) with stack := xs }.setReg d x) := by
  refine .of_settles (exec_settles issued running (exec_walkPop s) ?_)
  rw [popWalk, if_neg (by omega), top]
  exact if_pos whole

theorem walkPop_refills {x : Word} {xs : List Word} (top : w.stack = x :: xs) (below : 0 < w.spilled)
    (reads : touchesWindow (w.slot (w.spilled - 1)) 8 = false ∧ engRead s s (w.eng core) w.fetched
      (readKey (w.slot (w.spilled - 1))) (w.slot (w.spilled - 1)) 8 = (u, .bytes bs)) :
    WalkGoes s core w (.walkPop d) u
      ({ w.put 140 4 (w.sp - 1) with stack := xs ++ [field64 bs 0] }.setReg d x) := by
  refine .of_settles (exec_settles issued running (exec_walkPop s) ?_)
  rw [popWalk, if_neg (by omega), top]
  exact (if_neg below.ne').trans (walkRead_bytes reads _)

theorem walkPop_overflow (none_ : w.stack = [])
    (reads : touchesWindow (w.slot (w.sp - 1)) 8 = false ∧ engRead s s (w.eng core) w.fetched
      (readKey (w.slot (w.sp - 1))) (w.slot (w.sp - 1)) 8 = (u, .bytes bs)) :
    WalkGoes s core w (.walkPop d) u ((w.put 140 4 (w.sp - 1)).setReg d (field64 bs 0)) := by
  refine .of_settles (exec_settles issued running (exec_walkPop s) ?_)
  rw [popWalk, if_neg (by omega), none_]
  exact walkRead_bytes reads _

end pop

theorem walkCommit_faults (special : finiteNonNeg ((w.reg a).toNat % 2 ^ 32) = false) :
    WalkFaults s core w 0x12 (.walkCommit a b) :=
  .of_settles (exec_settles issued running (exec_walkCommit s) (if_neg (Bool.eq_false_iff.mp special)))

theorem walkCommit_goes (finite : finiteNonNeg ((w.reg a).toNat % 2 ^ 32) = true) :
    WalkGoes s core w (.walkCommit a b) s (committed w (w.reg a).toNat (w.reg b).toNat) := by
  refine .of_settles (exec_settles issued running (exec_walkCommit s) ?_)
  have control : ∀ t p u v : Nat, (((((w.put 28 4 t).put 32 4 t).put 36 4 p).put 40 4 u).put 44 4 v).w32 160 = w.w32 160 := by
    intro t p u v
    iterate 5 rw [Walk.w32_put_below (by decide)]
  simp only [finite, if_true, control, committed]

theorem walkEdge3_faults {lg : BitVec 3} (odd : lg.toNat = 0 ∨ lg.toNat = 7) :
    WalkFaults s core w 0x12 (.walkEdge3 d a lg) :=
  .of_settles (exec_settles issued running (exec_walkEdge3 s) (if_pos (by bv_omega)))

theorem walkEdge3_goes {lg : BitVec 3} (low : 1 ≤ lg.toNat) (high : lg.toNat ≤ 6) :
    WalkGoes s core w (.walkEdge3 d a lg) s (w.setReg d
      (if tileKept w.bytes (slice (w.reg a) 15 0) (slice (w.reg a) 31 16) (2 ^ lg.toNat) then 1 else 0)) :=
  .of_settles (exec_settles issued running (exec_walkEdge3 s) (if_neg (by bv_omega)))

end ops

end Sys2Proof.Machine
end

section
/-! Walk operations on records and nodes (O43; R220, R223, R402 to R406). -/

namespace Sys2Proof.Machine

theorem rayOf_eq_some {bs : List Byte} {r : Ray} : rayOf bs = some r ↔ vec3At bs 0 = some r.origin ∧
    vec3At bs 16 = some r.dir ∧ f32Ext (field bs 12 4) = some r.tmin ∧ f32Ext (field bs 28 4) = some r.tmax := by
  unfold rayOf
  constructor
  · intro h
    split at h
    · next origin dir tmin tmax =>
      cases h
      exact ⟨origin, dir, tmin, tmax⟩
    · cases h
  · rintro ⟨origin, dir, tmin, tmax⟩
    rw [origin, dir, tmin, tmax]

theorem vec3At_eq_some {bs : List Byte} {off : Nat} {v : Vec3} : vec3At bs off = some v ↔
    f32Fixed (field bs off 4) = some v.x ∧ f32Fixed (field bs (off + 4) 4) = some v.y ∧
      f32Fixed (field bs (off + 8) 4) = some v.z := by
  unfold vec3At
  constructor
  · intro h
    split at h
    · next x y z =>
      cases h
      exact ⟨x, y, z⟩
    · cases h
  · rintro ⟨x, y, z⟩
    rw [x, y, z]

theorem boxOf_plain {l : Layout} {bs : List Byte} {c : Nat} {b : Box} (plain : l.boxenc = 0) : l.boxOf bs c = some b ↔
    vec3At bs (l.boxoff + 24 * c) = some b.lo ∧ vec3At bs (l.boxoff + 24 * c + 12) = some b.hi := by
  rw [Layout.boxOf, if_pos plain, plainBox]
  constructor
  · intro h
    split at h
    · next lo hi =>
      cases h
      exact ⟨lo, hi⟩
    · cases h
  · rintro ⟨lo, hi⟩
    rw [lo, hi]

/-- The hit of a triangle is the number at which the ray strikes it, and where. -/
theorem Ray.triangle_strikes {r : Ray} {bs : List Byte} {v0 v1 v2 : Vec3} {h : TriHit} (h0 : vec3At bs 0 = some v0)
    (h1 : vec3At bs 12 = some v1) (h2 : vec3At bs 24 = some v2) (lower : r.tmin.den ≠ 0) (upper : r.tmax.Upper)
    (hit : r.triangle bs = some h) : r.triDet v0 v1 v2 ≠ 0 ∧ h.back = decide (r.triDet v0 v1 v2 < 0) ∧ ∃ t u v : Ext,
      t.den ≠ 0 ∧ u.den ≠ 0 ∧ v.den ≠ 0 ∧ h.t = t.round ∧ h.u = u.round ∧ h.v = v.round ∧
      r.strikes v0 v1 v2 t.val u.val v.val := by
  rw [r.triangle_eq v0 v1 v2 h0 h1 h2] at hit
  obtain ⟨some_, hit⟩ := Option.ite_none_left_eq_some.mp hit
  obtain ⟨passed, here⟩ := Option.ite_none_right_eq_some.mp hit
  cases here
  exact ⟨some_, rfl, _, _, _, ratio_finite _ some_, ratio_finite _ some_, ratio_finite _ some_, rfl, rfl, rfl,
    (Ray.triTest_iff some_ lower upper).mp passed⟩

/-- A triangle that gives no hit is parallel to the ray, or not struck. -/
theorem Ray.triangle_missed {r : Ray} {bs : List Byte} {v0 v1 v2 : Vec3} (h0 : vec3At bs 0 = some v0)
    (h1 : vec3At bs 12 = some v1) (h2 : vec3At bs 24 = some v2) (lower : r.tmin.den ≠ 0) (upper : r.tmax.Upper)
    (missed : r.triangle bs = none) : r.triDet v0 v1 v2 = 0 ∨ ∀ t u v, ¬ r.strikes v0 v1 v2 t u v := by
  by_cases parallel : r.triDet v0 v1 v2 = 0
  · exact .inl parallel
  · refine .inr fun t u v strikes => ?_
    obtain ⟨_, _, _, _, rfl, rfl, rfl⟩ := (Ray.strikes_iff parallel t u v).mp strikes
    rw [r.triangle_eq v0 v1 v2 h0 h1 h2, if_neg parallel, if_pos ((Ray.triTest_iff parallel lower upper).mpr strikes)]
      at missed
    cases missed

theorem triResult_missed {w : Walk} {d b : WReg} {bs : List Byte}
    (missed : (rayOf w.bytes).bind (fun r => r.triangle bs) = none) :
    triResult w d b bs = w.setReg d (BitVec.ofNat 64 (2 ^ 64 - 1)) := by
  unfold triResult
  rw [missed]
  rfl

theorem triResult_hit {w : Walk} {d b : WReg} {bs : List Byte} {r : Ray} {h : TriHit} (ray : rayOf w.bytes = some r)
    (hit : r.triangle bs = some h) : triResult w d b bs =
      (w.setReg d (BitVec.ofNat 64 (field bs 36 4 * 2 ^ 32 + h.t))).setReg b
        (BitVec.ofNat 64 (h.v * 2 ^ 32 + (if h.back then 2 ^ 31 else 0) + h.u)) := by
  unfold triResult
  rw [ray, Option.bind_some, hit]

/-- Settles O43: a lemma for each case of each operation; the hits of `box4` by the interval of a ray in a box
(`Ray.entry_least`) and their stable order (`boxResult_ordered`), a triangle by Cramer's rule (`Ray.strikes_iff`), and a tile
by the sample at which an edge is greatest (`Plane.touches_iff`). -/
theorem walkNodes : Obligations.WalkNodes := by
  refine ⟨?ops, ?hits, fun bs r => rayOf_eq_some, fun bs off v => vec3At_eq_some, ?boxes, ?triangles, ?results, tileKept_iff⟩
  case ops =>
    intro s u core id w d a b sx n off lg bs issued running faults on set i lay kind reads
    refine ⟨fun bs' aligned => walkFetch_goes issued running aligned, walkFetch_misaligned issued running,
      fun bs' => walkFetch_malformed issued running, fun empty => ?empty, fun holds => ?holds,
      walkPush_full issued running, walkPop_empty issued running,
      fun room => ⟨walkPush_held issued running room, walkPush_spills issued running room⟩,
      fun some_ => ⟨fun x xs top => ⟨walkPop_held issued running some_ top,
        fun bs' => walkPop_refills issued running some_ top⟩, fun bs' => walkPop_overflow issued running some_⟩,
      ⟨walkCommit_faults issued running, walkCommit_goes issued running⟩, walkEdge3_faults issued running,
      walkEdge3_goes issued running⟩
    case empty =>
      have absent {p : List Byte → Prop} : ∀ bs, w.buffer = some bs → p bs := fun bs holds => by
        rw [empty] at holds
        cases holds
      exact ⟨walkFld_faults issued running absent, walkChild_faults issued running absent,
        walkBox4_faults issued running absent, walkTri_faults issued running absent⟩
    case holds =>
      have only {p : List Byte → Prop} (here : p bs) : ∀ bs, w.buffer = some bs → p bs := fun bs' other => by
        cases holds.symm.trans other
        exact here
      refine ⟨fun long => walkFld_faults issued running (only long),
        fun none_ => ⟨walkChild_faults issued running (only none_), walkBox4_faults issued running (only none_)⟩,
        fun none_ => walkTri_faults issued running (only none_), walkFld_goes issued running holds,
        fun child => ?child,
        fun leaf here => ⟨walkTri_inside issued running holds leaf here,
          fun apart bs' => walkTri_beside issued running holds leaf here apart rfl⟩⟩
      have goes := walkChild_goes (d := d) issued running holds child
      refine ⟨fun enc => ?_, fun enc => ?_, fun enc => ?_, walkBox4_goes issued running holds child⟩
      · rw [childAddr_whole enc] at goes
        exact goes
      · rw [childAddr_offset enc] at goes
        exact goes
      · rw [childAddr_index enc] at goes
        exact goes
  case hits =>
    intro w bs i hits kids
    exact ⟨fun t x => mem_boxHits, fun t low => boxResult_testBit boxHits_rising boxHits_small low,
      boxResult_count boxHits_rising boxHits_small, fun k within => boxResult_ordered w bs i k within,
      fun c plain b => boxOf_plain plain⟩
  case boxes =>
    exact fun r b lower upper => ⟨fun x => Ray.entry_least lower upper, Ray.not_meets_of_entry_none lower upper⟩
  case triangles =>
    exact fun r bs v0 v1 v2 h0 h1 h2 lower upper =>
      ⟨fun h => Ray.triangle_strikes h0 h1 h2 lower upper, Ray.triangle_missed h0 h1 h2 lower upper⟩
  case results =>
    exact fun w d b bs => ⟨triResult_missed, fun r h => triResult_hit⟩

end Sys2Proof.Machine
end

section
/-! Integer arithmetic, shifts and bit fields in lanes (O10, O11; R242, R260, R325, R326, R329): what each form writes,
over the integers that the encodings of its operands stand for. -/

namespace Sys2Proof

variable {t : ElemTy}

/-! ### Integers of a type -/

/-- The signed reading of the low bits of a number is that of a bit vector. -/
theorem toSigned_mod {n : Nat} (some_ : 0 < n) (x : Nat) : Machine.toSigned n (x % 2 ^ n) = (BitVec.ofNat n x).toInt := by
  have same : BitVec.ofNat n (x % 2 ^ n) = BitVec.ofNat n x := BitVec.eq_of_toNat_eq (by simp)
  rw [← Machine.toInt_ofNat some_ (Nat.mod_lt _ (Nat.two_pow_pos n)), same]

theorem ElemTy.bits_pos (t : ElemTy) : 0 < t.bits := by
  cases t <;> decide

/-- The integer of an encoding is that of a bit vector as wide as the type (R242). -/
theorem ElemTy.intOf_eq (t : ElemTy) (x : Nat) :
    t.intOf x = if t.isSigned then (BitVec.ofNat t.bits x).toInt else ((BitVec.ofNat t.bits x).toNat : Int) := by
  rw [ElemTy.intOf, toSigned_mod t.bits_pos, BitVec.toNat_ofNat]

theorem wrapNat_eq (n : Nat) (x : Int) : Machine.wrapNat n x = (BitVec.ofInt n x).toNat := by
  rw [BitVec.toNat_ofInt, Nat.cast_pow, Nat.cast_ofNat, Machine.wrapNat]

theorem ElemTy.bitsOf_eq (t : ElemTy) (x : Int) : t.bitsOf x = (BitVec.ofInt t.bits x).toNat := wrapNat_eq t.bits x

/-- Wrapping the integer of an encoding gives the encoding. -/
theorem ElemTy.bitsOf_intOf {x : Nat} (small : x < 2 ^ t.bits) : t.bitsOf (t.intOf x) = x := by
  rw [t.bitsOf_eq, t.intOf_eq]
  split
  · rw [BitVec.ofInt_toInt, BitVec.toNat_ofNat, Nat.mod_eq_of_lt small]
  · rw [BitVec.ofInt_natCast, BitVec.toNat_ofNat, BitVec.toNat_ofNat, Nat.mod_mod, Nat.mod_eq_of_lt small]

end Sys2Proof

namespace Sys2Proof.Machine

variable {s : State} {g : GangRef} {o : LaneOp} {m : Mods} {i : Instr} {opnds : List Opnd} {cost : GangRef → Nat}

theorem intMin_eq {t : ElemTy} {a b : Nat} (ha : a < 2 ^ t.bits) (hb : b < 2 ^ t.bits) :
    intMin t a b = t.bitsOf (min (t.intOf a) (t.intOf b)) := by
  unfold intMin
  split
  · next less => rw [min_eq_right less.le, ElemTy.bitsOf_intOf hb]
  · next least => rw [min_eq_left (not_lt.mp least), ElemTy.bitsOf_intOf ha]

theorem intMax_eq {t : ElemTy} {a b : Nat} (ha : a < 2 ^ t.bits) (hb : b < 2 ^ t.bits) :
    intMax t a b = t.bitsOf (max (t.intOf a) (t.intOf b)) := by
  unfold intMax
  split
  · next less => rw [max_eq_right less.le, ElemTy.bitsOf_intOf hb]
  · next most => rw [max_eq_left (not_lt.mp most), ElemTy.bitsOf_intOf ha]

/-- The leading zeros of a number place its highest 1 bit. -/
theorem clzNat_spec {k x : Nat} (small : x < 2 ^ k) :
    clzNat k x ≤ k ∧ x < 2 ^ (k - clzNat k x) ∧ (clzNat k x < k → 2 ^ (k - 1 - clzNat k x) ≤ x) := by
  unfold clzNat
  split
  · next zero => exact ⟨le_rfl, by simp [zero], fun h => absurd h (lt_irrefl k)⟩
  · next some_ =>
    have top : lg x < k := (Nat.log2_lt some_).mpr small
    have whole : k - (k - 1 - lg x) = lg x + 1 := by omega
    have below : k - 1 - (k - 1 - lg x) = lg x := by omega
    rw [whole, below]
    exact ⟨by omega, Nat.lt_log2_self, fun _ => Nat.log2_self_le some_⟩

/-- A bit field, signed or not, as a register holds it (R326). -/
theorem bitField_eq (t : ElemTy) (a p n : Nat) : bitField t a p (n + 1) =
    let f := BitVec.ofNat (n + 1) (a / 2 ^ p)
    if t.isSigned then (BitVec.ofInt 32 f.toInt).toNat else f.toNat := by
  dsimp only [bitField]
  rw [wrapNat_eq, toSigned_mod n.succ_pos, BitVec.toNat_ofNat]

/-! ### The types of the integer forms -/

theorem Mods.ty_mem {tys : List ElemTy} {rnd sat ftz : Bool} (h : m.form tys rnd sat ftz = true) : m.ty ∈ tys := by
  simp only [Mods.form, Bool.and_eq_true, List.contains_iff_mem] at h
  obtain ⟨⟨⟨listed, _⟩, _⟩, _⟩ := h
  exact listed

/-- Where each element fills its registers, an operand is an encoding of the type (R248). -/
theorem read_lt_of_int (h : m.ty ∈ intTys) (l : Lane) (r : Nat) : l.read r (regsOf m.ty) < 2 ^ m.ty.bits := by
  have fills : ∀ t ∈ intTys, 32 * regsOf t = t.bits := by decide
  exact fills _ h ▸ l.read_lt r (regsOf m.ty)

/-! ### What a lane form writes -/

/-- A form that changes each active lane by itself performs; under RS alone SEED advances (R256, R320). -/
theorem laneMap_completes {rnd : Rnd} {f : Quad → Nat → Lane → Lane} (e : exec i s = laneMap s o opnds cost rnd f)
    (ready : LaneReady s g o opnds) :
    Completes i s g fun n q => ((q.eachLane o fun k l => f q (4 * n + k) l).reseed rnd).advance 3 := by
  obtain ⟨t, next, effect⟩ := laneMap_effect ready cost rnd f
  exact ⟨t, e.trans next, effect⟩

/-- A form without a rounding mode performs: it leaves SEED alone, and writes what depends on the lane alone. -/
theorem laneWrite_completes {dst : Nat} {f r : Lane → Nat}
    (e : exec i s = laneMap s o opnds cost .rne fun _ _ l => l.write o.vd.toNat dst (f l))
    (ready : LaneReady s g o opnds) (same : ∀ l, f l = r l) :
    Completes i s g fun _ q => (q.eachLane o fun _ l => l.write o.vd.toNat dst (r l)).advance 3 := by
  obtain rfl : f = r := funext same
  exact laneMap_completes e ready

section
variable {r : Lane → Nat}

theorem vInt1_completes {f : Nat → Nat} {dst : Nat} (e : exec i s = vInt1 s o m.ty f) (fills : regsOf m.ty = dst)
    (ready : LaneReady s g o [.ty o.vd m.ty, .ty o.va m.ty]) (same : ∀ l, f (l.read o.va.toNat (regsOf m.ty)) = r l) :
    Completes i s g fun _ q => (q.eachLane o fun _ l => l.write o.vd.toNat dst (r l)).advance 3 :=
  fills ▸ laneWrite_completes e ready same

theorem vInt2_completes {f : Nat → Nat → Nat} (e : exec i s = vInt2 s o m.ty f)
    (ready : LaneReady s g o [.ty o.vd m.ty, .ty o.va m.ty, .ty o.vb m.ty])
    (same : ∀ l, f (l.read o.va.toNat (regsOf m.ty)) (l.read o.vb.toNat (regsOf m.ty)) = r l) :
    Completes i s g fun _ q => (q.eachLane o fun _ l => l.write o.vd.toNat (regsOf m.ty) (r l)).advance 3 :=
  laneWrite_completes e ready same

end

/-! ### The instructions -/

/-- Settles O10: a form writes what its operation makes of its operands, which `ElemTy.intOf_eq` and `ElemTy.bitsOf_eq`
write over bit vectors as wide as the type. -/
theorem laneInteger : Obligations.LaneInteger := by
  intro s g o m k regs raw val lo hi wrap fit d a b c puts
  have int (l : Lane) (r : BitVec 10) : m.ty.intOf (raw l r) = val l r := m.ty.intOf_eq _
  have wraps (x : Int) : m.ty.bitsOf x = wrap x := m.ty.bitsOf_eq x
  have fits (x : Int) : m.ty.intResult m.sat x = fit x := wraps _
  have small {legal rnd sat ftz : Bool} (wf : (legal && m.form intTys rnd sat ftz) = true) (l : Lane) (r : BitVec 10) :
      raw l r < 2 ^ k :=
    read_lt_of_int (Mods.ty_mem (Bool.and_eq_true_iff.mp wf).2) l r.toNat
  have bin {i : Instr} {op : Int → Int → Int} (e : exec i s = vInt2 s o m.ty (intBin m.ty m.sat op)) :
      puts i [d, a, b] fun l => fit (op (val l o.va) (val l o.vb)) := fun _ ready =>
    vInt2_completes e ready fun l => by rw [← int, ← int, ← fits]; rfl
  have bit {i : Instr} {op : Nat → Nat → Nat} (e : exec i s = vInt2 s o m.ty op) :
      puts i [d, a, b] fun l => op (raw l o.va) (raw l o.vb) := fun _ ready =>
    vInt2_completes e ready fun _ => rfl
  refine ⟨bin (exec_vaddInt s), bin (exec_vsubInt s), bin (exec_vmulInt s), ?mulh, ?mad, ?min, ?max, ?abs,
    bit (exec_vand s), bit (exec_vor s), bit (exec_vxor s), ?not, ?popc, fun l => clzNat k (raw l o.va), ?clz, ?leading⟩
  case mulh =>
    exact fun _ ready => vInt2_completes (exec_vmulh s) ready fun l => by rw [← int, ← int, ← wraps]; rfl
  case mad =>
    exact fun _ ready => laneWrite_completes (exec_vmad s) ready fun l => by
      rw [← int, ← int, ← int, ← fits]
      rfl
  case min =>
    exact fun wf ready => vInt2_completes (exec_vminInt s) ready fun l => by
      rw [← int, ← int, ← wraps]
      exact intMin_eq (small wf l o.va) (small wf l o.vb)
  case max =>
    exact fun wf ready => vInt2_completes (exec_vmaxInt s) ready fun l => by
      rw [← int, ← int, ← wraps]
      exact intMax_eq (small wf l o.va) (small wf l o.vb)
  case abs =>
    exact fun _ ready => vInt1_completes (exec_vabsInt s) rfl ready fun l => by rw [← int, ← fits]; rfl
  case not =>
    exact fun wf ready => vInt1_completes (exec_vnot s) rfl ready fun l => by
      rw [intNot, Nat.mod_eq_of_lt (small wf l o.va)]
  case popc => exact fun _ ready => vInt1_completes (exec_vpopc s) rfl ready fun _ => rfl
  case clz => exact fun _ ready => vInt1_completes (exec_vclz s) rfl ready fun _ => rfl
  case leading => exact fun wf l => clzNat_spec (small wf l o.va)

/-- Settles O11: shifts and bit fields write what `ElemTy.intOf_eq`, `ElemTy.bitsOf_eq` and `bitField_eq` say. -/
theorem laneShift : Obligations.LaneShift := by
  intro s g o m n p len wide k regs raw x puts d a by_ src y lo hi round quant
  have int (l : Lane) : m.ty.intOf (raw l) = x l := m.ty.intOf_eq _
  have wraps (v : Int) : m.ty.bitsOf v = (BitVec.ofInt k v).toNat := m.ty.bitsOf_eq v
  have amount {legal below : Bool} (wf : (legal && m.form intTys false false false && below) = true) (l : Lane) :
      shiftBy l o .reg (if regs = 1 then 5 else 6) = by_ l := by
    have width : ∀ t ∈ intTys, 2 ^ (if regsOf t = 1 then 5 else 6) = t.bits := by decide
    rw [Bool.and_eq_true_iff, Bool.and_eq_true_iff] at wf
    obtain ⟨⟨_, form⟩, _⟩ := wf
    exact congrArg ((l.rv o.vb.toNat).toNat % ·) (width _ (Mods.ty_mem form))
  have source (l : Lane) : src.intOf (l.read o.va.toNat (regsOf src)) = y l := by
    rw [src.intOf_eq, if_pos (by unfold src; cases wide <;> rfl)]
  have requants (v : Int) (t : Nat) : requant m.ty v t = quant v t := wrapNat_eq 32 _
  have right (l : Lane) (t : Nat) : intShr m.ty (raw l) t = (BitVec.ofInt k (x l / 2 ^ t)).toNat := by
    rw [intShr, wraps, int]
  refine ⟨?shl, ?shlReg, ?shr, ?shrReg, ?rshr, ?rshrReg, ?bfe⟩
  case shl => exact fun _ ready => laneWrite_completes (exec_vshl s) ready fun _ => rfl
  case shlReg =>
    exact fun wf ready => laneWrite_completes (exec_vshl s) ready fun l => by rw [amount wf]; rfl
  case shr => exact fun _ ready => laneWrite_completes (exec_vshr s) ready fun l => right l n.toNat
  case shrReg =>
    exact fun wf ready => laneWrite_completes (exec_vshr s) ready fun l => by rw [amount wf]; exact right l _
  case rshr =>
    exact fun _ ready => laneWrite_completes (exec_vrshr s) ready fun l => by rw [← requants, ← source]; rfl
  case rshrReg =>
    exact fun _ ready => laneWrite_completes (exec_vrshr s) ready fun l => by rw [← requants, ← source]; rfl
  case bfe =>
    intro wf ready
    have one : ∀ t ∈ [ElemTy.i32, .n32], regsOf t = 1 := by decide
    rw [Instr.wf, Bool.and_eq_true_iff, Bool.and_eq_true_iff] at wf
    obtain ⟨⟨_, form⟩, _⟩ := wf
    exact vInt1_completes (exec_vbfe s) (one _ (Mods.ty_mem form)) ready fun l => bitField_eq m.ty (raw l) p.toNat len.toNat

end Sys2Proof.Machine
end

section
/-! Float arithmetic in lanes (O14; R252 to R256, R331, R333, R334, R337): each form rounds the exact result of its
operands once; the rounding mode decides its stochastic number and what becomes of SEED. -/

namespace Sys2Proof.Machine

variable {s : State} {g : GangRef} {o : LaneOp} {m : Mods} {i : Instr} {opnds : List Opnd} {cost : GangRef → Nat}

theorem stochOf_eq (rnd : Rnd) (seed : Word) (lane elem : Nat) :
    stochOf rnd seed lane elem = if rnd = .rs then stochHash seed lane elem else 0 := by
  cases rnd with
  | rs => exact (if_pos rfl).symm
  | _ => exact (if_neg (by decide)).symm

theorem Quad.reseed_eq (q : Quad) (rnd : Rnd) :
    q.reseed rnd = { q with seed := if rnd = .rs then q.seed + 1 else q.seed } := by
  cases rnd <;> rfl

/-- A form that takes the rounding mode performs: RS gives each lane its stochastic number for the element `elem`, and
adds 1 to SEED (R255, R256). -/
theorem rounded_completes {elem : Nat} (f : Nat → Lane → Lane)
    (e : exec i s = laneMap s o opnds cost m.rnd fun q lane l => f (stochOf m.rnd q.seed lane elem) l)
    (ready : LaneReady s g o opnds) :
    Completes i s g fun n q =>
      let stoch (lane : Nat) : Nat := if m.rnd = .rs then stochHash q.seed (4 * n + lane) elem else 0
      let q' := q.eachLane o fun lane l => f (stoch lane) l
      ({ q' with seed := if m.rnd = .rs then q.seed + 1 else q.seed } : Quad).advance 3 := by
  have done := laneMap_completes e ready
  simp only [stochOf_eq, Quad.reseed_eq] at done
  exact done

/-- Settles O14: a float form rounds by `FpMode.result` what it computes of its operands (`rounded_completes`). -/
theorem laneFloat : Obligations.LaneFloat := by
  intro s g o m regs f arg puts a b c one
  have form {i : Instr} {src : List Opnd} {cost : GangRef → Nat} {r : Lane → Sys2Proof.Num}
      (e : exec i s = laneMap s o (.ty o.vd m.ty :: src) cost m.rnd fun q lane l =>
        l.write o.vd.toNat regs ((modeOf m (stochOf m.rnd q.seed lane 0)).result (r l))) : puts i src r :=
    rounded_completes (fun stoch l => l.write o.vd.toNat regs ((modeOf m stoch).result (r l))) e
  exact ⟨form (exec_vaddFp s), form (exec_vsubFp s), form (exec_vmulFp s), form (exec_vfma s), form (exec_vfnma s),
    form (exec_vdiv s), form (exec_vsqrt s), form (exec_vrcp s), form (exec_vrsqrt s), form (exec_vlerp s),
    form (exec_vexp2 s), form (exec_vlog2 s), form (exec_vsinpi s), form (exec_vcospi s)⟩

end Sys2Proof.Machine
end

section
/-! Conversions in lanes (O16; R339 to R341): the elements of a word that a conversion reads and writes, and the packed form
of a row of elements. -/

namespace Sys2Proof.Machine

/-! ### Elements of a word -/

/-- A type has more than one element to a word where its elements stand in part of one (R340). -/
theorem isPart_eq (t : ElemTy) : isPart t = decide (1 < t.perWord) := by
  cases t <;> rfl

/-- A replaced element stands between the bits above it and the bits below it, which stay (R248). -/
theorem putPart_eq (k w i x : Nat) : putPart k w i x =
    w / 2 ^ (k * i + k) * 2 ^ (k * i + k) + x % 2 ^ k * 2 ^ (k * i) + w % 2 ^ (k * i) := by
  have outer := Nat.div_add_mod' w (2 ^ (k * i))
  have inner := Nat.div_add_mod' (w / 2 ^ (k * i)) (2 ^ k)
  have split : w = w / 2 ^ (k * i + k) * 2 ^ (k * i + k) + part k w i * 2 ^ (k * i) + w % 2 ^ (k * i) := by
    calc w = w / 2 ^ (k * i) * 2 ^ (k * i) + w % 2 ^ (k * i) := outer.symm
      _ = (w / 2 ^ (k * i) / 2 ^ k * 2 ^ k + part k w i) * 2 ^ (k * i) + w % 2 ^ (k * i) := by rw [part, inner]
      _ = _ := by rw [Nat.div_div_eq_div_mul, ← Nat.pow_add]; ring
  unfold putPart
  omega

theorem readElem_eq (l : Lane) (t : ElemTy) (n i : Nat) : readElem l t n i =
    if 1 < t.perWord then (l.rv n).toNat / 2 ^ (t.bits * i) % 2 ^ t.bits else l.read n (regsOf t) % 2 ^ t.bits := by
  simp only [readElem, isPart_eq, decide_eq_true_eq, Lane.read_one, part]

theorem writeElem_eq (l : Lane) (t : ElemTy) (n i x : Nat) : writeElem l t n i x =
    if 1 < t.perWord then
      l.write n 1 ((l.rv n).toNat / 2 ^ (t.bits * i + t.bits) * 2 ^ (t.bits * i + t.bits) +
        x % 2 ^ t.bits * 2 ^ (t.bits * i) + (l.rv n).toNat % 2 ^ (t.bits * i))
    else l.write n (regsOf t) x := by
  simp only [writeElem, isPart_eq, decide_eq_true_eq, Lane.read_one, putPart_eq]

/-! ### Packed elements -/

/-- Elements added at their places are the digits of a number, lowest first. -/
theorem foldl_places (x : Nat → Nat) (k : Nat) : ∀ n j acc,
    (List.range' j n).foldl (fun y i => y + x i * 2 ^ (k * i)) acc =
      acc + 2 ^ (k * j) * (List.range' j n).foldr (fun i y => x i + 2 ^ k * y) 0
  | 0, _, _ => rfl
  | n + 1, j, acc => by
    rw [List.range'_succ, List.foldl_cons, List.foldr_cons, foldl_places x k n (j + 1), Nat.mul_succ, Nat.pow_add]
    ring

/-- The packed form of elements (R341). -/
theorem packed_eq (x : Nat → Nat) (k n : Nat) : (upTo n).foldl (fun y i => y + x i * 2 ^ (k * i)) 0 =
    (List.range n).foldr (fun i y => x i + 2 ^ k * y) 0 := by
  rw [upTo, List.range_eq_range', foldl_places, Nat.zero_add, Nat.mul_zero, Nat.pow_zero, Nat.one_mul]

/-- An unpacked element is extended to a register as its type says (R341). -/
theorem ofNat_unpacked (t : ElemTy) (x i : Nat) : BitVec.ofNat 32 (unpacked t (part t.bits x i)) =
    let e := BitVec.ofNat t.bits (x / 2 ^ (t.bits * i))
    if t.isSigned then e.signExtend 32 else e.setWidth 32 := by
  unfold unpacked part
  dsimp only
  split
  · rw [wrapNat_eq, toSigned_mod t.bits_pos, BitVec.ofNat_toNat, BitVec.setWidth_eq, BitVec.signExtend]
  · rw [← BitVec.toNat_ofNat, BitVec.ofNat_toNat]

theorem Lane.write_one (l : Lane) (n x : Nat) : l.write n 1 x = l.setV n (BitVec.ofNat 32 x) := by
  simp [Lane.write, upTo]

theorem packCount_eq (t : ElemTy) : packCount t = if (t.bits == 6) = true then 16 else 32 / t.bits := by
  simp only [packCount, beq_iff_eq]

theorem packWords_eq (t : ElemTy) : packWords t = if (t.bits == 6) = true then 3 else 1 := by
  simp only [packWords, beq_iff_eq]

/-! ### The instructions -/

/-- Settles O16: `vcvt` reads and writes the elements that `readElem_eq` and `writeElem_eq` say, `vpack` writes the digits
of `packed_eq`, and `vunpack` extends the elements of `ofNat_unpacked`. -/
theorem laneConversion : Obligations.LaneConversion := by
  intro s g o m src si di k six count words
  have counts : packCount m.ty = count := packCount_eq m.ty
  have many : packWords m.ty = words := packWords_eq m.ty
  refine ⟨fun ready => ?cvt, fun ready => ?pack, fun ready => ?unpack⟩
  case cvt =>
    have done := rounded_completes (fun stoch l => writeElem l m.ty o.vd.toNat di.toNat
      (convert src m.ty m.rnd stoch m.sat m.ftz (readElem l src o.va.toNat si.toNat))) (exec_vcvt s) ready
    simp only [readElem_eq, writeElem_eq] at done
    exact done
  case pack =>
    rw [← counts, ← many] at ready ⊢
    exact laneWrite_completes (exec_vpack s) ready fun l => by
      simp only [Lane.read_one]
      exact packed_eq _ _ _
  case unpack =>
    rw [← counts, ← many] at ready ⊢
    have done := laneMap_completes (exec_vunpack s) ready
    simp only [Lane.write_one, ofNat_unpacked] at done
    exact done

end Sys2Proof.Machine
end

section
/-! Scalar immediates, compares and select (O3; R280, R301, R302). -/

namespace Sys2Proof.Machine

variable {s : State} {g : GangRef} {sd sa sb : SReg} {i : Instr}

/-! ### Immediates -/

/-- An arithmetic shift right divides, towards minus infinity (R301). -/
theorem sshiftRight_eq_ofInt_div (a : Word) (n : Nat) : a.sshiftRight n = BitVec.ofInt 64 (a.toInt / 2 ^ n) := by
  rw [BitVec.sshiftRight, Int.shiftRight_eq_div_pow, Nat.cast_pow, Nat.cast_ofNat]

/-- A logical shift right divides (R301). -/
theorem ushiftRight_eq_ofNat_div (a : Word) (n : Nat) : a >>> n = BitVec.ofNat 64 (a.toNat / 2 ^ n) :=
  BitVec.eq_of_toNat_eq (by
    rw [BitVec.toNat_ushiftRight, Nat.shiftRight_eq_div_pow, BitVec.toNat_ofNat,
      Nat.mod_eq_of_lt ((Nat.div_le_self _ _).trans_lt a.isLt)])

/-- A shift left multiplies (R301). -/
theorem shiftLeft_eq_ofNat_mul (a : Word) (n : Nat) : a <<< n = BitVec.ofNat 64 (a.toNat * 2 ^ n) := by
  rw [← Nat.shiftLeft_eq]
  rfl

/-- The upper immediate: twenty signed bits in front of twelve zeros (R280). -/
theorem upperImmediate_eq (imm : BitVec 20) : (sext imm : Word) <<< 12 = BitVec.ofInt 64 (imm.toInt * 2 ^ 12) := by
  rw [BitVec.shiftLeft_eq_mul_twoPow, BitVec.ofInt_mul]
  rfl

/-! ### Scalar forms -/

/-- A scalar form that writes one register performs. -/
theorem scalarWrite_completes {f r : Quad → Word} (does : exec i s = scalarStep s fun q => q.setS sd (f q))
    (issues : s.issuing = some g) (same : ∀ q, f q = r q) : Completes i s g fun _ q => (q.setS sd (r q)).advance 1 := by
  obtain rfl : f = r := funext same
  obtain ⟨t, next, effect⟩ := scalarStep_effect issues (fun q => q.setS sd (f q)) (fun _ => rfl) fun _ => rfl
  exact ⟨t, does.trans next, effect⟩

/-- A compare writes 1 where its condition holds and 0 where it does not (R302). -/
theorem scalarCompare_tells {f : Word → Word → Bool} {c : Word → Word → Prop}
    (does : exec i s = scalarAlu s sd sa sb fun a b => boolWord (f a b)) (issues : s.issuing = some g)
    (same : ∀ a b, f a b = true ↔ c a b) :
    ∃ r : Quad → Word, (Completes i s g fun _ q => (q.setS sd (r q)).advance 1) ∧
      ∀ q, (c (q.rs sa) (q.rs sb) → r q = 1) ∧ (¬ c (q.rs sa) (q.rs sb) → r q = 0) :=
  ⟨fun q => boolWord (f (q.rs sa) (q.rs sb)), scalarWrite_completes does issues fun _ => rfl, fun _ =>
    ⟨fun holds => if_pos ((same _ _).mpr holds), fun fails => if_neg (mt (same _ _).mp fails)⟩⟩

/-- Settles O3: each immediate form writes its register (`scalarWrite_completes`), each compare the truth of its condition
(`scalarCompare_tells`). -/
theorem scalarImmediateAndCompare : Obligations.ScalarImmediateAndCompare := by
  intro s g sd sa sb sc imm n wide issues writes tells
  have put {i : Instr} {f r : Quad → Word} (does : exec i s = scalarStep s fun q => q.setS sd (f q))
      (same : ∀ q, f q = r q) : writes i r := scalarWrite_completes does issues same
  have tell {i : Instr} {f : Word → Word → Bool} {c : Word → Word → Prop}
      (does : exec i s = scalarAlu s sd sa sb fun a b => boolWord (f a b)) (same : ∀ a b, f a b = true ↔ c a b) :
      tells i c := scalarCompare_tells does issues same
  have ltI (a b : Word) : a.slt b = true ↔ a.toInt < b.toInt := BitVec.slt_iff_toInt_lt
  have geI (a b : Word) : (!a.slt b) = true ↔ b.toInt ≤ a.toInt := by
    rw [Bool.not_eq_true', ← Bool.not_eq_true, ltI, not_lt]
  have ltN (a b : Word) : a.ult b = true ↔ a.toNat < b.toNat := BitVec.ult_iff_toNat_lt
  have geN (a b : Word) : (!a.ult b) = true ↔ b.toNat ≤ a.toNat := by
    rw [Bool.not_eq_true', ← Bool.not_eq_true, ltN, not_lt]
  exact ⟨put rfl fun _ => rfl, put rfl fun _ => rfl, put rfl fun _ => rfl, put rfl fun _ => rfl,
    put rfl fun _ => shiftLeft_eq_ofNat_mul _ _, put rfl fun _ => ushiftRight_eq_ofNat_div _ _,
    put rfl fun _ => sshiftRight_eq_ofInt_div _ _, put rfl fun _ => rfl, put rfl fun _ => upperImmediate_eq wide,
    put rfl fun q => congrArg (q.pc + ·) (upperImmediate_eq wide), tell rfl fun _ _ => beq_iff_eq,
    tell rfl fun _ _ => bne_iff_ne, tell rfl ltI, tell rfl geI,
    tell rfl ltN, tell rfl geN, put rfl fun _ => ite_not ..⟩

end Sys2Proof.Machine
end

section
/-! SUPPORT. What a translation and the check of an address read (R149, R154, R350, R353): they change nothing but what a
read may change, and so name the teams, the walks and the memory that they found. -/

namespace Sys2Proof.Machine

variable {s t u : State} {g : GangRef} {core : Nat} {c : BitVec 6}

/-! ### Updates that a read may make -/

theorem ReadOnly.stall (s : State) (core : Nat) (c : BitVec 6) (i n : Nat) : ReadOnly s (s.stall core c i n) :=
  { ReadOnly.refl s with device := rfl }

theorem ReadOnly.bumpId (s : State) : ReadOnly s s.bumpId := { ReadOnly.refl s with device := rfl }

theorem ReadOnly.hostBytes (s : State) (n : Nat) : ReadOnly s (hostBytes s n).1 := { ReadOnly.refl s with device := rfl }

theorem ReadOnly.lowAs (s : State) (pa : Nat) (low : Bool) : ReadOnly s (s.lowAs pa low) :=
  { ReadOnly.refl s with
    device := rfl
    slice := fun n => by
      unfold State.lowAs
      rw [State.sliceAt_modSlice]
      split <;> rfl }

/-- A change of a core's cached translations and clean copies. -/
theorem ReadOnly.modCore (s : State) (core : Nat) {f : CoreSt → CoreSt}
    (reads : ∀ k, f k = { k with tlb := (f k).tlb, clean := (f k).clean }) : ReadOnly s (s.modCore core f) :=
  { ReadOnly.refl s with
    device := rfl
    core := fun k => by
      rw [State.core_modCore]
      split
      · exact reads _
      · rfl }

/-! ### Translation -/

theorem ReadOnly.translate (s : State) (core : Nat) (c : BitVec 6) (va : Word) (n : Need) :
    ReadOnly s (translate s core c va n).1 := by
  unfold Machine.translate
  lift_lets
  intro after fresh
  have walked : ReadOnly s after := (ReadOnly.touchWalk s c va).trans (.stall ..)
  have walks : ReadOnly s fresh.1 := by
    unfold fresh
    split
    · exact walked.trans (.modCore _ _ fun _ => rfl)
    · exact walked
  clear_value fresh
  grind [ReadOnly.refl]

theorem ReadOnly.translatePieces (s : State) (core : Nat) (c : BitVec 6) (n : Need) (l : List (Word × Nat)) :
    ReadOnly s (translatePieces s core c n l).1 := by
  induction l generalizing s with
  | nil => exact .refl s
  | cons p l ih =>
    have first := ReadOnly.translate s core c p.1 n
    unfold Machine.translatePieces
    grind [ReadOnly.trans]

theorem ReadOnly.locate (s : State) (core : Nat) (c : BitVec 6) (size : Nat) (va : Word) (n : Nat) (need : Need) :
    ReadOnly s (locate s core c size va n need).1 := by
  have pieces := ReadOnly.translatePieces s core c need (pieces va n)
  unfold Machine.locate
  grind [ReadOnly.refl]

theorem ReadOnly.checkAsk (s : State) (g : GangRef) (a : Ask) : ReadOnly s (checkAsk s g a).1 := by
  unfold Machine.checkAsk
  split
  · exact .refl s
  · split
    · exact .refl s
    · exact .locate ..

/-! ### Who issues -/

/-- The same agent is to move, among the same teams and walks. -/
structure SameAgents (s t : State) : Prop where
  cur : t.cur = s.cur
  teams : t.teams = s.teams
  walks : ∀ k, (t.core k).walks = (s.core k).walks

theorem SameAgents.trans (first : SameAgents s t) (second : SameAgents t u) : SameAgents s u where
  cur := second.cur.trans first.cur
  teams := second.teams.trans first.teams
  walks k := (second.walks k).trans (first.walks k)

theorem ReadOnly.sameAgents (reads : ReadOnly s t) : SameAgents s t where
  cur := by rw [reads.device]
  teams := by rw [reads.device]
  walks k := by rw [reads.core k]

theorem SameAgents.fillCode (s : State) (core : Nat) (c : BitVec 6) (line : Nat) (bs : List Byte) :
    SameAgents s (s.fillCode core c line bs) where
  cur := rfl
  teams := rfl
  walks k := by
    unfold State.fillCode
    rw [State.core_modCore]
    split <;> rfl

theorem SameAgents.issuing (same : SameAgents s t) : t.issuing = s.issuing := by
  unfold State.issuing State.gang? State.wave State.team
  rw [same.cur, same.teams]

/-- The fetch of a word changes neither who issues nor the teams and walks (R162, R193). -/
theorem fetchWord_sameAgents (s : State) (core : Nat) (c : BitVec 6) (va : Word) :
    SameAgents s (fetchWord s core c va).1 := by
  have translated := (ReadOnly.translate s core c va .fetch).sameAgents
  have filled (pa : Nat) (e : TlbEntry) (bs : List Byte) :
      SameAgents s ((((translate s core c va .fetch).1.touchLine (lineOf pa) c).lowAs pa e.low).fillCode core c
        (va.toNat / 128) bs) :=
    translated.trans (((ReadOnly.touchLine ..).trans (.lowAs ..)).sameAgents.trans (.fillCode ..))
  have host : SameAgents s ((hostBytes (translate s core c va .fetch).1 128).1.fillCode core c (va.toNat / 128)
      (hostBytes (translate s core c va .fetch).1 128).2) :=
    translated.trans ((ReadOnly.hostBytes ..).sameAgents.trans (.fillCode ..))
  unfold fetchWord
  grind

theorem fetchWords_sameAgents (s : State) (core : Nat) (c : BitVec 6) (va : Word) (n : Nat) :
    SameAgents s (fetchWords s core c va n).1 := by
  induction n generalizing s va with
  | zero => exact ⟨rfl, rfl, fun _ => rfl⟩
  | succ n ih =>
    have first := fetchWord_sameAgents s core c va
    unfold fetchWords
    grind [SameAgents.trans]

end Sys2Proof.Machine
end

section
/-! No step stops the machine (O60; R290, R300, R414). Whatever `exec` performs answers a next state when its performer is
there: an instruction of the code stream needs a gang that issues, an operation of walk code a walk at hand, an event
nothing. The decoders keep the two streams apart, and the fetch keeps the gang or the walk that it fetches for. -/

namespace Sys2Proof.Machine

variable {s t : State} {g : GangRef} {i : Instr}

/-! ### The performer of an instruction -/

/-- The operations of walk code (R402). -/
def Instr.ofWalk : Instr → Bool
  | .walkDone | .walkFetch _ | .walkFld _ _ _ _ | .walkChild _ _ | .walkBox4 _ _ | .walkTri _ _ _ | .walkCommit _ _
  | .walkEdge3 _ _ _ | .walkEmitRing _ _ | .walkEmitVis _ | .walkPush _ | .walkPop _ | .walkAdd _ _ _ | .walkAddi _ _ _
  | .walkSub _ _ _ | .walkAnd _ _ _ | .walkShl _ _ _ | .walkShr _ _ _ | .walkCmp _ _ _ _ | .walkMovi _ _ | .walkJmp _
  | .walkJz _ _ | .walkJnz _ _ | .walkYield => true
  | _ => false

/-- The agent that moves is a walk that its engine holds. -/
def State.atWalk (s : State) : Prop := ∃ core id w, s.cur = .walk core id ∧ s.walk? core id = some w

theorem goes_withGang (issues : s.issuing.isSome = true) (f : GangRef → State) : Goes (withGang s f) := by
  obtain ⟨g, hg⟩ := Option.isSome_iff_exists.mp issues
  rw [withGang_next hg]
  trivial

theorem goes_registerBranch (issues : s.issuing.isSome = true) (sa : SReg) (link : Quad → Quad) :
    Goes (registerBranch s sa link) := by
  unfold registerBranch
  split
  · next none_ => rw [none_] at issues; cases issues
  · dsimp only
    split
    · trivial
    · exact goes_withGang issues _

theorem goes_withWalk (walks : s.atWalk) (f : Eng → Walk → State × WRes) : Goes (withWalk s f) := by
  obtain ⟨core, id, w, cur, held⟩ := walks
  rw [withWalk_next cur held]
  trivial

theorem goes_regOp (walks : s.atWalk) (d : WReg) (f : Walk → Word) : Goes (regOp d f s) := goes_withWalk walks _

/-- An instruction whose performer is there answers a next state. -/
theorem goes_exec (code : encode i ≠ [] → Instr.ofWalk i = false → s.issuing.isSome = true)
    (walk : encode i ≠ [] → Instr.ofWalk i = true → s.atWalk) : Goes (exec i s) := by
  unfold exec
  cases i with
  | walkDone | walkFetch | walkFld | walkChild | walkBox4 | walkTri | walkCommit | walkEdge3 | walkEmitRing | walkEmitVis
  | walkPush | walkPop | walkJmp | walkJz | walkJnz | walkYield => exact goes_withWalk (walk (List.cons_ne_nil _ _) rfl) _
  | walkAdd | walkAddi | walkSub | walkAnd | walkShl | walkShr | walkCmp | walkMovi =>
    exact goes_regOp (walk (List.cons_ne_nil _ _) rfl) _ _
  | bjr | bcallr => exact goes_registerBranch (code (List.cons_ne_nil _ _) rfl) _ _
  | walkStepLimit | ctxcmdCreate | ctxcmdBind | bindComplete | ctxcmdRun | ctxcmdQuiesce | ctxcmdReset
  | resetSequenceComplete | ctxcmdDestroy | destroySequenceComplete | owncmd | ctxinv | ctxinvComplete | ctxstateRead
  | registerWrite | lnclr | lnstatRead | lanternQuadWrite | lnkctlEnSet | lnkctlEnClear | rcvcmdGo
  | recoveryVerifyComplete | deviceReset | firmwareVerifyComplete | attestationRequest | hostBar4Read | hostPostedWrite
  | hostFetchadd | clockStepDown | clockStepUp | deviceWideUncorrectableError | linePoisonDetect | queueReady
  | dispatchOpportunity | queuePriorityAging | copyPacketPerform | counterWaitPacketSatisfied | counterAddPacketPerform
  | teamPlace | teamEnd | launchCompletionAdd | codeHashCheckComplete | pageTableWalk | missSplit | fuseTimeout | widthFault
  | gangSwap | yieldBackoffExpiry | longLatencyComplete | counterWaitTimeout | counterWatchNotify | remoteWaitRetry
  | engineWaitReevaluate | engineWaitSatisfied | engineAddPerform | engineCompletionAdd | engineBindingRetry | copyPerform
  | engineRingFreeWaitEnd | engineRingPublish | qfenceMarkerRetire | lnestEntryPerform | lnestElementFault
  | l1LineEviction | l2LineEviction | promotionWritebackAck | accumulateArrival | accumulateWindowStart | refusalReply
  | drainComplete | watchdogExpiry | aLatchIdleRelease | drainWindowEnd | saveComplete | saveDeadline | linkPeerDetected
  | linkTrained | linkTrainingTimeout | linkFlitError | linkLoss | remoteRequest | remoteReply | remoteRequestTimeout
  | remoteWaitCancel | remoteCancelAck | replayArrivalTimeout | perContextUncorrectableError | translationCacheEviction
  | sectorForwarding => trivial
  | _ => exact goes_withGang (code (List.cons_ne_nil _ _) rfl) _

/-! ### The two streams -/

/-- What a decoder answers is an operation of walk code, or is none. -/
def Answers (ofWalk : Bool) (r : Except DecodeError Instr) : Prop := ∀ i, r = .ok i → Instr.ofWalk i = ofWalk

section
variable {b ok : Bool} {e : DecodeError}

theorem answers_ok (h : Instr.ofWalk i = b) : Answers b (.ok i) := fun j hj => by cases hj; exact h

theorem answers_error : Answers b (.error e) := fun _ h => nomatch h

theorem answers_ite {c : Prop} [Decidable c] {r : Except DecodeError Instr} (h : Answers b r) :
    Answers b (if c then r else .error e) := by
  split
  · exact h
  · exact answers_error

theorem answers_need (h : Instr.ofWalk i = b) : Answers b (need ok i) := answers_ite (answers_ok h)

theorem answers_legal (h : Instr.ofWalk i = b) : Answers b (legal i) := answers_ite (answers_ok h)

theorem answers_plain (h : Instr.ofWalk i = b) : Answers b (plain ok i) := answers_ite (answers_legal h)

theorem answers_withMods {w : Code} {f : Mods → Instr} (h : ∀ m, Instr.ofWalk (f m) = b) :
    Answers b (withMods w ok f) := by
  unfold withMods
  split
  · exact answers_ite (answers_legal (h _))
  · exact answers_error
  · exact answers_error

theorem answers_withMem {w : Code} {f : ElemTy → MemMods → Instr} (h : ∀ ty m, Instr.ofWalk (f ty m) = b) :
    Answers b (withMem w f) := by
  refine answers_ite ?_
  split
  · exact answers_legal (h _ _)
  · exact answers_error

theorem answers_withAcc {w : Code} {f : AccTy → MemMods → Instr} (h : ∀ ty m, Instr.ofWalk (f ty m) = b) :
    Answers b (withAcc w f) := by
  refine answers_ite ?_
  split
  · exact answers_legal (h _ _)
  · exact answers_error

end

/-! Each decoder of the code stream answers no operation of walk code. -/

theorem decodeAlu_answers (sd sa sb : SReg) (fn : Nat) : Answers false (decodeAlu sd sa sb fn) := by
  unfold decodeAlu
  split
  case h_20 | h_21 | h_22 => exact answers_need rfl
  case h_23 => exact answers_error
  all_goals exact answers_ok rfl

theorem decodeCmp_answers (sd sa sb : SReg) (fn : Nat) : Answers false (decodeCmp sd sa sb fn) := by
  unfold decodeCmp
  split
  case h_7 => exact answers_error
  all_goals exact answers_ok rfl

theorem decodeAtom_answers (sd sa sb : SReg) (ord : MemOrd) (op : Nat) : Answers false (decodeAtom sd sa sb ord op) := by
  unfold decodeAtom
  split
  case h_11 => exact answers_error
  all_goals exact answers_ok rfl

theorem decodeBranch_answers (op cond : Nat) (off : BitVec 20) : Answers false (decodeBranch op cond off) := by
  unfold decodeBranch
  split
  case h_7 => exact answers_error
  all_goals exact answers_ok rfl

theorem decodeSync_answers (op : Nat) (sd sa sb : SReg) (fn : BitVec 6) (imm : BitVec 12) :
    Answers false (decodeSync op sd sa sb fn imm) := by
  unfold decodeSync
  generalize (if op = 0x1F then sd.toNat else fn.toNat) = sub
  split
  case h_1 | h_2 | h_3 => exact answers_ok rfl
  case h_17 => exact answers_error
  all_goals exact answers_need rfl

theorem decodeWait_answers (op : Nat) (sd sa sb : SReg) (fn : BitVec 6) : Answers false (decodeWait op sd sa sb fn) := by
  unfold decodeWait
  split
  case h_1 | h_2 | h_5 | h_6 => exact answers_ite (answers_legal rfl)
  case h_9 => exact answers_error
  all_goals exact answers_legal rfl

theorem decodeEngine_answers (sd sa sb : SReg) (sub q : BitVec 3) : Answers false (decodeEngine sd sa sb sub q) := by
  unfold decodeEngine
  split
  case h_4 => exact answers_error
  all_goals exact answers_need rfl

theorem decodeControl_answers (op : Nat) (sd sa sb : SReg) (fn : BitVec 6) :
    Answers false (decodeControl op sd sa sb fn) := by
  unfold decodeControl
  split
  case h_11 => exact answers_error
  all_goals exact answers_need rfl

theorem decodeSgetr_answers (sd : SReg) (idx num : BitVec 6) : Answers false (decodeSgetr sd idx num) := by
  unfold decodeSgetr
  split
  · exact answers_ok rfl
  · exact answers_need rfl

theorem decodeSU_answers (w : Code) : Answers false (decodeSU w) := by
  unfold decodeSU
  split
  case h_3 => exact answers_error
  all_goals exact answers_ok rfl

theorem decodeScalar_answers (w : Code) : Answers false (decodeScalar w) := by
  unfold decodeScalar
  dsimp only
  split
  case h_1 => exact decodeAlu_answers _ _ _ _
  case h_7 =>
    split
    case h_3 => exact answers_error
    all_goals exact answers_ok rfl
  case h_8 => exact decodeCmp_answers _ _ _ _
  case h_11 => exact answers_ite (decodeSgetr_answers _ _ _)
  case h_13 | h_14 => exact decodeBranch_answers _ _ _
  case h_15 | h_18 | h_36 | h_37 | h_39 => exact decodeControl_answers _ _ _ _ _
  case h_25 => exact decodeAtom_answers _ _ _ _ _
  case h_26 | h_27 | h_29 | h_31 | h_32 => exact decodeSync_answers _ _ _ _ _ _
  case h_30 | h_33 => exact decodeWait_answers _ _ _ _ _
  case h_34 => exact decodeEngine_answers _ _ _ _ _
  case h_35 => exact answers_ite (answers_legal rfl)
  case h_40 => exact answers_ite (decodeSU_answers w)
  case h_6 | h_10 | h_12 | h_16 | h_17 | h_28 | h_38 => exact answers_need rfl
  all_goals exact answers_ok rfl

theorem decodeHeader_answers (w0 w1 : Code) : Answers false (decodeHeader w0 w1) := answers_ite (answers_legal rfl)

theorem decodeIntLane_answers (op : Nat) (o : LaneOp) (w : Code) : Answers false (decodeIntLane op o w) := by
  unfold decodeIntLane
  dsimp only
  split
  case h_22 | h_23 | h_24 | h_25 | h_26 | h_28 => exact answers_legal rfl
  case h_27 => exact answers_plain rfl
  case h_29 => exact answers_error
  all_goals exact answers_withMods fun _ => rfl

theorem decodeFpLane_answers (op : Nat) (o : LaneOp) (w : Code) : Answers false (decodeFpLane op o w) := by
  unfold decodeFpLane
  dsimp only
  split
  case h_28 | h_29 | h_30 | h_31 => exact answers_legal rfl
  case h_32 => exact answers_plain rfl
  case h_33 => exact answers_error
  all_goals exact answers_withMods fun _ => rfl

theorem decodeConvLane_answers (op : Nat) (o : LaneOp) (w : Code) : Answers false (decodeConvLane op o w) := by
  unfold decodeConvLane
  dsimp only
  split
  case h_1 =>
    split
    · exact answers_withMods fun _ => rfl
    · exact answers_error
  case h_14 => exact answers_plain rfl
  case h_15 => exact answers_error
  all_goals exact answers_withMods fun _ => rfl

theorem decodeCrossLane_answers (op : Nat) (o : LaneOp) (w : Code) : Answers false (decodeCrossLane op o w) := by
  unfold decodeCrossLane
  dsimp only
  split
  case h_1 | h_2 =>
    split
    · exact answers_withMods fun _ => rfl
    · exact answers_error
  case h_10 => exact answers_legal rfl
  case h_11 => exact answers_error
  all_goals exact answers_plain rfl

theorem decodeMaskLane_answers (op : Nat) (o : LaneOp) (w : Code) : Answers false (decodeMaskLane op o w) := by
  unfold decodeMaskLane
  split
  case h_19 | h_20 => exact answers_legal rfl
  case h_21 => exact answers_error
  all_goals exact answers_plain rfl

theorem decodeMemLane_answers (op : Nat) (o : LaneOp) (w : Code) : Answers false (decodeMemLane op o w) := by
  unfold decodeMemLane
  split
  case h_5 | h_17 => exact answers_plain rfl
  case h_14 | h_15 | h_16 => exact answers_withAcc fun _ _ => rfl
  case h_18 => exact answers_error
  all_goals exact answers_withMem fun _ _ => rfl

theorem decodeMatrixLane_answers (op : Nat) (o : LaneOp) (reuse : Bool) (w : Code) :
    Answers false (decodeMatrixLane op o reuse w) := by
  unfold decodeMatrixLane
  split
  case h_3 =>
    split
    · exact answers_plain rfl
    · exact answers_error
  case h_12 => exact answers_error
  all_goals exact answers_plain rfl

theorem decodeLane_answers (w0 w1 w2 : Code) : Answers false (decodeLane w0 w1 w2) := by
  unfold decodeLane
  split
  · exact answers_error
  · dsimp only
    split_ifs
    exacts [answers_error, decodeIntLane_answers _ _ _, decodeFpLane_answers _ _ _, decodeConvLane_answers _ _ _,
      decodeCrossLane_answers _ _ _, decodeMaskLane_answers _ _ _, decodeMemLane_answers _ _ _,
      decodeMatrixLane_answers _ _ _ _]

theorem nestInstr_code {op : Nat} {n : Nest} (h : nestInstr op n = some i) : Instr.ofWalk i = false := by
  unfold nestInstr at h
  split at h <;> cases h <;> rfl

theorem decodeNest_answers (w0 w1 w2 w3 w4 w5 w6 w7 : Code) : Answers false (decodeNest w0 w1 w2 w3 w4 w5 w6 w7) := by
  unfold decodeNest
  dsimp only
  split
  · refine answers_ite ?_
    split
    · next found => exact answers_legal (nestInstr_code found)
    · exact answers_error
  · exact answers_error
  · exact answers_error

/-- The code stream holds no operation of walk code (R268, R401). -/
theorem decodeCode_code {ws rest : List Code} (h : decodeCode ws = .ok (i, rest)) : Instr.ofWalk i = false := by
  have of {r : Except DecodeError Instr} {l : List Code} (all : Answers false r)
      (h : r.map (·, l) = .ok (i, rest)) : Instr.ofWalk i = false := by
    cases r with
    | error e => cases h
    | ok j =>
      cases h
      exact all i rfl
  unfold decodeCode at h
  split at h
  · cases h
  · split at h
    · exact of (decodeScalar_answers _) h
    · exact of (decodeLane_answers _ _ _) h
    · exact of (decodeNest_answers _ _ _ _ _ _ _ _) h
    · exact of (decodeHeader_answers _ _) h
    · cases h

/-- A word of walk code is an operation of walk code, or none (R402). -/
theorem decodeWalk_answers (w : Code) : Answers true (decodeWalk w) := by
  unfold decodeWalk
  dsimp only
  split
  case h_8 => exact answers_ite (answers_legal rfl)
  case h_9 | h_16 => split <;> exact answers_need rfl
  case h_17 =>
    split
    · exact answers_need rfl
    · exact answers_error
  case h_23 => exact answers_error
  all_goals exact answers_need rfl

/-! ### The agents that move -/

theorem mem_readyGangs_held {core quarter n : Nat} {active : Bool} (h : (n, g) ∈ readyGangs s core quarter active) :
    (s.gang? g.t g.w g.base).isSome = true := by
  unfold readyGangs at h
  obtain ⟨t, -, h⟩ := List.mem_flatMap.mp h
  dsimp only at h
  split at h
  · obtain ⟨w, -, h⟩ := List.mem_flatMap.mp h
    split at h
    · obtain ⟨x, ready, same⟩ := List.mem_map.mp h
      cases same
      rw [State.gang?, Option.isSome_map, List.find?_isSome]
      exact ⟨x, List.mem_of_mem_filter ready, beq_self_eq_true _⟩
    · cases h
  · cases h

theorem oldest_mem {l : List (Nat × GangRef)} (h : oldest l = some g) : ∃ n, (n, g) ∈ l := by
  have chosen (l : List (Nat × GangRef)) (a : Nat × GangRef) :
      l.foldl (fun a b => if older a b then a else b) a ∈ a :: l := by
    induction l generalizing a with
    | nil => exact List.mem_cons_self
    | cons b l ih =>
      rw [List.foldl_cons]
      split
      · grind
      · exact List.mem_cons_of_mem _ (ih b)
  cases l with
  | nil => cases h
  | cons a l =>
    cases h
    exact ⟨_, chosen l a⟩

/-- The fetch of a gang that issues reaches an instruction that it may perform. -/
theorem goes_fetchInstr (issues : s.issuing.isSome = true) : Goes (s.fetchInstr g).run := by
  unfold State.fetchInstr
  dsimp only
  split
  · trivial
  · trivial
  · trivial
  · next u w word =>
    have first : SameAgents s u := by simpa only [word] using fetchWord_sameAgents s (s.coreOf g) (s.ctxOf g) (s.leader g).pc
    change Goes (Issued.run (if !(s.leader g).fits w then _ else _))
    split
    · trivial
    · split
      · trivial
      · next v ws words =>
        have rest : SameAgents u v := by
          simpa only [words] using fetchWords_sameAgents u (s.coreOf g) (s.ctxOf g) ((s.leader g).pc + 4) (instrWords w - 1)
        split
        · next i l decodes =>
          exact goes_exec (fun _ _ => (first.trans rest).issuing ▸ issues)
            fun _ walk => absurd (decodeCode_code decodes) (by simp [walk])
        · trivial

theorem goes_quarter (core quarter : Nat) : Goes (s.issueQuarter core quarter).run := by
  unfold State.issueQuarter
  split
  · trivial
  · next g first =>
    obtain ⟨n, ready⟩ := oldest_mem first
    dsimp only
    split
    · trivial
    · unfold State.issueGang
      split
      · trivial
      · exact goes_fetchInstr (mem_readyGangs_held ready)

theorem SameAgents.walk? (same : SameAgents s t) (core id : Nat) : t.walk? core id = s.walk? core id := by
  unfold State.walk?
  rw [same.walks]

/-- A word that a walk engine reaches is performed for a walk that it holds. -/
theorem walkWord_atWalk {core id : Nat} {w : Walk} {x : Code} {u : State} (held : s.walk? core id = some w)
    (h : s.walkWord core w = .word x u) : u.atWalk := by
  have named : w.id = id := by simpa using List.find?_some held
  unfold State.walkWord at h
  dsimp only at h
  split at h
  · cases h
  · split at h <;> cases h
    next v word =>
      have same : SameAgents s v := by
        simpa only [word] using fetchWord_sameAgents s core w.ctx (w.w64 48 + BitVec.ofNat 64 (4 * w.wpc))
      exact ⟨core, w.id, w, rfl, named ▸ (same.walk? core id).trans held⟩

theorem goes_performWalk (walks : s.atWalk) (x : Code) : Goes (performWalk (decodeWalk x) s) := by
  unfold performWalk
  split
  · next i decodes =>
    exact goes_exec (fun _ code => absurd (decodeWalk_answers x i decodes) (by simp [code])) fun _ _ => walks
  · exact goes_withWalk walks _

theorem goes_walk (core id : Nat) : Goes (s.nextWalk core id).run := by
  cases next : s.nextWalk core id with
  | state u => trivial
  | word x u =>
    refine goes_performWalk ?_ x
    unfold State.nextWalk at next
    split at next
    · cases next
    · next w held =>
      split at next
      · cases next
      · split at next
        · cases next
        · split at next
          · cases next
          · split at next
            · cases next
            · exact walkWord_atWalk held next

/-- An event needs no performer. -/
theorem goes_event (h : encode i = []) : Goes (exec i s) := goes_exec (absurd h) (absurd h)

theorem goes_due (d : Due) : Goes (d.perform s) := by
  cases d <;> trivial

/-- Settles O60: what is due and a cycle of the clock go; the agent at the head of the agenda performs what it has reached,
and its performer is there. -/
theorem stepAlwaysGoes : Obligations.StepAlwaysGoes := by
  intro s events
  unfold State.safe step
  split
  · exact goes_due _
  · split
    · trivial
    · next x rest agenda =>
      split
      · have headIsEvent := events x (agenda ▸ List.mem_cons_self)
        unfold State.move
        split
        · exact goes_quarter _ _
        · exact goes_walk _ _
        · next i agent => exact goes_event (headIsEvent i agent)
        all_goals trivial
      · trivial

end Sys2Proof.Machine
end

section
/-! Loads at issue (O24; R276, R355, R359 to R363, R437, R438, R443). The statement gives a lane load every element type.
R360 keeps types of less than a byte out of the decoder only, so `vld` of `e2m1`, whose half byte counts as none, asks for
no bytes: its places are plain wherever they lie, also behind a Sector window. The model sends that access to the other
device, as it does every access to a window; with no link the load is dropped and leaves a deferred fault. -/

namespace Sys2Proof.Machine

/-- The first page of a context, at the start of its Sector window 0. -/
def windowPage : TlbEntry :=
  { ctx := 0, base := 0, lg := 16, frame := Config.apertureBase + 2 ^ 48, w := true, ctr := false, code := false
    poison := false, scope := 2, cache := 0, tag := 0, manifest := 0, verified := false }

/-- A quad with one active lane. -/
def laneQuad : Quad := { Quad.start with em := 1 }

/-- A device without links, whose one context runs one wave of one quad and has a window of another device's memory. -/
def windowState : State :=
  { State.reset with
    ctxs := Vector.replicate 64 { Ctx.fresh .running with
      windows := Vector.replicate 256 { RemoteWindow.reset with valid := true, size := 65536 } }
    cores := Vector.replicate 288 { CoreSt.reset with tlb := [windowPage] }
    teams := [{ Team.blank with kernel := { Kernel.blank with regs := 640 }, phase := .live
                                waves := [{ Wave.blank with stopped := false, quads := [laneQuad]
                                                            gangs := [{ base := 0, lg := 0, active := true, slotFree := 0 }] }] }]
    cur := .gang 0 0 0 }

/-- The gang of that quad. -/
def windowGang : GangRef := { t := 0, w := 0, base := 0, lg := 0 }

/-- A load of v8 from the address in s0 and v4. -/
def windowOp : LaneOp := { vd := 8, va := 4, vb := 0, vc := 0, guard := 31, neg := false, flag := .none, minw := 0 }

/-- Without offset, scale or order. -/
def windowMods : MemMods := { off := 0, flat := false, ord := .none, yield := false, scale := 0 }

/-- The place that the lane names: no bytes at the start of the window. -/
def windowLoc : Loc := .mem [(Config.apertureBase + 2 ^ 48, 0, 0, windowPage)]

/-- Some outstanding load of quad 0 is dropped. -/
def dropsLoad (s : State) : Bool :=
  (s.quadOf windowGang 0).pends.any fun p => p.loads.any (·.dropped)

/-- A place of no bytes is plain: nothing is asked of its memory. -/
theorem plainPlaces_windowLoc : PlainPlaces windowState [windowLoc] where
  hbm := by
    intro l hl p hp i hi
    cases List.mem_singleton.mp hl
    cases List.mem_singleton.mp hp
    cases hi
  offset := by
    intro l hl p hp
    cases List.mem_singleton.mp hl
    cases List.mem_singleton.mp hp
    decide
  page := by
    intro l hl p hp k hk q hq _
    cases List.mem_singleton.mp hl
    cases List.mem_singleton.mp hp
    cases List.mem_singleton.mp hk
    cases List.mem_singleton.mp hq
    rfl

theorem laneReady_window : LaneReady windowState windowGang windowOp [.ty 8 .e2m1, .one 4, .s 0] where
  issuing := rfl
  flag := rfl
  guard := rfl
  fields := by decide
  width := Nat.le_refl _

set_option maxRecDepth 20000 in
/-- The request cannot leave by any link, so the load is dropped (R443). -/
theorem windowLoad_drops : (match exec (.vld windowOp .e2m1 windowMods) windowState with
    | .next t => dropsLoad t
    | .fault _ => false
    | .refused _ => false) = true := rfl

set_option maxRecDepth 20000 in
/-- The one address that the load checks is in the window. -/
theorem checkAsks_window : checkAsks windowState windowGang
    [{ quad := 0, lanes := 1, addr := 0, len := 0, align := 1, need := .read, spad := false }] =
      (windowState, [windowLoc], []) := rfl

theorem pends_sendsOff (q : Quad) (len : Nat) (p : Pend) : (q.sendsOff len p).pends = q.pends ++ [p] := by
  unfold Quad.sendsOff
  split <;> rfl

set_option maxRecDepth 20000 in
/-- Refutes O24: a `vld` of `e2m1` asks for no bytes, so a place behind a Sector window is plain for it; the model drops the
load where no link carries its request (R443), and the statement holds every load to be kept. -/
theorem not_loadsIssue : ¬ Obligations.LoadsIssue := by
  intro h
  obtain ⟨-, lanes⟩ := h windowState windowState windowGang [windowLoc] 0 0 0 windowOp .e2m1 windowMods 0 none
  obtain ⟨u, reads, t, step, effect⟩ := (lanes rfl).2.1 laneReady_window rfl checkAsks_window plainPlaces_windowLoc
  have same : u.teams = windowState.teams := by rw [reads.device]
  have quads : u.quadOf windowGang 0 = laneQuad := by
    unfold State.quadOf State.quad State.wave State.team
    rw [same]
    rfl
  have drops := windowLoad_drops
  rw [step] at drops
  refine Bool.false_ne_true (Eq.trans (b := dropsLoad t) (Eq.symm ?_) drops)
  unfold dropsLoad
  rw [effect.each 0 (by decide) ?_ (by rw [quads]; rfl), quads, pends_sendsOff]
  · rfl
  · unfold State.waveOf State.wave State.team
    rw [same]
    exact Nat.one_pos

end Sys2Proof.Machine
end

section
/-! Matrix instructions and the elements of a product (O39; R276, R385, R388 to R394). -/

namespace Sys2Proof.Machine

variable {s : State} {g : GangRef} {x : MatForm} {o : LaneOp} {f : Family} {flag : Option (BitVec 4)} {i : Instr}

/-! ### Issue -/

/-- What a matrix instruction leaves outstanding is register writes alone (R276, R389). -/
theorem matQuad_pend (n id : Nat) : (s.matQuad g x o n).pend id flag =
    { id := id, flag := flag, writes := (s.matQuad g x o n).writes, loads := [], blends := [], faults := [], walks := []
      requests := [], poll := none } := by
  unfold State.matQuad
  dsimp only
  split <;> rfl

/-- The state in which a matrix instruction is sent off: the A-latch used (R390), its cycles counted (R468). -/
def matSent (s : State) (g : GangRef) (x : MatForm) (o : LaneOp) (cost : Nat) : State :=
  ((s.useLatch g x o).stall (s.coreOf g) (s.ctxOf g) 12 cost).bumpId

theorem core_matSent (cost c : Nat) : (matSent s g x o cost).core c =
    { s.core c with quarters := ((matSent s g x o cost).core c).quarters } := by
  change (s.useLatch g x o).core c = { s.core c with quarters := ((s.useLatch g x o).core c).quarters }
  unfold State.useLatch
  dsimp only
  rw [State.core_modCore]
  split <;> rfl

/-- A span that breaks a limit is an illegal operand (R388, R393). -/
theorem matBody_refuses {b : Nat} (room : flagFull s g flag = false) (span : b ∈ spanBases g)
    (breaks : spanFamily s g x o b = none) : matBody x o flag s g = s.badOperand g 0 := by
  unfold matBody
  have refused : (spanBases g).any (fun b => (spanFamily s g x o b).isNone) = true :=
    List.any_eq_true.mpr ⟨b, span, by rw [breaks]; rfl⟩
  rw [if_neg (by simp [room]), if_pos (by rw [refused, Bool.or_true])]

section
variable (room : flagFull s g flag = false) (wide : 2 ≤ (s.teamOf g).kernel.lgwave)
  (keeps : ∀ b ∈ spanBases g, (spanFamily s g x o b).isSome = true)
include room wide keeps

theorem matBody_passes : matBody x o flag s g =
    match badRows s g x o with
    | (_, _, n) :: _ => s.trap g .sparseMeta (BitVec.ofNat 64 n)
        (fun m => (badRows s g x o).foldl (fun r y => if y.1 = m then r ||| laneBit y.2.1 else r) 0) 0
    | [] => (((s.useLatch g x o).mapGang g fun _ q => q.busyMatrix (x.cycles * (spanBases g).length)).stall (s.coreOf g)
        (s.ctxOf g) 12 (x.cycles * (spanBases g).length)).bumpId.issueLong g 3 (x.cycles * (spanBases g).length) s.nextId
          flag (s.matQuad g x o) := by
  have kept : (spanBases g).any (fun b => (spanFamily s g x o b).isNone) = false :=
    List.any_eq_false.mpr fun b hb => by simp [Option.isSome_iff_ne_none.mp (keeps b hb)]
  unfold matBody
  exact (if_neg (by simp [room])).trans (if_neg (by simp [kept]; omega))

theorem matBody_sends (rows : badRows s g x o = []) :
    Effect (matSent s g x o (x.cycles * (spanBases g).length)) (matBody x o flag s g) g
      (dogNext (matSent s g x o (x.cycles * (spanBases g).length)) g)
      ((matSent s g x o (x.cycles * (spanBases g).length)).waveOf g).fusest
      (dogHits (matSent s g x o (x.cycles * (spanBases g).length)) g) fun n q =>
        (q.busyMatrix (x.cycles * (spanBases g).length)).sendsOff 3 ((s.matQuad g x o n).pend s.nextId flag) := by
  generalize cost : x.cycles * (spanBases g).length = k
  have sent : matBody x o flag s g = (((matSent s g x o k).mapGang g fun n q =>
      (q.busyMatrix k).issueLong s.nextId 3 flag (s.matQuad g x o n)).account g k .count).regang g := by
    rw [matBody_passes room wide keeps, rows, cost]
    exact congrArg (fun u => ((u.account g k .count).regang g : State)) (mapGang_mapGang (matSent s g x o k) g
      (fun _ q => q.busyMatrix k) (fun n q => q.issueLong s.nextId 3 flag (s.matQuad g x o n)) fun _ _ => rfl)
  rw [sent]
  exact (issue_effect (matSent s g x o k) g k (fun n q => (q.busyMatrix k).issueLong s.nextId 3 flag (s.matQuad g x o n))
    fun n q => (q.busyMatrix k).issueLong_inHandler ..).congr fun _ _ => Quad.issueLong_eq_sendsOff ..

end

/-! ### The rows of a quad -/

theorem flatMap_filter_eq {α β : Type} (l : List α) (p : α → Bool) (h : α → List β) :
    (l.filter p).flatMap h = l.flatMap fun a => if p a then h a else [] := by
  induction l with
  | nil => rfl
  | cons a l ih => cases keep : p a <;> simp [keep, ih]

/-- The rows of a quad are those of its active lanes (R389). -/
theorem matQuad_writes {n : Nat} (span : spanFamily s g x o (n / 4 * 4) = some (some f)) : (s.matQuad g x o n).writes =
    ((List.range 4).filter fun i => (s.quadOf g (n / 4 * 4 + n % 4)).active o i).flatMap fun i =>
      s.matRow g x o f (n / 4 * 4) (4 * (n % 4) + i) := by
  unfold State.matQuad
  dsimp only
  rw [span]
  rw [flatMap_filter_eq]
  refine List.flatMap_congr fun i hi => ?_
  have lane : i < 4 := List.mem_range.mp hi
  have quad : (4 * (n % 4) + i) / 4 = n % 4 := by omega
  have place : (4 * (n % 4) + i) % 4 = i := by omega
  rw [State.spanActive, quad, place]

/-- A dense row without scales: each element from the row's A, a column of B and the old element (R389). -/
theorem matRow_dense (dense : x.sparse = none) (plain : x.scl = false) (b p : Nat) : s.matRow g x o f b p =
    (List.range 16).flatMap fun j => (List.range (regsOf f.acc)).map fun r =>
      .v (p % 4) (o.vd.toNat + regsOf f.acc * j + r) (BitVec.ofNat 32
        (matElem f ((s.spanLane g b p).read (o.vd.toNat + regsOf f.acc * j) (regsOf f.acc))
          ((s.spanLane g b p).read o.va.toNat (f.aRegs false)) ((s.spanLane g b j).read o.vb.toNat f.bRegs)
          none none none / 2 ^ (32 * r))) := by
  unfold State.matRow State.spanScale rowMeta
  rw [dense, plain]
  rfl

/-! ### The elements -/

theorem code_of_ofCode {n : Nat} {t : ElemTy} (h : ElemTy.ofCode n = some t) : n = t.code := by
  unfold ElemTy.ofCode at h
  split at h <;> cases h <;> rfl

/-- The types of a family are a pair of R385, and that of A fixes how it sums. -/
theorem familyOf_pair {fmt : BitVec 13} (h : familyOf fmt = some f) :
    (∃ a b, fmtPair a b = true ∧ a.toNat = f.ta.code ∧ b.toNat = f.tb.code) ∧
      (f.sum = .integer → f.ta = .i8 ∨ f.ta = .i4) ∧
      (f.sum = .chain → f.ta = .f64 ∧ f.k = 2 ∨ f.ta = .f32 ∧ f.k = 4) := by
  unfold familyOf at h
  split at h
  · next pair =>
    split at h
    · next ta tb ha hb =>
      have codes (k : Nat) (sum : MatSum) (scales sparse : Bool) : ∃ a b, fmtPair a b = true ∧
          a.toNat = (Family.mk ta tb k sum scales sparse).ta.code ∧ b.toNat = (Family.mk ta tb k sum scales sparse).tb.code :=
        ⟨_, _, pair, code_of_ofCode ha, code_of_ofCode hb⟩
      cases ta <;> cases h <;> exact ⟨codes _ _ _ _, by simp⟩
    · cases h
  · cases h

/-- A type that the table of R385 pairs with itself alone. -/
theorem fmtPair_same {a b : BitVec 5} {ta tb : ElemTy} (pair : fmtPair a b = true) (ha : a.toNat = ta.code)
    (hb : b.toNat = tb.code) (alone : ta = .i8 ∨ ta = .i4 ∨ ta = .f64 ∨ ta = .f32) : tb = ta := by
  unfold fmtPair at pair
  dsimp only at pair
  rw [ha, hb] at pair
  revert pair
  rcases alone with rfl | rfl | rfl | rfl <;> cases tb <;> decide

/-- The families of R385 that sum whole numbers. -/
theorem familyOf_integer {fmt : BitVec 13} (h : familyOf fmt = some f) (sum : f.sum = .integer) :
    f.tb = f.ta ∧ (f.ta = .i8 ∨ f.ta = .i4) := by
  obtain ⟨⟨a, b, pair, ha, hb⟩, integer, -⟩ := familyOf_pair h
  have type := integer sum
  exact ⟨fmtPair_same pair ha hb (by tauto), type⟩

/-- The families of R385 that add the products one by one. -/
theorem familyOf_chain {fmt : BitVec 13} (h : familyOf fmt = some f) (sum : f.sum = .chain) :
    f.tb = f.ta ∧ (f.ta = .f64 ∧ f.k = 2 ∨ f.ta = .f32 ∧ f.k = 4) := by
  obtain ⟨⟨a, b, pair, ha, hb⟩, -, chain⟩ := familyOf_pair h
  have type := chain sum
  exact ⟨fmtPair_same pair ha hb (by tauto), type⟩

/-- An element of a signed type is read as a signed number of its width (R242, R248). -/
theorem intOf_packedElem {t : ElemTy} (signed : t.isSigned = true) (v e : Nat) :
    t.intOf (packedElem t v e) = (BitVec.ofNat t.bits (v / 2 ^ (t.bits * e))).toInt := by
  rw [t.intOf_eq, if_pos signed, packedElem, part]
  congr 1
  exact BitVec.eq_of_toNat_eq (by simp)

theorem foldl_add_eq_sum {α : Type} [AddMonoid α] {l : List Nat} {h : Nat → α} {a : α} :
    l.foldl (fun y e => y + h e) a = a + (l.map h).sum := by
  induction l generalizing a with
  | nil => simp
  | cons e l ih => rw [List.foldl_cons, ih, List.map_cons, List.sum_cons, add_assoc]

/-- Settles O39: a matrix instruction over spans that keep the limits is sent off (`matBody_sends`), a row of a quad is that of
an active lane (`matQuad_writes`), and a family fixes its types and its K (R385). -/
theorem matrixIssue : Obligations.MatrixIssue := by
  refine ⟨?issue, ?rows, ?integer, ?chain⟩
  case issue =>
    intro s g o reuse scl vm f flag ty leads selected room spans mat
    have step {i : Instr} {x : MatForm} (does : exec i s = matStep x o s) : mat i x := by
      intro ready cost
      have moves : exec i s = .next (matBody x o flag s g) := by
        rw [does, matStep, leads]
        exact laneStep_selected ready selected _
      refine ⟨fun wide keeps => ⟨fun rows => ?_, fun n l k rest rows => ?_⟩, fun b span breaks => ?_⟩
      · refine ⟨matSent s g x o cost, rfl, core_matSent cost, _, moves, ?_⟩
        exact (matBody_sends room wide keeps rows).congr fun n q => by
          rw [matQuad_pend]
          rfl
      · rw [moves, matBody_passes room wide keeps, rows]
        rfl
      · rw [moves, matBody_refuses room span breaks]
        rfl
    exact ⟨step (exec_mma s), step (exec_mmas s), fun ready => laneMap_completes (exec_vspk s) ready⟩
  case rows =>
    intro s g x o n f b lane k span dense plain
    rw [matQuad_writes span]
    refine List.flatMap_congr fun i hi => ?_
    have lane : i < 4 := List.mem_range.mp (List.mem_of_mem_filter hi)
    have place : (4 * (n % 4) + i) % 4 = i := by omega
    rw [matRow_dense dense plain, place]
    rfl
  case integer =>
    intro f fmt c a b family sum int
    obtain ⟨same, type⟩ := familyOf_integer family sum
    have signed : f.ta.isSigned = true := by rcases type with type | type <;> rw [type] <;> rfl
    have old : ElemTy.i32.intOf c.toNat = c.toInt :=
      (ElemTy.intOf_eq .i32 c.toNat).trans (congrArg BitVec.toInt (BitVec.ofNat_toNat 32 c))
    unfold matElem
    rw [sum, same]
    simp only [intOf_packedElem signed, old, ElemTy.bitsOf_eq, foldl_add_eq_sum]
    rfl
  case chain =>
    intro f fmt c a b family sum el
    obtain ⟨same, type⟩ := familyOf_chain family sum
    refine ⟨type, ?_⟩
    unfold matElem
    rw [sum, same]
    rfl

end Sys2Proof.Machine
end

section
/-! SUPPORT. The reads of plain places (R160, R177, R350, R361): each byte is the one that the core saw before the first of
them, whatever copies the reads before it have brought into the L1. -/

namespace Sys2Proof.Machine

variable {s t : State} {g : GangRef} {core : Nat} {c : BitVec 6} {locs : List Loc} {l : Loc} {a b : Word} {p q : Nat}
  {e : TlbEntry}

/-! ### The bytes of plain places -/

/-- One byte of the places: its virtual and its physical address. -/
def ByteAt (locs : List Loc) (a : Word) (p : Nat) : Prop :=
  ∃ l ∈ locs, ∃ x ∈ l.pieces, ∃ i < x.2.1, a = x.2.2.1 + BitVec.ofNat 64 i ∧ p = x.1 + i

theorem toNat_add_of_page {a : Word} {n i : Nat} (fits : a.toNat % 65536 + n ≤ 65536) (small : i < n) :
    (a + BitVec.ofNat 64 i).toNat = a.toNat + i := by
  have := a.isLt
  rw [BitVec.toNat_add, BitVec.toNat_ofNat]
  omega

theorem PlainPlaces.hbm_of_byte (plain : PlainPlaces s locs) (at_ : ByteAt locs a p) :
    physKind p = .hbm ∧ s.isPoisoned (lineOf p) = false := by
  obtain ⟨l, hl, x, hx, i, hi, -, rfl⟩ := at_
  exact plain.hbm l hl x hx i hi

theorem PlainPlaces.offset_of_byte (plain : PlainPlaces s locs) (at_ : ByteAt locs a p) :
    p % 65536 = a.toNat % 65536 := by
  obtain ⟨l, hl, x, hx, i, hi, rfl, rfl⟩ := at_
  obtain ⟨same, fits⟩ := plain.offset l hl x hx
  rw [toNat_add_of_page (by omega) hi]
  omega

/-- Bytes of one virtual line lie in one physical line. -/
theorem PlainPlaces.line_of_byte (plain : PlainPlaces s locs) (first : ByteAt locs a p) (second : ByteAt locs b q)
    (line : a.toNat / 128 = b.toNat / 128) : lineOf p = lineOf q := by
  have offset_a := plain.offset_of_byte first
  have offset_b := plain.offset_of_byte second
  obtain ⟨l, hl, x, hx, i, hi, rfl, rfl⟩ := first
  obtain ⟨k, hk, y, hy, j, hj, rfl, rfl⟩ := second
  obtain ⟨same_x, fits_x⟩ := plain.offset l hl x hx
  obtain ⟨same_y, fits_y⟩ := plain.offset k hk y hy
  rw [toNat_add_of_page (by omega) hi] at line offset_a
  rw [toNat_add_of_page (by omega) hj] at line offset_b
  have page := plain.page l hl x hx k hk y hy (by omega)
  unfold lineOf
  omega

theorem ReadOnly.isPoisoned (reads : ReadOnly s t) (line : Nat) : t.isPoisoned line = s.isPoisoned line := by
  unfold State.isPoisoned
  rw [reads.device]

/-- Places stay plain while no line is poisoned. -/
theorem PlainPlaces.of_reads (plain : PlainPlaces s locs) (reads : ReadOnly s t) : PlainPlaces t locs where
  hbm l hl x hx i hi := by
    rw [reads.isPoisoned]
    exact plain.hbm l hl x hx i hi
  offset := plain.offset
  page := plain.page

/-! ### A clean copy -/

theorem ReadOnly.fillClean (s : State) (core : Nat) (c : BitVec 6) (va : Word) (pa : Nat) (e : TlbEntry) :
    ReadOnly s (fillClean s core c va pa e) := by
  have touched : ReadOnly s ((s.touchLine (lineOf pa) c).lowAs pa e.low) := (ReadOnly.touchLine ..).trans (.lowAs ..)
  unfold Machine.fillClean
  dsimp only
  split
  · exact .refl s
  · split
    · exact touched
    · exact (touched.trans (.modCore _ _ fun _ => rfl)).trans (.stall ..)

theorem core_touched (s : State) (line pa : Nat) (c : BitVec 6) (low : Bool) (k : Nat) :
    ((s.touchLine line c).lowAs pa low).core k = s.core k := by
  unfold State.touchLine
  split <;> rfl

/-- The clean copy of a line as the home slice has it. -/
def State.copyOf (s : State) (c : BitVec 6) (va : Word) (pa : Nat) (e : TlbEntry) : CleanLine :=
  { ctx := c, line := va.toNat / 128, data := s.lineData (lineOf pa), scopeCore := e.scope == 0 }

/-- A read leaves the copies of the L1, or brings one of a line that had none. -/
theorem core_fillClean (s : State) (core : Nat) (c : BitVec 6) (va : Word) (pa : Nat) (e : TlbEntry) :
    (fillClean s core c va pa e).core core = s.core core ∨
      ((s.core core).heldLine c (va.toNat / 128) = none ∧ (s.core core).cleanLine c (va.toNat / 128) = none ∧
        (fillClean s core c va pa e).core core =
          { s.core core with clean := s.copyOf c va pa e :: (s.core core).clean }) := by
  unfold fillClean
  dsimp only
  split
  · exact .inl rfl
  · next unclean =>
    split
    · exact .inl (core_touched ..)
    · next unheld =>
      change (State.modCore _ core _).core core = _ ∨ _ ∧ _ ∧ (State.modCore _ core _).core core = _
      rw [State.core_modCore, core_touched]
      split
      · refine .inr ⟨?_, ?_, rfl⟩
        · simpa using (Bool.or_eq_false_iff.mp (eq_false_of_ne_true unheld)).2
        · simpa using unclean
      · exact .inl rfl

theorem getD_lineData (s : State) (line i : Nat) (small : i < 128) : (s.lineData line).getD i 0 = s.mem.get (line * 128 + i) := by
  unfold State.lineData
  simp [Vector.getD, small]

/-- A copy that a read brings into the L1 has the bytes that the core saw without it (R177). -/
theorem viewByte_fillClean (offset : p % 128 = a.toNat % 128) (line : a.toNat / 128 = b.toNat / 128 → lineOf p = lineOf q) :
    viewByte (fillClean s core c b q e) core c a p = viewByte s core c a p := by
  have mem : (fillClean s core c b q e).mem = s.mem := by rw [(ReadOnly.fillClean s core c b q e).device]
  rcases core_fillClean s core c b q e with same | ⟨unheld, unclean, filled⟩
  · exact viewByte_congr (by rw [same]) (by rw [same]) (by rw [mem])
  · by_cases here : a.toNat / 128 = b.toNat / 128
    · have place : lineOf q * 128 + a.toNat % 128 = p := by
        have := line here
        unfold lineOf at *
        omega
      have copied : (s.copyOf c b q e :: (s.core core).clean).find? (fun h => h.ctx == c && h.line == b.toNat / 128) =
          some (s.copyOf c b q e) := List.find?_cons_of_pos (by simp [State.copyOf])
      have held : ({ s.core core with clean := s.copyOf c b q e :: (s.core core).clean } : CoreSt).heldLine c
          (b.toNat / 128) = none := unheld
      unfold viewByte
      dsimp only
      rw [filled, here, unheld, unclean, held, CoreSt.cleanLine, copied]
      exact (getD_lineData s (lineOf q) _ (Nat.mod_lt _ (by decide))).trans (congrArg s.mem.get place)
    · refine viewByte_congr (by rw [filled]; rfl) ?_ (by rw [mem])
      rw [filled]
      exact List.find?_cons_of_neg (by simp [State.copyOf, Ne.symm here])

/-! ### Reads in turn -/

/-- A read of plain places from `s` may lead to `t`, in which a core sees every byte of them as it saw it in `s`. -/
structure Sees (locs : List Loc) (g : GangRef) (s t : State) : Prop where
  reads : ReadOnly s t
  view : ∀ a p, ByteAt locs a p → viewByte t (s.coreOf g) (s.ctxOf g) a p = viewByte s (s.coreOf g) (s.ctxOf g) a p

theorem Sees.refl (locs : List Loc) (g : GangRef) (s : State) : Sees locs g s s := ⟨.refl s, fun _ _ _ => rfl⟩

theorem Sees.coreOf (sees : Sees locs g s t) : t.coreOf g = s.coreOf g := by
  unfold State.coreOf State.wave State.team
  rw [sees.reads.sameAgents.teams]

theorem Sees.ctxOf (sees : Sees locs g s t) : t.ctxOf g = s.ctxOf g := by
  unfold State.ctxOf State.team
  rw [sees.reads.sameAgents.teams]

section
variable (plain : PlainPlaces s locs) (sees : Sees locs g s t)
include plain sees

theorem Sees.fillClean (at_ : ByteAt locs b q) (e : TlbEntry) :
    Sees locs g s (fillClean t (s.coreOf g) (s.ctxOf g) b q e) where
  reads := sees.reads.trans (.fillClean ..)
  view a p byte := by
    have offset := plain.offset_of_byte byte
    rw [viewByte_fillClean (by omega) (plain.line_of_byte byte at_), sees.view a p byte]

theorem Sees.fillLines {f : Nat → Word × Nat} {is : List Nat} (at_ : ∀ i ∈ is, ByteAt locs (f i).1 (f i).2) (e : TlbEntry) :
    Sees locs g s (is.foldl (fun v i => Machine.fillClean v (s.coreOf g) (s.ctxOf g) (f i).1 (f i).2 e) t) := by
  induction is generalizing t with
  | nil => exact sees
  | cons i is ih =>
    obtain ⟨first, rest⟩ := List.forall_mem_cons.mp at_
    exact ih (sees.fillClean plain first e) rest

/-- A piece of a plain place gives the bytes that the core saw. -/
theorem readPiece_sees {x : Nat × Nat × Word × TlbEntry} (hl : l ∈ locs) (hx : x ∈ l.pieces) (some_ : 0 < x.2.1) :
    ∃ v, readPiece t (t.coreOf g) (t.ctxOf g) x = (v, .bytes ((List.range x.2.1).map fun i =>
      viewByte s (s.coreOf g) (s.ctxOf g) (x.2.2.1 + BitVec.ofNat 64 i) (x.1 + i))) ∧ Sees locs g s v := by
  obtain ⟨pa, n, va, e⟩ := x
  have byte (i : Nat) (hi : i < n) : ByteAt locs (va + BitVec.ofNat 64 i) (pa + i) := ⟨l, hl, _, hx, i, hi, rfl, rfl⟩
  have kind : physKind pa = .hbm := (plain.hbm_of_byte (byte 0 some_)).1
  have sound : (List.range n).find? (fun i => poisonedView t (t.coreOf g) (t.ctxOf g) (va + BitVec.ofNat 64 i) (pa + i)) =
      none := by
    refine List.find?_eq_none.mpr fun i hi => ?_
    unfold poisonedView
    simp [sees.reads.isPoisoned, (plain.hbm_of_byte (byte i (List.mem_range.mp hi))).2]
  have bytes : (List.range n).map (fun i => viewByte t (s.coreOf g) (s.ctxOf g) (va + BitVec.ofNat 64 i) (pa + i)) =
      (List.range n).map fun i => viewByte s (s.coreOf g) (s.ctxOf g) (va + BitVec.ofNat 64 i) (pa + i) :=
    List.map_congr_left fun i hi => sees.view _ _ (byte i (List.mem_range.mp hi))
  have lines (i : Nat) (hi : i ∈ List.range ((pa + n - 1) / 128 - pa / 128 + 1)) :
      (if i = 0 then 0 else i * 128 - pa % 128) < n := by
    have := List.mem_range.mp hi
    dsimp only at some_
    split
    · exact some_
    · omega
  unfold readPiece
  dsimp only
  rw [kind]
  dsimp only
  rw [sound]
  dsimp only
  rw [sees.coreOf, sees.ctxOf, bytes]
  exact ⟨_, rfl, sees.fillLines plain (f := fun i => (va + BitVec.ofNat 64 (if i = 0 then 0 else i * 128 - pa % 128),
    pa + (if i = 0 then 0 else i * 128 - pa % 128))) (fun i hi => byte _ (lines i hi)) e⟩

theorem readPieces_sees {ps : List (Nat × Nat × Word × TlbEntry)} (hl : l ∈ locs) (hps : ∀ x ∈ ps, x ∈ l.pieces)
    (some_ : ∀ x ∈ ps, 0 < x.2.1) (src : TrapSrc) (pend quad k off : Nat) :
    ∃ v, readPieces t g src pend quad k off ps = (v, { bytes := seenAt s g 0 (.mem ps), fault := none, reqs := [] }) ∧
      Sees locs g s v := by
  induction ps generalizing t off with
  | nil => exact ⟨t, rfl, sees⟩
  | cons x ps ih =>
    obtain ⟨mine, rest⟩ := List.forall_mem_cons.mp hps
    obtain ⟨positive, others⟩ := List.forall_mem_cons.mp some_
    obtain ⟨v, read, sees⟩ := readPiece_sees plain sees hl mine positive
    obtain ⟨w, reads, sees⟩ := ih sees rest others (off + x.2.1)
    unfold readPieces
    dsimp only
    rw [read]
    dsimp only
    rw [reads]
    exact ⟨w, rfl, sees⟩

theorem readLoc_sees (hl : l ∈ locs) (some_ : ∀ x ∈ l.pieces, 0 < x.2.1) (src : TrapSrc) (pend quad k len : Nat) :
    ∃ v, readLoc t g src pend quad k len l = (v, { bytes := seenAt s g len l, fault := none, reqs := [] }) ∧
      Sees locs g s v := by
  cases l with
  | scratch off =>
    refine ⟨t, ?_, sees⟩
    unfold readLoc seenAt State.teamOf State.team
    rw [sees.reads.sameAgents.teams]
  | mem ps => exact readPieces_sees plain sees hl (fun _ h => h) some_ src pend quad k 0

/-- The loads of a quad hold the bytes that the core saw, and none of them faults or waits. -/
theorem loadQuad_sees {items : List (Want × Loc)} (mine : ∀ x ∈ items, x.2 ∈ locs)
    (some_ : ∀ x ∈ items, ∀ y ∈ x.2.pieces, 0 < y.2.1) (src : TrapSrc) (pend : Nat) (flag : Option (BitVec 4)) (r : Later) :
    ∃ v, loadQuad t g src pend flag r items = (v, { r with loads := r.loads ++ items.map fun x =>
      { dest := x.1.dest, bytes := seenAt s g x.1.ask.len x.2, plus := 0, signed := x.1.signed, dropped := false } }) ∧
      Sees locs g s v := by
  induction items generalizing t r with
  | nil => exact ⟨t, by simp [loadQuad], sees⟩
  | cons x items ih =>
    obtain ⟨here, rest⟩ := List.forall_mem_cons.mp mine
    obtain ⟨positive, others⟩ := List.forall_mem_cons.mp some_
    obtain ⟨v, read, sees⟩ := readLoc_sees plain sees here positive src pend x.1.ask.quad r.loads.length x.1.ask.len
    obtain ⟨w, reads, sees⟩ := ih sees rest others (r.take flag x.1.ask.lanes x.1.dest x.1.signed 0
      { bytes := seenAt s g x.1.ask.len x.2, fault := none, reqs := [] })
    unfold loadQuad
    rw [read]
    dsimp only
    rw [reads]
    exact ⟨w, by simp [Later.take], sees⟩

end

/-! ### The checks of addresses -/

theorem ReadOnly.checkAsks (s : State) (g : GangRef) (asks : List Ask) : ReadOnly s (checkAsks s g asks).1 := by
  induction asks generalizing s with
  | nil => exact .refl s
  | cons a asks ih =>
    have first := ReadOnly.checkAsk s g a
    unfold Machine.checkAsks
    grind [ReadOnly.trans]

theorem pieces_pos {va : Word} {n : Nat} (some_ : 0 < n) : ∀ x ∈ pieces va n, 0 < x.2 := by
  unfold pieces
  dsimp only
  split
  · simpa using some_
  · simp
    omega

theorem translatePieces_lengths {need : Need} {l : List (Word × Nat)} {ps : List (Nat × Nat × Word × TlbEntry)}
    (h : translatePieces s core c need l = (t, .ok ps)) : ps.map (fun x => (x.2.2.1, x.2.1)) = l := by
  induction l generalizing s t ps with
  | nil => cases h; rfl
  | cons x l ih =>
    unfold translatePieces at h
    split at h
    · cases h
    · split at h
      · cases h
      · next found =>
        cases h
        rw [List.map_cons, ih found]

theorem locate_pos {size n : Nat} {va : Word} {need : Need} (some_ : 0 < n)
    (h : locate s core c size va n need = (t, .ok l)) : ∀ x ∈ l.pieces, 0 < x.2.1 := by
  unfold locate at h
  split at h
  · dsimp only at h
    split at h <;> cases h
    exact fun _ h => nomatch h
  · split at h
    · cases h
    · split at h
      · next found =>
        cases h
        intro x hx
        refine pieces_pos (va := va) some_ (x.2.2.1, x.2.1) ?_
        rw [← translatePieces_lengths found]
        exact List.mem_map_of_mem hx
      · cases h

theorem checkAsk_pos {a : Ask} (some_ : 0 < a.len) (h : checkAsk s g a = (t, .ok l)) : ∀ x ∈ l.pieces, 0 < x.2.1 := by
  unfold checkAsk at h
  split at h
  · cases h
  · split at h
    · cases h
    · exact locate_pos some_ h

/-- Every piece of the places of accesses to some bytes has some bytes. -/
theorem checkAsks_pos {asks : List Ask} (some_ : ∀ a ∈ asks, 0 < a.len) (h : checkAsks s g asks = (t, locs, [])) :
    ∀ l ∈ locs, ∀ x ∈ l.pieces, 0 < x.2.1 := by
  induction asks generalizing s locs with
  | nil =>
    cases h
    exact fun _ h => nomatch h
  | cons a asks ih =>
    obtain ⟨positive, others⟩ := List.forall_mem_cons.mp some_
    unfold checkAsks at h
    split at h
    · next first =>
      split at h
      next rest =>
      cases h
      exact List.forall_mem_cons.mpr ⟨checkAsk_pos positive first, ih others rest⟩
    · split at h
      cases h

end Sys2Proof.Machine
end

section
/-! Texture instructions (O40; R276, R396 to R400): what is sent off when every descriptor is well formed and every texel lies
in a plain place. -/

namespace Sys2Proof.Machine

variable {s s0 s2 t v : State} {g : GangRef} {o : LaneOp} {flag : Option (BitVec 4)} {ds : List (Nat × TexDesc)}
  {locs : List Loc} {asks : List Ask}

/-! ### The plans of the lanes -/

/-- A quad has an active lane. -/
theorem activeMask_ne_zero (q : Quad) (o : LaneOp) :
    (q.activeMask o != 0) = (List.range 4).any fun i => q.active o i := by
  have four : List.range 4 = [0, 1, 2, 3] := rfl
  unfold Quad.activeMask upTo
  rw [four]
  simp only [List.foldl, List.any]
  generalize q.active o 0 = b0, q.active o 1 = b1, q.active o 2 = b2, q.active o 3 = b3
  revert b0 b1 b2 b3
  decide

/-- The plans of the active lanes of quads with these descriptors. -/
def lanePlans (s : State) (g : GangRef) (o : LaneOp) (plan : TexDesc → Lane → TexPlan) (ds : List (Nat × TexDesc)) :
    List (Nat × Nat × TexDesc × TexPlan) :=
  ds.flatMap fun x => ((List.range 4).filter fun i => (s.quadOf g x.1).active o i).map fun i =>
    (x.1, i, x.2, plan x.2 ((s.quadOf g x.1).lane i))

/-- The texels that the plans ask for. -/
def planAsks (plans : List (Nat × Nat × TexDesc × TexPlan)) : List Ask :=
  plans.flatMap fun x => texAsks x.1 x.2.1 x.2.2.1 x.2.2.2

/-- What a quad's lanes make of the texels that the core saw. -/
def quadTexture (s : State) (g : GangRef) (o : LaneOp) (plans : List (Nat × Nat × TexDesc × TexPlan)) (asks : List Ask)
    (locs : List Loc) (n : Nat) : Later :=
  ((plans.filter fun x => x.1 == n).foldl (fun (a : Later × Nat) x =>
    (a.1.takeTex o x.2.1 a.2 x.2.2.1 x.2.2.2, a.2 + x.2.2.2.texels.length))
    ({ Later.empty with
        loads := ((asks.zip locs).filter fun x => x.1.quad == n).map fun x =>
          { dest := .held, bytes := seenAt s g x.1.len x.2, plus := 0, signed := false, dropped := false } }, 0)).1

/-- The descriptors are well formed. -/
def wellFormed (ds : List (Nat × TexDesc)) : List (Nat × DescRead) := ds.map fun x => (x.1, .ok x.2)

theorem texPlans_wellFormed (s : State) (g : GangRef) (o : LaneOp) (x : TexForm) (ds : List (Nat × TexDesc)) :
    texPlans s g o x (wellFormed ds) = lanePlans s g o x.plan ds := by
  unfold texPlans wellFormed
  rw [List.flatMap_map]
  rfl

theorem texFails_wellFormed (s : State) (g : GangRef) (o : LaneOp) (ds : List (Nat × TexDesc)) :
    texFails s g o (wellFormed ds) [] = [] := by
  unfold texFails wellFormed
  rw [List.flatMap_map]
  exact List.flatMap_eq_nil_iff.mpr fun _ _ => rfl

theorem wellFormed_waits (ds : List (Nat × TexDesc)) : (wellFormed ds).any (fun y => y.2 == .waits) = false := by
  unfold wellFormed
  rw [List.any_map]
  exact List.any_eq_false.mpr fun _ _ => by simp

theorem texelBytes_pos (fmt : Nat) : 0 < texelBytes fmt := by
  unfold texelBytes
  split <;> decide

theorem planAsks_pos (plans : List (Nat × Nat × TexDesc × TexPlan)) : ∀ a ∈ planAsks plans, 0 < a.len := by
  intro a ha
  obtain ⟨x, -, ha⟩ := List.mem_flatMap.mp ha
  obtain ⟨va, -, rfl⟩ := List.mem_map.mp ha
  exact texelBytes_pos _

/-! ### The performance of the quads -/

/-- The performances of quads each of which only reads plain places, and gives what its number fixes. -/
theorem perQuad_sees {f : State → Nat → State × Later} {later : Nat → Later} {ns : List Nat} (sees : Sees locs g s t)
    (each : ∀ u n, Sees locs g s u → ∃ w, f u n = (w, later n) ∧ Sees locs g s w) :
    (perQuad f ns t).2 = ns.map (fun n => (n, later n)) ∧ Sees locs g s (perQuad f ns t).1 := by
  induction ns generalizing t with
  | nil => exact ⟨rfl, sees⟩
  | cons n ns ih =>
    obtain ⟨w, first, sees⟩ := each t n sees
    obtain ⟨named, sees⟩ := ih sees
    unfold perQuad
    rw [first]
    exact ⟨congrArg _ named, sees⟩

theorem lookupD_map {α : Type} {f : Nat → α} {d : α} {n : Nat} {ns : List Nat} (h : n ∈ ns) :
    lookupD (ns.map fun n => (n, f n)) n d = f n := by
  induction ns with
  | nil => cases h
  | cons m ns ih =>
    rw [List.map_cons, lookupD]
    split
    · next same => rw [same]
    · next other => exact ih ((List.mem_cons.mp h).resolve_left (Ne.symm other))

theorem texQuad_sees (plain : PlainPlaces s locs) (sees : Sees locs g s t) (some_ : ∀ l ∈ locs, ∀ y ∈ l.pieces, 0 < y.2.1)
    (plans : List (Nat × Nat × TexDesc × TexPlan)) (asks : List Ask) (id n : Nat) :
    ∃ w, texQuad t g o id flag ((plans.filter fun y => y.1 == n).map (·.2))
        (((asks.zip locs).map fun x => (({ ask := x.1, dest := .held, signed := false } : Want), x.2)).filter
          fun y => y.1.ask.quad == n) = (w, quadTexture s g o plans asks locs n) ∧ Sees locs g s w := by
  have mine : ∀ x ∈ ((asks.zip locs).filter fun x => x.1.quad == n).map fun x =>
      (({ ask := x.1, dest := .held, signed := false } : Want), x.2), x.2 ∈ locs := by
    intro x hx
    obtain ⟨y, hy, rfl⟩ := List.mem_map.mp hx
    exact (List.of_mem_zip (List.mem_of_mem_filter hy)).2
  obtain ⟨w, loads, sees⟩ := loadQuad_sees plain sees mine (fun x hx => some_ _ (mine x hx)) 0 id flag Later.empty
  refine ⟨w, ?_, sees⟩
  unfold texQuad
  have items : (((asks.zip locs).map fun x => (({ ask := x.1, dest := .held, signed := false } : Want), x.2)).filter
      fun y => y.1.ask.quad == n) = ((asks.zip locs).filter fun x => x.1.quad == n).map fun x =>
        (({ ask := x.1, dest := .held, signed := false } : Want), x.2) := List.filter_map
  rw [items, loads, List.map_map]
  dsimp only
  rw [List.foldl_map]
  rfl

/-- Performances that only read plain places are sent off with what they give. -/
theorem issueLong_perQuad {f : State → Nat → State × Later} {later : Nat → Later}
    (each : ∀ u n, Sees locs g s2 u → ∃ w, f u n = (w, later n) ∧ Sees locs g s2 w) (core : Nat) (c : BitVec 6)
    (k cost id : Nat) :
    ∃ t, ReadOnly s2 t ∧ Effect t (((perQuad f (s2.live g) s2.bumpId).1.stall core c 13 k).issueLong g 3 cost id flag
      fun n => lookupD (perQuad f (s2.live g) s2.bumpId).2 n Later.empty) g (dogNext t g) (t.waveOf g).fusest (dogHits t g)
        fun n q => q.sendsOff 3 ((later n).pend id flag) := by
  obtain ⟨named, sees⟩ := perQuad_sees (ns := s2.live g) (⟨.bumpId s2, fun _ _ _ => rfl⟩ : Sees locs g s2 s2.bumpId) each
  have reads : ReadOnly s2 ((perQuad f (s2.live g) s2.bumpId).1.stall core c 13 k) := sees.reads.trans (.stall ..)
  rw [named]
  generalize (perQuad f (s2.live g) s2.bumpId).1.stall core c 13 k = t at reads ⊢
  have effect := issueLong_effect t g 3 cost id flag fun n =>
    lookupD ((s2.live g).map fun n => (n, later n)) n Later.empty
  refine ⟨t, reads, { effect with each := fun n hn hl hx => (effect.each n hn hl hx).trans ?_ }⟩
  have stays : (s2.quadOf g n).exited = false := by
    rw [← hx]
    unfold State.quadOf State.quad State.wave State.team
    rw [reads.sameAgents.teams]
  have live : n ∈ s2.live g := List.mem_filter.mpr ⟨hn, by rw [stays]; rfl⟩
  rw [lookupD_map live]

/-- With room in the flag, well-formed descriptors and texels in plain places, a texture instruction is sent off with what
its lanes make of the texels that the core saw (R397 to R400). -/
theorem texBody_sends {x : TexForm} (room : flagFull s g flag = false)
    (descs : descAll g o ((s.live g).filter fun n => (List.range 4).any fun i => (s.quadOf g n).active o i) s =
      (s0, wellFormed ds))
    (passed : checkAsks (s0.dropFetched g) g (planAsks (lanePlans (s0.dropFetched g) g o x.plan ds)) = (s2, locs, []))
    (plain : PlainPlaces s2 locs) :
    ∃ t, ReadOnly s2 t ∧ Effect t (texBody o x flag s g) g (dogNext t g) (t.waveOf g).fusest (dogHits t g) fun n q =>
      q.sendsOff 3 ((quadTexture s2 g o (lanePlans (s0.dropFetched g) g o x.plan ds)
        (planAsks (lanePlans (s0.dropFetched g) g o x.plan ds)) locs n).pend s2.nextId flag) := by
  have some_ := checkAsks_pos (planAsks_pos _) passed
  have quads : (s.live g).filter (fun n => (s.quadOf g n).activeMask o != 0) =
      (s.live g).filter fun n => (List.range 4).any fun i => (s.quadOf g n).active o i :=
    List.filter_congr fun n _ => activeMask_ne_zero _ o
  have passed' := passed
  unfold planAsks at passed'
  unfold texBody
  rw [if_neg (by simp [room])]
  dsimp only
  rw [quads, descs]
  dsimp only
  rw [if_neg (by simp [wellFormed_waits]), texPlans_wellFormed, passed']
  dsimp only
  rw [texFails_wellFormed]
  dsimp only
  refine issueLong_perQuad (locs := locs) (fun u n sees => ?_) _ _ _ _ _
  have texels := texQuad_sees (flag := flag) plain sees some_ (o := o) (lanePlans (s0.dropFetched g) g o x.plan ds)
    (planAsks (lanePlans (s0.dropFetched g) g o x.plan ds)) s2.nextId n
  split
  · next poisoned =>
    obtain ⟨y, -, same⟩ := List.mem_map.mp (List.mem_of_find?_eq_some poisoned)
    cases same
  · exact texels

/-! ### Addressing -/

section
variable {w : Nat} (some_ : 1 ≤ w) (x : Int)

theorem wrapCoord_repeat : wrapCoord 0 w x = (x % w).toNat := rfl

theorem wrapCoord_clamp : wrapCoord 1 w x = (min (max x 0) (w - 1 : Int)).toNat := rfl

theorem wrapCoord_mirror (k : Nat) : wrapCoord (k + 2) w x =
    if (x % (2 * w : Int)).toNat < w then (x % (2 * w : Int)).toNat else 2 * w - 1 - (x % (2 * w : Int)).toNat := rfl

include some_

/-- A wrapped coordinate lies in the level. -/
theorem wrapCoord_lt (mode : Nat) : wrapCoord mode w x < w := by
  have repeats := Int.emod_lt_of_pos x (show (0 : Int) < w by omega)
  have mirrors := Int.emod_lt_of_pos x (show (0 : Int) < 2 * w by omega)
  have low := Int.emod_nonneg x (show (2 * w : Int) ≠ 0 by omega)
  match mode with
  | 0 =>
    rw [wrapCoord_repeat]
    omega
  | 1 =>
    rw [wrapCoord_clamp]
    omega
  | k + 2 =>
    rw [wrapCoord_mirror]
    split <;> omega

/-- A coordinate that lies in the level stays (R397). -/
theorem wrapCoord_inside (low : 0 ≤ x) (high : x < w) (mode : Nat) : wrapCoord mode w x = x.toNat := by
  match mode with
  | 0 => rw [wrapCoord_repeat, Int.emod_eq_of_lt low high]
  | 1 =>
    rw [wrapCoord_clamp]
    omega
  | k + 2 =>
    rw [wrapCoord_mirror, Int.emod_eq_of_lt low (by omega), if_pos (by omega)]

/-- The mirror maps the texel before the first to the first. -/
theorem wrapCoord_mirror_neg : wrapCoord 2 w (-1 - x) = wrapCoord 2 w x := by
  have low := Int.emod_nonneg x (show (2 * w : Int) ≠ 0 by omega)
  have high := Int.emod_lt_of_pos x (show (0 : Int) < 2 * w by omega)
  have parts : -1 - x = (2 * w - 1 - x % (2 * w)) + 2 * w * (-(x / (2 * w)) - 1) := by
    have := Int.emod_add_mul_ediv x (2 * w)
    linarith
  have turned : (-1 - x) % (2 * w : Int) = 2 * w - 1 - x % (2 * w) := by
    rw [parts, Int.add_mul_emod_self_left, Int.emod_eq_of_lt (by omega) (by omega)]
  rw [wrapCoord_mirror _ 0, wrapCoord_mirror _ 0, turned]
  split <;> split <;> omega

omit some_ in
theorem wrapCoord_mirror_period : wrapCoord 2 w (x + 2 * w) = wrapCoord 2 w x := by
  rw [wrapCoord_mirror _ 0, wrapCoord_mirror _ 0, Int.add_emod_right]

end

theorem texDescOf_limits {bs : List Byte} {d : TexDesc} (h : texDescOf bs = some d) :
    1 ≤ d.w ∧ d.w ≤ 16384 ∧ 1 ≤ d.h ∧ d.h ≤ 16384 ∧ 1 ≤ d.levels ∧ d.levels ≤ 15 ∧ d.fmt ≤ 5 ∧ d.wrapX < 3 ∧
      d.wrapY < 3 ∧ d.pitch % 16 = 0 ∧ d.w * texelBytes d.fmt ≤ d.pitch := by
  unfold texDescOf at h
  dsimp only at h
  split at h
  · next limits =>
    cases h
    simp only [Bool.and_eq_true, decide_eq_true_eq, bne_iff_ne, beq_iff_eq] at limits
    obtain ⟨⟨⟨⟨⟨⟨⟨⟨⟨⟨⟨⟨⟨⟨-, -⟩, wide⟩, width⟩, high⟩, height⟩, some_⟩, -⟩, levels⟩, fmt⟩, wrapX⟩, wrapY⟩, -⟩, pitch⟩,
      row⟩ := limits
    exact ⟨wide, width, high, height, some_, levels, fmt, by dsimp only; omega, by dsimp only; omega, pitch, row⟩
  · cases h

/-- The row pitch of a level, rounded up to 16 bytes below the first (R396). -/
theorem pitchOf_eq (d : TexDesc) (n : Nat) :
    d.pitchOf n = if n = 0 then d.pitch else (d.wid n * texelBytes d.fmt + 15) / 16 * 16 := by
  unfold TexDesc.pitchOf ceilDiv
  rw [Nat.mul_comm 16]
  rfl

theorem levelOff_eq (d : TexDesc) (n : Nat) : d.levelOff n = ((List.range n).map fun m => d.pitchOf m * d.hei m).sum := by
  rw [TexDesc.levelOff, foldl_add_eq_sum, Nat.zero_add]

theorem wid_pos (d : TexDesc) (n : Nat) : 1 ≤ d.wid n := Nat.le_max_left ..

theorem hei_pos (d : TexDesc) (n : Nat) : 1 ≤ d.hei n := Nat.le_max_left ..

/-- The weights of a bilinear sample are the products of two pairs that sum to 256 (R397). -/
theorem bilinear_weights (d : TexDesc) (n : Nat) (u v : Code) : ((d.bilinear n u v).map (·.1)).sum = 65536 := by
  have product {a b : Nat} (ha : a < 256) (hb : b < 256) :
      (256 - a) * (256 - b) + (a * (256 - b) + ((256 - a) * b + (a * b + 0))) = 65536 := by
    have ha : 256 - a + a = 256 := by omega
    have hb : 256 - b + b = 256 := by omega
    calc _ = (256 - a + a) * (256 - b + b) := by ring
      _ = 65536 := by rw [ha, hb]
  exact product (by omega) (by omega)

theorem bilinear_mem (d : TexDesc) (n : Nat) (u v : Code) :
    ∀ t ∈ d.bilinear n u v, ∃ x y, x < d.wid n ∧ y < d.hei n ∧ t.2 = d.texel n x y := by
  have texel (x y : Int) : ∃ x' y', x' < d.wid n ∧ y' < d.hei n ∧
      d.texel n (wrapCoord d.wrapX (d.wid n) x) (wrapCoord d.wrapY (d.hei n) y) = d.texel n x' y' :=
    ⟨_, _, wrapCoord_lt (wid_pos d n) x _, wrapCoord_lt (hei_pos d n) y _, rfl⟩
  unfold TexDesc.bilinear
  dsimp only
  simp only [List.forall_mem_cons]
  exact ⟨texel _ _, texel _ _, texel _ _, texel _ _, fun _ h => nomatch h⟩

/-- Settles O40: a texture instruction is sent off with what its lanes make of the texels (`texBody_sends`), and its addresses
are those of wrapped coordinates (`wrapCoord_lt`). -/
theorem textureIssue : Obligations.TextureIssue := by
  refine ⟨?issue, fun mode w x some_ => wrapCoord_lt some_ x mode, ?wrap, fun bs d => texDescOf_limits, ?texel, ?samples⟩
  case issue =>
    intro s s0 s1 s2 g o flag ds locs selected room live qs descs dropped u v w tex
    subst dropped
    have sends {i : Instr} {x : TexForm} (does : exec i s = texStep o x s) : tex i x.srcs x.dsts x.plan := by
      intro ready plans asks passed plain pend
      obtain ⟨t, reads, effect⟩ := texBody_sends (x := x) room descs passed plain
      exact ⟨t, reads, _, does.trans (laneStep_selected ready selected _), effect⟩
    exact ⟨sends (exec_texPoint s), sends (exec_texBilinear s), sends (exec_texTrilinear s), sends (exec_texGather s),
      sends (exec_texf s), sends (exec_texsz s)⟩
  case wrap =>
    intro w x some_
    refine ⟨?_, fun low high => ⟨wrapCoord_inside some_ x low high 0, wrapCoord_inside some_ x low high 1,
      wrapCoord_inside some_ x low high 2⟩, fun below => ?_, fun above => ?_, wrapCoord_mirror_neg some_ x,
      wrapCoord_mirror_period x⟩
    · exact Int.toNat_of_nonneg (Int.emod_nonneg x (by omega))
    · rw [wrapCoord_clamp]
      omega
    · rw [wrapCoord_clamp]
      omega
  case texel =>
    intro d n x y
    rw [TexDesc.texel, levelOff_eq, pitchOf_eq]
    simp only [pitchOf_eq]
  case samples =>
    intro d n u v width height
    exact ⟨⟨_, _, wrapCoord_lt width _ _, wrapCoord_lt height _ _, rfl⟩, bilinear_weights d n u v, rfl, bilinear_mem d n u v⟩

end Sys2Proof.Machine
end

section
/-! SUPPORT. The fields of encoded words (R270, R279, R281, R285, R287, R358, R401): what the decoder reads from each bit field
that it looks at, by the format of the word. -/

namespace Sys2Proof

/-- An instruction whose fields are legal passes the last check of its form. -/
theorem legal_of_wf {i : Instr} (h : i.wf = true) : legal i = .ok i := if_pos h

/-! ### Scalar words -/

section scalar
variable (op sd sa sb fn : BitVec 6) (imm : BitVec 12) (off : BitVec 20) (cond : BitVec 4) (su : BitVec 2)

/-- The word of SR format (R279). -/
def srWord : Code := 0b00#2 ++ op ++ sd ++ sa ++ sb ++ fn

/-- The word of SI format (R279). -/
def siWord : Code := 0b00#2 ++ op ++ sd ++ sa ++ imm

/-- The word of SB format (R279). -/
def sbWord : Code := 0b00#2 ++ op ++ cond ++ off

/-- The word of SU format (R279). -/
def suWord : Code := 0b0011#4 ++ su ++ sd ++ off

theorem srWord_fields :
    bits (srWord op sd sa sb fn) 30 2 = 0b00#2 ∧ bits (srWord op sd sa sb fn) 24 6 = op ∧
    bits (srWord op sd sa sb fn) 18 6 = sd ∧ bits (srWord op sd sa sb fn) 12 6 = sa ∧
    bits (srWord op sd sa sb fn) 6 6 = sb ∧ bits (srWord op sd sa sb fn) 0 6 = fn ∧
    bits (srWord op sd sa sb fn) 4 2 = fn.extractLsb' 4 2 ∧ bits (srWord op sd sa sb fn) 0 4 = fn.extractLsb' 0 4 ∧
    bits (srWord op sd sa sb fn) 3 3 = fn.extractLsb' 3 3 ∧ bits (srWord op sd sa sb fn) 0 3 = fn.extractLsb' 0 3 := by
  simp (disch := decide) only [srWord, BitVec.extractLsb'_append_eq_of_le, BitVec.extractLsb'_append_eq_of_add_le,
    BitVec.extractLsb'_eq_self, Nat.reduceSub, and_self]

theorem srWord_op {op sd sa sb fn : BitVec 6} : bits (srWord op sd sa sb fn) 24 6 = op :=
  (srWord_fields op sd sa sb fn).2.1

theorem siWord_fields :
    bits (siWord op sd sa imm) 30 2 = 0b00#2 ∧ bits (siWord op sd sa imm) 24 6 = op ∧
    bits (siWord op sd sa imm) 18 6 = sd ∧ bits (siWord op sd sa imm) 12 6 = sa ∧ bits (siWord op sd sa imm) 0 12 = imm ∧
    bits (siWord op sd sa imm) 8 4 = imm.extractLsb' 8 4 ∧ bits (siWord op sd sa imm) 0 8 = imm.extractLsb' 0 8 ∧
    bits (siWord op sd sa imm) 10 2 = imm.extractLsb' 10 2 ∧ bits (siWord op sd sa imm) 5 5 = imm.extractLsb' 5 5 ∧
    bits (siWord op sd sa imm) 0 5 = imm.extractLsb' 0 5 := by
  simp (disch := decide) only [siWord, BitVec.extractLsb'_append_eq_of_le, BitVec.extractLsb'_append_eq_of_add_le,
    BitVec.extractLsb'_eq_self, Nat.reduceSub, and_self]

theorem siWord_op {op sd sa : BitVec 6} {imm : BitVec 12} : bits (siWord op sd sa imm) 24 6 = op :=
  (siWord_fields op sd sa imm).2.1

theorem sbWord_fields :
    bits (sbWord op off cond) 30 2 = 0b00#2 ∧ bits (sbWord op off cond) 24 6 = op ∧
    bits (sbWord op off cond) 20 4 = cond ∧ bits (sbWord op off cond) 0 20 = off := by
  simp (disch := decide) only [sbWord, BitVec.extractLsb'_append_eq_of_le, BitVec.extractLsb'_append_eq_of_add_le,
    BitVec.extractLsb'_eq_self, Nat.reduceSub, and_self]

theorem suWord_fields :
    bits (suWord sd off su) 30 2 = (0b0011#4).extractLsb' 2 2 ∧ bits (suWord sd off su) 28 2 = (0b0011#4).extractLsb' 0 2 ∧
    bits (suWord sd off su) 26 2 = su ∧ bits (suWord sd off su) 20 6 = sd ∧ bits (suWord sd off su) 0 20 = off := by
  simp (disch := decide) only [suWord, BitVec.extractLsb'_append_eq_of_le, BitVec.extractLsb'_append_eq_of_add_le,
    BitVec.extractLsb'_eq_self, Nat.reduceSub, and_self]

/-- Major ops from 0x30 on are those of SU format. -/
theorem decodeScalar_of_su {w : Code} (h : bits w 28 2 = 3) : decodeScalar w = decodeSU w := by
  have high : 0x30 ≤ (bits w 24 6).toNat := by
    have top : (bits w 28 2).toNat = 3 := congrArg BitVec.toNat h
    simp only [BitVec.extractLsb'_toNat, Nat.shiftRight_eq_div_pow] at top ⊢
    omega
  unfold decodeScalar
  dsimp only
  split
  case h_40 => exact if_pos (congrArg BitVec.toNat h)
  all_goals omega

end scalar

section decode
variable {op sd sa sb fn : BitVec 6} {imm : BitVec 12} {off : BitVec 20} {cond : BitVec 4} {su : BitVec 2}
  {w : Code} {i : Instr} {rest : List Code}

theorem decodeCode_scalar (hw : bits w 30 2 = 0b00#2) (h : decodeScalar w = .ok i) :
    decodeCode (w :: rest) = .ok (i, rest) := by
  unfold decodeCode
  dsimp only
  rw [hw]
  exact congrArg (Except.map (·, rest)) h

theorem decodeCode_encSR (h : decodeScalar (srWord op sd sa sb fn) = .ok i) :
    decodeCode (encSR op sd sa sb fn ++ rest) = .ok (i, rest) :=
  decodeCode_scalar (srWord_fields op sd sa sb fn).1 h

theorem decodeCode_encSI (h : decodeScalar (siWord op sd sa imm) = .ok i) :
    decodeCode (encSI op sd sa imm ++ rest) = .ok (i, rest) :=
  decodeCode_scalar (siWord_fields op sd sa imm).1 h

theorem decodeCode_encSB (h : decodeScalar (sbWord op off cond) = .ok i) :
    decodeCode (encSB op cond off ++ rest) = .ok (i, rest) :=
  decodeCode_scalar (sbWord_fields op off cond).1 h

theorem decodeCode_encSU (h : decodeSU (suWord sd off su) = .ok i) :
    decodeCode (encSU su sd off ++ rest) = .ok (i, rest) :=
  have fields := suWord_fields sd off su
  decodeCode_scalar fields.1 ((decodeScalar_of_su fields.2.1).trans h)

end decode

/-! ### Lane words -/

section lane
variable (op : BitVec 10) (o : LaneOp) (reuse : Bool) (m : Mods) (spec : BitVec 22)

/-- Word 0 of a lane instruction (R281). -/
def laneWord0 : Code := 0b01#2 ++ op ++ o.vd ++ o.va

/-- Word 1 of a lane instruction (R281). -/
def laneWord1 : Code := o.vb ++ o.vc ++ o.guard ++ b1 o.neg ++ BitVec.ofNat 2 o.flag.code ++ o.minw ++ b1 reuse

theorem laneWord0_fields :
    bits (laneWord0 op o) 30 2 = (0b01#2) ∧ bits (laneWord0 op o) 20 10 = op ∧ bits (laneWord0 op o) 10 10 = o.vd ∧
    bits (laneWord0 op o) 0 10 = o.va := by
  simp (disch := decide) only [laneWord0, BitVec.extractLsb'_append_eq_of_le, BitVec.extractLsb'_append_eq_of_add_le,
    BitVec.extractLsb'_eq_self, Nat.reduceSub, and_self]

theorem laneWord1_fields :
    bits (laneWord1 o reuse) 22 10 = o.vb ∧ bits (laneWord1 o reuse) 12 10 = o.vc ∧
    bits (laneWord1 o reuse) 7 5 = o.guard ∧ bit (laneWord1 o reuse) 6 = o.neg ∧
    bits (laneWord1 o reuse) 4 2 = BitVec.ofNat 2 o.flag.code ∧ bits (laneWord1 o reuse) 1 3 = o.minw ∧
    bit (laneWord1 o reuse) 0 = reuse := by
  simp (disch := decide) only [laneWord1, BitVec.extractLsb'_append_eq_of_le, BitVec.extractLsb'_append_eq_of_add_le,
    BitVec.extractLsb'_eq_self, BitVec.getLsbD_append, BitVec.getLsbD_ofBool, Nat.reduceSub, Nat.reduceLT, reduceIte,
    decide_true, Bool.true_and, and_self]

theorem FlagSel.ofCode_code (f : FlagSel) : FlagSel.ofCode (BitVec.ofNat 2 f.code).toNat = some f := by
  cases f <;> rfl

theorem laneFields_laneWords : laneFields (laneWord0 op o) (laneWord1 o reuse) = some o := by
  simp only [laneFields, laneWord0_fields, laneWord1_fields, FlagSel.ofCode_code, Option.map_some]

/-- The opcode alone says which of the ranges of R289 decodes word 2. -/
theorem decodeLane_words (w2 : Code) : decodeLane (laneWord0 op o) (laneWord1 o reuse) w2 =
    if reuse && !(op.toNat == 0x2C0 || op.toNat == 0x2C1) then .error .badReuse
    else if op.toNat < 0x080 then decodeIntLane op.toNat o w2
    else if op.toNat < 0x100 then decodeFpLane op.toNat o w2
    else if op.toNat < 0x140 then decodeConvLane op.toNat o w2
    else if op.toNat < 0x180 then decodeCrossLane op.toNat o w2
    else if op.toNat < 0x1C0 then decodeMaskLane op.toNat o w2
    else if op.toNat < 0x280 then decodeMemLane op.toNat o w2
    else decodeMatrixLane op.toNat o reuse w2 := by
  simp only [decodeLane, laneFields_laneWords, laneWord0_fields, laneWord1_fields]

end lane

section mods
variable (m : Mods) (spec : BitVec 22)

theorem encMods_fields :
    bits (encMods spec m) 0 5 = BitVec.ofNat 5 m.ty.code ∧ bits (encMods spec m) 5 3 = BitVec.ofNat 3 m.rnd.code ∧
    bit (encMods spec m) 8 = m.sat ∧ bit (encMods spec m) 9 = m.ftz ∧ bits (encMods spec m) 10 22 = spec := by
  simp (disch := decide) only [encMods, BitVec.extractLsb'_append_eq_of_le, BitVec.extractLsb'_append_eq_of_add_le,
    BitVec.extractLsb'_eq_self, BitVec.getLsbD_append, BitVec.getLsbD_ofBool, Nat.reduceSub, Nat.reduceLT, reduceIte,
    decide_true, Bool.true_and, and_self]

theorem ElemTy.ofCode_code (t : ElemTy) : ElemTy.ofCode (BitVec.ofNat 5 t.code).toNat = some t := by
  cases t <;> rfl

theorem Rnd.ofCode_code (r : Rnd) : Rnd.ofCode (BitVec.ofNat 3 r.code).toNat = some r := by
  cases r <;> rfl

/-- An instruction with a modifier word (R285) whose spec field is in order. -/
theorem withMods_encMods {f : Mods → Instr} {i : Instr} {ok : Bool} (hok : ok = true) (hf : f m = i) (h : i.wf = true) :
    withMods (encMods spec m) ok f = .ok i := by
  subst hok hf
  simp only [withMods, encMods_fields, ElemTy.ofCode_code, Rnd.ofCode_code, reduceIte]
  exact legal_of_wf h

/-- The spec field starts at bit 10 of the word. -/
theorem encMods_spec {lo n : Nat} (h : 10 ≤ lo) : bits (encMods spec m) lo n = spec.extractLsb' (lo - 10) n := by
  simp (disch := omega) only [encMods, BitVec.extractLsb'_append_eq_of_le, Nat.sub_sub]

theorem encMods_specBit {i : Nat} (h : 10 ≤ i) : bit (encMods spec m) i = spec.getLsbD (i - 10) := by
  simp only [encMods, BitVec.getLsbD_append, Nat.sub_sub]
  rw [if_neg (by omega), if_neg (by omega), if_neg (by omega), if_neg (by omega)]

theorem shiftAmt_encMods (s64 : Bool) (amt : ShiftAmt) : shiftAmt (encMods (encAmt s64 amt) m) = amt := by
  cases amt <;>
  simp (disch := decide) only [shiftAmt, encMods_spec, encMods_specBit, encAmt,
    BitVec.extractLsb'_append_eq_of_add_le, BitVec.extractLsb'_eq_self, BitVec.getLsbD_append, Nat.reduceSub, Nat.reduceLT,
    reduceIte] <;> rfl

/-- The bits of a shift's spec field that its entry does not use are zero. -/
theorem shiftSpec_encMods (s64 : Bool) (amt : ShiftAmt) : shiftSpec (encMods (encAmt s64 amt) m) true = true := by
  cases amt <;>
  simp (disch := decide) only [shiftSpec, encMods_spec, encMods_specBit, encAmt,
    BitVec.extractLsb'_append_eq_of_add_le, BitVec.extractLsb'_eq_self, BitVec.getLsbD_append, Nat.reduceSub, Nat.reduceLT,
    reduceIte] <;> rfl

theorem encAmt_top (amt : ShiftAmt) : bits (encMods (encAmt false amt) m) 17 15 = 0 := by
  cases amt <;>
  simp (disch := decide) only [encMods_spec, encAmt, BitVec.extractLsb'_append_eq_of_le, Nat.reduceSub] <;> rfl

theorem encAmt_s64 (s64 : Bool) (amt : ShiftAmt) :
    bit (encMods (encAmt s64 amt) m) 17 = s64 ∧ bits (encMods (encAmt s64 amt) m) 18 14 = 0 := by
  cases amt <;>
  simp (disch := decide) only [encMods_spec, encMods_specBit, encAmt, BitVec.extractLsb'_append_eq_of_le,
    BitVec.extractLsb'_eq_self, BitVec.getLsbD_append, Nat.reduceSub, Nat.reduceLT, reduceIte, BitVec.getLsbD_ofBool,
    decide_true, Bool.true_and] <;> exact ⟨trivial, rfl⟩

end mods

section mem
variable (m : MemMods) (ty : BitVec 5)

theorem encMemWord_fields :
    bits (encMemWord m ty) 16 16 = m.off ∧ bit (encMemWord m ty) 15 = m.flat ∧
    bits (encMemWord m ty) 13 2 = BitVec.ofNat 2 m.ord.code ∧ bit (encMemWord m ty) 12 = m.yield ∧
    bits (encMemWord m ty) 10 2 = m.scale ∧ bits (encMemWord m ty) 5 5 = 0#5 ∧ bits (encMemWord m ty) 0 5 = ty := by
  simp (disch := decide) only [encMemWord, BitVec.extractLsb'_append_eq_of_le, BitVec.extractLsb'_append_eq_of_add_le,
    BitVec.extractLsb'_eq_self, BitVec.getLsbD_append, BitVec.getLsbD_ofBool, Nat.reduceSub, Nat.reduceLT, reduceIte,
    decide_true, Bool.true_and, and_self]

theorem MemOrd.ofCode_code (x : MemOrd) : MemOrd.ofCode (BitVec.ofNat 2 x.code).toNat = x := by
  cases x <;> rfl

theorem memMods_encMemWord : memMods (encMemWord m ty) = m := by
  simp only [memMods, encMemWord_fields, MemOrd.ofCode_code]

/-- Below a prefetch's word there is no type code (R361). -/
theorem encMemWord_untyped : bits (encMemWord m 0) 0 10 = 0 := by
  have split : bits (encMemWord m 0) 0 10 = bits (encMemWord m 0) 5 5 ++ bits (encMemWord m 0) 0 5 :=
    (BitVec.extractLsb'_append_extractLsb'_eq_extractLsb' (start₁ := 0) (len₁ := 5) (len₂ := 5) rfl).symm
  rw [split, (encMemWord_fields m 0).2.2.2.2.2.1, (encMemWord_fields m 0).2.2.2.2.2.2]
  rfl

theorem withMem_encMemWord {t : ElemTy} {f : ElemTy → MemMods → Instr} (h : (f t m).wf = true) :
    withMem (encMemWord m (BitVec.ofNat 5 t.code)) f = .ok (f t m) := by
  simp only [withMem, memMods_encMemWord, encMemWord_fields, ElemTy.ofCode_code]
  exact legal_of_wf h

theorem AccTy.ofCode_code (t : AccTy) : AccTy.ofCode (BitVec.ofNat 5 t.code).toNat = some t := by
  cases t <;> rfl

theorem withAcc_encMemWord {t : AccTy} {f : AccTy → MemMods → Instr} (h : (f t m).wf = true) :
    withAcc (encMemWord m (BitVec.ofNat 5 t.code)) f = .ok (f t m) := by
  simp only [withAcc, memMods_encMemWord, encMemWord_fields, AccTy.ofCode_code]
  exact legal_of_wf h

end mem

/-- A form whose unused bits of word 2 are zero. -/
theorem plain_of_wf {ok : Bool} {i : Instr} (hok : ok = true) (h : i.wf = true) : plain ok i = .ok i :=
  (if_pos hok).trans (legal_of_wf h)

/-! ### A lane instruction by the range of its opcode (R289) -/

section ranges
variable {op : BitVec 10} {o : LaneOp} {w2 : Code} {i : Instr} {rest : List Code}

theorem decodeCode_encLane {reuse : Bool} (h : decodeLane (laneWord0 op o) (laneWord1 o reuse) w2 = .ok i) :
    decodeCode (encLane op o reuse w2 ++ rest) = .ok (i, rest) := by
  show decodeCode (laneWord0 op o :: laneWord1 o reuse :: w2 :: rest) = _
  unfold decodeCode
  dsimp only
  rw [(laneWord0_fields op o).1]
  exact congrArg (Except.map (·, rest)) h

theorem decodeCode_int (hop : op.toNat < 0x080) (h : decodeIntLane op.toNat o w2 = .ok i) :
    decodeCode (encLane op o false w2 ++ rest) = .ok (i, rest) := by
  refine decodeCode_encLane ?_
  rw [decodeLane_words, Bool.false_and, if_neg (by decide), if_pos hop, h]

theorem decodeCode_fp (hop : 0x080 ≤ op.toNat ∧ op.toNat < 0x100) (h : decodeFpLane op.toNat o w2 = .ok i) :
    decodeCode (encLane op o false w2 ++ rest) = .ok (i, rest) := by
  refine decodeCode_encLane ?_
  rw [decodeLane_words, Bool.false_and, if_neg (by decide), if_neg (by omega), if_pos hop.2, h]

theorem decodeCode_conv (hop : 0x100 ≤ op.toNat ∧ op.toNat < 0x140) (h : decodeConvLane op.toNat o w2 = .ok i) :
    decodeCode (encLane op o false w2 ++ rest) = .ok (i, rest) := by
  refine decodeCode_encLane ?_
  rw [decodeLane_words, Bool.false_and, if_neg (by decide), if_neg (by omega), if_neg (by omega), if_pos hop.2, h]

theorem decodeCode_cross (hop : 0x140 ≤ op.toNat ∧ op.toNat < 0x180) (h : decodeCrossLane op.toNat o w2 = .ok i) :
    decodeCode (encLane op o false w2 ++ rest) = .ok (i, rest) := by
  refine decodeCode_encLane ?_
  rw [decodeLane_words, Bool.false_and, if_neg (by decide), if_neg (by omega), if_neg (by omega), if_neg (by omega),
    if_pos hop.2, h]

theorem decodeCode_mask (hop : 0x180 ≤ op.toNat ∧ op.toNat < 0x1C0) (h : decodeMaskLane op.toNat o w2 = .ok i) :
    decodeCode (encLane op o false w2 ++ rest) = .ok (i, rest) := by
  refine decodeCode_encLane ?_
  rw [decodeLane_words, Bool.false_and, if_neg (by decide), if_neg (by omega), if_neg (by omega), if_neg (by omega),
    if_neg (by omega), if_pos hop.2, h]

theorem decodeCode_mem (hop : 0x1C0 ≤ op.toNat ∧ op.toNat < 0x280) (h : decodeMemLane op.toNat o w2 = .ok i) :
    decodeCode (encLane op o false w2 ++ rest) = .ok (i, rest) := by
  refine decodeCode_encLane ?_
  rw [decodeLane_words, Bool.false_and, if_neg (by decide), if_neg (by omega), if_neg (by omega), if_neg (by omega),
    if_neg (by omega), if_neg (by omega), if_pos hop.2, h]

theorem decodeCode_matrix {reuse : Bool} (hop : 0x280 ≤ op.toNat)
    (hr : (reuse && !(op.toNat == 0x2C0 || op.toNat == 0x2C1)) = false) (h : decodeMatrixLane op.toNat o reuse w2 = .ok i) :
    decodeCode (encLane op o reuse w2 ++ rest) = .ok (i, rest) := by
  refine decodeCode_encLane ?_
  rw [decodeLane_words, hr, if_neg (by decide), if_neg (by omega), if_neg (by omega), if_neg (by omega),
    if_neg (by omega), if_neg (by omega), if_neg (by omega), h]

end ranges

/-! ### Loop nests and clause headers -/

section nest
variable (op : BitVec 6) (n : Nest)

/-- Word 0 of a loop nest (R287). -/
def nestWord0 : Code := 0b10#2 ++ op ++ n.sn ++ 0#2 ++ n.l0.extent

theorem nestWord0_fields :
    bits (nestWord0 op n) 30 2 = 0b10#2 ∧ bits (nestWord0 op n) 24 6 = op ∧ bits (nestWord0 op n) 18 6 = n.sn ∧
    bits (nestWord0 op n) 16 2 = 0#2 ∧ bits (nestWord0 op n) 0 16 = n.l0.extent := by
  simp (disch := decide) only [nestWord0, BitVec.extractLsb'_append_eq_of_le, BitVec.extractLsb'_append_eq_of_add_le,
    BitVec.extractLsb'_eq_self, Nat.reduceSub, and_self]

/-- The strides, the queue, the type and the rounding of a loop nest (R287). -/
def nestBits : BitVec 160 :=
  BitVec.ofNat 3 n.rnd.code ++ BitVec.ofNat 4 n.ty.code ++ n.queue ++ encLevel n.l4 ++ encLevel n.l3 ++ encLevel n.l2 ++
    encLevel n.l1 ++ encLevel n.l0

/-- The words of a 160-bit value put together give it back. -/
theorem nestM_slices (m : BitVec 160) : nestM (m.extractLsb' 0 32) (m.extractLsb' 32 32) (m.extractLsb' 64 32)
    (m.extractLsb' 96 32) (m.extractLsb' 128 32) = m := by
  have join {lo a b : Nat} : m.extractLsb' (lo + a) b ++ m.extractLsb' lo a = m.extractLsb' lo (b + a) :=
    BitVec.extractLsb'_append_extractLsb'_eq_extractLsb' rfl
  have h96 := join (lo := 96) (a := 32) (b := 32)
  have h64 := join (lo := 64) (a := 32) (b := 64)
  have h32 := join (lo := 32) (a := 32) (b := 96)
  have h0 := join (lo := 0) (a := 32) (b := 128)
  unfold nestM
  calc
    _ = m.extractLsb' 96 64 ++ m.extractLsb' 64 32 ++ m.extractLsb' 32 32 ++ m.extractLsb' 0 32 :=
      congrArg (· ++ m.extractLsb' 64 32 ++ m.extractLsb' 32 32 ++ m.extractLsb' 0 32) h96
    _ = m.extractLsb' 64 96 ++ m.extractLsb' 32 32 ++ m.extractLsb' 0 32 :=
      congrArg (· ++ m.extractLsb' 32 32 ++ m.extractLsb' 0 32) h64
    _ = m.extractLsb' 32 128 ++ m.extractLsb' 0 32 := congrArg (· ++ m.extractLsb' 0 32) h32
    _ = m.extractLsb' 0 160 := h0
    _ = m := BitVec.extractLsb'_eq_self

theorem nestLevels_nestBits :
    nestLevel (nestBits n) 0 n.l0.extent = n.l0 ∧ nestLevel (nestBits n) 1 n.l1.extent = n.l1 ∧
    nestLevel (nestBits n) 2 n.l2.extent = n.l2 ∧ nestLevel (nestBits n) 3 n.l3.extent = n.l3 ∧
    nestLevel (nestBits n) 4 n.l4.extent = n.l4 := by
  simp only [nestLevel, Nat.reduceMul, Nat.reduceAdd]
  simp (disch := decide) only [nestBits, encLevel, BitVec.extractLsb'_append_eq_of_le,
    BitVec.extractLsb'_append_eq_of_add_le, BitVec.extractLsb'_eq_self, Nat.reduceSub]
  simp only [Nat.reduceAdd, Nat.reduceSub, BitVec.extractLsb'_eq_self, and_self]

theorem nestBits_fields : (nestBits n).extractLsb' 150 3 = n.queue ∧
    (nestBits n).extractLsb' 153 4 = BitVec.ofNat 4 n.ty.code ∧
    (nestBits n).extractLsb' 157 3 = BitVec.ofNat 3 n.rnd.code := by
  simp (disch := decide) only [nestBits, encLevel, BitVec.extractLsb'_append_eq_of_le,
    BitVec.extractLsb'_append_eq_of_add_le]
  simp only [Nat.reduceAdd, Nat.reduceSub, BitVec.extractLsb'_eq_self, and_self]

/-- The types of a loop nest (R379) have codes of four bits. -/
theorem nestTy_ofCode {t : ElemTy} (h : nestTys.contains t = true) :
    ElemTy.ofCode (BitVec.ofNat 4 t.code).toNat = some t := by
  cases t
  case i32 | n32 | f16 | bf16 | f32 | f64 => rfl
  all_goals cases h

/-- A loop nest of an operation of R379. -/
theorem decodeCode_encNest {i : Instr} {rest : List Code} (ht : nestTys.contains n.ty = true)
    (hop : nestInstr op.toNat n = some i) (h : i.wf = true) : decodeCode (encNest op n ++ rest) = .ok (i, rest) := by
  have word1 : bits (n.l2.extent ++ n.l1.extent) 0 16 = n.l1.extent ∧ bits (n.l2.extent ++ n.l1.extent) 16 16 = n.l2.extent :=
    ⟨BitVec.extractLsb'_append_eq_right, BitVec.extractLsb'_append_eq_left⟩
  have word2 : bits (n.l4.extent ++ n.l3.extent) 0 16 = n.l3.extent ∧ bits (n.l4.extent ++ n.l3.extent) 16 16 = n.l4.extent :=
    ⟨BitVec.extractLsb'_append_eq_right, BitVec.extractLsb'_append_eq_left⟩
  have nest : decodeNest (nestWord0 op n) (n.l2.extent ++ n.l1.extent) (n.l4.extent ++ n.l3.extent)
      ((nestBits n).extractLsb' 0 32) ((nestBits n).extractLsb' 32 32) ((nestBits n).extractLsb' 64 32)
      ((nestBits n).extractLsb' 96 32) ((nestBits n).extractLsb' 128 32) = .ok i := by
    simp only [decodeNest, nestM_slices, nestBits_fields, nestTy_ofCode ht, Rnd.ofCode_code, nestWord0_fields, word1,
      word2, nestLevels_nestBits, hop]
    exact legal_of_wf h
  show decodeCode (nestWord0 op n :: _) = _
  unfold decodeCode
  dsimp only
  rw [(nestWord0_fields op n).1]
  exact congrArg (Except.map (·, rest)) nest

end nest

section header
variable (h : Header)

/-- Word 0 of a clause header (R270). -/
def headerWord0 : Code :=
  0b11#2 ++ h.wait ++ b1 h.setA.isSome ++ h.setA.getD 0 ++ b1 h.setB.isSome ++ h.setB.getD 0 ++ 0#8

/-- Word 1 of a clause header (R270). -/
def headerWord1 : Code := h.length ++ 0#1 ++ b1 h.yield ++ b1 h.msplit ++ 0#19

theorem headerWord0_fields :
    bits (headerWord0 h) 30 2 = 0b11#2 ∧ bits (headerWord0 h) 18 12 = h.wait ∧ bit (headerWord0 h) 17 = h.setA.isSome ∧
    bits (headerWord0 h) 13 4 = h.setA.getD 0 ∧ bit (headerWord0 h) 12 = h.setB.isSome ∧
    bits (headerWord0 h) 8 4 = h.setB.getD 0 ∧ bits (headerWord0 h) 0 8 = 0#8 := by
  simp (disch := decide) only [headerWord0, BitVec.extractLsb'_append_eq_of_le, BitVec.extractLsb'_append_eq_of_add_le,
    BitVec.extractLsb'_eq_self, BitVec.getLsbD_append, BitVec.getLsbD_ofBool, Nat.reduceSub, Nat.reduceLT, reduceIte,
    decide_true, Bool.true_and, and_self]

theorem headerWord1_fields :
    bits (headerWord1 h) 22 10 = h.length ∧ bit (headerWord1 h) 21 = (0#1).getLsbD 0 ∧ bit (headerWord1 h) 20 = h.yield ∧
    bit (headerWord1 h) 19 = h.msplit ∧ bits (headerWord1 h) 0 19 = 0#19 := by
  simp (disch := decide) only [headerWord1, BitVec.extractLsb'_append_eq_of_le, BitVec.extractLsb'_append_eq_of_add_le,
    BitVec.extractLsb'_eq_self, BitVec.getLsbD_append, BitVec.getLsbD_ofBool, Nat.reduceSub, Nat.reduceLT, reduceIte,
    decide_true, Bool.true_and, and_self]

/-- A set-flag that is not named has number 0, and one that is named is given back. -/
theorem setFlag_roundTrip (f : Option (BitVec 4)) :
    (f.isSome || f.getD 0 == 0) = true ∧ (if f.isSome then some (f.getD 0) else none) = f := by
  cases f <;> exact ⟨rfl, rfl⟩

theorem decodeCode_encHeader {rest : List Code} (hw : h.wf = true) :
    decodeCode (encHeader h ++ rest) = .ok (.clauseHeader h, rest) := by
  have header : decodeHeader (headerWord0 h) (headerWord1 h) = .ok (.clauseHeader h) := by
    simp only [decodeHeader, headerWord0_fields, headerWord1_fields, setFlag_roundTrip]
    exact legal_of_wf hw
  show decodeCode (headerWord0 h :: _) = _
  unfold decodeCode
  dsimp only
  rw [(headerWord0_fields h).1]
  exact congrArg (Except.map (·, rest)) header

end header

/-! ### Walk code -/

section walk
variable (op : BitVec 6) (d a b : WReg) (imm : BitVec 17)

/-- The word of an operation of walk code (R401). -/
def walkWord : Code := op ++ d ++ a ++ b ++ imm

theorem walkWord_fields :
    bits (walkWord op d a b imm) 26 6 = op ∧ bits (walkWord op d a b imm) 23 3 = d ∧ bits (walkWord op d a b imm) 20 3 = a ∧
    bits (walkWord op d a b imm) 17 3 = b ∧ bits (walkWord op d a b imm) 0 17 = imm := by
  simp (disch := decide) only [walkWord, BitVec.extractLsb'_append_eq_of_le, BitVec.extractLsb'_append_eq_of_add_le,
    BitVec.extractLsb'_eq_self, Nat.reduceSub, and_self]

theorem walkWord_imm {lo n : Nat} (h : lo + n ≤ 17) : bits (walkWord op d a b imm) lo n = imm.extractLsb' lo n :=
  BitVec.extractLsb'_append_eq_of_add_le h

theorem walkWord_immBit {i : Nat} (h : i < 17) : bit (walkWord op d a b imm) i = imm.getLsbD i :=
  BitVec.getLsbD_append.trans (if_pos h)

theorem WalkCond.ofCode_code (c : WalkCond) : WalkCond.ofCode (BitVec.ofNat 3 c.code).toNat = some c := by
  cases c <;> rfl

end walk

/-! ### The fields that a form leaves unused -/

/-- A form that does not use vc has it zero (R282). -/
theorem LaneOp.vc_of_form {o : LaneOp} {d a b : Bool} (h : o.form d a b false = true) : { o with vc := 0 } = o := by
  have hc : o.vc = 0 := by
    simp only [LaneOp.form, Bool.and_eq_true, Bool.or_eq_true, beq_iff_eq, Bool.false_eq_true, false_or] at h
    exact h.1.1.2
  rw [← hc]

theorem Nest.ty_of_form {n : Nest} {d x y r : Bool} (h : n.form d x y r = true) : nestTys.contains n.ty = true := by
  unfold Nest.form at h
  simp only [Bool.and_eq_true] at h
  exact h.1.1.2

theorem Cond.ofCode_code (c : Cond) : Cond.ofCode (BitVec.ofNat 3 c.code).toNat = c := by
  cases c <;> rfl

theorem RedOp.ofCode_code (r : RedOp) : RedOp.ofCode (BitVec.ofNat 3 r.code).toNat = some r := by
  cases r <;> rfl

end Sys2Proof
end

section
/-! Decoding an encoded instruction gives it back (O54; R268 to R289, R401): a format at a time, and within the lane format a
range of opcodes at a time. -/

namespace Sys2Proof

open Machine

/-! ### The major ops of the scalar class -/

section arms
variable {w : Code} {k : BitVec 6}

theorem decodeScalar_alu (h : bits w 24 6 = 0x00) : decodeScalar w =
    decodeAlu (bits w 18 6) (bits w 12 6) (bits w 6 6) (bits w 0 6).toNat := by
  unfold decodeScalar; rw [h]; rfl

theorem decodeScalar_cmp (h : bits w 24 6 = 0x07) : decodeScalar w =
    decodeCmp (bits w 18 6) (bits w 12 6) (bits w 6 6) (bits w 0 6).toNat := by
  unfold decodeScalar; rw [h]; rfl

theorem decodeScalar_atom (h : bits w 24 6 = 0x1E) : decodeScalar w =
    decodeAtom (bits w 18 6) (bits w 12 6) (bits w 6 6) (MemOrd.ofCode (bits w 4 2).toNat) (bits w 0 4).toNat := by
  unfold decodeScalar; rw [h]; rfl

theorem decodeScalar_engine (h : bits w 24 6 = 0x27) : decodeScalar w =
    decodeEngine (bits w 18 6) (bits w 12 6) (bits w 6 6) (bits w 3 3) (bits w 0 3) := by
  unfold decodeScalar; rw [h]; rfl

theorem decodeScalar_branch (hk : k = 0x10 ∨ k = 0x11) (h : bits w 24 6 = k) : decodeScalar w =
    decodeBranch k.toNat (bits w 20 4).toNat (bits w 0 20) := by
  unfold decodeScalar; rw [h]
  rcases hk with rfl | rfl <;> rfl

theorem decodeScalar_control (hk : k = 0x12 ∨ k = 0x15 ∨ k = 0x29 ∨ k = 0x2A ∨ k = 0x2D) (h : bits w 24 6 = k) :
    decodeScalar w = decodeControl k.toNat (bits w 18 6) (bits w 12 6) (bits w 6 6) (bits w 0 6) := by
  unfold decodeScalar; rw [h]
  rcases hk with rfl | rfl | rfl | rfl | rfl <;> rfl

theorem decodeScalar_sync (hk : k = 0x1F ∨ k = 0x20 ∨ k = 0x22 ∨ k = 0x24 ∨ k = 0x25) (h : bits w 24 6 = k) :
    decodeScalar w = decodeSync k.toNat (bits w 18 6) (bits w 12 6) (bits w 6 6) (bits w 0 6) (bits w 0 12) := by
  unfold decodeScalar; rw [h]
  rcases hk with rfl | rfl | rfl | rfl | rfl <;> rfl

theorem decodeScalar_wait (hk : k = 0x23 ∨ k = 0x26) (h : bits w 24 6 = k) : decodeScalar w =
    decodeWait k.toNat (bits w 18 6) (bits w 12 6) (bits w 6 6) (bits w 0 6) := by
  unfold decodeScalar; rw [h]
  rcases hk with rfl | rfl <;> rfl

/-- The major ops of SI format that name one instruction each and use every field (R301, R355). -/
def immediateOps : List (BitVec 6 × (SReg → SReg → BitVec 12 → Instr)) :=
  [(0x01, .saddi), (0x02, .sandi), (0x03, .sori), (0x04, .sxori), (0x18, .sldN64), (0x19, .sldN32), (0x1A, .sldI32),
   (0x1B, .sstN64), (0x1C, .sstN32), (0x1D, .sldN64Yield)]

theorem decodeScalar_immediate : ∀ x ∈ immediateOps, bits w 24 6 = x.1 →
    decodeScalar w = .ok (x.2 (bits w 18 6) (bits w 12 6) (bits w 0 12)) := by
  simp only [immediateOps, List.forall_mem_cons]
  refine ⟨?_, ?_, ?_, ?_, ?_, ?_, ?_, ?_, ?_, ?_, by simp⟩ <;> (intro h; unfold decodeScalar; rw [h]; rfl)

/-- The other major ops that name one instruction, or one with its immediate form. -/
theorem decodeScalar_single (w : Code) :
    (bits w 24 6 = 0x05 → decodeScalar w = need (bits w 6 6 == 0) (.sshli (bits w 18 6) (bits w 12 6) (bits w 0 6))) ∧
    (bits w 24 6 = 0x06 → decodeScalar w =
      match (bits w 6 6).toNat with
      | 0 => .ok (.sshriN64 (bits w 18 6) (bits w 12 6) (bits w 0 6))
      | 1 => .ok (.sshriI64 (bits w 18 6) (bits w 12 6) (bits w 0 6))
      | _ => .error .reservedField) ∧
    (bits w 24 6 = 0x08 → decodeScalar w = .ok (.ssel (bits w 18 6) (bits w 12 6) (bits w 6 6) (bits w 0 6))) ∧
    (bits w 24 6 = 0x09 → decodeScalar w = need (bits w 12 6 == 0) (.sli (bits w 18 6) (bits w 0 12))) ∧
    (bits w 24 6 = 0x0A → decodeScalar w =
      if bits w 12 6 == 0 then decodeSgetr (bits w 18 6) (bits w 6 6) (bits w 0 6) else .error .reservedField) ∧
    (bits w 24 6 = 0x0B → decodeScalar w = need (bits w 18 6 == 0 && bits w 6 6 == 0) (.ssetr (bits w 12 6) (bits w 0 6))) ∧
    (bits w 24 6 = 0x13 → decodeScalar w = need (bits w 18 6 == 0) (.bz (bits w 12 6) (bits w 0 12))) ∧
    (bits w 24 6 = 0x14 → decodeScalar w = need (bits w 18 6 == 0) (.bnz (bits w 12 6) (bits w 0 12))) ∧
    (bits w 24 6 = 0x21 → decodeScalar w =
      need (bits w 18 6 == 0 && bits w 12 6 == 0 && bits w 8 4 == 0) (.qfence (bits w 0 8))) ∧
    (bits w 24 6 = 0x28 → decodeScalar w =
      if bits w 18 6 == 0 && bits w 12 6 == 0 && bits w 10 2 == 0 then legal (.sfmt (bits w 0 5) (bits w 5 5))
      else .error .reservedField) ∧
    (bits w 24 6 = 0x2C → decodeScalar w = need (bits w 18 6 == 0 && bits w 12 6 == 0) (.trap (bits w 0 12))) := by
  refine ⟨?_, ?_, ?_, ?_, ?_, ?_, ?_, ?_, ?_, ?_, ?_⟩ <;> (intro h; unfold decodeScalar; rw [h]; rfl)

end arms

/-- The code decoder gives an instruction back from its words, whatever words follow. -/
def Instr.Decodes (i : Instr) : Prop := ∀ rest, decodeCode (encode i ++ rest) = .ok (i, rest)

/-! ### Scalar instructions -/

section scalar
variable {sd sa sb : SReg} {n num idx : BitVec 6} {imm : BitVec 12} {off : BitVec 20}

theorem decodes_alu {fn : BitVec 6} {i : Instr} (h : decodeAlu sd sa sb fn.toNat = .ok i)
    (he : encode i = encSR 0x00 sd sa sb fn) : i.Decodes := by
  intro rest
  rw [he]
  refine decodeCode_encSR ((decodeScalar_alu srWord_op).trans ?_)
  simp only [srWord_fields]
  exact h

theorem decodes_cmp {fn : BitVec 6} {i : Instr} (h : decodeCmp sd sa sb fn.toNat = .ok i)
    (he : encode i = encSR 0x07 sd sa sb fn) : i.Decodes := by
  intro rest
  rw [he]
  refine decodeCode_encSR ((decodeScalar_cmp srWord_op).trans ?_)
  simp only [srWord_fields]
  exact h

theorem decodes_atom {ord : MemOrd} {op : BitVec 4} {i : Instr} (h : decodeAtom sd sa sb ord op.toNat = .ok i)
    (he : encode i = encSR 0x1E sd sa sb (BitVec.ofNat 2 ord.code ++ op)) : i.Decodes := by
  intro rest
  rw [he]
  refine decodeCode_encSR ((decodeScalar_atom srWord_op).trans ?_)
  have hord : MemOrd.ofCode ((BitVec.ofNat 2 ord.code ++ op).extractLsb' 4 2).toNat = ord := by
    rw [BitVec.extractLsb'_append_eq_left, MemOrd.ofCode_code]
  have hop : (BitVec.ofNat 2 ord.code ++ op).extractLsb' 0 4 = op := BitVec.extractLsb'_append_eq_right
  simp only [srWord_fields]
  rw [hord, hop, h]

theorem decodes_engine {sub q : BitVec 3} {i : Instr} (h : decodeEngine sd sa sb sub q = .ok i)
    (he : encode i = encSR 0x27 sd sa sb (sub ++ q)) : i.Decodes := by
  intro rest
  rw [he]
  refine decodeCode_encSR ((decodeScalar_engine srWord_op).trans ?_)
  have hsub : (sub ++ q).extractLsb' 3 3 = sub := BitVec.extractLsb'_append_eq_left
  have hq : (sub ++ q).extractLsb' 0 3 = q := BitVec.extractLsb'_append_eq_right
  simp only [srWord_fields]
  rw [hsub, hq, h]

theorem decodes_branch {k : BitVec 6} {cond : BitVec 4} {i : Instr} (hk : k = 0x10 ∨ k = 0x11)
    (h : decodeBranch k.toNat cond.toNat off = .ok i) (he : encode i = encSB k cond off) : i.Decodes := by
  intro rest
  rw [he]
  refine decodeCode_encSB ((decodeScalar_branch hk (sbWord_fields k off cond).2.1).trans ?_)
  simp only [sbWord_fields]
  exact h

theorem decodes_control {k fn : BitVec 6} {i : Instr} (hk : k = 0x12 ∨ k = 0x15 ∨ k = 0x29 ∨ k = 0x2A ∨ k = 0x2D)
    (h : decodeControl k.toNat sd sa sb fn = .ok i) (he : encode i = encSR k sd sa sb fn) : i.Decodes := by
  intro rest
  rw [he]
  refine decodeCode_encSR ((decodeScalar_control hk srWord_op).trans ?_)
  simp only [srWord_fields]
  exact h

theorem decodes_sync {k fn : BitVec 6} {i : Instr} (hk : k = 0x20 ∨ k = 0x22 ∨ k = 0x24 ∨ k = 0x25)
    (h : ∀ imm, decodeSync k.toNat sd sa sb fn imm = .ok i) (he : encode i = encSR k sd sa sb fn) : i.Decodes := by
  intro rest
  rw [he]
  refine decodeCode_encSR ((decodeScalar_sync (Or.inr hk) srWord_op).trans ?_)
  simp only [srWord_fields]
  exact h _

theorem decodes_line {i : Instr} (h : ∀ sb fn, decodeSync 0x1F sd sa sb fn imm = .ok i)
    (he : encode i = encSI 0x1F sd sa imm) : i.Decodes := by
  intro rest
  rw [he]
  refine decodeCode_encSI ((decodeScalar_sync (Or.inl rfl) siWord_op).trans ?_)
  simp only [siWord_fields]
  exact h _ _

theorem decodes_wait {k fn : BitVec 6} {i : Instr} (hk : k = 0x23 ∨ k = 0x26)
    (h : decodeWait k.toNat sd sa sb fn = .ok i) (he : encode i = encSR k sd sa sb fn) : i.Decodes := by
  intro rest
  rw [he]
  refine decodeCode_encSR ((decodeScalar_wait hk srWord_op).trans ?_)
  simp only [srWord_fields]
  exact h

theorem decodes_immediate {x : BitVec 6 × (SReg → SReg → BitVec 12 → Instr)} (hx : x ∈ immediateOps)
    (he : encode (x.2 sd sa imm) = encSI x.1 sd sa imm) : (x.2 sd sa imm).Decodes := by
  intro rest
  rw [he]
  refine decodeCode_encSI ((decodeScalar_immediate x hx siWord_op).trans ?_)
  simp only [siWord_fields]

theorem decodes_shift : (Instr.sshli sd sa n).Decodes ∧ (Instr.sshriN64 sd sa n).Decodes ∧
    (Instr.sshriI64 sd sa n).Decodes := by
  refine ⟨fun rest => decodeCode_encSR ?_, fun rest => decodeCode_encSR ?_, fun rest => decodeCode_encSR ?_⟩
  · obtain ⟨left, -⟩ := decodeScalar_single (srWord 0x05 sd sa 0 n)
    rw [left srWord_op]
    simp only [srWord_fields]
    rfl
  all_goals
    obtain ⟨-, right, -⟩ := decodeScalar_single (srWord 0x06 sd sa _ n)
    rw [right srWord_op]
    simp only [srWord_fields]
    rfl

theorem decodes_ssel : (Instr.ssel sd sa sb n).Decodes := by
  refine fun rest => decodeCode_encSR ?_
  obtain ⟨-, -, sel, -⟩ := decodeScalar_single (srWord 0x08 sd sa sb n)
  rw [sel srWord_op]
  simp only [srWord_fields]

theorem decodes_sli : (Instr.sli sd imm).Decodes := by
  refine fun rest => decodeCode_encSI ?_
  obtain ⟨-, -, -, li, -⟩ := decodeScalar_single (siWord 0x09 sd 0 imm)
  rw [li siWord_op]
  simp only [siWord_fields]
  rfl

theorem decodes_upper : (Instr.slui sd off).Decodes ∧ (Instr.spcui sd off).Decodes := by
  constructor <;> refine fun rest => decodeCode_encSU ?_ <;> unfold decodeSU <;> simp only [suWord_fields] <;> rfl

/-- QPC carries an index; every other special register has index 0. -/
theorem decodes_sgetr : (num ≠ 8 → (Instr.sgetr sd num).Decodes) ∧ (Instr.sgetrQpc sd idx).Decodes := by
  refine ⟨fun h rest => decodeCode_encSR ?_, fun rest => decodeCode_encSR ?_⟩
  all_goals
    obtain ⟨-, -, -, -, get, -⟩ := decodeScalar_single (srWord 0x0A sd 0 _ _)
    rw [get srWord_op]
    simp only [srWord_fields, BEq.rfl, reduceIte, decodeSgetr]
  · rw [if_neg (by simpa using h)]
    rfl

theorem decodes_ssetr : (Instr.ssetr sa num).Decodes := by
  refine fun rest => decodeCode_encSR ?_
  obtain ⟨-, -, -, -, -, set, -⟩ := decodeScalar_single (srWord 0x0B 0 sa 0 num)
  rw [set srWord_op]
  simp only [srWord_fields]
  rfl

theorem decodes_zero : (Instr.bz sa imm).Decodes ∧ (Instr.bnz sa imm).Decodes := by
  refine ⟨fun rest => decodeCode_encSI ?_, fun rest => decodeCode_encSI ?_⟩
  · obtain ⟨-, -, -, -, -, -, zero, -⟩ := decodeScalar_single (siWord 0x13 0 sa imm)
    rw [zero siWord_op]
    simp only [siWord_fields]
    rfl
  · obtain ⟨-, -, -, -, -, -, -, nonzero, -⟩ := decodeScalar_single (siWord 0x14 0 sa imm)
    rw [nonzero siWord_op]
    simp only [siWord_fields]
    rfl

theorem decodes_qfence {mask : BitVec 8} : (Instr.qfence mask).Decodes := by
  refine fun rest => decodeCode_encSI ?_
  obtain ⟨-, -, -, -, -, -, -, -, fence, -⟩ := decodeScalar_single (siWord 0x21 0 0 (0#4 ++ mask))
  rw [fence siWord_op]
  have high : (0#4 ++ mask).extractLsb' 8 4 = 0#4 := BitVec.extractLsb'_append_eq_left
  have low : (0#4 ++ mask).extractLsb' 0 8 = mask := BitVec.extractLsb'_append_eq_right
  simp only [siWord_fields, high, low]
  rfl

theorem decodes_sfmt {ta tb : BitVec 5} (h : (Instr.sfmt ta tb).wf = true) : (Instr.sfmt ta tb).Decodes := by
  refine fun rest => decodeCode_encSI ?_
  obtain ⟨-, -, -, -, -, -, -, -, -, fmt, -⟩ := decodeScalar_single (siWord 0x28 0 0 (0#2 ++ tb ++ ta))
  rw [fmt siWord_op]
  have high : (0#2 ++ tb ++ ta).extractLsb' 10 2 = (0#2).extractLsb' 0 2 := by
    simp (disch := decide) only [BitVec.extractLsb'_append_eq_of_le, Nat.reduceSub]
  have mid : (0#2 ++ tb ++ ta).extractLsb' 5 5 = tb := by
    simp (disch := decide) only [BitVec.extractLsb'_append_eq_of_le, BitVec.extractLsb'_append_eq_of_add_le,
      BitVec.extractLsb'_eq_self, Nat.reduceSub]
  have low : (0#2 ++ tb ++ ta).extractLsb' 0 5 = ta := BitVec.extractLsb'_append_eq_right
  simp only [siWord_fields, high, mid, low]
  exact legal_of_wf h

theorem decodes_trap : (Instr.trap imm).Decodes := by
  refine fun rest => decodeCode_encSI ?_
  obtain ⟨-, -, -, -, -, -, -, -, -, -, trap⟩ := decodeScalar_single (siWord 0x2C 0 0 imm)
  rw [trap siWord_op]
  simp only [siWord_fields]
  rfl

end scalar

/-! ### Lane instructions with a spec field -/

section lane
variable {o : LaneOp} {m : Mods}

/-- A form that leaves the spec field of its modifier word zero. -/
theorem withMods_noSpec {f : Mods → Instr} (h : (f m).wf = true) :
    withMods (encMods 0 m) (bits (encMods 0 m) 10 22 == 0) f = .ok (f m) := by
  refine withMods_encMods m 0 ?_ rfl h
  rw [(encMods_fields m 0).2.2.2.2]
  rfl

/-- A shift of R325 or R342, whose spec field holds the amount. -/
theorem withMods_amount {f : Mods → ShiftAmt → Instr} {amt : ShiftAmt} (h : (f m amt).wf = true) :
    let w := encMods (encAmt false amt) m
    withMods w (shiftSpec w (bits w 17 15 == 0)) (fun m => f m (shiftAmt w)) = .ok (f m amt) := by
  refine withMods_encMods m _ ?_ (by rw [shiftAmt_encMods]) h
  rw [encAmt_top]
  exact shiftSpec_encMods m false amt

theorem decodes_vrshr {s64 : Bool} {amt : ShiftAmt} (h : (Instr.vrshr o m s64 amt).wf = true) :
    (Instr.vrshr o m s64 amt).Decodes := by
  refine fun rest => decodeCode_int (by decide) ?_
  unfold decodeIntLane
  refine withMods_encMods m _ ?_ ?_ h
  · rw [(encAmt_s64 m s64 amt).2]
    exact shiftSpec_encMods m s64 amt
  · rw [(encAmt_s64 m s64 amt).1, shiftAmt_encMods]

theorem decodes_vbfe {p n : BitVec 5} (h : (Instr.vbfe o m p n).wf = true) : (Instr.vbfe o m p n).Decodes := by
  refine fun rest => decodeCode_int (by decide) ?_
  unfold decodeIntLane
  refine withMods_encMods m _ ?_ ?_ h <;>
    simp (disch := decide) only [encMods_spec, BitVec.extractLsb'_append_eq_of_le, BitVec.extractLsb'_append_eq_of_add_le,
      BitVec.extractLsb'_eq_self, Nat.reduceSub]
  rfl

/-- The three lowest bits of a spec field whose other bits are zero. -/
theorem spec_three (x : BitVec 3) : bits (encMods (0#19 ++ x) m) 10 3 = x ∧ bits (encMods (0#19 ++ x) m) 13 19 = 0 := by
  simp (disch := decide) only [encMods_spec, BitVec.extractLsb'_append_eq_of_le, BitVec.extractLsb'_append_eq_of_add_le,
    BitVec.extractLsb'_eq_self, Nat.reduceSub, true_and]
  rfl

theorem decodes_compare {cc : Cond} :
    ((Instr.vcmpInt o m cc).wf = true → (Instr.vcmpInt o m cc).Decodes) ∧
    ((Instr.vcmpFp o m cc).wf = true → (Instr.vcmpFp o m cc).Decodes) := by
  obtain ⟨hcond, hrest⟩ := spec_three (m := m) (BitVec.ofNat 3 cc.code)
  have hzero : (bits (encMods (0#19 ++ BitVec.ofNat 3 cc.code) m) 13 19 == 0) = true := by rw [hrest]; rfl
  refine ⟨fun h rest => decodeCode_int (by decide) ?_, fun h rest => decodeCode_fp (by decide) ?_⟩
  · unfold decodeIntLane
    exact withMods_encMods m _ hzero (by rw [hcond, Cond.ofCode_code]) h
  · unfold decodeFpLane
    exact withMods_encMods m _ hzero (by rw [hcond, Cond.ofCode_code]) h

/-- The compares with an immediate keep the condition in vc (R330, R338). -/
theorem decodes_compareImmediate {cc : Cond} {uns : Bool} {imm : Code} :
    ((Instr.vcmpIntImm o cc uns imm).wf = true → (Instr.vcmpIntImm o cc uns imm).Decodes) ∧
    ((Instr.vcmpF32Imm o cc imm).wf = true → (Instr.vcmpF32Imm o cc imm).Decodes) := by
  refine ⟨fun h rest => ?_, fun h rest => ?_⟩
  · have unused := LaneOp.vc_of_form (Bool.and_eq_true_iff.mp h).1
    have high : (0#6 ++ b1 uns ++ BitVec.ofNat 3 cc.code).extractLsb' 4 6 = 0#6 := by
      simp (disch := decide) only [BitVec.extractLsb'_append_eq_of_le, BitVec.extractLsb'_eq_self, Nat.reduceSub]
    have sign : (0#6 ++ b1 uns ++ BitVec.ofNat 3 cc.code).getLsbD 3 = uns := by
      simp only [BitVec.getLsbD_append, BitVec.getLsbD_ofBool, Nat.reduceLT, Nat.reduceSub, reduceIte, decide_true,
        Bool.true_and]
    have low : (0#6 ++ b1 uns ++ BitVec.ofNat 3 cc.code).extractLsb' 0 3 = BitVec.ofNat 3 cc.code :=
      BitVec.extractLsb'_append_eq_right
    refine decodeCode_int (by decide) ?_
    show plain _ (.vcmpIntImm { o with vc := 0 } _ _ _) = _
    rw [unused, high, sign, low, Cond.ofCode_code]
    exact plain_of_wf rfl h
  · have unused := LaneOp.vc_of_form h
    have high : (0#7 ++ BitVec.ofNat 3 cc.code).extractLsb' 3 7 = 0#7 := BitVec.extractLsb'_append_eq_left
    have low : (0#7 ++ BitVec.ofNat 3 cc.code).extractLsb' 0 3 = BitVec.ofNat 3 cc.code :=
      BitVec.extractLsb'_append_eq_right
    refine decodeCode_fp (by decide) ?_
    show plain _ (.vcmpF32Imm { o with vc := 0 } _ _) = _
    rw [unused, high, low, Cond.ofCode_code]
    exact plain_of_wf rfl h

theorem decodes_vcvt {src : ElemTy} {si di : BitVec 3} (h : (Instr.vcvt o m src si di).wf = true) :
    (Instr.vcvt o m src si di).Decodes := by
  refine fun rest => decodeCode_conv (by decide) ?_
  have fields : let w := encMods (0#11 ++ di ++ si ++ BitVec.ofNat 5 src.code) m
      bits w 10 5 = BitVec.ofNat 5 src.code ∧ bits w 15 3 = si ∧ bits w 18 3 = di ∧ bits w 21 11 = 0#11 := by
    simp (disch := decide) only [encMods_spec, BitVec.extractLsb'_append_eq_of_le, BitVec.extractLsb'_append_eq_of_add_le,
      BitVec.extractLsb'_eq_self, Nat.reduceSub, and_self]
  obtain ⟨hsrc, hsi, hdi, hrest⟩ := fields
  unfold decodeConvLane
  dsimp only
  rw [hsrc, hsi, hdi, hrest, ElemTy.ofCode_code]
  exact withMods_encMods m _ rfl rfl h

theorem decodes_reduce {op : RedOp} {excl : Bool} :
    ((Instr.vred o m op).wf = true → (Instr.vred o m op).Decodes) ∧
    ((Instr.vscan o m op excl).wf = true → (Instr.vscan o m op excl).Decodes) := by
  refine ⟨fun h rest => decodeCode_cross (by decide) ?_, fun h rest => decodeCode_cross (by decide) ?_⟩
  · obtain ⟨hop, hrest⟩ := spec_three (m := m) (BitVec.ofNat 3 op.code)
    unfold decodeCrossLane
    dsimp only
    rw [hop, hrest, RedOp.ofCode_code]
    exact withMods_encMods m _ rfl rfl h
  · have fields : let w := encMods (0#18 ++ b1 excl ++ BitVec.ofNat 3 op.code) m
        bits w 10 3 = BitVec.ofNat 3 op.code ∧ bit w 13 = excl ∧ bits w 14 18 = 0#18 := by
      simp (disch := decide) only [encMods_spec, encMods_specBit, BitVec.extractLsb'_append_eq_of_le,
        BitVec.extractLsb'_append_eq_of_add_le, BitVec.extractLsb'_eq_self, BitVec.getLsbD_append, BitVec.getLsbD_ofBool,
        Nat.reduceSub, Nat.reduceLT, reduceIte, decide_true, Bool.true_and, and_self]
    obtain ⟨hop, hexcl, hrest⟩ := fields
    unfold decodeCrossLane
    dsimp only
    rw [hop, hexcl, hrest, RedOp.ofCode_code]
    exact withMods_encMods m _ rfl rfl h

/-! ### Lane instructions without a type -/

theorem decodes_vhsel {h0 h1 : BitVec 2} (h : (Instr.vhsel o h0 h1).wf = true) : (Instr.vhsel o h0 h1).Decodes := by
  refine fun rest => decodeCode_conv (by decide) ?_
  have fields : let w : Code := 0#18 ++ h1 ++ h0 ++ 0#10
      bits w 14 18 = 0#18 ∧ bits w 12 2 = h1 ∧ bits w 10 2 = h0 ∧ bits w 0 10 = 0#10 := by
    simp (disch := decide) only [BitVec.extractLsb'_append_eq_of_le, BitVec.extractLsb'_append_eq_of_add_le,
      BitVec.extractLsb'_eq_self, Nat.reduceSub, and_self]
  obtain ⟨hrest, hone, hzero, hlow⟩ := fields
  unfold decodeConvLane
  dsimp only
  rw [hrest, hone, hzero, hlow]
  exact plain_of_wf rfl h

/-- The forms that name one lane of the span. -/
theorem decodes_lane {n : BitVec 6} :
    ((Instr.vbcast o n).wf = true → (Instr.vbcast o n).Decodes) ∧
    ((Instr.vrot o n).wf = true → (Instr.vrot o n).Decodes) := by
  have fields : let w : Code := 0#16 ++ n ++ 0#10
      bits w 16 16 = 0#16 ∧ bits w 10 6 = n ∧ bits w 0 10 = 0#10 := by
    simp (disch := decide) only [BitVec.extractLsb'_append_eq_of_le, BitVec.extractLsb'_append_eq_of_add_le,
      BitVec.extractLsb'_eq_self, Nat.reduceSub, and_self]
  obtain ⟨hrest, hn, hlow⟩ := fields
  refine ⟨fun h rest => decodeCode_cross (by decide) ?_, fun h rest => decodeCode_cross (by decide) ?_⟩
  all_goals
    unfold decodeCrossLane
    dsimp only
    rw [hrest, hn, hlow]
    exact plain_of_wf rfl h

theorem decodes_vqswz {q0 q1 q2 q3 : BitVec 2} (h : (Instr.vqswz o q0 q1 q2 q3).wf = true) :
    (Instr.vqswz o q0 q1 q2 q3).Decodes := by
  refine fun rest => decodeCode_cross (by decide) ?_
  have fields : let w : Code := 0#14 ++ q3 ++ q2 ++ q1 ++ q0 ++ 0#10
      bits w 18 14 = 0#14 ∧ bits w 16 2 = q3 ∧ bits w 14 2 = q2 ∧ bits w 12 2 = q1 ∧ bits w 10 2 = q0 ∧
        bits w 0 10 = 0#10 := by
    simp (disch := decide) only [BitVec.extractLsb'_append_eq_of_le, BitVec.extractLsb'_append_eq_of_add_le,
      BitVec.extractLsb'_eq_self, Nat.reduceSub, and_self]
  obtain ⟨hrest, h3, h2, h1, h0, hlow⟩ := fields
  unfold decodeCrossLane
  dsimp only
  rw [hrest, h3, h2, h1, h0, hlow]
  exact plain_of_wf rfl h

theorem decodes_pset {x : Bool} (h : (Instr.pset o x).wf = true) : (Instr.pset o x).Decodes := by
  cases x <;> exact fun rest => decodeCode_mask (by decide) (plain_of_wf rfl h)

theorem decodes_vpf {m : MemMods} (h : (Instr.vpf o m).wf = true) : (Instr.vpf o m).Decodes := by
  refine fun rest => decodeCode_mem (by decide) ?_
  show plain (bits (encMemWord m 0) 0 10 == 0) (.vpf o (memMods (encMemWord m 0))) = _
  rw [encMemWord_untyped, memMods_encMemWord]
  exact plain_of_wf rfl h

theorem decodes_mma {reuse scl : Bool} (h : (Instr.mma o reuse scl).wf = true) : (Instr.mma o reuse scl).Decodes := by
  cases reuse <;> cases scl <;> exact fun rest => decodeCode_matrix (by decide) rfl (plain_of_wf rfl h)

theorem decodes_mmas {reuse scl : Bool} {vm : BitVec 10} (h : (Instr.mmas o reuse scl vm).wf = true) :
    (Instr.mmas o reuse scl vm).Decodes := by
  refine fun rest => decodeCode_matrix (by decide) (Bool.and_false _) ?_
  have fields : let w : Code := vm ++ 0#10 ++ b1 scl ++ 0#11
      bits w 22 10 = vm ∧ bits w 12 10 = 0#10 ∧ bit w 11 = scl ∧ bit w 10 = (0#11).getLsbD 10 ∧
        bits w 0 10 = (0#11).extractLsb' 0 10 := by
    simp (disch := decide) only [BitVec.extractLsb'_append_eq_of_le, BitVec.extractLsb'_append_eq_of_add_le,
      BitVec.extractLsb'_eq_self, BitVec.getLsbD_append, BitVec.getLsbD_ofBool, Nat.reduceSub, Nat.reduceLT, reduceIte,
      decide_true, Bool.true_and, and_self]
  obtain ⟨hvm, hmid, hscl, hten, hlow⟩ := fields
  unfold decodeMatrixLane
  rw [hvm, hmid, hscl, hten, hlow]
  exact plain_of_wf rfl h

theorem decodes_vspk {ty : ElemTy} (h : (Instr.vspk o ty).wf = true) : (Instr.vspk o ty).Decodes := by
  cases ty <;> exact fun rest => decodeCode_matrix (by decide) rfl (plain_of_wf rfl h)

end lane

/-! ### Every instruction -/

/-- The immediate of a shift in walk code (R402): the amount, and the direction above it. -/
theorem walkShift_fields (x : BitVec 11) (n : BitVec 6) :
    (x ++ n).getLsbD 6 = x.getLsbD 0 ∧ (x ++ n).extractLsb' 7 10 = x.extractLsb' 1 10 ∧ (x ++ n).extractLsb' 0 6 = n := by
  simp (disch := decide) only [BitVec.extractLsb'_append_eq_of_le, BitVec.extractLsb'_append_eq_of_add_le,
    BitVec.extractLsb'_eq_self, BitVec.getLsbD_append, Nat.reduceSub, Nat.reduceLT, reduceIte, and_self]

/-- The immediate of `fld` (R402). -/
theorem walkFld_fields (sx : Bool) (s : BitVec 2) (off : BitVec 8) : let imm := 0#6 ++ b1 sx ++ s ++ off
    imm.extractLsb' 11 6 = 0#6 ∧ imm.getLsbD 10 = sx ∧ imm.extractLsb' 8 2 = s ∧ imm.extractLsb' 0 8 = off := by
  simp (disch := decide) only [BitVec.extractLsb'_append_eq_of_le, BitVec.extractLsb'_append_eq_of_add_le,
    BitVec.extractLsb'_eq_self, BitVec.getLsbD_append, BitVec.getLsbD_ofBool, Nat.reduceSub, Nat.reduceLT, reduceIte,
    decide_true, Bool.true_and, and_self]

/-- The immediate of `emit` to a ring (R407). -/
theorem walkEmitRing_fields (n : BitVec 4) : let imm := 0#12 ++ n ++ 0#1
    imm.extractLsb' 5 12 = 0#12 ∧ imm.getLsbD 0 = false ∧ imm.extractLsb' 1 4 = n := by
  simp (disch := decide) only [BitVec.extractLsb'_append_eq_of_le, BitVec.extractLsb'_append_eq_of_add_le,
    BitVec.extractLsb'_eq_self, BitVec.getLsbD_append, BitVec.getLsbD_zero, Nat.reduceSub, Nat.reduceLT, reduceIte,
    and_self]

/-- An operation of walk code is one word of its own stream. -/
theorem decodeWalk_encode {i : Instr} (hw : Instr.ofWalk i = true) (h : i.wf = true) :
    ∃ n, encode i = [n] ∧ decodeWalk n = .ok i := by
  cases i with
  | walkDone | walkFetch | walkChild | walkBox4 | walkTri | walkCommit | walkPush | walkPop | walkAdd | walkAddi | walkSub
  | walkAnd | walkMovi | walkYield =>
    refine ⟨walkWord _ _ _ _ _, rfl, ?_⟩
    unfold decodeWalk
    simp only [walkWord_fields]
    rfl
  | walkFld d sx s off =>
    refine ⟨walkWord 0x02 d 0 0 (0#6 ++ b1 sx ++ s ++ off), rfl, ?_⟩
    obtain ⟨hrest, hsx, hs, hoff⟩ := walkFld_fields sx s off
    unfold decodeWalk
    simp (disch := decide) only [walkWord_fields, walkWord_imm, walkWord_immBit, hrest, hsx, hs, hoff]
    rfl
  | walkEdge3 d a lg =>
    refine ⟨walkWord 0x07 d a 0 (0#14 ++ lg), rfl, ?_⟩
    have hrest : (0#14 ++ lg).extractLsb' 3 14 = 0#14 := BitVec.extractLsb'_append_eq_left
    have hlg : (0#14 ++ lg).extractLsb' 0 3 = lg := BitVec.extractLsb'_append_eq_right
    unfold decodeWalk
    simp (disch := decide) only [walkWord_fields, walkWord_imm, hrest, hlg]
    exact legal_of_wf h
  | walkEmitRing a n =>
    refine ⟨walkWord 0x08 0 a 0 (0#12 ++ n ++ 0#1), rfl, ?_⟩
    obtain ⟨hrest, hvis, hn⟩ := walkEmitRing_fields n
    unfold decodeWalk
    simp (disch := decide) only [walkWord_fields, walkWord_imm, walkWord_immBit, hrest, hvis, hn]
    rfl
  | walkEmitVis a =>
    refine ⟨walkWord 0x08 0 a 0 1, rfl, ?_⟩
    unfold decodeWalk
    simp (disch := decide) only [walkWord_fields, walkWord_imm, walkWord_immBit]
    rfl
  | walkShl d a n | walkShr d a n =>
    refine ⟨walkWord 0x0F d a 0 (_ ++ n), rfl, ?_⟩
    unfold decodeWalk
    simp (disch := decide) only [walkWord_fields, walkWord_imm, walkWord_immBit, walkShift_fields]
    rfl
  | walkCmp d a b c =>
    refine ⟨walkWord 0x10 d a b (0#14 ++ BitVec.ofNat 3 c.code), rfl, ?_⟩
    have hrest : (0#14 ++ BitVec.ofNat 3 c.code).extractLsb' 3 14 = 0#14 := BitVec.extractLsb'_append_eq_left
    have hc : (0#14 ++ BitVec.ofNat 3 c.code).extractLsb' 0 3 = BitVec.ofNat 3 c.code :=
      BitVec.extractLsb'_append_eq_right
    unfold decodeWalk
    simp (disch := decide) only [walkWord_fields, walkWord_imm, hrest, hc, WalkCond.ofCode_code]
    rfl
  | walkJmp l | walkJz a l | walkJnz a l =>
    refine ⟨walkWord _ _ _ _ (0#9 ++ l), rfl, ?_⟩
    have hrest : (0#9 ++ l).extractLsb' 8 9 = 0#9 := BitVec.extractLsb'_append_eq_left
    have hl : (0#9 ++ l).extractLsb' 0 8 = l := BitVec.extractLsb'_append_eq_right
    unfold decodeWalk
    simp (disch := decide) only [walkWord_fields, walkWord_imm, hrest, hl]
    rfl
  | _ => cases hw

theorem decodes_of_code {i : Instr} (hc : encode i ≠ []) (hw : Instr.ofWalk i = false) (h : i.wf = true) : i.Decodes := by
  cases i with
  | sadd | ssub | smul | smulhI64 | smulhN64 | sand | sor | sxor | sshl | sshrN64 | sshrI64 | sminI64 | sminN64 | smaxI64
  | smaxN64 | sdivI64 | sdivN64 | sremI64 | sremN64 | spopc | sclz | sctz => exact decodes_alu rfl rfl
  | sshli => exact decodes_shift.1
  | sshriN64 => exact decodes_shift.2.1
  | sshriI64 => exact decodes_shift.2.2
  | scmpEq | scmpNe | scmpI64Lt | scmpI64Ge | scmpN64Lt | scmpN64Ge => exact decodes_cmp rfl rfl
  | ssel => exact decodes_ssel
  | saddi | sandi | sori | sxori | sldN64 | sldN32 | sldI32 | sstN64 | sstN32 | sldN64Yield =>
    exact decodes_immediate (x := (_, _)) (by unfold immediateOps; simp) rfl
  | sli => exact decodes_sli
  | slui => exact decodes_upper.1
  | spcui => exact decodes_upper.2
  | sgetr => exact (decodes_sgetr (idx := 0)).1 (bne_iff_ne.mp h)
  | sgetrQpc => exact (decodes_sgetr (num := 0)).2
  | ssetr => exact decodes_ssetr
  | b | bmz | bmnz | bmall | bmnall | bcall => exact decodes_branch (by decide) rfl rfl
  | bz => exact decodes_zero.1
  | bnz => exact decodes_zero.2
  | bjr | bcallr | snop | snopProgress | exit | tret | tretDecline | mrel | sstampOpen | sstampClose =>
    exact decodes_control (by decide) rfl rfl
  | trap => exact decodes_trap
  | satomAdd | satomSwap | satomAnd | satomOr | satomXor | satomMinI64 | satomMinN64 | satomMaxI64 | satomMaxN64
  | satomCas => exact decodes_atom rfl rfl
  | dzero | spfL2 | spfL1 => exact decodes_line (fun _ _ => rfl) rfl
  | cadd | caddRel | cget | cgetAcq | cgetTeam | bar | fenceRel | fenceAcq | fenceAr | ifence | kset | kfill | kfree =>
    exact decodes_sync (by decide) (fun _ => rfl) rfl
  | qfence => exact decodes_qfence
  | cwait sa sb acq => cases acq <;> exact decodes_wait (by decide) (by exact legal_of_wf h) rfl
  | cwaitSt sd sa sb acq => cases acq <;> exact decodes_wait (by decide) (by exact legal_of_wf h) rfl
  | kwaitFree | kwaitFull | kwaitFreeSt | kwaitFullSt => exact decodes_wait (by decide) (by exact legal_of_wf h) rfl
  | cpy | qwait | qadd => exact decodes_engine rfl rfl
  | sfmt => exact decodes_sfmt h
  | clauseHeader => exact fun _ => decodeCode_encHeader _ h
  | vaddInt | vsubInt | vmulInt | vmulh | vmad | vminInt | vmaxInt | vabsInt | vand | vor | vxor | vnot | vpopc | vclz | vsel
  | vdot4 => exact fun _ => decodeCode_int (by decide) (withMods_noSpec h)
  | vshl => exact fun _ => decodeCode_int (by decide) (withMods_amount (f := .vshl _) h)
  | vshr => exact fun _ => decodeCode_int (by decide) (withMods_amount (f := .vshr _) h)
  | vrshr => exact decodes_vrshr h
  | vbfe => exact decodes_vbfe h
  | vcmpInt => exact decodes_compare.1 h
  | vcmpFp => exact decodes_compare.2 h
  | vaddIntImm | vmulIntImm | vandImm | vorImm | vxorImm | vmovImm =>
    exact fun _ => decodeCode_int (by decide) (legal_of_wf h)
  | vcmpIntImm => exact decodes_compareImmediate.1 h
  | vcmpF32Imm => exact (decodes_compareImmediate (uns := false)).2 h
  | vaddFp | vsubFp | vmulFp | vfma | vfnma | vminFp | vmaxFp | vabsFp | vneg | vcopysign | vdiv | vsqrt | vrcp | vrsqrt
  | vrint | vclip | vclamp | vsign | vclass | vldexp | vgetexp | vlerp | vexp2 | vlog2 | vsinpi | vcospi =>
    exact fun _ => decodeCode_fp (by decide) (withMods_noSpec h)
  | vaddF32Imm | vmulF32Imm | vfmaF32Imm | vmaxF32Imm => exact fun _ => decodeCode_fp (by decide) (legal_of_wf h)
  | vcvt => exact decodes_vcvt h
  | vpack | vunpack | vcvt2 | vadd2 | vsub2 | vmul2 | vfma2 | vmin2 | vmax2 | vdot2 =>
    exact fun _ => decodeCode_conv (by decide) (withMods_noSpec h)
  | vshl2 => exact fun _ => decodeCode_conv (by decide) (withMods_amount (f := .vshl2 _) h)
  | vshr2 => exact fun _ => decodeCode_conv (by decide) (withMods_amount (f := .vshr2 _) h)
  | vhsel => exact decodes_vhsel h
  | vred => exact (decodes_reduce (excl := false)).1 h
  | vscan => exact decodes_reduce.2 h
  | vshuf | vballot | vcount | vfind => exact fun _ => decodeCode_cross (by decide) (plain_of_wf rfl h)
  | vbcast => exact decodes_lane.1 h
  | vrot => exact decodes_lane.2 h
  | vqswz => exact decodes_vqswz h
  | vappend => exact fun _ => decodeCode_cross (by decide) (legal_of_wf h)
  | pand | por | pxor | pandn | pnot | pfroms | ptos | pmand | pmandn | pmor | pmset | pmtos | pmtop | jset | jarr | jdrop
  | jwait => exact fun _ => decodeCode_mask (by decide) (plain_of_wf rfl h)
  | pset => exact decodes_pset h
  | jst | jld => exact fun _ => decodeCode_mask (by decide) (legal_of_wf h)
  | vld | vst | vlds | vsts | vatomAdd | vatomSwap | vatomAnd | vatomOr | vatomXor | vatomMin | vatomMax | vatomCas =>
    exact fun _ => decodeCode_mem (by decide) (withMem_encMemWord _ h)
  | vpf => exact decodes_vpf h
  | vaccAdd | vaccMin | vaccMax => exact fun _ => decodeCode_mem (by decide) (withAcc_encMemWord _ h)
  | rflush => exact fun _ => decodeCode_mem (by decide) (plain_of_wf rfl h)
  | mma => exact decodes_mma h
  | mmas => exact decodes_mmas h
  | vspk => exact decodes_vspk h
  | wstart | wresume | texPoint | texBilinear | texTrilinear | texGather | texf | texsz =>
    exact fun _ => decodeCode_matrix (by decide) rfl (plain_of_wf rfl h)
  | lnestCopy | lnestAdd | lnestSub | lnestMul | lnestFma | lnestMin | lnestMax | lnestSum | lnestDot | lnestRmax
  | lnestRmin => exact fun _ => decodeCode_encNest _ _ (Nest.ty_of_form h) rfl h
  | walkDone | walkFetch | walkFld | walkChild | walkBox4 | walkTri | walkCommit | walkEdge3 | walkEmitRing | walkEmitVis
  | walkPush | walkPop | walkAdd | walkAddi | walkSub | walkAnd | walkShl | walkShr | walkCmp | walkMovi | walkJmp | walkJz
  | walkJnz | walkYield => cases hw
  | _ => exact absurd rfl hc

/-- Settles O54: the code decoder reads each format back field by field, and an operation of walk code is one word. -/
theorem decodeEncode : Obligations.DecodeEncode := by
  unfold Obligations.DecodeEncode
  intro i hwf hcode
  cases hw : Instr.ofWalk i with
  | true => exact .inl (decodeWalk_encode hw hwf)
  | false => exact .inr (decodes_of_code hcode hw hwf)

end Sys2Proof
end


section
/-! Scalar arithmetic (O1, O2; R299, R300): what each operation of the register ALU computes, over the integers that its
operands stand for. -/

namespace Sys2Proof.Machine

variable {s : State} {g : GangRef} {sd sa sb : SReg} {i : Instr}

/-! ### Products, differences and shifts -/

theorem sub_eq_ofInt (a b : Word) : a - b = BitVec.ofInt 64 (a.toInt - b.toInt) := by
  rw [Int.sub_eq_add_neg, BitVec.ofInt_add, BitVec.ofInt_neg, BitVec.ofInt_toInt, BitVec.ofInt_toInt, BitVec.sub_eq_add_neg]

theorem mulhS_eq (a b : Word) : mulhS a b = BitVec.ofInt 64 (a.toInt * b.toInt / 2 ^ 64) := by
  have product : a.signExtend 128 * b.signExtend 128 = BitVec.ofInt 128 (a.toInt * b.toInt) :=
    (BitVec.ofInt_mul _ _).symm
  apply BitVec.eq_of_toNat_eq
  rw [mulhS, product, BitVec.extractLsb'_toNat, Nat.shiftRight_eq_div_pow, BitVec.toNat_ofInt, BitVec.toNat_ofInt]
  generalize a.toInt * b.toInt = z
  omega

theorem mulhU_eq (a b : Word) : mulhU a b = BitVec.ofNat 64 (a.toNat * b.toNat / 2 ^ 64) := by
  have small : a.toNat * b.toNat < 2 ^ 64 * 2 ^ 64 := Nat.mul_lt_mul'' a.isLt b.isLt
  apply BitVec.eq_of_toNat_eq
  rw [mulhU, BitVec.extractLsb'_toNat, Nat.shiftRight_eq_div_pow, BitVec.toNat_mul, BitVec.toNat_setWidth,
    BitVec.toNat_setWidth, BitVec.toNat_ofNat, Nat.mod_eq_of_lt (a.isLt.trans (by decide)),
    Nat.mod_eq_of_lt (b.isLt.trans (by decide)), Nat.mod_eq_of_lt (small.trans_eq (by decide))]

theorem amount_eq (b : Word) : amount b = b.toNat % 64 := by
  rw [amount, BitVec.extractLsb'_toNat]
  rfl

/-! ### The lesser and the greater -/

theorem minS_eq (a b : Word) : (if b.slt a then b else a) = BitVec.ofInt 64 (min a.toInt b.toInt) := by
  rw [BitVec.slt_eq_decide]
  by_cases less : b.toInt < a.toInt
  · rw [if_pos (decide_eq_true less), min_eq_right less.le, BitVec.ofInt_toInt]
  · rw [if_neg (by simpa using less), min_eq_left (not_lt.mp less), BitVec.ofInt_toInt]

theorem maxS_eq (a b : Word) : (if a.slt b then b else a) = BitVec.ofInt 64 (max a.toInt b.toInt) := by
  rw [BitVec.slt_eq_decide]
  by_cases less : a.toInt < b.toInt
  · rw [if_pos (decide_eq_true less), max_eq_right less.le, BitVec.ofInt_toInt]
  · rw [if_neg (by simpa using less), max_eq_left (not_lt.mp less), BitVec.ofInt_toInt]

theorem minU_eq (a b : Word) : (if b < a then b else a) = BitVec.ofNat 64 (min a.toNat b.toNat) := by
  by_cases less : b < a
  · rw [if_pos less, min_eq_right (BitVec.lt_def.mp less).le, BitVec.ofNat_toNat, BitVec.setWidth_eq]
  · rw [if_neg less, min_eq_left (not_lt.mp less), BitVec.ofNat_toNat, BitVec.setWidth_eq]

theorem maxU_eq (a b : Word) : (if a < b then b else a) = BitVec.ofNat 64 (max a.toNat b.toNat) := by
  by_cases less : a < b
  · rw [if_pos less, max_eq_right (BitVec.lt_def.mp less).le, BitVec.ofNat_toNat, BitVec.setWidth_eq]
  · rw [if_neg less, max_eq_left (not_lt.mp less), BitVec.ofNat_toNat, BitVec.setWidth_eq]

/-! ### Quotients and remainders -/

/-- The quotient of the least integer by -1 alone is too large for a register. -/
theorem divS_edge {a b : Word} (ha : a.toInt = -2 ^ 63) (hb : b.toInt = -1) :
    divS a b = BitVec.ofInt 64 (-2 ^ 63) ∧ remS a b = 0 := by
  have some_ : b ≠ 0 := by rintro rfl; cases hb
  rw [divS, remS, if_neg some_, if_neg some_, ha, hb]
  exact ⟨rfl, rfl⟩

theorem divS_eq {a b : Word} (some_ : b ≠ 0) : divS a b = a.sdiv b :=
  BitVec.eq_of_toInt_eq (by rw [divS, if_neg some_, BitVec.toInt_ofInt, BitVec.toInt_sdiv])

theorem remS_eq {a b : Word} (some_ : b ≠ 0) : remS a b = a.srem b := by
  rw [remS, if_neg some_, ← BitVec.toInt_srem, BitVec.ofInt_toInt]

theorem divS_toInt {a b : Word} (some_ : b ≠ 0) (h : ¬ (a.toInt = -2 ^ 63 ∧ b.toInt = -1)) :
    (divS a b).toInt = a.toInt.tdiv b.toInt := by
  rw [divS_eq some_]
  refine BitVec.toInt_sdiv_of_ne_or_ne a b ?_
  rw [← not_and_or]
  rintro ⟨rfl, rfl⟩
  exact h ⟨rfl, rfl⟩

theorem remS_toInt {a b : Word} (some_ : b ≠ 0) (h : ¬ (a.toInt = -2 ^ 63 ∧ b.toInt = -1)) :
    (remS a b).toInt = a.toInt - b.toInt * (divS a b).toInt := by
  rw [remS_eq some_, BitVec.toInt_srem, divS_toInt some_ h, Int.tmod_def]

theorem divU_toNat {a b : Word} (some_ : b ≠ 0) : (divU a b).toNat = a.toNat / b.toNat := by
  rw [divU, if_neg some_, BitVec.toNat_ofNat, Nat.mod_eq_of_lt ((Nat.div_le_self _ _).trans_lt a.isLt)]

theorem remU_toNat {a b : Word} (some_ : b ≠ 0) : (remU a b).toNat = a.toNat - b.toNat * (divU a b).toNat := by
  rw [divU_toNat some_, ← Nat.mod_eq_sub_mul_div, remU, if_neg some_, BitVec.toNat_ofNat,
    Nat.mod_eq_of_lt ((Nat.mod_le _ _).trans_lt a.isLt)]

/-! ### Counts of bits -/

/-- Counting bits from the lowest up is counting them from the highest down. -/
theorem popCount_prefix {n : Nat} (a : BitVec n) (k : Nat) :
    (upTo k).foldl (fun k i => if a.getLsbD i then k + 1 else k) 0 = a.cpopNatRec k 0 := by
  induction k with
  | zero => rfl
  | succ k ih =>
    rw [upTo, List.range_succ, List.foldl_append, List.foldl_cons, List.foldl_nil, ih, BitVec.cpopNatRec_succ,
      BitVec.cpopNatRec_eq (acc := _ + _)]
    cases a.getLsbD k <;> rfl

theorem popCount_eq (a : Word) : BitVec.ofNat 64 (popCount a) = a.cpop :=
  congrArg (BitVec.ofNat 64) (popCount_prefix a 64)

/-- Below bit k + 1, the highest 1 bit places the leading zeros. -/
theorem leadZeros_prefix {n : Nat} (a : BitVec n) (k : Nat) :
    BitVec.ofNat n ((upTo (k + 1)).foldl (fun m i => if a.getLsbD i then n - 1 - i else m) n) = a.clzAuxRec k := by
  induction k with
  | zero =>
    rw [BitVec.clzAuxRec_zero]
    exact apply_ite (BitVec.ofNat n) ..
  | succ k ih =>
    rw [upTo, List.range_succ, List.foldl_append, List.foldl_cons, List.foldl_nil, BitVec.clzAuxRec_succ, ← ih]
    exact apply_ite (BitVec.ofNat n) ..

theorem leadZeros_eq (a : Word) : BitVec.ofNat 64 (leadZeros a) = a.clz := leadZeros_prefix a 63

/-- From bit n - 1 - k up, the lowest 1 bit places the trailing zeros. -/
theorem trailZeros_suffix {n : Nat} (a : BitVec n) (k : Nat) (h : k < n) :
    BitVec.ofNat n ((List.range' (n - 1 - k) (k + 1)).foldr (fun i m => if a.getLsbD i then i else m) n) =
      a.reverse.clzAuxRec k := by
  have bit : a.reverse.getLsbD k = a.getLsbD (n - 1 - k) := by
    rw [BitVec.getLsbD_reverse, BitVec.getMsbD, decide_eq_true h, Bool.true_and]
  cases k with
  | zero =>
    rw [BitVec.clzAuxRec_zero, bit]
    exact apply_ite (BitVec.ofNat n) ..
  | succ k =>
    have next : n - 1 - (k + 1) + 1 = n - 1 - k := by omega
    rw [List.range'_succ, List.foldr_cons, BitVec.clzAuxRec_succ, bit, next, ← trailZeros_suffix a k (by omega)]
    exact apply_ite (BitVec.ofNat n) ..

theorem trailZeros_eq (a : Word) : BitVec.ofNat 64 (trailZeros a) = a.ctz := by
  rw [trailZeros, upTo, List.range_eq_range']
  exact trailZeros_suffix a 63 (by decide)

/-! ### The instructions -/

/-- Settles O1: each form writes its register (`scalarWrite_completes`), and its operation is the one over the integers. -/
theorem scalarAluForms : Obligations.ScalarAlu := by
  intro s g sd sa sb issues writes
  have put {i : Instr} (f : Word → Word → Word) {r : Word → Word → Word} (does : exec i s = scalarAlu s sd sa sb f)
      (same : ∀ a b, f a b = r a b) : writes i r := scalarWrite_completes does issues fun _ => same _ _
  have add (a b : Word) : a + b = BitVec.ofNat 64 (a.toNat + b.toNat) := rfl
  have mul (a b : Word) : a * b = BitVec.ofNat 64 (a.toNat * b.toNat) := rfl
  have shl (a b : Word) : a <<< amount b = BitVec.ofNat 64 (a.toNat * 2 ^ (b.toNat % 64)) := by
    rw [amount_eq, shiftLeft_eq_ofNat_mul]
  have shr (a b : Word) : a >>> amount b = BitVec.ofNat 64 (a.toNat / 2 ^ (b.toNat % 64)) := by
    rw [amount_eq, ushiftRight_eq_ofNat_div]
  have sar (a b : Word) : a.sshiftRight (amount b) = BitVec.ofInt 64 (a.toInt / 2 ^ (b.toNat % 64)) := by
    rw [amount_eq, sshiftRight_eq_ofInt_div]
  exact ⟨put _ rfl add, put _ rfl sub_eq_ofInt, put _ rfl mul, put _ rfl mulhS_eq, put _ rfl mulhU_eq,
    put _ rfl fun _ _ => rfl, put _ rfl fun _ _ => rfl, put _ rfl fun _ _ => rfl, put _ rfl shl, put _ rfl shr,
    put _ rfl sar, put _ rfl minS_eq, put _ rfl minU_eq, put _ rfl maxS_eq, put _ rfl maxU_eq,
    put (fun a _ => BitVec.ofNat 64 (popCount a)) rfl fun a _ => popCount_eq a,
    put (fun a _ => BitVec.ofNat 64 (leadZeros a)) rfl fun a _ => leadZeros_eq a,
    put (fun a _ => BitVec.ofNat 64 (trailZeros a)) rfl fun a _ => trailZeros_eq a⟩

/-- Settles O2: the quotient is that of the integers truncated towards zero, but where it does not fit or the divisor is 0. -/
theorem scalarDivision : Obligations.ScalarDivision := by
  intro s g sd sa sb issues writes edge
  have put {i : Instr} {f : Word → Word → Word} (does : exec i s = scalarAlu s sd sa sb f) : writes i f :=
    scalarWrite_completes does issues fun _ => rfl
  refine ⟨divS, remS, divU, remU, put rfl, put rfl, put rfl, put rfl, ?zero, ?edge, ?signed, ?unsigned⟩
  case zero => exact fun a b none_ => ⟨if_pos none_, if_pos none_, if_pos none_, if_pos none_⟩
  case edge => exact fun a b h => divS_edge h.1 h.2
  case signed => exact fun a b some_ h => ⟨divS_toInt some_ h, remS_toInt some_ h⟩
  case unsigned => exact fun a b some_ => ⟨divU_toNat some_, remU_toNat some_⟩

end Sys2Proof.Machine
end

section
/-! Branches and traps that an instruction raises or leaves (O6, O8, O9; R307 to R313, R415, R416). -/

namespace Sys2Proof.Machine

variable {s t : State} {g : GangRef}

/-! ### Effects one after another -/

/-- A further change of the gang's quads adds to an effect. -/
theorem Effect.mapGang {dog fuse : BitVec 32} {hits : List Nat} {f : Nat → Quad → Quad} (h : Effect s t g dog fuse hits f)
    (k : Nat → Quad → Quad) (he : ∀ n q, (f n q).exited = q.exited) :
    Effect s (t.mapGang g k) g dog fuse hits fun n q => k n (f n q) where
  toOutside := h.toOutside.trans (outside_mapGang t g k)
  dog hw := by rw [t.waveOf_mapGang]; exact h.dog hw
  hits hw := by rw [t.waveOf_mapGang]; exact h.hits hw
  fuse hw := by rw [t.waveOf_mapGang]; exact h.fuse hw
  exited n hx := by rw [t.quadOf_mapGang, h.exited n hx, hx]; simp
  each n hn hl hx := by
    rw [t.quadOf_mapGang, h.each n hn hl hx, he, if_pos ⟨hn, h.quads ▸ hl, hx⟩]

/-- One effect after another. -/
theorem Effect.trans {u : State} {d₁ d₂ f₁ f₂ : BitVec 32} {h₁ h₂ : List Nat} {f k : Nat → Quad → Quad}
    (a : Effect s t g d₁ f₁ h₁ f) (b : Effect t u g d₂ f₂ h₂ k) (he : ∀ n q, (f n q).exited = q.exited) :
    Effect s u g d₂ f₂ h₂ fun n q => k n (f n q) where
  toOutside := a.toOutside.trans b.toOutside
  dog hw := b.dog (a.waves ▸ hw)
  hits hw := b.hits (a.waves ▸ hw)
  fuse hw := b.fuse (a.waves ▸ hw)
  exited n hx := by rw [b.exited n (by rw [a.exited n hx, hx]), a.exited n hx]
  each n hn hl hx := by
    have first := a.each n hn hl hx
    rw [b.each n hn (a.quads ▸ hl) (by rw [first, he, hx]), first]

theorem quadOf_account (s : State) (g : GangRef) (cost : Nat) (mode : DogMode) (n : Nat) :
    (s.account g cost mode).quadOf g n = s.quadOf g n := by
  obtain ⟨u, account, -, teams⟩ := account_eq s g cost mode
  rw [account, watchdog_quad, quadOf_congr teams]

/-- The accounts of an issue that counts (R420). -/
theorem account_effect (s : State) (g : GangRef) (cost : Nat) :
    Effect s (s.account g cost .count) g (dogNext s g) (s.waveOf g).fusest (dogHits s g) fun _ q => q := by
  obtain ⟨u, account, outside, teams⟩ := account_eq s g cost .count
  have quad := quadOf_account s g cost .count
  have wave (hw : g.w < (s.teamOf g).waves.length) := watchdog_count_wave u g (outside.waves ▸ hw)
  refine { toOutside := outside_account s g cost .count, dog := fun hw => ?_, hits := fun hw => ?_, fuse := fun hw => ?_,
           exited := fun n _ => quad n, each := fun n _ _ _ => quad n }
  · rw [account, (wave hw).1, dogNext_congr g teams]
  · rw [account, (wave hw).2.2, dogHits_congr g teams]
  · rw [account, (wave hw).2.1, waveOf_congr teams]

/-- WDOG stands still in a gang that runs a handler (R420). -/
theorem dog_stands (h : ∃ n ∈ g.quads, (s.quadOf g n).inHandler = true) :
    dogNext s g = (s.waveOf g).wdog ∧ dogHits s g = (s.waveOf g).dog := by
  have stands : dogRuns s g = false := by
    unfold dogRuns
    rw [List.any_eq_true.mpr h]
    simp
  unfold dogNext dogHits
  rw [stands]
  exact ⟨rfl, rfl⟩

theorem dogNext_mapGang (f : Nat → Quad → Quad) (hh : ∀ n q, (f n q).inHandler = q.inHandler) :
    dogNext (s.mapGang g f) g = dogNext s g ∧ dogHits (s.mapGang g f) g = dogHits s g := by
  unfold dogNext dogHits
  rw [dogRuns_mapGang s g f hh, s.teamOf_mapGang, s.waveOf_mapGang]
  exact ⟨rfl, rfl⟩

/-- A change of the quads and the accounts of its issue. -/
theorem issued_effect (f : Nat → Quad → Quad) (cost : Nat) (hh : ∀ n q, (f n q).inHandler = q.inHandler)
    (he : ∀ n q, (f n q).exited = q.exited) :
    Effect s ((s.mapGang g f).account g cost .count) g (dogNext s g) (s.waveOf g).fusest (dogHits s g) f := by
  have account := account_effect (s.mapGang g f) g cost
  rw [(dogNext_mapGang f hh).1, (dogNext_mapGang f hh).2, s.waveOf_mapGang] at account
  exact (mapGang_effect f).trans account he

theorem firstQuad_mem (g : GangRef) : g.base ∈ g.quads :=
  (g.mem_quads _).2 ⟨Nat.le_refl _, Nat.lt_add_of_pos_right (Nat.two_pow_pos _)⟩

/-! ### Branches -/


theorem toNat_low2 (x : Word) : x.extractLsb' 0 2 = 0 ↔ x.toNat % 4 = 0 := by
  rw [← BitVec.toNat_inj, BitVec.extractLsb'_toNat]
  simp

/-- An offset in words, as the bytes it stands for (R280). -/
theorem wordOffset_eq {w : Nat} (off : BitVec w) : (sext off : Word) <<< 2 = BitVec.ofInt 64 (4 * off.toInt) := by
  have four : (sext off : Word) <<< 2 = 4#64 * sext off := by
    rw [BitVec.shiftLeft_eq_mul_twoPow, BitVec.mul_comm]
    rfl
  have whole : (sext off : Word) = BitVec.ofInt 64 off.toInt := rfl
  rw [four, whole, BitVec.ofInt_mul]
  rfl

section
variable {i : Instr} {taken : Quad → Bool} {target : Quad → Word} {link : Quad → Quad} (hg : s.issuing = some g)
include hg

/-- A branch in terms of what the statement says of it: the quads for which `p` holds go to their targets. -/
theorem branch_completes {p : Quad → Prop} [DecidablePred p] {f : Quad → Quad} (does : exec i s = branchStep s taken target link)
    (hh : ∀ q, (link q).inHandler = q.inHandler) (tells : ∀ q, taken q = true ↔ p q)
    (same : ∀ q, (link q).jump (target q) = f q) :
    Completes i s g fun _ q => if p q then f q else q.advance 1 := by
  obtain ⟨t, next, effect⟩ := branchStep_effect hg taken target link hh
  refine ⟨t, does.trans next, effect.congr fun n _ => ?_⟩
  rw [same]
  exact if_congr (tells _) rfl rfl

/-- A transfer of every quad. -/
theorem transfer_completes {f : Quad → Quad} (does : exec i s = branchStep s (fun _ => true) target link)
    (hh : ∀ q, (link q).inHandler = q.inHandler) (same : ∀ q, (link q).jump (target q) = f q) :
    Completes i s g fun _ q => f q := by
  obtain ⟨t, next, effect⟩ := branchStep_effect hg (fun _ => true) target link hh
  exact ⟨t, does.trans next, effect.congr fun n _ => same _⟩

/-- A register branch whose targets are aligned is a transfer of every quad (R309). -/
theorem registerBranch_aligned {sa : SReg} (aligned : ∀ n ∈ g.quads, ((s.quadOf g n).rs sa).toNat % 4 = 0) :
    registerBranch s sa link = branchStep s (fun _ => true) (fun q => q.rs sa) link := by
  have good : (g.quads.find? fun n => ((s.quadOf g n).rs sa).extractLsb' 0 2 != 0) = none :=
    List.find?_eq_none.mpr fun n hn => by simpa using (toNat_low2 _).mpr (aligned n hn)
  unfold registerBranch
  rw [hg]
  dsimp only
  rw [good]

/-- A register branch whose lowest misaligned target is quad `n`'s (R309). -/
theorem registerBranch_misaligned {sa : SReg} {n : Nat} (hn : n ∈ g.quads) (bad : ((s.quadOf g n).rs sa).toNat % 4 ≠ 0)
    (lowest : ∀ k ∈ g.quads, k < n → ((s.quadOf g k).rs sa).toNat % 4 = 0) :
    registerBranch s sa link = .next (s.trap g .alignment ((s.quadOf g n).rs sa)
      (fun k => if ((s.quadOf g k).rs sa).toNat % 4 = 0 then 0 else 0xF) 1) := by
  have first : (g.quads.find? fun k => ((s.quadOf g k).rs sa).extractLsb' 0 2 != 0) = some n := by
    cases found : g.quads.find? fun k => ((s.quadOf g k).rs sa).extractLsb' 0 2 != 0 with
    | none => exact absurd ((toNat_low2 _).mp (by simpa using List.find?_eq_none.mp found n hn)) bad
    | some k =>
      obtain ⟨fails, before, after, cut, passes⟩ := List.find?_eq_some_iff_append.mp found
      have rising := g.quads_rising
      rw [cut] at hn rising
      have kn : k ≤ n := by
        rcases List.mem_append.mp hn with early | late
        · exact absurd ((toNat_low2 _).mp (by simpa using passes n early)) bad
        · rcases List.mem_cons.mp late with rfl | late
          · exact Nat.le_refl _
          · exact ((List.pairwise_cons.mp (List.pairwise_append.mp rising).2.1).1 n late).le
      obtain same | less := kn.eq_or_lt
      · rw [same]
      · have good := lowest k (cut ▸ List.mem_append_right _ List.mem_cons_self) less
        exact absurd ((toNat_low2 _).mpr good) (by simpa using fails)
  have lanes : failing (fun k => ((s.quadOf g k).rs sa).extractLsb' 0 2 != 0) =
      fun k => if ((s.quadOf g k).rs sa).toNat % 4 = 0 then 0 else 0xF := by
    funext k
    unfold failing
    by_cases h : ((s.quadOf g k).rs sa).toNat % 4 = 0
    · rw [if_pos h, if_neg (by simpa using (toNat_low2 _).mpr h)]
    · rw [if_neg h, if_pos (by simpa [← toNat_low2] using h)]
  unfold registerBranch
  rw [hg]
  dsimp only
  rw [first, lanes]

end

/-- Settles O6: each branch is a transfer of the quads that take it (`branch_completes`); a register target is checked in every
quad first (`registerBranch_misaligned`). -/
theorem branches : Obligations.Branches := by
  refine ⟨fun s g off sd sa imm hg => ?_, fun s g sd sa n hg hn bad lowest i form => ?_, fun s g hg => ⟨?_, ?_⟩⟩
  · intro far near goes
    have there (q : Quad) : q.jump (q.target off) = goes q (far q) := by
      simp only [Quad.target, wordOffset_eq]
      rfl
    have close (q : Quad) : q.jump (q.pc + (sext imm <<< 2)) = goes q (near q) := by
      rw [wordOffset_eq]
      rfl
    have linked (q : Quad) : (q.setS 63 (q.pc + 4)).jump (q.target off) = goes (q.setS 63 (q.pc + 4)) (far q) := by
      simp only [Quad.target, wordOffset_eq]
      rfl
    refine ⟨transfer_completes hg rfl (fun _ => rfl) there, branch_completes hg rfl (fun _ => rfl) (fun q => by simp) there,
      branch_completes hg rfl (fun _ => rfl) (fun q => by simp) there, branch_completes hg rfl (fun _ => rfl) (fun q => by simp) there,
      branch_completes hg rfl (fun _ => rfl) (fun q => by simp) there, transfer_completes hg rfl (fun _ => rfl) linked,
      branch_completes hg rfl (fun _ => rfl) (fun q => by simp) close, branch_completes hg rfl (fun _ => rfl) (fun q => by simp) close,
      fun aligned => ⟨?_, ?_⟩⟩
    · exact transfer_completes hg (registerBranch_aligned hg aligned) (fun _ => rfl) fun _ => rfl
    · exact transfer_completes hg (registerBranch_aligned hg aligned) (fun _ => rfl) fun _ => rfl
  · rcases form with rfl | rfl <;> exact registerBranch_misaligned hg hn bad lowest
  · exact scalarStep_effect hg (fun q => q) (fun _ => rfl) fun _ => rfl
  · exact ⟨_, withGang_next hg _, retire_reload_effect s g 1 1⟩

/-! ### The software trap -/

/-- Settles O8: the gang has performed the instruction when it enters its handler (`trap_handled`). -/
theorem softwareTrap : Obligations.SoftwareTrap := by
  intro s g imm hg hv hh
  let u := (s.mapGang g fun _ q => q.advance 1).account g 1 .count
  have issued : Effect s u g (dogNext s g) (s.waveOf g).fusest (dogHits s g) fun _ q => q.advance 1 :=
    issued_effect (fun _ q => q.advance 1) 1 (fun _ _ => rfl) fun _ _ => rfl
  have kernel : (u.teamOf g).kernel = (s.teamOf g).kernel := by rw [issued.own]
  have calm : ∀ n ∈ g.quads, (u.quadOf g n).inHandler = false := by
    intro n hn
    rw [quadOf_account, s.quadOf_mapGang]
    split
    · exact hh n hn
    · exact hh n hn
  have does : exec (.trap imm) s = .next (u.trap g .software (zext imm) allLanes 1) := withGang_next hg _
  have code : TrapCause.software.addrField (zext imm) = imm.setWidth 54 := by
    apply BitVec.eq_of_toNat_eq
    rw [TrapCause.addrField, if_neg (by decide), BitVec.extractLsb'_toNat, BitVec.toNat_setWidth, BitVec.toNat_setWidth]
    omega
  refine ⟨_, does, ?_⟩
  rw [trap_handled (kernel ▸ hv) calm, kernel]
  refine (issued.mapGang _ fun _ _ => rfl).regang.congr fun n hn => ?_
  simp only [Quad.trapEnter, Quad.trapSave, trapInfo, code]
  rfl

/-! ### Leaving a handler -/

theorem restartEntries_none (h : ∀ n ∈ g.quads, (s.quadOf g n).nestHandled = none) : s.restartEntries g = s := by
  have ids : (g.quads.filterMap fun n => (s.quadOf g n).nestHandled) = [] := List.filterMap_eq_nil_iff.mpr h
  unfold State.restartEntries
  rw [ids]
  rfl

theorem restartEntries_eq : s.restartEntries g = { s with cores := (s.restartEntries g).cores } := by
  unfold State.restartEntries
  dsimp only
  split <;> rfl

theorem quadOf_restartEntries (n : Nat) : (s.restartEntries g).quadOf g n = s.quadOf g n := by
  rw [restartEntries_eq]
  rfl

theorem Entry.restart_id (e : Entry) : e.restart.id = e.id := by
  unfold Entry.restart
  split <;> rfl

theorem Entry.restart_goesOn (e : Entry) {b : NestBody} (h : e.restart.body = .nest b) : b.stopped = false := by
  unfold Entry.restart at h
  split at h <;> rename_i body
  · cases h
    rfl
  all_goals rw [body] at h; cases h

/-- A core's queue holds what a change of its core's queues leaves. -/
theorem mem_engine_modCore {core : Nat} {q : BitVec 3} {f : List Entry → List Entry} {e : Entry}
    (h : e ∈ (s.modCore core fun k => { k with queues := k.queues.map f }).engine core q) : e ∈ f (s.engine core q) := by
  unfold State.engine at h ⊢
  rw [State.core_modCore] at h
  split at h
  · simpa using h
  · next far =>
    have blank : s.core core = CoreSt.reset := dif_neg fun k => far ⟨rfl, k⟩
    rw [blank] at h
    simp [CoreSt.reset] at h

/-- The entries at whose elements the gang's quads ran handlers go on (R381). -/
theorem restartEntries_goOn {q : BitVec 3} {e : Entry} {b : NestBody} (he : e ∈ (s.restartEntries g).engine (s.coreOf g) q)
    (hb : e.body = .nest b) (handled : ∃ n ∈ g.quads, (s.quadOf g n).nestHandled = some e.id) : b.stopped = false := by
  have named : e.id ∈ g.quads.filterMap fun n => (s.quadOf g n).nestHandled := List.mem_filterMap.mpr handled
  unfold State.restartEntries at he
  dsimp only at he
  rw [if_neg fun none_ => List.ne_nil_of_mem named (List.isEmpty_iff.mp none_)] at he
  obtain ⟨x, -, same⟩ := List.mem_map.mp (mem_engine_modCore he)
  split at same
  · subst same
    exact x.restart_goesOn hb
  · next other =>
    subst same
    exact absurd (List.contains_iff_mem.mpr named) other

/-- The address that code 0x0001 carries, by the fields of TRAPINFO (R491). -/
theorem trapLogAddr_fields (info : Word) : trapLogAddr info =
    if (info.extractLsb' 54 6).toNat = 0x01 ∨ (info.extractLsb' 54 6).toNat = 0x11 then
      info &&& BitVec.ofNat 64 (2 ^ 54 - 1)
    else if (info.extractLsb' 54 6).toNat = 0x06 ∨ (info.extractLsb' 54 6).toNat = 0x07 ∨
        (info.extractLsb' 54 6).toNat = 0x08 then 0
    else (info.extractLsb' 0 54 ++ 0#3).signExtend 64 := by
  rw [← zext_low54]
  rfl

theorem regang_keeps (s : State) (g : GangRef) :
    (s.regang g).cores = s.cores ∧ (s.regang g).mem = s.mem ∧ (s.regang g).ctxs = s.ctxs := by
  unfold State.regang State.regangBy
  extract_lets runs
  split <;> exact ⟨rfl, rfl, rfl⟩

theorem firstLive_account (s : State) (g : GangRef) (cost : Nat) (mode : DogMode) :
    (s.account g cost mode).firstLive g = s.firstLive g := by
  unfold State.firstLive
  simp only [quadOf_account]

theorem coreOf_account (s : State) (g : GangRef) (cost : Nat) (mode : DogMode) :
    (s.account g cost mode).coreOf g = s.coreOf g := by
  have same := congrArg Wave.core (outside_account s g cost mode).mine
  exact same

section
variable (handles : ∀ n ∈ g.quads, (s.quadOf g n).inHandler = true)
include handles

theorem handlers_run : g.quads.any (notInHandler s g) = false :=
  List.any_eq_false.mpr fun n hn => by simp [notInHandler, handles n hn]

theorem handler_account : Effect s (s.account g 1 .count) g (s.waveOf g).wdog (s.waveOf g).fusest (s.waveOf g).dog
    fun _ q => q := by
  have stands := dog_stands ⟨_, firstQuad_mem g, handles _ (firstQuad_mem g)⟩
  have account := account_effect s g 1
  rwa [stands.1, stands.2] at account

variable (hg : s.issuing = some g)
include hg

theorem tret_returns : exec .tret s = .next (s.trapReturn g) :=
  (withGang_next hg _).trans (congrArg _ (if_neg (by simp [handlers_run handles])))

theorem tretDecline_unhandled : exec .tretDecline s = .next (((s.account g 1 .count).mapGang g fun _ q =>
    { q with inHandler := false, nestHandled := none }).unhandled g (s.leader g).trapSrc) :=
  (withGang_next hg _).trans (congrArg _ (if_neg (by simp [handlers_run handles])))

/-- A return restarts the entries whose handlers the quads ran, and resumes each quad (R312, R313, R381). -/
theorem tret_completes (none_ : ∀ n ∈ g.quads, (s.quadOf g n).nestHandled = none) : ∃ t, exec .tret s = .next t ∧
    Effect s t g (s.waveOf g).wdog (s.waveOf g).fusest (s.waveOf g).dog fun _ q =>
      { q with inHandler := false, pc := q.trappc, clause := q.trapClause, trapClause := none } := by
  refine ⟨_, tret_returns handles hg, ?_⟩
  unfold State.trapReturn
  rw [restartEntries_none fun n hn => by rw [quadOf_account]; exact none_ n hn]
  refine ((handler_account handles).mapGang _ fun _ _ => rfl).regang.congr fun n hn => ?_
  rw [Quad.trapReturn, ← none_ n hn]

theorem tret_restarts : ∃ t, exec .tret s = .next t ∧
    (∀ n ∈ g.quads, n < (s.waveOf g).quads.length → (s.quadOf g n).exited = false →
      t.quadOf g n = (s.quadOf g n).trapReturn) ∧
    t.mem = s.mem ∧ t.ctxs = s.ctxs ∧
    ∀ q, ∀ e ∈ t.engine (s.coreOf g) q, ∀ b, e.body = .nest b →
      (∃ n ∈ g.quads, (s.quadOf g n).nestHandled = some e.id) → b.stopped = false := by
  let u := (s.account g 1 .count).restartEntries g
  have account := outside_account s g 1 .count
  have same (n : Nat) : u.quadOf g n = s.quadOf g n := by rw [quadOf_restartEntries, quadOf_account]
  have outer : u = { s.account g 1 .count with cores := u.cores } := restartEntries_eq
  obtain ⟨cores, mem, ctxs⟩ := regang_keeps (u.mapGang g fun _ q => q.trapReturn) g
  refine ⟨_, tret_returns handles hg, fun n hn hl hx => ?_, ?_, ?_, fun q e he b hb handled => ?_⟩
  · have long : (u.waveOf g).quads.length = (s.waveOf g).quads.length := by
      rw [← account.quads, outer]
      rfl
    unfold State.trapReturn State.regang
    rw [State.quadOf_regangBy, State.quadOf_mapGang, if_pos ⟨hn, long ▸ hl, (congrArg _ (same n)).trans hx⟩]
    exact congrArg Quad.trapReturn (same n)
  · refine mem.trans ?_
    rw [show (u.mapGang g _).mem = u.mem from rfl, outer, account.device]
  · refine ctxs.trans ?_
    rw [show (u.mapGang g _).ctxs = u.ctxs from rfl, outer, account.device]
  · have kept : e ∈ u.engine ((s.account g 1 .count).coreOf g) q := by
      rw [coreOf_account]
      unfold State.engine State.core at he ⊢
      rw [State.trapReturn, cores] at he
      exact he
    exact restartEntries_goOn kept hb (by simpa only [quadOf_account] using handled)

/-- The quads leave the handler and park (R416). -/
theorem tretDecline_parks : ∃ v, exec .tretDecline s = .next (v.stopsUnhandled g (s.leader g).trapSrc
      (slice (s.leader g).trapinfo 59 54) (trapLogAddr (s.leader g).trapinfo)) ∧
    Effect s v g (s.waveOf g).wdog (s.waveOf g).fusest (s.waveOf g).dog fun _ q =>
      { q with inHandler := false, nestHandled := none, wait := .unhandled } := by
  let leaves : Nat → Quad → Quad := fun _ q => { q with inHandler := false, nestHandled := none }
  have left := (handler_account handles).mapGang leaves fun _ _ => rfl
  have info : (((s.account g 1 .count).mapGang g leaves).leader g).trapinfo = (s.leader g).trapinfo := by
    unfold State.leader
    rw [firstLive_mapGang leaves fun _ _ => rfl, State.quadOf_mapGang, firstLive_account, quadOf_account]
    split <;> rfl
  refine ⟨_, (tretDecline_unhandled handles hg).trans ?_, left.mapGang (fun _ q => { q with wait := .unhandled }) fun _ _ => rfl⟩
  rw [unhandled_eq, info]

end

theorem handler_return_illegal (hg : s.issuing = some g) (outside : ∃ n ∈ g.quads, (s.quadOf g n).inHandler = false) {i : Instr}
    (form : i = .tret ∨ i = .tretDecline) : exec i s = .next (s.trap g .illegalInstr (s.leader g).pc
      (fun n => if (s.quadOf g n).inHandler then 0 else 0xF) 1) := by
  have found : g.quads.any (notInHandler s g) = true :=
    List.any_eq_true.mpr (outside.imp fun n h => ⟨h.1, by rw [notInHandler, h.2]; rfl⟩)
  have lanes : failing (notInHandler s g) = fun n => if (s.quadOf g n).inHandler then 0 else 0xF := by
    funext n
    unfold failing notInHandler
    cases (s.quadOf g n).inHandler <;> rfl
  rw [← lanes]
  rcases form with rfl | rfl
  · exact (withGang_next hg _).trans (congrArg _ (if_pos found))
  · exact (withGang_next hg _).trans (congrArg _ (if_pos found))

/-- Settles O9: what a return restarts and resumes (`tret_restarts`), and what a declined trap parks (`tretDecline_parks`). -/
theorem trapReturn : Obligations.TrapReturn := by
  intro s g hg
  refine ⟨fun handles => ⟨tret_completes handles hg, tret_restarts handles hg, ?_, fun hw => ?_⟩,
    fun outside i => handler_return_illegal hg outside⟩
  · obtain ⟨v, next, parked⟩ := tretDecline_parks handles hg
    refine ⟨_, v, next, parked, ?_⟩
    rw [trapLogAddr_fields]
    rfl
  · obtain ⟨v, next, parked⟩ := tretDecline_parks handles hg
    refine ⟨_, next, stopsUnhandled_stopped (parked.waves ▸ hw), fun n hn hl hx => ?_, ?_⟩
    · have quad := parked.each n hn hl hx
      rw [stopsUnhandled_quadOf (by rw [quad]), quad]
      exact ⟨rfl, rfl, rfl, rfl, rfl, rfl⟩
    · rw [← parked.ctxOf, ← parked.ctx]
      exact stopsUnhandled_phase.1

end Sys2Proof.Machine
end

section
/-! Writing a special register (O5; R303 to R306, R383 to R385, R420). -/

namespace Sys2Proof.Machine

variable {s : State} {g : GangRef} {sa : SReg} {num : BitVec 6}

/-! ### The values -/

theorem fmtOf_eq (v : Word) : fmtOf v = v.extractLsb' 8 5 ++ 0#3 ++ v.extractLsb' 0 5 := by
  have mask : (0x1F1F : BitVec 13) = 0x1F#5 ++ 0#3 ++ 0x1F#5 := rfl
  have upper : v.extractLsb' 8 5 ++ v.extractLsb' 5 3 = v.extractLsb' 5 8 :=
    BitVec.extractLsb'_append_extractLsb'_eq_extractLsb' rfl
  have cut : v.extractLsb' 5 8 ++ v.extractLsb' 0 5 = v.extractLsb' 0 13 :=
    BitVec.extractLsb'_append_extractLsb'_eq_extractLsb' rfl
  have ones (x : BitVec 5) : x &&& 0x1F#5 = x := BitVec.and_allOnes
  rw [fmtOf, ← cut, ← upper, mask, BitVec.and_append, BitVec.and_append, ones, ones, BitVec.and_zero]

theorem fmtLegal_fmtOf (v : Word) : fmtLegal (fmtOf v) = fmtPair (v.extractLsb' 0 5) (v.extractLsb' 8 5) := by
  have low : (fmtOf v).extractLsb' 0 5 = v.extractLsb' 0 5 := by
    rw [fmtOf_eq]
    exact BitVec.extractLsb'_append_eq_right
  have high : (fmtOf v).extractLsb' 8 5 = v.extractLsb' 8 5 := by
    rw [fmtOf_eq]
    exact (BitVec.extractLsb'_append_eq_of_le (by decide)).trans (BitVec.extractLsb'_append_eq_of_le (by decide) |>.trans
      BitVec.extractLsb'_eq_self)
  rw [fmtLegal, low, high]

/-- TRAPPC is a multiple of 4 (R305). -/
theorem clearLow2_eq (v : Word) : v &&& ~~~3#64 = v.extractLsb' 2 62 ++ 0#2 := by
  have mask : ~~~3#64 = BitVec.allOnes 62 ++ 0#2 := rfl
  have cut : v.extractLsb' 2 62 ++ v.extractLsb' 0 2 = v :=
    (BitVec.extractLsb'_append_extractLsb'_eq_extractLsb' rfl).trans BitVec.extractLsb'_eq_self
  calc v &&& ~~~3#64 = (v.extractLsb' 2 62 ++ v.extractLsb' 0 2) &&& (BitVec.allOnes 62 ++ 0#2) := by rw [cut, mask]
    _ = v.extractLsb' 2 62 ++ 0#2 := by rw [BitVec.and_append, BitVec.and_allOnes, BitVec.and_zero]

/-! ### Registers held per wave -/

/-- An effect from a state that differs only in its wave's FUSEST. -/
theorem fusest_effect (v : BitVec 32) (len cost : Nat) :
    Effect s ((s.modWave g.t g.w fun w => { w with fusest := v }).retire g len cost .count) g (dogNext s g) v (dogHits s g)
      fun _ q => q.advance len := by
  let u := s.modWave g.t g.w fun w => { w with fusest := v }
  have outside : Outside s u g := outside_modWave s g _ (fun _ => rfl) (fun _ => rfl) fun _ _ _ => rfl
  have quad (n : Nat) : u.quadOf g n = s.quadOf g n := s.quadOf_modWave g n _ fun _ => rfl
  have wave : u.waveOf g = { s.waveOf g with fusest := (u.waveOf g).fusest } := by
    simp only [u, State.waveOf, State.wave_modWave, true_and]
    split <;> rfl
  have runs : dogRuns u g = dogRuns s g := by
    unfold dogRuns
    simp only [quad]
    rw [wave]
  have next : dogNext u g = dogNext s g := by
    unfold dogNext
    rw [runs, wave, outside.own]
  have hits : dogHits u g = dogHits s g := by
    unfold dogHits
    rw [runs, wave]
  have written : Effect s u g (s.waveOf g).wdog v (s.waveOf g).dog fun _ q => q :=
    { toOutside := outside, dog := fun _ => by rw [wave], hits := fun _ => by rw [wave]
      fuse := fun hw => by rw [s.waveOf_modWave g _ hw], exited := fun n _ => quad n, each := fun n _ _ _ => quad n }
  have retired := retire_count_effect u g len cost
  rw [next, hits] at retired
  have both := written.trans retired fun _ _ => rfl
  exact { both with fuse := fun hw => (both.fuse hw).trans (written.fuse hw) }

theorem watchdog_set_wave (v : BitVec 32) (h : g.w < (s.teamOf g).waves.length) :
    ((s.watchdog g (.set v)).waveOf g).wdog = v ∧ ((s.watchdog g (.set v)).waveOf g).fusest = (s.waveOf g).fusest ∧
      ((s.watchdog g (.set v)).waveOf g).dog = dogHits s g := by
  unfold State.watchdog
  dsimp only
  rw [State.waveOf_modWave _ _ _ h]
  refine ⟨rfl, rfl, ?_⟩
  unfold dogHits dogRuns
  cases (g.quads.any fun q => (s.quadOf g q).inHandler)
  · by_cases last : (s.waveOf g).wdog = 1 <;> simp_all
  · simp

/-- The accounts of an issue that writes WDOG: what it has counted is replaced (R420). -/
theorem wdog_effect (v : BitVec 32) (len cost : Nat) :
    Effect s (s.retire g len cost (.set v)) g v (s.waveOf g).fusest (dogHits s g) fun _ q => q.advance len := by
  have moved := mapGang_effect (s := s) (g := g) fun _ q => q.advance len
  have hits : dogHits (s.mapGang g fun _ q => q.advance len) g = dogHits s g :=
    (dogNext_mapGang (fun _ q => q.advance len) fun _ _ => rfl).2
  have fuse : ((s.mapGang g fun _ q => q.advance len).waveOf g).fusest = (s.waveOf g).fusest := by rw [s.waveOf_mapGang]
  unfold State.retire
  generalize s.mapGang g (fun _ q => q.advance len) = m at moved hits fuse ⊢
  obtain ⟨u, account, outside, teams⟩ := account_eq m g cost (.set v)
  have wave (hw : g.w < (m.teamOf g).waves.length) := watchdog_set_wave (s := u) v (outside.waves ▸ hw)
  have written : Effect m (m.account g cost (.set v)) g v (s.waveOf g).fusest (dogHits s g) fun _ q => q :=
    { toOutside := outside_account m g cost (.set v)
      dog := fun hw => by rw [account, (wave hw).1]
      hits := fun hw => by rw [account, (wave hw).2.2, dogHits_congr g teams, hits]
      fuse := fun hw => by rw [account, (wave hw).2.1, waveOf_congr teams, fuse]
      exited := fun n _ => quadOf_account m g cost _ n, each := fun n _ _ _ => quadOf_account m g cost _ n }
  exact (moved.trans written fun _ _ => rfl).regang

/-! ### The instruction -/

/-- A register held per quad is written in each quad's copy. -/
theorem ssetr_writes {f : Word → Quad → Quad} (hh : ∀ v q, (f v q).inHandler = q.inHandler)
    (he : ∀ v q, (f v q).exited = q.exited)
    (does : exec (.ssetr sa num) s = .next ((s.mapGang g fun _ q => f (q.rs sa) q).retire g 1 1 .count)) :
    Completes (.ssetr sa num) s g fun _ q => (f (q.rs sa) q).advance 1 :=
  ⟨_, does, retire_effect s g 1 1 (fun _ q => f (q.rs sa) q) (fun _ _ => hh _ _) fun _ _ => he _ _⟩

section
variable (hg : s.issuing = some g)
include hg

/-- FMT takes a pair that R385 lists. -/
theorem ssetr_fmt (listed : ∀ n ∈ g.quads,
    fmtPair (((s.quadOf g n).rs sa).extractLsb' 0 5) (((s.quadOf g n).rs sa).extractLsb' 8 5) = true) :
    Completes (.ssetr sa 9) s g fun _ q =>
      ({ q with fmt := (q.rs sa).extractLsb' 8 5 ++ 0#3 ++ (q.rs sa).extractLsb' 0 5 } : Quad).advance 1 := by
  have good : (g.quads.any fun n => !fmtLegal (fmtOf ((s.quadOf g n).rs sa))) = false :=
    List.any_eq_false.mpr fun n hn => by rw [fmtLegal_fmtOf, listed n hn]; decide
  have writes := ssetr_writes (sa := sa) (num := 9) (f := fun v q => { q with fmt := fmtOf v }) (fun _ _ => rfl)
    (fun _ _ => rfl) ((withGang_next hg _).trans (congrArg _ (if_neg (by rw [good]; decide))))
  simpa only [fmtOf_eq] using writes

theorem ssetr_fmt_unlisted (unlisted : ∃ n ∈ g.quads,
    fmtPair (((s.quadOf g n).rs sa).extractLsb' 0 5) (((s.quadOf g n).rs sa).extractLsb' 8 5) = false) :
    exec (.ssetr sa 9) s = .next (s.trap g .illegalOperand (s.leader g).pc (fun n =>
      if fmtPair (((s.quadOf g n).rs sa).extractLsb' 0 5) (((s.quadOf g n).rs sa).extractLsb' 8 5) then 0 else 0xF) 1) := by
  have bad : (g.quads.any fun n => !fmtLegal (fmtOf ((s.quadOf g n).rs sa))) = true :=
    List.any_eq_true.mpr (unlisted.imp fun n h => ⟨h.1, by rw [fmtLegal_fmtOf, h.2]; rfl⟩)
  have lanes : failing (fun n => !fmtLegal (fmtOf ((s.quadOf g n).rs sa))) = fun n =>
      if fmtPair (((s.quadOf g n).rs sa).extractLsb' 0 5) (((s.quadOf g n).rs sa).extractLsb' 8 5) then 0 else 0xF := by
    funext n
    simp only [failing, fmtLegal_fmtOf]
    cases fmtPair (((s.quadOf g n).rs sa).extractLsb' 0 5) (((s.quadOf g n).rs sa).extractLsb' 8 5) <;> rfl
  rw [← lanes]
  exact (withGang_next hg _).trans (congrArg _ (if_pos bad))

theorem ssetr_readOnly (h9 : num ≠ 9) (h10 : num ≠ 10) (h11 : num ≠ 11) (h14 : num ≠ 14) (h15 : num ≠ 15) (h18 : num ≠ 18) :
    exec (.ssetr sa num) s = .next (s.badOperand g 1) := by
  refine (withGang_next hg _).trans (congrArg _ ?_)
  have other {n : Nat} (hn : n < 64) (h : num ≠ BitVec.ofNat 6 n) : num.toNat ≠ n := fun e =>
    h (BitVec.eq_of_toNat_eq (by rw [e, BitVec.toNat_ofNat, Nat.mod_eq_of_lt hn]))
  split
  · exact absurd ‹_› (other (by decide) h9)
  · exact absurd ‹_› (other (by decide) h10)
  · exact absurd ‹_› (other (by decide) h11)
  · exact absurd ‹_› (other (by decide) h14)
  · exact absurd ‹_› (other (by decide) h15)
  · exact absurd ‹_› (other (by decide) h18)
  · rfl

end

/-- Settles O5: a register of each quad is that quad's own (`ssetr_writes`), FUSEST and WDOG are the wave's (`fusest_effect`,
`wdog_effect`). -/
theorem specialRegisterWrite : Obligations.SpecialRegisterWrite := by
  intro s g sa num ta tb hg top pair
  refine ⟨?_, ?_, ?_, ?_, ?_, ?_, ?_, ssetr_readOnly hg, ?_⟩
  · rintro rfl
    exact ssetr_fmt hg
  · rintro rfl
    exact ssetr_fmt_unlisted hg
  · rintro rfl
    exact ssetr_writes (f := fun v q => { q with scb := v.extractLsb' 0 8 }) (fun _ _ => rfl) (fun _ _ => rfl)
      (withGang_next hg _)
  · rintro rfl
    exact ssetr_writes (f := fun v q => { q with seed := v }) (fun _ _ => rfl) (fun _ _ => rfl) (withGang_next hg _)
  · rintro rfl
    exact ⟨_, withGang_next hg _, fusest_effect _ 1 1⟩
  · rintro rfl
    exact ⟨_, withGang_next hg _, wdog_effect _ 1 1⟩
  · rintro rfl
    have writes := ssetr_writes (sa := sa) (num := 18) (f := fun v q => { q with trappc := v &&& ~~~3#64, trapClause := none })
      (fun _ _ => rfl) (fun _ _ => rfl) (withGang_next hg _)
    simpa only [clearLow2_eq] using writes
  · exact scalarStep_effect hg (fun q => { q with fmt := tb ++ 0#3 ++ ta }) (fun _ => rfl) fun _ => rfl

end Sys2Proof.Machine
end

section
/-! Known words decode (O53; R268 to R290, R401). -/

namespace Sys2Proof.Machine

/-- Settles O53: the decoder computes. -/
theorem decodeKnownWords : Obligations.DecodeKnownWords :=
  ⟨rfl, rfl, rfl, rfl, rfl, rfl, rfl, rfl, rfl, rfl, rfl, rfl, rfl, rfl, rfl⟩

end Sys2Proof.Machine
end

section
/-! Dot products of bytes, compares and integer immediates in lanes (O12, O13; R327, R328, R330, R335, R338). -/

namespace Sys2Proof.Machine

variable {s : State} {g : GangRef} {o : LaneOp} {m : Mods} {i : Instr} {opnds : List Opnd} {cost : GangRef → Nat}

/-! ### Elements -/

/-- A form without a rounding mode that writes one register. -/
theorem laneSet_completes {f : Lane → Nat} {r : Lane → Code}
    (e : exec i s = laneMap s o opnds cost .rne fun _ _ l => l.write o.vd.toNat 1 (f l))
    (ready : LaneReady s g o opnds) (same : ∀ l, BitVec.ofNat 32 (f l) = r l) :
    Completes i s g fun _ q => (q.eachLane o fun _ l => l.setV o.vd.toNat (r l)).advance 3 := by
  have done := laneWrite_completes e ready fun _ => rfl
  simp only [Lane.write_one, same] at done
  exact done

/-- An element of a word as a bit vector. -/
theorem ofNat_part (k : Nat) (x : Code) (i : Nat) : BitVec.ofNat k (part k x.toNat i) = x.extractLsb' (k * i) k := by
  apply BitVec.eq_of_toNat_eq
  rw [BitVec.toNat_ofNat, BitVec.extractLsb'_toNat, part, Nat.mod_mod, Nat.shiftRight_eq_div_pow]

theorem ofNat_read_one (l : Lane) (n : Nat) : BitVec.ofNat 32 (l.read n 1) = l.rv n := by
  rw [Lane.read_one, BitVec.ofNat_toNat, BitVec.setWidth_eq]

/-- The accumulated dot product of bytes (R328). -/
theorem dot4_eq {t : ElemTy} (bytes : t = .i8 ∨ t = .n8) (sat : Bool) (a b c : Code) :
    let int {n : Nat} (x : BitVec n) : Int := if t.isSigned then x.toInt else x.toNat
    let lo : Int := if t.isSigned then -2 ^ 31 else 0
    let hi : Int := if t.isSigned then 2 ^ 31 - 1 else 2 ^ 32 - 1
    let x : Int := int c + int (a.extractLsb' 0 8) * int (b.extractLsb' 0 8) + int (a.extractLsb' 8 8) * int (b.extractLsb' 8 8)
      + int (a.extractLsb' 16 8) * int (b.extractLsb' 16 8) + int (a.extractLsb' 24 8) * int (b.extractLsb' 24 8)
    BitVec.ofNat 32 (dot4 t sat a.toNat b.toNat c.toNat) = BitVec.ofInt 32 (if sat then max lo (min x hi) else x) := by
  intro int lo hi x
  have wide : t.bits = 8 := by rcases bytes with rfl | rfl <;> rfl
  have elem (y : Code) (i : Nat) : t.intOf (part 8 y.toNat i) = int (y.extractLsb' (8 * i) 8) := by
    rw [t.intOf_eq, wide, ofNat_part]
  have sum : (upTo 4).foldl (fun s i => s + t.intOf (part 8 a.toNat i) * t.intOf (part 8 b.toNat i)) 0 =
      0 + int (a.extractLsb' 0 8) * int (b.extractLsb' 0 8) + int (a.extractLsb' 8 8) * int (b.extractLsb' 8 8)
        + int (a.extractLsb' 16 8) * int (b.extractLsb' 16 8) + int (a.extractLsb' 24 8) * int (b.extractLsb' 24 8) := by
    rw [show upTo 4 = [0, 1, 2, 3] from rfl]
    simp only [List.foldl, elem]
  have whole : (if t.isSigned then ElemTy.i32 else ElemTy.n32).intOf c.toNat = int c := by
    rw [ElemTy.intOf_eq]
    have same : BitVec.ofNat 32 c.toNat = c := by rw [BitVec.ofNat_toNat, BitVec.setWidth_eq]
    rcases bytes with rfl | rfl
    · exact congrArg BitVec.toInt same
    · exact congrArg (fun y : Code => (y.toNat : Int)) same
  unfold dot4
  dsimp only
  rw [sum, whole, zero_add, ← add_assoc, ← add_assoc, ← add_assoc]
  have wraps (y : Int) : BitVec.ofNat 32 (BitVec.ofInt 32 y).toNat = BitVec.ofInt 32 y := by
    rw [BitVec.ofNat_toNat, BitVec.setWidth_eq]
  rcases bytes with rfl | rfl <;> exact (congrArg _ (ElemTy.bitsOf_eq _ _)).trans (wraps _)

/-- Settles O12: the elements are those of bit vectors (`dot4_eq`). -/
theorem byteDotProduct : Obligations.ByteDotProduct := by
  intro s g o m wf ready int lo hi sum out
  have bytes : m.ty = .i8 ∨ m.ty = .n8 := by
    rw [Instr.wf, Bool.and_eq_true_iff] at wf
    simpa using Mods.ty_mem wf.2
  have one : regsOf m.ty = 1 := by rcases bytes with e | e <;> rw [e] <;> rfl
  have fields (n : BitVec 10) : Opnd.ty n m.ty = .one n := by rw [Opnd.ty, one, Opnd.one]
  rw [← fields, ← fields, ← fields, ← fields] at ready
  have performs : exec (.vdot4 o m) s = laneMap s o [.ty o.vd m.ty, .ty o.va m.ty, .ty o.vb m.ty, .ty o.vc m.ty] cycles32 .rne
      fun _ _ l => l.write o.vd.toNat 1 (dot4 m.ty m.sat (l.read o.va.toNat 1) (l.read o.vb.toNat 1) (l.read o.vc.toNat 1)) := by
    rw [exec_vdot4, execVdot4, lane3, one]
  refine laneSet_completes performs ready fun l => ?_
  rw [Lane.read_one, Lane.read_one, Lane.read_one]
  exact dot4_eq bytes m.sat _ _ _

/-! ### Compares, select and immediates -/

theorem intOf_word (b : Bool) {x : Code} : (if b then ElemTy.n32 else ElemTy.i32).intOf x.toNat =
    if b then (x.toNat : Int) else x.toInt := by
  have same : BitVec.ofNat 32 x.toNat = x := by rw [BitVec.ofNat_toNat, BitVec.setWidth_eq]
  cases b
  · exact (ElemTy.intOf_eq _ _).trans (congrArg BitVec.toInt same)
  · exact (ElemTy.intOf_eq _ _).trans (congrArg (fun y : Code => (y.toNat : Int)) same)

/-- A compare writes one predicate bit. -/
theorem laneCmp_completes {f : Nat → Nat → Bool} (e : exec i s = laneCmp s o m.ty f)
    (ready : LaneReady s g o [.p o.vd, .ty o.va m.ty, .ty o.vb m.ty]) :
    Completes i s g fun _ q => (q.eachLane o fun _ l => l.setP o.vd.toNat
      (f (l.read o.va.toNat (regsOf m.ty)) (l.read o.vb.toNat (regsOf m.ty)))).advance 3 :=
  laneMap_completes e ready

/-- An immediate form computes on the register and its immediate (R330). -/
theorem laneImm_completes {f : Nat → Nat} {r : Code → Code} (e : exec i s = laneImm s o f)
    (same : ∀ x : Code, BitVec.ofNat 32 (f x.toNat) = r x) (ready : LaneReady s g o [.one o.vd, .one o.va]) :
    Completes i s g fun _ q => (q.eachLane o fun _ l => l.setV o.vd.toNat (r (l.rv o.va.toNat))).advance 3 :=
  laneSet_completes e ready fun l => by rw [Lane.read_one]; exact same _

/-- Settles O13: conditions over the integers that the operands stand for (`ElemTy.intOf_eq`, `intOf_word`), immediates over
bit vectors. -/
theorem laneCompareAndImmediate : Obligations.LaneCompareAndImmediate := by
  intro s g o m cc uns imm regs raw val test tells puts one int fp a b
  have tests (x y : Int) (form : cc.isInt = true) : cc.holdsInt x y = true ↔ test x y := by
    dsimp only [test]
    cases cc with
    | ord | uno => cases form
    | _ => exact decide_eq_true_iff
  have imms {i : Instr} {f : Nat → Nat} {h : Code → Code} (e : exec i s = laneImm s o f)
      (same : ∀ x : Code, BitVec.ofNat 32 (f x.toNat) = h x) : puts i [.one o.vd, .one o.va] (one h) :=
    laneImm_completes e same
  have whole (x : Code) : BitVec.ofNat 32 x.toNat = x := by rw [BitVec.ofNat_toNat, BitVec.setWidth_eq]
  refine ⟨?int, ?intImm, ?fp, ?fpImm, ?sel, ?add, ?mul, ?and, ?or, ?xor, ?mov⟩
  case int =>
    intro wf ready
    have form := (Bool.and_eq_true_iff.mp wf).2
    have done := laneCmp_completes (exec_vcmpInt (cc := cc) s) ready
    exact ⟨fun l => cc.holdsInt (val l o.va) (val l o.vb), fun l => tests _ _ form, done⟩
  case intImm =>
    intro wf ready
    have form := (Bool.and_eq_true_iff.mp wf).2
    have done := laneMap_completes (exec_vcmpIntImm (cc := cc) (uns := uns) (imm := imm) s) ready
    simp only [Lane.read_one, intOf_word] at done
    exact ⟨fun l => cc.holdsInt (int (l.rv o.va.toNat)) (int imm), fun l => tests _ _ form, done⟩
  case fp =>
    intro _ ready
    have done := laneCmp_completes (exec_vcmpFp (cc := cc) s) ready
    exact ⟨_, fun _ => Iff.rfl, done⟩
  case fpImm =>
    intro _ ready
    have done := laneMap_completes (exec_vcmpF32Imm (cc := cc) (imm := imm) s) ready
    simp only [Lane.read_one] at done
    exact ⟨_, fun _ => Iff.rfl, done⟩
  case sel =>
    intro ready
    have done := laneMap_completes (exec_vsel s) ready
    exact done
  case add =>
    exact imms (h := (· + imm)) (exec_vaddIntImm (imm := imm) s) fun x => by rw [← BitVec.toNat_add, whole]
  case mul =>
    exact imms (h := (· * imm)) (exec_vmulIntImm (imm := imm) s) fun x => by rw [← BitVec.toNat_mul, whole]
  case and =>
    exact imms (h := (· &&& imm)) (exec_vandImm (imm := imm) s) fun x => by rw [← BitVec.toNat_and, whole]
  case or =>
    exact imms (h := (· ||| imm)) (exec_vorImm (imm := imm) s) fun x => by rw [← BitVec.toNat_or, whole]
  case xor =>
    exact imms (h := (· ^^^ imm)) (exec_vxorImm (imm := imm) s) fun x => by rw [← BitVec.toNat_xor, whole]
  case mov => exact fun ready => laneSet_completes (exec_vmovImm s) ready fun _ => whole imm

end Sys2Proof.Machine
end

section
/-! Float forms that select, classify and scale (O15; R331, R332, R334, R335, R336, R338). -/

namespace Sys2Proof.Machine

variable {s : State} {g : GangRef} {o : LaneOp} {m : Mods} {i : Instr} {opnds : List Opnd} {cost : GangRef → Nat}

/-! ### What the operations compute -/

theorem signBit_eq {t : ElemTy} (h : t ∈ fpTys) : t.fmt.signBit = 2 ^ (t.bits - 1) := by
  revert t
  decide

theorem flush_zero (f : Fmt) (ftz : Bool) : f.flush ftz 0 = 0 := by
  unfold Fmt.flush
  split
  · rw [Nat.zero_div, Nat.zero_mul]
  · rfl

/-- The sign bit of +1.0 is clear, so that its inverse adds it. -/
theorem one_neg {t : ElemTy} (h : t ∈ fpTys) :
    t.fmt.roundTo .rne 0 false (.fin false 1 0 false) ^^^ t.fmt.signBit =
      t.fmt.roundTo .rne 0 false (.fin false 1 0 false) + 2 ^ (t.bits - 1) := by
  revert t
  decide

/-- The sign of an encoding is its highest bit. -/
theorem copysign_eq {c : FpMode} (h : c.ty ∈ fpTys) (a : Nat) {b : Nat} (small : b < 2 ^ c.ty.bits) :
    c.copysign a b = a % 2 ^ (c.ty.bits - 1) + b / 2 ^ (c.ty.bits - 1) * 2 ^ (c.ty.bits - 1) := by
  have two : 2 ^ c.ty.bits = 2 ^ (c.ty.bits - 1) * 2 := by
    rw [← Nat.pow_succ, Nat.succ_eq_add_one, Nat.sub_add_cancel c.ty.bits_pos]
  have bit : b / 2 ^ (c.ty.bits - 1) < 2 := Nat.div_lt_of_lt_mul (two ▸ small)
  rw [FpMode.copysign, signBit_eq h, Nat.mod_eq_of_lt bit]

theorem read_lt_of_fp {t : ElemTy} (h : t ∈ fpTys) (l : Lane) (r : Nat) : l.read r (regsOf t) < 2 ^ t.bits := by
  have fills : ∀ t ∈ fpTys, 32 * regsOf t = t.bits := by decide
  exact fills _ h ▸ l.read_lt r (regsOf t)

/-! ### Forms that give up no bits -/

theorem Mods.rnd_rne {tys : List ElemTy} {sat ftz : Bool} (h : m.form tys false sat ftz = true) : m.rnd = .rne := by
  simp only [Mods.form, Bool.and_eq_true, Bool.false_or, beq_iff_eq] at h
  obtain ⟨⟨⟨_, rne⟩, _⟩, _⟩ := h
  exact rne

/-- The mode and the type of a form that rounds to nearest even or not at all. -/
theorem form_nearest {tys : List ElemTy} {legal sat ftz : Bool} (wf : (legal && m.form tys false sat ftz) = true) :
    m.rnd ≠ .rs ∧ m.ty ∈ tys := by
  have form := (Bool.and_eq_true_iff.mp wf).2
  exact ⟨by rw [Mods.rnd_rne form]; decide, Mods.ty_mem form⟩

/-- A form that does not draw stochastic numbers leaves SEED. -/
theorem unrounded_completes {dst : Nat} {f : FpMode → Lane → Nat} {r : Lane → Nat}
    (e : exec i s = laneMap s o opnds cost m.rnd fun q lane l =>
      l.write o.vd.toNat dst (f (modeOf m (stochOf m.rnd q.seed lane 0)) l))
    (still : m.rnd ≠ .rs) (ready : LaneReady s g o opnds) (same : ∀ l, f (modeOf m 0) l = r l) :
    Completes i s g fun _ q => (q.eachLane o fun _ l => l.write o.vd.toNat dst (r l)).advance 3 := by
  have done := laneMap_completes e ready
  simp only [stochOf_eq, Quad.reseed_eq, if_neg still, same] at done
  exact done

section
variable (still : m.rnd ≠ .rs) {r : Lane → Nat}
include still

theorem vFp1_completes {k : Nat} {f : FpMode → Nat → Nat} (e : exec i s = vFp1 s o m k f)
    (ready : LaneReady s g o [.ty o.vd m.ty, .ty o.va m.ty])
    (same : ∀ l, f (modeOf m 0) (l.read o.va.toNat (regsOf m.ty)) = r l) :
    Completes i s g fun _ q => (q.eachLane o fun _ l => l.write o.vd.toNat (regsOf m.ty) (r l)).advance 3 :=
  unrounded_completes (f := fun c l => f c (l.read o.va.toNat (regsOf m.ty))) e still ready same

theorem vFp2_completes {k : Nat} {f : FpMode → Nat → Nat → Nat} (e : exec i s = vFp2 s o m k f)
    (ready : LaneReady s g o [.ty o.vd m.ty, .ty o.va m.ty, .ty o.vb m.ty])
    (same : ∀ l, f (modeOf m 0) (l.read o.va.toNat (regsOf m.ty)) (l.read o.vb.toNat (regsOf m.ty)) = r l) :
    Completes i s g fun _ q => (q.eachLane o fun _ l => l.write o.vd.toNat (regsOf m.ty) (r l)).advance 3 :=
  unrounded_completes (f := fun c l => f c (l.read o.va.toNat (regsOf m.ty)) (l.read o.vb.toNat (regsOf m.ty))) e still ready
    same

end

/-- The class of an encoding sets one bit (R335). -/
theorem cls_spec (c : FpMode) (a : Nat) :
    match c.ty.fmt.decode a with
    | .nan => c.cls a = if a / 2 ^ (c.ty.fmt.mbits - 1) % 2 = 1 then 512 else 256
    | .inf neg => c.cls a = if neg then 1 else 128
    | .fin neg k _ _ =>
      (k = 0 → c.cls a = if neg then 8 else 16) ∧
      (k ≠ 0 → c.ty.fmt.isSubnormal a = true → c.cls a = if neg then 4 else 32) ∧
      (k ≠ 0 → c.ty.fmt.isSubnormal a = false → c.cls a = if neg then 2 else 64) := by
  unfold FpMode.cls
  cases c.ty.fmt.decode a with
  | nan => rfl
  | inf neg => rfl
  | fin neg k e st =>
    refine ⟨fun zero => ?_, fun some_ sub => ?_, fun some_ normal => ?_⟩
    · exact if_pos zero
    · exact (if_neg some_).trans (if_pos sub)
    · exact (if_neg some_).trans (if_neg (by rw [normal]; exact Bool.false_ne_true))

/-- The exponent of a number (R336). -/
theorem getexp_spec (c : FpMode) (a : Nat) :
    match c.ty.fmt.decode (c.ty.fmt.flush c.ftz a) with
    | .nan => c.getexp a = 0x7FFFFFFF
    | .inf _ => c.getexp a = 0x7FFFFFFF
    | .fin _ k x _ =>
      (k = 0 → c.getexp a = 0x80000000) ∧
      (k ≠ 0 → ∃ n : Nat, 2 ^ n ≤ k ∧ k < 2 ^ (n + 1) ∧ c.getexp a = (BitVec.ofInt 32 (n + x)).toNat) := by
  unfold FpMode.getexp FpMode.arg
  cases c.ty.fmt.decode (c.ty.fmt.flush c.ftz a) with
  | nan => rfl
  | inf neg => rfl
  | fin neg k x st =>
    refine ⟨fun zero => if_pos zero, fun some_ => ⟨lg k, Nat.log2_self_le some_, Nat.lt_log2_self, ?_⟩⟩
    exact (if_neg some_).trans (wrapNat_eq 32 _)

theorem intOf_i32 (x : Code) : ElemTy.i32.intOf x.toNat = x.toInt := intOf_word false

/-- A scaled number is rounded once (R331). -/
theorem ldexp_eq (c : FpMode) (a : Nat) (n : Int) : c.ldexp a n = c.result (match c.arg a with
    | .nan => .nan
    | .inf neg => .inf neg
    | .fin neg k e st => .fin neg k (e + max (-5000) (min n 5000)) st) := by
  unfold FpMode.ldexp
  cases c.arg a <;> rfl

/-! ### The instructions -/

/-- Settles O15: a form that rounds to nearest even, or not at all, leaves SEED (`unrounded_completes`); the bits and numbers that
the statement names are those of `signBit_eq`, `copysign_eq`, `one_neg`, `cls_spec`, `getexp_spec` and `ldexp_eq`. -/
theorem laneFloatSelect : Obligations.LaneFloatSelect := by
  intro s g o m imm regs f raw inp sign one puts a b c w rne
  refine ⟨?min, ?max, ?abs, ?neg, ?copysign, ?clamp, ?clip, ?sign, ?rint, ?cls, ?getexp, ?ldexp, ?add, ?mul, ?fma, ?maxImm⟩
  case min =>
    intro wf ready
    exact vFp2_completes (form_nearest wf).1 (exec_vminFp s) ready fun _ => rfl
  case max =>
    intro wf ready
    exact vFp2_completes (form_nearest wf).1 (exec_vmaxFp s) ready fun _ => rfl
  case abs =>
    intro wf ready
    obtain ⟨still, fp⟩ := form_nearest wf
    exact vFp1_completes still (exec_vabsFp s) ready fun l => congrArg (raw l o.va % ·) (signBit_eq fp)
  case neg =>
    intro wf ready
    obtain ⟨still, fp⟩ := form_nearest wf
    exact vFp1_completes still (exec_vneg s) ready fun l => congrArg (raw l o.va ^^^ ·) (signBit_eq fp)
  case copysign =>
    intro wf ready
    obtain ⟨still, fp⟩ := form_nearest wf
    exact vFp2_completes still (exec_vcopysign s) ready fun l => copysign_eq (c := modeOf m 0) fp _ (read_lt_of_fp fp l o.vb.toNat)
  case clamp =>
    intro wf ready
    exact unrounded_completes (f := fun c l => c.clamp (raw l o.va) (raw l o.vb) (raw l o.vc)) (exec_vclamp s)
      (form_nearest wf).1 ready fun _ => rfl
  case clip =>
    intro wf ready
    refine vFp1_completes (form_nearest wf).1 (exec_vclip s) ready fun l => ?_
    rw [FpMode.clip, FpMode.clamp, FpMode.max, flush_zero]
    rfl
  case sign =>
    intro wf ready
    obtain ⟨still, fp⟩ := form_nearest wf
    refine vFp1_completes still (exec_vsign s) ready fun l => ?_
    have negated : (modeOf m 0).neg (modeOf m 0).one = one + sign := one_neg fp
    unfold FpMode.sign
    rw [negated]
    rfl
  case rint =>
    intro wf ready
    rw [Instr.wf, Bool.and_eq_true_iff] at wf
    exact vFp1_completes (by simpa using wf.2) (exec_vrint s) ready fun l => rfl
  case cls =>
    refine ⟨fun l => (modeOf m 0).cls (raw l o.va), fun wf ready => ?_, fun l => cls_spec (modeOf m 0) _⟩
    have done := laneMap_completes (exec_vclass s) ready
    exact done
  case getexp =>
    refine ⟨fun l => (modeOf m 0).getexp (raw l o.va), fun wf ready => ?_, fun l => getexp_spec (modeOf m 0) _⟩
    have done := laneMap_completes (exec_vgetexp s) ready
    exact done
  case ldexp =>
    intro ready
    have done := rounded_completes (fun stoch l => l.write o.vd.toNat regs
      ((modeOf m stoch).ldexp (raw l o.va) (ElemTy.i32.intOf (l.read o.vb.toNat 1)))) (exec_vldexp s) ready
    simp only [Lane.read_one, intOf_i32, ldexp_eq] at done
    exact done
  case add =>
    intro _ ready
    have done := laneMap_completes (exec_vaddF32Imm (imm := imm) s) ready
    simp only [Lane.read_one] at done
    exact done
  case mul =>
    intro _ ready
    have done := laneMap_completes (exec_vmulF32Imm (imm := imm) s) ready
    simp only [Lane.read_one] at done
    exact done
  case fma =>
    intro _ ready
    have done := laneMap_completes (exec_vfmaF32Imm (imm := imm) s) ready
    simp only [Lane.read_one] at done
    exact done
  case maxImm =>
    intro _ ready
    have done := laneMap_completes (exec_vmaxF32Imm (imm := imm) s) ready
    simp only [Lane.read_one] at done
    exact done

end Sys2Proof.Machine
end

section
/-! Packed 16-bit forms in lanes (O17; R339 to R343): each half by itself. -/

namespace Sys2Proof.Machine

variable {s : State} {g : GangRef} {o : LaneOp} {m : Mods} {i : Instr} {opnds : List Opnd} {cost : GangRef → Nat}

/-! ### The types -/

/-- The types of the packed forms: floats that take a rounding mode, and 16-bit integers that may saturate (R342). -/
theorem packed_int (h : m.packed = true) (int : m.ty.isFloat = false) : m.ty ∈ [ElemTy.i16, .n16] := by
  rw [Mods.packed, int] at h
  exact Mods.ty_mem h

/-- Narrowing an integer to a half, or saturating it (R342). -/
theorem intResult_half {t : ElemTy} (h : t ∈ [ElemTy.i16, .n16]) (sat : Bool) (x : Int) : t.intResult sat x =
    (BitVec.ofInt 16 (if sat then max (if t.isSigned then -2 ^ 15 else 0)
      (min x (if t.isSigned then 2 ^ 15 - 1 else 2 ^ 16 - 1)) else x)).toNat := by
  rw [ElemTy.intResult, ElemTy.bitsOf_eq]
  have either : t = .i16 ∨ t = .n16 := by simpa using h
  rcases either with rfl | rfl <;> rfl

/-! ### What a packed form writes -/

/-- A form that takes the rounding mode performs on each half: RS gives each half of each lane its stochastic number
(R255, R256). -/
theorem roundedHalves_completes (f : (Nat → Nat) → Lane → Lane)
    (e : exec i s = laneMap s o opnds cost m.rnd fun q lane l => f (stochOf m.rnd q.seed lane) l)
    (ready : LaneReady s g o opnds) :
    Completes i s g fun n q =>
      let stoch (lane h : Nat) : Nat := if m.rnd = .rs then stochHash q.seed (4 * n + lane) h else 0
      let q' := q.eachLane o fun lane l => f (stoch lane) l
      ({ q' with seed := if m.rnd = .rs then q.seed + 1 else q.seed } : Quad).advance 3 := by
  have number (seed : Word) (lane : Nat) :
      stochOf m.rnd seed lane = fun h => if m.rnd = .rs then stochHash seed lane h else 0 := funext (stochOf_eq _ _ _)
  have done := laneMap_completes e ready
  simp only [number, Quad.reseed_eq] at done
  exact done

/-- A register whose halves are given. -/
def Lane.setHalves (l : Lane) (n : Nat) (r : Nat → Nat) : Lane := l.setV n (BitVec.ofNat 32 (r 0 + r 1 * 2 ^ 16))

theorem write_halves (l : Lane) (n a b c : Nat) (f : Nat → Nat → Nat → Nat → Nat) :
    l.write n 1 (halves f a b c) = l.setHalves n fun h => f h (part 16 a h) (part 16 b h) (part 16 c h) := by
  rw [Lane.write_one]
  rfl

/-- A form of two sources on each half. -/
theorem packed2_completes {f : Nat → Nat → Nat → Nat} (e : exec i s = packed2 s o m f)
    (ready : LaneReady s g o [.one o.vd, .one o.va, .one o.vb]) :
    Completes i s g fun n q =>
      let stoch (lane h : Nat) : Nat := if m.rnd = .rs then stochHash q.seed (4 * n + lane) h else 0
      let q' := q.eachLane o fun lane l => l.setHalves o.vd.toNat fun h =>
        f (stoch lane h) (part 16 (l.rv o.va.toNat).toNat h) (part 16 (l.rv o.vb.toNat).toNat h)
      ({ q' with seed := if m.rnd = .rs then q.seed + 1 else q.seed } : Quad).advance 3 := by
  have done := roundedHalves_completes (fun st l => l.write o.vd.toNat 1
    (halves (fun h a b _ => f (st h) a b) (l.read o.va.toNat 1) (l.read o.vb.toNat 1) 0)) e ready
  simp only [write_halves, Lane.read_one] at done
  exact done

/-- Where the mode is not RS, SEED stays in any form (R256). -/
theorem completes_still (still : m.rnd ≠ .rs) {f : Nat → Lane → Lane}
    (h : Completes i s g fun _ q => (q.eachLane o f).advance 3) :
    Completes i s g fun _ q =>
      ({ q.eachLane o f with seed := if m.rnd = .rs then q.seed + 1 else q.seed } : Quad).advance 3 := by
  simp only [if_neg still]
  exact h

/-- A packed shift on each half. -/
theorem packedShift_completes {amt : ShiftAmt} {f : Nat → Nat → Nat} (e : exec i s = packedShift s o amt f)
    (ready : LaneReady s g o ([.one o.vd, .one o.va] ++ amtOpnd o amt 1)) :
    Completes i s g fun _ q => (q.eachLane o fun _ l => l.setHalves o.vd.toNat fun h =>
      f (part 16 (l.rv o.va.toNat).toNat h) (halfAmount l o amt h)).advance 3 := by
  have done := laneMap_completes e ready
  simp only [write_halves, Lane.read_one] at done
  exact done

/-! ### Shifts of halves -/

theorem intShl_half {t : ElemTy} (h : t ∈ [ElemTy.i16, .n16]) (a k : Nat) : intShl t a k = a * 2 ^ k % 2 ^ 16 := by
  have width : ∀ t ∈ [ElemTy.i16, .n16], t.bits = 16 := by decide
  rw [intShl, width t h]

theorem intShr_half {t : ElemTy} (h : t ∈ [ElemTy.i16, .n16]) (a k : Nat) :
    intShr t a k = (BitVec.ofInt 16 (t.intOf a / 2 ^ k)).toNat := by
  have width : ∀ t ∈ [ElemTy.i16, .n16], t.bits = 16 := by decide
  rw [intShr, ElemTy.bitsOf_eq, width t h]

theorem halfAmount_imm {n : BitVec 6} (below : n.toNat < 16) (l : Lane) (h : Nat) : halfAmount l o (.imm n) h = n.toNat :=
  Nat.mod_eq_of_lt below

theorem halfAmount_reg (l : Lane) (h : Nat) : halfAmount l o .reg h = part 16 (l.rv o.vb.toNat).toNat h % 16 := by
  rw [halfAmount, Lane.read_one]

theorem shift_form {legal : Bool} {amt : ShiftAmt}
    (wf : (legal && m.form [.i16, .n16] false false false && amt.below 16) = true) :
    m.rnd ≠ .rs ∧ m.ty ∈ [ElemTy.i16, .n16] ∧ amt.below 16 = true := by
  obtain ⟨form, below⟩ := Bool.and_eq_true_iff.mp wf
  obtain ⟨still, half⟩ := form_nearest form
  exact ⟨still, half, below⟩

/-- An integer as a half holds it (R342). -/
def halfInt (m : Mods) (x : Int) : Nat :=
  (BitVec.ofInt 16 (if m.sat then max (if m.ty.isSigned then -2 ^ 15 else 0)
    (min x (if m.ty.isSigned then 2 ^ 15 - 1 else 2 ^ 16 - 1)) else x)).toNat

/-- An operation of a packed form: on the numbers of floats, on the integers of integers. -/
theorem packed_arith (packed : m.packed = true) (x : Nat) (y : Int) :
    (if m.ty.isFloat then x else m.ty.intResult m.sat y) = if m.ty.isFloat then x else halfInt m y := by
  split
  · rfl
  · next int => exact intResult_half (packed_int packed (by simpa using int)) m.sat y

theorem arith2_completes {F : FpMode → Nat → Nat → Nat} {op : Int → Int → Int} (packed : m.packed = true)
    (e : exec i s = packed2 s o m fun r a b => if m.ty.isFloat then F (modeOf m r) a b else intBin m.ty m.sat op a b)
    (ready : LaneReady s g o [.one o.vd, .one o.va, .one o.vb]) :
    Completes i s g fun n q =>
      let stoch (lane h : Nat) : Nat := if m.rnd = .rs then stochHash q.seed (4 * n + lane) h else 0
      let q' := q.eachLane o fun lane l => l.setHalves o.vd.toNat fun h =>
        let a := part 16 (l.rv o.va.toNat).toNat h
        let b := part 16 (l.rv o.vb.toNat).toNat h
        if m.ty.isFloat then F (modeOf m (stoch lane h)) a b else halfInt m (op (m.ty.intOf a) (m.ty.intOf b))
      ({ q' with seed := if m.rnd = .rs then q.seed + 1 else q.seed } : Quad).advance 3 := by
  have done := packed2_completes e ready
  simp only [intBin, packed_arith packed] at done
  exact done

/-- The dot product of halves, in f32 or a 32-bit integer (R343). -/
theorem dot2_eq (c : FpMode) (sat : Bool) (a b d : Nat) : dot2 c sat a b d =
    if c.ty.isFloat then
      f32.flush c.ftz (f32.roundTo c.rnd c.r false (((f32.decode (f32.flush c.ftz d)).add c.rnd
        ((c.arg (part 16 a 0)).mul (c.arg (part 16 b 0)))).add c.rnd ((c.arg (part 16 a 1)).mul (c.arg (part 16 b 1)))))
    else
      let t : ElemTy := if c.ty.isFloat then .f32 else if c.ty.isSigned then .i32 else .n32
      t.intResult sat (t.intOf d + c.ty.intOf (part 16 a 0) * c.ty.intOf (part 16 b 0) +
        c.ty.intOf (part 16 a 1) * c.ty.intOf (part 16 b 1)) := by
  unfold dot2
  split
  · rfl
  · next int =>
    dsimp only
    rw [show upTo 2 = [0, 1] from rfl]
    simp only [List.foldl, zero_add, add_assoc]

/-- A half that is converted from f32 (R343). -/
theorem convert_half {t : ElemTy} (h : t ∈ [ElemTy.f16, .bf16]) (rnd : Rnd) (r : Nat) (sat ftz : Bool) (x : Nat) :
    convert .f32 t rnd r sat ftz x =
      t.fmt.flush ftz (t.fmt.roundTo rnd r sat (f32.decode (f32.flush ftz x))) := by
  have either : t = .f16 ∨ t = .bf16 := by simpa using h
  rcases either with rfl | rfl <;> rfl

/-! ### Halves by name -/

theorem ofNat_halves {x y : Nat} (hx : x < 2 ^ 16) :
    BitVec.ofNat 32 (x + y * 2 ^ 16) = BitVec.ofNat 16 y ++ BitVec.ofNat 16 x := by
  apply BitVec.eq_of_toNat_eq
  rw [BitVec.toNat_append, ← Nat.shiftLeft_add_eq_or_of_lt (BitVec.isLt _), Nat.shiftLeft_eq, BitVec.toNat_ofNat,
    BitVec.toNat_ofNat, BitVec.toNat_ofNat]
  omega

/-- The half that `vhsel` names (R343). -/
def nameHalf (a b : Code) (h : BitVec 2) : BitVec 16 :=
  match h with
  | 0 => a.extractLsb' 0 16
  | 1 => a.extractLsb' 16 16
  | 2 => b.extractLsb' 0 16
  | 3 => b.extractLsb' 16 16

theorem namedHalf_eq (a b : Code) (h : BitVec 2) :
    namedHalf a.toNat b.toNat h < 2 ^ 16 ∧ BitVec.ofNat 16 (namedHalf a.toNat b.toNat h) = nameHalf a b h := by
  have some_ : ∀ h : BitVec 2, h = 0 ∨ h = 1 ∨ h = 2 ∨ h = 3 := by decide
  refine ⟨?_, ?_⟩
  · unfold namedHalf
    split <;> exact Nat.mod_lt _ (Nat.two_pow_pos 16)
  · rcases some_ h with rfl | rfl | rfl | rfl
    · exact ofNat_part 16 a 0
    · exact ofNat_part 16 a 1
    · exact ofNat_part 16 b 0
    · exact ofNat_part 16 b 1

/-! ### The instructions -/

/-- A form that performs goes on three words. -/
theorem laneMap_goesOn {rnd : Rnd} {f : Quad → Nat → Lane → Lane} (e : exec i s = laneMap s o opnds cost rnd f)
    (ready : LaneReady s g o opnds) :
    ∃ t, exec i s = .next t ∧ ∀ n ∈ g.quads, n < (s.waveOf g).quads.length → (s.quadOf g n).exited = false →
      (t.quadOf g n).pc = (s.quadOf g n).pc + 12 := by
  obtain ⟨t, next, effect⟩ := laneMap_completes e ready
  refine ⟨t, next, fun n hn hl hx => ?_⟩
  rw [effect.each n hn hl hx, Quad.reseed_eq]
  rfl

/-- Settles O17: a form writes each half by itself (`write_halves`), with integers as `intResult_half` narrows them. -/
theorem packedHalves : Obligations.PackedHalves := by
  refine ⟨?halves, ?moves⟩
  case halves =>
    intro s g o m n h0 h1 f half val num lo hi fit two puts ops ops3 round pick
    refine ⟨?add, ?sub, ?mul, ?fma, ?min, ?max, ?shlImm, ?shl, ?shrImm, ?shr, ?dot, ?cvt, ?hsel⟩
    case add =>
      intro wf ready
      rw [Instr.wf, Bool.and_eq_true_iff] at wf
      have done := arith2_completes wf.2 (exec_vadd2 s) ready
      exact done
    case sub =>
      intro wf ready
      rw [Instr.wf, Bool.and_eq_true_iff] at wf
      have done := arith2_completes wf.2 (exec_vsub2 s) ready
      exact done
    case mul =>
      intro wf ready
      rw [Instr.wf, Bool.and_eq_true_iff] at wf
      have done := arith2_completes wf.2 (exec_vmul2 s) ready
      exact done
    case fma =>
      intro wf ready
      rw [Instr.wf, Bool.and_eq_true_iff] at wf
      have done := roundedHalves_completes (fun st l => l.write o.vd.toNat 1 (halves (fun h a b c =>
        if m.ty.isFloat then (modeOf m (st h)).fma a b c else intMad m.ty m.sat a b c)
          (l.read o.va.toNat 1) (l.read o.vb.toNat 1) (l.read o.vc.toNat 1))) (exec_vfma2 s) ready
      simp only [write_halves, Lane.read_one, intMad, packed_arith wf.2] at done
      exact done
    case min =>
      intro wf ready
      have done := packed2_completes (exec_vmin2 (m := m) s) ready
      exact done
    case max =>
      intro wf ready
      have done := packed2_completes (exec_vmax2 (m := m) s) ready
      exact done
    case shlImm =>
      intro wf ready
      obtain ⟨still, half, below⟩ := shift_form wf
      have done := packedShift_completes (exec_vshl2 (m := m) (amt := .imm n) s) ready
      simp only [intShl_half half, halfAmount_imm (by simpa [ShiftAmt.below] using below)] at done
      exact completes_still still done
    case shl =>
      intro wf ready
      obtain ⟨still, half, below⟩ := shift_form wf
      have done := packedShift_completes (exec_vshl2 (m := m) (amt := .reg) s) ready
      simp only [intShl_half half, halfAmount_reg] at done
      exact completes_still still done
    case shrImm =>
      intro wf ready
      obtain ⟨still, half, below⟩ := shift_form wf
      have done := packedShift_completes (exec_vshr2 (m := m) (amt := .imm n) s) ready
      simp only [intShr_half half, halfAmount_imm (by simpa [ShiftAmt.below] using below)] at done
      exact completes_still still done
    case shr =>
      intro wf ready
      obtain ⟨still, half, below⟩ := shift_form wf
      have done := packedShift_completes (exec_vshr2 (m := m) (amt := .reg) s) ready
      simp only [intShr_half half, halfAmount_reg] at done
      exact completes_still still done
    case dot =>
      intro wf ready
      have done := roundedHalves_completes (fun st l => l.write o.vd.toNat 1 (dot2 (modeOf m (st 0)) m.sat
        (l.read o.va.toNat 1) (l.read o.vb.toNat 1) (l.read o.vc.toNat 1))) (exec_vdot2 s) ready
      simp only [Lane.write_one, Lane.read_one, dot2_eq] at done
      exact done
    case cvt =>
      intro wf ready
      have half := Mods.ty_mem (Bool.and_eq_true_iff.mp wf).2
      have done := roundedHalves_completes (fun st l => l.write o.vd.toNat 1
        (convert .f32 m.ty m.rnd (st 0) m.sat m.ftz (l.read o.va.toNat 1) +
          convert .f32 m.ty m.rnd (st 1) m.sat m.ftz (l.read o.vb.toNat 1) * 2 ^ 16)) (exec_vcvt2 s) ready
      simp only [Lane.write_one, Lane.read_one, convert_half half] at done
      exact done
    case hsel =>
      intro ready
      have done := laneSet_completes (exec_vhsel (h0 := h0) (h1 := h1) s) ready (r := fun l =>
        nameHalf (l.rv o.va.toNat) (l.rv o.vb.toNat) h1 ++ nameHalf (l.rv o.va.toNat) (l.rv o.vb.toNat) h0) fun l => by
          rw [Lane.read_one, Lane.read_one, ofNat_halves (namedHalf_eq _ _ h0).1, (namedHalf_eq _ _ h0).2, (namedHalf_eq _ _ h1).2]
      exact done
  case moves =>
    rintro s g o m src si di i opnds (⟨rfl, rfl⟩ | ⟨rfl, rfl⟩ | ⟨rfl, rfl⟩) ready
    · exact laneMap_goesOn (exec_vcvt s) ready
    · exact laneMap_goesOn (exec_vpack s) ready
    · exact laneMap_goesOn (exec_vunpack s) ready

end Sys2Proof.Machine
end

section
/-! Predicate and mask instructions (O19; R315, R316). -/

namespace Sys2Proof.Machine

variable {s : State} {g : GangRef} {o : LaneOp} {i : Instr} {opnds : List Opnd} {cost : GangRef → Nat}

/-- Every lane changed by itself. -/
theorem mapLanes_eq (q : Quad) (f : Nat → Lane → Lane) :
    q.mapLanes f = { q with lanes := Vector.ofFn fun i => f i.val q.lanes[i] } := by
  unfold Quad.mapLanes Quad.modLane
  rw [show upTo 4 = [0, 1, 2, 3] from rfl]
  simp only [List.foldl]
  congr 1
  apply Vector.ext
  intro i hi
  have : i = 0 ∨ i = 1 ∨ i = 2 ∨ i = 3 := by omega
  rcases this with rfl | rfl | rfl | rfl <;> simp [modVec]

/-- A short form that changes each quad by itself performs. -/
theorem laneQuads_completes {f : Nat → Quad → Quad} (e : exec i s = laneQuads s o opnds cost f) (ready : LaneReady s g o opnds)
    (hh : ∀ n q, (f n q).inHandler = q.inHandler) (he : ∀ n q, (f n q).exited = q.exited) :
    Completes i s g fun n q => (f n q).advance 3 := by
  obtain ⟨t, next, effect⟩ := laneQuads_effect ready cost f hh he
  exact ⟨t, e.trans next, effect⟩

/-- A predicate form writes p[vd] in the active lanes (R315). -/
theorem predStep_completes {f : Quad → Nat → Lane → Bool} (e : exec i s = predStep s o opnds f) (ready : LaneReady s g o opnds) :
    Completes i s g fun _ q => (q.eachLane o fun i l => l.setP o.vd.toNat (f q i l)).advance 3 := by
  have done := laneQuads_completes e ready (fun _ _ => rfl) fun _ _ => rfl
  simp only [mapLanes_eachLane] at done
  exact done

/-- A sum of the powers of two that a test of four lanes names has the bits of the test. -/
theorem testBit_lanes (f : Nat → Bool) (i : Nat) :
    ((upTo 4).foldl (fun x i => if f i then x + 2 ^ i else x) 0).testBit i = (decide (i < 4) && f i) := by
  rw [upTo, ← List.foldl_filter]
  exact (testBit_sum_pow f 4).2 i

theorem mask4_getLsbD (f : Nat → Bool) {i : Nat} (hi : i < 4) : (mask4 f).getLsbD i = f i := by
  rw [mask4, BitVec.getLsbD_ofNat, testBit_lanes]
  simp [hi]

theorem predBits_getLsbD (q : Quad) (n i : Nat) :
    (BitVec.ofNat 64 (q.predBits n)).getLsbD i = (decide (i < 4) && (q.lane i).p.getLsbD n) := by
  rw [Quad.predBits, BitVec.getLsbD_ofNat, testBit_lanes]
  by_cases hi : i < 4
  · simp [hi, show i < 64 by omega, Lane.rp]
  · simp [hi]

/-- A mask form decides the `em` bit of each lane that passes the guard (R316). -/
theorem maskStep_completes {f : Quad → Nat → Bool} (e : exec i s = maskStep s o opnds f) (ready : LaneReady s g o opnds) :
    ∃ em : Quad → BitVec 4,
      (∀ q, ∀ i < 4, (em q).getLsbD i = if guardOk o (q.lane i) then f q i else q.em.getLsbD i) ∧
      Completes i s g fun _ q => ({ q with em := em q } : Quad).advance 3 :=
  ⟨_, fun _ _ hi => (mask4_getLsbD _ hi).trans rfl, laneQuads_completes e ready (fun _ _ => rfl) fun _ _ => rfl⟩

/-- Settles O19: a predicate form writes the active lanes (`predStep_completes`), a mask form the `em` bits of the lanes that pass
the guard (`maskStep_completes`). -/
theorem predicatesAndMasks : Obligations.PredicatesAndMasks := by
  intro s g o bit pred mask p2 pa pb sa
  refine ⟨predStep_completes (exec_pand s), predStep_completes (exec_por s), ?xor, predStep_completes (exec_pandn s),
    predStep_completes (exec_pnot s), predStep_completes (exec_pset s), predStep_completes (exec_pfroms s),
    maskStep_completes (exec_pmand s), maskStep_completes (exec_pmandn s), maskStep_completes (exec_pmor s),
    maskStep_completes (exec_pmset s), ?mtos, ?ptos, ?mtop⟩
  case xor =>
    intro ready
    have done := predStep_completes (exec_pxor s) ready
    simp only [Bool.bne_eq_xor] at done
    exact done
  case mtos => exact fun ready => laneQuads_completes (exec_pmtos s) ready (fun _ _ => rfl) fun _ _ => rfl
  case ptos =>
    exact fun ready => ⟨fun q => BitVec.ofNat 64 (q.predBits o.va.toNat), fun q => predBits_getLsbD q _,
      laneQuads_completes (exec_ptos s) ready (fun _ _ => rfl) fun _ _ => rfl⟩
  case mtop =>
    intro ready
    have done := laneQuads_completes (exec_pmtop s) ready (fun _ _ => rfl) fun _ _ => rfl
    simp only [mapLanes_eq] at done
    exact done

end Sys2Proof.Machine
end

section
/-! Stores, zeroed lines and prefetches at issue (O25; R318, R355, R357, R361). -/

namespace Sys2Proof.Machine

variable {s s1 t u : State} {g : GangRef} {o : LaneOp} {i : Instr} {locs : List Loc}

/-! ### What a check leaves -/

theorem quadOf_of_reads (reads : ReadOnly s t) (n : Nat) : t.quadOf g n = s.quadOf g n := quadOf_congr reads.sameAgents.teams n

/-- Addresses that pass their checks leave the quads alone. -/
theorem quadOf_checked {asks : List Ask} {bad : List (Ask × MFault)} (h : checkAsks s g asks = (s1, locs, bad)) (n : Nat) :
    s1.quadOf g n = s.quadOf g n := by
  have reads := ReadOnly.checkAsks s g asks
  rw [h] at reads
  exact quadOf_of_reads reads n

/-- Accesses that pass their checks are performed (R353). -/
theorem checked_performs {asks : List Ask} {src : TrapSrc} (passed : checkAsks s g asks = (s1, locs, []))
    (perform : State → List Loc → State) : s.checked g asks src perform = perform s1 locs := by
  unfold State.checked
  rw [passed]

theorem live_of_teams (h : t.teams = s.teams) : t.live g = s.live g := by
  unfold State.live
  simp only [quadOf_congr h]

/-! ### What is stored -/

/-- What the quads store, at the places of their addresses. -/
theorem zip_data {α β : Type} (l : List α) (f : α → Ask) (d : α → β) (locs : List Loc) (e : Ask → β)
    (same : ∀ a ∈ l, e (f a) = d a) :
    ((l.map f).zip locs).map (fun x => (x.1.quad, x.2, e x.1)) =
      (((l.map f).zip locs).zip (l.map d)).map fun x => (x.1.1.quad, x.1.2, x.2) := by
  induction l generalizing locs with
  | nil => rfl
  | cons a l ih =>
    cases locs with
    | nil => rfl
    | cons p locs =>
      simp only [List.map_cons, List.zip_cons_cons, same a List.mem_cons_self,
        ih locs fun b hb => same b (List.mem_cons_of_mem _ hb)]

/-- Stores that have passed their checks are performed, and the gang goes on. -/
theorem store_completes {len cost : Nat} {src : TrapSrc} {items : List (Nat × Loc × List Byte)}
    (does : exec i s = .next ((storeAll t g src items).retire g len cost .count)) :
    CompletesFrom i s g (storeAll t g src items) fun _ q => q.advance len :=
  ⟨_, does, retire_count_effect _ g len cost⟩

/-- A store of each quad that passes its checks is performed with what the quad holds. -/
theorem checked_stores {f : Nat → Ask} (quad : ∀ n, (f n).quad = n) (data : Quad → List Byte) (src : TrapSrc) (len cost : Nat)
    (passed : checkAsks s g ((s.live g).map f) = (s1, locs, [])) :
    (s.checked g ((s.live g).map f) src fun u locs => (storeAll u g src ((((s.live g).map f).zip locs).map fun x =>
      (x.1.quad, x.2, data (u.quadOf g x.1.quad)))).retire g len cost .count) =
    (storeAll s1 g src (((((s.live g).map f).zip locs).zip ((s.live g).map fun n => data (s.quadOf g n))).map fun x =>
      (x.1.1.quad, x.1.2, x.2))).retire g len cost .count := by
  rw [checked_performs passed]
  have items := zip_data (s.live g) f (fun n => data (s.quadOf g n)) locs (fun a => data (s1.quadOf g a.quad))
    fun n _ => by rw [quadOf_checked passed, quad]
  exact congrArg (fun items => (storeAll s1 g src items).retire g len cost .count) items

theorem scalarStore_completes {sd sa : SReg} {imm : BitVec 12} {len : Nat} (hg : s.issuing = some g)
    (does : exec i s = scalarStore sd sa imm len s) (passed : checkAsks s g (scalarAsks s g sa imm len 1 .store) = (s1, locs, [])) :
    CompletesFrom i s g (storeAll s1 g 1 ((((scalarAsks s g sa imm len 1 .store).zip locs).zip
      ((s.live g).map fun n => leBytes len ((s.quadOf g n).rs sd).toNat)).map fun x => (x.1.1.quad, x.1.2, x.2)))
        fun _ q => q.advance 1 :=
  store_completes (cost := 1) (does.trans ((withGang_next hg _).trans (congrArg _
    (checked_stores (fun _ => rfl) (fun q => leBytes len (q.rs sd).toNat) 1 1 1 passed))))

theorem jst_completes {off : BitVec 32} (ready : LaneReady s g o [.j o.vd, .s o.va])
    (passed : checkAsks s g (joinAsks s g o off .store) = (s1, locs, [])) :
    CompletesFrom (.jst o off) s g (storeAll s1 g 0 ((((joinAsks s g o off .store).zip locs).zip
      ((s.live g).map fun n => [(s.quadOf g n).join o.vd.toNat])).map fun x => (x.1.1.quad, x.1.2, x.2)))
        fun _ q => q.advance 3 := by
  obtain ⟨_, _, does⟩ := laneStep_next ready fun _ s g =>
    let asks := joinAsks s g o off .store
    s.checked g asks 0 fun s locs => (storeAll s g 0 ((asks.zip locs).map fun x =>
      (x.1.quad, x.2, [(s.quadOf g x.1.quad).join o.vd.toNat]))).retire g 3 (cycles32 g) .count
  have stored := checked_stores (fun _ => rfl) (fun q => [q.join o.vd.toNat]) 0 3 (cycles32 g) passed
  exact store_completes (cost := cycles32 g) (Eq.trans does (congrArg _ stored))

/-! ### Vector stores -/

theorem activeLanes_of_teams (h : t.teams = s.teams) : t.activeLanes g o = s.activeLanes g o := by
  unfold State.activeLanes
  simp only [live_of_teams h, quadOf_congr h]

/-- A vector store that passes its checks is performed, with its bank conflicts counted first (R361, R363). -/
theorem vectorStore_completes {ty : ElemTy} {asks : List Ask}
    (does : exec i s = .next (vectorStore s g o ty asks)) (passed : checkAsks s g asks = (s1, locs, [])) :
    CompletesFrom i s g (storeAll (s1.bankCount g (scratchOf asks locs)) g 0 (((asks.zip locs).zip
      ((s.activeLanes g o).map fun x => leBytes (ty.bits / 8) (((s.quadOf g x.1).lane x.2).read o.vc.toNat (regsOf ty)))).map
        fun x => (x.1.1.quad, x.1.2, x.2))) fun _ q => q.advance 3 := by
  refine store_completes (cost := cycles32 g) (does.trans (congrArg _ ?_))
  unfold vectorStore
  rw [checked_performs passed]
  have teams : (s1.bankCount g (scratchOf asks locs)).teams = s.teams := by
    have reads := ReadOnly.checkAsks s g asks
    rw [passed] at reads
    exact reads.sameAgents.teams
  dsimp only
  simp only [activeLanes_of_teams teams, quadOf_congr teams, List.zip_map_right, List.map_map]
  rfl

/-! ### Prefetches -/

/-- A prefetch is a read that faults nowhere (R357). -/
theorem ReadOnly.prefetch (s : State) (core : Nat) (c : BitVec 6) (l1 : Bool) (va : Word) :
    ReadOnly s (prefetch s core c l1 va) := by
  have found := ReadOnly.translate s core c va .read
  unfold Machine.prefetch
  split
  · exact .refl s
  · split
    · next h =>
      rw [h] at found
      exact found
    · next h =>
      rw [h] at found
      split
      · split
        · exact found.trans (.fillClean ..)
        · exact found.trans (.touchLine ..)
      · exact found

/-- Prefetches that the gang performs. -/
theorem prefetches_complete {α : Type} {l : List α} {f : State → α → State} {len cost : Nat}
    (reads : ∀ s a, ReadOnly s (f s a)) (does : exec i s = .next ((l.foldl f s).retire g len cost .count)) :
    ∃ u, ReadOnly s u ∧ CompletesFrom i s g u fun _ q => q.advance len :=
  ⟨_, ReadOnly.foldl reads l s, _, does, retire_count_effect _ g len cost⟩

/-- Settles O25: accesses that pass their checks are performed in order (`checked_stores`, `vectorStore_completes`), and a prefetch
is a read (`ReadOnly.prefetch`). -/
theorem storesPerform : Obligations.StoresPerform := by
  intro s s1 g locs sd sa imm o ty m off live lanes si scalar join vector stores low vdata addr
  refine ⟨fun hg => ⟨?n64, ?n32, ?dzero, ?l2, ?l1⟩, ?jst, ?vst, ?vsts, ?vpf⟩
  case n64 => exact scalarStore_completes hg (exec_sstN64 s)
  case n32 => exact scalarStore_completes hg (exec_sstN32 s)
  case dzero =>
    intro passed
    refine ⟨_, (withGang_next hg _).trans (congrArg _ ?_), retire_count_effect _ g 1 1⟩
    refine (checked_performs passed _).trans (congrArg (State.retire · g 1 1 .count) ?_)
    rw [scalarAsks, List.zip_map_left, List.foldl_map]
    rfl
  case l2 => exact prefetches_complete (fun _ _ => .prefetch ..) (withGang_next hg _)
  case l1 => exact prefetches_complete (fun _ _ => .prefetch ..) (withGang_next hg _)
  case jst => exact jst_completes
  case vst =>
    intro ready passed
    obtain ⟨_, _, does⟩ := laneStep_next ready fun _ s g => vectorStore s g o ty (laneAsks s g o m (memBytes ty) 1 .store)
    exact vectorStore_completes does passed
  case vsts =>
    intro ready passed
    obtain ⟨_, _, does⟩ := laneStep_next ready fun _ s g => vectorStore s g o ty (scratchAsks s g o m (memBytes ty) .store)
    exact vectorStore_completes does passed
  case vpf =>
    intro ready
    obtain ⟨_, _, does⟩ := laneStep_next ready fun _ s g => ((s.activeLanes g o).foldl (fun s x =>
      prefetch s (s.coreOf g) (s.ctxOf g) true ((s.quadOf g x.1).laneAddr o m x.2)) s).retire g 3 (cycles32 g) .count
    exact prefetches_complete (fun _ _ => .prefetch ..) does

end Sys2Proof.Machine
end

section
/-! What one atomic reads and writes (O29; R347, R351, R356, R364, R367). -/

namespace Sys2Proof

/-- The value an atomic of `n` bytes writes (R356, R364), with its operand a number of that width. -/
theorem AtomOp.apply_eq (op : AtomOp) {n old b expected : Nat} (old_lt : old < 2 ^ (8 * n)) (b_lt : b < 2 ^ (8 * n)) :
    op.apply n old b expected = match op with
      | .add => (old + b) % 2 ^ (8 * n)
      | .swap => b
      | .and => old &&& b
      | .or => old ||| b
      | .xor => old ^^^ b
      | .minS => if Machine.toSigned (8 * n) old < Machine.toSigned (8 * n) b then old else b
      | .minN => min old b
      | .maxS => if Machine.toSigned (8 * n) old < Machine.toSigned (8 * n) b then b else old
      | .maxN => max old b
      | .cas => if old = expected then b else old := by
  have kept := Nat.mod_eq_of_lt b_lt
  cases op with
  | add | and => rfl
  | swap => exact kept
  | or => exact Nat.mod_eq_of_lt (Nat.or_lt_two_pow old_lt b_lt)
  | xor => exact Nat.mod_eq_of_lt (Nat.xor_lt_two_pow old_lt b_lt)
  | minS | maxS | cas => simp only [AtomOp.apply, kept, decide_eq_true_eq]
  | minN =>
    simp only [AtomOp.apply, kept]
    split <;> omega
  | maxN =>
    simp only [AtomOp.apply, kept]
    split <;> omega

namespace Machine

variable {s : State} {g : GangRef} {src : TrapSrc} {ord : MemOrd} {pend : Nat} {targets : List (Nat × Nat × Nat)}
  {a : AtomReq}

theorem leNat_read_lt (m : Mem) (x n : Nat) : leNat (m.read x n) < 2 ^ (8 * n) := by
  have := leNat_lt (m.read x n)
  rwa [Mem.length_read, show (256 : Nat) = 2 ^ 8 from rfl, ← pow_mul] at this

/-! ### At scratchpad -/

theorem atomAt_scratch (off : Nat) : atomAt s g src ord pend targets a (.scratch off) =
    (if a.get then s else s.scratchWrite g.t off (leBytes a.ask.len
        (a.op.apply a.ask.len (leNat ((s.teamOf g).scratch.read off a.ask.len)) a.operand a.expected)) src,
      { bytes := (s.teamOf g).scratch.read off a.ask.len, fault := none, reqs := [] }) := rfl

/-- The bytes of scratchpad after a write. -/
theorem scratchWrite_get {off src : Nat} {bs : List Byte} (live : g.t < s.teams.length)
    (wf : (s.teamOf g).scratch.wf = true) (x : Nat) : ((s.scratchWrite g.t off bs src).teamOf g).scratch.get x =
      if off ≤ x ∧ x < off + bs.length then bs.getD (x - off) 0 else (s.teamOf g).scratch.get x := by
  unfold State.teamOf at wf ⊢
  rw [State.scratchWrite_scratch, State.team_modTeam, if_pos ⟨rfl, live⟩]
  exact Mem.get_write off bs x wf

/-- The bytes of scratchpad after an atomic. -/
theorem atomAt_scratch_get {off : Nat} (live : g.t < s.teams.length) (wf : (s.teamOf g).scratch.wf = true) (x : Nat) :
    ((atomAt s g src ord pend targets a (.scratch off)).1.teamOf g).scratch.get x =
      if a.get = false ∧ off ≤ x ∧ x < off + a.ask.len then
        (leBytes a.ask.len (a.op.apply a.ask.len (leNat ((s.teamOf g).scratch.read off a.ask.len)) a.operand
          a.expected)).getD (x - off) 0
      else (s.teamOf g).scratch.get x := by
  have written := scratchWrite_get (off := off) (src := src) (bs := leBytes a.ask.len (a.op.apply a.ask.len
    (leNat ((s.teamOf g).scratch.read off a.ask.len)) a.operand a.expected)) live wf x
  rw [length_leBytes] at written
  rw [atomAt_scratch]
  dsimp only
  cases a.get with
  | true => simp
  | false => simpa using written

/-! ### At a line of HBM -/

section hbm
variable {n pa : Nat} {va : Word} {e : TlbEntry}

/-- An atomic on a sound line of HBM that the core does not hold: its clean copy leaves the core first. -/
theorem atomAt_hbm (hbm : physKind pa = .hbm) (sound : s.isPoisoned (lineOf pa) = false)
    (free : (s.core (s.coreOf g)).heldLine (s.ctxOf g) (va.toNat / 128) = none) :
    let u := s.modCore (s.coreOf g) (·.dropClean (s.ctxOf g) (va.toNat / 128))
    atomAt s g src ord pend targets a (.mem [(pa, n, va, e)]) =
      ((if a.get then u.dirtyLine (lineOf pa) (s.ctxOf g)
        else u.homeWrite (s.ctxOf g) pa (leBytes n (a.op.apply n (leNat (s.mem.read pa n)) a.operand a.expected)) src).lowAs
          pa e.low,
        { bytes := s.mem.read pa n, fault := none, reqs := [] }) := by
  intro u
  have sound' : u.isPoisoned (lineOf pa) = false := sound
  unfold atomAt
  simp only [hbm, flushLine_none free]
  exact if_neg (by rw [sound']; decide)

theorem dirtyLine_rest (s : State) (line : Nat) (c : BitVec 6) :
    (s.dirtyLine line c).mem = s.mem ∧ (s.dirtyLine line c).teams = s.teams := by
  unfold State.dirtyLine
  split <;> exact ⟨rfl, rfl⟩

/-- The bytes of memory after a write at a home slice that makes no counter word fall, once the core has let its clean
copy go. -/
theorem homeWrite_dropClean_get {core l : Nat} {c : BitVec 6} {bs : List Byte} (some_ : bs ≠ []) (wf : s.mem.wf = true)
    (rises : ∀ y ∈ wordsIn pa bs.length, s.word y ≤ (s.rawWrite c pa bs).word y) (x : Nat) :
    ((s.modCore core (·.dropClean c l)).homeWrite c pa bs src).mem.get x =
      if pa ≤ x ∧ x < pa + bs.length then bs.getD (x - pa) 0 else s.mem.get x := by
  have unseen : s.fallsUnseen (s.rawWrite c pa bs) pa bs.length :=
    fun y hy falls => absurd falls (BitVec.not_lt.mpr (rises y hy))
  have written := homeWrite_dropped (a := core) (f := (·.dropClean c l)) (src := src) (fun _ => rfl) some_ unseen
  exact (congrArg (Mem.get · x) written.mem).trans (State.rawWrite_get c pa bs x wf)

end hbm

/-! ### The adds of `vappend` -/

theorem appendReq_none {o : LaneOp} {imm : BitVec 32} {w base : Nat} (empty : appenders s g o base w = []) :
    appendReq s g o imm w base = [] := by
  unfold appendReq
  rw [empty]

/-- A span in which lanes append makes one add of their number, whose old value, plus its rank, each of them receives. -/
theorem appendReq_one {o : LaneOp} {imm : BitVec 32} {w base q i : Nat} {rest : List (Nat × Nat)}
    (first : appenders s g o base w = (q, i) :: rest) : ∃ r, appendReq s g o imm w base = [r] ∧
      r.op = .add ∧ r.operand = ((q, i) :: rest).length ∧ r.get = false ∧ r.ask.len = 4 ∧ r.ask.align = 4 ∧
      (∀ z ∈ r.ask :: r.more, z.addr = (s.quadOf g q).rsN o.vb.toNat + imm.signExtend 64) ∧
      r.dests.map (fun d => (d.quad, d.dest, d.plus)) =
        (((q, i) :: rest).zip (List.range ((q, i) :: rest).length)).map fun y => (y.1.1, .v y.1.2 o.vd.toNat 1, y.2) := by
  unfold appendReq
  rw [first]
  refine ⟨_, rfl, rfl, rfl, rfl, rfl, rfl, fun z hz => ?_, ?_⟩
  · obtain rfl | hz := List.mem_cons.mp hz
    · rfl
    · obtain ⟨n, _, rfl⟩ := List.mem_map.mp hz
      rfl
  · exact List.map_map

/-- Settles O29: an atomic gives the old bytes (`atomAt_scratch`, `atomAt_hbm`) and writes the value of its operation
(`AtomOp.apply_eq`) alone (`atomAt_scratch_get`, `homeWrite_dropClean_get`); a span's add is `appendReq_one`. -/
theorem atomicValue : Obligations.AtomicValue := by
  intro s g src ord pend targets a n pa off va e o imm w base k b int new
  refine ⟨?scratch, ?hbm, fun empty => appendReq_none empty, fun q i rest first => ?appends⟩
  case scratch =>
    intro _ len b_lt live wf old r
    subst len
    refine ⟨rfl, fun x => ?_⟩
    have got := atomAt_scratch_get (src := src) (ord := ord) (pend := pend) (targets := targets) (a := a) (off := off)
      live wf x
    rw [AtomOp.apply_eq _ (leNat_read_lt ..) b_lt] at got
    exact got
  case hbm =>
    intro _ b_lt hbm sound free wf old r
    have does := atomAt_hbm (src := src) (ord := ord) (pend := pend) (targets := targets) (a := a) (n := n) (e := e)
      hbm sound free
    refine ⟨congrArg Prod.snd does, fun get => ?_, fun write rises x => ?_⟩
    · have reads := congrArg Prod.fst does
      rw [if_pos get] at reads
      exact ⟨(congrArg State.mem reads).trans (dirtyLine_rest ..).1, (congrArg State.teams reads).trans (dirtyLine_rest ..).2⟩
    · have writes := congrArg Prod.fst does
      rw [if_neg (by simp [write]), AtomOp.apply_eq _ (leNat_read_lt ..) b_lt] at writes
      have got := homeWrite_dropClean_get (src := src) (core := s.coreOf g) (l := va.toNat / 128) (c := s.ctxOf g)
        (bs := leBytes n (new (leNat old))) (List.ne_nil_of_length_pos (by simpa)) wf (by simpa using rises) x
      rw [length_leBytes] at got
      exact (congrArg (fun t : State => t.mem.get x) writes).trans got
  case appends =>
    obtain ⟨r, one, fields⟩ := appendReq_one first
    exact ⟨r, one, first ▸ fields⟩

end Machine
end Sys2Proof
end

section
/-! The A-latch and stamps (O37; R391, R408, R471). -/

namespace Sys2Proof.Machine

variable {s u : State} {g : GangRef} {locs : List Loc}

/-- The A-latch of a quarter after the wave `w` of team `t` frees it where it is its owner. -/
def Latch.freedBy (t w : Nat) (x : Latch) : Latch := if x.owner = some (t, w) then Latch.free else x

theorem freedBy_reset (t w : Nat) (i : Nat) (y : Quarter) (here : CoreSt.reset.quarters[i]? = some y) :
    y.latch.freedBy t w = y.latch := by
  obtain ⟨_, rfl⟩ : i < 4 ∧ _ = y := by
    rw [CoreSt.reset, Vector.getElem?_replicate] at here
    simpa using here
  exact if_neg nofun

/-- Freeing a latch changes nothing but the quarters of one core. -/
theorem freeLatch_core (s : State) (t w c : Nat) :
    (s.freeLatch t w).core c = { s.core c with quarters := ((s.freeLatch t w).core c).quarters } := by
  unfold State.freeLatch
  dsimp only
  rw [State.core_modCore]
  split <;> rfl

theorem freeLatch_latch (s : State) (t w c i : Nat) :
    (((s.freeLatch t w).core c).quarters[i]?).map (·.latch) = ((s.core c).quarters[i]?).map fun y =>
      if c = (s.wave t w).core ∧ i = (s.wave t w).quarter then y.latch.freedBy t w else y.latch := by
  unfold State.freeLatch
  dsimp only
  rw [State.core_modCore]
  by_cases core : c = (s.wave t w).core
  · by_cases legal : c < 288
    · rw [if_pos ⟨core, legal⟩]
      dsimp only
      rw [modVec_getElem?]
      by_cases quarter : i = (s.wave t w).quarter
      · rw [if_pos quarter, Option.map_map]
        refine congrFun (congrArg Option.map (funext fun y => ?_)) _
        rw [if_pos ⟨core, quarter⟩, Function.comp_apply, Latch.freedBy]
        exact apply_ite Quarter.latch _ _ _
      · simp [quarter]
    · rw [if_neg fun h => legal h.2, State.core, dif_neg legal]
      cases here : CoreSt.reset.quarters[i]? with
      | none => rfl
      | some y =>
        rw [Option.map_some, Option.map_some, freedBy_reset _ _ _ _ here]
        exact congrArg some (ite_self _).symm
  · simp [core]

theorem mrel_completes (hg : s.issuing = some g) :
    CompletesFrom .mrel s g (s.freeLatch g.t g.w) fun _ q => q.advance 1 :=
  ⟨_, withGang_next hg _, retire_count_effect _ g 1 1⟩

/-- A stamp that opens takes the next identity. -/
theorem sstampOpen_completes {sa : SReg} (hg : s.issuing = some g)
    (passed : checkAsks s g ((s.live g).map fun n => { quad := n, lanes := 0xF, addr := (s.quadOf g n).rs sa, len := 64
                                                       align := 64, need := .store, spad := false }) = (u, locs, [])) :
    CompletesFrom (.sstampOpen sa) s g u.bumpId fun _ q =>
      ({ q with stamp := some (Stamp.opened u.nextId (q.rs sa) u.clk) } : Quad).advance 1 :=
  ⟨_, (withGang_next hg _).trans (congrArg _ (checked_performs passed _)),
    retire_effect u.bumpId g 1 1 (fun _ q => { q with stamp := some (Stamp.opened u.nextId (q.rs sa) u.clk) })
      (fun _ _ => rfl) fun _ _ => rfl⟩

/-- The open stamps of the gang's quads. -/
def openStamps (s : State) (g : GangRef) : List (Nat × Stamp) :=
  (s.live g).filterMap fun n => (s.quadOf g n).stamp.map fun x => (n, x)

theorem sstampClose_completes (hg : s.issuing = some g)
    (passed : checkAsks s g ((openStamps s g).map fun x => { quad := x.1, lanes := 0xF, addr := x.2.addr, len := 64
                                                             align := 64, need := .store, spad := false }) =
      (u, locs, [])) :
    CompletesFrom .sstampClose s g
      (storeAll u g 1 (((openStamps s g).zip locs).map fun x => (x.1.1, x.2, x.1.2.bytes u.clk)))
      fun _ q => ({ q with stamp := none } : Quad).advance 1 :=
  ⟨_, (withGang_next hg _).trans (congrArg _ (checked_performs passed _)),
    retire_effect _ g 1 1 (fun _ q => { q with stamp := none }) (fun _ _ => rfl) fun _ _ => rfl⟩

/-- The record of a stamp, field by field (R471). -/
theorem Stamp.bytes_eq (x : Stamp) (clk : Nat) : x.bytes clk =
    leBytes 8 x.openClk ++ leBytes 8 clk ++ leBytes 8 (x.inStart.getD 0) ++ leBytes 8 (x.inEnd.getD 0) ++
      leBytes 8 x.opWait ++ leBytes 8 x.mmBusy ++ leBytes 8 (x.outStart.getD 0) ++ leBytes 8 (x.outEnd.getD 0) := by
  simp only [Stamp.bytes, List.flatMap_cons, List.flatMap_nil, List.append_nil, List.append_assoc]

/-- Settles O37: `mrel` frees the latch of the wave's quarter (`freeLatch_latch`), `sstampOpen_completes` and
`sstampClose_completes` give what stamps do. -/
theorem latchAndStamps : Obligations.LatchAndStamps := by
  intro s u g sa locs hg live asks opened record
  simp only [asks]
  refine ⟨⟨s.freeLatch g.t g.w, rfl, mrel_completes hg, freeLatch_core s g.t g.w, fun c i => ?_⟩, fun passed => ?_, fun passed => ?_⟩
  · rw [freeLatch_latch]
    refine congrFun (congrArg Option.map (funext fun y => ?_)) _
    simp only [ite_and, Latch.freedBy]
    rfl
  · rw [List.map_map] at passed
    exact sstampOpen_completes hg passed
  · rw [List.map_map] at passed
    have done := sstampClose_completes hg passed
    simp only [Stamp.bytes_eq] at done
    exact done

end Sys2Proof.Machine
end

section
/-! SUPPORT. What no operation on the caches, the home slices, the error log and the accumulates touches (`State.apart`): the
clock, the agenda, the links, the launches, the phases and registers of the contexts, and all that belongs to the device
rather than to a wave. -/

namespace Sys2Proof.Machine

variable {s : State}

/-- A context without what the error log and the order logs change: its queues, which a regression stops, and what a log has
lost. -/
def Ctx.apart (x : Ctx) : Ctx :=
  { x with lost := 0, queues := (Ctx.fresh .destroyed).queues, lnOvf := false, lnDiverged := false }

/-- A port without the vectors that are raised at it and the writes that are sent to it. -/
def PortSt.apart (x : PortSt) : PortSt := { x with sent := [], msix := State.reset.ports[0].msix, raised := [] }

/-- The machine without what the caches, the slices, the log and the accumulates change. -/
def State.apart (s : State) : State :=
  { s with
    mem := [], poisoned := [], ctxs := s.ctxs.map Ctx.apart, cores := State.reset.cores, slices := State.reset.slices
    teams := [], accs := [], requests := [], remoteWaits := [], sectorOut := [], ports := s.ports.map PortSt.apart
    stalls := [], logWaits := [], free := 0, nextId := 0 }

/-! ### The log -/

theorem State.modCtx_apart {c : BitVec 6} {f : Ctx → Ctx} (h : ∀ x, (f x).apart = x.apart) :
    (s.modCtx c f).apart = s.apart := by
  have same : (s.modCtx c f).ctxs.map Ctx.apart = s.ctxs.map Ctx.apart := modVec_map h _ _
  unfold State.apart
  rw [same]
  rfl

theorem State.modQueue_apart {c q f} : (s.modQueue c q f).apart = s.apart := State.modCtx_apart fun _ => rfl

theorem PortSt.raiseVector_apart (x : PortSt) (v : Nat) : (x.raiseVector v).apart = x.apart := by
  unfold PortSt.raiseVector
  split
  · split <;> rfl
  · rfl

theorem State.modPort_apart {p : Port} {f : PortSt → PortSt} (h : ∀ x, (f x).apart = x.apart) :
    (s.modPort p f).apart = s.apart := by
  have same : (s.modPort p f).ports.map PortSt.apart = s.ports.map PortSt.apart := modVec_map h _ _
  unfold State.apart
  rw [same]
  rfl

theorem State.modCore_apart {n : Nat} {f : CoreSt → CoreSt} : (s.modCore n f).apart = s.apart := rfl

theorem State.modSlice_apart {n : Nat} {f : Slice → Slice} : (s.modSlice n f).apart = s.apart := rfl

theorem State.modTeam_apart {t : Nat} {f : Team → Team} : (s.modTeam t f).apart = s.apart := rfl

theorem State.modQuad_apart {t w n : Nat} {f : Quad → Quad} : (s.modQuad t w n f).apart = s.apart := rfl

theorem State.stall_apart {core i n : Nat} {c : BitVec 6} : (s.stall core c i n).apart = s.apart := rfl

theorem State.lowAs_apart {pa : Nat} {low : Bool} : (s.lowAs pa low).apart = s.apart := rfl

theorem State.hostWrite_apart {p : Port} {pa : Nat} {bs : List Byte} : (s.hostWrite p pa bs).apart = s.apart :=
  State.modPort_apart fun _ => rfl

theorem State.raise_apart {c k} : (s.raise c k).apart = s.apart := by
  unfold State.raise
  split
  · exact State.modPort_apart fun x => x.raiseVector_apart _
  · rfl

theorem State.touchLine_apart {line c} : (s.touchLine line c).apart = s.apart := by
  unfold State.touchLine
  split <;> rfl

theorem State.dirtyLine_apart {line c} : (s.dirtyLine line c).apart = s.apart := by
  unfold State.dirtyLine
  split <;> rfl

theorem sendRemote_apart {c window off who addr kind} :
    (sendRemote s c window off who addr kind).1.apart = s.apart := by
  unfold sendRemote
  dsimp only
  split <;> rfl

theorem State.touchEntry_apart {c va pa} : (s.touchEntry c va pa).apart = s.apart := by
  unfold State.touchEntry
  split
  · exact State.touchLine_apart
  · rfl
  · exact sendRemote_apart
  · rfl

theorem State.touchWalk_apart {c va} : (s.touchWalk c va).apart = s.apart := by
  unfold State.touchWalk
  split
  · exact foldl_keeps (fun _ _ => State.touchEntry_apart) _ _
  · rfl

theorem translate_apart {core c va n} : (translate s core c va n).1.apart = s.apart := by
  unfold translate
  grind [State.touchWalk_apart, State.stall_apart, State.modCore_apart]

theorem State.rawWrite_apart {c pa bs} : (s.rawWrite c pa bs).apart = s.apart := by
  unfold State.rawWrite
  dsimp only
  split <;> rfl

theorem State.notifyWaits_apart {pa old new} : (s.notifyWaits pa old new).apart = s.apart := rfl

section
variable {lg : Logger} (hlg : ∀ t c e, (lg t c e).apart = t.apart)
include hlg

theorem State.regressIn_apart {old pa source c} : (s.regressIn old lg pa source c).apart = s.apart := by
  unfold State.regressIn
  dsimp only
  split
  · rfl
  · rw [hlg]
    exact foldl_keeps (fun _ _ => State.modQueue_apart) _ _

theorem State.changedBy_apart {pa old new source} : (s.changedBy lg pa old new source).apart = s.apart := by
  unfold State.changedBy
  dsimp only
  split
  · exact foldl_keeps (fun _ _ => State.regressIn_apart hlg) _ _
  · exact State.notifyWaits_apart

theorem State.writeBy_apart {c pa bs source} : (s.writeBy lg c pa bs source).apart = s.apart := by
  unfold State.writeBy
  split
  · rfl
  · refine (foldl_keeps (fun t a => ?_) _ _).trans State.rawWrite_apart
    dsimp only
    split
    · rfl
    · exact State.changedBy_apart hlg

end

theorem State.logLater_apart (s : State) (c : BitVec 6) (e : LogEntry) : (s.logLater c e).apart = s.apart := rfl

theorem State.logBytes_apart {c va bs} : (s.logBytes c va bs).apart = s.apart := by
  unfold State.logBytes
  split
  · exact foldl_keeps (fun _ _ => State.writeBy_apart State.logLater_apart) _ _
  · rfl

theorem State.logAppend_apart {c seg w0 w1} : (s.logAppend c seg w0 w1).apart = s.apart := by
  unfold State.logAppend
  dsimp only
  split
  · rw [State.logBytes_apart, State.logBytes_apart]
  · refine (State.modCtx_apart ?_).trans State.modSlice_apart
    exact fun _ => rfl

theorem State.recordOrder_apart {c pa o} : (s.recordOrder c pa o).apart = s.apart := by
  unfold State.recordOrder
  dsimp only
  split
  · split
    · exact State.logBytes_apart
    · exact State.logAppend_apart
  · rfl

theorem State.orderOne_apart {c pa o} : (eitherState (s.orderOne c pa o)).apart = s.apart := by
  unfold State.orderOne
  split
  · rfl
  · split <;> rfl
  · exact State.modCtx_apart fun _ => rfl
  · exact State.recordOrder_apart

theorem State.logLost_apart {c} : (s.logLost c).apart = s.apart := State.modCtx_apart fun _ => rfl

theorem State.placeLog_apart {c bs} : (eitherState (s.placeLog c bs)).apart = s.apart := by
  unfold State.placeLog
  dsimp only
  split
  · next pp pc _ _ =>
    have touched : (((s.touchWalk c ((s.ctx c).log ++ 0#6)).dirtyLine (lineOf pp) c).dirtyLine (lineOf pc) c).apart =
        s.apart := by
      rw [State.dirtyLine_apart, State.dirtyLine_apart, State.touchWalk_apart]
    split
    · exact State.logLost_apart.trans touched
    · split
      · exact State.logLost_apart.trans touched
      · split
        · next h => exact (congrArg (fun x => (eitherState x).apart) h).symm.trans (State.orderOne_apart.trans touched)
        · next u h =>
          have placed : u.apart = s.apart :=
            (congrArg (fun x => (eitherState x).apart) h).symm.trans (State.orderOne_apart.trans touched)
          refine (State.raise_apart (s := releaseOutside _ _)).trans ?_
          exact (State.writeBy_apart State.logLater_apart).trans ((State.writeBy_apart State.logLater_apart).trans placed)
  exact State.logLost_apart

theorem State.log_apart {c e} : (s.log c e).apart = s.apart := by
  unfold State.log
  split
  · rfl
  · have placed : (eitherState (s.placeLog c (e.bytes s.clk))).apart = s.apart := State.placeLog_apart
    split
    · next h => exact (congrArg (fun x => (eitherState x).apart) h).symm.trans placed
    · next h => exact (congrArg (fun x => (eitherState x).apart) h).symm.trans placed

/-! ### Lines -/

theorem State.homeWrite_apart {c pa bs source} : (s.homeWrite c pa bs source).apart = s.apart :=
  State.writeBy_apart fun _ _ _ => State.log_apart

theorem State.deferDrain_apart {who addr} : (s.deferDrain who addr).apart = s.apart :=
  foldl_keeps (fun _ _ => State.modQuad_apart) _ _

theorem State.logFor_apart {c who code source addr} : (s.logFor c who code source addr).apart = s.apart := by
  unfold State.logFor
  split <;> exact State.log_apart

theorem State.homeHeld_apart {h line} : (s.homeHeld h line).apart = s.apart := by
  unfold State.homeHeld
  dsimp only
  refine (foldl_keeps (fun t i => ?_) _ _).trans
    (foldl_keeps (view := State.apart) (fun _ _ => State.rawWrite_apart) _ _)
  split
  · rfl
  · exact State.changedBy_apart fun _ _ _ => State.log_apart

theorem writeBack_apart {h line} : (writeBack s h line).apart = s.apart := by
  unfold writeBack
  dsimp only
  split
  · exact State.deferDrain_apart.trans State.log_apart
  · exact State.homeHeld_apart

theorem writeBackOne_apart {core h} : (writeBackOne s core h).apart = s.apart := by
  unfold writeBackOne
  split
  · exact writeBack_apart
  · rfl

theorem writeBackBound_apart {core c} : (writeBackBound s core c).apart = s.apart :=
  foldl_keeps (fun _ _ => writeBackOne_apart) _ _

theorem writeBackEvery_apart {core} : (writeBackEvery s core).apart = s.apart :=
  foldl_keeps (fun _ _ => writeBackOne_apart) _ _

theorem recordRelease_apart {core line} : (recordRelease s core line).apart = s.apart := by
  unfold recordRelease
  dsimp only
  split
  · rfl
  · split
    · rfl
    · split
      · rfl
      · exact foldl_keeps (view := State.apart) (fun _ _ => writeBackEvery_apart) _ _

theorem State.sectorWrite_apart {core c who w off va bs} : (s.sectorWrite core c who w off va bs).apart = s.apart := by
  have sent : (sendRemote s c w off (writeWho core who) va (.write bs)).1.apart = s.apart := sendRemote_apart
  unfold State.sectorWrite
  split
  · next h => rwa [h] at sent
  · next h =>
    rw [h] at sent
    exact State.deferDrain_apart.trans (State.logFor_apart.trans sent)

theorem State.leaveHeld_apart {core h pa} : (s.leaveHeld core h pa).apart = s.apart := by
  refine foldl_keeps (view := State.apart) (fun t x => ?_) _ _
  dsimp only
  split
  · exact State.hostWrite_apart
  · exact State.sectorWrite_apart
  · rfl
  · rfl

theorem bindLine_apart {core h} : (bindLine s core h).1.apart = s.apart := by
  have found : (translate s core h.ctx (BitVec.ofNat 64 (h.line * 128)) .store).1.apart = s.apart := translate_apart
  unfold bindLine
  split
  · next e =>
    rw [e] at found
    split
    · exact found
    · exact State.leaveHeld_apart.trans found
  · next e => rwa [e] at found

theorem evictHeld_apart {core h} : (evictHeld s core h).apart = s.apart := by
  have bound : (bindLine s core h).1.apart = s.apart := bindLine_apart
  unfold evictHeld
  split
  · exact writeBackOne_apart
  · split
    · next e =>
      rw [e] at bound
      split
      · exact writeBackOne_apart.trans bound
      · exact bound
    · next e => rwa [e] at bound

theorem flushLine_apart {core c va} : (flushLine s core c va).apart = s.apart := by
  unfold flushLine
  dsimp only
  split
  · split
    · rfl
    · exact evictHeld_apart
  · rfl

theorem holdBytes_apart {core c va bs who src} : (holdBytes s core c va bs who src).apart = s.apart := by
  unfold holdBytes
  dsimp only
  split
  · exact writeBackOne_apart
  · rfl

theorem writePiece_apart {core c who src p bs} : (writePiece s core c who src p bs).apart = s.apart := by
  unfold writePiece
  dsimp only
  split
  · split
    · refine foldl_keeps (fun t x => ?_) _ _
      split
      · exact State.deferDrain_apart.trans (State.logFor_apart.trans flushLine_apart)
      · exact State.homeWrite_apart.trans flushLine_apart
    · exact foldl_keeps (fun _ _ => holdBytes_apart) _ _
  · exact State.hostWrite_apart
  · exact State.sectorWrite_apart
  · rfl

/-! ### Accumulates -/

theorem State.sendTo_apart {a e} : (s.sendTo a e).apart = s.apart := by
  unfold State.sendTo
  dsimp only
  split
  · rfl
  · exact writePiece_apart
  · next w off _ =>
    have sent : (sendRemote s a.ctx w off (.store a.team a.wave a.quad) a.addr
        (.accum a.op a.ty a.value a.count)).1.apart = s.apart := sendRemote_apart
    split
    · next h => rwa [h] at sent
    · next h =>
      rw [h] at sent
      exact State.deferDrain_apart.trans (State.logFor_apart.trans sent)
  · rfl

theorem State.sendOverflow_apart {id} : (s.sendOverflow id).apart = s.apart := by
  unfold State.sendOverflow
  split
  · rfl
  · next a _ =>
    have found : (forcedPlace s a.core a.ctx a.addr).1.apart = s.apart := translate_apart
    split
    · split
      · next h =>
        rw [h] at found
        exact State.sendTo_apart.trans found
      · next h => rwa [h] at found
    · rfl

theorem State.sendTile_apart {t drain i} : (s.sendTile t drain i).apart = s.apart := by
  unfold State.sendTile
  dsimp only
  split
  · rfl
  · split
    · rfl
    · next r _ =>
      have found : (forcedPlace s (s.team t).core (s.team t).ctx r.addr).1.apart = s.apart := translate_apart
      split
      · rfl
      · split
        · next h => rwa [h] at found
        · next h =>
          rw [h] at found
          exact State.sendTo_apart.trans found

theorem State.pumpDrain_apart {t drain} : (s.pumpDrain t drain).apart = s.apart :=
  (foldl_keeps (fun _ _ => State.sendTile_apart) _ _).trans (foldl_keeps (fun _ _ => State.sendOverflow_apart) _ _)

theorem State.pumpCore_apart {core} : (s.pumpCore core).apart = s.apart := by
  refine foldl_keeps (fun t x => ?_) _ _
  dsimp only
  split
  · split
    · exact State.pumpDrain_apart
    · rfl
  · rfl

theorem State.dropAcc_apart {a} : (s.dropAcc a).apart = s.apart := by
  unfold State.dropAcc
  rw [State.pumpCore_apart, State.pumpCore_apart]
  rfl

theorem State.countLine_apart {line : Nat} : (s.countLine line).apart = s.apart := rfl

theorem State.performAcc_apart {a} : (s.performAcc a).apart = s.apart := by
  unfold State.performAcc
  dsimp only
  split
  · rw [State.dropAcc_apart]
    exact State.logFor_apart
  · rw [State.dropAcc_apart]
    split
    · rw [recordRelease_apart]
      exact State.homeWrite_apart.trans State.recordOrder_apart
    · exact State.homeWrite_apart.trans State.recordOrder_apart

end Sys2Proof.Machine
end

section
/-! What becomes of an accumulate (O48; R173, R196, R198 to R212, R475): the addend that leaves or is performed, its arrival
at the home slice, what the slices perform in a cycle, refusals and the end of a drain. -/

namespace Sys2Proof.Machine

variable {s : State} {g : GangRef} {ty : AccTy} {op : AccOp} {x : Addend}

/-! ### One addend -/

theorem accCombine_min (ty_ : ty = .n64 ∨ ty = .vis) (a b : Nat) : accCombine ty .min a b = min a b := by
  rcases ty_ with rfl | rfl <;>
  · simp only [accCombine, intCombine, AccTy.signed, Bool.false_eq_true, if_false, decide_eq_true_eq]
    split <;> omega

theorem accCombine_max (a b : Nat) : accCombine .n64 .max a b = max a b := by
  simp only [accCombine, intCombine, AccTy.signed, Bool.false_eq_true, if_false, decide_eq_true_eq]
  split <;> omega

theorem sendAddend_scratch {off : Nat} (place : x.loc = .scratch off) : sendAddend s g ty op x =
    s.scratchWrite g.t off (leBytes ty.width
      (accCombine ty op (leNat ((s.teamOf g).scratch.read off ty.width)) x.value)) 0 := by
  unfold sendAddend
  rw [place]

/-- An addend whose place is scratchpad is performed there (R201). -/
theorem sendAddend_scratch_get {off : Nat} (place : x.loc = .scratch off) (live : g.t < s.teams.length)
    (wf : (s.teamOf g).scratch.wf = true) (a : Nat) : ((sendAddend s g ty op x).teamOf g).scratch.get a =
      if off ≤ a ∧ a < off + ty.width then
        (leBytes ty.width (accCombine ty op (leNat ((s.teamOf g).scratch.read off ty.width)) x.value)).getD (a - off) 0
      else (s.teamOf g).scratch.get a := by
  have written := scratchWrite_get (off := off) (src := 0) (bs := leBytes ty.width
    (accCombine ty op (leNat ((s.teamOf g).scratch.read off ty.width)) x.value)) live wf a
  rwa [length_leBytes, ← sendAddend_scratch place] at written

/-- The quads of an addend note the place that they have accumulated at (R171). -/
def State.noteAddend (s : State) (g : GangRef) (x : Addend) : State :=
  x.quads.eraseDups.foldl (fun s n => s.modQuad g.t g.w n fun q => q.noteAtomic x.loc.acqLine) s

theorem noteAddend_device (s : State) (g : GangRef) (x : Addend) :
    s.noteAddend g x = { s with teams := (s.noteAddend g x).teams } := by
  unfold State.noteAddend
  induction x.quads.eraseDups generalizing s with
  | nil => rfl
  | cons n ns ih =>
    rw [List.foldl_cons]
    exact ih _

theorem noteAddend_teams {u : State} (same : u.teams = s.teams) (g : GangRef) (x : Addend) :
    (u.noteAddend g x).teams = (s.noteAddend g x).teams := by
  unfold State.noteAddend
  induction x.quads.eraseDups generalizing s u with
  | nil => exact same
  | cons n ns ih =>
    rw [List.foldl_cons, List.foldl_cons]
    refine ih ?_
    exact congrArg (fun l => modAt l g.t _) same

theorem modQuad_kernel (t w n i : Nat) (f : Quad → Quad) : ((s.modQuad t w n f).team i).kernel = (s.team i).kernel := by
  unfold State.modQuad State.modWave
  rw [State.team_modTeam]
  split <;> rfl

theorem noteAddend_kernel (s : State) (g : GangRef) (x : Addend) :
    ((s.noteAddend g x).teamOf g).kernel = (s.teamOf g).kernel :=
  foldl_keeps (view := fun s : State => (s.teamOf g).kernel) (fun _ _ => modQuad_kernel ..) _ _

/-- A kernel without a residual tile sends an addend alone (R208). -/
theorem ride_without_tile {t id : Nat} {r : Residual} (none_ : (s.team t).kernel.rtn = 0) : s.ride t r id = (s, r, id) := by
  unfold State.ride
  exact if_pos none_

/-- The accumulate that an addend of a kernel without a residual tile becomes as it leaves the core (R199, R202), of the
gang in `t`. -/
def Addend.acc (x : Addend) (s t : State) (g : GangRef) (ty : AccTy) (op : AccOp) (pa : Nat) (va : Word) (low : Bool) : Acc :=
  { id := s.nextId, oldest := s.nextId, ctx := s.ctxOf g, core := s.coreOf g, team := g.t, wave := g.w
    quad := x.quad, addr := va, pa := pa, op := op, ty := ty, value := BitVec.ofNat 128 x.value
    count := x.count, cls := .unrefusable, phase := .flight, rel := (t.quadOf g x.quad).relFence
    walk := none, seq := 0, low := low }

/-- An addend to a line of HBM that the core does not hold leaves the core (R173, R199). -/
theorem sendAddend_hbm {pa n : Nat} {va : Word} {e : TlbEntry} {ps : List (Nat × Nat × Word × TlbEntry)}
    (place : x.loc = .mem ((pa, n, va, e) :: ps)) (hbm : physKind pa = .hbm)
    (free : (s.core (s.coreOf g)).heldLine (s.ctxOf g) (va.toNat / 128) = none) (tile : (s.teamOf g).kernel.rtn = 0) :
    let u := (s.modCore (s.coreOf g) (·.dropClean (s.ctxOf g) (va.toNat / 128))).bumpId.noteAddend g x
    sendAddend s g ty op x = { u with accs := u.accs ++ [x.acc s u g ty op pa va e.low] } := by
  intro u
  have kernel : (u.teamOf g).kernel.rtn = 0 := (congrArg Kernel.rtn (noteAddend_kernel ..)).trans tile
  have note : State.noteAddend (s.modCore (s.coreOf g) (·.dropClean (s.ctxOf g) (va.toNat / 128))).bumpId g x = u := rfl
  unfold State.noteAddend at note
  unfold sendAddend
  rw [place]
  simp only [if_pos hbm, flushLine_none free]
  rw [ride_without_tile (s := (s.modCore (s.coreOf g) (·.dropClean (s.ctxOf g) (va.toNat / 128))).bumpId) (t := g.t) tile]
  dsimp only
  rw [place] at note
  rw [note]
  unfold State.sendTo
  simp only [hbm, if_pos kernel]
  rfl

/-! ### Arrival at the home slice -/

section arrival
variable {acc : Nat} {a : Acc} (flies : (s.accs.find? fun a => a.id == acc && decide (a.phase = .flight)) = some a)

theorem accumulateArrival_none (none_ : (s.accs.find? fun a => a.id == acc && decide (a.phase = .flight)) = none) (occ : Nat) :
    exec (.accumulateArrival acc occ) s = .next s := by
  rw [exec_accumulateArrival, execAccumulateArrival, none_]

include flies

theorem accumulateArrival_early {occ : Nat} (other : occ ≠ s.queueHeld (homeSlice a.pa)) :
    exec (.accumulateArrival acc occ) s = .next s := by
  rw [exec_accumulateArrival, execAccumulateArrival, flies]
  exact congrArg Host.Outcome.next (if_pos other)

theorem accumulateArrival_next :
    exec (.accumulateArrival acc (s.queueHeld (homeSlice a.pa))) s = .next (s.replayAcc a) := by
  rw [exec_accumulateArrival, execAccumulateArrival, flies]
  exact congrArg Host.Outcome.next (if_neg fun h => h rfl)

end arrival

/-- The entries that an accumulate may take of the queue of its slice (R202). -/
theorem room_eq (cls : AccClass) : cls.room = if cls = .forced then 64 else 48 := by cases cls <;> rfl

section accept
variable {a : Acc}

theorem acceptAcc_refusable (cls : a.cls = .refusable) : s.acceptAcc a =
    if (s.ctx a.ctx).acc.toNat ≤ s.lineCount (lineOf a.pa) ∨ 48 ≤ s.queueHeld (homeSlice a.pa) then
      (s.recordOrder a.ctx a.pa (a.order 1)).refuseAcc a
    else s.queueAcc a := by
  unfold State.acceptAcc
  simp only [cls, AccClass.room, Bool.or_eq_true, decide_eq_true_eq]

theorem acceptAcc_waits (cls : a.cls ≠ .refusable) : s.acceptAcc a =
    if a.cls.room ≤ s.queueHeld (homeSlice a.pa) then s else s.queueAcc a := by
  unfold State.acceptAcc
  cases e : a.cls with
  | refusable => exact absurd e cls
  | unrefusable | forced => rfl

theorem replayAcc_next {i out : Nat} (gate : replayGate s a.ctx a.pa (a.order 0) = .next i out) : s.replayAcc a =
    if out = 1 ∧ a.cls = .refusable then (s.useEntry a.ctx a.pa (a.order 0) i).refuseAcc a
    else if a.cls.room ≤ s.queueHeld (homeSlice a.pa) then s
    else (s.useEntry a.ctx a.pa (a.order 0) i).queueAcc a := by
  unfold State.replayAcc
  rw [gate]

end accept

/-! ### What the slices perform in a cycle -/

/-- No accumulate of this device on the line was accepted before the place `n`. -/
theorem accBefore_eq (s : State) (line n : Nat) : (!s.accBefore line n) =
    s.accs.all fun b => !decide (b.phase = .queued) || lineOf b.pa != line || decide (n ≤ b.seq) := by
  unfold State.accBefore
  rw [List.not_any_eq_all_not]
  refine congrArg s.accs.all (funext fun b => ?_)
  rw [Bool.not_and, Bool.not_and, bne, ← decide_not (p := b.seq < n)]
  simp only [Nat.not_lt]

theorem portBefore_eq (s : State) (line n : Nat) : (!s.portBefore line n) =
    s.portAccs.all fun b => !b.queued || lineOf b.pa != line || decide (n ≤ b.seq) := by
  unfold State.portBefore
  rw [List.not_any_eq_all_not]
  refine congrArg s.portAccs.all (funext fun b => ?_)
  rw [Bool.not_and, Bool.not_and, bne, ← decide_not (p := b.seq < n)]
  simp only [Nat.not_lt]

theorem firstAccs_eq (s : State) : s.firstAccs = s.accs.filter fun a => decide (a.phase = .queued) &&
    (s.accs.all fun b => !decide (b.phase = .queued) || lineOf b.pa != lineOf a.pa || decide (a.seq ≤ b.seq)) &&
    s.portAccs.all fun b => !b.queued || lineOf b.pa != lineOf a.pa || decide (a.seq ≤ b.seq) := by
  unfold State.firstAccs
  simp only [accBefore_eq, portBefore_eq]

theorem firstPorts_eq (s : State) : s.firstPorts = s.portAccs.filter fun a => a.queued &&
    (s.accs.all fun b => !decide (b.phase = .queued) || lineOf b.pa != lineOf a.pa || decide (a.seq ≤ b.seq)) &&
    s.portAccs.all fun b => !b.queued || lineOf b.pa != lineOf a.pa || decide (a.seq ≤ b.seq) := by
  unfold State.firstPorts
  simp only [accBefore_eq, portBefore_eq]

/-- A queued accumulate that is alone is performed. -/
theorem performQueues_one {a : Acc} (one : s.accs = [a]) (queued : a.phase = .queued) (ports : s.portAccs = []) :
    s.performQueues = s.performAcc a := by
  have mine : s.firstAccs = [a] := by simp [firstAccs_eq, one, queued, ports]
  have theirs : s.firstPorts = [] := by simp [firstPorts_eq, ports]
  have after : (s.performAcc a).portAccs = [] := (congrArg State.portAccs State.performAcc_apart).trans ports
  unfold State.performQueues
  rw [mine, theirs]
  unfold State.admitPorts
  dsimp only [List.foldl_cons, List.foldl_nil]
  rw [after]
  rfl

/-! ### Windows -/

/-- The lines counted in an earlier window count 0. -/
def Slice.inWindow (w : Nat) (y : Slice) : Slice := if y.window = w then y else { y with window := w, counts := [] }

theorem accumulateWindowStart_next (s : State) :
    exec .accumulateWindowStart s = .next { s with slices := s.slices.map (Slice.inWindow (s.clk / 256)) } := rfl

theorem sliceAt_map (f : Slice → Slice) (n : Nat) : ({ s with slices := s.slices.map f } : State).sliceAt n =
    if n < 128 then f (s.sliceAt n) else s.sliceAt n := by
  unfold State.sliceAt
  split
  · exact Vector.getElem_map ..
  · rfl

/-! ### Refusals -/

/-- A refusal that has reached its core (R206, R468). -/
theorem refusalReply_next {acc : Nat} {a : Acc}
    (returns : (s.accs.find? fun a => a.id == acc && decide (a.phase = .returning)) = some a) :
    exec (.refusalReply acc) s = .next
      (let v := (s.stall a.core a.ctx 8 1).placeRefused a
       (if (v.ctx a.ctx).lnActive = 2 then v.sendHeld a.team else v).pumpCore a.core) := by
  rw [exec_refusalReply, execRefusalReply, returns]

section refused
variable {a : Acc} {y : Residual}

theorem placeRefused_free (free : tileEntry (s.team a.team) (tileIndex (s.team a.team).kernel a.addr) = none) :
    s.placeRefused a = (s.setTile a.team (tileIndex (s.team a.team).kernel a.addr) a.residual.bytes
      (some { idx := tileIndex (s.team a.team).kernel a.addr, oldest := a.oldest, wave := a.wave, quad := a.quad })).dropAcc
        a := by
  unfold State.placeRefused
  simp only [free]

variable (entry : tileEntry (s.team a.team) (tileIndex (s.team a.team).kernel a.addr) = some y)
include entry

theorem placeRefused_joins (same : y.sameAs a.residual = true) :
    s.placeRefused a = (s.setTile a.team (tileIndex (s.team a.team).kernel a.addr) (y.combine a.residual).bytes
      (some { idx := tileIndex (s.team a.team).kernel a.addr
              oldest := min a.oldest ((s.team a.team).oldestIn (tileIndex (s.team a.team).kernel a.addr))
              wave := a.wave, quad := a.quad })).dropAcc a := by
  unfold State.placeRefused
  simp only [entry]
  exact if_pos same

theorem placeRefused_overflows (other : y.sameAs a.residual = false) :
    s.placeRefused a = ({ s with accs := s.accs.map fun z =>
      if z.id = a.id then { z with phase := .overflow } else z } : State).sendOverflow a.id := by
  unfold State.placeRefused
  simp only [entry]
  exact if_neg (by simp [other])

end refused

/-! ### The end of a drain -/

theorem drainComplete_next (t drain : Nat) : exec (.drainComplete t drain) s = .next
    (if drain ∈ (s.team t).drains then
      let u := s.pumpDrain t drain
      if u.draining t drain = true ∨ u.drainResult t drain = .idle then u
      else u.modTeam t fun x => { x with waves := x.waves.map fun w =>
        { w with quads := w.quads.map (·.drainEnds drain (u.drainResult t drain)) } }
    else s) := by
  rw [exec_drainComplete, execDrainComplete]
  simp only [List.contains_iff_mem]
  refine congrArg Host.Outcome.next (if_congr Iff.rfl ?_ rfl)
  by_cases busy : (s.pumpDrain t drain).draining t drain = true
  · rw [if_pos busy, if_pos (.inl busy)]
  · rw [if_neg busy]
    by_cases idle : (s.pumpDrain t drain).drainResult t drain = .idle
    · simp only [idle, or_true, if_true]
    · rw [if_neg (not_or.mpr ⟨busy, idle⟩)]
      split
      · next e => exact absurd e idle
      · rfl

/-- A quad of a team whose drain ends. -/
theorem quad_drainEnds (t w n id : Nat) (r : DrainSt) :
    (s.modTeam t fun x => { x with waves := x.waves.map fun w =>
      { w with quads := w.quads.map (·.drainEnds id r) } }).quad t w n = (s.quad t w n).drainEnds id r := by
  unfold State.quad State.wave
  rw [s.team_modTeam]
  by_cases live : t < s.teams.length
  · rw [if_pos ⟨rfl, live⟩]
    unfold Team.wave Wave.quad
    dsimp only
    rw [show Wave.blank = { Wave.blank with quads := Wave.blank.quads.map (·.drainEnds id r) } from rfl, List.getD_map]
    exact List.getD_map (d := Quad.start) ..
  · rw [if_neg fun h => live h.2, s.team_outside live]
    rfl

theorem Quad.drainEnds_eq (q : Quad) (id : Nat) (r : DrainSt) :
    q.drainEnds id r = if q.wait = .drain id then { q with wait := .ready, drainSt := r } else q := by
  unfold Quad.drainEnds
  split
  · next n here => simp only [here, QWait.drain.injEq]
  · next other => exact (if_neg (other id)).symm

/-! ### The statement -/

/-- Settles O48: an addend (`sendAddend_scratch_get`, `sendAddend_hbm`), its arrival (`acceptAcc_refusable`, `acceptAcc_waits`,
`replayAcc_next`), the accumulates of a cycle (`firstAccs_eq`, `performQueues_one`), refusals (`refusalReply_next`) and the end
of a drain (`drainComplete_next`). -/
theorem accumulateEvents : Obligations.AccumulateEvents := by
  refine ⟨?addend, ?arrival, ?cycle, ?perform, ?window, ?refusal, ?noRefusal, ?noDrain, ?drain⟩
  case addend =>
    intro s g ty op x
    constructor
    · intro off place live wf old new
      refine ⟨?_, ?_, ?_, sendAddend_scratch_get place live wf⟩
      · rintro rfl wraps
        exact accCombine_add wraps _ _
      · rintro rfl ty_
        exact accCombine_min ty_ _ _
      · rintro rfl rfl
        exact accCombine_max _ _
    · intro pa n va e ps place hbm free tile t
      have sends : t = _ := sendAddend_hbm (ty := ty) (op := op) place hbm free tile
      have device := noteAddend_device (s.modCore (s.coreOf g) (·.dropClean (s.ctxOf g) (va.toNat / 128))).bumpId g x
      refine ⟨?_, ?_, ?_⟩
      · rw [sends, device]
        rfl
      · have notes := noteAddend_teams (s := s)
          (u := (s.modCore (s.coreOf g) (·.dropClean (s.ctxOf g) (va.toNat / 128))).bumpId) rfl g x
        rw [sends]
        exact notes
      · rw [sends, device]
        rfl
  case arrival =>
    intro s acc
    refine ⟨fun none_ => accumulateArrival_none none_, fun a flies => ?_⟩
    intro held busy room refused queued gate
    refine ⟨fun occ other => accumulateArrival_early flies other, ?_⟩
    rw [show exec (.accumulateArrival acc held) s = .next (s.replayAcc a) from accumulateArrival_next flies]
    refine ⟨fun free => ?free, fun waits => ?wait, fun i out turn => ?next, fun diverges => ?diverge⟩
    case free =>
      have accepts : s.replayAcc a = s.acceptAcc a := by
        unfold State.replayAcc
        rw [show replayGate s a.ctx a.pa (a.order 0) = .free from free]
      rw [accepts]
      refine ⟨fun cls full => ?_, fun cls some_ => ?_, fun cls full => ?_, fun cls some_ => ?_⟩
      · rw [acceptAcc_refusable cls, if_pos full]
        rfl
      · rw [acceptAcc_refusable cls, if_neg some_]
        rfl
      · rw [acceptAcc_waits cls, if_pos ((room_eq a.cls).trans_le full)]
      · rw [acceptAcc_waits cls, if_neg (Nat.not_le.mpr (some_.trans_eq (room_eq a.cls).symm))]
        rfl
    case wait =>
      unfold State.replayAcc
      rw [show replayGate s a.ctx a.pa (a.order 0) = .wait from waits]
    case next =>
      rw [replayAcc_next turn]
      refine ⟨fun one cls => ?_, fun goes full => ?_, fun goes some_ => ?_⟩
      · rw [if_pos ⟨one, cls⟩]
        rfl
      · rw [if_neg fun h => goes.elim (· h.1) (· h.2), if_pos ((room_eq a.cls).trans_le full)]
      · rw [if_neg fun h => goes.elim (· h.1) (· h.2),
          if_neg (Nat.not_le.mpr (some_.trans_eq (room_eq a.cls).symm))]
        rfl
    case diverge =>
      unfold State.replayAcc
      rw [show replayGate s a.ctx a.pa (a.order 0) = .diverge from diverges]
  case cycle =>
    intro s mine ports
    refine ⟨?_, fun a one queued none_ => performQueues_one one queued none_⟩
    rw [State.performQueues, firstAccs_eq, firstPorts_eq]
  case perform =>
    intro s a v r done
    refine ⟨fun sound plain => ?_, fun sound releases => ?_, fun bad => ?_⟩
    · refine (if_neg (ne_true_of_eq_false sound)).trans (congrArg (State.dropAcc · a) (if_neg (ne_true_of_eq_false plain)))
    · refine (if_neg (ne_true_of_eq_false sound)).trans (congrArg (State.dropAcc · a) (if_pos releases))
    · exact if_pos bad
  case window =>
    intro s
    refine ⟨_, accumulateWindowStart_next s, rfl, fun n => ?_, fun n legal => ?_⟩
    · rw [sliceAt_map]
      unfold Slice.inWindow
      split
      · split <;> rfl
      · rfl
    · rw [sliceAt_map, if_pos legal]
      unfold Slice.inWindow
      split
      · next here => exact ⟨here, rfl⟩
      · exact ⟨rfl, rfl⟩
  case refusal =>
    intro s acc a returns u ends x i
    rw [refusalReply_next returns]
    refine ⟨fun free => ?_, fun y entry addr op ty_ => ?_, fun y entry other => ?_⟩
    · rw [placeRefused_free (s := u) free]
      rfl
    · rw [placeRefused_joins (s := u) entry]
      · rfl
      · simp [Residual.sameAs, Acc.residual, addr, op, ty_]
    · rw [placeRefused_overflows (s := u) entry other]
      rfl
  case noRefusal =>
    intro s acc none_
    rw [exec_refusalReply, execRefusalReply, none_]
  case noDrain =>
    intro s t drain out
    rw [drainComplete_next, if_neg out]
  case drain =>
    intro s t drain covers u
    rw [drainComplete_next, if_pos covers]
    refine ⟨fun stays => congrArg Host.Outcome.next (if_pos stays), fun quiet ends => ?_⟩
    refine ⟨_, congrArg Host.Outcome.next (if_neg ?_), rfl, fun w n => ?_⟩
    · exact not_or.mpr ⟨by simp [u, quiet], ends⟩
    · rw [quad_drainEnds, Quad.drainEnds_eq]

end Sys2Proof.Machine
end

section
/-! The other moves of a step (O56; R45, R107, R109, R110, R117, R119, R131, R202, R414, R421, R432, R433, R468): what is due,
what the head of the agenda does, and what a cycle keeps. -/

namespace Sys2Proof.Machine

variable {s : State}

/-! ### What the work of a cycle keeps -/

theorem translatePieces_apart {core : Nat} {c : BitVec 6} {need : Need} (l : List (Word × Nat)) :
    (translatePieces s core c need l).1.apart = s.apart := by
  induction l generalizing s with
  | nil => rfl
  | cons p rest ih =>
    have first := translate_apart (s := s) (core := core) (c := c) (va := p.1) (n := need)
    unfold translatePieces
    split
    · next h => rwa [h] at first
    · next u pa e h =>
      rw [h] at first
      have others := (ih (s := u)).trans first
      split <;> next h => rwa [h] at others

theorem locate_apart {core size n : Nat} {c : BitVec 6} {va : Word} {need : Need} :
    (locate s core c size va n need).1.apart = s.apart := by
  unfold locate
  dsimp only
  split
  · split <;> rfl
  · split
    · rfl
    · have pieces_ := translatePieces_apart (s := s) (core := core) (c := c) (need := need) (pieces va n)
      split <;> next h => rwa [h] at pieces_

theorem State.logWalk_apart {e : Eng} {f : WFault} : (s.logWalk e f).apart = s.apart := by
  unfold State.logWalk
  split
  · exact State.log_apart
  · rfl

theorem State.landWalk_apart {core st cause : Nat} {w : Walk} : (s.landWalk core w st cause).apart = s.apart := rfl

theorem State.refuseWalk_apart {core : Nat} {w : Walk} : (s.refuseWalk core w).apart = s.apart := rfl

theorem State.loseWalk_apart {core : Nat} {w : Walk} {f : WFault} : (s.loseWalk core w f).apart = s.apart :=
  State.landWalk_apart.trans State.logWalk_apart

theorem State.overflowAgain_apart {t : Nat} {bs : List Byte} : (s.overflowAgain t bs).apart = s.apart := by
  unfold State.overflowAgain
  dsimp only
  split
  · exact State.sendOverflow_apart
  · rfl

theorem State.walkAgain_apart {t : Nat} {w : Walk} : (s.walkAgain t w).1.apart = s.apart := by
  have found : (locate s (s.engineCore t w.wave) w.ctx 0 w.record 256 .store).1.apart = s.apart := locate_apart
  unfold State.walkAgain
  dsimp only
  split
  · next h =>
    rw [h] at found
    exact State.loseWalk_apart.trans found
  · next u l h =>
    rw [h] at found
    split
    · exact found
    · exact State.loseWalk_apart.trans found
    · next pa va _ _ =>
      split
      · exact State.loseWalk_apart.trans found
      · have flushed : (flushLine u (s.engineCore t w.wave) w.ctx (va + 128)).apart = s.apart := flushLine_apart.trans found
        split
        · exact State.refuseWalk_apart.trans flushed
        · have ordered := (State.orderOne_apart (s := flushLine u (s.engineCore t w.wave) w.ctx (va + 128)) (c := w.ctx)
            (pa := pa + 128) (o := { atomicOrder (s.engineCore t w.wave) (va + 128) with
              req := coreReq (s.engineCore t w.wave) 2 })).trans flushed
          generalize (flushLine u (s.engineCore t w.wave) w.ctx (va + 128)).orderOne w.ctx (pa + 128)
            { atomicOrder (s.engineCore t w.wave) (va + 128) with req := coreReq (s.engineCore t w.wave) 2 } = r at ordered ⊢
          cases r with
          | error v => exact ordered
          | ok v =>
            dsimp only
            rw [State.modCore_apart, State.homeWrite_apart]
            exact ordered

theorem State.holdAgain_apart {core : Nat} {h : HeldLine} : (s.holdAgain core h).apart = s.apart := rfl

theorem State.modEngine_apart {core : Nat} {q : BitVec 3} {f : List Entry → List Entry} :
    (s.modEngine core q f).apart = s.apart := rfl

theorem State.unload_apart {t : Nat} : (s.unload t).apart = s.apart := by
  unfold State.unload
  dsimp only
  exact (foldl_keeps (fun _ _ => State.modEngine_apart) _ _).trans (foldl_keeps (fun _ _ => State.holdAgain_apart) _ _)

/-- What every step of a fold keeps of its state, the fold keeps, whatever it gathers beside it. -/
theorem foldl_fst_keeps {α β γ : Type} {view : State → γ} {f : State × β → α → State × β}
    (hf : ∀ x a, view (f x a).1 = view x.1) (l : List α) (x : State × β) : view (l.foldl f x).1 = view x.1 := by
  induction l generalizing x with
  | nil => rfl
  | cons a l ih => rw [List.foldl_cons, ih, hf]

theorem State.restock_apart {t : Nat} : (s.restock t).apart = s.apart := by
  unfold State.restock
  dsimp only
  split
  · rfl
  · refine (foldl_fst_keeps (view := State.apart) (fun x w => ?_) _ _).trans
      ((foldl_fst_keeps (view := State.apart) (fun x bs => ?_) _ _).trans State.unload_apart)
    · split
      · exact State.walkAgain_apart
      · rfl
    · split
      · exact State.overflowAgain_apart
      · rfl

theorem State.restockAll_apart : s.restockAll.apart = s.apart := by
  refine foldl_keeps (fun t x => ?_) _ _
  split
  · exact State.restock_apart
  · rfl

theorem State.orderWait_apart {t w n : Nat} : (s.orderWait t w n).apart = s.apart := by
  unfold State.orderWait
  dsimp only
  split
  · split
    · split
      · split
        · next h => exact (congrArg (fun x => (eitherState x).apart) h).symm.trans State.orderOne_apart
        · next h => exact (congrArg (fun x => (eitherState x).apart) h).symm.trans State.orderOne_apart
      · rfl
    · rfl
  · rfl

theorem State.orderHeld_apart {h : HeldRemote} : (s.orderHeld h).apart = s.apart := by
  unfold State.orderHeld
  split
  · split
    · split
      · next h => exact (congrArg (fun x => (eitherState x).apart) h).symm.trans State.orderOne_apart
      · next h => exact (congrArg (fun x => (eitherState x).apart) h).symm.trans State.orderOne_apart
    · rfl
  all_goals rfl

theorem State.orderWaits_apart : s.orderWaits.apart = s.apart := by
  unfold State.orderWaits
  split
  · refine (foldl_keeps (fun _ _ => State.orderHeld_apart) _ _).trans (foldl_keeps (fun s t => ?_) _ _)
    split
    · refine foldl_keeps (fun s w => ?_) _ _
      exact foldl_keeps (fun _ _ => State.orderWait_apart) _ _
    · rfl
  · rfl

theorem State.relog_apart : s.relog.apart = s.apart := by
  refine (foldl_keeps (view := State.apart) (fun s w => ?_) _ _).trans rfl
  split
  · rfl
  · split
    · next h => exact (congrArg (fun x => (eitherState x).apart) h).symm.trans State.placeLog_apart
    · next h => exact (congrArg (fun x => (eitherState x).apart) h).symm.trans State.placeLog_apart

theorem acquireSystem_apart {line : Nat} : (acquireSystem s line).apart = s.apart :=
  State.modSlice_apart.trans (foldl_keeps (fun _ _ => writeBackEvery_apart) _ _)

theorem State.answerHeld_apart : s.answerHeld.apart = s.apart := by
  refine (foldl_keeps (view := State.apart) (fun s h => ?_) _ _).trans rfl
  split
  · unfold State.answerOne
    split
    · exact acquireSystem_apart
    · rfl
  · rfl

/-- The clock and the agenda. -/
def State.schedule (s : State) : Nat × List Slot := (s.clk, s.agenda)

theorem State.schedule_of_apart {t : State} (h : t.apart = s.apart) : t.schedule = s.schedule := by
  have same := congrArg State.schedule h
  exact same

theorem State.refuseRemote_apart {link : Nat} {r : RemoteReq} {x : Refused} : (s.refuseRemote link r x).apart = s.apart :=
  State.log_apart (s := s)

theorem State.performPort_schedule {a : PortAcc} : (s.performPort a).schedule = s.schedule := by
  unfold State.performPort
  dsimp only
  split
  · split
    · exact (State.schedule_of_apart State.refuseRemote_apart).trans rfl
    · exact (State.schedule_of_apart State.homeWrite_apart).trans
        ((State.schedule_of_apart State.recordOrder_apart).trans rfl)
  all_goals rfl

theorem State.admitPorts_schedule : s.admitPorts.schedule = s.schedule := by
  refine foldl_keeps (fun s a => ?_) _ _
  split <;> rfl

theorem State.performQueues_schedule : s.performQueues.schedule = s.schedule :=
  State.admitPorts_schedule.trans ((foldl_keeps (fun _ _ => State.performPort_schedule) _ _).trans
    (foldl_keeps (fun _ _ => State.schedule_of_apart State.performAcc_apart) _ _))

/-- The work of a cycle keeps the clock and the agenda. -/
theorem cycleWork_schedule : s.performQueues.restockAll.orderWaits.relog.schedule = s.schedule := by
  rw [State.schedule_of_apart State.relog_apart, State.schedule_of_apart State.orderWaits_apart,
    State.schedule_of_apart State.restockAll_apart, State.performQueues_schedule]

theorem State.passTime_zero (s : State) : s.passTime 0 = s := rfl

theorem State.passTime_schedule (s : State) (dt : Nat) : (s.passTime dt).schedule = (s.clk + dt, s.agenda) := by
  have answered : s.answerHeld.schedule = s.schedule := State.schedule_of_apart State.answerHeld_apart
  obtain ⟨clk, agenda⟩ := Prod.ext_iff.mp answered
  unfold State.passTime
  split
  · next none_ => rw [none_]; rfl
  · exact Prod.ext (congrArg (· + dt) clk) agenda

theorem State.cycle_schedule (s : State) : s.cycle.schedule = (s.clk + 1, s.agenda) := by
  obtain ⟨clk, agenda⟩ := Prod.ext_iff.mp (cycleWork_schedule (s := s))
  unfold State.cycle
  rw [State.passTime_schedule]
  exact Prod.ext (congrArg (· + 1) clk) agenda

/-! ### What is due -/

theorem step_due {d : Due} (due : s.due = some d) : step s = d.perform { s with cur := .none } := by
  unfold step
  rw [due]

theorem due_of_dogDue {d : Due} (dog : s.dogDue = some d) : s.due = some d := by
  unfold State.due
  rw [dog, Option.some_or]

theorem timer_of_nothing_due (ended : s.cycleOver = true) (due : s.due = none) : s.timer = none := by
  unfold State.due at due
  rw [if_pos ended] at due
  simp only [Option.or_eq_none_iff] at due
  exact due.2.2.2

theorem due_eq_timer (ended : s.cycleOver = true) (dog : s.dogDue = none) (l1 : s.l1Due = none) (l2 : s.l2Due = none) :
    s.due = s.timer := by
  unfold State.due
  rw [dog, l1, l2, if_pos ended, Option.none_or, Option.none_or, Option.none_or]

theorem dogDue_watchdog {d : Due} (dog : s.dogDue = some d) : ∃ t w n, d = .watchdog t w n := by
  unfold State.dogDue at dog
  obtain ⟨t, _, waves⟩ := List.exists_of_findSome?_eq_some dog
  obtain ⟨w, _, head⟩ := List.exists_of_findSome?_eq_some waves
  obtain ⟨n, _, rfl⟩ := Option.map_eq_some_iff.mp head
  exact ⟨t, w, n, rfl⟩

/-- A line that a full L1 gives up is one that it holds, and is named by its context and address (R17). -/
theorem l1Victim_line {core : Nat} {k : CoreSt} {d : Due} (victim : s.l1Victim core k = some d) :
    ∃ c va, d = .l1Line core c va := by
  unfold State.l1Victim at victim
  dsimp only at victim
  repeat' split at victim
  all_goals cases victim
  all_goals exact ⟨_, _, rfl⟩

theorem l1Due_line {d : Due} (l1 : s.l1Due = some d) : ∃ k c va, d = .l1Line k c va := by
  unfold State.l1Due at l1
  obtain ⟨x, _, victim⟩ := List.exists_of_findSome?_eq_some l1
  exact ⟨x.2, l1Victim_line victim⟩

theorem l2Due_line {d : Due} (l2 : s.l2Due = some d) : ∃ l, d = .l2Line l := by
  unfold State.l2Due at l2
  obtain ⟨y, _, victim⟩ := List.exists_of_findSome?_eq_some l2
  obtain ⟨l, _, rfl⟩ := Option.map_eq_some_iff.mp victim
  exact ⟨l, rfl⟩

/-- Within a cycle only a watchdog and a cache that is full are due. -/
theorem due_within_cycle (within : s.cycleOver = false) {d : Due} (due : s.due = some d) :
    (∃ t w n, d = .watchdog t w n) ∨ (∃ k c va, d = .l1Line k c va) ∨ ∃ l, d = .l2Line l := by
  unfold State.due at due
  rw [within, if_neg Bool.false_ne_true, Option.or_none] at due
  simp only [Option.or_eq_some_iff] at due
  rcases due with dog | ⟨_, l1 | ⟨_, l2⟩⟩
  · exact .inl (dogDue_watchdog dog)
  · exact .inr (.inl (l1Due_line l1))
  · exact .inr (.inr (l2Due_line l2))

/-- An arrived set is tested before any other timer (R107, R110). -/
theorem timer_of_joinTimer {d : Due} (join : s.joinTimer = some d) : s.timer = some d ∧ ∃ t w, d = .join t w := by
  refine ⟨by unfold State.timer; rw [join, Option.some_or], ?_⟩
  unfold State.joinTimer at join
  obtain ⟨t, _, waves⟩ := List.exists_of_findSome?_eq_some join
  split at waves
  · obtain ⟨w, _, test⟩ := List.exists_of_findSome?_eq_some waves
    split at test
    · exact ⟨t, w, (Option.some.inj test).symm⟩
    · cases test
  · cases waves

/-! ### The head of the agenda -/

/-- The time at which the datapath of a quarter is free (R119). -/
theorem busyUntil_eq {core q : Nat} {x : Quarter} (here : (s.core core).quarters[q]? = some x) :
    (s.core core).quarters.getD q { busyUntil := 0, latch := { owner := none, entries := [], lastUse := 0 } } = x := by
  rw [Vector.getD, Array.getD_eq_getD_getElem?, Vector.getElem?_toArray, here]
  rfl

/-- A quarter whose datapath is busy counts a stalled cycle (R119, R468). -/
theorem issueQuarter_busy {core q : Nat} {g : GangRef} {x : Quarter} (old : oldest (readyGangs s core q true) = some g)
    (here : (s.core core).quarters[q]? = some x) (busy : s.clk < x.busyUntil) :
    s.issueQuarter core q = .state (s.stall core (s.ctxOf g) 6 1) := by
  unfold State.issueQuarter
  rw [old]
  dsimp only
  rw [busyUntil_eq here]
  exact if_pos busy

/-- A pending trap is taken before the fetch (R414). -/
theorem issueQuarter_traps {core q : Nat} {g : GangRef} {u : State} (old : oldest (readyGangs s core q true) = some g)
    (idle : ∀ x, (s.core core).quarters[q]? = some x → x.busyUntil ≤ s.clk)
    (pending : ({ s with cur := .gang g.t g.w g.base } : State).takePending g = some u) :
    s.issueQuarter core q = .state u := by
  have free : ¬ s.clk < ((s.core core).quarters.getD q
      { busyUntil := 0, latch := { owner := none, entries := [], lastUse := 0 } }).busyUntil := by
    cases h : (s.core core).quarters[q]? with
    | none =>
      rw [Vector.getD, Array.getD_eq_getD_getElem?, Vector.getElem?_toArray, h]
      exact Nat.not_lt_zero _
    | some x => rw [busyUntil_eq h]; exact Nat.not_lt.mpr (idle x h)
  unfold State.issueQuarter
  rw [old]
  dsimp only
  rw [if_neg free, State.issueGang, pending]

/-- Settles O56: what is due (`due_within_cycle`, `timer_of_joinTimer`), what the head of the agenda does (`step_moves`,
`issueQuarter_busy`, `issueQuarter_traps`), and that the work of a cycle moves the clock alone (`State.cycle_schedule`). -/
theorem stepAgenda : Obligations.StepAgenda := by
  intro s rest dt
  have passes := s.passTime_schedule dt
  have cycles := s.cycle_schedule
  rw [State.schedule, Prod.mk.injEq] at passes cycles
  refine ⟨fun d => step_due, fun d => due_of_dogDue, timer_of_nothing_due, fun within d => due_within_cycle within,
    due_eq_timer, fun d => timer_of_joinTimer, fun t w => rfl, fun due => ?agenda,
    passes.1, passes.2, s.passTime_zero, cycles.1, cycles.2⟩
  case agenda =>
    refine ⟨fun empty => ?_, fun a head => ?_, ?_⟩
    · unfold step
      rw [due, empty]
    · unfold step
      rw [due, head]
    intro v
    refine ⟨fun i head => step_moves due head, fun p bar off head => step_moves due head, fun p head => step_moves due head,
      fun p i m head => step_moves due head, fun core q head => ⟨fun none_ => ?_, fun g old => ⟨?_, ?_⟩⟩, ?_⟩
    · rw [step_moves due head, State.move, State.issueQuarter, none_]
      rfl
    · intro x here busy
      rw [step_moves due head, State.move, issueQuarter_busy old here busy]
      rfl
    · intro idle u pending
      rw [step_moves due head, State.move, issueQuarter_traps old idle pending]
      rfl
    · intro core id u head next_
      rw [step_moves due head, State.move, next_]
      rfl

end Sys2Proof.Machine
end

section
/-! The events of a context (O50; R31, R34, R37, R39, R48, R156, R186, R423): what ends its transitions and saves, the errors of
its structures, its ownership, and the invalidation of its translations. -/

namespace Sys2Proof.Machine

variable {s : State} {p : Port} {c : BitVec 6} {v : Word}

/-! ### Transitions -/

theorem bindComplete_pending (created : (s.ctx c).phase = .created) (busy : (s.ctx c).busy = true)
    (stays : (s.ctx c).destroying = false) : exec (.bindComplete c) s = .next
      (if s.bindChecks c = 0 then (attachTables (s.modCtx c fun y => { y with phase := .bound }) c).endCommand c
       else (s.setResult c (s.bindChecks c)).endCommand c) := by
  rw [exec_bindComplete, execBindComplete]
  refine congrArg Host.Outcome.next (if_pos ?_)
  simp [created, busy, stays]

theorem bindComplete_other (h : (s.ctx c).phase ≠ .created ∨ (s.ctx c).busy = false ∨ (s.ctx c).destroying = true) :
    exec (.bindComplete c) s = .next s := by
  rw [exec_bindComplete, execBindComplete]
  refine congrArg Host.Outcome.next (if_neg ?_)
  simp only [Bool.and_eq_true, decide_eq_true_eq, not_and]
  rcases h with h | h | h <;> simp [h]

/-- What resets complete into: the tables are read again, and the context is bound (R37, R55). -/
theorem resetSequenceComplete_eq : exec (.resetSequenceComplete c) s = .next
    (if (s.ctx c).phase = .reset ∧ (s.ctx c).busy = true ∧ s.portsHold c = false then
      let u := (attachTables (s.modCtx c fun y => { y with phase := .bound }) c).modCtx c fun y => { y with busy := false }
      if (s.ctx c).resetQuiet then u else u.raise c 3
     else s) := by
  rw [exec_resetSequenceComplete, execResetSequenceComplete]
  refine congrArg Host.Outcome.next (if_congr ?_ rfl rfl)
  simp only [Bool.and_eq_true, decide_eq_true_eq, Bool.not_eq_true', and_assoc]

/-- A slice without some of its lines. -/
def Slice.dropLines (y : Slice) (gone : Line → Bool) : Slice := { y with lines := y.lines.filter fun l => !gone l }

/-- The lines that a destroyed context takes with it (R39). -/
def State.dropWindow (s u : State) (c : BitVec 6) : State :=
  { s with
    slices := s.slices.map (Slice.dropLines · fun l =>
      (u.ctx c).phase != .created && (u.ctx c).inWindow (l.line * 128) && !s.reachedByPeer c (l.line * 128))
    logWaits := s.logWaits.filter fun l => l.ctx != c }

theorem destroySequenceComplete_eq : exec (.destroySequenceComplete c) s = .next
    (if (s.ctx c).destroying = true ∧ s.portsHold c = false then
      ((s.resetSequence c).dropWindow s c).modCtx c fun _ => Ctx.fresh .destroyed
     else s) := by
  rw [exec_destroySequenceComplete, execDestroySequenceComplete]
  refine congrArg Host.Outcome.next (if_congr ?_ rfl rfl)
  simp only [Bool.and_eq_true, Bool.not_eq_true']

/-! ### Saves -/

theorem deadlinePassed_iff (x : Ctx) (wall : Nat) :
    x.deadlinePassed wall = true ↔ x.quiesceAt + (x.quiesceDrain + x.quiesceSave) * microsecond ≤ wall :=
  decide_eq_true_iff

/-- The resident teams of a context stop at the end of its drain window (R424). -/
def State.stopTeams (s : State) (c : BitVec 6) : State :=
  { s with teams := s.teams.map fun (t : Team) =>
      if t.ctx = c ∧ t.phase = .live then { t with phase := .stopped } else t }

theorem team_stopTeams (i : Nat) : (s.stopTeams c).team i =
    if (s.team i).ctx = c ∧ (s.team i).phase = .live then { s.team i with phase := .stopped } else s.team i := by
  have blank : (if Team.blank.ctx = c ∧ Team.blank.phase = .live then { Team.blank with phase := .stopped } else Team.blank) =
      Team.blank := if_neg fun h => nomatch h.2
  unfold State.team State.stopTeams
  dsimp only
  refine (congrArg (List.getD _ i) blank.symm).trans ?_
  exact List.getD_map (f := fun t : Team => if t.ctx = c ∧ t.phase = .live then { t with phase := .stopped } else t) ..

theorem drainWindowEnd_eq : exec (.drainWindowEnd c) s = .next
    (if (s.ctx c).phase = .quiescing ∧ (s.ctx c).saving = false ∧ (s.ctx c).quiesceMig = false ∧
        s.wall < (s.ctx c).quiesceAt + ((s.ctx c).quiesceDrain + (s.ctx c).quiesceSave) * microsecond ∧
        (s.ctx c).quiesceAt + (s.ctx c).quiesceDrain * microsecond ≤ s.wall then
      (s.stopTeams c).modCtx c fun y => { y with saving := true }
     else s) := by
  rw [exec_drainWindowEnd, execDrainWindowEnd]
  refine congrArg Host.Outcome.next (if_congr ?_ rfl rfl)
  simp only [Bool.and_eq_true, decide_eq_true_eq, Bool.not_eq_true', and_assoc, ← Bool.not_eq_true, deadlinePassed_iff,
    Nat.not_le]

theorem saveDeadline_eq : exec (.saveDeadline c) s = .next
    (if (s.ctx c).phase = .quiescing ∧
        (s.ctx c).quiesceAt + ((s.ctx c).quiesceDrain + (s.ctx c).quiesceSave) * microsecond ≤ s.wall then
      (s.log c (.plain 0x0008 8 0 0)).enterReset c
     else s) := by
  rw [exec_saveDeadline, execSaveDeadline]
  simp only [deadlinePassed_iff]

/-- The save waits for what its teams have outstanding, and is written when nothing is left (R424). -/
theorem saveComplete_eq : exec (.saveComplete c) s = .next
    (if (s.ctx c).phase = .quiescing ∧
        s.wall < (s.ctx c).quiesceAt + ((s.ctx c).quiesceDrain + (s.ctx c).quiesceSave) * microsecond ∧
        ((s.ctx c).saving = true ∨ s.hasResident c = false) then
      let u := (s.stoppedTeams c).foldl (fun s t => s.pumpDrain t s.nextId) s
      if u.savable c = true then
        if (u.beginSave c).savable c = true then ((u.beginSave c).writeSave c).getD (u.beginSave c) else u.beginSave c
      else u
     else s) := by
  rw [exec_saveComplete, execSaveComplete]
  refine congrArg Host.Outcome.next (if_congr ?_ rfl rfl)
  simp only [Bool.not_eq_true', ← Bool.not_eq_true (Ctx.deadlinePassed _ _), deadlinePassed_iff, Nat.not_le]

/-! ### Ownership -/

theorem ownCmd_running (run : s.fw = .running) : s.ownCmd p v =
    if (s.ctx (v.extractLsb' 0 6)).phase ≠ .destroyed then (s.ownResult p 1).tenderNote p 0x0810
    else if s.owner (v.extractLsb' 0 6) ≠ some p ∧ s.owner (v.extractLsb' 0 6) ≠ none then
      (s.ownResult p 2).tenderNote p 0x0810
    else
      match slice v 9 8 with
      | 0 => (s.setOwner (v.extractLsb' 0 6) (some .p0)).ownResult p 0
      | 1 => (s.setOwner (v.extractLsb' 0 6) (some .p1)).ownResult p 0
      | 2 => (s.setOwner (v.extractLsb' 0 6) none).ownResult p 0
      | _ => (s.ownResult p 3).tenderNote p 0x0810 := by
  unfold State.ownCmd
  dsimp only
  rw [if_neg fun h => h run]
  refine if_congr Iff.rfl rfl (if_congr ?_ rfl rfl)
  simp only [Bool.and_eq_true, decide_eq_true_eq]

/-! ### Invalidation -/

section inv
variable (run : s.fw = .running) (own : s.owner c = some p)
include run own

theorem ctxinv_owned : exec (.ctxinv p c v) s = .next (s.startInv c v) := by
  rw [exec_ctxinv, execCtxinv, blockWrite_owned run own]

end inv

/-- What a CTXINV does in every core once nothing of its range is in flight (R186). -/
def State.invCores (s : State) (c : BitVec 6) : State :=
  (upTo 288).foldl (fun s' k => s'.invCore c (invRange (s.ctx c).invSize (s.ctx c).invVa) k) s

theorem ctxinvComplete_eq : exec (.ctxinvComplete c) s = .next
    (if (s.ctx c).invPend && !s.inFlightIn c (invRange (s.ctx c).invSize (s.ctx c).invVa) then
      (s.invCores c).modCtx c fun y => { y with invPend := false }
     else s) := by
  rw [exec_ctxinvComplete, execCtxinvComplete, State.invCores]

/-- The translations of a context in a range are dropped (R156). -/
def CoreSt.dropTlb (k : CoreSt) (c : BitVec 6) (r : Option (Nat × Nat)) : CoreSt :=
  { k with tlb := k.tlb.filter fun e => !(e.ctx == c && inRange r e.base (2 ^ e.lg)) }

theorem startInv_begins (live : (s.ctx c).phase.live = true) (idle : (s.ctx c).invPend = false) : s.startInv c v =
    ({ s with cores := s.cores.map (CoreSt.dropTlb · c (invRange (v.extractLsb' 57 2) (v.extractLsb' 16 41))) } :
      State).modCtx c fun y => { y with invPend := true, invSize := v.extractLsb' 57 2, invVa := v.extractLsb' 16 41 } := by
  unfold State.startInv
  dsimp only
  rw [live, idle]
  exact (if_neg Bool.false_ne_true).trans (if_neg Bool.false_ne_true)

theorem core_map {f : CoreSt → CoreSt} (reset : f CoreSt.reset = CoreSt.reset) (k : Nat) :
    ({ s with cores := s.cores.map f } : State).core k = f (s.core k) := by
  unfold State.core
  split
  · exact Vector.getElem_map ..
  · exact reset.symm

/-! ### Errors -/

theorem Ctx.damage_eq (x : Ctx) (n : Nat) : x.damage n =
    { x with ways := (x.damage n).ways, acc := (x.damage n).acc, mml := (x.damage n).mml, log := (x.damage n).log
             qtab := (x.damage n).qtab, man := (x.damage n).man, lay := (x.damage n).lay, save := (x.damage n).save
             grid := (x.damage n).grid } := rfl

theorem ctx_apart_of_apart {t : State} (h : t.apart = s.apart) (d : BitVec 6) : (t.ctx d).apart = (s.ctx d).apart := by
  have all : t.ctxs.map Ctx.apart = s.ctxs.map Ctx.apart := congrArg State.ctxs h
  have at_ := congrArg (fun x : Vector Ctx 64 => x[d.toNat]'d.isLt) all
  simp only [Vector.getElem_map] at at_
  exact at_

theorem ports_apart_of_apart {t : State} (h : t.apart = s.apart) : t.ports.map PortSt.apart = s.ports.map PortSt.apart :=
  congrArg State.ports h

theorem State.writeBackCores_apart : (s.writeBackCores c).apart = s.apart :=
  foldl_keeps (fun _ _ => writeBackBound_apart) _ _

theorem State.finishQueued_apart : (s.finishQueued c).apart = s.apart :=
  foldl_keeps (fun _ _ => State.performAcc_apart) _ _

theorem wakeAll_ctxs : s.wakeAll.ctxs = s.ctxs := by
  unfold State.wakeAll
  exact foldl_keeps (view := State.ctxs) (f := fun s k => s.wake k) (fun _ _ => rfl) _ _

theorem wakeAll_ports : s.wakeAll.ports = s.ports := by
  unfold State.wakeAll
  exact foldl_keeps (view := State.ports) (f := fun s k => s.wake k) (fun _ _ => rfl) _ _

theorem Ctx.of_apart {x y : Ctx} (h : x.apart = y.apart) : x.phase = y.phase ∧ x.busy = y.busy := by
  have phase := congrArg Ctx.phase h
  have busy := congrArg Ctx.busy h
  exact ⟨phase, busy⟩

/-- What the reset sequence does after the accumulates of the context have completed changes no other context. -/
theorem forgotten_ctx_other {d : BitVec 6} (other : d ≠ c) (owner : Nat → BitVec 6) :
    ((s.forgetCtx c owner).modCtx c Ctx.afterReset).wakeAll.ctx d = s.ctx d := by
  unfold State.ctx
  rw [wakeAll_ctxs]
  exact (State.ctx_modCtx c d Ctx.afterReset).trans (if_neg other)

theorem forgotten_ports (owner : Nat → BitVec 6) :
    ((s.forgetCtx c owner).modCtx c Ctx.afterReset).wakeAll.ports = s.ports := wakeAll_ports

theorem discardTeams_ctx (d : BitVec 6) : (s.discardTeams c).ctx d = s.ctx d := rfl

theorem discardTeams_ports : (s.discardTeams c).ports = s.ports := rfl

/-- The reset sequence of a context leaves what the log does not touch of another one. -/
theorem resetSequence_ctx_other {d : BitVec 6} (other : d ≠ c) : ((s.resetSequence c).ctx d).apart = (s.ctx d).apart := by
  obtain ⟨owner, e⟩ := resetSequence_eq (s := s) (c := c)
  rw [e, forgotten_ctx_other other, ctx_apart_of_apart State.finishQueued_apart, discardTeams_ctx,
    ctx_apart_of_apart State.writeBackCores_apart]

theorem resetSequence_ports : (s.resetSequence c).ports.map PortSt.apart = s.ports.map PortSt.apart := by
  obtain ⟨owner, e⟩ := resetSequence_eq (s := s) (c := c)
  rw [e, forgotten_ports, ports_apart_of_apart State.finishQueued_apart, discardTeams_ports,
    ports_apart_of_apart State.writeBackCores_apart]

theorem enterReset_ctx_other {d : BitVec 6} (other : d ≠ c) : ((s.enterReset c).ctx d).apart = (s.ctx d).apart := by
  unfold State.enterReset
  rw [State.ctx_raise, State.ctx_modCtx, if_neg other]
  exact resetSequence_ctx_other other

theorem enterReset_ports : (s.enterReset c).ports.map PortSt.apart = s.ports.map PortSt.apart := by
  unfold State.enterReset
  rw [ports_apart_of_apart State.raise_apart, State.modCtx_ports, resetSequence_ports]

theorem deviceErrorIn_other {d : BitVec 6} (other : c ≠ d) : ((s.deviceErrorIn d).ctx c).apart = (s.ctx c).apart := by
  unfold State.deviceErrorIn
  split
  · exact (enterReset_ctx_other other).trans (ctx_apart_of_apart State.log_apart c)
  · rfl

theorem deviceErrorIn_ports {d : BitVec 6} : (s.deviceErrorIn d).ports.map PortSt.apart = s.ports.map PortSt.apart := by
  unfold State.deviceErrorIn
  split
  · exact enterReset_ports.trans (ports_apart_of_apart State.log_apart)
  · rfl

/-- A context that lives enters reset (R48). -/
theorem deviceErrorIn_resets (live : (s.ctx c).phase.live = true) :
    ((s.deviceErrorIn c).ctx c).phase = .reset ∧ ((s.deviceErrorIn c).ctx c).busy = true := by
  unfold State.deviceErrorIn
  rw [if_pos live]
  obtain ⟨phase, busy, _⟩ := enterReset_ctx (s := s.log c (.plain 0x0009 8 0 0)) (c := c)
  exact ⟨phase, busy⟩

/-- Where a context does not live, the error of no context changes its phase. -/
theorem deviceErrorIn_quiet {d : BitVec 6} (quiet : (s.ctx c).phase.live = false) :
    ((s.deviceErrorIn d).ctx c).phase = (s.ctx c).phase ∧ ((s.deviceErrorIn d).ctx c).busy = (s.ctx c).busy := by
  by_cases same : c = d
  · subst same
    unfold State.deviceErrorIn
    rw [if_neg (by simp [quiet])]
    exact ⟨rfl, rfl⟩
  · exact Ctx.of_apart (deviceErrorIn_other same)

theorem foldl_deviceErrorIn_quiet (l : List (BitVec 6)) (quiet : (s.ctx c).phase.live = false) :
    ((l.foldl (fun s d => s.deviceErrorIn d) s).ctx c).phase = (s.ctx c).phase ∧
      ((l.foldl (fun s d => s.deviceErrorIn d) s).ctx c).busy = (s.ctx c).busy := by
  induction l generalizing s with
  | nil => exact ⟨rfl, rfl⟩
  | cons d l ih =>
    obtain ⟨phase, busy⟩ := deviceErrorIn_quiet (d := d) quiet
    obtain ⟨phase', busy'⟩ := ih (phase ▸ quiet)
    exact ⟨phase'.trans phase, busy'.trans busy⟩

theorem foldl_deviceErrorIn_resets (l : List (BitVec 6)) (mem : c ∈ l) (live : (s.ctx c).phase.live = true) :
    ((l.foldl (fun s d => s.deviceErrorIn d) s).ctx c).phase = .reset ∧
      ((l.foldl (fun s d => s.deviceErrorIn d) s).ctx c).busy = true := by
  induction l generalizing s with
  | nil => cases mem
  | cons d l ih =>
    rw [List.foldl_cons]
    by_cases same : c = d
    · subst same
      obtain ⟨phase, busy⟩ := deviceErrorIn_resets live
      obtain ⟨phase', busy'⟩ := foldl_deviceErrorIn_quiet (c := c) l (by rw [phase]; rfl)
      exact ⟨phase'.trans phase, busy'.trans busy⟩
    · obtain ⟨phase, _⟩ := Ctx.of_apart (deviceErrorIn_other (s := s) same)
      exact ih ((List.mem_cons.mp mem).resolve_left same) (phase ▸ live)

theorem deviceErrors_portAt {t : State} (h : t.ports.map PortSt.apart = s.ports.map PortSt.apart) (q : Port) :
    (({ t with ports := t.ports.map fun p => { p with deviceErrors := p.deviceErrors + 1 } } : State).portAt q).deviceErrors =
      (s.portAt q).deviceErrors + 1 := by
  have at_ (i : Nat) (hi : i < 2) : t.ports[i].deviceErrors = s.ports[i].deviceErrors := by
    have one := congrArg (fun x : Vector PortSt 2 => x[i]) h
    simp only [Vector.getElem_map] at one
    have count := congrArg PortSt.deviceErrors one
    exact count
  unfold State.portAt
  cases q with
  | p0 => simp only [Vector.getElem_map, at_]
  | p1 => simp only [Vector.getElem_map, at_]

end Sys2Proof.Machine
end

section
/-! The registers of a context (O50; R9, R33, R53, R59, R95, R121, R122, R156, R161, R218, R422, R437, R467, R470): what a host
reads of its control block and its Lantern window, and what a write does. -/

namespace Sys2Proof.Machine

variable {s : State} {p : Port} {c : BitVec 6} {v : Word}

/-! ### Words -/

/-- A field alone in a word. -/
theorem toNat_field {m w k : Nat} (x : BitVec w) (full : m + w + k = 64) :
    (0#m ++ x ++ 0#k).toNat = (zext x <<< k : Word).toNat := by
  have fits : x.toNat * 2 ^ k < 2 ^ 64 := by
    calc x.toNat * 2 ^ k < 2 ^ w * 2 ^ k := Nat.mul_lt_mul_of_pos_right x.isLt (Nat.two_pow_pos k)
      _ = 2 ^ (w + k) := (pow_add 2 w k).symm
      _ ≤ 2 ^ 64 := Nat.pow_le_pow_right (by decide) (by omega)
  have small : x.toNat < 2 ^ 64 := lt_of_le_of_lt (Nat.le_mul_of_pos_right _ (Nat.two_pow_pos k)) fits
  simp only [BitVec.toNat_append, BitVec.toNat_ofNat, Nat.zero_mod, Nat.or_zero, BitVec.toNat_shiftLeft,
    BitVec.toNat_setWidth, Nat.mod_eq_of_lt small, Nat.shiftLeft_eq, Nat.mod_eq_of_lt fits, Nat.zero_mul, Nat.zero_or]

/-- The number whose bits a predicate picks. -/
theorem foldl_bits (f : Nat → Prop) [DecidablePred f] (n : Nat) :
    (upTo n).foldl (fun a b => if f b then a + 2 ^ b else a) 0 < 2 ^ n ∧
      ∀ k, ((upTo n).foldl (fun a b => if f b then a + 2 ^ b else a) 0).testBit k = (decide (k < n) && decide (f k)) := by
  induction n with
  | zero => simp [upTo]
  | succ n ih =>
    obtain ⟨small, bits⟩ := ih
    rw [upTo, List.range_succ, List.foldl_concat]
    generalize e : (List.range n).foldl (fun a b => if f b then a + 2 ^ b else a) 0 = a
    rw [upTo, e] at small bits
    split
    · next yes =>
      have small' : 2 ^ n + a < 2 ^ (n + 1) := by rw [pow_succ]; omega
      rw [Nat.add_comm a]
      refine ⟨small', fun k => ?_⟩
      rcases Nat.lt_trichotomy k n with before | rfl | after
      · rw [Nat.testBit_two_pow_add_gt before, bits]
        simp [before, Nat.lt_succ_of_lt before]
      · rw [Nat.testBit_two_pow_add_eq, bits]
        simp [yes]
      · rw [Nat.testBit_lt_two_pow (small'.trans_le (Nat.pow_le_pow_right (by decide) after))]
        simp [Nat.not_lt.mpr (Nat.succ_le_of_lt after)]
    · next no =>
      refine ⟨small.trans (Nat.pow_lt_pow_right (by decide) n.lt_succ_self), fun k => (bits k).trans ?_⟩
      by_cases last : k = n
      · simp [last, no]
      · have : k < n + 1 ↔ k < n := by omega
        simp [this]

/-! ### Which register a host means -/

section mine
variable (run : s.fw = .running) (own : s.owner c = some p)
include run own

theorem blockRead_owned {off : Nat} {k : State → State × Word} :
    s.blockRead p c off k = (k s).1.replyTo p (.data (leBytes 8 (k s).2.toNat)) := by
  unfold State.blockRead
  rw [if_neg (by simp [run]), if_pos own]

omit run own in
theorem blockOf_offset {base reg : Nat} (legal : reg < 0x1000) (whole : base % 0x40000 = 0) :
    BitVec.ofNat 6 ((base + reg + 0x1000 * c.toNat) / 0x1000) = c ∧ (base + reg + 0x1000 * c.toNat) % 0x1000 = reg := by
  have := c.isLt
  refine ⟨BitVec.eq_of_toNat_eq ?_, ?_⟩
  · rw [BitVec.toNat_ofNat]
    omega
  · omega

/-- A read of a register of a control block (R33). -/
theorem controlRead {reg : Nat} (legal : reg < 0x1000) :
    s.hostRegisterRead p .bar2 (0x400000 + reg + 0x1000 * c.toNat) =
      (s.ctxRead c reg).1.replyTo p (.data (leBytes 8 (s.ctxRead c reg).2.toNat)) := by
  obtain ⟨ctx, off⟩ := blockOf_offset (c := c) (base := 0x400000) legal (by decide)
  have := c.isLt
  unfold State.hostRegisterRead State.blockReply
  dsimp only
  rw [if_neg (by simp [run]), if_pos (by omega), ctx, off, blockRead_owned run own]

/-- A read of a register of a Lantern window (R467). -/
theorem lanternRead_eq {reg : Nat} (legal : reg < 0x1000) :
    s.hostRegisterRead p .bar2 (0x600000 + reg + 0x1000 * c.toNat) =
      (s.lanternRead c reg).1.replyTo p (.data (leBytes 8 (s.lanternRead c reg).2.toNat)) := by
  obtain ⟨ctx, off⟩ := blockOf_offset (c := c) (base := 0x600000) legal (by decide)
  have := c.isLt
  unfold State.hostRegisterRead State.blockReply
  dsimp only
  rw [if_neg (by simp [run]), if_neg (by omega), if_pos (by omega), ctx, off, blockRead_owned run own]

/-- A write of a register of a control block (R33). -/
theorem controlWrite {reg : Nat} (legal : reg < 0x1000) :
    exec (.registerWrite p .bar2 (BitVec.ofNat 24 (0x400000 + 0x1000 * c.toNat + reg)) v) s =
      .next (s.ctxRegister c (fun s => s.runCtx c) reg v) := by
  obtain ⟨ctx, off⟩ := blockOf_offset (c := c) (base := 0x400000) legal (by decide)
  have := c.isLt
  rw [show 0x400000 + 0x1000 * c.toNat + reg = 0x400000 + reg + 0x1000 * c.toNat by omega, exec_registerWrite,
    execRegisterWrite]
  rw [BitVec.toNat_ofNat, Nat.mod_eq_of_lt (by omega)]
  unfold State.blockRegister
  dsimp only
  rw [if_neg (by simp [run]), if_pos (by omega), ctx, off, blockWrite_owned run own]

/-- A read of a control block that changes nothing (R33). -/
theorem controlRead_shows {reg : Nat} {w : Word} (legal : reg < 0x1000) (other : reg ≠ 8)
    (word : ((s.ctx c).registerWord reg).toNat = w.toNat) :
    s.hostRegisterRead p .bar2 (0x400000 + reg + 0x1000 * c.toNat) = s.replyTo p (.data (leBytes 8 w.toNat)) := by
  rw [controlRead run own legal, State.ctxRead, if_neg other]
  exact congrArg (fun n => s.replyTo p (.data (leBytes 8 n))) word

end mine

/-! ### What a control block reads as -/

theorem registerWord_beyond (x : Ctx) {n : Nat} (beyond : 0x0B0 < n) : x.registerWord n = 0 := by
  unfold Ctx.registerWord
  split
  case h_23 => rfl
  all_goals omega

/-- CTXMIG as it reads (R422). -/
theorem registerWord_mig (x : Ctx) : x.registerWord 0x058 = 0#62 ++ BitVec.ofBool x.migPortable ++ BitVec.ofBool x.migDrain := by
  change BitVec.ofNat 64 ((if x.migDrain then 1 else 0) + (if x.migPortable then 2 else 0)) = _
  cases x.migDrain <;> cases x.migPortable <;> rfl

theorem registerWord_man (x : Ctx) : x.registerWord 0x080 = x.man ++ 0#11 ++ x.lgcount := by
  change zext x.man <<< 16 ||| zext x.lgcount = _
  ext i hi
  simp
  grind

theorem registerWord_inv (x : Ctx) : x.registerWord 0x088 = BitVec.ofBool x.invPend ++ 0#63 := by
  change (if x.invPend then 1 <<< 63 else 0 : Word) = _
  cases x.invPend <;> rfl

theorem registerWord_size (x : Ctx) : x.registerWord 0x0A0 = x.svUsed ++ x.svSize := by
  change zext x.svUsed <<< 32 ||| zext x.svSize = _
  ext i hi
  simp
  grind

theorem registerWord_deadline (x : Ctx) : x.registerWord 0x0A8 = 0#32 ++ x.dlSave ++ x.dlDrain := by
  change zext x.dlSave <<< 16 ||| zext x.dlDrain = _
  ext i hi
  simp
  grind

/-- The queues that CTXQSTOP shows (R59). -/
theorem stoppedWord_bit (m b : Nat) (hm : m < 4) (hb : b < 64) : ((s.ctx c).stoppedWord m).getLsbD b =
    decide ((s.queue c (BitVec.ofNat 8 (64 * m + b))).state = .stopped) := by
  have queue : (s.ctx c).queues.toList.getD (64 * m + b) Queue.reset = s.queue c (BitVec.ofNat 8 (64 * m + b)) := by
    have index : 64 * m + b < 256 := by omega
    unfold State.queue
    simp [List.getD_eq_getElem?_getD, index, Nat.mod_eq_of_lt index]
  obtain ⟨small, bits⟩ := foldl_bits (fun b => ((s.ctx c).queues.toList.getD (64 * m + b) Queue.reset).state = .stopped) 64
  unfold Ctx.stoppedWord
  rw [BitVec.getLsbD_ofNat, bits, queue]
  simp [hb]

/-! ### Writes of a control block -/

theorem configWrite_created {f : Ctx → Ctx} (created : (s.ctx c).phase = .created) : s.configWrite c f = s.modCtx c f :=
  if_pos created

theorem configWrite_other {f : Ctx → Ctx} (other : (s.ctx c).phase ≠ .created) : s.configWrite c f = s.setResult c 2 :=
  if_neg other

/-! ### What a Lantern window reads as -/

theorem quadRegister_small {off : Nat} (quad : off ∈ quadRegisters) : off < 0x1000 ∧ off ≠ 0x008 := by
  obtain ⟨i, hi, rfl⟩ := List.mem_map.mp quad
  have := List.mem_range.mp hi
  omega

theorem quadRegister_mem {off : Nat} (low : 0x200 ≤ off) (high : off < 0x380) (whole : off % 8 = 0) : off ∈ quadRegisters :=
  List.mem_map.mpr ⟨(off - 0x200) / 8, List.mem_range.mpr (by omega), by omega⟩

section reads
variable (run : s.fw = .running) (own : s.owner c = some p)
include run own

/-- A register of a Lantern window that does not show quads. -/
theorem lanternRead_plain {reg : Nat} {w : Word} (legal : reg < 0x1000) (other : reg ≠ 8) (plain : reg ∉ quadRegisters)
    (word : s.lanternWord c reg = w) :
    s.hostRegisterRead p .bar2 (0x600000 + reg + 0x1000 * c.toNat) = s.replyTo p (.data (leBytes 8 w.toNat)) := by
  rw [lanternRead_eq run own legal, State.lanternRead, if_neg other, if_neg (by simpa using plain), word]

/-- The first read of a quad's register takes those of all of them (R122). -/
theorem lanternRead_takes {off : Nat} (quad : off ∈ quadRegisters) (fresh : (s.ctx c).lnShot.any (·.1 == off) = false) :
    s.hostRegisterRead p .bar2 (0x600000 + off + 0x1000 * c.toNat) =
      (s.modCtx c fun y => { y with lnShot := (quadRegisters.map fun r => (r, s.lanternWord c r)).filter (·.1 != off) }).replyTo
        p (.data (leBytes 8 (s.lanternWord c off).toNat)) := by
  obtain ⟨legal, other⟩ := quadRegister_small quad
  rw [lanternRead_eq run own legal, State.lanternRead, if_neg other, if_pos (by simpa using quad)]
  simp only [fresh, Bool.false_eq_true, if_false, lookupD_map quad]

/-- A later read returns what was taken then (R122). -/
theorem lanternRead_kept {off : Nat} (quad : off ∈ quadRegisters) (kept : (s.ctx c).lnShot.any (·.1 == off) = true) :
    s.hostRegisterRead p .bar2 (0x600000 + off + 0x1000 * c.toNat) =
      (s.modCtx c fun y => { y with lnShot := (s.ctx c).lnShot.filter (·.1 != off) }).replyTo
        p (.data (leBytes 8 (lookupD (s.ctx c).lnShot off 0).toNat)) := by
  obtain ⟨legal, other⟩ := quadRegister_small quad
  rw [lanternRead_eq run own legal, State.lanternRead, if_neg other, if_pos (by simpa using quad)]
  simp only [kept, if_true]

end reads

theorem lanternWord_select (s : State) (c : BitVec 6) :
    s.lanternWord c 0x000 = 0#48 ++ (s.ctx c).lnSlot ++ (s.ctx c).lnCore := by
  change zext (s.ctx c).lnSlot <<< 9 ||| zext (s.ctx c).lnCore = _
  ext i hi
  simp
  grind

theorem lanternWord_log (s : State) (c : BitVec 6) :
    s.lanternWord c 0x018 = (s.ctx c).lnBase ++ 0#3 ++ (s.ctx c).lnLgseg ++ 0#6 ++ (s.ctx c).lnMode := by
  change zext (s.ctx c).lnBase <<< 16 ||| zext (s.ctx c).lnLgseg <<< 8 ||| zext (s.ctx c).lnMode = _
  ext i hi
  simp
  grind

/-- The registers of a Lantern window from 0x100 on. -/
theorem lanternWord_far {r : Nat} (far : 0x100 ≤ r) (whole : r % 8 = 0) : s.lanternWord c r =
    if r < 0x180 then s.stallCount (s.ctx c).lnCore.toNat c ((r - 0x100) / 8)
    else if 0x200 ≤ r ∧ r < 0x300 then
      s.quadWord c ((r - 0x200) / 16) fun w =>
        if r % 16 = 0 then (w.quad ((r - 0x200) / 16)).statusWord else w.gangWord ((r - 0x200) / 16)
    else if 0x300 ≤ r ∧ r < 0x380 then s.quadWord c ((r - 0x300) / 8) fun w => (w.quad ((r - 0x300) / 8)).joinWord
    else 0 := by
  unfold State.lanternWord
  dsimp only
  split
  · omega
  · omega
  · omega
  · rw [if_neg (by simp [whole])]
    simp only [far, true_and]
    rfl

theorem quadWord_none {n : Nat} {f : Wave → Word} (none_ : s.selected c = none) : s.quadWord c n f = 0 := by
  unfold State.quadWord
  rw [none_]

theorem quadWord_some {n t w : Nat} {f : Wave → Word} (some_ : s.selected c = some (t, w))
    (here : n < (s.wave t w).quads.length) : s.quadWord c n f = f (s.wave t w) := by
  unfold State.quadWord
  rw [some_]
  exact if_pos here

theorem waitCode_le (q : Quad) : q.waitCode ≤ 8 := by
  unfold Quad.waitCode
  split
  · decide
  · split <;> (try split) <;> decide

theorem jreg_lt (q : Quad) : q.jreg < 8 := by
  unfold Quad.jreg
  split
  · next j _ _ => exact j.isLt
  · decide

/-- The status word of a quad (R121): its jreg, its wait code and its pc. -/
theorem statusWord_eq (q : Quad) : q.statusWord =
    BitVec.ofNat 3 q.jreg ++ BitVec.ofNat 4 q.waitCode ++ q.issued.pc.extractLsb' 0 57 := by
  have code : q.waitCode < 16 := (waitCode_le q).trans_lt (by decide)
  have jreg := jreg_lt q
  have top : q.waitCode * 2 ^ 57 + q.jreg * 2 ^ 61 < 2 ^ 64 := by omega
  have fields : (q.jreg <<< 4 ||| q.waitCode) = q.jreg * 2 ^ 4 + q.waitCode := by
    rw [← Nat.shiftLeft_add_eq_or_of_lt code, Nat.shiftLeft_eq]
  unfold Quad.statusWord
  apply BitVec.eq_of_toNat_eq
  rw [BitVec.toNat_or, BitVec.toNat_and, BitVec.toNat_ofNat, Nat.mod_eq_of_lt top,
    show (2 ^ 57 - 1 : Word).toNat = 2 ^ 57 - 1 from by simp, Nat.and_two_pow_sub_one_eq_mod, Nat.or_comm]
  rw [BitVec.toNat_append, BitVec.toNat_append, BitVec.toNat_ofNat, BitVec.toNat_ofNat, Nat.mod_eq_of_lt code,
    Nat.mod_eq_of_lt (show q.jreg < 2 ^ 3 from jreg), fields, BitVec.extractLsb'_toNat, Nat.shiftRight_zero,
    Nat.shiftLeft_eq]
  have places : q.waitCode * 2 ^ 57 + q.jreg * 2 ^ 61 = (q.jreg * 2 ^ 4 + q.waitCode) * 2 ^ 57 := by omega
  rw [places]

/-- The bytes of a number. -/
theorem leNat_byte (l : List Byte) (j : Nat) : leNat l / 256 ^ j % 256 = (l.getD j 0).toNat := by
  induction l generalizing j with
  | nil => simp [leNat]
  | cons b l ih =>
    have := b.isLt
    rw [leNat]
    cases j with
    | zero =>
      rw [pow_zero, Nat.div_one, List.getD_cons_zero]
      omega
    | succ j =>
      rw [pow_succ', ← Nat.div_div_eq_div_mul, List.getD_cons_succ, ← ih j]
      congr 2
      omega

theorem joinWord_byte (q : Quad) (j : Nat) : q.joinWord.extractLsb' (8 * j) 8 = q.joins.toList.getD j 0 := by
  have length : q.joins.toList.length = 8 := by simp
  have small : leNat q.joins.toList < 2 ^ 64 := by
    have := leNat_lt q.joins.toList
    rwa [length] at this
  apply BitVec.eq_of_toNat_eq
  rw [Quad.joinWord, BitVec.extractLsb'_toNat, BitVec.toNat_ofNat, Nat.mod_eq_of_lt small, Nat.shiftRight_eq_div_pow,
    ← leNat_byte _ j, pow_mul]
  rfl

/-! ### Writes of a Lantern window -/

/-- The pc of the next instruction is the one that is written (R121, R122). -/
theorem setNext_pc (q : Quad) (a : Word) : (q.setNext a).issued.pc = a := by
  have shift (d : Word) : ({ q with pc := q.pc + d } : Quad).issued.pc = q.issued.pc + d := by
    unfold Quad.issued
    cases q.wait <;> simp only [Quad.advance] <;> ac_rfl
  unfold Quad.setNext
  rw [shift, add_sub_cancel]

end Sys2Proof.Machine
end

section
/-! The statement of the events and registers of a context (O50). -/

namespace Sys2Proof.Machine

variable {s : State} {c : BitVec 6}

theorem dropWindow_frame (u : State) : let t := (u.dropWindow s c).modCtx c fun _ => Ctx.fresh .destroyed
    t = { u with ctxs := t.ctxs, slices := t.slices, logWaits := u.logWaits.filter fun l => l.ctx != c } ∧
    (∀ n, t.sliceAt n = { u.sliceAt n with lines := (t.sliceAt n).lines }) ∧ t.ctx c = Ctx.fresh .destroyed ∧
    ∀ d, d ≠ c → t.ctx d = u.ctx d := by
  refine ⟨rfl, fun n => ?_, ?_, fun d other => ?_⟩
  · have mapped : ((u.dropWindow s c).modCtx c fun _ => Ctx.fresh .destroyed).sliceAt n =
        if n < 128 then (u.sliceAt n).dropLines _ else u.sliceAt n := sliceAt_map (s := u) (Slice.dropLines · _) n
    rw [mapped]
    split <;> rfl
  · rw [State.ctx_modCtx, if_pos rfl]
  · rw [State.ctx_modCtx, if_neg other]
    rfl

/-- An error of the whole device meets every context (R48). -/
theorem deviceWide_next : ∃ u, u = allCtxs.foldl (fun s d => s.deviceErrorIn d) s ∧ exec .deviceWideUncorrectableError s =
    .next { u with ports := u.ports.map fun p => { p with deviceErrors := p.deviceErrors + 1 } } := ⟨_, rfl, rfl⟩

theorem foldl_deviceErrorIn_ports (l : List (BitVec 6)) :
    (l.foldl (fun s d => s.deviceErrorIn d) s).ports.map PortSt.apart = s.ports.map PortSt.apart :=
  foldl_keeps (view := fun s : State => s.ports.map PortSt.apart) (fun _ _ => deviceErrorIn_ports) l s

/-! ### Reads with an effect -/

section mine
variable {p : Port} (run : s.fw = .running) (own : s.owner c = some p)
include run own

/-- CTXSTATE as it reads; what the log has lost is cleared (R33). -/
theorem ctxstateRead_next : exec (.ctxstateRead p c) s = .next ((s.modCtx c fun y => { y with lost := 0 }).replyTo p
    (.data (leBytes 8 (((s.ctx c).phase.code + (if (s.ctx c).busy then 8 else 0) + (s.ctx c).result.toNat * 2 ^ 8 +
      (s.ctx c).lost.toNat * 2 ^ 16) % 2 ^ 64)))) := by
  have word : (s.ctx c).stateWord.toNat = ((s.ctx c).phase.code + (if (s.ctx c).busy then 8 else 0) +
      (s.ctx c).result.toNat * 2 ^ 8 + (s.ctx c).lost.toNat * 2 ^ 16) % 2 ^ 64 := by
    rw [Ctx.stateWord, BitVec.toNat_ofNat]
    exact congrArg (· % 2 ^ 64) (by omega)
  rw [exec_ctxstateRead, execCtxstateRead, blockRead_owned run own, State.ctxRead, if_pos rfl, ← word]
  rfl

/-- LNSTAT as it reads; the count of refused writes is cleared (R467). -/
theorem lnstatRead_next : exec (.lnstatRead p c) s = .next ((s.modCtx c fun y => { y with lnRefused := 0 }).replyTo p
    (.data (leBytes 8 ((s.ctx c).lnRefused.toNat + (if (s.ctx c).lnOvf then 2 ^ 8 else 0) +
      (if (s.ctx c).lnDiverged then 2 ^ 9 else 0))))) := by
  have word : (s.ctx c).lanternWord.toNat = (s.ctx c).lnRefused.toNat + (if (s.ctx c).lnOvf then 2 ^ 8 else 0) +
      (if (s.ctx c).lnDiverged then 2 ^ 9 else 0) := by
    have small := (s.ctx c).lnRefused.isLt
    rw [Ctx.lanternWord, BitVec.toNat_ofNat]
    refine Nat.mod_eq_of_lt ?_
    split <;> split <;> omega
  rw [exec_lnstatRead, execLnstatRead, blockRead_owned run own, State.lanternRead, if_pos rfl, ← word]
  rfl

/-! ### Writes of a Lantern window -/

theorem lnclr_next (v : Word) : exec (.lnclr p c v) s = .next (s.clearStalls c v) := by
  rw [exec_lnclr, execLnclr, blockWrite_owned run own]

theorem lanternQuadWrite_next (n : BitVec 4) (gm : Bool) (v : Word) :
    exec (.lanternQuadWrite p c n gm v) s = .next (s.lanternQuad c n.toNat gm v) := by
  rw [exec_lanternQuadWrite, execLanternQuadWrite, blockWrite_owned run own]

end mine

theorem clearStalls_set {v : Word} (set : v.getLsbD 0 = true) : s.clearStalls c v =
    { s with stalls := s.stalls.filterMap fun y =>
        if y.core = (s.ctx c).lnCore.toNat ∧ y.ctx = c then
          (if y.clk = s.clk then some { y with count := y.recent } else none)
        else some y } := if_pos set

theorem clearStalls_clear {v : Word} (clear : v.getLsbD 0 = false) : s.clearStalls c v = s :=
  if_neg (ne_true_of_eq_false clear)

/-- The slot that a Lantern window selects does not depend on what it has shown. -/
theorem selected_forget (s : State) (c : BitVec 6) : (s.modCtx c fun y => { y with lnShot := [] }).selected c = s.selected c := by
  unfold State.selected
  rw [State.ctx_modCtx, if_pos rfl]
  rfl

theorem lanternQuad_none {n : Nat} {gm : Bool} {v : Word} (none_ : s.selected c = none) :
    s.lanternQuad c n gm v = (s.modCtx c fun y => { y with lnShot := [] }).refuseLantern c := by
  unfold State.lanternQuad
  rw [← selected_forget] at none_
  simp only [none_]

theorem lanternQuad_some {n t w : Nat} {gm : Bool} {v : Word} (some_ : s.selected c = some (t, w)) :
    s.lanternQuad c n gm v =
      if (s.wave t w).stopped && decide (n < (s.wave t w).quads.length) then
        (s.modCtx c fun y => { y with lnShot := [] }).modQuad t w n fun q =>
          if gm then { q with em := v.extractLsb' 16 4 } else q.setNext ((v.extractLsb' 0 57 : BitVec 57).signExtend 64)
      else (s.modCtx c fun y => { y with lnShot := [] }).refuseLantern c := by
  unfold State.lanternQuad
  rw [← selected_forget] at some_
  simp only [some_]
  rfl

/-! ### Fields at an end of a word -/

theorem toNat_low {m w : Nat} (x : BitVec w) (full : m + w = 64) : (0#m ++ x).toNat = (zext x : Word).toNat := by
  have small : x.toNat < 2 ^ 64 := x.isLt.trans_le (Nat.pow_le_pow_right (by decide) (by omega))
  rw [BitVec.toNat_setWidth, Nat.mod_eq_of_lt small]
  simp [BitVec.toNat_append]

theorem toNat_high {w k : Nat} (x : BitVec w) (full : w + k = 64) : (x ++ 0#k).toNat = (zext x <<< k : Word).toNat := by
  rw [← toNat_field (m := 0) x (by omega)]
  simp [BitVec.toNat_append]

/-! ### The registers that a number picks -/

theorem registerWord_stopped (x : Ctx) {m : Nat} (hm : m < 4) : x.registerWord (0x060 + 8 * m) = x.stoppedWord m := by
  match m, hm with
  | 0, _ | 1, _ | 2, _ | 3, _ => rfl

theorem quadRegister_range {off : Nat} (quad : off ∈ quadRegisters) : 0x200 ≤ off ∧ off < 0x380 := by
  obtain ⟨i, hi, rfl⟩ := List.mem_map.mp quad
  have := List.mem_range.mp hi
  omega

theorem lanternWord_stall {i : Nat} (hi : i < 16) :
    s.lanternWord c (0x100 + 8 * i) = s.stallCount (s.ctx c).lnCore.toNat c i := by
  rw [lanternWord_far (by omega) (by omega), if_pos (by omega), show (0x100 + 8 * i - 0x100) / 8 = i by omega]

theorem lanternWord_status {n : Nat} (hn : n < 16) :
    s.lanternWord c (0x200 + 16 * n) = s.quadWord c n fun w => (w.quad n).statusWord := by
  rw [lanternWord_far (by omega) (by omega), if_neg (by omega), if_pos (by omega),
    show (0x200 + 16 * n - 0x200) / 16 = n by omega]
  simp only [show (0x200 + 16 * n) % 16 = 0 by omega, if_true]

theorem lanternWord_gang {n : Nat} (hn : n < 16) : s.lanternWord c (0x208 + 16 * n) = s.quadWord c n fun w => w.gangWord n := by
  rw [lanternWord_far (by omega) (by omega), if_neg (by omega), if_pos (by omega),
    show (0x208 + 16 * n - 0x200) / 16 = n by omega]
  simp only [show (0x208 + 16 * n) % 16 = 8 by omega]
  rfl

theorem lanternWord_joins {n : Nat} (hn : n < 16) :
    s.lanternWord c (0x300 + 8 * n) = s.quadWord c n fun w => (w.quad n).joinWord := by
  rw [lanternWord_far (by omega) (by omega), if_neg (by omega), if_neg (by omega), if_pos (by omega),
    show (0x300 + 8 * n - 0x300) / 8 = n by omega]

/-- A slot that holds no wave of the context shows 0 (R467). -/
theorem lanternWord_empty (none_ : s.selected c = none) {off : Nat} (quad : off ∈ quadRegisters) : s.lanternWord c off = 0 := by
  obtain ⟨low, high⟩ := quadRegister_range quad
  obtain ⟨i, _, rfl⟩ := List.mem_map.mp quad
  rw [lanternWord_far (by omega) (by omega), if_neg (by omega), quadWord_none none_, quadWord_none none_]
  split
  · rfl
  · exact ite_self _

theorem gangWord_eq (w : Wave) (n : Nat) : w.gangWord n = BitVec.ofNat 64 (w.mapOf n + (w.quad n).em.toNat * 2 ^ 16) := rfl

/-! ### The wait codes (R121) -/

theorem waitCode_exited {q : Quad} (exited : q.exited = true) : q.waitCode = 8 := by
  unfold Quad.waitCode
  exact if_pos exited

/-- The wait code of what a quad waits for, in a quad that has not exited. -/
def QWait.code (handles : Bool) : QWait → Nat
  | .unhandled => 7
  | .header _ _ _ => 1
  | .jwait _ _ => 2
  | .fuse _ _ => 3
  | .counter _ => 4
  | .engineFull => 5
  | .ready | .structural | .codeCheck | .drain _ | .promote _ _ _ | .fetch _ | .interlock _ | .landed _ =>
    if handles then 6 else 0

theorem waitCode_runs {q : Quad} (runs : q.exited = false) {a : QWait} (waits : q.wait = a) :
    q.waitCode = a.code q.inHandler := by
  subst waits
  unfold Quad.waitCode
  refine (if_neg (ne_true_of_eq_false runs)).trans ?_
  cases q.wait <;> rfl

/-! ### The statement -/

/-- Settles O50: transitions (`bindComplete_pending`, `resetSequenceComplete_eq`, `destroySequenceComplete_eq`), saves
(`drainWindowEnd_eq`, `saveComplete_eq`), errors (`foldl_deviceErrorIn_resets`), ownership (`ownCmd_running`), invalidations
(`startInv_begins`, `ctxinvComplete_eq`), and the registers (`controlRead_shows`, `controlWrite`, `lanternRead_takes`,
`statusWord_eq`, `lanternQuad_some`). -/
theorem contextEvents : Obligations.ContextEvents := by
  intro s p c v x put mine
  refine ⟨?bind, ?noBind, ?reset, ?noReset, ?destroy, ?held, ?noDestroy, ?drain, ?noDrain, ?deadline, ?noDeadline, ?saveLate,
    ?save, ?noSave, ?damage, ?device, ?own, ?inv, ?invDead, ?invBusy, ?invEnds, ?registers⟩
  case bind =>
    intro created busy stays ends
    rw [bindComplete_pending created busy stays]
    exact ⟨fun passes => congrArg _ (if_pos passes), fun fails => congrArg _ (if_neg fails)⟩
  case noBind => exact bindComplete_other
  case reset =>
    intro phase busy quiet u
    rw [resetSequenceComplete_eq, if_pos ⟨phase, busy, quiet⟩]
  case noReset =>
    intro other
    rw [resetSequenceComplete_eq, if_neg fun h => other h.1]
  case destroy =>
    intro gone quiet u
    rw [destroySequenceComplete_eq, if_pos ⟨gone, quiet⟩]
    exact ⟨_, rfl, dropWindow_frame u⟩
  case held =>
    intro held
    rw [resetSequenceComplete_eq, destroySequenceComplete_eq, if_neg fun h => by simp [held] at h,
      if_neg fun h => by simp [held] at h]
    exact ⟨rfl, rfl⟩
  case noDestroy =>
    intro stays
    rw [destroySequenceComplete_eq, if_neg fun h => by simp [x] at stays; simp [stays] at h]
  case drain =>
    intro phase idle stays begun early
    rw [drainWindowEnd_eq, if_pos ⟨phase, idle, stays, early, begun⟩]
    refine ⟨_, rfl, rfl, ?_, fun d other => ?_, fun i => team_stopTeams i⟩
    · rw [State.ctx_modCtx, if_pos rfl]
      rfl
    · rw [State.ctx_modCtx, if_neg other]
      rfl
  case noDrain =>
    intro outside
    rw [drainWindowEnd_eq, if_neg]
    rintro ⟨_, _, _, early, begun⟩
    exact outside.elim (fun h => Nat.not_le.mpr h begun) fun h => Nat.not_le.mpr early h
  case deadline =>
    intro phase late
    rw [saveDeadline_eq, if_pos ⟨phase, late⟩]
  case noDeadline =>
    intro early
    rw [saveDeadline_eq, if_neg fun h => Nat.not_le.mpr early h.2]
  case saveLate =>
    intro late
    rw [saveComplete_eq, if_neg fun h => Nat.not_le.mpr h.2.1 late]
  case save =>
    intro u phase early stops s1 ready again written
    rw [saveComplete_eq, if_pos ⟨phase, early, stops⟩]
    dsimp only
    rw [if_pos ready, if_pos again, written]
    rfl
  case noSave =>
    intro other
    rw [saveComplete_eq, if_neg fun h => other h.1]
  case damage => exact ⟨rfl, fun n => x.damage_eq n⟩
  case device =>
    obtain ⟨u, folded, step⟩ := deviceWide_next (s := s)
    refine ⟨_, step, fun q => deviceErrors_portAt ?_ q, fun live => ?_, fun dead => ?_⟩
    · rw [folded, foldl_deviceErrorIn_ports]
    · have resets := foldl_deviceErrorIn_resets allCtxs (mem_allCtxs c) live
      rw [← folded] at resets
      exact resets
    · have quiet := foldl_deviceErrorIn_quiet allCtxs dead
      rw [← folded] at quiet
      exact quiet.1
  case own =>
    intro run d tells no gives
    rw [show exec (.owncmd p v) s = .next (s.ownCmd p v) from rfl, ownCmd_running run]
    refine ⟨fun lives => congrArg _ (if_pos lives), fun free other taken => congrArg _ ?_, fun free mine => ?_⟩
    · exact (if_neg (not_not.mpr free)).trans (if_pos ⟨other, taken⟩)
    · have field : slice v 9 8 = (v.extractLsb' 8 2).toNat := (BitVec.extractLsb'_toNat ..).symm
      rw [if_neg (not_not.mpr free), if_neg fun h => mine.elim h.1 h.2, field]
      refine ⟨fun e => ?_, fun e => ?_, fun e => ?_, fun e => ?_⟩ <;>
      · rw [e]
        rfl
  case inv =>
    intro mine live idle
    rw [ctxinv_owned mine.1 mine.2, startInv_begins live idle]
    refine ⟨_, rfl, rfl, fun d other => ?_, ?_, fun k => core_map rfl k⟩
    · rw [State.ctx_modCtx, if_neg other]
      rfl
    · rw [State.ctx_modCtx, if_pos rfl]
      rfl
  case invDead =>
    intro mine dead
    rw [ctxinv_owned mine.1 mine.2, State.startInv]
    exact congrArg _ (if_pos (by simp [show (s.ctx c).phase.live = false from dead]))
  case invBusy =>
    intro mine live busy
    rw [ctxinv_owned mine.1 mine.2, State.startInv]
    refine congrArg _ ((if_neg ?_).trans (if_pos busy))
    simp [show (s.ctx c).phase.live = true from live]
  case invEnds =>
    intro r
    rw [ctxinvComplete_eq]
    refine ⟨fun pending clear => congrArg _ (if_pos ?_), fun no => congrArg _ (if_neg ?_)⟩
    · exact Bool.and_eq_true_iff.mpr ⟨pending, by rw [clear]; rfl⟩
    · rw [Bool.and_eq_true_iff, not_and, Bool.not_eq_true', ← Bool.not_eq_true, not_not]
      intro pending
      exact no.resolve_left (by rw [show (s.ctx c).invPend = true from pending]; decide)
  case registers =>
    rintro ⟨run, own⟩ reply code writes
    refine ⟨?state, ?stat, ?_⟩
    case state =>
      have phase : x.phase.code = code := by
        simp only [code]
        cases x.phase <;> rfl
      rw [ctxstateRead_next run own, ← phase]
      rfl
    case stat => exact lnstatRead_next run own
    have written {reg : Nat} {f : Ctx → Ctx} (legal : reg < 0x1000)
        (is : s.ctxRegister c (fun s => s.runCtx c) reg v = s.configWrite c f) : writes reg f := by
      have does := (controlWrite (v := v) run own legal).trans (congrArg Host.Outcome.next is)
      exact ⟨fun created => does.trans (congrArg _ (configWrite_created created)),
        fun other => does.trans (congrArg _ (configWrite_other other))⟩
    refine ⟨written (by decide) rfl, written (by decide) rfl, written (by decide) rfl, written (by decide) rfl,
      written (by decide) rfl, written (by decide) rfl, written (by decide) rfl, written (by decide) rfl,
      written (by decide) rfl, written (by decide) rfl, written (by decide) rfl, written (by decide) rfl,
      written (by decide) rfl, written (by decide) rfl, ?reads, ?clears, ?noClear, ?quads, ?next⟩
    case reads =>
      intro reads reg
      have shows {n : Nat} {w : Word} (legal : n < 0x1000) (other : n ≠ 8) (word : (x.registerWord n).toNat = w.toNat) :
          reg n w := controlRead_shows run own legal other word
      have field {n : Nat} {w : Word} (legal : n < 0x1000) (other : n ≠ 8) (word : x.registerWord n = w) : reg n w :=
        shows legal other (congrArg BitVec.toNat word)
      have window {n : Nat} {w : Word} (legal : n < 0x1000) (other : n ≠ 8) (plain : n ∉ quadRegisters)
          (word : s.lanternWord c n = w) : reads s (0x600000 + n) w := lanternRead_plain run own legal other plain word
      refine ⟨field (by decide) (by decide) rfl, shows (by decide) (by decide) (toNat_field x.root rfl).symm,
        shows (by decide) (by decide) (toNat_field x.winLo rfl).symm,
        shows (by decide) (by decide) (toNat_field x.winHi rfl).symm,
        shows (by decide) (by decide) (toNat_low x.tag rfl).symm, shows (by decide) (by decide) (toNat_low x.ways rfl).symm,
        shows (by decide) (by decide) (toNat_low x.acc rfl).symm, shows (by decide) (by decide) (toNat_low x.mml rfl).symm,
        shows (by decide) (by decide) (toNat_high x.log rfl).symm,
        shows (by decide) (by decide) (toNat_high x.qtab rfl).symm,
        field (by decide) (by decide) (registerWord_mig x), ?stopped,
        field (by decide) (by decide) (registerWord_man x), field (by decide) (by decide) (registerWord_inv x),
        shows (by decide) (by decide) (toNat_high x.lay rfl).symm,
        shows (by decide) (by decide) (toNat_high x.save rfl).symm,
        field (by decide) (by decide) (registerWord_size x), field (by decide) (by decide) (registerWord_deadline x),
        shows (by decide) (by decide) (toNat_high x.rwt rfl).symm,
        fun n beyond legal => field legal (by omega) (registerWord_beyond x beyond),
        window (n := 0x000) (by decide) (by decide) (by decide) (lanternWord_select s c),
        window (n := 0x010) (by decide) (by decide) (by decide) rfl,
        window (n := 0x018) (by decide) (by decide) (by decide) (lanternWord_log s c), ?stalls, ?shot⟩
      case stopped =>
        intro m hm
        exact ⟨x.stoppedWord m, field (by omega) (by omega) (registerWord_stopped x hm),
          fun b hb => stoppedWord_bit m b hm hb⟩
      case stalls =>
        intro i hi
        have outside : 0x100 + 8 * i ∉ quadRegisters := fun h => absurd (quadRegister_range h).1 (by omega)
        have shown := window (n := 0x100 + 8 * i) (by omega) (by omega) outside (lanternWord_stall hi)
        rwa [← Nat.add_assoc] at shown
      case shot =>
        intro quadRegs keeps taken
        have takes {off : Nat} {w : Word} (quad : off ∈ quadRegisters) (word : s.lanternWord c off = w) : taken off w :=
          fun fresh => word ▸ lanternRead_takes run own quad fresh
        refine ⟨fun off quad kept => lanternRead_kept run own quad kept, fun none_ i hi => ?_, fun t w n some_ here => ?_⟩
        · have quad : 0x200 + 8 * i ∈ quadRegisters := List.mem_map.mpr ⟨i, List.mem_range.mpr hi, rfl⟩
          exact takes quad (lanternWord_empty none_ quad)
        intro y
        have hn : n.toNat < 16 := n.isLt
        refine ⟨takes (quadRegister_mem (by omega) (by omega) (by omega)) ?_,
          takes (quadRegister_mem (by omega) (by omega) (by omega)) ?_, waitCode_exited, ?codes,
          y.joinWord, takes (quadRegister_mem (by omega) (by omega) (by omega)) ?_, fun j _ => joinWord_byte y j⟩
        · rw [lanternWord_status hn, quadWord_some some_ here]
          exact statusWord_eq y
        · rw [lanternWord_gang hn, quadWord_some some_ here]
          exact gangWord_eq ..
        case codes =>
          intro code
          have codes (a : QWait) (runs : y.exited = false) (waits : y.wait = a) := waitCode_runs runs waits
          exact ⟨fun _ _ _ => codes _, fun _ _ => codes _, fun _ _ => codes _, fun _ => codes _, codes _, codes _,
            fun runs waits => codes .ready runs waits⟩
        · rw [lanternWord_joins hn, quadWord_some some_ here]
          rfl
    case clears =>
      intro set
      rw [lnclr_next run own, clearStalls_set set]
    case noClear =>
      intro clear
      rw [lnclr_next run own, clearStalls_clear clear]
    case quads =>
      intro n gm u refused
      rw [lanternQuadWrite_next run own]
      refine ⟨fun t w some_ => ⟨fun here parked => ?_, fun no => ?_⟩, fun none_ => ?_⟩
      · rw [lanternQuad_some some_, if_pos (by simp [here, parked])]
      · rw [lanternQuad_some some_, if_neg]
        · rfl
        · rw [Bool.and_eq_true, decide_eq_true_eq]
          rintro ⟨parked, here⟩
          exact no.elim (Nat.not_le.mpr here) fun h => by simp [parked] at h
      · rw [lanternQuad_none none_]
        rfl
    case next => exact fun q a => ⟨setNext_pc q a, rfl⟩

end Sys2Proof.Machine
end
